-- ==== Sys2Proof/Word.lean ====
section
/-! DEFINITION. The word types of the node: a CSR, a descriptor word and a register pair are 64-bit words (R19),
memory is addressed by the byte (R4). -/

namespace Sys2Proof

/-- A 64-bit word: a CSR or one word of a descriptor (R19). -/
abbrev Word := BitVec 64

/-- One byte of memory (R4). -/
abbrev Byte := BitVec 8

/-- A 32-bit thread register or FP32 container (R83). -/
abbrev Half := BitVec 32

/-- Bytes in a line, the granule of coherence (00_scope.md, fixed terms). -/
def lineBytes : Nat := 128

/-- A table with few listed entries, as key and value pairs; an unlisted key reads as the table's default. The
operations of Machine/Table.lean write keys rising and list no default. -/
abbrev Tbl (α : Type) := List (Nat × α)

end Sys2Proof
end

