-- ==== Sys2Proof/OpTypes.lean ====
section
/-! DEFINITION. The small closed types that commands take as operands. -/

namespace Sys2Proof

/-- Who makes a CSR or window access (R22, R23): a host core, a management processor, a Gable's group access, a copy
engine, an RDMA request of a front-end port, a Dziger remote access. -/
inductive Sender where
  | core (c : Nat)
  | mp (n : Nat)
  | gable (g : Nat)
  | copyEngine (g : Nat)
  | rdma (port : Nat)
  | dziger (base : Nat)
  deriving DecidableEq, Repr

/-- Integer and logic functions of thread and host-core instructions (R86, R186). -/
inductive IntFn where
  | add | sub | mul | and | or | xor | shl | shr | sar | slt | sltu | min | max
  deriving DecidableEq, Repr

/-- Floating-point functions that are correctly rounded (R86, R191). -/
inductive FltFn where
  | add | sub | mul | fma | div | sqrt | min | max
  deriving DecidableEq, Repr

/-- The slow thread functions the table of scheduler costs names (R86); their results are not stated. -/
inductive SlowFn where
  | reciprocal | squareRoot | exponential | logarithm
  deriving DecidableEq, Repr

/-- A thread arithmetic instruction (R86, R88): the chapter names its classes and gives no encodings. -/
inductive AluOp where
  | int (fn : IntFn) (rd ra rb : Nat)
  | float (fmt : Nat) (fn : FltFn) (rd ra rb rc : Nat)
  | slow (fmt : Nat) (fn : SlowFn) (rd ra : Nat)
  | convert (src dst rm rd ra : Nat)
  | reserved
  deriving DecidableEq, Repr

/-- Branch conditions of a host core. -/
inductive Cond where
  | eq | ne | lt | ge | ltu | geu
  deriving DecidableEq, Repr

/-- How a CSR instruction changes its CSR. -/
inductive CsrFn where
  | write | set | clear
  deriving DecidableEq, Repr

/-- Integer instructions of a host core on two operands, the second a register or an immediate: the base set, M, Zba,
Zbb, Zbs and Zicond of the profile (R186). Those of one operand use the first. -/
inductive RvFn where
  | add | sub | sll | slt | sltu | xor | srl | sra | or | and
  | addw | subw | sllw | srlw | sraw
  | mul | mulh | mulhsu | mulhu | mulw | div | divu | rem | remu | divw | divuw | remw | remuw
  | sh1add | sh2add | sh3add | adduw | sh1adduw | sh2adduw | sh3adduw | slliuw
  | andn | orn | xnor | min | max | minu | maxu | rol | ror | rolw | rorw
  | bclr | bext | binv | bset | czeroEqz | czeroNez
  | clz | ctz | cpop | clzw | ctzw | cpopw | sextb | sexth | zexth | orcb | rev8
  deriving DecidableEq, Repr

/-- Where a CSR instruction takes its operand from: a register, or its 5-bit immediate. -/
inductive CsrSrc where
  | reg (r : Nat)
  | imm (v : Nat)
  deriving DecidableEq, Repr

/-- How a host core compares two floating-point values. -/
inductive FpCmp where
  | eq | lt | le
  deriving DecidableEq, Repr

/-- The second source of a vector instruction: a vector register group, a scalar register, or an immediate. -/
inductive VSrc where
  | vec (r : Nat)
  | x (r : Nat)
  | f (r : Nat)
  | imm (v : Int)
  deriving DecidableEq, Repr

/-- Vector integer functions of two elements of one width (V, Zvbb). -/
inductive VBin where
  | add | sub | rsub | and | or | xor | minu | min | maxu | max | sll | srl | sra | mul | mulh | mulhu | mulhsu
  | divu | div | remu | rem | saddu | sadd | ssubu | ssub | aaddu | aadd | asubu | asub | smul | ssrl | ssra | andn | rol | ror
  deriving DecidableEq, Repr

/-- Vector integer functions of one element (Zvbb). -/
inductive VUna where
  | brev | brev8 | rev8 | clz | ctz | cpop
  deriving DecidableEq, Repr

/-- Widening and narrowing integer functions. -/
inductive VWide where
  | add | addu | sub | subu | mul | mulu | mulsu | sll
  deriving DecidableEq, Repr
inductive VNarrow where
  | srl | sra | clip | clipu
  deriving DecidableEq, Repr

/-- Integer multiply-adds, of one width and widening. -/
inductive VMac where
  | macc | nmsac | madd | nmsub
  deriving DecidableEq, Repr
inductive VWMac where
  | maccu | macc | maccsu | maccus
  deriving DecidableEq, Repr

/-- Integer comparisons and reductions. -/
inductive VCmp where
  | eq | ne | ltu | lt | leu | le | gtu | gt
  deriving DecidableEq, Repr
inductive VRed where
  | sum | and | or | xor | minu | min | maxu | max
  deriving DecidableEq, Repr

/-- Mask functions of two masks, and the set-before-first family. -/
inductive VMask where
  | and | nand | andn | xor | or | nor | orn | xnor
  deriving DecidableEq, Repr
inductive VSet where
  | before | including | only
  deriving DecidableEq, Repr

/-- Vector floating-point functions. -/
inductive VFBin where
  | add | sub | rsub | mul | div | rdiv | min | max | sgnj | sgnjn | sgnjx
  deriving DecidableEq, Repr
inductive VFCmp where
  | eq | ne | lt | le | gt | ge
  deriving DecidableEq, Repr
inductive VFUna where
  | sqrt | rsqrt7 | rec7 | class
  deriving DecidableEq, Repr
inductive VFRed where
  | sum | min | max
  deriving DecidableEq, Repr

/-- Vector conversions: to an integer (truncating or not), from one, between floating-point widths (rounding to odd or
not), and between BF16 and FP32; and the width they keep, double or halve. -/
inductive VCvt where
  | toInt (sgn rtz : Bool)
  | ofInt (sgn : Bool)
  | toFlt (odd : Bool)
  | bf16
  deriving DecidableEq, Repr
inductive VWidth where
  | same | wide | narrow
  deriving DecidableEq, Repr

/-- How a vector load or store forms its addresses. -/
inductive VAddr where
  | unit
  | strided (rs2 : Nat)
  | indexed (vs2 eew : Nat)
  deriving DecidableEq, Repr

/-- AES rounds (Zvkned): final or middle, decryption or encryption, and round zero. -/
inductive AesFn where
  | df | dm | ef | em | z
  deriving DecidableEq, Repr

/-- A vector instruction (R190): the V extension with Zvfh, Zvfbfmin, Zvfbfwma, Zvbb, Zvkned and Zvknhb. -/
inductive VecOp where
  | bin (fn : VBin) (vd vs2 : Nat) (src : VSrc) (masked : Bool)
  | una (fn : VUna) (vd vs2 : Nat) (masked : Bool)
  | ext (sgn : Bool) (k vd vs2 : Nat) (masked : Bool)
  | wide (fn : VWide) (wideA : Bool) (vd vs2 : Nat) (src : VSrc) (masked : Bool)
  | narrow (fn : VNarrow) (vd vs2 : Nat) (src : VSrc) (masked : Bool)
  | mac (fn : VMac) (vd vs2 : Nat) (src : VSrc) (masked : Bool)
  | wmac (fn : VWMac) (vd vs2 : Nat) (src : VSrc) (masked : Bool)
  | adc (sub : Bool) (vd vs2 : Nat) (src : VSrc)
  | madc (sub carry : Bool) (vd vs2 : Nat) (src : VSrc)
  | cmp (fn : VCmp) (vd vs2 : Nat) (src : VSrc) (masked : Bool)
  | merge (vd vs2 : Nat) (src : VSrc)
  | mv (vd : Nat) (src : VSrc)
  | red (fn : VRed) (vd vs2 vs1 : Nat) (masked : Bool)
  | wred (sgn : Bool) (vd vs2 vs1 : Nat) (masked : Bool)
  | mask (fn : VMask) (vd vs2 vs1 : Nat)
  | cpop (rd vs2 : Nat) (masked : Bool)
  | first (rd vs2 : Nat) (masked : Bool)
  | msets (fn : VSet) (vd vs2 : Nat) (masked : Bool)
  | iota (vd vs2 : Nat) (masked : Bool)
  | vid (vd : Nat) (masked : Bool)
  | mvXS (rd vs2 : Nat)
  | mvSX (vd rs1 : Nat)
  | mvFS (rd vs2 : Nat)
  | mvSF (vd rs1 : Nat)
  | slideUp (vd vs2 : Nat) (src : VSrc) (masked : Bool)
  | slideDown (vd vs2 : Nat) (src : VSrc) (masked : Bool)
  | slide1Up (vd vs2 : Nat) (src : VSrc) (masked : Bool)
  | slide1Down (vd vs2 : Nat) (src : VSrc) (masked : Bool)
  | gather (vd vs2 : Nat) (src : VSrc) (index16 masked : Bool)
  | compress (vd vs2 vs1 : Nat)
  | mvWhole (n vd vs2 : Nat)
  | fbin (fn : VFBin) (vd vs2 : Nat) (src : VSrc) (masked : Bool)
  | fwide (fn : FltFn) (wideA : Bool) (vd vs2 : Nat) (src : VSrc) (masked : Bool)
  | fma (negMul negAdd addVd : Bool) (vd vs2 : Nat) (src : VSrc) (masked : Bool)
  | fwma (negMul negAdd bf : Bool) (vd vs2 : Nat) (src : VSrc) (masked : Bool)
  | funa (fn : VFUna) (vd vs2 : Nat) (masked : Bool)
  | fcmp (fn : VFCmp) (vd vs2 : Nat) (src : VSrc) (masked : Bool)
  | fred (fn : VFRed) (vd vs2 vs1 : Nat) (masked : Bool)
  | fwred (vd vs2 vs1 : Nat) (masked : Bool)
  | cvt (c : VCvt) (w : VWidth) (vd vs2 : Nat) (masked : Bool)
  | load (m : VAddr) (eew nf vd rs1 : Nat) (masked faultOnlyFirst : Bool)
  | store (m : VAddr) (eew nf vs rs1 : Nat) (masked : Bool)
  | loadMask (vd rs1 : Nat)
  | storeMask (vs rs1 : Nat)
  | loadWhole (n eew vd rs1 : Nat)
  | storeWhole (n vs rs1 : Nat)
  | aes (fn : AesFn) (scalar : Bool) (vd vs2 : Nat)
  | aesKey (second : Bool) (vd vs2 rnd : Nat)
  | shaMs (vd vs2 vs1 : Nat)
  | shaC (high : Bool) (vd vs2 vs1 : Nat)
  deriving DecidableEq, Repr

/-- A host-core instruction (R186), by kind: those of the RVA23U64 profile and of the extensions that R186 lists. -/
inductive HostOp where
  | op (fn : RvFn) (rd rs1 rs2 : Nat)
  | opImm (fn : RvFn) (rd rs1 : Nat) (imm : Int)
  | lui (rd : Nat) (imm : Int)
  | auipc (rd : Nat) (imm : Int)
  | branch (cond : Cond) (rs1 rs2 : Nat) (off : Int)
  | jal (rd : Nat) (off : Int)
  | jalr (rd rs1 : Nat) (off : Int)
  | load (size : Nat) (sgn : Bool) (rd rs1 : Nat) (off : Int)
  | store (size : Nat) (rs1 rs2 : Nat) (off : Int)
  | fload (size rd rs1 : Nat) (off : Int)
  | fstore (size rs1 rs2 : Nat) (off : Int)
  | lr (size rd rs1 : Nat) (aq rl : Bool)
  | sc (size rd rs1 rs2 : Nat) (aq rl : Bool)
  | amo (func size rd rs1 rs2 : Nat) (aq rl : Bool)
  | fence
  | fenceI
  | hint
  | wfi
  | wrs
  | csr (fn : CsrFn) (num rd : Nat) (src : CsrSrc)
  | ecall
  | ebreak
  | mret
  | sret
  | fp (fmt : Nat) (fn : FltFn) (rm rd rs1 rs2 rs3 : Nat)
  | fma (fmt : Nat) (negMul negAdd : Bool) (rm rd rs1 rs2 rs3 : Nat)
  | fsgnj (fmt kind rd rs1 rs2 : Nat)
  | fcmp (fmt : Nat) (cmp : FpCmp) (rd rs1 rs2 : Nat)
  | fclass (fmt rd rs1 : Nat)
  | fli (fmt rd k : Nat)
  | fround (fmt rm : Nat) (exact : Bool) (rd rs1 : Nat)
  | fcvtMod (rd rs1 : Nat)
  | fminmax (fmt : Nat) (max : Bool) (rd rs1 rs2 : Nat)
  | fcmpQuiet (fmt : Nat) (cmp : FpCmp) (rd rs1 rs2 : Nat)
  | fcvtFF (src dst rm rd rs1 : Nat)
  | fcvtFI (fmt rm width : Nat) (sgn : Bool) (rd rs1 : Nat)
  | fcvtIF (fmt rm width : Nat) (sgn : Bool) (rd rs1 : Nat)
  | fmvXF (fmt rd rs1 : Nat)
  | fmvFX (fmt rd rs1 : Nat)
  | vset (rd rs1 vtype : Nat)
  | vseti (rd avl vtype : Nat)
  | vsetr (rd rs1 rs2 : Nat)
  | vec (op : VecOp)
  | mop (rd : Nat)
  | hypervisor
  | reserved
  deriving DecidableEq, Repr

/-- How an HBM controller classifies a read (R237). -/
inductive HbmRead where
  | clean
  | corrected
  | parity (retries : Nat)
  | uncorrectable
  | writeParity (retries : Nat) -- a write whose data met parity errors (R237)
  deriving DecidableEq, Repr

/-- An error the home meets as it serves a read: a directory entry it cannot read (R222), a near-memory line corrected
or uncorrectable (R250), an Eaves entry that fails its check (R257). -/
inductive ReadFault where
  | none
  | dirEntry
  | nmcCorrected
  | nmcUncorrectable
  | eaves
  deriving DecidableEq, Repr

/-- What a coherence request names, and what reading its directory entry and its line meets: `place` is the line, and of
ATOM the address. -/
structure Target where
  place : Nat
  fault : ReadFault
  deriving DecidableEq, Repr

/-- A resolution of a fault: its FSEQ, and of the faults that joined it in the same FCLK cycle how many (R268, R270). -/
structure Resolution where
  fseq : Nat
  joined : Nat
  deriving DecidableEq, Repr

/-- A bridge frame: its sequence number and its 992 message bits (R282). -/
structure BridgeFrame where
  seq : Nat
  msg : Nat
  deriving DecidableEq, Repr

/-- A write of an enable bit, and whether it comes in the cycle of a fault of the block (R295). -/
structure EnableBit where
  en : Bool
  clash : Bool
  deriving DecidableEq, Repr

/-- What happens to a lane: it loses lock (`errors` is none), it counts symbol errors, or the partner has closed its own
end of it (`far`) (R305, R306). -/
structure LaneEvent where
  lane : Nat
  errors : Option Nat
  far : Bool
  deriving DecidableEq, Repr

/-- A CAST of a Gable's element engine: whether its bucket has room (R24, R140). -/
structure CastTry where
  gable : Nat
  room : Bool
  deriving DecidableEq, Repr

/-- What a received Ethernet frame is (R308). -/
inductive EthKind where
  | dziger
  | ptp
  | pfc
  | roce
  | corud
  | pause
  | other
  deriving DecidableEq, Repr

/-- Where a UDP packet is addressed: its IPv6 address, or its IPv4 address, and its port (R308). -/
structure UdpDest where
  v6 : Bool
  addr : Nat
  port : Nat
  deriving DecidableEq, Repr

/-- What of a PTP message's header decides whether the node takes it (R428): its messageType (IEEE 1588-2019), whether it
is unicast, and whether it carries an authentication TLV. -/
structure PtpHead where
  type : Nat
  unicast : Bool
  auth : Bool
  deriving DecidableEq, Repr

/-- A received frame as the MAC sees it: its destination address, its length and FCS, how the FEC left its codewords
(0 clean, 1 corrected, 2 uncorrectable), its tag, where a UDP packet is addressed, the head of a PTP message, whether it
bears the CE mark and for which QP of the node, and whether the receive buffer has no room for its priority. -/
structure EthFrame where
  kind : EthKind
  da : Nat
  len : Nat
  fcsOk : Bool
  fec : Nat
  tag : Option Nat           -- the 16 bits of its 802.1Q tag, none where untagged (R302)
  dest : UdpDest             -- of a UDP packet
  ptp : PtpHead              -- of a PTP message (EtherType 0x88F7)
  ce : Bool
  qp : Nat
  noRoom : Bool
  deriving DecidableEq, Repr

/-- What a Sync brings (R428): a one-step Sync with the offset that the port measures by it, a two-step Sync, which only its
Follow_Up completes, or that Follow_Up. -/
inductive SyncMsg where
  | oneStep (offset : Int)
  | twoStep (seq : Nat)
  | followUp (seq : Nat) (offset : Int)
  deriving DecidableEq, Repr

/-- What the current limiter of a base die senses on VIN_CORE (R449): a current in amperes; of a release, the highest of the
last 100 µs. -/
structure IccSense where
  base : Nat
  amps : Nat
  deriving DecidableEq, Repr

/-- A Dziger packet (R325): the header's fields and the payload. -/
structure DzPkt where
  ver : Nat
  type : Nat
  tc : Nat
  first : Bool
  ce : Bool
  hops : Nat
  dst : Nat
  src : Nat
  job : Nat
  epoch : Nat
  seq : Nat
  tag : Nat
  addr : Nat
  info : Nat
  data : List Byte
  deriving DecidableEq, Repr

/-- A RoCEv2 request packet that reaches a responder (R312): the QPN it names, its PSN, its operation (0 SEND, 1 SEND with
immediate, 2 WRITE, 3 WRITE with immediate, 4 READ, 5 compare-and-swap, 6 fetch-and-add, others not supported), whether it
is the first and the last packet of its message, the address, key and length that a first packet names, the immediate of a
last one, its data and the atomic operands. -/
structure RocePkt where
  dest : UdpDest
  qpn : Nat
  psn : Nat
  op : Nat
  first : Bool
  last : Bool
  va : Nat
  rkey : Nat
  len : Nat
  imm : Nat
  data : List Byte
  cmp : Nat
  swap : Nat
  deriving DecidableEq, Repr

/-- An answer that reaches a requester QP (R316, R317): an ACK up to a PSN or, with data, one response packet of a READ or
atomic under that PSN; a sequence-error NAK, an RNR NAK, or another NAK. -/
inductive RoceAck where
  | ack (psn : Nat) (data : List Byte)
  | nakSeq (psn : Nat)
  | nakRnr (psn : Nat)
  | nak (psn : Nat)
  deriving DecidableEq, Repr

/-- A structure in which an uncorrectable SRAM error is detected (R117, R222, R392, R405, R406): the shared structures of a
compute die, an accumulator bank of a Gable, its element-engine buffer, a line of a host core's cache, clean or dirty, the
directory entry of a line, an entry of a Ledger slice, or a base die's own logic or mesh. -/
inductive SramPart where
  | cacheTags (die : Nat)
  | tlb (die : Nat)
  | pool (die : Nat)
  | accumulator (gable bank : Nat)
  | elemBuffer (gable : Nat)
  | coreCache (core line : Nat) (dirty : Bool)
  | dirEntry (line : Nat)
  | ledgerEntry (base i : Nat)
  | baseDie (base : Nat)
  deriving DecidableEq, Repr

/-- A requester whose walk ends (R260, the UNIT field of R269); a group's with the instruction word that it presents. -/
inductive Walker where
  | group (gable group word : Nat)
  | fetch (gable group : Nat)
  | copy (gable id : Nat)
  | elem (gable : Nat)
  | list (die : Nat)
  | launch (gable : Nat)
  deriving DecidableEq, Repr

/-- Where a Corud request came from (R466). -/
inductive CorudSrc where
  | mgt (sa : Nat)
  | inband (port sa : Nat)
  | i3c
  | mailbox (base : Nat)
  deriving DecidableEq, Repr

/-- What a boot finds at reset release (R499, R500): BOOT_SEL, a fuse word that fails its check, base dies that fail
self-test or training, stacks lost or failing training, and the four image slots of the flash: management firmware A
and B, host boot image A and B (R503). -/
structure BootIn where
  sel : Nat
  fuseBad : Option Nat
  badDies : Nat
  badStacks : Nat
  flash : List (List Byte)
  deriving DecidableEq, Repr

end Sys2Proof
end

