-- ==== Sys2Proof/Syntax.lean ====
section
/-! DEFINITION. The commands of the block: one constructor per row of the opcode table, each with the operands its rule
names. -/

namespace Sys2Proof

/-- A command (opcode_table.json). -/
inductive Instr where
  /-- CSR_WRITE (R23): A naturally aligned 64-bit store to a CSR that has no row of its own sets its RW fields, clears its W1C bits and sets its W1S bits, serialised at the block. -/
  | csrWrite (src : Sender) (offset size : Nat) (value : Word)
  /-- RC_REGISTER_READ (R8): A read of an RC register returns its value and then clears the field. -/
  | rcRegisterRead (src : Sender) (offset size : Nat)
  /-- MMA (R63): A dense matrix instruction reads RD and its descriptor, runs the decode checks and waits to claim its bank and enter the cell queues. -/
  | mma (gable group : Nat) (word : Nat)
  /-- MMA_SP (R72): A matrix instruction with a 2:4 sparse A operand is checked and queued like MMA. -/
  | mmaSp (gable group : Nat) (word : Nat)
  /-- MMA_QUEUE_ENTER (R63): Once every cell of the gang has a free queue place and the claim can be granted, the bank is claimed and the instruction enters every cell queue in one cycle. -/
  | mmaQueueEnter (gable group : Nat)
  /-- MREL (R64): Releases the named bank of every cell of the gang without output. -/
  | mrel (gable group : Nat) (word : Nat)
  /-- MFENCE (R65): Waits until at most COUNT of the group's matrix instructions are still reading operands. -/
  | mfence (gable group : Nat) (word : Nat)
  /-- MFENCE_SATISFIED (R65): The group resumes once its outstanding operand reads fall to COUNT. -/
  | mfenceSatisfied (gable group : Nat)
  /-- MMA_K_STEP (R75): A cell performs one K-step of the instruction at the head of its queue and adds its fused groups into the bank. -/
  | mmaKStep (gable cell : Nat)
  /-- GUTTER_COPY_START (R120): A FULL bank that finds a free Gutter entry and holds fewer than four begins copying its part. -/
  | gutterCopyStart (gable cell bank : Nat)
  /-- GUTTER_COPY_DONE (R119): The last beat of a part's copy makes the entry visible to the element engine and returns the bank to FREE. -/
  | gutterCopyDone (gable cell : Nat)
  /-- GROUP_LAUNCH (R84): A waiting launch is admitted to the scheduler with the most free group-registers and its registers are zeroed. -/
  | groupLaunch (gable : Nat)
  /-- GABLE_ALU_INSTRUCTION (R86): An integer, logic, floating-point or conversion thread instruction is issued and performed for the active lanes. -/
  | gableAluInstruction (gable group : Nat) (op : AluOp)
  /-- BNZ (R91): Lanes whose RS is nonzero branch, splitting the running path when lanes disagree. -/
  | bnz (gable group : Nat) (word : Nat)
  /-- BZ (R91): Lanes whose RS is zero branch, splitting the running path when lanes disagree. -/
  | bz (gable group : Nat) (word : Nat)
  /-- JMP (R88): Every active lane branches. -/
  | jmp (gable group : Nat) (word : Nat)
  /-- YIELD (R92): The group rotates to the next pending path above this instruction. -/
  | yield (gable group : Nat) (word : Nat)
  /-- EXIT (R88): The active lanes end; the group ends when no thread remains. -/
  | exit (gable group : Nat) (word : Nat)
  /-- LD (R97): A group load translates every touched page and issues one request per distinct line. -/
  | ld (gable group : Nat) (word : Nat)
  /-- ST (R97): A group store translates every touched page and issues one masked request per distinct line. -/
  | st (gable group : Nat) (word : Nat)
  /-- LD_DATA_RETURN (R97): Load data reaches the memory unit and is written to RD, clearing its wait. -/
  | ldDataReturn (gable group load : Nat)
  /-- LDS (R99): A scratch load is range-checked and performed in as many rounds as its bank conflicts need. -/
  | lds (gable group : Nat) (word : Nat)
  /-- STS (R99): A scratch store is range-checked and performed in as many rounds as its bank conflicts need. -/
  | sts (gable group : Nat) (word : Nat)
  /-- COPY (R106): Reads and checks a copy descriptor and queues the copy, waiting while the queue is full. -/
  | copy (gable group : Nat) (word : Nat)
  /-- COPY_START (R107): The copy engine starts the next queued copy when fewer than four are in flight, translating its memory side first. -/
  | copyStart (gable : Nat)
  /-- COPY_BYTES_LAND (R110): Bytes of a copy land at the destination and advance its arrival counter. -/
  | copyBytesLand (gable copy : Nat) (first count : Nat)
  /-- CNTSET (R111): Sets an arrival counter to the value of RS. -/
  | cntset (gable group : Nat) (word : Nat)
  /-- CNTADD (R111): Adds RS to an arrival counter. -/
  | cntadd (gable group : Nat) (word : Nat)
  /-- WAITCNT (R111): Waits until an arrival counter reaches the target, optionally consuming it. -/
  | waitcnt (gable group : Nat) (word : Nat)
  /-- WAITCNT_SATISFIED (R111): A waiting group's counter reaches its target; a CONSUME wait subtracts the target in the same step. -/
  | waitcntSatisfied (gable group : Nat)
  /-- ARRIVAL_CNT_WRITE (R111): A software write of ARRIVAL_CNT sets the counter, combined with same-cycle arrivals. -/
  | arrivalCntWrite (gable cnt : Nat) (value : Word)
  /-- GROUP_STALL (R94): The stall watchdog of a divergent group expires and the group stops at its next boundary. -/
  | groupStall (gable group : Nat)
  /-- GROUP_RESUME (R114): GROUP_CTRL RESUME reissues the faulting instruction of a stopped group. -/
  | groupResume (gable group : Nat)
  /-- GROUP_KILL (R114): GROUP_CTRL KILL ends the group, stopping it first if it runs. -/
  | groupKill (gable group : Nat)
  /-- GABLE_ENABLE_WRITE (R116): A write of GABLE_CTRL.EN moves the Gable through the common states. -/
  | gableEnableWrite (gable : Nat) (value : Word)
  /-- GABLE_DISABLE_DONE (R116): A disabling Gable's groups, copies and Gutter have drained and it becomes OFF. -/
  | gableDisableDone (gable : Nat)
  /-- GABLE_ENABLE_DONE (R116): ENABLING ends and the Gable is ON and admits groups. -/
  | gableEnableDone (gable : Nat)
  /-- GABLE_SRAM_UNCORRECTED (R117): An uncorrectable register-file or scratch error moves the Gable to FAULTED and ends its groups. -/
  | gableSramUncorrected (gable : Nat)
  /-- SCRATCH_WINDOW_ACCESS (R102): A host-core or management load or store reaches a Gable's scratch window. -/
  | scratchWindowAccess (sender : Sender) (addr size : Nat) (store : Bool) (value : Word)
  /-- ELEM_RUN_START (R122): The idle element engine starts the oldest ready Gutter entry, checks the program and loads its state. -/
  | elemRunStart (gable : Nat)
  /-- ELEM_END (R123): END ends the run and frees its entries. -/
  | elemEnd (gable : Nat)
  /-- ELEM_ADD (R131): Adds A and B at every position. -/
  | elemAdd (gable : Nat)
  /-- ELEM_SUB (R131): Subtracts B from A at every position. -/
  | elemSub (gable : Nat)
  /-- ELEM_MUL (R131): Multiplies A and B at every position. -/
  | elemMul (gable : Nat)
  /-- ELEM_FMA (R131): Forms A × B + C with one rounding. -/
  | elemFma (gable : Nat)
  /-- ELEM_MUL3 (R131): Forms A × B × C exactly with one rounding. -/
  | elemMul3 (gable : Nat)
  /-- ELEM_MIN (R131): Takes minimumNumber of A and B. -/
  | elemMin (gable : Nat)
  /-- ELEM_MAX (R131): Takes maximumNumber of A and B. -/
  | elemMax (gable : Nat)
  /-- ELEM_DIV (R131): Divides A by B, correctly rounded. -/
  | elemDiv (gable : Nat)
  /-- ELEM_FN (R133): Applies the function selected by X to A. -/
  | elemFn (gable : Nat)
  /-- ELEM_SEL (R131): Selects B where A is nonzero, else C. -/
  | elemSel (gable : Nat)
  /-- ELEM_CMP (R131): Writes 1 where the relation of A and B holds. -/
  | elemCmp (gable : Nat)
  /-- ELEM_AND (R131): Bitwise AND of the element bits. -/
  | elemAnd (gable : Nat)
  /-- ELEM_OR (R131): Bitwise OR of the element bits. -/
  | elemOr (gable : Nat)
  /-- ELEM_XOR (R131): Bitwise XOR of the element bits. -/
  | elemXor (gable : Nat)
  /-- ELEM_SHL (R131): Shifts INT32 elements left. -/
  | elemShl (gable : Nat)
  /-- ELEM_SHR (R131): Shifts INT32 elements right, logical or arithmetic. -/
  | elemShr (gable : Nat)
  /-- ELEM_CVT (R131): Converts A to the format of the operand format word. -/
  | elemCvt (gable : Nat)
  /-- ELEM_RED (R133): Reduces groups along a row or column and writes the result at every position. -/
  | elemRed (gable : Nat)
  /-- ELEM_PERM (R138): Permutes A by indices in B, zeroing out-of-range indices. -/
  | elemPerm (gable : Nat)
  /-- ELEM_SETVL (R131): Sets VLN or VLM. -/
  | elemSetvl (gable : Nat)
  /-- ELEM_HAD (R139): Applies a signed Walsh–Hadamard rotation in blocks. -/
  | elemHad (gable : Nat)
  /-- ELEM_MSK (R131): Sets MASK to the valid region, optionally ANDed with A nonzero. -/
  | elemMsk (gable : Nat)
  /-- ELEM_SOP (R131): Performs a 64-bit scalar operation on S registers. -/
  | elemSop (gable : Nat)
  /-- ELEM_SKIP (R131): Skips the next instructions depending on a scalar test. -/
  | elemSkip (gable : Nat)
  /-- ELEM_LD (R135): Loads a scalar, vector or tile from scratch or memory. -/
  | elemLd (gable : Nat)
  /-- ELEM_SCALE_LOAD (R156): Loads scale records, checks their tags and spreads each SCALE over its block. -/
  | elemScaleLoad (gable : Nat)
  /-- ELEM_ST (R135): Stores a tile with conversion and packing. -/
  | elemSt (gable : Nat)
  /-- ELEM_STSC (R155): Writes block or group scale records from the block's first position. -/
  | elemStsc (gable : Nat)
  /-- ELEM_CAST (R140): Converts the valid region and delivers it to a Shingle bucket, waiting while the bucket has no space. -/
  | elemCast (cast : CastTry)
  /-- ELEM_SIG (R141): After earlier stores and casts are visible or accepted, adds S[B] to an arrival counter. -/
  | elemSig (gable : Nat)
  /-- ERKEY (R127): Sets the group's rounding key. -/
  | erkey (gable group : Nat) (word : Nat)
  /-- EPLD (R127): Loads a 640-byte program slot image from scratch. -/
  | epld (gable group : Nat) (word : Nat)
  /-- ELEM_SLOT_WRITE (R126): A store writes one word of an element program slot. -/
  | elemSlotWrite (gable slot index : Nat) (value : Word)
  /-- TDARG (R166): Writes a word of the group's launch block into RD of every active lane. -/
  | tdarg (gable group : Nat) (word : Nat)
  /-- TS_LIST_ADDR_WRITE (R164): Records the list address for the writing agent. -/
  | tsListAddrWrite (die agent : Nat) (value : Word)
  /-- TS_LIST_GO_WRITE (R164): Submits a tile list of the given count, or discards it and sets LIST_OVF when 16 lists are held. -/
  | tsListGoWrite (die agent : Nat) (value : Word)
  /-- TILE_DESC_FETCH (R163): The scheduler fetches the next descriptor into a free pool entry, checks it and places it in a local queue. -/
  | tileDescFetch (die : Nat)
  /-- TILE_LAUNCH (R165): A Gable launches its oldest ready descriptor as a group, splitting it when R173 allows. -/
  | tileLaunch (gable : Nat)
  /-- TILE_STEAL (R170): An idle Gable steals a descriptor within its die, through its broker or from other base dies. -/
  | tileSteal (gable : Nat)
  /-- BROKER_STEAL_REQUEST (R171): A victim die or broker answers a steal request with up to BATCH descriptors. -/
  | brokerStealRequest (die : Nat) (gable : Nat)
  /-- TILE_COMPLETE (R169): Once a tile's groups, runs and stores are done, the scheduler adds SIG_INC to its counter. -/
  | tileComplete (die tile : Nat)
  /-- DEP_CNT_WRITE (R168): A software write sets a dependency counter and makes waiting descriptors ready. -/
  | depCntWrite (counter : Nat) (value : Word)
  /-- TS_ENABLE_WRITE (R174): A write of TS_CTRL.EN moves the scheduler through the common states. -/
  | tsEnableWrite (die : Nat) (value : Word)
  /-- TS_DISABLE_DONE (R174): No tile of the disabling scheduler remains in progress and it becomes OFF. -/
  | tsDisableDone (die : Nat)
  /-- SEQ_ENTRY_STAGE_WRITE (R177): A store to word 1–3 of a sequence entry is staged. -/
  | seqEntryStageWrite (seq index : Nat) (value : Word)
  /-- SEQ_ENTRY_COMMIT (R177): A store to word 0 commits all four words, or is refused and sets REJECT. -/
  | seqEntryCommit (seq : Nat) (value : Word)
  /-- LAYOUT_BATCH_WRITE (R178): A store to a layout or batch register writes all four copies. -/
  | layoutBatchWrite (addr : Nat) (value : Word)
  /-- BROKER_ENABLE_WRITE (R184): A write of BROKER_CTRL.EN moves the steal broker through the common states. -/
  | brokerEnableWrite (base : Nat) (value : Word)
  /-- KVG (R179): Checks a gather descriptor and queues the gather as a copy. -/
  | kvg (gable group : Nat) (word : Nat)
  /-- KVG_START (R180): The gather leaves the copy queue, reads its batch slot and sequence entry and copies rows or zeros. -/
  | kvgStart (gable : Nat)
  /-- HOST_CORE_INSTRUCTION (R186): A host core executes a RISC-V instruction under RVA23U64 and its extensions. -/
  | hostCoreInstruction (core len : Nat) (ins : HostOp)
  /-- SATP_WRITE (R187): A write of satp accepts Bare, Sv48 or Sv57 and ignores other modes. -/
  | satpWrite (core : Nat) (value : Word)
  /-- CBO_CLEAN (R188): Cleans the whole line that holds the named block. -/
  | cboClean (core va : Nat)
  /-- CBO_FLUSH (R188): Flushes the whole line that holds the named block. -/
  | cboFlush (core va : Nat)
  /-- CBO_INVAL (R188): Acts as CBO.FLUSH of the whole line. -/
  | cboInval (core va : Nat)
  /-- CBO_ZERO (R188): Writes zero to the named 64 bytes. -/
  | cboZero (core va : Nat)
  /-- SFENCE_VMA (R193): Invalidates the executing core's own translations only. -/
  | sfenceVma (core : Nat) (va asid : Option Nat)
  /-- TIMER_INTERRUPT (R197): mtime reaches a core's compare value and its timer interrupt becomes pending. -/
  | timerInterrupt (core : Nat)
  /-- IMSIC_SETEIPNUM_WRITE (R198): A store sets the named identity pending in an interrupt file. -/
  | imsicSeteipnumWrite (core : Nat) (mlevel : Bool) (value : Word)
  /-- APLIC_REGISTER_WRITE (R199): A store to an APLIC domain register configures sources, targets or delegation. -/
  | aplicRegisterWrite (base : Nat) (mdomain : Bool) (offset : Nat) (value : Word)
  /-- APLIC_SOURCE_EVENT (R200): A unit's event sets an APLIC source pending and delivers an MSI. -/
  | aplicSourceEvent (base source : Nat)
  /-- GLAUNCH_WRITE (R202): Starts a direct launch by fetching the launch block, or is discarded with DROP while one is pending. -/
  | glaunchWrite (gable : Nat) (value : Word)
  /-- GLAUNCH_FETCH_DONE (R201): The fetched launch block is checked and held until the Gable can take the group. -/
  | glaunchFetchDone (gable : Nat)
  /-- DEP_WATCH_WRITE (R203): Arms or disarms a dependency watch and evaluates its condition. -/
  | depWatchWrite (die watch : Nat) (value : Word)
  /-- DEP_WATCH_FIRE (R203): A watch's counter reaches its threshold; it sends its MSI and clears EN. -/
  | depWatchFire (die watch : Nat)
  /-- RDS (R212): The home resolves a read-to-share request by directory state. -/
  | rds (die line : Nat) (fault : ReadFault)
  /-- RDX (R212): The home resolves a read-for-ownership request. -/
  | rdx (die line : Nat) (fault : ReadFault)
  /-- UPG (R215): The home resolves an upgrade, treating it as RdX when the sender no longer holds the line. -/
  | upg (die : Nat) (line : Target)
  /-- WBD (R214): The home takes an eviction with dirty data. -/
  | wbd (die : Nat) (line : Target)
  /-- EVC (R214): The home takes a clean eviction. -/
  | evc (die : Nat) (line : Target)
  /-- CLN (R212): The home has dirty data written back while copies stay. -/
  | cln (agent : Nat) (line : Target)
  /-- FLS (R212): The home writes back dirty data and invalidates all copies. -/
  | fls (agent : Nat) (line : Target)
  /-- RDONCE (R217): The home returns the current value to a non-caching agent without changing holders. -/
  | rdonce (agent line : Nat) (fault : ReadFault)
  /-- WRLINE (R212): The home writes a whole line for a non-caching agent after invalidating copies. -/
  | wrline (agent : Nat) (line : Target) (data : List Byte) (poison : Bool)
  /-- WRPART (R212): The home merges masked bytes for a non-caching agent. -/
  | wrpart (agent : Nat) (line : Target) (data : List (Nat × Byte)) (poison : Bool)
  /-- ATOM (R218): The home performs an atomic after invalidating every copy. -/
  | atom (agent : Nat) (addr : Target) (size func arg cmp : Nat)
  /-- SNPS (R209): A holder supplies data for sharing and changes state. -/
  | snps (die line : Nat)
  /-- SNPX (R209): A holder supplies data and invalidates. -/
  | snpx (die line : Nat)
  /-- SNPRD (R209): A holder supplies a copy and keeps its state. -/
  | snprd (die line : Nat)
  /-- SNPCLN (R209): A holder returns dirty data to the home and keeps a clean copy. -/
  | snpcln (die line : Nat)
  /-- SNPRCL (R209): A holder returns dirty data to the home and invalidates. -/
  | snprcl (die line : Nat)
  /-- SNPINV (R209): A holder invalidates without supplying data. -/
  | snpinv (die line : Nat)
  /-- COHERENCE_RESPONSE (R213): A caching requester collects data, Acks and Cmp, takes the granted state and sends CmpAck. -/
  | coherenceResponse (die line : Nat)
  /-- CMPACK (R213): CmpAck ends the line's transaction at the home and the next queued request starts. -/
  | cmpack (die line : Nat)
  /-- SNOOP_TIMEOUT (R221): A die cache fails to answer a snoop in time; the home records it and asks for a fence. -/
  | snoopTimeout (die line : Nat)
  /-- FENCE_SCAN_DONE (R220): The directory slice finishes removing a fenced die from its entries. -/
  | fenceScanDone (base : Nat)
  /-- AMO (R227): A Gable atomic performs each lane's operation in M at the die cache. -/
  | amo (gable group : Nat) (word : Nat)
  /-- GABLE_FENCE (R228): A Gable FENCE orders the group's accesses and waits for visibility. -/
  | gableFence (gable group : Nat) (word : Nat)
  /-- HBM_READ_COMPLETE (R237): An HBM read returns and is classified clean, corrected, parity-retried or uncorrectable. -/
  | hbmReadComplete (base line : Nat) (result : HbmRead)
  /-- PATROL_SCRUB (R239): The patrol reads the next line of its stack and corrects or poisons it. -/
  | patrolScrub (base line : Nat) (result : HbmRead)
  /-- HBM_STACK_LOST (R257): A stack stops answering or fails training and is fenced at the next reset. -/
  | hbmStackLost (stack : Nat)
  /-- PREFETCH_RETURN (R249): A prefetched line enters the Transom, or is discarded after a write to its line. -/
  | prefetchReturn (base line : Nat)
  /-- NMC_DIE_LOST (R251): The near-memory die fails and the cache goes FAULTED. -/
  | nmcDieLost (base : Nat)
  /-- NMC_ENABLE_WRITE (R255): A write of NMC_CTRL.EN moves the cache through the common states. -/
  | nmcEnableWrite (base : Nat) (value : Word)
  /-- NMC_INV_WRITE (R254): INV starts an invalidation in OFF or FAULTED and is ignored otherwise. -/
  | nmcInvWrite (base : Nat) (value : Word)
  /-- NMC_WRITEBACK_DONE (R252): The last dirty line is written and the disabling cache is OFF. -/
  | nmcWritebackDone (base : Nat)
  /-- NMC_INV_DONE (R254): The invalidation completes and clears STALE_SINCE_DISABLE. -/
  | nmcInvDone (base : Nat)
  /-- NMC_SEED_WRITE (R245): A write of NMC_SEED reloads the replacement generator. -/
  | nmcSeedWrite (base : Nat) (value : Word)
  /-- STU_SATP_WRITE (R259): Sets the node-wide root and mode and acts as a shootdown of all translations. -/
  | stuSatpWrite (value : Word)
  /-- STU_WALK_COMPLETE (R261): A page walk ends at a valid leaf or a fault cause, filling caches or queuing a fault. -/
  | stuWalkComplete (who : Walker) (va : Nat) (acc : Nat)
  /-- FAULT_RECORD_WRITE (R269): A fault record is written to the ring and FQ_TAIL advances, or it is held when the ring is full. -/
  | faultRecordWrite (base : Nat)
  /-- FQ_HEAD_WRITE (R269): Software advances the consumer index and freed space lets held records enter. -/
  | fqHeadWrite (base : Nat) (value : Word)
  /-- FQ_BASE_WRITE (R277): Sets the fault ring, raising FQ_CONFIG_INVALID for a bad ring. -/
  | fqBaseWrite (base : Nat) (value : Word)
  /-- STU_RESOLVE_RETRY (R270): RETRY replays every waiter of the FSEQ. -/
  | stuResolveRetry (fseq : Resolution)
  /-- STU_RESOLVE_ABORT (R270): ABORT ends every waiter with TRANSLATION_ABORTED. -/
  | stuResolveAbort (fseq : Resolution)
  /-- STU_MIGRATE_WRITE (R272): Queues a migration descriptor, or discards it and sets MIG_OVF. -/
  | stuMigrateWrite (base : Nat) (value : Word)
  /-- MIGRATION_COMPLETE (R273): The mover finishes a migration's PTE swaps and copy and writes its completion word. -/
  | migrationComplete (base : Nat)
  /-- STU_SHOOT_RANGE (R274): Requests a shootdown of translations in a range. -/
  | stuShootRange (base : Nat) (value : Word)
  /-- STU_SHOOT_ALL (R274): Requests a shootdown of all translations. -/
  | stuShootAll (base : Nat) (value : Word)
  /-- SHOOTDOWN_COMPLETE (R275): Every overlapping translation is invalidated and drained and DONE advances. -/
  | shootdownComplete (base : Nat)
  /-- SHOOTDOWN_STALLED (R275): A shootdown exceeds SHOOT_TO and one record names the holder. -/
  | shootdownStalled (base : Nat)
  /-- STU_CNT_CTRL_WRITE (R276): Enables access counting and sets HOT_THR. -/
  | stuCntCtrlWrite (value : Word)
  /-- STU_CNT_CLEAR (R276): CLEAR empties the access counter table. -/
  | stuCntClear (value : Word)
  /-- ACCESS_COUNT_BATCH (R276): Forwarded counts reach a slice and a page reaching HOT_THR writes a HOT record. -/
  | accessCountBatch (die page shift : Nat)
  /-- BUNDLE_FRAME_RECEIVE (R282): A bridge frame is CRC-checked and delivered, or answered by a NAK. -/
  | bundleFrameReceive (edge dir bundle : Nat) (frame : BridgeFrame) (crcOk : Bool)
  /-- BUNDLE_NAK_RECEIVE (R282): A NAK makes the sender replay from the failed frame. -/
  | bundleNakReceive (edge dir bundle : Nat)
  /-- WIRE_TEST_START (R285): CRC failures or repeated replays start a PRBS wire test of a bundle direction. -/
  | wireTestStart (edge dir bundle : Nat)
  /-- WIRE_TEST_END (R286): The wire test ends and the Shutter spares, narrows or closes the bundle and retrains it. -/
  | wireTestEnd (edge dir bundle : Nat) (errors : List (Nat × Nat))
  /-- ROUTE_SWITCH_DONE (R291): Messages on the old path drain and injection moves to the new path; EPOCH advances. -/
  | routeSwitchDone
  /-- EDGE_ENABLE_WRITE (R296): A write of EDGE_CTRL.EN moves the edge through the common states, or is refused. -/
  | edgeEnableWrite (edge : Nat) (value : Word)
  /-- EDGE_STEP_DONE (R296): An edge's ENABLING or DISABLING ends. -/
  | edgeStepDone (edge : Nat)
  /-- COMMON_ENABLE_WRITE (R294): A write of EN to a block without its own row moves it through the common states. -/
  | commonEnableWrite (offset : Nat) (en : EnableBit)
  /-- PORT_ENABLE_WRITE (R303): A write of PORT_CTRL.EN moves a port through the common states. -/
  | portEnableWrite (port : Nat) (value : Word)
  /-- PORT_STEP_DONE (R303): A port's ENABLING or DISABLING ends. -/
  | portStepDone (port : Nat)
  /-- PORT_SIGNAL_DETECT (R304): Signal on every used lane starts link training. -/
  | portSignalDetect (port : Nat)
  /-- PORT_LINK_UP (R304): Training completes and LINK becomes 1. -/
  | portLinkUp (port ms : Nat)
  /-- PORT_TRAIN_TIMEOUT (R304): Training overruns its limit and restarts. -/
  | portTrainTimeout (port : Nat)
  /-- PORT_DOWN (R321): Loss of signal, alignment or a remote fault drops LINK and restarts training. -/
  | portDown (port cause : Nat)
  /-- LANE_FAIL (R305): A lane loses lock or exceeds its symbol-error threshold and is closed. -/
  | laneFail (port : Nat) (event : LaneEvent)
  /-- ETH_FRAME_RECEIVE (R308): A received frame is checked and passed to its engine, or dropped and counted. -/
  | ethFrameReceive (port : Nat) (frame : EthFrame)
  /-- ARP_REQUEST (R308): A front-end port answers ARP or neighbour solicitation for its address. -/
  | arpRequest (port : Nat) (v6 : Bool) (target : Nat)
  /-- PFC_FRAME_RECEIVE (R309): An XOFF or XON pauses or resumes a priority. -/
  | pfcFrameReceive (port enables : Nat) (quanta : List Nat)
  /-- PFC_BUFFER_THRESHOLD (R309): Receive buffer occupancy crosses a limit and XOFF or XON is sent. -/
  | pfcBufferThreshold (port prio : Nat) (full : Bool)
  /-- PFC_STORM (R310): The pause watchdog expires; a record is written and the port may go down. -/
  | pfcStorm (port prio : Nat)
  /-- CNP_RECEIVE (R311): A CNP halves the QP's send rate. -/
  | cnpReceive (qp : Nat)
  /-- ROCE_RATE_INCREASE (R311): 55 µs without a CNP raises a QP's rate. -/
  | roceRateIncrease (qp : Nat)
  /-- ROCE_PACKET_RECEIVE (R315): A responder performs a SEND, WRITE, READ or atomic in PSN order after the region check. -/
  | rocePacketReceive (port : Nat) (pkt : RocePkt)
  /-- ROCE_ACK_RECEIVE (R316): A requester takes an ACK or NAK, completing entries or retransmitting. -/
  | roceAckReceive (qp : Nat) (ack : RoceAck)
  /-- ROCE_ACK_TIMEOUT (R316): No ACK within TIMEOUT retransmits go-back-N or fails the QP. -/
  | roceAckTimeout (qp : Nat)
  /-- ROCE_QP_LOAD (R313): Loads a QP context image and makes a legal state change. -/
  | roceQpLoad (base qp : Nat)
  /-- ROCE_QP_STORE (R313): Stores a QP context to the image. -/
  | roceQpStore (base qp : Nat)
  /-- ROCE_QP_DESTROY (R313): Destroys a QP context. -/
  | roceQpDestroy (base qp : Nat)
  /-- ROCE_SQ_DB (R318): A new producer index makes send entries available, or fails the QP on overrun. -/
  | roceSqDb (base : Nat) (value : Word)
  /-- ROCE_SEND_ENTRY (R318): The port processes a send entry from the SQ ring. -/
  | roceSendEntry (qp : Nat)
  /-- ROCE_COMPLETION_WRITE (R318): A completion record is written and CQ_TAIL advances, waiting while the ring is full. -/
  | roceCompletionWrite (base : Nat)
  /-- MR_ENTRY_WRITE (R314): A store to a memory region entry writes all four copies. -/
  | mrEntryWrite (k w : Nat) (value : Word)
  /-- DZ_FRAME_RECEIVE (R326): A Dziger frame is checked and performed locally or forwarded cut-through by the route table. -/
  | dzFrameReceive (port : Nat) (pkt : DzPkt) (fcsOk : Bool)
  /-- DZ_SEND (R327): An originated packet is numbered in its flow and sprayed on the least loaded port. -/
  | dzSend (peer tc : Nat)
  /-- DZ_PUT (R336): A PUT writes its data at the target inside the remote window. -/
  | dzPut (peer : Nat)
  /-- DZ_GET (R336): A GET is answered with RESP data. -/
  | dzGet (peer : Nat)
  /-- DZ_LOAD (R336): A LOAD is performed as RdOnce and answered. -/
  | dzLoad (peer : Nat)
  /-- DZ_STORE (R336): A STORE is performed as WrLine or WrPart. -/
  | dzStore (peer : Nat)
  /-- DZ_ATOMIC (R336): An ATOMIC is performed as Atom and answered. -/
  | dzAtomic (peer : Nat)
  /-- DZ_RESP (R337): A RESP completes a remote access, or fails it as refused or poisoned. -/
  | dzResp (peer : Nat)
  /-- DZ_MSG (R339): A MSG is written into its message queue slot, or NAKed BUSY or refused. -/
  | dzMsg (peer : Nat)
  /-- DZ_ACK (R332): A cumulative ACK releases acknowledged packets and adjusts the window on ECE. -/
  | dzAck (port : Nat) (pkt : DzPkt)
  /-- DZ_NAK (R331): A NAK GAP, RESYNC or BUSY triggers a resend or renumbering. -/
  | dzNak (port : Nat) (pkt : DzPkt)
  /-- DZ_KEEPALIVE (R340): A KEEPALIVE records and checks the port's neighbour. -/
  | dzKeepalive (port : Nat) (pkt : DzPkt)
  /-- DZ_ACK_TIMER (R332): 2 µs after the oldest unacknowledged performed packet, an ACK is sent. -/
  | dzAckTimer (peer tc : Nat)
  /-- DZ_GAP_TIMER (R332): A missing number held for 4 µs sends or repeats NAK GAP. -/
  | dzGapTimer (peer tc : Nat)
  /-- DZ_RTO (R332): No ACK within RTO resends a packet, or fails the flow after RETRY sendings. -/
  | dzRto (peer tc seq : Nat)
  /-- DZ_WINDOW_INCREASE (R329): 55 µs without ECE adds 16 packets to a flow's window. -/
  | dzWindowIncrease (peer tc : Nat)
  /-- FLOW_IDLE_RELEASE (R330): A flow context idle for FLOW_IDLE is released. -/
  | flowIdleRelease (peer tc : Nat) (sending : Bool)
  /-- KEEPALIVE_SEND (R340): Each KA_MS a port with link up sends a KEEPALIVE. -/
  | keepaliveSend (port : Nat)
  /-- NEIGHBOUR_LOST (R340): Five intervals without a keepalive remove the port from the spray set. -/
  | neighbourLost (port : Nat)
  /-- DZ_CMD_DB (R338): A new producer index makes command entries available, or stops the ring on overrun. -/
  | dzCmdDb (base : Nat) (value : Word)
  /-- DZ_CMD_BASE_WRITE (R338): Restarts a command ring at slot 0 once its entries in progress complete. -/
  | dzCmdBaseWrite (base ring : Nat) (value : Word)
  /-- DZ_CMD_PUT (R338): A PUT entry sends local data to a remote address. -/
  | dzCmdPut (base ring : Nat)
  /-- DZ_CMD_GET (R338): A GET entry reads remote data into local memory. -/
  | dzCmdGet (base ring : Nat)
  /-- DZ_CMD_MSG (R338): A MSG entry sends a message to a remote queue. -/
  | dzCmdMsg (base ring : Nat)
  /-- DZ_CMD_COMPLETE (R338): An entry completes; a record is written when required and the counter is signalled. -/
  | dzCmdComplete (base id : Nat)
  /-- DZ_ENABLE_WRITE (R345): A write of DZ_CTRL.EN moves the engine through the common states. -/
  | dzEnableWrite (base : Nat) (value : Word)
  /-- DZ_DISABLE_DONE (R345): Every flow of a disabling engine is settled and it becomes OFF. -/
  | dzDisableDone (base : Nat)
  /-- RIDGE_GO (R343): Starts a broadcast of a tree's region from the root, or is ignored. -/
  | ridgeGo (value : Word)
  /-- RIDGE_CHUNK (R344): A received chunk is checked, written and forwarded to the children, counting toward LENGTH. -/
  | ridgeChunk (peer : Nat)
  /-- RIDGE_TREE_WRITE (R342): A store to a tree entry writes all four copies. -/
  | ridgeTreeWrite (tree w : Nat) (value : Word)
  /-- SHG_GROUP_WRITE (R348): A store to a group entry writes all four copies, or is discarded while a bucket is busy. -/
  | shgGroupWrite (x w : Nat) (value : Word)
  /-- SHG_ARM (R350): Queues an arm descriptor at the slice owning the tag, or discards it with ARM_OVF. -/
  | shgArm (value : Word)
  /-- SHG_ARM_PROCESS (R352): The slice reads the arm at the queue head, checks it and reserves pages, arming the bucket. -/
  | shgArmProcess (base : Nat)
  /-- SHG_DELIVERY (R355): A CAST element is written or added into its bucket, launching it when DELIVERED reaches EXPECT. -/
  | shgDelivery (tag fmt index code : Nat)
  /-- SHG_GO (R356): GO launches a FILLING bucket at once. -/
  | shgGo (tag : Nat)
  /-- SHG_CANCEL (R362): CANCEL returns a FAILED, FILLING or HELD bucket to FREE. -/
  | shgCancel (tag : Nat)
  /-- SHG_HOLD_WRITE (R364): Setting HOLD holds launches; clearing it launches HELD buckets in fill order. -/
  | shgHoldWrite (base : Nat) (value : Word)
  /-- SHINGLE_PACKET (R359): An updater performs, holds early or discards a contribution by generation. -/
  | shinglePacket (peer : Nat)
  /-- SHG_SHARD_REDUCED (R360): A shard's tree completes; it is converted, written to OUT and sent on for ALLREDUCE. -/
  | shgShardReduced (tag shard : Nat)
  /-- SHG_AG_LAUNCH (R360): An AG bucket launches when its wait is satisfied and sends its shards. -/
  | shgAgLaunch (tag : Nat)
  /-- SHG_BUCKET_COMPLETE (R361): A bucket completes at this rank, signals its counter and returns to FREE. -/
  | shgBucketComplete (tag : Nat)
  /-- SHG_ENABLE_WRITE (R366): A write of SHG_CTRL.EN moves a slice through the common states. -/
  | shgEnableWrite (base : Nat) (value : Word)
  /-- SHG_DISABLE_DONE (R366): Reducing and gathering buckets finish and the slice becomes OFF. -/
  | shgDisableDone (base : Nat)
  /-- WQ_ENABLE_WRITE (R370): A write of WQ_CFG.EN moves a queue through the common states. -/
  | wqEnableWrite (queue : Nat) (value : Word)
  /-- WQ_DISABLE_DONE (R370): No accepted command of the disabling queue remains live and it becomes OFF. -/
  | wqDisableDone (queue : Nat)
  /-- DOORBELL_PROD (R376): A PROD write raises WQ_PROD, or stalls the queue on overrun. -/
  | doorbellProd (queue : Nat) (value : Word)
  /-- DOORBELL_RESUME (R377): CTL RESUME ends a stall and rereads slot NEXT. -/
  | doorbellResume (queue : Nat)
  /-- DOORBELL_REPLAY (R393): CTL REPLAY starts reconciliation. -/
  | doorbellReplay (queue : Nat)
  /-- WQ_SLOT_READ (R377): The queue reader reads slot NEXT and journals a visible descriptor in the Ledger. -/
  | wqSlotRead (queue : Nat)
  /-- WQ_REREAD_TIMER (R377): Each microsecond a not-yet-visible slot is read again. -/
  | wqRereadTimer (queue : Nat)
  /-- DOORBELL_AHEAD (R377): The AHEAD period ends with no visible descriptor and the queue stalls. -/
  | doorbellAhead (queue : Nat)
  /-- MIRROR_WRITE_ACK (R379): The mirror acknowledges an entry's state, accepting the descriptor or advancing completion. -/
  | mirrorWriteAck (base i : Nat)
  /-- ACCEPTANCE_WORD_WRITE (R381): The queue's acceptance word is written with NEXT and its status bits. -/
  | acceptanceWordWrite (queue : Nat)
  /-- MIRROR_LOST (R382): A failed mirror write stops acceptance on every queue. -/
  | mirrorLost (base i : Nat)
  /-- WQ_TILES (R383): Submits a tile list to a compute die. -/
  | wqTiles (base i : Nat)
  /-- WQ_NOTIFY_CMD (R386): Places the command in the notify FIFO and signals node software. -/
  | wqNotifyCmd (base i : Nat)
  /-- WQ_WAIT (R383): Waits until CNT reaches THR. -/
  | wqWait (base i : Nat)
  /-- WQ_SIGNAL (R383): Adds ARG0 to CNT. -/
  | wqSignal (base i : Nat)
  /-- WQ_NOP (R383): Completes at once. -/
  | wqNop (base i : Nat)
  /-- WQ_COMMAND_COMPLETE (R387): A command's condition holds and its writes are visible; the COMPLETING state is mirrored. -/
  | wqCommandComplete (base i : Nat)
  /-- COMPLETION_RECORD_WRITE (R388): The completion record is written to its slot and the entry moves to RETIRED. -/
  | completionRecordWrite (base i : Nat)
  /-- CQ_WRITE_FAILED (R389): The completion QP in ERROR makes records wait in CQ_WAIT. -/
  | cqWriteFailed (queue : Nat)
  /-- WQ_NOTIFY_READ (R386): A read of WQ_NOTIFY removes and returns the oldest notification. -/
  | wqNotifyRead (base : Nat)
  /-- WQ_COMPLETE_WRITE (R386): Completes a live command with the given status, or is ignored. -/
  | wqCompleteWrite (value : Word)
  /-- LEDGER_FRESH (R392): FRESH ends recovery without reconciliation while no entry is live. -/
  | ledgerFresh
  /-- LEDGER_REPLAY (R393): REPLAY starts reconciliation from the mirror. -/
  | ledgerReplay
  /-- RECONCILIATION_DONE (R394): Each entry is replayed, re-recorded or left, NEXT is set and RECOVERING clears. -/
  | reconciliationDone (copies : List (Nat × Nat × List Byte × List Byte))
  /-- ERR_HEAD_WRITE (R423): Sets the log's read index, clamped to the valid window. -/
  | errHeadWrite (base : Nat) (value : Word)
  /-- FENCE_WRITE (R406): Writing 1 to a FENCE bit fences that compute die. -/
  | fenceWrite (value : Word)
  /-- HEARTBEAT_MISSED (R406): Three missed compute-die heartbeats fence the die. -/
  | heartbeatMissed (die : Nat)
  /-- DIE_FENCE (R407): A compute die is cut off, its snoops answered, its regulators stopped and DIE_FENCED written. -/
  | dieFence (die : Nat)
  /-- DIE_ABORT (R409): ABORT ends all tile work on a compute die without fencing it. -/
  | dieAbort (die : Nat)
  /-- DIE_ABORT_DONE (R409): The abort ends and ABORT_BUSY clears. -/
  | dieAbortDone (die : Nat)
  /-- NODE_LEAVING (R410): The node leaves its job, idles its transmitters and starts a warm self-reset. -/
  | nodeLeaving
  /-- MP_ALL_LOST (R410): No heartbeat and no claim for 200 ms makes base control perform the departure. -/
  | mpAllLost
  /-- ORPHAN_RESET (R413): No controlling session alive for ORPHAN_S triggers a warm self-reset. -/
  | orphanReset
  /-- CKPT_CUT (R416): A cut holds Shingle launches and starts draining. -/
  | ckptCut (cut : Nat)
  /-- CUT_DRAINED (R416): INFLIGHT reads 0 on all slices and the scan begins. -/
  | cutDrained
  /-- CUT_DRAIN_TIMEOUT (R418): The drain overruns CUT_DRAIN_MS and the cut fails. -/
  | cutDrainTimeout
  /-- CUT_SCAN_DONE (R416): The cut scan ends, HOLD is restored and copying starts. -/
  | cutScanDone
  /-- CUT_CHUNK_COPIED (R417): A pending chunk is copied into the local slot and its waiting writes proceed. -/
  | cutChunkCopied (chunk : Nat)
  /-- CUT_REMOTE_DONE (R416): The remote slot is sent and both headers are written COMPLETE. -/
  | cutRemoteDone
  /-- CKPT_RESTORE_LOCAL (R419): Copies the local slot back into the extents. -/
  | ckptRestoreLocal
  /-- CKPT_RESTORE_BUDDY (R419): Copies the remote slot at the buddy back into the extents. -/
  | ckptRestoreBuddy (header : List Byte) (contents : List (Nat × Byte)) (poisoned : List Nat)
  /-- RESTORE_DONE (R419): A restore ends, sets RESTORED and hands the queue frontiers to the Ledger. -/
  | restoreDone
  /-- PTP_SYNC_RECEIVE (R426): A Sync gives an offset and the servo steps or slews the counter. -/
  | ptpSyncReceive (port : Nat) (offset : SyncMsg)
  /-- PTP_PDELAY (R428): A peer delay request or response is timestamped and answered. -/
  | ptpPdelay (port : Nat) (request : Bool)
  /-- PTP_ANNOUNCE (R430): Announce messages drive the best master clock algorithm and port states. -/
  | ptpAnnounce (port : Nat) (data : List Nat)
  /-- PPS_IN_EDGE (R431): A PPS_IN rising edge is timestamped and accepted or ignored. -/
  | ppsInEdge
  /-- PPS_MISSING (R431): No accepted edge for 1.5 s marks PPS missing. -/
  | ppsMissing
  /-- PPS_OUT_PULSE (R432): PPS_OUT rises at each whole second of fabric time. -/
  | ppsOutPulse
  /-- TIME_HOLDOVER (R433): Loss of Sync or PPS moves fabric time to HOLDOVER. -/
  | timeHoldover (pps : Bool)
  /-- PPS_HOLD_EXPIRY (R433): After PPS_HOLD_S with PTP locked, PTP alone disciplines and quality returns to LOCKED. -/
  | ppsHoldExpiry
  /-- TE_ENTRY_WRITE (R434): A store to a timed-event entry writes all four copies. -/
  | teEntryWrite (e w : Nat) (value : Word)
  /-- TE_LATCH (R435): A firing LATCH entry triggers a commit of the staged set. -/
  | teLatch (e : Nat)
  /-- TE_CUT (R435): A firing CUT entry starts a checkpoint cut. -/
  | teCut (e : Nat)
  /-- TE_HOLD (R435): A firing HOLD entry sets or clears SHG_CTRL.HOLD. -/
  | teHold (e : Nat)
  /-- TE_SIGNAL (R435): A firing SIGNAL entry adds to a dependency counter. -/
  | teSignal (e : Nat)
  /-- TE_ARM (R435): A firing ARM entry stores arm descriptors to SHG_ARM. -/
  | teArm (e : Nat)
  /-- TE_LOUVRE (R455): A firing LOUVRE entry makes its signature present. -/
  | teLouvre (e : Nat)
  /-- POWER_SAMPLE (R440): Measured power is sampled every 100 µs and estimates formed and corrected. -/
  | powerSample (meas activity : List Nat) (faults : Nat)
  /-- ESTIMATOR_DIVERGE (R441): Estimate and measurement differ for 50 ms and a guard band is applied. -/
  | estimatorDiverge (domain : Nat)
  /-- LV_CLEAR_GUARD (R441): Removes every guard band. -/
  | lvClearGuard
  /-- LV_CLEAR_LEARNED (R465): Invalidates every signature slot that is not LOCKED. -/
  | lvClearLearned
  /-- PACKAGE_LOOP (R452): The package loop divides the cap and sets each die's operating point and the DRAM rate. -/
  | packageLoop (busy : List Nat) (demand : Nat)
  /-- PHASE_CLASSIFY (R453): The activity key is matched to a signature or a new one is taken. -/
  | phaseClassify (key : Nat)
  /-- SHARE_LEARN (R454): After 10 ms in a signature under a binding cap, its SHARE takes a trial step. -/
  | shareLearn (better : Bool)
  /-- OP_MOVE_DONE (R444): A die's clock and supply reach the target point. -/
  | opMoveDone (die : Nat)
  /-- BUDGET_WRITE (R450): A rack grant is accepted or rejected by watts, lease and sequence. -/
  | budgetWrite (value : Word)
  /-- BUDGET_EXPIRED (R451): A lease ends unrenewed and the rack cap becomes FALLBACK_W. -/
  | budgetExpired
  /-- CURRENT_PEAK (R449): VIN_CORE current above ICC_LIMIT_A stretches ACLK and throttles duty. -/
  | currentPeak (base : IccSense)
  /-- CURRENT_PEAK_RELEASE (R449): Current below 95 % for 100 µs releases the limiter. -/
  | currentPeakRelease (base : IccSense)
  /-- CAP_BELOW_FLOOR (R456): The cap stays below the floor for 10 ms; the floor is held and published. -/
  | capBelowFloor
  /-- DROOP_DETECT (R457): A supply below target by THRESH_MV stretches the die's clocks. -/
  | droopDetect (die : Nat)
  /-- DROOP_RELEASE (R457): Detectors within half the threshold for 64 cycles end the stretch. -/
  | droopRelease (die : Nat)
  /-- THERMAL_READ (R458): Sensors are read and dies or DRAM rates lowered or raised by temperature. -/
  | thermalRead (sensed hottest : Nat) (failed doubled : Bool)
  /-- THERMAL_FAULT (R459): A die too hot for 100 ms at the floor, or with all sensors failed, is fenced. -/
  | thermalFault (sensed : Nat)
  /-- THERMTRIP (R460): Two readings at the trip temperature stop the clocks, idle the transmitters and assert THERMTRIP_N. -/
  | thermtrip (sensed : Nat)
  /-- PWRBRK_ASSERT (R461): PWRBRK_N low for 100 ns engages the power brake. -/
  | pwrbrkAssert
  /-- PWRBRK_RELEASE (R461): PWRBRK_N high for 100 µs releases the brake. -/
  | pwrbrkRelease
  /-- BRAKE_STUCK (R461): A brake held over 10 s writes a record. -/
  | brakeStuck
  /-- COROUD_READ (R468): A Corud READ is checked and returns a segment of the entry's value. -/
  | coroudRead (src : CorudSrc) (packet : List Byte) (started : Bool)
  /-- COROUD_WRITE (R474): A Corud WRITE is checked and applied, stored or staged. -/
  | coroudWrite (src : CorudSrc) (packet : List Byte) (started : Bool)
  /-- COROUD_SEGMENT_TIMEOUT (R469): An assembly with no segment for 1 s is discarded. -/
  | coroudSegmentTimeout (src : CorudSrc) (idx sub : Nat)
  /-- COROUD_REQUEST_STALE (R488): A request queued 50 ms without start is answered BUSY. -/
  | coroudRequestStale (src : CorudSrc) (packet : List Byte)
  /-- CONFIG_STORE_WRITE_DONE (R477): The configuration store holds a stored entry's new value and the response is sent. -/
  | configStoreWriteDone (ok : Bool)
  /-- TELEMETRY_REPORT (R489): Each TELEM_MS the lead sends REPORT units, decimated when behind. -/
  | telemetryReport (behind : Bool)
  /-- USER_CALIBRATION_WRITE (R479): A user offset is checked against factory limits and applied. -/
  | userCalibrationWrite (idx sub : Nat) (value : Word)
  /-- LATCH_CHECK (R482): CHECK runs the staged set's checks and moves it to CHECKED or writes LATCH_REJECTED. -/
  | latchCheck
  /-- LATCH_COMMIT_NOW (R485): COMMIT_NOW checks and triggers a commit at once. -/
  | latchCommitNow
  /-- LATCH_DISCARD (R482): DISCARD empties the staged set. -/
  | latchDiscard
  /-- COMMIT_AT_WRITE (R485): Arms timed-event entry 63 as a one-shot LATCH at the given time. -/
  | commitAtWrite (value : Word)
  /-- LATCH_APPLY (R484): At the apply instant every base die applies the whole staged set, after rechecking. -/
  | latchApply
  /-- MP_LEAD_CLAIM (R490): A follower claims the lead after the heartbeat is missing and takes over its work. -/
  | mpLeadClaim (base : Nat)
  /-- MB_REQ_WRITE (R492): Starts a mailbox Corud request, or is discarded with OVF while busy. -/
  | mbReqWrite (base : Nat) (value : Word)
  /-- MB_RESPONSE (R492): The lead writes the mailbox response, sets DONE and signals source 57. -/
  | mbResponse (base : Nat)
  /-- PWROK_RISE (R499): With RESET_N high, PWROK rising releases a cold power-up. -/
  | pwrokRise (found : BootIn)
  /-- PWROK_FALL (R494): PWROK falling resets the node at once. -/
  | pwrokFall
  /-- RESET_N_ASSERT (R494): RESET_N low for 1 µs starts a pin reset. -/
  | resetNAssert
  /-- RESET_N_RELEASE (R500): RESET_N returning high releases the warm sequence. -/
  | resetNRelease (found : BootIn)
  /-- SOFTWARE_RESET (R494): SEC_CMD or Corud RESET 1 starts a warm software reset. -/
  | softwareReset
  /-- WARM_RESET_RELEASE (R500): A self-timed warm reset releases and wipes and retrains the node. -/
  | warmResetRelease (found : BootIn)
  /-- HBM_TRAINING_DONE (R498): HBM training ends and HBM is wiped within 100 ms. -/
  | hbmTrainingDone
  /-- READY_RISE (R501): All readiness conditions hold and READY rises. -/
  | readyRise
  /-- BOOT_CHUNK_WRITE (R505): A network boot chunk is stored while an image is awaited. -/
  | bootChunkWrite (chunk : Nat) (data : List Byte)
  /-- BOOT_GO_WRITE (R505): The assembled network image is verified and booted. -/
  | bootGoWrite (length : Nat)
  /-- SVN_COMMIT (R506): Burns the fused security version up to the running image's SVN. -/
  | svnCommit (kind : Nat)
  /-- LCS_TOKEN_WRITE (R513): A life-cycle token is checked; an accepted one burns fuses and resets. -/
  | lcsTokenWrite (token : List Byte)
  /-- DEBUG_TOKEN_WRITE (R513): An accepted debug token opens debug at the next reset. -/
  | debugTokenWrite (token : List Byte)
  /-- OWNER_KEY_WRITE (R517): Fuses an owner key hash into the lowest free slot. -/
  | ownerKeyWrite (hash : List Byte)
  /-- REVOKE_WRITE (R517): Revokes a key slot. -/
  | revokeWrite (slot : Nat)
  /-- NONCE_WRITE (R510): Builds a signed attestation report over M0–M7. -/
  | nonceWrite (nonce : List Byte)
  /-- MEASUREMENT_EXTEND (R508): A SEC_EXTEND store or Corud EXTEND extends M4–M7. -/
  | measurementExtend (index : Nat) (digest : List Byte)
  /-- JOB_WIPE (R515): Starts a wipe of job data outside the keep region, or is refused. -/
  | jobWipe
  /-- JOB_WIPE_DONE (R516): The job wipe ends and JW_BUSY clears. -/
  | jobWipeDone
  /-- TEST_MODE_ENTER (R520): TEST_MODE 1 enters test mode, dropping READY and disabling ports and engines. -/
  | testModeEnter
  /-- TEST_MODE_EXIT (R520): TEST_MODE 0 performs a software reset. -/
  | testModeExit
  /-- LB_PRBS_WRITE (R523): Selects a PRBS pattern and restarts the checkers. -/
  | lbPrbsWrite (port : Nat) (value : Word)
  /-- PRBS_CHECKER_LOCK (R523): A lane's PRBS checker locks and starts counting errors. -/
  | prbsCheckerLock (port lane errors : Nat)
  /-- BIST_SRAM (R525): Runs March C− SRAM BIST on the targets. -/
  | bistSram (target : Nat)
  /-- BIST_NEAR_MEMORY (R525): Runs March C− over the near-memory dies. -/
  | bistNearMemory (target : Nat)
  /-- BIST_HBM_MBIST (R525): Runs the stacks' MBIST through IEEE 1500. -/
  | bistHbmMbist (target : Nat)
  /-- BIST_LOGIC (R525): Runs logic BIST on compute dies. -/
  | bistLogic (target : Nat)
  /-- BIST_HBM_PHY_LOOPBACK (R524): Loops HBM data and command paths at the PHY or wrapper. -/
  | bistHbmPhyLoopback (target : Nat)
  /-- BIST_BRIDGE_LOOPBACK (R524): Loops and PRBS-tests every wire of the named edges. -/
  | bistBridgeLoopback (target : Nat)
  /-- BIST_DONE (R525): A test ends, writes BIST_RESULT and clears BUSY. -/
  | bistDone (fails : List (Nat × Nat × Nat)) (mask : Nat)
  /-- TAP_RESET (R526): TRST_N low or PWROK loss resets the TAP. -/
  | tapReset
  /-- IDCODE (R526): Selects the IDCODE register. -/
  | idcode
  /-- SAMPLE_PRELOAD (R526): Samples or preloads the boundary register. -/
  | samplePreload (value : Nat)
  /-- EXTEST (R527): Drives the balls from the boundary register while READY is low. -/
  | extest
  /-- HIGHZ (R527): Floats the outputs while READY is low. -/
  | highz
  /-- CLAMP (R527): Clamps outputs with BYPASS selected while READY is low. -/
  | clamp
  /-- EXTEST_PULSE (R527): Sends an 1149.6 pulse on the lanes while READY is low. -/
  | extestPulse
  /-- EXTEST_TRAIN (R527): Sends an 1149.6 pulse train on the lanes while READY is low. -/
  | extestTrain
  /-- DTMCS (R528): Selects the debug transport control register. -/
  | dtmcs
  /-- DMI (R528): Performs a debug module interface access, ignored while debug is closed. -/
  | dmi (access addr data : Nat)
  /-- BYPASS (R526): Selects the bypass register. -/
  | bypass
  /-- RAIL_UNDERVOLTAGE (R536): A rail below tolerance for 10 µs stops the node until a cold power-up. -/
  | railUndervoltage
  /-- CORE_PLL_LOCK_LOSS (R538): A core PLL losing lock for 10 µs stops the node. -/
  | corePllLockLoss
  /-- REFCLK_SDS_LOSS (R538): A lost SerDes reference takes down every port of its base die. -/
  | refclkSdsLoss (base : Nat)
  /-- ALERT_ACK_WRITE (R542): Clears acknowledged alert causes and updates ALERT_N. -/
  | alertAckWrite (value : Nat)
  /-- OWN_STEP_ENDS (R294): The ENABLING or DISABLING of a block without its own row ends, moving it to ON, to OFF or on to ENABLING, and applying any pending disable. -/
  | ownStepEnds (offset : Nat)
  /-- EVICTION_ACKNOWLEDGED (R214): The home's acknowledgement of a WbD or EvC reaches the holder, which frees the line's writeback buffer. -/
  | evictionAcknowledged (die line : Nat)
  /-- PTP_SYNC_SEND (R428): At each Sync interval a port in master state sends a one-step Sync, and ports send their peer-delay requests. -/
  | ptpSyncSend (port : Nat)
  /-- SRAM_UNCORRECTED (R406): An uncorrectable error in a compute die's shared SRAM (die-cache tags, die translation cache, scheduler pool), an accumulator, an element-engine buffer or a host-core cache is detected and contained. -/
  | sramUncorrected (part : SramPart)
  /-- REGULATOR_FAULT (R406): A fault of a compute die's in-package regulators fences that die. -/
  | regulatorFault (die : Nat)
  /-- REFCLK_SDS_RETURN (R538): A lost REFCLK_SDS input returns and the ports of its base die train again. -/
  | refclkSdsReturn (base : Nat)
  /-- NETBOOT_REPORT (R505): Every 1 s while a network image is awaited, the boot ROM or management firmware broadcasts a REPORT unit with INDEX 0x7010 over MGT. -/
  | netbootReport
  /-- NARROWING_COMPLETED (R306): A native port's narrowing to its surviving lanes completes within 1 ms, and a deferred EN = 0 write then takes effect. -/
  | narrowingCompleted (port : Nat)
  deriving DecidableEq, Repr

end Sys2Proof
end

