-- ==== Sys2Proof/Config.lean ====
section
/-! DEFINITION. The free values: what the spec leaves open. None has a body, so a claim holds whatever they are. -/

namespace Sys2Proof.Config

/-- A fresh open value: applied to the counter State.fresh, which the using command advances. -/
opaque freeNat : Nat → Nat

/-- Results of reciprocal, square root, exponential and logarithm thread instructions (R86), by function, format code
and operand. -/
opaque aluSlow : Nat → Nat → Nat → Nat

/-- Results of the element functions within their bounds (R133), by function, type and operand: the same result for
the same input in every engine. -/
opaque elemFn : Nat → Nat → Nat → Nat

/-- The INT32 result of an element operation whose exact value lies outside INT32: no rule states it. -/
opaque intOut : Int → Nat

/-- The INT32 quotient of a division by zero, by its dividend: no rule states it. -/
opaque intDivZero : Int → Nat

/-- Digests: SHA3 and similar values of the standards the spec names, by a kind number and the bytes' value. -/
opaque digest : Nat → Nat → Nat

/-- Whether a signature or authentication tag verifies, by a kind number, key and message value. -/
opaque verifies : Nat → Nat → Nat → Bool

/-- Which line leaves a host core's cache for a new one, by core, line and number of choices: the spec gives no policy (log
entry 206). -/
opaque coreVictim : Nat → Nat → Nat → Nat

/-- Which allowed way a die-cache fill replaces, by die, line and number of choices: the spec gives no policy. -/
opaque dcVictim : Nat → Nat → Nat → Nat

/-- The node's serial number, from the factory image (R517). -/
opaque serial : Nat

/-- The factory image's bytes of a dictionary entry, by index × 256 + subindex (R476). -/
opaque factory : Nat → List Byte

/-- Whether the factory image holds an entry of the calibration range, its type (6 I32, 7 F32, 0 to 5 as the other
types) and its lower and upper limits (R479). -/
opaque calHas : Nat → Bool
opaque calType : Nat → Nat
opaque calLow : Nat → Nat
opaque calHigh : Nat → Nat

/-- Bytes drained from a transmit queue in a cycle: no rule says in which order the classes leave. -/
opaque txDrain : Nat → Nat → Nat

/-- The public key, certificate and signature bytes that a standard's algorithm produces, by a kind number, the key and
the message: their values are those of the standards (R505, R509, R510). -/
opaque signed : Nat → Nat → Nat → List Byte

/-- The power estimate of a domain from its activity counters, at an operating point (R440). -/
opaque estimate : Nat → List Nat → Nat → Nat

/-- The fused hashes of the four Sahnor root slots (R505). -/
opaque rootKey : Nat → Nat

/-- Predicted power of a compute die in milliwatts, by die, operating point and phase key: no rule says how it is
predicted (R452). -/
opaque predict : Nat → Nat → Nat → Nat

/-- A domain's static floor in milliwatts at a temperature, from factory calibration (R442). -/
opaque leakage : Nat → Nat → Nat

/-- The node's own clock as its Announce data set gives it after priority1 (R430). -/
opaque ptpClock : List Nat

/-- The contents of memory in test mode, by the entry's counter value and address (R520). -/
opaque undefByte : Nat → Nat → Byte

/-- What a read of a byte of an output region gives while its command is in progress, by the command's counter value, the
address and the byte held there (R390). -/
opaque outByte : Nat → Nat → Byte → Byte

/-- The bytes of the configuration store copy that M3 measures, for the values it holds: its layout is not stated
(R477, R508). -/
opaque storeCopy : List (Nat × Option (List Byte)) → List Byte

/-- The 64-byte record that M1 measures, for the values it holds in order: their widths are not stated (R508). -/
opaque securityRecord : List Nat → List Byte

/-- A host core's identity CSRs, which no rule states, by CSR number. -/
opaque hostInfo : Nat → Nat

/-- The failure-analysis state that block 0xF0 shows while debug is open, by offset (R528). -/
opaque analysis : Nat → Nat

/-- The fields of dtmcs above its version (R528). -/
opaque dtmcsRest : Nat

end Sys2Proof.Config
end

