-- ==== Sys2Proof/Machine/Bits.lean ====
section
/-! DEFINITION. Bit fields, sign extension and byte order (R3, R4, R5). -/

namespace Sys2Proof.Machine

/-- Bits [hi:lo] of a natural number, both ends included (R3). -/
def bits (w hi lo : Nat) : Nat := (w >>> lo) % 2 ^ (hi + 1 - lo)

/-- Bit [n]. -/
def bit (w n : Nat) : Bool := w.testBit n

/-- 1 for true, 0 for false. -/
def b2n (b : Bool) : Nat := if b then 1 else 0

/-- `w` with bits [hi:lo] replaced by `v`, which is cut to the field's width. -/
def putBits (w hi lo v : Nat) : Nat :=
  w - (bits w hi lo <<< lo) + ((v % 2 ^ (hi + 1 - lo)) <<< lo)

/-- Bits [hi:lo] of a word. -/
def wbits (w : Word) (hi lo : Nat) : Nat := bits w.toNat hi lo

/-- Bit [n] of a word. -/
def wbit (w : Word) (n : Nat) : Bool := bit w.toNat n

/-- The word with bits [hi:lo] replaced. -/
def wput (w : Word) (hi lo v : Nat) : Word := BitVec.ofNat 64 (putBits w.toNat hi lo v)

/-- The two's-complement reading of the low `n` bits of `w`. -/
def signed (n w : Nat) : Int :=
  let v := w % 2 ^ n
  if 2 * v ≥ 2 ^ n then (v : Int) - 2 ^ n else v

/-- The low `n` bits of the two's complement of an integer. -/
def wrap (n : Nat) (i : Int) : Nat := (i % (2 ^ n : Int)).toNat

/-- The little-endian value of bytes: byte 0 holds bits [7:0] (R4). -/
def leValue : List Byte → Nat
  | [] => 0
  | b :: t => b.toNat + 256 * leValue t

/-- The low `n` bytes of a value, lowest first (R4). -/
def leBytes : Nat → Nat → List Byte
  | 0, _ => []
  | n + 1, v => BitVec.ofNat 8 (v % 256) :: leBytes n (v / 256)

/-- The value of bytes in network order, most significant first (R5). -/
def beValue (l : List Byte) : Nat := leValue l.reverse

/-- The bytes of a value in network order (R5). -/
def beBytes (n v : Nat) : List Byte := (leBytes n v).reverse

/-- Whether `a` is a multiple of `n`. -/
def aligned (n a : Nat) : Bool := a % n == 0

/-- The line that holds a byte address. -/
def lineOf (a : Nat) : Nat := a / lineBytes

/-- The quotient rounded up. -/
def ceilDiv (a b : Nat) : Nat := (a + b - 1) / b

/-- The number of ones among the low `n` bits of `w`. -/
def popCount : Nat → Nat → Nat
  | 0, _ => 0
  | n + 1, w => w % 2 + popCount n (w / 2)

/-- The positions of the ones among the low `n` bits of `w`, counted from `i`. -/
def onesFrom (i : Nat) : Nat → Nat → List Nat
  | 0, _ => []
  | n + 1, w => if w % 2 = 1 then i :: onesFrom (i + 1) n (w / 2) else onesFrom (i + 1) n (w / 2)

/-- The positions of the ones among the low `n` bits of `w`, rising. -/
def ones (n w : Nat) : List Nat := onesFrom 0 n w

/-- The mask with the listed bits set. -/
def maskOf (l : List Nat) : Nat := l.foldl (fun m i => m ||| 1 <<< i) 0

/-- Whether `p` holds of every number below `n`. -/
def allBelow (n : Nat) (p : Nat → Bool) : Bool := (List.range n).all p

/-- Whether `p` holds of some number below `n`. -/
def anyBelow (n : Nat) (p : Nat → Bool) : Bool := (List.range n).any p

/-- The first number below `n` that `p` picks. -/
def firstBelow (n : Nat) (p : Nat → Bool) : Option Nat := (List.range n).find? p

end Sys2Proof.Machine
end

