-- ==== Sys2Proof/Machine/RegIds.lean ====
section
/-! DEFINITION. The names of the registers of the CSR window (R18, R23) and the shape of a register's description. -/

namespace Sys2Proof.Machine

/-- A register of the CSR window, by name. -/
inductive RegId where
  | dieCmd
  | dieStatus
  | gableCtrl
  | gableStatus
  | gableStopped
  | copyStatus
  | cellStatus
  | cellMacCycles
  | cellGutterWait
  | groupState
  | groupPc
  | groupCtrl
  | arrivalCnt
  | scratchConflictCycles
  | regConflictCycles
  | copyBytes
  | elemCtrl
  | elemStatus
  | gutterStatus
  | elemRuns
  | elemBusyCycles
  | elemBlockedCycles
  | elemSlot
  | glaunch
  | glaunchStatus
  | dcCtrl
  | dcHits
  | dcMisses
  | dcSnoops
  | dcWritebacks
  | tcStatus
  | tcHits
  | tcMisses
  | gtcMisses
  | tcFolded
  | tsCtrl
  | tsStatus
  | tsListAddr
  | tsListGo
  | tsGq
  | tsLaunches
  | tsStealsDie
  | tsStealsBd
  | tsStealsNode
  | tsSplits
  | tsIdleCycles
  | mtime
  | mtimecmp
  | depWatch
  | imsicMSeteipnum
  | imsicSSeteipnum
  | lpStatus
  | lpLimit
  | lpDroop
  | lpDroopEvents
  | lpStretchCycles
  | fence
  | rstCause
  | errHead
  | errTail
  | errDropped
  | fenceDrops
  | ckptCmd
  | ckptStatus
  | errRec
  | aplicM
  | aplicS
  | dirCtrl
  | dirStatus
  | dirLookups
  | dirEvictions
  | dirRecalls
  | dirC2c
  | dirLostLines
  | hbmCtrl
  | hbmStatus
  | hbmCeCount
  | hbmUeCount
  | hbmRetryCount
  | hbmScrubLines
  | nmcCtrl
  | nmcStatus
  | nmcSeed
  | nmcWaymask
  | nmcPf
  | nmcHits
  | nmcMisses
  | eavesHits
  | transomHits
  | transomUnused
  | nmcWritebacks
  | nmcCeCount
  | brokerCtrl
  | seqStatus
  | layout
  | layoutRow
  | batch
  | depCnt
  | seqEntry
  | stuCtrl
  | stuSatp
  | stuStatus
  | stuShoot
  | stuShootSeq
  | fqBase
  | fqHead
  | fqTail
  | stuResolve
  | stuMigrate
  | stuCntCtrl
  | stuWalks
  | stuFaults
  | stuDuplicates
  | stuShootdowns
  | stuMigrations
  | cntMissed
  | edgeCtrl
  | edgeStatus
  | edgeReplays
  | edgeWireTests
  | netRoute
  | bundleStatus
  | bundleSpares
  | portCtrl
  | portCtrlFe
  | portStatus
  | portMac
  | portIpv4
  | portIpv6Hi
  | portIpv6Lo
  | portPfc
  | portLane
  | portCounters
  | roceQpAddr
  | roceQpCmd
  | roceQpStatus
  | roceSqDb
  | roceCqBase
  | roceCqHead
  | roceCqTail
  | mrEntry
  | dzCtrl
  | dzSelf
  | dzStatus
  | dzRwinBase
  | dzRwinLimit
  | dzPort
  | dzCounters
  | portSat
  | levelSat
  | dzCmdBase
  | dzCmdCi
  | dzCmdDb
  | dzCqBase
  | dzCqHead
  | dzCqTail
  | dzMqBase
  | dzMqHead
  | dzMqTail
  | dzGroupRt
  | dzMemberRt
  | dzWindow
  | shgCtrl
  | shgStatus
  | shgArm
  | shgCmd
  | shgCounters
  | shgGroupW0
  | shgGroupW1
  | shgBucket
  | ridgeGo
  | ridgeStatus
  | ridgeDrops
  | ridgeBytes
  | ridgeTree
  | wqCtrl
  | wqNotify
  | wqComplete
  | descRead
  | dbIgnored
  | aheadRetries
  | completeIgnored
  | wqCfg
  | wqRing
  | wqCq
  | wqAcc
  | wqStatus
  | wqProd
  | ledgerStatus
  | ledgerCmd
  | ledgerAccepted
  | ledgerRetired
  | ledgerReplayed
  | mirrorWrites
  | fullWaitCycles
  | ftStatus
  | ftNs
  | ftNsfrac
  | ftAdj
  | ftOffset
  | ftPpsTs
  | ftCounters
  | teEntry
  | teFired
  | lvCtrl
  | lvStatus
  | lvPower
  | lvReason
  | lvCmd
  | lvForceIgnored
  | reasonTotalUs
  | reasonLastUs
  | lvSigW0
  | lvSigW1
  | lvSigW2
  | lvSigW3
  | mbReq
  | mbResp
  | mbStatus
  | mpStatus
  | secStatus
  | secCmd
  | secExtend
  | jwKeepBase
  | jwKeepLimit
  | secMeas
  | lbPort
  | prbsErr
  | bistCmd
  | lbStatus
  deriving DecidableEq, Repr

/-- Access codes (R6). -/
inductive Acc where
  | rw | ro | wo | w1c | w1s | rc
  deriving DecidableEq, Repr

/-- A field's place: bits [hi:lo]. -/
structure Fld where
  hi : Nat
  lo : Nat
  deriving DecidableEq, Repr

/-- A field of a register: its place, its access code and its reset value. -/
structure FieldSpec where
  fld : Fld
  acc : Acc
  reset : Nat
  deriving DecidableEq, Repr

/-- A register's description: compute-die or base-die scopes, first block and number of blocks, offset in the block,
the strides of its copies, whether one store writes all four base dies' copies, and its fields. -/
structure RegSpec where
  onDie : Bool
  block : Nat
  blocks : Nat
  offset : Nat
  dims : List (Nat × Nat)
  nodeWide : Bool
  fields : List FieldSpec
  deriving DecidableEq, Repr

/-- One register of the window: its name, scope, block index and copy indices. -/
structure RegLoc where
  id : RegId
  scope : Nat
  blk : Nat
  idx : List Nat
  deriving DecidableEq, Repr

end Sys2Proof.Machine
end

