-- ==== Sys2Proof/Machine/Registers.lean ====
section
/-! DEFINITION. The register tables of the spec: where each register lies (R18), its fields, access codes (R6) and
reset values, one row per register, each citing the rule that gives it. -/

namespace Sys2Proof.Machine

def fDieCmdAbort : Fld := ⟨0, 0⟩
def fDieStatusAbortBusy : Fld := ⟨0, 0⟩
def fGableCtrlWdExp : Fld := ⟨20, 16⟩
def fGableCtrlState : Fld := ⟨7, 5⟩
def fGableCtrlEn : Fld := ⟨0, 0⟩
def fGableStatusResident : Fld := ⟨47, 40⟩
def fGableStatusFreeRegs : Fld := ⟨39, 0⟩
def fGableStoppedStopped : Fld := ⟨63, 0⟩
def fCopyStatusQueued : Fld := ⟨15, 8⟩
def fCopyStatusFlags : Fld := ⟨5, 0⟩
def fCellStatusB1Group : Fld := ⟨31, 26⟩
def fCellStatusB1State : Fld := ⟨25, 24⟩
def fCellStatusB1Gang : Fld := ⟨23, 22⟩
def fCellStatusB0Group : Fld := ⟨21, 16⟩
def fCellStatusB0State : Fld := ⟨15, 14⟩
def fCellStatusB0Gang : Fld := ⟨13, 12⟩
def fCellStatusFlags : Fld := ⟨5, 0⟩
def fCellMacCyclesCount : Fld := ⟨63, 0⟩
def fCellGutterWaitCount : Fld := ⟨63, 0⟩
def fGroupStateActive : Fld := ⟨63, 32⟩
def fGroupStateFault : Fld := ⟨31, 16⟩
def fGroupStateRegs : Fld := ⟨15, 11⟩
def fGroupStatePaths : Fld := ⟨10, 6⟩
def fGroupStateRun : Fld := ⟨2, 0⟩
def fGroupPcPc : Fld := ⟨63, 0⟩
def fGroupCtrlAction : Fld := ⟨1, 0⟩
def fArrivalCntValue : Fld := ⟨31, 0⟩
def fScratchConflictCyclesCount : Fld := ⟨63, 0⟩
def fRegConflictCyclesCount : Fld := ⟨63, 0⟩
def fCopyBytesCount : Fld := ⟨63, 0⟩
def fElemCtrlSeed : Fld := ⟨63, 32⟩
def fElemCtrlDefRm : Fld := ⟨2, 0⟩
def fElemStatusPc : Fld := ⟨39, 32⟩
def fElemStatusSlot : Fld := ⟨31, 29⟩
def fElemStatusRun : Fld := ⟨28, 28⟩
def fElemStatusBlocked : Fld := ⟨27, 27⟩
def fElemStatusIndexRange : Fld := ⟨7, 7⟩
def fElemStatusFlags : Fld := ⟨5, 0⟩
def fGutterStatusEntries : Fld := ⟨11, 8⟩
def fGutterStatusC1Entries : Fld := ⟨7, 4⟩
def fGutterStatusC0Entries : Fld := ⟨3, 0⟩
def fElemRunsCount : Fld := ⟨63, 0⟩
def fElemBusyCyclesCount : Fld := ⟨63, 0⟩
def fElemBlockedCyclesCount : Fld := ⟨63, 0⟩
def fElemSlotWord : Fld := ⟨63, 0⟩
def fGlaunchAddr : Fld := ⟨63, 6⟩
def fGlaunchStatusInvalid : Fld := ⟨2, 2⟩
def fGlaunchStatusDrop : Fld := ⟨1, 1⟩
def fGlaunchStatusPending : Fld := ⟨0, 0⟩
def fDcCtrlCways : Fld := ⟨47, 24⟩
def fDcCtrlGways : Fld := ⟨23, 0⟩
def fDcHitsCount : Fld := ⟨63, 0⟩
def fDcMissesCount : Fld := ⟨63, 0⟩
def fDcSnoopsCount : Fld := ⟨63, 0⟩
def fDcWritebacksCount : Fld := ⟨63, 0⟩
def fTcStatusValid : Fld := ⟨12, 0⟩
def fTcHitsCount : Fld := ⟨63, 0⟩
def fTcMissesCount : Fld := ⟨63, 0⟩
def fGtcMissesCount : Fld := ⟨63, 0⟩
def fTcFoldedCount : Fld := ⟨63, 0⟩
def fTsCtrlBatch : Fld := ⟨19, 16⟩
def fTsCtrlState : Fld := ⟨7, 5⟩
def fTsCtrlEn : Fld := ⟨0, 0⟩
def fTsStatusPoolFree : Fld := ⟨28, 16⟩
def fTsStatusListsFree : Fld := ⟨12, 8⟩
def fTsStatusListOvf : Fld := ⟨0, 0⟩
def fTsListAddrAddr : Fld := ⟨63, 0⟩
def fTsListGoCount : Fld := ⟨12, 0⟩
def fTsGqReady : Fld := ⟨28, 16⟩
def fTsGqQueued : Fld := ⟨12, 0⟩
def fTsLaunchesCount : Fld := ⟨63, 0⟩
def fTsStealsDieCount : Fld := ⟨63, 0⟩
def fTsStealsBdCount : Fld := ⟨63, 0⟩
def fTsStealsNodeCount : Fld := ⟨63, 0⟩
def fTsSplitsCount : Fld := ⟨63, 0⟩
def fTsIdleCyclesCount : Fld := ⟨63, 0⟩
def fMtimeValue : Fld := ⟨63, 0⟩
def fMtimecmpValue : Fld := ⟨63, 0⟩
def fDepWatchEn : Fld := ⟨63, 63⟩
def fDepWatchMfile : Fld := ⟨62, 62⟩
def fDepWatchCnt : Fld := ⟨57, 48⟩
def fDepWatchCore : Fld := ⟨46, 40⟩
def fDepWatchEiid : Fld := ⟨39, 32⟩
def fDepWatchThr : Fld := ⟨31, 0⟩
def fImsicMSeteipnumEiid : Fld := ⟨31, 0⟩
def fImsicSSeteipnumEiid : Fld := ⟨31, 0⟩
def fLpStatusTempC : Fld := ⟨63, 56⟩
def fLpStatusPowerDw : Fld := ⟨43, 32⟩
def fLpStatusReason : Fld := ⟨31, 16⟩
def fLpStatusDuty : Fld := ⟨12, 8⟩
def fLpStatusHp : Fld := ⟨5, 4⟩
def fLpStatusOp : Fld := ⟨2, 0⟩
def fLpLimitHpMin : Fld := ⟨5, 4⟩
def fLpLimitOpMin : Fld := ⟨2, 0⟩
def fLpDroopThreshMv : Fld := ⟨15, 8⟩
def fLpDroopEventsCount : Fld := ⟨63, 0⟩
def fLpStretchCyclesCount : Fld := ⟨63, 0⟩
def fFenceFenced : Fld := ⟨11, 0⟩
def fRstCauseCause : Fld := ⟨3, 0⟩
def fErrHeadIndex : Fld := ⟨31, 0⟩
def fErrTailIndex : Fld := ⟨31, 0⟩
def fErrDroppedCount : Fld := ⟨63, 0⟩
def fFenceDropsCount : Fld := ⟨63, 0⟩
def fCkptCmdOp : Fld := ⟨63, 60⟩
def fCkptCmdCut : Fld := ⟨31, 0⟩
def fCkptStatusLastCut : Fld := ⟨63, 32⟩
def fCkptStatusFail : Fld := ⟨15, 8⟩
def fCkptStatusRestored : Fld := ⟨6, 6⟩
def fCkptStatusPhase : Fld := ⟨2, 0⟩
def fErrRecWord : Fld := ⟨63, 0⟩
def fAplicMReg : Fld := ⟨31, 0⟩
def fAplicSReg : Fld := ⟨31, 0⟩
def fDirCtrlSnoopTo : Fld := ⟨15, 0⟩
def fDirStatusBusy : Fld := ⟨44, 32⟩
def fDirStatusScanDie : Fld := ⟨7, 4⟩
def fDirStatusScan : Fld := ⟨0, 0⟩
def fDirLookupsCount : Fld := ⟨63, 0⟩
def fDirEvictionsCount : Fld := ⟨63, 0⟩
def fDirRecallsCount : Fld := ⟨63, 0⟩
def fDirC2cCount : Fld := ⟨63, 0⟩
def fDirLostLinesCount : Fld := ⟨63, 0⟩
def fHbmCtrlCeThreshold : Fld := ⟨15, 0⟩
def fHbmStatusFenced : Fld := ⟨19, 16⟩
def fHbmStatusMapping : Fld := ⟨13, 12⟩
def fHbmStatusStack : Fld := ⟨11, 0⟩
def fHbmCeCountCount : Fld := ⟨63, 0⟩
def fHbmUeCountCount : Fld := ⟨63, 0⟩
def fHbmRetryCountCount : Fld := ⟨63, 0⟩
def fHbmScrubLinesCount : Fld := ⟨63, 0⟩
def fNmcCtrlState : Fld := ⟨7, 5⟩
def fNmcCtrlInv : Fld := ⟨2, 2⟩
def fNmcCtrlEn : Fld := ⟨0, 0⟩
def fNmcStatusInvIgnored : Fld := ⟨2, 2⟩
def fNmcStatusInvBusy : Fld := ⟨1, 1⟩
def fNmcStatusStaleSinceDisable : Fld := ⟨0, 0⟩
def fNmcSeedSeed : Fld := ⟨31, 0⟩
def fNmcWaymaskWalk : Fld := ⟨63, 48⟩
def fNmcWaymaskDma : Fld := ⟨47, 32⟩
def fNmcWaymaskHost : Fld := ⟨31, 16⟩
def fNmcWaymaskGable : Fld := ⟨15, 0⟩
def fNmcPfWindow : Fld := ⟨23, 16⟩
def fNmcPfDepth : Fld := ⟨12, 8⟩
def fNmcPfPfEn : Fld := ⟨3, 0⟩
def fNmcHitsCount : Fld := ⟨63, 0⟩
def fNmcMissesCount : Fld := ⟨63, 0⟩
def fEavesHitsCount : Fld := ⟨63, 0⟩
def fTransomHitsCount : Fld := ⟨63, 0⟩
def fTransomUnusedCount : Fld := ⟨63, 0⟩
def fNmcWritebacksCount : Fld := ⟨63, 0⟩
def fNmcCeCountCount : Fld := ⟨63, 0⟩
def fBrokerCtrlState : Fld := ⟨7, 5⟩
def fBrokerCtrlXbd : Fld := ⟨1, 1⟩
def fBrokerCtrlEn : Fld := ⟨0, 0⟩
def fSeqStatusReject : Fld := ⟨0, 0⟩
def fLayoutStride : Fld := ⟨63, 0⟩
def fLayoutRowTokenStride : Fld := ⟨47, 32⟩
def fLayoutRowRowbytes : Fld := ⟨15, 0⟩
def fBatchSlots : Fld := ⟨63, 0⟩
def fDepCntValue : Fld := ⟨31, 0⟩
def fSeqEntryWord : Fld := ⟨63, 0⟩
def fStuCtrlShootTo : Fld := ⟨47, 32⟩
def fStuSatpMode : Fld := ⟨63, 60⟩
def fStuSatpPpn : Fld := ⟨43, 0⟩
def fStuStatusMigOvf : Fld := ⟨3, 3⟩
def fStuStatusShootOvf : Fld := ⟨2, 2⟩
def fStuStatusResolveStale : Fld := ⟨1, 1⟩
def fStuStatusFqHeld : Fld := ⟨0, 0⟩
def fStuShootVa : Fld := ⟨63, 12⟩
def fStuShootCount : Fld := ⟨11, 6⟩
def fStuShootUnit : Fld := ⟨5, 4⟩
def fStuShootKind : Fld := ⟨3, 0⟩
def fStuShootSeqAccepted : Fld := ⟨63, 32⟩
def fStuShootSeqDone : Fld := ⟨31, 0⟩
def fFqBaseBase : Fld := ⟨55, 12⟩
def fFqBaseLog2n : Fld := ⟨4, 0⟩
def fFqHeadIndex : Fld := ⟨31, 0⟩
def fFqTailIndex : Fld := ⟨31, 0⟩
def fStuResolveFseq : Fld := ⟨63, 32⟩
def fStuResolveAction : Fld := ⟨1, 0⟩
def fStuMigrateDesc : Fld := ⟨55, 6⟩
def fStuCntCtrlHotThr : Fld := ⟨47, 32⟩
def fStuCntCtrlClear : Fld := ⟨1, 1⟩
def fStuCntCtrlEn : Fld := ⟨0, 0⟩
def fStuWalksCount : Fld := ⟨63, 0⟩
def fStuFaultsCount : Fld := ⟨63, 0⟩
def fStuDuplicatesCount : Fld := ⟨63, 0⟩
def fStuShootdownsCount : Fld := ⟨63, 0⟩
def fStuMigrationsCount : Fld := ⟨63, 0⟩
def fCntMissedCount : Fld := ⟨63, 0⟩
def fEdgeCtrlCrcThr : Fld := ⟨31, 16⟩
def fEdgeCtrlState : Fld := ⟨7, 5⟩
def fEdgeCtrlEn : Fld := ⟨0, 0⟩
def fEdgeStatusClosed1 : Fld := ⟨39, 32⟩
def fEdgeStatusHalf1 : Fld := ⟨31, 24⟩
def fEdgeStatusClosed0 : Fld := ⟨23, 16⟩
def fEdgeStatusHalf0 : Fld := ⟨15, 8⟩
def fEdgeStatusRefused : Fld := ⟨7, 7⟩
def fEdgeStatusCond : Fld := ⟨1, 0⟩
def fEdgeReplaysCount : Fld := ⟨63, 0⟩
def fEdgeWireTestsCount : Fld := ⟨63, 0⟩
def fNetRouteSwitching : Fld := ⟨16, 16⟩
def fNetRouteEpoch : Fld := ⟨15, 0⟩
def fBundleStatusWidth : Fld := ⟨63, 62⟩
def fBundleStatusHalf : Fld := ⟨61, 61⟩
def fBundleStatusRetired : Fld := ⟨47, 40⟩
def fBundleStatusInUse : Fld := ⟨39, 32⟩
def fBundleStatusWireFails : Fld := ⟨31, 16⟩
def fBundleSparesSpares : Fld := ⟨63, 0⟩
def fPortCtrlTxPol : Fld := ⟨63, 56⟩
def fPortCtrlRxPol : Fld := ⟨55, 48⟩
def fPortCtrlPfcEn : Fld := ⟨23, 16⟩
def fPortCtrlAn : Fld := ⟨12, 12⟩
def fPortCtrlMode : Fld := ⟨11, 8⟩
def fPortCtrlState : Fld := ⟨7, 5⟩
def fPortCtrlEn : Fld := ⟨0, 0⟩
def fPortCtrlFeTxPol : Fld := ⟨63, 56⟩
def fPortCtrlFeRxPol : Fld := ⟨55, 48⟩
def fPortCtrlFePfcEn : Fld := ⟨23, 16⟩
def fPortCtrlFeAn : Fld := ⟨12, 12⟩
def fPortCtrlFeMode : Fld := ⟨11, 8⟩
def fPortCtrlFeState : Fld := ⟨7, 5⟩
def fPortCtrlFeEn : Fld := ⟨0, 0⟩
def fPortStatusTrainMs : Fld := ⟨47, 32⟩
def fPortStatusClosed : Fld := ⟨23, 16⟩
def fPortStatusLanes : Fld := ⟨11, 8⟩
def fPortStatusDownCause : Fld := ⟨7, 4⟩
def fPortStatusLink : Fld := ⟨0, 0⟩
def fPortMacMac : Fld := ⟨47, 0⟩
def fPortIpv4Addr : Fld := ⟨31, 0⟩
def fPortIpv6HiAddr : Fld := ⟨63, 0⟩
def fPortIpv6LoAddr : Fld := ⟨63, 0⟩
def fPortPfcWdMs : Fld := ⟨63, 48⟩
def fPortPfcWdDown : Fld := ⟨0, 0⟩
def fPortLaneLaneThr : Fld := ⟨31, 0⟩
def fPortCountersCount : Fld := ⟨63, 0⟩
def fRoceQpAddrAddr : Fld := ⟨55, 6⟩
def fRoceQpCmdOp : Fld := ⟨63, 60⟩
def fRoceQpCmdQp : Fld := ⟨11, 0⟩
def fRoceQpStatusErr : Fld := ⟨1, 1⟩
def fRoceQpStatusBusy : Fld := ⟨0, 0⟩
def fRoceSqDbPi : Fld := ⟨47, 32⟩
def fRoceSqDbQp : Fld := ⟨11, 0⟩
def fRoceCqBaseBase : Fld := ⟨55, 12⟩
def fRoceCqBaseLog2n : Fld := ⟨4, 0⟩
def fRoceCqHeadIndex : Fld := ⟨31, 0⟩
def fRoceCqTailIndex : Fld := ⟨31, 0⟩
def fMrEntryWord : Fld := ⟨63, 0⟩
def fDzCtrlRtoUs : Fld := ⟨63, 48⟩
def fDzCtrlFlowIdle : Fld := ⟨47, 32⟩
def fDzCtrlKaMs : Fld := ⟨31, 24⟩
def fDzCtrlEcnThr : Fld := ⟨23, 16⟩
def fDzCtrlRetry : Fld := ⟨15, 12⟩
def fDzCtrlHops : Fld := ⟨10, 8⟩
def fDzCtrlState : Fld := ⟨7, 5⟩
def fDzCtrlEn : Fld := ⟨0, 0⟩
def fDzSelfEpoch : Fld := ⟨63, 48⟩
def fDzSelfJob : Fld := ⟨47, 32⟩
def fDzSelfEp : Fld := ⟨17, 0⟩
def fDzStatusSpray : Fld := ⟨35, 32⟩
def fDzStatusFlows : Fld := ⟨14, 0⟩
def fDzRwinBaseAddr : Fld := ⟨55, 12⟩
def fDzRwinLimitAddr : Fld := ⟨55, 12⟩
def fDzPortCheck : Fld := ⟨63, 63⟩
def fDzPortLost : Fld := ⟨62, 62⟩
def fDzPortMismatch : Fld := ⟨61, 61⟩
def fDzPortSpray : Fld := ⟨60, 60⟩
def fDzPortLevel : Fld := ⟨57, 56⟩
def fDzPortNbEp : Fld := ⟨49, 32⟩
def fDzPortPeer : Fld := ⟨17, 0⟩
def fDzCountersCount : Fld := ⟨63, 0⟩
def fPortSatCount : Fld := ⟨63, 0⟩
def fLevelSatCount : Fld := ⟨63, 0⟩
def fDzCmdBaseBase : Fld := ⟨55, 12⟩
def fDzCmdBaseLog2n : Fld := ⟨4, 0⟩
def fDzCmdCiStopped : Fld := ⟨63, 63⟩
def fDzCmdCiIndex : Fld := ⟨15, 0⟩
def fDzCmdDbPi : Fld := ⟨47, 32⟩
def fDzCmdDbRing : Fld := ⟨3, 0⟩
def fDzCqBaseBase : Fld := ⟨55, 12⟩
def fDzCqBaseLog2n : Fld := ⟨4, 0⟩
def fDzCqHeadIndex : Fld := ⟨31, 0⟩
def fDzCqTailIndex : Fld := ⟨31, 0⟩
def fDzMqBaseBase : Fld := ⟨55, 12⟩
def fDzMqBaseLog2slot : Fld := ⟨11, 8⟩
def fDzMqBaseLog2n : Fld := ⟨4, 0⟩
def fDzMqHeadIndex : Fld := ⟨31, 0⟩
def fDzMqTailIndex : Fld := ⟨31, 0⟩
def fDzGroupRtMask : Fld := ⟨15, 0⟩
def fDzMemberRtMask : Fld := ⟨15, 0⟩
def fDzWindowValid : Fld := ⟨63, 63⟩
def fDzWindowEp : Fld := ⟨17, 0⟩
def fShgCtrlSeed : Fld := ⟨63, 32⟩
def fShgCtrlHold : Fld := ⟨16, 16⟩
def fShgCtrlState : Fld := ⟨7, 5⟩
def fShgCtrlEn : Fld := ⟨0, 0⟩
def fShgStatusPagesFree : Fld := ⟨44, 32⟩
def fShgStatusInflight : Fld := ⟨26, 16⟩
def fShgStatusArmQueued : Fld := ⟨14, 8⟩
def fShgStatusArmOvf : Fld := ⟨7, 7⟩
def fShgStatusGroupBusy : Fld := ⟨6, 6⟩
def fShgStatusFlags : Fld := ⟨5, 0⟩
def fShgArmDesc : Fld := ⟨55, 6⟩
def fShgCmdOp : Fld := ⟨63, 60⟩
def fShgCmdTag : Fld := ⟨11, 0⟩
def fShgCountersCount : Fld := ⟨63, 0⟩
def fShgGroupW0Valid : Fld := ⟨63, 63⟩
def fShgGroupW0Myrank : Fld := ⟨47, 32⟩
def fShgGroupW0N : Fld := ⟨16, 0⟩
def fShgGroupW1Ranktab : Fld := ⟨55, 3⟩
def fShgBucketState : Fld := ⟨63, 61⟩
def fShgBucketGen : Fld := ⟨55, 48⟩
def fShgBucketDelivered : Fld := ⟨46, 24⟩
def fShgBucketRemaining : Fld := ⟨22, 0⟩
def fRidgeGoTree : Fld := ⟨7, 0⟩
def fRidgeStatusGoIgnored : Fld := ⟨0, 0⟩
def fRidgeDropsCount : Fld := ⟨63, 0⟩
def fRidgeBytesCount : Fld := ⟨39, 0⟩
def fRidgeTreeWord : Fld := ⟨63, 0⟩
def fWqCtrlAheadUs : Fld := ⟨15, 0⟩
def fWqNotifyValid : Fld := ⟨63, 63⟩
def fWqNotifyQueue : Fld := ⟨55, 48⟩
def fWqNotifySeq : Fld := ⟨47, 0⟩
def fWqCompleteQueue : Fld := ⟨63, 56⟩
def fWqCompleteStatus : Fld := ⟨55, 48⟩
def fWqCompleteSeq : Fld := ⟨47, 0⟩
def fDescReadCount : Fld := ⟨63, 0⟩
def fDbIgnoredCount : Fld := ⟨63, 0⟩
def fAheadRetriesCount : Fld := ⟨63, 0⟩
def fCompleteIgnoredCount : Fld := ⟨63, 0⟩
def fWqCfgRkey : Fld := ⟨63, 32⟩
def fWqCfgQp : Fld := ⟨27, 16⟩
def fWqCfgLocal : Fld := ⟨15, 15⟩
def fWqCfgState : Fld := ⟨7, 5⟩
def fWqCfgEn : Fld := ⟨0, 0⟩
def fWqRingBase : Fld := ⟨55, 12⟩
def fWqRingLog2n : Fld := ⟨4, 0⟩
def fWqCqAddr : Fld := ⟨63, 5⟩
def fWqAccAddr : Fld := ⟨63, 3⟩
def fWqStatusCond : Fld := ⟨63, 61⟩
def fWqStatusNext : Fld := ⟨47, 0⟩
def fWqProdProd : Fld := ⟨47, 0⟩
def fLedgerStatusIncarnation : Fld := ⟨63, 32⟩
def fLedgerStatusLive : Fld := ⟨30, 16⟩
def fLedgerStatusRecovering : Fld := ⟨4, 4⟩
def fLedgerStatusMirrorOk : Fld := ⟨3, 3⟩
def fLedgerCmdFresh : Fld := ⟨1, 1⟩
def fLedgerCmdReplay : Fld := ⟨0, 0⟩
def fLedgerAcceptedCount : Fld := ⟨63, 0⟩
def fLedgerRetiredCount : Fld := ⟨63, 0⟩
def fLedgerReplayedCount : Fld := ⟨63, 0⟩
def fMirrorWritesCount : Fld := ⟨63, 0⟩
def fFullWaitCyclesCount : Fld := ⟨63, 0⟩
def fFtStatusRefPort : Fld := ⟨20, 16⟩
def fFtStatusPps : Fld := ⟨9, 8⟩
def fFtStatusQuality : Fld := ⟨1, 0⟩
def fFtNsNs : Fld := ⟨63, 0⟩
def fFtNsfracNsfrac : Fld := ⟨63, 0⟩
def fFtAdjAdj : Fld := ⟨31, 0⟩
def fFtOffsetOffset : Fld := ⟨63, 0⟩
def fFtPpsTsTs : Fld := ⟨63, 0⟩
def fFtCountersCount : Fld := ⟨63, 0⟩
def fTeEntryWord : Fld := ⟨63, 0⟩
def fTeFiredWord : Fld := ⟨63, 0⟩
def fLvCtrlForceWin : Fld := ⟨23, 16⟩
def fLvCtrlMatch : Fld := ⟨15, 8⟩
def fLvCtrlLearn : Fld := ⟨0, 0⟩
def fLvStatusCapW : Fld := ⟨63, 48⟩
def fLvStatusFloorW : Fld := ⟨47, 32⟩
def fLvStatusShare : Fld := ⟨31, 24⟩
def fLvStatusForced : Fld := ⟨13, 13⟩
def fLvStatusPhase : Fld := ⟨12, 8⟩
def fLvStatusGuard : Fld := ⟨0, 0⟩
def fLvPowerDemandW : Fld := ⟨47, 32⟩
def fLvPowerEstimateW : Fld := ⟨31, 16⟩
def fLvPowerMeasuredW : Fld := ⟨15, 0⟩
def fLvReasonSeen : Fld := ⟨31, 16⟩
def fLvReasonActive : Fld := ⟨15, 0⟩
def fLvCmdClearLearned : Fld := ⟨1, 1⟩
def fLvCmdClearGuard : Fld := ⟨0, 0⟩
def fLvForceIgnoredCount : Fld := ⟨63, 0⟩
def fReasonTotalUsCount : Fld := ⟨63, 0⟩
def fReasonLastUsCount : Fld := ⟨31, 0⟩
def fLvSigW0Valid : Fld := ⟨63, 63⟩
def fLvSigW0Locked : Fld := ⟨62, 62⟩
def fLvSigW0Key : Fld := ⟨31, 0⟩
def fLvSigW1Share : Fld := ⟨7, 0⟩
def fLvSigW2PowerW : Fld := ⟨15, 0⟩
def fLvSigW3Uses : Fld := ⟨63, 0⟩
def fMbReqAddr : Fld := ⟨55, 4⟩
def fMbRespAddr : Fld := ⟨55, 4⟩
def fMbStatusStatus : Fld := ⟨15, 8⟩
def fMbStatusOvf : Fld := ⟨2, 2⟩
def fMbStatusBusy : Fld := ⟨1, 1⟩
def fMbStatusDone : Fld := ⟨0, 0⟩
def fMpStatusFailovers : Fld := ⟨63, 32⟩
def fMpStatusAlive : Fld := ⟨19, 16⟩
def fMpStatusLead : Fld := ⟨9, 8⟩
def fMpStatusQueued : Fld := ⟨7, 0⟩
def fSecStatusExtRefused : Fld := ⟨21, 21⟩
def fSecStatusJwBusy : Fld := ⟨20, 20⟩
def fSecStatusWipeRefused : Fld := ⟨19, 19⟩
def fSecStatusLcsPartial : Fld := ⟨18, 18⟩
def fSecStatusDebugOpen : Fld := ⟨17, 17⟩
def fSecStatusNetboot : Fld := ⟨16, 16⟩
def fSecStatusBootSel : Fld := ⟨13, 12⟩
def fSecStatusHostSlot : Fld := ⟨11, 11⟩
def fSecStatusMpSlot : Fld := ⟨10, 10⟩
def fSecStatusLcs : Fld := ⟨2, 0⟩
def fSecCmdOp : Fld := ⟨1, 0⟩
def fSecExtendIndex : Fld := ⟨63, 60⟩
def fSecExtendAddr : Fld := ⟨55, 6⟩
def fJwKeepBaseAddr : Fld := ⟨55, 16⟩
def fJwKeepLimitAddr : Fld := ⟨55, 16⟩
def fSecMeasWord : Fld := ⟨63, 0⟩
def fLbPortPrbs : Fld := ⟨18, 16⟩
def fLbPortDepth : Fld := ⟨3, 0⟩
def fPrbsErrNolock : Fld := ⟨63, 63⟩
def fPrbsErrCount : Fld := ⟨62, 0⟩
def fBistCmdOp : Fld := ⟨63, 60⟩
def fBistCmdTarget : Fld := ⟨16, 0⟩
def fLbStatusBusy : Fld := ⟨63, 63⟩
def fLbStatusOvf : Fld := ⟨62, 62⟩
def fLbStatusRefused : Fld := ⟨61, 61⟩
def fLbStatusScanRefused : Fld := ⟨60, 60⟩
def fLbStatusLastOp : Fld := ⟨59, 56⟩
def fLbStatusFail : Fld := ⟨15, 0⟩

/-- The description of each register. -/
def regSpec : RegId → RegSpec
  -- DIE_CMD (R423)
  | .dieCmd => ⟨true, 0x0, 1, 0x0, [], false,
      [⟨fDieCmdAbort, .wo, 0⟩]⟩
  -- DIE_STATUS (R423)
  | .dieStatus => ⟨true, 0x0, 1, 0x8, [], false,
      [⟨fDieStatusAbortBusy, .ro, 0⟩]⟩
  -- GABLE_CTRL (R118)
  | .gableCtrl => ⟨true, 0x1, 16, 0x0, [], false,
      [⟨fGableCtrlWdExp, .rw, 0x14⟩, ⟨fGableCtrlState, .ro, 2⟩, ⟨fGableCtrlEn, .rw, 1⟩]⟩
  -- GABLE_STATUS (R118)
  | .gableStatus => ⟨true, 0x1, 16, 0x8, [], false,
      [⟨fGableStatusResident, .ro, 0⟩, ⟨fGableStatusFreeRegs, .ro, 0x8020080200⟩]⟩
  -- GABLE_STOPPED (R118)
  | .gableStopped => ⟨true, 0x1, 16, 0x10, [], false,
      [⟨fGableStoppedStopped, .ro, 0⟩]⟩
  -- COPY_STATUS (R118)
  | .copyStatus => ⟨true, 0x1, 16, 0x18, [], false,
      [⟨fCopyStatusQueued, .ro, 0⟩, ⟨fCopyStatusFlags, .w1c, 0⟩]⟩
  -- CELL_STATUS (R82)
  | .cellStatus => ⟨true, 0x1, 16, 0x200, [(2, 8)], false,
      [⟨fCellStatusB1Group, .ro, 0⟩, ⟨fCellStatusB1State, .ro, 0⟩, ⟨fCellStatusB1Gang, .ro, 0⟩, ⟨fCellStatusB0Group, .ro, 0⟩, ⟨fCellStatusB0State, .ro, 0⟩, ⟨fCellStatusB0Gang, .ro, 0⟩, ⟨fCellStatusFlags, .w1c, 0⟩]⟩
  -- CELL_MAC_CYCLES (R82)
  | .cellMacCycles => ⟨true, 0x1, 16, 0x210, [(2, 8)], false,
      [⟨fCellMacCyclesCount, .rc, 0⟩]⟩
  -- CELL_GUTTER_WAIT (R82)
  | .cellGutterWait => ⟨true, 0x1, 16, 0x220, [(2, 8)], false,
      [⟨fCellGutterWaitCount, .rc, 0⟩]⟩
  -- GROUP_STATE (R118)
  | .groupState => ⟨true, 0x1, 16, 0x400, [(64, 0x20)], false,
      [⟨fGroupStateActive, .ro, 0⟩, ⟨fGroupStateFault, .ro, 0⟩, ⟨fGroupStateRegs, .ro, 0⟩, ⟨fGroupStatePaths, .ro, 0⟩, ⟨fGroupStateRun, .ro, 0⟩]⟩
  -- GROUP_PC (R118)
  | .groupPc => ⟨true, 0x1, 16, 0x408, [(64, 0x20)], false,
      [⟨fGroupPcPc, .ro, 0⟩]⟩
  -- GROUP_CTRL (R118)
  | .groupCtrl => ⟨true, 0x1, 16, 0x410, [(64, 0x20)], false,
      [⟨fGroupCtrlAction, .wo, 0⟩]⟩
  -- ARRIVAL_CNT (R118)
  | .arrivalCnt => ⟨true, 0x1, 16, 0xc00, [(64, 8)], false,
      [⟨fArrivalCntValue, .rw, 0⟩]⟩
  -- SCRATCH_CONFLICT_CYCLES (R118)
  | .scratchConflictCycles => ⟨true, 0x1, 16, 0xe00, [], false,
      [⟨fScratchConflictCyclesCount, .rc, 0⟩]⟩
  -- REG_CONFLICT_CYCLES (R118)
  | .regConflictCycles => ⟨true, 0x1, 16, 0xe08, [], false,
      [⟨fRegConflictCyclesCount, .rc, 0⟩]⟩
  -- COPY_BYTES (R118)
  | .copyBytes => ⟨true, 0x1, 16, 0xe10, [], false,
      [⟨fCopyBytesCount, .rc, 0⟩]⟩
  -- ELEM_CTRL (R145)
  | .elemCtrl => ⟨true, 0x1, 16, 0x1000, [], false,
      [⟨fElemCtrlSeed, .rw, 0⟩, ⟨fElemCtrlDefRm, .rw, 0⟩]⟩
  -- ELEM_STATUS (R145)
  | .elemStatus => ⟨true, 0x1, 16, 0x1008, [], false,
      [⟨fElemStatusPc, .ro, 0⟩, ⟨fElemStatusSlot, .ro, 0⟩, ⟨fElemStatusRun, .ro, 0⟩, ⟨fElemStatusBlocked, .ro, 0⟩, ⟨fElemStatusIndexRange, .w1c, 0⟩, ⟨fElemStatusFlags, .w1c, 0⟩]⟩
  -- GUTTER_STATUS (R145)
  | .gutterStatus => ⟨true, 0x1, 16, 0x1010, [], false,
      [⟨fGutterStatusEntries, .ro, 0⟩, ⟨fGutterStatusC1Entries, .ro, 0⟩, ⟨fGutterStatusC0Entries, .ro, 0⟩]⟩
  -- ELEM_RUNS (R145)
  | .elemRuns => ⟨true, 0x1, 16, 0x1018, [], false,
      [⟨fElemRunsCount, .rc, 0⟩]⟩
  -- ELEM_BUSY_CYCLES (R145)
  | .elemBusyCycles => ⟨true, 0x1, 16, 0x1020, [], false,
      [⟨fElemBusyCyclesCount, .rc, 0⟩]⟩
  -- ELEM_BLOCKED_CYCLES (R145)
  | .elemBlockedCycles => ⟨true, 0x1, 16, 0x1028, [], false,
      [⟨fElemBlockedCyclesCount, .rc, 0⟩]⟩
  -- ELEM_SLOT (R145)
  | .elemSlot => ⟨true, 0x1, 16, 0x2000, [(8, 0x280), (80, 8)], false,
      [⟨fElemSlotWord, .rw, 0⟩]⟩
  -- GLAUNCH (R204)
  | .glaunch => ⟨true, 0x1, 16, 0x3800, [], false,
      [⟨fGlaunchAddr, .wo, 0⟩]⟩
  -- GLAUNCH_STATUS (R204)
  | .glaunchStatus => ⟨true, 0x1, 16, 0x3808, [], false,
      [⟨fGlaunchStatusInvalid, .w1c, 0⟩, ⟨fGlaunchStatusDrop, .w1c, 0⟩, ⟨fGlaunchStatusPending, .ro, 0⟩]⟩
  -- DC_CTRL (R230)
  | .dcCtrl => ⟨true, 0x20, 1, 0x0, [], false,
      [⟨fDcCtrlCways, .rw, 0xffffff⟩, ⟨fDcCtrlGways, .rw, 0xffffff⟩]⟩
  -- DC_HITS (R230)
  | .dcHits => ⟨true, 0x20, 1, 0x100, [], false,
      [⟨fDcHitsCount, .rc, 0⟩]⟩
  -- DC_MISSES (R230)
  | .dcMisses => ⟨true, 0x20, 1, 0x108, [], false,
      [⟨fDcMissesCount, .rc, 0⟩]⟩
  -- DC_SNOOPS (R230)
  | .dcSnoops => ⟨true, 0x20, 1, 0x110, [], false,
      [⟨fDcSnoopsCount, .rc, 0⟩]⟩
  -- DC_WRITEBACKS (R230)
  | .dcWritebacks => ⟨true, 0x20, 1, 0x118, [], false,
      [⟨fDcWritebacksCount, .rc, 0⟩]⟩
  -- TC_STATUS (R278)
  | .tcStatus => ⟨true, 0x21, 1, 0x0, [], false,
      [⟨fTcStatusValid, .ro, 0⟩]⟩
  -- TC_HITS (R278)
  | .tcHits => ⟨true, 0x21, 1, 0x100, [], false,
      [⟨fTcHitsCount, .rc, 0⟩]⟩
  -- TC_MISSES (R278)
  | .tcMisses => ⟨true, 0x21, 1, 0x108, [], false,
      [⟨fTcMissesCount, .rc, 0⟩]⟩
  -- GTC_MISSES (R278)
  | .gtcMisses => ⟨true, 0x21, 1, 0x110, [], false,
      [⟨fGtcMissesCount, .rc, 0⟩]⟩
  -- TC_FOLDED (R278)
  | .tcFolded => ⟨true, 0x21, 1, 0x118, [], false,
      [⟨fTcFoldedCount, .rc, 0⟩]⟩
  -- TS_CTRL (R183)
  | .tsCtrl => ⟨true, 0x22, 1, 0x0, [], false,
      [⟨fTsCtrlBatch, .rw, 4⟩, ⟨fTsCtrlState, .ro, 2⟩, ⟨fTsCtrlEn, .rw, 1⟩]⟩
  -- TS_STATUS (R183)
  | .tsStatus => ⟨true, 0x22, 1, 0x8, [], false,
      [⟨fTsStatusPoolFree, .ro, 0x1000⟩, ⟨fTsStatusListsFree, .ro, 0x10⟩, ⟨fTsStatusListOvf, .w1c, 0⟩]⟩
  -- TS_LIST_ADDR (R183)
  | .tsListAddr => ⟨true, 0x22, 1, 0x10, [], false,
      [⟨fTsListAddrAddr, .rw, 0⟩]⟩
  -- TS_LIST_GO (R183)
  | .tsListGo => ⟨true, 0x22, 1, 0x18, [], false,
      [⟨fTsListGoCount, .wo, 0⟩]⟩
  -- TS_GQ (R183)
  | .tsGq => ⟨true, 0x22, 1, 0x100, [(16, 8)], false,
      [⟨fTsGqReady, .ro, 0⟩, ⟨fTsGqQueued, .ro, 0⟩]⟩
  -- TS_LAUNCHES (R183)
  | .tsLaunches => ⟨true, 0x22, 1, 0x200, [], false,
      [⟨fTsLaunchesCount, .rc, 0⟩]⟩
  -- TS_STEALS_DIE (R183)
  | .tsStealsDie => ⟨true, 0x22, 1, 0x208, [], false,
      [⟨fTsStealsDieCount, .rc, 0⟩]⟩
  -- TS_STEALS_BD (R183)
  | .tsStealsBd => ⟨true, 0x22, 1, 0x210, [], false,
      [⟨fTsStealsBdCount, .rc, 0⟩]⟩
  -- TS_STEALS_NODE (R183)
  | .tsStealsNode => ⟨true, 0x22, 1, 0x218, [], false,
      [⟨fTsStealsNodeCount, .rc, 0⟩]⟩
  -- TS_SPLITS (R183)
  | .tsSplits => ⟨true, 0x22, 1, 0x220, [], false,
      [⟨fTsSplitsCount, .rc, 0⟩]⟩
  -- TS_IDLE_CYCLES (R183)
  | .tsIdleCycles => ⟨true, 0x22, 1, 0x228, [], false,
      [⟨fTsIdleCyclesCount, .rc, 0⟩]⟩
  -- MTIME (R204)
  | .mtime => ⟨true, 0x30, 1, 0x0, [], false,
      [⟨fMtimeValue, .ro, 0⟩]⟩
  -- MTIMECMP (R204)
  | .mtimecmp => ⟨true, 0x30, 1, 0x100, [(8, 8)], false,
      [⟨fMtimecmpValue, .rw, 0xffffffffffffffff⟩]⟩
  -- DEP_WATCH (R204)
  | .depWatch => ⟨true, 0x30, 1, 0x300, [(16, 8)], false,
      [⟨fDepWatchEn, .rw, 0⟩, ⟨fDepWatchMfile, .rw, 0⟩, ⟨fDepWatchCnt, .rw, 0⟩, ⟨fDepWatchCore, .rw, 0⟩, ⟨fDepWatchEiid, .rw, 0⟩, ⟨fDepWatchThr, .rw, 0⟩]⟩
  -- IMSIC_M_SETEIPNUM (R204)
  | .imsicMSeteipnum => ⟨true, 0x30, 1, 0x800, [(8, 0x10)], false,
      [⟨fImsicMSeteipnumEiid, .wo, 0⟩]⟩
  -- IMSIC_S_SETEIPNUM (R204)
  | .imsicSSeteipnum => ⟨true, 0x30, 1, 0x808, [(8, 0x10)], false,
      [⟨fImsicSSeteipnumEiid, .wo, 0⟩]⟩
  -- LP_STATUS (R465)
  | .lpStatus => ⟨true, 0x40, 1, 0x0, [], false,
      [⟨fLpStatusTempC, .ro, 0⟩, ⟨fLpStatusPowerDw, .ro, 0⟩, ⟨fLpStatusReason, .ro, 0⟩, ⟨fLpStatusDuty, .ro, 0x10⟩, ⟨fLpStatusHp, .ro, 0⟩, ⟨fLpStatusOp, .ro, 0⟩]⟩
  -- LP_LIMIT (R465)
  | .lpLimit => ⟨true, 0x40, 1, 0x8, [], false,
      [⟨fLpLimitHpMin, .rw, 0⟩, ⟨fLpLimitOpMin, .rw, 0⟩]⟩
  -- LP_DROOP (R465)
  | .lpDroop => ⟨true, 0x40, 1, 0x10, [], false,
      [⟨fLpDroopThreshMv, .rw, 0x28⟩]⟩
  -- LP_DROOP_EVENTS (R465)
  | .lpDroopEvents => ⟨true, 0x40, 1, 0x18, [], false,
      [⟨fLpDroopEventsCount, .rc, 0⟩]⟩
  -- LP_STRETCH_CYCLES (R465)
  | .lpStretchCycles => ⟨true, 0x40, 1, 0x20, [], false,
      [⟨fLpStretchCyclesCount, .rc, 0⟩]⟩
  -- FENCE (R423)
  | .fence => ⟨false, 0x0, 1, 0x8, [], true,
      [⟨fFenceFenced, .w1s, 0⟩]⟩
  -- RST_CAUSE (R423)
  | .rstCause => ⟨false, 0x0, 1, 0x10, [], false,
      [⟨fRstCauseCause, .ro, 0⟩]⟩
  -- ERR_HEAD (R423)
  | .errHead => ⟨false, 0x0, 1, 0x18, [], false,
      [⟨fErrHeadIndex, .rw, 0⟩]⟩
  -- ERR_TAIL (R423)
  | .errTail => ⟨false, 0x0, 1, 0x20, [], false,
      [⟨fErrTailIndex, .ro, 0⟩]⟩
  -- ERR_DROPPED (R423)
  | .errDropped => ⟨false, 0x0, 1, 0x28, [], false,
      [⟨fErrDroppedCount, .rc, 0⟩]⟩
  -- FENCE_DROPS (R423)
  | .fenceDrops => ⟨false, 0x0, 1, 0x30, [], false,
      [⟨fFenceDropsCount, .rc, 0⟩]⟩
  -- CKPT_CMD (R423)
  | .ckptCmd => ⟨false, 0x0, 1, 0x40, [], true,
      [⟨fCkptCmdOp, .wo, 0⟩, ⟨fCkptCmdCut, .wo, 0⟩]⟩
  -- CKPT_STATUS (R423)
  | .ckptStatus => ⟨false, 0x0, 1, 0x48, [], true,
      [⟨fCkptStatusLastCut, .ro, 0⟩, ⟨fCkptStatusFail, .ro, 0⟩, ⟨fCkptStatusRestored, .ro, 0⟩, ⟨fCkptStatusPhase, .ro, 0⟩]⟩
  -- ERR_REC (R423)
  | .errRec => ⟨false, 0x0, 1, 0x10000, [(4096, 0x40), (8, 8)], false,
      [⟨fErrRecWord, .ro, 0⟩]⟩
  -- APLIC_M (R199)
  | .aplicM => ⟨false, 0x0, 1, 0x80000, [(4096, 8)], false,
      [⟨fAplicMReg, .rw, 0⟩]⟩
  -- APLIC_S (R199)
  | .aplicS => ⟨false, 0x0, 1, 0x90000, [(4096, 8)], false,
      [⟨fAplicSReg, .rw, 0⟩]⟩
  -- DIR_CTRL (R230)
  | .dirCtrl => ⟨false, 0x10, 1, 0x0, [], false,
      [⟨fDirCtrlSnoopTo, .rw, 0x64⟩]⟩
  -- DIR_STATUS (R230)
  | .dirStatus => ⟨false, 0x10, 1, 0x8, [], false,
      [⟨fDirStatusBusy, .ro, 0⟩, ⟨fDirStatusScanDie, .ro, 0⟩, ⟨fDirStatusScan, .ro, 0⟩]⟩
  -- DIR_LOOKUPS (R230)
  | .dirLookups => ⟨false, 0x10, 1, 0x100, [], false,
      [⟨fDirLookupsCount, .rc, 0⟩]⟩
  -- DIR_EVICTIONS (R230)
  | .dirEvictions => ⟨false, 0x10, 1, 0x108, [], false,
      [⟨fDirEvictionsCount, .rc, 0⟩]⟩
  -- DIR_RECALLS (R230)
  | .dirRecalls => ⟨false, 0x10, 1, 0x110, [], false,
      [⟨fDirRecallsCount, .rc, 0⟩]⟩
  -- DIR_C2C (R230)
  | .dirC2c => ⟨false, 0x10, 1, 0x118, [], false,
      [⟨fDirC2cCount, .rc, 0⟩]⟩
  -- DIR_LOST_LINES (R230)
  | .dirLostLines => ⟨false, 0x10, 1, 0x120, [], false,
      [⟨fDirLostLinesCount, .rc, 0⟩]⟩
  -- HBM_CTRL (R258)
  | .hbmCtrl => ⟨false, 0x11, 1, 0x0, [], false,
      [⟨fHbmCtrlCeThreshold, .rw, 0x400⟩]⟩
  -- HBM_STATUS (R258)
  | .hbmStatus => ⟨false, 0x11, 1, 0x8, [], false,
      [⟨fHbmStatusFenced, .ro, 0⟩, ⟨fHbmStatusMapping, .ro, 0⟩, ⟨fHbmStatusStack, .ro, 0⟩]⟩
  -- HBM_CE_COUNT (R258)
  | .hbmCeCount => ⟨false, 0x11, 1, 0x100, [(3, 0x20)], false,
      [⟨fHbmCeCountCount, .rc, 0⟩]⟩
  -- HBM_UE_COUNT (R258)
  | .hbmUeCount => ⟨false, 0x11, 1, 0x108, [(3, 0x20)], false,
      [⟨fHbmUeCountCount, .rc, 0⟩]⟩
  -- HBM_RETRY_COUNT (R258)
  | .hbmRetryCount => ⟨false, 0x11, 1, 0x110, [(3, 0x20)], false,
      [⟨fHbmRetryCountCount, .rc, 0⟩]⟩
  -- HBM_SCRUB_LINES (R258)
  | .hbmScrubLines => ⟨false, 0x11, 1, 0x118, [(3, 0x20)], false,
      [⟨fHbmScrubLinesCount, .rc, 0⟩]⟩
  -- NMC_CTRL (R258)
  | .nmcCtrl => ⟨false, 0x12, 1, 0x0, [], false,
      [⟨fNmcCtrlState, .ro, 2⟩, ⟨fNmcCtrlInv, .wo, 0⟩, ⟨fNmcCtrlEn, .rw, 1⟩]⟩
  -- NMC_STATUS (R258)
  | .nmcStatus => ⟨false, 0x12, 1, 0x8, [], false,
      [⟨fNmcStatusInvIgnored, .w1c, 0⟩, ⟨fNmcStatusInvBusy, .ro, 0⟩, ⟨fNmcStatusStaleSinceDisable, .ro, 0⟩]⟩
  -- NMC_SEED (R258)
  | .nmcSeed => ⟨false, 0x12, 1, 0x10, [], false,
      [⟨fNmcSeedSeed, .rw, 1⟩]⟩
  -- NMC_WAYMASK (R258)
  | .nmcWaymask => ⟨false, 0x12, 1, 0x18, [], false,
      [⟨fNmcWaymaskWalk, .rw, 0xffff⟩, ⟨fNmcWaymaskDma, .rw, 0xffff⟩, ⟨fNmcWaymaskHost, .rw, 0xffff⟩, ⟨fNmcWaymaskGable, .rw, 0xffff⟩]⟩
  -- NMC_PF (R258)
  | .nmcPf => ⟨false, 0x12, 1, 0x20, [], false,
      [⟨fNmcPfWindow, .rw, 0x40⟩, ⟨fNmcPfDepth, .rw, 8⟩, ⟨fNmcPfPfEn, .rw, 3⟩]⟩
  -- NMC_HITS (R258)
  | .nmcHits => ⟨false, 0x12, 1, 0x100, [], false,
      [⟨fNmcHitsCount, .rc, 0⟩]⟩
  -- NMC_MISSES (R258)
  | .nmcMisses => ⟨false, 0x12, 1, 0x108, [], false,
      [⟨fNmcMissesCount, .rc, 0⟩]⟩
  -- EAVES_HITS (R258)
  | .eavesHits => ⟨false, 0x12, 1, 0x110, [], false,
      [⟨fEavesHitsCount, .rc, 0⟩]⟩
  -- TRANSOM_HITS (R258)
  | .transomHits => ⟨false, 0x12, 1, 0x118, [], false,
      [⟨fTransomHitsCount, .rc, 0⟩]⟩
  -- TRANSOM_UNUSED (R258)
  | .transomUnused => ⟨false, 0x12, 1, 0x120, [], false,
      [⟨fTransomUnusedCount, .rc, 0⟩]⟩
  -- NMC_WRITEBACKS (R258)
  | .nmcWritebacks => ⟨false, 0x12, 1, 0x128, [], false,
      [⟨fNmcWritebacksCount, .rc, 0⟩]⟩
  -- NMC_CE_COUNT (R258)
  | .nmcCeCount => ⟨false, 0x12, 1, 0x130, [], false,
      [⟨fNmcCeCountCount, .rc, 0⟩]⟩
  -- BROKER_CTRL (R184)
  | .brokerCtrl => ⟨false, 0x13, 1, 0x0, [], false,
      [⟨fBrokerCtrlState, .ro, 2⟩, ⟨fBrokerCtrlXbd, .rw, 0⟩, ⟨fBrokerCtrlEn, .rw, 1⟩]⟩
  -- SEQ_STATUS (R184)
  | .seqStatus => ⟨false, 0x13, 1, 0x8, [], false,
      [⟨fSeqStatusReject, .w1c, 0⟩]⟩
  -- LAYOUT (R184)
  | .layout => ⟨false, 0x13, 1, 0x2000, [(8, 0x20), (3, 8)], true,
      [⟨fLayoutStride, .rw, 0⟩]⟩
  -- LAYOUT_ROW (R184)
  | .layoutRow => ⟨false, 0x13, 1, 0x2018, [(8, 0x20)], true,
      [⟨fLayoutRowTokenStride, .rw, 0⟩, ⟨fLayoutRowRowbytes, .rw, 0⟩]⟩
  -- BATCH (R184)
  | .batch => ⟨false, 0x13, 1, 0x4000, [(2, 0x800), (256, 8)], true,
      [⟨fBatchSlots, .rw, 0⟩]⟩
  -- DEP_CNT (R184)
  | .depCnt => ⟨false, 0x13, 1, 0x6000, [(256, 8)], false,
      [⟨fDepCntValue, .rw, 0⟩]⟩
  -- SEQ_ENTRY (R184)
  | .seqEntry => ⟨false, 0x13, 1, 0x10000, [(1024, 0x20), (4, 8)], false,
      [⟨fSeqEntryWord, .rw, 0⟩]⟩
  -- STU_CTRL (R278)
  | .stuCtrl => ⟨false, 0x20, 1, 0x0, [], false,
      [⟨fStuCtrlShootTo, .rw, 0x3e8⟩]⟩
  -- STU_SATP (R278)
  | .stuSatp => ⟨false, 0x20, 1, 0x8, [], true,
      [⟨fStuSatpMode, .rw, 0⟩, ⟨fStuSatpPpn, .rw, 0⟩]⟩
  -- STU_STATUS (R278)
  | .stuStatus => ⟨false, 0x20, 1, 0x10, [], false,
      [⟨fStuStatusMigOvf, .w1c, 0⟩, ⟨fStuStatusShootOvf, .w1c, 0⟩, ⟨fStuStatusResolveStale, .w1c, 0⟩, ⟨fStuStatusFqHeld, .ro, 0⟩]⟩
  -- STU_SHOOT (R278)
  | .stuShoot => ⟨false, 0x20, 1, 0x18, [], false,
      [⟨fStuShootVa, .wo, 0⟩, ⟨fStuShootCount, .wo, 0⟩, ⟨fStuShootUnit, .wo, 0⟩, ⟨fStuShootKind, .wo, 0⟩]⟩
  -- STU_SHOOT_SEQ (R278)
  | .stuShootSeq => ⟨false, 0x20, 1, 0x20, [], false,
      [⟨fStuShootSeqAccepted, .ro, 0⟩, ⟨fStuShootSeqDone, .ro, 0⟩]⟩
  -- FQ_BASE (R278)
  | .fqBase => ⟨false, 0x20, 1, 0x28, [], false,
      [⟨fFqBaseBase, .rw, 0⟩, ⟨fFqBaseLog2n, .rw, 0⟩]⟩
  -- FQ_HEAD (R278)
  | .fqHead => ⟨false, 0x20, 1, 0x30, [], false,
      [⟨fFqHeadIndex, .rw, 0⟩]⟩
  -- FQ_TAIL (R278)
  | .fqTail => ⟨false, 0x20, 1, 0x38, [], false,
      [⟨fFqTailIndex, .ro, 0⟩]⟩
  -- STU_RESOLVE (R278)
  | .stuResolve => ⟨false, 0x20, 1, 0x40, [], false,
      [⟨fStuResolveFseq, .wo, 0⟩, ⟨fStuResolveAction, .wo, 0⟩]⟩
  -- STU_MIGRATE (R278)
  | .stuMigrate => ⟨false, 0x20, 1, 0x48, [], false,
      [⟨fStuMigrateDesc, .wo, 0⟩]⟩
  -- STU_CNT_CTRL (R278)
  | .stuCntCtrl => ⟨false, 0x20, 1, 0x50, [], true,
      [⟨fStuCntCtrlHotThr, .rw, 0x100⟩, ⟨fStuCntCtrlClear, .wo, 0⟩, ⟨fStuCntCtrlEn, .rw, 0⟩]⟩
  -- STU_WALKS (R278)
  | .stuWalks => ⟨false, 0x20, 1, 0x100, [], false,
      [⟨fStuWalksCount, .rc, 0⟩]⟩
  -- STU_FAULTS (R278)
  | .stuFaults => ⟨false, 0x20, 1, 0x108, [], false,
      [⟨fStuFaultsCount, .rc, 0⟩]⟩
  -- STU_DUPLICATES (R278)
  | .stuDuplicates => ⟨false, 0x20, 1, 0x110, [], false,
      [⟨fStuDuplicatesCount, .rc, 0⟩]⟩
  -- STU_SHOOTDOWNS (R278)
  | .stuShootdowns => ⟨false, 0x20, 1, 0x118, [], false,
      [⟨fStuShootdownsCount, .rc, 0⟩]⟩
  -- STU_MIGRATIONS (R278)
  | .stuMigrations => ⟨false, 0x20, 1, 0x120, [], false,
      [⟨fStuMigrationsCount, .rc, 0⟩]⟩
  -- CNT_MISSED (R278)
  | .cntMissed => ⟨false, 0x20, 1, 0x128, [], false,
      [⟨fCntMissedCount, .rc, 0⟩]⟩
  -- EDGE_CTRL (R298)
  | .edgeCtrl => ⟨false, 0x30, 1, 0x0, [(4, 0x40)], true,
      [⟨fEdgeCtrlCrcThr, .rw, 0x10⟩, ⟨fEdgeCtrlState, .ro, 2⟩, ⟨fEdgeCtrlEn, .rw, 1⟩]⟩
  -- EDGE_STATUS (R298)
  | .edgeStatus => ⟨false, 0x30, 1, 0x8, [(4, 0x40)], true,
      [⟨fEdgeStatusClosed1, .ro, 0⟩, ⟨fEdgeStatusHalf1, .ro, 0⟩, ⟨fEdgeStatusClosed0, .ro, 0⟩, ⟨fEdgeStatusHalf0, .ro, 0⟩, ⟨fEdgeStatusRefused, .w1c, 0⟩, ⟨fEdgeStatusCond, .ro, 0⟩]⟩
  -- EDGE_REPLAYS (R298)
  | .edgeReplays => ⟨false, 0x30, 1, 0x10, [(4, 0x40)], true,
      [⟨fEdgeReplaysCount, .rc, 0⟩]⟩
  -- EDGE_WIRE_TESTS (R298)
  | .edgeWireTests => ⟨false, 0x30, 1, 0x18, [(4, 0x40)], true,
      [⟨fEdgeWireTestsCount, .rc, 0⟩]⟩
  -- NET_ROUTE (R298)
  | .netRoute => ⟨false, 0x30, 1, 0x200, [], false,
      [⟨fNetRouteSwitching, .ro, 0⟩, ⟨fNetRouteEpoch, .ro, 0⟩]⟩
  -- BUNDLE_STATUS (R298)
  | .bundleStatus => ⟨false, 0x30, 1, 0x1000, [(4, 0x800), (2, 0x400), (64, 0x10)], true,
      [⟨fBundleStatusWidth, .ro, 0⟩, ⟨fBundleStatusHalf, .ro, 0⟩, ⟨fBundleStatusRetired, .ro, 0⟩, ⟨fBundleStatusInUse, .ro, 0⟩, ⟨fBundleStatusWireFails, .ro, 0⟩]⟩
  -- BUNDLE_SPARES (R298)
  | .bundleSpares => ⟨false, 0x30, 1, 0x1008, [(4, 0x800), (2, 0x400), (64, 0x10)], true,
      [⟨fBundleSparesSpares, .ro, 0⟩]⟩
  -- PORT_CTRL (R322)
  | .portCtrl => ⟨false, 0x40, 1, 0x0, [(4, 0x1000)], false,
      [⟨fPortCtrlTxPol, .rw, 0⟩, ⟨fPortCtrlRxPol, .rw, 0⟩, ⟨fPortCtrlPfcEn, .rw, 0⟩, ⟨fPortCtrlAn, .rw, 0⟩, ⟨fPortCtrlMode, .rw, 0⟩, ⟨fPortCtrlState, .ro, 0⟩, ⟨fPortCtrlEn, .rw, 0⟩]⟩
  -- PORT_CTRL_FE (R322)
  | .portCtrlFe => ⟨false, 0x40, 1, 0x4000, [], false,
      [⟨fPortCtrlFeTxPol, .rw, 0⟩, ⟨fPortCtrlFeRxPol, .rw, 0⟩, ⟨fPortCtrlFePfcEn, .rw, 0⟩, ⟨fPortCtrlFeAn, .rw, 0⟩, ⟨fPortCtrlFeMode, .rw, 3⟩, ⟨fPortCtrlFeState, .ro, 0⟩, ⟨fPortCtrlFeEn, .rw, 0⟩]⟩
  -- PORT_STATUS (R322)
  | .portStatus => ⟨false, 0x40, 1, 0x8, [(5, 0x1000)], false,
      [⟨fPortStatusTrainMs, .ro, 0⟩, ⟨fPortStatusClosed, .ro, 0⟩, ⟨fPortStatusLanes, .ro, 0⟩, ⟨fPortStatusDownCause, .ro, 0⟩, ⟨fPortStatusLink, .ro, 0⟩]⟩
  -- PORT_MAC (R322)
  | .portMac => ⟨false, 0x40, 1, 0x10, [(5, 0x1000)], false,
      [⟨fPortMacMac, .rw, 0⟩]⟩
  -- PORT_IPV4 (R322)
  | .portIpv4 => ⟨false, 0x40, 1, 0x4018, [], false,
      [⟨fPortIpv4Addr, .rw, 0⟩]⟩
  -- PORT_IPV6_HI (R322)
  | .portIpv6Hi => ⟨false, 0x40, 1, 0x4020, [], false,
      [⟨fPortIpv6HiAddr, .rw, 0⟩]⟩
  -- PORT_IPV6_LO (R322)
  | .portIpv6Lo => ⟨false, 0x40, 1, 0x4028, [], false,
      [⟨fPortIpv6LoAddr, .rw, 0⟩]⟩
  -- PORT_PFC (R322)
  | .portPfc => ⟨false, 0x40, 1, 0x30, [(5, 0x1000)], false,
      [⟨fPortPfcWdMs, .rw, 0x64⟩, ⟨fPortPfcWdDown, .rw, 0⟩]⟩
  -- PORT_LANE (R322)
  | .portLane => ⟨false, 0x40, 1, 0x38, [(5, 0x1000)], false,
      [⟨fPortLaneLaneThr, .rw, 0x2000⟩]⟩
  -- PORT_COUNTERS (R322)
  | .portCounters => ⟨false, 0x40, 1, 0x100, [(5, 0x1000), (12, 8)], false,
      [⟨fPortCountersCount, .rc, 0⟩]⟩
  -- ROCE_QP_ADDR (R322)
  | .roceQpAddr => ⟨false, 0x40, 1, 0x6000, [], false,
      [⟨fRoceQpAddrAddr, .rw, 0⟩]⟩
  -- ROCE_QP_CMD (R322)
  | .roceQpCmd => ⟨false, 0x40, 1, 0x6008, [], false,
      [⟨fRoceQpCmdOp, .wo, 0⟩, ⟨fRoceQpCmdQp, .wo, 0⟩]⟩
  -- ROCE_QP_STATUS (R322)
  | .roceQpStatus => ⟨false, 0x40, 1, 0x6010, [], false,
      [⟨fRoceQpStatusErr, .w1c, 0⟩, ⟨fRoceQpStatusBusy, .ro, 0⟩]⟩
  -- ROCE_SQ_DB (R322)
  | .roceSqDb => ⟨false, 0x40, 1, 0x6018, [], false,
      [⟨fRoceSqDbPi, .wo, 0⟩, ⟨fRoceSqDbQp, .wo, 0⟩]⟩
  -- ROCE_CQ_BASE (R322)
  | .roceCqBase => ⟨false, 0x40, 1, 0x6020, [], false,
      [⟨fRoceCqBaseBase, .rw, 0⟩, ⟨fRoceCqBaseLog2n, .rw, 0⟩]⟩
  -- ROCE_CQ_HEAD (R322)
  | .roceCqHead => ⟨false, 0x40, 1, 0x6028, [], false,
      [⟨fRoceCqHeadIndex, .rw, 0⟩]⟩
  -- ROCE_CQ_TAIL (R322)
  | .roceCqTail => ⟨false, 0x40, 1, 0x6030, [], false,
      [⟨fRoceCqTailIndex, .ro, 0⟩]⟩
  -- MR_ENTRY (R322)
  | .mrEntry => ⟨false, 0x40, 1, 0x80000, [(16384, 0x20), (4, 8)], true,
      [⟨fMrEntryWord, .rw, 0⟩]⟩
  -- DZ_CTRL (R347)
  | .dzCtrl => ⟨false, 0x41, 1, 0x0, [], false,
      [⟨fDzCtrlRtoUs, .rw, 0x64⟩, ⟨fDzCtrlFlowIdle, .rw, 0x2710⟩, ⟨fDzCtrlKaMs, .rw, 0xa⟩, ⟨fDzCtrlEcnThr, .rw, 8⟩, ⟨fDzCtrlRetry, .rw, 8⟩, ⟨fDzCtrlHops, .rw, 7⟩, ⟨fDzCtrlState, .ro, 0⟩, ⟨fDzCtrlEn, .rw, 0⟩]⟩
  -- DZ_SELF (R347)
  | .dzSelf => ⟨false, 0x41, 1, 0x8, [], true,
      [⟨fDzSelfEpoch, .ro, 0⟩, ⟨fDzSelfJob, .ro, 0⟩, ⟨fDzSelfEp, .ro, 0⟩]⟩
  -- DZ_STATUS (R347)
  | .dzStatus => ⟨false, 0x41, 1, 0x10, [], false,
      [⟨fDzStatusSpray, .ro, 0⟩, ⟨fDzStatusFlows, .ro, 0⟩]⟩
  -- DZ_RWIN_BASE (R347)
  | .dzRwinBase => ⟨false, 0x41, 1, 0x18, [], true,
      [⟨fDzRwinBaseAddr, .rw, 0⟩]⟩
  -- DZ_RWIN_LIMIT (R347)
  | .dzRwinLimit => ⟨false, 0x41, 1, 0x20, [], true,
      [⟨fDzRwinLimitAddr, .rw, 0⟩]⟩
  -- DZ_PORT (R347)
  | .dzPort => ⟨false, 0x41, 1, 0x100, [(4, 8)], false,
      [⟨fDzPortCheck, .ro, 0⟩, ⟨fDzPortLost, .ro, 0⟩, ⟨fDzPortMismatch, .ro, 0⟩, ⟨fDzPortSpray, .ro, 0⟩, ⟨fDzPortLevel, .ro, 0⟩, ⟨fDzPortNbEp, .ro, 0⟩, ⟨fDzPortPeer, .ro, 0⟩]⟩
  -- DZ_COUNTERS (R347)
  | .dzCounters => ⟨false, 0x41, 1, 0x200, [(7, 8)], false,
      [⟨fDzCountersCount, .rc, 0⟩]⟩
  -- PORT_SAT (R347)
  | .portSat => ⟨false, 0x41, 1, 0x280, [(4, 8)], false,
      [⟨fPortSatCount, .rc, 0⟩]⟩
  -- LEVEL_SAT (R347)
  | .levelSat => ⟨false, 0x41, 1, 0x2a0, [(4, 8)], false,
      [⟨fLevelSatCount, .rc, 0⟩]⟩
  -- DZ_CMD_BASE (R347)
  | .dzCmdBase => ⟨false, 0x41, 1, 0x400, [(16, 0x10)], false,
      [⟨fDzCmdBaseBase, .rw, 0⟩, ⟨fDzCmdBaseLog2n, .rw, 0⟩]⟩
  -- DZ_CMD_CI (R347)
  | .dzCmdCi => ⟨false, 0x41, 1, 0x408, [(16, 0x10)], false,
      [⟨fDzCmdCiStopped, .ro, 0⟩, ⟨fDzCmdCiIndex, .ro, 0⟩]⟩
  -- DZ_CMD_DB (R347)
  | .dzCmdDb => ⟨false, 0x41, 1, 0x500, [], false,
      [⟨fDzCmdDbPi, .wo, 0⟩, ⟨fDzCmdDbRing, .wo, 0⟩]⟩
  -- DZ_CQ_BASE (R347)
  | .dzCqBase => ⟨false, 0x41, 1, 0x508, [], false,
      [⟨fDzCqBaseBase, .rw, 0⟩, ⟨fDzCqBaseLog2n, .rw, 0⟩]⟩
  -- DZ_CQ_HEAD (R347)
  | .dzCqHead => ⟨false, 0x41, 1, 0x510, [], false,
      [⟨fDzCqHeadIndex, .rw, 0⟩]⟩
  -- DZ_CQ_TAIL (R347)
  | .dzCqTail => ⟨false, 0x41, 1, 0x518, [], false,
      [⟨fDzCqTailIndex, .ro, 0⟩]⟩
  -- DZ_MQ_BASE (R347)
  | .dzMqBase => ⟨false, 0x41, 1, 0x800, [(64, 0x20)], false,
      [⟨fDzMqBaseBase, .rw, 0⟩, ⟨fDzMqBaseLog2slot, .rw, 0⟩, ⟨fDzMqBaseLog2n, .rw, 0⟩]⟩
  -- DZ_MQ_HEAD (R347)
  | .dzMqHead => ⟨false, 0x41, 1, 0x808, [(64, 0x20)], false,
      [⟨fDzMqHeadIndex, .rw, 0⟩]⟩
  -- DZ_MQ_TAIL (R347)
  | .dzMqTail => ⟨false, 0x41, 1, 0x810, [(64, 0x20)], false,
      [⟨fDzMqTailIndex, .ro, 0⟩]⟩
  -- DZ_GROUP_RT (R347)
  | .dzGroupRt => ⟨false, 0x41, 1, 0x10000, [(4096, 8)], true,
      [⟨fDzGroupRtMask, .ro, 0⟩]⟩
  -- DZ_MEMBER_RT (R347)
  | .dzMemberRt => ⟨false, 0x41, 1, 0x18000, [(64, 8)], true,
      [⟨fDzMemberRtMask, .ro, 0⟩]⟩
  -- DZ_WINDOW (R347)
  | .dzWindow => ⟨false, 0x41, 1, 0x20000, [(32768, 8)], true,
      [⟨fDzWindowValid, .rw, 0⟩, ⟨fDzWindowEp, .rw, 0⟩]⟩
  -- SHG_CTRL (R368)
  | .shgCtrl => ⟨false, 0x42, 1, 0x0, [], false,
      [⟨fShgCtrlSeed, .rw, 0⟩, ⟨fShgCtrlHold, .rw, 0⟩, ⟨fShgCtrlState, .ro, 0⟩, ⟨fShgCtrlEn, .rw, 0⟩]⟩
  -- SHG_STATUS (R368)
  | .shgStatus => ⟨false, 0x42, 1, 0x8, [], false,
      [⟨fShgStatusPagesFree, .ro, 0x1800⟩, ⟨fShgStatusInflight, .ro, 0⟩, ⟨fShgStatusArmQueued, .ro, 0⟩, ⟨fShgStatusArmOvf, .w1c, 0⟩, ⟨fShgStatusGroupBusy, .w1c, 0⟩, ⟨fShgStatusFlags, .w1c, 0⟩]⟩
  -- SHG_ARM (R368)
  | .shgArm => ⟨false, 0x42, 1, 0x10, [], false,
      [⟨fShgArmDesc, .wo, 0⟩]⟩
  -- SHG_CMD (R368)
  | .shgCmd => ⟨false, 0x42, 1, 0x18, [], false,
      [⟨fShgCmdOp, .wo, 0⟩, ⟨fShgCmdTag, .wo, 0⟩]⟩
  -- SHG_COUNTERS (R368)
  | .shgCounters => ⟨false, 0x42, 1, 0x100, [(6, 8)], false,
      [⟨fShgCountersCount, .rc, 0⟩]⟩
  -- SHG_GROUP_W0 (R368)
  | .shgGroupW0 => ⟨false, 0x42, 1, 0x1000, [(64, 0x10)], true,
      [⟨fShgGroupW0Valid, .rw, 0⟩, ⟨fShgGroupW0Myrank, .rw, 0⟩, ⟨fShgGroupW0N, .rw, 0⟩]⟩
  -- SHG_GROUP_W1 (R368)
  | .shgGroupW1 => ⟨false, 0x42, 1, 0x1008, [(64, 0x10)], true,
      [⟨fShgGroupW1Ranktab, .rw, 0⟩]⟩
  -- SHG_BUCKET (R368)
  | .shgBucket => ⟨false, 0x42, 1, 0x2000, [(1024, 8)], false,
      [⟨fShgBucketState, .ro, 0⟩, ⟨fShgBucketGen, .ro, 0⟩, ⟨fShgBucketDelivered, .ro, 0⟩, ⟨fShgBucketRemaining, .ro, 0⟩]⟩
  -- RIDGE_GO (R347)
  | .ridgeGo => ⟨false, 0x43, 1, 0x0, [], false,
      [⟨fRidgeGoTree, .wo, 0⟩]⟩
  -- RIDGE_STATUS (R347)
  | .ridgeStatus => ⟨false, 0x43, 1, 0x8, [], false,
      [⟨fRidgeStatusGoIgnored, .w1c, 0⟩]⟩
  -- RIDGE_DROPS (R347)
  | .ridgeDrops => ⟨false, 0x43, 1, 0x10, [], false,
      [⟨fRidgeDropsCount, .rc, 0⟩]⟩
  -- RIDGE_BYTES (R347)
  | .ridgeBytes => ⟨false, 0x43, 1, 0x1000, [(256, 8)], false,
      [⟨fRidgeBytesCount, .rw, 0⟩]⟩
  -- RIDGE_TREE (R347)
  | .ridgeTree => ⟨false, 0x43, 1, 0x4000, [(256, 0x40), (8, 8)], true,
      [⟨fRidgeTreeWord, .rw, 0⟩]⟩
  -- WQ_CTRL (R398)
  | .wqCtrl => ⟨false, 0x50, 1, 0x0, [], false,
      [⟨fWqCtrlAheadUs, .rw, 0x14⟩]⟩
  -- WQ_NOTIFY (R398)
  | .wqNotify => ⟨false, 0x50, 1, 0x8, [], false,
      [⟨fWqNotifyValid, .rc, 0⟩, ⟨fWqNotifyQueue, .rc, 0⟩, ⟨fWqNotifySeq, .rc, 0⟩]⟩
  -- WQ_COMPLETE (R398)
  | .wqComplete => ⟨false, 0x50, 1, 0x10, [], false,
      [⟨fWqCompleteQueue, .wo, 0⟩, ⟨fWqCompleteStatus, .wo, 0⟩, ⟨fWqCompleteSeq, .wo, 0⟩]⟩
  -- DESC_READ (R398)
  | .descRead => ⟨false, 0x50, 1, 0x100, [], false,
      [⟨fDescReadCount, .rc, 0⟩]⟩
  -- DB_IGNORED (R398)
  | .dbIgnored => ⟨false, 0x50, 1, 0x108, [], false,
      [⟨fDbIgnoredCount, .rc, 0⟩]⟩
  -- AHEAD_RETRIES (R398)
  | .aheadRetries => ⟨false, 0x50, 1, 0x110, [], false,
      [⟨fAheadRetriesCount, .rc, 0⟩]⟩
  -- COMPLETE_IGNORED (R398)
  | .completeIgnored => ⟨false, 0x50, 1, 0x118, [], false,
      [⟨fCompleteIgnoredCount, .rc, 0⟩]⟩
  -- WQ_CFG (R398)
  | .wqCfg => ⟨false, 0x50, 1, 0x1000, [(64, 0x40)], false,
      [⟨fWqCfgRkey, .rw, 0⟩, ⟨fWqCfgQp, .rw, 0⟩, ⟨fWqCfgLocal, .rw, 0⟩, ⟨fWqCfgState, .ro, 0⟩, ⟨fWqCfgEn, .rw, 0⟩]⟩
  -- WQ_RING (R398)
  | .wqRing => ⟨false, 0x50, 1, 0x1008, [(64, 0x40)], false,
      [⟨fWqRingBase, .rw, 0⟩, ⟨fWqRingLog2n, .rw, 0⟩]⟩
  -- WQ_CQ (R398)
  | .wqCq => ⟨false, 0x50, 1, 0x1010, [(64, 0x40)], false,
      [⟨fWqCqAddr, .rw, 0⟩]⟩
  -- WQ_ACC (R398)
  | .wqAcc => ⟨false, 0x50, 1, 0x1018, [(64, 0x40)], false,
      [⟨fWqAccAddr, .rw, 0⟩]⟩
  -- WQ_STATUS (R398)
  | .wqStatus => ⟨false, 0x50, 1, 0x1020, [(64, 0x40)], false,
      [⟨fWqStatusCond, .ro, 0⟩, ⟨fWqStatusNext, .rw, 0⟩]⟩
  -- WQ_PROD (R398)
  | .wqProd => ⟨false, 0x50, 1, 0x1028, [(64, 0x40)], false,
      [⟨fWqProdProd, .ro, 0⟩]⟩
  -- LEDGER_STATUS (R398)
  | .ledgerStatus => ⟨false, 0x51, 1, 0x0, [], false,
      [⟨fLedgerStatusIncarnation, .ro, 0⟩, ⟨fLedgerStatusLive, .ro, 0⟩, ⟨fLedgerStatusRecovering, .ro, 0⟩, ⟨fLedgerStatusMirrorOk, .ro, 0⟩]⟩
  -- LEDGER_CMD (R398)
  | .ledgerCmd => ⟨false, 0x51, 1, 0x8, [], false,
      [⟨fLedgerCmdFresh, .wo, 0⟩, ⟨fLedgerCmdReplay, .wo, 0⟩]⟩
  -- LEDGER_ACCEPTED (R398)
  | .ledgerAccepted => ⟨false, 0x51, 1, 0x100, [], false,
      [⟨fLedgerAcceptedCount, .rc, 0⟩]⟩
  -- LEDGER_RETIRED (R398)
  | .ledgerRetired => ⟨false, 0x51, 1, 0x108, [], false,
      [⟨fLedgerRetiredCount, .rc, 0⟩]⟩
  -- LEDGER_REPLAYED (R398)
  | .ledgerReplayed => ⟨false, 0x51, 1, 0x110, [], false,
      [⟨fLedgerReplayedCount, .rc, 0⟩]⟩
  -- MIRROR_WRITES (R398)
  | .mirrorWrites => ⟨false, 0x51, 1, 0x118, [], false,
      [⟨fMirrorWritesCount, .rc, 0⟩]⟩
  -- FULL_WAIT_CYCLES (R398)
  | .fullWaitCycles => ⟨false, 0x51, 1, 0x120, [], false,
      [⟨fFullWaitCyclesCount, .rc, 0⟩]⟩
  -- FT_STATUS (R439)
  | .ftStatus => ⟨false, 0x60, 1, 0x0, [], true,
      [⟨fFtStatusRefPort, .ro, 0x1f⟩, ⟨fFtStatusPps, .ro, 0⟩, ⟨fFtStatusQuality, .ro, 0⟩]⟩
  -- FT_NS (R439)
  | .ftNs => ⟨false, 0x60, 1, 0x8, [], false,
      [⟨fFtNsNs, .ro, 0⟩]⟩
  -- FT_NSFRAC (R439)
  | .ftNsfrac => ⟨false, 0x60, 1, 0x10, [], false,
      [⟨fFtNsfracNsfrac, .ro, 0⟩]⟩
  -- FT_ADJ (R439)
  | .ftAdj => ⟨false, 0x60, 1, 0x18, [], true,
      [⟨fFtAdjAdj, .ro, 0⟩]⟩
  -- FT_OFFSET (R439)
  | .ftOffset => ⟨false, 0x60, 1, 0x20, [], true,
      [⟨fFtOffsetOffset, .ro, 0⟩]⟩
  -- FT_PPS_TS (R439)
  | .ftPpsTs => ⟨false, 0x60, 1, 0x28, [], true,
      [⟨fFtPpsTsTs, .ro, 0⟩]⟩
  -- FT_COUNTERS (R439)
  | .ftCounters => ⟨false, 0x60, 1, 0x100, [(5, 8)], false,
      [⟨fFtCountersCount, .rc, 0⟩]⟩
  -- TE_ENTRY (R439)
  | .teEntry => ⟨false, 0x60, 1, 0x1000, [(64, 0x20), (3, 8)], true,
      [⟨fTeEntryWord, .rw, 0⟩]⟩
  -- TE_FIRED (R439)
  | .teFired => ⟨false, 0x60, 1, 0x1018, [(64, 0x20)], true,
      [⟨fTeFiredWord, .ro, 0⟩]⟩
  -- LV_CTRL (R465)
  | .lvCtrl => ⟨false, 0x70, 1, 0x0, [], true,
      [⟨fLvCtrlForceWin, .rw, 0xa⟩, ⟨fLvCtrlMatch, .rw, 6⟩, ⟨fLvCtrlLearn, .rw, 1⟩]⟩
  -- LV_STATUS (R465)
  | .lvStatus => ⟨false, 0x70, 1, 0x8, [], true,
      [⟨fLvStatusCapW, .ro, 0x4b0⟩, ⟨fLvStatusFloorW, .ro, 0⟩, ⟨fLvStatusShare, .ro, 0⟩, ⟨fLvStatusForced, .ro, 0⟩, ⟨fLvStatusPhase, .ro, 0⟩, ⟨fLvStatusGuard, .ro, 0⟩]⟩
  -- LV_POWER (R465)
  | .lvPower => ⟨false, 0x70, 1, 0x10, [], true,
      [⟨fLvPowerDemandW, .ro, 0⟩, ⟨fLvPowerEstimateW, .ro, 0⟩, ⟨fLvPowerMeasuredW, .ro, 0⟩]⟩
  -- LV_REASON (R465)
  | .lvReason => ⟨false, 0x70, 1, 0x18, [], true,
      [⟨fLvReasonSeen, .w1c, 0⟩, ⟨fLvReasonActive, .ro, 0⟩]⟩
  -- LV_CMD (R465)
  | .lvCmd => ⟨false, 0x70, 1, 0x20, [], true,
      [⟨fLvCmdClearLearned, .wo, 0⟩, ⟨fLvCmdClearGuard, .wo, 0⟩]⟩
  -- LV_FORCE_IGNORED (R465)
  | .lvForceIgnored => ⟨false, 0x70, 1, 0x28, [], true,
      [⟨fLvForceIgnoredCount, .rc, 0⟩]⟩
  -- REASON_TOTAL_US (R465)
  | .reasonTotalUs => ⟨false, 0x70, 1, 0x100, [(16, 0x10)], true,
      [⟨fReasonTotalUsCount, .ro, 0⟩]⟩
  -- REASON_LAST_US (R465)
  | .reasonLastUs => ⟨false, 0x70, 1, 0x108, [(16, 0x10)], true,
      [⟨fReasonLastUsCount, .ro, 0⟩]⟩
  -- LV_SIG_W0 (R465)
  | .lvSigW0 => ⟨false, 0x70, 1, 0x1000, [(32, 0x20)], true,
      [⟨fLvSigW0Valid, .rw, 0⟩, ⟨fLvSigW0Locked, .rw, 0⟩, ⟨fLvSigW0Key, .rw, 0⟩]⟩
  -- LV_SIG_W1 (R465)
  | .lvSigW1 => ⟨false, 0x70, 1, 0x1008, [(32, 0x20)], true,
      [⟨fLvSigW1Share, .rw, 0⟩]⟩
  -- LV_SIG_W2 (R465)
  | .lvSigW2 => ⟨false, 0x70, 1, 0x1010, [(32, 0x20)], true,
      [⟨fLvSigW2PowerW, .ro, 0⟩]⟩
  -- LV_SIG_W3 (R465)
  | .lvSigW3 => ⟨false, 0x70, 1, 0x1018, [(32, 0x20)], true,
      [⟨fLvSigW3Uses, .ro, 0⟩]⟩
  -- MB_REQ (R492)
  | .mbReq => ⟨false, 0x80, 1, 0x0, [], false,
      [⟨fMbReqAddr, .wo, 0⟩]⟩
  -- MB_RESP (R492)
  | .mbResp => ⟨false, 0x80, 1, 0x8, [], false,
      [⟨fMbRespAddr, .rw, 0⟩]⟩
  -- MB_STATUS (R492)
  | .mbStatus => ⟨false, 0x80, 1, 0x10, [], false,
      [⟨fMbStatusStatus, .ro, 0⟩, ⟨fMbStatusOvf, .w1c, 0⟩, ⟨fMbStatusBusy, .ro, 0⟩, ⟨fMbStatusDone, .w1c, 0⟩]⟩
  -- MP_STATUS (R492)
  | .mpStatus => ⟨false, 0x80, 1, 0x18, [], true,
      [⟨fMpStatusFailovers, .ro, 0⟩, ⟨fMpStatusAlive, .ro, 0⟩, ⟨fMpStatusLead, .ro, 0⟩, ⟨fMpStatusQueued, .ro, 0⟩]⟩
  -- SEC_STATUS (R519)
  | .secStatus => ⟨false, 0x90, 1, 0x0, [], false,
      [⟨fSecStatusExtRefused, .w1c, 0⟩, ⟨fSecStatusJwBusy, .ro, 0⟩, ⟨fSecStatusWipeRefused, .w1c, 0⟩, ⟨fSecStatusLcsPartial, .ro, 0⟩, ⟨fSecStatusDebugOpen, .ro, 0⟩, ⟨fSecStatusNetboot, .ro, 0⟩, ⟨fSecStatusBootSel, .ro, 0⟩, ⟨fSecStatusHostSlot, .ro, 0⟩, ⟨fSecStatusMpSlot, .ro, 0⟩, ⟨fSecStatusLcs, .ro, 0⟩]⟩
  -- SEC_CMD (R519)
  | .secCmd => ⟨false, 0x90, 1, 0x8, [], true,
      [⟨fSecCmdOp, .wo, 0⟩]⟩
  -- SEC_EXTEND (R519)
  | .secExtend => ⟨false, 0x90, 1, 0x10, [], false,
      [⟨fSecExtendIndex, .wo, 0⟩, ⟨fSecExtendAddr, .wo, 0⟩]⟩
  -- JW_KEEP_BASE (R519)
  | .jwKeepBase => ⟨false, 0x90, 1, 0x18, [], true,
      [⟨fJwKeepBaseAddr, .rw, 0⟩]⟩
  -- JW_KEEP_LIMIT (R519)
  | .jwKeepLimit => ⟨false, 0x90, 1, 0x20, [], true,
      [⟨fJwKeepLimitAddr, .rw, 0⟩]⟩
  -- SEC_MEAS (R519)
  | .secMeas => ⟨false, 0x90, 1, 0x100, [(8, 0x40), (8, 8)], false,
      [⟨fSecMeasWord, .ro, 0⟩]⟩
  -- LB_PORT (R529)
  | .lbPort => ⟨false, 0xa0, 1, 0x0, [(5, 8)], false,
      [⟨fLbPortPrbs, .rw, 0⟩, ⟨fLbPortDepth, .rw, 0⟩]⟩
  -- PRBS_ERR (R529)
  | .prbsErr => ⟨false, 0xa0, 1, 0x100, [(5, 0x40), (8, 8)], false,
      [⟨fPrbsErrNolock, .ro, 0⟩, ⟨fPrbsErrCount, .rc, 0⟩]⟩
  -- BIST_CMD (R529)
  | .bistCmd => ⟨false, 0xa0, 1, 0x600, [], true,
      [⟨fBistCmdOp, .wo, 0⟩, ⟨fBistCmdTarget, .wo, 0⟩]⟩
  -- LB_STATUS (R529)
  | .lbStatus => ⟨false, 0xa0, 1, 0x608, [], false,
      [⟨fLbStatusBusy, .ro, 0⟩, ⟨fLbStatusOvf, .w1c, 0⟩, ⟨fLbStatusRefused, .w1c, 0⟩, ⟨fLbStatusScanRefused, .w1c, 0⟩, ⟨fLbStatusLastOp, .ro, 0⟩, ⟨fLbStatusFail, .ro, 0⟩]⟩

/-- The registers, part 0. -/
def regList0 : List RegId := [.dieCmd, .dieStatus, .gableCtrl, .gableStatus, .gableStopped, .copyStatus, .cellStatus, .cellMacCycles, .cellGutterWait, .groupState, .groupPc, .groupCtrl, .arrivalCnt, .scratchConflictCycles, .regConflictCycles, .copyBytes, .elemCtrl, .elemStatus, .gutterStatus, .elemRuns, .elemBusyCycles, .elemBlockedCycles, .elemSlot, .glaunch, .glaunchStatus, .dcCtrl, .dcHits, .dcMisses, .dcSnoops, .dcWritebacks, .tcStatus, .tcHits, .tcMisses, .gtcMisses, .tcFolded, .tsCtrl, .tsStatus, .tsListAddr, .tsListGo, .tsGq]
/-- The registers, part 1. -/
def regList1 : List RegId := [.tsLaunches, .tsStealsDie, .tsStealsBd, .tsStealsNode, .tsSplits, .tsIdleCycles, .mtime, .mtimecmp, .depWatch, .imsicMSeteipnum, .imsicSSeteipnum, .lpStatus, .lpLimit, .lpDroop, .lpDroopEvents, .lpStretchCycles, .fence, .rstCause, .errHead, .errTail, .errDropped, .fenceDrops, .ckptCmd, .ckptStatus, .errRec, .aplicM, .aplicS, .dirCtrl, .dirStatus, .dirLookups, .dirEvictions, .dirRecalls, .dirC2c, .dirLostLines, .hbmCtrl, .hbmStatus, .hbmCeCount, .hbmUeCount, .hbmRetryCount, .hbmScrubLines]
/-- The registers, part 2. -/
def regList2 : List RegId := [.nmcCtrl, .nmcStatus, .nmcSeed, .nmcWaymask, .nmcPf, .nmcHits, .nmcMisses, .eavesHits, .transomHits, .transomUnused, .nmcWritebacks, .nmcCeCount, .brokerCtrl, .seqStatus, .layout, .layoutRow, .batch, .depCnt, .seqEntry, .stuCtrl, .stuSatp, .stuStatus, .stuShoot, .stuShootSeq, .fqBase, .fqHead, .fqTail, .stuResolve, .stuMigrate, .stuCntCtrl, .stuWalks, .stuFaults, .stuDuplicates, .stuShootdowns, .stuMigrations, .cntMissed, .edgeCtrl, .edgeStatus, .edgeReplays, .edgeWireTests]
/-- The registers, part 3. -/
def regList3 : List RegId := [.netRoute, .bundleStatus, .bundleSpares, .portCtrl, .portCtrlFe, .portStatus, .portMac, .portIpv4, .portIpv6Hi, .portIpv6Lo, .portPfc, .portLane, .portCounters, .roceQpAddr, .roceQpCmd, .roceQpStatus, .roceSqDb, .roceCqBase, .roceCqHead, .roceCqTail, .mrEntry, .dzCtrl, .dzSelf, .dzStatus, .dzRwinBase, .dzRwinLimit, .dzPort, .dzCounters, .portSat, .levelSat, .dzCmdBase, .dzCmdCi, .dzCmdDb, .dzCqBase, .dzCqHead, .dzCqTail, .dzMqBase, .dzMqHead, .dzMqTail, .dzGroupRt]
/-- The registers, part 4. -/
def regList4 : List RegId := [.dzMemberRt, .dzWindow, .shgCtrl, .shgStatus, .shgArm, .shgCmd, .shgCounters, .shgGroupW0, .shgGroupW1, .shgBucket, .ridgeGo, .ridgeStatus, .ridgeDrops, .ridgeBytes, .ridgeTree, .wqCtrl, .wqNotify, .wqComplete, .descRead, .dbIgnored, .aheadRetries, .completeIgnored, .wqCfg, .wqRing, .wqCq, .wqAcc, .wqStatus, .wqProd, .ledgerStatus, .ledgerCmd, .ledgerAccepted, .ledgerRetired, .ledgerReplayed, .mirrorWrites, .fullWaitCycles, .ftStatus, .ftNs, .ftNsfrac, .ftAdj, .ftOffset]
/-- The registers, part 5. -/
def regList5 : List RegId := [.ftPpsTs, .ftCounters, .teEntry, .teFired, .lvCtrl, .lvStatus, .lvPower, .lvReason, .lvCmd, .lvForceIgnored, .reasonTotalUs, .reasonLastUs, .lvSigW0, .lvSigW1, .lvSigW2, .lvSigW3, .mbReq, .mbResp, .mbStatus, .mpStatus, .secStatus, .secCmd, .secExtend, .jwKeepBase, .jwKeepLimit, .secMeas, .lbPort, .prbsErr, .bistCmd, .lbStatus]

/-- Every register of the CSR window. -/
def regList : List RegId := regList0 ++ regList1 ++ regList2 ++ regList3 ++ regList4 ++ regList5

end Sys2Proof.Machine
end

