-- ==== Sys2Proof/Machine/UnitsGable.lean ====
section
/-! DEFINITION. The state of a Gable: its groups (04_gables.md), its cells (03_matrix_cells.md), its Gutter and element
engine (05_gutter_element_engine.md), its copy queue and its direct launch. Plain data. -/

namespace Sys2Proof.Machine

/-- A page's translation as an access uses it (R262, R263): the physical base of the 4 KiB page that holds the byte,
and whether the leaf is cacheable (PBMT 0). -/
structure PageMap where
  vpn : Nat
  ppn : Nat
  size : Nat      -- log2 of the page size that maps it
  cacheable : Bool
  deriving DecidableEq, Repr

/-- The tile a group, bank, Gutter entry or run works for: the scheduler's die and the tile's number (R169). -/
structure TileRef where
  die : Nat
  id : Nat
  deriving DecidableEq, Repr

/-- A path: a program counter and the threads at it, bit i for thread i (R91). -/
structure Path where
  pc : Nat
  mask : Nat
  deriving DecidableEq, Repr

/-- A matrix operation descriptor as it was read (R66). -/
structure MmaDesc where
  aAddr : Nat
  aLd : Nat
  aFmt : Nat
  bAddr : Nat
  bLd : Nat
  bFmt : Nat
  as1 : Nat
  bs1 : Nat
  as2 : Nat
  bs2 : Nat
  metaAddr : Nat
  tag : Nat
  mValid : Nat
  nValid : Nat
  deriving DecidableEq, Repr

/-- What a group waits on (R85, GROUP_STATE.RUN). -/
inductive GWait where
  | none
  | counter (cnt target : Nat) (consume : Bool)  -- WAITCNT (R111)
  | fence (count : Nat)                          -- MFENCE (R65)
  | matrix (word : Nat) (desc : MmaDesc) (claim : Nat) -- between step 3 and step 5 of R63, with the claim it was decoded for
  | queue                                        -- COPY or KVG while the copy queue is full (R106)
  | translation (fseq : Nat)                     -- a queued fault (R266)
  | operands                                     -- a source register awaits a load's data (R85)
  | memory                                       -- FENCE or a release, until earlier accesses are visible (R228)
  deriving DecidableEq, Repr

/-- GROUP_STATE.RUN (R118). -/
inductive GPhase where
  | empty | running | waiting | translation | stopped | ending
  deriving DecidableEq, Repr

/-- One lane's part of an outstanding load: the lane and its physical address. -/
structure LaneAddr where
  lane : Nat
  addr : Nat
  deriving DecidableEq, Repr

/-- A load whose data has not been written to RD (R97, LD_DATA_RETURN). -/
structure PendLoad where
  id : Nat
  rd : Nat
  size : Nat
  sgn : Bool
  lanes : List LaneAddr
  need : List Nat      -- lines the die cache has still to obtain
  remote : List Nat    -- remote requests still outstanding
  pc : Nat             -- the LD's program counter, word and lane addresses: a fault at its data return is precise (R113, R114)
  word : Nat
  vas : List Nat
  skip : List Nat      -- registers, key register × 32 + lane, that a later instruction has written
  maps : List PageMap  -- its translation list (R265, R275)
  got : List (Nat × Byte) -- bytes read before a later store of the group to them (R224)
  deriving DecidableEq, Repr

/-- A group (R83, R84, R91, R94, R113, R124, R166). -/
structure Group where
  phase : GPhase
  order : Nat              -- admission order within the Gable (R85)
  regs : Nat               -- REGS
  threads : Nat            -- launched and not ended
  paths : List Path        -- the running path first
  turn : Bool              -- the running path holds the turn (R92)
  wait : GWait
  fault : Nat              -- the stop's error code (GROUP_STATE.FAULT)
  stopNext : List Nat      -- codes that stop the group at its next boundary, oldest first (R94, R108)
  kill : Bool              -- it ends at its next boundary (R114)
  rkey : Nat               -- rounding key (R124)
  launch : List Nat        -- the launch block's sixteen 32-bit words (R166)
  file : Tbl Half          -- registers: key register × 32 + lane
  loads : List PendLoad
  badStore : Nat           -- code of a remote store that failed, reported at a later FENCE or release (R337)
  tile : Option TileRef
  redo : List PendLoad     -- loads that faulted at their data return: the next LD issues them again (R114)
  watch : Nat              -- ACLK cycles of the stall watchdog (R94)
  list : List PageMap      -- translation list of an AMO in progress (R265)
  deriving DecidableEq, Repr

/-- An empty group slot. -/
def Group.none : Group :=
  ⟨.empty, 0, 0, 0, [], false, .none, 0, [], false, 0, [], [], [], 0, Option.none, [], 0, []⟩

/-- Accumulator bank states (R56). -/
inductive BankSt where
  | free | accum | full | discard
  deriving DecidableEq, Repr

/-- Accumulator formats (R55, AFMT of R121). -/
inductive AccFmt where
  | fp32 | int32 | fp64
  deriving DecidableEq, Repr

/-- What the FINISH instruction hands to the Gutter entry (R61, R121). -/
structure TileHead where
  tag : Nat
  rkey : Nat
  iseq : Nat
  mValid : Nat
  nValid : Nat
  deriving DecidableEq, Repr

/-- An accumulator bank of one cell (R55 to R57, R147, R148). -/
structure Bank where
  st : BankSt
  claimer : Nat            -- the claiming Gable, 0 to 191
  group : Nat
  gang : Nat
  afmt : AccFmt
  isOpen : Bool            -- the claim is open (R57)
  part : Nat
  count : Nat              -- block count c (R147)
  ta1 : Option Nat         -- latched tag bases (R148)
  tb1 : Option Nat
  ta2 : Option Nat
  tb2 : Option Nat
  acc : Tbl Nat            -- element codes: key row × 64 + column of the part
  head : TileHead
  flags : Nat              -- TFLAGS (R121)
  tile : Option TileRef
  claim : Nat              -- the claim: number of the claiming instruction within its Gable (R57, R80)
  deriving DecidableEq, Repr

/-- A FREE bank. -/
def Bank.free : Bank :=
  ⟨.free, 0, 0, 0, .fp32, false, 0, 0, none, none, none, none, [], ⟨0, 0, 0, 0, 0⟩, 0, none, 0⟩

/-- An instruction in a cell's queue (R63, R64). -/
structure CellInstr where
  id : Nat                 -- the same in every cell of the gang
  rel : Bool               -- MREL
  word : Nat               -- the instruction word
  desc : MmaDesc
  claimer : Nat
  group : Nat
  part : Nat
  step : Nat               -- next K-step
  head : TileHead
  claim : Nat              -- the claim it belongs to
  deriving DecidableEq, Repr

/-- A matrix cell: two banks and a queue of at most four instructions (R55, R63). -/
structure Cell where
  b0 : Bank
  b1 : Bank
  queue : List CellInstr
  deriving DecidableEq, Repr

/-- An idle cell. -/
def Cell.idle : Cell := ⟨Bank.free, Bank.free, []⟩

/-- A Gutter entry (R119, R121). -/
structure GutEntry where
  head : TileHead
  group : Nat
  src : Nat
  cell : Nat
  bank : Nat
  gang : Nat
  part : Nat
  afmt : AccFmt
  flags : Nat
  data : Tbl Nat
  tile : Option TileRef
  claim : Nat              -- the claim that it comes from
  deriving DecidableEq, Repr

/-- No entry. -/
def GutEntry.none : GutEntry := ⟨⟨0, 0, 0, 0, 0⟩, 0, 0, 0, 0, 0, 0, .fp32, 0, [], Option.none, 0⟩

/-- The element engine (R127, R128) and its run. -/
structure Elem where
  running : Bool
  pc : Nat
  slot : Nat
  blocked : Bool
  fseq : Nat               -- fault the run waits on; 0 none
  wide : Bool
  main : List GutEntry     -- the run's entries, lower part first
  image : List Nat         -- the slot image as it stood at the start (R126)
  run : Nat                -- number of the run, from 0: stores of run n wait as group 64 + n
  t : Tbl Nat              -- tile buffers: key buffer × 4096 + row × 64 + column
  v : Tbl Nat              -- vectors: key vector × 128 + entry
  sreg : Tbl Nat           -- scalars
  mask : Nat               -- bit row × width + column
  vln : Nat
  vlm : Nat
  gen : Nat                -- rounding generator (R46)
  maps : List PageMap      -- translation list of a load in progress (R265)
  last : Nat               -- index of the last instruction performed (R145)
  deriving DecidableEq, Repr

/-- An engine after reset (R128). -/
def Elem.idle : Elem := ⟨false, 0, 0, false, 0, false, [], [], 0, [], [], [], 0, 0, 0, 0, [], 0⟩

/-- A copy descriptor as it was read (R104). -/
structure CopyDesc where
  gaddr : Nat
  saddr : Nat
  dir : Nat
  esize : Nat
  ndim : Nat
  cast : Bool
  cnt : Nat
  sat : Bool
  rm : Nat
  mfmt : Nat
  sfmt : Nat
  dims : List Nat
  mstr : List Int
  sstr : List Nat
  deriving DecidableEq, Repr

/-- A gather descriptor as it was read (R179). -/
structure GatherDesc where
  sel : Nat
  layer : Nat
  head : Nat
  nhead : Nat
  kv : Nat
  token0 : Nat
  ntok : Nat
  saddr : Nat
  cnt : Nat
  sstrTok : Nat
  sstrHead : Nat
  rowBytes : Nat           -- of the layout, read when the gather starts (R180)
  entry : Option (List Nat) -- the sequence, whether it reads nothing, and the entry's words, read once (R180)
  unit : Nat               -- bytes that land together
  deriving DecidableEq, Repr

/-- What an entry of the copy queue does. -/
inductive CopyJob where
  | copy (d : CopyDesc)
  | gather (d : GatherDesc)
  deriving DecidableEq, Repr

/-- One unit of a started copy: the physical address of the memory side, the scratch address and the byte counts. -/
structure CopyElem where
  mem : Option Nat         -- none: the gather writes zeros (R180)
  saddr : Nat
  deriving DecidableEq, Repr

/-- A queued or started copy or gather (R107, R108). -/
structure Copy where
  id : Nat
  job : CopyJob
  group : Nat
  order : Nat              -- admission order of the issuing group
  started : Bool
  fseq : Nat               -- fault it waits on; 0 none
  elems : List CopyElem    -- elements still to land, once started
  pages : List PageMap     -- its translation list (R265, R275)
  moved : Bool             -- bytes have begun to move
  deriving DecidableEq, Repr

/-- A direct launch held by a Gable (R201, R202). -/
structure DirectLaunch where
  addr : Nat
  block : Option (List Nat)   -- the sixteen words once fetched and checked
  fseq : Nat
  deriving DecidableEq, Repr

/-- A translation cache entry (R262, R263): a run of up to 16 pages. -/
structure TlbEntry where
  run : Nat                -- virtual address of the run, over 16 pages
  size : Nat               -- log2 of the page size
  ppn0 : Nat               -- page frame of index 0, in pages of 4 KiB
  mask : Nat               -- folded indices
  r : Bool
  w : Bool
  x : Bool
  a : Bool
  d : Bool
  pbmt : Nat
  napot : Bool             -- one 64 KiB page of 16 PTEs (R263)
  deriving DecidableEq, Repr

/-- One Gable. -/
structure Gable where
  groups : Tbl Group
  order : Nat              -- next admission order
  iseq : Nat               -- FINISH instructions issued, modulo 65,536 (R121)
  matId : Nat              -- number of the next matrix instruction to enter a queue
  c0 : Cell
  c1 : Cell
  gutter : List GutEntry   -- visible entries, oldest first, those of the run included
  copying : List GutEntry  -- entries whose copy is in progress (R119)
  elem : Elem
  copies : List Copy       -- queue order
  copyId : Nat
  loadId : Nat
  scratch : Tbl Byte
  launch : Option DirectLaunch
  tlb : List TlbEntry      -- Gable translation cache, most recently used first
  claims : List (Nat × Nat) -- groups that wait to enter the cell queues, (Gable, group), in order (R60)
  deriving DecidableEq, Repr

/-- A Gable after reset (R116, R118, R119, R128). -/
def Gable.reset : Gable :=
  ⟨[], 0, 0, 0, Cell.idle, Cell.idle, [], [], Elem.idle, [], 0, 0, [], none, [], []⟩

end Sys2Proof.Machine
end

