-- ==== Sys2Proof/Machine/UnitsDie.lean ====
section
/-! DEFINITION. The state of a compute die outside its Gables: the tile scheduler (07_tile_scheduling.md), the host
cores (08_host_cores.md), the die cache (09_coherence.md) and the die translation cache (11_translation_migration.md). -/

namespace Sys2Proof.Machine

/-- A tile list held by a scheduler (R164): its address, its count and the index of the next descriptor. -/
structure TileList where
  addr : Nat
  count : Nat
  next : Nat
  cmd : Option Nat         -- the Ledger entry of the TILES command that submitted it (R383)
  fseq : Nat
  pas : Option (List (Nat × Bool)) -- the descriptors' physical addresses and whether cacheable, once translated (R265)
  maps : List PageMap      -- its translation list
  deriving DecidableEq, Repr

/-- A descriptor in a scheduler's pool (R162, R165, R170, R173). -/
structure PoolEntry where
  words : List Nat         -- the sixteen 32-bit words as fetched, or as split
  addr : Nat               -- its address in memory (R175)
  order : Nat              -- age in the pool
  gable : Nat              -- local queue it lies in
  crossed : Bool           -- it came from another die (R171)
  pinned : Bool            -- a piece of a split (R173)
  tile : Option TileRef    -- the tile a piece belongs to
  cmd : Option Nat
  deriving DecidableEq, Repr

/-- A tile in progress (R169): the pieces still to complete and what its completion signals. -/
structure Tile where
  id : Nat
  pieces : Nat
  addr : Nat
  scope : Nat
  sig : Nat                -- bytes 24-25 of the descriptor
  inc : Nat
  lost : Bool              -- never completes (R144, R409)
  cmd : Option Nat
  deriving DecidableEq, Repr

/-- A tile scheduler (R164 to R174). -/
structure Sched where
  lists : List TileList
  pool : List PoolEntry
  tiles : List Tile
  order : Nat
  tileId : Nat
  listAddr : Tbl Nat       -- TS_LIST_ADDR by agent (R164): hart number, or 96 + management processor
  abort : Bool             -- an abort runs (R409)
  deriving DecidableEq, Repr

/-- A scheduler after reset. -/
def Sched.reset : Sched := ⟨[], [], [], 0, 0, [], false⟩

/-- Cache line states (09_coherence.md, cache line states). -/
inductive Moesi where
  | m | o | e | s | i
  deriving DecidableEq, Repr

/-- Which misses filled a line: Gables and engines, or host cores (R244). -/
inductive FillBy where
  | gable | host
  deriving DecidableEq, Repr

/-- A line of a die cache: its state, its way and its filler; the core-presence vector of R205; the poison mark of this
copy (R240). -/
structure DcLine where
  st : Moesi
  way : Nat
  filler : FillBy
  cores : Nat
  poison : Bool
  deriving DecidableEq, Repr

/-- An absent line. -/
def DcLine.absent : DcLine := ⟨.i, 0, .gable, 0, false⟩

/-- What a miss asks of the home (09_coherence.md, requests to the home). -/
inductive ReqKind where
  | rds | rdx | upg | wbd | evc | cln | fls | rdonce | wrline | wrpart | atom
  deriving DecidableEq, Repr

/-- One crossing of a bridge edge by a message (R281, R290): edge, direction, bundle and virtual channel. -/
structure Hop where
  edge : Nat
  dir : Nat
  bundle : Nat
  vc : Nat
  deriving DecidableEq, Repr

/-- A miss outstanding at a die cache (R208, R213). -/
structure Miss where
  line : Nat
  kind : ReqKind
  filler : FillBy
  gotData : Bool
  grant : Option Moesi     -- the state the answer grants
  acks : Nat               -- Acks received
  need : Option Nat        -- ACKS of the Cmp, once received
  poisoned : Bool
  cores : Nat              -- cores that asked for it, for the presence vector (R205)
  path : List Hop          -- edges that its request crossed (R14, R290)
  back : List Hop          -- edges that its data or its completion crossed
  deriving DecidableEq, Repr

/-- A store that waits for its line in M (R229): who made it, and the bytes. -/
structure PendStore where
  gable : Nat              -- local Gable; 16 + core for a host core
  group : Nat              -- group; 64 + n for run n of the element engine
  line : Nat
  bytes : List (Nat × Byte)
  tile : Option TileRef    -- the tile it is made for (R169)
  maps : List PageMap      -- its access's translation list (R275)
  deriving DecidableEq, Repr

/-- An AMO that waits for its line in M (R227): the lane operations in lane order. -/
structure PendAmo where
  gable : Nat
  group : Nat
  line : Nat
  lane : Nat
  addr : Nat
  size : Nat
  func : Nat
  rd : Nat
  arg : Nat
  cmp : Nat
  deriving DecidableEq, Repr

/-- The die cache of a compute die. -/
structure DieCache where
  lines : Tbl DcLine
  misses : List Miss
  waiting : List (Nat × Bool × FillBy) -- lines to ask for when a miss ends: line, for writing, filler (R208)
  evicting : List (Nat × DcLine)  -- writeback buffer: lines with their former state, I once the home has taken it (R214)
  stores : List PendStore
  amos : List PendAmo
  deriving DecidableEq, Repr

/-- A host core's interrupt file (R198): pending and enabled identities, bit n for identity n. -/
structure ImsicFile where
  pending : Nat
  enabled : Nat
  deriving DecidableEq, Repr

/-- A translation that a host core holds (R193), with the ASID it was made for; G for every ASID. -/
structure HostTlb where
  vpn : Nat                -- virtual address over the page size
  size : Nat               -- log2 of the page size
  mode : Nat               -- satp.MODE
  asid : Nat
  g : Bool
  pa : Nat                 -- physical base of the page
  r : Bool
  w : Bool
  x : Bool
  u : Bool
  d : Bool
  pbmt : Nat
  deriving DecidableEq, Repr

/-- The caches of a host core (08_host_cores.md, host-core caches): the lines of its L1 instruction, L1 data and L2 cache,
oldest fill first, those of L2 with their state (R205); L2 is inclusive of both L1 caches. -/
structure CoreCaches where
  l1i : List Nat
  l1d : List Nat
  l2 : List (Nat × Moesi)
  deriving DecidableEq, Repr

/-- A host core (R185 to R193, R197, R198): architectural registers of the RISC-V hart. -/
structure HostCore where
  pc : Nat
  mode : Nat               -- 3 M, 1 S, 0 U
  x : Tbl Word
  f : Tbl Word
  v : Tbl Nat              -- vector registers, 256 bits each (R190)
  csr : Tbl Word           -- CSRs by number
  resv : Option Nat        -- line reserved by LR (R223)
  waiting : Bool           -- WFI or WRS.NTO
  tlb : List HostTlb
  mfile : ImsicFile
  sfile : ImsicFile
  mtip : Bool              -- machine timer interrupt pending (R197)
  stip : Bool
  caches : CoreCaches
  insn : Nat               -- the bits fetched of the instruction it executes, which stval takes (Sstvala)
  deriving DecidableEq, Repr

/-- A hart after reset: M mode, every register zero (the reset values of stimecmp and misa stand in Ops). -/
def HostCore.reset : HostCore :=
  ⟨0, 3, [], [], [], [], none, false, [], ⟨0, 0⟩, ⟨0, 0⟩, false, false, ⟨[], [], []⟩, 0⟩

/-- A compute die outside its Gables. -/
structure Die where
  sched : Sched
  cache : DieCache
  tlb : List TlbEntry      -- die translation cache (R262), most recently used first
  cores : Tbl HostCore
  aborting : Bool
  countBatch : Tbl Nat     -- far-page line requests not yet forwarded (R276), by virtual page number
  deriving DecidableEq, Repr

/-- A compute die after reset. -/
def Die.reset : Die := ⟨Sched.reset, ⟨[], [], [], [], [], []⟩, [], [], false, []⟩

end Sys2Proof.Machine
end

