-- ==== Sys2Proof/Machine/UnitsMem.lean ====
section
/-! DEFINITION. The state of a base die's memory side: directory (09_coherence.md), near-memory cache with Eaves and
Transom (10_memory_and_near_cache.md), system translation unit (11_translation_migration.md). -/

namespace Sys2Proof.Machine

/-- Directory states with an entry (R210); DI has none. -/
inductive DirSt where
  | di | ds | dx | dOwned
  deriving DecidableEq, Repr

/-- A directory entry (R210). -/
structure DirEntry where
  st : DirSt
  owner : Nat
  sharers : Nat
  age : Nat                -- allocation order (R211)
  deriving DecidableEq, Repr

/-- No entry: DI. -/
def DirEntry.none : DirEntry := ⟨.di, 0, 0, 0⟩

/-- Snoops from the home. -/
inductive Snoop where
  | snpS | snpX | snpRd | snpCln | snpRcl | snpInv
  deriving DecidableEq, Repr

/-- Who made a request at a home: a die cache, or a non-caching agent, by number. -/
inductive Agent where
  | die (d : Nat)
  | other (n : Nat)
  deriving DecidableEq, Repr

/-- A request waiting at its home (R207). -/
structure HomeReq where
  kind : ReqKind
  line : Nat
  src : Agent
  payload : List (Nat × Byte) -- bytes of a WrLine, WrPart or Atom, offset and value
  poisoned : Bool
  func : Nat                 -- Atom operation
  size : Nat
  cmp : Nat
  base : Nat                 -- the base die its sender sits on
  path : List Hop            -- edges that it crossed (R14, R290)
  deriving DecidableEq, Repr

/-- A snoop in flight to a die cache. -/
structure SnoopMsg where
  line : Nat
  kind : Snoop
  die : Nat
  path : List Hop            -- edges that it crossed (R14, R290)
  deriving DecidableEq, Repr

/-- The transaction in progress on a line (R207, R213). -/
structure Txn where
  req : HomeReq
  waiting : List Nat         -- dies whose snoop answer the home still awaits
  answered : Bool            -- the requester has been answered; CmpAck is awaited
  supplied : Bool            -- an owner has supplied the data
  wasDirty : Bool            -- that owner held the line in M or O
  evicts : Bool              -- an entry is being evicted to make room (R211) or rebuilt (R222)
  rebuilt : Bool
  victim : Nat               -- that entry's line
  deriving DecidableEq, Repr

/-- A directory slice. -/
structure Dir where
  entries : Tbl DirEntry
  queue : List HomeReq
  txns : List Txn
  snoops : List SnoopMsg
  age : Nat
  scan : List Nat            -- compute dies being removed, oldest first (R220)
  bad : List Nat             -- lines whose entry has an uncorrectable error not yet met (R222)
  deriving DecidableEq, Repr

/-- A directory slice after reset. -/
def Dir.reset : Dir := ⟨[], [], [], [], 0, [], []⟩

/-- A line of the near-memory cache, the Eaves or the Transom, with its poison mark (R242, R246). -/
structure NmcLine where
  line : Nat
  dirty : Bool
  poison : Bool
  deriving DecidableEq, Repr

/-- A stride tracker (R248). -/
structure Tracker where
  last : Nat
  delta : Int
  hits : Nat
  deriving DecidableEq, Repr

/-- The near-memory cache of a base die with its side buffers (R242 to R256). -/
structure Nmc where
  ways : Tbl (Option NmcLine)   -- key set × 16 + way; a line's tag is R[30:22] of its die-local number
  eaves : List NmcLine          -- oldest first
  transom : List NmcLine
  trackers : List Tracker       -- most recently used first
  prefetches : List Nat         -- prefetched lines not yet returned
  ues : List Nat                -- times of its uncorrectable reads of the last millisecond (R251)
  current : Bool                -- ENABLING was reached from DISABLING_ENABLE_PENDING: no line is stale (R255)
  gen : Nat                     -- replacement generator (R245)
  deriving DecidableEq, Repr

/-- The cache after reset: the generator holds NMC_SEED's reset value (R245, R258). -/
def Nmc.reset : Nmc := ⟨[], [], [], [], [], [], false, 1⟩

/-- Corrected errors of a stack or a near-memory cache within one second of fabric time (R238, R250). -/
structure CeWindow where
  second : Nat
  count : Nat
  reported : Bool
  deriving DecidableEq, Repr

/-- Who waits on a fault sequence number (R266, R271). -/
inductive Waiter where
  | group (gable group : Nat)
  | copy (gable id : Nat)
  | elem (gable : Nat)
  | list (die : Nat)
  | launch (gable : Nat)
  deriving DecidableEq, Repr

/-- An outstanding fault (R267). -/
structure Fseq where
  num : Nat
  page : Nat
  waiters : List Waiter
  deriving DecidableEq, Repr

/-- A migration descriptor (R272). -/
structure MigDesc where
  fseq : Nat
  size : Nat
  src : Nat
  dst : Nat
  pte : Nat
  old : Nat
  new : Nat
  done : Nat
  bad : Bool                 -- a reserved bit was set
  deriving DecidableEq, Repr

/-- A migration queued at a mover, in progress once its descriptor has been read (R272, R273). -/
structure Mig where
  descAddr : Nat
  desc : Option MigDesc
  busy : Bool                -- the page was held by another migration when it started
  closed : Bool              -- V is cleared and the shootdown of the page awaited (R273, step 1)
  copying : Bool             -- that is complete
  held : List Waiter         -- faults on the page that wait in the mover
  since : Nat                -- fabric time at which its shootdown began (R275)
  stalled : Bool             -- that has been recorded as late
  deriving DecidableEq, Repr

/-- A shootdown (R274): the range, as first and last byte; the whole space for KIND 2. -/
structure Shoot where
  all : Bool
  lo : Nat
  hi : Nat
  stalled : Bool
  since : Nat                -- fabric time at which it was accepted (R275)
  page : Option Nat          -- a mover's shootdown instead: of the translations to this physical page (R273)
  deriving DecidableEq, Repr

/-- A walk cache entry: a non-leaf PTE by its level and the addresses it covers (R260). -/
structure WalkEntry where
  level : Nat
  part : Nat                 -- the virtual address over what the PTE covers
  pte : Nat
  deriving DecidableEq, Repr

/-- A far-page access counter (R276). -/
structure FarCount where
  page : Nat
  shift : Nat
  count : Nat
  reported : Bool
  deriving DecidableEq, Repr

/-- An STU slice (R259 to R276). -/
structure Stu where
  nextSeq : Nat
  faults : List Fseq
  held : List (List Byte)        -- records held while the ring is full (R269)
  ready : List (List Byte)       -- records formed and not yet written to the ring
  migs : List Mig
  shoots : List Shoot
  walkCache : List WalkEntry
  far : List FarCount
  deriving DecidableEq, Repr

/-- A slice after reset: FSEQ counts from 1 (R267). -/
def Stu.reset : Stu := ⟨1, [], [], [], [], [], [], []⟩

end Sys2Proof.Machine
end

