-- ==== Sys2Proof/Machine/UnitsNet.lean ====
section
/-! DEFINITION. The state of the on-package network (12_bridges_noc.md), the Ethernet ports (13_ethernet_ports.md) and
what the node has sent. -/

namespace Sys2Proof.Machine

/-- A bundle direction (R281 to R288). -/
structure Bundle where
  width : Nat                -- 0 FULL, 1 HALF, 2 CLOSED
  half : Nat                 -- surviving half, at half width
  retired : Nat              -- bit s: spare s is retired
  carried : Tbl (Option Nat) -- data wire that each spare carries
  wireFails : Nat
  testing : Bool
  testDue : Bool
  crcMs : Nat                -- millisecond of fabric time of the count
  crcFails : Nat             -- CRC failures in it
  recvSeq : Nat              -- frames delivered
  sent : Nat                 -- frames sent
  nak : Option Nat           -- frame NAKed and not yet replayed
  replays : Nat              -- successive replays of one frame
  kept : List (Nat × Nat)    -- the sender's replay buffer: its last 64 frames, number and message (R282)
  msg : Nat                  -- message of the frame delivered last
  deriving DecidableEq, Repr

/-- A bundle direction after reset: full width. -/
def Bundle.reset : Bundle := ⟨0, 0, 0, [], 0, false, false, 0, 0, 0, 0, none, 0, [], 0⟩

/-- The bundle map of an edge direction with every bundle at full width, as the list its 128 entries name (R283). -/
def fullMap : List Nat := (List.range 128).map fun i => i / 2

/-- The routes and bundle maps in force (R283, R290): they change at the end of a route switch alone (R291). -/
structure Routes where
  conds : Tbl Nat            -- condition of an edge that the routes in force follow (R289)
  maps : Tbl (List Nat)      -- by edge × 2 + direction, the list behind the bundle map in force
  held : List HomeReq        -- requests whose path or bundle changes, not sent while a route switch lasts
  deriving DecidableEq, Repr

/-- After reset every edge is NORMAL and every bundle at full width. -/
def Routes.reset : Routes := ⟨[], [], []⟩

/-- What the node sends, by kind; the fields and data of each kind are named where it is sent. -/
inductive OutKind where
  | pfc
  | arpReply
  | cnp
  | roceRequest
  | roceAck
  | roceNak
  | roceResponse
  | dziger
  | ptp
  | pulse
  | corud
  | heartbeat
  | notify
  | boundary
  deriving DecidableEq, Repr

/-- A message or pin event that has left the node: its port (0 to 19: base die × 5 + local port; 20 MGT, 21 I3C, 22 a
pin), its kind, its fields and its data. Nothing in the node reads it back. -/
structure Out where
  port : Nat
  prio : Nat
  kind : OutKind
  fields : List Nat
  data : List Byte
  deriving DecidableEq, Repr

/-- A port (R303 to R310). -/
structure Port where
  mode : Nat                 -- the mode latched at ENABLING
  depth : Nat                -- the loopback depth latched at ENABLING (R521)
  lanes : Nat                -- lanes in use, by mask
  training : Bool
  restarted : Bool           -- a training has been restarted since LINK fell
  narrowTo : Option Nat      -- lanes of a narrowing in progress
  deferOff : Bool            -- EN = 0 written during a narrowing
  paused : Nat               -- priorities the partner has paused
  pausedAt : Tbl Nat         -- since when
  pausedTo : Tbl Nat         -- until when, by the quanta received (R309)
  stormed : Nat              -- priorities whose pause has been reported
  xoff : Nat                 -- priorities this port has paused
  farClosed : Nat            -- lanes closed at the partner's end (R306)
  laneErrs : Tbl (Nat × Nat) -- by lane: a millisecond of fabric time and its symbol errors (R305)
  held : List Out            -- frames held back by PFC, and Dziger frames in the transmit queues (R327, R341)
  needKa : Bool              -- the link fell: out of the spray set until a KEEPALIVE passes (R341)
  deriving DecidableEq, Repr

/-- A port after reset. -/
def Port.reset : Port := ⟨0, 0, 0, false, false, none, false, 0, [], [], 0, 0, 0, [], [], false⟩

end Sys2Proof.Machine
end

