-- ==== Sys2Proof/Machine/UnitsWork.lean ====
section
/-! DEFINITION. The state of the RoCEv2 queue pairs (13_ethernet_ports.md), the work queues and the Ledger
(16_work_queues_ledger.md). -/

namespace Sys2Proof.Machine

/-- Who made a request that a QP sends: a send entry of its ring (R318), or the Ledger and the work-queue unit, which
use the QPs assigned to them (R380, R381, R388). -/
inductive QpWho where
  | entry (wr : Nat) (signalled : Bool)
  | mirror (base i wid : Nat)
  | record (base i : Nat)
  | accWord (queue : Nat)
  | replay
  deriving DecidableEq, Repr

/-- A request of a requester QP, from when it is posted until it is acknowledged (R316, R318). -/
structure QpReq where
  who : QpWho
  op : Nat
  len : Nat
  localPa : Nat
  remoteVa : Nat
  rkey : Nat
  imm : Nat
  arg : Nat                  -- COMPARE or ADD
  swap : Nat
  data : List Byte           -- bytes sent by SEND and WRITE
  psn : Nat                  -- first PSN
  psns : Nat                 -- PSNs it takes
  done : Nat                 -- of them, how many are acknowledged
  deriving DecidableEq, Repr

/-- A message whose packets a responder QP receives or has received last (R312, R316): SEND or WRITE, its first PSN, where
its bytes go, a WRITE's length or a SEND's receive entry, the bytes come, and whether its last packet is still to come. -/
structure RoceMsg where
  write : Bool
  psn : Nat
  pa : Nat
  len : Nat
  got : Nat
  more : Bool
  deriving DecidableEq, Repr

/-- A queue pair (R313): its context image, its ring indexes and what it has outstanding. -/
structure Qp where
  st : Nat                   -- 0 RESET, 1 INIT, 2 RTR, 3 RTS, 4 ERROR
  port : Nat
  pmtu : Nat
  timeout : Nat
  retry : Nat
  rnrRetry : Nat
  dscp : Nat
  prio : Nat
  hopLimit : Nat
  destQpn : Nat
  sqPsn : Nat
  rqPsn : Nat
  dmac : Nat
  sport : Nat
  dip : Nat
  sq : Nat
  rq : Nat
  sqPi : Nat                 -- producer index of the SQ ring
  sqCi : Nat                 -- next send entry to process
  rqCi : Nat                 -- next receive entry
  rate : Option Nat          -- send rate in Mb/s once congestion control has lowered it (R311)
  cutAt : Option Nat         -- when it was last halved
  retries : Nat
  rnrs : Nat
  reqs : List QpReq          -- outstanding, oldest first
  atomics : List (Nat × Nat) -- PSN and result of the last 16 atomics
  msg : Option RoceMsg       -- as responder: the last SEND or WRITE
  dup : Option RoceMsg       -- the WRITE whose duplicate packets come (R316)
  acceptedAt : Option Nat    -- when it last accepted a packet (R412)
  deriving DecidableEq, Repr

/-- A QP after reset. -/
def Qp.reset : Qp := ⟨0, 0, 0, 0, 0, 0, 0, 0, 0, 0, 0, 0, 0, 0, 0, 0, 0, 0, 0, 0, none, none, 0, 0, [], [], none, none, none⟩

/-- A work queue besides its registers (R370 to R381). -/
structure Wq where
  stall : Nat                -- 0 none, 1 AHEAD, 2 OVERRUN, 3 a lost entry (R393)
  waitFrom : Option Nat      -- when the period of R377 began
  entry : Option Nat         -- Ledger entry journalled for slot NEXT and not yet accepted
  accDue : Bool              -- the acceptance word has changed since it was last written
  cqFailed : Bool            -- its records wait for the QP (R389)
  deriving DecidableEq, Repr

/-- A queue after reset. -/
def Wq.reset : Wq := ⟨0, none, none, false, false⟩

/-- An entry of a Ledger slice (R379, R380). -/
structure LedEntry where
  queue : Nat
  desc : List Byte
  st : Nat                   -- 1 ACCEPTED, 2 COMPLETING, 3 RETIRED: the local state
  acked : Nat                -- the state that the mirror has acknowledged; 0 none
  copy : Nat                 -- copy that holds the latest acknowledged state of its place: 0 A, 1 B
  wid : Nat                  -- number of its last mirror write (R380)
  flight : Bool              -- a mirror write is in flight
  heard : Option Bool        -- that write's end, once known
  started : Bool
  doneBy : Option (Nat × Nat × Nat) -- STATUS, ERROR and RESULT once the command has ended
  cpl : List Byte
  replayed : Bool
  recOut : Bool              -- the completion record's write is in flight
  recHeard : Option Bool     -- its end, once known
  list : Option Nat          -- compute die a TILES command was handed to
  bad : Bool                 -- its integrity code fails (R392)
  draw : Nat                 -- counter value by which its output region reads (R390)
  out : List (Nat × Nat)     -- physical pieces of its declared output region, from acceptance
  deriving DecidableEq, Repr

/-- A Ledger slice with the notify FIFO of its base die (R386, R392). -/
structure LedSlice where
  entries : Tbl (Option LedEntry)
  wid : Nat                  -- mirror writes made
  copies : Tbl Nat           -- by freed place, the copy that holds its latest acknowledged state, plus one (R380)
  notify : List (Nat × Nat)  -- queue and SEQ, oldest first
  frontier : Tbl Nat         -- by queue, a restore's frontier plus one (R419, R420)
  deriving DecidableEq, Repr

/-- A slice after a cold reset. -/
def LedSlice.reset : LedSlice := ⟨[], 0, [], [], []⟩

/-- The node's mirror (R382) and reconciliation (R393). -/
structure Mirror where
  lost : Bool                -- acceptance has stopped
  reported : Bool            -- MIRROR_LOST has been written since a Latch commit named a mirror
  reading : Bool             -- reconciliation reads the mirror
  readDone : Bool            -- both copies of every entry have been read (R393)
  resync : Bool              -- live entries are being written to a newly named mirror (R382)
  deriving DecidableEq, Repr

/-- The mirror after reset. -/
def Mirror.reset : Mirror := ⟨false, false, false, false, false⟩

end Sys2Proof.Machine
end

