-- ==== Sys2Proof/Machine/UnitsFabric.lean ====
section
/-! DEFINITION. The state of the Dziger engines and the Ridge (14_dziger_fabric.md) and of the Shingle slices
(15_shingle_collectives.md). -/

namespace Sys2Proof.Machine

/-- What a packet was sent for. -/
inductive DzWho where
  | op (id : Nat)            -- a remote access or command entry, by its number
  | resp                     -- an answer
  | shingle (tag gen : Nat)  -- a bucket's contribution
  | ridge (tree : Nat)
  | ckpt                     -- a cut's remote slot (R416)
  deriving DecidableEq, Repr

/-- A packet that an engine originates: waiting to be sent, or sent and unacknowledged (R332). -/
structure DzOut where
  pkt : DzPkt
  who : DzWho
  sends : Nat                -- sendings so far
  deriving DecidableEq, Repr

/-- A sender's flow context (R330, R332). -/
structure SFlow where
  next : Nat                 -- next sequence number
  acked : Bool               -- its first ACK has arrived
  window : Nat
  cutAt : Option Nat         -- when the window was last halved
  unacked : List DzOut       -- oldest first
  deriving DecidableEq, Repr

/-- A new sender context. -/
def SFlow.start : SFlow := ⟨0, false, 1024, none, []⟩

/-- A receiver's flow context (R331, R332). -/
structure RFlow where
  expect : Nat               -- next expected number
  held : List DzPkt
  since : Nat                -- packets performed since the last ACK
  ece : Bool                 -- CE seen since the last ACK
  deriving DecidableEq, Repr

/-- A new receiver context. -/
def RFlow.start : RFlow := ⟨0, [], 0, false⟩

/-- A command ring (R338): its producer index and whether a write of its base waits for entries in progress. -/
structure DzRing where
  pi : Nat
  rebase : Option Nat
  deriving DecidableEq, Repr

/-- A ring after reset. -/
def DzRing.reset : DzRing := ⟨0, none⟩

/-- A command entry in progress (R338). -/
structure DzCmd where
  ring : Nat
  slot : Nat
  op : Nat
  signalled : Bool
  len : Nat
  localPa : Nat
  wr : Nat
  sig : Nat
  inc : Nat
  win : Nat                  -- the window index it names, 0 for an endpoint
  ep : Nat
  addr : Nat                 -- its remote address; the message queue of a MSG
  id : Nat                   -- its remote access
  left : Nat                 -- packets not yet acknowledged
  got : Nat                  -- bytes completed
  status : Option Nat        -- how it ended
  deriving DecidableEq, Repr

/-- A Dziger engine (R323 to R341). -/
structure Dz where
  rings : Tbl DzRing
  cmds : List DzCmd          -- in ring order of start
  cq : List (List Byte)      -- completion records waiting for their ring
  deriving DecidableEq, Repr

/-- An engine after reset. -/
def Dz.reset : Dz := ⟨[], [], []⟩

/-- The node's Dziger flows and what waits to be sent. Flow keys: PEER × 8 + TC. -/
structure Fabric where
  sflows : Tbl (Option SFlow)
  rflows : Tbl (Option RFlow)
  waiting : List DzOut       -- packets originated and not yet sent, oldest first
  txq : Tbl Nat              -- bytes in a port's transmit queue, key port × 8 + TC (R327, R329)
  last : Nat                 -- port chosen last (R327)
  heard : Tbl Bool           -- by port, a KEEPALIVE came in this interval
  missed : Tbl Nat           -- by port, consecutive intervals without one
  ridgeWait : List Nat       -- broadcasts that wait for an earlier one (R343)
  badFwd : List (Nat × Nat × Nat × Nat) -- chunks forwarded with a bad FCS: tree, ADDR, child, number (R344)
  deriving DecidableEq, Repr

/-- After reset. -/
def Fabric.reset : Fabric := ⟨[], [], [], [], 15, [], [], [], []⟩

/-- A bucket (R350, R354). -/
structure Bucket where
  st : Nat
  gen : Nat
  kind : Nat
  add : Bool
  op : Nat
  group : Nat
  fmt : Nat
  ofmt : Nat
  conv : Nat
  len : Nat
  expect : Nat
  out : Nat
  inn : Nat
  sig : Nat
  inc : Nat
  wait : Nat
  thr : Nat
  n : Nat
  myRank : Nat
  ranks : List (Nat × Nat)   -- endpoint and UPDATER of each rank, as read
  pages : Nat
  delivered : Nat
  fill : Tbl Nat             -- element and its code in the leaf format
  order : Nat                -- when it filled
  chunks : List (Nat × Nat)  -- rank and first element of each chunk received
  leaves : Tbl Nat           -- received leaves, key rank × 2^22 + element
  reduced : List Nat         -- shards reduced and written
  sentAll : Bool
  deriving DecidableEq, Repr

/-- A FREE bucket. -/
def Bucket.free : Bucket := ⟨0, 0, 0, false, 0, 0, 0, 0, 0, 0, 0, 0, 0, 0, 0, 0, 0, 0, 0, [], 0, 0, [], 0, [], [], [], false⟩

/-- A Shingle slice (R350 to R366). -/
structure Shg where
  arms : List Nat            -- arm descriptors queued, oldest first
  buckets : Tbl Bucket       -- by tag
  early : List DzPkt
  order : Nat
  deriving DecidableEq, Repr

/-- A slice after reset. -/
def Shg.reset : Shg := ⟨[], [], [], 0⟩

end Sys2Proof.Machine
end

