-- ==== Sys2Proof/Machine/UnitsCtl.lean ====
section
/-! DEFINITION. The state of checkpoints and sessions (17_recovery.md), fabric time (18_fabric_time.md), Louvre
(19_power_louvre.md), Corud and the Latch (20_corud_dictionary.md), boot and life cycle
(21_reset_boot_lifecycle.md), test access (22_test_loopbacks.md). -/

namespace Sys2Proof.Machine

/-- Checkpoint cuts and restores (R414 to R420) and controlling sessions (R412). -/
structure Ckpt where
  hold : Nat                 -- HOLD of the four slices before the cut in progress, bit n for BDn
  head : List Byte           -- that cut's slot header, FLAGS and CHECK zero (R415)
  poison : Bool              -- a line was copied with its mark
  sending : Bool             -- every chunk is copied and the remote slot is being sent
  failed : Bool              -- a packet of the remote slot could not be delivered
  restore : List Nat         -- frontiers handed over when the restore in progress ends, by queue
  sessioned : Bool           -- some session has been alive since the last reset
  aliveAt : Nat              -- the last instant at which a session was alive (R412)
  since : Nat                -- when the drain of the cut in progress began (R418)
  deriving DecidableEq, Repr

/-- After reset. -/
def Ckpt.reset : Ckpt := ⟨0, [], false, false, false, [], false, 0, 0⟩

/-- Fabric time besides its registers and Node.now (R425 to R433). -/
structure Time where
  frac : Nat                 -- fraction of a nanosecond, 16 bits
  left : Nat                 -- what rate scaling has left over, below 2^-16 ns
  ptp : Tbl Nat              -- PTP state by port: 0 LISTENING, 1 MASTER, 2 SLAVE, 3 PASSIVE
  heard : Tbl (Option (List Nat)) -- best announced data set by port
  stamp : Tbl Nat            -- last event timestamp by port (R429)
  ppsAt : Option Nat         -- last accepted edge
  ppsAlone : Bool            -- PTP alone disciplines (R433)
  ppsHold : Bool             -- HOLDOVER was entered for want of PPS
  ptpHold : Bool             -- HOLDOVER was entered for want of Sync
  pulsed : List (Nat × Nat)  -- seconds that have pulsed, as ranges: the first and the one past the last (R432)
  pulseAt : Option Nat       -- last pulse on PPS_OUT
  pulseHigh : Bool           -- PPS_OUT is high
  listen : Tbl (Option Nat)  -- by port, when it began to listen or heard its last Announce (R430)
  syncAt : Option Nat        -- when the reference port last received a Sync, or became the reference (R433)
  twoStep : Tbl (Option Nat) -- by port, the two-step Sync whose Follow_Up is awaited (R428)
  ppsFrom : Option Nat       -- when PPS_EN was set or an edge last accepted (R431)
  holdAt : Nat               -- when HOLDOVER was entered for want of PPS (R433)
  stored : Tbl Nat           -- by timed event, when it was last stored to (R436)
  skip : Nat × Nat           -- the last forward step, from and to (R436)
  aclk : Tbl Nat             -- by compute die, the part of an ACLK cycle past, in 120ths (R443)
  deriving DecidableEq, Repr

/-- After reset. -/
def Time.reset : Time where
  frac := 0
  left := 0
  ptp := []
  heard := []
  stamp := []
  ppsAt := none
  ppsAlone := false
  ppsHold := false
  ptpHold := false
  pulsed := []
  pulseAt := none
  pulseHigh := false
  listen := []
  syncAt := none
  twoStep := []
  ppsFrom := none
  holdAt := 0
  stored := []
  skip := (0, 0)
  aclk := []

/-- Louvre besides its registers (R440 to R463). Domains: 0 to 11 compute dies, 12 to 15 base dies, 16 HBM, 17
near-memory dies, 18 SerDes. Powers in milliwatts. -/
structure Louvre where
  meas : Tbl Nat             -- measured power
  est : Tbl Nat              -- estimate, corrected and guarded
  activity : List Nat        -- activity counters as sampled last
  acc : Tbl Nat              -- plain estimates formed since the last sample, summed
  accN : Nat                 -- how many they are
  hist : List (List Nat × List Nat) -- the last 100 samples, newest first: governing power and plain estimate by domain
  corr : Tbl (Nat × Nat)     -- correction of a domain's estimate, as a ratio; 0 over 0 for none
  guard : Nat                -- domains under a guard band
  held : Nat                 -- compute dies that a guard band holds lower; bit 16: DRAM
  suspect : Nat              -- domains whose measurement is implausible
  goodAt : Tbl Nat           -- since when a suspect domain has read plausibly, plus one
  temps : Tbl Nat            -- hottest reading of a unit: 0 to 11 CD, 12 to 15 BD, 16 to 27 stacks, 28 to 31 near-memory
  hot : Tbl Nat              -- readings in a row at the THERMTRIP temperature, by unit
  failed : Nat               -- units all of whose sensors have failed
  doubled : Nat              -- stacks at doubled refresh
  target : Tbl Nat           -- point a die moves to: OP + 8 HP + 32 (16 − duty)
  drop : Tbl Nat             -- microvolts of a supply below its OP0 or HP0 value: 0 to 11 arithmetic, 12 to 23 host
  want : Tbl Nat             -- a die's place on the ladder of points that the package loop chose
  trim : Nat                 -- places more that a measured average above the cap takes (R448)
  capAt : Nat                -- when the cap was last lowered, plus one
  cool : Tbl Nat             -- places that temperature takes: 0 to 11 from a die, 12 to 15 from a base die's three
  cooledAt : Tbl Nat         -- when that last changed, plus one; 16 to 19 for dramCool
  dram : Nat                 -- DRAM rate of the package loop, in sixteenths of peak below 16
  dramCool : Tbl Nat         -- eighths of peak taken from a base die's controllers by temperature
  throttled : Tbl Nat        -- when a unit last wrote THERMAL_THROTTLE, plus one
  lastSeq : Option (Nat × Nat) -- sequence number and watts of the last accepted budget
  grant : Option Nat         -- watts granted
  lease : Option Nat         -- when the lease ends
  brake : Bool
  brakeRec : Bool            -- BRAKE_STUCK has been written for this brake
  peak : Nat                 -- base dies whose current limiter acts
  peakAt : Tbl Nat           -- when its current last reached 95 % of the limit
  droop : Nat                -- compute dies whose clocks are stretched
  floorRec : Bool            -- CAP_BELOW_FLOOR has been written for this episode
  since : Tbl Nat            -- when an active reason rose, plus one
  total : Tbl Nat            -- nanoseconds of a reason's completed episodes
  force : Nat                -- windows of suspended classification left
  used : Tbl Nat             -- window in which a signature last matched
  window : Nat               -- windows counted
  trial : Option (Bool × Nat) -- SHARE's trial step in progress: up or down, and the value before
  up : Bool                  -- next trial step goes up
  deriving DecidableEq, Repr

/-- After reset. -/
def Louvre.reset : Louvre where
  meas := []
  est := []
  activity := []
  acc := []
  accN := 0
  hist := []
  corr := []
  guard := 0
  held := 0
  suspect := 0
  goodAt := []
  temps := []
  hot := []
  failed := 0
  doubled := 0
  target := []
  drop := []
  want := []
  trim := 0
  capAt := 0
  cool := []
  cooledAt := []
  dram := 0
  dramCool := []
  throttled := []
  lastSeq := none
  grant := none
  lease := none
  brake := false
  brakeRec := false
  peak := 0
  peakAt := []
  droop := 0
  floorRec := false
  since := []
  total := []
  force := 0
  used := []
  window := 0
  trial := none
  up := true

/-- A kept response (R472). -/
structure Kept where
  src : CorudSrc
  reqId : Nat
  idx : Nat
  sub : Nat
  unit : List Byte
  time : Nat
  deriving DecidableEq, Repr

/-- An assembly of segments (R469). -/
structure Assembly where
  src : CorudSrc
  idx : Nat
  sub : Nat
  data : List Byte
  deriving DecidableEq, Repr

/-- A stored entry's write that waits for the configuration store (R477). -/
structure Storing where
  src : Option CorudSrc      -- none for a command that is no Corud request
  unit : List Byte           -- the request
  key : Nat
  val : List Byte
  deriving DecidableEq, Repr

/-- The management processors, Corud and the Latch (R466 to R492). -/
structure Corud where
  queue : List (CorudSrc × List Byte) -- requests not yet started
  held : List (Option CorudSrc × List Byte) -- writes held while a commit is applied (R486)
  asm : List Assembly
  kept : List Kept           -- oldest first
  storing : List Storing
  store : Tbl (Option (List Byte)) -- configuration store
  flash : Bool               -- the node has an xSPI NOR flash (R478)
  staged : Tbl (Option (List Byte)) -- staged set (R481)
  apply : Option Nat         -- apply instant of the commit in progress (R484)
  mailbox : Tbl (Option (List Byte)) -- a base die's response not yet written
  sat : Tbl Nat              -- what reads of PORT_SAT and LEVEL_SAT have cleared (R475): 0 to 15, 16 to 19
  decim : Nat                -- decimation exponent (R489)
  beat : Nat                 -- report periods since reset
  deriving DecidableEq, Repr

/-- After reset. -/
def Corud.reset : Corud := ⟨[], [], [], [], [], [], true, [], none, [], [], 0, 0⟩

/-- An image that runs (R504): slot, key, security version, its header and payload. -/
structure Image where
  slot : Nat
  key : Nat
  svn : Nat
  digest : Nat
  deriving DecidableEq, Repr

/-- The fuses (R493, R506, R509, R511, R517). -/
structure Fuses where
  lcs : Nat
  partialWord : Bool         -- a partly burnt life-cycle word
  uds : Nat
  svn : Nat × Nat            -- burnt bits for management firmware and host boot image
  owners : List Nat          -- owner key hashes, in slot order
  rootRev : Nat
  ownerRev : Nat
  deriving DecidableEq, Repr

/-- No fuse burnt. -/
def Fuses.blank : Fuses := ⟨0, false, 0, (0, 0), [], 0, 0⟩

/-- Where the node stands in its boot (R499 to R507). -/
inductive BootAt where
  | inReset                  -- reset is not released
  | boot                     -- the sequence runs
  | netMp                    -- the boot ROM awaits management firmware from the network
  | netHost                  -- the management firmware awaits a host boot image
  | up                       -- the management firmware runs
  | hold
  deriving DecidableEq, Repr

/-- Power, reset, boot, security (21_reset_boot_lifecycle.md). -/
structure Life where
  pwrok : Bool
  resetN : Bool
  stopped : Bool             -- stopped by a thermal trip, a rail or a core PLL (R460, R536, R538)
  trip : Bool                -- the THERMTRIP latch: THERMTRIP_N is low
  leaving : Bool             -- a self-timed warm reset has begun and not been released
  cold : Bool                -- the present sequence is a cold power-up
  boot : BootAt
  failed : Bool              -- hold mode was entered on a failure
  trained : Bool             -- HBM is trained and wiped
  host : Bool                -- the host boot image has started
  ready : Bool
  readied : Bool             -- READY has risen since the reset
  mp : Option Image
  hostImg : Option Image
  net : Bool                 -- the management firmware came from the network
  chunks : Tbl (Option (List Byte)) -- network image (R505)
  flash : List (List Byte)   -- the four image slots, as read at reset release
  fuses : Fuses
  nonce : Nat                -- LCS_NONCE
  meas : Tbl Nat             -- M0 to M7, as 512-bit values
  report : List Byte
  aliasKey : Nat             -- seed of the alias key
  debugNext : Bool           -- debug opens at the next reset
  wiping : Bool              -- a JOB_WIPE is in progress
  deriving DecidableEq, Repr

/-- The node before reset release at power-up. -/
def Life.reset : Life :=
  ⟨false, true, false, false, false, true, .inReset, false, false, false, false, false, none, none, false, [], [], Fuses.blank, 0, [], [], 0, false, false⟩

/-- Test access (22_test_loopbacks.md). -/
structure Test where
  bist : Option (Nat × Nat)  -- the self-test that runs: OP and TARGET
  ir : Nat                   -- instruction that the TAP acts under
  loaded : Nat               -- instruction shifted in last
  boundary : Nat             -- boundary register's update latches
  dm : Tbl Nat               -- debug module registers, by DMI address
  halted : List Nat          -- halted harts, rising
  haltOnReset : List Nat
  stepping : List Nat        -- harts that halt again after one instruction
  junk : Option Nat          -- in test mode, the counter value its undefined memory contents are drawn by (R520)
  deriving DecidableEq, Repr

/-- After reset: the TAP holds IDCODE. -/
def Test.reset : Test := ⟨none, 1, 1, 0, [], [], [], [], none⟩

/-- The node's control side. -/
structure Ctl where
  ckpt : Ckpt
  time : Time
  lv : Louvre
  corud : Corud
  life : Life
  test : Test
  net : Routes
  deriving DecidableEq, Repr

/-- After reset. -/
def Ctl.reset : Ctl := ⟨Ckpt.reset, Time.reset, Louvre.reset, Corud.reset, Life.reset, Test.reset, Routes.reset⟩

end Sys2Proof.Machine
end

