-- ==== Sys2Proof/Machine/State.lean ====
section
/-! DEFINITION. The state of the node, its faults and refusals, and the state after reset. -/

namespace Sys2Proof.Machine

/-- Why a run stops with a fault. -/
inductive Fault where
  /-- Raised by a command that names a unit, register copy or port the node does not have (R12, R18). Safe: the
  machine stops where the hardware has nothing. -/
  | noSuchUnit
  deriving DecidableEq, Repr

/-- Why a command is refused. -/
inductive Refusal where
  /-- Raised by an arm of exec whose command has no meaning yet. Safe: no claim about the command can be proved. -/
  | notModelled (mnemonic : String)
  deriving DecidableEq, Repr

/-- What the last command answered its sender: read data, completion or an error (R19, R22). -/
inductive Resp where
  | none
  | done
  | data (v : Word)
  | bytes (l : List Byte) (poison : Bool)
  | accessFault
  | mpError
  | refused
  deriving DecidableEq, Repr

/-- An error record (R400); DETAIL as the list of its fields, size in bytes and value (R402). -/
structure ErrRec where
  code : Nat
  sev : Nat
  lost : Bool
  holdover : Bool
  seq : Nat
  time : Nat
  source : Nat
  addr : Nat
  detail : List (Nat × Nat)
  deriving DecidableEq, Repr

/-- A base die's error log (R399, R403). -/
structure ErrLog where
  recs : Tbl ErrRec        -- by slot
  nextSeq : Nat
  lostBefore : Bool        -- the next record written carries LOST
  deriving DecidableEq, Repr

/-- A slot never written. -/
def ErrRec.empty : ErrRec := ⟨0, 0, false, false, 0, 0, 0, 0, []⟩

/-- An empty log: SEQ counts from 1 (R400). -/
def ErrLog.reset : ErrLog := ⟨[], 1, false⟩

/-- One interrupt domain of an APLIC (R199): pending and enabled sources, bit n for source n. -/
structure AplicDom where
  ip : Nat
  ie : Nat
  deriving DecidableEq, Repr

/-- Who made a remote access (R335, R337). -/
inductive RemoteWho where
  | groupLoad (gable group load : Nat)
  | groupStore (gable group order : Nat)
  | groupAmo (gable group order lane : Nat)
  | elemLoad (gable : Nat)
  | elemStore (gable tag part : Nat) (tile : Option TileRef)
  | copy (gable id : Nat)
  | core (c : Nat)
  | launch (gable : Nat)
  | list (die : Nat)
  | mover (base : Nat)
  | command (base ring slot : Nat)
  | mirror (base i : Nat)
  | replay
  | restore
  deriving DecidableEq, Repr

/-- A remote access (R335): kind 0 LOAD, 1 STORE, 2 ATOMIC, 3 PUT, 4 GET, 5 MSG; `result` once RESP or a failure has
ended it: a status and the data. -/
structure RemoteReq where
  id : Nat
  who : RemoteWho
  kind : Nat
  window : Nat
  ep : Nat
  addr : Nat
  len : Nat
  bytes : List (Nat × Byte)
  func : Nat
  arg : Nat
  cmp : Nat
  poisoned : Bool
  sent : Bool
  got : List (Nat × Byte)
  result : Option (Nat × List Byte)
  maps : List PageMap        -- its access's translation list (R275)
  deriving DecidableEq, Repr

/-- Why the node leaves its job (R410). -/
inductive LeaveCause where
  | baseDie (b : Nat)
  | stack (n : Nat)
  | nmc (b : Nat)
  | allFenced
  | noMp
  deriving DecidableEq, Repr

/-- Everything the spec gives the node, and the answer, the counter and the record that the model adds. -/
structure Node where
  resp : Resp                -- answer to the last command's sender (the model's own)
  fresh : Nat                -- counter applied to the free values (the model's own)
  now : Nat                  -- fabric time in nanoseconds (R194, R425)
  mtimeHold : Nat            -- the largest mtime before a backward step: mtime never decreases (R196)
  csr : Tbl Word             -- every CSR whose value is not computed, by its offset in the window (R18)
  mem : List Host.Cell       -- HBM contents at global visibility, by physical address (R231)
  poison : List Nat          -- lines whose HBM copy is poisoned, rising (R240); other copies carry their own mark
  stale : Tbl (List Byte)    -- copies that differ from the line's contents in mem (R253, R256), by copyKey
  ceWindows : Tbl CeWindow   -- by stack, 12 + base die for a near-memory cache (R238, R250)
  gables : Tbl Gable
  dies : Tbl Die
  dirs : Tbl Dir
  nmcs : Tbl Nmc
  stus : Tbl Stu
  errlogs : Tbl ErrLog
  seqStaged : Tbl Word       -- staged words of sequence entries (R177), key entry × 4 + word
  aplic : Tbl AplicDom       -- key base die × 2 + (1 for the S domain)
  bundles : Tbl Bundle       -- key edge × 128 + direction × 64 + bundle (R281)
  ports : Tbl Port           -- key base die × 5 + local port (R299)
  cnpSent : Tbl Nat          -- by QP, when its last CNP was sent, plus one (R311)
  out : List Out             -- what the node has sent, oldest first (the model's own record)
  pendDisable : List Nat     -- blocks in ENABLING with a pending disable (R294), by control register offset
  remotes : List RemoteReq   -- remote accesses in progress or answered and not yet taken (R335)
  remoteId : Nat
  fenceReqs : List (Nat × Nat) -- compute dies a fence is asked for, with the trigger of R406
  cutChunks : List Nat       -- 64 KiB chunks a cut has still to copy, by address over 64 KiB (R416, R417)
  qps : Tbl Qp               -- queue pairs, by index (R313)
  roceCq : Tbl (List (List Byte)) -- completion records waiting for their ring, by base die (R318)
  wqs : Tbl Wq               -- work queues, by number (R370)
  leds : Tbl LedSlice        -- Ledger slices, by base die
  mirror : Mirror
  dzs : Tbl Dz               -- Dziger engines, by base die
  fabric : Fabric
  shgs : Tbl Shg             -- Shingle slices, by base die
  dict : Tbl (Option (List Byte)) -- Corud values in effect that differ from their default, key index × 256 + subindex
  lastRec : ErrRec           -- the last record written to any log (R475)
  reports : List ErrRec      -- records not yet offered in REPORT units (R399, R489)
  alert : Nat                -- ALERT_CAUSE (R542)
  leaveDue : List LeaveCause -- causes to leave the job not yet acted on (R410)
  ctl : Ctl
  deriving DecidableEq, Repr

/-- The CSRs that do not read as their table's reset value after a reset: RECOVERING of the four Ledger slices (R392). -/
def csrReset : Tbl Word := [(0xC5100000, 0x10), (0xD5100000, 0x10), (0xE5100000, 0x10), (0xF5100000, 0x10)]

/-- The node right after a cold power-up's reset, before PWROK releases it: every table empty, so every unit and every
other register reads as its reset value. -/
def Node.reset : Node where
  resp := .none
  fresh := 0
  now := 0
  mtimeHold := 0
  csr := csrReset
  mem := []
  poison := []
  stale := []
  ceWindows := []
  gables := []
  dies := []
  dirs := []
  nmcs := []
  stus := []
  errlogs := []
  seqStaged := []
  aplic := []
  bundles := []
  ports := []
  cnpSent := []
  out := []
  pendDisable := []
  remotes := []
  remoteId := 0
  fenceReqs := []
  cutChunks := []
  qps := []
  roceCq := []
  wqs := []
  leds := []
  mirror := Mirror.reset
  dzs := []
  fabric := Fabric.reset
  shgs := []
  dict := []
  lastRec := ErrRec.empty
  reports := []
  alert := 0
  leaveDue := []
  ctl := Ctl.reset

/-- The block: the node, and the commands that wait for it. -/
structure State where
  pending : List Instr       -- commands waiting, first in first out (the model's queue)
  node : Node
  deriving DecidableEq, Repr

/-- The block right after reset: no command waits. -/
def State.reset : State := ⟨[], Node.reset⟩

end Sys2Proof.Machine
end

