-- ==== Sys2Proof/Machine/Table.lean ====
section
/-! DEFINITION. Reading and writing the sparse tables of Node. Each table reads as its default at an unlisted key,
and a write of the default removes the entry, so equal tables are equal lists. -/

namespace Sys2Proof.Machine

/-- The value at key `k`; the default `d` where nothing is listed. -/
def tblGet {α : Type} (d : α) : Tbl α → Nat → α
  | [], _ => d
  | (j, v) :: t, k => if j = k then v else tblGet d t k

/-- Whether key `k` is listed. -/
def tblHas {α : Type} : Tbl α → Nat → Bool
  | [], _ => false
  | (j, _) :: t, k => if j = k then true else tblHas t k

/-- The table without key `k`. -/
def tblErase {α : Type} : Tbl α → Nat → Tbl α
  | [], _ => []
  | (j, v) :: t, k => if j = k then tblErase t k else (j, v) :: tblErase t k

/-- Puts `(k, v)` before the first larger key. -/
def tblInsert {α : Type} (k : Nat) (v : α) : Tbl α → Tbl α
  | [] => [(k, v)]
  | (j, w) :: t => if k < j then (k, v) :: (j, w) :: t else (j, w) :: tblInsert k v t

/-- Writes `v` at key `k`; writing the default removes the entry. -/
def tblSet {α : Type} [DecidableEq α] (d : α) (t : Tbl α) (k : Nat) (v : α) : Tbl α :=
  if v = d then tblErase t k else tblInsert k v (tblErase t k)

/-- Rewrites the value at key `k` by `f`. -/
def tblMod {α : Type} [DecidableEq α] (d : α) (t : Tbl α) (k : Nat) (f : α → α) : Tbl α :=
  tblSet d t k (f (tblGet d t k))

/-- Keys strictly rising, all above `lo` where one is given. -/
def tblRising {α : Type} : Option Nat → Tbl α → Bool
  | _, [] => true
  | none, (j, _) :: t => tblRising (some j) t
  | some lo, (j, _) :: t => decide (lo < j) && tblRising (some j) t

/-- No listed value is the default. -/
def tblNoDefault {α : Type} [DecidableEq α] (d : α) : Tbl α → Bool
  | [] => true
  | (_, v) :: t => decide (v ≠ d) && tblNoDefault d t

/-- The canonical form of a table. -/
def tblWf {α : Type} [DecidableEq α] (d : α) (t : Tbl α) : Bool := tblRising none t && tblNoDefault d t

/-- The listed keys. -/
def tblKeys {α : Type} (t : Tbl α) : List Nat := t.map (·.1)

/-- Removes every listed key that `p` picks. -/
def tblDrop {α : Type} (p : Nat → α → Bool) : Tbl α → Tbl α
  | [] => []
  | (j, v) :: t => if p j v then tblDrop p t else (j, v) :: tblDrop p t

/-- Replaces the first element that `p` picks, by `f`. -/
def modFirst {α : Type} (p : α → Bool) (f : α → α) : List α → List α
  | [] => []
  | x :: t => if p x then f x :: t else x :: modFirst p f t

/-- The list without the first element that `p` picks. -/
def dropFirst {α : Type} (p : α → Bool) : List α → List α
  | [] => []
  | x :: t => if p x then t else x :: dropFirst p t

end Sys2Proof.Machine
end

