-- ==== Sys2Proof/Machine/Ops.lean ====
section
/-! DEFINITION. The named operations over Node: registers (R6, R18), units, interrupts (R198 to R200), the error log
(R399 to R404), physical memory and its map (R231 to R235), poison (R240), the common enable state (R294). -/

namespace Sys2Proof.Machine

/-! ## Registers -/

/-- The reset value of a register. -/
def regReset (r : RegId) : Word :=
  BitVec.ofNat 64 ((regSpec r).fields.foldl (fun a f => a + f.reset <<< f.fld.lo) 0)

/-- The offset that copy indices add. -/
def idxOffset : List (Nat × Nat) → List Nat → Nat
  | (_, st) :: ds, i :: is => i * st + idxOffset ds is
  | _, _ => 0

/-- A register's offset in the CSR window (R18); a node-wide register has one home, in BD0's scope. -/
def regKey (l : RegLoc) : Nat :=
  let sp := regSpec l.id
  (if sp.nodeWide then 12 else l.scope) * 2 ^ 28 + (sp.block + l.blk) * 2 ^ 20 + sp.offset + idxOffset sp.dims l.idx

/-- The stored value of a register. -/
def regGet (s : Node) (l : RegLoc) : Word := tblGet (regReset l.id) s.csr (regKey l)

/-- The state with a register's stored value replaced. -/
def regSet (s : Node) (l : RegLoc) (w : Word) : Node :=
  { s with csr := tblSet (regReset l.id) s.csr (regKey l) w }

/-- A field of a register. -/
def fGet (s : Node) (l : RegLoc) (f : Fld) : Nat := wbits (regGet s l) f.hi f.lo

/-- The state with a field of a register replaced. -/
def fSet (s : Node) (l : RegLoc) (f : Fld) (v : Nat) : Node := regSet s l (wput (regGet s l) f.hi f.lo v)

/-- The state with bits of a field set (a sticky or W1C field set by the node). -/
def fOr (s : Node) (l : RegLoc) (f : Fld) (v : Nat) : Node := fSet s l f (fGet s l f ||| v)

/-- One field of a stored word under a software write (R6, R7, R8): RW and WO take the written bits, W1C clears the bits
written as 1, W1S sets them, RO and RC keep theirs. -/
def storeField (old v : Word) (w : Word) (f : FieldSpec) : Word :=
  let new := wbits v f.fld.hi f.fld.lo
  let cur := wbits old f.fld.hi f.fld.lo
  match f.acc with
  | .rw => wput w f.fld.hi f.fld.lo new
  | .wo => w
  | .ro => w
  | .rc => w
  | .w1c => wput w f.fld.hi f.fld.lo (cur - (cur &&& new))
  | .w1s => wput w f.fld.hi f.fld.lo (cur ||| new)

/-- A software write of a register's fields (R6). -/
def storeReg (s : Node) (l : RegLoc) (v : Word) : Node :=
  let old := regGet s l
  regSet s l ((regSpec l.id).fields.foldl (storeField old v) old)

/-- Adds to a 64-bit counter that saturates at all ones. -/
def cntAdd (s : Node) (l : RegLoc) (n : Nat) : Node :=
  regSet s l (BitVec.ofNat 64 (min ((regGet s l).toNat + n) (2 ^ 64 - 1)))

/-- The register of Gable `g`'s block, copy indices `idx`. -/
def gLoc (r : RegId) (g : Nat) (idx : List Nat := []) : RegLoc := ⟨r, g / 16, g % 16, idx⟩

/-- The register of compute die `d`. -/
def dLoc (r : RegId) (d : Nat) (idx : List Nat := []) : RegLoc := ⟨r, d, 0, idx⟩

/-- The register of base die `b`. -/
def bLoc (r : RegId) (b : Nat) (idx : List Nat := []) : RegLoc := ⟨r, 12 + b, 0, idx⟩

/-- Matches an offset against copy strides: the indices it names. -/
def matchDims : List (Nat × Nat) → Nat → Option (List Nat)
  | [], r => if r = 0 then some [] else none
  | (n, st) :: ds, r => if r / st < n then (matchDims ds (r % st)).map (fun l => r / st :: l) else none

/-- Whether an offset of a scope names a register of this description, and which copy (R18). -/
def matchReg (scope block off : Nat) (id : RegId) : Option RegLoc :=
  let sp := regSpec id
  if (decide (scope < 12) == sp.onDie) && decide (sp.block ≤ block) && decide (block < sp.block + sp.blocks)
      && decide (sp.offset ≤ off) then
    (matchDims sp.dims (off - sp.offset)).map fun idx => ⟨id, scope, block - sp.block, idx⟩
  else none

/-- The register at an offset of the CSR window, if any (R18, R20). -/
def findReg (off : Nat) : Option RegLoc := regList.findSome? (matchReg (off / 2 ^ 28) (off / 2 ^ 20 % 256) (off % 2 ^ 20))

/-! ## Units -/

/-- Gable `g`. -/
def gableOf (s : Node) (g : Nat) : Gable := tblGet Gable.reset s.gables g

/-- Rewrites Gable `g`. -/
def modGable (s : Node) (g : Nat) (f : Gable → Gable) : Node := { s with gables := tblMod Gable.reset s.gables g f }

/-- Group `k` of Gable `g`. -/
def groupOf (s : Node) (g k : Nat) : Group := tblGet Group.none (gableOf s g).groups k

/-- Rewrites group `k` of Gable `g`. -/
def modGroup (s : Node) (g k : Nat) (f : Group → Group) : Node :=
  modGable s g fun x => { x with groups := tblMod Group.none x.groups k f }

/-- Compute die `d`. -/
def dieOf (s : Node) (d : Nat) : Die := tblGet Die.reset s.dies d

/-- Rewrites compute die `d`. -/
def modDie (s : Node) (d : Nat) (f : Die → Die) : Node := { s with dies := tblMod Die.reset s.dies d f }

/-- Rewrites the tile scheduler of die `d`. -/
def modSched (s : Node) (d : Nat) (f : Sched → Sched) : Node := modDie s d fun x => { x with sched := f x.sched }

/-- Rewrites the die cache of die `d`. -/
def modCache (s : Node) (d : Nat) (f : DieCache → DieCache) : Node := modDie s d fun x => { x with cache := f x.cache }

/-- Host core `c` (R185). -/
def coreOf (s : Node) (c : Nat) : HostCore := tblGet HostCore.reset (dieOf s (c / 8)).cores (c % 8)

/-- Rewrites host core `c`. -/
def modCore (s : Node) (c : Nat) (f : HostCore → HostCore) : Node :=
  modDie s (c / 8) fun x => { x with cores := tblMod HostCore.reset x.cores (c % 8) f }

/-- Directory slice of base die `b`. -/
def dirOf (s : Node) (b : Nat) : Dir := tblGet Dir.reset s.dirs b

/-- Rewrites directory slice `b`. -/
def modDir (s : Node) (b : Nat) (f : Dir → Dir) : Node := { s with dirs := tblMod Dir.reset s.dirs b f }

/-- Near-memory cache of base die `b`. -/
def nmcOf (s : Node) (b : Nat) : Nmc := tblGet Nmc.reset s.nmcs b

/-- Rewrites near-memory cache `b`. -/
def modNmc (s : Node) (b : Nat) (f : Nmc → Nmc) : Node := { s with nmcs := tblMod Nmc.reset s.nmcs b f }

/-- STU slice `b`. -/
def stuOf (s : Node) (b : Nat) : Stu := tblGet Stu.reset s.stus b

/-- Rewrites STU slice `b`. -/
def modStu (s : Node) (b : Nat) (f : Stu → Stu) : Node := { s with stus := tblMod Stu.reset s.stus b f }

/-- The base die of a compute die (R12). -/
def baseOfDie (d : Nat) : Nat := d / 3
def baseOfGable (g : Nat) : Nat := g / 48

/-- The partner of a Gable (04_gables.md). -/
def partner (g : Nat) : Nat := if g % 2 = 0 then g + 1 else g - 1

/-- A command's outcome on the block: its effect is on the node, and the queue stays as it is. -/
def onNode (s : State) (f : Node → Host.Outcome Node Fault Refusal) : Host.Outcome State Fault Refusal :=
  match f s.node with
  | .next n => .next { s with node := n }
  | .fault e => .fault e
  | .refused r => .refused r

/-- Runs `t` for a Gable the node has (R12). -/
def onGable (g : Nat) (t : Node) : Host.Outcome Node Fault Refusal := if g < 192 then .next t else .fault .noSuchUnit

/-- Runs `t` for a compute die the node has. -/
def onDie (d : Nat) (t : Node) : Host.Outcome Node Fault Refusal := if d < 12 then .next t else .fault .noSuchUnit

/-- Runs `t` for a base die the node has. -/
def onBase (b : Nat) (t : Node) : Host.Outcome Node Fault Refusal := if b < 4 then .next t else .fault .noSuchUnit

/-- Runs `t` for a host core the node has (R185). -/
def onCore (c : Nat) (t : Node) : Host.Outcome Node Fault Refusal := if c < 96 then .next t else .fault .noSuchUnit

/-- Runs `t` for a unit number below `n`. -/
def onUnit (n i : Nat) (t : Node) : Host.Outcome Node Fault Refusal := if i < n then .next t else .fault .noSuchUnit

/-- Whether compute die `d` is fenced (R406, FENCE). -/
def isFenced (s : Node) (d : Nat) : Bool := bit (fGet s (bLoc .fence 0) fFenceFenced) d

/-- The answer to the sender. -/
def withResp (s : Node) (r : Resp) : Node := { s with resp := r }

/-- Inserts into a rising list without repeats. -/
def insertRising (k : Nat) : List Nat → List Nat
  | [] => [k]
  | j :: t => if k < j then k :: j :: t else if k = j then j :: t else j :: insertRising k t

/-! ## The common enable state (R116, R294) -/

/-- OFF, ENABLING, ON, DISABLING, DISABLING_ENABLE_PENDING and FAULTED, as STATE encodes them. -/
def stOff : Nat := 0
def stEnabling : Nat := 1
def stOn : Nat := 2
def stDisabling : Nat := 3
def stPending : Nat := 4
def stFaulted : Nat := 5

/-- STATE of a block's control register. -/
def ctrlState (s : Node) (l : RegLoc) : Nat := wbits (regGet s l) 7 5

/-- Sets STATE. -/
def setCtrlState (s : Node) (l : RegLoc) (v : Nat) : Node := regSet s l (wput (regGet s l) 7 5 v)

/-- Removes a pending disable. -/
def dropPendDisable (s : Node) (l : RegLoc) : Node :=
  { s with pendDisable := s.pendDisable.filter fun k => k ≠ regKey l }

/-- A write of EN to a block (R294): the bit, and the state it leads to. -/
def enableWrite (s : Node) (l : RegLoc) (en : Bool) : Node :=
  let s1 := regSet s l (wput (regGet s l) 0 0 (b2n en))
  match ctrlState s l, en with
  | 0, true => setCtrlState s1 l stEnabling
  | 1, true => dropPendDisable s1 l
  | 1, false => { s1 with pendDisable := insertRising (regKey l) s1.pendDisable }
  | 2, false => setCtrlState s1 l stDisabling
  | 3, true => setCtrlState s1 l stPending
  | 4, false => setCtrlState s1 l stDisabling
  | 5, false => setCtrlState s1 l stOff
  | _, _ => s1

/-- A block's own step ends (R294). -/
def ownStepEnds (s : Node) (l : RegLoc) : Node :=
  match ctrlState s l with
  | 1 =>
    if s.pendDisable.contains (regKey l) then setCtrlState (dropPendDisable s l) l stDisabling
    else setCtrlState s l stOn
  | 3 => setCtrlState s l stOff
  | 4 => setCtrlState s l stEnabling
  | _ => s

/-- A block's fault (R294): a pending enable or disable is discarded. -/
def faultBlock (s : Node) (l : RegLoc) : Node := setCtrlState (dropPendDisable s l) l stFaulted

/-- Whether a block is ON. -/
def isOn (s : Node) (l : RegLoc) : Bool := ctrlState s l == stOn

/-! ## Interrupts -/

/-- An MSI to a core's interrupt file (R198): one to a core of a fenced die is dropped and counted (R199), and an identity
that the file does not implement has no effect. -/
def sendMsi (s : Node) (core : Nat) (mlevel : Bool) (id : Nat) : Node :=
  if isFenced s (core / 8) then cntAdd s (bLoc .fenceDrops (baseOfDie (core / 8))) 1
  else if id = 0 ∨ id > 255 then s
  else modCore s core fun c =>
    if mlevel then { c with mfile := { c.mfile with pending := c.mfile.pending ||| 1 <<< id }, waiting := false }
    else { c with sfile := { c.sfile with pending := c.sfile.pending ||| 1 <<< id }, waiting := false }

/-- The index of the CSR that holds the AIA register at offset `a` of a domain (R199). -/
def aiaReg (mdomain : Bool) (b a : Nat) : RegLoc := bLoc (if mdomain then .aplicM else .aplicS) b [a / 4]

/-- An AIA register's 32 bits. -/
def aiaGet (s : Node) (mdomain : Bool) (b a : Nat) : Nat := wbits (regGet s (aiaReg mdomain b a)) 31 0

/-- A domain's pending and enabled sources. -/
def aplicOf (s : Node) (mdomain : Bool) (b : Nat) : AplicDom := tblGet ⟨0, 0⟩ s.aplic (2 * b + b2n (!mdomain))

/-- Rewrites a domain's pending and enabled sources. -/
def modAplic (s : Node) (mdomain : Bool) (b : Nat) (f : AplicDom → AplicDom) : Node :=
  { s with aplic := tblMod ⟨0, 0⟩ s.aplic (2 * b + b2n (!mdomain)) f }

/-- Delivers a pending and enabled source of a domain as an MSI to its target, when the domain delivers (domaincfg.IE),
and clears its pending bit (R199). -/
def aplicDeliver (s : Node) (mdomain : Bool) (b src : Nat) : Node :=
  let d := aplicOf s mdomain b
  if bit d.ip src && bit d.ie src && bit (aiaGet s mdomain b 0) 8 then
    let t := aiaGet s mdomain b (0x3000 + 4 * src)
    let s1 := modAplic s mdomain b fun x => { x with ip := x.ip - 1 <<< src }
    sendMsi s1 (bits t 31 18) mdomain (bits t 10 0)
  else s

/-- A unit's event at an APLIC source (R200): a source delegated by the M domain acts in the S domain; an Inactive or
Detached source takes no event. -/
def signal (s : Node) (b src : Nat) : Node :=
  let cfgM := aiaGet s true b (4 * src)
  let inM := !(bit cfgM 10)
  let cfg := if inM then cfgM else aiaGet s false b (4 * src)
  if bits cfg 2 0 ≥ 4 then
    let s1 := modAplic s inM b fun x => { x with ip := x.ip ||| 1 <<< src }
    aplicDeliver s1 inM b src
  else s

/-- The source of a Gable's events (R200). -/
def signalGable (s : Node) (g : Nat) : Node := signal s (baseOfGable g) (g % 48 + 1)

/-! ## Error records -/

/-- Severities (R401). -/
def sevNote : Nat := 0
def sevWork : Nat := 1
def sevPart : Nat := 2
def sevNode : Nat := 3

/-- The severity of each code (R424). -/
def severity (code : Nat) : Nat :=
  if [0x0101, 0x0162, 0x0202, 0x0501, 0x0603, 0x0707, 0x0901, 0x0903, 0x0905, 0x0906, 0x0A41].contains code then sevNote
  else if [0x0104, 0x0107, 0x0161, 0x0502, 0x0503, 0x0504, 0x0505, 0x0520, 0x0521, 0x0522, 0x0523, 0x0604, 0x0605, 0x0804,
      0x0902, 0x0904, 0x0A01, 0x0A20, 0x0A22, 0x0A40].contains code then sevPart
  else if [0x0108, 0x0506, 0x0A02, 0x0A03, 0x0B01, 0x0B02, 0x0B04].contains code then sevNode
  else sevWork

/-- The base die whose log a scope writes (R399). -/
def logOfScope (scope : Nat) : Nat := if scope < 12 then scope / 3 else scope - 12

/-- Whether fabric time is in holdover (FT_STATUS.QUALITY, R433). -/
def inHoldover (s : Node) : Bool := fGet s (bLoc .ftStatus 0) fFtStatusQuality == 2

/-- mtime (R194, R196): fabric time, held while it lies below a value already shown. -/
def mtime (s : Node) : Nat := max s.now s.mtimeHold % 2 ^ 64

/-- Base die `b`'s error log. -/
def logOf (s : Node) (b : Nat) : ErrLog := tblGet ErrLog.reset s.errlogs b

/-- Unread records of a log (R403). -/
def unread (s : Node) (b : Nat) : Nat :=
  wrap 32 ((fGet s (bLoc .errTail b) fErrTailIndex : Int) - (fGet s (bLoc .errHead b) fErrHeadIndex : Int))

/-- Whether a log drops a new record of a severity (R403). -/
def logDrops (s : Node) (b sev : Nat) : Bool :=
  decide (unread s b ≥ 4096) || (decide (unread s b ≥ 4032) && decide (sev ≤ sevWork))

/-- Writes an error record to the log of the detecting unit's base die, or drops it (R399 to R403). The record's
writing signals source 53. -/
def logErr (s : Node) (scope block code addr : Nat) (detail : List (Nat × Nat)) : Node :=
  let b := logOfScope scope
  let sev := severity code
  if logDrops s b sev then
    let s1 := cntAdd s (bLoc .errDropped b) 1
    { s1 with errlogs := tblMod ErrLog.reset s1.errlogs b fun l => { l with lostBefore := true } }
  else
    let tail := fGet s (bLoc .errTail b) fErrTailIndex
    let l := logOf s b
    let r : ErrRec := ⟨code, sev, l.lostBefore, inHoldover s, l.nextSeq, mtime s,
      scope <<< 28 + block <<< 20, addr, detail⟩
    let l1 : ErrLog := ⟨tblSet ErrRec.empty l.recs (tail % 4096) r,
      if l.nextSeq = 2 ^ 32 - 1 then 1 else l.nextSeq + 1, false⟩
    let cause := if sev = sevPart then s.alert ||| 1 else if sev = sevNode then s.alert ||| 2 else s.alert
    let s1 := { s with errlogs := tblSet ErrLog.reset s.errlogs b l1, lastRec := r, reports := s.reports ++ [r], alert := cause }
    signal (fSet s1 (bLoc .errTail b) fErrTailIndex ((tail + 1) % 2 ^ 32)) b 53

/-- A record's place among the records of one cycle: severity, highest first, then SOURCE, lowest first (R404). -/
def recBefore (a b : ErrRec) : Bool := decide (a.sev > b.sev) || (a.sev == b.sev && decide (a.source ≤ b.source))

/-- The records that a log takes in one cycle, put in order. -/
def orderRecs : List ErrRec → List ErrRec
  | [] => []
  | r :: l => (orderRecs l).takeWhile (fun x => !recBefore r x) ++ r :: (orderRecs l).dropWhile fun x => !recBefore r x

/-- The slots that a log's records of this cycle take, and those records in order, SEQ and LOST following the order of
writing (R404). -/
def newRecs (s t : Node) (b : Nat) : List (Nat × ErrRec) :=
  let at_ := fGet s (bLoc .errTail b) fErrTailIndex
  let n := (fGet t (bLoc .errTail b) fErrTailIndex + 2 ^ 32 - at_) % 2 ^ 32
  let slots := (List.range n).map fun i => (at_ + i) % 4096
  let old := slots.map fun i => tblGet ErrRec.empty (logOf t b).recs i
  slots.zip ((orderRecs old).zipWith (fun r o => { r with seq := o.seq, lost := o.lost }) old)

/-- The records that one command has written stand in the order of R404, in the logs and in what is to be reported. -/
def ordered (s t : Node) : Node :=
  (List.range 4).foldl (fun u b =>
    let l := newRecs s t b
    { u with
      errlogs := tblMod ErrLog.reset u.errlogs b fun x => { x with recs := l.foldl (fun m p => tblSet ErrRec.empty m p.1 p.2) x.recs }
      reports := u.reports ++ l.map (·.2) }) { t with reports := s.reports }

/-- A record of a Gable's unit: scope and block of the Gable (R402). -/
def logGable (s : Node) (g code addr : Nat) (detail : List (Nat × Nat)) : Node :=
  logErr s (g / 16) (g % 16 + 1) code addr detail

/-- The bytes of DETAIL from offset `at_` on: each field aligned to its own size (R402). -/
def detailBytes : Nat → List (Nat × Nat) → List Byte
  | _, [] => []
  | at_, (sz, v) :: rest =>
    let pad := (sz - at_ % sz) % sz
    List.replicate pad 0 ++ leBytes sz v ++ detailBytes (at_ + pad + sz) rest

/-- The 64 bytes of an error record (R400). -/
def errRecBytes (r : ErrRec) : List Byte :=
  let head := leBytes 2 r.code ++ leBytes 1 r.sev ++ leBytes 1 (b2n r.lost + 2 * b2n r.holdover) ++ leBytes 4 r.seq
    ++ leBytes 8 r.time ++ leBytes 4 r.source ++ leBytes 4 0 ++ leBytes 8 r.addr
  let d := (detailBytes 0 r.detail).take 32
  if r.seq = 0 then List.replicate 64 0 else head ++ d ++ List.replicate (32 - d.length) 0

/-! ## The physical address map (R231) -/

/-- What a physical address names. -/
inductive PaKind where
  | hbm
  | scratch (gable off : Nat)
  | doorbell (queue off : Nat)
  | csr (off : Nat)
  | remote (ep off : Nat)
  | unmapped
  deriving DecidableEq, Repr

/-- Installed HBM in bytes: 576 GiB, or 528 GiB under the 11-stack mapping (R231, R235). -/
def hbmBytes (s : Node) : Nat := if fGet s (bLoc .hbmStatus 0) fHbmStatusMapping = 2 then 0x8400000000 else 0x9000000000

/-- The decoding of a physical address (R231). -/
def paKind (s : Node) (a : Nat) : PaKind :=
  if a ≥ 2 ^ 56 then .unmapped
  else if bit a 55 then .remote (bits a 54 40) (bits a 39 0)
  else if a < hbmBytes s then .hbm
  else if 0xF000000000 ≤ a ∧ a < 0xF018000000 then .scratch ((a - 0xF000000000) / 0x200000) (a % 0x200000)
  else if 0xFD00000000 ≤ a ∧ a < 0xFD00100000 then .doorbell ((a - 0xFD00000000) / 0x1000) (a % 0x1000)
  else if 0xFE00000000 ≤ a ∧ a < 0xFF00000000 then .csr (a - 0xFE00000000)
  else .unmapped

/-- Whether every byte of a physical range lies in installed HBM. -/
def inHbm (s : Node) (a n : Nat) : Bool := decide (a + n ≤ hbmBytes s)

/-- The surviving stacks under the 11-stack mapping (R235). -/
def survivors (s : Node) : List Nat :=
  (List.range 12).filter fun i => i != fGet s (bLoc .hbmStatus 0) fHbmStatusFenced

/-- Home base die and die-local line number of a line (R233 to R235). -/
def homeMap (s : Node) (line : Nat) : Nat × Nat :=
  match fGet s (bLoc .hbmStatus 0) fHbmStatusMapping with
  | 0 => (bits line 1 0 ^^^ bits line 9 8 ^^^ bits line 17 16 ^^^ bits line 25 24, bits line 32 2)
  | 1 => (line / 0x48000000, line % 0x48000000)
  | _ =>
    let st := (survivors s).getD (line % 11) 0
    (st / 3, (line / 11) * 3 + st % 3)

/-- The home of a line (R206). -/
def homeOf (s : Node) (line : Nat) : Nat := (homeMap s line).1 % 4

/-- The die-local line number of a line (R233). -/
def localLine (s : Node) (line : Nat) : Nat := (homeMap s line).2

/-- The stack that holds a line: position 0 to 2 on its home base die (R233). -/
def stackOf (s : Node) (line : Nat) : Nat := localLine s line % 3

/-! ## Memory contents -/

/-- What an unlisted byte of HBM reads as: zero, since every reset wipes HBM (R498). -/
def memDefault : Byte := 0

/-- The canonical form of memory. -/
def Memory.wf (m : List Host.Cell) : Bool := tblWf memDefault m

/-- Whether the near-memory cache of a base die serves reads (R252, R253). -/
def nmcServes (s : Node) (b : Nat) : Bool :=
  let st := fGet s (bLoc .nmcCtrl b) fNmcCtrlState
  st == stOn || st == stDisabling || st == stPending

/-- A die cache's copy of a line: the cache's, or the one that waits in its writeback buffer (R214). -/
def dcCopy (s : Node) (d line : Nat) : DcLine :=
  let c := (dieOf s d).cache
  let x := tblGet DcLine.absent c.lines line
  if x.st ≠ .i then x else (c.evicting.find? fun p => p.1 == line).elim DcLine.absent (·.2)

/-- The die cache that owns a line, in M, O or E, and so supplies it (R209). -/
def supplier (s : Node) (line : Nat) : Option Nat :=
  firstBelow 12 fun d =>
    let st := (dcCopy s d line).st
    decide (st = .m) || decide (st = .o) || decide (st = .e)

/-- Whether a die cache, or its writeback buffer, holds a line dirty: in M or O. -/
def dirtyHeld (s : Node) (line : Nat) : Bool :=
  (List.range 12).any fun d =>
    let st := (dcCopy s d line).st
    decide (st = .m) || decide (st = .o)

/-- The key of a copy of a line: `who` is a compute die's number, or 12 for the near-memory cache and the Eaves. -/
def copyKey (line who : Nat) : Nat := line * 16 + who

/-- The bytes of the memory copy of a line where the near-memory cache serves an older one (R256), else none. -/
def memAlt (s : Node) (line : Nat) : List Byte :=
  if nmcServes s (homeOf s line) then tblGet [] s.stale (copyKey line 12) else []

/-- The bytes of the copy that the home supplies, an owner's or memory's, where it differs from the contents in `mem`. -/
def homeAlt (s : Node) (line : Nat) : List Byte :=
  match supplier s line with
  | some d => tblGet [] s.stale (copyKey line d)
  | none => memAlt s line

/-- A byte as the home supplies it. -/
def heldByte (s : Node) (a : Nat) : Byte :=
  match s.stale with
  | [] => tblGet memDefault s.mem a
  | _ =>
    match homeAlt s (lineOf a) with
    | [] => tblGet memDefault s.mem a
    | l => l.getD (a % lineBytes) 0

/-- The draw of the command whose declared output region holds an address, from its acceptance until its completion
record is written (R390). -/
def outputDraw (s : Node) (a : Nat) : Option Nat :=
  s.leds.findSome? fun (_, x) => x.entries.findSome? fun (_, e) => e.bind fun e =>
    if decide (e.acked ≥ 1) && decide (e.st < 3) && e.out.any fun (p, n) => decide (p ≤ a) && decide (a < p + n) then some e.draw else none

/-- A held byte as it is read: in test mode memory is undefined (R520), and so are the bytes of the output region of a
command in progress (R390). -/
def seenByte (s : Node) (a : Nat) (v : Byte) : Byte :=
  match s.ctl.test.junk, outputDraw s a with
  | some n, _ => Config.undefByte n a
  | none, some n => Config.outByte n a v
  | none, none => v

/-- A byte as an access that reaches global visibility reads it. -/
def readByte (s : Node) (a : Nat) : Byte := seenByte s a (heldByte s a)

/-- A byte as a unit of a compute die reads it: from its die cache's own copy, where that holds the line (R256). -/
def dieByte (s : Node) (d a : Nat) : Byte :=
  if (tblGet DcLine.absent (dieOf s d).cache.lines (lineOf a)).st = .i then readByte s a
  else seenByte s a (match tblGet [] s.stale (copyKey (lineOf a) d) with
    | [] => tblGet memDefault s.mem a
    | l => l.getD (a % lineBytes) 0)

/-- `n` bytes as a unit of a compute die reads them. -/
def dieBytes (s : Node) (d a n : Nat) : List Byte := (List.range n).map fun i => dieByte s d (a + i)

/-- `n` bytes from an address, rising. -/
def readBytes (s : Node) (a n : Nat) : List Byte := (List.range n).map fun i => readByte s (a + i)

/-- The little-endian value of `n` bytes (R4). -/
def readLE (s : Node) (a n : Nat) : Nat := leValue (readBytes s a n)

/-- Memory with one byte written. -/
def memPut (m : List Host.Cell) (a : Nat) (v : Byte) : List Host.Cell := tblSet memDefault m a v

/-- Memory with bytes written from an address on. -/
def memPuts (m : List Host.Cell) : Nat → List Byte → List Host.Cell
  | _, [] => m
  | a, v :: vs => memPuts (memPut m a v) (a + 1) vs

/-- Memory with listed bytes written, in order. -/
def memPutList (m : List Host.Cell) : List (Nat × Byte) → List Host.Cell
  | [] => m
  | (a, v) :: vs => memPutList (memPut m a v) vs

/-- Removes a line from a rising list. -/
def dropLine (line : Nat) (l : List Nat) : List Nat := l.filter fun x => x != line

/-- Writes listed bytes of memory at global visibility; a partial write leaves poison in place (R240). -/
def writeList (s : Node) (l : List (Nat × Byte)) : Node := { s with mem := memPutList s.mem l }

/-- Writes bytes from an address on. -/
def writeBytes (s : Node) (a : Nat) (l : List Byte) : Node := { s with mem := memPuts s.mem a l }

/-! ## Scratch -/

/-- A byte of a Gable's scratch; scratch reads zero until it is written (R498). -/
def scratchByte (s : Node) (g off : Nat) : Byte := tblGet 0 (gableOf s g).scratch (off % 0x200000)

/-- `n` bytes of scratch. -/
def scratchBytes (s : Node) (g off n : Nat) : List Byte := (List.range n).map fun i => scratchByte s g (off + i)

/-- The little-endian value of `n` bytes of scratch. -/
def scratchLE (s : Node) (g off n : Nat) : Nat := leValue (scratchBytes s g off n)

/-- Scratch with bytes written from an offset on. -/
def scratchPuts (t : Tbl Byte) : Nat → List Byte → Tbl Byte
  | _, [] => t
  | a, v :: vs => scratchPuts (tblSet 0 t (a % 0x200000) v) (a + 1) vs

/-- Writes bytes into a Gable's scratch. -/
def scratchWrite (s : Node) (g off : Nat) (l : List Byte) : Node :=
  modGable s g fun x => { x with scratch := scratchPuts x.scratch off l }

/-- The Gable whose scratch an address with the partner bit names (R66, R89). -/
def scratchGable (g addr : Nat) : Nat := if bit addr 21 then partner g else g

/-! ## Free values -/

/-- Advances the free-value counter. -/
def bump (s : Node) : Node := { s with fresh := s.fresh + 1 }

end Sys2Proof.Machine
end

