-- ==== Sys2Proof/Machine/Routes.lean ====
section
/-! DEFINITION. Paths over the bridge edges (R14, R281, R283, R289 to R291): the condition of an edge, the routes and
bundle maps in force, and the crossings that a message makes. -/

namespace Sys2Proof.Machine

/-- The base dies an edge joins, lower first (R281). -/
def edgeEnds (e : Nat) : Nat × Nat :=
  match e with
  | 0 => (0, 1)
  | 1 => (1, 3)
  | 2 => (2, 3)
  | _ => (0, 2)

/-- The base die that sends in a direction. -/
def edgeSender (e d : Nat) : Nat := if d = 0 then (edgeEnds e).1 else (edgeEnds e).2

/-- A register of an edge: both blocks show one register (R298). -/
def edgeLoc (r : RegId) (e : Nat) : RegLoc := bLoc r 0 [e]

/-- A bundle direction. -/
def bundleKey (e d k : Nat) : Nat := e * 128 + d * 64 + k
def bundleOf (s : Node) (e d k : Nat) : Bundle := tblGet Bundle.reset s.bundles (bundleKey e d k)
def modBundle (s : Node) (e d k : Nat) (f : Bundle → Bundle) : Node :=
  { s with bundles := tblMod Bundle.reset s.bundles (bundleKey e d k) f }

/-- Closed and half-width bundles of a direction (R289). -/
def closedCount (s : Node) (e d : Nat) : Nat := ((List.range 64).filter fun k => (bundleOf s e d k).width == 2).length
def halfCount (s : Node) (e d : Nat) : Nat := ((List.range 64).filter fun k => (bundleOf s e d k).width == 1).length

/-- EDGE_STATUS.COND (R289): 0 NORMAL, 1 DEGRADED, 2 DOWN. -/
def edgeCond (s : Node) (e : Nat) : Nat :=
  if ctrlState s (edgeLoc .edgeCtrl e) ≠ stOn ∨ closedCount s e 0 = 64 ∨ closedCount s e 1 = 64 then 2
  else if closedCount s e 0 > 32 ∨ closedCount s e 1 > 32 then 1
  else 0

/-! ## Bundle maps (R283) -/

/-- The open bundles of a direction in ascending order: a full-width bundle twice, a half-width bundle once. -/
def openList (s : Node) (e d : Nat) : List Nat :=
  (List.range 64).flatMap fun k =>
    match (bundleOf s e d k).width with
    | 0 => [k, k]
    | 1 => [k]
    | _ => []

/-- The map entry of a message: by its line, or by its source stop where it names no line. -/
def mapEntry (line : Option Nat) (stop : Nat) : Nat :=
  match line with
  | some l => bits l 6 0 ^^^ bits l 13 7
  | none => 2 * stop

/-- The bundle that a map entry names. -/
def mapBundle (l : List Nat) (i : Nat) : Nat := l.getD (i % l.length) 0

/-! ## Paths (R14, R290) -/

/-- The edge between two adjacent base dies. -/
def edgeBetween (a b : Nat) : Option Nat := firstBelow 4 fun e => decide (edgeEnds e = (min a b, max a b))

/-- The crossings of consecutive base dies, edge and direction. -/
def crossings : List Nat → List (Nat × Nat)
  | a :: b :: l => (match edgeBetween a b with
    | some e => [(e, b2n (decide (b < a)))]
    | none => []) ++ crossings (b :: l)
  | _ => []

/-- The worst condition on a path. -/
def worstCond (cond : Nat → Nat) (p : List Nat) : Nat := ((crossings p).map fun x => cond x.1).foldl max 0

/-- The base dies a message passes from one to another (R290): an adjacent die by the edge between them, else the other
way round the ring; a diagonal one by the lower-numbered intermediate, for a line with PA[7] set by the higher-numbered one
(R14), unless that path holds a DOWN edge, or a DEGRADED edge where the other path holds neither. None: no path is left. -/
def routeDies (cond : Nat → Nat) (a b : Nat) (line : Option Nat) : Option (List Nat) :=
  if a = b then some [a]
  else if a + b = 3 then
    let (m, n) := if a = 0 ∨ b = 0 then (1, 2) else (0, 3)
    let (p, q) := if line.elim false (fun l => bit l 0) then ([a, n, b], [a, m, b]) else ([a, m, b], [a, n, b])
    if worstCond cond p = 2 ∨ (worstCond cond p = 1 ∧ worstCond cond q = 0) then
      if worstCond cond q = 2 then none else some q
    else some p
  else if worstCond cond [a, b] ≠ 2 then some [a, b]
  else
    let p := [a, 3 - b, 3 - a, b]
    if worstCond cond p = 2 then none else some p

/-- Gives each crossing its bundle and virtual channel: a message moves to the second channel where it crosses the
dateline, edge E3. -/
def hopsFrom (map : Nat → Nat → List Nat) (i : Nat) : Nat → List (Nat × Nat) → List Hop
  | _, [] => []
  | vc, (e, d) :: l =>
    let v := if e = 3 then 1 else vc
    ⟨e, d, mapBundle (map e d) i, v⟩ :: hopsFrom map i v l

/-- The crossings of a message under given conditions and maps. -/
def hopsOf (cond : Nat → Nat) (map : Nat → Nat → List Nat) (a b : Nat) (line : Option Nat) (stop : Nat) : List Hop :=
  match routeDies cond a b line with
  | some p => hopsFrom map (mapEntry line stop) 0 (crossings p)
  | none => []

/-- The routes and bundle maps in force. -/
def netOf (s : Node) : Routes := s.ctl.net
def modNet (s : Node) (f : Routes → Routes) : Node := { s with ctl := { s.ctl with net := f s.ctl.net } }
def condInForce (s : Node) (e : Nat) : Nat := tblGet 0 (netOf s).conds e
def mapInForce (s : Node) (e d : Nat) : List Nat := tblGet fullMap (netOf s).maps (e * 2 + d)

/-- The crossings of a message sent now. -/
def messagePath (s : Node) (a b : Nat) (line : Option Nat) (stop : Nat) : List Hop :=
  hopsOf (condInForce s) (mapInForce s) a b line stop

/-- Its crossings once the route switch in progress has ended. -/
def nextPath (s : Node) (a b : Nat) (line : Option Nat) (stop : Nat) : List Hop :=
  hopsOf (edgeCond s) (openList s) a b line stop

/-- Whether a route switch is in progress. -/
def switching (s : Node) : Bool := fGet s (bLoc .netRoute 0) fNetRouteSwitching == 1

/-- Puts the routes and bundle maps of the edges' present state in force. -/
def takeRoutes (s : Node) : Node :=
  modNet s fun r =>
    { r with
      conds := (List.range 4).foldl (fun t e => tblSet 0 t e (edgeCond s e)) r.conds
      maps := (List.range 8).foldl (fun t i => tblSet fullMap t i (openList s (i / 2) (i % 2))) r.maps }

/-- Whether a message about a line between two base dies waits while the route switch changes its path or bundle (R291). -/
def lineHeld (s : Node) (a b line : Nat) : Bool :=
  switching s && nextPath s a b (some line) 0 != messagePath s a b (some line) 0

end Sys2Proof.Machine
end

