-- ==== Sys2Proof/Machine/GroupOps.lean ====
section
/-! DEFINITION. Shared operations on groups: registers and lanes (R83, R90), paths (R91, R92), precise faults and
boundaries (R113, R114), the end of a group (R80). -/

namespace Sys2Proof.Machine

/-- The opcode of a Gable instruction word, and any field (R62, R88). -/
def opcodeOf (w : Nat) : Nat := bits w 63 56

/-- Error codes of groups (R79, R115, R182, R270). -/
def eIllegal : Nat := 0x0402
def eRegRange : Nat := 0x0403
def eMisaligned : Nat := 0x0404
def eScratchRange : Nat := 0x0405
def eCopyDesc : Nat := 0x0406
def eRefused : Nat := 0x0407
def eCopyPages : Nat := 0x0408
def eStall : Nat := 0x0401
def ePoison : Nat := 0x0105
def eUnmapped : Nat := 0x0106
def eAborted : Nat := 0x0201

/-- A register of a lane; r0 reads as zero (R83). -/
def readReg (k : Group) (r lane : Nat) : Half := if r = 0 then 0 else tblGet 0 k.file (r * 32 + lane)

/-- A load no longer writes a register of a lane that a later instruction has written. -/
def supersede (key : Nat) (l : PendLoad) : PendLoad :=
  if l.rd ≤ key / 32 ∧ key / 32 < l.rd + (2 ^ l.size + 3) / 4 then { l with skip := key :: l.skip } else l

/-- A register of a lane written; a write to r0 is discarded (R83). Program order holds against loads whose data is still
to come. -/
def writeReg (k : Group) (r lane : Nat) (v : Half) : Group :=
  if r = 0 then k
  else
    { k with
      file := tblSet 0 k.file (r * 32 + lane) v
      loads := k.loads.map (supersede (r * 32 + lane))
      redo := k.redo.map (supersede (r * 32 + lane)) }

/-- The register pair r, r + 1 of a lane, low half first (R87, R89). -/
def readPair (k : Group) (r lane : Nat) : Nat := (readReg k r lane).toNat + (readReg k (r + 1) lane).toNat * 2 ^ 32

/-- `n` bytes of registers from r on, little-endian. -/
def readWide (k : Group) (r lane n : Nat) : List Byte :=
  ((List.range ((n + 3) / 4)).flatMap fun i => leBytes 4 (readReg k (r + i) lane).toNat).take n

/-- Registers from r on written from a value of `n` bytes; narrower values fill one register (R88, R89). -/
def writeWide (k : Group) (r lane n v : Nat) : Group :=
  (List.range ((n + 3) / 4)).foldl
    (fun k i => writeReg k (r + i) lane (BitVec.ofNat 32 (v / 2 ^ (32 * i)))) k

/-- The running path's program counter and threads. -/
def runPc (k : Group) : Nat := match k.paths with
  | [] => 0
  | p :: _ => p.pc

/-- Threads of the running path (GROUP_STATE.ACTIVE). -/
def runMask (k : Group) : Nat := match k.paths with
  | [] => 0
  | p :: _ => p.mask

/-- The active lanes, rising. -/
def lanes (k : Group) : List Nat := ones 32 (runMask k)

/-- The lowest-numbered active lane (R90). -/
def firstLane (k : Group) : Nat := (lanes k).headD 0

/-- Adds a path, merged with one at the same program counter (R91). -/
def addPath (p : Path) : List Path → List Path
  | [] => [p]
  | q :: t => if q.pc = p.pc then ⟨q.pc, q.mask ||| p.mask⟩ :: t else q :: addPath p t

/-- The lowest program counter of the paths. -/
def lowestPc (l : List Path) : Nat := (l.map (·.pc)).foldl min (2 ^ 64)

/-- The paths with the one at `pc` first. -/
def runFirst (pc : Nat) (l : List Path) : List Path := l.filter (fun p => p.pc = pc) ++ l.filter (fun p => p.pc ≠ pc)

/-- The program counter the group rotates to from an instruction at `pc`: the lowest pending one above, else the
lowest pending one (R92). -/
def rotateTo (pc : Nat) (pending : List Path) : Nat :=
  let above := pending.filter fun p => p.pc > pc
  if above = [] then lowestPc pending else lowestPc above

/-- The next program counter: instructions are 8 bytes long (R88). -/
def nextPc (pc : Nat) : Nat := (pc + 8) % 2 ^ 64

/-- The stall watchdog after the paths change (R94): it restarts where the running path changes, a path ends or two merge,
and goes on where the running path goes on, whole or split. -/
def rewatch (old new : Group) (merged : Bool) : Group :=
  if merged || runMask new &&& runMask old == 0 then { new with watch := 0 } else new

/-- The running path replaced by its parts, the one at `keep` listed first; every part merges with the pending path at an
equal program counter, and the running path is chosen anew (R91, R92). A turn is kept by the part at `keep` unless it
merged. DESIGN CHOICE (log entry 175): R91 names the running path; a part that does not run merges in the same way. -/
def advance (k : Group) (parts : List Path) (keep : Nat) : Group :=
  let rest := k.paths.drop 1
  let merged := rest.any fun p => p.pc = keep
  let all := parts.foldl (fun l p => addPath p l) rest
  let stays := k.turn && !merged && all.any (fun p => p.pc = keep)
  rewatch k { k with paths := runFirst (if stays then keep else lowestPc all) all, turn := stays }
    (decide (all.length < rest.length + parts.length))

/-- The running path moves past its instruction. -/
def stepPc (k : Group) : Group := advance k [⟨nextPc (runPc k), runMask k⟩] (nextPc (runPc k))

/-- The group rotates from the instruction at `pc` (YIELD and SPIN, R92): `keep` is where the yielding path stands. -/
def rotate (k : Group) (pc keep : Nat) : Group :=
  let pending := k.paths.filter fun p => p.pc ≠ keep
  if pending = [] then k
  else { k with paths := runFirst (rotateTo pc pending) k.paths, turn := true, watch := 0 }

/-- Whether a group can issue an instruction (R85): its Gable serves it, it runs and waits on nothing, or waits to
present the same instruction again (a full copy queue, operands, earlier accesses, a slice that holds 64 records, R269) -/
def canIssue (s : Node) (g k : Nat) : Bool :=
  let x := groupOf s g k
  (decide (x.phase = .running ∧ x.wait = .none) || decide (x.phase = .waiting ∧ (x.wait = .queue ∨ x.wait = .memory ∨ x.wait = .operands)) ||
    decide (x.phase = .translation ∧ x.wait = .translation 0)) &&
  !isFenced s (g / 16) && fGet s (gLoc .gableCtrl g) fGableCtrlState != stFaulted

/-- Whether a register awaits a load's data in some lane (R85). -/
def awaits (k : Group) (r : Nat) : Bool :=
  k.loads.any fun l => decide (l.rd ≤ r) && decide (r < l.rd + (2 ^ l.size + 3) / 4) &&
    l.lanes.any fun a => !l.skip.contains (r * 32 + a.lane)

/-- Ends the waits of a group's load, store and fetch faults (R271). -/
def dropGroupWaiters (s : Node) (g k : Nat) : Node :=
  { s with stus := s.stus.map fun (b, u) =>
      (b, { u with faults := u.faults.map fun q =>
              { q with waiters := q.waiters.filter fun w => w ≠ .group g k } }) }

/-- A bank of a cell. -/
def bankOf (c : Cell) (n : Nat) : Bank := if n = 0 then c.b0 else c.b1

/-- Rewrites a bank of a cell. -/
def modBank (c : Cell) (n : Nat) (f : Bank → Bank) : Cell := if n = 0 then { c with b0 := f c.b0 } else { c with b1 := f c.b1 }

/-- A cell of a Gable. -/
def cellOf (s : Node) (g c : Nat) : Cell := if c = 0 then (gableOf s g).c0 else (gableOf s g).c1

/-- Rewrites a cell of a Gable. -/
def modCell (s : Node) (g c : Nat) (f : Cell → Cell) : Node :=
  modGable s g fun x => if c = 0 then { x with c0 := f x.c0 } else { x with c1 := f x.c1 }

/-- The cells of a gang in part order, as Gable and cell (R58). -/
def gangParts (gang g cell : Nat) : List (Nat × Nat) :=
  match gang with
  | 0 => [(g, cell)]
  | 1 => [(g, 0), (g, 1)]
  | _ => [(g, 0), (g, 1), (g + 1, 0), (g + 1, 1)]

/-- Whether a group owns a bank (R57). -/
def ownsBank (b : Bank) (g k : Nat) : Bool := decide (b.st ≠ .free) && b.claimer == g && b.group == k

/-- Whether a group's bank is taken back when the group ends (R80). -/
def bankEnds (b : Bank) (g k : Nat) : Bool := ownsBank b g k && (decide (b.st = .accum) || decide (b.st = .discard))

/-- Performs the MREL instructions at the head of a cell's queue: each returns the bank of its claim to FREE (R57, R64). -/
def drainRel : Nat → Cell → Cell
  | 0, c => c
  | n + 1, c =>
    match c.queue with
    | i :: rest =>
      if i.rel then
        drainRel n (modBank { c with queue := rest } (bits i.word 52 52) fun b =>
          if b.claimer = i.claimer ∧ b.claim = i.claim then Bank.free else b)
      else c
    | [] => c

/-- The banks of a claim: Gable, cell and bank number, over a Gable pair. -/
def pairBanks (g : Nat) : List (Nat × Nat × Nat) :=
  [(g, 0, 0), (g, 0, 1), (g, 1, 0), (g, 1, 1), (partner g, 0, 0), (partner g, 0, 1), (partner g, 1, 0), (partner g, 1, 1)]

/-- Returns a group's ACCUM and DISCARD banks to FREE and writes one BANK_STATE record for each claim, naming the cell
of part 0, the bank and the group (R80). -/
def endBanks (s : Node) (g k : Nat) : Node :=
  let hit := (pairBanks g).filter fun (x, c, n) => bankEnds (bankOf (cellOf s x c) n) g k
  let claims := (hit.map fun (x, c, n) =>
    let b := bankOf (cellOf s x c) n
    (b.claim, if b.gang = 0 then c else 0, n)).eraseDups
  let s1 := hit.foldl (fun s (x, c, n) => modCell s x c fun y => modBank y n fun _ => Bank.free) s
  let s2 := (gangParts 2 (g - g % 2) 0).foldl (fun s (x, c) => modCell s x c fun y =>
    drainRel 4 { y with queue := y.queue.filter fun i => !(i.claimer == g && i.group == k) }) s1
  claims.foldl (fun s (_, c, n) => logGable s g 0x0306 0 [(1, c), (1, n), (1, k)]) s2

/-- Whether a remote store of a group is unacknowledged (R335). -/
def remotePending (s : Node) (g k : Nat) : Bool :=
  s.remotes.any fun r => decide (r.result = none) && (match r.who with
    | .groupStore g' k' _ => g' == g && k' == k
    | _ => false)

/-- Whether anything of an ended group still drains: a FULL bank or a store not yet visible, a remote one until it is
acknowledged (GROUP_STATE.RUN 5, R169). -/
def groupDrains (s : Node) (g k : Nat) : Bool :=
  (pairBanks g).any (fun (x, c, n) => ownsBank (bankOf (cellOf s x c) n) g k) ||
  (dieOf s (g / 16)).cache.stores.any (fun p => p.gable == g % 16 && p.group == k) || remotePending s g k

/-- An ENDING group with nothing left to drain leaves its slot. -/
def settleGroup (s : Node) (g k : Nat) : Node :=
  if (groupOf s g k).phase = .ending ∧ groupDrains s g k = false then modGroup s g k fun _ => Group.none else s

/-- Every ENDING group of a Gable that has drained leaves its slot. -/
def settleGroups (s : Node) (g : Nat) : Node := (tblKeys (gableOf s g).groups).foldl (fun s k => settleGroup s g k) s

/-- The records of stops that a group has still to make when it ends or stops for another reason (R108); that of poison is
written where it is met. -/
def logStops (s : Node) (g k pc : Nat) (codes : List Nat) : Node :=
  (codes.filter fun c => c ≠ ePoison).foldl (fun s c => logGable s g c pc [(1, k), (2, c)]) s

/-- Ends a group (R80, R88, R114): its banks are returned, its waiters removed, and the records of the stops it no longer
makes written (R108); its copies go on (R112). -/
def endGroup (s : Node) (g k : Nat) : Node :=
  let s1 := endBanks (dropGroupWaiters (logStops s g k 0 (groupOf s g k).stopNext) g k) g k
  settleGroup (modGroup s1 g k fun x =>
    { x with phase := .ending, paths := [], wait := .none, fault := 0, stopNext := [], kill := false, loads := [], redo := [], list := [] }) g k

/-- The instruction a group presents: a load to be issued again, else the running path's (R113, R114). -/
def faultPc (x : Group) : Nat := match x.redo with
  | [] => runPc x
  | l :: _ => l.pc

/-- Stops a group with a code (R113), its record being written: RUN becomes STOPPED, pending stops take effect with it, and
node software is signalled; a group to be killed ends instead (R114). -/
def halt (s : Node) (g k code pc : Nat) : Node :=
  let x := groupOf s g k
  let s1 := modGroup (logStops s g k pc x.stopNext) g k fun y =>
    { y with phase := .stopped, fault := code, wait := .none, stopNext := [], list := [] }
  signalGable (if x.kill then endGroup s1 g k else s1) g

/-- Stops a group at the instruction at `pc` with a code (R113): the record carries the group, the program counter and the
code. -/
def stopGroupAt (s : Node) (g k code pc : Nat) : Node := halt (logGable s g code pc [(1, k), (2, code)]) g k code pc

/-- The same at the instruction the group presents. -/
def stopGroup (s : Node) (g k code : Nat) : Node := stopGroupAt s g k code (faultPc (groupOf s g k))

/-- A stop on poisoned data (R241, R547) met by the instruction at `pc`: ADDR is the line, and DETAIL starts with the
consumer code, the local Gable and the group. -/
def stopPoisonAt (s : Node) (g k consumer line pc : Nat) : Node :=
  halt (logGable s g ePoison (line * lineBytes) [(1, consumer), (1, g % 16), (1, k), (8, pc), (2, ePoison)]) g k ePoison pc

/-- The same, met by the instruction the group presents. -/
def stopPoison (s : Node) (g k consumer line : Nat) : Node := stopPoisonAt s g k consumer line (faultPc (groupOf s g k))

/-- The boundary after an instruction: pending stops take effect (R94, R108), or the group ends (R114). -/
def boundary (s : Node) (g k : Nat) : Node :=
  let x := groupOf s g k
  match x.stopNext with
  | c :: _ => halt s g k c (faultPc x)
  | [] => if x.kill then endGroup s g k else s

/-- An instruction retires: the group's new value is stored, it runs, and its boundary is reached. -/
def retire (s : Node) (g k : Nat) (x : Group) : Node :=
  boundary (modGroup s g k fun _ => { x with phase := .running, wait := .none, list := [] }) g k

/-- A group waits (GROUP_STATE.RUN 2). -/
def waitOn (s : Node) (g k : Nat) (w : GWait) : Node :=
  modGroup s g k fun x => { x with phase := .waiting, wait := w }

/-- A group is suspended on a queued fault (R266, GROUP_STATE.RUN 3). -/
def suspendOn (s : Node) (g k fseq : Nat) : Node :=
  modGroup s g k fun x => { x with phase := .translation, wait := .translation fseq }

/-- Performs an instruction for a group that can issue it; otherwise the command is not due and changes nothing. A load to
be issued again comes first (R114). -/
def issue (s : Node) (g k : Nat) (f : Group → Node) : Node :=
  if canIssue s g k && (groupOf s g k).redo.isEmpty then f (groupOf s g k) else s

/-- Stops a group at its next boundary with a code (R94, R108). Between two commands a running or waiting group is at a
boundary; a group suspended in a translation stops once its instruction has been performed. A group already STOPPED keeps
its stop, and one that has ended receives none, but the record is written -/
def stopAtBoundary (s : Node) (g k order code : Nat) : Node :=
  let x := groupOf s g k
  if x.order = order ∧ (x.phase = .running ∨ x.phase = .waiting) then stopGroup s g k code
  else if x.order = order ∧ x.phase = .translation then modGroup s g k fun y => { y with stopNext := y.stopNext ++ [code] }
  else if x.order = order ∧ x.phase = .stopped then signalGable (logGable s g code (runPc x) [(1, k), (2, code)]) g
  else logGable s g code 0 [(1, k), (2, code)]

/-- Stops a group at its next boundary for poisoned bytes that its copy or gather met (R241, R547). -/
def stopPoisonBoundary (s : Node) (g k order consumer line : Nat) : Node :=
  let x := groupOf s g k
  if x.order = order ∧ (x.phase = .running ∨ x.phase = .waiting) then stopPoison s g k consumer line
  else
    let s1 := logGable s g ePoison (line * lineBytes) [(1, consumer), (1, g % 16), (1, k)]
    if x.order = order ∧ x.phase = .translation then modGroup s1 g k fun y => { y with stopNext := y.stopNext ++ [ePoison] } else s1

end Sys2Proof.Machine
end

