-- ==== Sys2Proof/Machine/Operands.lean ====
section
/-! DEFINITION. The element formats: the operand format word and its validity (R25, R26), the layouts and special
values (R27 to R32), the block scales (R34, R37), and the packing of narrow elements (R33). A value is held
exactly, as a sign, a magnitude and a power of two. -/

namespace Sys2Proof.Machine

/-- The element formats (element format codes of R25). -/
inductive Fmt where
  | fp64 | fp32 | tf32 | bf16 | fp16 | e4m3 | e5m2 | e3m2 | e2m3 | e2m1 | int8 | int4 | int32
  deriving DecidableEq, Repr

/-- The format a code names; codes 0x0D to 0x1F are reserved (R25). -/
def fmtOfCode : Nat → Option Fmt
  | 0x00 => some .fp64
  | 0x01 => some .fp32
  | 0x02 => some .tf32
  | 0x03 => some .bf16
  | 0x04 => some .fp16
  | 0x05 => some .e4m3
  | 0x06 => some .e5m2
  | 0x07 => some .e3m2
  | 0x08 => some .e2m3
  | 0x09 => some .e2m1
  | 0x0A => some .int8
  | 0x0B => some .int4
  | 0x0C => some .int32
  | _ => none

/-- Width in bits of one element (R25). -/
def fmtWidth : Fmt → Nat
  | .fp64 => 64
  | .fp32 => 32
  | .tf32 => 32
  | .bf16 => 16
  | .fp16 => 16
  | .e4m3 => 8
  | .e5m2 => 8
  | .e3m2 => 6
  | .e2m3 => 6
  | .e2m1 => 4
  | .int8 => 8
  | .int4 => 4
  | .int32 => 32

/-- Whether the format is an integer format. -/
def fmtIsInt : Fmt → Bool
  | .int8 => true
  | .int4 => true
  | .int32 => true
  | _ => false

/-- How a floating-point format encodes its special values (R29). -/
inductive Specials where
  | ieee     -- all-ones exponent: infinity and NaN
  | nanOnly  -- FP8 E4M3: the two codes 0x7F and 0xFF are NaN
  | finite   -- FP6 and FP4: neither
  deriving DecidableEq, Repr

/-- Layout of a floating-point format (R27); `drop` is the count of container bits below the fraction (R28). -/
structure Layout where
  expBits : Nat
  fracBits : Nat
  bias : Nat
  drop : Nat
  specials : Specials
  deriving DecidableEq, Repr

/-- The floating-point layouts of R27; an integer format has none. -/
def fmtLayout : Fmt → Option Layout
  | .fp64 => some ⟨11, 52, 1023, 0, .ieee⟩
  | .fp32 => some ⟨8, 23, 127, 0, .ieee⟩
  | .tf32 => some ⟨8, 10, 127, 13, .ieee⟩
  | .bf16 => some ⟨8, 7, 127, 0, .ieee⟩
  | .fp16 => some ⟨5, 10, 15, 0, .ieee⟩
  | .e4m3 => some ⟨4, 3, 7, 0, .nanOnly⟩
  | .e5m2 => some ⟨5, 2, 15, 0, .ieee⟩
  | .e3m2 => some ⟨3, 2, 3, 0, .finite⟩
  | .e2m3 => some ⟨2, 3, 1, 0, .finite⟩
  | .e2m1 => some ⟨2, 1, 1, 0, .finite⟩
  | .int8 => none
  | .int4 => none
  | .int32 => none

/-- An exact value: a NaN (signalling or quiet), an infinity, or (−1)^neg × mag × 2^exp. -/
inductive Num where
  | nan (signalling : Bool)
  | inf (neg : Bool)
  | fin (neg : Bool) (mag : Nat) (exp : Int)
  deriving DecidableEq, Repr

/-- The value of an integer. -/
def numOfInt (i : Int) : Num := .fin (decide (i < 0)) i.natAbs 0

/-- The value of a floating-point code (R27 to R29). -/
def numOfFloat (l : Layout) (w : Nat) : Num :=
  let v := w >>> l.drop
  let frac := v % 2 ^ l.fracBits
  let ex := (v >>> l.fracBits) % 2 ^ l.expBits
  let neg := bit v (l.expBits + l.fracBits)
  let top := 2 ^ l.expBits - 1
  let special := match l.specials with
    | .ieee => decide (ex = top)
    | .nanOnly => decide (ex = top) && decide (frac = 2 ^ l.fracBits - 1)
    | .finite => false
  if special then
    match l.specials with
    | .ieee => if frac = 0 then .inf neg else .nan (!bit frac (l.fracBits - 1))
    | _ => .nan false
  else if ex = 0 then .fin neg frac (1 - (l.bias : Int) - l.fracBits)
  else .fin neg (frac + 2 ^ l.fracBits) ((ex : Int) - l.bias - l.fracBits)

/-- The value an element code holds in its format (R27 to R29, R32). -/
def numOfCode (f : Fmt) (w : Nat) : Num :=
  match fmtLayout f with
  | some l => numOfFloat l w
  | none => numOfInt (signed (fmtWidth f) w)

/-- The canonical NaN (R31); an integer format and a format without NaN have none, and their code is 0 (R32, R40). -/
def canonicalNan : Fmt → Nat
  | .fp64 => 0x7FF8000000000000
  | .fp32 => 0x7FC00000
  | .tf32 => 0x7FC00000
  | .bf16 => 0x7FC0
  | .fp16 => 0x7E00
  | .e5m2 => 0x7E
  | .e4m3 => 0x7F
  | _ => 0

/-- Whether the format has infinities (R29). -/
def fmtHasInf (f : Fmt) : Bool :=
  match fmtLayout f with
  | some l => decide (l.specials = .ieee)
  | none => false

/-- The exponent field and fraction of the largest finite value (R27). -/
def maxFiniteFields (l : Layout) : Nat × Nat :=
  match l.specials with
  | .ieee => (2 ^ l.expBits - 2, 2 ^ l.fracBits - 1)
  | .nanOnly => (2 ^ l.expBits - 1, 2 ^ l.fracBits - 2)
  | .finite => (2 ^ l.expBits - 1, 2 ^ l.fracBits - 1)

/-- A code from its sign, exponent field and fraction. -/
def packFields (l : Layout) (neg : Bool) (ex frac : Nat) : Nat :=
  ((b2n neg <<< (l.expBits + l.fracBits)) + (ex <<< l.fracBits) + frac) <<< l.drop

/-- The code of the largest finite value. -/
def maxFiniteCode (l : Layout) (neg : Bool) : Nat :=
  packFields l neg (maxFiniteFields l).1 (maxFiniteFields l).2

/-- The code of an infinity. -/
def infCode (l : Layout) (neg : Bool) : Nat := packFields l neg (2 ^ l.expBits - 1) 0

/-- The E8M0 scale (R34): 2^(E − 127), and 0xFF is NaN. -/
def e8m0 (w : Nat) : Num := if w % 256 = 255 then .nan false else .fin false 1 ((w % 256 : Nat) - 127)

/-- FMT, SCHEME, BLOCK and L2MODE of a format word (R25). -/
def fwFmt (w : Nat) : Nat := bits w 4 0
def fwScheme (w : Nat) : Nat := bits w 6 5
def fwBlock (w : Nat) : Nat := bits w 8 7
def fwL2mode (w : Nat) : Nat := bits w 9 9

/-- The block length of a scheme: 32 under MX, 32, 64 or 128 under BS2; 0 where the word is unscaled (R25, R34). -/
def fwBlockLen (w : Nat) : Nat :=
  match fwScheme w with
  | 1 => 32
  | 2 => 32 <<< fwBlock w
  | _ => 0

/-- Validity of one operand format word (R26, the conditions on one word). -/
def fwValid (w : Nat) : Bool :=
  bits w 15 10 == 0 && (fmtOfCode (fwFmt w)).isSome &&
  (match fwScheme w with
   | 0 => fwBlock w == 0 && fwL2mode w == 0
   | 1 => decide (5 ≤ fwFmt w) && decide (fwFmt w ≤ 10) && fwBlock w == 0 && fwL2mode w == 0
   | 2 => decide (5 ≤ fwFmt w) && decide (fwFmt w ≤ 11) && fwBlock w != 3
   | _ => false)

/-- Validity of the two operand format words of a matrix instruction (R26). -/
def fwPairValid (a b : Nat) : Bool :=
  fwValid a && fwValid b && fwScheme a == fwScheme b &&
  (fwScheme a != 2 || (fwBlock a == fwBlock b && fwL2mode a == fwL2mode b)) &&
  fwFmt a != 0x0C && fwFmt b != 0x0C &&
  (match fmtOfCode (fwFmt a), fmtOfCode (fwFmt b) with
   | some fa, some fb => fmtIsInt fa == fmtIsInt fb
   | _, _ => false)

/-- Bytes of a row of `n` elements of a format (R33). -/
def rowBytes (f : Fmt) (n : Nat) : Nat := ceilDiv (fmtWidth f * n) 8

/-- The bytes of a row of element codes, padding bits zero (R33). -/
def packRow (f : Fmt) (codes : List Nat) : List Byte :=
  let v := (codes.mapIdx fun i c => (c % 2 ^ fmtWidth f) <<< (fmtWidth f * i)).foldl (· + ·) 0
  leBytes (rowBytes f codes.length) v

end Sys2Proof.Machine
end

