-- ==== Sys2Proof/Machine/Flags.lean ====
section
/-! DEFINITION. Exact arithmetic, rounding and the arithmetic flags: the rounding modes (R43 to R48), conversions and
saturation (R40, R41), the delivery of arithmetic results (R42, R545), the invalid operations (R546) and the
sticky flag set (R54). -/

namespace Sys2Proof.Machine

/-- A resolved rounding mode (R43); RM 6 is invalid and RM 7 names the unit's default. -/
inductive RMode where
  | rne | rtz | rdn | rup | rmm | sr
  deriving DecidableEq, Repr

/-- The mode a code 0 to 5 names. -/
def rmOfCode : Nat → Option RMode
  | 0 => some .rne
  | 1 => some .rtz
  | 2 => some .rdn
  | 3 => some .rup
  | 4 => some .rmm
  | 5 => some .sr
  | _ => none

/-- The mode a three-bit field names in a unit whose default mode field is `dflt` (R43, R44): RM 7 reads the
default, and a default that is itself 6 or 7 names no mode. -/
def rmResolve (rm dflt : Nat) : Option RMode := if rm = 7 then rmOfCode dflt else rmOfCode rm

/-- The flag bits (R54), as a mask in bits [5:0]. -/
def flNX : Nat := 1
def flUF : Nat := 2
def flOF : Nat := 4
def flDZ : Nat := 8
def flNV : Nat := 16
def flSAT : Nat := 32

/-- The flag `f` where `c` holds. -/
def flIf (c : Bool) (f : Nat) : Nat := if c then f else 0

/-- The exponent of the leading bit of mag × 2^exp; mag is nonzero. -/
def leadExp (mag : Nat) (exp : Int) : Int := (Nat.log2 mag : Int) + exp

/-- mag × 2^exp cut to a multiple of 2^q: the kept multiple and the dropped part over 2^shift. -/
structure Cut where
  kept : Nat
  rest : Nat
  shift : Nat
  deriving DecidableEq, Repr

/-- The cut of mag × 2^exp at 2^q. -/
def cutAt (mag : Nat) (exp q : Int) : Cut :=
  if q ≤ exp then ⟨mag <<< (exp - q).toNat, 0, 0⟩
  else
    let sh := (q - exp).toNat
    ⟨mag >>> sh, mag % 2 ^ sh, sh⟩

/-- The 16 bits directly below the kept part (R45 step 2). -/
def cutF16 (c : Cut) : Nat :=
  if c.shift ≥ 16 then c.rest >>> (c.shift - 16) else c.rest <<< (16 - c.shift)

/-- Rounds a cut to a multiple of its unit (R43, R45): the multiple, and whether the result is inexact. -/
def roundCut (m : RMode) (neg : Bool) (r16 : Nat) (c : Cut) : Nat × Bool :=
  let inexact := c.rest != 0
  let twice := 2 * c.rest
  let unit := 2 ^ c.shift
  let up := match m with
    | .rne => decide (twice > unit) || (twice == unit && c.kept % 2 == 1)
    | .rtz => false
    | .rdn => neg && inexact
    | .rup => !neg && inexact
    | .rmm => inexact && decide (twice ≥ unit)
    | .sr => decide (cutF16 c + r16 ≥ 0x10000)
  (if up then c.kept + 1 else c.kept, inexact)

/-- What rounding a nonzero finite magnitude into a layout gives before the range is applied. -/
structure Rounded where
  kept : Nat       -- the multiple of 2^unit that was kept
  unit : Int
  inexact : Bool
  tiny : Bool      -- below the smallest normal after rounding at unbounded range (R30)
  overflow : Bool  -- above the largest finite after rounding (R40, R545)
  deriving DecidableEq, Repr

/-- Rounds mag × 2^exp (mag nonzero) into a layout. -/
def roundInto (l : Layout) (m : RMode) (neg : Bool) (r16 mag : Nat) (exp : Int) : Rounded :=
  let lead := leadExp mag exp
  let emin : Int := 1 - l.bias
  let q := max lead emin - l.fracBits
  let (k, ix) := roundCut m neg r16 (cutAt mag exp q)
  let qu := lead - l.fracBits
  let ku := (roundCut m neg r16 (cutAt mag exp qu)).1
  let tiny := decide (lead < emin) && !(decide (qu + (Nat.log2 ku : Int) ≥ emin))
  let (me, mf) := maxFiniteFields l
  let big := (me : Int) - l.bias - l.fracBits
  let above := if q ≥ big then decide ((k <<< (q - big).toNat) > mf + 2 ^ l.fracBits) else false
  ⟨k, q, ix, tiny, above⟩

/-- The code of kept × 2^unit, which is within the layout's range. -/
def encodeRounded (l : Layout) (neg : Bool) (kept : Nat) (unit : Int) : Nat :=
  let f := l.fracBits
  if kept < 2 ^ f then packFields l neg 0 kept
  else if kept = 2 ^ (f + 1) then packFields l neg (unit + 1 + f + l.bias).toNat 0
  else packFields l neg (unit + f + l.bias).toNat (kept - 2 ^ f)

/-- A code and the flags its forming sets. -/
structure Flagged where
  code : Nat
  flags : Nat
  deriving DecidableEq, Repr

/-- The limits a conversion into an integer format clamps to (R32). -/
def intLimits : Fmt → Int × Int
  | .int8 => (-127, 127)
  | .int4 => (-7, 7)
  | _ => (-2147483648, 2147483647)

/-- A conversion into an integer format (R32, R40). -/
def convertInt (f : Fmt) (m : RMode) (r16 : Nat) (x : Num) : Flagged :=
  let (lo, hi) := intLimits f
  match x with
  | .nan _ => ⟨0, flNV⟩
  | .inf neg => ⟨wrap (fmtWidth f) (if neg then lo else hi), flSAT⟩
  | .fin neg mag exp =>
    let (k, ix) := roundCut m neg r16 (cutAt mag exp 0)
    let v : Int := if neg then -(k : Int) else k
    if v < lo then ⟨wrap (fmtWidth f) lo, flSAT ||| flNX⟩
    else if v > hi then ⟨wrap (fmtWidth f) hi, flSAT ||| flNX⟩
    else ⟨wrap (fmtWidth f) v, flIf ix flNX⟩

/-- A conversion's result for a source beyond the range of a floating-point format (R40). -/
def convertBeyond (f : Fmt) (l : Layout) (sat neg : Bool) (fromInf : Bool) : Flagged :=
  if sat || decide (l.specials = .finite) then
    ⟨maxFiniteCode l neg, flSAT ||| flIf (!fromInf) flNX⟩
  else match l.specials with
    | .ieee => ⟨infCode l neg, if fromInf then 0 else flOF ||| flNX⟩
    | _ => ⟨canonicalNan f, if fromInf then flNV else flOF ||| flNX⟩

/-- A conversion: the exact value rounded once into the target (R40, R41). -/
def convert (f : Fmt) (m : RMode) (sat : Bool) (r16 : Nat) (x : Num) : Flagged :=
  match fmtLayout f with
  | none => convertInt f m r16 x
  | some l =>
    match x with
    | .nan s => ⟨canonicalNan f, flIf (s || decide (l.specials = .finite)) flNV⟩
    | .inf neg => convertBeyond f l sat neg true
    | .fin neg 0 _ => ⟨packFields l neg 0 0, 0⟩
    | .fin neg mag exp =>
      let r := roundInto l m neg r16 mag exp
      if r.overflow then convertBeyond f l sat neg false
      else ⟨encodeRounded l neg r.kept r.unit, flIf r.inexact flNX ||| flIf (r.tiny && r.inexact) flUF⟩

/-- Whether an overflowing arithmetic result is an infinity in its rounding mode (R545). -/
def overflowToInf (m : RMode) (neg : Bool) : Bool :=
  match m with
  | .rne => true
  | .rmm => true
  | .sr => true
  | .rtz => false
  | .rdn => neg
  | .rup => !neg

/-- Delivers an arithmetic result into a format (R545): arithmetic never saturates. `nv` says that the operation was
invalid (R546). A format without infinity takes the conversion rule with SAT = 0. -/
def deliver (f : Fmt) (m : RMode) (r16 : Nat) (nv : Bool) (x : Num) : Flagged :=
  match fmtLayout f with
  | none => let c := convertInt f m r16 x; ⟨c.code, c.flags ||| flIf nv flNV⟩
  | some l =>
    match x with
    | .nan _ => ⟨canonicalNan f, flIf (nv || decide (l.specials = .finite)) flNV⟩
    | .inf neg =>
      if l.specials = .ieee then ⟨infCode l neg, flIf nv flNV⟩
      else let c := convertBeyond f l false neg true; ⟨c.code, c.flags ||| flIf nv flNV⟩
    | .fin neg 0 _ => ⟨packFields l neg 0 0, flIf nv flNV⟩
    | .fin neg mag exp =>
      let r := roundInto l m neg r16 mag exp
      if r.overflow then
        if l.specials = .ieee then
          ⟨if overflowToInf m neg then infCode l neg else maxFiniteCode l neg, flOF ||| flNX ||| flIf nv flNV⟩
        else let c := convertBeyond f l false neg false; ⟨c.code, c.flags ||| flIf nv flNV⟩
      else ⟨encodeRounded l neg r.kept r.unit,
        flIf r.inexact flNX ||| flIf (r.tiny && r.inexact) flUF ||| flIf nv flNV⟩

/-- Whether a value is a NaN. -/
def numIsNan : Num → Bool
  | .nan _ => true
  | _ => false

/-- Whether a value is a signalling NaN. -/
def numIsSnan : Num → Bool
  | .nan s => s
  | _ => false

/-- Whether a value is a zero of either sign. -/
def numIsZero : Num → Bool
  | .fin _ 0 _ => true
  | _ => false

/-- The sign of a value that is not a NaN. -/
def numNeg : Num → Bool
  | .nan _ => false
  | .inf n => n
  | .fin n _ _ => n

/-- The value with its sign turned; a NaN keeps none (R31). -/
def numNegate : Num → Num
  | .nan s => .nan s
  | .inf n => .inf (!n)
  | .fin n m e => .fin (!n) m e

/-- The magnitude. -/
def numAbs : Num → Num
  | .nan s => .nan s
  | .inf _ => .inf false
  | .fin _ m e => .fin false m e

/-- A value and whether the operation that formed it was invalid (R546). -/
structure Opd where
  val : Num
  nv : Bool
  deriving DecidableEq, Repr

/-- A finite value as an integer multiple of 2^e0, where e0 is at most its exponent. -/
def finAt (neg : Bool) (mag : Nat) (exp e0 : Int) : Int :=
  let v : Int := (mag <<< (exp - e0).toNat : Nat)
  if neg then -v else v

/-- The exact product (R42). -/
def numMul (a b : Num) : Opd :=
  let snan := numIsSnan a || numIsSnan b
  match a, b with
  | .nan _, _ => ⟨.nan false, snan⟩
  | _, .nan _ => ⟨.nan false, snan⟩
  | .inf n, y => if numIsZero y then ⟨.nan false, true⟩ else ⟨.inf (n != numNeg y), false⟩
  | x, .inf n => if numIsZero x then ⟨.nan false, true⟩ else ⟨.inf (n != numNeg x), false⟩
  | .fin n x e, .fin k y g => ⟨.fin (n != k) (x * y) (e + g), false⟩

/-- The exact sum (R42). `zneg` is the sign of an exact zero sum of values of opposite sign: negative under RDN alone
(IEEE 754 section 6.3). -/
def numAdd (zneg : Bool) (a b : Num) : Opd :=
  let snan := numIsSnan a || numIsSnan b
  match a, b with
  | .nan _, _ => ⟨.nan false, snan⟩
  | _, .nan _ => ⟨.nan false, snan⟩
  | .inf n, .inf k => if n = k then ⟨.inf n, false⟩ else ⟨.nan false, true⟩
  | .inf n, _ => ⟨.inf n, false⟩
  | _, .inf n => ⟨.inf n, false⟩
  | .fin n x e, .fin k y g =>
    if x = 0 ∧ y = 0 then ⟨.fin (if n = k then n else zneg) 0 0, false⟩
    else
      let e0 := min e g
      let v := finAt n x e e0 + finAt k y g e0
      if v = 0 then ⟨.fin zneg 0 0, false⟩ else ⟨.fin (decide (v < 0)) v.natAbs e0, false⟩

/-- The sign of an exact zero sum in a rounding mode. -/
def zeroNeg (m : RMode) : Bool := decide (m = .rdn)

/-- The quotient, cut to `digits` bits below its leading bit with a sticky bit below them (R131 DIV): correctly
roundable in every format. The third component says that a finite nonzero value was divided by zero. -/
def numDiv (a b : Num) : Num × Bool × Bool :=
  let snan := numIsSnan a || numIsSnan b
  match a, b with
  | .nan _, _ => (.nan false, snan, false)
  | _, .nan _ => (.nan false, snan, false)
  | .inf _, .inf _ => (.nan false, true, false)
  | .inf n, y => (.inf (n != numNeg y), false, false)
  | x, .inf n => (.fin (n != numNeg x) 0 0, false, false)
  | .fin n x e, .fin k y g =>
    if y = 0 then
      if x = 0 then (.nan false, true, false) else (.inf (n != k), false, true)
    else
      let sh := Nat.log2 y + 128
      let num := x <<< sh
      let q := num / y
      let r := num % y
      (.fin (n != k) (2 * q + b2n (r != 0)) (e - g - sh - 1), false, false)

/-- The integer square root, bit by bit from bit `k` - 1 down. -/
def isqrtGo : Nat → Nat → Nat → Nat
  | 0, _, r => r
  | k + 1, n, r => if (r + 2 ^ k) * (r + 2 ^ k) ≤ n then isqrtGo k n (r + 2 ^ k) else isqrtGo k n r

/-- The integer square root. -/
def isqrt (n : Nat) : Nat := isqrtGo (Nat.log2 n / 2 + 1) n 0

/-- The square root, cut with a sticky bit below it; a negative nonzero operand is invalid (IEEE 754). -/
def numSqrt (a : Num) : Opd :=
  match a with
  | .nan s => ⟨.nan false, s⟩
  | .inf n => if n then ⟨.nan false, true⟩ else ⟨.inf false, false⟩
  | .fin n m e =>
    if m = 0 then ⟨.fin n 0 0, false⟩
    else if n then ⟨.nan false, true⟩
    else
      let odd := (e % 2 != 0)
      let m2 := (if odd then 2 * m else m) <<< 256
      let e2 := if odd then e - 1 else e
      let r := isqrt m2
      ⟨.fin false (2 * r + b2n (r * r != m2)) (e2 / 2 - 128 - 1), false⟩

/-- The order of two values that are not NaN; zeros of either sign are equal. -/
def numCmp (a b : Num) : Ordering :=
  match a, b with
  | .inf n, .inf k => if n = k then .eq else if n then .lt else .gt
  | .inf n, _ => if n then .lt else .gt
  | _, .inf n => if n then .gt else .lt
  | .fin n x e, .fin k y g =>
    let e0 := min e g
    compare (finAt n x e e0) (finAt k y g e0)
  | _, _ => .eq

/-- minimumNumber and maximumNumber of IEEE 754-2019: a NaN beside a number gives the number, −0 is below +0. -/
def numMinMax (wantMax : Bool) (a b : Num) : Opd :=
  let snan := numIsSnan a || numIsSnan b
  match numIsNan a, numIsNan b with
  | true, true => ⟨.nan false, snan⟩
  | true, false => ⟨b, snan⟩
  | false, true => ⟨a, snan⟩
  | false, false =>
    match numCmp a b with
    | .lt => ⟨if wantMax then b else a, false⟩
    | .gt => ⟨if wantMax then a else b, false⟩
    | .eq => ⟨if numNeg a = wantMax then b else a, false⟩

/-- One step of the rounding generator (R46). -/
def lfsrStep (s : Nat) : Nat := if s % 2 = 1 then (s >>> 1) ^^^ 0x80200003 else s >>> 1

/-- `n` steps of the rounding generator. -/
def lfsrSteps : Nat → Nat → Nat
  | 0, s => s
  | n + 1, s => lfsrSteps n (lfsrStep s)

/-- One draw: the generator after 16 steps, and r16 = s[15:0] (R47). -/
def lfsrDraw (s : Nat) : Nat × Nat :=
  let s' := lfsrSteps 16 s
  (s', s' % 65536)

/-- The generator's load at the start of a tile (R47). -/
def lfsrLoad (seed key : Nat) : Nat := if seed ^^^ key = 0 then 1 else seed ^^^ key

end Sys2Proof.Machine
end

