-- ==== Sys2Proof/Machine/HomeOps.lean ====
section
/-! DEFINITION. Shared operations at a line's home: the directory entry (R210), the near-memory cache with the Eaves,
the Transom and the prefetcher (R242 to R249), and what a read or a store of a line does to its poison mark (R240,
R241). -/

namespace Sys2Proof.Machine

/-! ## Holders and entries -/

/-- A die cache's state of a line. -/
def holdSt (s : Node) (d line : Nat) : Moesi := (tblGet DcLine.absent (dieOf s d).cache.lines line).st

/-- A line's directory entry at its home. -/
def dirEntry (s : Node) (line : Nat) : DirEntry := tblGet DirEntry.none (dirOf s (homeOf s line)).entries line

/-- Rewrites a line's directory entry; DI removes it, and a new entry takes the next age (R211). -/
def modEntry (s : Node) (line : Nat) (f : DirEntry → DirEntry) : Node :=
  modDir s (homeOf s line) fun x =>
    let old := tblGet DirEntry.none x.entries line
    let e := f old
    if e.st = .di then { x with entries := tblErase x.entries line, bad := dropLine line x.bad }
    else if old.st = .di then
      { x with entries := tblSet DirEntry.none x.entries line { e with age := x.age }, age := x.age + 1 }
    else { x with entries := tblSet DirEntry.none x.entries line { e with age := old.age } }

/-! ## The near-memory cache -/

/-- Requester classes (R244). -/
def clsGable : Nat := 0
def clsHost : Nat := 1
def clsDma : Nat := 2
/-- Walks, and the translation unit's other requests, which R244 takes out of DMA. DESIGN CHOICE (log entry 182) for the
latter; the bytes that a mover copies are in the DMA class (R273). -/
def clsWalk : Nat := 3

/-- The ways a class may fill. -/
def wayMask (s : Node) (b cls : Nat) : Nat := wbits (regGet s (bLoc .nmcWaymask b)) (16 * cls + 15) (16 * cls)

/-- The first way's key of a line's set: set R[21:0] (R242). -/
def nmcSet (s : Node) (line : Nat) : Nat := localLine s line % 2 ^ 22 * 16

/-- The way that holds a line. -/
def nmcWay (s : Node) (b line : Nat) : Option Nat :=
  firstBelow 16 fun w => match tblGet none (nmcOf s b).ways (nmcSet s line + w) with
    | some l => l.line == line
    | none => false

/-- A line of the Eaves. -/
def eavesLine (s : Node) (b line : Nat) : Option NmcLine := (nmcOf s b).eaves.find? fun l => l.line == line

/-- The near-memory copy of a line: of the cache or the Eaves. -/
def nmcCopy (s : Node) (b line : Nat) : Option NmcLine :=
  match nmcWay s b line with
  | some w => tblGet none (nmcOf s b).ways (nmcSet s line + w)
  | none => eavesLine s b line

/-- Whether the near-memory cache or the Eaves of a line's home holds it. -/
def nmcHolds (s : Node) (line : Nat) : Bool :=
  (nmcWay s (homeOf s line) line).isSome || (eavesLine s (homeOf s line) line).isSome

/-- A line of the Transom. -/
def transomLine (s : Node) (b line : Nat) : Option NmcLine := (nmcOf s b).transom.find? fun l => l.line == line

/-! ## Poison marks (R239 to R242): each copy of a line carries its own -/

/-- The mark of the memory copy that the home would read: the near-memory cache's or the Eaves', else the Transom's, else
that of HBM. -/
def memPoison (s : Node) (line : Nat) : Bool :=
  let b := homeOf s line
  if nmcServes s b then
    match nmcCopy s b line with
    | some l => l.poison
    | none => match transomLine s b line with
      | some l => l.poison
      | none => s.poison.contains line
  else s.poison.contains line

/-- The mark of the copy that the home supplies: an owner's, else memory's. -/
def isPoisoned (s : Node) (line : Nat) : Bool :=
  match supplier s line with
  | some d => (dcCopy s d line).poison
  | none => memPoison s line

/-- The mark that a unit of a compute die meets (12: none): its die cache's own copy's, else that of the copy supplied. -/
def diePoison (s : Node) (d line : Nat) : Bool :=
  if holdSt s d line = .i then isPoisoned s line else (tblGet DcLine.absent (dieOf s d).cache.lines line).poison

/-- Whether any line of a range is poisoned. -/
def anyPoison (s : Node) (a n : Nat) : Bool :=
  (List.range (lineOf (a + n - 1) + 1 - lineOf a)).any fun i => isPoisoned s (lineOf a + i)

/-- Takes away a copy that differs from the line's contents. -/
def dropAlt (s : Node) (line who : Nat) : Node := { s with stale := tblErase s.stale (copyKey line who) }

/-- The near-memory copy of a line is current again, or is gone. -/
def dropStale (s : Node) (line : Nat) : Node := dropAlt s line 12

/-- A compute die is sent a copy of a line that holds these bytes; none: the line's contents. -/
def giveCopy (s : Node) (line d : Nat) (l : List Byte) : Node :=
  { s with stale := tblSet [] s.stale (copyKey line d) l }

/-- Before the contents of a line change, the copy that its near-memory cache keeps is noted (R253). -/
def keepCopy (s : Node) (line : Nat) : Node :=
  if dirtyHeld s line || decide (tblGet [] s.stale (copyKey line 12) ≠ []) || !nmcHolds s line then s
  else { s with stale := tblSet [] s.stale (copyKey line 12)
                  ((List.range lineBytes).map fun i => tblGet memDefault s.mem (line * lineBytes + i)) }

/-- The contents of a line become those of one of its copies, which its holder is about to change (R256). -/
def takeCopy (s : Node) (line who : Nat) : Node :=
  match tblGet [] s.stale (copyKey line who) with
  | [] => s
  | l => dropAlt (writeBytes s (line * lineBytes) l) line who

/-- Before a compute die changes its copy of a line. -/
def noteCopy (s : Node) (d line : Nat) : Node := takeCopy (keepCopy s line) line d

/-- Before the home changes the memory copy of a line that no die holds. -/
def noteMemory (s : Node) (line : Nat) : Node :=
  keepCopy (if nmcServes s (homeOf s line) then takeCopy s line 12 else s) line

/-- A line is written to HBM with its mark. -/
def wroteHbm (s : Node) (line : Nat) (poison : Bool) : Node :=
  { s with poison := if poison then insertRising line s.poison else dropLine line s.poison }

/-- Puts a victim of the cache into the Eaves; when it is full its oldest entry leaves, written to HBM if dirty
(R246, R247). -/
def eavesPush (s : Node) (b : Nat) (v : NmcLine) : Node :=
  match (nmcOf s b).eaves with
  | [] => modNmc s b fun x => { x with eaves := [v] }
  | old :: rest =>
    if rest.length + 1 ≥ 512 then
      let s1 := dropStale (modNmc s b fun x => { x with eaves := rest ++ [v] }) old.line
      if old.dirty then wroteHbm (cntAdd s1 (bLoc .nmcWritebacks b) 1) old.line old.poison else s1
    else modNmc s b fun x => { x with eaves := x.eaves ++ [v] }

/-- Fills a line with its mark into its set for a class (R245): the lowest invalid allowed way, else a victim that the
replacement generator draws, which goes to the Eaves. A class that may not allocate fills nothing. -/
def nmcFill (s : Node) (b cls line : Nat) (dirty poison : Bool) : Node :=
  let m := wayMask s b cls
  let set := nmcSet s line
  let n := nmcOf s b
  if m = 0 then s
  else match firstBelow 16 (fun w => bit m w && (tblGet none n.ways (set + w)).isNone) with
  | some w => modNmc s b fun x => { x with ways := tblSet none x.ways (set + w) (some ⟨line, dirty, poison⟩) }
  | none =>
    let g := lfsrStep n.gen
    let w := (ones 16 m).getD (g % 65536 * popCount 16 m / 65536) 0
    let s1 := modNmc s b fun x => { x with gen := g, ways := tblSet none x.ways (set + w) (some ⟨line, dirty, poison⟩) }
    match tblGet none n.ways (set + w) with
    | some v => eavesPush s1 b v
    | none => s1

/-- Rewrites the cache's or the Eaves' copy of a line. -/
def nmcMark (s : Node) (b line : Nat) (dirty poison : Bool) : Node :=
  match nmcWay s b line with
  | some w => modNmc s b fun x => { x with ways := tblSet none x.ways (nmcSet s line + w) (some ⟨line, dirty, poison⟩) }
  | none => modNmc s b fun x => { x with eaves := x.eaves.map fun l => if l.line = line then ⟨line, dirty, poison⟩ else l }

/-- Requests a prefetch of a line (R248): lines homed elsewhere, outside HBM or already present are skipped. -/
def prefetch (s : Node) (b : Nat) (line : Int) : Node :=
  let l := line.toNat
  let n := nmcOf s b
  if line < 0 ∨ !inHbm s (l * lineBytes) lineBytes ∨ homeOf s l ≠ b ∨ nmcHolds s l ∨
      n.transom.any (fun x => x.line == l) ∨ n.prefetches.contains l then s
  else modNmc s b fun x => { x with prefetches := x.prefetches ++ [l] }

/-- NMC_PF.DEPTH as it acts. -/
def pfDepth (s : Node) (b : Nat) : Nat := min 16 (max 1 (fGet s (bLoc .nmcPf b) fNmcPfDepth))

/-- A cache miss trains the stride trackers and may start prefetches (R248). -/
def trainTrackers (s : Node) (b cls line : Nat) : Node :=
  if !bit (fGet s (bLoc .nmcPf b) fNmcPfPfEn) cls then s
  else
    let win := max 1 (fGet s (bLoc .nmcPf b) fNmcPfWindow)
    let near := fun (t : Tracker) => decide ((Int.ofNat line - Int.ofNat t.last).natAbs ≤ win)
    match (nmcOf s b).trackers.find? near with
    | none => modNmc s b fun x => { x with trackers := (⟨line, 0, 0⟩ :: x.trackers).take 32 }
    | some t =>
      let d := Int.ofNat line - Int.ofNat t.last
      let hits := if d = 0 then t.hits else if d = t.delta then t.hits + 1 else 1
      let t1 : Tracker := ⟨line, if d = 0 then t.delta else d, hits⟩
      let s1 := modNmc s b fun x => { x with trackers := t1 :: dropFirst near x.trackers }
      if d = 0 ∨ hits < 3 then s1
      else if hits = 3 then (List.range (pfDepth s b)).foldl (fun s i => prefetch s b (line + d * (i + 1))) s1
      else prefetch s1 b (line + d * pfDepth s b)

/-- A read of the memory copy of a line for a class (R243, R246, R249, R252, R253): what is filled carries the mark of the
copy it is filled from. -/
def nmcRead (s : Node) (cls line : Nat) : Node :=
  let b := homeOf s line
  let st := ctrlState s (bLoc .nmcCtrl b)
  if st = stOn then
    if (nmcWay s b line).isSome then cntAdd s (bLoc .nmcHits b) 1
    else
      let s0 := trainTrackers s b cls line
      match eavesLine s0 b line, transomLine s0 b line with
      | some l, _ =>
        let s1 := cntAdd s0 (bLoc .eavesHits b) 1
        if wayMask s b cls = 0 then s1
        else nmcFill (modNmc s1 b fun x => { x with eaves := x.eaves.filter fun y => y.line ≠ line }) b cls line l.dirty l.poison
      | none, some l =>
        let s1 := modNmc s0 b fun x => { x with transom := x.transom.filter fun y => y.line ≠ line }
        nmcFill (cntAdd s1 (bLoc .transomHits b) 1) b cls line false l.poison
      | none, none => nmcFill (cntAdd s0 (bLoc .nmcMisses b) 1) b cls line false (s0.poison.contains line)
  else if st = stDisabling ∨ st = stPending then
    if (nmcWay s b line).isSome then cntAdd s (bLoc .nmcHits b) 1
    else if (eavesLine s b line).isSome then cntAdd s (bLoc .eavesHits b) 1
    else cntAdd s (bLoc .nmcMisses b) 1
  else s

/-- Every write to a line removes it from the Transom and from the prefetches under way (R249). -/
def dropTransom (s : Node) (b line : Nat) : Node :=
  let hit := (nmcOf s b).transom.any fun l => l.line == line
  let s1 := modNmc s b fun x => { x with
    transom := x.transom.filter fun l => l.line ≠ line
    prefetches := dropLine line x.prefetches }
  if hit then cntAdd s1 (bLoc .transomUnused b) 1 else s1

/-- Whether a near-memory cache holds any valid line. -/
def nmcAny (s : Node) (b : Nat) : Bool := decide ((nmcOf s b).ways ≠ []) || decide ((nmcOf s b).eaves ≠ [])

/-- A write of the memory copy of a line for a class, the contents being noted and written already (R243, R246, R252,
R253, R255). A partial write leaves the mark of the copy it is merged into in place, that of HBM where the cache does not
hold the line (R237, R240); `poison` marks what is written. -/
def nmcWrite (s : Node) (cls line : Nat) (full poison : Bool) : Node :=
  let b := homeOf s line
  let s0 := dropTransom s b line
  let st := ctrlState s (bLoc .nmcCtrl b)
  let mark := fun (old : Bool) => poison || (!full && old)
  let inHbm := fun (s : Node) => wroteHbm s line (mark (s.poison.contains line))
  if st = stOn then
    match nmcWay s b line, eavesLine s b line with
    | some w, _ =>
      let old := (tblGet none (nmcOf s b).ways (nmcSet s line + w)).elim false (·.poison)
      dropStale (nmcMark (cntAdd s0 (bLoc .nmcHits b) 1) b line true (mark old)) line
    | none, some l =>
      let s2 := dropStale (cntAdd (trainTrackers s0 b cls line) (bLoc .eavesHits b) 1) line
      if wayMask s b cls = 0 then nmcMark s2 b line true (mark l.poison)
      else nmcFill (modNmc s2 b fun x => { x with eaves := x.eaves.filter fun y => y.line ≠ line }) b cls line true (mark l.poison)
    | none, none =>
      let s2 := cntAdd (trainTrackers s0 b cls line) (bLoc .nmcMisses b) 1
      if wayMask s b cls = 0 then inHbm s2 else nmcFill s2 b cls line true (mark (s.poison.contains line))
  else if st = stDisabling ∨ st = stPending ∨ (st = stEnabling ∧ (nmcOf s b).current) then
    match nmcCopy s b line with
    | some l =>
      let cnt := if (nmcWay s b line).isSome then bLoc .nmcHits b else bLoc .eavesHits b
      wroteHbm (dropStale (nmcMark (cntAdd s0 cnt 1) b line false (mark l.poison)) line) line (mark l.poison)
    | none => inHbm (cntAdd s0 (bLoc .nmcMisses b) 1)
  else if st ≠ stFaulted ∧ nmcAny s b then inHbm (fSet s0 (bLoc .nmcStatus b) fNmcStatusStaleSinceDisable 1)
  else inHbm s0

/-! ## Reads and stores of a line -/

/-- The lines of a core's caches without one. -/
def dropCoreLine (x : HostCore) (line : Nat) : HostCore :=
  { x with
    resv := if x.resv = some line then none else x.resv
    caches := ⟨dropLine line x.caches.l1i, dropLine line x.caches.l1d, x.caches.l2.filter fun p => p.1 != line⟩ }

/-- Whether a core's caches or its reservation hold a line. -/
def coreHolds (x : HostCore) (line : Nat) : Bool := x.resv == some line || x.caches.l2.any fun p => p.1 == line

/-- A line leaves the caches of a die's cores, but those of core `keep`, and with it their reservations on it (R205,
R223). -/
def breakCores (s : Node) (d line keep : Nat) : Node :=
  if (dieOf s d).cores.any (fun (c, x) => c != keep && coreHolds x line) then
    modDie s d fun x => { x with
      cores := x.cores.map fun (c, h) => if c ≠ keep ∧ coreHolds h line = true then (c, dropCoreLine h line) else (c, h) }
  else s

/-- The cores of a die hold a line no more strongly than in S (R205). -/
def weakenCores (s : Node) (d line : Nat) : Node :=
  if (dieOf s d).cores.any (fun (_, x) => x.caches.l2.any fun p => p.1 == line && decide (p.2 ≠ .s)) then
    modDie s d fun x => { x with cores := x.cores.map fun (c, h) => (c, { h with
      caches := { h.caches with l2 := h.caches.l2.map fun p => if p.1 = line then (line, .s) else p } }) }
  else s

/-- Sets a die cache's state of a line. M takes its copy's bytes as the line's contents; I removes the line from the cores'
caches too, and its bytes unless the writeback buffer keeps it; a weaker state weakens the cores' (R205, R209). -/
def setHold (s : Node) (d line : Nat) (st : Moesi) : Node :=
  let s0 := match st with
    | .m => noteCopy s d line
    | .i =>
      let s1 := breakCores s d line 8
      if (dieOf s d).cache.evicting.any fun p => p.1 == line then s1 else dropAlt s1 line d
    | .e => s
    | .o => weakenCores s d line
    | .s => weakenCores s d line
  modCache s0 d fun c =>
    if st = .i then { c with lines := tblErase c.lines line }
    else { c with lines := tblMod DcLine.absent c.lines line fun x => { x with st := st } }

/-- Whether a fenced die still holds the only current copy of a line, which a request that reaches the line loses (R219,
R220). -/
def lostWithDie (s : Node) (line : Nat) : Bool :=
  (List.range 12).any fun d => isFenced s d && (decide ((dcCopy s d line).st = .m) || decide ((dcCopy s d line).st = .o))

/-- Whether a read of a line by a unit of a compute die (12: none) meets a poison mark (R240, R241): that of the copy it is
served from, or the loss of the line's dirty data with a fenced die (R219). -/
def readsPoison (s : Node) (d line : Nat) : Bool := diePoison s d line || lostWithDie s line

/-- A store into the line that a die cache holds in M; a full-line store clears its mark, another leaves it (R229, R240). -/
def mergeStore (s : Node) (d line : Nat) (bytes : List (Nat × Byte)) : Node :=
  let s1 := writeList s (bytes.map fun (o, v) => (line * lineBytes + o, v))
  if allBelow lineBytes (fun i => bytes.any (fun p => p.1 == i)) then
    modCache s1 d fun c => { c with lines := tblMod DcLine.absent c.lines line fun x => { x with poison := false } }
  else s1

/-- The lines of a range of bytes, rising. -/
def linesOf (a n : Nat) : List Nat := (List.range (lineOf (a + n - 1) + 1 - lineOf a)).map (lineOf a + ·)

end Sys2Proof.Machine
end

