-- ==== Sys2Proof/Machine/CacheOps.lean ====
section
/-! DEFINITION. Shared operations on lines: what a die cache holds (R205, R209), misses sent to the home (R207, R208),
stores that wait for M (R229), and remote accesses (R335). -/

namespace Sys2Proof.Machine

/-- A request arrives at a line's home over the path in force, where it waits in order of arrival (R14, R207, R290). A die
cache's miss keeps the path of its request. -/
def atHome (s : Node) (r : HomeReq) : Node :=
  let path := messagePath s r.base (homeOf s r.line) (some r.line) 0
  let s1 := modDir s (homeOf s r.line) fun x => { x with queue := x.queue ++ [{ r with path := path }] }
  match r.src with
  | .die d => modCache s1 d fun c => { c with misses := modFirst (fun m => m.line == r.line) (fun m => { m with path := path }) c.misses }
  | .other _ => s1

/-- Sends a request to a line's home: it arrives there, unless a route switch holds it back (R291). -/
def sendHome (s : Node) (r : HomeReq) : Node :=
  if lineHeld s r.base (homeOf s r.line) r.line then modNet s fun n => { n with held := n.held ++ [r] } else atHome s r

/-- A request of a die cache, without bytes. -/
def plainReq (k : ReqKind) (line d : Nat) : HomeReq := ⟨k, line, .die d, [], false, 0, 0, 0, d / 3, []⟩

/-- Whether a die cache has a miss outstanding on a line. -/
def hasMiss (s : Node) (d line : Nat) : Bool := (dieOf s d).cache.misses.any (fun m => m.line == line)

/-- Whether a die cache holds a line as an access needs it: to read, in any state; to write, in M or E (R209). -/
def serves (s : Node) (d line : Nat) (write : Bool) : Bool :=
  let st := holdSt s d line
  decide (st = .m) || decide (st = .e) || (!write && decide (st ≠ .i))

/-- Asks the home for a line: RdS to read, RdX to write, Upg to write a line held in S or O (R209). One request per
line is outstanding at a die cache, and at most 512; a further one waits until a miss ends (R208). -/
def sendMiss (s : Node) (d line : Nat) (write : Bool) (by_ : FillBy) : Node :=
  if hasMiss s d line || serves s d line write then s
  else if (dieOf s d).cache.misses.length ≥ 512 then
    if (dieOf s d).cache.waiting.any (fun w => w.1 == line && (w.2.1 || !write)) then s
    else modCache s d fun c => { c with waiting := c.waiting ++ [(line, write, by_)] }
  else
    let st := holdSt s d line
    let kind := if !write then ReqKind.rds else if st = .s || st = .o then .upg else .rdx
    let s1 := modCache s d fun c => { c with misses := c.misses ++ [⟨line, kind, by_, false, none, 0, none, false, 0, [], []⟩] }
    sendHome s1 (plainReq kind line d)

/-- A lookup of a line that misses: it is counted (R230), and the home is asked unless it has been. -/
def askLine (s : Node) (d line : Nat) (write : Bool) (by_ : FillBy) : Node :=
  sendMiss (cntAdd s (dLoc .dcMisses d) 1) d line write by_

/-- A lookup that an operation repeats while it waits for its line is counted once. -/
def askOnce (s : Node) (d line : Nat) (write : Bool) (by_ : FillBy) : Node :=
  if hasMiss s d line || (dieOf s d).cache.waiting.any (fun w => w.1 == line && (w.2.1 || !write)) then s
  else askLine s d line write by_

/-! ## The caches of the host cores (R205, R223) -/

/-- A core's bit in a miss: of its data accesses, and 8 higher of its fetches; units without a cache of their own have
none. -/
def coreBit (core : Nat) (fetch : Bool) : Nat := if core < 8 then 1 <<< (core + 8 * b2n fetch) else 0

/-- A line enters an L1 cache of 32 sets of 16 ways, in place of a victim where its set is full. -/
def l1Take (core line : Nat) (l : List Nat) : List Nat :=
  if l.contains line then l
  else
    let set := l.filter fun x => x % 32 = line % 32
    (if set.length < 16 then l else dropLine (set.getD (Config.coreVictim core line set.length % set.length) 0) l) ++ [line]

/-- Makes room in a core's L2, 512 sets of 16 ways: a victim leaves all three caches, with the core's reservation on it
and its bit of the presence vector (R205, R223). -/
def l2Room (s : Node) (d core line : Nat) : Node :=
  let set := (coreOf s (8 * d + core)).caches.l2.filter fun p => p.1 % 512 = line % 512
  if set.any (fun p => p.1 == line) || decide (set.length < 16) then s
  else
    let v := (set.getD (Config.coreVictim (8 * d + core) line set.length % set.length) (0, .i)).1
    modCache (modCore s (8 * d + core) fun h => dropCoreLine h v) d fun c => { c with
      lines := tblMod DcLine.absent c.lines v fun x => { x with cores := x.cores - (x.cores &&& 1 <<< core) } }

/-- A core of a die takes a line that its die cache holds into its caches, in a state (R205). -/
def coreTake (s : Node) (d line core : Nat) (fetch : Bool) (st : Moesi) : Node :=
  if core ≥ 8 then s
  else
    let c := 8 * d + core
    modCore (l2Room s d core line) c fun h => { h with caches := {
      l1i := if fetch then l1Take c line h.caches.l1i else h.caches.l1i
      l1d := if fetch then h.caches.l1d else l1Take c line h.caches.l1d
      l2 := if h.caches.l2.any fun p => p.1 == line
        then h.caches.l2.map fun p => if p.1 = line ∧ st ≠ .s then (line, st) else p
        else h.caches.l2 ++ [(line, st)] } }

/-- A core of a die reads a line: one that its die cache holds enters its caches, in E where no other core holds it and the
die cache may write it, else in S with the others' copies weakened; of a line still to come the miss keeps the core (R205). -/
def noteCore (s : Node) (d line core : Nat) (fetch : Bool) : Node :=
  let x := tblGet DcLine.absent (dieOf s d).cache.lines line
  if x.st = .i then modCache s d fun c => { c with
    misses := modFirst (fun m => m.line == line) (fun m => { m with cores := m.cores ||| coreBit core fetch }) c.misses }
  else if core ≥ 8 then s
  else
    let s1 := modCache s d fun c => { c with
      lines := tblMod DcLine.absent c.lines line fun x => { x with cores := x.cores ||| 1 <<< core } }
    let alone := decide (x.cores - (x.cores &&& 1 <<< core) = 0)
    let own := decide (x.st = .m) || decide (x.st = .e)
    coreTake (if alone then s1 else weakenCores s1 d line) d line core fetch (if alone && own then .e else .s)

/-- The cores that asked for a line which has come take it. -/
def noteCores (s : Node) (d line cores : Nat) : Node :=
  (ones 16 cores).foldl (fun s i => noteCore s d line (i % 8) (decide (i ≥ 8))) s

/-- A unit of a die writes a line its die cache holds: the copies and reservations of the die's other cores end (R205,
R223), and a core that writes holds it in M. -/
def soleCore (s : Node) (d line core : Nat) : Node :=
  let s1 := modCache (breakCores s d line core) d fun c =>
    { c with lines := tblMod DcLine.absent c.lines line fun x => { x with cores := if core < 8 then 1 <<< core else 0 } }
  coreTake s1 d line core false .m

/-- The core that a unit of a die is: 16 + core names a core; any other unit is none. -/
def unitCore (gable : Nat) : Nat := if gable ≥ 16 then gable - 16 else 8

/-- A read of a line by a unit of a die: a hit, or a miss sent to the home. -/
def touchRead (s : Node) (d line : Nat) (by_ : FillBy) : Node :=
  if holdSt s d line = .i then askLine s d line false by_ else cntAdd s (dLoc .dcHits d) 1

/-- The tile a unit of a die works for: a group's, or that of the element engine's run (group 64 on). -/
def unitTile (s : Node) (d gable group : Nat) : Option TileRef :=
  if gable ≥ 16 then none
  else if group ≥ 64 then (gableOf s (16 * d + gable)).elem.main.findSome? (·.tile)
  else (groupOf s (16 * d + gable) group).tile

/-- A store of bytes of a line by a unit of a die (R209, R229), made under a translation list: merged at once in M or E,
else kept until the line is granted in M. -/
def storeLineBy (maps : List PageMap) (s : Node) (d gable group line : Nat) (by_ : FillBy) (bytes : List (Nat × Byte)) : Node :=
  match holdSt s d line with
  | .m => mergeStore (soleCore (cntAdd s (dLoc .dcHits d) 1) d line (unitCore gable)) d line bytes
  | .e => mergeStore (soleCore (setHold (cntAdd s (dLoc .dcHits d) 1) d line .m) d line (unitCore gable)) d line bytes
  | _ =>
    askLine (modCache s d fun c =>
      { c with stores := c.stores ++ [⟨gable, group, line, bytes, unitTile s d gable group, maps⟩] }) d line true by_

/-- A store without a translation list: a host core's. -/
def storeLine (s : Node) (d gable group line : Nat) (by_ : FillBy) (bytes : List (Nat × Byte)) : Node :=
  storeLineBy [] s d gable group line by_ bytes

/-- Whether stores of a unit of a die are not yet globally visible. -/
def storesPending (s : Node) (d gable group : Nat) : Bool :=
  (dieOf s d).cache.stores.any (fun p => p.gable == gable && p.group == group)

/-- Bytes grouped by the line they lie in, in order of first appearance. -/
def byLine (l : List (Nat × Byte)) : List (Nat × List (Nat × Byte)) :=
  ((l.map fun p => lineOf p.1).eraseDups).map fun n =>
    (n, (l.filter fun p => lineOf p.1 = n).map fun p => (p.1 % lineBytes, p.2))

/-- Numbers and starts a remote access (R335) made under a translation list. -/
def startRemoteBy (maps : List PageMap) (s : Node) (who : RemoteWho) (kind pa len : Nat) (bytes : List (Nat × Byte))
    (func arg cmp : Nat) : Node × Nat :=
  let win := bits pa 54 40
  let ep := fGet s (bLoc .dzWindow 0 [win]) fDzWindowEp
  let r : RemoteReq := ⟨s.remoteId, who, kind, win, ep, bits pa 39 0, len, bytes, func, arg, cmp, false, false, [], none, maps⟩
  ({ s with remotes := s.remotes ++ [r], remoteId := s.remoteId + 1 }, s.remoteId)

/-- Numbers and starts a remote access without a translation list. -/
def startRemote (s : Node) (who : RemoteWho) (kind pa len : Nat) (bytes : List (Nat × Byte)) (func arg cmp : Nat) :
    Node × Nat := startRemoteBy [] s who kind pa len bytes func arg cmp

/-- Whether one of the reads of `n` bytes at these addresses touches a byte. -/
def readTouches (l : List Nat) (n b : Nat) : Bool := l.any fun a => decide (a ≤ b) && decide (b < a + n)

/-- The first and the last byte of the contiguous bytes that the reads touch around an address, within its 4 KiB page. -/
def runDown (l : List Nat) (n : Nat) : Nat → Nat → Nat
  | 0, a => a
  | k + 1, a => if a % 4096 ≠ 0 ∧ readTouches l n (a - 1) = true then runDown l n k (a - 1) else a
def runUp (l : List Nat) (n : Nat) : Nat → Nat → Nat
  | 0, a => a
  | k + 1, a => if (a + 1) % 4096 ≠ 0 ∧ readTouches l n (a + 1) = true then runUp l n k (a + 1) else a

/-- A copy engine or an element engine asks for the contiguous bytes of one 4 KiB page, around an address, that its reads of
`n` bytes touch: one LOAD of up to 4,096 bytes (R335). -/
def askRun (maps : List PageMap) (s : Node) (who : RemoteWho) (l : List Nat) (n a : Nat) : Node :=
  let lo := runDown l n 4096 a
  (startRemoteBy maps s who 0 lo (runUp l n 4096 a + 1 - lo) [] 0 0 0).1

/-- The remote access of a requester that covers an address, answered or not. -/
def remoteAt (s : Node) (who : RemoteWho) (pa : Nat) : Option RemoteReq :=
  s.remotes.find? fun r => r.who == who && r.window == bits pa 54 40 && decide (r.addr ≤ bits pa 39 0) &&
    decide (bits pa 39 0 < r.addr + r.len)

/-- Its bytes from an address on. -/
def remoteFrom (r : RemoteReq) (pa : Nat) : List Byte := ((r.result.map (·.2)).getD []).drop (bits pa 39 0 - r.addr)

/-- Whether a window index names a valid endpoint (R335). -/
def windowValid (s : Node) (pa : Nat) : Bool := fGet s (bLoc .dzWindow 0 [bits pa 54 40]) fDzWindowValid == 1

/-- Removes a remote access that has been taken. -/
def takeRemote (s : Node) (id : Nat) : Node := { s with remotes := s.remotes.filter fun r => r.id ≠ id }

/-- The record of a failed remote access (R337): the remote address in ADDR, window index and endpoint in DETAIL. -/
def logRemote (s : Node) (scope block code pa : Nat) (more : List (Nat × Nat)) : Node :=
  logErr s scope block code (bits pa 39 0)
    ([(2, bits pa 54 40), (4, fGet s (bLoc .dzWindow 0 [bits pa 54 40]) fDzWindowEp)] ++ more)

/-- A group's load or AMO in the remote window fails (R113, R337) at the instruction at `pc`: a precise fault, whose one
record carries the fields of R337 and then the group, its program counter and the code. Poisoned bytes come with the record
of their consumer (R241, R547). -/
def stopRemoteAt (s : Node) (g k code pa pc : Nat) : Node :=
  if code = ePoison then stopPoisonAt s g k 0 (lineOf pa) pc
  else halt (logRemote s (g / 16) (g % 16 + 1) code pa [(1, k), (8, pc), (2, code)]) g k code pc

/-- The same at the instruction the group presents. -/
def stopRemote (s : Node) (g k code pa : Nat) : Node := stopRemoteAt s g k code pa (faultPc (groupOf s g k))

/-- The physical address in the window that a remote request came from. -/
def remotePa (r : RemoteReq) : Nat := 2 ^ 55 + r.window <<< 40 + r.addr

/-- The result an AMO stores (R96): func 0 SWAP, 1 ADD, 2 AND, 3 OR, 4 XOR, 5 MIN, 6 MAX, 7 MINU, 8 MAXU, 9 CAS, 10 FADD
rounding to nearest even; 11 and 12, LOAD and STORE, are Dziger's alone (R336). Operands count at the operation's size. -/
def amoResult (func size old arg cmp : Nat) : Nat :=
  let w := 8 * size
  let a := arg % 2 ^ w
  match func with
  | 0 => a
  | 1 => (old + a) % 2 ^ w
  | 2 => old &&& a
  | 3 => old ||| a
  | 4 => old ^^^ a
  | 5 => if signed w old ≤ signed w a then old else a
  | 6 => if signed w old ≥ signed w a then old else a
  | 7 => min old a
  | 8 => max old a
  | 9 => if old = cmp % 2 ^ w then a else old
  | 10 =>
    let f := if size = 4 then Fmt.fp32 else Fmt.fp64
    (deliver f .rne 0 false (numAdd false (numOfCode f old) (numOfCode f a)).val).code
  | 11 => old
  | 12 => a
  | _ => old

end Sys2Proof.Machine
end

