-- ==== Sys2Proof/Machine/DictTable.lean ====
section
/-! DEFINITION. The entries of the Corud object dictionary (20_corud_dictionary.md and the tables of the chapters that
define them): types (R10), access codes (R11), defaults, persistence classes (R476) and stated ranges. -/

namespace Sys2Proof.Machine

/-- Dictionary value types (R10). -/
inductive DTy where
  | bool | u8 | u16 | u32 | u64 | i32 | f32 | str | domain
  deriving DecidableEq, Repr

/-- Dictionary access codes (R11). -/
inductive DAcc where
  | ro | rw | wo | rws
  deriving DecidableEq, Repr

/-- Persistence classes (R476); `none` for entries that hold no value. -/
inductive DCls where
  | factory | stored | volatile | computed | fuse | none
  deriving DecidableEq, Repr

/-- An entry, or a run of entries, of one index: subindexes lo to hi. -/
structure DEntry where
  idx : Nat
  lo : Nat
  hi : Nat
  ty : DTy
  acc : DAcc
  cls : DCls
  dflt : Nat                 -- default of a numeric entry
  deriving DecidableEq, Repr

/-- Identity and communication entries (R473, R517, R542). -/
def dictIdentity : List DEntry := [
  ⟨0x1000, 1, 4, .str, .ro, .factory, 0⟩,
  ⟨0x1001, 1, 1, .u64, .ro, .factory, 0⟩,
  ⟨0x1002, 1, 1, .domain, .ro, .factory, 0⟩,
  ⟨0x1003, 1, 1, .domain, .ro, .factory, 0⟩,
  ⟨0x1010, 1, 1, .u8, .rw, .stored, 0⟩,
  ⟨0x1010, 2, 2, .bool, .rw, .stored, 0⟩,
  ⟨0x1010, 3, 3, .u8, .rw, .stored, 0x3A⟩,
  ⟨0x1010, 4, 4, .u64, .rw, .volatile, 0⟩,
  ⟨0x1010, 5, 5, .u16, .rw, .stored, 0x64⟩,
  ⟨0x1010, 6, 6, .u16, .rw, .volatile, 0x3F⟩,
  ⟨0x1010, 7, 7, .u16, .wo, .none, 0⟩,
  ⟨0x1F00, 1, 1, .u16, .rw, .volatile, 0⟩,
  ⟨0x1F00, 2, 2, .u8, .wo, .none, 0⟩,
  ⟨0x1F00, 3, 3, .u8, .ro, .volatile, 0⟩,
  ⟨0x1F00, 4, 4, .u32, .ro, .volatile, 0⟩,
  ⟨0x1F00, 5, 5, .u64, .wo, .none, 0⟩,
  ⟨0x1F00, 6, 6, .u64, .ro, .volatile, 0⟩,
  ⟨0x1F00, 7, 7, .u32, .ro, .volatile, 0⟩,
  ⟨0x1F01, 1, 1, .u32, .rw, .volatile, 0⟩,
  ⟨0x1F01, 2, 2, .domain, .ro, .computed, 0⟩,
  ⟨0x1F01, 3, 3, .u16, .ro, .computed, 0⟩]

/-- Power and memory entries (19_power_louvre.md, R236). -/
def dictPower : List DEntry := [
  ⟨0x2000, 1, 1, .u16, .rw, .stored, 0x960⟩,
  ⟨0x2000, 2, 2, .u8, .rw, .stored, 0x64⟩,
  ⟨0x2000, 3, 3, .u8, .rw, .stored, 0x5A⟩,
  ⟨0x2000, 4, 4, .u8, .rw, .stored, 7⟩,
  ⟨0x2000, 5, 5, .u8, .rw, .stored, 4⟩,
  ⟨0x2000, 6, 6, .u16, .rw, .stored, 0x5AA⟩,
  ⟨0x2001, 1, 1, .u64, .rw, .volatile, 0⟩,
  ⟨0x2001, 2, 2, .u16, .rw, .stored, 0x4B0⟩,
  ⟨0x2002, 1, 4, .f32, .ro, .computed, 0⟩,
  ⟨0x2002, 5, 6, .u16, .ro, .computed, 0⟩,
  ⟨0x2002, 7, 7, .u32, .ro, .computed, 0⟩,
  ⟨0x2003, 1, 1, .domain, .rw, .stored, 0⟩,
  ⟨0x2003, 2, 2, .bool, .rw, .stored, 1⟩,
  ⟨0x3000, 1, 1, .u8, .rw, .stored, 0⟩,
  ⟨0x3000, 2, 2, .u16, .rw, .stored, 0⟩,
  ⟨0x3000, 3, 3, .u16, .rw, .stored, 0x18⟩]

/-- Fabric, port, Ledger, checkpoint, session and time entries (R323, R380, R412, R414, R473, 18_fabric_time.md). -/
def dictFabric : List DEntry := [
  ⟨0x4000, 1, 1, .u32, .rws, .volatile, 0⟩,
  ⟨0x4000, 2, 3, .u16, .rws, .volatile, 0⟩,
  ⟨0x4010, 1, 2, .domain, .rws, .volatile, 0⟩,
  ⟨0x4020, 1, 0x10, .u32, .rws, .volatile, 0⟩,
  ⟨0x4030, 1, 0x10, .u32, .rw, .stored, 0⟩,
  ⟨0x4030, 0x11, 0x14, .u32, .rw, .stored, 3⟩,
  ⟨0x4100, 1, 1, .u8, .rws, .volatile, 0⟩,
  ⟨0x4100, 2, 2, .u32, .rws, .volatile, 0⟩,
  ⟨0x4100, 3, 3, .u64, .rws, .volatile, 0⟩,
  ⟨0x4100, 4, 4, .u16, .rws, .volatile, 0⟩,
  ⟨0x4100, 5, 5, .u64, .rws, .volatile, 0⟩,
  ⟨0x4100, 6, 6, .u32, .rws, .volatile, 0⟩,
  ⟨0x4101, 1, 1, .domain, .rws, .volatile, 0⟩,
  ⟨0x4101, 2, 4, .u64, .rws, .volatile, 0⟩,
  ⟨0x4101, 5, 5, .u16, .rw, .volatile, 0x32⟩,
  ⟨0x4102, 1, 1, .u16, .rw, .stored, 5⟩,
  ⟨0x4102, 2, 5, .u16, .rw, .volatile, 0xFFFF⟩,
  ⟨0x4102, 6, 6, .u16, .rw, .stored, 0x1F4⟩,
  ⟨0x5000, 1, 1, .u8, .rw, .stored, 0⟩,
  ⟨0x5000, 2, 2, .u8, .rw, .stored, 0xFF⟩,
  ⟨0x5000, 3, 3, .i32, .rw, .stored, 0xFFFFFFFC⟩,
  ⟨0x5000, 4, 4, .u32, .rw, .stored, 0x3E8⟩,
  ⟨0x5000, 5, 5, .u8, .rw, .stored, 0⟩,
  ⟨0x5000, 6, 6, .u16, .rw, .stored, 0xA⟩,
  ⟨0x5000, 7, 7, .u32, .rw, .stored, 0x3E8⟩]

/-- Life-cycle, telemetry and test entries (R475, R517, R520, R542). -/
def dictLife : List DEntry := [
  ⟨0x7000, 1, 1, .u8, .ro, .fuse, 0⟩,
  ⟨0x7000, 2, 2, .domain, .ro, .computed, 0⟩,
  ⟨0x7000, 3, 3, .domain, .wo, .none, 0⟩,
  ⟨0x7001, 1, 2, .u64, .ro, .fuse, 0⟩,
  ⟨0x7001, 3, 3, .u8, .wo, .none, 0⟩,
  ⟨0x7001, 4, 4, .u16, .ro, .fuse, 0⟩,
  ⟨0x7001, 5, 5, .domain, .wo, .none, 0⟩,
  ⟨0x7001, 6, 6, .u8, .wo, .none, 0⟩,
  ⟨0x7002, 1, 2, .u8, .rw, .stored, 0⟩,
  ⟨0x7003, 1, 1, .u8, .wo, .none, 0⟩,
  ⟨0x7004, 1, 1, .domain, .wo, .none, 0⟩,
  ⟨0x7010, 1, 0x80, .domain, .wo, .none, 0⟩,
  ⟨0x7011, 1, 0x80, .domain, .wo, .none, 0⟩,
  ⟨0x7011, 0x81, 0x81, .u32, .wo, .none, 0⟩,
  ⟨0x7012, 1, 0x80, .domain, .wo, .none, 0⟩,
  ⟨0x7013, 1, 0x80, .domain, .wo, .none, 0⟩,
  ⟨0x7020, 1, 1, .domain, .wo, .none, 0⟩,
  ⟨0x7020, 2, 3, .domain, .ro, .computed, 0⟩,
  ⟨0x7020, 4, 4, .domain, .wo, .none, 0⟩,
  ⟨0x8000, 1, 2, .u16, .ro, .computed, 0⟩,
  ⟨0x8000, 3, 3, .u8, .ro, .computed, 0⟩,
  ⟨0x8000, 4, 4, .u64, .ro, .computed, 0⟩,
  ⟨0x8000, 5, 5, .u16, .ro, .computed, 0⟩,
  ⟨0x8000, 6, 6, .u8, .ro, .computed, 0⟩,
  ⟨0x8000, 7, 9, .f32, .ro, .computed, 0⟩,
  ⟨0x8000, 0xA, 0xA, .u64, .ro, .computed, 0⟩,
  ⟨0x8000, 0xB, 0xB, .u32, .ro, .computed, 0⟩,
  ⟨0x8000, 0xC, 0xC, .u8, .ro, .computed, 0⟩,
  ⟨0x8001, 1, 1, .u16, .ro, .computed, 0⟩,
  ⟨0x8002, 1, 0x10, .u64, .ro, .computed, 0⟩,
  ⟨0x8003, 1, 4, .u64, .ro, .computed, 0⟩,
  ⟨0x8010, 1, 1, .domain, .ro, .computed, 0⟩,
  ⟨0x9000, 1, 1, .bool, .rw, .volatile, 0⟩,
  ⟨0x9001, 1, 1, .domain, .ro, .volatile, 0⟩]

/-- Every entry but those of the calibration ranges. -/
def dictTable : List DEntry := dictIdentity ++ dictPower ++ dictFabric ++ dictLife

/-- The type that a code names. -/
def dtyOf : Nat → DTy
  | 0 => .bool
  | 1 => .u8
  | 2 => .u16
  | 3 => .u32
  | 4 => .u64
  | 5 => .domain
  | 6 => .i32
  | _ => .f32

/-- An entry's description (R473); user calibration entries have the type of their factory entry (R479). -/
def dictFind (idx sub : Nat) : Option DEntry :=
  if 0x6000 ≤ idx ∧ idx ≤ 0x67FF then
    if Config.calHas (idx * 256 + sub) then some ⟨idx, sub, sub, dtyOf (Config.calType (idx * 256 + sub)), .ro, .factory, 0⟩ else none
  else if 0x6800 ≤ idx ∧ idx ≤ 0x6FFF then
    let k := (idx - 0x800) * 256 + sub
    if Config.calHas k then some ⟨idx, sub, sub, dtyOf (Config.calType k), .rw, .stored, 0⟩ else none
  else
    let one := dictTable.filter fun e => e.idx == idx
    if sub = 0 then
      let n := one.foldl (fun m e => max m e.hi) 0
      if n ≥ 2 then some ⟨idx, 0, 0, .u8, .ro, .computed, n⟩ else none
    else one.find? fun e => decide (e.lo ≤ sub) && decide (sub ≤ e.hi)

/-- Bytes of a numeric type. -/
def tyBytes : DTy → Nat
  | .bool => 1
  | .u8 => 1
  | .u16 => 2
  | .u32 => 4
  | .u64 => 8
  | .i32 => 4
  | .f32 => 4
  | .str => 0
  | .domain => 0

/-- The text of STR and the default of DOMAIN entries, without their length prefix. -/
def dictDefault (e : DEntry) (sub : Nat) : List Byte :=
  match e.ty, e.idx, sub with
  | .str, _, 1 => "Sahnor".toList.map fun c => BitVec.ofNat 8 c.toNat
  | .str, _, 2 => "VNY-1248".toList.map fun c => BitVec.ofNat 8 c.toNat
  | .str, _, 3 => "A1".toList.map fun c => BitVec.ofNat 8 c.toNat
  | .str, _, _ => "VNY-1248-A1".toList.map fun c => BitVec.ofNat 8 c.toNat
  | .domain, 0x4010, 1 => List.replicate 8192 0
  | .domain, 0x4010, _ => List.replicate 128 0
  | .domain, 0x2003, _ => List.replicate 1024 0
  | .domain, 0x1002, _ => Config.factory (0x1002 * 256 + 1)
  | .domain, 0x1003, _ => Config.factory (0x1003 * 256 + 1)
  | .domain, _, _ => []
  | t, 0x1001, _ => leBytes (tyBytes t) Config.serial
  | t, i, _ => if 0x6000 ≤ i ∧ i ≤ 0x67FF then (Config.factory (i * 256 + sub)).take (tyBytes t) else leBytes (tyBytes t) e.dflt

/-- The stored value in effect of an entry. -/
def dictVal (s : Node) (idx sub : Nat) : List Byte :=
  match tblGet none s.dict (idx * 256 + sub) with
  | some v => v
  | none => match dictFind idx sub with
    | some e => dictDefault e sub
    | none => []

/-- A numeric entry's value in effect. -/
def dictNat (s : Node) (idx sub : Nat) : Nat := leValue (dictVal s idx sub)

/-- Puts a value into effect; the default leaves nothing listed. -/
def dictSet (s : Node) (idx sub : Nat) (v : List Byte) : Node :=
  let listed := match dictFind idx sub with
    | some e => decide (dictDefault e sub ≠ v)
    | none => true
  { s with dict := tblSet none s.dict (idx * 256 + sub) (if listed then some v else none) }

/-- A numeric value put into effect. -/
def dictSetNat (s : Node) (idx sub v : Nat) : Node :=
  match dictFind idx sub with
  | some e => dictSet s idx sub (leBytes (tyBytes e.ty) v)
  | none => s

/-- Watts of a cap: 800 to 2,400 in steps of 5. -/
def capWatts (v : Nat) : Bool := decide (800 ≤ v) && decide (v ≤ 2400) && v % 5 == 0

/-- Whether a signature image of 32 bytes keeps SHARE within its range when it is valid. -/
def inRange (v lo hi : Nat) : Bool := decide (lo ≤ v) && decide (v ≤ hi)

/-- Whether a numeric value lies within its entry's stated range. -/
def dictRange (idx sub v : Nat) : Bool :=
  match idx, sub with
  | 0x1010, 1 => decide (v ≤ 1)
  | 0x1010, 3 => inRange v 0x08 0x77
  | 0x1010, 4 => bits v 63 51 == 0 && decide (bits v 50 48 ≤ 5)
  | 0x1010, 5 => inRange v 10 60000
  | 0x1010, 6 => decide (v ≤ 0x3F)
  | 0x1F00, 2 => inRange v 1 3
  | 0x2000, 1 => capWatts v
  | 0x2000, 2 => inRange v 85 104
  | 0x2000, 3 => inRange v 75 94
  | 0x2000, 4 => decide (v ≤ 7)
  | 0x2000, 5 => inRange v 4 16
  | 0x2000, 6 => inRange v 800 1450
  | 0x2001, 2 => capWatts v
  | 0x3000, 1 => decide (v ≤ 1)
  | 0x3000, 2 => decide (popCount 16 v ≤ 1) && decide (v < 2 ^ 12)
  | 0x3000, 3 => decide (v ≤ 8760)
  | 0x4000, 1 => decide (v < 2 ^ 18)
  | 0x4020, _ => v &&& (2 ^ 31 + 0x3000000 + 0x3FFFF) == v
  | 0x4030, _ => bits v 7 5 == 0
  | 0x4100, 1 => decide (v ≤ 2)
  | 0x4100, 2 => decide (v < 2 ^ 18)
  | 0x4100, 3 => aligned 4096 v
  | 0x4101, 2 => aligned 0x10000 v
  | 0x4101, 5 => inRange v 1 1000
  | 0x4102, 1 => inRange v 1 3600
  | 0x4102, 6 => inRange v 10 60000
  | 0x5000, 3 => decide (-7 ≤ signed 32 v) && decide (signed 32 v ≤ 0)
  | 0x5000, 4 => inRange v 10 1000000
  | 0x5000, 6 => inRange v 1 3600
  | 0x7002, _ => decide (v ≤ 1)
  | 0x7003, 1 => inRange v 1 2
  | _, _ => true

/-- Whether a DOMAIN value has the length its entry states. -/
def dictLength (idx sub n : Nat) : Bool :=
  match idx, sub with
  | 0x2003, 1 => n == 1024
  | 0x4010, 1 => n == 8192
  | 0x4010, 2 => n == 128
  | 0x4101, 1 => decide (n ≤ 1024) && n % 16 == 0
  | 0x7020, 1 => n == 32
  | 0x7020, 4 => n == 65
  | _, _ => true

end Sys2Proof.Machine
end

