-- ==== Sys2Proof/Machine/Nmc.lean ====
section
/-! DEFINITION. HBM reads, scrub and stack loss (R236 to R239, R257), and the near-memory cache's own events and
registers (R245, R249 to R256). -/

namespace Sys2Proof.Machine

/-! ## HBM -/

/-- Counts a corrected read of a stack or a near-memory cache, and writes one CE_THRESHOLD record a second once the
count of that second exceeds the threshold (R238, R250). -/
def countCorrected (s : Node) (b idx block : Nat) (cnt : RegLoc) (names : List (Nat × Nat)) : Node :=
  let sec := s.now / 1000000000
  let w0 := tblGet (⟨0, 0, false⟩ : CeWindow) s.ceWindows idx
  let w : CeWindow := if w0.second = sec then w0 else ⟨sec, 0, false⟩
  let s1 := cntAdd s cnt 1
  let over_ := decide (w.count + 1 > max 1 (fGet s (bLoc .hbmCtrl b) fHbmCtrlCeThreshold)) && !w.reported
  let w1 : CeWindow := ⟨sec, w.count + 1, w.reported || over_⟩
  let s2 := { s1 with ceWindows := tblSet ⟨0, 0, false⟩ s1.ceWindows idx w1 }
  if over_ then logErr s2 (12 + b) block 0x0101 0 (names ++ [(4, w.count + 1)]) else s2

/-- Poisons a line's HBM copy alone; the caches' copies keep their own marks (R239, R240). -/
def poisonHbm (s : Node) (line : Nat) : Node := wroteHbm s line true

/-- An uncorrectable read of HBM (R237). -/
def hbmUncorrectable (s : Node) (b line : Nat) (patrol : Bool) : Node :=
  let k := stackOf s line
  let s1 := cntAdd s (bLoc .hbmUeCount b [k]) 1
  poisonHbm (logErr s1 (12 + b) 0x11 0x0102 (line * lineBytes) [(1, 3 * b + k), (1, b2n patrol)]) line

/-- The classification of a read (R237): four retries at most, the last of which may succeed; a write whose data meets a
parity error is retried in the same way, and written poisoned when the retries fail (log entry 183). -/
def classifyRead (s : Node) (b line : Nat) (r : HbmRead) (patrol : Bool) : Node :=
  let k := stackOf s line
  let corrected := fun (s : Node) => countCorrected s b (3 * b + k) 0x11 (bLoc .hbmCeCount b [k]) [(1, 3 * b + k)]
  match r with
  | .clean => s
  | .corrected => corrected s
  | .parity n =>
    let s1 := cntAdd s (bLoc .hbmRetryCount b [k]) (min n 4)
    if n = 0 then s else if n ≤ 4 then corrected s1 else hbmUncorrectable s1 b line patrol
  | .uncorrectable => hbmUncorrectable s b line patrol
  | .writeParity n =>
    let s1 := cntAdd s (bLoc .hbmRetryCount b [k]) (min n 4)
    if n = 0 then s else if n ≤ 4 then corrected s1 else poisonHbm s1 line

/-- An HBM read returns and is classified; a line that another base die homes is not this controller's. -/
def execHbmReadComplete (b line : Nat) (r : HbmRead) (s : State) : Host.Outcome State Fault Refusal := onNode s fun s =>
  onBase b (if homeOf s line = b ∧ inHbm s (line * lineBytes) lineBytes then classifyRead s b line r false else s)

/-- The patrol reads a line of its stack (R239); SCRUB_HOURS = 0 disables it (R236). -/
def execPatrolScrub (b line : Nat) (r : HbmRead) (s : State) : Host.Outcome State Fault Refusal := onNode s fun s =>
  onBase b (if homeOf s line = b ∧ inHbm s (line * lineBytes) lineBytes ∧ dictNat s 0x3000 3 ≠ 0 then
      classifyRead (cntAdd s (bLoc .hbmScrubLines b [stackOf s line]) 1) b line r true
    else s)

/-- A stack's field of HBM_STATUS.STACK. -/
def stackState (s : Node) (stack : Nat) : Nat := wbits (regGet s (bLoc .hbmStatus (stack / 3))) (4 * (stack % 3) + 3) (4 * (stack % 3))

/-- Sets a stack's field of HBM_STATUS.STACK on its base die. -/
def setStackState (s : Node) (stack v : Nat) : Node :=
  let l := bLoc .hbmStatus (stack / 3)
  regSet s l (wput (regGet s l) (4 * (stack % 3) + 3) (4 * (stack % 3)) v)

/-- A stack stops answering or fails training (R257): FAILED, a record, and the node leaves its job (R410). -/
def execHbmStackLost (stack : Nat) (s : State) : Host.Outcome State Fault Refusal := onNode s fun s =>
  onUnit 12 stack (
    let s1 := logErr (setStackState s stack 3) (12 + stack / 3) 0x11 0x0108 0 []
    { s1 with leaveDue := s1.leaveDue ++ [.stack stack] })

/-! ## The near-memory cache -/

/-- Adds a returned prefetch, with the mark of the HBM copy it was read from, to the Transom; when it is full its oldest
entry is dropped (R248, R249). -/
def transomPush (s : Node) (b line : Nat) : Node :=
  let full := decide ((nmcOf s b).transom.length ≥ 1024)
  let s1 := modNmc s b fun x => { x with
    transom := (if full then x.transom.drop 1 else x.transom) ++ [⟨line, false, s.poison.contains line⟩] }
  if full then cntAdd s1 (bLoc .transomUnused b) 1 else s1

/-- A prefetched line returns: a write since, or a cache that no longer prefetches, discards it (R249, R252). -/
def execPrefetchReturn (b line : Nat) (s : State) : Host.Outcome State Fault Refusal := onNode s fun s =>
  onBase b (
    if !(nmcOf s b).prefetches.contains line then s
    else
      let s1 := modNmc s b fun x => { x with prefetches := dropLine line x.prefetches }
      if nmcHolds s1 line then s1 else transomPush s1 b line)

/-- The dirty lines of the cache and the Eaves. -/
def nmcDirtyLines (s : Node) (b : Nat) : List NmcLine :=
  let n := nmcOf s b
  (n.ways.filterMap fun (_, l) => l.bind fun x => if x.dirty then some x else none) ++ n.eaves.filter (·.dirty)

/-- Their numbers. -/
def nmcDirty (s : Node) (b : Nat) : List Nat := (nmcDirtyLines s b).map (·.line)

/-- Every line of the cache and the Eaves becomes clean. -/
def nmcClean (s : Node) (b : Nat) : Node :=
  modNmc s b fun x => { x with
    ways := x.ways.map fun (k, l) => (k, l.map fun y => { y with dirty := false })
    eaves := x.eaves.map fun y => { y with dirty := false } }

/-- The contents of a line that no rule states after its dirty copy is lost: free bytes. -/
def loseContents (s : Node) (line : Nat) : Node :=
  if dirtyHeld s line then s
  else
    let l := (List.range lineBytes).map fun i => BitVec.ofNat 8 (Config.freeNat (s.fresh + i))
    let s1 := writeBytes s (line * lineBytes) l
    { s1 with fresh := s1.fresh + lineBytes }

/-- The Transom is dropped and the prefetchers stop (R252). -/
def stopPrefetch (s : Node) (b : Nat) : Node :=
  let s1 := cntAdd s (bLoc .transomUnused b) (nmcOf s b).transom.length
  modNmc s1 b fun x => { x with transom := [], trackers := [], prefetches := [] }

/-- The near-memory die fails (R251): FAULTED, a record that says whether a dirty line was held, and the node leaves its
job when one was (R410). -/
def nmcDieLost (s : Node) (b : Nat) : Node :=
  if ctrlState s (bLoc .nmcCtrl b) = stFaulted then s
  else
    let lost := nmcDirty s b
    let s1 := logErr (faultBlock (stopPrefetch s b) (bLoc .nmcCtrl b)) (12 + b) 0x12 0x0104 0 [(1, b2n (lost ≠ []))]
    let s2 := nmcClean (lost.foldl loseContents s1) b
    if lost = [] then s2 else { s2 with leaveDue := s2.leaveDue ++ [.nmc b] }

def execNmcDieLost (b : Nat) (s : State) : Host.Outcome State Fault Refusal := onNode s fun s =>
  onBase b (nmcDieLost s b)

/-- An uncorrectable read of a near-memory cache is counted; more than 64 within one millisecond fail the die (R251). -/
def nmcUeSeen (s : Node) (b : Nat) : Node :=
  let seen := ((nmcOf s b).ues.filter fun t => decide (s.now < t + 1000000)) ++ [s.now]
  if seen.length > 64 then nmcDieLost (modNmc s b fun x => { x with ues := [] }) b
  else modNmc s b fun x => { x with ues := seen }

/-- A write of INV = 1 (R254): while an invalidation runs it changes nothing. -/
def nmcInvalidate (s : Node) (b : Nat) : Node :=
  let st := ctrlState s (bLoc .nmcCtrl b)
  if fGet s (bLoc .nmcStatus b) fNmcStatusInvBusy = 1 then s
  else if st = stOff ∨ st = stFaulted then fSet s (bLoc .nmcStatus b) fNmcStatusInvBusy 1
  else fSet s (bLoc .nmcStatus b) fNmcStatusInvIgnored 1

/-- A write of EN (R252, R255, R251). -/
def nmcEnable (s : Node) (b : Nat) (en : Bool) : Node :=
  let l := bLoc .nmcCtrl b
  let st := ctrlState s l
  let s1 := enableWrite s l en
  if st = stOn ∧ !en then stopPrefetch s1 b
  else if st = stFaulted ∧ !en then fSet s1 (bLoc .nmcStatus b) fNmcStatusStaleSinceDisable 1
  else s1

/-- A write of NMC_CTRL: INV is judged before EN, so that one write with both in OFF invalidates and then enables
(R255). -/
def nmcCtrlWrite (s : Node) (b : Nat) (v : Word) : Node :=
  nmcEnable (if wbit v 2 then nmcInvalidate s b else s) b (wbit v 0)

def execNmcEnableWrite (b : Nat) (v : Word) (s : State) : Host.Outcome State Fault Refusal := onNode s fun s =>
  onBase b (withResp (nmcCtrlWrite s b v) .done)

def execNmcInvWrite (b : Nat) (v : Word) (s : State) : Host.Outcome State Fault Refusal := onNode s fun s =>
  onBase b (withResp (nmcCtrlWrite s b v) .done)

/-- The last dirty line is written (R252): the cache is OFF, or passes through ENABLING (R255). -/
def execNmcWritebackDone (b : Nat) (s : State) : Host.Outcome State Fault Refusal := onNode s fun s =>
  onBase b (
    let st := ctrlState s (bLoc .nmcCtrl b)
    if st = stDisabling ∨ st = stPending then
      let dirty := nmcDirtyLines s b
      let s1 := modNmc (cntAdd (nmcClean s b) (bLoc .nmcWritebacks b) dirty.length) b fun x =>
        { x with current := decide (st = stPending) }
      ownStepEnds (dirty.foldl (fun s l => wroteHbm s l.line l.poison) s1) (bLoc .nmcCtrl b)
    else s)

/-- An invalidation completes (R254). -/
def execNmcInvDone (b : Nat) (s : State) : Host.Outcome State Fault Refusal := onNode s fun s =>
  onBase b (
    if fGet s (bLoc .nmcStatus b) fNmcStatusInvBusy = 1 then
      let s1 := modNmc s b fun x => { x with ways := [], eaves := [] }
      let s2 := { s1 with stale := s1.stale.filter fun p => p.1 % 16 ≠ 12 ∨ homeOf s (p.1 / 16) ≠ b }
      fSet (fSet s2 (bLoc .nmcStatus b) fNmcStatusInvBusy 0) (bLoc .nmcStatus b) fNmcStatusStaleSinceDisable 0
    else s)

/-- A write of NMC_SEED reloads the replacement generator (R245). -/
def execNmcSeedWrite (b : Nat) (v : Word) (s : State) : Host.Outcome State Fault Refusal := onNode s fun s =>
  onBase b (withResp (modNmc (storeReg s (bLoc .nmcSeed b) v) b fun x => { x with gen := lfsrLoad (wbits v 31 0) 0 }) .done)

end Sys2Proof.Machine
end

