-- ==== Sys2Proof/Machine/Home.lean ====
section
/-! DEFINITION. The directory protocol (R205 to R222): requests resolved at the home, snoops answered by holders,
responses collected by requesters, evictions, timeouts and fences. -/

namespace Sys2Proof.Machine

/-! ## A die cache -/

/-- A die's miss on a line, rewritten. -/
def modMiss (s : Node) (d line : Nat) (f : Miss → Miss) : Node :=
  modCache s d fun c => { c with misses := modFirst (fun m => m.line == line) f c.misses }

/-- A die's miss on a line. -/
def missOf (s : Node) (d line : Nat) : Option Miss := (dieOf s d).cache.misses.find? fun m => m.line == line

/-- The class of a die-cache line's writebacks (R244). -/
def fillClass (s : Node) (d line : Nat) : Nat :=
  if (tblGet DcLine.absent (dieOf s d).cache.lines line).filler = .host then clsHost else clsGable

/-- A die cache evicts a line (R209, R214): the line waits in the writeback buffer, and WbD or EvC goes to the home. -/
def evictLine (s : Node) (d line : Nat) : Node :=
  let x := tblGet DcLine.absent (dieOf s d).cache.lines line
  let cls := fillClass s d line
  if x.st = .i then s
  else
    let dirty := decide (x.st = .m) || decide (x.st = .o)
    let s1 := modCache s d fun c => { c with evicting := c.evicting ++ [(line, x)] }
    let s2 := sendHome (setHold s1 d line .i)
      { plainReq (if dirty then .wbd else .evc) line d with func := cls, poisoned := x.poison }
    if dirty then cntAdd s2 (dLoc .dcWritebacks d) 1 else s2

/-- The state a snoop finds: the cache's, or the former state of a line in the writeback buffer (R214). -/
def snoopSt (s : Node) (d line : Nat) : Moesi := (dcCopy s d line).st

/-- Sets the state a snoop leaves. -/
def setSnoopSt (s : Node) (d line : Nat) (st : Moesi) : Node :=
  if holdSt s d line ≠ .i then setHold s d line st
  else modCache s d fun c => { c with
    evicting := c.evicting.map fun p => if p.1 = line then (line, { p.2 with st := st }) else p }

/-- The state of a holder after a snoop (R209). -/
def afterSnoop (k : Snoop) (st : Moesi) : Moesi :=
  match k, st with
  | .snpS, .m => .o
  | .snpS, .e => .s
  | .snpS, x => x
  | .snpRd, x => x
  | .snpCln, .m => .e
  | .snpCln, .o => .s
  | .snpCln, x => x
  | .snpX, _ => .i
  | .snpRcl, _ => .i
  | .snpInv, _ => .i

/-! ## The home -/

/-- Rewrites the transaction in progress on a line. -/
def modTxn (s : Node) (b line : Nat) (f : Txn → Txn) : Node :=
  modDir s b fun x => { x with txns := modFirst (fun t => t.req.line == line) f x.txns }

/-- Removes the transaction in progress on a line. -/
def endTxn (s : Node) (b line : Nat) : Node :=
  modDir s b fun x => { x with txns := dropFirst (fun t => t.req.line == line) x.txns }

/-- Whether a line has a transaction in progress, or its entry is being evicted (R207, R211). -/
def lineBusy (x : Dir) (line : Nat) : Bool := x.txns.any fun t => t.req.line == line || (t.evicts && t.victim == line)

/-- Whether a die holds a line, as its entry says. -/
def entryHolds (e : DirEntry) (d : Nat) : Bool :=
  match e.st with
  | .di => false
  | .ds => bit e.sharers d
  | .dx => e.owner == d
  | .dOwned => e.owner == d || bit e.sharers d

/-- The dies an entry lists. -/
def entryDies (e : DirEntry) : List Nat := (List.range 12).filter (entryHolds e)

/-- An entry without one die. -/
def entryDrop (e : DirEntry) (d : Nat) : DirEntry :=
  let sh := e.sharers - (e.sharers &&& 1 <<< d)
  match e.st with
  | .di => e
  | .dx => if e.owner = d then DirEntry.none else e
  | .ds => if sh = 0 then DirEntry.none else { e with sharers := sh }
  | .dOwned =>
    if e.owner = d then (if sh = 0 then DirEntry.none else { e with st := .ds, owner := 0, sharers := sh })
    else { e with sharers := sh }

/-- The only current copy of a line is lost with a fenced die (R219): memory is poisoned, and the other sharers' copies
of the lost data are invalidated by SnpInv. -/
def loseLine (s : Node) (line : Nat) : Node :=
  let b := homeOf s line
  let others := (List.range 12).filter fun d => decide (holdSt s d line ≠ .i)
  let s1 := others.foldl (fun s d => setHold (cntAdd s (dLoc .dcSnoops d) 1) d line .i) s
  let s2 := modEntry (nmcWrite s1 clsGable line true true) line fun _ => DirEntry.none
  cntAdd (logErr s2 (12 + b) 0x10 0x0160 (line * lineBytes) []) (bLoc .dirLostLines b) 1

/-- The home removes a fenced die from a line (R219). -/
def fenceLine (s : Node) (line d : Nat) : Node :=
  let st := snoopSt s d line
  let s1 := modCache (setSnoopSt s d line .i) d fun c => { c with evicting := c.evicting.filter fun p => p.1 ≠ line }
  let s2 := modEntry s1 line fun e => entryDrop e d
  if st = .m ∨ st = .o then loseLine s2 line else s2

/-- Fenced dies leave a line as a request reaches it (R220). -/
def purgeFenced (s : Node) (line : Nat) : Node :=
  ((entryDies (dirEntry s line)).filter (isFenced s)).foldl (fun s d => fenceLine s line d) s

/-- The snoops a request needs (R212), the requester's own copy left out. -/
def snoopsFor (k : ReqKind) (e : DirEntry) (src : Agent) : List (Snoop × Nat) :=
  let mine := fun d => decide (src = .die d) && (match k with
    | .rds | .rdx | .upg => true
    | _ => false)
  let sharers := (ones 12 e.sharers).filter fun d => !mine d && (decide (e.st = .ds) || d != e.owner)
  let owner := fun (x : Snoop) => if mine e.owner then [] else [(x, e.owner)]
  match k, e.st with
  | .rds, .dx => owner .snpS
  | .rds, .dOwned => owner .snpS
  | .rdx, .ds | .upg, .ds => sharers.map (Snoop.snpX, ·)
  | .rdx, .dx | .upg, .dx => owner .snpX
  | .rdx, .dOwned | .upg, .dOwned => owner .snpX ++ sharers.map (Snoop.snpX, ·)
  | .rdonce, .dx | .rdonce, .dOwned => owner .snpRd
  | .wrline, .ds | .wrpart, .ds | .atom, .ds | .fls, .ds => sharers.map (Snoop.snpInv, ·)
  | .wrline, .dx => owner .snpInv
  | .wrline, .dOwned => owner .snpInv ++ sharers.map (Snoop.snpInv, ·)
  | .wrpart, .dx | .atom, .dx | .fls, .dx => owner .snpRcl
  | .wrpart, .dOwned | .atom, .dOwned | .fls, .dOwned => owner .snpRcl ++ sharers.map (Snoop.snpInv, ·)
  | .cln, .dx | .cln, .dOwned => owner .snpCln
  | _, _ => []

/-- The class of a request's memory access (R244): a die's by what brought the line in; an agent's without a cache carries
its own, an Atom's being DMA. -/
def reqClass (s : Node) (r : HomeReq) : Nat :=
  match r.src with
  | .die d => match missOf s d r.line with
    | some m => if m.filler = .host then clsHost else clsGable
    | none => clsGable
  | .other _ => if r.kind = .atom then clsDma else r.func

/-- Sends snoops to holders. -/
def sendSnoops (s : Node) (b line : Nat) (l : List (Snoop × Nat)) : Node :=
  modDir s b fun x => { x with snoops := x.snoops ++ l.map fun (k, d) => ⟨line, k, d, messagePath s b (d / 3) (some line) 0⟩ }

/-- Whether a line lies in a 64 KiB chunk that a cut has still to copy (R417); the chunks are listed by the cut. -/
def chunkPending (s : Node) (line : Nat) : Bool := s.cutChunks.contains (line / 512)

/-- Whether a request must wait for a cut's copy of its chunk (R417). -/
def cutHolds (s : Node) (r : HomeReq) : Bool :=
  chunkPending s r.line && (match r.kind with
    | .rdx | .upg | .wrline | .wrpart | .atom => true
    | _ => false)

/-- Ends the transaction of a requester that has been fenced (R219, R407): its entry lists no requester, and data that a
dirty owner sent it is lost. -/
def closeFenced (s : Node) (t : Txn) : Node :=
  let line := t.req.line
  let e := dirEntry s line
  match t.req.kind with
  | .rds =>
    if t.supplied ∧ e.st = .dx then
      modEntry s line fun e => if t.wasDirty then ⟨.dOwned, e.owner, 0, 0⟩ else ⟨.ds, 0, 1 <<< e.owner, 0⟩
    else s
  | .rdx => if t.wasDirty then loseLine s line else modEntry s line fun _ => DirEntry.none
  | .upg => modEntry s line fun _ => DirEntry.none
  | _ => s

/-- The agent that a command's own accesses without a cache come from: they take the answer within the command. -/
def inward : Agent := .other (2 ^ 32)

/-- The answer to a request of an agent outside. -/
def answerTo (s : Node) (r : HomeReq) (a : Resp) : Node := if r.src = inward then s else withResp s a

/-- A requester's miss has its data from a copy: its mark, its bytes where they differ from the line's contents, and the
path the data took. -/
def giveData (s : Node) (d line : Nat) (src : Nat) (poison : Bool) (l : List Byte) : Node :=
  modMiss (giveCopy s line d l) d line fun m =>
    { m with gotData := true, poisoned := poison, back := messagePath s src (d / 3) (some line) 0 }

/-- Ends a request whose snoops have all been answered (R212): the entry and the answer. A caching requester's
transaction stays until CmpAck (R213). Answers whether the line is free again. -/
def closeReq (s : Node) (b : Nat) (t : Txn) : Node × Bool :=
  let r := t.req
  let line := r.line
  let e := dirEntry s line
  let stays := fun (s : Node) => (modTxn s b line fun t => { t with answered := true }, false)
  let gone := match r.src with
    | .die d => isFenced s d
    | .other _ => false
  let fromMemory := fun (s : Node) (d : Nat) =>
    if (missOf s d line).elim false (·.gotData) then s
    else giveData (nmcRead s (reqClass s r) line) d line b (memPoison s line) (memAlt s line)
  if gone then (endTxn (closeFenced s t) b line, true)
  else match r.kind, r.src with
  | .rds, .die d =>
    let me := 1 <<< d
    let keep := chunkPending s line
    let (e1, grant) : DirEntry × Moesi :=
      match e.st with
      | .di => if keep then (⟨.ds, 0, me, 0⟩, .s) else (⟨.dx, d, 0, 0⟩, .e)
      | .ds => (⟨.ds, 0, e.sharers ||| me, 0⟩, .s)
      | .dx =>
        if !t.supplied then (⟨.dx, d, 0, 0⟩, .e)
        else if t.wasDirty then (⟨.dOwned, e.owner, me, 0⟩, .s)
        else (⟨.ds, 0, me ||| 1 <<< e.owner, 0⟩, .s)
      | .dOwned => (⟨.dOwned, e.owner, e.sharers ||| me, 0⟩, .s)
    let s2 := modEntry (fromMemory s d) line fun _ => e1
    stays (modMiss s2 d line fun m => { m with grant := some grant, need := some 0 })
  | .rdx, .die d =>
    let s1 := modEntry (fromMemory s d) line fun _ => ⟨.dx, d, 0, 0⟩
    stays (modMiss s1 d line fun m => { m with grant := some .m })
  | .upg, .die d =>
    let s1 := modEntry s line fun _ => ⟨.dx, d, 0, 0⟩
    stays (modMiss s1 d line fun m => { m with gotData := true, grant := some .m
                                               back := messagePath s b (d / 3) (some line) 0 })
  | .rdonce, _ =>
    let l := readBytes s (line * lineBytes) lineBytes
    let mark := isPoisoned s line
    let s1 := if t.supplied then s else nmcRead s (reqClass s r) line
    (endTxn (answerTo s1 r (.bytes l mark)) b line, true)
  | .wrline, _ | .wrpart, _ =>
    let s1 := noteMemory (modEntry s line fun _ => DirEntry.none) line
    let s2 := writeList s1 (r.payload.map fun (o, v) => (line * lineBytes + o, v))
    let s3 := nmcWrite s2 (reqClass s r) line (decide (r.kind = .wrline)) r.poisoned
    (endTxn (answerTo s3 r .done) b line, true)
  | .atom, _ =>
    let mark := memPoison s line
    let s1 := noteMemory (modEntry (nmcRead s (reqClass s r) line) line fun _ => DirEntry.none) line
    let off := (r.payload.map (·.1)).headD 0
    let arg := leValue (r.payload.map (·.2))
    let old := readLE s1 (line * lineBytes + off) r.size
    let new := leBytes r.size (amoResult r.func r.size old arg r.cmp)
    let s2 := nmcWrite (writeBytes s1 (line * lineBytes + off) new) (reqClass s r) line true mark
    (endTxn (answerTo s2 r (.bytes (leBytes r.size old) mark)) b line, true)
  | .cln, _ =>
    let s1 := if e.st = .dOwned then modEntry s line fun x => ⟨.ds, 0, x.sharers ||| 1 <<< x.owner, 0⟩ else s
    (endTxn (answerTo s1 r .done) b line, true)
  | .fls, _ => (endTxn (answerTo (modEntry s line fun _ => DirEntry.none) r .done) b line, true)
  | _, _ => (endTxn s b line, true)

/-- Takes an eviction (R214): a sender that is no longer a holder is only acknowledged. The writeback buffer's copy no
longer counts, whatever acknowledgement is under way. -/
def takeEviction (s : Node) (r : HomeReq) : Node :=
  match r.src with
  | .die d =>
    let s0 := modCache s d fun c => { c with evicting := c.evicting.map fun p =>
      if p.1 = r.line then (p.1, { p.2 with st := .i }) else p }
    if !entryHolds (dirEntry s r.line) d then s0
    else
      let owner := decide ((dirEntry s r.line).st ≠ .ds) && (dirEntry s r.line).owner == d
      let s1 := modEntry s0 r.line fun e => entryDrop e d
      if r.kind = .wbd ∧ owner then nmcWrite s1 r.func r.line true r.poisoned else s1
  | .other _ => s

/-- The entry to evict from a full set (R211): DS, then DX, then DO, the least recently allocated of each. -/
def pickVictim (x : Dir) (line : Nat) : Option Nat :=
  let set := x.entries.filter fun p => p.1 % 65536 = line % 65536 && !lineBusy x p.1
  let rank : DirEntry → Nat := fun e => match e.st with
    | .ds => 0
    | .dx => 1
    | _ => 2
  let better := fun (a b : Nat × DirEntry) =>
    if rank b.2 < rank a.2 ∨ (rank b.2 = rank a.2 ∧ b.2.age < a.2.age) then b else a
  match set with
  | [] => none
  | p :: rest => some (rest.foldl better p).1

/-- Whether a request needs an entry that its full set has no room for. -/
def needsRoom (s : Node) (b : Nat) (r : HomeReq) : Bool :=
  (match r.kind with
    | .rds | .rdx | .upg => true
    | _ => false) && decide ((dirEntry s r.line).st = .di) &&
    decide (((dirOf s b).entries.filter fun p => p.1 % 65536 = r.line % 65536).length ≥ 16)

/-- Sends SnpRcl to the listed dies for an entry to be evicted or rebuilt (R211, R222). -/
def startRecall (s : Node) (b : Nat) (r : HomeReq) (victim : Nat) (dies : List Nat) (rebuilt : Bool) : Node :=
  let t : Txn := ⟨r, dies, false, false, false, true, rebuilt, victim⟩
  sendSnoops (modDir s b fun x => { x with txns := x.txns ++ [t] }) b victim (dies.map (Snoop.snpRcl, ·))

/-- The recalled entry is gone. -/
def endRecall (s : Node) (b : Nat) (t : Txn) : Node :=
  let s1 := modEntry (endTxn s b t.req.line) t.victim fun _ => DirEntry.none
  if t.rebuilt then logErr s1 (12 + b) 0x10 0x0162 (t.victim * lineBytes) [] else s1

/-- Takes the first request that waits for a line out of the queue. -/
def popReq (s : Node) (b line : Nat) : Node :=
  modDir s b fun x => { x with queue := dropFirst (fun r => r.line == line) x.queue }

/-- A request as it is handled: an Upg whose sender no longer holds the line is an RdX (R215). -/
def asHandled (s : Node) (r : HomeReq) : HomeReq :=
  let holds := match r.src with
    | .die d => entryHolds (dirEntry s r.line) d
    | .other _ => false
  if r.kind = .upg ∧ !holds then { r with kind := .rdx } else r

/-- Opens a transaction. -/
def openTxn (s : Node) (b : Nat) (r0 : HomeReq) : Node × Txn :=
  let e := dirEntry s r0.line
  let r := asHandled s r0
  let snoops := snoopsFor r.kind e r.src
  let t : Txn := ⟨r, snoops.map (·.2), false, false, false, false, false, 0⟩
  let s1 := sendSnoops (modDir s b fun x => { x with txns := x.txns ++ [t] }) b r.line snoops
  let fromOwner := (decide (r.kind = .rdx)) && (decide (e.st = .dx) || decide (e.st = .dOwned))
  let s2 := match r.kind, r.src with
    | .rdx, .die d => modMiss s1 d r.line fun m => { m with need := some (snoops.length - b2n fromOwner) }
    | .upg, .die d => modMiss s1 d r.line fun m => { m with need := some snoops.length, gotData := true }
    | _, _ => s1
  (s2, t)

/-- Whether a slice has a transaction tracker for a request (R208): 4,096 in all, of which agents without a cache hold at
most 1,024. -/
def trackerFree (x : Dir) (r : HomeReq) : Bool :=
  let dies := fun (a : Agent) => match a with
    | .die _ => true
    | .other _ => false
  decide (x.txns.length < 4096) && (dies r.src || decide ((x.txns.filter fun t => !dies t.req.src).length < 1024))

/-- Whether a route switch holds back a message that a request calls for: a snoop, or the answer (R291). -/
def answerHeld (s : Node) (b : Nat) (r : HomeReq) : Bool :=
  switching s && (lineHeld s b r.base r.line ||
    (snoopsFor (asHandled s r).kind (dirEntry s r.line) r.src).any fun p => lineHeld s b (p.2 / 3) r.line)

/-- The home reads an entry with an uncorrectable error (R222): every die is asked for the line, the home answering for
the fenced ones (R219), and the request waits until the entry is rebuilt. -/
def rebuildEntry (s : Node) (b : Nat) (r : HomeReq) : Node :=
  startRecall (purgeFenced (modDir s b fun x => { x with bad := dropLine r.line x.bad }) r.line) b r r.line
    ((List.range 12).filter fun d => !isFenced s d) true

/-- Whether the entry of a request's line has an uncorrectable error; a line in DI has none. -/
def entryBad (s : Node) (b line : Nat) : Bool := (dirOf s b).bad.contains line && decide ((dirEntry s line).st ≠ .di)

/-- Performs the requests that wait for a line, in order, until one must wait for an answer, a tracker, a cut, a route
switch or an entry to be rebuilt (R207, R208, R222, R291, R417). -/
def homeRun : Nat → Node → Nat → Node
  | 0, s, _ => s
  | n + 1, s, line =>
    let b := homeOf s line
    if lineBusy (dirOf s b) line then s
    else match (dirOf s b).queue.find? (fun r => r.line == line) with
    | none => s
    | some r =>
      let s0 := purgeFenced s line
      if cutHolds s r || !trackerFree (dirOf s0 b) r || answerHeld s0 b r then s0
      else if entryBad s0 b line then
        let s1 := rebuildEntry s0 b r
        match (dirOf s1 b).txns.find? (fun t => t.req.line == line) with
        | some t => if t.waiting = [] then homeRun n (endRecall s1 b t) line else s1
        | none => s1
      else if needsRoom s0 b r then
        match pickVictim (dirOf s0 b) line with
        | none => s0
        | some v =>
          let s1 := purgeFenced (cntAdd s0 (bLoc .dirEvictions b) 1) v
          let dies := entryDies (dirEntry s1 v)
          let s2 := startRecall s1 b r v dies false
          if dies = [] then
            match (dirOf s2 b).txns.find? (fun t => t.req.line == line) with
            | some t => homeRun n (endRecall s2 b t) line
            | none => s2
          else s2
      else
        let s1 := cntAdd (popReq s0 b line) (bLoc .dirLookups b) 1
        if r.kind = .wbd ∨ r.kind = .evc then homeRun n (takeEviction s1 r) line
        else
          let (s2, t) := openTxn s1 b r
          if t.waiting = [] then
            let (s3, free) := closeReq s2 b t
            if free then homeRun n s3 line else s3
          else s2

/-- Runs a line's queue at its home. -/
def homeGo (s : Node) (line : Nat) : Node := homeRun ((dirOf s (homeOf s line)).queue.length + 3) s line

/-- A transaction has ended: its tracker, or the room its line made, may let requests for other lines start (R208,
R211). -/
def homeNext (s : Node) (b : Nat) : Node :=
  ((dirOf s b).queue.map (·.line)).eraseDups.foldl homeGo s

/-- A transaction whose snoops have all been answered goes on. -/
def settleTxn (s : Node) (b line : Nat) : Node :=
  match (dirOf s b).txns.find? (fun t => t.req.line == line || (t.evicts && t.victim == line)) with
  | none => s
  | some t =>
    if t.waiting ≠ [] ∨ t.answered ∨ lineHeld s b t.req.base t.req.line = true then s
    else if t.evicts then homeNext (homeGo (homeGo (endRecall s b t) t.victim) t.req.line) b
    else
      let (s1, free) := closeReq s b t
      if free then homeNext (homeGo s1 line) b else s1

/-- Whether a route switch holds back a die's answer to a snoop: to the home, or to the die that asked (R291). -/
def snoopHeld (s : Node) (m : SnoopMsg) : Bool :=
  let b := homeOf s m.line
  switching s && !isFenced s m.die && (lineHeld s (m.die / 3) b m.line ||
    (dirOf s b).txns.any fun t => t.req.line == m.line && lineHeld s (m.die / 3) t.req.base m.line)

/-- Answers a snoop: the die cache, or the home on behalf of a fenced die (R209, R219). -/
def answerSnoop (s : Node) (m : SnoopMsg) : Node :=
  let b := homeOf s m.line
  let fenced := isFenced s m.die
  let x := dcCopy s m.die m.line
  let dirty := decide (x.st = .m) || decide (x.st = .o)
  let own := tblGet [] s.stale (copyKey m.line m.die)
  let s0 := modDir s b fun x => { x with snoops := dropFirst (fun y => decide (y = m)) x.snoops }
  let s1 := if fenced then fenceLine s0 m.line m.die
    else setSnoopSt (cntAdd s0 (dLoc .dcSnoops m.die) 1) m.die m.line (afterSnoop m.kind x.st)
  let toHome := !fenced && dirty && (decide (m.kind = .snpCln) || decide (m.kind = .snpRcl))
  let s2 := if toHome then nmcWrite s1 (fillClass s m.die m.line) m.line true x.poison else s1
  let supplies := !fenced && decide (x.st ≠ .i) && decide (x.st ≠ .s) &&
    (decide (m.kind = .snpS) || decide (m.kind = .snpX) || decide (m.kind = .snpRd))
  let s3 := if supplies then cntAdd s2 (bLoc .dirC2c b) 1 else s2
  match (dirOf s3 b).txns.find? (fun t => t.req.line == m.line || (t.evicts && t.victim == m.line)) with
  | none => s3
  | some t =>
    let s4 := if t.evicts && !t.rebuilt && toHome then cntAdd s3 (bLoc .dirRecalls b) 1 else s3
    let s5 := match t.req.src, t.evicts with
      | .die d, false =>
        if supplies && !(missOf s d m.line).elim false (·.gotData) then giveData s4 d m.line (m.die / 3) x.poison own
        else modMiss s4 d m.line fun y => { y with acks := y.acks + 1 }
      | _, _ => s4
    settleTxn (modTxn s5 b t.req.line fun y => { y with
      waiting := y.waiting.filter fun d => d ≠ m.die
      supplied := y.supplied || supplies
      wasDirty := y.wasDirty || (supplies && dirty) }) b m.line

/-! ## Requests -/

/-- An error met as the home reads an entry or the near-memory cache for a request whose turn it is (R222, R250, R251,
R257). An unreadable entry is noted, and rebuilt as the request runs. -/
def meetFault (s : Node) (r : HomeReq) (f : ReadFault) : Node :=
  let line := r.line
  let b := homeOf s line
  let e := dirEntry s line
  let reads := (decide (e.st = .di) || decide (e.st = .ds)) && nmcServes s b
  if lineBusy (dirOf s b) line then s
  else match f with
  | .none => s
  | .dirEntry => if e.st = .di then s else modDir s b fun x => { x with bad := insertRising line x.bad }
  | .nmcCorrected =>
    if reads && (nmcWay s b line).isSome then countCorrected s b (12 + b) 0x12 (bLoc .nmcCeCount b) [] else s
  | .nmcUncorrectable =>
    match nmcWay s b line with
    | none => s
    | some w =>
      if !reads then s
      else if (nmcDirty s b).contains line then
        nmcUeSeen (logErr (nmcMark s b line true true) (12 + b) 0x12 0x0103 (line * lineBytes) [(1, 1)]) b
      else
        let s1 := modNmc s b fun x => { x with ways := tblSet none x.ways (nmcSet s line + w) none }
        nmcUeSeen (logErr (dropStale s1 line) (12 + b) 0x12 0x0103 (line * lineBytes) [(1, 0)]) b
  | .eaves =>
    match eavesLine s b line with
    | none => s
    | some l =>
      if !reads || (nmcWay s b line).isSome then s
      else
        let s1 := if l.dirty then nmcMark s b line true true
          else dropStale (modNmc s b fun x => { x with eaves := x.eaves.filter fun y => y.line ≠ line }) line
        logErr s1 (12 + b) 0x12 0x0109 (line * lineBytes) []

/-- Runs `t` for a line of installed HBM. -/
def onLine (s : Node) (line : Nat) (t : Node) : Host.Outcome Node Fault Refusal :=
  .next (if inHbm s (line * lineBytes) lineBytes then t else withResp s .refused)

/-- The home serves the first request that waits for a line, with an error that it meets as it does. -/
def serveLine (s : Node) (line : Nat) (f : ReadFault) : Node :=
  match (dirOf s (homeOf s line)).queue.find? (fun r => r.line == line) with
  | none => s
  | some r => homeGo (meetFault s r f) line

/-- A caching request of a die: sent if the die has none outstanding on the line, then served when its turn comes. -/
def dieReq (s : Node) (d line : Nat) (write : Bool) (f : ReadFault) : Node :=
  serveLine (if hasMiss s d line then s else askLine s d line write .gable) line f

def execRds (d line : Nat) (f : ReadFault) (s : State) : Host.Outcome State Fault Refusal := onNode s fun s =>
  if d < 12 then onLine s line (if isFenced s d || (decide (holdSt s d line ≠ .i) && !hasMiss s d line) then s
    else dieReq s d line false f) else .fault .noSuchUnit

def execRdx (d line : Nat) (f : ReadFault) (s : State) : Host.Outcome State Fault Refusal := onNode s fun s =>
  if d < 12 then onLine s line (if isFenced s d || (decide (holdSt s d line ≠ .i) && !hasMiss s d line) then s
    else dieReq s d line true f) else .fault .noSuchUnit

def execUpg (d : Nat) (x : Target) (s : State) : Host.Outcome State Fault Refusal := onNode s fun s =>
  if d < 12 then onLine s x.place (
    let st := holdSt s d x.place
    if isFenced s d || (!hasMiss s d x.place && decide (st ≠ .s) && decide (st ≠ .o)) then s
    else dieReq s d x.place true x.fault) else .fault .noSuchUnit

def execWbd (d : Nat) (x : Target) (s : State) : Host.Outcome State Fault Refusal := onNode s fun s =>
  if d < 12 then onLine s x.place (
    let st := holdSt s d x.place
    if isFenced s d then s
    else serveLine (if (st = .m ∨ st = .o) ∧ !hasMiss s d x.place then evictLine s d x.place else s) x.place x.fault) else .fault .noSuchUnit

def execEvc (d : Nat) (x : Target) (s : State) : Host.Outcome State Fault Refusal := onNode s fun s =>
  if d < 12 then onLine s x.place (
    let st := holdSt s d x.place
    if isFenced s d then s
    else serveLine (if (st = .e ∨ st = .s) ∧ !hasMiss s d x.place then evictLine s d x.place else s) x.place x.fault) else .fault .noSuchUnit

/-- The sender of a request without a miss: a compute die's number, or another agent's. -/
def agentOf (n : Nat) : Agent := if n < 12 then .die n else .other n

/-- A request of an agent without a miss. Agent 12 + n is one of base die n mod 4. DESIGN CHOICE (log entry 184). -/
def agentReq (k : ReqKind) (line a : Nat) (payload : List (Nat × Byte)) (poison : Bool) (func : Nat) : HomeReq :=
  ⟨k, line, agentOf a, payload, poison, func, 0, 0, if a < 12 then a / 3 else a % 4, []⟩

/-- A request that caches nothing at its sender, with an error the home meets as it serves the line. -/
def plainSend (s : Node) (r : HomeReq) (f : ReadFault) : Host.Outcome Node Fault Refusal :=
  onLine s r.line (serveLine (sendHome s r) r.line f)

def execCln (a : Nat) (x : Target) (s : State) : Host.Outcome State Fault Refusal := onNode s fun s =>
  plainSend s (agentReq .cln x.place a [] false clsDma) x.fault

def execFls (a : Nat) (x : Target) (s : State) : Host.Outcome State Fault Refusal := onNode s fun s =>
  plainSend s (agentReq .fls x.place a [] false clsDma) x.fault

def execRdonce (a line : Nat) (f : ReadFault) (s : State) : Host.Outcome State Fault Refusal := onNode s fun s =>
  plainSend s (agentReq .rdonce line a [] false clsDma) f

def execWrline (a : Nat) (x : Target) (data : List Byte) (poison : Bool) (s : State) : Host.Outcome State Fault Refusal := onNode s fun s =>
  plainSend s (agentReq .wrline x.place a ((List.range lineBytes).map fun i => (i, data.getD i 0)) poison clsDma) x.fault

def execWrpart (a : Nat) (x : Target) (data : List (Nat × Byte)) (poison : Bool) (s : State) : Host.Outcome State Fault Refusal := onNode s fun s =>
  plainSend s (agentReq .wrpart x.place a (data.filter fun p => p.1 < lineBytes) poison clsDma) x.fault

/-- An atomic at the home (R218): naturally aligned, 4 or 8 bytes (R226). -/
def execAtom (a : Nat) (x : Target) (size func arg cmp : Nat) (s : State) : Host.Outcome State Fault Refusal := onNode s fun s =>
  if (size = 4 ∨ size = 8) ∧ x.place % size = 0 ∧ func ≤ 12 then
    plainSend s { agentReq .atom (lineOf x.place) a ((leBytes size arg).mapIdx fun i v => (x.place % lineBytes + i, v)) false func with
      size := size, cmp := cmp } x.fault
  else .next (withResp s .refused)

/-! ## Snoops -/

/-- The die answers the home's snoop of this kind; without one in flight, or while a route switch holds its answer back, the
command is not due. -/
def snoopCmd (s : Node) (d line : Nat) (k : Snoop) : Host.Outcome Node Fault Refusal :=
  onDie d (match (dirOf s (homeOf s line)).snoops.find? (fun m => m.line == line && m.die == d && decide (m.kind = k)) with
    | some m => if snoopHeld s m then s else answerSnoop s m
    | none => s)

def execSnps (d line : Nat) (s : State) : Host.Outcome State Fault Refusal := onNode s fun s => snoopCmd s d line .snpS
def execSnpx (d line : Nat) (s : State) : Host.Outcome State Fault Refusal := onNode s fun s => snoopCmd s d line .snpX
def execSnprd (d line : Nat) (s : State) : Host.Outcome State Fault Refusal := onNode s fun s => snoopCmd s d line .snpRd
def execSnpcln (d line : Nat) (s : State) : Host.Outcome State Fault Refusal := onNode s fun s => snoopCmd s d line .snpCln
def execSnprcl (d line : Nat) (s : State) : Host.Outcome State Fault Refusal := onNode s fun s => snoopCmd s d line .snpRcl
def execSnpinv (d line : Nat) (s : State) : Host.Outcome State Fault Refusal := onNode s fun s => snoopCmd s d line .snpInv

/-! ## Responses -/

/-- The die-cache ways a filler may use (R230): an all-zero mask acts as all ones. -/
def dcWays (s : Node) (d : Nat) (by_ : FillBy) : Nat :=
  let m := if by_ = .host then fGet s (dLoc .dcCtrl d) fDcCtrlCways else fGet s (dLoc .dcCtrl d) fDcCtrlGways
  if m = 0 then 2 ^ 24 - 1 else m

/-- The line in a way of a set of a die cache. -/
def dcInWay (s : Node) (d set way : Nat) : Option Nat :=
  ((dieOf s d).cache.lines.find? fun (l, x) => l % 8192 == set && x.way == way).map (·.1)

/-- Makes room for a line in a die cache (R230): a free allowed way, or a victim without a request outstanding. -/
def dcRoom (s : Node) (d line : Nat) (by_ : FillBy) : Option (Node × Nat) :=
  let set := line % 8192
  let allowed := ones 24 (dcWays s d by_)
  match allowed.find? fun w => (dcInWay s d set w).isNone with
  | some w => some (s, w)
  | none =>
    let can := allowed.filter fun w => match dcInWay s d set w with
      | some l => !hasMiss s d l
      | none => false
    if can = [] then none
    else
      let w := can.getD (Config.dcVictim d line can.length % can.length) 0
      match dcInWay s d set w with
      | some l => some (homeGo (evictLine s d l) l, w)
      | none => some (s, w)

/-- The line's waiting stores are merged in order (R229). -/
def mergeWaiting (s : Node) (d line : Nat) : Node :=
  let l := (dieOf s d).cache.stores.filter fun p => p.line = line
  let s1 := l.foldl (fun s p => mergeStore (soleCore s d line (unitCore p.gable)) d line p.bytes) s
  modCache s1 d fun c => { c with stores := c.stores.filter fun p => p.line ≠ line }

/-- A miss has ended: the oldest request that waited for room and that neither the cache nor a miss serves is sent (R208,
R209). -/
def nextMiss (s : Node) (d : Nat) : Node :=
  if (dieOf s d).cache.misses.length ≥ 512 then s
  else match (dieOf s d).cache.waiting.filter fun w => !hasMiss s d w.1 && !serves s d w.1 w.2.1 with
    | [] => modCache s d fun c => { c with waiting := [] }
    | (line, write, by_) :: rest => sendMiss (modCache s d fun c => { c with waiting := rest }) d line write by_

/-- The line no longer holds back the loads of a die's groups (R97). -/
def loadsGot (s : Node) (d line : Nat) : Node :=
  (List.range 16).foldl (fun s i =>
    let g := 16 * d + i
    if (gableOf s g).groups.any (fun (_, k) => k.loads.any fun l => l.need.contains line) then
      let f := fun (k : Group) =>
        { k with loads := k.loads.map fun l => { l with need := dropLine line l.need } }
      modGable s g fun x => { x with groups := x.groups.map fun (n, k) => (n, f k) }
    else s) s

/-- Puts a granted line into the cache, where a way is free or can be freed: stores that wait merge, an E grant becoming M
silently (R209), waiting loads get the line, and a store that an S grant does not serve asks again. -/
def fillGranted (s : Node) (d line : Nat) (m : Miss) (granted : Moesi) : Node :=
  let stored := (dieOf s d).cache.stores.any fun p => p.line == line
  let st := if granted = .e ∧ stored then .m else granted
  let held := tblGet DcLine.absent (dieOf s d).cache.lines line
  let room := if held.st ≠ .i then some (s, held.way) else dcRoom s d line m.filler
  match room with
  | none => s
  | some (s1, w) =>
    let filler := if held.st ≠ .i then held.filler else m.filler
    let s2 := if st = .m then noteCopy s1 d line else s1
    let c1 : DcLine := ⟨st, w, filler, held.cores, if held.st ≠ .i then held.poison else m.poisoned⟩
    let s3 := modCache s2 d fun c => { c with
      lines := tblSet DcLine.absent c.lines line c1
      misses := c.misses.filter fun y => y.line ≠ line }
    let s4 := if st = .m ∧ stored then mergeWaiting s3 d line else s3
    let s5 := loadsGot (noteCores s4 d line m.cores) d line
    let s6 := (List.range 16).foldl (fun s i => settleGroups s (16 * d + i)) s5
    nextMiss (if stored ∧ st ≠ .m then sendMiss s6 d line true .gable else s6) d

/-- A caching requester that holds the data, its Acks and the Cmp takes the line (R213). -/
def takeResponse (s : Node) (d line : Nat) : Node :=
  match missOf s d line with
  | none => s
  | some m =>
    match m.grant, m.need with
    | some st, some n => if !m.gotData ∨ m.acks < n then s else fillGranted s d line m st
    | _, _ => s

/-- It then sends CmpAck, which ends the line's transaction: the next queued request starts (R213). -/
def takeCmpAck (s : Node) (d line : Nat) : Node :=
  let b := homeOf s line
  match (dirOf s b).txns.find? (fun t => t.req.line == line) with
  | some t =>
    let upgraded := match missOf s d line with
      | some m => m.grant.isNone
      | none => true
    if t.answered && decide (t.req.src = .die d) && upgraded && !lineHeld s (d / 3) b line then homeNext (homeGo (endTxn s b line) line) b else s
  | none => s

def execCoherenceResponse (d line : Nat) (s : State) : Host.Outcome State Fault Refusal := onNode s fun s =>
  onDie d (takeResponse s d line)

def execCmpack (d line : Nat) (s : State) : Host.Outcome State Fault Refusal := onNode s fun s =>
  onDie d (takeCmpAck s d line)

/-- The home's acknowledgement empties the writeback buffer (R214), once it has taken the eviction: nothing of it waits at
the home or before a route switch. -/
def execEvictionAcknowledged (d line : Nat) (s : State) : Host.Outcome State Fault Refusal := onNode s fun s =>
  onDie d (
    let mine := fun (r : HomeReq) => r.line == line && decide (r.src = .die d) && (decide (r.kind = .wbd) || decide (r.kind = .evc))
    let b := homeOf s line
    if (dirOf s b).queue.any mine || (netOf s).held.any mine || lineHeld s b (d / 3) line then s
    else
      let s1 := modCache s d fun c => { c with evicting := c.evicting.filter fun p => p.1 ≠ line }
      if holdSt s1 d line = .i then dropAlt s1 line d else s1)

/-- A die cache fails to answer a snoop in time (R221): a record, a fence asked for, and the line resolved as of a
fenced die (R219). -/
def execSnoopTimeout (d line : Nat) (s : State) : Host.Outcome State Fault Refusal := onNode s fun s =>
  onDie d (
    let b := homeOf s line
    match (dirOf s b).snoops.find? (fun m => m.line == line && m.die == d) with
    | none => s
    | some m =>
      let s1 := logErr s (12 + b) 0x10 0x0161 (line * lineBytes) [(1, d)]
      let s2 := { s1 with fenceReqs := s1.fenceReqs ++ [(d, 1)] }
      let s3 := fenceLine s2 line d
      answerSnoop s3 m)

/-! ## Fence scan -/

/-- The fence scan of a slice ends (R220): the fenced die is removed from every entry. -/
def execFenceScanDone (b : Nat) (s : State) : Host.Outcome State Fault Refusal := onNode s fun s =>
  onBase b (match (dirOf s b).scan with
    | [] => s
    | d :: _ =>
      let lines := ((dirOf s b).entries.filter fun p => entryHolds p.2 d).map (·.1)
      let s1 := lines.foldl (fun s l => fenceLine s l d) s
      modDir s1 b fun x => { x with scan := x.scan.drop 1 })

end Sys2Proof.Machine
end

