-- ==== Sys2Proof/Machine/Agents.lean ====
section
/-! DEFINITION. The accesses of agents without a cache (R207, R212, R217, R240): what a command reads or writes of memory
in the course of its effect is an RdOnce, a WrLine or a WrPart at the line's home, which takes its turn there. -/

namespace Sys2Proof.Machine

/-- Whether a request of a command's own stands at a line's home. -/
def accessWaits (s : Node) (line : Nat) : Bool :=
  (dirOf s (homeOf s line)).queue.any (fun r => r.line == line && decide (r.src = inward)) ||
  (dirOf s (homeOf s line)).txns.any (fun t => t.req.line == line && decide (t.req.src = inward))

/-- One step of what stands before it: a holder answers a snoop, a die cache takes a response and acknowledges it, or the
next request of the line starts. -/
def lineStep (s : Node) (line : Nat) : Node :=
  let b := homeOf s line
  match (dirOf s b).txns.find? (fun t => t.req.line == line || (t.evicts && t.victim == line)) with
  | none => homeGo s line
  | some t =>
    match (dirOf s b).snoops.find? (fun m => m.line == line || (t.evicts && m.line == t.victim)) with
    | some m => if snoopHeld s m then s else answerSnoop s m
    | none =>
      match t.req.src with
      | .die d => takeCmpAck (takeResponse s d line) d line
      | .other _ => s

/-- Goes on until the command's own request has been performed, for at most `n` steps. -/
def lineSteps : Nat → Node → Nat → Node
  | 0, s, _ => s
  | n + 1, s, line => if accessWaits s line then lineSteps n (lineStep s line) line else s

/-- The steps that a line's home may need: twelve snoops and an answer for each request there. -/
def lineFuel (s : Node) (line : Nat) : Nat := 32 * ((dirOf s (homeOf s line)).queue.length + 2)

/-- A command's own request arrives at the home and is performed when its turn comes, the requests before it going first
(R207). One that a cut (R417) or a route switch (R291) holds back is left there, and `served` undoes the command. -/
def access (s : Node) (r : HomeReq) : Node :=
  let s1 := atHome s r
  if lineHeld s r.base (homeOf s r.line) r.line then s1 else lineSteps (lineFuel s1 r.line) s1 r.line

/-- Whether an access of the command in progress is left at a home. -/
def accessHeld (s : Node) : Bool :=
  anyBelow 4 fun b => (dirOf s b).queue.any (fun r => decide (r.src = inward)) ||
    (dirOf s b).txns.any (fun t => decide (t.req.src = inward))

/-- What a command leaves: nothing is changed while one of its accesses waits at a home; it takes its turn when the command
comes again. DESIGN CHOICE (log entry 184). -/
def served (s t : Node) : Node := if accessHeld t && !accessHeld s then s else t

/-- A command with accesses of its own. -/
def onServed (s : State) (f : Node → Host.Outcome Node Fault Refusal) : Host.Outcome State Fault Refusal :=
  onNode s fun n => match f n with
    | .next t => .next (served n t)
    | .fault e => .fault e
    | .refused r => .refused r

/-- A request of a command's own, from a base die. -/
def ownReq (base : Nat) (k : ReqKind) (line : Nat) (bytes : List (Nat × Byte)) (poison : Bool) (cls : Nat) : HomeReq :=
  ⟨k, line, inward, bytes, poison, cls, 0, 0, base, []⟩

/-- Performs whatever stands at a line's home, for at most `n` steps. -/
def settleSteps : Nat → Node → Nat → Node
  | 0, s, _ => s
  | n + 1, s, line =>
    if lineBusy (dirOf s (homeOf s line)) line || (dirOf s (homeOf s line)).queue.any (fun r => r.line == line)
    then settleSteps n (lineStep s line) line else s

/-- An Atom of a command's own (R218): the requests before it go first, and its old value is that of the memory copy once
every copy has been invalidated. -/
def homeAtom (s : Node) (base addr size func arg cmp : Nat) : Node × Nat :=
  let line := lineOf addr
  let s1 := settleSteps (lineFuel s line) s line
  let old := readLE s1 addr size
  (access s1 { ownReq base .atom line ((leBytes size arg).mapIdx fun i v => (addr % lineBytes + i, v)) false func with
    size := size, cmp := cmp }, old)

/-- A read of a line by an agent without a cache on a base die (R212, RdOnce), in a class. -/
def homeRead (s : Node) (base cls line : Nat) : Node := access s (ownReq base .rdonce line [] false cls)

/-- The copy of a pending chunk is taken ahead of all other requests for the line (R417). -/
def homeReadFirst (s : Node) (base cls line : Nat) : Node :=
  let s1 := modDir s (homeOf s line) fun x => { x with queue := ownReq base .rdonce line [] false cls :: x.queue }
  lineSteps (lineFuel s1 line) s1 line

/-- A write of bytes of a line by an agent without a cache (R212, R240): WrLine or WrPart. -/
def homeWrite (s : Node) (base cls line : Nat) (bytes : List (Nat × Byte)) (poison : Bool) : Node :=
  let kind := if allBelow lineBytes (fun i => bytes.any (fun p => p.1 == i)) then ReqKind.wrline else .wrpart
  access s (ownReq base kind line bytes poison cls)

/-- A read of consecutive bytes of HBM by an agent without a cache: its effect at the homes. -/
def agentTouch (s : Node) (base cls a n : Nat) : Node :=
  if n = 0 then s else (linesOf a n).foldl (fun s l => homeRead s base cls l) s

/-- A write of consecutive bytes by an agent without a cache, in a class. -/
def agentWriteBy (s : Node) (base cls a : Nat) (l : List Byte) (poison : Bool) : Node :=
  if l = [] then s
  else (linesOf a l.length).foldl (fun s line =>
    homeWrite s base cls line (((List.range lineBytes).filter fun o =>
        decide (a ≤ line * lineBytes + o) && decide (line * lineBytes + o < a + l.length)).map fun o =>
      (o, l.getD (line * lineBytes + o - a) 0)) poison) s

/-- The same in the DMA class. -/
def agentWrite (s : Node) (base a : Nat) (l : List Byte) (poison : Bool) : Node := agentWriteBy s base clsDma a l poison

/-- A little-endian value written by an agent without a cache. -/
def agentWriteLE (s : Node) (base a n v : Nat) : Node := agentWrite s base a (leBytes n v) false

/-- Writes of listed bytes by an agent without a cache. -/
def dmaWriteList (s : Node) (base : Nat) (l : List (Nat × Byte)) (poison : Bool) : Node :=
  (byLine l).foldl (fun s (line, bytes) => homeWrite s base clsDma line bytes poison) s

/-- A write of consecutive bytes by an agent without a cache. -/
def dmaWrite (s : Node) (base a : Nat) (l : List Byte) : Node := agentWrite s base a l false

end Sys2Proof.Machine
end

