-- ==== Sys2Proof/Machine/Translate.lean ====
section
/-! DEFINITION. Address translation (R259 to R271): the walk, the fault causes, the translation caches with folding,
the translate-all-first rule, and the queuing of faults. -/

namespace Sys2Proof.Machine

/-- Access kinds, as ACC of the fault record numbers them (R269). -/
def accRead : Nat := 0
def accWrite : Nat := 1
def accAmo : Nat := 2
def accFetch : Nat := 3

/-- Where a walk stopped: cause (R261), level, PTE and its address. -/
structure WalkFault where
  cause : Nat
  level : Nat
  pte : Nat
  ptePa : Nat
  deriving DecidableEq, Repr

/-- How a walk ends. -/
inductive WalkRes where
  | ok (e : TlbEntry)
  | fault (f : WalkFault)
  deriving DecidableEq, Repr

/-- Fields of a PTE. -/
def pteV (p : Nat) : Bool := bit p 0
def pteR (p : Nat) : Bool := bit p 1
def pteW (p : Nat) : Bool := bit p 2
def pteX (p : Nat) : Bool := bit p 3
def pteU (p : Nat) : Bool := bit p 4
def pteA (p : Nat) : Bool := bit p 6
def pteD (p : Nat) : Bool := bit p 7
def ptePpn (p : Nat) : Nat := bits p 53 10
def ptePbmt (p : Nat) : Nat := bits p 62 61
def pteN (p : Nat) : Bool := bit p 63

/-- Whether a valid PTE at a level is a leaf. -/
def pteLeaf (p : Nat) : Bool := pteR p || pteW p || pteX p

/-- RESERVED_PTE (R261, cause 0x06). -/
def pteReserved (p level : Nat) : Bool :=
  (!pteR p && pteW p) || bits p 60 54 != 0 || ptePbmt p == 3 ||
  (!pteLeaf p && (pteA p || pteD p || pteU p || pteN p || ptePbmt p != 0)) ||
  (!pteLeaf p && level == 0) ||
  (pteN p && !(level == 0 && pteLeaf p && ptePpn p % 16 == 8)) ||
  (pteLeaf p && ptePpn p % 2 ^ (9 * level) != 0)

/-- PERMISSION (R261, cause 0x08) for a requester at user level. -/
def pteForbids (p acc : Nat) : Bool :=
  !pteU p || (acc == accRead && !pteR p) || (acc == accWrite && !pteW p) ||
  (acc == accAmo && !(pteR p && pteW p)) || (acc == accFetch && !pteX p)

/-- ACCESSED_DIRTY (R261, cause 0x09). -/
def pteNeedsAD (p acc : Nat) : Bool := !pteA p || ((acc == accWrite || acc == accAmo) && !pteD p)

/-- Whether PTE `q`, `k` places from the target `p` in its line, folds with it (R263). -/
def pteFolds (p q level : Nat) (k : Int) : Bool :=
  pteV q && pteLeaf q && !pteReserved q level && pteR q == pteR p && pteW q == pteW p && pteX q == pteX p &&
  pteU q == pteU p && pteA q == pteA p && pteD q == pteD p && pteN q == pteN p && ptePbmt q == ptePbmt p &&
  decide ((ptePpn q : Int) = ptePpn p + k * 2 ^ (9 * level))

/-- The entry that a leaf fills (R263): the leaf folded with its line's PTEs, or the 16 PTEs of a Svnapot page. -/
def foldEntry (s : Node) (va pte ptePa level : Nat) : TlbEntry :=
  let size := 12 + 9 * level
  let i := va / 2 ^ size % 16
  let lineBase := ptePa - ptePa % 128
  if pteN pte then
    ⟨va / 2 ^ 16, 12, ptePpn pte - ptePpn pte % 16, 0xFFFF, pteR pte, pteW pte, pteX pte, pteA pte, pteD pte, ptePbmt pte, true⟩
  else
    let mask := (List.range 16).foldl (fun m j =>
      if j = i || pteFolds pte (readLE s (lineBase + 8 * j) 8) level ((j : Int) - i) then m ||| 1 <<< j else m) 0
    ⟨va / 2 ^ (size + 4), size, wrap 44 ((ptePpn pte : Int) - (i : Int) * 2 ^ (9 * level)), mask,
      pteR pte, pteW pte, pteX pte, pteA pte, pteD pte, ptePbmt pte, false⟩

/-- One PTE of a walk: its fault, the leaf's entry, or the next table (R261, rows in order). -/
inductive PteStep where
  | fault (f : WalkFault)
  | leaf (e : TlbEntry)
  | next (base : Nat)
  deriving DecidableEq, Repr

/-- Reads and judges the PTE of a level. -/
def pteStep (s : Node) (va acc level base : Nat) : PteStep :=
  let pa := base + 8 * bits va (20 + 9 * level) (12 + 9 * level)
  if !inHbm s pa 8 then .fault ⟨3, level, 0, pa⟩
  else if readsPoison s 12 (lineOf pa) then .fault ⟨4, level, 0, pa⟩
  else
    let p := readLE s pa 8
    if !pteV p then .fault ⟨5, level, p, pa⟩
    else if pteReserved p level then .fault ⟨6, level, p, pa⟩
    else if pteLeaf p && decide (level > 2) then .fault ⟨7, level, p, pa⟩
    else if pteLeaf p && pteForbids p acc then .fault ⟨8, level, p, pa⟩
    else if pteLeaf p && pteNeedsAD p acc then .fault ⟨9, level, p, pa⟩
    else if pteLeaf p then .leaf (foldEntry s va p pa level)
    else .next (ptePpn p * 4096)

/-- The walk from a level down. -/
def walkFrom (s : Node) (va acc : Nat) : Nat → Nat → WalkRes
  | 0, base =>
    match pteStep s va acc 0 base with
    | .fault f => .fault f
    | .leaf e => .ok e
    | .next b => .fault ⟨6, 0, 0, b⟩
  | l + 1, base =>
    match pteStep s va acc (l + 1) base with
    | .fault f => .fault f
    | .leaf e => .ok e
    | .next b => walkFrom s va acc l b

/-- The non-leaf PTEs that a walk from a level down reads, by level: what a walk cache keeps (R260). -/
def walkTrail (s : Node) (va acc : Nat) : Nat → Nat → List WalkEntry
  | 0, _ => []
  | l + 1, base =>
    match pteStep s va acc (l + 1) base with
    | .next b =>
      let pa := base + 8 * bits va (29 + 9 * l) (21 + 9 * l)
      ⟨l + 1, va / 2 ^ (21 + 9 * l), readLE s pa 8⟩ :: walkTrail s va acc l b
    | _ => []

/-- The addresses of every PTE a walk from a level down reads. -/
def walkReads (s : Node) (va acc : Nat) : Nat → Nat → List Nat
  | 0, base => [base + 8 * bits va 20 12]
  | l + 1, base =>
    (base + 8 * bits va (29 + 9 * l) (21 + 9 * l)) ::
      match pteStep s va acc (l + 1) base with
      | .next b => walkReads s va acc l b
      | _ => []

/-- Whether the bits above the mode's top bit all equal it (R261, cause 0x01). -/
def canonical (mode va : Nat) : Bool :=
  let top := if mode = 9 then 47 else 56
  let hi := bits va 63 top
  hi == 0 || hi == 2 ^ (64 - top) - 1

/-- The walk cache entry that a walk of an address hits at a level. -/
def walkHit (s : Node) (b va level : Nat) : Option WalkEntry :=
  (stuOf s b).walkCache.find? fun e => e.level == level && e.part == va / 2 ^ (12 + 9 * level)

/-- Where a slice's walk starts (R260): below the lowest non-leaf PTE that its walk cache holds for the address, else at
the root; the level, the table's base and the entry used. -/
def walkStart (s : Node) (b va : Nat) : Nat × Nat × Option WalkEntry :=
  let top := if fGet s (bLoc .stuSatp 0) fStuSatpMode = 9 then 3 else 4
  match ((List.range top).map (· + 1)).findSome? (walkHit s b va) with
  | some e => (e.level - 1, ptePpn e.pte * 4096, some e)
  | none => (top, fGet s (bLoc .stuSatp 0) fStuSatpPpn * 4096, none)

/-- A walk cache of 8-way sets with an entry made most recent in its set (R260). DESIGN CHOICE (log entry 180): the set is the
low part of what the entry covers. -/
def walkKeep (l : List WalkEntry) (e : WalkEntry) : List WalkEntry :=
  let rest := l.filter fun x => x.level != e.level || x.part != e.part
  let same := (rest.filter fun x => x.part % 128 == e.part % 128).take 7
  e :: rest.filter fun x => x.part % 128 != e.part % 128 || same.contains x

/-- The walk of the system translation unit from a level and a table's base down (R260, R261). -/
def walkAt (s : Node) (va acc level base : Nat) : WalkRes :=
  let mode := fGet s (bLoc .stuSatp 0) fStuSatpMode
  if mode = 0 then .fault ⟨2, 0, 0, 0⟩
  else if !canonical mode va then .fault ⟨1, 0, 0, 0⟩
  else walkFrom s va acc level base

/-- The walk of a slice. -/
def stuWalk (s : Node) (b va acc : Nat) : WalkRes := walkAt s va acc (walkStart s b va).1 (walkStart s b va).2.1

/-- What the page tables in memory say of an address: the walk from the root. -/
def rootWalk (s : Node) (va acc : Nat) : WalkRes :=
  walkAt s va acc (if fGet s (bLoc .stuSatp 0) fStuSatpMode = 9 then 3 else 4) (fGet s (bLoc .stuSatp 0) fStuSatpPpn * 4096)

/-- Whether an entry covers a virtual address. -/
def tlbCovers (e : TlbEntry) (va : Nat) : Bool :=
  e.run == va / 2 ^ (e.size + 4) && bit e.mask (va / 2 ^ e.size % 16)

/-- Whether an entry overlaps a range of virtual addresses (R274). -/
def tlbOverlaps (e : TlbEntry) (lo hi : Nat) : Bool :=
  anyBelow 16 fun i => bit e.mask i &&
    (let base := e.run * 2 ^ (e.size + 4) + i * 2 ^ e.size
     decide (base ≤ hi) && decide (lo ≤ base + 2 ^ e.size - 1))

/-- Whether a hit forbids the access or has A or D clear: it does not fault but is walked again (R264). -/
def tlbForbids (e : TlbEntry) (acc : Nat) : Bool :=
  (acc == accRead && !e.r) || (acc == accWrite && !e.w) || (acc == accAmo && !(e.r && e.w)) ||
  (acc == accFetch && !e.x) || !e.a || ((acc == accWrite || acc == accAmo) && !e.d)

/-- The translation an entry gives, at the size that maps the page (R265): 64 KiB for a Svnapot page. -/
def tlbMap (e : TlbEntry) (va : Nat) : PageMap :=
  if e.napot then ⟨va / 2 ^ 16, e.ppn0 * 4096, 16, e.pbmt == 0⟩
  else ⟨va / 2 ^ e.size, e.ppn0 * 4096 + va / 2 ^ e.size % 16 * 2 ^ e.size, e.size, e.pbmt == 0⟩

/-- The physical address of a byte under a translation. -/
def mapAddr (m : PageMap) (va : Nat) : Nat := (m.ppn + va % 2 ^ m.size) % 2 ^ 56

/-- A cache with an entry made most recent, cut to its capacity. -/
def tlbFill (cap : Nat) (l : List TlbEntry) (e : TlbEntry) : List TlbEntry :=
  (e :: l.filter (fun x => x ≠ e)).take cap

/-- The set of the die translation cache an entry lies in: 512 sets of 8 ways (R261 table). -/
def dieSet (e : TlbEntry) : Nat := e.run % 512

/-- The die translation cache with an entry made most recent in its set. -/
def dieFill (l : List TlbEntry) (e : TlbEntry) : List TlbEntry :=
  let same := (l.filter fun x => dieSet x = dieSet e && x ≠ e).take 7
  e :: (l.filter fun x => dieSet x ≠ dieSet e || same.contains x).filter (fun x => x ≠ e)

/-- The outcome of translating one page. -/
inductive PageRes where
  | ok (m : PageMap)
  | fault (f : WalkFault)
  deriving DecidableEq, Repr

/-- A walk's effect on a die: the walk counted, its PTEs read in the WALK class, the non-leaf ones kept by the slice's walk
cache, the caches filled on success (R260, R262, R263). -/
def walkFill (s : Node) (die : Nat) (gable : Option Nat) (va acc : Nat) : Node × PageRes :=
  let b := baseOfDie die
  let s0 := cntAdd s (bLoc .stuWalks b) 1
  let mode := fGet s (bLoc .stuSatp 0) fStuSatpMode
  let walks := mode != 0 && canonical mode va
  let (level, base, hit) := walkStart s b va
  let reads := if walks then walkReads s va acc level base else []
  let s1 := reads.foldl (fun s a => if inHbm s a 8 then homeRead s b clsWalk (lineOf a) else s) s0
  let trail := if walks then hit.toList ++ walkTrail s1 va acc level base else []
  let s2 := modStu s1 b fun u => { u with walkCache := trail.foldl walkKeep u.walkCache }
  match stuWalk s1 b va acc with
  | .fault f =>
    let s3 := if f.cause = 4 then logErr s2 (12 + b) 0x20 0x0105 (f.ptePa - f.ptePa % 128) [(1, 10)] else s2
    (s3, .fault f)
  | .ok e =>
    let s3 := modDie s2 die fun d => { d with tlb := dieFill d.tlb e }
    let s4 := match gable with
      | some g => modGable s3 g fun x => { x with tlb := tlbFill 64 x.tlb e }
      | none => s3
    let s5 := if popCount 16 e.mask > 1 then cntAdd s4 (dLoc .tcFolded die) 1 else s4
    (s5, .ok (tlbMap e va))

/-- Translates one page for a unit of a die through the caches (R262 to R264). -/
def translatePage (s : Node) (die : Nat) (gable : Option Nat) (va acc : Nat) : Node × PageRes :=
  let gt := match gable with
    | some g => (gableOf s g).tlb.find? (tlbCovers · va)
    | none => none
  match gt with
  | some e =>
    if tlbForbids e acc then
      let s1 := match gable with
        | some g => modGable s g fun x => { x with tlb := x.tlb.filter (fun y => y ≠ e) }
        | none => s
      let s2 := modDie s1 die fun d => { d with tlb := d.tlb.filter (fun y => y ≠ e) }
      walkFill s2 die gable va acc
    else
      let s1 := match gable with
        | some g => modGable s g fun x => { x with tlb := tlbFill 64 x.tlb e }
        | none => s
      (s1, .ok (tlbMap e va))
  | none =>
    let s0 := if gable.isSome then cntAdd s (dLoc .gtcMisses die) 1 else s
    match (dieOf s die).tlb.find? (tlbCovers · va) with
    | some e =>
      let s1 := cntAdd s0 (dLoc .tcHits die) 1
      if tlbForbids e acc then
        walkFill (modDie s1 die fun d => { d with tlb := d.tlb.filter (fun y => y ≠ e) }) die gable va acc
      else
        let s2 := modDie s1 die fun d => { d with tlb := dieFill d.tlb e }
        let s3 := match gable with
          | some g => modGable s2 g fun x => { x with tlb := tlbFill 64 x.tlb e }
          | none => s2
        (s3, .ok (tlbMap e va))
    | none => walkFill (cntAdd s0 (dLoc .tcMisses die) 1) die gable va acc

/-- The outcome of the translate-all-first rule (R265, R266): a physical address and whether it is cacheable for each
virtual address, with the pages of the translation list; the first failing page; or a 1,025th translation -/
inductive TransRes where
  | ok (pas : List (Nat × Bool)) (pages : List PageMap)
  | fault (va : Nat) (f : WalkFault)
  | tooMany
  deriving DecidableEq, Repr

/-- Translates addresses in the access's own order, with the pages already in its translation list. -/
def transGo (die : Nat) (gable : Option Nat) (acc : Nat) :
    List Nat → Node → List PageMap → List (Nat × Bool) → Node × TransRes
  | [], s, seen, out => (s, .ok out.reverse seen)
  | va :: rest, s, seen, out =>
    match seen.find? (fun m => m.vpn == va / 2 ^ m.size) with
    | some m => transGo die gable acc rest s seen ((mapAddr m va, m.cacheable) :: out)
    | none =>
      match translatePage s die gable va acc with
      | (s1, .fault f) => (s1, .fault va f)
      | (s1, .ok m) =>
        if seen.length ≥ 1024 then (s1, .tooMany)
        else transGo die gable acc rest s1 (m :: seen) ((mapAddr m va, m.cacheable) :: out)

/-- The translate-all-first rule. -/
def translateAll (s : Node) (die : Nat) (gable : Option Nat) (acc : Nat) (vas : List Nat) : Node × TransRes :=
  transGo die gable acc vas s [] []

/-- The size at which a translation list maps a virtual address. -/
def mapSize (pages : List PageMap) (va : Nat) : Nat := (pages.find? fun m => m.vpn == va / 2 ^ m.size).elim 12 (·.size)

/-- Counts the line requests made through far translations (R276), given as virtual and physical address: one for each
distinct line, kept by the die until forwarded. -/
def countFar (s : Node) (die : Nat) (pages : List PageMap) (l : List (Nat × Nat)) : Node :=
  if fGet s (bLoc .stuCntCtrl 0) fStuCntCtrlEn = 1 then
    (((l.filter fun p => bit p.2 55).map fun p => (lineOf p.1, lineOf p.2)).eraseDups).foldl (fun s p =>
      let size := mapSize pages (p.1 * lineBytes)
      modDie s die fun d => { d with countBatch := tblMod 0 d.countBatch (p.1 * lineBytes / 2 ^ size * 64 + size) (· + 1) }) s
  else s

/-- The bytes of a fault record (R269). -/
def faultRecord (s : Node) (fseq : Nat) (dup : Bool) (acc unit gable group va lo hi : Nat) (f : WalkFault) : List Byte :=
  leBytes 4 fseq ++ leBytes 1 (b2n dup <<< 7 + acc <<< 2) ++ leBytes 1 f.cause ++ leBytes 1 unit ++ leBytes 1 gable ++
  leBytes 1 group ++ leBytes 1 f.level ++ leBytes 6 0 ++ leBytes 8 va ++ leBytes 8 lo ++ leBytes 8 hi ++
  leBytes 8 f.pte ++ leBytes 8 f.ptePa ++ leBytes 8 (s.now % 2 ^ 64)

/-- The slice a fault on an address is queued at (R267). -/
def faultSlice (va : Nat) : Nat := bits va 13 12

/-- Whether a slice can take a further record: 64 held records are the limit (R269). -/
def sliceTakes (s : Node) (b : Nat) : Bool :=
  decide ((stuOf s b).held.length + (stuOf s b).ready.length < 64)

/-- The fault number of accesses that wait in a migration mover (R273): no FSEQ has 33 bits. -/
def heldSeq : Nat := 2 ^ 32

/-- Whether a migration in progress holds the page whose leaf PTE lies at an address (R273). -/
def migHolds (m : Mig) (ptePa : Nat) : Bool :=
  !m.busy && (match m.desc with
    | some d => !d.bad && d.pte == ptePa
    | none => false)

/-- The slice whose mover holds a page. -/
def holdingSlice (s : Node) (ptePa : Nat) : Option Nat :=
  firstBelow 4 fun b => (stuOf s b).migs.any fun m => migHolds m ptePa

/-- Queues a fault (R266, R267): joins the page's outstanding FSEQ or takes a new one, and forms its record; a fault on
a page that a migration holds waits in the mover (R273). Answers the number waited on; 0 where the slice holds 64
records and the access waits at its translation step (R269). -/
def queueFault (s : Node) (w : Waiter) (acc unit gable group va lo hi : Nat) (f : WalkFault) : Node × Nat :=
  let b := faultSlice va
  let u := stuOf s b
  match holdingSlice s f.ptePa with
  | some h =>
    let hold := fun (m : Mig) => { m with held := m.held ++ [w] }
    (modStu s h fun x => { x with migs := modFirst (fun m => migHolds m f.ptePa) hold x.migs }, heldSeq)
  | none =>
    if !sliceTakes s b then (s, 0)
    else
      match u.faults.find? (fun q => q.page == va / 4096) with
      | some q =>
        let rec_ := faultRecord s q.num true acc unit gable group va lo hi f
        let s1 := modStu s b fun x => { x with
          faults := modFirst (fun y => y.num == q.num) (fun y => { y with waiters := y.waiters ++ [w] }) x.faults
          ready := x.ready ++ [rec_] }
        (cntAdd s1 (bLoc .stuDuplicates b) 1, q.num)
      | none =>
        let num := b <<< 30 + u.nextSeq
        let rec_ := faultRecord s num false acc unit gable group va lo hi f
        let s1 := modStu s b fun x => { x with
          nextSeq := if x.nextSeq = 0x3FFFFFFF then 1 else x.nextSeq + 1
          faults := x.faults ++ [⟨num, va / 4096, [w]⟩]
          ready := x.ready ++ [rec_] }
        (cntAdd s1 (bLoc .stuFaults b) 1, num)

/-- The least and the greatest of a list of addresses. -/
def spanOf (l : List Nat) : Nat × Nat := (l.foldl min (2 ^ 64 - 1), l.foldl max 0)

end Sys2Proof.Machine
end

