-- ==== Sys2Proof/Machine/Gables.lean ====
section
/-! DEFINITION. Gable thread instructions (04_gables.md): paths (R88 to R94), loads and stores (R95 to R103), counters
(R111), thread arithmetic (R86), the group's launch block and rounding key (R127, R166). -/

namespace Sys2Proof.Machine

/-- Whether every register an instruction names lies below REGS (R83). -/
def regsOk (k : Group) (l : List Nat) : Bool := l.all fun r => decide (r < k.regs)

/-- Cycles that an instruction's source reads lose to bank conflicts (R87): register r of the group in slot s lies in bank
(r + s) mod 4, and a bank performs one read in a cycle. DESIGN CHOICE (log entry 190): a register that an instruction names
twice as a source is read twice. -/
def bankLoss (slot : Nat) (srcs : List Nat) : Nat :=
  (List.range 4).foldl (fun m b => max m (srcs.filter fun r => (r + slot) % 4 = b).length) 0 - 1

/-- Adds those cycles to REG_CONFLICT_CYCLES (R118), once for an instruction. -/
def countBanks (s : Node) (g k : Nat) (srcs : List Nat) : Node :=
  if (groupOf s g k).wait = .none ∨ (groupOf s g k).wait = .operands then
    cntAdd s (gLoc .regConflictCycles g) (bankLoss (k % 16) srcs)
  else s

/-- Performs an instruction after the checks of R115: its encoding, then its register numbers. The word's opcode must
be the one the command names; while a source awaits a load the group waits for its operands (R85). -/
def issueWord (s : Node) (g k op w : Nat) (legal : Bool) (regs srcs : List Nat) (f : Node → Group → Node) : Node :=
  if opcodeOf w ≠ op then s
  else issue s g k fun x =>
    if srcs.any (awaits x) then waitOn s g k .operands
    else if !legal then stopGroup s g k eIllegal
    else if !regsOk x regs then stopGroup s g k eRegRange
    else f (countBanks s g k srcs) x

/-! ## Paths -/

/-- Encoding of a branch (R88): [54:40] reserved, and RS zero for JMP. -/
def branchLegal (w : Nat) : Bool := bits w 54 40 == 0 && (opcodeOf w != 0xB2 || bits w 39 32 == 0)

/-- The lanes that take a branch (R88). -/
def takenMask (x : Group) (w : Nat) : Nat :=
  let rs := bits w 39 32
  match opcodeOf w with
  | 0xB0 => maskOf ((lanes x).filter fun i => readReg x rs i ≠ 0)
  | 0xB1 => maskOf ((lanes x).filter fun i => readReg x rs i = 0)
  | _ => runMask x

/-- A branch target: OFF counts instructions from the branch (R88). -/
def branchTarget (pc w : Nat) : Nat := wrap 64 ((pc : Int) + 8 * signed 32 w)

/-- The group after a branch (R91, R92): it splits when lanes disagree, and a taken backward branch with SPIN rotates.
DESIGN CHOICE (log entry 175): of a path that holds the turn and splits, the part that falls through keeps it -/
def branched (x : Group) (w : Nat) : Group :=
  let pc := runPc x
  let taken := takenMask x w
  let rest := runMask x - taken
  let target := branchTarget pc w
  let parts := (if taken = 0 then [] else [⟨target, taken⟩]) ++ (if rest = 0 then [] else [⟨nextPc pc, rest⟩])
  let y := advance x parts (if rest = 0 then target else nextPc pc)
  if bit w 55 && taken != 0 && decide (signed 32 w ≤ 0) then rotate y pc target else y

/-- A branch instruction. -/
def branchOp (s : Node) (g k op w : Nat) : Node :=
  issueWord s g k op w (branchLegal w) [bits w 39 32] (if op = 0xB2 then [] else [bits w 39 32]) fun s x =>
    retire s g k (branched x w)

def execBnz (g k w : Nat) (s : State) : Host.Outcome State Fault Refusal := onNode s fun s => onGable g (branchOp s g k 0xB0 w)
def execBz (g k w : Nat) (s : State) : Host.Outcome State Fault Refusal := onNode s fun s => onGable g (branchOp s g k 0xB1 w)
def execJmp (g k w : Nat) (s : State) : Host.Outcome State Fault Refusal := onNode s fun s => onGable g (branchOp s g k 0xB2 w)

/-- YIELD rotates (R92). -/
def execYield (g k w : Nat) (s : State) : Host.Outcome State Fault Refusal := onNode s fun s =>
  onGable g (issueWord s g k 0xC0 w (bits w 55 0 == 0) [] [] fun s x =>
    retire s g k (rotate (stepPc x) (runPc x) (nextPc (runPc x))))

/-- The group after its active lanes end (R88, R92). -/
def exited (x : Group) : Group :=
  let rest := x.paths.drop 1
  { x with paths := runFirst (lowestPc rest) rest, turn := false, threads := x.threads - (x.threads &&& runMask x), watch := 0 }

/-- EXIT ends the active lanes; the group ends when no thread remains (R88). -/
def execExit (g k w : Nat) (s : State) : Host.Outcome State Fault Refusal := onNode s fun s =>
  onGable g (issueWord s g k 0xC1 w (bits w 55 0 == 0) [] [] fun s x =>
    if x.paths.length ≤ 1 then endGroup s g k else retire s g k (exited x))

/-- The watchdog's period in ACLK cycles (R94, R118): none where WD_EXP is 0; 1 to 15 act as 16. -/
def watchPeriod (s : Node) (g : Nat) : Option Nat :=
  let e := fGet s (gLoc .gableCtrl g) fGableCtrlWdExp
  if e = 0 then none else some (2 ^ max 16 e)

/-- Whether a group's watchdog counts (R94): it has two or more paths. -/
def watched (x : Group) : Bool := decide (x.paths.length ≥ 2)

/-- The stall watchdog of a divergent group has reached its period (R94): the group stops at its next boundary, one that
waits in a translation once its instruction has been performed. DESIGN CHOICE (log entry 190): of a group that stands
STOPPED the stop waits for its RESUME. -/
def execGroupStall (g k : Nat) (s : State) : Host.Outcome State Fault Refusal := onNode s fun s =>
  onGable g (
    let x := groupOf s g k
    if watched x && decide (x.phase ≠ .stopped) && !x.stopNext.contains eStall &&
        (watchPeriod s g).any (fun n => decide (x.watch ≥ n)) then
      stopAtBoundary s g k x.order eStall
    else s)

/-! ## Memory access -/

/-- Encoding of LD, ST, LDS and STS (R88, R89). -/
def memLegal (w : Nat) (store : Bool) : Bool :=
  let size := bits w 55 53
  decide (size ≤ 4) && bits w 50 48 == 0 && (!bit w 52 || (!store && decide (size < 2))) &&
  (size != 3 || bits w 40 40 == 0) && (size != 4 || bits w 41 40 == 0)

/-- Registers LD, ST, LDS or STS names: RD on, RA (a pair for a virtual address), RP under PEN. -/
def memRegs (w : Nat) (pair : Bool) : List Nat :=
  let size := bits w 55 53
  (List.range ((2 ^ size + 3) / 4)).map (bits w 47 40 + ·) ++ [bits w 39 32] ++
  (if pair then [bits w 39 32 + 1] else []) ++ (if bit w 51 then [bits w 31 24] else [])

/-- The source registers of LD, ST, LDS or STS: all but a load's RD (R85, R87). -/
def memSrcs (w : Nat) (pair store : Bool) : List Nat :=
  (if store then (List.range ((2 ^ bits w 55 53 + 3) / 4)).map (bits w 47 40 + ·) else []) ++ [bits w 39 32] ++
  (if pair then [bits w 39 32 + 1] else []) ++ (if bit w 51 then [bits w 31 24] else [])

/-- The lanes that access: active and not masked by PEN and RP (R89, R95). -/
def accessLanes (x : Group) (w : Nat) : List Nat :=
  (lanes x).filter fun i => !bit w 51 || readReg x (bits w 31 24) i ≠ 0

/-- A lane's virtual address (R89). -/
def laneVa (x : Group) (w i : Nat) : Nat := wrap 64 ((readPair x (bits w 39 32) i : Int) + signed 24 w)

/-- A lane's scratch address (R89). -/
def laneScratch (x : Group) (w i : Nat) : Nat := wrap 32 (((readReg x (bits w 39 32) i).toNat : Int) + signed 24 w)

/-- The fault a Gable's access to a physical address meets: refused (R22, R102), unmapped (R232) or unreachable (R335);
`none` where it may be performed. DESIGN CHOICE (log entry 176): a scratch window takes 16 bytes of a group too, where
R102 names 1, 2, 4 and 8. -/
def paFault (s : Node) (pa n : Nat) : Option Nat :=
  match paKind s pa with
  | .hbm => if inHbm s pa n then none else some eUnmapped
  | .scratch g _ => if isFenced s (g / 16) then some eRefused else none
  | .doorbell _ _ => some eRefused
  | .csr _ => some eRefused
  | .remote _ _ => if windowValid s pa then none else some 0x0608
  | .unmapped => some eUnmapped

/-- The first fault of an access's lanes, in lane order. -/
def lanesFault (s : Node) (l : List LaneAddr) (n : Nat) : Option Nat := l.findSome? fun a => paFault s a.addr n

/-- Translates a group's lane addresses (R98), the pages of an access in progress being in its list already (R265); on a
fault the group is suspended with its state intact. -/
def withLanes (s : Node) (g k acc n : Nat) (ls vas : List Nat) (f : Node → List LaneAddr → List Bool → List PageMap → Node) : Node :=
  match transGo (g / 16) (some g) acc vas s (groupOf s g k).list [] with
  | (s1, .fault va wf) =>
    let (lo, hi) := spanOf vas
    let (s2, q) := queueFault s1 (.group g k) acc ((g / 16) <<< 4) (g % 16) k va lo (hi + n - 1) wf
    suspendOn s2 g k q
  | (s1, .tooMany) => stopGroup s1 g k eCopyPages
  | (s1, .ok pas pages) => f s1 (ls.zipWith (fun i p => ⟨i, p.1⟩) pas) (pas.map (·.2)) pages

/-- A byte a group's load reads: the group's own latest store still pending, else its die's copy or memory (R224). -/
def loadByte (s : Node) (g k a : Nat) : Byte :=
  match paKind s a with
  | .scratch h off => scratchByte s h off
  | _ =>
    let own := ((dieOf s (g / 16)).cache.stores.filter fun p => p.gable == g % 16 && p.group == k && p.line == lineOf a)
    match (own.flatMap (·.bytes)).reverse.find? (fun p => p.1 == a % lineBytes) with
    | some p => p.2
    | none => dieByte s (g / 16) a

/-- The distinct lines of addresses, in order of first appearance (R97). -/
def distinctLines (l : List Nat) : List Nat := (l.map lineOf).eraseDups

/-- Whether a translation list maps an address cacheable. -/
def mapsCached (pages : List PageMap) (va : Nat) : Bool := (pages.find? fun m => m.vpn == va / 2 ^ m.size).elim true (·.cacheable)

/-- Sends a load's remote requests, one for each distinct line, and answers their numbers (R97, R335). -/
def sendLoads (pages : List PageMap) (s : Node) (who : RemoteWho) (lines : List Nat) : Node × List Nat :=
  lines.foldl (fun (p : Node × List Nat) line =>
    let (t, id) := startRemoteBy pages p.1 who 0 (line * lineBytes) lineBytes [] 0 0 0
    (t, p.2 ++ [id])) (s, [])

/-- A load's requests (R97, R98): translates, judges every lane, reads uncached lines at their homes, asks the die cache for
the others and sends its remote requests; `fin` goes on with the load in flight. -/
def loadIssue (s : Node) (g k w : Nat) (ls vas : List Nat) (pc : Nat) (fin : Node → PendLoad → Node) : Node :=
  let n := 2 ^ bits w 55 53
  let d := g / 16
  withLanes s g k accRead n ls vas fun s1 las cach pages =>
    match lanesFault s1 las n with
    | some c =>
      if c = 0x0608 then
        stopRemoteAt s1 g k c ((las.find? fun a => paFault s1 a.addr n == some 0x0608).elim 0 (·.addr)) pc
      else stopGroupAt s1 g k c pc
    | none =>
      let near := (las.zip cach).filter fun p => decide (paKind s1 p.1.addr = .hbm)
      let lines := distinctLines ((near.filter (·.2)).map fun p => p.1.addr)
      let uncached := (near.filter fun p => !p.2).map fun p => p.1.addr
      let s2 := (distinctLines uncached).foldl (fun s l => homeRead s (baseOfGable g) clsGable l) s1
      match (distinctLines uncached).find? (readsPoison s2 12), lines.find? (fun l => decide (holdSt s1 d l ≠ .i) && readsPoison s1 d l) with
      | some l, _ | none, some l => stopPoisonAt s2 g k 0 l pc
      | none, none =>
        let s3 := lines.foldl (fun s l => touchRead s d l .gable) s2
        let (s4, ids) := sendLoads pages s3 (.groupLoad g k (gableOf s1 g).loadId) (distinctLines ((las.filter fun a => bit a.addr 55).map (·.addr)))
        let s5 := countFar s4 d pages (vas.zip (las.map (·.addr)))
        let ld : PendLoad := ⟨(gableOf s1 g).loadId, bits w 47 40, bits w 55 53, bit w 52, las,
          lines.filter fun l => decide (holdSt s1 d l = .i), ids, pc, w, vas, [], pages,
          (uncached.flatMap fun a => (List.range n).map (a + ·)).map fun a => (a, readByte s2 a)⟩
        fin (modGable s5 g fun y => { y with loadId := y.loadId + 1 }) ld

/-- The registers a load writes, as keys register × 32 + lane. -/
def loadKeys (l : PendLoad) : List Nat :=
  l.lanes.flatMap fun a => (List.range ((2 ^ l.size + 3) / 4)).map fun i => (l.rd + i) * 32 + a.lane

/-- A group with a new load in flight, which supersedes earlier ones to its registers. -/
def withLoad (x : Group) (ld : PendLoad) : Group :=
  { x with loads := x.loads.map (fun l => (loadKeys ld).foldl (fun l k => supersede k l) l) ++ [ld] }

/-- LD: checks, translates and issues one request per distinct line (R96 to R98); data returns later. -/
def loadOp (s : Node) (g k w : Nat) (x : Group) : Node :=
  let n := 2 ^ bits w 55 53
  let ls := accessLanes x w
  let vas := ls.map (laneVa x w)
  if vas.any (fun a => a % n != 0) then stopGroup s g k eMisaligned
  else if ls = [] then retire s g k (stepPc x)
  else loadIssue s g k w ls vas (runPc x) fun s1 ld => retire s1 g k (withLoad (stepPc (groupOf s1 g k)) ld)

/-- Issues again the load that faulted at its data return (R114), with the lanes and addresses it had. -/
def loadAgain (s : Node) (g k w : Nat) : Node :=
  match (groupOf s g k).redo with
  | old :: rest =>
    if canIssue s g k && old.word == w then
      loadIssue s g k w (old.lanes.map (·.lane)) old.vas old.pc fun s1 ld =>
        let y := groupOf s1 g k
        retire s1 g k { y with redo := rest, loads := y.loads ++ [{ ld with skip := old.skip }] }
    else s
  | [] => s

def execLd (g k w : Nat) (s : State) : Host.Outcome State Fault Refusal := onServed s fun s =>
  onGable g (if (groupOf s g k).redo.isEmpty then
      issueWord s g k 0xC8 w (memLegal w false) (memRegs w true) (memSrcs w true false) fun s x => loadOp s g k w x
    else loadAgain s g k w)

/-- A load's value: SGN extends 1- and 2-byte values to the register (R88). -/
def loadValue (size : Nat) (sgn : Bool) (v : Nat) : Nat := if sgn then wrap 32 (signed (8 * 2 ^ size) v) else v

/-- The bytes a load's lane receives: from an answered remote access, or from memory or a scratch window, as they stood
before any later store of the group (R224). -/
def laneBytes (s : Node) (g k : Nat) (ld : PendLoad) (a n : Nat) : List Byte :=
  if bit a 55 then
    match s.remotes.find? (fun r => ld.remote.contains r.id && r.addr == bits a 39 0 / lineBytes * lineBytes &&
        r.window == bits a 54 40) with
    | some r => ((r.result.map (·.2)).getD []).drop (a % lineBytes) |>.take n
    | none => []
  else (List.range n).map fun i =>
    match ld.got.find? (fun p => p.1 == a + i) with
    | some p => p.2
    | none => loadByte s g k (a + i)

/-- Registers from r on written from a value, save those that a later instruction has written. -/
def writeKept (k : Group) (skip : List Nat) (r lane n v : Nat) : Group :=
  (List.range ((n + 3) / 4)).foldl
    (fun k i => if skip.contains ((r + i) * 32 + lane) then k else writeReg k (r + i) lane (BitVec.ofNat 32 (v / 2 ^ (32 * i)))) k

/-- Writes a load's values to its lanes. -/
def loadInto (s : Node) (g k : Nat) (x : Group) (ld : PendLoad) : Group :=
  ld.lanes.foldl (fun y a => writeKept y ld.skip ld.rd a.lane (2 ^ ld.size)
    (loadValue ld.size ld.sgn (leValue (laneBytes s g k ld a.addr (2 ^ ld.size))))) x

/-- Whether two loads share a byte. -/
def loadsMeet (a b : PendLoad) : Bool :=
  a.lanes.any fun x => b.lanes.any fun y => decide (x.addr < y.addr + 2 ^ b.size) && decide (y.addr < x.addr + 2 ^ a.size)

/-- Whether a load's data has come: its lines, its remote answers, and those of the earlier loads that share a byte with it,
since accesses to a byte keep program order (R224). -/
def loadDue (s : Node) (x : Group) (ld : PendLoad) : Bool :=
  decide (ld.need = []) && !s.remotes.any (fun r => ld.remote.contains r.id && decide (r.result = none)) &&
    !(x.loads.takeWhile fun l => l.id != ld.id).any (loadsMeet ld)

/-- A lane's line whose data is poisoned, of those that came through the die cache (R241). -/
def loadPoison (s : Node) (g : Nat) (ld : PendLoad) : Option LaneAddr :=
  ((ld.lanes.zip ld.vas).find? fun p => decide (paKind s p.1.addr = .hbm) && mapsCached ld.maps p.2 &&
    readsPoison s (g / 16) (lineOf p.1.addr)).map (·.1)

/-- Load data reaches the memory unit and is written to RD (R97), once every line has been supplied and every remote
access answered. A failed remote access, or poison, stops the group precisely with no destination changed (R241, R337),
and RESUME issues the LD again (R114). -/
def execLdDataReturn (g k load : Nat) (s : State) : Host.Outcome State Fault Refusal := onNode s fun s =>
  onGable g (
    let x := groupOf s g k
    match x.loads.find? (fun l => l.id == load) with
    | none => s
    | some ld =>
      if !loadDue s x ld then s
      else
        let answers := s.remotes.filter fun r => ld.remote.contains r.id
        let s1 := { s with remotes := s.remotes.filter fun r => !ld.remote.contains r.id }
        let y := { x with loads := x.loads.filter fun l => l.id ≠ load }
        let s2 := modGroup s1 g k fun _ => { y with redo := y.redo ++ [ld] }
        match answers.find? (fun r => (r.result.map (·.1)).getD 0 ≠ 0) with
        | some r => stopRemoteAt s2 g k ((r.result.map (·.1)).getD 0) (remotePa r) ld.pc
        | none =>
          match loadPoison s g ld with
          | some a => stopPoisonAt s2 g k 0 (lineOf a.addr) ld.pc
          | none => modGroup s1 g k fun _ => loadInto s g k y ld)

/-- The bytes the lanes of a store write, in lane order: a later entry wins (R97, R99). -/
def storeBytes (x : Group) (w n : Nat) (l : List LaneAddr) : List (Nat × Byte) :=
  l.flatMap fun a => (readWide x (bits w 47 40) a.lane n).mapIdx fun i v => (a.addr + i, v)

/-- Stores bytes by line for a Gable's unit: HBM lines through the die cache, or at the home through an uncached page;
scratch windows and remote lines uncached (R97, R102, R261, R335). -/
def storeAll (s : Node) (g grp : Nat) (maps : List PageMap) (uncached : List Nat) (who : RemoteWho) (l : List (Nat × Byte)) : Node :=
  (byLine l).foldl (fun s (line, bytes) =>
    match paKind s (line * lineBytes) with
    | .scratch h _ =>
      bytes.foldl (fun s (o, v) => scratchWrite s h ((line * lineBytes + o) % 0x200000) [v]) s
    | .remote _ _ => (startRemoteBy maps s who 1 (line * lineBytes) lineBytes bytes 0 0 0).1
    | _ =>
      if uncached.contains line then dmaWriteList s (baseOfGable g) (bytes.map fun (o, v) => (line * lineBytes + o, v)) false
      else storeLineBy maps s (g / 16) (g % 16) grp line .gable bytes) s

/-- The group's loads in flight read the bytes that its store is about to write, as they stand before it (R224). -/
def takeEarlier (s : Node) (g k : Nat) (as : List Nat) : Node :=
  modGroup s g k fun x => { x with loads := x.loads.map fun l =>
    { l with got := l.got ++ ((l.lanes.flatMap fun a => (List.range (2 ^ l.size)).map (a.addr + ·)).filter fun b =>
      as.contains b && !bit b 55 && !l.got.any (fun p => p.1 == b)).map fun b => (b, loadByte s g k b) } }

/-- A store's lanes in invalid windows (R335, R337): each of their requests fails with a record, and the group stops at a
later FENCE or release. -/
def failLanes (s : Node) (g k : Nat) (bad : List LaneAddr) : Node :=
  match bad with
  | [] => s
  | _ =>
    let s1 := (distinctLines (bad.map (·.addr))).foldl (fun s line =>
      logRemote s (g / 16) (g % 16 + 1) 0x0608 ((bad.find? fun a => lineOf a.addr == line).elim 0 (·.addr)) [(1, k)]) s
    modGroup s1 g k fun x => { x with badStore := if x.badStore = 0 then 0x0608 else x.badStore }

/-- ST: checks, translates and issues one masked request per distinct line (R96 to R98). -/
def storeOp (s : Node) (g k w : Nat) (x : Group) : Node :=
  let n := 2 ^ bits w 55 53
  let ls := accessLanes x w
  let vas := ls.map (laneVa x w)
  if vas.any (fun a => a % n != 0) then stopGroup s g k eMisaligned
  else if ls = [] then retire s g k (stepPc x)
  else withLanes s g k accWrite n ls vas fun s1 las cach pages =>
    let bad := las.filter fun a => paFault s1 a.addr n == some 0x0608
    match lanesFault s1 (las.filter fun a => !bad.contains a) n with
    | some c => stopGroup s1 g k c
    | none =>
      let s2 := failLanes (countFar s1 (g / 16) pages (vas.zip (las.map (·.addr)))) g k bad
      let out := storeBytes x w n (las.filter fun a => !bad.contains a)
      let s3 := storeAll (takeEarlier s2 g k (out.map (·.1))) g k pages (((las.zip cach).filter fun p => !p.2).map fun p => lineOf p.1.addr)
        (.groupStore g k x.order) out
      retire s3 g k (stepPc (groupOf s3 g k))

def execSt (g k w : Nat) (s : State) : Host.Outcome State Fault Refusal := onServed s fun s =>
  onGable g (issueWord s g k 0xC9 w (memLegal w true) (memRegs w true) (memSrcs w true true) fun s x => storeOp s g k w x)

/-! ## Scratch -/

/-- Rounds an LDS or STS takes: the most distinct 16-byte words in one bank (R99), of the Gable's own scratch or, with
bit [21] set, of its partner's. -/
def scratchRounds (l : List Nat) (n : Nat) : Nat :=
  let words := ((l.flatMap fun a => (List.range n).map fun i => (a + i) / 16)).eraseDups
  (List.range 64).foldl (fun m b => max m (words.filter fun w => w % 32 + 32 * bits w 17 17 = b).length) 0

/-- Adds the rounds beyond the first to SCRATCH_CONFLICT_CYCLES (R99, R118). -/
def countRounds (s : Node) (g : Nat) (l : List Nat) (n : Nat) : Node :=
  cntAdd s (gLoc .scratchConflictCycles g) (scratchRounds l n - 1)

/-- Checks LDS and STS addresses (R96, R100, R117): alignment, range, a FAULTED partner. -/
def scratchFault (s : Node) (g : Nat) (as : List Nat) (n : Nat) : Option Nat :=
  if as.any (fun a => a % n != 0) then some eMisaligned
  else if as.any (fun a => bits a 31 22 != 0) then some eScratchRange
  else if as.any (fun a => bit a 21) && fGet s (gLoc .gableCtrl (partner g)) fGableCtrlState == stFaulted then some eRefused
  else none

def execLds (g k w : Nat) (s : State) : Host.Outcome State Fault Refusal := onNode s fun s =>
  onGable g (issueWord s g k 0xCA w (memLegal w false) (memRegs w false) (memSrcs w false false) fun s x =>
    let n := 2 ^ bits w 55 53
    let ls := accessLanes x w
    match scratchFault s g (ls.map (laneScratch x w)) n with
    | some c => stopGroup s g k c
    | none =>
      let y := ls.foldl (fun y i =>
        let a := laneScratch x w i
        writeWide y (bits w 47 40) i n
          (loadValue (bits w 55 53) (bit w 52) (scratchLE s (scratchGable g a) (bits a 20 0) n))) x
      retire (countRounds s g (ls.map (laneScratch x w)) n) g k (stepPc y))

def execSts (g k w : Nat) (s : State) : Host.Outcome State Fault Refusal := onNode s fun s =>
  onGable g (issueWord s g k 0xCB w (memLegal w true) (memRegs w false) (memSrcs w false true) fun s x =>
    let n := 2 ^ bits w 55 53
    let ls := accessLanes x w
    match scratchFault s g (ls.map (laneScratch x w)) n with
    | some c => stopGroup s g k c
    | none =>
      let s1 := ls.foldl (fun s i =>
        let a := laneScratch x w i
        scratchWrite s (scratchGable g a) (bits a 20 0) (readWide x (bits w 47 40) i n)) s
      retire (countRounds s1 g (ls.map (laneScratch x w)) n) g k (stepPc x))

/-! ## Arrival counters -/

/-- An arrival counter's value. -/
def arrival (s : Node) (g c : Nat) : Nat := fGet s (gLoc .arrivalCnt g [c]) fArrivalCntValue

/-- Sets an arrival counter. -/
def setArrival (s : Node) (g c v : Nat) : Node := fSet s (gLoc .arrivalCnt g [c]) fArrivalCntValue (v % 2 ^ 32)

/-- Adds to an arrival counter, modulo 2³² (R111). -/
def addArrival (s : Node) (g c n : Nat) : Node := setArrival s g c (arrival s g c + n)

/-- Whether counter minus target is zero or greater as a signed 32-bit number (R111, R168). -/
def reached (counter target : Nat) : Bool := decide (signed 32 (wrap 32 ((counter : Int) - target)) ≥ 0)

/-- CNTSET and CNTADD encodings: [55:46] and [31:0] reserved (R88). -/
def cntLegal (w : Nat) : Bool := bits w 55 46 == 0 && bits w 31 0 == 0

def execCntset (g k w : Nat) (s : State) : Host.Outcome State Fault Refusal := onNode s fun s =>
  onGable g (issueWord s g k 0xCD w (cntLegal w) [bits w 39 32] [bits w 39 32] fun s x =>
    retire (setArrival s g (bits w 45 40) (readReg x (bits w 39 32) (firstLane x)).toNat) g k (stepPc x))

def execCntadd (g k w : Nat) (s : State) : Host.Outcome State Fault Refusal := onNode s fun s =>
  onGable g (issueWord s g k 0xCE w (cntLegal w) [bits w 39 32] [bits w 39 32] fun s x =>
    retire (addArrival s g (bits w 45 40) (readReg x (bits w 39 32) (firstLane x)).toNat) g k (stepPc x))

/-- WAITCNT's encoding (R88). -/
def waitcntLegal (w : Nat) : Bool := bits w 55 49 == 0 && bits w 47 46 == 0 && bits w 31 0 == 0

/-- A satisfied wait: CONSUME subtracts the target in the same step (R111), and the group goes on. -/
def waitDone (s : Node) (g k cnt target : Nat) (consume : Bool) : Node :=
  let s1 := if consume then setArrival s g cnt (wrap 32 ((arrival s g cnt : Int) - target)) else s
  retire s1 g k (stepPc (groupOf s1 g k))

/-- Whether a satisfied CONSUME wait of group `k` must let another wait of the counter go first (R111): a plain wait that
the same value satisfies, or a CONSUME wait of a lower-numbered group. -/
def consumeBehind (s : Node) (g k cnt : Nat) : Bool :=
  anyBelow 64 fun j =>
    match (groupOf s g j).wait with
    | .counter c t consume => j != k && c == cnt && reached (arrival s g cnt) t && (!consume || decide (j < k))
    | _ => false

/-- WAITCNT: goes on when the counter has reached the target; else a path that holds the turn rotates, and any other
waits with its group (R92, R111). -/
def execWaitcnt (g k w : Nat) (s : State) : Host.Outcome State Fault Refusal := onNode s fun s =>
  onGable g (issueWord s g k 0xCF w (waitcntLegal w) [bits w 39 32] [bits w 39 32] fun s x =>
    let cnt := bits w 45 40
    let target := (readReg x (bits w 39 32) (firstLane x)).toNat
    if reached (arrival s g cnt) target && !(bit w 48 && consumeBehind s g k cnt) then waitDone s g k cnt target (bit w 48)
    else if x.turn && decide (x.paths.length ≥ 2) then retire s g k (rotate x (runPc x) (runPc x))
    else waitOn s g k (.counter cnt target (bit w 48)))

/-- A waiting group's counter has reached its target; satisfied plain waits, and CONSUME waits of lower-numbered groups,
go before a CONSUME wait (R111). -/
def execWaitcntSatisfied (g k : Nat) (s : State) : Host.Outcome State Fault Refusal := onNode s fun s =>
  onGable g (
    match (groupOf s g k).wait with
    | .counter cnt target consume =>
      if reached (arrival s g cnt) target && !(consume && consumeBehind s g k cnt) then waitDone s g k cnt target consume else s
    | _ => s)

/-- A software write of ARRIVAL_CNT (R111). -/
def execArrivalCntWrite (g c : Nat) (v : Word) (s : State) : Host.Outcome State Fault Refusal := onNode s fun s =>
  onGable g (if isFenced s (g / 16) then withResp s .done
    else if c < 64 then withResp (setArrival s g c (wbits v 31 0)) .done else withResp s .done)

/-! ## Stopped groups -/

/-- RESUME reissues the faulting instruction of a stopped group; after GROUP_STALL it goes on at the next one with the
watchdog restarted (R114). Otherwise it is ignored. -/
def execGroupResume (g k : Nat) (s : State) : Host.Outcome State Fault Refusal := onNode s fun s =>
  onGable g (if !isFenced s (g / 16) && decide ((groupOf s g k).phase = .stopped) then
      withResp (modGroup s g k fun x =>
        { x with phase := .running, fault := 0, wait := .none, watch := if x.fault = eStall then 0 else x.watch }) .done
    else withResp s .done)

/-- Whether a group is within an instruction: an AMO whose lines and remote lanes are under way (R227). -/
def midInstruction (x : Group) : Bool := decide (x.phase = .waiting) && decide (x.list ≠ [])

/-- KILL ends a group, stopped or not; a group within an instruction ends at the boundary after it (R114). An action on an
empty slot is ignored. -/
def execGroupKill (g k : Nat) (s : State) : Host.Outcome State Fault Refusal := onNode s fun s =>
  onGable g (if isFenced s (g / 16) ∨ (groupOf s g k).phase = .empty ∨ (groupOf s g k).phase = .ending then
      withResp s .done
    else if midInstruction (groupOf s g k) then withResp (modGroup s g k fun x => { x with kill := true }) .done
    else withResp (endGroup s g k) .done)

/-! ## Launch block and rounding key -/

/-- TDARG writes word WORD of the launch block into RD of every active lane (R166). -/
def execTdarg (g k w : Nat) (s : State) : Host.Outcome State Fault Refusal := onNode s fun s =>
  onGable g (issueWord s g k 0xC4 w (bits w 55 48 == 0 && bits w 35 0 == 0) [bits w 47 40] [] fun s x =>
    let v := BitVec.ofNat 32 (x.launch.getD (bits w 39 36) 0)
    retire s g k (stepPc ((lanes x).foldl (fun y i => writeReg y (bits w 47 40) i v) x)))

/-- ERKEY sets the group's rounding key (R127). -/
def execErkey (g k w : Nat) (s : State) : Host.Outcome State Fault Refusal := onNode s fun s =>
  onGable g (issueWord s g k 0xC2 w (bits w 55 40 == 0 && bits w 31 0 == 0) [bits w 39 32] [bits w 39 32] fun s x =>
    retire s g k { stepPc x with rkey := (readReg x (bits w 39 32) (firstLane x)).toNat })

/-- The home of a program slot's word. -/
def slotLoc (g slot i : Nat) : RegLoc := gLoc .elemSlot g [slot, i]

/-- Loads a slot image, word by word (R125). -/
def loadSlot (s : Node) (g slot : Nat) (words : List Nat) : Node :=
  (words.zipIdx).foldl (fun s (v, i) => regSet s (slotLoc g slot i) (BitVec.ofNat 64 v)) s

/-- EPLD reads a 640-byte image from scratch into a program slot (R127). DESIGN CHOICE (log entry 190): an image that would
pass the end of the 2 MiB scratch raises SCRATCH_RANGE. -/
def execEpld (g k w : Nat) (s : State) : Host.Outcome State Fault Refusal := onNode s fun s =>
  onGable g (issueWord s g k 0xC3 w (bits w 55 43 == 0 && bits w 31 0 == 0) [bits w 39 32] [bits w 39 32] fun s x =>
    let a := (readReg x (bits w 39 32) (firstLane x)).toNat
    let h := scratchGable g a
    if a % 128 ≠ 0 ∨ bits a 31 22 ≠ 0 ∨ bits a 20 0 + 640 > 0x200000 then stopGroup s g k eScratchRange
    else if h ≠ g ∧ fGet s (gLoc .gableCtrl h) fGableCtrlState = stFaulted then stopGroup s g k eRefused
    else
      let words := (List.range 80).map fun i => scratchLE s h (bits a 20 0 + 8 * i) 8
      retire (loadSlot s g (bits w 42 40) words) g k (stepPc x))

/-- A store to one word of a program slot (R126). -/
def execElemSlotWrite (g slot i : Nat) (v : Word) (s : State) : Host.Outcome State Fault Refusal := onNode s fun s =>
  onGable g (if !isFenced s (g / 16) && decide (slot < 8) && decide (i < 80) then
      withResp (regSet s (slotLoc g slot i) v) .done
    else withResp s .done)

end Sys2Proof.Machine
end

