-- ==== Sys2Proof/Machine/Alu.lean ====
section
/-! DEFINITION. Thread arithmetic (R86): the spec names classes of instructions and gives neither encodings nor results
beyond its number formats, so the command carries the operation. -/

namespace Sys2Proof.Machine

/-- An integer or logic function on `w`-bit values, wrapping; a shift takes its count modulo `w`. -/
def intFn (w : Nat) (fn : IntFn) (a b : Nat) : Nat :=
  match fn with
  | .add => wrap w ((a : Int) + b)
  | .sub => wrap w ((a : Int) - b)
  | .mul => wrap w ((a : Int) * b)
  | .and => a &&& b
  | .or => a ||| b
  | .xor => a ^^^ b
  | .shl => wrap w ((a <<< (b % w) : Nat) : Int)
  | .shr => a >>> (b % w)
  | .sar => wrap w (signed w a / (2 ^ (b % w) : Int))
  | .slt => b2n (decide (signed w a < signed w b))
  | .sltu => b2n (decide (a < b))
  | .min => if signed w a ≤ signed w b then a else b
  | .max => if signed w a ≥ signed w b then a else b

/-- A floating-point function with its flags (R42, R86). DESIGN CHOICE (log entry 170): FMA of zero times infinity
signals whatever its addend is -/
def fltFn (f : Fmt) (m : RMode) (fn : FltFn) (a b c : Nat) : Flagged :=
  let x := numOfCode f a
  let y := numOfCode f b
  let z := numOfCode f c
  match fn with
  | .add => let r := numAdd (zeroNeg m) x y; deliver f m 0 r.nv r.val
  | .sub => let r := numAdd (zeroNeg m) x (numNegate y); deliver f m 0 r.nv r.val
  | .mul => let r := numMul x y; deliver f m 0 r.nv r.val
  | .fma => let p := numMul x y; let r := numAdd (zeroNeg m) p.val z; deliver f m 0 (p.nv || r.nv) r.val
  | .div =>
    let (q, nv, dz) := numDiv x y
    let r := deliver f m 0 nv q
    ⟨r.code, r.flags ||| flIf dz flDZ⟩
  | .sqrt => let r := numSqrt x; deliver f m 0 r.nv r.val
  | .min => let r := numMinMax false x y; deliver f m 0 r.nv r.val
  | .max => let r := numMinMax true x y; deliver f m 0 r.nv r.val

/-- A register operand as a code of a format: a pair for FP64, the low bits for narrow formats (R87). -/
def aluSrc (k : Group) (f : Fmt) (r lane : Nat) : Nat :=
  if f = .fp64 then readPair k r lane else (readReg k r lane).toNat % 2 ^ fmtWidth f

/-- A result written in a format. -/
def aluDst (k : Group) (f : Fmt) (r lane v : Nat) : Group := writeWide k r lane (if f = .fp64 then 8 else 4) v

/-- The registers an operand of a format names. -/
def aluRegs (f : Fmt) (r : Nat) : List Nat := if f = .fp64 then [r, r + 1] else [r]

/-- The formats thread arithmetic works in (R86). -/
def aluFmt (code : Nat) : Option Fmt :=
  match fmtOfCode code with
  | some .fp64 => some .fp64
  | some .fp32 => some .fp32
  | some .bf16 => some .bf16
  | some .fp16 => some .fp16
  | _ => none

/-- The registers and the legality of a thread arithmetic instruction. DESIGN CHOICE (log entry 174): a conversion that
names RM 5 is illegal, since threads have no generator and R43 and R44 state nothing for them. -/
def aluNames : AluOp → Option (List Nat)
  | .int _ rd ra rb => some [rd, ra, rb]
  | .float f fn rd ra rb rc =>
    (aluFmt f).bind fun t => if fn = .div ∨ fn = .sqrt then none else
      some (aluRegs t rd ++ aluRegs t ra ++ aluRegs t rb ++ if fn = .fma then aluRegs t rc else [])
  | .slow f _ rd ra => (aluFmt f).map fun t => aluRegs t rd ++ aluRegs t ra
  | .convert src dst rm rd ra =>
    match fmtOfCode src, fmtOfCode dst, rmOfCode rm with
    | some a, some d, some m => if m = .sr then none else some (aluRegs d rd ++ aluRegs a ra)
    | _, _, _ => none
  | .reserved => none

/-- A slow function's number. -/
def slowNum : SlowFn → Nat
  | .reciprocal => 0
  | .squareRoot => 1
  | .exponential => 2
  | .logarithm => 3

/-- A slow function's result, where IEEE 754 fixes it for a special operand (R42); of any other the spec states
neither the value nor an error bound. -/
def slowSpecial (fn : SlowFn) (x : Num) : Option Num :=
  match x with
  | .nan s => some (.nan s)
  | .inf neg => some <| match fn with
    | .reciprocal => .fin neg 0 0
    | .exponential => if neg then .fin false 0 0 else .inf false
    | _ => if neg then .nan false else .inf false
  | .fin neg mag _ => match fn with
    | .reciprocal => if mag = 0 then some (.inf neg) else none
    | .squareRoot => if mag = 0 then some (.fin neg 0 0) else if neg then some (.nan false) else none
    | .exponential => none
    | .logarithm => if mag = 0 then some (.inf true) else if neg then some (.nan false) else none

/-- A slow function of a code; a NaN result is the canonical one (R31). -/
def slowVal (fn : SlowFn) (f : Nat) (t : Fmt) (a : Nat) : Nat :=
  match slowSpecial fn (numOfCode t a) with
  | some v => (deliver t .rne 0 false v).code
  | none =>
    let c := Config.aluSlow (slowNum fn) f a % 2 ^ fmtWidth t
    if numIsNan (numOfCode t c) then canonicalNan t else c

/-- One lane's result; thread instructions keep no arithmetic flags (R54) and round under RNE, conversions in their
named mode with SAT (R41). -/
def aluLane (op : AluOp) (x y : Group) (i : Nat) : Group :=
  match op with
  | .int fn rd ra rb =>
    writeReg y rd i (BitVec.ofNat 32 (intFn 32 fn (readReg x ra i).toNat (readReg x rb i).toNat))
  | .float f fn rd ra rb rc =>
    match aluFmt f with
    | some t => aluDst y t rd i (fltFn t .rne fn (aluSrc x t ra i) (aluSrc x t rb i) (aluSrc x t rc i)).code
    | none => y
  | .slow f fn rd ra =>
    match aluFmt f with
    | some t => aluDst y t rd i (slowVal fn f t (aluSrc x t ra i))
    | none => y
  | .convert src dst rm rd ra =>
    match fmtOfCode src, fmtOfCode dst, rmOfCode rm with
    | some a, some d, some m => aluDst y d rd i (convert d m true 0 (numOfCode a (aluSrc x a ra i))).code
    | _, _, _ => y
  | .reserved => y

/-- The source registers of a thread arithmetic instruction (R85, R87). -/
def aluSrcs : AluOp → List Nat
  | .int _ _ ra rb => [ra, rb]
  | .float f fn _ ra rb rc =>
    (aluFmt f).elim [] fun t => aluRegs t ra ++ aluRegs t rb ++ if fn = .fma then aluRegs t rc else []
  | .slow f _ _ ra => (aluFmt f).elim [] fun t => aluRegs t ra
  | .convert src _ _ _ ra => (fmtOfCode src).elim [] fun a => aluRegs a ra
  | .reserved => []

/-- A thread arithmetic instruction for the active lanes; a reserved opcode or bit raises ILLEGAL_INSTRUCTION (R88). -/
def execGableAluInstruction (g k : Nat) (op : AluOp) (s : State) : Host.Outcome State Fault Refusal := onNode s fun s =>
  onGable g (issue s g k fun x =>
    match aluNames op with
    | none => stopGroup s g k eIllegal
    | some regs =>
      if (aluSrcs op).any (awaits x) then waitOn s g k .operands
      else if !regsOk x regs then stopGroup s g k eRegRange
      else retire (countBanks s g k (aluSrcs op)) g k (stepPc ((lanes x).foldl (fun y i => aluLane op x y i) x)))

end Sys2Proof.Machine
end

