-- ==== Sys2Proof/Machine/Atomics.lean ====
section
/-! DEFINITION. Gable atomics and fences (R226 to R228). -/

namespace Sys2Proof.Machine

/-- Encoding of AMO (R226): SIZE 2 or 3, FUNC 0 to 12, [12:0] zero. -/
def amoLegal (w : Nat) : Bool :=
  (bits w 55 53 == 2 || bits w 55 53 == 3) && decide (bits w 52 48 ≤ 12) && bits w 12 0 == 0

/-- A register of a size, with its pair partner for 8 bytes. -/
def sizedRegs (r n : Nat) : List Nat := (List.range (n / 4)).map (r + ·)

/-- Registers an AMO uses: the address pair, RD but for STORE, RS but for LOAD, RP under PEN. -/
def amoRegs (w : Nat) : List Nat :=
  let n := 2 ^ bits w 55 53
  let func := bits w 52 48
  [bits w 39 32, bits w 39 32 + 1] ++ (if func = 12 then [] else sizedRegs (bits w 47 40) n) ++
    (if func = 11 then [] else sizedRegs (bits w 23 16) n) ++ (if bit w 13 then [bits w 31 24] else [])

/-- The source registers of an AMO (R85, R87): RD is one for CAS alone. -/
def amoSrcs (w : Nat) : List Nat :=
  let n := 2 ^ bits w 55 53
  let func := bits w 52 48
  [bits w 39 32, bits w 39 32 + 1] ++ (if func = 9 then sizedRegs (bits w 47 40) n else []) ++
    (if func = 11 then [] else sizedRegs (bits w 23 16) n) ++ (if bit w 13 then [bits w 31 24] else [])

/-- The lanes of an AMO: active and not masked by PEN and RP (R95, R227). -/
def amoLanes (x : Group) (w : Nat) : List Nat :=
  (lanes x).filter fun i => !bit w 13 || readReg x (bits w 31 24) i ≠ 0

/-- Whether a group's earlier accesses are all performed and visible (R224, R228). -/
def accessesDone (s : Node) (g k : Nat) : Bool :=
  decide ((groupOf s g k).loads = []) && !storesPending s (g / 16) (g % 16) k && !remotePending s g k

/-- A group that waits on a failed remote store stops at its FENCE or release (R337). -/
def stopBadStore (s : Node) (g k : Nat) : Node :=
  stopGroup (modGroup s g k fun x => { x with badStore := 0 }) g k (groupOf s g k).badStore

/-- The remote request of a lane of an AMO, answered or not. -/
def laneRemote (s : Node) (g k lane : Nat) : Option RemoteReq :=
  s.remotes.find? fun r => r.who == .groupAmo g k (groupOf s g k).order lane

/-- Performs one lane's operation on a line of HBM (R226, R227): in the die cache, which holds it, or through an uncached
page as an Atom at the home. The old value goes to RD. -/
def amoLane (g : Nat) (w : Nat) (x : Group) (cacheable : Bool) (p : Node × Group) (a : LaneAddr) : Node × Group :=
  let (s, y) := p
  let n := 2 ^ bits w 55 53
  let func := bits w 52 48
  let arg := leValue (readWide x (bits w 23 16) a.lane n)
  let cmp := leValue (readWide x (bits w 47 40) a.lane n)
  let line := lineOf a.addr
  let (s1, old) :=
    if cacheable then
      let old := leValue (dieBytes s (g / 16) a.addr n)
      let new := leBytes n (amoResult func n old arg cmp)
      (if func = 11 then s
        else mergeStore (soleCore s (g / 16) line 8) (g / 16) line (new.mapIdx fun i v => (a.addr % lineBytes + i, v)), old)
    else homeAtom s (baseOfGable g) a.addr n func arg cmp
  (s1, if func = 12 then y else writeWide y (bits w 47 40) a.lane n old)

/-- Sends the lanes of an AMO that lie in the remote window, in lane order (R227, R335). -/
def amoSend (maps : List PageMap) (s : Node) (g k w : Nat) (x : Group) (far : List LaneAddr) : Node :=
  let n := 2 ^ bits w 55 53
  far.foldl (fun s a =>
    let arg := leValue (readWide x (bits w 23 16) a.lane n)
    let cmp := leValue (readWide x (bits w 47 40) a.lane n)
    (startRemoteBy maps s (.groupAmo g k x.order a.lane) 2 a.addr n [] (bits w 52 48) arg cmp).1) s

/-- The answers to a group's remote lanes are taken. -/
def takeLanes (s : Node) (g k order : Nat) (far : List (LaneAddr × Bool)) : Node :=
  { s with remotes := s.remotes.filter fun r => !far.any fun q => r.who == .groupAmo g k order q.1.lane }

/-- The lanes of an AMO are performed, its lines being held in M and its remote answers received. -/
def amoPerform (s : Node) (g k w : Nat) (x : Group) (las : List (LaneAddr × Bool)) : Node :=
  let far := las.filter fun p => bit p.1.addr 55
  match far.find? (fun p => ((laneRemote s g k p.1.lane).bind (·.result)).elim false (fun r => r.1 ≠ 0)) with
  | some p =>
    let code := ((laneRemote s g k p.1.lane).bind (·.result)).elim 0 (·.1)
    stopRemote (takeLanes s g k x.order far) g k code p.1.addr
  | none =>
    let (s1, y) := las.foldl (fun (p : Node × Group) (a : LaneAddr × Bool) =>
      if bit a.1.addr 55 then
        let old := leValue (((laneRemote s g k a.1.lane).bind (·.result)).elim [] (·.2))
        (p.1, if bits w 52 48 = 12 then p.2 else writeWide p.2 (bits w 47 40) a.1.lane (2 ^ bits w 55 53) old)
      else amoLane g w x a.2 p a.1) (s, x)
    retire (takeLanes s1 g k x.order far) g k (stepPc y)

/-- The fault an AMO meets at a physical address (R227): scratch and CSR windows are refused. -/
def amoFault (s : Node) (pa n : Nat) : Option Nat :=
  match paKind s pa with
  | .scratch _ _ => some eRefused
  | _ => paFault s pa n

/-- An AMO's lookups are counted as it is issued (R230). -/
def countLookups (s : Node) (d : Nat) (lines : List Nat) : Node :=
  lines.foldl (fun s l => cntAdd s (if serves s d l true then dLoc .dcHits d else dLoc .dcMisses d) 1) s

/-- The AMO of a group whose lanes are translated: its lines are asked for in M, then its remote lanes sent, the group
keeping its translation list while it waits (R265); then every lane is performed. -/
def amoLanesGo (s1 : Node) (g k w : Nat) (x : Group) (vas : List Nat) (las : List (LaneAddr × Bool)) (pages : List PageMap) : Node :=
  let n := 2 ^ bits w 55 53
  let d := g / 16
  let wait := fun (s : Node) => modGroup (waitOn s g k .memory) g k fun y => { y with list := pages }
  match las.findSome? (fun a => amoFault s1 a.1.addr n) with
  | some c =>
    if c = 0x0608 then
      stopRemote s1 g k c ((las.find? fun a => amoFault s1 a.1.addr n == some 0x0608).elim 0 (·.1.addr))
    else stopGroup s1 g k c
  | none =>
    let near := las.filter fun a => !bit a.1.addr 55
    let lines := distinctLines ((near.filter (·.2)).map fun p => p.1.addr)
    let missing := lines.filter fun l => !serves s1 d l true
    let poisoned := fun (a : LaneAddr × Bool) => if a.2 then !missing.contains (lineOf a.1.addr) && readsPoison s1 d (lineOf a.1.addr)
      else readsPoison s1 12 (lineOf a.1.addr)
    let s2 := if x.list = [] then countLookups s1 d lines else s1
    match near.find? poisoned with
    | some a => stopPoison (takeLanes s2 g k x.order las) g k 0 (lineOf a.1.addr)
    | none =>
      let unsent := (las.filter fun a => bit a.1.addr 55 && (laneRemote s1 g k a.1.lane).isNone).map (·.1)
      if missing ≠ [] then wait (missing.foldl (fun s l => sendMiss s d l true .gable) s2)
      else if unsent ≠ [] then
        wait (countFar (amoSend pages s2 g k w x unsent) d pages ((vas.zip las).filterMap fun p =>
          if unsent.contains p.2.1 then some (p.1, p.2.1.addr) else none))
      else if las.any fun a => bit a.1.addr 55 && ((laneRemote s1 g k a.1.lane).bind (·.result)).isNone then wait s2
      else
        let s3 := lines.foldl (fun s l => setHold s d l .m) s2
        let s4 := takeEarlier s3 g k (near.flatMap fun a => (List.range n).map (a.1.addr + ·))
        amoPerform s4 g k w (groupOf s4 g k) las

/-- AMO (R226, R227): a release waits for earlier accesses; its lanes are translated, the die cache obtains each line in
M, remote lanes go out as Atoms, and then every lane is performed in ascending order. -/
def amoOp (s : Node) (g k w : Nat) (x : Group) : Node :=
  let n := 2 ^ bits w 55 53
  let ls := amoLanes x w
  let vas := ls.map (readPair x (bits w 39 32))
  if vas.any (fun a => a % n != 0) then stopGroup s g k eMisaligned
  else if x.list = [] ∧ bit w 15 = true ∧ x.badStore ≠ 0 then stopBadStore s g k
  else if x.list = [] ∧ bit w 15 = true ∧ accessesDone s g k = false then waitOn s g k .memory
  else if ls = [] then retire s g k (stepPc x)
  else withLanes s g k accAmo n ls vas fun s1 las cach pages => amoLanesGo s1 g k w x vas (las.zip cach) pages

def execAmo (g k w : Nat) (s : State) : Host.Outcome State Fault Refusal := onServed s fun s =>
  onGable g (issueWord s g k 0xE0 w (amoLegal w) (amoRegs w) (amoSrcs w) fun s x => amoOp s g k w x)

/-- FENCE (R228): a full or release fence waits until the group's earlier accesses are visible, an acquire fence until
its earlier loads have returned; LDS and STS are performed in program order, so SCR adds no wait. -/
def execGableFence (g k w : Nat) (s : State) : Host.Outcome State Fault Refusal := onNode s fun s =>
  onGable g (issueWord s g k 0xE1 w (bits w 55 54 != 3 && bits w 52 0 == 0) [] [] fun s x =>
    if bits w 55 54 = 1 then (if x.loads = [] then retire s g k (stepPc x) else waitOn s g k .memory)
    else if x.badStore ≠ 0 then stopBadStore s g k
    else if accessesDone s g k then retire s g k (stepPc x)
    else waitOn s g k .memory)

end Sys2Proof.Machine
end

