-- ==== Sys2Proof/Machine/Copies.lean ====
section
/-! DEFINITION. Asynchronous copies (R104 to R112) and key-value gathers (R176 to R181). -/

namespace Sys2Proof.Machine

/-- Little-endian fields of a structure held as bytes. -/
def fieldLE (l : List Byte) (at_ n : Nat) : Nat := leValue ((l.drop at_).take n)

/-- The descriptor's fields (R104). -/
def copyDescOf (l : List Byte) : CopyDesc :=
  let c := fieldLE l 12 1
  ⟨fieldLE l 0 8, fieldLE l 8 4, bits c 7 7, bits c 6 4, bits c 3 1 + 1, bit c 0, bits (fieldLE l 13 1) 5 0,
    bit (fieldLE l 14 1) 3, bits (fieldLE l 14 1) 2 0, fieldLE l 16 2, fieldLE l 18 2,
    (List.range 5).map fun i => fieldLE l (24 + 4 * i) 4,
    (List.range 4).map fun i => signed 64 (fieldLE l (48 + 8 * i) 8),
    (List.range 4).map fun i => fieldLE l (80 + 4 * i) 4⟩

/-- Whether a reserved bit of a copy descriptor is set (R104). SADDR[31:22] is judged by SCRATCH_RANGE. DESIGN CHOICE (log
entry 177): NDIM - 1 of 5 to 7, for which R106 lists nothing, counts as one; CONV, MFMT and SFMT are ignored without
CAST. -/
def copyReserved (l : List Byte) : Bool :=
  let d := copyDescOf l
  bits (fieldLE l 13 1) 7 6 != 0 || bits (fieldLE l 14 1) 7 4 != 0 || fieldLE l 15 1 != 0 || fieldLE l 20 4 != 0 ||
  fieldLE l 44 4 != 0 || fieldLE l 96 32 != 0 || decide (d.ndim > 5)

/-- The format of a word that CAST accepts (R105): valid, unscaled, at least 8 bits. -/
def castFmt (w : Nat) : Option Fmt :=
  if fwValid w && fwScheme w == 0 then
    match fmtOfCode (fwFmt w) with
    | some f => if fmtWidth f ≥ 8 then some f else none
    | none => none
  else none

/-- Element sizes on the memory side and on the scratch side (R104). -/
def copySizes (d : CopyDesc) : Nat × Nat :=
  if d.cast then
    (((castFmt d.mfmt).map fun f => fmtWidth f / 8).getD 1, ((castFmt d.sfmt).map fun f => fmtWidth f / 8).getD 1)
  else (2 ^ d.esize, 2 ^ d.esize)

/-- The extents that count (R104). -/
def copyDims (d : CopyDesc) : List Nat := d.dims.take d.ndim

/-- The offsets of the elements along dimensions 1 and up, then along dimension 0 fastest: memory and scratch. -/
def copyOffsets : List (Nat × Int × Nat) → List (Int × Nat)
  | [] => [(0, 0)]
  | (n, ms, ss) :: rest =>
    (copyOffsets rest).flatMap fun p => (List.range n).map fun i => (p.1 + Int.ofNat i * ms, p.2 + i * ss)

/-- The elements of a copy in ascending index order: virtual address and scratch address (R104, R266). -/
def copyElems (d : CopyDesc) : List (Nat × Nat) :=
  let (em, es) := copySizes d
  let dims := copyDims d
  let rows := (dims.zip (((em : Int) :: d.mstr).zip (es :: d.sstr))).map fun (n, m, c) => (n, m, c)
  (copyOffsets rows).map fun (m, c) => (wrap 64 ((d.gaddr : Int) + m), bits d.saddr 20 0 + c)

/-- The byte after the last scratch byte of a copy. -/
def copyScratchEnd (d : CopyDesc) : Nat :=
  let (_, es) := copySizes d
  let dims := copyDims d
  if dims.any (· == 0) then 0
  else bits d.saddr 20 0 + ((dims.zip (es :: d.sstr)).map fun (n, c) => (n - 1) * c).foldl (· + ·) 0 + es

/-- The checks of COPY at issue, first applicable row (R106, R115). -/
def copyFault (l : List Byte) (off : Nat) : Option Nat :=
  let d := copyDescOf l
  let (em, es) := copySizes d
  if off % 128 ≠ 0 ∨ bits d.saddr 31 22 ≠ 0 ∨ copyScratchEnd d > 0x200000 then some eScratchRange
  else if copyReserved l then some eCopyDesc
  else if !d.cast && decide (d.esize > 4) then some eCopyDesc
  else if (copyDims d).any (· == 0) then some eCopyDesc
  else if d.cast && ((castFmt d.mfmt).isNone || (castFmt d.sfmt).isNone || decide (d.rm > 4)) then some eCopyDesc
  else if d.gaddr % em ≠ 0 ∨ bits d.saddr 20 0 % es ≠ 0 then some eCopyDesc
  else if (d.mstr.take (d.ndim - 1)).any (fun m => m % (em : Int) != 0) then some eCopyDesc
  else if (d.sstr.take (d.ndim - 1)).any (fun m => m % es != 0) then some eCopyDesc
  else none

/-- A job enters the copy queue behind the others (R106, R179). -/
def queueCopy (s : Node) (g k : Nat) (x : Group) (job : CopyJob) : Node :=
  let s1 := modGable s g fun y =>
    { y with copies := y.copies ++ [⟨y.copyId, job, k, x.order, false, 0, [], [], false⟩], copyId := y.copyId + 1 }
  retire s1 g k (stepPc x)

/-- COPY (R106): reads and checks its descriptor; waits while the queue holds 32 copies. DESIGN CHOICE (log entry 190): an
offset in RD with a bit of [31:21] set, for which R104 and R106 name no code, raises SCRATCH_RANGE. -/
def execCopy (g k w : Nat) (s : State) : Host.Outcome State Fault Refusal := onNode s fun s =>
  onGable g (issueWord s g k 0xCC w (bits w 55 40 == 0 && bits w 31 0 == 0) [bits w 39 32] [bits w 39 32] fun s x =>
    let off := (readReg x (bits w 39 32) (firstLane x)).toNat
    let l := scratchBytes s g (bits off 20 0) 128
    if bits off 31 21 ≠ 0 ∨ bits off 20 0 + 128 > 0x200000 then stopGroup s g k eScratchRange
    else match copyFault l off with
    | some c => stopGroup s g k c
    | none =>
      if (gableOf s g).copies.length ≥ 32 then waitOn s g k .queue
      else queueCopy s g k x (.copy (copyDescOf l)))

/-- Copies of a Gable that have started (R107). -/
def inFlight (s : Node) (g : Nat) : Nat := ((gableOf s g).copies.filter (·.started)).length

/-- Rewrites a copy. -/
def modCopy (s : Node) (g id : Nat) (f : Copy → Copy) : Node :=
  modGable s g fun y => { y with copies := modFirst (fun c => c.id == id) f y.copies }

/-- Drops a copy (R108). -/
def dropCopy (s : Node) (g id : Nat) : Node :=
  { modGable s g fun y => { y with copies := dropFirst (fun c => c.id == id) y.copies } with
    remotes := s.remotes.filter fun r => r.who ≠ .copy g id }

/-- A copy fails (R108): it is dropped, its counter does not advance, and the group stops at its next boundary. -/
def failCopy (s : Node) (g : Nat) (c : Copy) (code : Nat) : Node :=
  stopAtBoundary (dropCopy s g c.id) g c.group c.order code

/-- The consumer code of a job (R547). -/
def jobConsumer : CopyJob → Nat
  | .copy _ => 2
  | .gather _ => 4

/-- Scratch side of a job and the size of one landing unit. -/
def jobScratch (g : Nat) : CopyJob → Nat
  | .copy d => scratchGable g d.saddr
  | .gather d => scratchGable g d.saddr

/-- A job's translation faults (R108, R266): it is queued in its place, the record spanning the addresses it touches. -/
def jobFault (s : Node) (g : Nat) (c : Copy) (acc unit va lo hi : Nat) (f : WalkFault) : Node :=
  let (s2, q) := queueFault s (.copy g c.id) acc (((g / 16) <<< 4) + unit) (g % 16) c.group va lo hi f
  modCopy s2 g c.id fun y => { y with started := decide (q ≠ 0), fseq := q, pages := [] }

/-- The reads of a job reach the caches or, through an uncached page, the homes; those of far pages are counted (R276). -/
def jobReads (s : Node) (g : Nat) (pages : List PageMap) (l : List (Nat × Nat × Bool)) : Node :=
  let hbm := l.filter fun p => decide (paKind s p.2.1 = .hbm)
  let s1 := (distinctLines ((hbm.filter (·.2.2)).map (·.2.1))).foldl (fun s n => touchRead s (g / 16) n .gable) s
  let s2 := (distinctLines ((hbm.filter fun p => !p.2.2).map (·.2.1))).foldl (fun s n => homeRead s (baseOfGable g) clsGable n) s1
  countFar s2 (g / 16) pages (l.map fun p => (p.1, p.2.1))

/-- The first address of a job whose access may not be performed, with its code. -/
def jobRefused (s : Node) (bytes : Nat) (pas : List (Nat × Bool)) : Option (Nat × Nat) :=
  pas.findSome? fun p => (paFault s p.1 bytes).map fun code => (code, p.1)

/-- A job that may not perform an access fails; a remote window's refusal is recorded first (R337). -/
def refuseJob (s : Node) (g : Nat) (c : Copy) (code pa : Nat) : Node :=
  if code = 0x0608 then failCopy (logRemote s (g / 16) (g % 16 + 1) code pa []) g c code else failCopy s g c code

/-- Translates a job's memory side, the pages in `seen` being in its list already, and starts it (R108): a fault queues
it in place, a 1,025th translation or an address refused drops it. -/
def startJob (s : Node) (g : Nat) (c : Copy) (acc unit bytes : Nat) (seen : List PageMap) (more vas : List Nat)
    (mk : List Nat → List CopyElem) : Node :=
  match transGo (g / 16) (some g) acc vas s seen [] with
  | (s1, .fault va wf) =>
    let (lo, hi) := spanOf vas
    let (lo2, hi2) := spanOf more
    jobFault s1 g c acc unit va (min lo lo2) (max (hi + bytes - 1) (if more = [] then 0 else hi2 + 7)) wf
  | (s1, .tooMany) => failCopy s1 g c eCopyPages
  | (s1, .ok pas pages) =>
    match jobRefused s1 bytes pas with
    | some (code, pa) => refuseJob s1 g c code pa
    | none =>
      let s2 := if acc = accRead then jobReads s1 g pages (vas.zip pas)
        else countFar s1 (g / 16) pages (vas.zip (pas.map (·.1)))
      modCopy s2 g c.id fun y => { y with started := true, fseq := 0, elems := mk (pas.map (·.1)), pages := pages }

/-- Whether a job's scratch side is refused: its partner is FAULTED (R117). -/
def partnerLost (s : Node) (g : Nat) (job : CopyJob) : Bool :=
  decide (jobScratch g job ≠ g) && fGet s (gLoc .gableCtrl (jobScratch g job)) fGableCtrlState == stFaulted

/-- Starts a copy (R107, R108); a FAULTED partner's scratch is refused (R117). -/
def startCopy (s : Node) (g : Nat) (c : Copy) (d : CopyDesc) : Node :=
  if partnerLost s g (.copy d) then failCopy s g c eRefused
  else
    let es := copyElems d
    startJob s g c (if d.dir = 0 then accRead else accWrite) 2 (copySizes d).1 [] [] (es.map (·.1)) fun pas =>
      es.zipWith (fun e pa => ⟨some pa, e.2⟩) pas

/-- The next job of the queue (R107): in queue order, with at most four in flight; a job whose fault has been resolved
replays in its place. -/
def nextJob (s : Node) (g : Nat) : Option Copy :=
  if inFlight s g < 4 then (gableOf s g).copies.find? (fun c => !c.started) else none

/-- The copy engine starts the next queued copy (R107, R108). -/
def execCopyStart (g : Nat) (s : State) : Host.Outcome State Fault Refusal := onServed s fun s =>
  onGable g (
    match nextJob s g with
    | some c => match c.job with
      | .copy d => startCopy s g c d
      | .gather _ => s
    | none => s)

/-- The remote access of a copy that covers an address, answered or not. -/
def copyRemote (s : Node) (g id pa : Nat) : Option RemoteReq := remoteAt s (.copy g id) pa

/-- The addresses in the remote window that a job's units have still to read. -/
def jobFar (l : List CopyElem) : List Nat := l.filterMap fun e => e.mem.bind fun a => if bit a 55 then some a else none

/-- The code that an element of a copy out of scratch delivers, and its flags (R105). -/
def copyOut (s : Node) (g : Nat) (d : CopyDesc) (sa : Nat) : Flagged :=
  let src := scratchLE s (scratchGable g d.saddr) sa (copySizes d).2
  match d.cast, castFmt d.mfmt, castFmt d.sfmt, rmOfCode d.rm with
  | true, some a, some b, some m => convert a m d.sat 0 (numOfCode b src)
  | _, _, _, _ => ⟨src, 0⟩

/-- The bytes of memory a job reads: scratch windows and HBM, with the issuing group's own earlier stores that still wait
for their line (R109). -/
def jobBytes (s : Node) (g k pa n : Nat) : List Byte := (List.range n).map fun i => loadByte s g k (pa + i)

/-- One element of a copy lands (R105, R107, R110): memory to scratch or scratch to memory, converted under CAST. -/
def landElem (s : Node) (g k : Nat) (d : CopyDesc) (pa sa : Nat) (remote : List Byte) : Node :=
  let (em, es) := copySizes d
  let h := scratchGable g d.saddr
  if d.dir = 0 then
    let src := if bit pa 55 then remote.take em else jobBytes s g k pa em
    let r : Flagged := match d.cast, castFmt d.mfmt, castFmt d.sfmt, rmOfCode d.rm with
      | true, some a, some b, some m => convert b m d.sat 0 (numOfCode a (leValue src))
      | _, _, _, _ => ⟨leValue src, 0⟩
    let s1 := scratchWrite s h sa (leBytes es r.code)
    let snan := d.cast && (match castFmt d.mfmt with
      | some a => numIsSnan (numOfCode a (leValue src))
      | none => false)
    if d.cast then fOr s1 (gLoc .copyStatus g) fCopyStatusFlags (r.flags ||| flIf snan flNV) else s1
  else
    let r := copyOut s g d sa
    let out := leBytes em r.code
    let s1 := match paKind s pa with
      | .scratch y off => scratchWrite s y off out
      | .remote _ _ => s
      | _ => dmaWrite s (baseOfGable g) pa out
    if d.cast then fOr s1 (gLoc .copyStatus g) fCopyStatusFlags r.flags else s1

/-- The bytes an element counts at its destination (R110). -/
def landBytes (d : CopyDesc) : Nat := if d.dir = 0 then (copySizes d).2 else (copySizes d).1

/-- Whether a remote read of a job must wait for a remote store that its group made before it to the line (R109). -/
def behindStore (s : Node) (g : Nat) (c : Copy) (pa : Nat) : Bool :=
  s.remotes.any fun r => r.who == .groupStore g c.group c.order && decide (r.result = none) &&
    lineOf (remotePa r) == lineOf pa

/-- The bytes that a copy out of scratch stores to a remote line, its later units last. -/
def copyLine (s : Node) (g : Nat) (c : Copy) (d : CopyDesc) (line : Nat) : List (Nat × Byte) :=
  ((c.elems.filter fun e => e.mem.elim false fun a => bit a 55 && lineOf a == line).flatMap fun e =>
    (leBytes (copySizes d).1 (copyOut s g d e.saddr).code).mapIdx fun i v => (e.mem.getD 0 % lineBytes + i, v)).foldl
      (fun l p => l.filter (fun q => q.1 ≠ p.1) ++ [p]) []

/-- A landed unit is counted (R110, R118). -/
def countLanded (s : Node) (g cnt n : Nat) : Node := cntAdd (addArrival s g cnt n) (gLoc .copyBytes g) n

/-- Lands one element of a started copy, or sends its remote access: the bytes of its page that lie together, or the store
of its line (R335). Answers whether it landed, and a failure code. -/
def landCopy (s : Node) (g : Nat) (c : Copy) (d : CopyDesc) (e : CopyElem) : Node × Bool × Nat :=
  match e.mem with
  | none => (s, true, 0)
  | some pa =>
    if bit pa 55 then
      match copyRemote s g c.id pa with
      | none =>
        if d.dir = 0 then
          if behindStore s g c pa then (s, false, 0)
          else (askRun c.pages s (.copy g c.id) (jobFar c.elems) (copySizes d).1 pa, false, 0)
        else ((startRemoteBy c.pages s (.copy g c.id) 1 (lineOf pa * lineBytes) lineBytes (copyLine s g c d (lineOf pa)) 0 0 0).1, false, 0)
      | some r =>
        match r.result with
        | none => (s, false, 0)
        | some (0, _) => (countLanded (landElem s g c.group d pa e.saddr (remoteFrom r pa)) g d.cnt (landBytes d), true, 0)
        | some (code, _) =>
          if code = ePoison then (s, true, ePoison) else (logRemote s (g / 16) (g % 16 + 1) code pa [], false, code)
    else if d.dir = 0 ∧ readsPoison s (g / 16) (lineOf pa) = true then (s, true, ePoison)
    else (countLanded (landElem s g c.group d pa e.saddr []) g d.cnt (landBytes d), true, 0)

/-! ## Gathers -/

/-- A committed word of a sequence entry (R176). -/
def seqWord (s : Node) (q i : Nat) : Nat := (regGet s (bLoc .seqEntry (q / 1024) [q % 1024, i])).toNat

/-- LAYOUT, LENGTH and STATE of a sequence entry (R176). -/
def seqLayout (s : Node) (q : Nat) : Nat := bits (seqWord s q 0) 31 29
def seqLength (s : Node) (q : Nat) : Nat := bits (seqWord s q 0) 27 10
def seqState (s : Node) (q : Nat) : Nat := bits (seqWord s q 0) 1 0

/-- A batch slot (R178): VALID in [15], the sequence in [11:0]. -/
def batchSlot (s : Node) (bank slot : Nat) : Nat :=
  wbits (regGet s (bLoc .batch 0 [bank, slot / 4])) (16 * (slot % 4) + 15) (16 * (slot % 4))

/-- The sequence a gather names, and whether it reads nothing (an invalid slot, or a FREE sequence named through a
slot): R180. -/
def gatherSeq (s : Node) (sel : Nat) : Nat × Bool :=
  if bit sel 15 then (bits sel 11 0, false)
  else
    let b := batchSlot s (bits sel 14 14) (bits sel 9 0)
    (bits b 11 0, !bit b 15 || seqState s (bits b 11 0) == 0)

/-- The strides of a page layout (R178, R184). -/
def layoutWord (s : Node) (l i : Nat) : Nat := (regGet s (bLoc .layout 0 [l, i])).toNat
def tokenStride (s : Node) (l : Nat) : Nat := fGet s (bLoc .layoutRow 0 [l]) fLayoutRowTokenStride
def rowBytesOf (s : Node) (l : Nat) : Nat := fGet s (bLoc .layoutRow 0 [l]) fLayoutRowRowbytes

/-- The gather descriptor's fields (R179); ROWBYTES as the named sequence's layout gives it. -/
def gatherDescOf (s : Node) (l : List Byte) : GatherDesc :=
  let sel := fieldLE l 0 2
  ⟨sel, fieldLE l 2 2, fieldLE l 4 2, fieldLE l 6 1, bits (fieldLE l 7 1) 0 0, fieldLE l 8 4, fieldLE l 12 4, fieldLE l 16 4,
    bits (fieldLE l 20 1) 5 0, fieldLE l 24 4, fieldLE l 28 4, rowBytesOf s (seqLayout s (gatherSeq s sel).1), none, 16⟩

/-- Whether a reserved field of a gather descriptor is set, or a count is out of its range (R179, R181). DESIGN CHOICE (log
entry 194): NHEAD 0, NTOK 0 or above 131,072, and SEL[14] set with DIRECT count as reserved fields. -/
def gatherReserved (l : List Byte) : Bool :=
  let sel := fieldLE l 0 2
  bits sel 13 12 != 0 || (!bit sel 15 && bits sel 11 10 != 0) || (bit sel 15 && bit sel 14) ||
  bits (fieldLE l 7 1) 7 1 != 0 || bits (fieldLE l 20 1) 7 6 != 0 || fieldLE l 21 3 != 0 || fieldLE l 32 32 != 0 ||
  fieldLE l 6 1 == 0 || fieldLE l 12 4 == 0 || decide (fieldLE l 12 4 > 131072)

/-- The byte after a gather's last scratch byte. -/
def gatherEnd (d : GatherDesc) : Nat :=
  bits d.saddr 20 0 + (d.ntok - 1) * d.sstrTok + (d.nhead - 1) * d.sstrHead + d.rowBytes

/-- The checks of KVG at issue (R181). -/
def gatherFault (l : List Byte) (d : GatherDesc) (off : Nat) : Option Nat :=
  if off % 64 ≠ 0 ∨ bits d.saddr 31 22 ≠ 0 ∨ gatherEnd d > 0x200000 then some eScratchRange
  else if gatherReserved l || d.rowBytes % 16 != 0 || d.sstrTok % 16 != 0 || d.sstrHead % 16 != 0 then some 0x0352
  else none

/-- KVG (R179): checks its descriptor and queues the gather as a copy. -/
def execKvg (g k w : Nat) (s : State) : Host.Outcome State Fault Refusal := onNode s fun s =>
  onGable g (issueWord s g k 0xC5 w (bits w 55 40 == 0 && bits w 31 0 == 0) [bits w 39 32] [bits w 39 32] fun s x =>
    let off := (readReg x (bits w 39 32) (firstLane x)).toNat
    let l := scratchBytes s g (bits off 20 0) 64
    if bits off 31 21 ≠ 0 then stopGroup s g k eScratchRange
    else match gatherFault l (gatherDescOf s l) off with
    | some c => stopGroup s g k c
    | none =>
      if (gableOf s g).copies.length ≥ 32 then waitOn s g k .queue
      else queueCopy s g k x (.gather (gatherDescOf s l)))

/-- Offset of a token's row within its page (R178). -/
def rowOffset (s : Node) (l layer kv head t : Nat) : Nat :=
  layer * layoutWord s l 0 + kv * layoutWord s l 1 + head * layoutWord s l 2 + t % 64 * tokenStride s l

/-- The tokens of a gather that read memory: those below LENGTH of a readable sequence (R180). -/
def gatherTokens (d : GatherDesc) (len : Nat) (nothing : Bool) : List Nat :=
  if nothing then [] else ((List.range d.ntok).map (d.token0 + ·)).filter (· < len)

/-- The batch slot and the sequence entry of a gather, read once when it leaves the queue (R180): the sequence, 1 where
it reads nothing, and the entry's words 0 to 2. -/
def gatherEntry (s : Node) (d : GatherDesc) : List Nat :=
  d.entry.getD (
    let (q, nothing) := gatherSeq s d.sel
    [q, b2n nothing, seqWord s q 0, seqWord s q 1, seqWord s q 2])

/-- The bytes of a page entry: from memory, or from an answered remote access. -/
def pageEntry (s : Node) (g : Nat) (c : Copy) (pa : Nat) : Nat :=
  leValue (if bit pa 55 then ((copyRemote s g c.id pa).elim [] (remoteFrom · pa)).take 8 else jobBytes s g c.group pa 8)

/-- What a gather reads and lands, once its page list is read (R179, R180): the bytes that land together, and each such
unit's token, address and scratch address. -/
def gatherUnits (s : Node) (d : GatherDesc) (lay : Nat) (entries : List (Nat × Nat)) : Nat × List (Nat × Nat × Nat) :=
  let base := fun t => ((entries.find? fun e => e.1 == t / 64).map fun e => e.2 / 4096 * 4096).getD 0
  let row := fun i j => base (d.token0 + i) + rowOffset s lay d.layer d.kv (d.head + j) (d.token0 + i)
  let rows := (List.range d.ntok).flatMap fun i => (List.range d.nhead).map fun j => (i, j)
  let unit := if rows.all (fun p => row p.1 p.2 % 16 == 0) then 16 else 1
  (unit, rows.flatMap fun (i, j) => (List.range (d.rowBytes / unit)).map fun u =>
    (d.token0 + i, wrap 64 ((row i j + unit * u : Nat) : Int), bits d.saddr 20 0 + i * d.sstrTok + j * d.sstrHead + unit * u))

/-- The rows of a gather, once the page list is read (R180, R181): every page entry valid, the rows are translated with
the list's pages in the translation list, and the gather starts. -/
def gatherRows (s : Node) (g : Nat) (c : Copy) (d : GatherDesc) (lay : Nat) (toks : List Nat) (list : List Nat)
    (pages : List PageMap) (entries : List (Nat × Nat)) : Node :=
  if entries.any (fun e => !bit e.2 0) then failCopy s g c 0x0354
  else
    let (unit, units) := gatherUnits s d lay entries
    let reads := units.filter fun u => toks.contains u.1
    startJob (modCopy s g c.id fun y => { y with job := .gather { d with unit := unit } }) g c accRead 4 unit pages list
      (reads.map (·.2.1)) fun pas =>
        (units.filter fun u => !toks.contains u.1).map (fun u => ⟨none, u.2.2⟩) ++
        reads.zipWith (fun u pa => ⟨some pa, u.2.2⟩) pas

/-- A gather whose page list is translated (R181): the list's entries are read, remote ones once they have come, and the
rows follow. -/
def gatherList (s : Node) (g : Nat) (c : Copy) (d : GatherDesc) (lay : Nat) (toks pages list : List Nat)
    (pas : List (Nat × Bool)) (maps : List PageMap) : Node :=
  match jobRefused s 8 pas with
  | some (code, pa) => refuseJob s g c code pa
  | none =>
    match pas.find? (fun p => readsPoison s (g / 16) (lineOf p.1)) with
    | some p => stopPoisonBoundary (dropCopy s g c.id) g c.group c.order 4 (lineOf p.1)
    | none =>
      let far := pas.filter fun p => bit p.1 55
      let unsent := (far.filter fun p => (copyRemote s g c.id p.1).isNone).map (·.1)
      if unsent ≠ [] then
        let s2 := unsent.foldl (fun s pa => if (copyRemote s g c.id pa).isSome then s else askRun maps s (.copy g c.id) unsent 8 pa) s
        let s3 := countFar s2 (g / 16) maps ((list.zip pas).map fun p => (p.1, p.2.1))
        modCopy s3 g c.id fun y => { y with pages := maps }
      else match far.findSome? (fun p => ((copyRemote s g c.id p.1).bind (·.result)).bind fun r =>
          if r.1 = 0 then none else some (r.1, p.1)) with
      | some (code, pa) =>
        if code = ePoison then stopPoisonBoundary (dropCopy s g c.id) g c.group c.order 4 (lineOf pa)
        else failCopy (logRemote s (g / 16) (g % 16 + 1) code pa []) g c code
      | none =>
        if far.any (fun p => ((copyRemote s g c.id p.1).bind (·.result)).isNone) then s
        else
          let entries := pages.zip (pas.map fun p => pageEntry s g c p.1)
          let s2 := { s with remotes := s.remotes.filter fun r => r.who ≠ .copy g c.id }
          let near := (list.zip pas).filter fun p => !bit p.2.1 55
          gatherRows (jobReads s2 g maps near) g c d lay toks list maps entries

/-- A gather as the entry it has read once describes it (R180): its layout's number, the tokens that read memory, and the
pages of those tokens. -/
def gatherNow (s : Node) (d0 : GatherDesc) : GatherDesc × Nat × List Nat × List Nat :=
  let en := gatherEntry s d0
  let lay := bits (en.getD 2 0) 31 29
  let d := { d0 with rowBytes := rowBytesOf s lay, entry := some en }
  let toks := gatherTokens d (bits (en.getD 2 0) 27 10) (en.getD 1 0 == 1)
  (d, lay, toks, (toks.map (· / 64)).eraseDups)

/-- The addresses of a gather's page list. -/
def gatherListVas (s : Node) (d0 : GatherDesc) : List Nat :=
  (gatherNow s d0).2.2.2.map fun p => wrap 64 (((gatherEntry s d0).getD 3 0 + 8 * p : Nat) : Int)

/-- Starts a gather (R180, R181), one access for translation: reads the batch slot and the entry once, the page list,
then the rows. The remote part of a page list is asked for first, the translation list being kept meanwhile. -/
def startGather (s : Node) (g : Nat) (c : Copy) (d0 : GatherDesc) : Node :=
  let en := gatherEntry s d0
  let (d, lay, toks, pages) := gatherNow s d0
  let list := gatherListVas s d0
  let s0 := modCopy s g c.id fun y => { y with job := .gather d }
  if partnerLost s g (.gather d) then failCopy s0 g c eRefused
  else if bit d.sel 15 && bits (en.getD 2 0) 1 0 == 0 then failCopy s0 g c 0x0353
  else if pages.any (fun p => decide (p ≥ bits (en.getD 4 0) 11 0)) then failCopy s0 g c 0x0354
  else
    match transGo (g / 16) (some g) accRead list s0 c.pages [] with
    | (s1, .fault va wf) =>
      let (lo, hi) := spanOf list
      jobFault s1 g c accRead 4 va lo (hi + 7) wf
    | (s1, .tooMany) => failCopy s1 g c eCopyPages
    | (s1, .ok pas maps) => gatherList s1 g c d lay toks pages list pas maps

/-- The gather leaves the copy queue (R180). -/
def execKvgStart (g : Nat) (s : State) : Host.Outcome State Fault Refusal := onServed s fun s =>
  onGable g (
    match nextJob s g with
    | some c => match c.job with
      | .copy _ => s
      | .gather d => startGather s g c d
    | none => s)

/-- Lands one unit of a gather, of 16 bytes or of one: a row's bytes, or zeros (R180). -/
def landGather (s : Node) (g : Nat) (c : Copy) (d : GatherDesc) (e : CopyElem) : Node × Bool × Nat :=
  let h := scratchGable g d.saddr
  let put := fun (s : Node) (l : List Byte) => countLanded (scratchWrite s h e.saddr l) g d.cnt d.unit
  match e.mem with
  | none => (put s (List.replicate d.unit 0), true, 0)
  | some pa =>
    if bit pa 55 then
      match copyRemote s g c.id pa with
      | none =>
        if behindStore s g c pa then (s, false, 0)
        else (askRun c.pages s (.copy g c.id) (jobFar c.elems) d.unit pa, false, 0)
      | some r =>
        match r.result with
        | none => (s, false, 0)
        | some (0, _) => (put s ((remoteFrom r pa).take d.unit), true, 0)
        | some (code, _) =>
          if code = ePoison then (s, true, ePoison) else (logRemote s (g / 16) (g % 16 + 1) code pa [], false, code)
    else if readsPoison s (g / 16) (lineOf pa) then (s, true, ePoison)
    else (put s (jobBytes s g c.group pa d.unit), true, 0)

/-- Lands one unit of a job; a partner that has faulted meanwhile refuses it (R117). -/
def landOne (s : Node) (g : Nat) (c : Copy) (e : CopyElem) : Node × Bool × Nat :=
  if partnerLost s g c.job then (s, false, eRefused)
  else match c.job with
  | .copy d => landCopy s g c d e
  | .gather d => landGather s g c d e

/-- Lands listed units; those that could not land yet stay. The last component is a failure or poison code; a failure ends
the landing. -/
def landMany (g : Nat) (c : Copy) : List CopyElem → Node → List CopyElem → Nat → Node × List CopyElem × Nat
  | [], s, left, code => (s, left.reverse, code)
  | e :: rest, s, left, code =>
    match landOne s g c e with
    | (s1, landed, cd) =>
      if cd ≠ 0 ∧ cd ≠ ePoison then (s1, left.reverse ++ e :: rest, cd)
      else landMany g c rest s1 (if landed then left else e :: left) (if cd = 0 then code else cd)

/-- Bytes of a copy land (R107, R110): the units `first` on, `count` of them, of those still to land. Poisoned bytes
are neither written nor counted, and stop the group (R241); a failed remote access drops the copy (R337). -/
def execCopyBytesLand (g id first count : Nat) (s : State) : Host.Outcome State Fault Refusal := onServed s fun s =>
  onGable g (
    match (gableOf s g).copies.find? (fun c => c.id == id) with
    | none => s
    | some c =>
      if !c.started || c.fseq != 0 then s
      else
        let (s1, left, code) := landMany g c ((c.elems.drop first).take count) s [] 0
        if code ≠ 0 ∧ code ≠ ePoison then failCopy s1 g c code
        else
          let rest := c.elems.take first ++ left ++ c.elems.drop (first + count)
          let s2 := if rest = [] then dropCopy s1 g id
            else modCopy s1 g id fun y => { y with elems := rest, moved := true }
          if code = ePoison then
            let bad := ((c.elems.drop first).take count).findSome? fun e => e.mem.bind fun pa =>
              if (if bit pa 55 then (copyRemote s1 g c.id pa).any (fun r => r.result.any fun x => x.1 == ePoison)
                else readsPoison s (g / 16) (lineOf pa)) then some (lineOf pa) else none
            stopPoisonBoundary s2 g c.group c.order (jobConsumer c.job) (bad.getD 0)
          else s2)

end Sys2Proof.Machine
end

