-- ==== Sys2Proof/Machine/Cells.lean ====
section
/-! DEFINITION. Matrix cells (03_matrix_cells.md), their accumulation (R49 to R53), scale records and tags (R146 to
R154), and the copy of a finished part into the Gutter (R119 to R121). -/

namespace Sys2Proof.Machine

/-! ## Instruction word and descriptor -/

/-- Fields of a matrix instruction word (R62). -/
def mGang (w : Nat) : Nat := bits w 55 54
def mCell (w : Nat) : Nat := bits w 53 53
def mBank (w : Nat) : Nat := bits w 52 52
def mStart (w : Nat) : Bool := bit w 51
def mFinish (w : Nat) : Bool := bit w 50
def mTA (w : Nat) : Bool := bit w 49
def mTB (w : Nat) : Bool := bit w 48
def mSteps (w : Nat) : Nat := if bits w 47 40 = 0 then 256 else bits w 47 40
def mSparse (w : Nat) : Bool := opcodeOf w == 0xD5

/-- Encoding checks of a word alone (R62, R79): the opcode, the unused fields, CELL, GANG and a quad on an odd Gable. -/
def matWordOk (g w : Nat) : Bool :=
  let gang := decide (mGang w ≠ 3) && (mGang w == 0 || mCell w == 0) && !(mGang w == 2 && g % 2 == 1)
  match opcodeOf w with
  | 0xD4 => gang && bits w 31 0 == 0
  | 0xD5 => gang && bits w 31 0 == 0 && !mTA w
  | 0xD7 => gang && bits w 51 51 == 0 && bits w 49 0 == 0
  | 0xD8 => bits w 55 48 == 0 && bits w 39 0 == 0
  | _ => false

/-- The descriptor's fields (R66). -/
def mmaDescOf (l : List Byte) : MmaDesc :=
  ⟨fieldLE l 0 4, fieldLE l 4 2, fieldLE l 6 2, fieldLE l 8 4, fieldLE l 12 2, fieldLE l 14 2, fieldLE l 16 4,
    fieldLE l 20 4, fieldLE l 24 4, fieldLE l 28 4, fieldLE l 32 4, fieldLE l 36 4, fieldLE l 40 1, fieldLE l 41 1⟩

/-- No descriptor: MREL names none. -/
def MmaDesc.none : MmaDesc := ⟨0, 0, 0, 0, 0, 0, 0, 0, 0, 0, 0, 0, 0, 0⟩

/-- A rate class (R69, R70): base K-step dense and sparse (0 where sparsity is not available), the fused group and the
retained width (R49). -/
structure MmaRate where
  base : Nat
  sparseBase : Nat
  fused : Nat
  width : Option Nat
  int : Bool
  deriving DecidableEq, Repr

/-- Whether a format is FP8 or FP6. -/
def isF8 (f : Fmt) : Bool := [Fmt.e4m3, .e5m2, .e3m2, .e2m3].contains f

/-- The permitted operand combinations (R69). -/
def mmaRate (a b : Fmt) : Option MmaRate :=
  match a, b with
  | .fp64, .fp64 => some ⟨2, 0, 1, none, false⟩
  | .fp32, .fp32 => some ⟨4, 0, 4, some 50, false⟩
  | .tf32, .tf32 => some ⟨8, 0, 8, some 34, false⟩
  | .bf16, .bf16 => some ⟨16, 32, 16, some 30, false⟩
  | .fp16, .fp16 => some ⟨16, 32, 16, some 30, false⟩
  | .e2m1, .e2m1 => some ⟨64, 128, 32, none, false⟩
  | .int4, .int4 => some ⟨64, 128, 0, none, true⟩
  | .int8, .int8 => some ⟨32, 64, 0, none, true⟩
  | .int8, .int4 => some ⟨32, 64, 0, none, true⟩
  | .int4, .int8 => some ⟨32, 64, 0, none, true⟩
  | _, _ =>
    if (isF8 a || decide (a = .e2m1)) && (isF8 b || decide (b = .e2m1)) then some ⟨32, 64, 32, none, false⟩ else none

/-- What an instruction's word and descriptor fix: formats, rate, accumulator, scheme, K-step and tile. -/
structure MmaShape where
  fa : Fmt
  fb : Fmt
  rate : MmaRate
  acc : AccFmt
  scheme : Nat
  block : Nat
  l2 : Bool
  kstep : Nat
  nb : Nat
  mTile : Nat
  nTile : Nat
  mVal : Nat
  nVal : Nat
  deriving DecidableEq, Repr

/-- Rows of a tile by gang (R58). -/
def tileRows (gang : Nat) (acc : AccFmt) : Nat :=
  (if gang = 2 then 128 else 64) / (if acc = .fp64 then 2 else 1)

/-- Columns of a tile by gang (R58). -/
def tileCols (gang : Nat) : Nat := if gang = 0 then 64 else 128

/-- The shape, where the formats form a permitted combination. -/
def mmaShape (w : Nat) (d : MmaDesc) : Option MmaShape :=
  match fmtOfCode (fwFmt d.aFmt), fmtOfCode (fwFmt d.bFmt) with
  | some fa, some fb =>
    (mmaRate fa fb).map fun r =>
      let acc : AccFmt := if fa = .fp64 then .fp64 else if r.int && fwScheme d.aFmt == 0 then .int32 else .fp32
      let base := if mSparse w then r.sparseBase else r.base
      let blk := fwBlockLen d.aFmt
      let ks := max base blk
      let mt := tileRows (mGang w) acc
      let nt := tileCols (mGang w)
      ⟨fa, fb, r, acc, fwScheme d.aFmt, blk, fwScheme d.aFmt == 2 && fwL2mode d.aFmt == 1, ks,
        if blk = 0 then 0 else ks / blk, mt, nt, if d.mValid = 0 then mt else d.mValid, if d.nValid = 0 then nt else d.nValid⟩
  | _, _ => none

/-- The cells of a gang instruction in part order. -/
def mParts (g w : Nat) : List (Nat × Nat) := gangParts (mGang w) g (mCell w)

/-- Reserved bits of the addresses an instruction uses, and of bytes 42 to 63 (R66, R150). -/
def descReserved (w : Nat) (d : MmaDesc) (l : List Byte) : Bool :=
  bits d.aAddr 31 22 != 0 || bits d.bAddr 31 22 != 0 ||
  (fwScheme d.aFmt != 0 && (bits d.as1 31 22 != 0 || bits d.bs1 31 22 != 0)) ||
  (fwScheme d.aFmt == 2 && fwL2mode d.aFmt == 1 && (bits d.as2 31 22 != 0 || bits d.bs2 31 22 != 0)) ||
  (mSparse w && bits d.metaAddr 31 22 != 0) || fieldLE l 42 22 != 0

/-- FORMAT_INVALID (R26, R72, R79): a word invalid by itself, or with the other operand's. -/
def formatInvalid (w : Nat) (d : MmaDesc) : Bool :=
  !fwPairValid d.aFmt d.bFmt ||
  (mSparse w && (decide (fwFmt d.aFmt ≤ 2) || decide (fwFmt d.bFmt ≤ 2)))

/-- The addresses an instruction uses (R66, R150). -/
def usedAddrs (w : Nat) (d : MmaDesc) (h : MmaShape) : List Nat :=
  [d.aAddr, d.bAddr] ++ (if h.scheme = 0 then [] else [d.as1, d.bs1]) ++ (if h.l2 then [d.as2, d.bs2] else []) ++
  (if mSparse w then [d.metaAddr] else [])

/-- The byte after the last one read of an operand (R67). -/
def operandEnd (addr ld width : Nat) (major : Bool) (rows ks : Nat) : Nat :=
  if major then bits addr 20 0 + (ks - 1) * ld + ceilDiv (rows * width) 8
  else bits addr 20 0 + (rows - 1) * ld + ceilDiv (ks * width) 8

/-- The block count at which an instruction will begin: after the instructions of the bank that wait before it (R147). -/
def startCount (s : Node) (g w : Nat) : Nat :=
  if mStart w then 0
  else
    let (x, c) := (mParts g w).headD (g, 0)
    let y := cellOf s x c
    let add := ((y.queue.filter fun i => mBank i.word == mBank w && !i.rel).map fun i =>
      match mmaShape i.word i.desc with
      | some h => mSteps i.word * h.nb
      | none => 0).foldl (· + ·) 0
    ((bankOf y (mBank w)).count + add) % 32768

/-- OPERAND_RANGE of the descriptor (R68, R79): alignment, the valid counts, and every byte read within scratch. -/
def operandRange (s : Node) (g w : Nat) (d : MmaDesc) (h : MmaShape) : Bool :=
  let ks := mSteps w * h.kstep
  let ci := startCount s g w
  let qmax := (ci + mSteps w * h.nb - 1) / 128 - ci / 128
  let ends :=
    [operandEnd d.aAddr d.aLd (fmtWidth h.fa) (mTA w) h.mVal (if mSparse w then ks / 2 else ks),
     operandEnd d.bAddr d.bLd (fmtWidth h.fb) (mTB w) h.nVal ks] ++
    (if h.scheme = 0 then [] else
      [bits d.as1 20 0 + (((mSteps w - 1) * h.mTile + h.mVal - 1) * h.nb + h.nb) * 2,
       bits d.bs1 20 0 + (((mSteps w - 1) * h.nTile + h.nVal - 1) * h.nb + h.nb) * 2]) ++
    (if h.l2 then
      [bits d.as2 20 0 + (qmax * h.mTile + h.mVal) * 8, bits d.bs2 20 0 + (qmax * h.nTile + h.nVal) * 8] else []) ++
    (if mSparse w then [bits d.metaAddr 20 0 + ((mSteps w - 1) * h.mTile + h.mVal) * (h.kstep / 8)] else [])
  (usedAddrs w d h).any (fun a => a % 16 != 0) || d.aLd % 16 != 0 || d.bLd % 16 != 0 ||
  decide (h.mVal > h.mTile) || decide (h.nVal > h.nTile) || ends.any (fun e => decide (e > 0x200000))

/-- The banks an instruction names, with their cells. -/
def mBanks (s : Node) (g w : Nat) : List Bank := (mParts g w).map fun (x, c) => bankOf (cellOf s x c) (mBank w)

/-- BANK_STATE of MMA and MMA.SP (R57, R79). -/
def bankBad (s : Node) (g k w : Nat) : Bool :=
  let bs := mBanks s g w
  if mStart w then bs.any (fun b => ownsBank b g k && b.isOpen)
  else bs.any (fun b => !(ownsBank b g k) || b.gang != mGang w || !b.isOpen)

/-- FORMAT_MISMATCH (R69, R71): the combination, and the accumulator format that claimed the bank, whoever did. DESIGN CHOICE
(log entry 191): START, which is to claim the bank anew, is not compared with the claim it meets; on an open claim of its own
group it raises BANK_STATE. -/
def formatMismatch (s : Node) (g w : Nat) (d : MmaDesc) : Bool :=
  (match mmaShape w d with
   | none => true
   | some h => !mStart w && (mBanks s g w).any (fun b => decide (b.st ≠ .free) && decide (b.afmt ≠ h.acc)))

/-- The third stage of the decode checks, first applicable row (R79); then reads through PARTNER of a FAULTED Gable
(R117). -/
def matFault (s : Node) (g k w : Nat) (d : MmaDesc) (l : List Byte) : Option Nat :=
  if descReserved w d l then some 0x0304
  else if formatInvalid w d then some 0x0301
  else if formatMismatch s g w d then some 0x0302
  else match mmaShape w d with
  | none => some 0x0302
  | some h =>
    if operandRange s g w d h then some 0x0305
    else if bankBad s g k w then some 0x0306
    else if fGet s (gLoc .gableCtrl (partner g)) fGableCtrlState = stFaulted ∧
      (usedAddrs w d h).any (fun a => bit a 21) = true then some eRefused
    else none

/-- The checks before a matrix instruction's own: a quad on a FAULTED partner (R117), divergence (R78), the word (R79),
the register number (R83). DESIGN CHOICE (log entry 173): REG_RANGE of RD comes after the word's own checks and before
the descriptor offset. -/
def matIssue (s : Node) (g k w : Nat) (f : Group → Node) : Node :=
  issue s g k fun x =>
    if (opcodeOf w = 0xD4 ∨ opcodeOf w = 0xD5) ∧ awaits x (bits w 39 32) = true then waitOn s g k .operands
    else if mGang w = 2 ∧ [0xD4, 0xD5, 0xD7].contains (opcodeOf w) = true ∧ fGet s (gLoc .gableCtrl (partner g)) fGableCtrlState = stFaulted then
      stopGroup s g k eRefused
    else if [0xD4, 0xD5, 0xD7, 0xD8].contains (opcodeOf w) && runMask x != 0xFFFFFFFF then stopGroup s g k 0x0303
    else if !matWordOk g w then stopGroup s g k 0x0304
    else if (opcodeOf w = 0xD4 ∨ opcodeOf w = 0xD5) ∧ bits w 39 32 ≥ x.regs then stopGroup s g k eRegRange
    else f x

/-- The claim that a matrix instruction is decoded for: that of its bank in part 0 (R57). -/
def mClaim (s : Node) (g w : Nat) : Nat := ((mBanks s g w).headD Bank.free).claim

/-- Steps 1 to 3 of R63; the group then waits to enter the cell queues. -/
def matMultiply (s : Node) (g k w : Nat) : Node :=
  matIssue s g k w fun x =>
    let off := (readReg x (bits w 39 32) 0).toNat
    if off % 64 ≠ 0 ∨ off ≥ 0x200000 then stopGroup s g k 0x0305
    else
      let l := scratchBytes s g off 64
      let d := mmaDescOf l
      match matFault s g k w d l with
      | some c => stopGroup s g k c
      | none =>
        let e := g - g % 2
        modGable (waitOn s g k (.matrix w d (mClaim s g w))) e fun y =>
          { y with claims := y.claims.filter (fun p => p ≠ (g, k)) ++ [(g, k)] }

/-- MMA; a reserved opcode of 0xD0 to 0xDF raises MMA_ENCODING_INVALID here (R62). -/
def execMma (g k w : Nat) (s : State) : Host.Outcome State Fault Refusal := onNode s fun s =>
  onGable g (if bits w 63 60 = 0xD ∧ ¬ [0xD5, 0xD7, 0xD8].contains (opcodeOf w) then matMultiply s g k w else s)

def execMmaSp (g k w : Nat) (s : State) : Host.Outcome State Fault Refusal := onNode s fun s =>
  onGable g (if opcodeOf w = 0xD5 then matMultiply s g k w else s)

/-! ## Entering the queues -/

/-- Whether every cell of the gang has a free place (R63 step 4). -/
def queuesFree (s : Node) (g w : Nat) : Bool :=
  (mParts g w).all fun (x, c) => decide ((cellOf s x c).queue.length < 4)

/-- Whether a waiting group claims the same bank in quad mode (R60). -/
def quadWaits (s : Node) (g k bank : Nat) : Bool :=
  match (groupOf s g k).wait with
  | .matrix w _ _ => mGang w == 2 && mStart w && mBank w == bank && opcodeOf w != 0xD7
  | _ => false

/-- Whether a claim can be granted (R60): every bank FREE, and no quad claim of the even Gable waits before it. -/
def claimReady (s : Node) (g k w : Nat) : Bool :=
  !mStart w || ((mBanks s g w).all (fun b => decide (b.st = .free)) &&
    (g % 2 == 0 || !((gableOf s (g - 1)).claims.takeWhile (fun p => p != (g, k))).any (fun p =>
      p.1 == g - 1 && quadWaits s p.1 p.2 (mBank w))))

/-- A bank just claimed (R57, R147, R148). -/
def claimedBank (g k gang part : Nat) (acc : AccFmt) (tile : Option TileRef) (id : Nat) : Bank :=
  { Bank.free with claim := id, st := .accum, claimer := g, group := k, gang := gang, afmt := acc, isOpen := true, part := part, tile := tile }

/-- Step 5 of R63 for one cell of the gang: the claim, the queue place; FINISH closes the claim (R57). An instruction without
START belongs to the claim it was decoded for. -/
def enterCell (y : Cell) (id g k w part : Nat) (d : MmaDesc) (x : Group) (iseq : Nat) (acc : AccFmt) (claim : Nat) : Cell :=
  let rel := opcodeOf w == 0xD7
  let starts := mStart w && !rel
  let mine := if starts then id else claim
  let y1 := if starts then modBank y (mBank w) fun _ => claimedBank g k (mGang w) part acc x.tile id else y
  let y2 := if mFinish w && !rel then
      modBank y1 (mBank w) fun b => if b.claimer = g ∧ b.claim = mine then { b with isOpen := false } else b
    else y1
  let hd : TileHead := ⟨d.tag, x.rkey ^^^ part, iseq, d.mValid, d.nValid⟩
  drainRel 4 { y2 with queue := y2.queue ++ [⟨id, rel, w, d, g, k, part, 0, hd, mine⟩] }

/-- Step 5 of R63: the claim and the queue places in every cell of the gang; the group goes on. -/
def enterQueues (s : Node) (g k w : Nat) (d : MmaDesc) (claim : Nat) : Node :=
  let x := groupOf s g k
  let y := gableOf s g
  let acc := (mmaShape w d).elim AccFmt.fp32 (·.acc)
  let s1 := ((mParts g w).zipIdx).foldl (fun s ((h, c), part) =>
    modCell s h c fun z => enterCell z y.matId g k w part d x y.iseq acc claim) s
  let fin := mFinish w && opcodeOf w != 0xD7
  let s2 := modGable s1 g fun z =>
    { z with matId := z.matId + 1, iseq := if fin then (z.iseq + 1) % 65536 else z.iseq }
  let s3 := modGable s2 (g - g % 2) fun z => { z with claims := z.claims.filter fun p => p ≠ (g, k) }
  retire s3 g k (stepPc (groupOf s3 g k))

/-- Whether a waiting matrix instruction meets a partner that has faulted meanwhile (R117). -/
def meetsLost (s : Node) (g w : Nat) (d : MmaDesc) : Bool :=
  fGet s (gLoc .gableCtrl (partner g)) fGableCtrlState == stFaulted &&
    (mGang w == 2 || (opcodeOf w != 0xD7 && (mmaShape w d).any fun h => (usedAddrs w d h).any fun a => bit a 21))

/-- A waiting matrix instruction enters the cell queues (R60, R63 steps 4 and 5); a partner that has faulted refuses it
(R117). -/
def execMmaQueueEnter (g k : Nat) (s : State) : Host.Outcome State Fault Refusal := onNode s fun s =>
  onGable g (
    match (groupOf s g k).wait with
    | .matrix w d claim =>
      if isFenced s (g / 16) then s
      else if meetsLost s g w d then
        stopGroup (modGable s (g - g % 2) fun z => { z with claims := z.claims.filter fun p => p ≠ (g, k) }) g k eRefused
      else if queuesFree s g w && (opcodeOf w == 0xD7 || claimReady s g k w) then enterQueues s g k w d claim
      else s
    | _ => s)

/-- MREL (R64): nothing on banks FREE in every cell; BANK_STATE on a FULL bank, a closed claim, or another claim. DESIGN
CHOICE (log entry 172): also in a gang mode other than the claim's, and on a gang with some banks FREE and others owned. -/
def execMrel (g k w : Nat) (s : State) : Host.Outcome State Fault Refusal := onNode s fun s =>
  onGable g (if opcodeOf w ≠ 0xD7 then s else matIssue s g k w fun x =>
    let bs := mBanks s g w
    if bs.all (fun b => decide (b.st = .free)) then retire s g k (stepPc x)
    else if bs.any (fun b => !(ownsBank b g k) || decide (b.st = .full) || !b.isOpen || b.gang != mGang w) then
      stopGroup s g k 0x0306
    else if queuesFree s g w then enterQueues s g k w MmaDesc.none (mClaim s g w)
    else waitOn s g k (.matrix w MmaDesc.none (mClaim s g w)))

/-- The group's matrix instructions that still read operands (R65). -/
def readingCount (s : Node) (g k : Nat) : Nat :=
  let qs := (gangParts 2 (g - g % 2) 0).flatMap fun (x, c) => (cellOf s x c).queue
  (((qs.filter fun i => i.claimer == g && i.group == k && !i.rel).map (·.id)).eraseDups).length

/-- MFENCE (R65). -/
def execMfence (g k w : Nat) (s : State) : Host.Outcome State Fault Refusal := onNode s fun s =>
  onGable g (if opcodeOf w ≠ 0xD8 then s else matIssue s g k w fun x =>
    if readingCount s g k ≤ bits w 47 40 then retire s g k (stepPc x) else waitOn s g k (.fence (bits w 47 40)))

/-- An MFENCE that waits is satisfied (R65). -/
def execMfenceSatisfied (g k : Nat) (s : State) : Host.Outcome State Fault Refusal := onNode s fun s =>
  onGable g (
    match (groupOf s g k).wait with
    | .fence n =>
      if readingCount s g k ≤ n && !isFenced s (g / 16) then retire s g k (stepPc (groupOf s g k)) else s
    | _ => s)

/-! ## One K-step -/

/-- An operand element (R67): row `m` of A or column of B, K index `k` of the stored operand. -/
def operandElem (s : Node) (g addr ld width : Nat) (major : Bool) (m k : Nat) : Nat :=
  let (line, pos) := if major then (k, m) else (m, k)
  let byte := bits addr 20 0 + line * ld + pos * width / 8
  (scratchLE s (scratchGable g addr) byte (ceilDiv (pos * width % 8 + width) 8) >>> (pos * width % 8)) % 2 ^ width

/-- The exact sum of values (R49 step 4): NaN absorbs, infinities of opposite sign are invalid. DESIGN CHOICE (log entry
170): a sum that holds a quiet NaN beside infinities of opposite sign signals nothing, which no rule states. -/
def numTotal : List Num → Opd
  | [] => ⟨.fin false 0 0, false⟩
  | x :: t =>
    let l := x :: t
    if l.any numIsNan then ⟨.nan false, l.any numIsSnan⟩
    else if l.contains (.inf false) && l.contains (.inf true) then ⟨.nan false, true⟩
    else ⟨t.foldl (fun a y => (numAdd false a y).val) x, false⟩

/-- Truncates toward zero to a multiple of 2^q (R49 step 3). -/
def numTrunc (q : Int) : Num → Num
  | .fin n m e => .fin n (cutAt m e q).kept q
  | x => x

/-- The exponent of the leading bit of the largest finite term (R49 step 2). -/
def largestExp (l : List Num) : Option Int :=
  l.foldl (fun b x => match x with
    | .fin _ m e => if m = 0 then b else match b with
      | none => some (leadExp m e)
      | some v => some (max v (leadExp m e))
    | _ => b) none

/-- Adds exact terms to an accumulator with one RNE rounding (R49, R50); `nv` is what forming the terms signalled. -/
def accAdd (f : Fmt) (width : Option Nat) (acc : Nat) (terms : List Num) (nv : Bool) : Flagged :=
  let all := numOfCode f acc :: terms
  let kept := match width, largestExp all with
    | some w, some e => all.map (numTrunc (e - w))
    | _, _ => all
  let t := numTotal kept
  let r := deliver f .rne 0 (nv || t.nv) t.val
  ⟨r.code, r.flags &&& (flNV ||| flOF)⟩

/-- The dense positions and stored positions of a K-step's products in row `m` (R67, R72, R73). -/
def kPositions (s : Node) (g w : Nat) (d : MmaDesc) (h : MmaShape) (step m : Nat) : List (Nat × Nat) :=
  if mSparse w then
    let a := bits d.metaAddr 20 0 + (step * h.mTile + m) * (h.kstep / 8)
    let meta_ := scratchLE s (scratchGable g d.metaAddr) a (h.kstep / 8)
    (List.range (h.kstep / 4)).flatMap fun j =>
      [(4 * j + bits meta_ (4 * j + 1) (4 * j), step * (h.kstep / 2) + 2 * j),
       (4 * j + bits meta_ (4 * j + 3) (4 * j + 2), step * (h.kstep / 2) + 2 * j + 1)]
  else (List.range h.kstep).map fun i => (i, step * h.kstep + i)

/-- A scale record's raw value (R149). -/
def recordAt (s : Node) (g addr off n : Nat) : Nat := scratchLE s (scratchGable g addr) (bits addr 20 0 + off) n

/-- The scale factors of block `b` of a K-step: of operand A (row `i`) or B (column `i`) (R50, R149). -/
def scaleNums (s : Node) (g : Nat) (h : MmaShape) (s1 s2 tile ci step b i : Nat) : List Num :=
  if h.scheme = 0 then []
  else
    let r1 := recordAt s g s1 (((step * tile + i) * h.nb + b) * 2) 2
    let one := if h.scheme = 1 then e8m0 r1 else numOfCode .e4m3 (r1 % 256)
    if h.l2 then
      let c := ci + step * h.nb + b
      let q := (c / 128 - ci / 128) % 256
      [one, numOfCode .fp32 (recordAt s g s2 ((q * tile + i) * 8) 8 % 2 ^ 32)]
    else [one]

/-- The product of a list, with the invalid signal of each multiplication. -/
def numProd (l : List Num) (x : Opd) : Opd :=
  l.foldl (fun a y => let p := numMul a.val y; ⟨p.val, a.nv || p.nv⟩) x

/-- The value of an element code: an MXINT8 element is the integer times 2⁻⁶ (R35). -/
def cellNum (scheme : Nat) (f : Fmt) (w : Nat) : Num :=
  match numOfCode f w with
  | .fin neg mag exp => .fin neg mag (if scheme = 1 ∧ f = .int8 then exp - 6 else exp)
  | x => x

/-- One output element's new accumulator code and flags after a K-step (R49 to R53, R75). DESIGN CHOICE (log entry 171):
an infinite or NaN second-level scale multiplies the block's sum (R50), not each element (R36). -/
def stepElem (s : Node) (g w : Nat) (d : MmaDesc) (h : MmaShape) (ci step m n acc : Nat) : Flagged :=
  let prods := (kPositions s g w d h step m).map fun (pos, ka) =>
    let a := operandElem s g d.aAddr d.aLd (fmtWidth h.fa) (mTA w) m ka
    let b := operandElem s g d.bAddr d.bLd (fmtWidth h.fb) (mTB w) n (step * h.kstep + pos)
    (pos, numMul (cellNum h.scheme h.fa a) (cellNum h.scheme h.fb b))
  match h.acc with
  | .int32 =>
    let total := (prods.map fun p => match p.2.val with
      | .fin neg x e => finAt neg x e 0
      | _ => 0).foldl (· + ·) (signed 32 acc)
    if total > 2147483647 then ⟨0x7FFFFFFF, flOF⟩
    else if total < -2147483648 then ⟨0x80000000, flOF⟩
    else ⟨wrap 32 total, 0⟩
  | _ =>
    let f : Fmt := if h.acc = .fp64 then .fp64 else .fp32
    let size := if h.scheme = 0 then h.rate.fused else h.block
    (List.range (h.kstep / size)).foldl (fun r gi =>
      let part := (prods.filter fun p => p.1 / size = gi).map (·.2)
      let x := if h.scheme = 0 then accAdd f h.rate.width r.code (part.map (·.val)) (part.any (·.nv))
        else
          let t := numTotal (part.map (·.val))
          let scales := scaleNums s g h d.as1 d.as2 h.mTile ci step gi m ++ scaleNums s g h d.bs1 d.bs2 h.nTile ci step gi n
          let p := numProd scales ⟨t.val, t.nv || part.any (·.nv)⟩
          accAdd f none r.code [p.val] p.nv
      ⟨x.code, r.flags ||| x.flags⟩) ⟨acc, 0⟩

/-- The first row and column of a part (R58). -/
def partRow (gang part mTile : Nat) : Nat := if gang = 2 ∧ part ≥ 2 then mTile / 2 else 0
def partCol (part : Nat) : Nat := part % 2 * 64

/-- Rows of a part. -/
def partRows (acc : AccFmt) : Nat := if acc = .fp64 then 32 else 64

/-- The valid tile rows and columns of a part. -/
def partSpan (h : MmaShape) (gang part : Nat) : List Nat × List Nat :=
  (((List.range (partRows h.acc)).map (partRow gang part h.mTile + ·)).filter (· < h.mVal),
    ((List.range 64).map (partCol part + ·)).filter (· < h.nVal))

/-- Adds a K-step into a bank of a part: the sums and the flags raised. -/
def stepBank (s : Node) (i : CellInstr) (h : MmaShape) (b : Bank) : Bank :=
  let (rows, cols) := partSpan h b.gang i.part
  let r0 := partRow b.gang i.part h.mTile
  let c0 := partCol i.part
  rows.foldl (fun b m => cols.foldl (fun b n =>
    let key := (m - r0) * 64 + (n - c0)
    let r := stepElem s i.claimer i.word i.desc h b.count i.step m n (tblGet 0 b.acc key)
    { b with acc := tblSet 0 b.acc key r.code, flags := b.flags ||| r.flags }) b) b

/-! ## Scale records and metadata -/

/-- A record that a cell reads: operand, level, row or column, the tag it would carry over a base of zero, the tag it
carries, and whether a reserved bit is set. -/
structure ScaleRec where
  operand : Nat
  level : Nat
  index : Nat
  place : Nat
  tag : Nat
  reserved : Bool
  deriving DecidableEq, Repr

/-- First-level records of a K-step, lowest row or column first, then lowest block (R149, R152). -/
def blockRecs (s : Node) (g operand addr tile nb ci step : Nat) (idx : List Nat) : List ScaleRec :=
  idx.flatMap fun i => (List.range nb).map fun b =>
    let r := recordAt s g addr (((step * tile + i) * nb + b) * 2) 2
    ⟨operand, 0, i, (ci + step * nb + b) % 256, r / 256, false⟩

/-- Second-level records of a K-step, one for each group its blocks lie in (R149, R154). -/
def groupRecs (s : Node) (g operand addr tile nb ci step : Nat) (idx : List Nat) : List ScaleRec :=
  let gs := ((List.range nb).map fun b => (ci + step * nb + b) / 128).eraseDups
  idx.flatMap fun i => gs.map fun q =>
    let r := recordAt s g addr (((q - ci / 128) % 256 * tile + i) * 8) 8
    ⟨operand, 1, i, q % 256, bits r 39 32, bits r 63 40 != 0⟩

/-- The base a kind of record has: latched, or set by the first record read (R148). DESIGN CHOICE (log entry 193): the record
read first is that of the lowest row or column and its lowest block. -/
def tagBase (latched : Option Nat) (l : List ScaleRec) : Option Nat :=
  match latched, l with
  | some t, _ => some t
  | none, r :: _ => some (wrap 8 ((r.tag : Int) - r.place))
  | none, [] => none

/-- The tag a record must carry (R148). -/
def tagExpected (base : Option Nat) (r : ScaleRec) : Nat := (base.getD 0 + r.place) % 256

/-- The first faulty record of a kind: its code and the DETAIL fields of R152. -/
def recFault (base : Option Nat) (l : List ScaleRec) : Option (Nat × List (Nat × Nat)) :=
  (l.find? fun r => r.reserved || r.tag != tagExpected base r).map fun r =>
    (if r.reserved then 0x0311 else 0x0310,
      [(1, r.operand), (1, r.level), (1, r.index), (1, tagExpected base r), (1, r.tag)])

/-- Metadata of the part's rows (R74): the first nibble, by row and then by group, whose first position is not below its
second; its record names operand A, level 0 and the row, and no tags. -/
def metaFault (s : Node) (i : CellInstr) (h : MmaShape) (rows : List Nat) : Option (Nat × List (Nat × Nat)) :=
  if !mSparse i.word then none
  else (rows.find? fun m => anyBelow (h.kstep / 4) fun j =>
      let a := bits i.desc.metaAddr 20 0 + (i.step * h.mTile + m) * (h.kstep / 8)
      let nib := bits (scratchLE s (scratchGable i.claimer i.desc.metaAddr) a (h.kstep / 8)) (4 * j + 3) (4 * j)
      decide (bits nib 1 0 ≥ bits nib 3 2)).map fun m => (0x0307, [(1, 0), (1, 0), (1, m), (1, 0), (1, 0)])

/-- The records of a K-step by kind, in the order of R152. -/
def stepRecs (s : Node) (i : CellInstr) (h : MmaShape) (b : Bank) : List ScaleRec × List ScaleRec × List ScaleRec × List ScaleRec :=
  let (rows, cols) := partSpan h b.gang i.part
  if h.scheme = 0 then ([], [], [], [])
  else
    (blockRecs s i.claimer 0 i.desc.as1 h.mTile h.nb b.count i.step rows,
     blockRecs s i.claimer 1 i.desc.bs1 h.nTile h.nb b.count i.step cols,
     if h.l2 then groupRecs s i.claimer 0 i.desc.as2 h.mTile h.nb b.count i.step rows else [],
     if h.l2 then groupRecs s i.claimer 1 i.desc.bs2 h.nTile h.nb b.count i.step cols else [])

/-- The bank with the tag bases that a K-step's first records latch (R148). -/
def latchTags (b : Bank) (r : List ScaleRec × List ScaleRec × List ScaleRec × List ScaleRec) : Bank :=
  { b with ta1 := tagBase b.ta1 r.1, tb1 := tagBase b.tb1 r.2.1, ta2 := tagBase b.ta2 r.2.2.1, tb2 := tagBase b.tb2 r.2.2.2 }

/-- The first fault of a K-step in the order of R152: code and further DETAIL fields. -/
def stepFault (s : Node) (i : CellInstr) (h : MmaShape) (b : Bank) : Option (Nat × List (Nat × Nat)) :=
  let r := stepRecs s i h b
  let y := latchTags b r
  (recFault y.ta1 r.1).orElse fun _ => (recFault y.tb1 r.2.1).orElse fun _ =>
    (recFault y.ta2 r.2.2.1).orElse fun _ => (recFault y.tb2 r.2.2.2).orElse fun _ => metaFault s i h (partSpan h b.gang i.part).1

/-! ## Performing K-steps -/

/-- The head of a cell's queue is done; MREL instructions behind it are performed. -/
def popHead (s : Node) (g c : Nat) : Node := modCell s g c fun y => drainRel 4 { y with queue := y.queue.drop 1 }

/-- A bank of the tile that an execution fault hits (R79): in ACCUM it moves to DISCARD; in FULL its FINISH has been
performed and it is FREE, without an entry. -/
def discardBank (v : Bank) (i : CellInstr) : Bank :=
  if v.claimer = i.claimer ∧ v.claim = i.claim then
    match v.st with
    | .accum => { v with st := .discard }
    | .full => Bank.free
    | _ => v
  else v

/-- Whether a Gutter entry of a Gable comes from the claim of an instruction. -/
def entryOf (x : Nat) (i : CellInstr) (e : GutEntry) : Bool :=
  (if e.src = 0 then x else partner x) == i.claimer && e.claim == i.claim

/-- A Gable's Gutter without the entries of a discarded tile; a run on one of them ends and writes nothing more. -/
def dropEntries (x : Nat) (i : CellInstr) (z : Gable) : Gable :=
  let s1 := { z with copying := z.copying.filter (fun e => !entryOf x i e), gutter := z.gutter.filter (fun e => !entryOf x i e) }
  if z.elem.running && z.elem.main.any (entryOf x i) then
    { s1 with elem := { z.elem with running := false, blocked := false, fseq := 0, main := [] } }
  else s1

/-- An execution fault (R79, R152): every bank of the tile moves to DISCARD, a part that is on its way to the Gutter or has
reached it writes no result, one record is written, the group goes on. -/
def discardTile (s : Node) (g c bank : Nat) (i : CellInstr) (code : Nat) (more : List (Nat × Nat)) : Node :=
  let b := bankOf (cellOf s g c) bank
  let s1 := (gangParts b.gang i.claimer c).foldl (fun s (x, y) =>
    modCell (modGable s x (dropEntries x i)) x y fun z => modBank z bank fun v => discardBank v i) s
  logGable s1 g code 0 ([(1, c), (1, i.group), (1, bank), (4, i.desc.tag)] ++ more)

/-- An instruction on a DISCARD bank performs nothing; FINISH returns the bank to FREE (R79). -/
def skipDiscarded (s : Node) (g c bank : Nat) (i : CellInstr) : Node :=
  let s1 := if mFinish i.word then modCell s g c fun y => modBank y bank fun _ => Bank.free else s
  settleGroup (popHead s1 g c) i.claimer i.group

/-- The fault that a tile's one record names (R152): where several cells of the gang stand at the same K-step of the
instruction, the fault of the lowest part; the Gable, the cell and the fault. -/
def tileFault (s : Node) (g c : Nat) (i : CellInstr) (h : MmaShape) (own : Nat × List (Nat × Nat)) :
    Nat × Nat × Nat × List (Nat × Nat) :=
  let bank := mBank i.word
  let b := bankOf (cellOf s g c) bank
  let found := (gangParts b.gang i.claimer c).findSome? fun (x, y) =>
    match (cellOf s x y).queue with
    | j :: _ =>
      let v := bankOf (cellOf s x y) bank
      if j.id = i.id ∧ j.claimer = i.claimer ∧ j.step = i.step ∧ v.st = .accum ∧ v.claim = i.claim then
        (stepFault s j h v).map fun f => (x, y, f.1, f.2)
      else none
    | [] => none
  found.getD (g, c, own.1, own.2)

/-- The last K-step is done: the block count advances (R147), and FINISH fills the bank (R56, R61). -/
def endInstr (s : Node) (g c bank : Nat) (i : CellInstr) (h : MmaShape) : Node :=
  popHead (modCell s g c fun y => modBank y bank fun b =>
    let b1 := { b with count := (b.count + mSteps i.word * h.nb) % 32768 }
    if mFinish i.word then { b1 with st := .full, head := i.head } else b1) g c

/-- One K-step of the instruction at the head of a cell's queue (R49 to R53, R67 to R75, R152). An instruction whose claim
MREL has ended before it performs nothing. CELL_STATUS takes the flags that this K-step raises (R54). -/
def kStep (s : Node) (g c : Nat) (i : CellInstr) (h : MmaShape) : Node :=
  let bank := mBank i.word
  let b := bankOf (cellOf s g c) bank
  if b.claimer ≠ i.claimer ∨ b.claim ≠ i.claim ∨ b.st = .free then settleGroup (popHead s g c) i.claimer i.group
  else if b.st = .discard then skipDiscarded s g c bank i
  else if b.st ≠ .accum then s
  else match stepFault s i h b with
  | some own =>
    let (x, y, code, more) := tileFault s g c i h own
    skipDiscarded (discardTile s x y bank i code more) g c bank i
  | none =>
    let b0 := stepBank s i h { latchTags b (stepRecs s i h b) with flags := 0 }
    let b1 := { b0 with flags := b.flags ||| b0.flags }
    let s1 := modCell s g c fun y => modBank { y with queue := modFirst (fun _ => true) (fun q => { q with step := q.step + 1 }) y.queue } bank fun _ => b1
    let s2 := fOr s1 (gLoc .cellStatus g [c]) fCellStatusFlags b0.flags
    let base := if mSparse i.word then h.rate.sparseBase else h.rate.base
    let s3 := cntAdd s2 (gLoc .cellMacCycles g [c]) (32 * h.kstep / base)
    if i.step + 1 = mSteps i.word then endInstr s3 g c bank i h else s3

def execMmaKStep (g c : Nat) (s : State) : Host.Outcome State Fault Refusal := onNode s fun s =>
  onGable g (
    if isFenced s (g / 16) || fGet s (gLoc .gableCtrl g) fGableCtrlState == stFaulted || decide (c ≥ 2) then s
    else match (cellOf s g c).queue with
    | i :: _ => match mmaShape i.word i.desc with
      | some h => kStep s g c i h
      | none => s
    | [] => s)

/-! ## Into the Gutter -/

/-- Entries a cell holds, copies in progress included (R120). -/
def entriesOf (y : Gable) (c : Nat) : Nat := ((y.gutter ++ y.copying).filter fun e => e.cell == c).length

/-- No Gutter entry is free for a part of the cell (R24, R120). -/
def gutterFull (y : Gable) (c : Nat) : Bool :=
  decide (entriesOf y c ≥ 4) || decide (y.gutter.length + y.copying.length ≥ 8)

/-- A bank of the cell is FULL with no free Gutter entry: the cycle counts in CELL_GUTTER_WAIT (R120). -/
def gutterWaits (y : Gable) (c : Nat) : Bool :=
  let x := if c = 0 then y.c0 else y.c1
  gutterFull y c && anyBelow 2 fun n => decide ((bankOf x n).st = .full) && !y.copying.any (fun e => e.cell == c && e.bank == n)

/-- A FULL bank's part starts its copy into a Gutter entry (R119, R120, R121). -/
def execGutterCopyStart (g c bank : Nat) (s : State) : Host.Outcome State Fault Refusal := onNode s fun s =>
  onGable g (
    let y := gableOf s g
    let b := bankOf (cellOf s g c) bank
    if isFenced s (g / 16) ∨ c ≥ 2 ∨ bank ≥ 2 ∨ b.st ≠ .full ∨ gutterFull y c = true ∨
      y.copying.any (fun e => e.cell == c) = true then s
    else
      let e : GutEntry := ⟨b.head, b.group, b2n (b.claimer != g), c, bank, b.gang, b.part, b.afmt, b.flags, b.acc, b.tile, b.claim⟩
      modGable s g fun z => { z with copying := z.copying ++ [e] })

/-- Marks the tiles of Gutter entries lost: they never complete (R144, R169). -/
def loseTiles (s : Node) (l : List GutEntry) : Node :=
  l.foldl (fun s e => match e.tile with
    | some t => modSched s t.die fun c => { c with tiles := c.tiles.map fun x => if x.id = t.id then { x with lost := true } else x }
    | none => s) s

/-- The copy's last beat: the entry becomes visible and the bank is FREE (R56, R61, R119); a FAULTED Gable discards it
(R144). -/
def execGutterCopyDone (g c : Nat) (s : State) : Host.Outcome State Fault Refusal := onNode s fun s =>
  onGable g (
    match (gableOf s g).copying.find? (fun e => e.cell == c) with
    | none => s
    | some e =>
      let faulted := ctrlState s (gLoc .gableCtrl g) == stFaulted
      let claimer := (bankOf (cellOf s g c) e.bank).claimer
      let s1 := modGable s g fun z => { z with
        copying := z.copying.filter fun x => x.cell != c
        gutter := if faulted then z.gutter else z.gutter ++ [e] }
      let s2 := if faulted then loseTiles s1 [e] else s1
      settleGroup (modCell s2 g c fun y => modBank y e.bank fun _ => Bank.free) claimer e.group)

end Sys2Proof.Machine
end

