-- ==== Sys2Proof/Machine/GableCtl.lean ====
section
/-! DEFINITION. A Gable as a whole: admission of groups (R83, R84, R166, R202), the common states (R116), FAULTED (R117,
R144) and the scratch window (R102). -/

namespace Sys2Proof.Machine

/-! ## Launch blocks (R162, R166) -/

/-- Word `i` of a descriptor or launch block. -/
def tdWord (ws : List Nat) (i : Nat) : Nat := ws.getD i 0

/-- Fields of a descriptor (R162). -/
def tdPc (ws : List Nat) : Nat := tdWord ws 0 + tdWord ws 1 * 2 ^ 32
def tdRkey (ws : List Nat) : Nat := tdWord ws 2
def tdThreads (ws : List Nat) : Nat := bits (tdWord ws 3) 4 0 + 1
def tdRegs (ws : List Nat) : Nat := 8 * (bits (tdWord ws 3) 12 8 + 1)
def tdGang (ws : List Nat) : Nat := bits (tdWord ws 3) 17 16
def tdFlex (ws : List Nat) : Bool := bit (tdWord ws 3) 18
def tdScope (ws : List Nat) : Nat := bits (tdWord ws 3) 20 19
def tdPieces (ws : List Nat) : Nat := bits (tdWord ws 3) 27 24
def tdAny (ws : List Nat) : Bool := bit (tdWord ws 4) 7
def tdAff (ws : List Nat) : Nat := bits (tdWord ws 4) 3 0
def tdWen (ws : List Nat) : Bool := bit (tdWord ws 4) 31
def tdWaitCnt (ws : List Nat) : Nat := bits (tdWord ws 4) 25 16
def tdThr (ws : List Nat) : Nat := tdWord ws 5
def tdSig (ws : List Nat) : Nat := bits (tdWord ws 6) 15 0
def tdInc (ws : List Nat) : Nat := bits (tdWord ws 6) 31 16

/-- A reserved bit set, or GANG 3 (R162, R163, R201). -/
def tdReserved (ws : List Nat) : Bool :=
  bits (tdWord ws 3) 7 5 != 0 || bits (tdWord ws 3) 15 13 != 0 || bits (tdWord ws 3) 23 21 != 0 ||
  bits (tdWord ws 3) 31 28 != 0 || bits (tdWord ws 4) 6 4 != 0 || bits (tdWord ws 4) 15 8 != 0 ||
  bits (tdWord ws 4) 30 26 != 0 || bits (tdWord ws 6) 14 10 != 0 || tdWord ws 7 != 0 || tdGang ws == 3

/-- A quad that may run on even Gables alone. -/
def tdEvenOnly (ws : List Nat) : Bool := tdGang ws == 2 && !tdFlex ws

/-- The launch block (R166): the gang mode the group must use, the piece and the number of pieces. -/
def launchBlock (ws : List Nat) (g piece pieces : Nat) : List Nat :=
  let gang := if tdGang ws = 2 ∧ g % 2 = 1 then 1 else tdGang ws
  ws.set 3 (putBits (putBits (tdWord ws 3) 17 16 gang) 31 24 (16 * piece + pieces))

/-! ## Admission -/

/-- Free group-registers of a scheduler's quarter (R84, R118). -/
def freeRegs (y : Gable) (q : Nat) : Nat :=
  512 - ((y.groups.filter fun (k, x) => k / 16 == q && decide (x.phase ≠ .empty)).map fun p => p.2.regs).foldl (· + ·) 0

/-- The lowest-numbered free slot of a scheduler. DESIGN CHOICE (log entry 175): R84 does not say which free slot a
launch takes -/
def freeSlot (y : Gable) (q : Nat) : Option Nat :=
  firstBelow 16 fun i => decide ((tblGet Group.none y.groups (16 * q + i)).phase = .empty)

/-- The group number a launch takes (R84): the qualifying scheduler with the most free group-registers, the lowest on
a tie. -/
def admitSlot (y : Gable) (regs : Nat) : Option Nat :=
  let ok := (List.range 4).filter fun q => (freeSlot y q).isSome && decide (freeRegs y q ≥ regs)
  match ok with
  | [] => none
  | q0 :: rest =>
    let q := rest.foldl (fun b q => if freeRegs y q > freeRegs y b then q else b) q0
    (freeSlot y q).map (16 * q + ·)

/-- Whether a Gable admits groups (R116, R117). -/
def gableOn (s : Node) (g : Nat) : Bool := isOn s (gLoc .gableCtrl g) && !isFenced s (g / 16)

/-- Whether a Gable can take a launch at once. -/
def canAdmit (s : Node) (g : Nat) (ws : List Nat) : Bool :=
  gableOn s g && (admitSlot (gableOf s g) (tdRegs ws)).isSome

/-- Admits a group from its launch block (R83, R84, R124, R166): every register zero. -/
def admitGroup (s : Node) (g : Nat) (block : List Nat) (rkey : Nat) (tile : Option TileRef) : Node :=
  match admitSlot (gableOf s g) (tdRegs block) with
  | none => s
  | some k =>
    let x : Group := { Group.none with
      phase := .running, order := (gableOf s g).order, regs := tdRegs block
      threads := tdThreads block, paths := [⟨tdPc block, 2 ^ tdThreads block - 1⟩]
      rkey := rkey, launch := block, tile := tile }
    modGable s g fun y => { y with groups := tblSet Group.none y.groups k x, order := y.order + 1 }

/-- A scope that no broker restarts: a direct launch is no tile of the pool (R175, R201). -/
def scopeDirect : Nat := 4

/-- Starts a tile of a die's scheduler: its number and the state. -/
def newTile (s : Node) (d : Nat) (pieces addr scope sig inc : Nat) (cmd : Option Nat) : Node × TileRef :=
  let id := (dieOf s d).sched.tileId
  (modSched s d fun c => { c with tiles := c.tiles ++ [⟨id, pieces, addr, scope, sig, inc, false, cmd⟩], tileId := id + 1 },
    ⟨d, id⟩)

/-- A waiting direct launch is admitted (R84, R201, R202). -/
def execGroupLaunch (g : Nat) (s : State) : Host.Outcome State Fault Refusal := onNode s fun s =>
  onGable g (
    match (gableOf s g).launch with
    | some l => match l.block with
      | some ws =>
        if canAdmit s g ws then
          let (s1, t) := newTile s (g / 16) 1 l.addr scopeDirect (tdSig ws) (tdInc ws) none
          let s2 := modGable (admitGroup s1 g (launchBlock ws g 0 1) (tdRkey ws) (some t)) g fun y => { y with launch := none }
          s2
        else s
      | none => s
    | none => s)

/-! ## Enabling and disabling -/

/-- The registers of a Gable's state hold nothing (R116): groups, copies, Gutter, element engine. -/
def gableDrained (s : Node) (g : Nat) : Bool :=
  let y := gableOf s g
  y.groups.all (fun p => decide (p.2.phase = .empty)) && decide (y.copies = []) && decide (y.gutter = []) &&
  decide (y.copying = []) && !y.elem.running

/-- A disabling Gable has drained (R116). -/
def execGableDisableDone (g : Nat) (s : State) : Host.Outcome State Fault Refusal := onNode s fun s =>
  onGable g (
    let st := ctrlState s (gLoc .gableCtrl g)
    if (st = stDisabling ∨ st = stPending) ∧ gableDrained s g = true ∧ isFenced s (g / 16) = false then
      ownStepEnds s (gLoc .gableCtrl g)
    else s)

/-! ## FAULTED -/

/-- Discards every Gutter entry of a Gable and its element engine's run (R144, R409). -/
def discardGutter (s : Node) (g : Nat) : Node :=
  let y := gableOf s g
  let s1 := loseTiles s (y.gutter ++ y.copying)
  let keep := y.copying.foldl (fun (z : Gable) e =>
    if e.cell = 0 then { z with c0 := modBank z.c0 e.bank fun _ => Bank.free }
    else { z with c1 := modBank z.c1 e.bank fun _ => Bank.free }) y
  modGable s1 g fun z => { z with
    gutter := [], copying := [], c0 := keep.c0, c1 := keep.c1
    elem := { z.elem with running := false, blocked := false, fseq := 0, main := [] } }

/-- Ends every resident group of a Gable (R80). -/
def endAllGroups (s : Node) (g : Nat) : Node :=
  (tblKeys (gableOf s g).groups).foldl (fun s k =>
    if (groupOf s g k).phase = .empty ∨ (groupOf s g k).phase = .ending then s else endGroup s g k) s

/-- An uncorrectable error in a register file or scratch (R117, R144): FAULTED, one record, groups ended, Gutter
discarded. -/
def sramLost (s : Node) (g : Nat) : Node :=
  if isFenced s (g / 16) then s
  else
    let s1 := logGable (faultBlock s (gLoc .gableCtrl g)) g 0x0107 0 []
    signalGable (discardGutter (endAllGroups s1 g) g) g

def execGableSramUncorrected (g : Nat) (s : State) : Host.Outcome State Fault Refusal := onNode s fun s =>
  onGable g (sramLost s g)

/-! ## The scratch window -/

/-- An access that the node refuses, as its sender sees it (R19, R102). -/
def refusal : Sender → Resp
  | .core _ => .accessFault
  | .mp _ => .mpError
  | _ => .refused

/-- A load or store of a scratch window (R102). -/
def execScratchWindowAccess (by_ : Sender) (addr size : Nat) (store : Bool) (v : Word) (s : State) :
    Host.Outcome State Fault Refusal := onNode s fun s =>
  match paKind s addr with
  | .scratch g off =>
    .next (
      if [1, 2, 4, 8].contains size = false ∨ addr % size ≠ 0 ∨ isFenced s (g / 16) = true then withResp s (refusal by_)
      else if store then withResp (scratchWrite s g off (leBytes size v.toNat)) .done
      else withResp s (.data (BitVec.ofNat 64 (scratchLE s g off size))))
  | _ => .next (withResp s (refusal by_))

end Sys2Proof.Machine
end

