-- ==== Sys2Proof/Machine/Sched.lean ====
section
/-! DEFINITION. Tile scheduling (R162 to R175, R183, R184): lists, the pool, placement, launch, splitting, stealing,
completion and dependency counters; the sequence table's stores (R176 to R178). -/

namespace Sys2Proof.Machine

/-! ## Dependency counters and readiness -/

/-- The home of a dependency counter (R168). -/
def depLoc (i : Nat) : RegLoc := bLoc .depCnt (i / 256 % 4) [i % 256]

/-- A dependency counter's value. -/
def depCounter (s : Node) (i : Nat) : Nat := fGet s (depLoc i) fDepCntValue

/-- Adds to a dependency counter, modulo 2³². -/
def addDep (s : Node) (i n : Nat) : Node := fSet s (depLoc i) fDepCntValue ((depCounter s i + n) % 2 ^ 32)

/-- A software write of a dependency counter (R168). -/
def execDepCntWrite (i : Nat) (v : Word) (s : State) : Host.Outcome State Fault Refusal := onNode s fun s =>
  onUnit 1024 i (withResp (fSet s (depLoc i) fDepCntValue (wbits v 31 0)) .done)

/-- Whether a pool entry is ready (R168, R173). -/
def tileReady (s : Node) (e : PoolEntry) : Bool :=
  e.pinned || !tdWen e.words || reached (depCounter s (tdWaitCnt e.words)) (tdThr e.words)

/-! ## Queues and placement -/

/-- The scheduler of a die. -/
def schedOf (s : Node) (d : Nat) : Sched := (dieOf s d).sched

/-- A local queue. -/
def queueOf (s : Node) (d lg : Nat) : List PoolEntry := (schedOf s d).pool.filter fun e => e.gable == lg

/-- Whether a Gable may run a descriptor (R165, R172). -/
def mayRun (ws : List Nat) (lg : Nat) : Bool := !(tdEvenOnly ws && lg % 2 == 1)

/-- Placement by queue length (R165): among the Gables that may run the descriptor and that the scheduler gives work
(R116), all of them where none is ON. -/
def shortestQueue (s : Node) (d : Nat) (ws : List Nat) : Nat :=
  let may := (List.range 16).filter fun lg => mayRun ws lg
  let on := may.filter fun lg => gableOn s (16 * d + lg)
  match (if on = [] then may else on) with
  | [] => 0
  | a :: t => t.foldl (fun b lg => if (queueOf s d lg).length < (queueOf s d b).length then lg else b) a

/-- The local queue a fetched descriptor goes to (R165). -/
def placeOf (s : Node) (d : Nat) (ws : List Nat) : Nat := if tdAny ws then shortestQueue s d ws else tdAff ws

/-- Free entries of a pool (R162). -/
def poolFree (s : Node) (d : Nat) : Nat := 4096 - (schedOf s d).pool.length

/-- Adds a descriptor to a die's pool. -/
def addPool (s : Node) (d : Nat) (ws : List Nat) (addr lg : Nat) (crossed pinned : Bool) (tile : Option TileRef)
    (cmd : Option Nat) : Node :=
  modSched s d fun c => { c with
    pool := c.pool ++ [⟨ws, addr, c.order, lg, crossed, pinned, tile, cmd⟩], order := c.order + 1 }

/-- The local Gable a piece or descriptor was placed for stays its queue; the entry of a given age is rewritten. -/
def modPool (s : Node) (d order : Nat) (f : PoolEntry → PoolEntry) : Node :=
  modSched s d fun c => { c with pool := modFirst (fun e => e.order == order) f c.pool }

/-- Removes the entry of a given age. -/
def dropPool (s : Node) (d order : Nat) : Node :=
  modSched s d fun c => { c with pool := dropFirst (fun e => e.order == order) c.pool }

/-- Re-places the descriptors of a Gable that enters DISABLING under R165 (R174), one from another die as if ANY were 1
(R171): pinned ones, those of SCOPE 3, and those that no other Gable that is ON may run, stay. -/
def replaceQueue (s : Node) (g : Nat) : Node :=
  (queueOf s (g / 16) (g % 16)).foldl (fun s e =>
    let others := (List.range 16).any fun lg => lg != g % 16 && mayRun e.words lg && gableOn s (16 * (g / 16) + lg)
    if e.pinned || tdScope e.words == 3 then s
    else if tdAny e.words || e.crossed then
      if others then modPool s (g / 16) e.order fun x => { x with gable := shortestQueue s (g / 16) e.words } else s
    else modPool s (g / 16) e.order fun x => { x with gable := tdAff e.words }) s

/-- What a Gable's control register leads to: one that enters DISABLING gives its queue back (R174). -/
def afterCtrl (old new : Node) (g : Nat) : Node :=
  let l := gLoc .gableCtrl g
  if ctrlState old l ≠ stDisabling ∧ ctrlState new l = stDisabling then replaceQueue new g else new

/-- A write of GABLE_CTRL (R116): WD_EXP and EN. -/
def execGableEnableWrite (g : Nat) (v : Word) (s : State) : Host.Outcome State Fault Refusal := onNode s fun s =>
  onGable g (
    if isFenced s (g / 16) then withResp s .done
    else
      let l := gLoc .gableCtrl g
      withResp (afterCtrl s (enableWrite (fSet s l fGableCtrlWdExp (wbits v 20 16)) l (wbit v 0)) g) .done)

/-- ENABLING ends (R116): the Gable is ON, or DISABLING where a disable was pending (R294). -/
def execGableEnableDone (g : Nat) (s : State) : Host.Outcome State Fault Refusal := onNode s fun s =>
  onGable g (if ctrlState s (gLoc .gableCtrl g) = stEnabling ∧ isFenced s (g / 16) = false then
    afterCtrl s (ownStepEnds s (gLoc .gableCtrl g)) g else s)

/-! ## Lists -/

/-- The die-wide control of a scheduler. -/
def tsCtrl (d : Nat) : RegLoc := dLoc .tsCtrl d

/-- TS_LIST_ADDR (R164): one value for each writing agent; bits [5:0] are kept zero. -/
def execTsListAddrWrite (d agent : Nat) (v : Word) (s : State) : Host.Outcome State Fault Refusal := onNode s fun s =>
  onDie d (if isFenced s d then withResp s .done
    else withResp (modSched s d fun c => { c with listAddr := tblSet 0 c.listAddr agent (v.toNat / 64 * 64) }) .done)

/-- The scheduler's event at the APLIC of its base die (R200). -/
def tsEvent (s : Node) (d : Nat) : Node := signal s (d / 3) (49 + d % 3)

/-- Submits a list (R164): discarded with LIST_OVF while 16 are held, and discarded while an abort runs (R409). -/
def submitList (s : Node) (d addr count : Nat) (cmd : Option Nat) : Node :=
  if (dieOf s d).aborting then s
  else if (schedOf s d).lists.length ≥ 16 then tsEvent (fOr s (dLoc .tsStatus d) fTsStatusListOvf 1) d
  else modSched s d fun c => { c with lists := c.lists ++ [⟨addr, count, 0, cmd, 0, none, []⟩] }

def execTsListGoWrite (d agent : Nat) (v : Word) (s : State) : Host.Outcome State Fault Refusal := onNode s fun s =>
  onDie d (
    let n := wbits v 12 0
    if isFenced s d ∨ n = 0 ∨ n > 4096 then withResp s .done
    else withResp (submitList s d (tblGet 0 (schedOf s d).listAddr agent) n none) .done)

/-- Whether a descriptor is invalid (R163). -/
def tdInvalid (ws : List Nat) : Bool :=
  tdReserved ws || (tdFlex ws && tdGang ws != 2) || tdPc ws % 8 != 0 ||
  (tdEvenOnly ws && !tdAny ws && tdAff ws % 2 == 1) || (tdScope ws == 3 && tdAny ws)

/-- The fault of a list's translated descriptors, judged as a whole (R22, R102, R232, R335): its code and address. -/
def listFault (s : Node) (pas : List (Nat × Bool)) : Option (Nat × Nat) :=
  pas.findSome? fun p => (paFault s p.1 64).map fun c => (c, p.1)

/-- Rewrites the list at the head. -/
def modHeadList (s : Node) (d : Nat) (f : TileList → TileList) : Node :=
  modSched s d fun c => { c with lists := modFirst (fun _ => true) f c.lists }

/-- Moves past a descriptor of the list at the head; a list with none left is released. -/
def nextInList (s : Node) (d : Nat) : Node :=
  modSched s d fun c => { c with lists := match c.lists with
    | [] => []
    | l :: t => if l.next + 1 ≥ l.count then t else { l with next := l.next + 1 } :: t }

/-- Takes a fetched descriptor's words: an invalid one is dropped with a record (R163). -/
def takeWords (s : Node) (d : Nat) (l : TileList) (ws : List Nat) : Node :=
  if tdInvalid ws then nextInList (tsEvent (logErr s d 0x22 0x0350 0 []) d) d
  else nextInList (addPool s d ws (l.addr + 64 * l.next) (placeOf s d ws) false false none l.cmd) d

/-- Reads the next descriptor of a translated list: from HBM through the die cache or, by an uncached page, at the home
(R261), from a scratch window, or by a remote access, which is asked for first (R335). Poison drops the descriptor
(R241), and so does a remote access that fails (R337). -/
def takeDesc (s : Node) (d : Nat) (l : TileList) (pa : Nat) (cacheable : Bool) : Node :=
  match paKind s pa with
  | .hbm =>
    if readsPoison s (if cacheable then d else 12) (lineOf pa) then
      nextInList (logErr s d 0x22 ePoison (lineOf pa * lineBytes) [(1, 5), (1, 0), (1, 0)]) d
    else
      let s1 := if cacheable then touchRead s d (lineOf pa) .gable else homeRead s (baseOfDie d) clsGable (lineOf pa)
      takeWords s1 d l ((List.range 16).map fun i => leValue (if cacheable then dieBytes s d (pa + 4 * i) 4 else readBytes s1 (pa + 4 * i) 4))
  | .scratch g off => takeWords s d l ((List.range 16).map fun i => scratchLE s g (off + 4 * i) 4)
  | _ =>
    match s.remotes.find? (fun r => r.who == .list d) with
    | none =>
      (startRemoteBy l.maps (countFar s d l.maps [(wrap 64 ((l.addr + 64 * l.next : Nat) : Int), pa)]) (.list d) 0 pa 64 [] 0 0 0).1
    | some r => match r.result with
      | none => s
      | some (0, bs) => takeWords (takeRemote s r.id) d l ((List.range 16).map fun i => leValue ((bs.drop (4 * i)).take 4))
      | some (c, _) =>
        let s1 := takeRemote s r.id
        nextInList (if c = ePoison then logErr s1 d 0x22 ePoison (lineOf pa * lineBytes) [(1, 5), (1, 0), (1, 0)]
          else logRemote s1 d 0x22 c pa []) d

/-- The scheduler fetches the next descriptor (R163, R164, R165): the list is translated and judged as one access (R232,
R265). DESIGN CHOICE (log entry 178): a list with a refused, unmapped or unreachable descriptor is dropped with a record. -/
def execTileDescFetch (d : Nat) (s : State) : Host.Outcome State Fault Refusal := onServed s fun s =>
  onDie d (
    if !isOn s (tsCtrl d) || isFenced s d || decide (poolFree s d = 0) then s
    else match (schedOf s d).lists with
    | [] => s
    | l :: _ =>
      if l.fseq ≠ 0 then s
      else match l.pas with
      | some pas => takeDesc s d l (pas.getD l.next (0, true)).1 (pas.getD l.next (0, true)).2
      | none =>
        let vas := (List.range l.count).map fun i => wrap 64 ((l.addr + 64 * i : Nat) : Int)
        match translateAll s d none accRead vas with
        | (s1, .ok pas maps) =>
          match listFault s1 pas with
          | some (c, pa) =>
            let s2 := modSched s1 d fun y => { y with lists := y.lists.drop 1 }
            if c = 0x0608 then logRemote s2 d 0x22 c pa [] else logErr s2 d 0x22 c pa []
          | none =>
            let l1 := { l with pas := some pas, maps := maps }
            takeDesc (modHeadList s1 d fun _ => l1) d l1 (pas.getD l.next (0, true)).1 (pas.getD l.next (0, true)).2
        | (s1, .fault va wf) =>
          let (s2, q) := queueFault s1 (.list d) accRead (d <<< 4 + 5) 0 0 va l.addr (l.addr + 64 * l.count - 1) wf
          modHeadList s2 d fun x => { x with fseq := q }
        | (s1, .tooMany) => s1)

/-! ## Launch -/

/-- Whether a Gable is idle (Work stealing): it can take a group and its queue holds no ready descriptor. -/
def gableIdle (s : Node) (g : Nat) : Bool :=
  gableOn s g && (List.range 4).any (fun q => (freeSlot (gableOf s g) q).isSome) &&
  !(queueOf s (g / 16) (g % 16)).any (tileReady s)

/-- The oldest entry of a list of pool entries, and the youngest. -/
def oldest : List PoolEntry → Option PoolEntry
  | [] => none
  | e :: t => some (t.foldl (fun b x => if x.order < b.order then x else b) e)
def youngest : List PoolEntry → Option PoolEntry
  | [] => none
  | e :: t => some (t.foldl (fun b x => if x.order > b.order then x else b) e)

/-- The Gables that would take the other pieces of a split (R173). -/
def splitGables (s : Node) (g : Nat) (ws : List Nat) : List Nat :=
  ((List.range 16).filter fun lg => lg != g % 16 && mayRun ws lg && gableIdle s (16 * (g / 16) + lg))

/-- Launches a descriptor as one group of a tile (R165 to R167). -/
def launchPiece (s : Node) (g : Nat) (ws : List Nat) (piece pieces : Nat) (t : TileRef) : Node :=
  cntAdd (admitGroup s g (launchBlock ws g piece pieces) (tdRkey ws ^^^ (piece <<< 8)) (some t)) (dLoc .tsLaunches (g / 16)) 1

/-- Launches a pool entry on its Gable, split where R173 allows. -/
def launchEntry (s : Node) (g : Nat) (e : PoolEntry) : Node :=
  let d := g / 16
  let s0 := dropPool s d e.order
  match e.tile with
  | some t => launchPiece s0 g e.words (bits (tdWord e.words 3) 31 28) (bits (tdWord e.words 3) 27 24) t
  | none =>
    let p := tdPieces e.words
    let others := splitGables s g e.words
    if p ≥ 2 ∧ others.length ≥ p - 1 ∧ poolFree s d ≥ p - 1 then
      let (s1, t) := newTile s0 d p e.addr (tdScope e.words) (tdSig e.words) (tdInc e.words) e.cmd
      let s2 := ((others.take (p - 1)).zipIdx).foldl (fun s (lg, i) =>
        addPool s d (e.words.set 3 (putBits (tdWord e.words 3) 31 24 (16 * (i + 1) + p))) e.addr lg e.crossed true (some t) e.cmd) s1
      launchPiece (cntAdd s2 (dLoc .tsSplits d) 1) g e.words 0 p t
    else
      let (s1, t) := newTile s0 d 1 e.addr (tdScope e.words) (tdSig e.words) (tdInc e.words) e.cmd
      launchPiece s1 g e.words 0 1 t

/-- Whether a fetched direct launch waits at a Gable: it goes first (R202). -/
def directWaits (s : Node) (g : Nat) : Bool :=
  match (gableOf s g).launch with
  | some l => l.block.isSome
  | none => false

/-- A Gable launches the oldest ready descriptor of its queue (R165). -/
def execTileLaunch (g : Nat) (s : State) : Host.Outcome State Fault Refusal := onNode s fun s =>
  onGable g (
    if !isOn s (tsCtrl (g / 16)) || directWaits s g then s
    else match oldest ((queueOf s (g / 16) (g % 16)).filter (tileReady s)) with
    | none => s
    | some e => if canAdmit s g e.words then launchEntry s g e else s)

/-! ## Stealing -/

/-- Whether a descriptor is stealable (07_tile_scheduling.md, work stealing): ready, not launched, SCOPE not 3, no pinned
piece, and not in the queue of a Gable that is shutting down (R116). -/
def stealable (s : Node) (d : Nat) (e : PoolEntry) : Bool :=
  let st := ctrlState s (gLoc .gableCtrl (16 * d + e.gable))
  tileReady s e && !e.pinned && tdScope e.words != 3 && st != stDisabling && st != stPending

/-- The stealable descriptors of a die. -/
def dieStealable (s : Node) (d : Nat) : List PoolEntry := (schedOf s d).pool.filter (stealable s d)

/-- Level 1 (R170, R172): from the queue with the most stealable descriptors, among those that hold one the Gable may run,
the youngest such. -/
def stealDie (s : Node) (g : Nat) : Option PoolEntry :=
  let d := g / 16
  let all := fun lg => (queueOf s d lg).filter (stealable s d)
  let can := fun lg => (all lg).filter fun e => mayRun e.words (g % 16)
  let qs := (List.range 16).filter fun lg => lg != g % 16 && (can lg) != []
  match qs with
  | [] => none
  | a :: t => youngest (can (t.foldl (fun b lg => if (all lg).length > (all b).length then lg else b) a))

/-- The stealable descriptors of a die of a SCOPE that a level takes, not crossed before (R170, R171). -/
def levelTiles (s : Node) (d : Nat) (node : Bool) : List PoolEntry :=
  (dieStealable s d).filter fun e => !e.crossed &&
    (if node then tdScope e.words == 2 else tdScope e.words == 1 || tdScope e.words == 2)

/-- Those of them that the Gable may run (R172). -/
def giveable (s : Node) (d lg : Nat) (node : Bool) : List PoolEntry :=
  (levelTiles s d node).filter fun e => mayRun e.words lg

/-- How many descriptors a victim gives (R171): at most BATCH and half of its stealable descriptors. -/
def giveCount (s : Node) (d lg : Nat) (node : Bool) (want : Nat) : Nat :=
  let n := (dieStealable s d).length
  let batch := max 1 (fGet s (tsCtrl d) fTsCtrlBatch)
  if n < 2 ∨ isFenced s d = true ∨ isOn s (tsCtrl d) = false then 0
  else min (min (min batch (n / 2)) (giveable s d lg node).length) want

/-- Moves the youngest descriptors of a victim to another die, placed as if ANY were 1 (R171). -/
def moveTiles (victim die lg : Nat) (node : Bool) : Nat → Node → Node
  | 0, s => s
  | n + 1, s =>
    match youngest (giveable s victim lg node) with
    | none => s
    | some e =>
      moveTiles victim die lg node n
        (addPool (dropPool s victim e.order) die e.words e.addr (shortestQueue s die e.words) true false none e.cmd)

/-- A victim's answer (R171), counted by the stealing die. -/
def give (s : Node) (victim g : Nat) (node : Bool) : Node :=
  let d := g / 16
  let n := giveCount s victim (g % 16) node (poolFree s d)
  cntAdd (moveTiles victim d (g % 16) node n s) (dLoc (if node then .tsStealsNode else .tsStealsBd) d) n

/-- Whether a broker serves (R184). -/
def brokerOn (s : Node) (b : Nat) : Bool := isOn s (bLoc .brokerCtrl b)

/-- The die of a base die with the most descriptors that a level takes (R170); one whose scheduler refuses steal requests
(R174) has none. DESIGN CHOICE (log entry 194): at level 3, where no rule says which die of the other base die gives, it is
chosen in the same way. -/
def richestDie (s : Node) (b g : Nat) (node : Bool) : Option Nat :=
  let ds := ([3 * b, 3 * b + 1, 3 * b + 2]).filter fun d =>
    d != g / 16 && !isFenced s d && isOn s (tsCtrl d) && decide (levelTiles s d node ≠ [])
  match ds with
  | [] => none
  | a :: t => some (t.foldl (fun x d =>
      if (levelTiles s d node).length > (levelTiles s x node).length then d else x) a)

/-- The die that the broker of a base die chooses, where it gives something (R170, R171). -/
def giver (s : Node) (b g : Nat) (node : Bool) : Option Nat :=
  (richestDie s b g node).bind fun d => if giveCount s d (g % 16) node (poolFree s (g / 16)) > 0 then some d else none

/-- The victim of levels 2 and 3 (R170): its die, and whether the steal crosses base dies. -/
def stealVictim (s : Node) (g : Nat) : Option (Nat × Bool) :=
  let b := baseOfGable g
  if !brokerOn s b then none
  else match giver s b g false with
  | some d => some (d, false)
  | none =>
    if fGet s (bLoc .brokerCtrl b) fBrokerCtrlXbd = 1 then
      ([b ^^^ 1, b ^^^ 2, b ^^^ 3].findSome? fun c => if brokerOn s c then giver s c g true else none).map fun d => (d, true)
    else none

/-- Whether a Gable may steal: its scheduler is ON and it is idle. -/
def maySteal (s : Node) (g : Nat) : Bool := isOn s (tsCtrl (g / 16)) && gableIdle s g

/-- An idle Gable steals (R170): within its die, else through its broker, else from other base dies. -/
def execTileSteal (g : Nat) (s : State) : Host.Outcome State Fault Refusal := onNode s fun s =>
  onGable g (
    if !maySteal s g then s
    else match stealDie s g with
    | some e => cntAdd (modPool s (g / 16) e.order fun x => { x with gable := g % 16 }) (dLoc .tsStealsDie (g / 16)) 1
    | none => match stealVictim s g with
      | some (d, node) => give s d g node
      | none => s)

/-- A victim die answers the request of an idle Gable's broker (R171): only the die the broker chose gives. -/
def execBrokerStealRequest (d g : Nat) (s : State) : Host.Outcome State Fault Refusal := onNode s fun s =>
  onDie d (if g < 192 ∧ maySteal s g = true ∧ (stealDie s g).isNone = true then
      match stealVictim s g with
      | some (x, node) => if x = d then give s d g node else s
      | none => s
    else s)

/-! ## Completion -/

/-- Whether anything of a tile is unfinished (R169): pieces in the pool, groups, banks, Gutter entries, runs, stores. -/
def tileBusy (s : Node) (t : TileRef) : Bool :=
  (schedOf s t.die).pool.any (fun e => e.tile == some t) ||
  (List.range 16).any (fun lg =>
    let y := gableOf s (16 * t.die + lg)
    y.groups.any (fun p => p.2.tile == some t) ||
    [y.c0.b0, y.c0.b1, y.c1.b0, y.c1.b1].any (fun b => b.tile == some t) ||
    (y.gutter ++ y.copying ++ y.elem.main).any (fun e => e.tile == some t)) ||
  (dieOf s t.die).cache.stores.any (fun p => p.tile == some t) ||
  s.remotes.any (fun r => decide (r.result = none) && (match r.who with
    | .elemStore _ _ _ tl => tl == some t
    | _ => false))

/-- A tile completes (R169): SIG_INC is added to its counter if SEN is set. A lost tile never does (R144, R409). -/
def execTileComplete (d id : Nat) (s : State) : Host.Outcome State Fault Refusal := onNode s fun s =>
  onDie d (
    match (schedOf s d).tiles.find? (fun t => t.id == id) with
    | none => s
    | some t =>
      if isFenced s d || t.lost || tileBusy s ⟨d, id⟩ then s
      else
        let s1 := modSched s d fun c => { c with tiles := dropFirst (fun x => x.id == id) c.tiles }
        if bit t.sig 15 then addDep s1 (bits t.sig 9 0) t.inc else s1)

/-! ## Enabling -/

/-- A write of TS_CTRL (R174, R183): BATCH and EN. -/
def execTsEnableWrite (d : Nat) (v : Word) (s : State) : Host.Outcome State Fault Refusal := onNode s fun s =>
  onDie d (if isFenced s d then withResp s .done
    else withResp (enableWrite (fSet s (tsCtrl d) fTsCtrlBatch (wbits v 19 16)) (tsCtrl d) (wbit v 0)) .done)

/-- No tile of the disabling scheduler remains in progress (R174). -/
def execTsDisableDone (d : Nat) (s : State) : Host.Outcome State Fault Refusal := onNode s fun s =>
  onDie d (
    let st := ctrlState s (tsCtrl d)
    if (st = stDisabling ∨ st = stPending) ∧ isFenced s d = false ∧
        (schedOf s d).tiles.all (fun t => t.lost || t.scope == scopeDirect) = true then ownStepEnds s (tsCtrl d)
    else s)

/-- A write of BROKER_CTRL (R184): XBD and EN. -/
def execBrokerEnableWrite (b : Nat) (v : Word) (s : State) : Host.Outcome State Fault Refusal := onNode s fun s =>
  onBase b (withResp (enableWrite (fSet s (bLoc .brokerCtrl b) fBrokerCtrlXbd (wbits v 1 1)) (bLoc .brokerCtrl b) (wbit v 0)) .done)

/-! ## The sequence table -/

/-- A word of a sequence entry. -/
def seqLoc (q i : Nat) : RegLoc := bLoc .seqEntry (q / 1024 % 4) [q % 1024, i]

/-- A store to words 1 to 3 is staged (R177). -/
def execSeqEntryStageWrite (q i : Nat) (v : Word) (s : State) : Host.Outcome State Fault Refusal := onNode s fun s =>
  onUnit 4096 q (
    if 1 ≤ i ∧ i ≤ 3 then withResp { s with seqStaged := tblSet 0 s.seqStaged (4 * q + i) v } .done
    else withResp s .done)

/-- Whether a commit is refused (R177). -/
def seqRefused (w0 w2 : Nat) : Bool :=
  decide (bits w0 27 10 > bits w2 11 0 * 64) || decide (bits w2 11 0 > 2048) || bits w0 47 32 != 0 || bit w0 28 ||
  bits w0 9 2 != 0 || bits w2 63 12 != 0 || decide (bits w0 1 0 ≥ 2)

/-- A store to word 0 commits all four words, GEN incremented, or is refused with REJECT (R176, R177). -/
def execSeqEntryCommit (q : Nat) (v : Word) (s : State) : Host.Outcome State Fault Refusal := onNode s fun s =>
  onUnit 4096 q (
    let st := fun i => tblGet 0 s.seqStaged (4 * q + i)
    if seqRefused v.toNat (st 2).toNat then withResp (fOr s (bLoc .seqStatus (q / 1024 % 4)) fSeqStatusReject 1) .done
    else
      let gen := (wbits (regGet s (seqLoc q 0)) 63 48 + 1) % 65536
      let s1 := regSet s (seqLoc q 0) (wput v 63 48 gen)
      withResp ([1, 2, 3].foldl (fun s i => regSet s (seqLoc q i) (st i)) s1) .done)

/-- A store to a layout or batch register writes all four copies (R178): the model holds the one value they share.
Reserved bits of a batch slot stay zero. -/
def execLayoutBatchWrite (addr : Nat) (v : Word) (s : State) : Host.Outcome State Fault Refusal := onNode s fun s =>
  .next (match findReg addr with
    | some l =>
      if l.id = .batch then withResp (regSet s l (v &&& 0x8FFF8FFF8FFF8FFF#64)) .done
      else if l.id = .layout ∨ l.id = .layoutRow then withResp (storeReg s l v) .done
      else s
    | none => s)

end Sys2Proof.Machine
end

