-- ==== Sys2Proof/Machine/Cluster.lean ====
section
/-! DEFINITION. The host-core cluster's units (R197 to R203): timers, interrupt files, the APLIC domains, direct
launches and dependency watches. -/

namespace Sys2Proof.Machine

/-! ## Timers -/

/-- A CSR of a host core as stored, zero until written. -/
def hcsr (h : HostCore) (n : Nat) : Nat := (tblGet 0 h.csr n).toNat

/-- The pending states of a core's timers (R197): mtime against MTIMECMP, and against stimecmp where menvcfg.STCE is
set (Sstc). -/
def updateTimers (s : Node) (c : Nat) : Node :=
  let m := decide (mtime s ≥ (regGet s (dLoc .mtimecmp (c / 8) [c % 8])).toNat)
  let h := coreOf s c
  let t := bit (hcsr h 0x30A) 63 && decide (mtime s ≥ hcsr h 0x14D)
  modCore s c fun x => { x with mtip := m, stip := t, waiting := x.waiting && !m && !t }

/-- Every core whose timers' pending states differ from their comparisons takes them up; a fenced die receives nothing. -/
def passTimers (s : Node) : Node :=
  (List.range 96).foldl (fun s c =>
    let t := updateTimers s c
    if isFenced s (c / 8) || ((coreOf t c).mtip == (coreOf s c).mtip && (coreOf t c).stip == (coreOf s c).stip) then s else t) s

/-- mtime reaches a core's compare value (R197); a core of a fenced die receives nothing. -/
def execTimerInterrupt (c : Nat) (s : State) : Host.Outcome State Fault Refusal := onNode s fun s =>
  onCore c (if isFenced s (c / 8) then s else updateTimers s c)

/-! ## Interrupt files -/

/-- A store to a seteipnum register (R198). -/
def execImsicSeteipnumWrite (c : Nat) (mlevel : Bool) (v : Word) (s : State) : Host.Outcome State Fault Refusal := onNode s fun s =>
  onCore c (withResp (sendMsi s c mlevel (wbits v 31 0)) .done)

/-! ## APLIC -/

/-- The source mode that an APLIC source accepts beside Inactive and Detached (R200): 4 Edge1, 6 Level1; none for a
reserved source. -/
def sourceMode (i : Nat) : Option Nat :=
  if i = 52 then some 6
  else if (1 ≤ i ∧ i ≤ 57) ∨ (64 ≤ i ∧ i ≤ 127) then some 4
  else none

/-- The stored mode of a written one (R200). -/
def acceptMode (i m : Nat) : Nat := if m = 1 ∨ sourceMode i = some m then m else 0

/-- Whether the M domain delegates a source to the S domain (R199). -/
def delegated (s : Node) (b i : Nat) : Bool := bit (aiaGet s true b (4 * i)) 10

/-- Whether a source is active in a domain: implemented there and not Inactive. -/
def sourceActive (s : Node) (md : Bool) (b i : Nat) : Bool :=
  decide (1 ≤ i ∧ i ≤ 255) && (md == !delegated s b i) && bits (aiaGet s md b (4 * i)) 2 0 != 0

/-- The level of a Level1 source's input: source 52 is high while the fault queue holds an entry (R200, R269). -/
def levelInput (s : Node) (b i : Nat) : Bool :=
  i == 52 && fGet s (bLoc .fqHead b) fFqHeadIndex != fGet s (bLoc .fqTail b) fFqTailIndex

/-- Writes a 32-bit AIA register. -/
def aiaSet (s : Node) (md : Bool) (b a v : Nat) : Node := regSet s (aiaReg md b a) (BitVec.ofNat 64 (v % 2 ^ 32))

/-- Delivers every pending and enabled source of a domain (R199). -/
def aplicDeliverAll (s : Node) (md : Bool) (b : Nat) : Node :=
  (ones 256 ((aplicOf s md b).ip &&& (aplicOf s md b).ie)).foldl (fun s i => aplicDeliver s md b i) s

/-- Sets or clears pending bits: only active sources take them, and a Level1 source is set only while its input is
high. -/
def aplicSetIp (s : Node) (md : Bool) (b : Nat) (l : List Nat) : Node :=
  let can := l.filter fun i => sourceActive s md b i && (bits (aiaGet s md b (4 * i)) 2 0 != 6 || levelInput s b i)
  modAplic s md b fun x => { x with ip := x.ip ||| maskOf can }

def aplicClrIp (s : Node) (md : Bool) (b : Nat) (l : List Nat) : Node :=
  modAplic s md b fun x => { x with ip := x.ip - (x.ip &&& maskOf l) }

/-- Sets or clears enable bits. -/
def aplicSetIe (s : Node) (md : Bool) (b : Nat) (l : List Nat) : Node :=
  modAplic s md b fun x => { x with ie := x.ie ||| maskOf (l.filter fun i => sourceActive s md b i) }

def aplicClrIe (s : Node) (md : Bool) (b : Nat) (l : List Nat) : Node :=
  modAplic s md b fun x => { x with ie := x.ie - (x.ie &&& maskOf l) }

/-- A source that is not active in a domain has no pending or enable bit and no target there. -/
def aplicQuiet (s : Node) (md : Bool) (b i : Nat) : Node :=
  aiaSet (aplicClrIe (aplicClrIp s md b [i]) md b [i]) md b (0x3000 + 4 * i) 0

/-- A write of sourcecfg[i] (R199, R200). -/
def aplicSourcecfg (s : Node) (md : Bool) (b i v : Nat) : Node :=
  if md && bit v 10 then
    aplicQuiet (aiaSet s true b (4 * i) (2 ^ 10)) true b i
  else if !md && !delegated s b i then s
  else
    let s0 := if md then aplicQuiet (aiaSet s false b (4 * i) 0) false b i else s
    let m := acceptMode i (bits v 2 0)
    let s1 := aiaSet s0 md b (4 * i) m
    if m = 0 then aplicQuiet s1 md b i
    else if m = 6 then (if levelInput s1 b i then aplicSetIp s1 md b [i] else aplicClrIp s1 md b [i])
    else s1

/-- A write of target[i] (R199): a hart index above 95 stores 0, and the guest index is 0. -/
def aplicTarget (s : Node) (md : Bool) (b i v : Nat) : Node :=
  if sourceActive s md b i then
    let hart := if bits v 31 18 > 95 then 0 else bits v 31 18
    aiaSet s md b (0x3000 + 4 * i) (hart <<< 18 + bits v 10 0)
  else s

/-- A store to the AIA register at offset `a` of a domain. -/
def aplicWrite (s : Node) (md : Bool) (b a v : Nat) : Node :=
  let word := fun (base : Nat) => (ones 32 v).map fun i => 32 * ((a - base) / 4) + i
  let s1 :=
    if a % 4 ≠ 0 then s
    else if a = 0 then aiaSet s md b 0 (v &&& 2 ^ 8)
    else if a < 4 * 256 then aplicSourcecfg s md b (a / 4) v
    else if 0x1C00 ≤ a ∧ a < 0x1C20 then aplicSetIp s md b (word 0x1C00)
    else if a = 0x1CDC ∨ a = 0x2000 then aplicSetIp s md b [v]
    else if 0x1D00 ≤ a ∧ a < 0x1D20 then aplicClrIp s md b (word 0x1D00)
    else if a = 0x1DDC then aplicClrIp s md b (if v < 256 then [v] else [])
    else if 0x1E00 ≤ a ∧ a < 0x1E20 then aplicSetIe s md b (word 0x1E00)
    else if a = 0x1EDC then aplicSetIe s md b [v]
    else if 0x1F00 ≤ a ∧ a < 0x1F20 then aplicClrIe s md b (word 0x1F00)
    else if a = 0x1FDC then aplicClrIe s md b (if v < 256 then [v] else [])
    else if a = 0x3000 then
      let hart := if bits v 31 18 > 95 then 0 else bits v 31 18
      sendMsi (aiaSet s md b 0x3000 (hart <<< 18 + bits v 10 0)) hart md (bits v 10 0)
    else if 0x3004 ≤ a ∧ a < 0x3400 then aplicTarget s md b ((a - 0x3000) / 4) v
    else s
  aplicDeliverAll s1 md b

/-- A read of the AIA register at offset `a` of a domain: domaincfg reads DM as 1 (R199), and genmsi its Hart Index and EIID. -/
def aplicRead (s : Node) (md : Bool) (b a : Nat) : Nat :=
  let d := aplicOf s md b
  let word := fun (m base : Nat) => bits m (32 * ((a - base) / 4) + 31) (32 * ((a - base) / 4))
  if a = 0 then 0x80000004 ||| aiaGet s md b 0
  else if a < 4 * 256 then aiaGet s md b a
  else if 0x1C00 ≤ a ∧ a < 0x1C20 then word d.ip 0x1C00
  else if 0x1D00 ≤ a ∧ a < 0x1D20 then
    word (maskOf ((List.range 256).filter fun i => sourceActive s md b i && levelInput s b i)) 0x1D00
  else if 0x1E00 ≤ a ∧ a < 0x1E20 then word d.ie 0x1E00
  else if 0x3000 ≤ a ∧ a < 0x3400 then aiaGet s md b a
  else 0

/-- A store to an APLIC register: `offset` is the AIA offset, which lies at twice that offset of the domain (R199). -/
def execAplicRegisterWrite (b : Nat) (md : Bool) (a : Nat) (v : Word) (s : State) : Host.Outcome State Fault Refusal := onNode s fun s =>
  onBase b (withResp (aplicWrite s md b a (wbits v 31 0)) .done)

/-- A unit's event at a source (R200); source 52 follows the fault queue. -/
def execAplicSourceEvent (b i : Nat) (s : State) : Host.Outcome State Fault Refusal := onNode s fun s =>
  onBase b (if i = 0 ∨ i > 255 ∨ (i = 52 ∧ !levelInput s b 52) then s else signal s b i)

/-! ## Direct launches (R201, R202) -/

/-- A store to GLAUNCH: kept as the one direct launch, or discarded with DROP. -/
def execGlaunchWrite (g : Nat) (v : Word) (s : State) : Host.Outcome State Fault Refusal := onNode s fun s =>
  onGable g (withResp (
    if isFenced s (g / 16) then s
    else if (gableOf s g).launch.isSome then fSet s (gLoc .glaunchStatus g) fGlaunchStatusDrop 1
    else modGable s g fun y => { y with launch := some ⟨v.toNat - v.toNat % 64, none, 0⟩ }) .done)

/-- Whether a launch block is invalid (R201): a reserved bit is set, GANG is 3, or GANG is 2 on an odd Gable. -/
def directInvalid (ws : List Nat) (g : Nat) : Bool := tdReserved ws || (tdGang ws == 2 && g % 2 == 1)

/-- A direct launch is dropped: INVALID is set. -/
def dropLaunch (s : Node) (g : Nat) : Node :=
  fSet (modGable s g fun y => { y with launch := none }) (gLoc .glaunchStatus g) fGlaunchStatusInvalid 1

/-- The fetched block is checked and held (R201). -/
def takeBlock (s : Node) (g : Nat) (ws : List Nat) : Node :=
  if directInvalid ws g then dropLaunch (logGable s g 0x0350 0 []) g
  else modGable s g fun y => { y with launch := y.launch.map fun l => { l with block := some ws } }

/-- Poisoned bytes of a launch block (R241, R547). -/
def poisonLaunch (s : Node) (g line : Nat) : Node :=
  dropLaunch (logGable s g ePoison (line * lineBytes) [(1, 6), (1, 0), (1, 0)]) g

/-- What a launch block's remote read has brought: the translation that it was made under stays in force (R265). -/
def launchAnswer (s : Node) (g : Nat) (r : RemoteReq) : Node :=
  match r.result with
  | none => s
  | some (0, bs) => takeBlock (takeRemote s r.id) g ((List.range 16).map fun i => leValue ((bs.drop (4 * i)).take 4))
  | some (c, _) =>
    if c = ePoison then poisonLaunch (takeRemote s r.id) g (lineOf (remotePa r))
    else dropLaunch (logRemote (takeRemote s r.id) (g / 16) (g % 16 + 1) c (remotePa r) []) g

/-- Reads a launch block at its physical address, through a cacheable page or not; one in the remote window is asked for
under its translation list. -/
def readLaunch (s : Node) (g va pa : Nat) (cached : Bool) (maps : List PageMap) : Node :=
  match paKind s pa with
  | .hbm =>
    if readsPoison s (if cached then g / 16 else 12) (lineOf pa) then poisonLaunch s g (lineOf pa)
    else if cached then
      takeBlock (touchRead s (g / 16) (lineOf pa) .gable) g ((List.range 16).map fun i => leValue (dieBytes s (g / 16) (pa + 4 * i) 4))
    else
      let s1 := homeRead s (baseOfGable g) clsGable (lineOf pa)
      takeBlock s1 g ((List.range 16).map fun i => readLE s1 (pa + 4 * i) 4)
  | .scratch h off =>
    if isFenced s (h / 16) then dropLaunch (logGable s g eRefused pa []) g
    else takeBlock s g ((List.range 16).map fun i => scratchLE s h (off + 4 * i) 4)
  | .remote _ _ =>
    if !windowValid s pa then dropLaunch (logRemote s (g / 16) (g % 16 + 1) 0x0608 pa []) g
    else (startRemoteBy maps (countFar s (g / 16) maps [(va, pa)]) (.launch g) 0 pa 64 [] 0 0 0).1
  | .unmapped => dropLaunch (logGable s g eUnmapped pa []) g
  | _ => dropLaunch (logGable s g eRefused pa []) g

/-- A launch block's fetch ends (R201): translated without the Gable's own cache, then read. -/
def execGlaunchFetchDone (g : Nat) (s : State) : Host.Outcome State Fault Refusal := onServed s fun s =>
  onGable g (
    match (gableOf s g).launch, s.remotes.find? (fun r => r.who == .launch g) with
    | none, _ => s
    | some l, asked =>
      if l.block.isSome || l.fseq != 0 || isFenced s (g / 16) then s
      else match asked with
      | some r => launchAnswer s g r
      | none => match translateAll s (g / 16) none accRead [l.addr] with
        | (s1, .fault va wf) =>
          let (s2, q) := queueFault s1 (.launch g) accRead (((g / 16) <<< 4) + 6) 0 0 va va (va + 63) wf
          modGable s2 g fun y => { y with launch := some { l with fseq := q } }
        | (s1, .tooMany) => s1
        | (s1, .ok pas maps) => readLaunch s1 g l.addr ((pas.map (·.1)).headD 0) ((pas.map (·.2)).headD true) maps)

/-! ## Dependency watches (R203) -/

/-- A watch. -/
def watchLoc (d w : Nat) : RegLoc := dLoc .depWatch d [w]

/-- Whether an armed watch's condition holds: its counter less THR is zero or greater as a signed 32-bit number. -/
def watchDue (s : Node) (d w : Nat) : Bool :=
  fGet s (watchLoc d w) fDepWatchEn == 1 &&
    reached (depCounter s (fGet s (watchLoc d w) fDepWatchCnt)) (fGet s (watchLoc d w) fDepWatchThr)

/-- A watch fires: its MSI is sent and EN cleared. -/
def fireWatch (s : Node) (d w : Nat) : Node :=
  let l := watchLoc d w
  let s1 := sendMsi s (fGet s l fDepWatchCore) (fGet s l fDepWatchMfile == 1) (fGet s l fDepWatchEiid)
  fSet s1 l fDepWatchEn 0

def execDepWatchWrite (d w : Nat) (v : Word) (s : State) : Host.Outcome State Fault Refusal := onNode s fun s =>
  onDie d (withResp (
    if isFenced s d ∨ w ≥ 16 then s
    else
      let s1 := storeReg s (watchLoc d w) v
      let s2 := if wbits v 46 40 > 95 then fSet s1 (watchLoc d w) fDepWatchCore 0 else s1
      if watchDue s2 d w then fireWatch s2 d w else s2) .done)

def execDepWatchFire (d w : Nat) (s : State) : Host.Outcome State Fault Refusal := onNode s fun s =>
  onDie d (if w < 16 ∧ isFenced s d = false ∧ watchDue s d w = true then fireWatch s d w else s)

end Sys2Proof.Machine
end

