-- ==== Sys2Proof/Machine/Remotes.lean ====
section
/-! DEFINITION. The end of remote accesses and command entries (R332, R337, R338, R346), over the flows that carry them
(R330). -/

namespace Sys2Proof.Machine

/-! ## Identity, engines and flows (R323, R330) -/

/-- The node's endpoint, and whether the Dziger engine of base die `b` is ON (R323, R345). -/
def selfEp (s : Node) : Nat := fGet s (bLoc .dzSelf 0) fDzSelfEp
def dzOn (s : Node) (b : Nat) : Bool := isOn s (bLoc .dzCtrl b)

/-- Rewrites the flows. -/
def modFab (s : Node) (f : Fabric → Fabric) : Node := { s with fabric := f s.fabric }

/-- Counter `j` of a Dziger block (R347). -/
def dzCount (s : Node) (b j : Nat) : Node := cntAdd s (bLoc .dzCounters b [j]) 1
def cStaleJob : Nat := 0
def cDupDrops : Nat := 1
def cRetransmits : Nat := 2
def cNoRoute : Nat := 3
def cHopDrops : Nat := 4
def cFlowFull : Nat := 5
def cNaksSent : Nat := 6

/-- The node's job and epoch in force (R323). -/
def selfJob (s : Node) : Nat := fGet s (bLoc .dzSelf 0) fDzSelfJob
def selfEpoch (s : Node) : Nat := fGet s (bLoc .dzSelf 0) fDzSelfEpoch

/-- Engine of base die `b`. -/
def dzOf (s : Node) (b : Nat) : Dz := tblGet Dz.reset s.dzs b
def modDz (s : Node) (b : Nat) (f : Dz → Dz) : Node := { s with dzs := tblMod Dz.reset s.dzs b f }

/-- The base die whose engine owns a flow, and the flow's key (R330). -/
def flowBase (peer tc : Nat) : Nat := (peer % 4 + tc) % 4
def flowKey (peer tc : Nat) : Nat := peer * 8 + tc
def sflowOf (s : Node) (peer tc : Nat) : Option SFlow := tblGet none s.fabric.sflows (flowKey peer tc)
def rflowOf (s : Node) (peer tc : Nat) : Option RFlow := tblGet none s.fabric.rflows (flowKey peer tc)
def setSflow (s : Node) (peer tc : Nat) (x : Option SFlow) : Node :=
  modFab s fun f => { f with sflows := tblSet none f.sflows (flowKey peer tc) x }
def setRflow (s : Node) (peer tc : Nat) (x : Option RFlow) : Node :=
  modFab s fun f => { f with rflows := tblSet none f.rflows (flowKey peer tc) x }

/-! ## The end of remote accesses (R337) -/

/-- STATUS of a command's completion record for an error code (R338). -/
def cmdStatus (code : Nat) : Nat :=
  match code with
  | 0 => 0
  | 0x0601 => 1
  | 0x0602 => 2
  | 0x0603 => 3
  | 0x0105 => 4
  | _ => 6

/-- A command entry of any engine, by its number: its base die. -/
def cmdBase (s : Node) (id : Nat) : Option Nat := firstBelow 4 fun b => (dzOf s b).cmds.any fun c => c.id == id

/-- Ends a command entry that has not ended. -/
def endCmd (s : Node) (id status : Nat) : Node :=
  match cmdBase s id with
  | none => s
  | some b => modDz s b fun x => { x with cmds := x.cmds.map fun c => if c.id = id ∧ c.status = none then { c with status := some status } else c }

/-- The record of a command entry that was refused or found no route (R346): the fields of R337. The window index of an
entry that names its endpoint itself is 0. DESIGN CHOICE (log entry 196). -/
def logCmd (s : Node) (b : Nat) (c : DzCmd) (code : Nat) : Node :=
  logErr s (12 + b) 0x41 code (c.addr % 2 ^ 40) [(2, c.win), (4, c.ep)]

/-- A command entry fails with a code: it ends, what of it is not yet sent is not sent, and one that was refused or found
no route leaves a record. -/
def failCmd (s : Node) (id code : Nat) : Node :=
  match cmdBase s id with
  | none => s
  | some b => match (dzOf s b).cmds.find? fun c => c.id == id && c.status.isNone with
    | none => s
    | some c =>
      let s1 := modFab (endCmd s id (cmdStatus code)) fun f => { f with waiting := f.waiting.filter fun o => o.who != .op id }
      if code = 0x0601 ∨ code = 0x0608 then logCmd s1 b c code else s1

/-- The operation tag of a remote access or of a PUT or GET entry, which RESP echoes, and the TAG of a MSG: its queue in
[7:0], its entry in [14:8]. DESIGN CHOICE (log entry 197): bit 15 tells them apart. -/
def opTag (id : Nat) : Nat := 0x8000 + id % 0x8000
def msgTag (id queue : Nat) : Nat := id % 128 * 256 + queue % 256

/-- Whether a request is a store that has been acknowledged: it stays until its tag is used again, since a refusal may still
come (R336, R337). -/
def ackedStore (r : RemoteReq) : Bool := r.kind == 1 && r.result.isSome && (match r.who with
  | .groupStore _ _ _ => true
  | .elemStore _ _ _ _ => true
  | .core _ => true
  | _ => false)

/-- A store is acknowledged. -/
def settleStore (s : Node) (r : RemoteReq) : Node :=
  { s with remotes := (s.remotes.filter fun x => !(ackedStore x && decide (x.id + 0x8000 ≤ s.remoteId))).map fun x =>
      if x.id = r.id then { x with result := some (0, []) } else x }

/-- A remote access ends with a code (0 for success) and its data: a store that fails is taken away with a record, but
that a change of epoch has one record for each engine (R346); every other requester takes the result itself. -/
def endRemote (s : Node) (r : RemoteReq) (code : Nat) (data : List Byte) : Node :=
  let gone := fun (scope block : Nat) (more : List (Nat × Nat)) =>
    let t := takeRemote s r.id
    if code = 0x0603 then t else logRemote t scope block code (remotePa r) more
  match r.who with
  | .groupStore g k order =>
    if code = 0 then settleGroup (settleStore s r) g k
    else
      let s2 := gone (g / 16) (g % 16 + 1) [(1, k)]
      let bad := fun (x : Group) => { x with badStore := if x.badStore = 0 then code else x.badStore }
      settleGroup (if (groupOf s2 g k).order = order then modGroup s2 g k bad else s2) g k
  | .elemStore g tag part _ =>
    if code = 0 then settleStore s r else gone (g / 16) (g % 16 + 1) [(4, tag), (1, part)]
  | .core c =>
    if r.kind = 1 then
      if code = 0 then settleStore s r else gone (c / 8) 0x30 []
    else { s with remotes := s.remotes.map fun x => if x.id = r.id then { x with result := some (code, data) } else x }
  | _ => { s with remotes := s.remotes.map fun x => if x.id = r.id then { x with result := some (code, data) } else x }

/-- The access that a number names and that has not ended. -/
def liveRemote (s : Node) (id : Nat) : Option RemoteReq := s.remotes.find? fun r => r.id == id && r.result.isNone

/-- Fails the operation a packet was sent for. -/
def failOp (s : Node) (id code : Nat) : Node :=
  match liveRemote s id with
  | some r => endRemote s r code []
  | none => failCmd s id code

/-- A bucket moves to FAILED (R362) and sends nothing further: its record carries the tag, GEN and the endpoint. -/
def failBucket (s : Node) (tag ep : Nat) : Node :=
  let b := tag / 1024
  let x := tblGet Bucket.free (tblGet Shg.reset s.shgs b).buckets tag
  if x.st = 0 ∨ x.st = 5 then s
  else
    let s1 := { s with shgs := tblMod Shg.reset s.shgs b fun y =>
      { y with buckets := tblMod Bucket.free y.buckets tag fun z => { z with st := 5 } } }
    let s2 := modFab s1 fun f => { f with waiting := f.waiting.filter fun o => o.who != .shingle tag x.gen }
    logErr s2 (12 + b) 0x42 0x0706 0 [(2, tag), (1, x.gen), (4, ep)]

/-- A packet could not be delivered: what it was sent for fails. -/
def failWho (s : Node) (who : DzWho) (peer code : Nat) : Node :=
  match who with
  | .op id => failOp s id code
  | .shingle tag gen =>
    let x := tblGet Bucket.free (tblGet Shg.reset s.shgs (tag / 1024)).buckets tag
    if x.gen = gen then failBucket s tag peer else s
  | .ckpt =>
    let s1 := modFab s fun f => { f with waiting := f.waiting.filter fun o => o.who != .ckpt }
    let c := { s1.ctl.ckpt with failed := true }
    { s1 with ctl := { s1.ctl with ckpt := c } }
  | _ => s

end Sys2Proof.Machine
end

