-- ==== Sys2Proof/Machine/Ports.lean ====
section
/-! DEFINITION. The Ethernet ports (R299 to R310): enabling, training, lanes, frames accepted, PFC. -/

namespace Sys2Proof.Machine

/-- Whether a port is a front-end port. -/
def isFe (p : Nat) : Bool := p % 5 == 4

/-- Registers of a port. -/
def portLoc (r : RegId) (p : Nat) : RegLoc := bLoc r (p / 5) [p % 5]
def portCtrlLoc (p : Nat) : RegLoc := if isFe p then bLoc .portCtrlFe (p / 5) else bLoc .portCtrl (p / 5) [p % 5]

/-- A port's state. -/
def portOf (s : Node) (p : Nat) : Port := tblGet Port.reset s.ports p
def modPort (s : Node) (p : Nat) (f : Port → Port) : Node := { s with ports := tblMod Port.reset s.ports p f }

/-- Runs `t` for a port the node has. -/
def onPort (p : Nat) (t : Node) : Host.Outcome Node Fault Refusal := if p < 20 then .next t else .fault .noSuchUnit

/-- Counter `j` of a port (R322). -/
def portCount (s : Node) (p j n : Nat) : Node := cntAdd s (bLoc .portCounters (p / 5) [p % 5, j]) n

def cFecCorrected : Nat := 0
def cFecUncorrected : Nat := 1
def cRxFrames : Nat := 2
def cTxFrames : Nat := 3
def cRxDropped : Nat := 4
def cFcsErrors : Nat := 5
def cPfcRx : Nat := 6
def cPfcTx : Nat := 7
def cCeRx : Nat := 8
def cCnpTx : Nat := 9
def cCnpRx : Nat := 10
def cLinkDowns : Nat := 11

/-- LINK of a port. -/
def portLink (s : Node) (p : Nat) : Bool := fGet s (portLoc .portStatus p) fPortStatusLink == 1

/-- The 802.1Q tag of a frame that the node sends: VID 0, the frame's priority in the PCP (R302). -/
def outTag (o : Out) : Nat := o.prio % 8 * 2 ^ 13

/-- The priority of a received frame: the PCP of its tag, whatever the VID; 0 for an untagged frame (R302). -/
def framePrio (f : EthFrame) : Nat := f.tag.elim 0 fun t => bits t 15 13

/-- The lanes of a port's mode in use, counted. -/
def laneCount (m : Nat) : Nat := popCount 8 m

/-- A port's MAC rate in Mb/s (R300). -/
def portMbps (s : Node) (p : Nat) : Nat :=
  match (portOf s p).mode with
  | 0 => 210825 * laneCount (portOf s p).lanes
  | 1 => 1600000
  | 2 => 800000
  | 3 => 400000
  | _ => 200000

/-- The priorities whose pause still runs: a quantum is 512 bit times (R309, IEEE 802.1Qbb). -/
def pausedNow (s : Node) (p : Nat) : Nat :=
  let x := portOf s p
  maskOf ((ones 8 x.paused).filter fun q => decide (s.now < tblGet 0 x.pausedTo q))

/-- Sends a frame: a Dziger frame joins its port's transmit queue (R327); another goes at once, or is held while its
priority is paused (R309). A port that is not ON, or has no link, takes none (R303). DESIGN CHOICE (log entry 185) for a
port without a link. -/
def sendFrame (s : Node) (o : Out) : Node :=
  if !isOn s (portCtrlLoc o.port) || !portLink s o.port then s
  else if o.kind = .dziger ∨ bit (pausedNow s o.port) o.prio = true then modPort s o.port fun x => { x with held := x.held ++ [o] }
  else portCount { s with out := s.out ++ [o] } o.port cTxFrames 1

/-- Something other than a port's frame leaves the node. -/
def sendOut (s : Node) (o : Out) : Node := { s with out := s.out ++ [o] }

/-! ## The spray set (R326, R327) -/

/-- The port number of fabric port FPp, and back (R299). -/
def portOfFp (p : Nat) : Nat := p / 4 * 5 + p % 4
def fpOfPort (p : Nat) : Nat := p / 5 * 4 + p % 5

/-- DZ_PORT of fabric port FPp. -/
def dzPort (p : Nat) : RegLoc := bLoc .dzPort (p / 4) [p % 4]

/-- Whether fabric port FPp is in the spray set (R326, R522): a port whose link fell comes back at the first KEEPALIVE that
passes (R341). -/
def inSpray (s : Node) (p : Nat) : Bool :=
  let n := portOfFp p
  isOn s (portCtrlLoc n) && portLink s n && fGet s (dzPort p) fDzPortLost == 0 && fGet s (dzPort p) fDzPortMismatch == 0 && dzOn s (p / 4) &&
  (portOf s n).depth == 0 && !(portOf s n).needKa

/-- The port mask in force for a destination. -/
def routeMask (s : Node) (dst : Nat) : Nat :=
  if dst / 64 = selfEp s / 64 then fGet s (bLoc .dzMemberRt 0 [dst % 64]) fDzMemberRtMask
  else fGet s (bLoc .dzGroupRt 0 [dst / 64 % 4096]) fDzGroupRtMask

/-- Bytes in a port's transmit queue of a class. -/
def txBytes (s : Node) (p tc : Nat) : Nat := tblGet 0 s.fabric.txq (p * 8 + tc)

/-- The port of the mask whose queue of the class holds the fewest bytes; on a tie the lowest-numbered one after the
port chosen last (R327). -/
def choosePort (s : Node) (mask tc : Nat) : Option Nat :=
  let l := ((List.range 16).map fun i => (s.fabric.last + 1 + i) % 16).filter fun p => bit mask p && inSpray s p
  match l with
  | [] => none
  | a :: t => some (t.foldl (fun m p => if txBytes s p tc < txBytes s m tc then p else m) a)

/-- The wire bytes of a Dziger frame: its payload and 74 bytes besides (R325). -/
def frameBytes (o : Out) : Nat := o.data.length + 74

/-- The threshold above which a queue of a base die's port marks CE (R329). -/
def ecnThr (s : Node) (b : Nat) : Nat := max 1 (fGet s (bLoc .dzCtrl b) fDzCtrlEcnThr) * 16384

/-- A Dziger frame joins the transmit queue of fabric port FPp; its CE field is set where the queue is above the
threshold (R329). -/
def queueFrame (s : Node) (p : Nat) (o : Out) : Node :=
  let ce := decide (txBytes s p o.prio > ecnThr s (p / 4))
  let s1 := modFab s fun f => { f with txq := tblMod 0 f.txq (p * 8 + o.prio) fun n => n + frameBytes o }
  sendFrame s1 { o with port := portOfFp p, fields := if ce then o.fields.set 3 1 else o.fields }

/-- A packet for which no port is left: counted in NO_ROUTE; one that this node originates fails what it was sent for
(R326), while its number stays in its flow. -/
def noRoute (s : Node) (b dst tc seq : Nat) (own : Bool) : Node :=
  let s1 := dzCount s b cNoRoute
  match (if own then (sflowOf s dst tc).bind fun f => f.unacked.find? fun x => x.pkt.seq == seq else none) with
  | some x => failWho s1 x.who dst 0x0608
  | none => s1

/-- What a fabric port's link fall does to Dziger (R341): the port leaves the spray set until a KEEPALIVE passes, its
intervals start again, and the packets queued on it are sprayed again over the other ports. -/
def resprayHeld (s : Node) (p : Nat) : Node :=
  let go := (portOf s p).held.filter fun o => o.kind == .dziger && o.fields.getD 0 0 != 0xC
  let s1 := modPort s p fun x => { x with needKa := true, held := x.held.filter fun o => o.kind != .dziger }
  let s2 := modFab s1 fun f => { f with
    heard := tblSet false f.heard p false
    missed := tblSet 0 f.missed p 0
    txq := (List.range 8).foldl (fun t k => tblSet 0 t (fpOfPort p * 8 + k) 0) f.txq }
  go.foldl (fun s o =>
    let dst := o.fields.getD 5 0
    match choosePort s (routeMask s dst) o.prio with
    | none => noRoute s (p / 5) dst o.prio (o.fields.getD 9 0) (o.fields.getD 6 0 == selfEp s)
    | some q => queueFrame (modFab s fun f => { f with last := q }) q o) s2

/-! ## Link -/

/-- Whether a mode is listed for a port (R300, R301). -/
def modeListed (p mode : Nat) : Bool := if isFe p then mode == 3 || mode == 4 else mode ≤ 2

/-- The lanes a mode uses. -/
def modeLanes (mode : Nat) : Nat := if mode ≤ 1 then 0xFF else if mode = 2 then 0xF else 3

/-- The lanes a native port keeps when some of those in use are closed (R306). -/
def narrowSet (use closed : Nat) : Option Nat :=
  let open_ := fun m => m &&& closed == 0
  if open_ use then some use
  else if popCount 8 use = 8 then (if open_ 0x0F then some 0x0F else if open_ 0xF0 then some 0xF0 else none)
  else if use = 0x0F then (if open_ 0x03 then some 0x03 else if open_ 0x0C then some 0x0C else none)
  else if use = 0xF0 then (if open_ 0x30 then some 0x30 else if open_ 0xC0 then some 0xC0 else none)
  else none

/-- The lanes a native port trains on, narrowing as often as needed. -/
def trainSet (closed : Nat) : Option Nat :=
  match narrowSet 0xFF closed with
  | some m => some m
  | none => (narrowSet 0x0F closed).orElse fun _ => narrowSet 0xF0 closed

/-- CLOSED of a port. -/
def portClosed (s : Node) (p : Nat) : Nat := fGet s (portLoc .portStatus p) fPortStatusClosed

/-- The lanes closed at either end of a port (R306). -/
def deadLanes (s : Node) (p : Nat) : Nat := portClosed s p ||| (portOf s p).farClosed

/-- Drops the frames that PFC holds back, counted as dropped (R303). -/
def dropHeld (s : Node) (p : Nat) : Node :=
  portCount (modPort s p fun x => { x with held := [] }) p cRxDropped (portOf s p).held.length

/-- LINK falls, for a cause (R304, R321, R341): a record, the count and source 56; without a link only the cause is set.
The partner's pauses and closed lanes end with the link, and so does a narrowing: an EN = 0 that waited for its end takes
effect (R306). -/
def linkFalls (s : Node) (p cause : Nat) : Node :=
  let l := portLoc .portStatus p
  let s1 := fSet s l fPortStatusDownCause cause
  if portLink s p then
    let s2 := fSet (fSet s1 l fPortStatusLink 0) l fPortStatusLanes 0
    let s3 := portCount (logErr s2 (12 + p / 5) 0x40 0x0520 0 [(1, cause)]) p cLinkDowns 1
    let s4 := modPort s3 p fun x => { x with
      narrowTo := none, restarted := false, farClosed := 0, paused := 0, pausedAt := [], pausedTo := [], stormed := 0 }
    let s5 := signal (if isFe p then s4 else resprayHeld s4 p) (p / 5) 56
    if (portOf s5 p).deferOff then
      dropHeld (enableWrite (modPort s5 p fun x => { x with deferOff := false }) (portCtrlLoc p) false) p
    else s5
  else s1

/-- A port reaches OFF: its transmitters idle and its closed lanes are trained again (R303, R305). -/
def portOff (s : Node) (p : Nat) : Node :=
  let s1 := dropHeld s p
  let s2 := if portLink s p then linkFalls s1 p (fGet s (portLoc .portStatus p) fPortStatusDownCause) else s1
  modPort (fSet s2 (portLoc .portStatus p) fPortStatusClosed 0) p fun x =>
    { x with
      training := false, restarted := false, narrowTo := none, deferOff := false, lanes := 0, farClosed := 0, laneErrs := []
      paused := 0, pausedAt := [], pausedTo := [], stormed := 0, xoff := 0, needKa := false }

/-- MODE as it stands when ENABLING starts applies (R322). -/
def latchMode (s t : Node) (p : Nat) : Node :=
  if ctrlState t (portCtrlLoc p) = stEnabling ∧ ctrlState s (portCtrlLoc p) ≠ stEnabling then
    modPort t p fun x => { x with mode := wbits (regGet t (portCtrlLoc p)) 11 8 }
  else t

/-- A write of EN to a port (R303): during a narrowing, EN = 0 waits for its end (R306). -/
def portEnable (s : Node) (p : Nat) (en : Bool) : Node :=
  let l := portCtrlLoc p
  if !en && (portOf s p).narrowTo.isSome then
    modPort (regSet s l (wput (regGet s l) 0 0 0)) p fun x => { x with deferOff := true }
  else
    let st := ctrlState s l
    let s1 := latchMode s (enableWrite (modPort s p fun x => { x with deferOff := false }) l en) p
    if st = stOn ∧ !en then dropHeld s1 p
    else if st = stFaulted ∧ !en then portOff s1 p
    else s1

/-- A write of PORT_CTRL. -/
def portWrite (s : Node) (p : Nat) (v : Word) : Node :=
  let l := portCtrlLoc p
  let w := regGet s l
  let w1 := wput (wput (wput w 63 48 (wbits v 63 48)) 23 16 (wbits v 23 16)) 12 8 (wbits v 12 8)
  portEnable (regSet s l w1) p (wbit v 0)

def execPortEnableWrite (p : Nat) (v : Word) (s : State) : Host.Outcome State Fault Refusal := onNode s fun s =>
  onPort p (withResp (portWrite s p v) .done)

/-- LB_PORT's depth and PRBS as they act: 6 to 15 and 3 to 7 act as 0 (R521, R523, R529). -/
def lbDepth (s : Node) (p : Nat) : Nat := let d := fGet s (portLoc .lbPort p) fLbPortDepth; if d ≤ 5 then d else 0
def lbPrbs (s : Node) (p : Nat) : Nat := let v := fGet s (portLoc .lbPort p) fLbPortPrbs; if v ≤ 2 then v else 0

/-- Whether a port sends its test pattern: PRBS at depths 0 and 1 (R523). -/
def prbsRuns (s : Node) (p : Nat) : Bool := lbPrbs s p != 0 && decide ((portOf s p).depth ≤ 1)

/-- Every checker of a port starts again: no lane has locked (R523). -/
def restartCheckers (s : Node) (p : Nat) : Node :=
  (ones 8 (portOf s p).lanes).foldl (fun s k => regSet s (bLoc .prbsErr (p / 5) [p % 5, k]) (BitVec.ofNat 64 (2 ^ 63))) s

/-- A port's ENABLING or DISABLING ends (R301, R303). -/
def execPortStepDone (p : Nat) (s : State) : Host.Outcome State Fault Refusal := onNode s fun s =>
  onPort p (
    let l := portCtrlLoc p
    let st := ctrlState s l
    let mode := (portOf s p).mode
    if st = stEnabling then
      if !modeListed p mode then fSet (faultBlock s l) (portLoc .portStatus p) fPortStatusDownCause 7
      else
        let s1 := modPort (ownStepEnds s l) p fun x =>
          { x with depth := lbDepth s p, lanes := modeLanes mode, training := false, restarted := false }
        if prbsRuns s1 p then restartCheckers s1 p else s1
    else if st = stDisabling ∨ st = stPending then latchMode s (ownStepEnds (portOff s p) l) p
    else s)

/-- Signal on every used lane starts training (R304). -/
def execPortSignalDetect (p : Nat) (s : State) : Host.Outcome State Fault Refusal := onNode s fun s =>
  onPort p (if isOn s (portCtrlLoc p) && !portLink s p then modPort s p fun x => { x with training := true } else s)

/-- Sends what a port held back for priorities no longer paused; Dziger frames leave as their queues drain. -/
def flushHeld (s : Node) (p : Nat) : Node :=
  let x := portOf s p
  let goes := fun (o : Out) => o.kind != .dziger && !bit x.paused o.prio
  let go := x.held.filter goes
  portCount { modPort s p (fun y => { y with held := y.held.filter fun o => !goes o }) with out := s.out ++ go } p cTxFrames go.length

/-- Training completes (R304). -/
def execPortLinkUp (p ms : Nat) (s : State) : Host.Outcome State Fault Refusal := onNode s fun s =>
  onPort p (
    let x := portOf s p
    let set := if x.mode = 0 then trainSet (deadLanes s p) else
      if modeLanes x.mode &&& portClosed s p = 0 then some (modeLanes x.mode) else none
    match set with
    | none => s
    | some m =>
      if !(x.training && isOn s (portCtrlLoc p) && !portLink s p) || prbsRuns s p then s
      else
        let l := portLoc .portStatus p
        let s1 := modPort s p fun x => { x with training := false, restarted := false, lanes := m }
        let s2 := fSet (fSet (fSet s1 l fPortStatusLink 1) l fPortStatusLanes (laneCount m)) l fPortStatusTrainMs (min ms 65535)
        signal (flushHeld s2 p) (p / 5) 56)

/-- Training overruns its limit and restarts; the first restart sets DOWN_CAUSE (R304). -/
def execPortTrainTimeout (p : Nat) (s : State) : Host.Outcome State Fault Refusal := onNode s fun s =>
  onPort p (
    let x := portOf s p
    if x.training && !portLink s p then
      let s1 := modPort s p fun x => { x with restarted := true }
      if x.restarted then s1 else fSet s1 (portLoc .portStatus p) fPortStatusDownCause 2
    else s)

/-- Loss of signal, of alignment, an uncorrectable FEC or a remote fault drops LINK, and training starts again (R304):
after a loss of signal once signal is detected. -/
def execPortDown (p cause : Nat) (s : State) : Host.Outcome State Fault Refusal := onNode s fun s =>
  onPort p (
    if portLink s p ∧ [1, 4, 5].contains cause = true then
      modPort (linkFalls s p cause) p fun x => { x with training := decide (cause ≠ 1) }
    else s)

/-- A port goes on without a lane that has closed at one end (R306, R307): a native port narrows, or trains on what is
left; another goes down. -/
def loseLane (s : Node) (p lane : Nat) : Node :=
  let x := portOf s p
  let closed := deadLanes s p
  let use := (x.narrowTo).getD x.lanes
  if x.mode ≠ 0 then modPort (linkFalls s p 3) p fun x => { x with training := false }
  else if !portLink s p then
    if (trainSet closed).isNone then
      modPort (fSet s (portLoc .portStatus p) fPortStatusDownCause 3) p fun x => { x with training := false }
    else s
  else if !bit use lane then s
  else match narrowSet use closed with
    | some m => modPort s p fun x => { x with narrowTo := some m }
    | none => modPort (linkFalls s p 3) p fun x => { x with training := (trainSet closed).isSome }

/-- The Shutter closes a failed lane (R305). -/
def closeLane (s : Node) (p lane : Nat) : Node :=
  let s1 := logErr (fOr s (portLoc .portStatus p) fPortStatusClosed (1 <<< lane)) (12 + p / 5) 0x40 0x0521 0 []
  loseLane (signal s1 (p / 5) 56) p lane

/-- LANE_THR as it acts (R305). -/
def laneThr (s : Node) (p : Nat) : Nat := max 1 (fGet s (portLoc .portLane p) fPortLaneLaneThr)

/-- The symbol errors that a lane has met in the present millisecond of fabric time. -/
def laneErrors (s : Node) (p lane : Nat) : Nat :=
  let w := tblGet (0, 0) (portOf s p).laneErrs lane
  if w.1 = s.now / 1000000 then w.2 else 0

/-- A lane loses lock (no count), or meets symbol errors, which fail it when those of the millisecond reach LANE_THR
(R305); or the partner reports the lane closed at its end (R306). -/
def execLaneFail (p : Nat) (ev : LaneEvent) (s : State) : Host.Outcome State Fault Refusal :=
  onNode s fun s =>
  onPort p (
    let x := portOf s p
    if !isOn s (portCtrlLoc p) || !bit (modeLanes x.mode) ev.lane || bit (portClosed s p) ev.lane then s
    else if ev.far then
      if bit x.farClosed ev.lane then s
      else loseLane (modPort s p fun x => { x with farClosed := x.farClosed ||| 1 <<< ev.lane }) p ev.lane
    else match ev.errors with
      | none => closeLane s p ev.lane
      | some n =>
        let k := laneErrors s p ev.lane + n
        if k ≥ laneThr s p then closeLane s p ev.lane
        else modPort s p fun x => { x with laneErrs := tblSet (0, 0) x.laneErrs ev.lane (s.now / 1000000, k) })

/-- A narrowing completes (R306); a deferred EN = 0 then takes effect. -/
def execNarrowingCompleted (p : Nat) (s : State) : Host.Outcome State Fault Refusal := onNode s fun s =>
  onPort p (
    match (portOf s p).narrowTo with
    | none => s
    | some m =>
      let off := (portOf s p).deferOff
      let s1 := modPort s p fun x => { x with lanes := m, narrowTo := none, deferOff := false }
      let s2 := fSet s1 (portLoc .portStatus p) fPortStatusLanes (laneCount m)
      let s3 := signal (logErr s2 (12 + p / 5) 0x40 0x0522 0 []) (p / 5) 56
      if off then portEnable s3 p false else s3)

/-! ## Frames (R302, R308, R311) -/

/-- A front-end port's own address (PORT_IPV4, PORT_IPV6); 0 disables it. -/
def portAddr (s : Node) (p : Nat) (v6 : Bool) : Nat :=
  if v6 then fGet s (bLoc .portIpv6Hi (p / 5)) fPortIpv6HiAddr * 2 ^ 64 + fGet s (bLoc .portIpv6Lo (p / 5)) fPortIpv6LoAddr
  else fGet s (bLoc .portIpv4 (p / 5)) fPortIpv4Addr

/-- Whether a UDP packet is a RoCEv2 packet addressed to the port (R308): UDP port 4791 of its own address. -/
def toPort (s : Node) (p : Nat) (d : UdpDest) : Bool :=
  isFe p && d.port == 4791 && portAddr s p d.v6 != 0 && d.addr == portAddr s p d.v6

/-- The upper 30 bits of the addresses that Dziger frames bear (R324). -/
def dzAddr : Nat := 0x02445A000000

/-- The PTP messages that the node takes (R428): Sync, Pdelay_Req, Pdelay_Resp, Follow_Up, Pdelay_Resp_Follow_Up and
Announce, neither unicast nor authenticated; those of the end-to-end mechanism, Signaling and Management are not. -/
def ptpTaken (h : PtpHead) : Bool := [0, 2, 3, 8, 0xA, 0xB].contains h.type && !h.unicast && !h.auth

/-- Whether a port passes a frame on (R308, R324, R428). -/
def accepts (s : Node) (p : Nat) (f : EthFrame) : Bool :=
  match f.kind with
  | .dziger => !isFe p && f.da / 2 ^ 18 == dzAddr / 2 ^ 18
  | .ptp => ptpTaken f.ptp
  | .pfc => true
  | .roce => toPort s p f.dest
  | .corud => isFe p
  | .pause => false
  | .other => false

/-- What every packet of a QP carries besides its transport header (R311, R313): the QPN it goes to, ECT(0), and the
context's DSCP, hop limit, UDP source port, IP and MAC destination. -/
def qpHead (q : Qp) : List Nat := [q.destQpn, 2, q.dscp, q.hopLimit, q.sport, q.dip, q.dmac]

/-- A packet of a QP marked CE is answered with a CNP to the QP that sent it, at most one for each QP in 50 µs (R311); a
packet for a QP that is not in RTR or RTS is dropped (R313). -/
def sendCnp (s : Node) (p x : Nat) : Node :=
  let q := tblGet Qp.reset s.qps x
  let last := tblGet 0 s.cnpSent x
  if (q.st ≠ 2 ∧ q.st ≠ 3) ∨ (last ≠ 0 ∧ s.now + 1 < last + 50000) then s
  else
    let s1 := { s with cnpSent := tblSet 0 s.cnpSent x (s.now + 1) }
    portCount (sendFrame s1 ⟨p, q.prio, .cnp, qpHead q, []⟩) p cCnpTx 1

/-- A frame arrives: counted and passed on, or dropped and counted. A frame of a PFC priority is never dropped for want
of buffer (R309); a CE mark is answered with a CNP (R311). -/
def execEthFrameReceive (p : Nat) (f : EthFrame) (s : State) : Host.Outcome State Fault Refusal := onNode s fun s =>
  onPort p (
    if !portLink s p then s
    else
      let s0 := if f.fec = 1 then portCount s p cFecCorrected 1 else if f.fec = 2 then portCount s p cFecUncorrected 1 else s
      let s1 := if f.fec ≠ 2 ∧ !f.fcsOk then portCount s0 p cFcsErrors 1 else s0
      let noRoom := f.noRoom && !bit (wbits (regGet s (portCtrlLoc p)) 23 16) (framePrio f)
      if f.fec = 2 ∨ !f.fcsOk ∨ f.len > 9216 ∨ noRoom ∨ (portOf s p).depth = 2 ∨ !accepts s p f then portCount s1 p cRxDropped 1
      else
        let s2 := portCount s1 p cRxFrames 1
        if f.kind = .roce ∧ f.ce then sendCnp (portCount s2 p cCeRx 1) p f.qp
        else s2)

/-- A front-end port answers an ARP request or a neighbour solicitation for its own address (R308, R320). -/
def execArpRequest (p : Nat) (v6 : Bool) (target : Nat) (s : State) : Host.Outcome State Fault Refusal := onNode s fun s =>
  onPort p (
    let own := portAddr s p v6
    if isFe p && portLink s p && own != 0 && own == target then
      sendFrame s ⟨p, 0, .arpReply, [target, fGet s (portLoc .portMac p) fPortMacMac], []⟩
    else s)

/-! ## PFC (R309, R310) -/

/-- Pauses whose quanta have run out end, and what they held back goes (R309). -/
def pauseEnds (s : Node) (p : Nat) : Node :=
  let live := pausedNow s p
  if (portOf s p).paused = live then s
  else flushHeld (modPort s p fun x => { x with paused := live, stormed := x.stormed &&& live }) p

/-- A PFC frame pauses or resumes the enabled priorities that it names, for its quanta. -/
def execPfcFrameReceive (p enables : Nat) (quanta : List Nat) (s : State) : Host.Outcome State Fault Refusal := onNode s fun s =>
  onPort p (
    if !portLink s p then s
    else
      let s0 := pauseEnds s p
      let en := wbits (regGet s (portCtrlLoc p)) 23 16 &&& enables
      let off := maskOf ((ones 8 en).filter fun q => quanta.getD q 0 ≠ 0)
      let on := en - (en &&& off)
      let s1 := portCount s0 p cPfcRx 1
      let fresh := (ones 8 off).filter fun q => !bit (portOf s0 p).paused q
      let until_ := fun (q : Nat) => s.now + ceilDiv (quanta.getD q 0 * 512 * 1000) (max 1 (portMbps s p))
      let s2 := modPort s1 p fun x => { x with
        paused := (x.paused ||| off) - ((x.paused ||| off) &&& on)
        stormed := x.stormed - (x.stormed &&& on)
        pausedAt := fresh.foldl (fun t q => tblSet 0 t q s.now) x.pausedAt
        pausedTo := (ones 8 off).foldl (fun t q => tblSet 0 t q (until_ q)) x.pausedTo }
      flushHeld s2 p)

/-- Receive buffer occupancy crosses a limit: XOFF with quanta 0xFFFF, or XON with quanta 0. -/
def execPfcBufferThreshold (p prio : Nat) (full : Bool) (s : State) : Host.Outcome State Fault Refusal := onNode s fun s =>
  onPort p (
    if !portLink s p || !bit (wbits (regGet s (portCtrlLoc p)) 23 16) prio || decide (prio ≥ 8) then s
    else
      let bitOf := 1 <<< prio
      let s1 := modPort s p fun x => { x with xoff := if full then x.xoff ||| bitOf else x.xoff - (x.xoff &&& bitOf) }
      portCount (sendOut s1 ⟨p, prio, .pfc, [prio, if full then 0xFFFF else 0], []⟩) p cPfcTx 1)

/-- The pause watchdog expires (R310), WD_MS after the pause began: one record for each unbroken pause; WD_DOWN takes the port down. -/
def execPfcStorm (p prio : Nat) (s : State) : Host.Outcome State Fault Refusal := onNode s fun s =>
  onPort p (
    let x := portOf s p
    let l := portLoc .portPfc p
    let wd := fGet s l fPortPfcWdMs
    if !bit (pausedNow s p) prio || bit x.stormed prio || wd == 0 || !portLink s p ||
        decide (s.now < tblGet 0 x.pausedAt prio + wd * 1000000) then s
    else
      let s1 := modPort (logErr s (12 + p / 5) 0x40 0x0523 0 []) p fun x => { x with stormed := x.stormed ||| 1 <<< prio }
      if fGet s l fPortPfcWdDown = 1 then
        modPort (linkFalls s1 p 6) p fun x => { x with training := true }
      else s1)

end Sys2Proof.Machine
end

