-- ==== Sys2Proof/Machine/WorkOps.lean ====
section
/-! DEFINITION. Shared operations of queue pairs (R311 to R318), work queues (R370 to R381) and Ledger entries (R379
to R382). -/

namespace Sys2Proof.Machine

/-! ## Units -/

/-- Queue pair `x`. -/
def qpOf (s : Node) (x : Nat) : Qp := tblGet Qp.reset s.qps x
def modQp (s : Node) (x : Nat) (f : Qp → Qp) : Node := { s with qps := tblMod Qp.reset s.qps x f }

/-- Work queue `q`, its registers (R370) and its base die. -/
def wqOf (s : Node) (q : Nat) : Wq := tblGet Wq.reset s.wqs q
def modWq (s : Node) (q : Nat) (f : Wq → Wq) : Node := { s with wqs := tblMod Wq.reset s.wqs q f }
def wqLoc (r : RegId) (q : Nat) : RegLoc := bLoc r (q / 64) [q % 64]
def wqState (s : Node) (q : Nat) : Nat := ctrlState s (wqLoc .wqCfg q)

/-- Ledger slice `b` and its entries. -/
def ledOf (s : Node) (b : Nat) : LedSlice := tblGet LedSlice.reset s.leds b
def modLed (s : Node) (b : Nat) (f : LedSlice → LedSlice) : Node := { s with leds := tblMod LedSlice.reset s.leds b f }
def ledEntry (s : Node) (b i : Nat) : Option LedEntry := tblGet none (ledOf s b).entries i
def setEntry (s : Node) (b i : Nat) (e : Option LedEntry) : Node :=
  modLed s b fun x => { x with entries := tblSet none x.entries i e }
def modLedEntry (s : Node) (b i : Nat) (f : LedEntry → LedEntry) : Node :=
  match ledEntry s b i with
  | some e => setEntry s b i (some (f e))
  | none => s

/-- Runs `t` for a QP, a work queue or a Ledger entry the node has. -/
def onQp (x : Nat) (t : Node) : Host.Outcome Node Fault Refusal := onUnit 4096 x t
def onQueue (q : Nat) (t : Node) : Host.Outcome Node Fault Refusal := onUnit 256 q t
def onEntry (b i : Nat) (t : Node) : Host.Outcome Node Fault Refusal :=
  if b < 4 ∧ i < 16384 then .next t else .fault .noSuchUnit

/-! ## Queue pairs -/

/-- The port of a QP: the front-end port of the base die its context names (R313). -/
def qpPort (x : Qp) : Nat := 5 * x.port + 4

/-- The path MTU of a QP in bytes (R313). -/
def pathMtu (x : Qp) : Nat := 128 * 2 ^ x.pmtu

/-- PSNs that a message of `len` bytes takes: one for each path MTU begun, at least one. -/
def psnCount (x : Qp) (len : Nat) : Nat := max 1 (ceilDiv len (pathMtu x))

/-- Whether PSN `a` lies at or before `b`, read as signed 24-bit. -/
def psnLe (a b : Nat) : Bool := decide (signed 24 (wrap 24 ((b : Int) - (a : Int))) ≥ 0)

/-- Packet `i` of a request (R312): a SEND or WRITE is cut into packets of the path MTU, of which the first names address,
key and length and the last the immediate; a READ asks from its first byte not yet come. -/
def reqPacket (q : Qp) (r : QpReq) (i : Nat) : Out :=
  let m := pathMtu q
  let send := decide (r.op ≤ 3)
  let first := decide (i = 0) || !send
  let last := decide (i + 1 = r.psns) || !send
  let skip := if r.op = 4 then i * m else 0
  let head := fun (v : Nat) => if first then v else 0
  ⟨qpPort q, q.prio, .roceRequest,
    qpHead q ++ [(r.psn + i) % 2 ^ 24, r.op, b2n first, b2n last, head (r.remoteVa + skip), head r.rkey, head (r.len - skip),
      if last then r.imm else 0, r.arg, r.swap],
    if send then (r.data.drop (i * m)).take m else []⟩

/-- Sends what of a request is not yet acknowledged. -/
def qpTransmit (s : Node) (x : Nat) (r : QpReq) : Node :=
  let q := qpOf s x
  let l := if r.op ≤ 3 then (List.range (r.psns - r.done)).map (r.done + ·) else [r.done]
  l.foldl (fun s i => sendFrame s (reqPacket q r i)) s

/-- Posts a request on a QP in RTS: it takes the next PSNs, is sent and stays outstanding until it is acknowledged. -/
def qpPost (s : Node) (x : Nat) (who : QpWho) (op len localPa va rkey imm arg swap : Nat) (data : List Byte) : Node :=
  let q := qpOf s x
  let n := psnCount q len
  let r : QpReq := ⟨who, op, len, localPa, va, rkey, imm, arg, swap, data, q.sqPsn, n, 0⟩
  qpTransmit (modQp s x fun y => { y with sqPsn := (q.sqPsn + n) % 2 ^ 24, reqs := y.reqs ++ [r] }) x r

/-- A completion record (R318). -/
def roceCqe (wr : List Byte) (x op status n imm : Nat) : List Byte :=
  wr ++ leBytes 4 x ++ leBytes 1 op ++ leBytes 1 status ++ leBytes 2 0 ++ leBytes 4 n ++ leBytes 4 imm ++ leBytes 8 0

/-- Queues a completion record at the port of a QP: none is ever dropped. -/
def roceComplete (s : Node) (x : Nat) (rec_ : List Byte) : Node :=
  { s with roceCq := tblMod [] s.roceCq (qpOf s x).port fun l => l ++ [rec_] }

/-- The end of a request, with its STATUS: a successful entry without SIGNALLED writes no record (R318); the Ledger and
the work-queue unit learn the end of theirs. -/
def qpReqEnds (s : Node) (x : Nat) (r : QpReq) (status : Nat) : Node :=
  match r.who with
  | .entry wr sig =>
    if status = 0 ∧ !sig then s
    else roceComplete s x (roceCqe (leBytes 8 wr) x r.op status (if status = 0 then r.len else 0) 0)
  | .mirror b i wid => modLedEntry s b i fun e => if e.flight ∧ e.wid = wid then { e with heard := some (status == 0) } else e
  | .record b i => modLedEntry s b i fun e => { e with recHeard := some (status == 0) }
  | .accWord q => if status = 0 then s else modWq s q fun w => { w with accDue := true }
  | .replay => { s with mirror := { s.mirror with reading := status == 0, readDone := status == 0 } }

/-- The WR_IDs and OPs of the send entries that a QP has not yet processed. -/
def sqLeft (s : Node) (q : Qp) : List (Nat × Nat) :=
  let n := 2 ^ bits q.sq 4 0
  (List.range ((q.sqPi + 65536 - q.sqCi) % 65536)).map fun k =>
    let a := bits q.sq 55 12 * 4096 + ((q.sqCi + k) % n) * 64
    (readLE s (a + 48) 8, readLE s a 1)

/-- A QP moves to ERROR (R317): what it has outstanding completes with an error, the first with `status`. -/
def qpFlush (s : Node) (x status : Nat) : Node :=
  let q := qpOf s x
  let left := sqLeft s q
  let s1 := modQp s x fun y => { y with st := 4, reqs := [], sqCi := y.sqPi }
  let s2 := (q.reqs.zipIdx).foldl (fun s (r, k) => qpReqEnds s x r (if k = 0 then status else 4)) s1
  left.foldl (fun s (wr, op) => roceComplete s x (roceCqe (leBytes 8 wr) x op 4 0 0)) s2

/-- The same with a record: ROCE_QP_ERROR, ROCE_ACCESS or ROCE_CMD_INVALID, by the base die of the QP's port. -/
def qpError (s : Node) (x code status : Nat) (detail : List (Nat × Nat)) : Node :=
  logErr (qpFlush s x status) (12 + (qpOf s x).port) 0x40 code 0 detail

/-- The record of poison met by an agent without a cache: consumer code 11 (R241, R547). -/
def poisonAgent (s : Node) (scope block line : Nat) : Node := logErr s scope block 0x0105 (line * lineBytes) [(1, 11)]

/-- The first poisoned line of a range. -/
def firstPoison (s : Node) (a n : Nat) : Option Nat := if n = 0 then none else (linesOf a n).find? (isPoisoned s)

/-! ## Work queues -/

/-- Ring slots of a queue (R371). -/
def wqSlots (s : Node) (q : Nat) : Nat := 2 ^ fGet s (wqLoc .wqRing q) fWqRingLog2n

/-- NEXT and WQ_PROD. -/
def wqNext (s : Node) (q : Nat) : Nat := fGet s (wqLoc .wqStatus q) fWqStatusNext
def wqProdVal (s : Node) (q : Nat) : Nat := fGet s (wqLoc .wqProd q) fWqProdProd

/-- The 48-bit difference of two sequence numbers, signed (R371). -/
def seqDiff (a b : Nat) : Int := signed 48 (wrap 48 ((a : Int) - (b : Int)))

/-- Address of the slot of sequence number `n` (R371). -/
def wqSlot (s : Node) (q n : Nat) : Nat :=
  fGet s (wqLoc .wqRing q) fWqRingBase * 4096 + n % wqSlots s q * 64

/-- RECOVERING of a base die (R392). -/
def recovering (s : Node) (b : Nat) : Bool := fGet s (bLoc .ledgerStatus b) fLedgerStatusRecovering == 1

/-- The condition of a queue (R376, R377, R382, R389, R392): RECOVERING before MIRROR_WAIT before a stall before
CQ_WAIT. -/
def wqCond (s : Node) (q : Nat) : Nat :=
  let w := wqOf s q
  if wqState s q = stOff then 0
  else if recovering s (q / 64) then 3
  else if s.mirror.lost then 4
  else if w.stall = 1 ∨ w.stall = 2 then w.stall
  else if w.cqFailed then 5
  else 0

/-- STALLED and RECOVERING in the acceptance word's places (R381). -/
def accBits (s : Node) (q : Nat) : Nat :=
  let c := wqCond s q
  (if c = 1 ∨ c = 2 then 2 ^ 62 else 0) + (if recovering s (q / 64) then 2 ^ 63 else 0)

/-- The acceptance word (R381). -/
def accWord (s : Node) (q : Nat) : Nat := wqNext s q + accBits s q

/-- Notes that the acceptance word of a queue must be written. -/
def accChanged (s : Node) (q : Nat) : Node := modWq s q fun w => { w with accDue := true }

/-- Stalls a queue, or ends its stall. -/
def setStall (s : Node) (q stall : Nat) : Node := accChanged (modWq s q fun w => { w with stall := stall, waitFrom := none }) q

/-- Counter of a base die's work-queue block. -/
def wqCount (s : Node) (b : Nat) (r : RegId) : Node := cntAdd s (bLoc r b) 1

/-- The period for which a slot is read again, in nanoseconds: WQ_CTRL.AHEAD_US, of which 0 acts as 1 (R377, R398). -/
def aheadNs (s : Node) (q : Nat) : Nat := max 1 (fGet s (bLoc .wqCtrl (q / 64)) fWqCtrlAheadUs) * 1000

/-- Whether the period of a queue's reader has come to its end. -/
def aheadOver (s : Node) (q : Nat) : Bool := (wqOf s q).waitFrom.any fun t => decide (t + aheadNs s q ≤ s.now)

/-- A PROD write takes effect (R370, R376, R377): ignored by a queue that is OFF; not greater than WQ_PROD, ignored;
too far ahead, OVERRUN; as the reader's period ends, it starts the period again. -/
def ringDoorbell (s : Node) (q prod : Nat) : Node :=
  if wqState s q = stOff then wqCount s (q / 64) .dbIgnored
  else if seqDiff prod (wqProdVal s q) ≤ 0 then s
  else
    let s0 := fSet s (wqLoc .wqProd q) fWqProdProd prod
    let s1 := if aheadOver s q then modWq s0 q fun w => { w with waitFrom := some s.now } else s0
    if seqDiff prod (wqNext s q) > (wqSlots s q : Int) then
      logErr (setStall s1 q 2) (12 + q / 64) 0x50 0x0802 0 []
    else if (wqOf s q).stall = 1 then setStall s1 q 0
    else s1

/-- CTL RESUME (R374, R377): it ends a stall. -/
def resumeQueue (s : Node) (q : Nat) : Node :=
  if wqState s q = stOff then wqCount s (q / 64) .dbIgnored
  else if (wqOf s q).stall = 0 then s
  else setStall s q 0

/-- Where the mirror is (R380): its mode. -/
def mirrorMode (s : Node) : Nat := dictNat s 0x4100 1

/-- The bytes of a mirror region. -/
def mirrorBytes : Nat := 2 ^ 24

/-- Reconciliation starts (R393): both copies of every mirror entry are read, by a Dziger GET from the buddy or an RDMA
READ on HOST_QP, into the management processor's own memory. -/
def startReplay (s : Node) : Node :=
  let s1 := { s with mirror := { s.mirror with reading := true, readDone := false } }
  let x := dictNat s 0x4100 4
  if !(List.range 4).any (recovering s) || s.mirror.reading then s
  else match mirrorMode s with
  | 1 =>
    let r : RemoteReq := ⟨s.remoteId, .replay, 4, 0, dictNat s 0x4100 2, dictNat s 0x4100 3, mirrorBytes, [], 0, 0, 0, false, false, [], none, []⟩
    { s1 with remotes := s1.remotes ++ [r], remoteId := s1.remoteId + 1 }
  | 2 =>
    if (qpOf s x).st = 3 then qpPost s1 x .replay 4 mirrorBytes 0 (dictNat s 0x4100 5) (dictNat s 0x4100 6) 0 0 0 [] else s
  | _ => s

/-- A write to a doorbell page (R374): it must cover exactly bytes 0 to 7 of PROD or CTL and set no reserved bit. -/
def doorbellWrite (s : Node) (q off : Nat) (l : List Byte) : Node :=
  let v := leValue l
  if l.length = 8 ∧ off = 0 ∧ v < 2 ^ 48 then ringDoorbell s q v
  else if l.length = 8 ∧ off = 8 ∧ v < 4 then
    let s1 := if bit v 0 then resumeQueue s q else s
    if bit v 1 then startReplay s1 else s1
  else wqCount s (q / 64) .dbIgnored

/-! ## Ledger entries -/

/-- SEQ of a descriptor, and its fields (R372). -/
def descField (d : List Byte) (at_ n : Nat) : Nat := leValue ((d.drop at_).take n)
def descSeq (e : LedEntry) : Nat := descField e.desc 0 6
def descOp (e : LedEntry) : Nat := descField e.desc 8 1

/-- The entries of a base die's slice that are listed. -/
def ledEntries (s : Node) (b : Nat) : List (Nat × LedEntry) :=
  (ledOf s b).entries.filterMap fun (i, e) => e.map fun x => (i, x)

/-- A free entry of a slice (R378). -/
def freeEntry (s : Node) (b : Nat) : Option Nat := firstBelow 16384 fun i => (ledEntry s b i).isNone

/-- The ones'-complement sum of 16-bit words (R373). -/
def onesSum : List Byte → Nat
  | [] => 0
  | [a] => a.toNat
  | a :: b :: t =>
    let v := a.toNat + 256 * b.toNat + onesSum t
    v % 65536 + v / 65536

/-- Whether bytes pass their check (R373). -/
def checkPasses (l : List Byte) : Bool := onesSum l == 0xFFFF

/-- The check code of bytes in which CHECK is zero (R373). -/
def checkCode (l : List Byte) : Nat := 0xFFFF - onesSum l

/-- INCARNATION of a base die (R392). -/
def incarnation (s : Node) (b : Nat) : Nat := fGet s (bLoc .ledgerStatus b) fLedgerStatusIncarnation

/-- The mirror copy of an entry (R380). -/
def mirrorCopy (s : Node) (b : Nat) (e : LedEntry) (wid : Nat) : List Byte :=
  let head := e.desc ++ (if e.st = 1 then List.replicate 32 0 else e.cpl) ++ leBytes 1 e.st ++ leBytes 1 e.queue ++ leBytes 6 0 ++
    leBytes 8 wid ++ leBytes 4 (fGet s (bLoc .dzSelf 0) fDzSelfEp) ++ leBytes 4 (incarnation s b) ++ leBytes 6 0
  head ++ leBytes 2 (checkCode (head ++ leBytes 2 0))

/-- The address of an entry's copy in the mirror (R380). -/
def mirrorAddr (s : Node) (b i copy : Nat) : Nat :=
  (if mirrorMode s = 1 then dictNat s 0x4100 3 else dictNat s 0x4100 5) + ((b * 16384 + i) * 2 + copy) * 128

/-- Starts the write of an entry's state to the mirror, to the copy that does not hold its latest acknowledged state;
with no mirror configured the write fails at once (R380, R382). -/
def mirrorWrite (s : Node) (b i : Nat) : Node :=
  match ledEntry s b i with
  | none => s
  | some e =>
    let wid := (ledOf s b).wid + 1
    let s1 := modLedEntry (modLed s b fun x => { x with wid := wid }) b i fun x => { x with flight := true, heard := none, wid := wid }
    let s2 := wqCount s1 b .mirrorWrites
    let copy := 1 - e.copy
    let data := mirrorCopy s b e wid
    match mirrorMode s with
    | 1 =>
      let r : RemoteReq := ⟨s2.remoteId, .mirror b i, 3, 0, dictNat s 0x4100 2, mirrorAddr s b i copy, 128,
        (data.zipIdx).map fun (v, k) => (mirrorAddr s b i copy + k, v), 0, 0, 0, false, false, [], none, []⟩
      { s2 with remotes := s2.remotes ++ [r], remoteId := s2.remoteId + 1 }
    | 2 =>
      let x := dictNat s 0x4100 4
      if (qpOf s2 x).st = 3 then
        qpPost s2 x (.mirror b i wid) 2 128 0 (mirrorAddr s b i copy) (dictNat s 0x4100 6) 0 0 0 data
      else modLedEntry s2 b i fun y => { y with heard := some false }
    | _ => modLedEntry s2 b i fun y => { y with heard := some false }

/-- An entry takes a new local state and mirrors it (R379). While acceptance has stopped the write waits (R382). -/
def entryMoves (s : Node) (b i st : Nat) (cpl : List Byte) : Node :=
  let s1 := modLedEntry s b i fun e => { e with st := st, cpl := cpl }
  if s.mirror.lost then s1 else mirrorWrite s1 b i

end Sys2Proof.Machine
end

