-- ==== Sys2Proof/Machine/WorkQueues.lean ====
section
/-! DEFINITION. Work queues, doorbells and the Ledger (R369 to R398). -/

namespace Sys2Proof.Machine

/-! ## Enabling -/

/-- Whether an entry holds a command that has been accepted and has not yet retired. -/
def cmdLive (e : LedEntry) : Bool := decide (e.acked ≥ 1) && decide (e.st ≠ 3)

/-- Whether a queue has a live command, or a descriptor on its way to acceptance. -/
def queueLive (s : Node) (q : Nat) : Bool :=
  (ledEntries s (q / 64)).any fun (_, e) => e.queue == q && (cmdLive e || (e.acked == 0 && e.flight && e.heard.isNone))

/-- A write of WQ_CFG (R370). -/
def wqWrite (s : Node) (q : Nat) (v : Word) : Node :=
  let l := wqLoc .wqCfg q
  let w := wput (wput (wput (regGet s l) 63 32 (wbits v 63 32)) 27 16 (wbits v 27 16)) 15 15 (wbits v 15 15)
  enableWrite (regSet s l w) l (wbit v 0)

def execWqEnableWrite (queue : Nat) (value : Word) (s : State) : Host.Outcome State Fault Refusal := onNode s fun s =>
  onQueue queue (withResp (wqWrite s queue value) .done)

/-- A queue's ENABLING ends; a recovering queue writes its acceptance word (R392). -/
def wqStepEnds (s : Node) (q : Nat) : Node :=
  let s1 := ownStepEnds s (wqLoc .wqCfg q)
  if recovering s (q / 64) then accChanged s1 q else s1

/-- A disabling queue with no live command becomes OFF (R370); a descriptor that was not accepted has no effect. -/
def execWqDisableDone (queue : Nat) (s : State) : Host.Outcome State Fault Refusal := onNode s fun s =>
  onQueue queue (
    let st := wqState s queue
    if (st = stDisabling ∨ st = stPending) ∧ !queueLive s queue then
      let s1 := match (wqOf s queue).entry with
        | some i => setEntry s (queue / 64) i none
        | none => s
      ownStepEnds (modWq s1 queue fun w => { w with stall := 0, waitFrom := none, entry := none, cqFailed := false }) (wqLoc .wqCfg queue)
    else s)

/-! ## Doorbells -/

/-- A PROD write: reserved bits make it ignored and counted (R374, R376). -/
def execDoorbellProd (queue : Nat) (value : Word) (s : State) : Host.Outcome State Fault Refusal := onNode s fun s =>
  onQueue queue (withResp (doorbellWrite s queue 0 (leBytes 8 value.toNat)) .done)

def execDoorbellResume (queue : Nat) (s : State) : Host.Outcome State Fault Refusal := onNode s fun s =>
  onQueue queue (withResp (doorbellWrite s queue 8 (leBytes 8 1)) .done)

def execDoorbellReplay (queue : Nat) (s : State) : Host.Outcome State Fault Refusal := onNode s fun s =>
  onQueue queue (withResp (doorbellWrite s queue 8 (leBytes 8 2)) .done)

/-! ## The queue reader (R377, R378) -/

/-- Whether the entry that last held a descriptor of a slot has not been retired. -/
def slotHeld (s : Node) (q n : Nat) : Bool :=
  (ledEntries s (q / 64)).any fun (_, e) =>
    e.queue == q && (descSeq e % wqSlots s q == n % wqSlots s q) && !(decide (e.st = 3) && decide (e.acked = 3))

/-- Whether a queue's reader wants slot NEXT and has nothing to wait for but a free entry. -/
def readerWants (s : Node) (q : Nat) : Bool :=
  let w := wqOf s q
  wqState s q == stOn && !recovering s (q / 64) && !s.mirror.lost && !s.mirror.resync && w.stall == 0 && w.entry.isNone &&
  decide (seqDiff (wqProdVal s q) (wqNext s q) > 0) && !slotHeld s q (wqNext s q)

/-- Whether the reader may read slot NEXT. -/
def readerRuns (s : Node) (q : Nat) : Bool := readerWants s q && (freeEntry s (q / 64)).isSome

/-- A new entry for a descriptor, in a place whose latest acknowledged state lies in a copy (none: in neither, and the first
write goes to copy A). -/
def newEntry (q : Nat) (d : List Byte) (copy : Option Nat) : LedEntry :=
  ⟨q, d, 1, 0, copy.getD 1, 0, false, none, false, none, List.replicate 32 0, false, false, none, none, false, 0, []⟩

/-- The copy that holds the latest acknowledged state of a freed place (R380). -/
def placeCopy (s : Node) (b i : Nat) : Option Nat :=
  match tblGet 0 (ledOf s b).copies i with
  | 0 => none
  | k + 1 => some k

/-- Frees a place, and notes which copy holds its latest acknowledged state. -/
def freePlace (s : Node) (b i : Nat) : Node :=
  match ledEntry s b i with
  | some e => modLed (setEntry s b i none) b fun x =>
      if e.acked = 0 then x else { x with copies := tblSet 0 x.copies i (e.copy + 1) }
  | none => s

/-- Reads slot NEXT: a descriptor that passes its check with SEQ = NEXT is journalled and mirrored; any other content,
a poisoned line among it, which is recorded (R241), is not yet visible. -/
def readSlot (s : Node) (q : Nat) : Node :=
  let b := q / 64
  let n := wqNext s q
  let a := wqSlot s q n
  let s1 := agentTouch s b clsDma a 64
  let d := readBytes s a 64
  match freeEntry s b with
  | none => s
  | some i =>
    if inHbm s a 64 ∧ !anyPoison s1 a 64 ∧ checkPasses d ∧ descField d 0 6 = n then
      let s2 := wqCount (setEntry s1 b i (some (newEntry q d (placeCopy s b i)))) b .descRead
      mirrorWrite (modWq s2 q fun w => { w with entry := some i, waitFrom := none }) b i
    else
      let s2 := match firstPoison s1 a 64 with
        | some l => poisonAgent s1 (12 + b) 0x50 l
        | none => s1
      modWq s2 q fun w => { w with waitFrom := some (w.waitFrom.getD s.now) }

def execWqSlotRead (queue : Nat) (s : State) : Host.Outcome State Fault Refusal := onServed s fun s =>
  onQueue queue (if readerRuns s queue then readSlot s queue else s)

/-- Each microsecond of the period the slot is read again. -/
def execWqRereadTimer (queue : Nat) (s : State) : Host.Outcome State Fault Refusal := onServed s fun s =>
  onQueue queue (
    if readerRuns s queue && (wqOf s queue).waitFrom.any (fun t => decide (s.now ≤ t + aheadNs s queue)) then
      wqCount (readSlot s queue) (queue / 64) .aheadRetries
    else s)

/-- The period of AHEAD_US ends with no visible descriptor (R377). -/
def execDoorbellAhead (queue : Nat) (s : State) : Host.Outcome State Fault Refusal := onNode s fun s =>
  onQueue queue (
    if readerRuns s queue && aheadOver s queue then
      logErr (setStall s queue 1) (12 + queue / 64) 0x50 0x0801 0 [(1, queue), (8, wqNext s queue), (8, wqProdVal s queue)]
    else s)

/-! ## Descriptors (R372, R383, R385) -/

/-- CNT and THR of a descriptor. -/
def descCnt (d : List Byte) : Nat := bits (descField d 10 2) 9 0
def descThr (d : List Byte) : Nat := descField d 12 4

/-- Whether the dependency counter of a descriptor has reached THR (R168). -/
def cntReached (s : Node) (d : List Byte) : Bool := reached (depCounter s (descCnt d)) (descThr d)

/-- Whether a descriptor is malformed: unknown OP, a reserved bit, an unused ARG that is not zero, an argument out of
range. -/
def descInvalid (d : List Byte) : Bool :=
  let op := descField d 8 1
  let a0 := descField d 16 8
  let a1 := descField d 24 8
  let die := bits a1 19 16
  let args := match op with
    | 1 => aligned 64 a0 && inRange (bits a1 12 0) 1 4096 && (decide (die < 12) || die == 15) && bits a1 15 13 == 0 && bits a1 63 20 == 0
    | 2 => true
    | 3 => a0 == 0 && a1 == 0
    | 4 => decide (a0 < 2 ^ 32) && a1 == 0
    | 5 => a0 == 0 && a1 == 0
    | _ => false
  !args || descField d 9 1 / 2 != 0 || bits (descField d 10 2) 15 10 != 0 || descField d 56 8 != 0

/-- The completion record of an entry (R387). -/
def completionRecord (s : Node) (b : Nat) (e : LedEntry) (status err result : Nat) : List Byte :=
  leBytes 6 (descSeq e) ++ leBytes 1 status ++ leBytes 1 (b2n e.replayed) ++ (e.desc.drop 48).take 8 ++ leBytes 8 result ++
    leBytes 2 e.queue ++ leBytes 2 err ++ leBytes 4 (incarnation s b)

/-- A malformed descriptor completes without action with STATUS INVALID (R385). -/
def judge (s : Node) (b i : Nat) : Node :=
  match ledEntry s b i with
  | none => s
  | some e =>
    if descInvalid e.desc then
      logErr (modLedEntry s b i fun x => { x with doneBy := some (1, 0x0803, 0) }) (12 + b) 0x50 0x0803 0 []
    else s

/-! ## Mirror acknowledgement (R379, R382, R388, R395) -/

/-- Whether an entry holds the highest SEQ of its queue among those accepted (R395). -/
def highestSeq (s : Node) (b : Nat) (e : LedEntry) : Bool :=
  (ledEntries s b).all fun (_, x) => x.queue != e.queue || x.acked == 0 || decide (seqDiff (descSeq x) (descSeq e) ≤ 0)

/-- Frees the retired entries of a queue but the one that holds its highest SEQ. -/
def freeRetired (s : Node) (b q : Nat) : Node :=
  (ledEntries s b).foldl (fun s (i, e) =>
    if e.queue = q ∧ e.st = 3 ∧ e.acked = 3 ∧ !highestSeq s b e then freePlace s b i else s) s

/-- The remote access that carries an entry's mirror write. -/
def mirrorRemote (s : Node) (b i : Nat) : Option RemoteReq := s.remotes.find? fun r => r.who == .mirror b i

/-- How an entry's mirror write has ended: none while it is under way, some none when acknowledged, else the failure's
STATUS. -/
def mirrorEnd (s : Node) (b i : Nat) : Option (Option Nat) :=
  match ledEntry s b i with
  | none => none
  | some e =>
    if !e.flight then none
    else match e.heard, (mirrorRemote s b i).bind (·.result) with
      | some true, _ => some none
      | some false, _ => some (some 2)
      | none, some (0, _) => some none
      | none, some (st, _) => some (some st)
      | none, none => none

/-- Takes the remote access of a mirror write away. -/
def dropMirrorRemote (s : Node) (b i : Nat) : Node := { s with remotes := s.remotes.filter fun r => r.who != .mirror b i }

/-- Whether a mirror write of an accepted entry is in flight anywhere. -/
def anyFlight (s : Node) : Bool := (List.range 4).any fun b => (ledEntries s b).any fun (_, e) => e.flight && decide (e.acked ≥ 1)

/-- The pieces of memory that hold `n` bytes from a virtual address, at most `fuel` of them, by the translations in
force; a page without one has no piece. -/
def outPieces (s : Node) : Nat → Nat → Nat → List (Nat × Nat)
  | 0, _, _ => []
  | fuel + 1, va, n =>
    if n = 0 then []
    else match rootWalk s va accRead with
      | .ok e =>
        let m := tlbMap e va
        let k := min n (2 ^ m.size - va % 2 ^ m.size)
        (mapAddr m va, k) :: outPieces s fuel (va + k) (n - k)
      | .fault _ =>
        let k := min n (4096 - va % 4096)
        outPieces s fuel (va + k) (n - k)

/-- From its acceptance the bytes of a command's declared output region are undefined (R390). -/
def openOutput (s : Node) (b i : Nat) : Node :=
  match ledEntry s b i with
  | none => s
  | some e =>
    let n := descField e.desc 40 8
    if n = 0 then s
    else modLedEntry (bump s) b i fun x => { x with draw := s.fresh, out := outPieces s (n / 4096 + 2) (descField e.desc 32 8) n }

/-- The mirror acknowledges an entry's state: a descriptor is accepted and NEXT advances, or a retired entry is freed
unless it holds the highest SEQ of its queue. After MIRROR_LOST a journalled entry stays unaccepted, and acceptance resumes
once every accepted entry has been written to the new mirror (R382). -/
def execMirrorWriteAck (base i : Nat) (s : State) : Host.Outcome State Fault Refusal := onNode s fun s =>
  onEntry base i (
    match ledEntry s base i, mirrorEnd s base i with
    | some e, some none =>
      let fresh := e.acked == 0
      if fresh && s.mirror.lost then
        modLedEntry (dropMirrorRemote s base i) base i fun x => { x with flight := false, heard := none }
      else if fresh && s.mirror.resync then s
      else
        let s1 := modLedEntry (dropMirrorRemote s base i) base i fun x =>
          { x with acked := x.st, copy := 1 - x.copy, flight := false, heard := none }
        let s2 := if s1.mirror.resync ∧ !anyFlight s1 then { s1 with mirror := { s1.mirror with resync := false } } else s1
        if fresh ∧ e.st = 1 then
          let q := e.queue
          let s3 := fSet s2 (wqLoc .wqStatus q) fWqStatusNext ((wqNext s2 q + 1) % 2 ^ 48)
          let s4 := modWq (cntAdd s3 (bLoc .ledgerAccepted base) 1) q fun w => { w with entry := none, accDue := true }
          judge (openOutput (freeRetired s4 base q) base i) base i
        else if e.st = 3 then
          freeRetired (if e.acked = 3 then s2 else cntAdd s2 (bLoc .ledgerRetired base) 1) base e.queue
        else s2
    | _, _ => s)

/-- A mirror write fails (R382): EPOCH_CHANGED sends it again; any other failure stops acceptance on every queue. -/
def execMirrorLost (base i : Nat) (s : State) : Host.Outcome State Fault Refusal := onNode s fun s =>
  onEntry base i (
    match mirrorEnd s base i with
    | some (some 0x0603) => mirrorWrite (dropMirrorRemote s base i) base i
    | some (some _) =>
      let s1 := modLedEntry (dropMirrorRemote s base i) base i fun x => { x with flight := false, heard := none }
      let s2 := (List.range 256).foldl (fun s q => if (wqOf s q).stall ≠ 0 then accChanged s q else s)
        { s1 with mirror := { s1.mirror with lost := true, reported := true, resync := false } }
      if s.mirror.reported then s2 else logErr s2 (12 + base) 0x51 0x0804 0 []
    | _ => s)

/-- A Latch commit names a mirror (R382): every live entry's current state is first written to it, copy A; then
acceptance resumes. Nothing of the former mirror counts any more. -/
def mirrorNamed (s : Node) : Node :=
  let s1 := { s with mirror := { s.mirror with lost := false, reported := false } }
  let s2 := (List.range 4).foldl (fun s b =>
    modLed ((ledEntries s b).foldl (fun s (i, _) =>
      mirrorWrite (modLedEntry (dropMirrorRemote s b i) b i fun e => { e with copy := 1 }) b i) s) b fun x => { x with copies := [] }) s1
  let s3 := (List.range 256).foldl (fun s q => if (wqOf s q).stall ≠ 0 then accChanged s q else s) s2
  { s3 with mirror := { s3.mirror with resync := anyFlight s3 } }

/-- The acceptance word is written with the latest values (R381): a local store, or an RDMA WRITE. -/
def execAcceptanceWordWrite (queue : Nat) (s : State) : Host.Outcome State Fault Refusal := onServed s fun s =>
  onQueue queue (
    let cfg := wqLoc .wqCfg queue
    let a := fGet s (wqLoc .wqAcc queue) fWqAccAddr * 8
    let x := fGet s cfg fWqCfgQp
    let done := modWq s queue fun w => { w with accDue := false }
    if !(wqOf s queue).accDue || wqState s queue == stOff then s
    else if fGet s cfg fWqCfgLocal = 1 then
      if inHbm s a 8 then agentWriteLE done (queue / 64) a 8 (accWord s queue) else done
    else if (qpOf s x).st = 3 then
      qpPost done x (.accWord queue) 2 8 0 a (fGet s cfg fWqCfgRkey) 0 0 0 (leBytes 8 (accWord s queue))
    else s)

/-! ## Commands (R383, R384) -/

/-- Whether a command of a given OP may start: accepted, its queue's earlier commands started and, with FENCE,
completed. -/
def startable (s : Node) (b i op : Nat) : Bool :=
  match ledEntry s b i with
  | none => false
  | some e =>
    let before := fun (x : LedEntry) => x.queue == e.queue && decide (seqDiff (descSeq x) (descSeq e) < 0) && decide (x.acked ≥ 1)
    decide (e.acked ≥ 1) && decide (e.st = 1) && !e.started && e.doneBy.isNone && descOp e == op && !descInvalid e.desc &&
    !recovering s b &&
    (ledEntries s b).all fun (_, x) => !before x ||
      (if bit (descField e.desc 9 1) 0 then decide (x.st ≥ 2) else x.started || x.doneBy.isSome || decide (x.st ≥ 2))

/-- Marks a command started. -/
def markStarted (s : Node) (b i : Nat) : Node := modLedEntry s b i fun e => { e with started := true }

/-- The number that a TILES command's lists and tiles carry. -/
def cmdId (b i : Nat) : Nat := b * 16384 + i

/-- The compute die a TILES command goes to: the named one, or the die of the base die with the most free pool entries,
the lowest number first, among those in service. -/
def tilesDie (s : Node) (b : Nat) (d : List Byte) : Option Nat :=
  let die := bits (descField d 24 8) 19 16
  let may := fun k => !isFenced s k && isOn s (tsCtrl k)
  if die = 15 then
    let l := (List.range 3).map (fun k => 3 * b + k) |>.filter may
    match l with
    | [] => none
    | a :: t => some (t.foldl (fun m k => if poolFree s k > poolFree s m then k else m) a)
  else if may die then some die else none

/-- Submits a tile list, waiting for a free list place. -/
def execWqTiles (base i : Nat) (s : State) : Host.Outcome State Fault Refusal := onNode s fun s =>
  onEntry base i (
    match ledEntry s base i with
    | none => s
    | some e =>
      match tilesDie s base e.desc with
      | none => s
      | some d =>
        if startable s base i 1 && decide ((schedOf s d).lists.length < 16) then
          submitList (modLedEntry s base i fun x => { x with started := true, list := some d })
            d (descField e.desc 16 8) (bits (descField e.desc 24 8) 12 0) (some (cmdId base i))
        else s)

/-- Places a NOTIFY in the notify FIFO of 1,024 places and signals source 64 + local queue (R386). -/
def execWqNotifyCmd (base i : Nat) (s : State) : Host.Outcome State Fault Refusal := onNode s fun s =>
  onEntry base i (
    match ledEntry s base i with
    | none => s
    | some e =>
      if startable s base i 2 && decide ((ledOf s base).notify.length < 1024) then
        signal (modLed (markStarted s base i) base fun x => { x with notify := x.notify ++ [(e.queue, descSeq e)] })
          base (64 + e.queue % 64)
      else s)

/-- A WAIT starts; it completes when CNT reaches THR. -/
def execWqWait (base i : Nat) (s : State) : Host.Outcome State Fault Refusal := onNode s fun s =>
  onEntry base i (if startable s base i 3 then markStarted s base i else s)

/-- A SIGNAL adds ARG0 to CNT. -/
def execWqSignal (base i : Nat) (s : State) : Host.Outcome State Fault Refusal := onNode s fun s =>
  onEntry base i (
    match ledEntry s base i with
    | none => s
    | some e =>
      if startable s base i 4 then
        let s1 := addDep (markStarted s base i) (descCnt e.desc) (descField e.desc 16 4)
        modLedEntry s1 base i fun x => { x with doneBy := some (0, 0, depCounter s1 (descCnt e.desc)) }
      else s)

/-- A NOP completes at once. -/
def execWqNop (base i : Nat) (s : State) : Host.Outcome State Fault Refusal := onNode s fun s =>
  onEntry base i (
    if startable s base i 5 then modLedEntry (markStarted s base i) base i fun e => { e with doneBy := some (0, 0, 0) } else s)

/-- Whether every descriptor of a TILES command's list has been fetched. -/
def listFetched (s : Node) (b i : Nat) : Bool :=
  (List.range 12).all fun d => (schedOf s d).lists.all fun l => l.cmd != some (cmdId b i)

/-- How a command has ended, once it has: STATUS, ERROR and RESULT. -/
def cmdEnd (s : Node) (b i : Nat) (e : LedEntry) : Option (Nat × Nat × Nat) :=
  match e.doneBy with
  | some x => some x
  | none =>
    if !e.started then none
    else match descOp e with
      | 1 => if listFetched s b i && cntReached s e.desc then some (0, 0, depCounter s (descCnt e.desc)) else none
      | 3 => if cntReached s e.desc then some (0, 0, depCounter s (descCnt e.desc)) else none
      | _ => none

/-- A command completes: its entry moves to COMPLETING with the record, which is mirrored (R387, R388). -/
def execWqCommandComplete (base i : Nat) (s : State) : Host.Outcome State Fault Refusal := onNode s fun s =>
  onEntry base i (
    match ledEntry s base i with
    | none => s
    | some e =>
      if e.acked = 0 ∨ e.st ≠ 1 ∨ e.flight ∨ recovering s base then s
      else match cmdEnd s base i e with
        | some (st, err, res) => entryMoves s base i 2 (completionRecord s base e st err res)
        | none => s)

/-- Address of a completion record (R388). -/
def cqSlot (s : Node) (e : LedEntry) : Nat :=
  fGet s (wqLoc .wqCq e.queue) fWqCqAddr * 32 + descSeq e % wqSlots s e.queue * 32

/-- The completion record is written: at once when it is local, by an RDMA WRITE whose acknowledgement this command
awaits otherwise; then the entry moves to RETIRED. -/
def execCompletionRecordWrite (base i : Nat) (s : State) : Host.Outcome State Fault Refusal := onServed s fun s =>
  onEntry base i (
    match ledEntry s base i with
    | none => s
    | some e =>
      let cfg := wqLoc .wqCfg e.queue
      let x := fGet s cfg fWqCfgQp
      if e.st ≠ 2 ∨ e.acked ≠ 2 ∨ e.flight ∨ recovering s base then s
      else if fGet s cfg fWqCfgLocal = 1 then
        let s1 := if inHbm s (cqSlot s e) 32 then agentWrite s base (cqSlot s e) e.cpl false else s
        entryMoves s1 base i 3 e.cpl
      else if e.recHeard = some true then
        entryMoves (modLedEntry s base i fun y => { y with recOut := false, recHeard := none }) base i 3 e.cpl
      else if e.recOut ∧ e.recHeard = none then s
      else if (qpOf s x).st = 3 then
        let s1 := modLedEntry s base i fun y => { y with recOut := true, recHeard := none }
        qpPost (modWq s1 e.queue fun w => { w with cqFailed := false }) x (.record base i) 2 32 0 (cqSlot s e)
          (fGet s cfg fWqCfgRkey) 0 0 0 e.cpl
      else s)

/-- While the completion QP is in ERROR records wait, and one record is written (R389). -/
def execCqWriteFailed (queue : Nat) (s : State) : Host.Outcome State Fault Refusal := onNode s fun s =>
  onQueue queue (
    let cfg := wqLoc .wqCfg queue
    let waits := (ledEntries s (queue / 64)).any fun (_, e) => e.queue == queue && decide (e.st = 2) && decide (e.acked = 2)
    if (qpOf s (fGet s cfg fWqCfgQp)).st = 4 ∧ fGet s cfg fWqCfgLocal = 0 ∧ waits ∧ !(wqOf s queue).cqFailed ∧ wqState s queue ≠ stOff then
      logErr (modWq s queue fun w => { w with cqFailed := true }) (12 + queue / 64) 0x50 0x0806 0 []
    else s)

/-- A read of WQ_NOTIFY removes and returns the oldest notification (R386). -/
def execWqNotifyRead (base : Nat) (s : State) : Host.Outcome State Fault Refusal := onNode s fun s =>
  onBase base (
    match (ledOf s base).notify with
    | [] => withResp s (.data 0)
    | (q, n) :: t =>
      withResp (modLed s base fun x => { x with notify := t }) (.data (BitVec.ofNat 64 (2 ^ 63 + q * 2 ^ 48 + n))))

/-- A store to WQ_COMPLETE ends a live command with the STATUS given; one that names none is ignored and counted.
STATUS 1 and 2 have an error code that no rule states for this store: a free value. -/
def completeStore (s : Node) (v : Word) : Node :=
  let q := wbits v 63 56
  let b := q / 64
  let live := fun (p : Nat × LedEntry) => p.2.queue == q && descSeq p.2 == wbits v 47 0 && decide (p.2.acked ≥ 1) && decide (p.2.st = 1) &&
    p.2.doneBy.isNone
  match (ledEntries s b).find? live with
  | none => wqCount s b .completeIgnored
  | some (i, _) =>
    let st := wbits v 55 48
    let err := if st = 1 ∨ st = 2 then Config.freeNat s.fresh % 65536 else 0
    modLedEntry (bump s) b i fun e => { e with doneBy := some (st, err, 0) }

def execWqCompleteWrite (value : Word) (s : State) : Host.Outcome State Fault Refusal := onNode s fun s => .next (withResp (completeStore s value) .done)

/-! ## Recovery (R392 to R395, R420) -/

/-- RECOVERING clears on every base die, and every acceptance word is due. -/
def endRecovery (s : Node) : Node :=
  let s1 := (List.range 4).foldl (fun s b => fSet s (bLoc .ledgerStatus b) fLedgerStatusRecovering 0) s
  let s2 := (List.range 256).foldl (fun s q => if wqState s q = stOff then s else accChanged s q) s1
  { s2 with mirror := { s2.mirror with reading := false, readDone := false } }

/-- FRESH ends recovery without reconciling, only while no entry of any base die is live (R392). -/
def ledgerFresh (s : Node) : Node :=
  if (List.range 4).any (recovering s) ∧ (List.range 4).all (fun b => (ledEntries s b).isEmpty) then endRecovery s else s

def execLedgerFresh (s : State) : Host.Outcome State Fault Refusal := onNode s fun s => .next (withResp (ledgerFresh s) .done)

def execLedgerReplay (s : State) : Host.Outcome State Fault Refusal := onNode s fun s => .next (withResp (startReplay s) .done)

/-- Which copy of a mirror entry governs (R393): a copy that passes its check, with the greater WID. -/
def governs (a c : List Byte) : Option (Nat × List Byte) :=
  let ok := fun (l : List Byte) => l.length == 128 && checkPasses l
  let wid := fun (l : List Byte) => descField l 104 8
  match ok a, ok c with
  | true, true => if wid a ≥ wid c then some (0, a) else some (1, c)
  | true, false => some (0, a)
  | false, true => some (1, c)
  | false, false => none

/-- Whether a copy was never written. -/
def blankCopy (l : List Byte) : Bool := l.all fun v => v == 0

/-- The entry that a mirror copy describes. -/
def entryOfCopy (c : Nat) (l : List Byte) : LedEntry :=
  { newEntry (descField l 97 1) (l.take 64) (some c) with
    st := descField l 96 1, acked := descField l 96 1, cpl := (l.drop 64).take 32 }

/-- Decides one pair of copies (R393). -/
def reconcileEntry (s : Node) (b i : Nat) (a c : List Byte) : Node :=
  let place := fun (s : Node) (k : Nat) => modLed s b fun x => { x with copies := tblSet 0 x.copies i k }
  let s0 := place (dropMirrorRemote s b i) 0
  if blankCopy a && blankCopy c then setEntry s0 b i none
  else match governs a c, ledEntry s b i with
    | some (k, l), _ => if descField l 96 1 = 0 ∨ descField l 96 1 > 3 then place (setEntry s0 b i none) (k + 1)
      else (if descField l 96 1 < 3 then openOutput (setEntry s0 b i (some (entryOfCopy k l))) b i else setEntry s0 b i (some (entryOfCopy k l)))
    | none, some e => setEntry s0 b i (some { e with acked := e.st, flight := false, heard := none })
    | none, none =>
      let q := descField a 97 1
      modWq (logErr s0 (12 + b) 0x51 0x0805 0 []) q fun w => { w with stall := 3 }

/-- Whether a restore superseded an ACCEPTED entry (R420). -/
def superseded (s : Node) (b : Nat) (e : LedEntry) : Bool :=
  let f := tblGet 0 (ledOf s b).frontier e.queue
  decide (e.st = 1) && f != 0 && decide (seqDiff (descSeq e) (f - 1) ≥ 0)

/-- Acts on an entry by its state after reconciliation (R394, R420). -/
def actOnEntry (s : Node) (b i : Nat) (e : LedEntry) : Node :=
  if e.st = 1 then
    if superseded s b e then entryMoves s b i 2 (completionRecord s b e 2 0x0A06 0)
    else
      let s1 := modLedEntry s b i fun x => { x with replayed := true, started := false, doneBy := none, list := none }
      judge (cntAdd s1 (bLoc .ledgerReplayed b) 1) b i
  else if e.st = 3 then freeRetired s b e.queue
  else s

/-- NEXT of a queue: one past the highest SEQ of any of its entries (R394). -/
def nextAfter (s : Node) (q : Nat) : Node :=
  match (ledEntries s (q / 64)).filter (fun p => p.2.queue == q) with
  | [] => s
  | p :: t =>
    let top := t.foldl (fun m x => if seqDiff (descSeq x.2) m > 0 then descSeq x.2 else m) (descSeq p.2)
    fSet s (wqLoc .wqStatus q) fWqStatusNext ((top + 1) % 2 ^ 48)

/-- The lead management processor's base die (R490). -/
def leadDie (s : Node) : Nat := fGet s (bLoc .mpStatus 0) fMpStatusLead

/-- Reconciliation ends with the mirror's copies as read: base die, entry, copy A, copy B; pairs not named are zeros. -/
def reconcile (s : Node) (copies : List (Nat × Nat × List Byte × List Byte)) : Node :=
  let s1 := (List.range 4).foldl (fun s b => (ledEntries s b).foldl (fun s (i, _) =>
    if copies.any (fun (b', i', _, _) => b' == b && i' == i) then s else setEntry s b i none) s) s
  let s2 := copies.foldl (fun s (b, i, a, c) => if b < 4 ∧ i < 16384 then reconcileEntry s b i a c else s) s1
  let n := ((List.range 4).map fun b => ((ledEntries s2 b).filter fun p => superseded s2 b p.2).length).sum
  let s3 := (List.range 256).foldl nextAfter s2
  let s4 := endRecovery s3
  let s5 := (List.range 4).foldl (fun s b => (ledEntries s b).foldl (fun s (i, e) => actOnEntry s b i e) s) s4
  let s6 := (List.range 4).foldl (fun s b => modLed s b fun x => { x with frontier := [] }) s5
  if n = 0 then s6 else logErr s6 (12 + leadDie s) 0x00 0x0A06 0 [(4, n)]

/-- The mirror's reads end: a Dziger GET that was refused or failed ends the reconciliation; another has brought every
copy. -/
def replayRead (s : Node) : Node :=
  match s.remotes.find? fun r => r.who == .replay && r.result.isSome with
  | none => s
  | some r =>
    let good := r.result.any fun x => x.1 == 0
    { takeRemote s r.id with mirror := { s.mirror with reading := good, readDone := good } }

/-- Reconciliation ends once the mirror has been read: its operand is what the reads brought to the management processor.
-/
def execReconciliationDone (copies : List (Nat × Nat × List Byte × List Byte)) (s : State) : Host.Outcome State Fault Refusal := onNode s fun s =>
  .next (
    let t := replayRead s
    if t.mirror.reading ∧ t.mirror.readDone ∧ mirrorMode t ≠ 0 then reconcile t copies else t)

end Sys2Proof.Machine
end

