-- ==== Sys2Proof/Machine/Roce.lean ====
section
/-! DEFINITION. RoCEv2 on the front-end ports (R311 to R318): rates, responders, requesters, queue pairs, send entries,
completions and memory regions. -/

namespace Sys2Proof.Machine

/-! ## Rates (R311) -/

/-- The MAC rate of a QP's port in Mb/s (R300). -/
def feRate (s : Node) (x : Nat) : Nat := if (portOf s (qpPort (qpOf s x))).mode = 4 then 200000 else 400000

/-- A CNP halves the QP's send rate, at most once per 50 µs and to no less than 100 Mb/s. One for a QP that is not in RTR or
RTS is dropped (R313). -/
def execCnpReceive (qp : Nat) (s : State) : Host.Outcome State Fault Refusal := onNode s fun s =>
  onQp qp (
    let q := qpOf s qp
    let s1 := portCount s (qpPort q) cCnpRx 1
    if q.st ≠ 2 ∧ q.st ≠ 3 then portCount s (qpPort q) cRxDropped 1
    else if q.st ≠ 3 ∨ (q.cutAt.any fun t => decide (s.now < t + 50000)) then s1
    else modQp s1 qp fun y => { y with rate := some (max 100 (y.rate.getD (feRate s qp) / 2)), cutAt := some s.now })

/-- 55 µs without a CNP raise the rate by 1/16 of the port rate, up to the port rate. -/
def execRoceRateIncrease (qp : Nat) (s : State) : Host.Outcome State Fault Refusal := onNode s fun s =>
  onQp qp (
    let top := feRate s qp
    let up := (qpOf s qp).rate.bind fun r => if r + top / 16 ≥ top then none else some (r + top / 16)
    modQp s qp fun y => { y with rate := up })

/-! ## Memory regions (R314) -/

/-- Word `w` of region `k`. -/
def mrWord (s : Node) (k w : Nat) : Nat := (regGet s (bLoc .mrEntry 0 [k, w])).toNat

/-- Whether a region with these words lies where a region may lie: in HBM or, with DOORBELL set, in the doorbell window. -/
def mrPlaced (s : Node) (w1 w2 w3 : Nat) : Bool :=
  let pa := bits w1 55 12 * 4096
  inHbm s pa w2 || (bit w3 61 && decide (0xFD00000000 ≤ pa) && decide (pa + w2 ≤ 0xFD00100000))

/-- A store to a region entry writes all four copies; one that would place a valid region elsewhere is ignored. -/
def mrWrite (s : Node) (k w : Nat) (v : Nat) : Node :=
  let v1 := match w with
    | 1 => bits v 55 12 <<< 12
    | 3 => v &&& (2 ^ 63 + 2 ^ 61 + 2 ^ 59 + 2 ^ 58 + 2 ^ 57 + (2 ^ 18 - 1))
    | _ => v
  let g := fun i => if i = w then v1 else mrWord s k i
  if bit (g 3) 63 && !mrPlaced s (g 1) (g 2) (g 3) then s
  else regSet s (bLoc .mrEntry 0 [k, w]) (BitVec.ofNat 64 v1)

def execMrEntryWrite (k w : Nat) (value : Word) (s : State) : Host.Outcome State Fault Refusal := onNode s fun s =>
  if k < 16384 ∧ w < 4 then .next (withResp (mrWrite s k w value.toNat) .done) else .fault .noSuchUnit

/-- The physical address of an access through a region, when the entry is VALID, its TAG matches, it grants the right
(bit 57 READ, 58 WRITE, 59 ATOMIC) and the whole access lies in it. -/
def mrMap (s : Node) (rkey va n right : Nat) : Option Nat :=
  let k := rkey % 16384
  let w3 := mrWord s k 3
  let base := mrWord s k 0
  if bit w3 63 && bits w3 17 0 == rkey / 16384 && bit w3 right && decide (base ≤ va) && decide (va + n ≤ base + mrWord s k 2) then
    some (bits (mrWord s k 1) 55 12 * 4096 + (va - base))
  else none

/-! ## Responder (R315 to R317) -/

/-- Sends an answer of a QP. -/
def qpAnswer (s : Node) (x : Nat) (k : OutKind) (fields : List Nat) (data : List Byte) : Node :=
  let q := qpOf s x
  sendFrame s ⟨qpPort q, q.prio, k, qpHead q ++ fields, data⟩

/-- NAK codes: 0 sequence error, 1 RNR, 2 Remote Access Error, 3 Remote Operational Error, 4 Invalid Request. -/
def qpNak (s : Node) (x psn code : Nat) : Node := qpAnswer s x .roceNak [psn, code] []

/-- A request that fails the region check (R317). -/
def accessFails (s : Node) (x : Nat) (p : RocePkt) : Node :=
  let s1 := qpNak s x p.psn 2
  logErr (qpFlush s1 x 4) (12 + (qpOf s x).port) 0x40 0x0680 p.va [(2, x), (4, p.rkey)]

/-- A packet that does not continue its message, or whose data does not fit it: a NAK of Invalid Request, and the QP moves
to ERROR. PRESUMED (log entry 198): the IBTA rule for reliable connections. -/
def requestInvalid (s : Node) (x : Nat) (p : RocePkt) : Node := qpFlush (qpNak s x p.psn 4) x 4

/-- The address of the receive entry at the head of a QP's RQ ring. -/
def recvAddr (q : Qp) : Nat := bits q.rq 55 12 * 4096 + q.rqCi % 2 ^ bits q.rq 4 0 * 16

/-- The receive entry at the head of a QP's RQ ring: its address and length, none where the ring has none. -/
def recvEntry (s : Node) (q : Qp) : Option (Nat × Nat) :=
  let a := recvAddr q
  let len := readLE s (a + 8) 4
  if inHbm s a 16 && !anyPoison s a 16 && len != 0 then some (readLE s a 8, len) else none

/-- A completion of a received message: WR_ID has no source in a receive entry, a free value. -/
def recvComplete (s : Node) (x op status n imm : Nat) : Node :=
  roceComplete (bump s) x (roceCqe (leBytes 8 (Config.freeNat s.fresh)) x op status n imm)

/-- Moves past a request of `n` PSNs and acknowledges it once its bytes are visible. -/
def qpAccept (s : Node) (x : Nat) (p : RocePkt) (n : Nat) : Node :=
  let s1 := modQp s x fun y => { y with rqPsn := (p.psn + n) % 2 ^ 24 }
  qpAnswer s1 x .roceAck [(p.psn + n - 1) % 2 ^ 24] []

/-- Takes the receive entry for a message, read through the home, or answers with an RNR NAK. -/
def withRecv (s : Node) (x : Nat) (p : RocePkt) (f : Node → Nat → Nat → Node) : Node :=
  let a := recvAddr (qpOf s x)
  let s0 := if inHbm s a 16 then agentTouch s (qpOf s x).port clsDma a 16 else s
  match recvEntry s0 (qpOf s x) with
  | none => qpNak s0 x p.psn 1
  | some (pa, len) => f (modQp s0 x fun y => { y with rqCi := (y.rqCi + 1) % 65536 }) pa len

/-- The bytes of a packet reach memory or a doorbell page. -/
def landWrite (s : Node) (base pa : Nat) (l : List Byte) : Node :=
  match paKind s pa with
  | .doorbell q off => doorbellWrite s q off l
  | _ => agentWrite s base pa l false

/-- Whether a packet's data fits its place in a message: a path MTU before the last packet, at most one in it. -/
def dataFits (q : Qp) (p : RocePkt) : Bool :=
  if p.last then decide (p.data.length ≤ pathMtu q) else p.data.length == pathMtu q

/-- Notes the message that a packet belongs to. -/
def setMsg (s : Node) (x : Nat) (m : RoceMsg) : Node := modQp s x fun y => { y with msg := some m }

/-- The bytes of one packet of a SEND, in its message's receive entry; a message longer than the entry completes it with a
local length error. -/
def sendPart (s : Node) (x : Nat) (p : RocePkt) (m : RoceMsg) : Node :=
  let n := m.got + p.data.length
  if !dataFits (qpOf s x) p then requestInvalid s x p
  else if n > m.len ∨ !inHbm s m.pa n then qpFlush (recvComplete (qpNak s x p.psn 4) x p.op 3 0 0) x 4
  else
    let s1 := setMsg (agentWrite s (qpOf s x).port (m.pa + m.got) p.data false) x { m with got := n, more := !p.last }
    qpAccept (if p.last then recvComplete s1 x p.op 0 n (if p.op = 1 then p.imm else 0) else s1) x p 1

/-- The message under way in a QP, when a packet of its kind continues it. -/
def goingOn (q : Qp) (write : Bool) : Option RoceMsg := q.msg.filter fun m => m.more && m.write == write

/-- A packet of a SEND: the first takes a receive entry. -/
def performSend (s : Node) (x : Nat) (p : RocePkt) : Node :=
  let q := qpOf s x
  match p.first, goingOn q false with
  | true, _ =>
    if q.msg.any (·.more) then requestInvalid s x p
    else withRecv s x p fun s1 pa len => sendPart s1 x p ⟨false, p.psn, pa, len, 0, true⟩
  | false, some m => sendPart s x p m
  | false, none => requestInvalid s x p

/-- The region of a WRITE's first packet; a zero-length WRITE names no byte and needs no region. -/
def writeRegion (s : Node) (p : RocePkt) : Option Nat := if p.len = 0 then some 0 else mrMap s p.rkey p.va p.len 58

/-- The bytes of one packet of a WRITE. -/
def landPart (s : Node) (x : Nat) (p : RocePkt) (m : RoceMsg) : Node :=
  if p.data = [] then s else landWrite s (qpOf s x).port (m.pa + m.got) p.data

/-- One packet of a WRITE in order: the last fills its length and, with immediate, takes a receive entry. -/
def writePart (s : Node) (x : Nat) (p : RocePkt) (m : RoceMsg) : Node :=
  let n := m.got + p.data.length
  let land := fun s => setMsg (landPart s x p m) x { m with got := n, more := !p.last }
  if !dataFits (qpOf s x) p || (if p.last then n != m.len else decide (n > m.len)) then requestInvalid s x p
  else if p.last && p.op == 3 then
    withRecv s x p fun s1 _ _ => qpAccept (recvComplete (land s1) x 3 0 n p.imm) x p 1
  else qpAccept (land s) x p 1

/-- A packet of a WRITE: the first is checked against its region (R314). -/
def performWrite (s : Node) (x : Nat) (p : RocePkt) : Node :=
  let q := qpOf s x
  match p.first, goingOn q true with
  | true, _ =>
    if q.msg.any (·.more) then requestInvalid s x p
    else match writeRegion s p with
      | none => accessFails s x p
      | some pa => writePart s x p ⟨true, p.psn, pa, p.len, 0, true⟩
  | false, some m => writePart s x p m
  | false, none => requestInvalid s x p

/-- The response packets of a READ, one for each path MTU (R312). -/
def readResponses (s : Node) (x psn : Nat) (data : List Byte) : Node :=
  let m := pathMtu (qpOf s x)
  let n := psnCount (qpOf s x) data.length
  (List.range n).foldl (fun s i => qpAnswer s x .roceResponse [(psn + i) % 2 ^ 24, b2n (i == 0), b2n (i + 1 == n)]
    ((data.drop (i * m)).take m)) s

/-- A READ returns its data; the doorbell window reads zero; poison is answered with a NAK. -/
def performRead (s : Node) (x : Nat) (p : RocePkt) : Node :=
  let base := (qpOf s x).port
  match (if p.len = 0 then some 0 else mrMap s p.rkey p.va p.len 57) with
  | none => accessFails s x p
  | some pa =>
    let answer := fun s l => readResponses (modQp s x fun y => { y with rqPsn := (p.psn + psnCount (qpOf s x) p.len) % 2 ^ 24 }) x p.psn l
    match paKind s pa with
    | .doorbell _ _ => answer s (List.replicate p.len 0)
    | _ =>
      let s1 := agentTouch s base clsDma pa p.len
      match firstPoison s1 pa p.len with
      | some l => qpNak (poisonAgent s1 (12 + base) 0x40 l) x p.psn 3
      | none => answer s1 (readBytes s1 pa p.len)

/-- An atomic of 8 bytes, an Atom at the home (R218, R315); its result is kept for a duplicate (R316). -/
def performAtomic (s : Node) (x : Nat) (p : RocePkt) : Node :=
  let base := (qpOf s x).port
  match (if aligned 8 p.va then mrMap s p.rkey p.va 8 59 else none) with
  | none => accessFails s x p
  | some pa =>
    if !inHbm s pa 8 then accessFails s x p
    else if readsPoison s 12 (lineOf pa) then qpNak (poisonAgent s (12 + base) 0x40 (lineOf pa)) x p.psn 3
    else
      let (s1, old) := if p.op = 5 then homeAtom s base pa 8 9 p.swap p.cmp else homeAtom s base pa 8 1 p.cmp 0
      let s2 := modQp s1 x fun y => { y with rqPsn := (p.psn + 1) % 2 ^ 24, atomics := ((p.psn, old) :: y.atomics).take 16 }
      qpAnswer s2 x .roceResponse [p.psn, 1, 1] (leBytes 8 old)

/-- Performs a request in PSN order; a READ or an atomic comes between messages. -/
def performRoce (s : Node) (x : Nat) (p : RocePkt) : Node :=
  if p.op ≥ 4 ∧ (qpOf s x).msg.any (·.more) = true then requestInvalid s x p
  else match p.op with
  | 0 => performSend s x p
  | 1 => performSend s x p
  | 2 => performWrite s x p
  | 3 => performWrite s x p
  | 4 => performRead s x p
  | _ => performAtomic s x p

/-- Acknowledges again what a QP has performed. -/
def ackAgain (s : Node) (x : Nat) : Node := qpAnswer s x .roceAck [((qpOf s x).rqPsn + 2 ^ 24 - 1) % 2 ^ 24] []

/-- The WRITE that a duplicate packet belongs to, with its bytes' offset: a first packet names it; another is one of those
whose duplicates come, or of the message received last. -/
def dupMsg (s : Node) (x : Nat) (p : RocePkt) : Option RoceMsg :=
  let q := qpOf s x
  if p.first then (writeRegion s p).map fun pa => ⟨true, p.psn, pa, p.len, 0, true⟩
  else
    let skip := fun (m : RoceMsg) => (p.psn + 2 ^ 24 - m.psn) % 2 ^ 24 * pathMtu q
    let covers := fun (m : RoceMsg) => m.write && decide (skip m + p.data.length ≤ m.len)
    ((q.dup.filter covers).orElse fun _ => q.msg.filter covers).map fun m => { m with got := skip m }

/-- A duplicate packet of a WRITE is performed again (R316): its bytes land again, without a receive entry and without a
completion record. One whose message the QP no longer knows is acknowledged. DESIGN CHOICE (log entry 199). -/
def duplicateWrite (s : Node) (x : Nat) (p : RocePkt) : Node :=
  match dupMsg s x p with
  | none => if p.first then accessFails s x p else ackAgain s x
  | some m =>
    if !dataFits (qpOf s x) p || decide (m.got + p.data.length > m.len) then requestInvalid s x p
    else ackAgain (landPart (modQp s x fun y => { y with dup := some { m with got := 0 } }) x p m) x

/-- A duplicate request (R316): a WRITE or READ is performed again, an atomic is answered from the kept results, a SEND
is acknowledged again. -/
def duplicateRoce (s : Node) (x : Nat) (p : RocePkt) : Node :=
  let keep := (qpOf s x).rqPsn
  match p.op with
  | 0 => ackAgain s x
  | 1 => ackAgain s x
  | 2 => duplicateWrite s x p
  | 3 => duplicateWrite s x p
  | 4 => modQp (performRead s x p) x fun y => { y with rqPsn := keep }
  | _ => match (qpOf s x).atomics.find? (fun a => a.1 == p.psn) with
    | some (_, v) => qpAnswer s x .roceResponse [p.psn, 1, 1] (leBytes 8 v)
    | none => s

/-- A QP accepts a packet: a session QP's session is alive (R412). -/
def acceptPacket (s : Node) (x : Nat) : Node :=
  let s1 := modQp s x fun y => { y with acceptedAt := some s.now }
  let named := (List.range 4).any fun i => dictNat s (0x4102) (2 + i) == x
  if named then { s1 with ctl := { s1.ctl with ckpt := { s1.ctl.ckpt with sessioned := true, aliveAt := max s1.ctl.ckpt.aliveAt s.now } } } else s1

/-- A request reaches a front-end port (R312, R313, R315): operations the node does not support, and packets for a QPN
that is not in RTR or RTS, are dropped and counted. -/
def execRocePacketReceive (port : Nat) (pkt : RocePkt) (s : State) : Host.Outcome State Fault Refusal := onServed s fun s =>
  onPort port (
    let x := pkt.qpn - 0x100
    let q := qpOf s x
    if !portLink s port || (portOf s port).depth == 2 then s
    else if !toPort s port pkt.dest then portCount s port cRxDropped 1
    else if pkt.qpn < 0x100 ∨ x ≥ 4096 ∨ pkt.op > 6 ∨ !isFe port ∨ qpPort q ≠ port ∨ (q.st ≠ 2 ∧ q.st ≠ 3) then
      portCount s port cRxDropped 1
    else
      let s1 := acceptPacket s x
      if pkt.psn = q.rqPsn then performRoce s1 x pkt
      else if psnLe pkt.psn q.rqPsn then duplicateRoce s1 x pkt
      else qpNak s1 x q.rqPsn 0)

/-! ## Requester (R316, R317) -/

/-- Sends again everything a QP has outstanding: go-back-N. -/
def goBackN (s : Node) (x : Nat) : Node := (qpOf s x).reqs.foldl (fun s r => qpTransmit s x r) s

/-- Retransmits once more, or fails the QP when RETRY is exhausted. -/
def retryQp (s : Node) (x : Nat) : Node :=
  let q := qpOf s x
  if q.retries ≥ q.retry then qpError s x 0x0681 2 []
  else goBackN (modQp s x fun y => { y with retries := y.retries + 1 }) x

/-- Last PSN of a request. -/
def lastPsn (r : QpReq) : Nat := (r.psn + r.psns - 1) % 2 ^ 24

/-- Notes how many of the PSNs of a QP's oldest request are acknowledged. -/
def ackedPsns (s : Node) (x n : Nat) : Node :=
  modQp s x fun y => { y with
    reqs := match y.reqs with
      | [] => []
      | r :: t => { r with done := max r.done n } :: t
    retries := 0, rnrs := 0 }

/-- The bytes of the next response packet of a READ or atomic. -/
def nextBytes (q : Qp) (r : QpReq) : Nat := if r.op = 4 then min (pathMtu q) (r.len - r.done * pathMtu q) else r.len

/-- Takes an acknowledgement up to `psn`: it completes the SENDs and WRITEs that it covers, and of one that it covers in
part the packets; a READ or atomic takes the response packet that comes next, and completes with its last. -/
def ackUpTo : List QpReq → Node → Nat → Nat → List Byte → Node
  | [], s, _, _, _ => s
  | r :: t, s, x, psn, data =>
    let pop := fun s => modQp s x fun y => { y with reqs := y.reqs.drop 1, retries := 0, rnrs := 0 }
    if r.op ≤ 3 then
      if psnLe (lastPsn r) psn then ackUpTo t (qpReqEnds (pop s) x r 0) x psn data
      else if psnLe r.psn psn then ackedPsns s x ((psn + 2 ^ 24 - r.psn) % 2 ^ 24 + 1)
      else s
    else if (r.psn + r.done) % 2 ^ 24 = psn ∧ data.length = nextBytes (qpOf s x) r then
      let q := qpOf s x
      let s1 := if r.who = .replay then s else agentWrite s q.port (r.localPa + r.done * pathMtu q) data false
      if r.done + 1 = r.psns then qpReqEnds (pop s1) x r 0 else ackedPsns s1 x (r.done + 1)
    else s

/-- An answer to a requester. -/
def execRoceAckReceive (qp : Nat) (ack : RoceAck) (s : State) : Host.Outcome State Fault Refusal := onServed s fun s =>
  onQp qp (
    let q := qpOf s qp
    if q.st ≠ 3 then (if q.st = 2 then s else portCount s (qpPort q) cRxDropped 1)
    else
      let s0 := acceptPacket s qp
      let before := fun psn => (psn + 2 ^ 24 - 1) % 2 ^ 24
      match ack with
      | .ack psn data => ackUpTo q.reqs s0 qp psn data
      | .nakSeq psn => retryQp (ackUpTo q.reqs s0 qp (before psn) []) qp
      | .nakRnr psn =>
        let s1 := ackUpTo q.reqs s0 qp (before psn) []
        let y := qpOf s1 qp
        if y.rnrRetry ≠ 7 ∧ y.rnrs ≥ y.rnrRetry then qpError s1 qp 0x0681 2 []
        else goBackN (modQp s1 qp fun z => { z with rnrs := z.rnrs + 1 }) qp
      | .nak psn => qpError (ackUpTo q.reqs s0 qp (before psn) []) qp 0x0681 1 [])

/-- TIMEOUT passes without an acknowledgement; TIMEOUT 0 means none. -/
def execRoceAckTimeout (qp : Nat) (s : State) : Host.Outcome State Fault Refusal := onNode s fun s =>
  onQp qp (
    let q := qpOf s qp
    if q.st = 3 ∧ q.timeout ≠ 0 ∧ q.reqs ≠ [] then retryQp s qp else s)

/-! ## Queue pairs (R313) -/

/-- A ring word's reserved bits. -/
def ringReserved (w : Nat) : Bool := bits w 63 56 != 0 || bits w 11 5 != 0

/-- Whether an image has a reserved bit set. -/
def imageReserved (l : List Byte) : Bool :=
  let f := descField l
  decide (f 0 1 ≥ 8) || decide (f 1 1 ≥ 4) || decide (f 3 1 ≥ 32) || decide (f 4 1 ≥ 128) || decide (f 5 1 ≥ 64) || decide (f 6 1 ≥ 8) ||
  f 11 1 != 0 || ringReserved (f 44 8) || ringReserved (f 52 8) || f 60 4 != 0

/-- Whether a state change is legal: RESET to INIT to RTR to RTS, any to ERROR, any to RESET. -/
def qpLegal (old new : Nat) : Bool := new == 0 || new == 4 || (decide (new ≤ 3) && new == old + 1)

/-- A refused command (R313). -/
def qpRefused (s : Node) (base : Nat) : Node := fSet s (bLoc .roceQpStatus base) fRoceQpStatusErr 1

/-- The address that ROCE_QP_ADDR holds. -/
def qpImageAddr (s : Node) (base : Nat) : Nat := fGet s (bLoc .roceQpAddr base) fRoceQpAddrAddr * 64

/-- Loads the fields of an image; RTR to RTS keeps what the responder has reached. -/
def loadQp (y : Qp) (l : List Byte) : Qp :=
  let f := descField l
  let st := f 0 1
  let z : Qp := { y with
    st := st, port := f 1 1, pmtu := f 2 1, timeout := f 3 1, retry := f 4 1 % 8, rnrRetry := f 4 1 / 16, dscp := f 5 1, prio := f 6 1
    hopLimit := f 7 1, destQpn := f 8 3, sqPsn := f 12 4 % 2 ^ 24, dmac := f 20 6, sport := f 26 2, dip := f 28 16
    sq := f 44 8, rq := f 52 8, rqPsn := if st = 3 then y.rqPsn else f 16 4 % 2 ^ 24 }
  if st = 0 then { z with sqPi := 0, sqCi := 0, rqCi := 0, rate := none, cutAt := none, retries := 0, rnrs := 0, reqs := [], atomics := [], msg := none, dup := none } else z

/-- Command 1: loads the image and makes a legal state change. -/
def qpLoad (s : Node) (base x : Nat) : Node :=
  let a := qpImageAddr s base
  let s1 := agentTouch s base clsDma a 64
  let l := readBytes s1 a 64
  match firstPoison s1 a 64 with
  | some p => qpRefused (poisonAgent s1 (12 + base) 0x40 p) base
  | none =>
    if !inHbm s a 64 || imageReserved l || !qpLegal (qpOf s x).st (descField l 0 1) then qpRefused s1 base
    else if descField l 0 1 = 4 then modQp (qpFlush s1 x 4) x fun y => loadQp y l
    else if descField l 0 1 = 0 then modQp (qpFlush s1 x 4) x fun y => loadQp y l
    else modQp s1 x fun y => loadQp y l

def execRoceQpLoad (base qp : Nat) (s : State) : Host.Outcome State Fault Refusal := onServed s fun s =>
  if base < 4 ∧ qp < 4096 then .next (withResp (qpLoad s base qp) .done) else .fault .noSuchUnit

/-- The 64 bytes of a context. -/
def qpImage (y : Qp) : List Byte :=
  leBytes 1 y.st ++ leBytes 1 y.port ++ leBytes 1 y.pmtu ++ leBytes 1 y.timeout ++ leBytes 1 (y.retry + 16 * y.rnrRetry) ++ leBytes 1 y.dscp ++
    leBytes 1 y.prio ++ leBytes 1 y.hopLimit ++ leBytes 4 y.destQpn ++ leBytes 4 y.sqPsn ++ leBytes 4 y.rqPsn ++ leBytes 6 y.dmac ++
    leBytes 2 y.sport ++ leBytes 16 y.dip ++ leBytes 8 y.sq ++ leBytes 8 y.rq ++ leBytes 4 0

/-- Command 2: stores the context to the image. -/
def qpStore (s : Node) (base x : Nat) : Node :=
  let a := qpImageAddr s base
  if inHbm s a 64 then agentWrite s base a (qpImage (qpOf s x)) false else qpRefused s base

def execRoceQpStore (base qp : Nat) (s : State) : Host.Outcome State Fault Refusal := onServed s fun s =>
  if base < 4 ∧ qp < 4096 then .next (withResp (qpStore s base qp) .done) else .fault .noSuchUnit

/-- Command 3: destroys the context; what it had outstanding is flushed. -/
def qpDestroy (s : Node) (x : Nat) : Node := modQp (qpFlush s x 4) x fun _ => Qp.reset

def execRoceQpDestroy (base qp : Nat) (s : State) : Host.Outcome State Fault Refusal := onNode s fun s =>
  if base < 4 ∧ qp < 4096 then .next (withResp (qpDestroy s qp) .done) else .fault .noSuchUnit

/-- A write of ROCE_QP_CMD. -/
def qpCommand (s : Node) (base : Nat) (v : Word) : Node :=
  match wbits v 63 60 with
  | 1 => qpLoad s base (wbits v 11 0)
  | 2 => qpStore s base (wbits v 11 0)
  | 3 => qpDestroy s (wbits v 11 0)
  | _ => s

/-! ## Send entries and completions (R318) -/

/-- A new producer index, written at a base die, for a QP of that base die's front-end port (R322): more than the ring size
ahead of the consumer, the QP moves to ERROR. -/
def sqDoorbell (s : Node) (base : Nat) (v : Word) : Node :=
  let x := wbits v 11 0
  let pi := wbits v 47 32
  let q := qpOf s x
  if q.port ≠ base then s
  else if (pi + 65536 - q.sqCi) % 65536 > 2 ^ bits q.sq 4 0 then qpError s x 0x0682 4 []
  else
    let s1 := modQp s x fun y => { y with sqPi := pi }
    if q.st = 4 then qpFlush s1 x 4 else s1

def execRoceSqDb (base : Nat) (value : Word) (s : State) : Host.Outcome State Fault Refusal := onNode s fun s =>
  onBase base (withResp (sqDoorbell s base value) .done)

/-- Whether a send entry is malformed: an unknown OP, a reserved bit, or local bytes outside HBM. -/
def sendInvalid (s : Node) (l : List Byte) : Bool :=
  let op := descField l 0 1
  let n := if op ≥ 5 then 8 else descField l 4 4
  decide (op > 6) || decide (descField l 1 1 ≥ 4) || descField l 2 2 != 0 || descField l 56 8 != 0 ||
    (n != 0 && !inHbm s (descField l 8 8) n)

/-- Takes a QP's next send entry (R318): its line, and for an operation that sends data the data, are read through the
home; either of them poisoned stops the QP. -/
def sendEntry (s : Node) (x : Nat) : Node :=
  let q := qpOf s x
  let a := bits q.sq 55 12 * 4096 + q.sqCi % 2 ^ bits q.sq 4 0 * 64
  let s0 := agentTouch s q.port clsDma a 64
  let l := readBytes s0 a 64
  let op := descField l 0 1
  let flags := descField l 1 1
  let poisoned := fun s p => qpError (poisonAgent s (12 + q.port) 0x40 p) x 0x0681 4 []
  if q.st ≠ 3 ∨ q.sqCi = q.sqPi then s
  else if !inHbm s a 64 then qpError s x 0x0682 4 []
  else match firstPoison s0 a 64 with
  | some p => poisoned s0 p
  | none =>
    if sendInvalid s l then qpError s0 x 0x0682 4 []
    else if bit flags 1 && q.reqs.any (fun r => decide (r.op ≥ 4)) then s
    else
      let n := if op ≥ 5 then 8 else descField l 4 4
      let pa := descField l 8 8
      let s1 := modQp s0 x fun y => { y with sqCi := (y.sqCi + 1) % 65536 }
      let s2 := if op ≤ 3 then agentTouch s1 q.port clsDma pa n else s1
      let post := fun s data => qpPost s x (.entry (descField l 48 8) (bit flags 0)) op n pa (descField l 16 8) (descField l 24 4)
        (descField l 28 4) (descField l 32 8) (descField l 40 8) data
      if op ≤ 3 then match firstPoison s2 pa n with
        | some p => poisoned s2 p
        | none => post s2 (readBytes s2 pa n)
      else post s2 []

def execRoceSendEntry (qp : Nat) (s : State) : Host.Outcome State Fault Refusal := onServed s fun s => onQp qp (sendEntry s qp)

/-- Writes the oldest waiting completion record of a front-end port and then advances ROCE_CQ_TAIL; the port waits while
the ring is full. -/
def execRoceCompletionWrite (base : Nat) (s : State) : Host.Outcome State Fault Refusal := onServed s fun s =>
  onBase base (
    match tblGet [] s.roceCq base with
    | [] => s
    | r :: t =>
      let n := 2 ^ fGet s (bLoc .roceCqBase base) fRoceCqBaseLog2n
      let tail := fGet s (bLoc .roceCqTail base) fRoceCqTailIndex
      let head := fGet s (bLoc .roceCqHead base) fRoceCqHeadIndex
      let a := fGet s (bLoc .roceCqBase base) fRoceCqBaseBase * 4096 + tail % n * 32
      if (tail + 2 ^ 32 - head) % 2 ^ 32 ≥ n ∨ n < 64 ∨ !inHbm s a 32 then s
      else
        let s1 := agentWrite { s with roceCq := tblSet [] s.roceCq base t } base a r false
        fSet s1 (bLoc .roceCqTail base) fRoceCqTailIndex ((tail + 1) % 2 ^ 32))

end Sys2Proof.Machine
end

