-- ==== Sys2Proof/Machine/DzOps.lean ====
section
/-! DEFINITION. Shared operations of the Dziger engines: identity (R323), routing and spraying (R326 to R329), flows
(R330 to R332), and the end of remote accesses (R337). -/

namespace Sys2Proof.Machine

/-! ## Identity and units -/

/-- Whether an engine receives and forwards: ON or on its way to OFF (R345). -/
def dzRuns (s : Node) (b : Nat) : Bool :=
  let st := ctrlState s (bLoc .dzCtrl b)
  st == stOn || st == stDisabling || st == stPending

/-- Contexts in use at an engine (R330). -/
def contexts (s : Node) (b : Nat) : Nat :=
  ((s.fabric.sflows.filter fun p => flowBase (p.1 / 8) (p.1 % 8) == b).length) +
  ((s.fabric.rflows.filter fun p => flowBase (p.1 / 8) (p.1 % 8) == b).length)

/-- Whether an engine has a free context. -/
def contextFree (s : Node) (b : Nat) : Bool := decide (contexts s b < 16384)

/-- Traffic class of a packet type (R325). -/
def typeTc (t : Nat) : Nat :=
  match t with
  | 1 => 0
  | 2 => 0
  | 3 => 1
  | 4 => 1
  | 5 => 1
  | 6 => 2
  | 7 => 3
  | 8 => 4
  | 9 => 5
  | _ => 7

/-! ## Routing and spraying (R326 to R329) -/

/-- A packet leaves on fabric port FPp (R324, R325): its header, then whether its FCS is bad on purpose, its destination and
source addresses and its EtherType. -/
def emitOn (s : Node) (p : Nat) (k : DzPkt) (bad : Bool) : Node :=
  queueFrame s p ⟨portOfFp p, k.tc, .dziger,
    [k.type, k.tc, b2n k.first, b2n k.ce, k.hops, k.dst, k.src, k.job, k.epoch, k.seq, k.data.length, k.tag, k.addr, k.info, b2n bad,
      dzAddr ||| k.dst, dzAddr ||| selfEp s, 0x88B5], k.data⟩

/-- The fabric port of a base die at depth 4 or 5 through which packets to the node itself return: the lowest-numbered
one (R522). -/
def loopPort (s : Node) (b : Nat) : Option Nat :=
  ((List.range 4).map (b * 4 + ·)).find? fun p =>
    let n := portOfFp p
    isOn s (portCtrlLoc n) && portLink s n && decide ((portOf s n).depth ≥ 4)

/-- Sprays a packet; none where no port of its route is in the spray set. A packet to the node itself leaves through a
looped port where there is one. -/
def spray (s : Node) (k : DzPkt) (bad : Bool) : Option Node :=
  match (if k.dst = selfEp s then (List.range 4).findSome? (loopPort s) else none) with
  | some p => some (emitOn s p k bad)
  | none => (choosePort s (routeMask s k.dst) k.tc).map fun p => emitOn (modFab s fun f => { f with last := p }) p k bad

/-- Sprays a packet or drops it, counted in NO_ROUTE of a base die; one of this node's own then fails what it was sent for
(R326). -/
def sprayOrDrop (s : Node) (b : Nat) (k : DzPkt) (bad : Bool) : Node :=
  match spray s k bad with
  | some t => t
  | none => noRoute s b k.dst k.tc k.seq (k.src == selfEp s)

/-- A packet that this node originates, not yet numbered. -/
def ownPkt (s : Node) (type dst tag addr info : Nat) (data : List Byte) : DzPkt :=
  ⟨1, type, typeTc type, false, false, max 1 (fGet s (bLoc .dzCtrl 0) fDzCtrlHops), dst, selfEp s, selfJob s, selfEpoch s, 0, tag, addr, info, data⟩

/-- Queues a packet to be sent. -/
def originate (s : Node) (who : DzWho) (k : DzPkt) : Node := modFab s fun f => { f with waiting := f.waiting ++ [⟨k, who, 0⟩] }

/-! ## Acknowledgements (R331, R332) -/

/-- Sends an ACK of a receiver's flow: it names the number before the next expected one; the flow's class travels in
TAG, since the header's own class is 7. -/
def sendAck (s : Node) (peer tc : Nat) : Node :=
  match rflowOf s peer tc with
  | none => s
  | some r =>
    let s1 := setRflow s peer tc (some { r with since := 0, ece := false })
    let k := ownPkt s 0xA peer tc 0 (b2n r.ece) []
    sprayOrDrop s1 (flowBase peer tc) { k with seq := wrap 32 ((r.expect : Int) - 1) } false

/-- Sends a NAK: 0 GAP, 1 RESYNC, 2 BUSY. -/
def sendNak (s : Node) (peer tc seq kind : Nat) : Node :=
  let k := ownPkt s 0xB peer tc 0 kind []
  sprayOrDrop (dzCount s (flowBase peer tc) cNaksSent) (flowBase peer tc) { k with seq := seq } false

/-- The packet that a receiver performs next, when it is of a given type. -/
def nextPkt (s : Node) (peer tc type : Nat) : Option DzPkt :=
  (rflowOf s peer tc).bind fun r => r.held.find? fun k => k.seq == r.expect && k.type == type

/-- Moves past a performed packet; the ACK goes after 16 of them. -/
def performed (s : Node) (peer tc : Nat) (k : DzPkt) : Node :=
  match rflowOf s peer tc with
  | none => s
  | some r =>
    let r1 : RFlow := ⟨(r.expect + 1) % 2 ^ 32, r.held.filter (fun x => x.seq != k.seq), r.since + 1, r.ece || k.ce⟩
    let s1 := setRflow s peer tc (some r1)
    if r1.since ≥ 16 then sendAck s1 peer tc else s1

/-- A packet has been acknowledged: a STORE or a PUT of the Ledger ends, a PUT or MSG entry counts it. -/
def ackedWho (s : Node) (who : DzWho) : Node :=
  match who with
  | .op id =>
    match liveRemote s id with
    | some r => if r.kind = 1 ∨ r.kind = 3 then endRemote s r 0 [] else s
    | none => match cmdBase s id with
      | none => s
      | some b => modDz s b fun x => { x with cmds := x.cmds.map fun c =>
          if c.id = id ∧ c.op ≠ 2 ∧ c.status = none then
            { c with left := c.left - 1, got := if c.left = 1 then c.len else c.got, status := if c.left = 1 then some 0 else none }
          else c }
  | _ => s

/-! ## Sending (R330) -/

/-- The class that a remote access travels in: LOAD, STORE and ATOMIC 1, PUT and GET 0. -/
def remoteTc (r : RemoteReq) : Nat := if r.kind ≤ 2 then 1 else 0

/-- The offsets a store's bytes cover, when they are contiguous: first offset and the bytes in order. -/
def contiguous (l : List (Nat × Byte)) : Option (Nat × List Byte) :=
  let lo := l.foldl (fun m p => min m p.1) 4096
  let vs := (List.range l.length).map fun i => (l.find? fun p => p.1 == lo + i).map (·.2)
  if vs.all (·.isSome) then some (lo, vs.map fun v => v.getD 0) else none

/-- The packet of a remote access (R325, R335). -/
def remotePkt (s : Node) (r : RemoteReq) : DzPkt :=
  let tag := opTag r.id
  match r.kind with
  | 0 => ownPkt s 3 r.ep tag r.addr (r.len - 1) []
  | 1 =>
    let base := r.addr - r.addr % lineBytes
    match contiguous r.bytes with
    | some (lo, vs) => ownPkt s 4 r.ep tag (base + lo) (b2n r.poisoned) vs
    | none =>
      let mask := maskOf (r.bytes.map (·.1))
      let vs := (List.range lineBytes).map fun i => ((r.bytes.find? fun p => p.1 == i).map (·.2)).getD 0
      ownPkt s 4 r.ep tag base (b2n r.poisoned + 2) (leBytes 16 mask ++ vs)
  | 2 => ownPkt s 5 r.ep tag r.addr (r.func + (if r.len = 8 then 256 else 0))
      (if r.func = 9 then leBytes 8 r.cmp ++ leBytes 8 r.arg else leBytes 8 r.arg)
  | 3 => ownPkt s 1 r.ep tag r.addr (b2n r.poisoned) (r.bytes.map (·.2))
  | _ => ownPkt s 2 r.ep tag r.addr r.len []

/-- What an endpoint pair's flow sends next: a remote access, else a queued packet. -/
def nextToSend (s : Node) (peer tc : Nat) : Option DzOut :=
  match s.remotes.find? (fun r => !r.sent && r.result.isNone && r.ep == peer && remoteTc r == tc) with
  | some r => some ⟨remotePkt s r, .op r.id, 0⟩
  | none => s.fabric.waiting.find? fun o => o.pkt.dst == peer && o.pkt.tc == tc

/-- Takes it from where it waited. -/
def dropToSend (s : Node) (peer tc : Nat) (o : DzOut) : Node :=
  let own := match o.who with
    | .op id => s.remotes.any fun r => r.id == id
    | _ => false
  if own then { s with remotes := s.remotes.map fun r => if DzWho.op r.id = o.who then { r with sent := true } else r }
  else modFab s fun f => { f with waiting := dropFirst (fun x => x.pkt.dst == peer && x.pkt.tc == tc) f.waiting }

/-- Whether a command entry in progress has its request gone on a flow: a GET that waits for its bytes. -/
def getGone (s : Node) (peer tc : Nat) (c : DzCmd) : Bool :=
  c.op == 2 && c.status.isNone && c.ep == peer && tc == 0 && !s.fabric.waiting.any fun o => o.who == .op c.id

/-- A flow fails (R332): its outstanding operations fail, its context is released, and one record is written. -/
def failFlow (s : Node) (peer tc : Nat) : Node :=
  match sflowOf s peer tc with
  | none => s
  | some f =>
    let s1 := logErr (setSflow s peer tc none) (12 + flowBase peer tc) 0x41 0x0602 0 []
    let s2 := f.unacked.foldl (fun s o => failWho s o.who peer 0x0602) s1
    let s3 := (s2.remotes.filter fun r => r.sent && r.result.isNone && r.ep == peer && remoteTc r == tc).foldl (fun s r => failOp s r.id 0x0602) s2
    let gets := (List.range 4).flatMap fun b => (dzOf s3 b).cmds.filter (getGone s3 peer tc)
    gets.foldl (fun s c => failOp s c.id 0x0602) s3

/-- Whether a sent packet is a chunk that was forwarded with a bad FCS and whose good copy has not yet come (R344). -/
def badChunk (s : Node) (peer tc seq : Nat) : Bool :=
  tc == 5 && s.fabric.badFwd.any fun x => x.2.2.1 == peer && x.2.2.2 == seq

/-- Sends one sent packet of a flow again, sprayed afresh; after RETRY sendings the flow fails instead (R332). A chunk whose
good copy has not yet come is not sent (R344). -/
def resendPkt (s : Node) (peer tc seq : Nat) : Node :=
  match sflowOf s peer tc with
  | none => s
  | some f =>
    match f.unacked.find? (fun o => o.pkt.seq == seq) with
    | none => s
    | some o =>
      if badChunk s peer tc seq then s
      else if o.sends ≥ max 1 (fGet s (bLoc .dzCtrl (flowBase peer tc)) fDzCtrlRetry) then failFlow s peer tc
      else
        let s1 := setSflow s peer tc (some { f with unacked := modFirst (fun x => x.pkt.seq == seq) (fun x => { x with sends := x.sends + 1 }) f.unacked })
        sprayOrDrop (dzCount s1 (flowBase peer tc) cRetransmits) (flowBase peer tc) o.pkt false

end Sys2Proof.Machine
end

