-- ==== Sys2Proof/Machine/Dziger.lean ====
section
/-! DEFINITION. Dziger: frames, packets performed at the target, acknowledgements, retransmission, keepalives, command
rings (R323 to R347). -/

namespace Sys2Proof.Machine

/-- Runs `t` for a fabric port, named by its port number. -/
def onFp (p : Nat) (t : Node) : Host.Outcome Node Fault Refusal :=
  if p < 20 ∧ !isFe p then .next t else .fault .noSuchUnit

/-! ## The Ridge's shared operations (R342 to R344) -/

/-- Word `w` of tree `t`. -/
def treeWord (s : Node) (t w : Nat) : Nat := (regGet s (bLoc .ridgeTree 0 [t, w])).toNat

/-- Whether a tree is valid, its parent, its children, region and length. -/
def treeValid (s : Node) (t : Nat) : Bool := bit (treeWord s t 0) 63
def treeParent (s : Node) (t : Nat) : Nat := bits (treeWord s t 0) 17 0
def treeChildren (s : Node) (t : Nat) : List Nat :=
  (List.range (min 8 (bits (treeWord s t 0) 59 56))).map fun c =>
    let w := treeWord s t (1 + c / 2)
    if c % 2 = 0 then bits w 17 0 else bits w 49 32
def treeRegion (s : Node) (t : Nat) : Nat := bits (treeWord s t 5) 55 12 * 4096
def treeLength (s : Node) (t : Nat) : Nat := bits (treeWord s t 6) 39 0

/-- Whether a chunk is acceptable: the entry is VALID, SRC is PARENT, and it lies wholly within LENGTH. -/
def chunkFits (s : Node) (k : DzPkt) : Bool :=
  let t := k.tag % 256
  treeValid s t && k.src == treeParent s t && decide (k.addr + k.data.length ≤ treeLength s t)

/-- Whether a broadcast of a tree from this node is still being sent. -/
def ridgeBusy (s : Node) (t : Nat) : Bool :=
  s.fabric.waiting.any (fun o => o.who == .ridge t) ||
  s.fabric.sflows.any fun p => p.2.any fun f => f.unacked.any fun o => o.who == .ridge t

/-- Queues a tree's region to each child, in chunks of up to 8,192 bytes; a poisoned chunk is not sent (R241). -/
def ridgeStart (s : Node) (t : Nat) : Node :=
  let len := treeLength s t
  let a := treeRegion s t
  (List.range (ceilDiv len 8192)).foldl (fun s i =>
    let n := min 8192 (len - i * 8192)
    let s1 := agentTouch s (t % 4) clsDma (a + i * 8192) n
    match firstPoison s1 (a + i * 8192) n with
    | some l => poisonAgent s1 (12 + t % 4) 0x43 l
    | none => (treeChildren s t).foldl (fun s c =>
        originate s (.ridge t) (ownPkt s 9 c t (i * 8192) 0 (readBytes s (a + i * 8192) n))) s1) s

/-- Starts the next broadcast that waited for an earlier one of its tree. -/
def ridgeOne (s : Node) : Node :=
  match s.fabric.ridgeWait.find? fun t => !ridgeBusy s t with
  | none => s
  | some t => ridgeStart (modFab s fun f => { f with ridgeWait := dropFirst (fun x => x == t) f.ridgeWait }) t

/-- After flows have released packets, or failed, every broadcast starts that waited for one now at its end (R343). -/
def ridgeNext (s : Node) : Node := (List.range s.fabric.ridgeWait.length).foldl (fun s _ => ridgeOne s) s

/-! ## Frames (R324, R326, R328, R330, R331, R333) -/

/-- Keeps a numbered packet in its flow, or drops it (R330, R331). -/
def flowReceive (s : Node) (k : DzPkt) : Node :=
  let tc := typeTc k.type
  let b := flowBase k.src tc
  let keep := fun (s : Node) (r : RFlow) =>
    let d := signed 32 (wrap 32 ((k.seq : Int) - (r.expect : Int)))
    if d < 0 then sendAck (dzCount s b cDupDrops) k.src tc
    else if d ≥ 1024 then dzCount s b cDupDrops
    else if r.held.any (fun x => x.seq == k.seq) then sendAck (dzCount s b cDupDrops) k.src tc
    else setRflow s k.src tc (some { r with held := r.held ++ [k] })
  if !dzRuns s b then s
  else match rflowOf s k.src tc with
  | some r => keep s r
  | none =>
    if !k.first then sendNak s k.src tc k.seq 1
    else if !contextFree s b then dzCount s b cFlowFull
    else keep s RFlow.start

/-- An ACK (R329, R332): it releases every packet up to the number it names, and ECE halves the window. -/
def takeAck (s : Node) (k : DzPkt) : Node :=
  let tc := k.tag % 8
  match sflowOf s k.src tc with
  | none => s
  | some f =>
    let done := fun (o : DzOut) => decide (signed 32 (wrap 32 ((k.seq : Int) - (o.pkt.seq : Int))) ≥ 0)
    let cut := bit k.info 0 && !(f.cutAt.any fun t => decide (s.now < t + 50000))
    let f1 : SFlow := { f with acked := true, unacked := f.unacked.filter (fun o => !done o)
                               window := if cut then max 16 (f.window / 2) else f.window
                               cutAt := if cut then some s.now else f.cutAt }
    (f.unacked.filter done).foldl (fun s o => ackedWho s o.who) (setSflow s k.src tc (some f1))

/-- A NAK (R331, R332): RESYNC renumbers the unacknowledged packets from 0 with FIRST and sends them again, but chunks
whose good copy has not yet come (R344); GAP and BUSY send the named packet again. -/
def takeNak (s : Node) (k : DzPkt) : Node :=
  let tc := k.tag % 8
  match sflowOf s k.src tc with
  | none => s
  | some f =>
    if bits k.info 1 0 = 1 then
      if f.unacked.any fun o => decide (o.sends ≥ max 1 (fGet s (bLoc .dzCtrl (flowBase k.src tc)) fDzCtrlRetry)) then failFlow s k.src tc
      else
      let l := (f.unacked.zipIdx).map fun (o, i) => (o.pkt.seq, { o with
        pkt := { o.pkt with seq := i, first := true }, sends := if badChunk s k.src tc o.pkt.seq then o.sends else o.sends + 1 })
      let number := fun (x : Nat × Nat × Nat × Nat) =>
        if tc = 5 ∧ x.2.2.1 = k.src then (x.1, x.2.1, x.2.2.1, (l.find? fun p => p.1 == x.2.2.2).elim x.2.2.2 (·.2.pkt.seq)) else x
      let s1 := setSflow s k.src tc (some { f with next := l.length, acked := false, unacked := l.map (·.2) })
      let s2 := modFab s1 fun x => { x with badFwd := x.badFwd.map number }
      l.foldl (fun t p => if badChunk s k.src tc p.1 then t
        else sprayOrDrop (dzCount t (flowBase k.src tc) cRetransmits) (flowBase k.src tc) p.2.pkt false) s2
    else if bits k.info 1 0 = 3 then s
    else resendPkt s k.src tc k.seq

/-- A KEEPALIVE (R340): its SRC is the port's neighbour; one that fails CHECK leaves the port MISMATCHED, one that passes
clears LOST and MISMATCHED and returns the port to the spray set (R341). -/
def takeKeepalive (s : Node) (port : Nat) (k : DzPkt) : Node :=
  let p := fpOfPort port
  let l := dzPort p
  let s1 := modFab (fSet s l fDzPortNbEp k.src) fun f => { f with heard := tblSet false f.heard port true }
  if fGet s l fDzPortCheck = 1 ∧ fGet s l fDzPortPeer ≠ k.src then
    let s2 := fSet s1 l fDzPortMismatch 1
    if fGet s l fDzPortMismatch = 1 then s2 else logErr s2 (12 + port / 5) 0x41 0x0605 0 []
  else modPort (fSet (fSet s1 l fDzPortMismatch 0) l fDzPortLost 0) port fun x => { x with needKa := false }

/-- A chunk forwarded cut-through before its FCS proved bad takes numbers in its children's flows (R344). -/
def forwardBad (s : Node) (k : DzPkt) : Node :=
  let t := k.tag % 256
  (treeChildren s t).foldl (fun s c =>
    let b := flowBase c 5
    let f := (sflowOf s c 5).getD SFlow.start
    if !dzOn s b || ((sflowOf s c 5).isNone && !contextFree s b) || decide (f.unacked.length ≥ f.window) then s
    else
      let q := { ownPkt s 9 c k.tag k.addr 0 k.data with seq := f.next, first := !f.acked }
      let s1 := setSflow s c 5 (some { f with next := (f.next + 1) % 2 ^ 32, unacked := f.unacked ++ [⟨q, .ridge t, 1⟩] })
      sprayOrDrop (modFab s1 fun x => { x with badFwd := x.badFwd ++ [(t, k.addr, c, f.next)] }) b q true) s

/-- Whether a packet addressed to this node is of its job and epoch (R333). -/
def jobMatches (s : Node) (k : DzPkt) : Bool :=
  k.job == selfJob s && k.epoch == selfEpoch s && k.job != 0

/-- A frame whose destination address is Dziger's (R324) reaches a fabric port: KEEPALIVE is never forwarded, a packet for another node is forwarded by the route
table, a packet for this node passes the job filter and joins its flow. -/
def frameIn (s : Node) (port : Nat) (k : DzPkt) (fcsOk : Bool) : Node :=
  let b := port / 5
  if !portLink s port || (portOf s port).depth == 2 || !dzRuns s b then s
  else if k.ver ≠ 1 ∨ k.type = 0 ∨ k.type > 0xC then portCount s port cRxDropped 1
  else if k.type = 0xC then (if fcsOk then takeKeepalive s port k else s)
  else if k.dst ≠ selfEp s then
    if k.hops = 0 then dzCount s b cHopDrops
    else sprayOrDrop s b { k with hops := k.hops - 1 } (!fcsOk)
  else if !jobMatches s k then (if fcsOk then dzCount s b cStaleJob else s)
  else if !fcsOk then
    (if k.type = 9 ∧ chunkFits s k ∧ (rflowOf s k.src 5).any (fun r => decide (signed 32 (wrap 32 ((k.seq : Int) - (r.expect : Int))) ≥ 0))
      then forwardBad s k else s)
  else if k.type = 0xA then takeAck s k
  else if k.type = 0xB then takeNak s k
  else flowReceive s k

def execDzFrameReceive (port : Nat) (pkt : DzPkt) (fcsOk : Bool) (s : State) : Host.Outcome State Fault Refusal := onServed s fun s =>
  onFp port (ridgeNext (frameIn s port pkt fcsOk))

/-! ## Sending (R326, R327, R330, R335) -/

/-- Numbers the next packet of a flow and sprays it; it waits for a context and for the window. A packet without a route
fails what it was sent for. -/
def sendNext (s : Node) (peer tc : Nat) : Node :=
  let b := flowBase peer tc
  match nextToSend s peer tc with
  | none => s
  | some o =>
    let f := (sflowOf s peer tc).getD SFlow.start
    let held := sflowOf s peer tc
    let isOp := match o.who with
      | .op id => s.remotes.any fun r => r.id == id
      | _ => false
    if !dzOn s b && (isOp || held.isNone) then failWho (dropToSend s peer tc o) o.who peer 0x0608
    else if (held.isNone && !contextFree s b) || decide (f.unacked.length ≥ f.window) then s
    else
      let k := { o.pkt with seq := f.next, first := !f.acked }
      match spray (dropToSend s peer tc o) k false with
      | none => failWho (dzCount (dropToSend s peer tc o) b cNoRoute) o.who peer 0x0608
      | some s1 =>
        setSflow s1 peer tc (some { f with next := (f.next + 1) % 2 ^ 32, unacked := f.unacked ++ [⟨k, o.who, 1⟩] })

def execDzSend (peer tc : Nat) (s : State) : Host.Outcome State Fault Refusal := onServed s fun s => .next (ridgeNext (sendNext s peer tc))

/-! ## Packets performed at the target (R336, R339) -/

/-- Whether a range lies wholly in HBM and in the remote window. -/
def rwinHolds (s : Node) (a n : Nat) : Bool :=
  inHbm s a n && decide (fGet s (bLoc .dzRwinBase 0) fDzRwinBaseAddr * 4096 ≤ a) && decide (a + n ≤ fGet s (bLoc .dzRwinLimit 0) fDzRwinLimitAddr * 4096)

/-- Answers a request with RESP; STATUS 0 OK, 1 REFUSED, 2 POISON. -/
def respond (s : Node) (k : DzPkt) (addr status : Nat) (last : Bool) (data : List Byte) : Node :=
  originate s .resp (ownPkt s 6 k.src k.tag addr (status + (if last then 16 else 0)) data)

/-- Performs the next packet of a flow when it is of a given type. -/
def perform (s : Node) (peer type : Nat) (f : DzPkt → Node) : Node :=
  match nextPkt s peer (typeTc type) type with
  | none => s
  | some k => performed (f k) peer (typeTc type) k

/-- A PUT writes its data, poisoned if it says so. -/
def execDzPut (peer : Nat) (s : State) : Host.Outcome State Fault Refusal := onServed s fun s =>
  .next (perform s peer 1 fun k =>
    if rwinHolds s k.addr k.data.length then agentWrite s (flowBase peer 0) k.addr k.data (bit k.info 0) else respond s k 0 1 false [])

/-- A GET is answered in RESP packets of up to 8,192 bytes, the final one with LAST. -/
def getPieces (s : Node) (k : DzPkt) (n : Nat) : List Nat → Node
  | [] => s
  | i :: t =>
    let len := min 8192 (n - i * 8192)
    let a := k.addr + i * 8192
    let st := if (firstPoison s a len).isSome then 2 else 0
    getPieces (respond s k (i * 8192) st t.isEmpty (readBytes s a len)) k n t

def execDzGet (peer : Nat) (s : State) : Host.Outcome State Fault Refusal := onServed s fun s =>
  .next (perform s peer 2 fun k =>
    if rwinHolds s k.addr k.info then getPieces (agentTouch s (flowBase peer 0) clsDma k.addr k.info) k k.info (List.range (max 1 (ceilDiv k.info 8192)))
    else respond s k 0 1 true [])

/-- A LOAD must not cross a 4 KiB boundary. -/
def execDzLoad (peer : Nat) (s : State) : Host.Outcome State Fault Refusal := onServed s fun s =>
  .next (perform s peer 3 fun k =>
    let n := bits k.info 11 0 + 1
    if rwinHolds s k.addr n && decide (k.addr % 4096 + n ≤ 4096) then
      let s1 := agentTouch s (flowBase peer 1) clsDma k.addr n
      respond s1 k 0 (if (firstPoison s1 k.addr n).isSome then 2 else 0) false (readBytes s1 k.addr n)
    else respond s k 0 1 false [])

/-- A STORE must not cross a line; a MASKED one carries a mask of the bytes of its line and then the line. -/
def execDzStore (peer : Nat) (s : State) : Host.Outcome State Fault Refusal := onServed s fun s =>
  .next (perform s peer 4 fun k =>
    if bit k.info 1 then
      let base := k.addr - k.addr % lineBytes
      let mask := leValue (k.data.take 16)
      let l := (ones lineBytes mask).map fun o => (base + o, (k.data.drop 16).getD o 0)
      if rwinHolds s base lineBytes && k.data.length == 144 then dmaWriteList s (flowBase peer 1) l (bit k.info 0) else respond s k 0 1 false []
    else if rwinHolds s k.addr k.data.length && decide (k.addr % lineBytes + k.data.length ≤ lineBytes) then
      agentWrite s (flowBase peer 1) k.addr k.data (bit k.info 0)
    else respond s k 0 1 false [])

/-- An ATOMIC must be aligned to its size; its operands are the argument, or the compare value and the argument. It is
performed as an Atom at the home (R218). -/
def execDzAtomic (peer : Nat) (s : State) : Host.Outcome State Fault Refusal := onServed s fun s =>
  .next (perform s peer 5 fun k =>
    let n := if bit k.info 8 then 8 else 4
    let func := bits k.info 4 0
    let a := leValue (k.data.take 8)
    let c := leValue ((k.data.drop 8).take 8)
    if rwinHolds s k.addr n && aligned n k.addr then
      if readsPoison s 12 (lineOf k.addr) then respond s k 0 2 false (leBytes n (readLE s k.addr n))
      else
        let (s1, old) := if func = 9 then homeAtom s (flowBase peer 1) k.addr n 9 c a else homeAtom s (flowBase peer 1) k.addr n func a 0
        respond s1 k 0 0 false (leBytes n old)
    else respond s k 0 1 false [])

/-- The error code of a RESP's STATUS. -/
def respCode (status : Nat) : Nat := if status = 1 then 0x0601 else if status = 2 then 0x0105 else 0

/-- A RESP of a GET entry (R338): its bytes land as they come; LAST ends the entry. -/
def getResp (s : Node) (b : Nat) (c : DzCmd) (k : DzPkt) : Node :=
  let st := bits k.info 3 0
  let s1 := if st = 0 ∧ inHbm s (c.localPa + k.addr) k.data.length then agentWrite s b (c.localPa + k.addr) k.data false else s
  let s2 := modDz s1 b fun x => { x with cmds := x.cmds.map fun y => if y.id = c.id then
    { y with got := if st = 0 then y.got + k.data.length else y.got, left := if st = 0 ∨ y.left > 1 then y.left else cmdStatus (respCode st) + 1 } else y }
  if bit k.info 4 ∨ st = 1 then
    let bad := ((dzOf s2 b).cmds.find? fun y => y.id == c.id).elim 0 (·.left)
    endCmd (if bad = 2 ∧ c.status = none then logCmd s2 b c 0x0601 else s2) c.id (bad - 1)
  else s2

/-- A PUT or MSG entry that has not completed takes a refusal, though its packets were acknowledged (R336, R338). -/
def refuseCmd (s : Node) (b : Nat) (c : DzCmd) (status : Nat) : Node :=
  let s1 := modDz s b fun x => { x with cmds := x.cmds.map fun y => if y.id = c.id then { y with status := some status, got := 0 } else y }
  if status = 1 then logCmd s1 b c 0x0601 else s1

/-- The command entry that a RESP's tag names (R338): a MSG by its queue and entry, another by its operation tag. -/
def cmdOfTag (k : DzPkt) (c : DzCmd) : Bool :=
  c.ep == k.src && (c.status.isNone || (c.status == some 0 && c.op != 2)) &&
    (if c.op = 3 then msgTag c.id c.addr == k.tag else opTag c.id == k.tag)

/-- A RESP completes the access or entry whose tag it echoes, or fails it as refused or poisoned (R337); a refusal also
reaches a store that was acknowledged before. A GET's last piece ends it. -/
def takeResp (s : Node) (k : DzPkt) : Node :=
  let code := respCode (bits k.info 3 0)
  match s.remotes.find? (fun r => r.sent && r.result.isNone && r.ep == k.src && opTag r.id == k.tag) with
  | some r => if r.kind = 4 ∧ !bit k.info 4 ∧ code ≠ 0x0601 then s else endRemote s r code k.data
  | none =>
    match firstBelow 4 fun b => (dzOf s b).cmds.any (cmdOfTag k) with
    | some b => match (dzOf s b).cmds.find? (cmdOfTag k) with
      | none => s
      | some c => if c.op = 2 then getResp s b c k else if code ≠ 0 then refuseCmd s b c (cmdStatus code) else s
    | none => match s.remotes.find? (fun r => ackedStore r && r.ep == k.src && opTag r.id == k.tag) with
      | some r => if code ≠ 0 then endRemote s r code [] else s
      | none => s

def execDzResp (peer : Nat) (s : State) : Host.Outcome State Fault Refusal := onServed s fun s => .next (perform s peer 6 (takeResp s))

/-- The header of a packet as received, in network order (R325, R339). -/
def dzHeader (k : DzPkt) : List Byte :=
  beBytes 1 (k.ver * 16 + k.type) ++ beBytes 1 (k.tc * 32 + b2n k.first * 16 + b2n k.ce * 8 + k.hops % 8) ++ beBytes 3 k.dst ++ beBytes 3 k.src ++
    beBytes 2 k.job ++ beBytes 2 k.epoch ++ beBytes 4 k.seq ++ beBytes 2 k.data.length ++ beBytes 2 k.tag ++ beBytes 8 k.addr ++ beBytes 4 k.info

/-- How a message queue takes a message: in a slot, refused, or full for now. -/
inductive MsgTaken where
  | taken (t : Node)
  | refused
  | full

/-- Writes a message into slot TAIL of its queue (R339): a queue without a ring, or a message too long for a slot, is
refused. -/
def msgPut (s : Node) (k : DzPkt) : MsgTaken :=
  let m := k.tag % 256
  let loc := fun r => bLoc r (m / 64) [m % 64]
  let n := fGet s (loc .dzMqBase) fDzMqBaseLog2n
  let ls := fGet s (loc .dzMqBase) fDzMqBaseLog2slot
  let slot := 2 ^ (if 6 ≤ ls ∧ ls ≤ 14 then ls else 6)
  let tail := fGet s (loc .dzMqTail) fDzMqTailIndex
  let head := fGet s (loc .dzMqHead) fDzMqHeadIndex
  let a := fGet s (loc .dzMqBase) fDzMqBaseBase * 4096 + tail % 2 ^ n * slot
  if n = 0 ∨ 32 + k.data.length > slot ∨ !inHbm s a slot then .refused
  else if (tail + 2 ^ 32 - head) % 2 ^ 32 ≥ 2 ^ n then .full
  else .taken (fSet (agentWrite s (m / 64) a (dzHeader k ++ k.data) false) (loc .dzMqTail) fDzMqTailIndex ((tail + 1) % 2 ^ 32))

/-- A MSG: a full ring answers NAK BUSY and the packet is not performed; a refused message is answered REFUSED. -/
def execDzMsg (peer : Nat) (s : State) : Host.Outcome State Fault Refusal := onServed s fun s =>
  .next (
    match nextPkt s peer 3 7 with
    | none => s
    | some k =>
      match msgPut s k with
      | .taken t => performed t peer 3 k
      | .refused => performed (respond s k 0 1 false []) peer 3 k
      | .full =>
        let s1 := sendNak s peer 3 k.seq 2
        match rflowOf s1 peer 3 with
        | none => s1
        | some r => setRflow s1 peer 3 (some { r with held := r.held.filter fun x => x.seq != k.seq }))

/-! ## The Ridge (R342 to R344) -/

/-- RIDGE_GO (R343). -/
def ridgeGoWrite (s : Node) (v : Word) : Node :=
  let t := wbits v 7 0
  let w := treeWord s t 0
  if !bit w 63 || !bit w 62 then (List.range 4).foldl (fun s b => fSet s (bLoc .ridgeStatus b) fRidgeStatusGoIgnored 1) s
  else if ridgeBusy s t then modFab s fun f => { f with ridgeWait := f.ridgeWait ++ [t] }
  else ridgeStart s t

def execRidgeGo (value : Word) (s : State) : Host.Outcome State Fault Refusal := onServed s fun s => .next (withResp (ridgeGoWrite s value) .done)

/-- Forwards a good chunk to the children: under the numbers it already took where it was forwarded with a bad FCS. -/
def forwardChunk (s : Node) (k : DzPkt) : Node :=
  let t := k.tag % 256
  (treeChildren s t).foldl (fun s c =>
    match s.fabric.badFwd.find? fun x => x.1 == t && x.2.1 == k.addr && x.2.2.1 == c with
    | none => originate s (.ridge t) (ownPkt s 9 c t k.addr 0 k.data)
    | some x =>
      let s1 := modFab s fun f => { f with badFwd := dropFirst (fun y => y == x) f.badFwd }
      match sflowOf s1 c 5 with
      | none => originate s1 (.ridge t) (ownPkt s1 9 c t k.addr 0 k.data)
      | some f =>
        let l := f.unacked.map fun o => if o.pkt.seq = x.2.2.2 then { o with pkt := { o.pkt with data := k.data } } else o
        resendPkt (setSflow s1 c 5 (some { f with unacked := l })) c 5 x.2.2.2) s

/-- A chunk (R344): checked, written, counted and forwarded. -/
def ridgeChunk (s : Node) (k : DzPkt) : Node :=
  let t := k.tag % 256
  let b := t % 4
  if !chunkFits s k then
    logErr (cntAdd s (bLoc .ridgeDrops b) 1) (12 + b) 0x43 0x0607 0 []
  else
    let a := treeRegion s t + k.addr
    let s1 := forwardChunk (if inHbm s a k.data.length then agentWrite s b a k.data false else s) k
    let n := fGet s1 (bLoc .ridgeBytes b [t]) fRidgeBytesCount + k.data.length
    if n < treeLength s t then fSet s1 (bLoc .ridgeBytes b [t]) fRidgeBytesCount n
    else
      let s2 := fSet s1 (bLoc .ridgeBytes b [t]) fRidgeBytesCount 0
      let w := treeWord s t 0
      if bit w 47 then addDep s2 (bits w 41 32) 1 else s2

def execRidgeChunk (peer : Nat) (s : State) : Host.Outcome State Fault Refusal := onServed s fun s => .next (perform s peer 9 (ridgeChunk s))

/-- A store to a tree entry writes all four copies; reserved bits are ignored (R9, R342). -/
def treeWrite (s : Node) (t w v : Nat) : Node :=
  let m := match w with
    | 0 => 2 ^ 63 + 2 ^ 62 + 0xF <<< 56 + 2 ^ 47 + 0x3FF <<< 32 + 0x3FFFF
    | 5 => 0xFFFFFFFFFFF <<< 12
    | 6 => 2 ^ 40 - 1
    | 7 => 0
    | _ => 0x3FFFF <<< 32 + 0x3FFFF
  regSet s (bLoc .ridgeTree 0 [t, w]) (BitVec.ofNat 64 (v &&& m))

def execRidgeTreeWrite (tree w : Nat) (value : Word) (s : State) : Host.Outcome State Fault Refusal := onNode s fun s =>
  if tree < 256 ∧ w < 8 then .next (withResp (treeWrite s tree w value.toNat) .done) else .fault .noSuchUnit

/-! ## Acknowledgements and timers -/

/-- An ACK, NAK or KEEPALIVE frame passes the checks of every frame. -/
def execDzAck (port : Nat) (pkt : DzPkt) (s : State) : Host.Outcome State Fault Refusal := onServed s fun s =>
  onFp port (if pkt.type = 0xA then ridgeNext (frameIn s port pkt true) else s)

def execDzNak (port : Nat) (pkt : DzPkt) (s : State) : Host.Outcome State Fault Refusal := onServed s fun s =>
  onFp port (if pkt.type = 0xB then ridgeNext (frameIn s port pkt true) else s)

def execDzKeepalive (port : Nat) (pkt : DzPkt) (s : State) : Host.Outcome State Fault Refusal := onNode s fun s =>
  onFp port (if pkt.type = 0xC then frameIn s port pkt true else s)

/-- 2 µs after the oldest unacknowledged performed packet an ACK goes. -/
def execDzAckTimer (peer tc : Nat) (s : State) : Host.Outcome State Fault Refusal := onNode s fun s =>
  .next (if (rflowOf s peer tc).any fun r => decide (r.since > 0) then sendAck s peer tc else s)

/-- A later packet has been held for 4 µs while the next expected number is missing: NAK GAP. -/
def execDzGapTimer (peer tc : Nat) (s : State) : Host.Outcome State Fault Refusal := onNode s fun s =>
  .next (
    match rflowOf s peer tc with
    | none => s
    | some r => if r.held ≠ [] ∧ !r.held.any (fun k => k.seq == r.expect) then sendNak s peer tc r.expect 0 else s)

/-- RTO_US pass without an acknowledgement of a packet: it is sent again, or its flow fails. A chunk whose good copy has
not yet come is not sent again. -/
def execDzRto (peer tc seq : Nat) (s : State) : Host.Outcome State Fault Refusal := onServed s fun s =>
  .next (ridgeNext (resendPkt s peer tc seq))

/-- 55 µs without ECE add 16 packets to the window, up to 1,024 (R329). -/
def execDzWindowIncrease (peer tc : Nat) (s : State) : Host.Outcome State Fault Refusal := onNode s fun s =>
  .next (
    match sflowOf s peer tc with
    | none => s
    | some f => setSflow s peer tc (some { f with window := min 1024 (f.window + 16) }))

/-- FLOW_IDLE passes with nothing unacknowledged: the context is released (R330). -/
def execFlowIdleRelease (peer tc : Nat) (sending : Bool) (s : State) : Host.Outcome State Fault Refusal := onNode s fun s =>
  .next (
    if sending then (if (sflowOf s peer tc).any fun f => f.unacked.isEmpty then setSflow s peer tc none else s)
    else if (rflowOf s peer tc).any fun r => r.held.isEmpty && r.since == 0 then setRflow s peer tc none
    else s)

/-! ## Keepalives (R340) -/

/-- A keepalive interval: the port sends KEEPALIVE, and the interval without one from its neighbour is counted. -/
def execKeepaliveSend (port : Nat) (s : State) : Host.Outcome State Fault Refusal := onNode s fun s =>
  onFp port (
    if !portLink s port || !dzOn s (port / 5) then s
    else
      let heard := tblGet false s.fabric.heard port
      let s1 := modFab s fun f => { f with
        heard := tblSet false f.heard port false
        missed := if heard then tblSet 0 f.missed port 0 else tblMod 0 f.missed port fun n => n + 1 }
      emitOn s1 (fpOfPort port) (ownPkt s1 0xC 0 0 0 0 []) false)

/-- Five consecutive intervals without a KEEPALIVE: the neighbour is LOST and the fabric manager is notified. -/
def execNeighbourLost (port : Nat) (s : State) : Host.Outcome State Fault Refusal := onNode s fun s =>
  onFp port (
    let l := dzPort (fpOfPort port)
    if !portLink s port || fGet s l fDzPortLost == 1 || decide (tblGet 0 s.fabric.missed port < 5) || tblGet false s.fabric.heard port then s
    else sendOut (logErr (fSet s l fDzPortLost 1) (12 + port / 5) 0x41 0x0604 0 []) ⟨20, 0, .notify, [0x0604, port], []⟩)

/-! ## Command rings (R338) -/

/-- Registers of a command ring. -/
def ringBase (s : Node) (b r : Nat) : Nat := fGet s (bLoc .dzCmdBase b [r]) fDzCmdBaseBase * 4096
def ringSize (s : Node) (b r : Nat) : Nat := 2 ^ fGet s (bLoc .dzCmdBase b [r]) fDzCmdBaseLog2n
def ringIndex (s : Node) (b r : Nat) : Nat := fGet s (bLoc .dzCmdCi b [r]) fDzCmdCiIndex
def ringStopped (s : Node) (b r : Nat) : Bool := fGet s (bLoc .dzCmdCi b [r]) fDzCmdCiStopped == 1
def ringOf (s : Node) (b r : Nat) : DzRing := tblGet DzRing.reset (dzOf s b).rings r
def modRing (s : Node) (b r : Nat) (f : DzRing → DzRing) : Node :=
  modDz s b fun x => { x with rings := tblMod DzRing.reset x.rings r f }

/-- A completion record of the command rings. -/
def dzCqe (wr : List Byte) (ring op status n : Nat) : List Byte :=
  wr ++ leBytes 1 ring ++ leBytes 1 op ++ leBytes 1 status ++ leBytes 1 0 ++ leBytes 4 n ++ leBytes 16 0

/-- DZ_CMD_DB: an index more than the ring size ahead of the consumer completes with STATUS 5 and stops the ring; WR_ID
and OP have no source there, free values. -/
def ringDoorbellDz (s : Node) (b : Nat) (v : Word) : Node :=
  let r := wbits v 3 0
  let pi := wbits v 47 32
  if ringStopped s b r then s
  else if (pi + 65536 - ringIndex s b r) % 65536 > ringSize s b r then
    let rec_ := dzCqe (leBytes 8 (Config.freeNat s.fresh)) r (Config.freeNat (s.fresh + 1) % 256) 5 0
    let s1 := modDz (bump (bump s)) b fun x => { x with cq := x.cq ++ [rec_] }
    logErr (fSet s1 (bLoc .dzCmdCi b [r]) fDzCmdCiStopped 1) (12 + b) 0x41 0x0606 0 []
  else modRing s b r fun x => { x with pi := pi }

def execDzCmdDb (base : Nat) (value : Word) (s : State) : Host.Outcome State Fault Refusal := onNode s fun s =>
  onBase base (withResp (ringDoorbellDz s base value) .done)

/-- Restarts a ring at slot 0. -/
def rebaseRing (s : Node) (b r v : Nat) : Node :=
  let s1 := regSet s (bLoc .dzCmdBase b [r]) (BitVec.ofNat 64 (v &&& (0xFFFFFFFFFFF <<< 12 + 0x1F)))
  modRing (regSet s1 (bLoc .dzCmdCi b [r]) 0) b r fun _ => DzRing.reset

/-- Whether an entry of a ring is in progress. -/
def ringRuns (s : Node) (b r : Nat) : Bool := (dzOf s b).cmds.any fun c => c.ring == r

/-- A write of DZ_CMD_BASE takes effect once every entry in progress has completed. -/
def dzBaseWrite (s : Node) (b r v : Nat) : Node :=
  if ringRuns s b r then modRing s b r fun x => { x with rebase := some v } else rebaseRing s b r v

def execDzCmdBaseWrite (base ring : Nat) (value : Word) (s : State) : Host.Outcome State Fault Refusal := onNode s fun s =>
  if base < 4 ∧ ring < 16 then .next (withResp (dzBaseWrite s base ring value.toNat) .done) else .fault .noSuchUnit

/-- Whether a command entry is malformed. -/
def entryInvalid (l : List Byte) : Bool :=
  let op := descField l 0 1
  op == 0 || decide (op > 3) || decide (descField l 1 1 ≥ 8) || (op == 3 && (decide (descField l 4 4 > 8192) || decide (descField l 2 2 > 255))) ||
    (decide (descField l 24 4 ≥ 2 ^ (if bit (descField l 1 1) 2 then 15 else 18))) || descField l 28 4 != 0 ||
    bits (descField l 40 2) 14 10 != 0 || descField l 44 8 != 0 || descField l 52 8 != 0 || descField l 60 4 != 0

/-- The entry at a ring's consumer index as it starts. -/
def cmdOf (s : Node) (b r : Nat) (l : List Byte) : DzCmd :=
  let op := descField l 0 1
  let dst := descField l 24 4
  let byWin := bit (descField l 1 1) 2
  ⟨r, ringIndex s b r, op, bit (descField l 1 1) 0, descField l 4 4, descField l 8 8, descField l 32 8, descField l 40 2,
    descField l 42 2, if byWin then dst else 0, if byWin then fGet s (bLoc .dzWindow 0 [dst % 32768]) fDzWindowEp else dst,
    if op = 3 then descField l 2 2 else descField l 16 8, s.remoteId, 0, 0, none⟩

/-- Adds a started entry and moves the consumer index. -/
def startCmd (s : Node) (b : Nat) (c : DzCmd) : Node :=
  let s1 := modDz { s with remoteId := s.remoteId + 1 } b fun x => { x with cmds := x.cmds ++ [c] }
  fSet s1 (bLoc .dzCmdCi b [c.ring]) fDzCmdCiIndex ((c.slot + 1) % 65536)

/-- Sends a PUT's data in packets of up to 8,192 bytes; bytes of poisoned lines carry the mark. -/
def putPieces (s : Node) (c : DzCmd) (ep remote : Nat) : Node :=
  (List.range (ceilDiv c.len 8192)).foldl (fun s i =>
    let n := min 8192 (c.len - i * 8192)
    let a := c.localPa + i * 8192
    originate s (.op c.id) (ownPkt s 1 ep (opTag c.id) (remote + i * 8192) (b2n (firstPoison s a n).isSome) (readBytes s a n))) s

/-- Performs an entry whose destination is the node itself (R522); one that is refused leaves its record (R346). -/
def selfCmd (s : Node) (b : Nat) (c : DzCmd) : Node :=
  let refused := fun (s : Node) => startCmd (logCmd s b c 0x0601) b { c with status := some 1 }
  let done := fun (s : Node) => startCmd s b { c with status := some 0, got := c.len }
  match c.op with
  | 1 =>
    if rwinHolds s c.addr c.len then
      agentWrite (done s) b c.addr (readBytes s c.localPa c.len) (firstPoison s c.localPa c.len).isSome
    else refused s
  | 2 =>
    let s1 := agentTouch s b clsDma c.addr c.len
    if !rwinHolds s c.addr c.len then refused s
    else if (firstPoison s1 c.addr c.len).isSome then startCmd s1 b { c with status := some 4 }
    else agentWrite (done s1) b c.localPa (readBytes s1 c.addr c.len) false
  | _ =>
    match msgPut s (ownPkt s 7 (selfEp s) (msgTag c.id c.addr) 0 0 (readBytes s c.localPa c.len)) with
    | .taken t => done t
    | .refused => refused s
    | .full => s

/-- Starts the next entry of a ring, when it is of a given OP or malformed. A command to the node itself is performed
locally; a message whose bytes lie in a poisoned line is not sent (R241). -/
def ringEntry (s : Node) (b r op : Nat) : Node :=
  let ci := ringIndex s b r
  let a := ringBase s b r + ci % ringSize s b r * 64
  let s0 := agentTouch s b clsDma a 64
  let l := readBytes s0 a 64
  let flags := descField l 1 1
  let c := cmdOf s b r l
  if !dzOn s b || ringStopped s b r || ci == (ringOf s b r).pi || (ringOf s b r).rebase.isSome || ringSize s b r < 16 || !inHbm s a 64 then s
  else match firstPoison s0 a 64 with
  | some p => startCmd (bump (poisonAgent s0 (12 + b) 0x41 p)) b { c with status := some 4, wr := Config.freeNat s.fresh, sig := 0, op := op }
  | none =>
    if entryInvalid l then startCmd (logErr s0 (12 + b) 0x41 0x0606 0 []) b { c with status := some 5 }
    else if descField l 0 1 ≠ op ∨ (bit flags 1 ∧ ringRuns s b r) then s
    else if bit flags 2 ∧ fGet s (bLoc .dzWindow 0 [c.win]) fDzWindowValid = 0 then
      startCmd (logCmd s0 b c 0x0608) b { c with status := some 6 }
    else if !inHbm s c.localPa c.len then startCmd s0 b { c with status := some 5 }
    else
      let s1 := if op = 2 then s0 else agentTouch s0 b clsDma c.localPa c.len
      match (if op = 3 then firstPoison s1 c.localPa c.len else none) with
      | some p => startCmd (poisonAgent s1 (12 + b) 0x41 p) b { c with status := some 4 }
      | none =>
        if c.ep = selfEp s ∧ (loopPort s b).isNone then selfCmd s1 b c
        else if op = 1 then
          if c.len = 0 then startCmd s1 b { c with status := some 0 }
          else putPieces (startCmd s1 b { c with left := ceilDiv c.len 8192 }) c c.ep c.addr
        else if op = 2 then
          originate (startCmd s1 b { c with left := 1 }) (.op c.id) (ownPkt s1 2 c.ep (opTag c.id) c.addr c.len [])
        else originate (startCmd s1 b { c with left := 1 }) (.op c.id) (ownPkt s1 7 c.ep (msgTag c.id c.addr) 0 0 (readBytes s1 c.localPa c.len))

def execDzCmdPut (base ring : Nat) (s : State) : Host.Outcome State Fault Refusal := onServed s fun s =>
  if base < 4 ∧ ring < 16 then .next (ringEntry s base ring 1) else .fault .noSuchUnit

def execDzCmdGet (base ring : Nat) (s : State) : Host.Outcome State Fault Refusal := onServed s fun s =>
  if base < 4 ∧ ring < 16 then .next (ringEntry s base ring 2) else .fault .noSuchUnit

def execDzCmdMsg (base ring : Nat) (s : State) : Host.Outcome State Fault Refusal := onServed s fun s =>
  if base < 4 ∧ ring < 16 then .next (ringEntry s base ring 3) else .fault .noSuchUnit

/-- Whether the completion ring of an engine has room, and its next record's address. -/
def dzCqSlot (s : Node) (b : Nat) : Option Nat :=
  let n := 2 ^ fGet s (bLoc .dzCqBase b) fDzCqBaseLog2n
  let tail := fGet s (bLoc .dzCqTail b) fDzCqTailIndex
  let head := fGet s (bLoc .dzCqHead b) fDzCqHeadIndex
  let a := fGet s (bLoc .dzCqBase b) fDzCqBaseBase * 4096 + tail % n * 32
  if (tail + 2 ^ 32 - head) % 2 ^ 32 ≥ n ∨ n < 64 ∨ !inHbm s a 32 then none else some a

/-- Writes a completion record and then advances DZ_CQ_TAIL. -/
def dzRecord (s : Node) (b a : Nat) (rec_ : List Byte) : Node :=
  fSet (agentWrite s b a rec_ false) (bLoc .dzCqTail b) fDzCqTailIndex ((fGet s (bLoc .dzCqTail b) fDzCqTailIndex + 1) % 2 ^ 32)

/-- Releases an entry: its counter is signalled, and a waiting write of the ring's base takes effect. -/
def releaseCmd (s : Node) (b : Nat) (c : DzCmd) : Node :=
  let s1 := modDz s b fun x => { x with cmds := x.cmds.filter fun y => y.id != c.id }
  let s2 := if bit c.sig 15 then addDep s1 (bits c.sig 9 0) c.inc else s1
  match (ringOf s2 b c.ring).rebase with
  | some v => if ringRuns s2 b c.ring then s2 else rebaseRing s2 b c.ring v
  | none => s2

/-- An entry completes: a failed one always writes a record, a successful one when SIGNALLED; the engine waits while the
ring is full. Records of stopped rings go first. -/
def execDzCmdComplete (base id : Nat) (s : State) : Host.Outcome State Fault Refusal := onServed s fun s =>
  onBase base (
    match (dzOf s base).cq, dzCqSlot s base with
    | r :: t, some a => dzRecord (modDz s base fun x => { x with cq := t }) base a r
    | _ :: _, none => s
    | [], slot =>
      match (dzOf s base).cmds.find? fun c => c.id == id with
      | none => s
      | some c => match c.status, slot with
        | none, _ => s
        | some st, some a =>
          if st = 0 ∧ !c.signalled then releaseCmd s base c
          else releaseCmd (dzRecord s base a (dzCqe (leBytes 8 c.wr) c.ring c.op st c.got)) base c
        | some st, none => if st = 0 ∧ !c.signalled then releaseCmd s base c else s)

/-! ## Enabling (R345, R347) -/

/-- A write of DZ_CTRL: every field but EN and STATE is node-wide. -/
def dzCtrlWrite (s : Node) (b : Nat) (v : Word) : Node :=
  let set := fun (s : Node) c =>
    let w := regGet s (bLoc .dzCtrl c)
    regSet s (bLoc .dzCtrl c) (wput (wput w 63 12 (wbits v 63 12)) 10 8 (wbits v 10 8))
  enableWrite ((List.range 4).foldl set s) (bLoc .dzCtrl b) (wbit v 0)

def execDzEnableWrite (base : Nat) (value : Word) (s : State) : Host.Outcome State Fault Refusal := onNode s fun s =>
  onBase base (withResp (dzCtrlWrite s base value) .done)

/-- Whether a flow that an engine owns has something unacknowledged. -/
def dzBusy (s : Node) (b : Nat) : Bool :=
  s.fabric.sflows.any (fun p => flowBase (p.1 / 8) (p.1 % 8) == b && p.2.any fun f => !f.unacked.isEmpty) ||
  s.fabric.rflows.any (fun p => flowBase (p.1 / 8) (p.1 % 8) == b && p.2.any fun r => decide (r.since > 0))

/-- A disabling engine with nothing unacknowledged becomes OFF; its contexts are released. -/
def execDzDisableDone (base : Nat) (s : State) : Host.Outcome State Fault Refusal := onNode s fun s =>
  onBase base (
    let st := ctrlState s (bLoc .dzCtrl base)
    if (st = stDisabling ∨ st = stPending) ∧ !dzBusy s base then
      ownStepEnds (modFab s fun f => { f with
        sflows := f.sflows.filter fun p => flowBase (p.1 / 8) (p.1 % 8) != base
        rflows := f.rflows.filter fun p => flowBase (p.1 / 8) (p.1 % 8) != base }) (bLoc .dzCtrl base)
    else s)

/-- Every RIDGE_BYTES of every base die's block is zero. -/
def clearRidge (s : Node) : Node :=
  let in_ := fun (k b : Nat) => decide (regKey (bLoc .ridgeBytes b [0]) ≤ k) && decide (k ≤ regKey (bLoc .ridgeBytes b [255]))
  { s with csr := s.csr.filter fun p => !anyBelow 4 (in_ p.1) }

/-- A Latch commit changes JOB or EPOCH (R334): every flow and queue is cleared, every outstanding operation fails with
EPOCH_CHANGED, one record for each engine, a cut's remote slot among them, and every RIDGE_BYTES is zero. -/
def epochChanged (s : Node) : Node :=
  let ckpt := s.fabric.waiting.any (fun o => o.who == .ckpt) ||
    s.fabric.sflows.any fun p => p.2.any fun f => f.unacked.any fun o => o.who == .ckpt
  let s1 := modFab s fun f => { f with sflows := [], rflows := [], waiting := [], ridgeWait := [], badFwd := [] }
  let s2 := (s.remotes.filter fun r => r.result.isNone).foldl (fun s r => endRemote s r 0x0603 []) s1
  let s3 := (List.range 4).foldl (fun s b => ((dzOf s b).cmds.filter fun c => c.status.isNone).foldl (fun s c => endCmd s c.id 3) s) s2
  let s4 := (List.range 4).foldl (fun s b => logErr s (12 + b) 0x41 0x0603 0 []) s3
  clearRidge (if ckpt then failWho s4 .ckpt 0 0x0603 else s4)

end Sys2Proof.Machine
end

