-- ==== Sys2Proof/Machine/ElemOps.lean ====
section
/-! DEFINITION. Shared operations of the element engine (05_gutter_element_engine.md): runs and their geometry (R121, R128), fields
(R129), operands (R130), start checks (R142), arithmetic on positions (R131 to R133), run errors (R143). -/

namespace Sys2Proof.Machine

/-! ## Instruction fields (R129) -/

def eOp (w : Nat) : Nat := bits w 63 58
def eTy (w : Nat) : Nat := bits w 57 56
def eRm (w : Nat) : Nat := bits w 55 53
def eSat (w : Nat) : Bool := bit w 52
def eMsk (w : Nat) : Bool := bit w 51
def eD (w : Nat) : Nat := bits w 47 40
def eA (w : Nat) : Nat := bits w 39 32
def eB (w : Nat) : Nat := bits w 31 24
def eC (w : Nat) : Nat := bits w 23 16
def eX (w : Nat) : Nat := bits w 15 0

/-- The format of an arithmetic type (R129). -/
def tyFmt : Nat → Fmt
  | 0 => .fp32
  | 1 => .int32
  | _ => .fp64

/-- Width of a position in bits. -/
def tyBits (ty : Nat) : Nat := if ty = 2 then 64 else 32

/-! ## Geometry of a run -/

/-- The accumulator format of a run. -/
def runAcc (e : Elem) : AccFmt := (e.main.headD GutEntry.none).afmt

/-- Rows and columns of a run's tile. -/
def runRows (e : Elem) : Nat := partRows (runAcc e)
def runCols (e : Elem) : Nat := if e.wide then 128 else 64

/-- Valid rows and columns of a part (R121). -/
def partPM (x : GutEntry) : Nat :=
  let m := tileRows x.gang x.afmt
  min ((if x.head.mValid = 0 then m else x.head.mValid) - partRow x.gang x.part m) (partRows x.afmt)
def partPN (x : GutEntry) : Nat :=
  let n := tileCols x.gang
  min ((if x.head.nValid = 0 then n else x.head.nValid) - partCol x.part) 64

/-- PM and PN of a run: PN over both parts in a WIDE run (R128). -/
def runPM (e : Elem) : Nat := match e.main with
  | [] => 0
  | x :: _ => partPM x
def runPN (e : Elem) : Nat := (e.main.map partPN).foldl (· + ·) 0

/-- Whether a position lies in the valid region. -/
def runValid (e : Elem) (m n : Nat) : Bool := decide (m < runPM e) && decide (n < runPN e)

/-- The positions of a run in row-major order. -/
def runPositions (e : Elem) : List (Nat × Nat) :=
  (List.range (runRows e)).flatMap fun m => (List.range (runCols e)).map fun n => (m, n)

/-- The mask bit of a position. -/
def maskAt (e : Elem) (m n : Nat) : Bool := bit e.mask (m * runCols e + n)

/-- The mask that is set where `p` holds. -/
def maskFrom (e : Elem) (p : Nat → Nat → Bool) : Nat :=
  (runPositions e).foldl (fun k (m, n) => if p m n then k ||| 1 <<< (m * runCols e + n) else k) 0

/-- The key of a tile-buffer position: in a WIDE run buffer 0 or 2 holds columns 0 to 63 and the next one the rest. -/
def tileKey (buf m n : Nat) : Nat := (buf + n / 64) * 4096 + m * 64 + n % 64

/-- A vector entry and a scalar. -/
def vecAt (e : Elem) (v i : Nat) : Nat := tblGet 0 e.v (v * 128 + i)
def sregAt (e : Elem) (r : Nat) : Nat := tblGet 0 e.sreg r

/-- The scalar an operand code names. -/
def sAt (e : Elem) (code : Nat) : Nat := sregAt e (code % 16)

/-- Sets a scalar. -/
def setS (e : Elem) (code v : Nat) : Elem := { e with sreg := tblSet 0 e.sreg (code % 16) (v % 2 ^ 64) }

/-- G at a position (R134): zero outside the valid region. -/
def gAt (e : Elem) (m n : Nat) : Nat :=
  if runValid e m n then
    match e.main[n / 64]? with
    | some x => tblGet 0 x.data (m * 64 + n % 64)
    | none => 0
  else 0

/-- The code of a natural number in a type: exact for every index. -/
def idxCode (ty i : Nat) : Nat :=
  match tyFmt ty with
  | .int32 => i
  | f => (convert f .rne false 0 (numOfInt i)).code

/-- The immediate X under a type (R130). -/
def immCode (ty x : Nat) : Nat :=
  match ty with
  | 0 => x <<< 16
  | 1 => wrap 32 (signed 16 x)
  | _ => x <<< 48

/-- An operand's bits at a position (R130). -/
def operandAt (e : Elem) (w code m n : Nat) : Nat :=
  let ty := eTy w
  let v :=
    if code < 4 then tblGet 0 e.t (tileKey code m n)
    else if code = 4 then gAt e m n
    else if code < 0x18 then vecAt e (code % 8) n
    else if code < 0x20 then vecAt e (code % 8) m
    else if code < 0x30 then sAt e code
    else if code = 0x30 then immCode ty (eX w)
    else if code = 0x31 then idxCode ty n
    else idxCode ty m
  v % 2 ^ tyBits ty

/-! ## Start checks (R142) -/

/-- Bytes or positions of a block code: 32, 64 or 128. -/
def blockOf (c : Nat) : Nat := 32 <<< c

/-- Whether an operand code may be read by an arithmetic instruction. -/
def srcOk (wide imm : Bool) (c : Nat) : Bool :=
  (decide (c ≤ 4) && !(wide && (c == 1 || c == 3))) || (decide (0x10 ≤ c) && decide (c < 0x30)) ||
  (imm && c == 0x30) || c == 0x31 || c == 0x32

/-- Whether a code is a writable tile buffer. -/
def tileOk (wide : Bool) (c : Nat) : Bool := decide (c < 4) && !(wide && c % 2 == 1)

/-- Whether a code is a tile, G included. -/
def tileSrc (wide : Bool) (c : Nat) : Bool := tileOk wide c || c == 4

/-- Whether a code is a scalar register, or a vector. -/
def sOk (c : Nat) : Bool := decide (0x20 ≤ c) && decide (c < 0x30)
def vOk (c : Nat) : Bool := decide (0x10 ≤ c) && decide (c < 0x20)

/-- Whether a type holds every value of a format exactly (R135). -/
def tyHolds (ty : Nat) (f : Fmt) : Bool :=
  match ty with
  | 0 => decide (f ≠ .fp64) && decide (f ≠ .int32)
  | 1 => fmtIsInt f
  | _ => true

/-- Whether a CVT target suits its type (R131). -/
def cvtSuits (ty x : Nat) : Bool :=
  fwValid x && fwScheme x == 0 &&
  (match fmtOfCode (fwFmt x) with
   | some .fp64 => ty == 2
   | some .fp32 => ty != 2
   | some .tf32 => ty != 2
   | some .int32 => ty != 2
   | some .int8 => true
   | some .int4 => true
   | some _ => ty != 1
   | none => false)

/-- The fields an opcode leaves unused are zero: RM, SAT, MSK, D, A, B, C where the flag says unused. -/
def unusedZero (w : Nat) (ty rm sat msk d a b c : Bool) : Bool :=
  bits w 50 48 == 0 && (ty || eTy w == 0) && (rm || eRm w == 0) && (sat || !eSat w) && (msk || !eMsk w) &&
  (d || eD w == 0) && (a || eA w == 0) && (b || eB w == 0) && (c || eC w == 0)

/-- X is zero unless an operand is the immediate. -/
def xImm (w : Nat) (codes : List Nat) : Bool := codes.contains 0x30 || eX w == 0

/-- LD's fields (R135, R156). -/
def ldOk (wide : Bool) (rows cols w : Nat) : Bool :=
  let x := eX w
  let kind := bits x 14 13
  match fmtOfCode (bits x 4 0) with
  | none => false
  | some f =>
    bit x 5 == false && bits x 11 10 == 0 && sOk (eA w) &&
    (match kind with
     | 0 => unusedZero w false false false false true true false false && sOk (eD w) && bits x 12 0 == 0
     | 3 =>
       if bit x 12 then
         unusedZero w true false false true true true false true && tileOk wide (eD w) && sOk (eC w) && !bit x 6 &&
         (bits x 4 0 == 5 || bits x 4 0 == 1) && bits x 8 7 != 3 && tyHolds (eTy w) f &&
         decide (blockOf (bits x 8 7) ≤ if bit x 9 then rows else cols)
       else
         unusedZero w true false false true true true true false && tileOk wide (eD w) && sOk (eB w) &&
         bits x 9 7 == 0 && tyHolds (eTy w) f
     | _ =>
       unusedZero w true false false false true true false false && vOk (eD w) && bits x 12 12 == 0 && bits x 9 6 == 0 &&
       tyHolds (eTy w) f)

/-- Whether an opcode uses TY (R129); a scalar load does not. -/
def usesTy (w : Nat) : Bool :=
  !([0x00, 0x1C, 0x1D, 0x17, 0x28].contains (eOp w)) && !(eOp w == 0x20 && bits (eX w) 14 13 == 0)

/-- Whether an instruction passes the start checks on its own fields (R129 to R142). -/
def elemFieldsOk (wide : Bool) (rows cols w : Nat) : Bool :=
  let x := eX w
  let src := srcOk wide false
  let imm := srcOk wide true
  let d := tileOk wide (eD w)
  match eOp w with
  | 0x00 => w == 0
  | 0x01 => unusedZero w true true false true true true true false && d && imm (eA w) && imm (eB w) && xImm w [eA w, eB w]
  | 0x02 => unusedZero w true true false true true true true false && d && imm (eA w) && imm (eB w) && xImm w [eA w, eB w]
  | 0x03 => unusedZero w true true false true true true true false && d && imm (eA w) && imm (eB w) && xImm w [eA w, eB w]
  | 0x04 => unusedZero w true true false true true true true true && d && imm (eA w) && imm (eB w) && imm (eC w) &&
      xImm w [eA w, eB w, eC w]
  | 0x05 => unusedZero w true true false true true true true true && d && imm (eA w) && imm (eB w) && imm (eC w) &&
      xImm w [eA w, eB w, eC w]
  | 0x06 => unusedZero w true false false true true true true false && d && imm (eA w) && imm (eB w) && xImm w [eA w, eB w]
  | 0x07 => unusedZero w true false false true true true true false && d && imm (eA w) && imm (eB w) && xImm w [eA w, eB w]
  | 0x08 => unusedZero w true true false true true true true false && d && imm (eA w) && imm (eB w) && xImm w [eA w, eB w]
  | 0x09 => unusedZero w true (x == 4) false true true true false false && d && src (eA w) && decide (x ≤ 9) &&
      (eTy w == 0 || (eTy w == 1 && decide (x ≤ 1)) || (eTy w == 2 && decide (x ≤ 4)))
  | 0x0A => unusedZero w true false false true true true true true && d && imm (eA w) && imm (eB w) && imm (eC w) &&
      xImm w [eA w, eB w, eC w]
  | 0x0B => unusedZero w true false false true true true true false && d && src (eA w) && src (eB w) && decide (x ≤ 5)
  | 0x0C => unusedZero w true false false true true true true false && d && imm (eA w) && imm (eB w) && xImm w [eA w, eB w]
  | 0x0D => unusedZero w true false false true true true true false && d && imm (eA w) && imm (eB w) && xImm w [eA w, eB w]
  | 0x0E => unusedZero w true false false true true true true false && d && imm (eA w) && imm (eB w) && xImm w [eA w, eB w]
  | 0x0F => unusedZero w true false false true true true true false && d && imm (eA w) && imm (eB w) && xImm w [eA w, eB w] &&
      eTy w == 1
  | 0x10 => unusedZero w true false false true true true true false && d && src (eA w) && src (eB w) && decide (x ≤ 1) &&
      eTy w == 1
  | 0x14 => unusedZero w true true true true true true false false && d && src (eA w) && cvtSuits (eTy w) x
  | 0x15 => unusedZero w true false false true true true false false && d && src (eA w) && decide (x < 32) &&
      (bits x 4 3 == 3 || decide (blockOf (bits x 4 3) ≤ if bit x 2 then rows else cols))
  | 0x16 => unusedZero w true false false true true true true false && d && src (eA w) && src (eB w) && decide (x ≤ 1)
  | 0x17 => unusedZero w false false false false false false false false && decide (x < 512)
  | 0x18 => unusedZero w true false false true true true true false && d && src (eA w) && sOk (eB w) && eB w % 2 == 0 &&
      bits x 1 0 == 0 && decide (x < 64) && bits x 4 3 != 3 &&
      decide (blockOf (bits x 4 3) ≤ if bit x 2 then rows else cols)
  | 0x19 => unusedZero w true false false false false true false false && decide (x ≤ 1) && (src (eA w))
  | 0x1C => unusedZero w false false false false true true true true && sOk (eD w) && (sOk (eA w) || eA w == 0x30) &&
      (sOk (eB w) || eB w == 0x30) && decide (eC w ≤ 7) && xImm w [eA w, eB w]
  | 0x1D => unusedZero w false false false false false true false false && sOk (eA w) && decide (x < 128)
  | 0x20 => ldOk wide rows cols w
  | 0x21 => unusedZero w true true true false true true true false && sOk (eD w) && tileSrc wide (eA w) && sOk (eB w) &&
      (fmtOfCode (bits x 4 0)).isSome && bit x 5 == false && bits x 14 7 == 0
  | 0x22 => unusedZero w true true true false true true true false && sOk (eD w) && src (eA w) && sOk (eB w) &&
      (bits x 4 0 == 5 || bits x 4 0 == 1) && bits x 6 5 == 0 && bits x 14 10 == 0 && bits x 8 7 != 3 &&
      decide (blockOf (bits x 8 7) ≤ if bit x 9 then rows else cols)
  | 0x24 => unusedZero w true true true false true true true true && sOk (eD w) && src (eA w) && sOk (eB w) &&
      sOk (eC w) && (fmtOfCode (bits x 4 0)).isSome && bits x 15 5 == 0
  | 0x28 => unusedZero w false false false false true false true false && decide (eD w < 64) && sOk (eB w) && x == 0
  | _ => false

/-- Whether an instruction at an index passes, beside its fields: TY and AFMT, RM 6, a SKIP past the first END. -/
def elemInstrOk (wide : Bool) (acc : AccFmt) (firstEnd i w : Nat) : Bool :=
  elemFieldsOk wide (partRows acc) (if wide then 128 else 64) w && eTy w != 3 && eRm w != 6 &&
  (!usesTy w || (if acc = .fp64 then eTy w == 2 else eTy w != 2)) &&
  !(eOp w == 0x1D && decide (firstEnd < 64) && decide (i + 1 + bits (eX w) 5 0 > firstEnd))

/-- The index of the first instruction that fails the start checks; `none` where the program passes (R142). DESIGN CHOICE (log
entry 192): where the WIDE slot itself is the failure and no instruction fails, the index is 0. -/
def programFault (wide gang0 : Bool) (acc : AccFmt) (image : List Nat) : Option Nat :=
  let firstEnd := ((firstBelow 64 fun i => eOp (image.getD i 0) == 0)).getD 64
  match firstBelow (min 64 (firstEnd + 1)) fun i => !elemInstrOk wide acc firstEnd i (image.getD i 0) with
  | some i => some i
  | none => if wide && gang0 then some 0 else if firstEnd = 64 then some 63 else none

/-! ## Arithmetic on one position -/

/-- Delivers an exact result into a type (R545); an INT32 result outside INT32 is open and counts as an overflow. -/
def elemDeliver (ty : Nat) (m : RMode) (r16 : Nat) (nv : Bool) (x : Num) : Flagged :=
  if ty = 1 then
    match x with
    | .fin neg mag exp =>
      let (k, ix) := roundCut m neg r16 (cutAt mag exp 0)
      let v : Int := if neg then -(k : Int) else k
      if -2147483648 ≤ v ∧ v ≤ 2147483647 then ⟨wrap 32 v, flIf ix flNX⟩
      else ⟨Config.intOut v % 2 ^ 32, flOF ||| flIf ix flNX⟩
    | _ => ⟨Config.intDivZero 0 % 2 ^ 32, 0⟩
  else deliver (tyFmt ty) m r16 nv x

/-- Arithmetic 0x01 to 0x08 (R132): the result and flags of one position. DESIGN CHOICE (log entry 170): FMA of zero times
infinity signals whatever its addend is, and MUL3 multiplies left to right, so NV of MUL3 on zero, infinity and a quiet
NaN depends on their order -/
def elemArith (op ty : Nat) (m : RMode) (r16 a b c : Nat) : Flagged :=
  let f := tyFmt ty
  let x := numOfCode f a
  let y := numOfCode f b
  let z := numOfCode f c
  let put := fun (o : Opd) => elemDeliver ty m r16 o.nv o.val
  match op with
  | 0x01 => put (numAdd (zeroNeg m) x y)
  | 0x02 => put (numAdd (zeroNeg m) x (numNegate y))
  | 0x03 => put (numMul x y)
  | 0x04 =>
    let p := numMul x y
    let t := numAdd (zeroNeg m) p.val z
    put ⟨t.val, p.nv || t.nv || numIsSnan z⟩
  | 0x05 =>
    let p := numMul x y
    let t := numMul p.val z
    put ⟨t.val, p.nv || t.nv⟩
  | 0x06 => put (numMinMax false x y)
  | 0x07 => put (numMinMax true x y)
  | _ =>
    if ty = 1 ∧ b % 2 ^ 32 = 0 then
      ⟨Config.intDivZero (signed 32 a) % 2 ^ 32, if a % 2 ^ 32 = 0 then flNV else flDZ⟩
    else
      let (v, nv, dz) := numDiv x y
      let r := elemDeliver ty m r16 nv v
      ⟨r.code, r.flags ||| flIf dz flDZ⟩

/-! ## FN (R133): the exact functions, to well beyond any type's precision, and the bound on a result

The exact value of a transcendental function is carried in fixed point with 256 fraction bits; the error of each series is
far below the margin `withinUnits` leaves. -/

/-- A product in fixed point. -/
def fxMul (a b : Nat) : Nat := (a * b) >>> 256

/-- The fixed-point value of a magnitude and an exponent. -/
def fxOf (mag : Nat) (exp : Int) : Nat := if exp + 256 < 0 then mag >>> (-(exp + 256)).toNat else mag <<< (exp + 256).toNat

/-- The first terms of the series of the natural logarithm of 2, and its value. -/
def lnTwoGo : Nat → Nat
  | 0 => 0
  | k + 1 => lnTwoGo k + 2 ^ 256 / ((k + 1) * 2 ^ (k + 1))

def lnTwo : Nat := lnTwoGo 280

/-- The exponential series from its `n`-th term on. -/
def expGo (y : Nat) : Nat → Nat → Nat → Nat
  | 0, _, term => term
  | fuel + 1, n, term => term + expGo y fuel (n + 1) (fxMul term y / n)

/-- The exponential of a value from 0 to 1. -/
def expFrac (y : Nat) : Nat := expGo y 80 1 (2 ^ 256)

/-- The exponential of a value not below 0. -/
def expPos (y : Nat) : Nat := expFrac (y % lnTwo) <<< (y / lnTwo)

/-- The inverse hyperbolic tangent's series. -/
def atanhGo (t2 : Nat) : Nat → Nat → Nat → Nat
  | 0, _, _ => 0
  | fuel + 1, n, pow => pow / n + atanhGo t2 fuel (n + 2) (fxMul pow t2)

/-- The arc tangent of 1/k by its alternating series. -/
def atanInvGo (k2 : Nat) : Nat → Nat → Nat → Nat
  | 0, _, _ => 0
  | fuel + 1, n, pow => pow / n - atanInvGo k2 fuel (n + 2) (pow / k2)

def piFx : Nat := 16 * atanInvGo 25 130 1 (2 ^ 256 / 5) - 4 * atanInvGo 57121 40 1 (2 ^ 256 / 239)

/-- The series of the error function without its leading factor. -/
def erfGo (z2 : Nat) : Nat → Nat → Nat → Nat
  | 0, _, term => term
  | fuel + 1, n, term => term + erfGo z2 fuel (n + 2) (fxMul term (2 * z2) / n)

/-- An inexact value: its fixed-point digits and a bit below them. -/
def inexactNum (neg : Bool) (mag : Nat) (exp : Int) : Num := .fin neg (2 * mag + 1) (exp - 1)

/-- 2 to the power x. -/
def refExp2 (neg : Bool) (mag : Nat) (exp : Int) : Num :=
  let x : Int := if neg then -(fxOf mag exp : Int) else fxOf mag exp
  let whole := x / 2 ^ 256
  let part := (x % 2 ^ 256).toNat
  let k := max (-2000) (min 2000 whole)
  if part = 0 then .fin false 1 k else inexactNum false (expFrac (fxMul part lnTwo)) (k - 256)

/-- The binary logarithm of a positive value. -/
def refLog2 (mag : Nat) (exp : Int) : Num :=
  let lead := Nat.log2 mag
  if mag = 2 ^ lead then numOfInt ((lead : Int) + exp)
  else
    let t := ((mag - 2 ^ lead) <<< 256) / (mag + 2 ^ lead)
    let part := ((2 * atanhGo (fxMul t t) 100 1 t) <<< 256) / lnTwo
    let x : Int := ((lead : Int) + exp) * 2 ^ 256 + part
    inexactNum (decide (x < 0)) x.natAbs (-256)

/-- The hyperbolic tangent. -/
def refTanh (neg : Bool) (mag : Nat) (exp : Int) : Num :=
  if mag = 0 then .fin neg 0 0
  else
    let g := expPos (min (2 * fxOf mag exp) (2 ^ 263))
    inexactNum neg (((g - 2 ^ 256) <<< 256) / (g + 2 ^ 256)) (-256)

/-- 1 / (1 + e to the power -x). -/
def refSigmoid (neg : Bool) (mag : Nat) (exp : Int) : Num :=
  if mag = 0 then .fin false 1 (-1)
  else
    let g := expPos (min (fxOf mag exp) (2 ^ 264))
    inexactNum false (((if neg then 2 ^ 256 else g) <<< 512) / (g + 2 ^ 256)) (-512)

/-- The error function. -/
def refErf (neg : Bool) (mag : Nat) (exp : Int) : Num :=
  if mag = 0 then .fin neg 0 0
  else
    let z := min (fxOf mag exp) (2 ^ 259)
    let z2 := fxMul z z
    let sum := erfGo z2 800 3 z
    inexactNum neg (((((2 * sum) <<< 256) / isqrt (piFx <<< 256)) <<< 256) / expPos z2) (-256)

/-- FN 5 to 9 of an operand that is not NaN: the exact value with its NV and DZ (R42, R133, R546). -/
def fnRef (fn : Nat) (x : Num) : Num × Nat :=
  match x with
  | .nan s => (.nan s, 0)
  | .inf neg => match fn with
    | 5 => (if neg then .fin false 0 0 else .inf false, 0)
    | 6 => if neg then (.nan false, flNV) else (.inf false, 0)
    | 8 => (if neg then .fin false 0 0 else .fin false 1 0, 0)
    | _ => (.fin neg 1 0, 0)
  | .fin neg mag exp => match fn with
    | 5 => (refExp2 neg mag exp, 0)
    | 6 => if mag = 0 then (.inf true, flDZ) else if neg then (.nan false, flNV) else (refLog2 mag exp, 0)
    | 7 => (refTanh neg mag exp, 0)
    | 8 => (refSigmoid neg mag exp, 0)
    | _ => (refErf neg mag exp, 0)

/-- Does a finite value lie within `n` units in the last place of an exact one (R133)?  The unit is that of the exact
value; the margin of 2⁻⁶⁴ units covers the error of the value's digits. -/
def withinUnits (n : Nat) (l : Layout) (v c : Num) : Bool :=
  match v, c with
  | .fin a x e, .fin b y g =>
    let u := (roundInto l .rne a 0 x e).unit
    let base := min (min e g) (u - 64)
    let iv : Int := x <<< (e - base).toNat
    let ic : Int := y <<< (g - base).toNat
    decide (((if a then -iv else iv) - (if b then -ic else ic)).natAbs ≤ (n * 2 ^ 64 + 1) <<< (u - 64 - base).toNat)
  | _, _ => false

/-- A result within `n` units in the last place of an exact value (R133): any finite code in the bound, the open choice of
the implementation; a zero, an infinity, a NaN and an overflow are as IEEE 754 has them. -/
def withinUlp (n fn ty a : Nat) (v : Num) (nv : Bool) : Flagged :=
  let near := deliver (tyFmt ty) .rne 0 nv v
  match v, fmtLayout (tyFmt ty) with
  | .fin _ mag _, some l =>
    if mag = 0 ∨ near.flags &&& flOF ≠ 0 then near
    else
      let c := Config.elemFn fn ty a % 2 ^ tyBits ty
      if c ≠ near.code ∧ withinUnits n l v (numOfFloat l c) = true then ⟨c, near.flags ||| flNX⟩ else near
  | _, _ => near

/-- FN (R133). -/
def elemFnVal (fn ty : Nat) (m : RMode) (r16 a : Nat) : Flagged :=
  let f := tyFmt ty
  let x := numOfCode f a
  if ty = 1 then
    let v := signed 32 a
    let r : Int := if fn = 0 then v.natAbs else -v
    if r > 2147483647 then ⟨0x7FFFFFFF, flOF⟩ else ⟨wrap 32 r, 0⟩
  else match fn with
  | 0 => deliver f .rne 0 (numIsSnan x) (numAbs x)
  | 1 => deliver f .rne 0 (numIsSnan x) (numNegate x)
  | 2 =>
    let (v, nv, dz) := numDiv (numOfInt 1) x
    let r := withinUlp 1 fn ty a v nv
    ⟨r.code, r.flags ||| flIf dz flDZ⟩
  | 3 =>
    if numIsZero x then ⟨(deliver f .rne 0 false (.inf (numNeg x))).code, flDZ⟩
    else
      let (v, nv, _) := numDiv (numOfInt 1) x
      let r := numSqrt (if numNeg x then x else v)
      withinUlp 1 fn ty a r.val (nv || r.nv)
  | 4 => let r := numSqrt x; deliver f m r16 r.nv r.val
  | _ =>
    if numIsNan x then deliver f .rne 0 (numIsSnan x) x
    else
      let (v, fl) := fnRef fn x
      let r := withinUlp (if fn < 7 then 1 else 2) fn ty a v false
      ⟨r.code, r.flags ||| fl⟩

/-- CMP (R131, R546): 1 or 0; NaN satisfies NE only. -/
def elemCmp (rel ty a b : Nat) : Flagged :=
  let f := tyFmt ty
  let x := numOfCode f a
  let y := numOfCode f b
  let nan := numIsNan x || numIsNan y
  let o := numCmp x y
  let holds := match rel with
    | 0 => !nan && decide (o = .eq)
    | 1 => nan || decide (o ≠ .eq)
    | 2 => !nan && decide (o = .lt)
    | 3 => !nan && decide (o ≠ .gt)
    | 4 => !nan && decide (o = .gt)
    | _ => !nan && decide (o ≠ .lt)
  let nv := if rel ≤ 1 then numIsSnan x || numIsSnan y else nan
  ⟨b2n holds, flIf nv flNV⟩

/-- NV where an operand that is read is a signalling NaN (R546). -/
def snanFlag (ty a : Nat) : Nat := flIf (numIsSnan (numOfCode (tyFmt ty) a)) flNV

/-- Unequal to zero under a type (R131). -/
def elemNonzero (ty a : Nat) : Bool := !numIsZero (numOfCode (tyFmt ty) a)

/-- CVT (R131, R40): a 32- or 64-bit target in its own encoding, a narrower one as its value in the type. -/
def elemCvt (ty x : Nat) (m : RMode) (sat : Bool) (r16 a : Nat) : Flagged :=
  match fmtOfCode (fwFmt x) with
  | none => ⟨a, 0⟩
  | some f =>
    let r := convert f m sat r16 (numOfCode (tyFmt ty) a)
    let snan := numIsSnan (numOfCode (tyFmt ty) a)
    if fmtWidth f ≥ 32 then ⟨r.code, r.flags ||| flIf snan flNV⟩
    else ⟨(convert (tyFmt ty) .rne false 0 (numOfCode f r.code)).code, r.flags ||| flIf snan flNV⟩

/-! ## Applying an instruction to a tile -/

/-- The random number of a position (R47): 16 steps for each position in row-major order. -/
def drawOf (e : Elem) (m n : Nat) : Nat := lfsrSteps (16 * (m * runCols e + n + 1)) e.gen % 65536

/-- The generator after an SR instruction. -/
def drawnGen (e : Elem) : Nat := lfsrSteps (16 * (runRows e * runCols e)) e.gen

/-- Writes a tile buffer at the positions an instruction computes (R134); answers the flags raised. -/
def tileWrite (e : Elem) (w : Nat) (f : Nat → Nat → Flagged) : Elem × Nat :=
  (runPositions e).foldl (fun (x, fl) (m, n) =>
    if eMsk w && !maskAt e m n then (x, fl)
    else
      let r := f m n
      ({ x with t := tblSet 0 x.t (tileKey (eD w) m n) r.code }, fl ||| r.flags)) (e, 0)

/-- A value loaded from a format into a type, exactly (R135); a NaN becomes the type's own, and a signalling one sets NV
(R31, R546). -/
def loadTy (ty : Nat) (f : Fmt) (code : Nat) : Flagged :=
  let x := numOfCode f code
  ⟨(convert (tyFmt ty) .rne false 0 x).code, flIf (numIsSnan x) flNV⟩

/-! ## The engine -/

/-- Rewrites a Gable's element engine. -/
def modElem (s : Node) (g : Nat) (f : Elem → Elem) : Node := modGable s g fun y => { y with elem := f y.elem }

/-- The engine of a Gable. -/
def elemOf (s : Node) (g : Nat) : Elem := (gableOf s g).elem

/-- Sets arithmetic flags of the engine (R54). -/
def elemFlags (s : Node) (g fl : Nat) : Node := fOr s (gLoc .elemStatus g) fElemStatusFlags fl

/-- The instruction at the engine's program counter. -/
def elemWord (e : Elem) : Nat := e.image.getD e.pc 0

/-- Ends a run (R123): its entries are freed, what it has asked for is forgotten, and the run is counted. -/
def endRun (s : Node) (g : Nat) : Node :=
  let e := elemOf s g
  let s1 := modGable { s with remotes := s.remotes.filter fun r => r.who != .elemLoad g } g fun y => { y with
    gutter := y.gutter.filter fun x => !e.main.contains x
    elem := { y.elem with running := false, blocked := false, fseq := 0, main := [], run := y.elem.run + 1, maps := [] } }
  cntAdd s1 (gLoc .elemRuns g) 1

/-- TILE_TAG and PART of a run. -/
def runTag (e : Elem) : Nat := match e.main with
  | [] => 0
  | x :: _ => x.head.tag
def runPart (e : Elem) : Nat := match e.main with
  | [] => 0
  | x :: _ => x.part

/-- The older of a run's entries, by its group (R269). -/
def runOlderGroup (y : Gable) : Nat := ((y.gutter.find? fun x => y.elem.main.contains x).map (·.group)).getD 0

/-- An error stops the run before the faulting instruction (R143): its record, with what its rule adds first. -/
def runError (s : Node) (g code idx addr : Nat) (pre : List (Nat × Nat)) : Node :=
  let e := elemOf s g
  signalGable (endRun (logGable s g code addr (pre ++ [(1, e.slot), (1, idx), (4, runTag e), (1, runPart e), (2, code)])) g) g

/-- A run error at the present instruction. -/
def elemErr (s : Node) (g code : Nat) : Node := runError s g code (elemOf s g).pc 0 []

/-- The present instruction is done: the engine's new value, the flags raised, the next instruction (R145). -/
def elemDone (s : Node) (g : Nat) (e : Elem) (fl : Nat) : Node :=
  elemFlags (modElem s g fun y => { e with pc := e.pc + 1, last := y.pc, blocked := false, fseq := 0, maps := [] }) g fl

/-- Performs the present instruction where it has an opcode: the engine runs, waits on no fault, and its Gable is neither
FAULTED nor fenced. -/
def elemStep (s : Node) (g op : Nat) (f : Elem → Nat → Node) : Node :=
  let e := elemOf s g
  if e.running && e.fseq == 0 && eOp (elemWord e) == op && !isFenced s (g / 16) &&
      ctrlState s (gLoc .gableCtrl g) != stFaulted then f e (elemWord e) else s

/-- The rounding mode of an instruction (R132): RM 7 takes DEF_RM, in which 6 and 7 act as 0 (R145). -/
def elemMode (s : Node) (g w : Nat) : RMode :=
  let d := fGet s (gLoc .elemCtrl g) fElemCtrlDefRm
  (rmResolve (eRm w) (if d ≥ 6 then 0 else d)).getD .rne

/-- What an instruction that writes a tile position by position does (R131, R132, R134). -/
def elemMapGo (s : Node) (g : Nat) (f : Elem → Nat → RMode → Nat → Nat → Nat → Flagged) (e : Elem) (w : Nat) : Node :=
  let m := elemMode s g w
  let sr := decide (m = .sr)
  let (e1, fl) := tileWrite e w fun i j => f e w m (if sr then drawOf e i j else 0) i j
  elemDone s g (if sr then { e1 with gen := drawnGen e } else e1) fl

/-- Performs an instruction that writes a tile position by position (R131, R132, R134). -/
def elemMap (s : Node) (g op : Nat) (f : Elem → Nat → RMode → Nat → Nat → Nat → Flagged) : Node :=
  elemStep s g op (elemMapGo s g f)

/-- Two- and three-operand arithmetic. -/
def elemArithOp (s : Node) (g op : Nat) : Node :=
  elemMap s g op fun e w m r16 i j =>
    elemArith op (eTy w) m r16 (operandAt e w (eA w) i j) (operandAt e w (eB w) i j) (operandAt e w (eC w) i j)

/-- Bitwise and shift instructions. -/
def elemBitOp (s : Node) (g op : Nat) (f : Nat → Nat → Nat → Nat) : Node :=
  elemMap s g op fun e w _ _ i j =>
    ⟨f (eX w) (operandAt e w (eA w) i j) (operandAt e w (eB w) i j) % 2 ^ tyBits (eTy w), 0⟩

end Sys2Proof.Machine
end

