-- ==== Sys2Proof/Machine/Elem.lean ====
section
/-! DEFINITION. The element engine's commands (R122 to R143, R155 to R157): the start of a run and each element instruction.
CAST stands with the Shingle engines. -/

namespace Sys2Proof.Machine

/-! ## Runs -/

/-- The slot an entry runs, and whether it is WIDE (R122, R125). -/
def entrySlot (x : GutEntry) : Nat := bits x.head.tag 31 29
def slotWide (s : Node) (g slot : Nat) : Bool := wbit (regGet s (slotLoc g slot 64)) 0

/-- The complement of an entry (R122). -/
def complementOf (l : List GutEntry) (x : GutEntry) : Option GutEntry :=
  l.find? fun y => y.src == x.src && y.head.iseq == x.head.iseq && y.part == x.part ^^^ 1

/-- Whether an entry is ready to run (R122). -/
def entryReady (s : Node) (g : Nat) (l : List GutEntry) (x : GutEntry) : Bool :=
  !slotWide s g (entrySlot x) || x.gang == 0 || (complementOf l x).isSome

/-- The entries of a run, the lower part first. -/
def runEntries (wide : Bool) (l : List GutEntry) (x : GutEntry) : List GutEntry :=
  if wide then
    match complementOf l x with
    | some y => if x.part < y.part then [x, y] else [y, x]
    | none => [x]
  else [x]

/-- The state a run starts with (R124, R126, R128). -/
def startElem (s : Node) (g : Nat) (e0 : Elem) (main : List GutEntry) (wide : Bool) : Elem :=
  let x := main.headD GutEntry.none
  let slot := entrySlot x
  let image := (List.range 80).map fun i => (regGet s (slotLoc g slot i)).toNat
  let e : Elem := { e0 with
    running := true, pc := 0, slot := slot, blocked := false, fseq := 0, wide := wide, main := main, image := image, maps := [] }
  let afmt := match x.afmt with
    | .fp32 => 0
    | .int32 => 1
    | .fp64 => 2
  let s1 := runPM e + runPN e <<< 8 + x.part <<< 16 + x.gang <<< 18 + afmt <<< 20 + x.group <<< 22
  let params := (List.range 14).map fun i => (i + 2, image.getD (66 + i) 0)
  let sregs := ([(0, x.head.tag), (1, s1)] ++ params).filter fun p => p.2 ≠ 0
  let e1 : Elem := { e with
    sreg := sregs, vln := runPN e, vlm := runPM e
    gen := lfsrLoad (fGet s (gLoc .elemCtrl g) fElemCtrlSeed) x.head.rkey }
  { e1 with mask := maskFrom e1 (runValid e1) }

/-- The idle engine starts the oldest ready entry (R122), or fails its start checks (R142). -/
def execElemRunStart (g : Nat) (s : State) : Host.Outcome State Fault Refusal := onNode s fun s =>
  onGable g (
    let y := gableOf s g
    if y.elem.running || isFenced s (g / 16) || ctrlState s (gLoc .gableCtrl g) == stFaulted then s
    else match y.gutter.find? (entryReady s g y.gutter) with
    | none => s
    | some x =>
      let wide := slotWide s g (entrySlot x)
      let e := startElem s g y.elem (runEntries wide y.gutter x) wide
      let s1 := modElem s g fun _ => e
      match programFault wide (x.gang == 0) x.afmt e.image with
      | some i => runError s1 g 0x0340 i 0 []
      | none => s1)

def execElemEnd (g : Nat) (s : State) : Host.Outcome State Fault Refusal := onNode s fun s =>
  onGable g (elemStep s g 0x00 fun _ _ => endRun (modElem s g fun e => { e with last := e.pc }) g)

/-! ## Arithmetic (R131 to R133) -/

def execElemAdd (g : Nat) (s : State) : Host.Outcome State Fault Refusal := onNode s fun s => onGable g (elemArithOp s g 0x01)
def execElemSub (g : Nat) (s : State) : Host.Outcome State Fault Refusal := onNode s fun s => onGable g (elemArithOp s g 0x02)
def execElemMul (g : Nat) (s : State) : Host.Outcome State Fault Refusal := onNode s fun s => onGable g (elemArithOp s g 0x03)
def execElemFma (g : Nat) (s : State) : Host.Outcome State Fault Refusal := onNode s fun s => onGable g (elemArithOp s g 0x04)
def execElemMul3 (g : Nat) (s : State) : Host.Outcome State Fault Refusal := onNode s fun s => onGable g (elemArithOp s g 0x05)
def execElemMin (g : Nat) (s : State) : Host.Outcome State Fault Refusal := onNode s fun s => onGable g (elemArithOp s g 0x06)
def execElemMax (g : Nat) (s : State) : Host.Outcome State Fault Refusal := onNode s fun s => onGable g (elemArithOp s g 0x07)
def execElemDiv (g : Nat) (s : State) : Host.Outcome State Fault Refusal := onNode s fun s => onGable g (elemArithOp s g 0x08)

def execElemFn (g : Nat) (s : State) : Host.Outcome State Fault Refusal := onNode s fun s =>
  onGable g (elemStep s g 0x09 fun e w =>
    let m := elemMode s g w
    let sr := eX w == 4 && decide (m = .sr)
    let (e1, fl) := tileWrite e w fun i j =>
      elemFnVal (eX w) (eTy w) m (if sr then drawOf e i j else 0) (operandAt e w (eA w) i j)
    elemDone s g (if sr then { e1 with gen := drawnGen e } else e1) fl)

/-- SEL (R132): NV where a signalling NaN is read, the tested operand or the one selected (R546). DESIGN CHOICE (log entry
192): the selected code is moved as it is, a NaN's payload included, for R31 does not say whether a move produces a NaN. -/
def execElemSel (g : Nat) (s : State) : Host.Outcome State Fault Refusal := onNode s fun s =>
  onGable g (elemStep s g 0x0A fun e w =>
    let (e1, fl) := tileWrite e w fun i j =>
      let a := operandAt e w (eA w) i j
      let v := if elemNonzero (eTy w) a then operandAt e w (eB w) i j else operandAt e w (eC w) i j
      ⟨v, snanFlag (eTy w) a ||| snanFlag (eTy w) v⟩
    elemDone s g e1 fl)

def execElemCmp (g : Nat) (s : State) : Host.Outcome State Fault Refusal := onNode s fun s =>
  onGable g (elemStep s g 0x0B fun e w =>
    let (e1, fl) := tileWrite e w fun i j =>
      elemCmp (bits (eX w) 2 0) (eTy w) (operandAt e w (eA w) i j) (operandAt e w (eB w) i j)
    elemDone s g e1 fl)

def execElemAnd (g : Nat) (s : State) : Host.Outcome State Fault Refusal := onNode s fun s => onGable g (elemBitOp s g 0x0C fun _ a b => a &&& b)
def execElemOr (g : Nat) (s : State) : Host.Outcome State Fault Refusal := onNode s fun s => onGable g (elemBitOp s g 0x0D fun _ a b => a ||| b)
def execElemXor (g : Nat) (s : State) : Host.Outcome State Fault Refusal := onNode s fun s => onGable g (elemBitOp s g 0x0E fun _ a b => a ^^^ b)
def execElemShl (g : Nat) (s : State) : Host.Outcome State Fault Refusal := onNode s fun s =>
  onGable g (elemBitOp s g 0x0F fun _ a b => a <<< (b % 32))

/-- SHR: logical, or arithmetic with X[0] (R131). -/
def execElemShr (g : Nat) (s : State) : Host.Outcome State Fault Refusal := onNode s fun s =>
  onGable g (elemBitOp s g 0x10 fun x a b =>
    if bit x 0 then wrap 32 (signed 32 a / 2 ^ (b % 32)) else a >>> (b % 32))

def execElemCvt (g : Nat) (s : State) : Host.Outcome State Fault Refusal := onNode s fun s =>
  onGable g (elemMap s g 0x14 fun e w m r16 i j =>
    elemCvt (eTy w) (eX w) m (eSat w) r16 (operandAt e w (eA w) i j))

/-! ## Reductions, permutation, rotation (R133, R138, R139) -/

/-- Adds adjacent pairs, each sum rounded RNE. -/
def pairSums (ty : Nat) : List Flagged → List Flagged
  | a :: b :: t =>
    let f := tyFmt ty
    let o := numAdd false (numOfCode f a.code) (numOfCode f b.code)
    let r := elemDeliver ty .rne 0 o.nv o.val
    ⟨r.code, a.flags ||| b.flags ||| r.flags⟩ :: pairSums ty t
  | l => l

/-- The pairwise tree of a group (R133): one level for each unit of fuel. -/
def treeSum (ty : Nat) : Nat → List Flagged → Flagged
  | 0, l => l.headD ⟨0, 0⟩
  | n + 1, l => treeSum ty n (pairSums ty l)

/-- The identity of a reduction (R133). -/
def redIdentity (kind ty : Nat) : Nat :=
  if kind = 0 then (if ty = 1 then 0x80000000 else infCodeOf (tyFmt ty)) else 0
where
  infCodeOf (f : Fmt) : Nat := match fmtLayout f with
    | some l => infCode l true
    | none => 0

/-- The larger of two, or of two magnitudes, by maximumNumber (R133, R546). -/
def redMax (ty : Nat) (a b : Flagged) : Flagged :=
  let f := tyFmt ty
  let o := numMinMax true (numOfCode f a.code) (numOfCode f b.code)
  let r := deliver f .rne 0 o.nv o.val
  ⟨r.code, a.flags ||| b.flags ||| r.flags⟩

/-- One position as a reduction takes it. -/
def redTerm (kind ty a : Nat) : Flagged :=
  let f := tyFmt ty
  let x := numOfCode f a
  match kind with
  | 1 =>
    if ty = 1 then elemFnVal 0 1 .rne 0 a
    else deliver f .rne 0 (numIsSnan x) (numAbs x)
  | 3 => let o := numMul x x; elemDeliver ty .rne 0 o.nv o.val
  | _ => ⟨a, 0⟩

/-- The reduction of a group: masked positions are the identity, which sets no flag. -/
def reduceGroup (kind ty : Nat) (l : List (Option Nat)) : Flagged :=
  let ts := l.map fun p => match p with
    | some a => redTerm kind ty a
    | none => ⟨redIdentity kind ty, 0⟩
  if kind ≤ 1 then
    match ts with
    | [] => ⟨0, 0⟩
    | t :: rest => rest.foldl (redMax ty) t
  else treeSum ty 7 ts

/-- The positions of the group that holds a position (R133, R139). -/
def groupPositions (dim size m n : Nat) : List (Nat × Nat) :=
  if dim = 0 then (List.range size).map fun i => (m, n / size * size + i)
  else (List.range size).map fun i => (m / size * size + i, n)

/-- The present flags of the groups an instruction computes, and its tile: a value for each group's head is formed once
for each of its positions. -/
def execElemRed (g : Nat) (s : State) : Host.Outcome State Fault Refusal := onNode s fun s =>
  onGable g (elemStep s g 0x15 fun e w =>
    let x := eX w
    let dim := bits x 2 2
    let size := if bits x 4 3 = 3 then (if dim = 0 then runCols e else runRows e) else blockOf (bits x 4 3)
    let (e1, fl) := tileWrite e w fun i j =>
      reduceGroup (bits x 1 0) (eTy w) ((groupPositions dim size i j).map fun (m, n) =>
        if maskAt e m n then some (operandAt e w (eA w) m n) else none)
    elemDone s g e1 fl)

/-- PERM (R138): an index outside VLN or VLM yields zero and sets INDEX_RANGE. DESIGN CHOICE (log entry 192): the code that is
moved stays as it is, a NaN's payload included (R31). -/
def execElemPerm (g : Nat) (s : State) : Host.Outcome State Fault Refusal := onNode s fun s =>
  onGable g (elemStep s g 0x16 fun e w =>
    let across := !bit (eX w) 0
    let index := fun i j => signed 32 (operandAt e w (eB w) i j)
    let bad := fun i j => let v := index i j; decide (v < 0) || decide (v ≥ (if across then e.vln else e.vlm : Nat))
    let (e1, fl) := tileWrite e w fun i j =>
      if bad i j then ⟨0, 0⟩
      else
        let v := (index i j).toNat
        let x := if across then operandAt e w (eA w) i v else operandAt e w (eA w) v j
        ⟨x, snanFlag (eTy w) x⟩
    let out := (runPositions e).any fun (i, j) => (!eMsk w || maskAt e i j) && bad i j
    fOr (elemDone s g e1 fl) (gLoc .elemStatus g) fElemStatusIndexRange (b2n out))

/-- SETVL (R131). -/
def execElemSetvl (g : Nat) (s : State) : Host.Outcome State Fault Refusal := onNode s fun s =>
  onGable g (elemStep s g 0x17 fun e w =>
    let x := eX w
    let v := bits x 7 0
    if bit x 8 then elemDone s g { e with vlm := if v = 0 then runPM e else min v (runRows e) } 0
    else elemDone s g { e with vln := if v = 0 then runPN e else min v (runCols e) } 0)

/-- One stage of the butterfly: pairs at distance `h` become sum and difference, rounded RNE (R139). -/
def hadStage (ty h : Nat) (l : List Num) : List Nat × Nat :=
  let rs := l.mapIdx fun i x =>
    let o := if i / h % 2 = 0 then numAdd false x (l.getD (i + h) (numOfInt 0))
      else numAdd false (l.getD (i - h) (numOfInt 0)) (numNegate x)
    elemDeliver ty .rne 0 o.nv o.val
  (rs.map (·.code), (rs.map (·.flags)).foldl (· ||| ·) 0)

/-- The stages h = 1, 2, 4, …, one for each unit of fuel: the values, and the flags raised. -/
def hadStages (ty : Nat) : Nat → Nat → List Num → Nat → List Num × Nat
  | 0, _, l, fl => (l, fl)
  | k + 1, h, l, fl =>
    let (l1, f1) := hadStage ty h l
    hadStages ty k (2 * h) (l1.map (numOfCode (tyFmt ty))) (fl ||| f1)

/-- The NORM constant's exact value in a type (R139). -/
def hadNorm (ty size : Nat) : Num :=
  if ty = 2 then
    numOfCode .fp64 (deliver .fp64 .rne 0 false (numSqrt (.fin false 1 (-(Nat.log2 size : Int)))).val).code
  else numOfCode .fp32 (match size with
    | 32 => 0x3E3504F3
    | 64 => 0x3E000000
    | _ => 0x3DB504F3)

/-- The rotation of one block (R139): signs, applied exactly, stages and NORM; the output codes and the flags raised. -/
def hadBlock (ty size signs : Nat) (norm : Bool) (l : List Nat) : List Nat × Nat :=
  let f := tyFmt ty
  let l0 := l.mapIdx fun i a => if bit signs i then numNegate (numOfCode f a) else numOfCode f a
  let (l1, fl) := hadStages ty (Nat.log2 size) 1 l0 0
  let rs := l1.map fun x =>
    if norm then let o := numMul x (hadNorm ty size); elemDeliver ty .rne 0 o.nv o.val
    else deliver f .rne 0 false x
  (rs.map (·.code), fl ||| (rs.map (·.flags)).foldl (· ||| ·) 0)

/-- HAD (R139): masked positions are read as +0. -/
def execElemHad (g : Nat) (s : State) : Host.Outcome State Fault Refusal := onNode s fun s =>
  onGable g (elemStep s g 0x18 fun e w =>
    let x := eX w
    let dim := bits x 2 2
    let size := blockOf (bits x 4 3)
    let signs := sAt e (eB w) + sAt e (eB w + 1) * 2 ^ 64
    let (e1, fl) := tileWrite e w fun i j =>
      let ps := groupPositions dim size i j
      let (out, fl) := hadBlock (eTy w) size signs (bit x 5)
        (ps.map fun (m, n) => if maskAt e m n then operandAt e w (eA w) m n else 0)
      ⟨out.getD (if dim = 0 then j % size else i % size) 0, fl⟩
    elemDone s g e1 fl)

/-! ## Mask and scalars (R131) -/

/-- MSK (R132): the positions that a nonzero operand, or all, select; NV where a signalling NaN is read (R546). -/
def execElemMsk (g : Nat) (s : State) : Host.Outcome State Fault Refusal := onNode s fun s =>
  onGable g (elemStep s g 0x19 fun e w =>
    let k := maskFrom e fun m n =>
      runValid e m n && (!bit (eX w) 0 || elemNonzero (eTy w) (operandAt e w (eA w) m n))
    let fl := if bit (eX w) 0 && (runPositions e).any (fun p => runValid e p.1 p.2 && snanFlag (eTy w) (operandAt e w (eA w) p.1 p.2) != 0)
      then flNV else 0
    elemDone s g { e with mask := k } fl)

/-- A scalar operand of SOP: a register, or X sign-extended to 64 bits (R130). -/
def sopArg (e : Elem) (w code : Nat) : Nat := if code = 0x30 then wrap 64 (signed 16 (eX w)) else sAt e code

/-- SOP, modulo 2⁶⁴ (R131). -/
def execElemSop (g : Nat) (s : State) : Host.Outcome State Fault Refusal := onNode s fun s =>
  onGable g (elemStep s g 0x1C fun e w =>
    let a := sopArg e w (eA w)
    let b := sopArg e w (eB w)
    let v : Nat := match eC w with
      | 0 => a + b
      | 1 => wrap 64 ((a : Int) - b)
      | 2 => a * b
      | 3 => a <<< (b % 64)
      | 4 => a >>> (b % 64)
      | 5 => a &&& b
      | 6 => a ||| b
      | _ => a ^^^ b
    elemDone s g (setS e (eD w) v) 0)

/-- SKIP passes the next X[5:0] instructions (R131). -/
def execElemSkip (g : Nat) (s : State) : Host.Outcome State Fault Refusal := onNode s fun s =>
  onGable g (elemStep s g 0x1D fun e w =>
    let take := if bit (eX w) 6 then sAt e (eA w) ≠ 0 else sAt e (eA w) = 0
    elemDone s g (if take then { e with pc := e.pc + bits (eX w) 5 0 } else e) 0)

/-! ## Memory access (R135 to R137) -/

/-- Line and index of a position: rows, or columns with TR. -/
def elemPlace (w m n : Nat) : Nat × Nat := if bit (eX w) 6 then (n, m) else (m, n)

/-- First and last byte of an element in its line (R33). -/
def elemSpan (width idx : Nat) : Nat × Nat := (idx * width / 8, (idx * width + width - 1) / 8)

/-- Base and stride of an access misaligned, or a scratch base beyond its 22 bits: checked whatever MASK holds (R135). -/
def elemAddrBad (w base stride size : Nat) : Bool :=
  (bit (eX w) 15 && bits base 63 22 != 0) || base % size != 0 || stride % size != 0

/-- Element size in bytes for alignment. -/
def elemSize (f : Fmt) : Nat := max 1 (fmtWidth f / 8)

/-- The byte offsets an access touches, each with the address `f` gives it. -/
def addrOf (l : List (Int × Nat)) (off : Int) : Nat := ((l.find? fun p => p.1 == off).map (·.2)).getD 0

/-- Bytes of a store behind windows that are not valid (R335, R337): each line is recorded with TILE_TAG and PART, no byte of
it is stored, and the run goes on. -/
def failBytes (s : Node) (g : Nat) (bad : List Nat) : Node :=
  (distinctLines bad).foldl (fun s line => logRemote s (g / 16) (g % 16 + 1) 0x0608 ((bad.find? fun a => lineOf a == line).getD 0)
    [(4, runTag (elemOf s g)), (1, runPart (elemOf s g))]) s

/-- Resolves an access's byte offsets, in the access's own order, to scratch offsets or physical addresses, then continues
with them, the translation list and the uncached lines; an error ends the run, a page fault blocks it, and a store leaves
out the bytes behind invalid windows (R117, R135, R137, R265, R266, R337). -/
def elemResolve (s : Node) (g w acc base : Nat) (offs : List Int)
    (f : Node → List (Int × Nat) → List PageMap → List Nat → Node) : Node :=
  if bit (eX w) 15 then
    let at_ := offs.map fun o => (o, (bits base 20 0 : Int) + o)
    if at_.any (fun p => decide (p.2 < 0) || decide (p.2 ≥ 0x200000)) then elemErr s g 0x0341
    else if bit base 21 && ctrlState s (gLoc .gableCtrl (partner g)) == stFaulted then elemErr s g eRefused
    else f s (at_.map fun p => (p.1, p.2.toNat)) [] []
  else
    let vas := offs.map fun o => wrap 64 ((base : Int) + o)
    match transGo (g / 16) (some g) acc vas s (elemOf s g).maps [] with
    | (s1, .fault va wf) =>
      let (lo, hi) := spanOf vas
      let (s2, q) := queueFault s1 (.elem g) acc (((g / 16) <<< 4) + 3) (g % 16) (runOlderGroup (gableOf s g)) va lo hi wf
      modElem s2 g fun e => { e with blocked := true, fseq := q, maps := [] }
    | (s1, .tooMany) => elemErr s1 g 0x0342
    | (s1, .ok pas pages) =>
      let gone := fun (a : Nat) => decide (acc = accWrite) && paFault s1 a 1 == some 0x0608
      match pas.find? (fun p => (paFault s1 p.1 1).isSome && !gone p.1) with
      | some p =>
        let code := (paFault s1 p.1 1).getD 0
        if code = 0x0608 then
          runError s1 g code (elemOf s1 g).pc (bits p.1 39 0)
            [(2, bits p.1 54 40), (4, fGet s1 (bLoc .dzWindow 0 [bits p.1 54 40]) fDzWindowEp)]
        else elemErr s1 g code
      | none => f (failBytes s1 g ((pas.map (·.1)).filter gone)) ((offs.zipWith (fun o p => (o, p.1)) pas).filter fun p => !gone p.2) pages
          ((pas.filter fun p => !p.2).map fun p => lineOf p.1)

/-- Virtual and physical addresses of an element access's bytes. -/
def elemPairs (base : Nat) (l : List (Int × Nat)) : List (Nat × Nat) := l.map fun p => (wrap 64 ((base : Int) + p.1), p.2)

/-- Whether every remote byte of a load has been answered (R335). -/
def remoteReady (s : Node) (g : Nat) (far : List Nat) : Bool :=
  far.all fun a => (remoteAt s (.elemLoad g) a).any fun r => r.result.isSome

/-- Asks for the remote bytes of a load not yet asked for: one LOAD for the contiguous bytes of a page (R335). -/
def askRemote (maps : List PageMap) (s : Node) (g : Nat) (far : List Nat) : Node :=
  far.foldl (fun s a => if (remoteAt s (.elemLoad g) a).isSome then s else askRun maps s (.elemLoad g) far 1 a) s

/-- A byte that an element load reads: scratch, an answered remote one, memory at its home through an uncached page, or memory
with the run's own stores. -/
def elemByte (s : Node) (g w base : Nat) (uncached : List Nat) (a : Nat) : Byte :=
  if bit (eX w) 15 then scratchByte s (scratchGable g base) a
  else if bit a 55 then ((remoteAt s (.elemLoad g) a).elim [] (remoteFrom · a)).headD 0
  else if uncached.contains (lineOf a) ∧ paKind s a = .hbm then readByte s a
  else loadByte s g (64 + (elemOf s g).run) a

/-- Reads the bytes of an access, then continues with the byte at each offset: a load waits for its remote bytes, keeping its
translation list, and poison or a failed remote access ends the run (R241, R265, R276, R337, R547). -/
def elemRead (s : Node) (g w base : Nat) (offs : List Int) (f : Node → (Int → Nat) → Node) : Node :=
  elemResolve s g w accRead base offs fun s1 at_ pages uncached =>
    let byte := fun (s : Node) (o : Int) => (elemByte s g w base uncached (addrOf at_ o)).toNat
    if bit (eX w) 15 then f s1 (byte s1)
    else
      let far := (at_.map (·.2)).filter fun a => bit a 55
      let near := distinctLines ((at_.filter fun p => decide (paKind s1 p.2 = .hbm)).map (·.2))
      let poisoned := fun (s : Node) (line : Nat) => runError s g ePoison (elemOf s g).pc (line * lineBytes)
        [(1, 3), (1, g % 16), (1, runOlderGroup (gableOf s g))]
      match near.find? (fun l => readsPoison s1 (if uncached.contains l then 12 else g / 16) l) with
      | some l => poisoned s1 l
      | none =>
        if !remoteReady s1 g far then
          let new := (elemPairs base at_).filter fun p => bit p.2 55 && (remoteAt s1 (.elemLoad g) p.2).isNone
          modElem (askRemote pages (countFar s1 (g / 16) pages new) g far) g fun e => { e with blocked := true, maps := pages }
        else
          match s1.remotes.find? (fun r => r.who == .elemLoad g && decide ((r.result.map (·.1)).getD 0 ≠ 0)) with
          | some r =>
            let code := (r.result.map (·.1)).getD 0
            if code = ePoison then poisoned s1 (lineOf (remotePa r))
            else runError s1 g code (elemOf s1 g).pc r.addr [(2, r.window), (4, r.ep)]
          | none =>
            let s2 := near.foldl (fun s l =>
              if uncached.contains l then homeRead s (baseOfGable g) clsGable l else touchRead s (g / 16) l .gable) s1
            f { s2 with remotes := s2.remotes.filter fun r => r.who != .elemLoad g } (byte s2)

/-- The bits of an element from its bytes: line offset, index and width (R33). -/
def elemBits (byte : Int → Nat) (line : Int) (width idx : Nat) : Nat :=
  let (a, b) := elemSpan width idx
  let v := ((List.range (b + 1 - a)).map fun i => byte (line + (a + i : Nat)) * 256 ^ i).foldl (· + ·) 0
  (v >>> (idx * width % 8)) % 2 ^ width

/-- The byte offsets of an element. -/
def elemOffs (line : Int) (width idx : Nat) : List Int :=
  let (a, b) := elemSpan width idx
  (List.range (b + 1 - a)).map fun i => line + (a + i : Nat)

/-- The positions a tile access takes part with (R136). -/
def accessedPositions (e : Elem) : List (Nat × Nat) := (runPositions e).filter fun (m, n) => runValid e m n && maskAt e m n

/-- The bytes of a scalar, of a vector, and of the accessed positions of a tile, as offsets from the base (R135, R136). -/
def scalarOffs : List Int := (List.range 8).map fun i => (i : Int)
def vectorLen (e : Elem) (w : Nat) : Nat := if bits (eX w) 14 13 = 1 then e.vln else e.vlm
def vectorOffs (e : Elem) (w : Nat) (f : Fmt) : List Int := ((List.range (vectorLen e w)).flatMap (elemOffs 0 (fmtWidth f))).eraseDups
def tileLine (e : Elem) (w m n : Nat) : Int := ((elemPlace w m n).1 : Int) * signed 64 (sAt e (eB w))
def tileOffs (e : Elem) (w : Nat) (f : Fmt) : List Int :=
  ((accessedPositions e).flatMap fun (m, n) => elemOffs (tileLine e w m n) (fmtWidth f) (elemPlace w m n).2).eraseDups

/-- LD of a scalar: 8 raw bytes (R135). -/
def loadScalar (s : Node) (g : Nat) (e : Elem) (w : Nat) : Node :=
  let base := sAt e (eA w)
  if elemAddrBad w base 0 8 then elemErr s g 0x0341
  else elemRead s g w base scalarOffs fun s1 byte =>
    elemDone s1 g (setS e (eD w) (elemBits byte 0 64 0)) 0

/-- LD of a vector: the entries below VLN or VLM, zero beyond (R135). -/
def loadVector (s : Node) (g : Nat) (e : Elem) (w : Nat) (f : Fmt) : Node :=
  let base := sAt e (eA w)
  if elemAddrBad w base 0 (elemSize f) then elemErr s g 0x0341
  else elemRead s g w base (vectorOffs e w f) fun s1 byte =>
    let (v, fl) := (List.range 128).foldl (fun (p : Tbl Nat × Nat) i =>
      let r : Flagged := if i < vectorLen e w then loadTy (eTy w) f (elemBits byte 0 (fmtWidth f) i) else ⟨0, 0⟩
      (tblSet 0 p.1 (eD w % 8 * 128 + i) r.code, p.2 ||| r.flags)) (e.v, 0)
    elemDone s1 g { e with v := v } fl

/-- LD of a tile (R135, R136). -/
def loadTile (s : Node) (g : Nat) (e : Elem) (w : Nat) (f : Fmt) : Node :=
  let base := sAt e (eA w)
  if elemAddrBad w base (sAt e (eB w)) (elemSize f) then elemErr s g 0x0341
  else elemRead s g w base (tileOffs e w f) fun s1 byte =>
    let (e1, fl) := tileWrite e w fun m n =>
      if runValid e m n && maskAt e m n then loadTy (eTy w) f (elemBits byte (tileLine e w m n) (fmtWidth f) (elemPlace w m n).2)
      else ⟨0, 0⟩
    elemDone s1 g e1 fl

def execElemLd (g : Nat) (s : State) : Host.Outcome State Fault Refusal := onServed s fun s =>
  onGable g (elemStep s g 0x20 fun e w =>
    match bits (eX w) 14 13, fmtOfCode (bits (eX w) 4 0) with
    | 0, _ => loadScalar s g e w
    | 3, some f => if bit (eX w) 12 then s else loadTile s g e w f
    | _, some f => loadVector s g e w f
    | _, none => s)

/-! ## Scale streams (R155 to R157) -/

/-- Record size of a scale format. -/
def scaleSize (w : Nat) : Nat := if bits (eX w) 4 0 = 5 then 2 else 8

/-- Blocks along dimension X[9] over the run's full extent, and the block that holds a position: line and number. -/
def scaleNb (e : Elem) (w : Nat) : Nat := (if bit (eX w) 9 then runRows e else runCols e) / blockOf (bits (eX w) 8 7)
def scaleBlock (w m n : Nat) : Nat × Nat :=
  let size := blockOf (bits (eX w) 8 7)
  if bit (eX w) 9 then (n, m / size) else (m, n / size)

/-- The blocks with a position in the valid region, in ascending order (R156, R157). DESIGN CHOICE (log entry 192): R157 does not
say how blocks of different lines follow one another; the lines come first. -/
def scaleBlocks (e : Elem) (w : Nat) : List (Nat × Nat) :=
  let size := blockOf (bits (eX w) 8 7)
  let (lines, len) := if bit (eX w) 9 then (runPN e, runPM e) else (runPM e, runPN e)
  (List.range lines).flatMap fun l => ((List.range (scaleNb e w)).filter fun b => b * size < len).map fun b => (l, b)

/-- The byte offset of a block's record, and those of the records that a scale load reads and that STSC writes: one for each
block whose first position is valid and unmasked (R155, R156). -/
def scaleOff (e : Elem) (w : Nat) (p : Nat × Nat) : Int := (((p.1 * scaleNb e w + p.2) * scaleSize w : Nat) : Int)
def scaleFirsts (e : Elem) (w : Nat) : List (Nat × Nat) :=
  (accessedPositions e).filter fun (i, j) => (if bit (eX w) 9 then i else j) % blockOf (bits (eX w) 8 7) = 0
def scaleOffs (e : Elem) (w : Nat) (blocks : List (Nat × Nat)) : List Int :=
  blocks.flatMap fun p => (List.range (scaleSize w)).map fun i => scaleOff e w p + (i : Int)

/-- What a scale load does: the records of its blocks are read in order, each checked for reserved bits and its tag (R156,
R157). -/
def loadScales (s : Node) (g : Nat) (e : Elem) (w : Nat) : Node :=
  if bits (eX w) 14 13 ≠ 3 ∨ bit (eX w) 12 = false then s
  else
    let r := scaleSize w
    let base := sAt e (eA w)
    let blocks := scaleBlocks e w
    let f : Fmt := if r = 2 then .e4m3 else .fp32
    if elemAddrBad w base 0 (elemSize f) then elemErr s g 0x0341
    else elemRead s g w base (scaleOffs e w blocks) fun s1 byte =>
      let rec_ := fun p => elemBits byte (scaleOff e w p) (8 * r) 0
      let tag := fun p => if r = 2 then bits (rec_ p) 15 8 else bits (rec_ p) 39 32
      let bad := fun (p : Nat × Nat) => (r == 8 && bits (rec_ p) 63 40 != 0) || tag p != (sAt e (eC w) + p.2) % 256
      match blocks.find? bad with
      | some p => elemErr s1 g (if r = 8 ∧ bits (rec_ p) 63 40 ≠ 0 then 0x0311 else 0x0310)
      | none =>
        let (e1, fl) := tileWrite e w fun m n =>
          if blocks.contains (scaleBlock w m n) then
            loadTy (eTy w) f (rec_ (scaleBlock w m n) % 2 ^ fmtWidth f)
          else ⟨0, 0⟩
        elemDone s1 g e1 fl

/-- A scale load (R156, R157). -/
def execElemScaleLoad (g : Nat) (s : State) : Host.Outcome State Fault Refusal := onServed s fun s =>
  onGable g (elemStep s g 0x20 (loadScales s g))

/-- Who makes an element store's remote accesses. -/
def elemStorer (e : Elem) (g : Nat) : RemoteWho :=
  .elemStore g (runTag e) (runPart e) ((e.main.headD GutEntry.none).tile)

/-- Writes an access's bytes, offset and value each, and ends the instruction (R135, R137); `order` lists their offsets
in the access's own order (R266). -/
def elemWrite (s : Node) (g : Nat) (e : Elem) (w base : Nat) (order : List Int) (out : List (Int × Nat)) (e1 : Elem) (fl : Nat) : Node :=
  elemResolve s g w accWrite base order fun s1 at_ pages uncached =>
    let l := (out.filter fun p => at_.any fun q => q.1 == p.1).map fun p => (addrOf at_ p.1, (BitVec.ofNat 8 p.2 : Byte))
    let s2 := if bit (eX w) 15 then
        let h := scratchGable g base
        l.foldl (fun s (a, v) => scratchWrite s h a [v]) s1
      else storeAll (countFar s1 (g / 16) pages (elemPairs base at_)) g (64 + e.run) pages uncached (elemStorer e g) l
    elemDone s2 g e1 fl

/-- A tile store's bytes (R136): a byte is written when a stored element has a bit in it; elements not stored are zero
codes in it. -/
def packStore (width : Nat) (l : List (Int × Nat × Nat)) : List (Int × Nat) :=
  let parts := l.flatMap fun (line, idx, code) =>
    (elemOffs line width idx).mapIdx fun i o => (o, (code <<< (idx * width % 8)) >>> (8 * i) % 256)
  ((parts.map (·.1)).eraseDups).map fun o => (o, ((parts.filter fun p => p.1 == o).map (·.2)).foldl (· ||| ·) 0)

/-- One value for each byte of overlapping lines: which of the values stored to one byte stays is open. -/
def settleBytes (fresh : Nat) (l : List (Int × Nat)) : List (Int × Nat) :=
  ((l.map (·.1)).eraseDups).mapIdx fun k o =>
    let vs := (l.filter fun p => p.1 == o).map (·.2)
    (o, vs.getD (Config.freeNat (fresh + k) % vs.length) 0)

/-- The bytes of a tile store's lines, from line offset, line, index and code of each element; lines overlap where the
stride is shorter than a line. -/
def lineBytesOf (width : Nat) (l : List (Int × Nat × Nat × Nat)) : List (Int × Nat) :=
  if width ≥ 8 then
    l.flatMap fun (off, _, idx, c) => (leBytes (width / 8) c).mapIdx fun i v => (off + ((idx * width / 8 + i : Nat) : Int), v.toNat)
  else ((l.map (·.2.1)).eraseDups).flatMap fun ln =>
    packStore width ((l.filter fun p => p.2.1 == ln).map fun p => (p.1, p.2.2.1, p.2.2.2))

/-- What a tile store does: the accessed positions are converted and stored (R136). -/
def storeTile (s : Node) (g : Nat) (e : Elem) (w : Nat) : Node :=
  match fmtOfCode (bits (eX w) 4 0) with
  | none => s
  | some f =>
    let base := sAt e (eD w)
    let stride := sAt e (eB w)
    let m := elemMode s g w
    let sr := decide (m = .sr)
    if elemAddrBad w base stride (elemSize f) then elemErr s g 0x0341
    else
      let codes := (accessedPositions e).map fun (i, j) =>
        let src := numOfCode (tyFmt (eTy w)) (operandAt e w (eA w) i j)
        let r := convert f m (eSat w) (if sr then drawOf e i j else 0) src
        let (ln, idx) := elemPlace w i j
        ((tileLine e w i j, ln, idx, r.code), r.flags ||| flIf (numIsSnan src) flNV)
      let out := lineBytesOf (fmtWidth f) (codes.map (·.1))
      let length := (codes.map fun p => (elemSpan (fmtWidth f) p.1.2.2.1).2 + 1).foldl max 0
      let over_ := decide ((signed 64 stride).natAbs < length)
      let s1 := if over_ then { s with fresh := s.fresh + out.length } else s
      elemWrite s1 g e w base (tileOffs e w f) (if over_ then settleBytes s.fresh out else out) (if sr then { e with gen := drawnGen e } else e)
        ((codes.map (·.2)).foldl (· ||| ·) 0)

/-- A tile store (R136). -/
def execElemSt (g : Nat) (s : State) : Host.Outcome State Fault Refusal := onServed s fun s =>
  onGable g (elemStep s g 0x21 (storeTile s g))

/-- What STSC does: one record for each block whose first position is valid and unmasked (R155). -/
def storeScales (s : Node) (g : Nat) (e : Elem) (w : Nat) : Node :=
  let r := scaleSize w
  let base := sAt e (eD w)
  let m := elemMode s g w
  let sr := decide (m = .sr)
  let f : Fmt := if r = 2 then .e4m3 else .fp32
  if elemAddrBad w base 0 (elemSize f) then elemErr s g 0x0341
  else
    let recs := (scaleFirsts e w).map fun (i, j) =>
      let src := numOfCode (tyFmt (eTy w)) (operandAt e w (eA w) i j)
      let c := convert f m (eSat w) (if sr then drawOf e i j else 0) src
      let p := scaleBlock w i j
      let tag := (sAt e (eB w) + p.2) % 256
      ((scaleOff e w p, if r = 2 then c.code + tag * 256 else c.code + tag * 2 ^ 32), c.flags ||| flIf (numIsSnan src) flNV)
    let out := recs.flatMap fun ((o, v), _) => (leBytes r v).mapIdx fun i b => (o + (i : Int), b.toNat)
    elemWrite s g e w base (out.map (·.1)) out (if sr then { e with gen := drawnGen e } else e) ((recs.map (·.2)).foldl (· ||| ·) 0)

/-- STSC (R155): one record for each block whose first position is valid and unmasked. -/
def execElemStsc (g : Nat) (s : State) : Host.Outcome State Fault Refusal := onServed s fun s =>
  onGable g (elemStep s g 0x22 (storeScales s g))

/-- The virtual addresses of the bytes that the present instruction accesses in memory; none where it accesses none, or
scratch (R135, R155). -/
def elemReach (e : Elem) : List Nat :=
  let w := elemWord e
  let at_ := fun (code : Nat) (l : List Int) => if bit (eX w) 15 then [] else l.map fun o => wrap 64 ((sAt e code : Int) + o)
  match eOp w, bits (eX w) 14 13, fmtOfCode (bits (eX w) 4 0) with
  | 0x20, 0, _ => at_ (eA w) scalarOffs
  | 0x20, 3, some f => at_ (eA w) (if bit (eX w) 12 then scaleOffs e w (scaleBlocks e w) else tileOffs e w f)
  | 0x20, _, some f => at_ (eA w) (vectorOffs e w f)
  | 0x21, _, some f => at_ (eD w) (tileOffs e w f)
  | 0x22, _, _ => at_ (eD w) (scaleOffs e w ((scaleFirsts e w).map fun p => scaleBlock w p.1 p.2))
  | _, _, _ => []

/-- SIG (R141): waits for the run's stores, then adds to an arrival counter. DESIGN CHOICE (log entry 192): BLOCKED is set while
it waits, and while a load waits for remote lines, though R145 names back-pressure and translation only. -/
def execElemSig (g : Nat) (s : State) : Host.Outcome State Fault Refusal := onNode s fun s =>
  onGable g (elemStep s g 0x28 fun e w =>
    if storesPending s (g / 16) (g % 16) (64 + e.run) ||
        s.remotes.any (fun r => decide (r.result = none) && r.who == elemStorer e g) then
      modElem s g fun x => { x with blocked := true }
    else elemDone (addArrival s g (eD w) (sAt e (eB w) % 2 ^ 32)) g e 0)

end Sys2Proof.Machine
end

