-- ==== Sys2Proof/Machine/Shingle.lean ====
section
/-! DEFINITION. The Shingle engine: groups, arms, buckets, the tree order, contributions, the element engine's CAST
(R140, R348 to R368). -/

namespace Sys2Proof.Machine

/-! ## Slices, groups, formats -/

/-- The slice of base die `b`, the bucket of a tag and its slice (R350). -/
def shgOf (s : Node) (b : Nat) : Shg := tblGet Shg.reset s.shgs b
def modShg (s : Node) (b : Nat) (f : Shg → Shg) : Node := { s with shgs := tblMod Shg.reset s.shgs b f }
def sliceOf (tag : Nat) : Nat := tag / 1024 % 4
def bucketOf (s : Node) (tag : Nat) : Bucket := tblGet Bucket.free (shgOf s (sliceOf tag)).buckets tag
def modBucket (s : Node) (tag : Nat) (f : Bucket → Bucket) : Node :=
  modShg s (sliceOf tag) fun x => { x with buckets := tblMod Bucket.free x.buckets tag f }

/-- Bucket states (R354). -/
def bFree : Nat := 0
def bFilling : Nat := 1
def bHeld : Nat := 2
def bReducing : Nat := 3
def bGathering : Nat := 4
def bFailed : Nat := 5

/-- Whether a slice is ON; whether it performs packets, as it does until it is OFF (R366); whether its launches are held. -/
def shgOn (s : Node) (b : Nat) : Bool := isOn s (bLoc .shgCtrl b)
def shgRuns (s : Node) (b : Nat) : Bool := decide (ctrlState s (bLoc .shgCtrl b) ≠ stOff)
def shgHold (s : Node) (b : Nat) : Bool := fGet s (bLoc .shgCtrl b) fShgCtrlHold == 1

/-- Counter `j` of a slice (R368). -/
def shgCount (s : Node) (b j : Nat) : Node := cntAdd s (bLoc .shgCounters b [j]) 1

/-- A group entry (R348): valid with a rank count of 1 to 65,536 that its own rank lies in and a table in local HBM. -/
def groupN (s : Node) (x : Nat) : Nat := fGet s (bLoc .shgGroupW0 0 [x]) fShgGroupW0N
def groupRank (s : Node) (x : Nat) : Nat := fGet s (bLoc .shgGroupW0 0 [x]) fShgGroupW0Myrank
def groupTable (s : Node) (x : Nat) : Nat := fGet s (bLoc .shgGroupW1 0 [x]) fShgGroupW1Ranktab * 8
def groupOk (s : Node) (x : Nat) : Bool :=
  fGet s (bLoc .shgGroupW0 0 [x]) fShgGroupW0Valid == 1 && decide (1 ≤ groupN s x) && decide (groupN s x ≤ 65536) &&
  decide (groupRank s x < groupN s x) && inHbm s (groupTable s x) (8 * groupN s x)

/-- The rank table of a group as memory holds it: endpoint and UPDATER of each rank. -/
def rankTable (s : Node) (x : Nat) : List (Nat × Nat) :=
  (List.range (groupN s x)).map fun r =>
    let v := readLE s (groupTable s x + 8 * r) 8
    (bits v 17 0, bits v 47 32)

/-- The accumulator of a fill format (R351). -/
def shgAcc (f : Fmt) : Fmt :=
  match f with
  | .fp64 => .fp64
  | .int8 => .int32
  | .int32 => .int32
  | _ => .fp32

/-- Whether a bucket may have a fill format and an output format (R351). -/
def shgFmtOk (f o : Fmt) : Bool :=
  let fl : List Fmt := [.fp32, .bf16, .fp16, .e4m3, .e5m2]
  let il : List Fmt := [.int8, .int32]
  (decide (f = .fp64) && decide (o = .fp64)) || (fl.contains f && fl.contains o) || (il.contains f && il.contains o)

/-- A format code of a bucket, which R352 has checked. -/
def codeFmt (c : Nat) : Fmt := (fmtOfCode c).getD .fp32
def accOf (b : Bucket) : Fmt := shgAcc (codeFmt b.fmt)
def leafFmt (b : Bucket) : Fmt := if b.add then accOf b else codeFmt b.fmt
def outFmt (b : Bucket) : Fmt := codeFmt b.ofmt
def fmtBytes (f : Fmt) : Nat := fmtWidth f / 8

/-! ## Shards (R349) -/

/-- Elements in a whole shard. -/
def shardSize (b : Bucket) : Nat := 128 * ceilDiv b.len (128 * max 1 b.n)

/-- First element and number of elements of shard `i`. -/
def shardLo (b : Bucket) (i : Nat) : Nat := i * shardSize b
def shardLen (b : Bucket) (i : Nat) : Nat := min (shardLo b (i + 1)) b.len - shardLo b i

/-- Shards that are not empty, and those this rank updates. -/
def liveShards (b : Bucket) : List Nat := (List.range b.n).filter fun i => decide (shardLo b i < b.len)
def updaterOf (b : Bucket) (i : Nat) : Nat := (b.ranks.getD i (0, 0)).2
def ownShards (b : Bucket) : List Nat := (liveShards b).filter fun i => updaterOf b i == b.myRank

/-- The chunks of a shard: first elements, in chunks of a number of elements aligned to the shard's start (R358). -/
def shardChunks (b : Bucket) (i per : Nat) : List Nat :=
  (List.range (ceilDiv (shardLen b i) per)).map fun c => shardLo b i + c * per

/-- Elements of the chunk that starts at `e`. -/
def chunkLen (b : Bucket) (i per e : Nat) : Nat := min per (shardLo b i + shardLen b i - e)

/-- Elements per chunk of leaves and of results: payloads of up to 8,192 bytes. -/
def leafPer (b : Bucket) : Nat := 8192 / fmtBytes (leafFmt b)
def resPer (b : Bucket) : Nat := 8192 / fmtBytes (outFmt b)

/-- Pages that a bucket reserves (R353). -/
def bucketPages (b : Bucket) : Nat :=
  let fb := fmtBytes (leafFmt b)
  let f := if b.kind = 1 then 0 else b.len * fb
  ceilDiv f 4096 + ceilDiv ((ownShards b).length * shardSize b * b.n * max fb (fmtBytes (accOf b) / 2)) 4096

/-- Free pages of a slice's bucket store. -/
def pagesFree (s : Node) (b : Nat) : Nat := 6144 - ((shgOf s b).buckets.map (·.2.pages)).foldl (· + ·) 0

/-! ## Arithmetic (R351, R357) -/

/-- The value, in a format, that counts for an element never delivered (R356). -/
def identityCode (f : Fmt) (op : Nat) : Nat :=
  match op, fmtLayout f with
  | 0, _ => 0
  | _, none => if op = 1 then 2 ^ (fmtWidth f - 1) else 2 ^ (fmtWidth f - 1) - 1
  | _, some l => if fmtHasInf f then infCode l (op == 1) else maxFiniteCode l (op == 1)

/-- One combination in the accumulator: SUM rounded RNE, or saturating in INT32; MAX and MIN (R351). -/
def combine (acc : Fmt) (op a b : Nat) : Flagged :=
  let x := numOfCode acc a
  let y := numOfCode acc b
  if op = 0 then
    if acc = .int32 then
      let v := signed 32 a + signed 32 b
      if v > 2147483647 then ⟨0x7FFFFFFF, flOF⟩ else if v < -2147483648 then ⟨0x80000000, flOF⟩ else ⟨wrap 32 v, 0⟩
    else let o := numAdd false x y; deliver acc .rne 0 o.nv o.val
  else let o := numMinMax (op == 1) x y; deliver acc .rne 0 o.nv o.val

/-- The smallest D with 2^D ≥ n, for n up to 65,536. -/
def treeDepth (n : Nat) : Nat := (firstBelow 17 fun d => decide (2 ^ d ≥ n)).getD 17

/-- The fixed tree over the leaves of the ranks below `n` (R357): the level, and the first rank. -/
def treeVal (acc : Fmt) (op n : Nat) (leaf : Nat → Flagged) : Nat → Nat → Flagged
  | 0, lo => leaf lo
  | k + 1, lo =>
    if lo + 2 ^ k ≥ n then treeVal acc op n leaf k lo
    else
      let a := treeVal acc op n leaf k lo
      let b := treeVal acc op n leaf k (lo + 2 ^ k)
      let r := combine acc op a.code b.code
      ⟨r.code, a.flags ||| b.flags ||| r.flags⟩

/-- This rank's leaf of an element as launched, in the leaf format. -/
def ownLeaf (b : Bucket) (e : Nat) : Nat :=
  let v := tblGet 0 b.fill e
  if v = 0 then identityCode (leafFmt b) b.op else v - 1

/-- The leaf of a rank, converted exactly into the accumulator. -/
def leafVal (b : Bucket) (e r : Nat) : Flagged :=
  let c := if r = b.myRank then ownLeaf b e else tblGet 0 b.leaves (r * 2 ^ 22 + e) - 1
  convert (accOf b) .rne false 0 (numOfCode (leafFmt b) c)

/-- A reduced element in the accumulator. -/
def reduced (b : Bucket) (e : Nat) : Flagged := treeVal (accOf b) b.op b.n (leafVal b e) (treeDepth b.n) 0

/-- Converts the elements of a shard into OFMT in ascending order: the codes, the flags, with the generator (R351). -/
def convertShard (b : Bucket) : Nat → List Nat → List Nat × Nat
  | _, [] => ([], 0)
  | gen, e :: t =>
    let m := (rmOfCode (bits b.conv 2 0)).getD .rne
    let (gen1, r16) := if m = .sr then lfsrDraw gen else (gen, 0)
    let v := reduced b e
    let c := convert (outFmt b) m (bit b.conv 3) r16 (numOfCode (accOf b) v.code)
    let (l, fl) := convertShard b gen1 t
    (c.code :: l, v.flags ||| c.flags ||| fl)

/-- The bytes of a run of elements. -/
def codesBytes (f : Fmt) (l : List Nat) : List Byte := l.flatMap (leBytes (fmtBytes f))

/-- The codes in a payload. -/
def payloadCodes (f : Fmt) (l : List Byte) : List Nat :=
  (List.range (l.length / fmtBytes f)).map fun i => leValue ((l.drop (i * fmtBytes f)).take (fmtBytes f))

/-! ## Sending (R358, R360) -/

/-- Queues one SHINGLE packet. -/
def sendShingle (s : Node) (tag : Nat) (b : Bucket) (dst first phase : Nat) (data : List Byte) : Node :=
  originate s (.shingle tag b.gen) (ownPkt s 8 dst tag first (b.gen <<< 24 + phase <<< 22 + b.myRank) data)

/-- Sends this rank's leaves of a shard to its updater; an updater that is no rank of the group cannot be reached, and
its endpoint in the record has no source, a free value. -/
def sendLeaves (s : Node) (tag : Nat) (b : Bucket) (i : Nat) : Node :=
  match b.ranks[updaterOf b i]? with
  | none => failBucket (bump s) tag (Config.freeNat s.fresh % 2 ^ 18)
  | some (ep, _) => (shardChunks b i (leafPer b)).foldl (fun s e =>
      sendShingle s tag b ep e 0 (codesBytes (leafFmt b) ((List.range (chunkLen b i (leafPer b) e)).map fun k => ownLeaf b (e + k)))) s

/-- Endpoints of the other ranks. -/
def otherEps (b : Bucket) : List Nat := ((b.ranks.zipIdx).filter fun p => p.2 != b.myRank).map (·.1.1)

/-- Sends a shard of a region in memory to every other rank as gathered results; the chunk of a poisoned line is not
sent (R241). -/
def sendShard (s : Node) (tag : Nat) (b : Bucket) (region i : Nat) : Node :=
  let w := fmtBytes (outFmt b)
  (shardChunks b i (resPer b)).foldl (fun s e =>
    let n := chunkLen b i (resPer b) e * w
    let s1 := agentTouch s (sliceOf tag) clsDma (region + e * w) n
    match firstPoison s1 (region + e * w) n with
    | some l => poisonAgent s1 (12 + sliceOf tag) 0x42 l
    | none => (otherEps b).foldl (fun s ep => sendShingle s tag b ep e 1 (readBytes s (region + e * w) n)) s1) s

/-- Once every shard that this rank updates is reduced, an ALLREDUCE bucket gathers (R354, R360). -/
def afterReduce (s : Node) (tag : Nat) : Node :=
  let b := bucketOf s tag
  if b.st = bReducing ∧ b.kind = 2 ∧ (ownShards b).all (fun i => b.reduced.contains i) then modBucket s tag fun x => { x with st := bGathering }
  else s

/-- Launches an RS or ALLREDUCE bucket; one that fails on the way sends nothing further (R362). -/
def launchReduce (s : Node) (tag : Nat) (b : Bucket) : Node :=
  let s1 := modBucket s tag fun x => { x with st := bReducing }
  let send := fun (s : Node) i => if (bucketOf s tag).st = bReducing then sendLeaves s tag b i else s
  afterReduce (((liveShards b).filter fun i => updaterOf b i != b.myRank).foldl send s1) tag

/-- Launches an AG bucket: its shards go to every other rank, and from IN to OUT where the two differ. -/
def launchGather (s : Node) (tag : Nat) (b : Bucket) : Node :=
  let w := fmtBytes (outFmt b)
  (ownShards b).foldl (fun s i =>
    let s1 := sendShard s tag b b.inn i
    let a := b.inn + shardLo b i * w
    let n := shardLen b i * w
    if b.inn = b.out then s1
    else (linesOf a n).foldl (fun s l =>
      let lo := max a (l * lineBytes)
      let hi := min (a + n) ((l + 1) * lineBytes)
      agentWrite s (sliceOf tag) (b.out + (lo - b.inn)) (readBytes s1 lo (hi - lo)) (isPoisoned s1 l)) s1)
    (modBucket s tag fun x => { x with st := bGathering })

/-- Launches a bucket, or holds it while HOLD is set (R356, R364). -/
def launchOrHold (s : Node) (tag : Nat) : Node :=
  let c := sliceOf tag
  let b := bucketOf s tag
  if shgHold s c then
    let o := (shgOf s c).order
    modShg (modBucket s tag fun x => { x with st := bHeld, order := o }) c fun x => { x with order := o + 1 }
  else if b.kind = 1 then launchGather (shgCount s c 1) tag b
  else launchReduce (shgCount s c 1) tag b

/-! ## Filling (R355, R356) -/

/-- Why a delivery is refused, if it is. -/
def deliveryFault (s : Node) (tag fmt index : Nat) : Option Nat :=
  let b := bucketOf s tag
  if !shgOn s (sliceOf tag) || (b.st != bFilling && b.st != bHeld) then some 0x0701
  else if fmt ≠ b.fmt then some 0x0702
  else if index ≥ b.len then some 0x0703
  else if b.delivered ≥ b.expect then some 0x0704
  else none

/-- A delivery that the slice accepts. -/
def deliverElem (s : Node) (tag index code : Nat) : Node :=
  let b := bucketOf s tag
  let acc := accOf b
  let leaf := convert acc .rne false 0 (numOfCode (codeFmt b.fmt) code)
  let v : Flagged := if b.add then
      let r := combine acc b.op (ownLeaf b index) leaf.code
      ⟨r.code, leaf.flags ||| r.flags⟩
    else ⟨code, 0⟩
  let s1 := modBucket s tag fun x => { x with fill := tblSet 0 x.fill index (v.code + 1), delivered := x.delivered + 1 }
  let s2 := fOr s1 (bLoc .shgStatus (sliceOf tag)) fShgStatusFlags v.flags
  if b.st = bFilling ∧ b.kind ≠ 1 ∧ b.delivered + 1 = b.expect then launchOrHold s2 tag else s2

def execShgDelivery (tag fmt index code : Nat) (s : State) : Host.Outcome State Fault Refusal := onServed s fun s =>
  onUnit 4096 tag (
    match deliveryFault s tag fmt index with
    | some _ => withResp s .refused
    | none => withResp (deliverElem s tag index code) .done)

/-- The deliveries of a CAST in order: the state after all of them, or the refusal's code (R140, R143). -/
def castAll (tag fmt : Nat) (s : Node) : List (Nat × Nat) → Node × Option Nat
  | [] => (s, none)
  | (i, c) :: t =>
    match deliveryFault s tag fmt i with
    | some k => (s, some k)
    | none => castAll tag fmt (deliverElem s tag i c) t

/-- What CAST does: every valid position is delivered, converted; a refusal stops the run and discards the rest (R140, R143).
Without `room` the bucket store cannot take the bytes at the rate they come, and the CAST waits (R24, R355) -/
def castTile (s : Node) (g : Nat) (room : Bool) (e : Elem) (w : Nat) : Node :=
  let f := codeFmt (bits (eX w) 4 0)
  let tag := sAt e (eD w) % 4096
  let m := elemMode s g w
  let sr := decide (m = .sr)
  let out := ((runPositions e).filter fun (i, j) => runValid e i j).map fun (i, j) =>
    let at_ := (sAt e (eB w) + i * sAt e (eC w) + j) % 2 ^ 64
    if maskAt e i j then
      let src := numOfCode (tyFmt (eTy w)) (operandAt e w (eA w) i j)
      let r := convert f m (eSat w) (if sr then drawOf e i j else 0) src
      ((at_, r.code), r.flags ||| flIf (numIsSnan src) flNV)
    else ((at_, 0), 0)
  if !room then modElem s g fun e => { e with blocked := true } else
  match castAll tag (bits (eX w) 4 0) s (out.map (·.1)) with
  | (_, some code) => elemErr s g code
  | (s1, none) =>
    elemDone s1 g (if sr then { e with gen := drawnGen e } else e) ((out.map (·.2)).foldl (· ||| ·) 0)

/-- CAST (R140): a refusal stops the run, and no part of the instruction is performed. -/
def execElemCast (x : CastTry) (s : State) : Host.Outcome State Fault Refusal := onServed s fun s =>
  onGable x.gable (elemStep s x.gable 0x24 (castTile s x.gable x.room))

/-! ## Contributions (R359) -/

/-- The shard that a chunk of a packet is of, when the packet suits the bucket. -/
def packetShard (b : Bucket) (k : DzPkt) : Option Nat :=
  let phase := bits k.info 23 22
  let rank := bits k.info 15 0
  let per := if phase = 0 then leafPer b else resPer b
  let w := fmtBytes (if phase = 0 then leafFmt b else outFmt b)
  let suits := (phase == 0 && b.kind != 1) || (phase == 1 && b.kind != 0)
  let ok := fun i =>
    (if phase = 0 then updaterOf b i == b.myRank else updaterOf b i != b.myRank) &&
    (shardChunks b i per).contains k.addr && k.data.length == chunkLen b i per k.addr * w
  if suits && decide (rank < b.n) && rank != b.myRank && !b.chunks.contains (rank + phase * 65536, k.addr) then (liveShards b).find? ok else none

/-- Performs a packet of the armed generation. -/
def contribute (s : Node) (tag : Nat) (k : DzPkt) : Node :=
  let b := bucketOf s tag
  let rank := bits k.info 15 0
  let phase := bits k.info 23 22
  match packetShard b k with
  | none =>
    failBucket (logErr s (12 + sliceOf tag) 0x42 0x0708 k.addr [(2, tag), (2, rank), (8, k.addr)]) tag k.src
  | some _ =>
    if phase = 0 then
      modBucket s tag fun x => { x with
        chunks := x.chunks ++ [(rank, k.addr)]
        leaves := (payloadCodes (leafFmt b) k.data).zipIdx.foldl (fun t p => tblSet 0 t (rank * 2 ^ 22 + k.addr + p.2) (p.1 + 1)) x.leaves }
    else
      agentWrite (modBucket s tag fun x => { x with chunks := x.chunks ++ [(rank + 65536, k.addr)] }) (sliceOf tag)
        (b.out + k.addr * fmtBytes (outFmt b)) k.data false

/-- Bytes held in a slice's early store. -/
def earlyBytes (s : Node) (c : Nat) : Nat := ((shgOf s c).early.map (·.data.length)).foldl (· + ·) 0

/-- A SHINGLE packet by its generation; an early one that finds no room is answered NAK BUSY and not performed. -/
def shinglePacket (s : Node) (peer : Nat) (k : DzPkt) : Node :=
  let tag := k.tag % 4096
  let c := sliceOf tag
  let b := bucketOf s tag
  let d := (bits k.info 31 24 + 256 - b.gen) % 256
  if b.st ≠ bFree ∧ shgRuns s c ∧ d = 0 then performed (contribute s tag k) peer 4 k
  else if b.st ≠ bFree ∧ shgRuns s c ∧ d ≥ 128 then performed (shgCount s c 5) peer 4 k
  else if earlyBytes s c + k.data.length ≤ 2 ^ 20 then
    performed (shgCount (modShg s c fun x => { x with early := x.early ++ [k] }) c 3) peer 4 k
  else
    let s1 := sendNak (shgCount s c 4) peer 4 k.seq 2
    match rflowOf s1 peer 4 with
    | none => s1
    | some r => setRflow s1 peer 4 (some { r with held := r.held.filter fun x => x.seq != k.seq })

def execShinglePacket (peer : Nat) (s : State) : Host.Outcome State Fault Refusal := onServed s fun s =>
  .next (
    match nextPkt s peer 4 8 with
    | none => s
    | some k => shinglePacket s peer k)

/-- Performs the early packets of a tag's armed generation. -/
def takeEarly (s : Node) (tag : Nat) : Node :=
  let c := sliceOf tag
  let b := bucketOf s tag
  let mine := fun (k : DzPkt) => k.tag % 4096 == tag && bits k.info 31 24 == b.gen
  let l := (shgOf s c).early.filter mine
  l.foldl (fun s k => contribute s tag k) (modShg s c fun x => { x with early := x.early.filter fun k => !mine k })

/-! ## Arming (R350 to R353) -/

/-- SHG_ARM: forwarded to the slice that owns the descriptor's tag. -/
def armWrite (s : Node) (v : Word) : Node :=
  let a := wbits v 55 6 * 64
  let c := sliceOf (readLE s a 2)
  if !shgOn s c || decide ((shgOf s c).arms.length ≥ 64) then fSet s (bLoc .shgStatus c) fShgStatusArmOvf 1
  else modShg s c fun x => { x with arms := x.arms ++ [a] }

def execShgArm (value : Word) (s : State) : Host.Outcome State Fault Refusal := onNode s fun s => .next (withResp (armWrite s value) .done)

/-- The bucket that a descriptor describes. -/
def armBucket (s : Node) (l : List Byte) : Bucket :=
  let kind := descField l 3 1
  let g := descField l 4 1 % 64
  let b := Bucket.free
  { b with
    st := bFilling, gen := descField l 2 1, kind := bits kind 1 0, add := bit kind 2, op := bits kind 4 3, group := g
    fmt := bits (descField l 5 1) 4 0, ofmt := bits (descField l 6 1) 4 0, conv := descField l 7 1, len := descField l 8 4
    expect := if descField l 12 4 = 0 then descField l 8 4 else descField l 12 4
    out := descField l 16 8, inn := descField l 24 8, sig := descField l 32 2, inc := descField l 34 2
    wait := descField l 36 2, thr := descField l 40 4, n := groupN s g, myRank := groupRank s g, ranks := rankTable s g }

/-- Whether a reserved bit of a descriptor is set. -/
def armReserved (l : List Byte) : Bool :=
  bits (descField l 0 2) 15 12 != 0 || bits (descField l 3 1) 7 5 != 0 || bits (descField l 4 1) 7 6 != 0 ||
  bits (descField l 5 1) 7 5 != 0 || bits (descField l 6 1) 7 5 != 0 || bits (descField l 7 1) 7 4 != 0 ||
  bits (descField l 32 2) 14 10 != 0 || bits (descField l 36 2) 14 10 != 0 || descField l 38 2 != 0 ||
  (l.drop 44).any fun x => x != 0

/-- Whether a bucket-shaped region does not lie wholly in local HBM or is not aligned to its elements. -/
def regionBad (s : Node) (b : Bucket) (a : Nat) : Bool :=
  let w := fmtBytes (outFmt b)
  !inHbm s a (b.len * w) || !aligned w a

/-- The first condition of R352 that an arm fails, numbered from 1 in the rule's order. -/
def armFault (s : Node) (l : List Byte) (b : Bucket) (tag : Nat) : Option Nat :=
  if armReserved l || b.kind == 3 || b.op == 3 then some 1
  else if !groupOk s b.group then some 2
  else if !(match fmtOfCode b.fmt, fmtOfCode b.ofmt with
      | some f, some o => shgFmtOk f o
      | _, _ => false) || (b.kind == 1 && b.fmt != b.ofmt) then some 3
  else if bits b.conv 2 0 ≥ 6 then some 4
  else if b.len = 0 ∨ b.len > 4194304 ∨ (b.add ∧ b.kind = 1) then some 5
  else if regionBad s b b.out || (b.kind == 1 && regionBad s b b.inn) then some 6
  else if (bucketOf s tag).st ≠ bFree then some 7
  else if bucketPages b > 6144 then some 8
  else none

/-- The slice takes the arm at the head of its queue (R350, R352, R353): a disabling slice refuses it unread. -/
def armProcess (s : Node) (c : Nat) : Node :=
  match (shgOf s c).arms with
  | [] => s
  | a :: rest =>
    let s1 := modShg s c fun x => { x with arms := rest }
    let st := ctrlState s (bLoc .shgCtrl c)
    let t := agentTouch s1 c clsDma a 64
    let l := readBytes t a 64
    let tag := descField l 0 2 % 4096
    let refuse := fun (k : Nat) => logErr t (12 + c) 0x42 0x0705 0 [(2, tag), (1, k)]
    if st = stDisabling ∨ st = stPending then fSet s1 (bLoc .shgStatus c) fShgStatusArmOvf 1
    else if st ≠ stOn then s
    else if !inHbm s a 64 then refuse 1
    else match firstPoison t a 64 with
    | some p => poisonAgent t (12 + c) 0x42 p
    | none =>
      let b := armBucket t l
      match armFault t l b tag with
      | some k => refuse k
      | none =>
        let g := groupTable t b.group
        let t1 := agentTouch t c clsDma g (8 * b.n)
        match firstPoison t1 g (8 * b.n) with
        | some p => poisonAgent t1 (12 + c) 0x42 p
        | none =>
          if bucketPages b > pagesFree s c then s
          else takeEarly (shgCount (modBucket t1 tag fun _ => { b with pages := bucketPages b }) c 0) tag

def execShgArmProcess (base : Nat) (s : State) : Host.Outcome State Fault Refusal := onServed s fun s => onBase base (armProcess s base)

/-- A store to a group entry (R348): discarded while a bucket armed on the group is not FREE. -/
def groupWrite (s : Node) (x w : Nat) (v : Word) : Node :=
  if (List.range 4).any fun c => (shgOf s c).buckets.any fun p => p.2.group == x && p.2.st != bFree then
    (List.range 4).foldl (fun s c => fSet s (bLoc .shgStatus c) fShgStatusGroupBusy 1) s
  else storeReg s (if w = 0 then bLoc .shgGroupW0 0 [x] else bLoc .shgGroupW1 0 [x]) v

def execShgGroupWrite (x w : Nat) (value : Word) (s : State) : Host.Outcome State Fault Refusal := onNode s fun s =>
  if x < 64 ∧ w < 2 then .next (withResp (groupWrite s x w value) .done) else .fault .noSuchUnit

/-! ## Launch by command (R356, R360) -/

/-- GO: a FILLING bucket of a slice that is ON launches at once. -/
def bucketGo (s : Node) (tag : Nat) : Node :=
  if (bucketOf s tag).st = bFilling ∧ shgOn s (sliceOf tag) then launchOrHold s tag else s

def execShgGo (tag : Nat) (s : State) : Host.Outcome State Fault Refusal := onServed s fun s => onUnit 4096 tag (withResp (bucketGo s tag) .done)

def execShgAgLaunch (tag : Nat) (s : State) : Host.Outcome State Fault Refusal := onServed s fun s =>
  onUnit 4096 tag (
    let b := bucketOf s tag
    if b.st = bFilling ∧ b.kind = 1 ∧ shgOn s (sliceOf tag) ∧
        (!bit b.wait 15 ∨ reached (depCounter s (bits b.wait 9 0)) b.thr) then launchOrHold s tag
    else s)

/-- Frees a bucket and its pages. -/
def freeBucket (s : Node) (tag : Nat) : Node := modBucket s tag fun _ => Bucket.free

/-- CANCEL (R362). -/
def bucketCancel (s : Node) (tag : Nat) : Node :=
  let b := bucketOf s tag
  if b.st = bFilling ∨ b.st = bHeld ∨ b.st = bFailed then freeBucket s tag else s

def execShgCancel (tag : Nat) (s : State) : Host.Outcome State Fault Refusal := onNode s fun s =>
  onUnit 4096 tag (withResp (bucketCancel s tag) .done)

/-- SHG_CMD: GO and CANCEL; other codes act not at all. -/
def shgCmdWrite (s : Node) (v : Word) : Node :=
  match wbits v 63 60 with
  | 1 => bucketCancel s (wbits v 11 0)
  | 2 => bucketGo s (wbits v 11 0)
  | _ => s

/-! ## Reduction and completion (R360, R361) -/

/-- Whether every other rank's leaves of a shard have come. -/
def treeComplete (b : Bucket) (i : Nat) : Bool :=
  (List.range b.n).all fun r => r == b.myRank || (shardChunks b i (leafPer b)).all fun e => b.chunks.contains (r, e)

/-- A shard's tree is complete: it is converted, written to OUT, and sent on for ALLREDUCE. -/
def shardReduced (s : Node) (tag i : Nat) : Node :=
  let b := bucketOf s tag
  let c := sliceOf tag
  if b.st ≠ bReducing ∨ !(ownShards b).contains i ∨ b.reduced.contains i ∨ !treeComplete b i then s
  else
    let key := (i <<< 16) ^^^ (b.gen <<< 12) ^^^ tag
    let (codes, fl) := convertShard b (lfsrLoad (fGet s (bLoc .shgCtrl 0) fShgCtrlSeed) (key % 2 ^ 32))
      ((List.range (shardLen b i)).map (shardLo b i + ·))
    let s1 := fOr s (bLoc .shgStatus c) fShgStatusFlags fl
    let s2 := agentWrite s1 c (b.out + shardLo b i * fmtBytes (outFmt b)) (codesBytes (outFmt b) codes) false
    let s3 := modBucket s2 tag fun x => { x with reduced := x.reduced ++ [i] }
    afterReduce (if b.kind = 2 then sendShard s3 tag b b.out i else s3) tag

def execShgShardReduced (tag shard : Nat) (s : State) : Host.Outcome State Fault Refusal := onServed s fun s =>
  onUnit 4096 tag (shardReduced s tag shard)

/-- Whether a packet of a bucket is unsent or unacknowledged. -/
def bucketBusy (s : Node) (tag gen : Nat) : Bool :=
  s.fabric.waiting.any (fun o => o.who == .shingle tag gen) ||
  s.fabric.sflows.any fun p => p.2.any fun f => f.unacked.any fun o => o.who == .shingle tag gen

/-- Whether every gathered element has come: the chunks of the shards that other ranks update. -/
def gatherDone (b : Bucket) : Bool :=
  ((liveShards b).filter fun i => updaterOf b i != b.myRank).all fun i =>
    (shardChunks b i (resPer b)).all fun e => b.chunks.any fun p => decide (p.1 ≥ 65536) && p.2 == e

/-- Whether a bucket is complete at this rank (R361). -/
def bucketDone (s : Node) (tag : Nat) (b : Bucket) : Bool :=
  !bucketBusy s tag b.gen &&
  ((b.st == bReducing && b.kind == 0 && (ownShards b).all fun i => b.reduced.contains i) || (b.st == bGathering && gatherDone b))

def execShgBucketComplete (tag : Nat) (s : State) : Host.Outcome State Fault Refusal := onNode s fun s =>
  onUnit 4096 tag (
    let b := bucketOf s tag
    if bucketDone s tag b then
      let s1 := freeBucket s tag
      if bit b.sig 15 then addDep s1 (bits b.sig 9 0) b.inc else s1
    else s)

/-! ## Control (R356, R363, R364, R366) -/

/-- HELD buckets of a slice in the order in which they filled. -/
def heldTags (s : Node) (c : Nat) : List Nat :=
  let l := (shgOf s c).buckets.filter fun p => p.2.st == bHeld
  (List.range (shgOf s c).order).flatMap fun o => (l.filter fun p => p.2.order == o).map (·.1)

/-- Launches them, where the slice is ON and HOLD is clear. -/
def launchHeld (s : Node) (c : Nat) : Node :=
  if shgOn s c && !shgHold s c then (heldTags s c).foldl launchOrHold s else s

/-- HOLD of a slice. -/
def setShgHold (s : Node) (c : Nat) (h : Bool) : Node :=
  let s1 := fSet s (bLoc .shgCtrl c) fShgCtrlHold (b2n h)
  if h then s1 else launchHeld s1 c

/-- A store to SHG_CTRL: SEED is node-wide, HOLD and EN are the slice's own. -/
def shgCtrlWrite (s : Node) (c : Nat) (v : Word) : Node :=
  let s1 := (List.range 4).foldl (fun s b => fSet s (bLoc .shgCtrl b) fShgCtrlSeed (wbits v 63 32)) s
  setShgHold (enableWrite s1 (bLoc .shgCtrl c) (wbit v 0)) c (wbit v 16)

def execShgHoldWrite (base : Nat) (value : Word) (s : State) : Host.Outcome State Fault Refusal := onServed s fun s =>
  onBase base (withResp (shgCtrlWrite s base value) .done)

def execShgEnableWrite (base : Nat) (value : Word) (s : State) : Host.Outcome State Fault Refusal := onServed s fun s =>
  onBase base (withResp (shgCtrlWrite s base value) .done)

/-- Buckets in REDUCING or GATHERING. -/
def inflight (s : Node) (c : Nat) : Nat :=
  ((shgOf s c).buckets.filter fun p => p.2.st == bReducing || p.2.st == bGathering).length

/-- A slice's own step ends: enabled, it performs what came early for its armed buckets and launches what HOLD no longer
holds; it is disabled only with nothing in flight. -/
def shgStepEnds (s : Node) (c : Nat) : Node :=
  let st := ctrlState s (bLoc .shgCtrl c)
  if (st = stDisabling ∨ st = stPending) ∧ inflight s c ≠ 0 then s
  else
    let s1 := ownStepEnds s (bLoc .shgCtrl c)
    if shgOn s1 c then launchHeld (((shgOf s1 c).buckets.map (·.1)).foldl takeEarly s1) c else s1

def execShgDisableDone (base : Nat) (s : State) : Host.Outcome State Fault Refusal := onServed s fun s =>
  onBase base (
    let st := ctrlState s (bLoc .shgCtrl base)
    if st = stDisabling ∨ st = stPending then shgStepEnds s base else s)

/-- A Latch commit changes JOB or EPOCH (R363): every bucket returns to FREE and every early packet goes; one record for
each slice that held a bucket. -/
def shgAbandon (s : Node) : Node :=
  (List.range 4).foldl (fun s c =>
    let had := !(shgOf s c).buckets.isEmpty
    let s1 := modShg s c fun x => { x with buckets := [], early := [] }
    if had then logErr s1 (12 + c) 0x42 0x0707 0 [] else s1) s

/-! ## What SHG_STATUS and SHG_BUCKET read (R368) -/

/-- Elements still to be reduced or gathered at this rank. -/
def remaining (b : Bucket) : Nat :=
  if b.st = bReducing then (((ownShards b).filter fun i => !b.reduced.contains i).map (shardLen b)).foldl (· + ·) 0
  else if b.st = bGathering then
    let l := (liveShards b).filter fun i => updaterOf b i != b.myRank
    (l.flatMap fun i => ((shardChunks b i (resPer b)).filter fun e => !(b.chunks.any fun p => decide (p.1 ≥ 65536) && p.2 == e)).map
      (chunkLen b i (resPer b))).foldl (· + ·) 0
  else 0

def shgStatusView (s : Node) (c : Nat) : Word :=
  let w := regGet s (bLoc .shgStatus c)
  wput (wput (wput w 44 32 (pagesFree s c)) 26 16 (inflight s c)) 14 8 (shgOf s c).arms.length

def shgBucketView (s : Node) (c t : Nat) : Word :=
  let b := bucketOf s (c * 1024 + t)
  BitVec.ofNat 64 (b.st <<< 61 + b.gen <<< 48 + (b.delivered % 2 ^ 23) <<< 24 + remaining b)

end Sys2Proof.Machine
end

