-- ==== Sys2Proof/Machine/Stu.lean ====
section
/-! DEFINITION. The system translation unit (R259 to R276): walks, the fault ring, resolutions, migrations, shootdowns
and access counts. -/

namespace Sys2Proof.Machine

/-! ## The fault ring (R269, R277) -/

/-- The ring that FQ_BASE describes: base and number of records; none for a size outside 6 to 16 or a bad ring. -/
def fqRing (s : Node) (b : Nat) : Option (Nat × Nat) :=
  let base := fGet s (bLoc .fqBase b) fFqBaseBase * 4096
  let k := fGet s (bLoc .fqBase b) fFqBaseLog2n
  if 6 ≤ k ∧ k ≤ 16 ∧ base % (2 ^ k * 64) = 0 ∧ inHbm s base (2 ^ k * 64) = true then some (base, 2 ^ k) else none

/-- The indices of a ring. -/
def fqHeadOf (s : Node) (b n : Nat) : Nat := fGet s (bLoc .fqHead b) fFqHeadIndex % n
def fqTailOf (s : Node) (b n : Nat) : Nat := fGet s (bLoc .fqTail b) fFqTailIndex % n

/-- FQ_HELD follows the records held internally. -/
def noteHeld (s : Node) (b : Nat) : Node :=
  fSet s (bLoc .stuStatus b) fStuStatusFqHeld (b2n ((stuOf s b).held ≠ []))

/-- Puts the oldest record into the ring, or holds it where the ring has no room (R269). -/
def writeRecord (s : Node) (b : Nat) : Node :=
  let u := stuOf s b
  match u.held ++ u.ready with
  | [] => s
  | r :: _ =>
    let room := match fqRing s b with
      | some (base, n) => if (fqTailOf s b n + 1) % n = fqHeadOf s b n then none else some (base, n)
      | none => none
    match room with
    | some (base, n) =>
      let was := levelInput s b 52
      let t := fqTailOf s b n
      let s1 := agentWriteBy s b clsWalk (base + 64 * t) r false
      let s2 := modStu s1 b fun x =>
        if x.held ≠ [] then { x with held := x.held.drop 1 } else { x with ready := x.ready.drop 1 }
      let s3 := noteHeld (fSet s2 (bLoc .fqTail b) fFqTailIndex ((t + 1) % n)) b
      if was then s3 else signal s3 b 52
    | none =>
      noteHeld (modStu s b fun x => { x with held := x.held ++ x.ready.take 1, ready := x.ready.drop 1 }) b

def execFaultRecordWrite (b : Nat) (s : State) : Host.Outcome State Fault Refusal := onServed s fun s => onBase b (writeRecord s b)

/-- Held records enter the ring in order as space appears (R269). -/
def drainHeld : Nat → Node → Nat → Node
  | 0, s, _ => s
  | n + 1, s, b =>
    if (stuOf s b).held = [] then s
    else
      let s1 := writeRecord s b
      if (stuOf s1 b).held.length < (stuOf s b).held.length then drainHeld n s1 b else s

/-- Source 52 follows the fault queue (R200, R269): set when the queue comes to hold an entry, cleared when it holds none. -/
def followQueue (s : Node) (b : Nat) (was : Bool) : Node :=
  if levelInput s b 52 then (if was then s else signal s b 52) else aplicClrIp (aplicClrIp s true b [52]) false b [52]

/-- A store to FQ_HEAD: records held back follow into the ring. -/
def fqHeadWrite (s : Node) (b : Nat) (v : Word) : Node :=
  let n := (fqRing s b).elim (2 ^ 32) (·.2)
  let was := levelInput s b 52
  let s1 := fSet s (bLoc .fqHead b) fFqHeadIndex (wbits v 31 0 % n)
  followQueue (drainHeld 64 (followQueue s1 b was) b) b (levelInput s1 b 52)

def execFqHeadWrite (b : Nat) (v : Word) (s : State) : Host.Outcome State Fault Refusal := onServed s fun s =>
  onBase b (withResp (fqHeadWrite s b v) .done)

/-- Whether FQ_BASE names a ring that is misplaced (R277); a size outside 6 to 16 names none. -/
def fqBad (s : Node) (b : Nat) : Bool :=
  let k := fGet s (bLoc .fqBase b) fFqBaseLog2n
  decide (6 ≤ k ∧ k ≤ 16) && (fqRing s b).isNone

/-- A store to FQ_BASE (R277). -/
def fqBaseWrite (s : Node) (b : Nat) (v : Word) : Node :=
  let s1 := storeReg s (bLoc .fqBase b) v
  if fqBad s1 b then logErr s1 (12 + b) 0x20 0x0203 0 [] else drainHeld 64 s1 b

def execFqBaseWrite (b : Nat) (v : Word) (s : State) : Host.Outcome State Fault Refusal := onServed s fun s =>
  onBase b (withResp (fqBaseWrite s b v) .done)

/-! ## Walks (R260 to R266) -/

/-- A requester waits on a fault. -/
def suspendWaiter (s : Node) (w : Waiter) (q : Nat) : Node :=
  match w with
  | .group g k => if (groupOf s g k).phase = .running ∨ (groupOf s g k).phase = .waiting then suspendOn s g k q else s
  | .copy g id => modCopy s g id fun y => { y with started := decide (q ≠ 0), fseq := q }
  | .elem g => modElem s g fun e => { e with blocked := true, fseq := q }
  | .list d => modHeadList s d fun x => { x with fseq := q }
  | .launch g => modGable s g fun y => { y with launch := y.launch.map fun l => { l with fseq := q } }

/-- The parts of a requester: its die, its Gable, the waiter, and UNIT's low half, GABLE and GROUP of a record. -/
def walkerOf (s : Node) (w : Walker) : Nat × Option Nat × Waiter × Nat × Nat × Nat :=
  match w with
  | .group g k _ => (g / 16, some g, .group g k, 0, g % 16, k)
  | .fetch g k => (g / 16, some g, .group g k, 1, g % 16, k)
  | .copy g id =>
    let c := (gableOf s g).copies.find? fun c => c.id == id
    (g / 16, some g, .copy g id, c.elim 2 (fun c => jobConsumer c.job), g % 16, c.elim 0 (·.group))
  | .elem g => (g / 16, some g, .elem g, 3, g % 16, runOlderGroup (gableOf s g))
  | .list d => (d, none, .list d, 5, 0, 0)
  | .launch g => (g / 16, none, .launch g, 6, 0, 0)

/-- Whether a copy has begun to move bytes. -/
def copyBegun (s : Node) (g : Nat) (c : Copy) : Bool := c.moved || s.remotes.any fun r => r.who == .copy g c.id

/-- Whether the fetch of the list at a scheduler's head has begun to read descriptors. -/
def listBegun (s : Node) (d : Nat) (l : TileList) : Bool := decide (l.next > 0) || s.remotes.any fun r => r.who == .list d

/-- The virtual addresses that the instruction a group presents touches, and the bytes at each: those of a load, a store or an
AMO (R89, R227), or of a load to be issued again (R114). -/
def groupReach (x : Group) (w : Nat) : List Nat × Nat :=
  match x.redo with
  | l :: _ => (if l.word = w then l.vas else [], 2 ^ l.size)
  | [] =>
    (if opcodeOf w = 0xC8 ∨ opcodeOf w = 0xC9 then (accessLanes x w).map (laneVa x w)
      else if opcodeOf w = 0xE0 ∧ x.list = [] then (amoLanes x w).map (readPair x (bits w 39 32))
      else [], 2 ^ bits w 55 53)

/-- Whether a requester is at its translation step, and so can wait: no byte of its access has begun to move (R266). -/
def walkerLive (s : Node) (w : Walker) : Bool :=
  match w with
  | .group g k w => decide (g < 192) && canIssue s g k && decide ((groupReach (groupOf s g k) w).1 ≠ [])
  | .fetch g k => decide (g < 192) && canIssue s g k
  | .copy g id => decide (g < 192) && (nextJob s g).any fun c => c.id == id && c.fseq == 0 && !copyBegun s g c
  | .elem g =>
    let e := elemOf s g
    decide (g < 192) && e.running && e.fseq == 0 && (decide (elemReach e ≠ []) || eOp (elemWord e) == 0x24) &&
      !s.remotes.any fun r => r.who == .elemLoad g
  | .list d => decide (d < 12) && (schedOf s d).lists.head?.any fun l => l.fseq == 0 && !listBegun s d l
  | .launch g =>
    decide (g < 192) && (gableOf s g).launch.any (fun l => l.block.isNone && l.fseq == 0) &&
      !s.remotes.any fun r => r.who == .launch g

/-- The addresses of a gather (R181, R266): its page list's, and its rows' once the entries can be read. -/
def gatherReach (s : Node) (g : Nat) (c : Copy) (d0 : GatherDesc) : List Nat × List Nat × Nat :=
  let (d, lay, toks, pages) := gatherNow s d0
  let list := gatherListVas s d0
  let entries := pages.zip (list.map fun va => match rootWalk s va accRead with
    | .ok e => pageEntry s g c (mapAddr (tlbMap e va) va)
    | .fault _ => 0)
  let (unit, units) := gatherUnits s d lay entries
  (list, if entries.all fun e => bit e.2 0 then (units.filter fun u => toks.contains u.1).map (·.2.1) else [], unit)

/-- The lowest and the highest virtual address that a requester's access touches (R266): accesses of `n` bytes at listed
addresses, with the byte that failed. -/
def reachSpan (l : List Nat) (n va : Nat) : Nat × Nat :=
  match l with
  | [] => (va, va)
  | _ => (min va (spanOf l).1, max va ((spanOf l).2 + n - 1))

/-- The same of each requester: an instruction fetch takes one line. -/
def walkerSpan (s : Node) (w : Walker) (va : Nat) : Nat × Nat :=
  match w with
  | .group g k w => let (l, n) := groupReach (groupOf s g k) w; reachSpan l n va
  | .elem g => reachSpan (elemReach (elemOf s g)) 1 va
  | .fetch _ _ => (va / 128 * 128, va / 128 * 128 + 127)
  | .copy g id =>
    match (gableOf s g).copies.find? fun c => c.id == id with
    | some c => match c.job with
      | .copy d => reachSpan ((copyElems d).map (·.1)) (copySizes d).1 va
      | .gather d =>
        let (list, rows, unit) := gatherReach s g c d
        let (lo, hi) := reachSpan list 8 va
        let (lo2, hi2) := reachSpan rows unit va
        (min lo lo2, max hi hi2)
    | none => (va, va)
  | .list d => (schedOf s d).lists.head?.elim (va, va) fun l => (l.addr, l.addr + 64 * l.count - 1)
  | .launch g => (gableOf s g).launch.elim (va, va) fun l => (l.addr, l.addr + 63)

/-- A walk ends (R261 to R263): at a leaf it fills the requester's caches; at a fault it is queued and the requester
waits. An instruction fetch then meets the physical address's own faults (R232, R241). -/
def execStuWalkComplete (w : Walker) (va acc : Nat) (s : State) : Host.Outcome State Fault Refusal := onServed s fun s =>
  .next (
    if !walkerLive s w then s
    else
      let (d, g, wt, unit, gl, grp) := walkerOf s w
      match translatePage s d g va acc with
      | (s1, .fault f) =>
        let (lo, hi) := walkerSpan s w va
        let (s2, q) := queueFault s1 wt acc (d <<< 4 + unit) gl grp va lo hi f
        suspendWaiter s2 wt q
      | (s1, .ok m) =>
        match w with
        | .fetch g k =>
          let pa := mapAddr m va
          match paFault s1 pa 8 with
          | some c => if c = 0x0608 then stopRemote s1 g k c pa else stopGroup s1 g k c
          | none =>
            if decide (paKind s1 pa = .hbm) && readsPoison s1 (if m.cacheable then d else 12) (lineOf pa) then stopPoison s1 g k 1 (lineOf pa)
            else if decide (paKind s1 pa = .hbm) then
              if m.cacheable then touchRead s1 d (lineOf pa) .gable else homeRead s1 (baseOfDie d) clsGable (lineOf pa)
            else countFar s1 d [m] [(va, pa)]
        | _ => s1)

/-! ## Resolutions (R270, R271) -/

/-- Replays a waiter. -/
def replayWaiter (s : Node) (q : Nat) (w : Waiter) : Node :=
  match w with
  | .group g k =>
    if (groupOf s g k).wait = .translation q then
      modGroup s g k fun x => { x with phase := .running, wait := .none }
    else s
  | .copy g id =>
    let mine := fun (c : Copy) => c.id == id && c.fseq == q
    let again := fun (c : Copy) => { c with started := false, fseq := 0 }
    modGable s g fun y => { y with copies := modFirst mine again y.copies }
  | .elem g => if (elemOf s g).fseq = q then modElem s g fun e => { e with fseq := 0, blocked := false } else s
  | .list d =>
    let again := fun (l : TileList) => { l with fseq := 0 }
    modSched s d fun c => { c with lists := modFirst (fun l => l.fseq == q) again c.lists }
  | .launch g => modGable s g fun y => { y with launch := y.launch.map fun l => if l.fseq = q then { l with fseq := 0 } else l }

/-- Ends a waiter with TRANSLATION_ABORTED (R270). -/
def abortWaiter (s : Node) (q : Nat) (w : Waiter) : Node :=
  match w with
  | .group g k => if (groupOf s g k).wait = .translation q then stopGroup s g k eAborted else s
  | .copy g id =>
    match (gableOf s g).copies.find? (fun c => c.id == id && c.fseq == q) with
    | some c => failCopy s g c eAborted
    | none => s
  | .elem g => if (elemOf s g).fseq = q then elemErr s g eAborted else s
  | .list d =>
    if (schedOf s d).lists.any (fun l => l.fseq == q) then
      logErr (modSched s d fun c => { c with lists := dropFirst (fun l => l.fseq == q) c.lists }) d 0x22 eAborted 0 []
    else s
  | .launch g =>
    if (gableOf s g).launch.any (fun l => l.fseq == q) then dropLaunch (logGable s g eAborted 0 []) g else s

/-- The records of the last `n` faults that joined a fault number, taken away where they are not yet in the ring (R268). -/
def dropJoined (q n : Nat) (l : List (List Byte)) : List (List Byte) :=
  let mine := fun (r : List Byte) => fieldLE r 0 4 == q && bit (fieldLE r 4 1) 7
  let keep := (l.filter mine).length - n
  (l.foldl (fun (p : List (List Byte) × Nat) r =>
    if mine r then (if p.2 < keep then (p.1 ++ [r], p.2 + 1) else (p.1, p.2 + 1)) else (p.1 ++ [r], p.2)) ([], 0)).1

/-- Resolves a fault at slice FSEQ[31:30] (R270). The last `joined` faults that joined it reached the slice in the cycle of
the resolution: no record is written for them (R268). -/
def resolve (s : Node) (q joined : Nat) (f : Node → Nat → Waiter → Node) : Node :=
  let b := bits q 31 30
  match (stuOf s b).faults.find? (fun x => x.num == q) with
  | none => fSet s (bLoc .stuStatus b) fStuStatusResolveStale 1
  | some x =>
    let s1 := modStu s b fun u => { u with
      faults := dropFirst (fun y => y.num == q) u.faults, ready := dropJoined q joined u.ready }
    x.waiters.foldl (fun s w => f s q w) s1

/-- RETRY (R270); `joined` counts the faults that reach the slice in its cycle (R268). -/
def execStuResolveRetry (x : Resolution) (s : State) : Host.Outcome State Fault Refusal := onNode s fun s =>
  .next (withResp (resolve s (x.fseq % 2 ^ 32) x.joined replayWaiter) .done)

/-- ABORT (R270); `joined` counts the faults that reach the slice in its cycle (R268). -/
def execStuResolveAbort (x : Resolution) (s : State) : Host.Outcome State Fault Refusal := onNode s fun s =>
  .next (withResp (resolve s (x.fseq % 2 ^ 32) x.joined abortWaiter) .done)

/-! ## Shootdown (R259, R274, R275) -/

/-- Whether a physical page of a size holds a mover's page. -/
def holdsPage (pa size page : Nat) : Bool := decide (pa ≤ page) && decide (page < pa + 2 ^ size)

/-- Whether a translation cache entry is one that a shootdown covers. -/
def shootHits (h : Shoot) (e : TlbEntry) : Bool :=
  match h.page with
  | some p => anyBelow 16 fun i => bit e.mask i && holdsPage (e.ppn0 * 4096 + i * 2 ^ e.size) e.size p
  | none => h.all || tlbOverlaps e h.lo h.hi

/-- Whether a page of a translation list is one that a shootdown covers. -/
def shootPage (h : Shoot) (m : PageMap) : Bool :=
  match h.page with
  | some p => holdsPage m.ppn m.size p
  | none => h.all || (decide (h.lo < (m.vpn + 1) * 2 ^ m.size) && decide (m.vpn * 2 ^ m.size ≤ h.hi))

/-- Whether a walk cache entry overlaps a shootdown's range. -/
def shootWalk (h : Shoot) (e : WalkEntry) : Bool :=
  h.page.isSome || h.all ||
  (decide (h.lo < (e.part + 1) * 2 ^ (12 + 9 * e.level)) && decide (e.part * 2 ^ (12 + 9 * e.level) ≤ h.hi))

/-- Invalidates what a shootdown covers: translation caches, walk caches, and the lists of accesses that have not begun
to move bytes (R275). -/
def shootApply (s : Node) (h : Shoot) : Node :=
  let fc := fun (g : Nat) (c : Copy) =>
    if !copyBegun s g c && c.pages.any (shootPage h) then
      { c with started := c.started && c.fseq != 0, elems := [], pages := [] }
    else c
  let fk := fun (g k : Nat) (x : Group) =>
    if x.list.any (shootPage h) && !s.remotes.any (fun r => match r.who with
      | .groupAmo g' k' _ _ => g' == g && k' == k
      | _ => false) then { x with list := [] } else x
  let fg := fun (g : Nat) (y : Gable) => { y with
    tlb := y.tlb.filter fun e => !shootHits h e
    copies := y.copies.map (fc g)
    groups := y.groups.map fun p => (p.1, fk g p.1 p.2) }
  let fl := fun (d : Nat) (l : TileList) =>
    if !listBegun s d l && l.maps.any (shootPage h) then { l with pas := none, maps := [] } else l
  let fd := fun (d : Nat) (x : Die) => { x with
    tlb := x.tlb.filter fun e => !shootHits h e
    sched := { x.sched with lists := x.sched.lists.map (fl d) } }
  { s with
    gables := s.gables.map fun p => (p.1, fg p.1 p.2)
    dies := s.dies.map fun p => (p.1, fd p.1 p.2)
    stus := s.stus.map fun p => (p.1, { p.2 with walkCache := p.2.walkCache.filter fun e => !shootWalk h e }) }

/-- The compute die's unit that a remote access belongs to, as scope and block, where it keeps a translation: a store
until it is acknowledged, any other until its answer is taken. -/
def remoteUnit (r : RemoteReq) : Option (Nat × Nat) :=
  match r.who with
  | .groupStore g _ _ | .elemStore g _ _ _ => if r.result.isNone then some (g / 16, g % 16 + 1) else none
  | .groupLoad g _ _ | .groupAmo g _ _ _ | .elemLoad g | .copy g _ | .launch g => some (g / 16, g % 16 + 1)
  | .list d => some (d, 0x22)
  | .core _ | .mover _ | .command _ _ _ | .mirror _ _ | .replay | .restore => none

/-- The unit that an access in progress through a covered translation belongs to, as scope and block (R275). -/
def shootHolder (s : Node) (h : Shoot) : Option (Nat × Nat) :=
  match s.gables.find? fun (g, y) =>
    y.copies.any (fun c => copyBegun s g c && c.pages.any (shootPage h)) ||
    y.groups.any fun p => p.2.loads.any fun l => l.maps.any (shootPage h) with
  | some (g, _) => some (g / 16, g % 16 + 1)
  | none =>
    match s.dies.findSome? fun (d, x) =>
      if x.sched.lists.any fun l => listBegun s d l && l.maps.any (shootPage h) then some (d, 0x22)
      else (x.cache.stores.find? fun p => p.maps.any (shootPage h)).map fun p => (d, p.gable % 16 + 1) with
    | some u => some u
    | none => s.remotes.findSome? fun r => if r.maps.any (shootPage h) then remoteUnit r else none

/-- A slice accepts a shootdown (R274). -/
def acceptShoot (s : Node) (b : Nat) (h : Shoot) : Node :=
  let acc := fGet s (bLoc .stuShootSeq b) fStuShootSeqAccepted
  fSet (modStu s b fun u => { u with shoots := u.shoots ++ [h] }) (bLoc .stuShootSeq b) fStuShootSeqAccepted ((acc + 1) % 2 ^ 32)

/-- A store to STU_SHOOT (R274): KIND 1 or 2; other kinds, and the reserved unit, are discarded. -/
def stuShoot (s : Node) (b : Nat) (v : Word) : Node :=
  let kind := wbits v 3 0
  let unit := wbits v 5 4
  let lo := wbits v 63 12 * 4096
  let size := if unit = 0 then 12 else if unit = 1 then 21 else 30
  if (kind ≠ 1 ∧ kind ≠ 2) ∨ (kind = 1 ∧ unit = 3) then s
  else if (stuOf s b).shoots.length ≥ 16 then fSet s (bLoc .stuStatus b) fStuStatusShootOvf 1
  else
    let h : Shoot := ⟨decide (kind = 2), lo, lo + (wbits v 11 6 + 1) * 2 ^ size - 1, false, s.now, none⟩
    acceptShoot s b h

def execStuShootRange (b : Nat) (v : Word) (s : State) : Host.Outcome State Fault Refusal := onNode s fun s =>
  onBase b (withResp (stuShoot s b v) .done)

def execStuShootAll (b : Nat) (v : Word) (s : State) : Host.Outcome State Fault Refusal := onNode s fun s =>
  onBase b (withResp (stuShoot s b v) .done)

/-- The oldest shootdown of a slice completes (R275), once no access in progress holds a covered translation. -/
def execShootdownComplete (b : Nat) (s : State) : Host.Outcome State Fault Refusal := onNode s fun s =>
  onBase b (match (stuOf s b).shoots with
    | [] => s
    | h :: _ =>
      if (shootHolder s h).isSome then s
      else
        let s1 := modStu (shootApply s h) b fun u => { u with shoots := u.shoots.drop 1 }
        let n := fGet s1 (bLoc .stuShootSeq b) fStuShootSeqDone
        cntAdd (fSet s1 (bLoc .stuShootSeq b) fStuShootSeqDone ((n + 1) % 2 ^ 32)) (bLoc .stuShootdowns b) 1)

/-- Whether a shootdown that began at `since` is late: SHOOT_TO microseconds have passed (R275). -/
def shootLate (s : Node) (b since : Nat) : Bool := decide (s.now ≥ since + 1000 * max 1 (fGet s (bLoc .stuCtrl b) fStuCtrlShootTo))

/-- The shootdown of a migration's page (R273, step 1). -/
def migShoot (d : MigDesc) : Shoot := ⟨false, 0, 0, false, 0, some (ptePpn d.old * 4096)⟩

/-- The unit that a late shootdown of a slice waits for: that which holds a translation it covers, or, for one that only
waits its turn, the first that holds one of those before it. -/
def shootBlocker (s : Node) (b : Nat) (h : Shoot) : Option (Nat × Nat) :=
  match shootHolder s h with
  | some u => some u
  | none => (stuOf s b).shoots.findSome? (shootHolder s)

/-- The record of a late shootdown. -/
def logStalled (s : Node) (b : Nat) (u : Nat × Nat) : Node := logErr s (12 + b) 0x20 0x0202 0 [(1, u.1), (1, u.2)]

/-- A shootdown is late (R275), one that a store requested or a mover's own (R273): one record, after SHOOT_TO microseconds,
names the unit that still holds the translation. -/
def execShootdownStalled (b : Nat) (s : State) : Host.Outcome State Fault Refusal := onNode s fun s =>
  onBase b (
    let late := fun (h : Shoot) => !h.stalled && shootLate s b h.since && (shootBlocker s b h).isSome
    let lateMig := fun (m : Mig) => m.closed && !m.copying && !m.stalled && shootLate s b m.since &&
      m.desc.any fun d => (shootHolder s (migShoot d)).isSome
    match (stuOf s b).shoots.find? late, (stuOf s b).migs.find? lateMig with
    | some h, _ =>
      logStalled (modStu s b fun u => { u with shoots := modFirst late (fun x => { x with stalled := true }) u.shoots }) b
        ((shootBlocker s b h).getD (0, 0))
    | none, some m =>
      logStalled (modStu s b fun u => { u with migs := modFirst lateMig (fun x => { x with stalled := true }) u.migs }) b
        ((m.desc.bind fun d => shootHolder s (migShoot d)).getD (0, 0))
    | none, none => s)

/-- A write of STU_SATP (R259): a MODE other than 9 and 10 stores 0; it is a shootdown of every translation, pending under
R275. DESIGN CHOICE (log entry 181): at the slice of BD0, accepted and counted there. -/
def execStuSatpWrite (v : Word) (s : State) : Host.Outcome State Fault Refusal := onNode s fun s =>
  let m := wbits v 63 60
  let s1 := fSet (fSet s (bLoc .stuSatp 0) fStuSatpPpn (wbits v 43 0)) (bLoc .stuSatp 0) fStuSatpMode (if m = 9 ∨ m = 10 then m else 0)
  .next (withResp (acceptShoot s1 0 ⟨true, 0, 2 ^ 64 - 1, false, s1.now, none⟩) .done)

/-! ## Migration (R272, R273) -/

/-- A migration descriptor as it is read. -/
def migDescOf (s : Node) (a : Nat) : MigDesc :=
  let q := fun i => readLE s (a + 8 * i) 8
  ⟨bits (q 0) 31 0, bits (q 0) 32 32, q 1, q 2, q 3, q 4, q 5, q 6,
    bits (q 0) 63 33 != 0 || q 7 != 0⟩

/-- The bytes of a migration's page. -/
def migBytes (d : MigDesc) : Nat := if d.size = 0 then 4096 else 2097152

/-- INVALID (R273, STATUS 5). -/
def migInvalid (s : Node) (d : MigDesc) : Bool :=
  d.bad || d.src % migBytes d != 0 || d.dst % migBytes d != 0 || d.pte % 8 != 0 || d.done % 8 != 0 ||
  !inHbm s d.dst (migBytes d)

/-- Reads the descriptors of queued migrations while fewer than eight are in progress (R272); a page that another
migration holds makes one BUSY. -/
def startMigs : Nat → Node → Nat → Node
  | 0, s, _ => s
  | n + 1, s, b =>
    let ms := (stuOf s b).migs
    if (ms.filter fun m => m.desc.isSome).length ≥ 8 then s
    else match ms.find? fun m => m.desc.isNone with
    | none => s
    | some m =>
      let s0 := if inHbm s m.descAddr 64 then agentTouch s b clsWalk m.descAddr 64 else s
      let d := migDescOf s0 m.descAddr
      let d1 := { d with bad := migInvalid s0 d || !inHbm s m.descAddr 64 }
      let busy := !d1.bad && (holdingSlice s0 d1.pte).isSome
      let f := fun (x : Mig) => { x with desc := some d1, busy := busy }
      startMigs n (modStu s0 b fun u => { u with migs := modFirst (fun x => x.desc.isNone) f u.migs }) b

/-- A store to STU_MIGRATE (R272): the descriptor goes to the mover of its fault's base die. -/
def migrateWrite (s : Node) (b : Nat) (v : Word) : Node :=
  let a := wbits v 55 6 * 64
  let q := if inHbm s a 64 then readLE s a 4 else 0
  let t := if q = 0 then b else bits q 31 30
  if (stuOf s t).migs.length ≥ 64 then fSet s (bLoc .stuStatus t) fStuStatusMigOvf 1
  else startMigs 1 (modStu s t fun u => { u with migs := u.migs ++ [⟨a, none, false, false, false, [], 0, false⟩] }) t

def execStuMigrateWrite (b : Nat) (v : Word) (s : State) : Host.Outcome State Fault Refusal := onServed s fun s =>
  onBase b (withResp (migrateWrite s b v) .done)

/-- A compare-and-swap of a PTE at its home (R218): whether it succeeded. One in a poisoned line, which no unit may use as a
value (R241), fails. -/
def casPte (s : Node) (b pa old new : Nat) : Node × Bool :=
  if !inHbm s pa 8 || readsPoison s 12 (lineOf pa) then (s, false)
  else
    let (s1, was) := homeAtom s b pa 8 9 new old
    (s1, decide (was = old % 2 ^ 64))

/-- Whether two entries of a mover's queue are one migration. -/
def sameMig (x m : Mig) : Bool := x.descAddr == m.descAddr && x.desc == m.desc && x.busy == m.busy

/-- Rewrites a migration. -/
def modMig (s : Node) (b : Nat) (m : Mig) (f : Mig → Mig) : Node :=
  modStu s b fun u => { u with migs := modFirst (sameMig m) f u.migs }

/-- Ends a migration with a status: faults held in the mover are replayed and the completion word is written (R273,
steps 5 and 6); the next queued one starts. -/
def endMig (s : Node) (b : Nat) (m : Mig) (d : MigDesc) (status : Nat) : Node :=
  let s1 := modStu s b fun u => { u with migs := dropFirst (sameMig m) u.migs }
  let s2 := m.held.foldl (fun s w => replayWaiter s heldSeq w) s1
  let s3 := if inHbm s2 d.done 8 ∧ d.done % 8 = 0 then
      agentWriteBy s2 b clsWalk d.done (leBytes 8 (d.fseq * 2 ^ 32 + status)) false else s2
  let s4 := if status = 1 then cntAdd s3 (bLoc .stuMigrations b) 1 else s3
  startMigs 1 s4 b

/-- A migration's copy fails (R273, STATUS 3): the PTE is returned to PTE_OLD. -/
def failMig (s : Node) (b : Nat) (m : Mig) (d : MigDesc) (code : Nat) : Node :=
  let s1 := if bit d.old 0 then (casPte s b d.pte (d.old - 1) d.old).1 else s
  endMig (logErr s1 (12 + b) 0x20 0x0204 d.src [(2, code)]) b m d 3

/-- Installs the copied page (R273, steps 2 to 4). -/
def installMig (s : Node) (b : Nat) (m : Mig) (d : MigDesc) (bytes : List Byte) : Node :=
  let s1 := agentWrite s b d.dst bytes false
  let (s2, ok) := casPte s1 b d.pte (if bit d.old 0 then d.old - 1 else d.old) d.new
  if !ok then endMig s2 b m d 2
  else
    let s3 := if d.fseq = 0 then s2 else resolve s2 d.fseq 0 replayWaiter
    endMig s3 b m d 1

/-- The offsets of the LOADs that read a far page (R325), and the request for one. -/
def migParts (d : MigDesc) : List Nat := (List.range (migBytes d / 4096)).map (· * 4096)
def migAsks (b : Nat) (d : MigDesc) (r : RemoteReq) : Bool :=
  r.who == .mover b && r.window == bits d.src 54 40 && decide (bits d.src 39 0 ≤ r.addr) &&
    decide (r.addr < bits d.src 39 0 + migBytes d)
def migReq (s : Node) (b : Nat) (d : MigDesc) (o : Nat) : Option RemoteReq :=
  s.remotes.find? fun r => migAsks b d r && r.addr == bits d.src 39 0 + o

/-- Whether a migration's source lies in the remote window. -/
def migFar (s : Node) (d : MigDesc) : Bool :=
  match paKind s d.src with
  | .remote _ _ => true
  | _ => false

/-- A migration copies (R273, step 2): a near page at once, a far one by LOADs; `finish` says whether it may end now, and
the answer says whether it has. -/
def copyMig (s : Node) (b : Nat) (m : Mig) (d : MigDesc) (finish : Bool) : Node × Bool :=
  let n := migBytes d
  if migFar s d then
    if !windowValid s d.src then if finish then (failMig s b m d 0x0608, true) else (s, false)
    else
      let s0 := (migParts d).foldl (fun s o =>
        if (migReq s b d o).isSome then s else (startRemote s (.mover b) 0 (d.src + o) 4096 [] 0 0 0).1) s
      if !finish || (migParts d).any (fun o => ((migReq s0 b d o).bind (·.result)).isNone) then (s0, false)
      else
        let got := (migParts d).map fun o => ((migReq s0 b d o).bind (·.result)).getD (0, [])
        let s1 := { s0 with remotes := s0.remotes.filter fun r => !migAsks b d r }
        match got.find? fun a => a.1 != 0 with
        | some (c, _) => (failMig s1 b m d c, true)
        | none => (installMig s1 b m d (got.flatMap fun a => a.2.take 4096), true)
  else if !finish then (s, false)
  else if !inHbm s d.src n then (failMig s b m d eUnmapped, true)
  else
    let s1 := agentTouch s b clsDma d.src n
    if anyPoison s1 d.src n then (failMig s1 b m d ePoison, true) else (installMig s1 b m d (readBytes s1 d.src n), true)

/-- One migration goes on (R273): the old entry is closed first where it stands, and the shootdown of its page awaited, then
the page is copied and installed. -/
def migrate (s : Node) (b : Nat) (m : Mig) (finish : Bool) : Node × Bool :=
  match m.desc with
  | none => (s, false)
  | some d =>
    if d.bad ∨ m.busy then
      if finish then (endMig s b m d (if d.bad then 5 else 4), true) else (s, false)
    else
      let (s1, ok) := if bit d.old 0 && !m.closed then casPte s b d.pte d.old (d.old - 1) else (s, true)
      if !ok then if finish then (endMig s1 b m d 2, true) else (s, false)
      else if !m.copying ∧ bit d.old 0 = true ∧ (shootHolder s1 (migShoot d)).isSome = true then
        (modMig s1 b m fun x => { x with closed := true, since := if x.closed then x.since else s.now }, false)
      else
        let s2 := if bit d.old 0 && !m.copying then shootApply s1 (migShoot d) else s1
        let goes := { m with closed := true, copying := true }
        copyMig (modMig s2 b m fun _ => goes) b goes d finish

/-- The migrations in progress go on, up to eight at once, and the first of them that can ends (R272, R273). -/
def migrateAll (b : Nat) : List Mig → Node → Bool → Node
  | [], s, _ => s
  | m :: rest, s, finish =>
    match migrate s b m finish with
    | (t, ended) => migrateAll b rest t (finish && !ended)

/-- The mover finishes a migration (R273), a page in the remote window being read by Dziger accesses first. -/
def execMigrationComplete (b : Nat) (s : State) : Host.Outcome State Fault Refusal := onServed s fun s =>
  onBase b (migrateAll b ((stuOf s b).migs.filter fun m => m.desc.isSome) s true)

/-! ## Access counts (R276) -/

/-- A write of STU_CNT_CTRL: CLEAR empties every slice's table. -/
def stuCntWrite (s : Node) (v : Word) : Node :=
  let s1 := storeReg s (bLoc .stuCntCtrl 0) v
  if wbit v 1 then (List.range 4).foldl (fun s b => modStu s b fun u => { u with far := [] }) s1 else s1

def execStuCntCtrlWrite (v : Word) (s : State) : Host.Outcome State Fault Refusal := onNode s fun s => .next (withResp (stuCntWrite s v) .done)

def execStuCntClear (v : Word) (s : State) : Host.Outcome State Fault Refusal := onNode s fun s => .next (withResp (stuCntWrite s v) .done)

/-- A HOT record (R269, R276). -/
def hotRecord (s : Node) (page shift count : Nat) : List Byte :=
  leBytes 4 0 ++ leBytes 1 (1 <<< 5) ++ leBytes 11 0 ++ leBytes 8 (page * 2 ^ shift) ++ leBytes 8 count ++ leBytes 24 0 ++
    leBytes 8 (s.now % 2 ^ 64)

/-- A die's batch of counts for a page reaches its slice (R276). -/
def execAccessCountBatch (die page shift : Nat) (s : State) : Host.Outcome State Fault Refusal := onNode s fun s =>
  onDie die (
    let n := tblGet 0 (dieOf s die).countBatch (page * 64 + shift)
    if n = 0 ∨ shift ≥ 64 then s
    else
      let b := page % 4
      let s1 := modDie s die fun d => { d with countBatch := tblErase d.countBatch (page * 64 + shift) }
      let mine := fun (c : FarCount) => c.page == page && c.shift == shift
      match (stuOf s1 b).far.find? mine with
      | none =>
        if (stuOf s1 b).far.length ≥ 16384 then cntAdd s1 (bLoc .cntMissed b) n
        else addCount (modStu s1 b fun u => { u with far := u.far ++ [⟨page, shift, 0, false⟩] }) b page shift n mine
      | some _ => addCount s1 b page shift n mine)
where
  /-- Adds to a page's counter, which saturates; the first time it reaches HOT_THR a HOT record is written. -/
  addCount (s : Node) (b page shift n : Nat) (mine : FarCount → Bool) : Node :=
    let thr := max 1 (fGet s (bLoc .stuCntCtrl 0) fStuCntCtrlHotThr)
    match (stuOf s b).far.find? mine with
    | none => s
    | some c =>
      let v := min 65535 (c.count + n)
      let hot := decide (v ≥ thr) && !c.reported && sliceTakes s b
      let f := fun (c : FarCount) => { c with count := v, reported := c.reported || hot }
      modStu s b fun u => { u with
        far := modFirst mine f u.far
        ready := if hot then u.ready ++ [hotRecord s page shift v] else u.ready }

end Sys2Proof.Machine
end

