-- ==== Sys2Proof/Machine/ResetOps.lean ====
section
/-! DEFINITION. Shared operations of the node's control: its parts, calibration (R479, R480), resets (R494 to R498),
stops (R460, R536), a job's wipe (R515, R516). -/

namespace Sys2Proof.Machine

/-! ## Parts of the control side -/

def modCtl (s : Node) (f : Ctl → Ctl) : Node := { s with ctl := f s.ctl }
def modCkpt (s : Node) (f : Ckpt → Ckpt) : Node := modCtl s fun c => { c with ckpt := f c.ckpt }
def modTime (s : Node) (f : Time → Time) : Node := modCtl s fun c => { c with time := f c.time }
def modLv (s : Node) (f : Louvre → Louvre) : Node := modCtl s fun c => { c with lv := f c.lv }
def modCorud (s : Node) (f : Corud → Corud) : Node := modCtl s fun c => { c with corud := f c.corud }
def modLife (s : Node) (f : Life → Life) : Node := modCtl s fun c => { c with life := f c.life }
def modTest (s : Node) (f : Test → Test) : Node := modCtl s fun c => { c with test := f c.test }

/-- PHASE of the checkpoint machine (R423): 0 IDLE, 1 DRAIN, 2 SCAN, 3 COPY, 4 RESTORE. -/
def ckptPhase (s : Node) : Nat := fGet s (bLoc .ckptStatus 0) fCkptStatusPhase

/-- Signals a source of every base die. -/
def signalAll (s : Node) (src : Nat) : Node := (List.range 4).foldl (fun s b => signal s b src) s

/-- SHA3-512 of bytes, as the number its bytes hold (FIPS 202). -/
def sha3 (l : List Byte) : Nat := Config.digest l.length (leValue l) % 2 ^ 512

/-! ## Calibration (R479, R480) -/

/-- The exact value of a calibration number. -/
def calNum (t : DTy) (v : Nat) : Num :=
  match t with
  | .i32 => numOfInt (Machine.signed 32 v)
  | .f32 => numOfCode .fp32 v
  | _ => numOfInt v

/-- The sum of a factory value and an offset: an integer sum, or an RNE sum for F32. -/
def calSum (t : DTy) (a b : Nat) : Num :=
  let o := numAdd false (calNum t a) (calNum t b)
  if t = .f32 then numOfCode .fp32 (deliver .fp32 .rne 0 o.nv o.val).code else o.val

/-- Whether an offset of user entry 0x6800 + n:s keeps its sum within the factory entry's limits. -/
def calFits (s : Node) (key off : Nat) : Bool :=
  let f := key - 0x80000
  let t := dtyOf (Config.calType f)
  let v := calSum t (dictNat s (f / 256) (f % 256)) off
  !numIsNan v && decide (numCmp (calNum t (Config.calLow f)) v ≠ .gt) && decide (numCmp v (calNum t (Config.calHigh f)) ≠ .gt)

/-- Whether a dictionary key lies in the user calibration range. -/
def isUserCal (key : Nat) : Bool := decide (0x680000 ≤ key) && decide (key < 0x700000)

/-- The value a consuming unit uses: the factory value plus the offset. -/
def calValue (s : Node) (idx sub : Nat) : Num :=
  let k := idx * 256 + sub
  if Config.calHas k then calSum (dtyOf (Config.calType k)) (dictNat s idx sub) (dictNat s (idx + 0x800) sub) else numOfInt 0

/-- The lead sets an offset whose sum falls outside its limits to zero, with a record (R480). -/
def checkCal (s : Node) (key : Nat) : Node :=
  let v := dictNat s (key / 256) (key % 256)
  if calFits s key v then s
  else logErr (dictSetNat s (key / 256) (key % 256) 0) (12 + leadDie s) 0x80 0x0A22 0 [(2, key / 256), (1, key % 256), (4, v)]

/-! ## Resets (R494 to R498) -/

/-- Kinds of reset (R494), as RST_CAUSE holds them. -/
def rstPowerOn : Nat := 0
def rstPin : Nat := 1
def rstOrphan : Nat := 2
def rstLeave : Nat := 3
def rstSoftware : Nat := 4

/-- A Ledger entry as a warm reset seals it: its local state, nothing in flight (R392, R500). -/
def sealEntry (e : LedEntry) : LedEntry :=
  { e with flight := false, heard := none, started := false, doneBy := none, recOut := false, recHeard := none, list := none }

/-- A slice as it comes through a warm reset: an entry that fails its integrity code is discarded. -/
def sealSlice (x : LedSlice) : LedSlice :=
  { LedSlice.reset with
    entries := (x.entries.filter fun p => !(p.2.any (·.bad))).map fun p => (p.1, p.2.map sealEntry)
    wid := x.wid
    copies := x.copies }

/-- Writes the records of the entries discarded. -/
def logBadEntries (old : Node) (s : Node) : Node :=
  (List.range 4).foldl (fun s b => (ledEntries old b).foldl (fun s (i, e) =>
    if e.bad then logErr s (12 + b) 0x51 0x0807 0 [(2, i)] else s) s) s

/-- The interleave and the fenced stack that a reset takes from their entries (R235, R236). -/
def setMapping (s : Node) : Node :=
  let f := dictNat s 0x3000 2
  let s0 := if f = 0 then s else setStackState s (Nat.log2 f) 2
  (List.range 4).foldl (fun s b =>
    let l := bLoc .hbmStatus b
    fSet (fSet s l fHbmStatusMapping (if f = 0 then dictNat s 0x3000 1 else 2)) l fHbmStatusFenced (if f = 0 then 0 else Nat.log2 f)) s0

/-- LV_SIG takes the slot images of SIGNATURES (R465). -/
def loadSigs (s : Node) (sig : List Byte) : Node :=
  (List.range 32).foldl (fun s i =>
    let w := fun k => BitVec.ofNat 64 (descField sig (i * 32 + 8 * k) 8)
    let set := fun (s : Node) (r : RegId) k m => regSet s (bLoc r 0 [i]) (w k &&& BitVec.ofNat 64 m)
    set (set (set (set s .lvSigW0 0 (2 ^ 63 + 2 ^ 62 + 0xFFFFFFFF)) .lvSigW1 1 0xFF) .lvSigW2 2 0xFFFF) .lvSigW3 3 (2 ^ 64 - 1)) s

/-- Registers that mirror stored entries: LEARN, the signatures, the cap in force without a grant (R451, R465). -/
def mirrorStored (s : Node) : Node :=
  let s1 := loadSigs (fSet s (bLoc .lvCtrl 0) fLvCtrlLearn (dictNat s 0x2003 2)) (dictVal s 0x2003 1)
  fSet s1 (bLoc .lvStatus 0) fLvStatusCapW (min (dictNat s 0x2001 2) (dictNat s 0x2000 1))

/-- A core that halts out of reset (R528): dcsr names the cause and M mode. -/
def haltedAtReset (s : Node) (c : Nat) : Node := modCore s c fun h => { h with csr := [(0x7B0, 0x143)] }

/-- The node as a reset leaves it, before release (R495, R498): `keep` says that the Ledger and FENCE come through,
`wipeLed` that the Ledger is wiped all the same, `erase` that the configuration store is erased. -/
def resetNode (s : Node) (cause : Nat) (keep wipeLed erase : Bool) : Node :=
  let fence := if keep then fGet s (bLoc .fence 0) fFenceFenced else 0
  let inc := fun b => if keep && !wipeLed then (incarnation s b + 1) % 2 ^ 32 else 0
  let store := if erase then [] else s.ctl.corud.store
  let l := s.ctl.life
  let life : Life := { Life.reset with
    pwrok := l.pwrok, resetN := l.resetN, trip := keep && l.trip, stopped := keep && l.stopped, cold := !keep, fuses := l.fuses
    nonce := Config.freeNat s.fresh % 2 ^ 256, debugNext := keep && l.debugNext }
  let test : Test := if keep then { s.ctl.test with bist := none, dm := tblSet 0 s.ctl.test.dm 0x1002 0, halted := s.ctl.test.haltOnReset, stepping := [], junk := none } else Test.reset
  let corud : Corud := { Corud.reset with store := store, flash := s.ctl.corud.flash }
  let s0 : Node := { Node.reset with
    resp := s.resp, fresh := s.fresh + 1, out := s.out, remoteId := s.remoteId, dict := store
    leds := if keep && !wipeLed then (s.leds.map fun p => (p.1, sealSlice p.2)) else []
    ctl := { Ctl.reset with life := life, test := test, corud := corud } }
  let sh := test.halted.foldl haltedAtReset s0
  let s1 := fSet (fSet sh (bLoc .fence 0) fFenceFenced fence) (bLoc .rstCause 0) fRstCauseCause cause
  let s2 := (List.range 4).foldl (fun s b =>
    fSet (fSet s (bLoc .rstCause b) fRstCauseCause cause) (bLoc .ledgerStatus b) fLedgerStatusIncarnation (inc b)) s1
  let s3 := mirrorStored (setMapping s2)
  let s4 := if keep && !wipeLed then logBadEntries s s3 else s3
  ((store.map (·.1)).filter isUserCal).foldl checkCal s4

/-- A cold power-up's reset (R494): nothing but the fuses and the configuration store is kept. -/
def coldReset (s : Node) : Node := resetNode s rstPowerOn false true false

/-- A warm reset (R494, R496, R497): ignored while the node is stopped or already in reset. A self-timed one releases
itself. -/
def warmReset (s : Node) (cause : Nat) (transition : Bool) : Node :=
  let l := s.ctl.life
  if l.stopped || l.trip || !l.pwrok || l.boot == .inReset then s
  else
    let s1 := modLife (resetNode s cause true transition transition) fun x => { x with leaving := decide (cause ≠ rstPin) }
    sendOut s1 ⟨22, 0, .notify, [0, 0], []⟩

/-- A SOFTWARE request by SEC_CMD or Corud RESET: ignored until READY has risen, save in hold mode (R496). -/
def softwareReset (s : Node) : Node :=
  if s.ctl.life.readied || s.ctl.life.boot == .hold then warmReset s rstSoftware false else s

/-- The node stops until a cold power-up (R460, R536, R538): clocks stop, transmitters idle, READY low; `trip` drives
THERMTRIP_N low as well. No record is written. -/
def stopNode (s : Node) (trip : Bool) : Node :=
  let l := s.ctl.life
  if !l.pwrok || l.stopped && (!trip || l.trip) then s
  else
    let s1 := modLife s fun x => { x with stopped := true, trip := x.trip || trip, ready := false }
    let s2 := (List.range 20).foldl (fun s p => fSet (modPort s p fun x => { x with training := false }) (portLoc .portStatus p) fPortStatusLink 0) s1
    let s3 := sendOut s2 ⟨22, 0, .notify, [0, 0], []⟩
    if trip then sendOut s3 ⟨22, 0, .notify, [1, 0], []⟩ else s3

/-! ## Wiping between jobs (R515, R516) -/

/-- What keeps a JOB_WIPE, and test mode, from starting. -/
def jobPresent (s : Node) : Bool :=
  anyBelow 256 (fun q => wqState s q != stOff) ||
  anyBelow 4 (fun b => !(ledEntries s b).isEmpty) ||
  selfJob s != 0 ||
  anyBelow 192 (fun g => (gableOf s g).groups.any fun p => decide (p.2 ≠ Group.none)) ||
  anyBelow 12 (fun d => !(schedOf s d).pool.isEmpty || !(schedOf s d).lists.isEmpty) ||
  anyBelow 4 (fun b => !(shgOf s b).buckets.isEmpty) ||
  ckptPhase s != 0

/-- The keep region. -/
def inKeep (s : Node) (a : Nat) : Bool :=
  decide (fGet s (bLoc .jwKeepBase 0) fJwKeepBaseAddr * 65536 ≤ a) && decide (a < fGet s (bLoc .jwKeepLimit 0) fJwKeepLimitAddr * 65536)

/-- Registers that the wipe zeroes: element-engine slots, the sequence table, the batch tables and the dependency
counters. -/
def wiped (k : Nat) : Bool :=
  match findReg k with
  | some l => [RegId.elemSlot, .seqEntry, .batch, .depCnt].contains l.id
  | none => false

/-- A die outside what a JOB_WIPE clears: cache lines outside the keep region, with the cores' copies, and every
translation go. -/
def wipeDie (s : Node) (x : Die) : Die :=
  let keep := fun (line : Nat) => inKeep s (line * lineBytes)
  { x with
    tlb := []
    cores := x.cores.map fun p => (p.1, { p.2 with tlb := [], resv := none, caches := {
      l1i := p.2.caches.l1i.filter keep
      l1d := p.2.caches.l1d.filter keep
      l2 := p.2.caches.l2.filter fun l => keep l.1 } })
    cache := { x.cache with lines := x.cache.lines.filter fun p => keep p.1, evicting := x.cache.evicting.filter fun p => keep p.1 } }

/-- The HBM marks that a JOB_WIPE keeps: in the keep region, with those of the dirty lines that it takes from the
near-memory caches. -/
def wipePoison (s : Node) : List Nat :=
  let keep := fun (line : Nat) => inKeep s (line * lineBytes)
  let held := s.nmcs.flatMap fun p => (p.2.ways.filterMap (·.2)) ++ p.2.eaves
  (held.filter fun l => l.dirty && keep l.line).foldl
    (fun m l => if l.poison then insertRising l.line m else dropLine l.line m) (s.poison.filter keep)

/-- The effect of a JOB_WIPE. -/
def wipeJob (s : Node) : Node :=
  let keep := fun (line : Nat) => inKeep s (line * lineBytes)
  { s with
    mem := s.mem.filter fun c => inKeep s c.1
    poison := wipePoison s
    stale := s.stale.filter fun p => keep (p.1 / 16) && decide (p.1 % 16 < 12)
    gables := []
    dies := s.dies.map fun p => (p.1, wipeDie s p.2)
    dirs := s.dirs.map fun p => (p.1, { p.2 with entries := p.2.entries.filter fun e => keep e.1 })
    nmcs := s.nmcs.map fun p => (p.1, { Nmc.reset with gen := p.2.gen })
    stus := s.stus.map fun p => (p.1, { p.2 with walkCache := [] })
    shgs := []
    seqStaged := []
    csr := s.csr.filter fun p => !wiped p.1
    fabric := { s.fabric with waiting := [], ridgeWait := [], badFwd := [], rflows := s.fabric.rflows.map fun p => (p.1, p.2.map fun r => { r with held := [] }) } }

/-- JOB_WIPE (R515): refused with WIPE_REFUSED while work is present. Answers whether it was accepted. -/
def jobWipe (s : Node) : Node × Bool :=
  if jobPresent s || s.ctl.life.wiping then
    ((List.range 4).foldl (fun s b => fSet s (bLoc .secStatus b) fSecStatusWipeRefused 1) s, false)
  else
    let s1 := modLife (wipeJob s) fun x => { x with wiping := true }
    let s2 := (List.range 4).foldl (fun s b =>
      fSet (fSet s (bLoc .secStatus b) fSecStatusJwBusy 1) (bLoc .nmcStatus b) fNmcStatusStaleSinceDisable 0) s1
    (s2, true)

end Sys2Proof.Machine
end

