-- ==== Sys2Proof/Machine/Recovery.lean ====
section
/-! DEFINITION. Errors, containment and recovery (R399 to R423): the log's read index, fences, aborts, departures, the
controlling session, checkpoint cuts and restores. -/

namespace Sys2Proof.Machine

/-! ## The error log's read index (R423) -/

/-- ERR_HEAD under a write: clamped to the records that the log can hold. -/
def errHeadWrite (s : Node) (b : Nat) (v : Nat) : Node :=
  let tail := fGet s (bLoc .errTail b) fErrTailIndex
  let d := signed 32 (wrap 32 ((tail : Int) - (v : Int)))
  let head := if d < 0 then tail else if d ≤ 4096 then v else wrap 32 ((tail : Int) - 4096)
  fSet s (bLoc .errHead b) fErrHeadIndex head

def execErrHeadWrite (base : Nat) (value : Word) (s : State) : Host.Outcome State Fault Refusal := onNode s fun s =>
  onBase base (withResp (errHeadWrite s base (wbits value 31 0)) .done)

/-! ## Fences (R405 to R408) -/

/-- Asks for a compute die to be fenced, with its trigger of R406; a die that is fenced already is left alone. -/
def askFence (s : Node) (d trigger : Nat) : Node :=
  if isFenced s d then s else { s with fenceReqs := s.fenceReqs ++ [(d, trigger)] }

/-- A write of FENCE (R406, trigger 5). -/
def fenceWrite (s : Node) (v : Word) : Node :=
  (List.range 12).foldl (fun s d => if wbit v d then askFence s d 5 else s) s

def execFenceWrite (value : Word) (s : State) : Host.Outcome State Fault Refusal := onNode s fun s => .next (withResp (fenceWrite s value) .done)

/-- The third consecutive heartbeat of a die is missed (R406, trigger 3). -/
def execHeartbeatMissed (die : Nat) (s : State) : Host.Outcome State Fault Refusal := onNode s fun s => onDie die (askFence s die 3)

/-- A fault of a die's regulators (R406, trigger 4). -/
def execRegulatorFault (die : Nat) (s : State) : Host.Outcome State Fault Refusal := onNode s fun s => onDie die (askFence s die 4)

/-- The home ends what a fenced die had in progress: requests not yet taken are dropped and counted in FENCE_DROPS, then
transactions that await its CmpAck and snoops that it has not answered end (R219, R407). -/
def fenceHome (s : Node) (d b : Nat) : Node :=
  let mine := fun (r : HomeReq) => decide (r.src = .die d)
  let lost := (dirOf s b).queue.countP mine
  let s1 := cntAdd (modDir s b fun x => { x with queue := x.queue.filter fun r => !mine r }) (bLoc .fenceDrops (baseOfDie d)) lost
  let waits := (dirOf s1 b).txns.filter fun t => mine t.req && t.answered
  let s2 := waits.foldl (fun s t => homeGo (endTxn (closeFenced s t) b t.req.line) t.req.line) s1
  let snoops := (dirOf s2 b).snoops.filter fun m => m.die == d
  let s3 := snoops.foldl answerSnoop s2
  modDir s3 b fun x => { x with scan := x.scan ++ [d] }

/-- The die of a fenced die's base die that takes a descriptor: in service, with the most free pool entries. -/
def heirDie (s : Node) (d : Nat) : Option Nat :=
  let may := fun k => k != d && !isFenced s k && isOn s (tsCtrl k) && decide (poolFree s k > 0)
  match ((List.range 3).map (d / 3 * 3 + ·)).filter may with
  | [] => none
  | a :: t => some (t.foldl (fun m k => if poolFree s k > poolFree s m then k else m) a)

/-- A descriptor as the broker fetches it again (R175). -/
def brokerWords (s : Node) (d va : Nat) : Option (List Nat) :=
  match stuWalk s (d / 3) va accRead with
  | .ok e =>
    let pa := mapAddr (tlbMap e va) va
    (match paKind s pa with
      | .hbm => if readsPoison s 12 (lineOf pa) then none else some ((List.range 16).map fun i => readLE s (pa + 4 * i) 4)
      | .scratch g off => some ((List.range 16).map fun i => scratchLE s g (off + 4 * i) 4)
      | _ => none).filter fun ws => !tdInvalid ws
  | .fault _ => none

/-- Places a fenced die's descriptor on another die, or records it lost (R175). -/
def rescueTile (s : Node) (d addr : Nat) (cmd : Option Nat) : Node :=
  let ok := (brokerWords s d addr).filter fun ws => tdScope ws == 1 || tdScope ws == 2
  match ok, heirDie s d with
  | some ws, some k => addPool s k ws addr (shortestQueue s k ws) true false none cmd
  | _, _ => tsEvent (logErr s (12 + d / 3) 0x13 0x0351 addr []) d

/-- Whether a waiter belongs to a compute die. -/
def waiterOf (d : Nat) : Waiter → Bool
  | .group g _ => g / 16 == d
  | .copy g _ => g / 16 == d
  | .elem g => g / 16 == d
  | .list x => x == d
  | .launch g => g / 16 == d

/-- Whether a remote access was made by a compute die. -/
def remoteOf (d : Nat) : RemoteWho → Bool
  | .groupLoad g _ _ => g / 16 == d
  | .groupStore g _ _ => g / 16 == d
  | .groupAmo g _ _ _ => g / 16 == d
  | .elemLoad g => g / 16 == d
  | .elemStore g _ _ _ => g / 16 == d
  | .copy g _ => g / 16 == d
  | .core c => c / 8 == d
  | .launch g => g / 16 == d
  | .list x => x == d
  | _ => false

/-- What a compute die leaves when it is switched off: its cache's lines, until the fence scans have passed them, and
among its writebacks those that the home has not taken. -/
def deadDie (x : Die) : Die :=
  { Die.reset with cache := { Die.reset.cache with lines := x.cache.lines, evicting := x.cache.evicting.filter fun p => decide (p.2.st ≠ .i) } }

/-- A compute die is fenced (R407): FENCE is set, the homes answer for it, its descriptors are placed elsewhere, its
waiters removed, and DIE_FENCED is written with the trigger. -/
def fenceDie (s : Node) (d trigger : Nat) : Node :=
  let old := schedOf s d
  let s1 := fSet { s with fenceReqs := s.fenceReqs.filter fun p => p.1 != d } (bLoc .fence 0) fFenceFenced
    (fGet s (bLoc .fence 0) fFenceFenced ||| 1 <<< d)
  let held := fun (r : HomeReq) => decide (r.src = .die d)
  let s1 := cntAdd (modNet s1 fun x => { x with held := x.held.filter fun r => !held r }) (bLoc .fenceDrops (baseOfDie d))
    ((netOf s1).held.countP held)
  let s2 := (List.range 4).foldl (fun s b => fenceHome s d b) s1
  let s3 := modDie s2 d deadDie
  let drop := fun (u : Stu) => { u with
    faults := u.faults.map fun q => { q with waiters := q.waiters.filter fun w => !waiterOf d w }
    migs := u.migs.map fun m => { m with held := m.held.filter fun w => !waiterOf d w } }
  let s4 := { s3 with
    gables := s3.gables.filter fun p => p.1 / 16 != d
    stus := s3.stus.map fun p => (p.1, drop p.2)
    remotes := s3.remotes.filter fun r => !remoteOf d r.who }
  let addrs := ((old.pool.filter fun e => !e.pinned).map fun e => (e.addr, e.cmd)) ++
    (old.tiles.filter fun t => t.scope != scopeDirect && !t.lost).map fun t => (t.addr, t.cmd)
  let s5 := addrs.foldl (fun s (a, c) => rescueTile s d a c) s4
  let s6 := logErr s5 d 0x00 0x0A01 0 [(1, trigger)]
  if fGet s6 (bLoc .fence 0) fFenceFenced = 0xFFF then { s6 with leaveDue := s6.leaveDue ++ [.allFenced] } else s6

/-- A fence that was asked for takes place: its record names the first trigger in the order of R406. -/
def execDieFence (die : Nat) (s : State) : Host.Outcome State Fault Refusal := onNode s fun s =>
  onDie die (
    match (s.fenceReqs.filter fun p => p.1 == die).map (·.2) with
    | [] => s
    | t :: ts => if isFenced s die then s else ordered s (fenceDie s die (ts.foldl min t)))

/-- A host core's cache loses a line (R405): its clean copy is fetched again; a dirty one is poisoned, in the die cache
that holds it for the core. -/
def coreCacheLost (s : Node) (c line : Nat) (dirty : Bool) : Node :=
  let held := (coreOf s c).caches.l2.any fun p => p.1 == line
  let s1 := modCore s c fun h => { h with caches := {
    l1i := h.caches.l1i.filter (· != line), l1d := h.caches.l1d.filter (· != line), l2 := h.caches.l2.filter fun p => p.1 != line } }
  if dirty && held && decide (holdSt s (c / 8) line ≠ .i) then
    modCache s1 (c / 8) fun x => { x with lines := tblMod DcLine.absent x.lines line fun y => { y with poison := true } }
  else s1

/-- An uncorrectable SRAM error (R406 trigger 2, R117, R222, R392, R405): a shared structure of a die fences it, a Gable's
accumulators and element buffers fault the Gable, a core cache gives up a line; a directory entry's and a Ledger entry's
error is met when the entry is next used; a base die whose own logic or mesh fails is lost. -/
def execSramUncorrected (part : SramPart) (s : State) : Host.Outcome State Fault Refusal := onNode s fun s =>
  let shared := fun (d block : Nat) => onDie d (if isFenced s d then s else askFence (logErr s d block 0x0107 0 []) d 2)
  match part with
  | .cacheTags d => shared d 0x20
  | .tlb d => shared d 0x21
  | .pool d => shared d 0x22
  | .accumulator g _ => onGable g (sramLost s g)
  | .elemBuffer g => onGable g (sramLost s g)
  | .coreCache c line dirty => onUnit 96 c (if isFenced s (c / 8) then s else coreCacheLost s c line dirty)
  | .dirEntry line =>
    .next (if (dirEntry s line).st = .di then s
      else modDir s (homeOf s line) fun x => { x with bad := insertRising line x.bad })
  | .ledgerEntry b i => onBase b (modLed s b fun x => { x with entries := tblMod none x.entries i fun e => e.map fun y => { y with bad := true } })
  | .baseDie b => onBase b (if s.leaveDue.contains (.baseDie b) then s else { s with leaveDue := s.leaveDue ++ [.baseDie b] })

/-! ## Aborts (R409) -/

/-- An abort at one Gable: every group is killed, Gutter entries that no run has taken are discarded, copies that have
not moved bytes are dropped. -/
def abortGable (s : Node) (g : Nat) : Node :=
  let s1 := endAllGroups s g
  let y := gableOf s1 g
  let keep := y.copying.foldl (fun (z : Gable) e =>
    if e.cell = 0 then { z with c0 := modBank z.c0 e.bank fun _ => Bank.free }
    else { z with c1 := modBank z.c1 e.bank fun _ => Bank.free }) y
  let runs := if y.elem.running then y.elem.main else []
  let s2 := modGable s1 g fun z => { z with
    c0 := keep.c0, c1 := keep.c1, copying := []
    gutter := z.gutter.filter fun e => runs.contains e
    copies := z.copies.filter fun c => c.started && c.moved }
  let gone := (y.copies.filter fun c => !(c.started && c.moved)).map (·.id)
  let mine := fun (r : RemoteReq) => match r.who with
    | .copy h id => h == g && gone.contains id
    | _ => false
  { s2 with remotes := s2.remotes.filter fun r => !mine r }

/-- A write of ABORT to DIE_CMD; a further one joins the abort that runs. -/
def dieAbort (s : Node) (d : Nat) : Node :=
  if isFenced s d || (dieOf s d).aborting then s
  else
    let s1 := modDie s d fun x => { x with aborting := true, sched := { x.sched with pool := [], lists := [], tiles := [] } }
    let s2 := (List.range 16).foldl (fun s i => abortGable s (16 * d + i)) s1
    fSet s2 (dLoc .dieStatus d) fDieStatusAbortBusy 1

def execDieAbort (die : Nat) (s : State) : Host.Outcome State Fault Refusal := onNode s fun s => onDie die (withResp (dieAbort s die) .done)

/-- Whether a finished tile of a Gable is still on its way to the Gutter. -/
def gutterFills (s : Node) (g : Nat) : Bool :=
  let y := gableOf s g
  decide (y.copying ≠ []) || [y.c0.b0, y.c0.b1, y.c1.b0, y.c1.b1].any fun b => decide (b.st = .full)

/-- The abort ends once no finished tile is on its way to the Gutter; entries that arrived meanwhile are discarded. -/
def execDieAbortDone (die : Nat) (s : State) : Host.Outcome State Fault Refusal := onNode s fun s =>
  onDie die (
    if !(dieOf s die).aborting || (List.range 16).any (fun i => gutterFills s (16 * die + i)) then s
    else
      let s1 := (List.range 16).foldl (fun s i => abortGable s (16 * die + i)) s
      fSet (modDie s1 die fun x => { x with aborting := false }) (dLoc .dieStatus die) fDieStatusAbortBusy 0)

/-! ## Stored entries -/

/-- Sets a stored dictionary entry, in effect and in the configuration store. -/
def storeNat (s : Node) (idx sub v : Nat) : Node :=
  let s1 := dictSetNat s idx sub v
  modCorud s1 fun c => { c with store := tblSet none c.store (idx * 256 + sub) (tblGet none s1.dict (idx * 256 + sub)) }

/-- Whether the node can leave or reset itself: powered, out of reset, not stopped. -/
def nodeRuns (s : Node) : Bool :=
  let l := s.ctl.life
  l.pwrok && !l.stopped && !l.trip && decide (l.boot ≠ .inReset)

/-! ## Sessions (R412) -/

/-- Until when a session entry's session is alive, unless a packet comes (R412): its QP in RTR or RTS, HB_MS from the last
packet that it accepted. -/
def sessionUntil (s : Node) (sub : Nat) : Option Nat :=
  let x := dictNat s 0x4102 sub
  let q := qpOf s x
  if x < 4096 ∧ (q.st = 2 ∨ q.st = 3) then q.acceptedAt.map fun t => t + dictNat s 0x4102 6 * 1000000 else none

/-- Whether the session of an entry is alive (R412). -/
def sessionAlive (s : Node) (sub : Nat) : Bool := (sessionUntil s sub).any fun t => decide (s.now ≤ t)

/-- Notes, before time goes on to `t`, until when some session has been alive (R412). -/
def noteSessions (s : Node) (t : Nat) : Node :=
  let ends := ([2, 3, 4, 5].filter (sessionAlive s)).filterMap (sessionUntil s)
  if ends = [] then s
  else modCkpt s fun c => { c with sessioned := true, aliveAt := max c.aliveAt (min t (ends.foldl max 0)) }

/-! ## Checkpoint cuts (R414 to R418) -/

/-- Extents of a DOMAIN value: address and length. -/
def extentsOf : List Byte → List (Nat × Nat)
  | l => ((List.range (l.length / 16)).map fun i => (descField l (16 * i) 8, descField l (16 * i + 8) 8)).filter fun p => p.2 != 0

/-- The 1,024 bytes of a header's EXTENTS. -/
def extentBytes (s : Node) : List Byte :=
  let l := (dictVal s 0x4101 1).take 1024
  l ++ List.replicate (1024 - l.length) 0

/-- The slot header at a cut (R415), FLAGS and CHECK zero. -/
def cutHeader (s : Node) (cut : Nat) : List Byte :=
  let ext := extentBytes s
  let next := (List.range 256).flatMap fun q => leBytes 8 (wqNext s q)
  leBytes 4 cut ++ leBytes 4 0 ++ leBytes 8 s.now ++ leBytes 2 (selfJob s) ++ leBytes 2 (selfEpoch s) ++ leBytes 4 (selfEp s) ++
    leBytes 8 ((extentsOf ext).map (·.2)).sum ++ leBytes 32 0 ++ ext ++ next ++ List.replicate 960 0

/-- A header with its FLAGS and CHECK. -/
def sealHeader (h : List Byte) (flags : Nat) : List Byte :=
  let l := h.take 4 ++ leBytes 1 flags ++ (h.drop 5).take 4089
  l ++ leBytes 2 (checkCode (l ++ leBytes 2 0))

/-- The 64 KiB chunks of a header's extents, in order. -/
def chunksOf (h : List Byte) : List Nat :=
  (extentsOf ((h.drop 64).take 1024)).flatMap fun (a, n) => (List.range (n / 65536)).map (a / 65536 + ·)

/-- Sets PHASE. -/
def setPhase (s : Node) (p : Nat) : Node := fSet s (bLoc .ckptStatus 0) fCkptStatusPhase p

/-- A cut or restore fails: CKPT_STATUS.FAIL and a record with the cause. -/
def ckptFail (s : Node) (code cause : Nat) : Node :=
  logErr (fSet s (bLoc .ckptStatus 0) fCkptStatusFail cause) (12 + leadDie s) 0x00 code 0 [(1, cause)]

/-- Addresses of the local slot and of this node's remote slot. -/
def localSlot (s : Node) : Nat := dictNat s 0x4101 2
def buddySlot (s : Node) : Nat := dictNat s 0x4101 4
def buddyEp (s : Node) : Nat := dictNat s 0x4100 2

/-- Sends bytes to the remote slot by Dziger PUT, in pieces of at most 8 KiB. -/
def putSlot (s : Node) (off : Nat) (l : List Byte) : Node :=
  (List.range (ceilDiv l.length 8192)).foldl (fun s i =>
    originate s .ckpt (ownPkt s 1 (buddyEp s) 0 (buddySlot s + off + i * 8192) 0 ((l.drop (i * 8192)).take 8192))) s

/-- A cut starts (R416, step 1), or is skipped while PHASE is not IDLE (R418). -/
def startCut (s : Node) (cut : Nat) : Node :=
  if ckptPhase s ≠ 0 then ckptFail s 0x0A04 1
  else
    let hold := maskOf ((List.range 4).filter (shgHold s))
    let s1 := modCkpt s fun c => { c with hold := hold, head := cutHeader s cut, poison := false, sending := false, failed := false, since := s.now }
    setPhase ((List.range 4).foldl (fun s b => setShgHold s b true) s1) 1

def execCkptCut (cut : Nat) (s : State) : Host.Outcome State Fault Refusal := onServed s fun s => .next (withResp (startCut s (cut % 2 ^ 32)) .done)

/-- Step 3: INFLIGHT reads 0 on every slice; COMPLETE is cleared in both slots. -/
def execCutDrained (s : State) : Host.Outcome State Fault Refusal := onServed s fun s =>
  .next (
    if ckptPhase s = 1 ∧ (List.range 4).all (fun b => inflight s b == 0) then
      let flags := readLE s (localSlot s + 4) 1
      let s1 := agentWrite s (leadDie s) (localSlot s + 4) (leBytes 1 (flags - flags % 2)) false
      setPhase (putSlot s1 4 (leBytes 1 0)) 2
    else s)

/-- HOLD of every slice returns to its value before the cut. -/
def restoreHold (s : Node) : Node := (List.range 4).foldl (fun s b => setShgHold s b (bit s.ctl.ckpt.hold b)) s

/-- The drain has overrun CUT_DRAIN_MS (R418). -/
def execCutDrainTimeout (s : State) : Host.Outcome State Fault Refusal := onServed s fun s =>
  .next (
    if ckptPhase s = 1 ∧ s.ctl.ckpt.since + dictNat s 0x4101 5 * 1000000 < s.now then ckptFail (setPhase (restoreHold s) 0) 0x0A04 2
    else s)

/-- SnpRcl of a line held in DX or DO: its data is written to memory and its owner lets it go; of a fenced die the line is
lost (R219). -/
def recallLine (s : Node) (line : Nat) : Node :=
  let s0 := purgeFenced s line
  let e := dirEntry s0 line
  if e.st = .dx ∨ e.st = .dOwned then
    let st := snoopSt s0 e.owner line
    let s1 := setSnoopSt (cntAdd s0 (dLoc .dcSnoops e.owner) 1) e.owner line .i
    let s2 := if st = .m ∨ st = .o then nmcWrite s1 (fillClass s0 e.owner line) line true (dcCopy s0 e.owner line).poison else s1
    modEntry s2 line fun x => entryDrop x x.owner
  else s0

/-- Every chunk has been copied: the local slot's bytes go to the remote slot, its header last (R416, steps 7 and 8). -/
def sendSlot (s : Node) : Node :=
  let h := s.ctl.ckpt.head
  let n := (chunksOf h).length * 65536
  let flags := 1 + (if s.ctl.ckpt.poison then 2 else 0)
  let s1 := modCkpt s fun c => { c with sending := true }
  putSlot (putSlot s1 0x10000 (readBytes s1 (localSlot s1 + 0x10000) n)) 0 (sealHeader h flags)

/-- The cut scan ends (R416, steps 4 and 5): once no transaction is in progress on a line of the extents, lines held in
DX or DO have been recalled and every chunk is pending. -/
def execCutScanDone (s : State) : Host.Outcome State Fault Refusal := onServed s fun s =>
  let chunks := chunksOf s.ctl.ckpt.head
  let mine := fun (line : Nat) => chunks.contains (line / 512)
  .next (
    if ckptPhase s ≠ 2 ∨ (List.range 4).any (fun b => (dirOf s b).txns.any fun t => mine t.req.line || (t.evicts && mine t.victim)) then s
    else
      let lines := (List.range 4).flatMap fun b => ((dirOf s b).entries.map (·.1)).filter mine
      let s1 := lines.foldl recallLine s
      let s2 := setPhase (restoreHold { s1 with cutChunks := chunks }) 3
      if chunks = [] then sendSlot s2 else s2)

/-- Where a chunk lies in the slot. -/
def chunkSlot (s : Node) (chunk : Nat) : Nat :=
  localSlot s + 0x10000 + ((chunksOf s.ctl.ckpt.head).takeWhile (· != chunk)).length * 65536

/-- Copies a line by RdOnce, with its poison mark. -/
def copyCutLine (s : Node) (src dst : Nat) : Node :=
  let s1 := homeReadFirst s (leadDie s) clsDma src
  let l := readBytes s1 (src * lineBytes) lineBytes
  let p := readsPoison s1 12 src
  let s2 := homeWrite s1 (leadDie s) clsDma dst ((l.zipIdx).map fun (v, i) => (i, v)) p
  if p then modCkpt s2 fun c => { c with poison := true } else s2

/-- Whether a request waits for the copy of a chunk. -/
def chunkAwaited (s : Node) (chunk : Nat) : Bool :=
  (List.range 4).any fun b => (dirOf s b).queue.any fun r => r.line / 512 == chunk && cutHolds s r

/-- A pending chunk is copied into the local slot, and its waiting requests proceed (R417): a chunk that a request
awaits goes ahead of the others. -/
def execCutChunkCopied (chunk : Nat) (s : State) : Host.Outcome State Fault Refusal := onServed s fun s =>
  .next (
    if !s.cutChunks.contains chunk || (s.cutChunks.any (chunkAwaited s) && !chunkAwaited s chunk) then s
    else
      let slot := chunkSlot s chunk / lineBytes
      let s1 := (List.range 512).foldl (fun s i => copyCutLine s (chunk * 512 + i) (slot + i)) s
      let s2 := { s1 with cutChunks := s1.cutChunks.filter fun c => c != chunk }
      let s3 := (List.range 512).foldl (fun s i => homeGo s (chunk * 512 + i)) s2
      if s3.cutChunks = [] then sendSlot s3 else s3)

/-- Whether a packet of the remote slot is waiting or unacknowledged. -/
def slotSending (s : Node) : Bool :=
  s.fabric.waiting.any (fun o => o.who == .ckpt) ||
  s.fabric.sflows.any fun p => p.2.any fun f => f.unacked.any fun o => o.who == .ckpt

/-- The remote slot's last write is acknowledged, or its flow has failed (R416 step 8, R418): the local slot completes
either way. -/
def execCutRemoteDone (s : State) : Host.Outcome State Fault Refusal := onServed s fun s =>
  .next (
    let c := s.ctl.ckpt
    if !c.sending || (!c.failed && slotSending s) then s
    else
      let s1 := agentWrite s (leadDie s) (localSlot s) (sealHeader c.head (1 + (if c.poison then 2 else 0))) false
      let s2 := setPhase (modCkpt s1 fun c => { c with sending := false }) 0
      if c.failed then ckptFail s2 0x0A04 3
      else fSet s2 (bLoc .ckptStatus 0) fCkptStatusLastCut (descField c.head 0 4))

/-! ## Restores (R419) -/

/-- Why a restore from a header is refused: 4 SLOT, 5 STATE. -/
def restoreFault (s : Node) (h : List Byte) (poisoned : Bool) : Option Nat :=
  if h.length ≠ 4096 ∨ poisoned ∨ !bit (descField h 4 1) 0 ∨ !checkPasses h ∨ (h.drop 64).take 1024 ≠ extentBytes s then some 4
  else if (anyBelow 256 (fun q => wqState s q != stOff) && !(List.range 4).any (recovering s)) || selfJob s != descField h 16 2 then some 5
  else none

/-- Writes the extents from a slot's contents, each line as WrLine with its poison mark. -/
def restoreLines (s : Node) (h : List Byte) (byteAt : Nat → Byte) (bad : Nat → Bool) : Node :=
  ((chunksOf h).zipIdx).foldl (fun s (chunk, k) =>
    (List.range 512).foldl (fun s i =>
      let off := k * 65536 + i * lineBytes
      homeWrite s (leadDie s) clsDma (chunk * 512 + i) ((List.range lineBytes).map fun j => (j, byteAt (off + j))) (bad (off / lineBytes))) s) s

/-- A restore from a header and the bytes and marks that follow it in the slot. -/
def startRestore (s : Node) (h : List Byte) (poisoned : Bool) (byteAt : Nat → Byte) (bad : Nat → Bool) : Node :=
  if ckptPhase s ≠ 0 then s
  else match restoreFault s h poisoned with
  | some c => ckptFail s 0x0A05 c
  | none =>
    let next := (List.range 256).map fun q => descField h (1088 + 8 * q) 6
    setPhase (modCkpt (restoreLines s h byteAt bad) fun c => { c with restore := next }) 4

/-- RESTORE_LOCAL. -/
def restoreLocal (s : Node) : Node :=
  let a := localSlot s
  let s1 := agentTouch s (leadDie s) clsDma a 4096
  startRestore s1 (readBytes s1 a 4096) (anyPoison s1 a 4096) (fun o => readByte s1 (a + 0x10000 + o))
    (fun l => readsPoison s1 12 ((a + 0x10000) / lineBytes + l))

def execCkptRestoreLocal (s : State) : Host.Outcome State Fault Refusal := onServed s fun s => .next (withResp (restoreLocal s) .done)

/-- RESTORE_BUDDY begins: Dziger GETs ask for the remote slot, its header and then each chunk of CKPT_EXTENTS. -/
def askBuddy (s : Node) : Node :=
  if ckptPhase s ≠ 0 ∨ s.remotes.any (fun r => r.who == .restore) then s
  else
    let get := fun (s : Node) (off n : Nat) =>
      { s with
        remotes := s.remotes ++ [⟨s.remoteId, .restore, 4, 0, buddyEp s, buddySlot s + off, n, [], 0, 0, 0, false, false, [], none, []⟩]
        remoteId := s.remoteId + 1 }
    let n := ((extentsOf (dictVal s 0x4101 1)).map (·.2)).sum / 65536
    (List.range n).foldl (fun s k => get s (0x10000 + k * 65536) 65536) (get s 0 4096)

/-- The GETs of RESTORE_BUDDY have ended, with what they returned: the header, the bytes that are not zero by their place
after the header's 64 KiB, and the poisoned lines. A slot that could not be read is refused as one without COMPLETE. -/
def execCkptRestoreBuddy (header : List Byte) (contents : List (Nat × Byte)) (poisoned : List Nat) (s : State) :
    Host.Outcome State Fault Refusal := onServed s fun s =>
  let mine := s.remotes.filter fun r => r.who == .restore
  let t := { s with remotes := s.remotes.filter fun r => !(r.who == .restore) }
  .next (
    if mine = [] ∨ mine.any (fun r => r.result.isNone) then s
    else if mine.any fun r => r.result.any fun x => x.1 != 0 && x.1 != 0x0105 then ckptFail t 0x0A05 4
    else startRestore t header false (fun o => ((contents.find? fun p => p.1 == o).map (·.2)).getD 0) (fun l => poisoned.contains l))

/-- A restore ends: RESTORED, and each queue's frontier handed to the Ledger. -/
def execRestoreDone (s : State) : Host.Outcome State Fault Refusal := onNode s fun s =>
  .next (
    if ckptPhase s ≠ 4 then s
    else
      let s1 := ((s.ctl.ckpt.restore).zipIdx).foldl (fun s (n, q) =>
        modLed s (q / 64) fun x => { x with frontier := tblSet 0 x.frontier q (n + 1) }) s
      fSet (setPhase (modCkpt s1 fun c => { c with restore := [] }) 0) (bLoc .ckptStatus 0) fCkptStatusRestored 1)

end Sys2Proof.Machine
end

