-- ==== Sys2Proof/Machine/FabricTime.lean ====
section
/-! DEFINITION. Fabric time (R425 to R433): the servo, IEEE 1588, the pulse per second, holdover. -/

namespace Sys2Proof.Machine

/-! ## The counter -/

/-- Counter `j` of a base die's fabric time unit (R439): 0 SYNC_RX, 1 STEPS, 2 PPS_IGNORED, 3 EVENTS_FIRED,
4 EVENTS_LATE. -/
def ftCountAt (s : Node) (b j : Nat) : Node := cntAdd s (bLoc .ftCounters b [j]) 1

/-- The four units count what all of them do. -/
def ftCount (s : Node) (j : Nat) : Node := (List.range 4).foldl (fun s b => ftCountAt s b j) s

/-- QUALITY: 0 FREERUN, 1 LOCKED, 2 HOLDOVER. Each change signals source 55 of every base die (R427). -/
def quality (s : Node) : Nat := fGet s (bLoc .ftStatus 0) fFtStatusQuality
def setQuality (s : Node) (q : Nat) : Node :=
  if quality s = q then s else signalAll (fSet s (bLoc .ftStatus 0) fFtStatusQuality q) 55

/-- PPS_EN and PPS_OUT_EN. -/
def ppsEn (s : Node) : Bool := bit (dictNat s 0x5000 5) 0
def ppsOutEn (s : Node) : Bool := bit (dictNat s 0x5000 5) 1

/-- A counter value moved back by `off`. -/
def timeBack (t : Nat) (off : Int) : Nat := wrap 64 ((t : Int) - off)

/-- A step of fabric time. A backward one leaves mtime where it stands until fabric time has passed it again (R196); a
forward one makes every timer compare value that it passes pending at once (R197). The instants that intervals are
measured from move with the counter. -/
def stepTime (s : Node) (off : Int) : Node :=
  let now := timeBack s.now off
  let back := (timeBack · off)
  let s1 := modTime { s with now := now, mtimeHold := max s.now s.mtimeHold } fun t => { t with
    ppsAt := t.ppsAt.map back, pulseAt := t.pulseAt.map back, syncAt := t.syncAt.map back, ppsFrom := t.ppsFrom.map back
    holdAt := back t.holdAt, listen := t.listen.map fun p => (p.1, p.2.map back)
    skip := if s.now < now then (s.now, now) else t.skip }
  signalAll (ftCount (passTimers s1) 1) 55

/-- Units of FT_ADJ in 1,000 ppm. -/
def adjLimit : Nat := 1024000000

/-- Slews the counter (R426): no rule states the rate that the servo sets, within its limit. -/
def slewTime (s : Node) : Node :=
  let adj := (Config.freeNat s.fresh % (2 * adjLimit + 1) : Nat) - (adjLimit : Int)
  fSet (bump s) (bLoc .ftAdj 0) fFtAdjAdj (wrap 32 adj)

/-- The servo takes its part (R426, R427, R433): while a reference is lost the counter runs at the last FT_ADJ; else it
steps or slews by an offset, and the time is LOCKED. -/
def discipline (s : Node) (off : Int) : Node :=
  let t := s.ctl.time
  if t.ptpHold || t.ppsHold then s
  else setQuality (if off.natAbs ≥ dictNat s 0x5000 4 then stepTime s off else slewTime s) 1

/-- The offset measured last from the reference: counter less reference. -/
def measured (s : Node) (off : Int) : Node := fSet s (bLoc .ftOffset 0) fFtOffsetOffset (wrap 64 off)

/-- The servo takes a measured offset. -/
def servo (s : Node) (off : Int) : Node := discipline (measured s off) off

/-! ## IEEE 1588 (R428 to R430) -/

/-- States of a PTP port. -/
def ptpMaster : Nat := 1
def ptpSlave : Nat := 2
def ptpPassive : Nat := 3
def ptpState (s : Node) (p : Nat) : Nat := tblGet 0 s.ctl.time.ptp p

/-- The number that FT_STATUS.REF_PORT gives a port: fabric ports 0 to 15, front-end ports 16 to 19. -/
def refCode (p : Nat) : Nat := if p % 5 = 4 then 16 + p / 5 else p / 5 * 4 + p % 5

/-- The delay asymmetry of a port in picoseconds (R429, R479). -/
def asymmetry (s : Node) (p : Nat) : Int :=
  let sub := refCode p + 1
  if Config.calHas (0x6040 * 256 + sub) then signed 32 (dictNat s 0x6040 sub) + signed 32 (dictNat s 0x6840 sub) else 0

/-- The timestamp that a port takes: the counter, with the port's asymmetry applied. -/
def stampOf (s : Node) (p : Nat) : Nat := wrap 64 (((s.now : Int) * 1000 + asymmetry s p) / 1000)

/-- A port timestamps an event message (R429). -/
def stampPort (s : Node) (p : Nat) : Node := modTime s fun t => { t with stamp := tblSet 0 t.stamp p (stampOf s p) }

/-- Sends a PTP event message of a type: 0 Sync, 2 Pdelay_Req, 3 Pdelay_Resp, with its timestamp and its correctionField
in 2^-16 ns. The messages are one-step: a Sync names the instant at which it leaves, its fraction in the
correctionField; a Pdelay_Resp names none, its correctionField being the time since the request's timestamp. -/
def sendPtp (s : Node) (p type : Nat) : Node :=
  let t := stampOf s p
  let corr := if type = 3 then wrap 64 (((t : Int) - (tblGet 0 s.ctl.time.stamp p : Nat)) * 2 ^ 16) else s.ctl.time.frac
  sendFrame (stampPort s p) ⟨p, 6, .ptp, [type, dictNat s 0x5000 1, if type = 3 then 0 else t, corr], []⟩

/-- The whole seconds nearest to an offset: what PTP supplies while PPS gives the phase (R431). -/
def wholeSeconds (off : Int) : Int := (off + 500000000) / 1000000000 * 1000000000

/-- A Sync comes in: SYNC_RX, its timestamp, and on the reference port an end of its silence. -/
def syncSeen (s : Node) (p : Nat) : Node :=
  let s1 := ftCountAt (stampPort s p) (p / 5) 0
  if ptpState s p = ptpSlave then modTime s1 fun t => { t with syncAt := some s.now } else s1

/-- An offset measured by Sync: that of the reference port disciplines the counter; while PPS gives the phase, by whole
seconds alone (R431). -/
def syncGives (s : Node) (p : Nat) (off : Int) : Node :=
  if ptpState s p ≠ ptpSlave then s
  else
    let s1 := modTime (measured s off) fun t => { t with ptpHold := false }
    if ppsEn s && !s.ctl.time.ppsAlone then
      let day := wholeSeconds off
      if day = 0 then s1 else discipline s1 day
    else discipline s1 off

/-- A Sync is received, one-step, or two-step and then completed by its Follow_Up. -/
def execPtpSyncReceive (port : Nat) (offset : SyncMsg) (s : State) : Host.Outcome State Fault Refusal := onNode s fun s =>
  onPort port (
    if !portLink s port then s
    else match offset with
    | .oneStep off => syncGives (syncSeen s port) port off
    | .twoStep seq => modTime (syncSeen s port) fun t => { t with twoStep := tblSet none t.twoStep port (some seq) }
    | .followUp seq off =>
      if tblGet none s.ctl.time.twoStep port = some seq then
        syncGives (modTime s fun t => { t with twoStep := tblSet none t.twoStep port none }) port off
      else s)

/-- A Pdelay_Req is timestamped and answered; a Pdelay_Resp is timestamped. -/
def execPtpPdelay (port : Nat) (request : Bool) (s : State) : Host.Outcome State Fault Refusal := onNode s fun s =>
  onPort port (
    if !portLink s port then s
    else if request then sendPtp (stampPort s port) port 3
    else stampPort s port)

/-- At a Sync interval a master port sends Sync, and every port its Pdelay_Req. -/
def execPtpSyncSend (port : Nat) (s : State) : Host.Outcome State Fault Refusal := onNode s fun s =>
  onPort port (
    if !portLink s port then s
    else sendPtp (if ptpState s port = ptpMaster then sendPtp s port 0 else s) port 2)

/-- The order of announced data sets: the smaller list is the better one. -/
def dataLess : List Nat → List Nat → Bool
  | [], [] => false
  | [], _ :: _ => true
  | _ :: _, [] => false
  | a :: x, b :: y => decide (a < b) || (decide (a = b) && dataLess x y)

/-- The node's own data set, with PRIORITY1. -/
def ownClock (s : Node) : List Nat := dictNat s 0x5000 2 :: Config.ptpClock

/-- The grandmaster that a data set names: after priority1, class, accuracy, variance and priority2. -/
def grandmaster (l : List Nat) : Nat := l.getD 5 0

/-- The best data set announced on any port, with the port. -/
def bestHeard (s : Node) : Option (Nat × List Nat) :=
  let l := s.ctl.time.heard.filterMap fun (p, d) => d.map fun x => (p, x)
  match l with
  | [] => none
  | a :: t => some (t.foldl (fun b x => if dataLess x.2 b.2 then x else b) a)

/-- The state decision of the best master clock algorithm for a port: one without a link, and one that still listens and
has heard nothing, has none yet. -/
def decideState (s : Node) (p : Nat) : Nat :=
  let mine := tblGet none s.ctl.time.heard p
  if !portLink s p || (mine.isNone && (tblGet none s.ctl.time.listen p).isSome) then 0
  else match bestHeard s with
  | some (r, best) =>
    if !dataLess best (ownClock s) then ptpMaster
    else if r = p then ptpSlave
    else match mine with
      | some d => if grandmaster d = grandmaster best then ptpPassive else ptpMaster
      | none => ptpMaster
  | none => ptpMaster

/-- Runs the algorithm over every port and names the reference port (R425, R430); a new reference port's silence is
counted from now. -/
def runBmca (s : Node) : Node :=
  let states := (List.range 20).map fun p => (p, decideState s p)
  let ref := (states.find? fun p => p.2 == ptpSlave).elim 0x1F fun p => refCode p.1
  let other := decide (ref ≠ 0x1F) && decide (ref ≠ fGet s (bLoc .ftStatus 0) fFtStatusRefPort)
  let s1 := modTime s fun t => { t with
    ptp := states.foldl (fun x (p, v) => tblSet 0 x p v) t.ptp
    syncAt := if other then some s.now else t.syncAt }
  fSet s1 (bLoc .ftStatus 0) fFtStatusRefPort ref

/-- How long a port waits for an Announce: three intervals of 2 s, IEEE 1588-2019's default (PRESUMED, log entry 200). -/
def announceWait : Nat := 6000000000

/-- An Announce message is received with its data set. -/
def execPtpAnnounce (port : Nat) (data : List Nat) (s : State) : Host.Outcome State Fault Refusal := onNode s fun s =>
  onPort port (
    if !portLink s port then s
    else runBmca (modTime s fun t => { t with
      heard := tblSet none t.heard port (some data), listen := tblSet none t.listen port (some s.now) }))

/-- Whether a port's PTP side changes by itself: it begins to listen as its link comes up, has heard no Announce for as
long as it waits, or has lost its link. -/
def ptpAges (s : Node) (p : Nat) : Bool :=
  let t := s.ctl.time
  let l := tblGet none t.listen p
  if portLink s p then
    (l.isNone && ptpState s p == 0) || l.any fun a => decide (timeBack s.now a ≥ announceWait)
  else l.isSome || (tblGet none t.heard p).isSome || ptpState s p != 0

/-- That change: what the port heard is dropped, and a port that starts listens. -/
def agePort (s : Node) (p : Nat) : Node :=
  let starts := portLink s p && (tblGet none s.ctl.time.listen p).isNone
  modTime s fun t => { t with
    heard := tblSet none t.heard p none
    twoStep := tblSet none t.twoStep p none
    listen := tblSet none t.listen p (if starts then some s.now else none) }

/-- What time alone changes in PTP, and the algorithm run on it (R430). -/
def agePtp (s : Node) : Node :=
  match (List.range 20).filter (ptpAges s) with
  | [] => s
  | l => runBmca (l.foldl agePort s)

/-! ## The pulse per second (R431, R432) -/

/-- FT_STATUS.PPS: 0 unused, 1 GOOD, 2 MISSING. -/
def ppsState (s : Node) : Nat := fGet s (bLoc .ftStatus 0) fFtStatusPps
def setPps (s : Node) (v : Nat) : Node := fSet s (bLoc .ftStatus 0) fFtStatusPps v

/-- The distance of the counter from the nearest whole second. -/
def ppsPhase (now : Nat) : Int := if now % 1000000000 < 500000000 then ((now % 1000000000 : Nat) : Int) else (now % 1000000000 : Nat) - (1000000000 : Int)

/-- A rising edge on PPS_IN. -/
def execPpsInEdge (s : State) : Host.Outcome State Fault Refusal := onNode s fun s =>
  .next (
    if !ppsEn s then s
    else if s.ctl.time.ppsAt.any (fun t => decide (timeBack s.now t < 500000000)) then ftCountAt s 0 2
    else
      let s1 := regSet (setPps s 1) (bLoc .ftPpsTs 0) (BitVec.ofNat 64 s.now)
      let s2 := modTime s1 fun t => { t with ppsAt := some s.now, ppsFrom := some s.now, ppsAlone := false, ppsHold := false }
      servo s2 (ppsPhase s.now))

/-- No edge has been accepted for 1.5 s, since the last one or since PPS_EN was set. -/
def execPpsMissing (s : State) : Host.Outcome State Fault Refusal := onNode s fun s =>
  .next (
    if ppsEn s && ppsState s != 2 && decide (timeBack s.now (s.ctl.time.ppsFrom.getD 0) ≥ 1500000000) then
      signalAll (logErr (setPps s 2) 12 0x60 0x0A41 0 []) 55
    else s)

/-- Whether a second has pulsed on PPS_OUT. -/
def hasPulsed (s : Node) (k : Nat) : Bool := s.ctl.time.pulsed.any fun p => decide (p.1 ≤ k) && decide (k < p.2)

/-- The seconds that have pulsed, with one more: it extends the range that it follows. -/
def addPulsed (l : List (Nat × Nat)) (k : Nat) : List (Nat × Nat) :=
  if l.any (fun p => p.2 == k) then l.map fun p => if p.2 = k then (p.1, k + 1) else p else l ++ [(k, k + 1)]

/-- PPS_OUT rises at a whole second. -/
def execPpsOutPulse (s : State) : Host.Outcome State Fault Refusal := onNode s fun s =>
  .next (
    if !ppsOutEn s || quality s == 0 || s.now % 1000000000 != 0 || hasPulsed s (s.now / 1000000000) ||
        s.ctl.time.pulseAt.any (fun a => decide (timeBack s.now a < 500000000)) then s
    else sendOut (modTime s fun x => { x with
      pulsed := addPulsed x.pulsed (s.now / 1000000000), pulseAt := some s.now, pulseHigh := true }) ⟨22, 0, .pulse, [1, s.now], []⟩)

/-- PPS_OUT falls 100 ms after it rose. -/
def pulseFalls (s : Node) : Node :=
  let t := s.ctl.time
  if t.pulseHigh && t.pulseAt.any fun a => decide (timeBack s.now a ≥ 100000000) then
    sendOut (modTime s fun x => { x with pulseHigh := false }) ⟨22, 0, .pulse, [0, s.now], []⟩
  else s

/-! ## Holdover (R433) -/

/-- The Sync interval in nanoseconds: 2^LOG_SYNC seconds. -/
def syncInterval (s : Node) : Nat := 1000000000 / 2 ^ ((2 ^ 32 - dictNat s 0x5000 3) % 2 ^ 32)

/-- Whether no Sync has come on the reference port for 8 intervals. -/
def syncLost (s : Node) : Bool := s.ctl.time.syncAt.any fun t => decide (timeBack s.now t ≥ 8 * syncInterval s)

/-- Whether a port other than the reference port hears a clock that is better than the node's own. -/
def otherRef (s : Node) : Bool :=
  anyBelow 20 fun p => ptpState s p != ptpSlave && portLink s p && (tblGet none s.ctl.time.heard p).any fun d => dataLess d (ownClock s)

/-- The reference is lost (R433): Sync of the reference port, or the pulse per second. The record is written in
HOLDOVER. -/
def execTimeHoldover (pps : Bool) (s : State) : Host.Outcome State Fault Refusal := onNode s fun s =>
  .next (
    let lost := if pps then ppsEn s && ppsState s == 2 && !s.ctl.time.ppsAlone else syncLost s && !otherRef s
    if quality s ≠ 1 ∨ !lost then s
    else
      let s1 := modTime s fun t => if pps then { t with ppsHold := true, holdAt := s.now } else { t with ptpHold := true }
      logErr (setQuality s1 2) 12 0x60 0x0A40 0 [])

/-- PPS has been missing for PPS_HOLD_S while PTP is locked: PTP alone disciplines. -/
def execPpsHoldExpiry (s : State) : Host.Outcome State Fault Refusal := onNode s fun s =>
  .next (
    let t := s.ctl.time
    let over_ := decide (timeBack s.now t.holdAt ≥ dictNat s 0x5000 6 * 1000000000)
    if !t.ppsHold || t.ptpHold || quality s != 2 || !over_ || syncLost s || !anyBelow 20 (fun p => ptpState s p == ptpSlave) then s
    else setQuality (modTime s fun t => { t with ppsHold := false, ppsAlone := true }) 1)

end Sys2Proof.Machine
end

