-- ==== Sys2Proof/Machine/Louvre.lean ====
section
/-! DEFINITION. Louvre: measured and estimated power, operating points, the rack budget, the package loop, phases, droop,
temperature and the power brake (R440 to R465). -/

namespace Sys2Proof.Machine

/-! ## Points (R443 to R446) -/

/-- The power controller's state. -/
def lvOf (s : Node) : Louvre := s.ctl.lv

/-- The Louvre event, source 54 of every base die (R462). -/
def lvEvent (s : Node) : Node := signalAll s 54

/-- A record of class 0x09 by the slice that runs the package loop, on BD0. -/
def lvLog (s : Node) (code : Nat) (detail : List (Nat × Nat)) : Node := lvEvent (logErr s 12 0x70 code 0 detail)

/-- A point: operating point, host point, duty in sixteenths. -/
def pointOf (op hp duty : Nat) : Nat := op + 8 * hp + 32 * (16 - duty)
def pointOp (p : Nat) : Nat := p % 8
def pointHp (p : Nat) : Nat := p / 8 % 4
def pointDuty (p : Nat) : Nat := 16 - p / 32

/-- The ladder that Louvre lowers a die along (R445, R446): OP0 to OP7, then HP1 to HP3, then duty 15 to 4. -/
def ladderEnd : Nat := 22
def ladderPoint (k : Nat) : Nat :=
  if k ≤ 7 then pointOf k 0 16 else if k ≤ 10 then pointOf 7 (k - 7) 16 else pointOf 7 3 (26 - min k ladderEnd)

/-- The supplies of the points in microvolts (R443): arithmetic by operating point, host by host point. -/
def arithUv (op : Nat) : Nat := [800000, 775000, 750000, 725000, 700000, 675000, 650000, 620000].getD op 620000
def hostUv (hp : Nat) : Nat := [850000, 800000, 750000, 700000].getD hp 700000

/-- The slower of two points in each part (R463). -/
def slower (a b : Nat) : Nat :=
  pointOf (max (pointOp a) (pointOp b)) (max (pointHp a) (pointHp b)) (min (pointDuty a) (pointDuty b))

/-- The lowest point on every part: OP7, HP3, duty 4. -/
def floorPoint : Nat := ladderPoint ladderEnd

/-- The point that LP_LIMIT bounds a die to. -/
def limitPoint (s : Node) (d : Nat) : Nat := pointOf (fGet s (dLoc .lpLimit d) fLpLimitOpMin) (fGet s (dLoc .lpLimit d) fLpLimitHpMin) 16

/-- The point of the brake (R461). -/
def brakePoint (s : Node) : Nat := pointOf (dictNat s 0x2000 4) 3 (dictNat s 0x2000 5)

/-- What temperature takes from a die: its own and its base die's (R458). -/
def coolOf (s : Node) (d : Nat) : Nat := max (tblGet 0 (lvOf s).cool d) (tblGet 0 (lvOf s).cool (12 + d / 3))

/-- A die's place on the ladder: the package loop's, and what a measured average above the cap takes (R448, R452). -/
def ladderPlace (s : Node) (d : Nat) : Nat := min ladderEnd (tblGet 0 (lvOf s).want d + (lvOf s).trim)

/-- A die's target: the lowest point that any limit sets (R463). -/
def aimOf (s : Node) (d : Nat) : Nat :=
  let l := lvOf s
  let p := slower (slower (ladderPoint (ladderPlace s d)) (limitPoint s d)) (ladderPoint (coolOf s d))
  let p1 := if bit l.peak (d / 3) then slower p (pointOf 0 0 8) else p
  if l.brake then slower p1 (brakePoint s) else p1

/-- A die's present point, from LP_STATUS. -/
def diePoint (s : Node) (d : Nat) : Nat :=
  let l := dLoc .lpStatus d
  pointOf (fGet s l fLpStatusOp) (fGet s l fLpStatusHp) (fGet s l fLpStatusDuty)

/-- Compute dies in service. -/
def liveDies (s : Node) : List Nat := (List.range 12).filter fun d => !isFenced s d

/-! ## The cap (R447, R451) -/

def capLocal (s : Node) : Nat := dictNat s 0x2000 1
def capRack (s : Node) : Nat := (lvOf s).grant.getD (dictNat s 0x2001 2)
def capW (s : Node) : Nat := min (capRack s) (capLocal s)

/-! ## Reasons (R447, R462) -/

/-- The reasons active on a compute die. -/
def dieReasons (s : Node) (d : Nat) : Nat :=
  let l := lvOf s
  let capped := ladderPlace s d != 0
  let rack := decide (capRack s < capLocal s)
  let others := slower (ladderPoint (ladderPlace s d)) (ladderPoint (coolOf s d))
  let limited := slower others (limitPoint s d) != others
  maskOf ((if capped && rack then [0] else []) ++ (if (capped && !rack) || limited then [1] else []) ++
    (if coolOf s d ≠ 0 then [2] else []) ++ (if bit l.droop d then [4] else []) ++ (if l.brake then [5] else []) ++
    (if bit l.peak (d / 3) then [6] else []) ++ (if bit l.held d then [7] else []) ++
    (if bit l.suspect d then [8] else []) ++ (if l.floorRec then [9] else []))

/-- The reasons active in the package. -/
def packageReasons (s : Node) : Nat :=
  let l := lvOf s
  let rack := decide (capRack s < capLocal s)
  let own := (liveDies s).foldl (fun m d => m ||| dieReasons s d) 0
  own ||| maskOf ((if l.dram ≠ 0 then [if rack then 0 else 1] else []) ++
    (if (List.range 4).any (fun b => tblGet 0 l.cool (12 + b) != 0) then [2] else []) ++
    (if (List.range 4).any (fun b => tblGet 0 l.dramCool b != 0) then [3] else []) ++ (if l.brake then [5] else []) ++
    (if l.peak ≠ 0 then [6] else []) ++ (if l.held ≠ 0 then [7] else []) ++ (if l.suspect ≠ 0 then [8] else []) ++ (if l.floorRec then [9] else []) ++
    (if l.doubled ≠ 0 then [10] else []))

/-- A reason rises or falls: its episode begins or is added to its durations. -/
def noteReason (s : Node) (r : Nat) (was now : Bool) : Node :=
  if now && !was then modLv s fun l => { l with since := tblSet 0 l.since r (s.now + 1) }
  else if was && !now then
    let ns := s.now + 1 - tblGet 0 (lvOf s).since r
    let total := tblGet 0 (lvOf s).total r + ns
    let s1 := modLv s fun l => { l with since := tblErase l.since r, total := tblSet 0 l.total r total }
    let s2 := regSet s1 (bLoc .reasonTotalUs 0 [r]) (BitVec.ofNat 64 (min (total / 1000) (2 ^ 64 - 1)))
    fSet s2 (bLoc .reasonLastUs 0 [r]) fReasonLastUsCount (min (ns / 1000) (2 ^ 32 - 1))
  else s

/-- The alert causes whose condition holds now (R542): temperature, the floor, a stuck brake, a suspect sensor. -/
def alertNow (s : Node) : Nat :=
  let r := fGet s (bLoc .lvReason 0) fLvReasonActive
  maskOf ((if bit r 2 || bit r 3 then [2] else []) ++ (if bit r 9 then [3] else []) ++
    (if (lvOf s).brakeRec then [4] else []) ++ (if bit r 8 then [5] else []))

/-- A cause stays set once its event has occurred. -/
def noteAlert (s : Node) : Node := { s with alert := s.alert ||| alertNow s }

/-- Sets the reason masks; a rising edge in LV_REASON is a Louvre event. -/
def setReasons (s : Node) : Node :=
  let s1 := (List.range 12).foldl (fun s d => fSet s (dLoc .lpStatus d) fLpStatusReason (if isFenced s d then 0 else dieReasons s d)) s
  let old := fGet s1 (bLoc .lvReason 0) fLvReasonActive
  let new := packageReasons s1
  let s2 := fOr (fSet s1 (bLoc .lvReason 0) fLvReasonActive new) (bLoc .lvReason 0) fLvReasonSeen new
  let s3 := noteAlert ((List.range 16).foldl (fun s r => noteReason s r (bit old r) (bit new r)) s2)
  if (List.range 16).any (fun r => bit new r && !bit old r) then lvEvent s3 else s3

/-- After a change of any limit: targets, cap and reasons follow. A lowered cap is dated (R448). -/
def settlePower (s : Node) : Node :=
  let s1 := modLv s fun l => { l with
    target := (List.range 12).foldl (fun t d => tblSet 0 t d (aimOf s d)) l.target
    capAt := if capW s < fGet s (bLoc .lvStatus 0) fLvStatusCapW then s.now + 1 else l.capAt }
  setReasons (fSet s1 (bLoc .lvStatus 0) fLvStatusCapW (capW s1))

/-- Whether a supply has reached what a point needs. -/
def supplyUp (s : Node) (key uv top : Nat) : Bool := decide (uv + tblGet 0 (lvOf s).drop key ≤ top)

/-- A die reaches its target point (R444): a clock falls before its supply, and rises once its supply has settled. -/
def execOpMoveDone (die : Nat) (s : State) : Host.Outcome State Fault Refusal := onNode s fun s =>
  onDie die (
    if isFenced s die then s
    else
      let l := dLoc .lpStatus die
      let p := tblGet 0 (lvOf s).target die
      let now := diePoint s die
      let op := if pointOp p < pointOp now && !supplyUp s die (arithUv (pointOp p)) (arithUv 0) then pointOp now else pointOp p
      let hp := if pointHp p < pointHp now && !supplyUp s (12 + die) (hostUv (pointHp p)) (hostUv 0) then pointHp now else pointHp p
      fSet (fSet (fSet s l fLpStatusOp op) l fLpStatusHp hp) l fLpStatusDuty (pointDuty p))

/-- The operating point whose ACLK a die runs at: during a move, the lower of its two clocks (R444). -/
def runOp (s : Node) (d : Nat) : Nat := max (pointOp (diePoint s d)) (pointOp (tblGet 0 (lvOf s).target d))

/-- A supply moves by `n` microvolts towards its aim. -/
def ramp (aim n v : Nat) : Nat := if v < aim then min aim (v + n) else max aim (v - n)

/-- One FCLK cycle of a die's supplies: 10 mV/µs towards what the faster of its present and its target clock needs. -/
def rampDie (s : Node) (d : Nat) : Node :=
  let p := diePoint s d
  let t := tblGet 0 (lvOf s).target d
  let a := arithUv 0 - arithUv (min (pointOp p) (pointOp t))
  let h := hostUv 0 - hostUv (min (pointHp p) (pointHp t))
  let x := (lvOf s).drop
  if tblGet 0 x d = a ∧ tblGet 0 x (12 + d) = h then s
  else modLv s fun l => { l with drop := tblMod 0 (tblMod 0 l.drop d (ramp a 5)) (12 + d) (ramp h 5) }

/-! ## Measured and estimated power (R440 to R442) -/

/-- The hottest unit that a domain's leakage follows. -/
def domTemp (s : Node) (dom : Nat) : Nat :=
  let l := lvOf s
  let hottest := fun (us : List Nat) => us.foldl (fun m u => max m (tblGet 0 l.temps u)) 0
  if dom < 16 then tblGet 0 l.temps dom
  else if dom = 16 then hottest ((List.range 12).map (16 + ·))
  else if dom = 17 then hottest ((List.range 4).map (28 + ·))
  else hottest ((List.range 4).map (12 + ·))

/-- A domain's operating point, for its estimate. -/
def domPoint (s : Node) (dom : Nat) : Nat := if dom < 12 then diePoint s dom else 0

/-- The correction of a domain: measured to estimated energy over the samples of the last 10 ms. -/
def corrOf (hist : List (List Nat × List Nat)) (dom : Nat) : Nat × Nat :=
  ((hist.map fun p => p.1.getD dom 0).sum, (hist.map fun p => p.2.getD dom 0).sum)

/-- An estimate corrected, and guarded by 1.10 (R441). -/
def estOf (s : Node) (dom plain : Nat) : Nat :=
  let l := lvOf s
  let (m, e) := tblGet (0, 0) l.corr dom
  let c := if bit l.suspect dom || e == 0 then plain else plain * m / e
  if bit l.guard dom then c * 11 / 10 else c

/-- Whether a measurement is implausible (R442). -/
def implausible (s : Node) (meas : List Nat) (faults dom : Nat) : Bool :=
  decide (meas.getD dom 0 < Config.leakage dom (domTemp s dom)) || bit faults dom || decide (meas.sum > 3600000)

/-- One sample of a domain: SENSOR_SUSPECT once per episode, which ends after 1 s of plausible readings. -/
def judgeDomain (s : Node) (meas : List Nat) (faults dom : Nat) : Node :=
  let l := lvOf s
  if implausible s meas faults dom then
    let s1 := modLv s fun x => { x with suspect := x.suspect ||| 1 <<< dom, goodAt := tblErase x.goodAt dom }
    if bit l.suspect dom then s1 else lvLog s1 0x0902 []
  else if bit l.suspect dom then
    match tblGet 0 l.goodAt dom with
    | 0 => modLv s fun x => { x with goodAt := tblSet 0 x.goodAt dom (s.now + 1) }
    | t + 1 =>
      if s.now ≥ t + 1000000000 then
        modLv s fun x => { x with suspect := x.suspect - 1 <<< dom, goodAt := tblErase x.goodAt dom }
      else s
  else s

/-- The power of a domain that governs: the measurement, or the estimate while the measurement is implausible. -/
def power (s : Node) (dom : Nat) : Nat :=
  if bit (lvOf s).suspect dom then tblGet 0 (lvOf s).est dom else tblGet 0 (lvOf s).meas dom

/-- The package power in milliwatts, averaged over the samples of 10 ms: as measured, and as estimated while a measurement
is implausible (R442). -/
def averagePower (s : Node) : Nat :=
  let h := (lvOf s).hist
  if h = [] then 0 else ((h.map fun p => p.1.sum).sum) / h.length

/-- The estimate of a domain before correction: from activity at its point, with leakage at its temperature (R440). -/
def plainOf (s : Node) (dom : Nat) : Nat :=
  Config.estimate dom (lvOf s).activity (domPoint s dom) + Config.leakage dom (domTemp s dom)

/-- The estimates are formed (R440), as they are every 1 µs. -/
def formEstimates (s : Node) : Node :=
  let plain := (List.range 19).map fun k => (k, plainOf s k)
  let s1 := modLv s fun l => { l with
    est := plain.foldl (fun t (k, v) => tblSet 0 t k (estOf s k v)) l.est
    acc := plain.foldl (fun t (k, v) => tblMod 0 t k (· + v)) l.acc
    accN := l.accN + 1 }
  let est := ((List.range 19).map fun k => tblGet 0 (lvOf s1).est k).sum
  fSet s1 (bLoc .lvPower 0) fLvPowerEstimateW (est / 1000)

/-- The average power against the cap and the excursion limit of 2,900 W (R448): above the cap, unless it was lowered
within 10 ms, every die goes a place down, below it a place back; above 2,900 W every die goes to the floor. -/
def trimPower (s : Node) (total : Nat) : Node :=
  let l := lvOf s
  let recent := match l.capAt with
    | 0 => false
    | t + 1 => decide (s.now < t + 10000000)
  let trim := if total > 2900000 then ladderEnd
    else if averagePower s > capW s * 1000 then (if recent then l.trim else min ladderEnd (l.trim + 1))
    else l.trim - 1
  modLv s fun l => { l with trim := trim }

/-- What a sample does: every domain is judged, its history and correction go on, estimates are formed, the power registers
and the settings follow (R440). -/
def takeSample (s : Node) (meas activity : List Nat) (faults : Nat) : Node :=
  let doms := List.range 19
  let m := doms.map fun k => meas.getD k 0
  let s0 := modLv s fun l => { l with activity := activity }
  let mean := fun k => if (lvOf s0).accN = 0 then plainOf s0 k else tblGet 0 (lvOf s0).acc k / (lvOf s0).accN
  let s1 := doms.foldl (fun s k => judgeDomain s m faults k) s0
  let gov := doms.map fun k => if bit (lvOf s1).suspect k then mean k else m.getD k 0
  let hist := ((gov, doms.map mean) :: (lvOf s1).hist).take 100
  let due := decide ((lvOf s1).window % 10 = 9)
  let corr := if due then doms.foldl (fun t k => tblSet (0, 0) t k (corrOf hist k)) (lvOf s1).corr else (lvOf s1).corr
  let s2 := modLv s1 fun l => { l with
    hist := hist, corr := corr, window := l.window + 1, acc := [], accN := 0
    meas := (m.zipIdx).foldl (fun t (v, k) => tblSet 0 t k v) l.meas }
  let s3 := formEstimates s2
  let s4 := trimPower (fSet s3 (bLoc .lvPower 0) fLvPowerMeasuredW (averagePower s3 / 1000)) gov.sum
  let s5 := (List.range 12).foldl (fun s d =>
    if isFenced s d then s else fSet s (dLoc .lpStatus d) fLpStatusPowerDw (min 4095 (power s d / 100))) s4
  settlePower s5

/-- Measured power is sampled and estimates are formed from activity (R440). Every tenth sample sets the corrections. -/
def execPowerSample (meas activity : List Nat) (faults : Nat) (s : State) : Host.Outcome State Fault Refusal := onNode s fun s =>
  .next (takeSample s meas activity faults)

/-- A domain's estimate has differed from its measurement by more than 15 % for 50 ms (R441). -/
def execEstimatorDiverge (domain : Nat) (s : State) : Host.Outcome State Fault Refusal := onNode s fun s =>
  onUnit 19 domain (
    let l := lvOf s
    let m := tblGet 0 l.meas domain
    let e := tblGet 0 l.est domain
    let diff := ((e : Int) - (m : Int)).natAbs
    if bit l.guard domain || bit l.suspect domain || decide (diff * 100 ≤ m * 15) then s
    else
      let s1 := lvLog s 0x0901 [(1, domain), (2, e / 1000), (2, m / 1000)]
      let s2 := modLv s1 fun x => { x with guard := x.guard ||| 1 <<< domain, est := tblSet 0 x.est domain (e * 11 / 10) }
      settlePower (fSet s2 (bLoc .lvStatus 0) fLvStatusGuard 1))

/-- LV_CMD (R441, R465): without a guard band the estimates are formed anew. -/
def clearGuard (s : Node) : Node :=
  settlePower (formEstimates (fSet (modLv s fun l => { l with guard := 0, held := 0 }) (bLoc .lvStatus 0) fLvStatusGuard 0))

def execLvClearGuard (s : State) : Host.Outcome State Fault Refusal := onNode s fun s => .next (withResp (clearGuard s) .done)

/-- Signature slots. -/
def sigValid (s : Node) (k : Nat) : Bool := fGet s (bLoc .lvSigW0 0 [k]) fLvSigW0Valid == 1
def sigLocked (s : Node) (k : Nat) : Bool := fGet s (bLoc .lvSigW0 0 [k]) fLvSigW0Locked == 1
def sigKey (s : Node) (k : Nat) : Nat := fGet s (bLoc .lvSigW0 0 [k]) fLvSigW0Key
def sigShare (s : Node) (k : Nat) : Nat := fGet s (bLoc .lvSigW1 0 [k]) fLvSigW1Share

def clearLearned (s : Node) : Node :=
  (List.range 32).foldl (fun s k => if sigLocked s k then s else fSet s (bLoc .lvSigW0 0 [k]) fLvSigW0Valid 0) s

def execLvClearLearned (s : State) : Host.Outcome State Fault Refusal := onNode s fun s => .next (withResp (clearLearned s) .done)

/-! ## The package loop (R447, R448, R452, R456) -/

/-- The present signature. -/
def phase (s : Node) : Nat := fGet s (bLoc .lvStatus 0) fLvStatusPhase

/-- Predicted power of a die at a place of the ladder; its guard band multiplies it. -/
def predicted (s : Node) (guarded : Bool) (d k : Nat) : Nat :=
  let p := Config.predict d k (sigKey s (phase s))
  if guarded && bit (lvOf s).guard d then p * 11 / 10 else p

/-- What the package loop counts on for a domain that it does not throttle: its governing power, raised by a guard band
(R441). -/
def bandPower (s : Node) (guarded : Bool) (dom : Nat) : Nat :=
  let p := power s dom
  if !bit (lvOf s).guard dom then p
  else if bit (lvOf s).suspect dom then (if guarded then p else p * 10 / 11)
  else if guarded then p * 11 / 10 else p

/-- The power that is not throttled: base dies and SerDes. -/
def fixedPower (s : Node) (guarded : Bool) : Nat := ([12, 13, 14, 15, 18].map (bandPower s guarded)).sum

/-- The DRAM power demanded; a guard band of the HBM or near-memory domain raises it. -/
def dramDemand (s : Node) (guarded : Bool) (demand : Nat) : Nat :=
  if guarded && (bit (lvOf s).guard 16 || bit (lvOf s).guard 17) then demand * 11 / 10 else demand

/-- The fastest place whose predicted power fits, or the floor. -/
def fitPlace (s : Node) (g : Bool) (d per : Nat) : Nat :=
  (firstBelow ladderEnd fun k => decide (predicted s g d k ≤ per)).getD ladderEnd

/-- Raises dies by one place in order while the slack allows. -/
def raiseDies (s : Node) (g : Bool) : List Nat → Nat → Tbl Nat → Tbl Nat
  | [], _, t => t
  | d :: ds, slack, t =>
    let k := tblGet 0 t d
    if k = 0 then raiseDies s g ds slack t
    else
      let cost := predicted s g d (k - 1) - predicted s g d k
      if cost ≤ slack then raiseDies s g ds (slack - cost) (tblSet 0 t d (k - 1)) else t

/-- Dies ranked by the busy fraction of their cells, the lower number first on a tie. -/
def insertBusy (busy : List Nat) (d : Nat) : List Nat → List Nat
  | [] => [d]
  | x :: t => if busy.getD d 0 > busy.getD x 0 then d :: x :: t else x :: insertBusy busy d t
def rankDies (busy : List Nat) (l : List Nat) : List Nat := l.foldl (fun acc d => insertBusy busy d acc) []

/-- The division of a cap (R452): the dies' places, the DRAM share and the total predicted. -/
def divideCap (s : Node) (g : Bool) (cap demand : Nat) (busy : List Nat) : Tbl Nat × Nat × Nat :=
  let dies := liveDies s
  let avail := cap * 1000 - fixedPower s g
  let dram := min (avail * (256 - sigShare s (phase s)) / 256) (dramDemand s g demand)
  let comp := avail - dram
  let t0 : Tbl Nat := dies.foldl (fun t d => tblSet 0 t d (fitPlace s g d (comp / max 1 dies.length))) []
  let cost := fun (t : Tbl Nat) => (dies.map fun d => predicted s g d (tblGet 0 t d)).sum
  let t1 := raiseDies s g (rankDies busy dies) (comp - cost t0) t0
  (t1, dram, cost t1 + dram + fixedPower s g)

/-- The floor in watts (R456): every die in service at its lowest point, DRAM at its minimum rate. -/
def floorW (s : Node) : Nat :=
  ((((liveDies s).map fun d => predicted s false d ladderEnd).sum) + Config.predict 16 ladderEnd (sigKey s (phase s)) + fixedPower s false) / 1000

/-- Whether the cap lies 5 W or more above the floor: an episode of CAP_BELOW_FLOOR ends. -/
def endFloor (s : Node) : Node := if capW s ≥ floorW s + 5 then modLv s fun l => { l with floorRec := false } else s

/-- One round of the package loop: the cap is divided, and what the dies hold back, what DRAM may use and what a guard band
alone holds lower follow from it. -/
def divideRound (s : Node) (busy : List Nat) (demand : Nat) : Node :=
  let (want, dram, _) := divideCap s true (capW s) demand busy
  let (plain, free, _) := divideCap s false (capW s) demand busy
  let (_, _, total) := divideCap s true 2400 demand busy
  let short := decide (dram < dramDemand s true demand)
  let held := maskOf ((liveDies s).filter (fun d => tblGet 0 want d > tblGet 0 plain d) ++ (if short && decide (free ≥ demand) then [16] else []))
  let rate := if short then 1 + Config.freeNat s.fresh % 12 else 0
  let s1 := modLv (bump s) fun l => { l with want := want, held := held, dram := rate }
  let s2 := fSet s1 (bLoc .lvPower 0) fLvPowerDemandW (min 65535 (total / 1000))
  settlePower (endFloor (fSet s2 (bLoc .lvStatus 0) fLvStatusFloorW (min 65535 (floorW s2))))

/-- The package loop runs. No rule gives the command rate that a DRAM budget sets: a free value, at least 1/4 of peak. -/
def execPackageLoop (busy : List Nat) (demand : Nat) (s : State) : Host.Outcome State Fault Refusal := onNode s fun s =>
  .next (divideRound s busy demand)

/-- The measured average has exceeded the cap for 10 ms with every die at the floor (R456). -/
def execCapBelowFloor (s : State) : Host.Outcome State Fault Refusal := onNode s fun s =>
  .next (
    if (lvOf s).floorRec || !(liveDies s).all (fun d => diePoint s d == floorPoint) || decide (averagePower s ≤ capW s * 1000) then s
    else settlePower (modLv (lvLog s 0x0903 [(2, capW s), (2, floorW s)]) fun l => { l with floorRec := true }))

/-! ## The rack budget (R450, R451) -/

/-- Whether a budget is accepted. -/
def budgetOk (s : Node) (v : Word) : Bool :=
  let w := wbits v 15 0
  let ms := wbits v 47 16
  let seq := wbits v 63 48
  capWatts w && (ms == 0 || (decide (1000 ≤ ms) && decide (ms ≤ 600000))) &&
    (match (lvOf s).lastSeq with
      | none => true
      | some (q, last) => decide (signed 16 (wrap 16 ((seq : Int) - (q : Int))) > 0) || (seq == q && w == last))

/-- A write of BUDGET; a rejected one changes nothing. -/
def budgetWrite (s : Node) (v : Word) : Node :=
  if !budgetOk s v then s
  else
    let w := wbits v 15 0
    let ms := wbits v 47 16
    let s1 := modLv (dictSet s 0x2001 1 (leBytes 8 v.toNat)) fun l => { l with
      lastSeq := some (wbits v 63 48, w), grant := some w, lease := if ms = 0 then none else some (s.now + ms * 1000000) }
    lvEvent (settlePower (endFloor s1))

def execBudgetWrite (value : Word) (s : State) : Host.Outcome State Fault Refusal := onNode s fun s =>
  .next (withResp (budgetWrite s value) (if budgetOk s value then .done else .refused))

/-- A lease ends unrenewed. -/
def execBudgetExpired (s : State) : Host.Outcome State Fault Refusal := onNode s fun s =>
  .next (
    if (lvOf s).lease.isNone then s
    else settlePower (endFloor (lvLog (modLv s fun l => { l with grant := none, lease := none }) 0x0906 [])))

/-! ## Current peaks and droop (R449, R457) -/

/-- ICC_LIMIT_A. -/
def iccLimit (s : Node) : Nat := dictNat s 0x2000 6

/-- A base die's limiter senses a current: above the limit it acts; one of 95 % or more keeps it acting. -/
def execCurrentPeak (base : IccSense) (s : State) : Host.Outcome State Fault Refusal := onNode s fun s =>
  let b := base.base
  onBase b (
    let acts := decide (base.amps > iccLimit s)
    let near := decide (base.amps * 100 ≥ iccLimit s * 95)
    let s1 := if near && (acts || bit (lvOf s).peak b) then modLv s fun l => { l with peakAt := tblSet 0 l.peakAt b s.now } else s
    if acts then settlePower (modLv s1 fun l => { l with peak := l.peak ||| 1 <<< b }) else s1)

/-- The current has stayed below 95 % of the limit for 100 µs. -/
def execCurrentPeakRelease (base : IccSense) (s : State) : Host.Outcome State Fault Refusal := onNode s fun s =>
  let b := base.base
  onBase b (
    if bit (lvOf s).peak b && decide (base.amps * 100 < iccLimit s * 95) && decide (timeBack s.now (tblGet 0 (lvOf s).peakAt b : Nat) ≥ 100000) then
      settlePower (modLv s fun l => { l with peak := l.peak - (l.peak &&& 1 <<< b) })
    else s)

def execDroopDetect (die : Nat) (s : State) : Host.Outcome State Fault Refusal := onNode s fun s =>
  onDie die (
    if isFenced s die || bit (lvOf s).droop die then s
    else setReasons (cntAdd (modLv s fun l => { l with droop := l.droop ||| 1 <<< die }) (dLoc .lpDroopEvents die) 1))

def execDroopRelease (die : Nat) (s : State) : Host.Outcome State Fault Refusal := onNode s fun s =>
  onDie die (setReasons (modLv s fun l => { l with droop := l.droop - (l.droop &&& 1 <<< die) }))

/-! ## Phases (R453 to R455) -/

/-- The distance of two keys: the sum of absolute feature differences. -/
def keyDistance (a b : Nat) : Nat :=
  ((List.range 8).map fun i => ((bits a (4 * i + 3) (4 * i) : Int) - (bits b (4 * i + 3) (4 * i) : Int)).natAbs).sum

/-- The valid signature nearest to a key, the lower number on a tie. -/
def nearestSig (s : Node) (key : Nat) : Option Nat :=
  match (List.range 32).filter (sigValid s) with
  | [] => none
  | a :: t => some (t.foldl (fun b k => if keyDistance key (sigKey s k) < keyDistance key (sigKey s b) then k else b) a)

/-- The slot that a new signature takes: the lowest invalid one, else the least recently matched that is not LOCKED. -/
def freeSig (s : Node) : Option Nat :=
  match firstBelow 32 fun k => !sigValid s k with
  | some k => some k
  | none =>
    match (List.range 32).filter fun k => !sigLocked s k with
    | [] => none
    | a :: t => some (t.foldl (fun b k => if tblGet 0 (lvOf s).used k < tblGet 0 (lvOf s).used b then k else b) a)

/-- Undoes a trial step that was not judged. -/
def dropTrial (s : Node) : Node :=
  match (lvOf s).trial with
  | some (_, old) => modLv (fSet s (bLoc .lvSigW1 0 [phase s]) fLvSigW1Share old) fun l => { l with trial := none }
  | none => s

/-- Makes a signature the present one. -/
def enterPhase (s : Node) (k : Nat) : Node :=
  let s1 := if phase s = k then s else dropTrial s
  fSet (fSet s1 (bLoc .lvStatus 0) fLvStatusPhase k) (bLoc .lvStatus 0) fLvStatusShare (sigShare s1 k)

/-- A signature slot has last matched in this window. -/
def touchSig (s : Node) (k : Nat) : Node := modLv s fun l => { l with used := tblSet 0 l.used k l.window }

/-- The activity key of a window is classified (R453), unless classification is suspended (R455). -/
def execPhaseClassify (key : Nat) (s : State) : Host.Outcome State Fault Refusal := onNode s fun s =>
  .next (
    let key := key % 2 ^ 32
    if (lvOf s).force > 0 then
      let left := (lvOf s).force - 1
      fSet (modLv s fun l => { l with force := left }) (bLoc .lvStatus 0) fLvStatusForced (b2n (left ≠ 0))
    else match nearestSig s key with
    | some k =>
      if keyDistance key (sigKey s k) ≤ fGet s (bLoc .lvCtrl 0) fLvCtrlMatch then
        enterPhase (touchSig (cntAdd s (bLoc .lvSigW3 0 [k]) 1) k) k
      else learn s key (sigShare s k) (some k)
    | none => learn s key 192 none)
where
  /-- Takes a slot for a key that no signature matches. -/
  learn (s : Node) (key share : Nat) (nearest : Option Nat) : Node :=
    match freeSig s with
    | none => match nearest with
      | some k => enterPhase s k
      | none => s
    | some k =>
      let s0 := if phase s = k then dropTrial s else s
      let s1 := regSet s0 (bLoc .lvSigW0 0 [k]) (BitVec.ofNat 64 (2 ^ 63 + key))
      let s2 := regSet (regSet s1 (bLoc .lvSigW2 0 [k]) 0) (bLoc .lvSigW3 0 [k]) 0
      enterPhase (touchSig (fSet s2 (bLoc .lvSigW1 0 [k]) fLvSigW1Share share) k) k

/-- After 10 ms in a signature under a binding cap (R454): the last trial step is kept if work per joule improved, else
reversed, and the next one taken. No rule gives the power that a signature learns: a free value. -/
def execShareLearn (better : Bool) (s : State) : Host.Outcome State Fault Refusal := onNode s fun s =>
  .next (
    let act := fGet s (bLoc .lvReason 0) fLvReasonActive
    if fGet s (bLoc .lvCtrl 0) fLvCtrlLearn = 0 ∨ act % 4 = 0 then s
    else
      let k := phase s
      let l := bLoc .lvSigW1 0 [k]
      let s1 := if better then s else dropTrial s
      let old := sigShare s1 k
      let up := (lvOf s).up
      let new := if up then min 240 (old + 1) else max 64 (old - 1)
      let s2 := modLv (fSet s1 l fLvSigW1Share new) fun x => { x with trial := some (up, old), up := !up }
      let s3 := fSet (bump s2) (bLoc .lvSigW2 0 [k]) fLvSigW2PowerW (Config.freeNat s.fresh % 65536)
      fSet s3 (bLoc .lvStatus 0) fLvStatusShare new)

/-- A timed event makes its signature the present one (R455). -/
def forcePhase (s : Node) (k : Nat) : Node :=
  if !sigValid s k then cntAdd s (bLoc .lvForceIgnored 0) 1
  else
    let n := fGet s (bLoc .lvCtrl 0) fLvCtrlForceWin
    fSet (modLv (enterPhase s k) fun l => { l with force := n }) (bLoc .lvStatus 0) fLvStatusForced (b2n (n ≠ 0))

/-! ## Temperature (R458 to R460) -/

/-- The THERMTRIP temperature of a unit. -/
def tripTemp (u : Nat) : Nat := if u < 16 then 115 else 105

/-- The base die whose controllers a DRAM unit belongs to. -/
def dramBase (u : Nat) : Nat := if u < 28 then (u - 16) / 3 else u - 28

/-- The DRAM units of a base die. -/
def dramUnits (b : Nat) : List Nat := [16 + 3 * b, 17 + 3 * b, 18 + 3 * b, 28 + b]

/-- The record of an episode's start, at most once in 10 s for a unit. -/
def throttleRecord (s : Node) (u : Nat) : Node :=
  match tblGet 0 (lvOf s).throttled u with
  | 0 => note s
  | t + 1 => if s.now ≥ t + 10000000000 then note s else s
where
  /-- Writes it. -/
  note (s : Node) : Node :=
    let scope := if u < 16 then u else 12 + dramBase u
    let s1 := modLv s fun l => { l with throttled := tblSet 0 l.throttled u (s.now + 1) }
    lvEvent (logErr s1 scope (if u < 12 then 0x40 else 0x70) 0x0905 0 [])

/-- Whether a rate limit of `ns` since the last change of place `k` has passed. -/
def coolDue (s : Node) (k ns : Nat) : Bool :=
  match tblGet 0 (lvOf s).cooledAt k with
  | 0 => true
  | t + 1 => decide (s.now ≥ t + ns)

/-- A logic die's temperature lowers or raises it by a place. -/
def coolDie (s : Node) (u : Nat) : Node :=
  let c := tblGet 0 (lvOf s).cool u
  let t := tblGet 0 (lvOf s).temps u
  let lim := dictNat s 0x2000 2
  let put := fun (s : Node) v => modLv s fun l => { l with cool := tblSet 0 l.cool u v, cooledAt := tblSet 0 l.cooledAt u (s.now + 1) }
  if t ≥ lim ∧ c < ladderEnd ∧ coolDue s u 100000 then
    let s1 := put s (c + 1)
    if c = 0 then throttleRecord s1 u else s1
  else if t + 3 ≤ lim ∧ c > 0 ∧ coolDue s u 1000000 then put s (c - 1)
  else s

/-- A DRAM unit's temperature lowers or raises the command rate of its base die's controllers by 1/8 of peak. -/
def coolDram (s : Node) (u : Nat) : Node :=
  let b := dramBase u
  let c := tblGet 0 (lvOf s).dramCool b
  let lim := dictNat s 0x2000 3
  let put := fun (s : Node) v => modLv s fun l => { l with dramCool := tblSet 0 l.dramCool b v, cooledAt := tblSet 0 l.cooledAt (16 + b) (s.now + 1) }
  if tblGet 0 (lvOf s).temps u ≥ lim ∧ c < 6 ∧ coolDue s (16 + b) 100000 then
    let s1 := put s (c + 1)
    if c = 0 then throttleRecord s1 u else s1
  else if (dramUnits b).all (fun x => decide (tblGet 0 (lvOf s).temps x + 3 ≤ lim)) && decide (c > 0) && coolDue s (16 + b) 1000000 then put s (c - 1)
  else s

/-- A unit's sensors are read: the hottest one, whether all of them have failed, whether a stack runs at doubled refresh. -/
def execThermalRead (sensed hottest : Nat) (failed doubled : Bool) (s : State) : Host.Outcome State Fault Refusal := onNode s fun s =>
  onUnit 32 sensed (
    let setBit := fun (m : Nat) (v : Bool) => (m - (m &&& 1 <<< sensed)) + (if v then 1 <<< sensed else 0)
    let runs := if hottest ≥ tripTemp sensed then tblGet 0 (lvOf s).hot sensed + 1 else 0
    let s1 := modLv s fun l => { l with
      temps := tblSet 0 l.temps sensed hottest
      hot := tblSet 0 l.hot sensed runs
      failed := setBit l.failed failed
      doubled := if 16 ≤ sensed ∧ sensed < 28 then setBit l.doubled doubled else l.doubled }
    let s2 := if sensed < 12 ∧ !isFenced s sensed then fSet s1 (dLoc .lpStatus sensed) fLpStatusTempC (min 255 hottest) else s1
    settlePower (if sensed < 16 then coolDie s2 sensed else coolDram s2 sensed))

/-- Whether a compute die runs at its lowest point, or is fenced. -/
def atFloor (s : Node) (d : Nat) : Bool := isFenced s d || diePoint s d == floorPoint

/-- A thermal fault (R459): all of a die's sensors have failed, or it has stayed above 105 °C at the floor for 100 ms. -/
def execThermalFault (sensed : Nat) (s : State) : Host.Outcome State Fault Refusal := onNode s fun s =>
  onUnit 16 sensed (
    let l := lvOf s
    let hot := decide (tblGet 0 l.temps sensed > 105)
    if sensed < 12 then (if bit l.failed sensed || (hot && atFloor s sensed) then askFence s sensed 4 else s)
    else
      let b := sensed - 12
      let floor := [3 * b, 3 * b + 1, 3 * b + 2].all (atFloor s)
      if floor && (bit l.failed sensed || hot) then { s with leaveDue := s.leaveDue ++ [.baseDie b] } else s)

/-- Two readings in a row at the trip temperature (R460). -/
def execThermtrip (sensed : Nat) (s : State) : Host.Outcome State Fault Refusal := onNode s fun s =>
  onUnit 32 sensed (if tblGet 0 (lvOf s).hot sensed ≥ 2 then stopNode s true else s)

/-! ## The power brake (R461) -/

def execPwrbrkAssert (s : State) : Host.Outcome State Fault Refusal := onNode s fun s =>
  .next (settlePower (modLv s fun l => { l with brake := true }))

def execPwrbrkRelease (s : State) : Host.Outcome State Fault Refusal := onNode s fun s =>
  .next (settlePower (modLv s fun l => { l with brake := false, brakeRec := false }))

def execBrakeStuck (s : State) : Host.Outcome State Fault Refusal := onNode s fun s =>
  .next (
    if (lvOf s).brake && !(lvOf s).brakeRec then noteAlert (lvLog (modLv s fun l => { l with brakeRec := true }) 0x0904 []) else s)

end Sys2Proof.Machine
end

