-- ==== Sys2Proof/Machine/LifeOps.lean ====
section
/-! DEFINITION. Shared operations of boot, security and life cycle (21_reset_boot_lifecycle.md): images, measurements,
tokens, keys, attestation, network boot, and the entry to test mode (R520). -/

namespace Sys2Proof.Machine

/-! ## The security state -/

def lifeOf (s : Node) : Life := s.ctl.life

/-- Sets a field of every base die's SEC_STATUS. -/
def setSec (s : Node) (f : Fld) (v : Nat) : Node := (List.range 4).foldl (fun s b => fSet s (bLoc .secStatus b) f v) s

/-- A record of class 0x0B by the lead's security block. -/
def lifeLog (s : Node) (code : Nat) (detail : List (Nat × Nat)) : Node := logErr s (12 + leadDie s) 0x90 code 0 detail

/-- Life-cycle states (R512). -/
def lcsBlank : Nat := 0
def lcsProvisioned : Nat := 1
def lcsProduction : Nat := 2
def lcsReturned : Nat := 3
def lcsScrapped : Nat := 4
def lcs (s : Node) : Nat := (lifeOf s).fuses.lcs

/-- Whether debug access is open this boot. -/
def debugOpen (s : Node) : Bool := fGet s (bLoc .secStatus 0) fSecStatusDebugOpen == 1

/-- ALERT_CAUSE and the level of ALERT_N (R542): low for an unmasked cause, or in hold mode entered on a failure. -/
def alertCause (s : Node) : Nat := s.alert ||| alertNow s
def alertLow (s : Node) : Bool :=
  alertCause s &&& dictNat s 0x1010 6 != 0 || ((lifeOf s).boot == .hold && (lifeOf s).failed)

/-- A write of ALERT_ACK: a cause whose condition still holds stays set. -/
def alertAck (s : Node) (v : Nat) : Node := noteAlert { s with alert := s.alert - (s.alert &&& v) }

/-- Updates READY; its edges leave on the pin. -/
def setReady (s : Node) (v : Bool) : Node :=
  if (lifeOf s).ready = v then s
  else sendOut (modLife s fun l => { l with ready := v, readied := l.readied || v }) ⟨22, 0, .notify, [0, b2n v], []⟩

/-! ## Measurements (R508) -/

/-- The 64 bytes of a measurement register. -/
def measBytes (s : Node) (i : Nat) : List Byte := leBytes 64 (tblGet 0 (lifeOf s).meas i)

/-- Extends a measurement register with a digest. -/
def extend (s : Node) (i : Nat) (d : List Byte) : Node :=
  modLife s fun l => { l with meas := tblSet 0 l.meas i (sha3 (measBytes s i ++ d)) }

/-- A SEC_EXTEND store to base die `b`, or a Corud EXTEND; the digest is read through the home. -/
def secExtend (s : Node) (b : Nat) (v : Word) : Node :=
  let i := wbits v 63 60
  let a := wbits v 55 6 * 64
  if 4 ≤ i ∧ i ≤ 7 ∧ inHbm s a 64 then
    let s1 := agentTouch s b clsDma a 64
    match firstPoison s1 a 64 with
    | some line => poisonAgent s1 (12 + b) 0x90 line
    | none => extend s1 i (readBytes s1 a 64)
  else fSet s (bLoc .secStatus b) fSecStatusExtRefused 1

/-! ## Images (R504 to R506) -/

/-- The fused security version of a kind: the highest burnt bit plus one. -/
def fusedSvn (s : Node) (kind : Nat) : Nat :=
  let v := if kind = 1 then (lifeOf s).fuses.svn.1 else (lifeOf s).fuses.svn.2
  if v = 0 then 0 else Nat.log2 v + 1

/-- KEY of an image or token: the OWNER bit and the slot. -/
def keyOwner (k : Nat) : Bool := bit k 4
def keySlot (k : Nat) : Nat := bits k 1 0
def keyValid (k : Nat) : Bool := k &&& 0x13 == k

/-- Whether a public key's hash is that of an unrevoked slot. -/
def keyMatches (s : Node) (k : Nat) (pk : List Byte) : Bool :=
  let f := (lifeOf s).fuses
  if keyOwner k then
    decide (keySlot k < f.owners.length) && f.owners.getD (keySlot k) 0 == sha3 pk && !bit f.ownerRev (keySlot k)
  else Config.rootKey (keySlot k) == sha3 pk && !bit f.rootRev (keySlot k)

/-- Whether an image of a kind may name its key's class: management firmware a root slot, the host boot image an owner
slot once one is fused; in RETURNED root-signed images only (R505, R512). -/
def classMay (s : Node) (kind k : Nat) : Bool :=
  if kind = 1 ∨ lcs s = lcsReturned then !keyOwner k else keyOwner k == !(lifeOf s).fuses.owners.isEmpty

/-- Fields of an image's header. -/
def imgLength (l : List Byte) : Nat := descField l 12 4
def imgSvn (l : List Byte) : Nat := descField l 6 2
def imgKey (l : List Byte) : Nat := descField l 5 1
def imgLoad (l : List Byte) : Nat := descField l 16 8
def imgEntry (l : List Byte) : Nat := descField l 24 8
def imgPayload (l : List Byte) : List Byte := (l.drop 8192).take (imgLength l)

/-- Whether an image's header fields are valid (R504). -/
def headerValid (s : Node) (kind : Nat) (l : List Byte) : Bool :=
  let room := if kind = 1 then 0x400000 - 8192 else 0x1000000 - 8192
  descField l 0 4 == 0x46594E56 && descField l 4 1 == kind && keyValid (imgKey l) && decide (imgSvn l ≤ 64) &&
    decide (imgLength l ≤ room) && decide (8192 + imgLength l ≤ l.length) &&
    (if kind = 1 then imgLoad l == 0 && imgEntry l == 0 else aligned 4096 (imgLoad l) && inHbm s (imgLoad l) (imgLength l)) &&
    ((l.drop 7315).take 877).all fun v => v == 0

/-- Whether everything but the security version of an image verifies. -/
def imageSigned (s : Node) (kind : Nat) (l : List Byte) : Bool :=
  let pk := (l.drop 96).take 2592
  headerValid s kind l && classMay s kind (imgKey l) && keyMatches s (imgKey l) pk &&
    Config.verifies 0 (leValue pk) (leValue (l.take 7315)) && sha3 (imgPayload l) == descField l 32 64

/-- Whether an image verifies. -/
def imageOk (s : Node) (kind : Nat) (l : List Byte) : Bool := imageSigned s kind l && decide (fusedSvn s kind ≤ imgSvn l)

/-- What is kept of an image that runs. -/
def imageOf (slot : Nat) (l : List Byte) : Image := ⟨slot, imgKey l, imgSvn l, sha3 (l.take 8192 ++ imgPayload l)⟩

/-- The preferred slot of a kind, then the other. -/
def slotOrder (s : Node) (kind : Nat) : List Nat := if dictNat s 0x7002 kind = 0 then [0, 1] else [1, 0]

/-- An image slot of the flash. -/
def flashSlot (s : Node) (kind slot : Nat) : List Byte := (lifeOf s).flash.getD (2 * (kind - 1) + slot) []

/-- The first slot of a kind in the flash that verifies. -/
def flashImage (s : Node) (kind : Nat) : Option (Nat × List Byte) :=
  (slotOrder s kind).findSome? fun k =>
    let l := flashSlot s kind k
    if imageOk s kind l then some (k, l) else none

/-- Whether some image of a kind failed for its security version alone. -/
def rolledBack (s : Node) (kind : Nat) : Bool :=
  [0, 1].any fun k => imageSigned s kind (flashSlot s kind k) && !imageOk s kind (flashSlot s kind k)

/-! ## Keys and attestation (R509, R510) -/

/-- Seeds of the DeviceID and alias keys. -/
def devidSeed (s : Node) : Nat := sha3 (leBytes 1 1 ++ leBytes 32 (lifeOf s).fuses.uds) % 2 ^ 256
def aliasSeed (s : Node) : Nat := sha3 (leBytes 1 2 ++ leBytes 32 (lifeOf s).fuses.uds ++ measBytes s 0 ++ measBytes s 1) % 2 ^ 256

/-- Bytes of a standard's result, cut or filled to a length. -/
def cut (n : Nat) (l : List Byte) : List Byte := l.take n ++ List.replicate (n - l.length) 0

/-- An ML-DSA-87 public key, and a signature under the key of a seed. -/
def mldsaPublic (seed : Nat) : List Byte := cut 2592 (Config.signed 0 seed 0)
def mldsaSign (seed : Nat) (l : List Byte) : List Byte := cut 4627 (Config.signed l.length seed (leValue l))

/-- Whether keys are derived: not in RETURNED or SCRAPPED. -/
def keysDerived (s : Node) : Bool := decide (lcs s < lcsReturned)

/-- ALIAS_CERT. -/
def aliasCert (s : Node) : List Byte :=
  if keysDerived s then
    let l := mldsaPublic (lifeOf s).aliasKey ++ measBytes s 0 ++ measBytes s 1 ++ leBytes 8 Config.serial
    l ++ mldsaSign (devidSeed s) l ++ List.replicate 64 0
  else []

/-- REPORT for a nonce. -/
def attest (s : Node) (nonce : List Byte) : List Byte :=
  if keysDerived s then
    let l := lifeOf s
    let svn := fun (i : Option Image) => i.elim 0 (·.svn)
    let fence := dictNat s 0x3000 2
    let body := leBytes 4 0x52414E56 ++ leBytes 2 1 ++ leBytes 1 (lcs s) ++ leBytes 1 (b2n (debugOpen s) + 2 * b2n l.net) ++
      leBytes 8 Config.serial ++ leBytes 2 (svn l.mp) ++ leBytes 2 (svn l.hostImg) ++ leBytes 2 (fusedSvn s 1) ++
      leBytes 2 (fusedSvn s 2) ++ leBytes 2 (fGet s (bLoc .fence 0) fFenceFenced) ++
      leBytes 1 (fGet s (bLoc .rstCause 0) fRstCauseCause) ++ leBytes 1 (if fence = 0 then 0xFF else Nat.log2 fence) ++
      leBytes 4 (incarnation s (leadDie s)) ++ leBytes 8 s.now ++ List.replicate 24 0 ++ cut 32 nonce ++
      (List.range 8).flatMap (measBytes s) ++ mldsaPublic l.aliasKey
    body ++ mldsaSign l.aliasKey body
  else []

/-- A write of NONCE. -/
def nonceWrite (s : Node) (nonce : List Byte) : Node := modLife s fun l => { l with report := attest s nonce }

/-! ## Tokens, keys and versions (R506, R511 to R514, R517) -/

/-- A new LCS_NONCE. -/
def drawNonce (s : Node) : Node := modLife (bump s) fun l => { l with nonce := Config.freeNat s.fresh % 2 ^ 256 }

/-- Whether a transition exists and its token's key class may sign it (R512). -/
def transitionMay (s : Node) (dest k : Nat) : Bool :=
  let owned := !(lifeOf s).fuses.owners.isEmpty
  match lcs s, dest with
  | 0, 1 => !keyOwner k
  | 1, 2 => keyOwner k && owned
  | 2, 3 => keyOwner k && owned
  | n, 4 => decide (n < 4) && (!keyOwner k || owned)
  | _, _ => false

/-- Whether a debug token's key class may open debug. -/
def debugMay (s : Node) (k : Nat) : Bool :=
  if lcs s = lcsProvisioned then true else decide (lcs s = lcsProduction) && keyOwner k

/-- Whether a token's serial number, nonce, key and signature hold (R513). -/
def tokenHolds (s : Node) (t : List Byte) : Bool :=
  let pk := (t.drop 48).take 2592
  descField t 8 8 == Config.serial % 2 ^ 64 && descField t 16 32 == (lifeOf s).nonce && keyValid (descField t 1 1) &&
    keyMatches s (descField t 1 1) pk && Config.verifies 1 (leValue pk) (leValue t)

/-- A refused token, key write, revocation or commit. -/
def refuseLife (s : Node) : Node × Bool := (lifeLog s 0x0B03 [], false)

/-- A write of LCS_TOKEN: an accepted transition burns its fuses and performs a software reset. -/
def lcsToken (s : Node) (t : List Byte) : Node × Bool :=
  let dest := descField t 0 1
  let s1 := drawNonce s
  if t.length = 7267 ∧ transitionMay s dest (descField t 1 1) ∧ tokenHolds s t then
    let burn := fun (f : Fuses) =>
      if dest = lcsProvisioned then { f with lcs := dest, partialWord := false, uds := Config.freeNat s1.fresh % 2 ^ 256 }
      else { f with lcs := dest, partialWord := false }
    (warmReset (modLife (bump s1) fun l => { l with fuses := burn l.fuses }) rstSoftware true, true)
  else refuseLife s1

/-- A write of DEBUG_TOKEN: accepted, debug opens at the next reset. -/
def debugToken (s : Node) (t : List Byte) : Node × Bool :=
  let s1 := drawNonce s
  if t.length = 7267 ∧ descField t 0 1 = 0x0D ∧ debugMay s (descField t 1 1) ∧ tokenHolds s t then
    (modLife s1 fun l => { l with debugNext := true }, true)
  else refuseLife s1

/-- A write of OWNER_KEY. -/
def ownerKey (s : Node) (hash : List Byte) : Node × Bool :=
  let f := (lifeOf s).fuses
  if lcs s = lcsProvisioned ∧ hash.length = 64 ∧ f.owners.length < 4 then
    (modLife s fun l => { l with fuses := { f with owners := f.owners ++ [leValue hash] } }, true)
  else refuseLife s

/-- A write of REVOKE. -/
def revoke (s : Node) (v : Nat) : Node × Bool :=
  let f := (lifeOf s).fuses
  let runs := fun (i : Option Image) => i.any fun x => keyOwner x.key == keyOwner v && keySlot x.key == keySlot v
  if !keyValid v || runs (lifeOf s).mp || runs (lifeOf s).hostImg then refuseLife s
  else
    let m := 1 <<< keySlot v
    let g := if keyOwner v then { f with ownerRev := f.ownerRev ||| m } else { f with rootRev := f.rootRev ||| m }
    (modLife s fun l => { l with fuses := g }, true)

/-- The version fuses burnt from `lo` up to `hi`. -/
def burnUp (v lo hi : Nat) : Nat := v ||| (2 ^ hi - 2 ^ min lo hi)

/-- A write of SVN_COMMIT. -/
def svnCommit (s : Node) (kind : Nat) : Node × Bool :=
  let f := (lifeOf s).fuses
  let run := if kind = 1 then (lifeOf s).mp else if kind = 2 then (lifeOf s).hostImg else none
  match run with
  | none => refuseLife s
  | some i =>
    let hi := max (fusedSvn s kind) i.svn
    let svn := if kind = 1 then (burnUp f.svn.1 (fusedSvn s 1) hi, f.svn.2) else (f.svn.1, burnUp f.svn.2 (fusedSvn s 2) hi)
    (modLife s fun l => { l with fuses := { f with svn := svn } }, true)

/-- KEY_STATE. -/
def keyState (s : Node) : Nat :=
  let f := (lifeOf s).fuses
  bits f.rootRev 3 0 + (2 ^ f.owners.length - 1) % 16 * 16 + bits f.ownerRev 3 0 * 256

/-! ## Booting (R499 to R507) -/

/-- Hold mode; on a failure ALERT_N is low as well. -/
def enterHold (s : Node) (failed : Bool) : Node := setReady (modLife s fun l => { l with boot := .hold, failed := failed }) false

/-- Management firmware runs: M0, M1 and M3 are extended and the alias key derived (R499 step 5, R508, R509). -/
def measureBoot (s : Node) (m0 : Option Nat) : Node :=
  let s1 := match m0 with
    | some d => extend s 0 (leBytes 64 d)
    | none => s
  let host := ((flashImage s 2).map fun p => imgKey p.2).getD 0
  let key := (lifeOf s).mp.elim 0 (·.key)
  let rec_ := Config.securityRecord [lcs s, fusedSvn s 1, fusedSvn s 2, key, host,
    fGet s (bLoc .secStatus 0) fSecStatusBootSel, b2n (lifeOf s).net, b2n (debugOpen s)]
  let s2 := extend (extend s1 1 (cut 64 rec_)) 3 (leBytes 64 (sha3 (Config.storeCopy s.ctl.corud.store)))
  modLife s2 fun l => { l with aliasKey := if keysDerived s2 then aliasSeed s2 else 0 }

/-- A verified management firmware image starts. -/
def startFirmware (s : Node) (slot : Nat) (net : Bool) (l : List Byte) : Node :=
  let i := imageOf slot l
  let s1 := modLife s fun x => { x with mp := some i, net := net, boot := .boot, chunks := [] }
  measureBoot (setSec (setSec s1 fSecStatusMpSlot slot) fSecStatusNetboot (b2n net)) (some i.digest)

/-- A verified host boot image is loaded and measured; host core 0 of the lowest-numbered compute die in service starts
at ENTRY (R499 step 11). -/
def startHost (s : Node) (slot : Nat) (l : List Byte) : Node :=
  let i := imageOf slot l
  let s1 := modLife s fun x => { x with hostImg := some i, host := true, boot := .up, chunks := [] }
  let s2 := writeBytes (setSec (extend s1 2 (leBytes 64 i.digest)) fSecStatusHostSlot slot) (imgLoad l) (imgPayload l)
  match firstBelow 12 fun d => !isFenced s d with
  | some d => modCore s2 (8 * d) fun c => { c with pc := imgEntry l, mode := 3, waiting := false }
  | none => s2

/-- The firmware looks for the host boot image: from flash, or from the network where R505 says so. -/
def seekHost (s : Node) : Node :=
  if (lifeOf s).net then modLife s fun l => { l with boot := .netHost, chunks := [] }
  else match flashImage s 2 with
  | some (k, l) => startHost s k l
  | none =>
    if fGet s (bLoc .secStatus 0) fSecStatusBootSel = 2 then modLife s fun l => { l with boot := .netHost, chunks := [] }
    else modLife s fun l => { l with boot := .up }

/-- No management firmware image verifies: the boot halts. -/
def bootFails (s : Node) (rolled : Bool) : Node := measureBoot (enterHold (lifeLog s (if rolled then 0x0B02 else 0x0B01) []) true) none

/-- The boot ROM looks for management firmware (R502, R505, R507). -/
def seekFirmware (s : Node) (sel : Nat) : Node :=
  let net := modLife s fun l => { l with boot := .netMp, chunks := [] }
  if sel = 1 then net
  else match flashImage s 1 with
  | some (k, l) => startFirmware s k false l
  | none => if sel = 2 then net else bootFails s (rolledBack s 1)

/-- Reset release (R499, R500): the fuses are checked, the lead is chosen, and a boot source is sought or hold mode
entered (R507). -/
def release (s : Node) (f : BootIn) : Node :=
  let sel := f.sel % 4
  let l := lifeOf s
  let alive := (List.range 4).filter fun b => !bit f.badDies b
  let debug := l.debugNext && decide (l.fuses.lcs = lcsProvisioned ∨ l.fuses.lcs = lcsProduction) || decide (l.fuses.lcs = lcsBlank ∨ l.fuses.lcs = lcsReturned)
  let s1 := modLife s fun x => { x with boot := .boot, leaving := false, debugNext := false, flash := f.flash }
  let s2 := setSec (setSec (setSec (setSec s1 fSecStatusBootSel sel) fSecStatusLcs l.fuses.lcs) fSecStatusLcsPartial (b2n l.fuses.partialWord))
    fSecStatusDebugOpen (b2n debug)
  let s3 := fSet (fSet s2 (bLoc .mpStatus 0) fMpStatusLead (alive.headD 0)) (bLoc .mpStatus 0) fMpStatusAlive (maskOf alive)
  let fence := dictNat s3 0x3000 2
  let second := fence ≠ 0 ∧ f.badStacks % 4096 - (f.badStacks % 4096 &&& fence) ≠ 0
  let dark := fun (t : Node) (failed : Bool) => measureBoot (enterHold t failed) none
  match f.fuseBad with
  | some w => dark (lifeLog s3 0x0B04 [(4, w)]) true
  | none =>
    if f.badDies % 16 ≠ 0 ∨ second then dark s3 true
    else if sel = 3 ∨ l.fuses.lcs = lcsBlank ∨ l.fuses.lcs = lcsScrapped then dark s3 false
    else seekFirmware s3 sel

/-! ## Network boot (R505) -/

/-- Whether a network image is awaited. -/
def awaitsImage (s : Node) : Bool := (lifeOf s).boot == .netMp || (lifeOf s).boot == .netHost

/-- A BOOT_CHUNK write: 32,768 bytes, the image's last chunk perhaps fewer. -/
def bootChunk (s : Node) (c : Nat) (d : List Byte) : Node × Bool :=
  if awaitsImage s ∧ c < 512 ∧ d.length ≤ 32768 then
    (modLife s fun l => { l with chunks := tblSet none l.chunks c (some d) }, true)
  else (s, false)

/-- The image of a length that the chunks make up. -/
def netImage (s : Node) (n : Nat) : List Byte :=
  ((List.range (ceilDiv n 32768)).flatMap fun c => (tblGet none (lifeOf s).chunks c).getD []).take n

/-- A BOOT_GO write: the assembled image is verified as if it had come from flash. -/
def bootGo (s : Node) (n : Nat) : Node × Bool :=
  if !awaitsImage s || decide (n > 512 * 32768) then (s, false)
  else
    let l := netImage s n
    let whole := l.length == n
    let s1 := modLife s fun x => { x with chunks := [] }
    if (lifeOf s).boot = .netMp then
      if whole && imageOk s 1 l then (startFirmware s1 0 true l, true)
      else (bootFails s1 (whole && imageSigned s 1 l), true)
    else if whole && imageOk s 2 l then (startHost s1 0 l, true)
    else (s1, true)

/-! ## Test mode (R520) -/

def testMode (s : Node) : Bool := s.ctl.test.junk.isSome

/-- TEST_MODE 1: refused where JOB_WIPE would be; READY falls, every port is disabled, every Dziger engine and Shingle
slice too, and memory is undefined from now on. -/
def testEnter (s : Node) : Node × Bool :=
  if testMode s then (s, true)
  else if jobPresent s then (s, false)
  else
    let s1 := setReady (dictSetNat s 0x9000 1 1) false
    let s2 := (List.range 20).foldl (fun s p => portEnable s p false) s1
    let s3 := (List.range 4).foldl (fun s b => enableWrite (enableWrite s (bLoc .dzCtrl b) false) (bLoc .shgCtrl b) false) s2
    (modTest (bump s3) fun t => { t with junk := some s3.fresh }, true)

/-- TEST_MODE 0: a software reset, whatever READY reads; outside test mode nothing. -/
def testExit (s : Node) : Node := if testMode s then warmReset s rstSoftware false else s

end Sys2Proof.Machine
end

