-- ==== Sys2Proof/Machine/Latch.lean ====
section
/-! DEFINITION. The Latch (R481 to R486): the staged set, its checks, triggers and the commit. -/

namespace Sys2Proof.Machine

/-- LATCH_STATE: 0 EMPTY, 1 STAGED, 2 CHECKED, 3 COMMITTING. -/
def latchState (s : Node) : Nat := dictNat s 0x1F00 3
def setLatch (s : Node) (v : Nat) : Node := dictSetNat s 0x1F00 3 v
def latchTag (s : Node) : Nat := dictNat s 0x1F00 1

/-- The staged set. -/
def stagedVal (s : Node) (key : Nat) : Option (List Byte) := tblGet none s.ctl.corud.staged key
def stagedCount (s : Node) : Nat := s.ctl.corud.staged.length

/-- Value bytes of an entry of the set, with the length prefix of a DOMAIN. -/
def stagedSize (key : Nat) (v : List Byte) : Nat :=
  v.length + (if (dictFind (key / 256) (key % 256)).any fun e => decide (e.ty = .domain) then 2 else 0)

/-- Whether the set has no room for a value (R481). -/
def stageFull (s : Node) (key : Nat) (v : List Byte) : Bool :=
  let others := tblErase s.ctl.corud.staged key
  let size := (others.map fun p => p.2.elim 0 (stagedSize p.1)).sum
  decide (others.length ≥ 256) || decide (size + stagedSize key v > 262144)

/-- A value joins the staged set. -/
def stageValue (s : Node) (key : Nat) (v : List Byte) : Node :=
  setLatch (modCorud s fun c => { c with staged := tblSet none c.staged key (some v) }) 1

/-- A numeric or DOMAIN entry's resulting value: the staged one, or the one in effect. -/
def resultVal (s : Node) (idx sub : Nat) : List Byte := (stagedVal s (idx * 256 + sub)).getD (dictVal s idx sub)
def resultNat (s : Node) (idx sub : Nat) : Nat := leValue (resultVal s idx sub)

/-- LATCH_RESULT for a failing entry and reason. -/
def latchFail (idx sub reason : Nat) : Nat := idx * 65536 + sub * 256 + reason

/-- LEDGER_LIVE (R396): a new job while some Ledger entry is live, that is, not free (LEDGER_STATUS.LIVE). -/
def failsLedger (s : Node) : Bool :=
  let job := resultNat s 0x4000 2
  job != 0 && job != selfJob s && (List.range 4).any fun b => !(ledEntries s b).isEmpty

/-- Whether two ranges of bytes overlap. -/
def overlap (a n b m : Nat) : Bool := decide (a < b + m) && decide (b < a + n) && n != 0 && m != 0

/-- Whether some ranges of a list overlap one another. -/
def anyOverlap : List (Nat × Nat) → Bool
  | [] => false
  | (a, n) :: t => t.any (fun p => overlap a n p.1 p.2) || anyOverlap t

/-- CHECKPOINT (R414): the extents, the slots, and the ward's slot within the remote window. The ward's slot is taken to
be as long as the local one. -/
def failsCheckpoint (s : Node) : Bool :=
  let ext := extentsOf (resultVal s 0x4101 1)
  let total := (ext.map (·.2)).sum
  let loc := resultNat s 0x4101 2
  let ward := resultNat s 0x4101 3
  let slot := 65536 + total
  let lo := fGet s (bLoc .dzRwinBase 0) fDzRwinBaseAddr * 4096
  let hi := fGet s (bLoc .dzRwinLimit 0) fDzRwinLimitAddr * 4096
  let slots := (loc, slot) :: (if ward = 0 then [] else [(ward, slot)])
  ext.any (fun p => !aligned 65536 p.1 || !aligned 65536 p.2 || !inHbm s p.1 p.2) || anyOverlap ext ||
    ext.any (fun p => slots.any fun q => overlap p.1 p.2 q.1 q.2) || decide (total > 72 * 2 ^ 30) ||
    (ward != 0 && (decide (ward < lo) || decide (hi < ward + slot)))

/-- MIRROR: the entry that fails. -/
def failsMirror (s : Node) : Option Nat :=
  if resultNat s 0x4100 1 = 1 ∧ resultNat s 0x4100 2 = resultNat s 0x4000 1 then some 2
  else if resultNat s 0x4100 1 = 2 ∧ resultNat s 0x4100 4 > 4095 then some 4 else none

/-- The checks that hold again at the apply instant (R484). -/
def recheck (s : Node) : Nat :=
  if failsLedger s then latchFail 0x4000 2 1 else if failsCheckpoint s then latchFail 0x4101 1 2 else 0

/-- The checks of R483, in order: LATCH_RESULT. -/
def checkSet (s : Node) : Nat :=
  let r := recheck s
  if r ≠ 0 then r
  else match failsMirror s with
  | some sub => latchFail 0x4100 sub 3
  | none => if resultNat s 0x4000 2 ≠ 0 ∧ resultNat s 0x4000 1 = 0 then latchFail 0x4000 1 4 else 0

/-- A check or commit fails: LATCH_RESULT and LATCH_REJECTED. -/
def latchReject (s : Node) (r : Nat) : Node :=
  logErr (dictSetNat s 0x1F00 4 r) (12 + leadDie s) 0x80 0x0A21 0 [(4, r), (2, latchTag s)]

/-- CHECK (R482): only STAGED is checked. -/
def latchCheck (s : Node) : Node :=
  if latchState s ≠ 1 then s
  else
    let r := checkSet s
    if r = 0 then setLatch (dictSetNat s 0x1F00 4 0) 2 else latchReject s r

/-- A trigger: the set is frozen and its apply instant is 2 µs away (R484). -/
def latchTrigger (s : Node) : Node := modCorud (setLatch s 3) fun c => { c with apply := some (s.now + 2000) }

/-- COMMIT_NOW (R485). -/
def latchCommitNow (s : Node) : Node :=
  if latchState s = 1 ∨ latchState s = 2 then
    let r := checkSet s
    if r = 0 then latchTrigger (dictSetNat s 0x1F00 4 0) else latchReject s r
  else s

/-- DISCARD (R482). -/
def latchDiscard (s : Node) : Node :=
  if latchState s = 3 then s else setLatch (dictSetNat (modCorud s fun c => { c with staged := [] }) 0x1F00 1 0) 0

/-- A LATCH timed event fires with a tag (R485, R486); tag 0 matches no set. -/
def latchFire (s : Node) (tag : Nat) : Node :=
  match latchState s with
  | 1 => latchReject s 5
  | 2 => if tag ≠ 0 ∧ tag = latchTag s then latchTrigger s else latchReject s 6
  | _ => s

/-- A write of COMMIT_AT: entry 63 is a one-shot LATCH event with ARG LATCH_TAG. -/
def commitAt (s : Node) (t : Nat) : Node :=
  let put := fun (s : Node) i v => regSet s (bLoc .teEntry 0 [63, i]) (BitVec.ofNat 64 v)
  modTime (put (put (put s 0 t) 2 (latchTag s)) 1 (2 ^ 63 + 1 <<< 56)) fun x => { x with stored := tblSet 0 x.stored 63 s.now }

/-! ## The commit (R484) -/

/-- A U16 mask table of a DOMAIN value. -/
def putMasks (s : Node) (r : RegId) (n : Nat) (v : List Byte) : Node :=
  (List.range n).foldl (fun s i => regSet s (bLoc r 0 [i]) (BitVec.ofNat 64 (descField v (2 * i) 2))) s

/-- A committed entry's registers: identity, routes, neighbours (R323). -/
def commitRegs (s : Node) (key : Nat) (v : List Byte) : Node :=
  let n := leValue v
  match key / 256, key % 256 with
  | 0x4000, 1 => fSet s (bLoc .dzSelf 0) fDzSelfEp n
  | 0x4000, 2 => fSet s (bLoc .dzSelf 0) fDzSelfJob n
  | 0x4000, 3 => fSet s (bLoc .dzSelf 0) fDzSelfEpoch n
  | 0x4010, 1 => putMasks s .dzGroupRt 4096 v
  | 0x4010, 2 => putMasks s .dzMemberRt 64 v
  | 0x4020, sub =>
    let l := dzPort (sub - 1)
    fSet (fSet (fSet s l fDzPortPeer (bits n 17 0)) l fDzPortLevel (bits n 25 24)) l fDzPortCheck (bits n 31 31)
  | _, _ => s

/-- The whole set takes effect: a changed JOB or EPOCH clears the flows and buckets (R334, R363), named mirror entries
start the new mirror (R382). -/
def applySet (s : Node) : Node :=
  let set := s.ctl.corud.staged
  let s1 := set.foldl (fun s p => commitRegs (dictSet s (p.1 / 256) (p.1 % 256) (p.2.getD [])) p.1 (p.2.getD [])) s
  let moved := selfJob s1 != selfJob s || selfEpoch s1 != selfEpoch s
  let s2 := if moved then shgAbandon (epochChanged s1) else s1
  let s3 := if set.any (fun p => p.1 / 256 == 0x4100) && mirrorMode s2 != 0 then mirrorNamed s2 else s2
  let s4 := modCorud s3 fun c => { c with staged := [], apply := none }
  let s5 := dictSetNat (dictSetNat (setLatch s4 0) 0x1F00 1 0) 0x1F00 6 s.now
  dictSetNat s5 0x1F00 7 (dictNat s5 0x1F00 7 + 1)

/-- The apply instant: LEDGER_LIVE and CHECKPOINT hold again, or nothing applies and the set stays CHECKED. -/
def latchApply (s : Node) : Node :=
  let r := recheck s
  if r = 0 then applySet s else latchReject (setLatch (modCorud s fun c => { c with apply := none }) 2) r

end Sys2Proof.Machine
end

