-- ==== Sys2Proof/Machine/Corud.lean ====
section
/-! DEFINITION. Corud (R466 to R492): requests, responses, the configuration store, telemetry, the management
processors' mailboxes; and the Latch's commands. -/

namespace Sys2Proof.Machine

/-! ## Units (R467) -/

def unitVer (p : List Byte) : Nat := descField p 0 1
def unitOp (p : List Byte) : Nat := descField p 1 1
def unitReq (p : List Byte) : Nat := descField p 2 2
def unitIdx (p : List Byte) : Nat := descField p 4 2
def unitSub (p : List Byte) : Nat := descField p 6 1
def unitOffset (p : List Byte) : Nat := descField p 8 4
def unitLength (p : List Byte) : Nat := descField p 12 2
def unitLast (p : List Byte) : Bool := bit (descField p 14 1) 0
def unitValue (p : List Byte) : List Byte := (p.drop 16).take (unitLength p)

/-- A unit. -/
def makeUnit (op req idx sub status offset flags retry : Nat) (v : List Byte) : List Byte :=
  leBytes 1 1 ++ leBytes 1 op ++ leBytes 2 req ++ leBytes 2 idx ++ leBytes 1 sub ++ leBytes 1 status ++ leBytes 4 offset ++
    leBytes 2 v.length ++ leBytes 1 flags ++ leBytes 1 retry ++ v

/-- The response to a request. -/
def response (p : List Byte) (status offset flags retry : Nat) (v : List Byte) : List Byte :=
  makeUnit (unitOp p + 0x80) (unitReq p) (unitIdx p) (unitSub p) status offset flags retry v

/-- Statuses (R468). -/
def stOk : Nat := 0
def stNoEntry : Nat := 1
def stAccess : Nat := 2
def stType : Nat := 3
def stRange : Nat := 4
def stBusy : Nat := 5
def stTransport : Nat := 6
def stStoreFailed : Nat := 7
def stStageFull : Nat := 8

/-- Value bytes that a unit of a transport may hold (R466). -/
def unitRoom : Option CorudSrc → Nat
  | some .i3c => 256
  | _ => 1024

/-- A unit leaves by its transport. -/
def sendUnit (s : Node) (src : CorudSrc) (u : List Byte) : Node :=
  match src with
  | .mgt sa => sendOut s ⟨20, 0, .corud, [sa], u⟩
  | .inband port sa => sendFrame s ⟨port, 0, .corud, [sa], u⟩
  | .i3c => sendOut s ⟨21, 0, .corud, [], u⟩
  | .mailbox b => modCorud s fun c => { c with mailbox := tblSet none c.mailbox b (some u) }

/-- The last 64 responses of each source are kept (R472). -/
def keepUnit (s : Node) (src : CorudSrc) (p u : List Byte) : Node :=
  let k : Kept := ⟨src, unitReq p, unitIdx p, unitSub p, u, s.now⟩
  let mine := s.ctl.corud.kept.filter fun x => decide (x.src = src)
  let old := if mine.length ≥ 64 then dropFirst (fun x : Kept => decide (x.src = src)) s.ctl.corud.kept else s.ctl.corud.kept
  modCorud s fun c => { c with kept := old ++ [k] }

/-- The response that answers a repeated request, while it is kept: 1 s. -/
def keptUnit (s : Node) (src : CorudSrc) (p : List Byte) : Option (List Byte) :=
  (s.ctl.corud.kept.find? fun x => decide (x.src = src) && x.reqId == unitReq p && x.idx == unitIdx p && x.sub == unitSub p &&
    decide (s.now ≤ x.time + 1000000000)).map (·.unit)

/-- Answers a request; a command that is no Corud request has no answer. -/
def reply (s : Node) (src : Option CorudSrc) (p u : List Byte) : Node :=
  match src with
  | some x => keepUnit (sendUnit s x u) x p u
  | none => s

/-- The answer BUSY, with the lead's estimate. -/
def replyBusy (s : Node) (src : CorudSrc) (p : List Byte) : Node :=
  sendUnit (bump s) src (response p stBusy 0 0 (1 + Config.freeNat s.fresh % 255) [])

/-! ## Values that are formed when read (R475, R508, R517) -/

/-- The F32 nearest to a quotient. -/
def f32Of (p q : Nat) : Nat :=
  if p = 0 then 0
  else
    let n := p * 2 ^ 80
    (convert .fp32 .rne false 0 (.fin false (n / q * 2 + b2n (n % q != 0)) (-81))).code

/-- ACLK and HCLK in units of 50 MHz (R443). -/
def aclkOf (op : Nat) : Nat := 45 - 3 * op
def hclkOf (hp : Nat) : Nat := 64 - 8 * hp

/-- Gables in service: not FAULTED, on a die that is not fenced. -/
def gableServes (s : Node) (g : Nat) : Bool := !isFenced s (g / 16) && ctrlState s (gLoc .gableCtrl g) != stFaulted

/-- Stacks in service, by mask. -/
def stacksLive (s : Node) : Nat :=
  if fGet s (bLoc .hbmStatus 0) fHbmStatusMapping = 2 then 0xFFF - 1 <<< fGet s (bLoc .hbmStatus 0) fHbmStatusFenced else 0xFFF

/-- Dense FP8 peak: 16.384 TOPS a GHz for each Gable, at its die's ACLK and duty. -/
def fp8Peak (s : Node) : Nat :=
  let per := fun g => aclkOf (pointOp (diePoint s (g / 16))) * pointDuty (diePoint s (g / 16))
  f32Of ((((List.range 192).filter (gableServes s)).map per).sum * 16384) (1000 * 16 * 20)

/-- FP64 vector peak: 0.032 TFLOP/s a GHz for each host core, at its HCLK. -/
def fp64Peak (s : Node) : Nat :=
  f32Of (((liveDies s).map fun d => 8 * hclkOf (pointHp (diePoint s d))).sum * 32) (1000 * 20)

/-- Telemetry values of 0x8000. -/
def telemetry (s : Node) (sub : Nat) : Nat :=
  match sub with
  | 1 => 0xFFF - fGet s (bLoc .fence 0) fFenceFenced
  | 2 => ((List.range 192).filter (gableServes s)).length
  | 3 => 8 * (liveDies s).length
  | 4 => hbmBytes s
  | 5 => stacksLive s
  | 6 => fGet s (bLoc .hbmStatus 0) fHbmStatusMapping
  | 7 => f32Of (12288 * popCount 12 (stacksLive s)) 10
  | 8 => fp8Peak s
  | 9 => fp64Peak s
  | 10 => ((List.range 4).filter fun b => fGet s (bLoc .nmcCtrl b) fNmcCtrlState != stFaulted).length * 2 ^ 33
  | 11 => maskOf (((List.range 20).filter (portLink s)).map refCode)
  | _ => ((List.range 16).map fun p => if portLink s (portOfFp p) then fGet s (portLoc .portStatus (portOfFp p)) fPortStatusLanes else 0).sum

/-- Totals of a saturation counter since reset: what it holds and what reads have cleared. -/
def satTotal (s : Node) (k : Nat) : Nat := tblGet 0 s.ctl.corud.sat k
def portSatTotal (s : Node) (p : Nat) : Nat := satTotal s p + (regGet s (bLoc .portSat (p / 4) [p % 4])).toNat
def levelSatTotal (s : Node) (l : Nat) : Nat :=
  satTotal s (16 + l) + ((List.range 4).map fun b => (regGet s (bLoc .levelSat b [l])).toNat).sum

/-- SIGNATURES: the slot images as LV_SIG holds them. -/
def sigImages (s : Node) : List Byte :=
  (List.range 32).flatMap fun i => [RegId.lvSigW0, .lvSigW1, .lvSigW2, .lvSigW3].flatMap fun r => leBytes 8 (regGet s (bLoc r 0 [i])).toNat

/-- The lease left in milliseconds. -/
def leaseLeft (s : Node) : Nat :=
  match (lvOf s).lease with
  | some t => (t - s.now) / 1000000
  | none => 0xFFFFFFFF

/-- The value of an entry as a READ returns it, without the length prefix. -/
def entryValue (s : Node) (e : DEntry) (idx sub : Nat) : List Byte :=
  let n := fun v => leBytes (tyBytes e.ty) v
  if sub = 0 ∧ e.lo = 0 then leBytes 1 e.dflt
  else match idx, sub with
  | 0x1F01, 2 => (stagedVal s (dictNat s 0x1F01 1 % 2 ^ 24)).getD []
  | 0x1F01, 3 => n (stagedCount s)
  | 0x2002, 1 => n (f32Of (averagePower s) 1000)
  | 0x2002, 2 => n (f32Of ((List.range 19).map fun k => tblGet 0 (lvOf s).est k).sum 1000)
  | 0x2002, 3 => n (f32Of (fGet s (bLoc .lvPower 0) fLvPowerDemandW) 1)
  | 0x2002, 4 => n (f32Of (fGet s (bLoc .lvStatus 0) fLvStatusFloorW) 1)
  | 0x2002, 5 => n (capW s)
  | 0x2002, 6 => n (fGet s (bLoc .lvReason 0) fLvReasonActive)
  | 0x2002, 7 => n (leaseLeft s)
  | 0x2003, 1 => sigImages s
  | 0x2003, 2 => n (fGet s (bLoc .lvCtrl 0) fLvCtrlLearn)
  | 0x7000, 1 => n (lcs s)
  | 0x7000, 2 => leBytes 32 (lifeOf s).nonce
  | 0x7001, 1 => n (lifeOf s).fuses.svn.1
  | 0x7001, 2 => n (lifeOf s).fuses.svn.2
  | 0x7001, 4 => n (keyState s)
  | 0x7020, 2 => (lifeOf s).report
  | 0x7020, 3 => aliasCert s
  | 0x8000, _ => n (telemetry s sub)
  | 0x8001, 1 => n (alertCause s)
  | 0x8002, _ => n (min (portSatTotal s (sub - 1)) (2 ^ 64 - 1))
  | 0x8003, _ => n (min (levelSatTotal s (sub - 1)) (2 ^ 64 - 1))
  | 0x8010, _ => errRecBytes s.lastRec
  | _, _ => dictVal s idx sub

/-- A value with the length prefix of its type. -/
def prefixed (t : DTy) (v : List Byte) : List Byte :=
  match t with
  | .str => leBytes 1 v.length ++ v
  | .domain => leBytes 2 v.length ++ v
  | _ => v

/-- Bytes of a type's length prefix. -/
def prefixBytes : DTy → Nat
  | .str => 1
  | .domain => 2
  | _ => 0

/-- Whether a type's values travel in segments. -/
def segmented (t : DTy) : Bool := prefixBytes t != 0

/-! ## What is served (R490, R505, R507) -/

/-- Whether a source is served at present, and of which entries: the boot ROM serves some over some transports. -/
def answersFor (s : Node) (src : Option CorudSrc) (idx : Nat) : Option Bool :=
  let mgt : Bool := match src with
    | some (.mgt _) => true
    | _ => false
  let ident := inRange idx 0x1000 0x100F || inRange idx 0x7000 0x7013
  if !nodeRuns s then none
  else match (lifeOf s).boot with
  | .netMp => if mgt then some (ident || idx == 0x8010) else none
  | .hold => if mgt || decide (src = some .i3c) then some (ident || idx == 0x7020) else none
  | .inReset => none
  | _ => some true

/-- Whether the transport exists on the node (R466). -/
def srcExists : CorudSrc → Bool
  | .inband port _ => decide (port < 20)
  | .mailbox b => decide (b < 4)
  | _ => true

/-- Whether a unit can arrive by a source: an in-band one by a front-end port with its link up. -/
def srcUp (s : Node) : CorudSrc → Bool
  | .inband port _ => isFe port && portLink s port
  | _ => true

/-- A unit that is dropped without an answer: too short, or another version (R467). -/
def dropped (p : List Byte) : Bool := decide (p.length < 16) || unitVer p != 1

/-! ## READ -/

/-- Performs a READ: its response. -/
def readUnit (s : Node) (src : Option CorudSrc) (p : List Byte) : List Byte :=
  let fail := fun st => response p st 0 0 0 []
  if answersFor s src (unitIdx p) ≠ some true then fail stNoEntry
  else match dictFind (unitIdx p) (unitSub p) with
  | none => fail stNoEntry
  | some e =>
    if e.acc = .wo then fail stAccess
    else
      let v := prefixed e.ty (entryValue s e (unitIdx p) (unitSub p))
      let off := unitOffset p
      if unitLength p ≠ 0 ∨ (!segmented e.ty ∧ off ≠ 0) ∨ off ≥ v.length then fail stType
      else
        let part := (v.drop off).take (unitRoom src)
        let last := segmented e.ty && decide (off + part.length = v.length)
        response p stOk off (b2n last) 0 part

/-! ## WRITE -/

/-- Effects of a value that has been put into effect, on the units that use it. -/
def entryTakes (s : Node) (idx sub : Nat) (v : List Byte) : Node :=
  match idx, sub with
  | 0x2000, _ => settlePower (endFloor s)
  | 0x2001, 2 => settlePower (endFloor s)
  | 0x2003, 1 => loadSigs s v
  | 0x2003, 2 => fSet s (bLoc .lvCtrl 0) fLvCtrlLearn (leValue v)
  | 0x5000, 5 => if ppsEn s then modTime s fun t => { t with ppsFrom := some (t.ppsFrom.getD s.now) }
    else modTime (setPps s 0) fun t => { t with ppsAt := none, ppsFrom := none, ppsHold := false, ppsAlone := false }
  | _, _ => s

/-- LATCH_CMD. -/
def latchCmd (s : Node) (op : Nat) : Node :=
  match op with
  | 1 => latchCheck s
  | 2 => latchCommitNow s
  | _ => latchDiscard s

/-- RESET: 1 software reset, 2 JOB_WIPE. -/
def resetCmd (s : Node) (op : Nat) : Node × Bool := if op = 1 then (softwareReset s, true) else jobWipe s

/-- A value passes its entry's checks and is applied; false where a rule of the entry refuses it. -/
def applyEntry (s : Node) (idx sub : Nat) (v : List Byte) : Node × Bool :=
  let n := leValue v
  match idx, sub with
  | 0x1010, 7 => (alertAck s n, true)
  | 0x1F00, 2 => (latchCmd s n, true)
  | 0x1F00, 5 => (commitAt s n, true)
  | 0x2001, 1 => if budgetOk s (BitVec.ofNat 64 n) then (budgetWrite s (BitVec.ofNat 64 n), true) else (s, false)
  | 0x7000, 3 => lcsToken s v
  | 0x7001, 3 => svnCommit s n
  | 0x7001, 5 => ownerKey s v
  | 0x7001, 6 => revoke s n
  | 0x7003, 1 => resetCmd s n
  | 0x7004, 1 => debugToken s v
  | 0x7010, _ => bootChunk s (sub - 1) v
  | 0x7011, 0x81 => bootGo s n
  | 0x7011, _ => bootChunk s (127 + sub) v
  | 0x7012, _ => bootChunk s (255 + sub) v
  | 0x7013, _ => bootChunk s (383 + sub) v
  | 0x7020, 1 => (nonceWrite s v, true)
  | 0x7020, 4 =>
    let i := (v.getD 0 0).toNat
    if 4 ≤ i ∧ i ≤ 7 then (extend s i (v.drop 1), true) else (s, false)
  | 0x9000, 1 => if n = 1 then testEnter s else (testExit s, true)
  | _, _ =>
    if isUserCal (idx * 256 + sub) && !calFits s (idx * 256 + sub) n then (s, false)
    else (entryTakes (dictSet s idx sub v) idx sub v, true)

/-- Whether a value lies within its entry's range. -/
def valueFits (e : DEntry) (idx sub : Nat) (v : List Byte) : Bool :=
  match e.ty with
  | .bool => decide (leValue v ≤ 1)
  | .domain => dictLength idx sub v.length
  | .str => false
  | _ => dictRange idx sub (leValue v)

/-- Whether a stored entry's write waits for the configuration store (R477, R478). -/
def writesStore (s : Node) (e : DEntry) : Bool := decide (e.cls = .stored) && s.ctl.corud.flash

/-- Performs the checks from RANGE on with a whole value: the status, or none where the answer waits for the store. -/
def takeValue (s : Node) (src : Option CorudSrc) (p : List Byte) (e : DEntry) (v : List Byte) : Node × Option Nat :=
  let idx := unitIdx p
  let sub := unitSub p
  let key := idx * 256 + sub
  if !valueFits e idx sub v then (s, some stRange)
  else if e.acc = .rws then
    if stageFull s key v then (s, some stStageFull) else (stageValue s key v, some stOk)
  else
    match applyEntry s idx sub v with
    | (t, false) => (t, some stRange)
    | (t, true) =>
      if writesStore s e then
        (modCorud t fun c => { c with storing := c.storing ++ [⟨src, p, key, v⟩] }, none)
      else (t, some stOk)

/-- The assembly of a requester, entry and transport. -/
def assembly (s : Node) (src : CorudSrc) (idx sub : Nat) : Option (List Byte) :=
  (s.ctl.corud.asm.find? fun a => decide (a.src = src) && a.idx == idx && a.sub == sub).map (·.data)

/-- Drops an assembly. -/
def dropAssembly (s : Node) (src : CorudSrc) (idx sub : Nat) : Node :=
  modCorud s fun c => { c with asm := c.asm.filter fun a => !(decide (a.src = src) && a.idx == idx && a.sub == sub) }

/-- Performs a segment of a DOMAIN write (R469). -/
def writeSegment (s : Node) (src : Option CorudSrc) (p : List Byte) (e : DEntry) : Node × Option Nat :=
  let idx := unitIdx p
  let sub := unitSub p
  let before := if unitOffset p = 0 then some [] else src.bind fun x => assembly s x idx sub
  match before with
  | none => (s, some stType)
  | some d =>
    if d.length ≠ unitOffset p then (s, some stType)
    else
      let all := d ++ unitValue p
      let drop := fun (t : Node) => src.elim t fun x => dropAssembly t x idx sub
      if unitLast p then
        if all.length < 2 ∨ descField all 0 2 + 2 ≠ all.length then (s, some stType)
        else
          let (t, st) := takeValue s src p e (all.drop 2)
          if st = none ∨ st = some stOk then (drop t, st) else (t, st)
      else
        let t := drop s
        (src.elim t fun x => modCorud t fun c => { c with asm := c.asm ++ [⟨x, idx, sub, all⟩] }, some stOk)

/-- Performs a WRITE: the state and the status, or none where the answer comes later. -/
def corudPerform (s : Node) (src : Option CorudSrc) (p : List Byte) : Node × Option Nat :=
  let idx := unitIdx p
  let sub := unitSub p
  let inband : Bool := match src with
    | some (.inband _ _) => true
    | _ => false
  if answersFor s src idx ≠ some true then (s, some stNoEntry)
  else match dictFind idx sub with
  | none => (s, some stNoEntry)
  | some e =>
    if inband ∧ dictNat s 0x1010 2 ≠ 1 ∧ !(idx == 0x2001 && sub == 1) then (s, some stTransport)
    else if e.acc = .ro then (s, some stAccess)
    else if unitLength p > unitRoom src ∨ p.length < 16 + unitLength p then (s, some stType)
    else if segmented e.ty then writeSegment s src p e
    else if unitOffset p ≠ 0 ∨ unitLength p ≠ tyBytes e.ty then (s, some stType)
    else takeValue s src p e (unitValue p)

/-- Whether a write is held while the set commits (R486): a staged entry's, or LATCH_CMD. -/
def heldWrite (p : List Byte) : Bool :=
  (unitIdx p == 0x1F00 && unitSub p == 2) || (dictFind (unitIdx p) (unitSub p)).any fun e => decide (e.acc = .rws)

/-- The lead performs a WRITE and answers it. -/
def corudWrite (s : Node) (src : Option CorudSrc) (p : List Byte) : Node :=
  if latchState s = 3 ∧ heldWrite p then modCorud s fun c => { c with held := c.held ++ [(src, p)] }
  else
    let (t, st) := corudPerform s src p
    match st with
    | some v => reply t src p (response p v 0 0 0 [])
    | none => t

/-- The lead performs a request that it takes, or answers it as before (R472). -/
def corudDo (s : Node) (src : CorudSrc) (p : List Byte) : Node :=
  match keptUnit s src p with
  | some u => sendUnit s src u
  | none => if unitOp p = 1 then reply s (some src) p (readUnit s (some src) p) else corudWrite s (some src) p

/-! ## The lead's queue (R487, R488) -/

/-- Sets the queue and MP_STATUS.QUEUED. -/
def setQueue (s : Node) (q : List (CorudSrc × List Byte)) : Node :=
  fSet (modCorud s fun c => { c with queue := q }) (bLoc .mpStatus 0) fMpStatusQueued (min 64 q.length)

/-- Whether a unit is a BUDGET write. -/
def isBudget (p : List Byte) : Bool := unitOp p == 2 && unitIdx p == 0x2001 && unitSub p == 1

/-- A request arrives: a repeated one is answered at once, a BUDGET write is performed at once, others queue. -/
def corudArrives (s : Node) (src : CorudSrc) (p : List Byte) : Node :=
  match keptUnit s src p with
  | some u => sendUnit s src u
  | none =>
    if isBudget p then corudDo s src p
    else if s.ctl.corud.queue.length ≥ 64 then replyBusy s src p
    else setQueue s (s.ctl.corud.queue ++ [(src, p)])

/-- The lead starts the oldest request. -/
def corudStarts (s : Node) (src : CorudSrc) (p : List Byte) : Node :=
  match s.ctl.corud.queue with
  | (x, u) :: rest => if x = src ∧ u = p then corudDo (setQueue s rest) src p else s
  | [] => s

/-- A Corud request of one operation: it arrives, or the lead starts it. -/
def corudUnit (s : Node) (op : Nat) (src : CorudSrc) (p : List Byte) (started : Bool) : Host.Outcome Node Fault Refusal :=
  if srcExists src then
    .next (
      if dropped p || unitOp p != op || (answersFor s (some src) (unitIdx p)).isNone then s
      else if started then corudStarts s src p
      else if srcUp s src then corudArrives s src p else s)
  else .fault .noSuchUnit

/-- A Corud READ. -/
def execCoroudRead (src : CorudSrc) (packet : List Byte) (started : Bool) (s : State) : Host.Outcome State Fault Refusal := onNode s fun s =>
  corudUnit s 1 src packet started

/-- A Corud WRITE. -/
def execCoroudWrite (src : CorudSrc) (packet : List Byte) (started : Bool) (s : State) : Host.Outcome State Fault Refusal := onNode s fun s =>
  corudUnit s 2 src packet started

/-- An assembly has had no segment for 1 s. -/
def execCoroudSegmentTimeout (src : CorudSrc) (idx sub : Nat) (s : State) : Host.Outcome State Fault Refusal := onNode s fun s =>
  .next (dropAssembly s src idx sub)

/-- A queued request has waited 50 ms without being started. -/
def execCoroudRequestStale (src : CorudSrc) (packet : List Byte) (s : State) : Host.Outcome State Fault Refusal := onNode s fun s =>
  .next (
    if s.ctl.corud.queue.contains (src, packet) then
      replyBusy (setQueue s (dropFirst (fun x => decide (x = (src, packet))) s.ctl.corud.queue)) src packet
    else s)

/-- The configuration store holds the oldest waiting value, or could not keep it (R477). -/
def execConfigStoreWriteDone (ok : Bool) (s : State) : Host.Outcome State Fault Refusal := onNode s fun s =>
  .next (
    match s.ctl.corud.storing with
    | [] => s
    | w :: rest =>
      let idx := w.key / 256
      let sub := w.key % 256
      let plain := (dictFind idx sub).any fun e => decide (dictDefault e sub = w.val)
      let keep := fun (c : Corud) => if ok then { c with store := tblSet none c.store w.key (if plain then none else some w.val) } else c
      let s1 := modCorud s fun c => { keep c with storing := rest }
      reply s1 w.src w.unit (response w.unit (if ok then stOk else stStoreFailed) 0 0 0 []))

/-! ## Commands that name an entry's write directly -/

/-- A WRITE unit of a numeric entry, for a command that is no Corud request. -/
def ownUnit (idx sub : Nat) (v : List Byte) : List Byte := makeUnit 2 0 idx sub 0 0 0 0 v

/-- Performs such a command; its sender hears whether it was accepted. -/
def ownWrite (s : Node) (idx sub : Nat) (v : List Byte) : Node :=
  let p := ownUnit idx sub v
  if latchState s = 3 ∧ heldWrite p then withResp (corudWrite s none p) .none
  else
    let (t, st) := corudPerform s none p
    withResp t (if st = none ∨ st = some stOk then .done else .refused)

/-- A user offset is written (R479). -/
def execUserCalibrationWrite (idx sub : Nat) (value : Word) (s : State) : Host.Outcome State Fault Refusal := onNode s fun s =>
  .next (
    match dictFind idx sub with
    | some e => if isUserCal (idx * 256 + sub) then ownWrite s idx sub (leBytes (tyBytes e.ty) value.toNat) else withResp s .refused
    | none => withResp s .refused)

/-- CHECK. -/
def execLatchCheck (s : State) : Host.Outcome State Fault Refusal := onNode s fun s => .next (ownWrite s 0x1F00 2 [1])

/-- COMMIT_NOW. -/
def execLatchCommitNow (s : State) : Host.Outcome State Fault Refusal := onNode s fun s => .next (ownWrite s 0x1F00 2 [2])

/-- DISCARD. -/
def execLatchDiscard (s : State) : Host.Outcome State Fault Refusal := onNode s fun s => .next (ownWrite s 0x1F00 2 [3])

/-- COMMIT_AT. -/
def execCommitAtWrite (value : Word) (s : State) : Host.Outcome State Fault Refusal := onNode s fun s =>
  .next (ownWrite s 0x1F00 5 (leBytes 8 value.toNat))

/-- ALERT_ACK. -/
def execAlertAckWrite (value : Nat) (s : State) : Host.Outcome State Fault Refusal := onNode s fun s =>
  .next (ownWrite s 0x1010 7 (leBytes 2 value))

/-- The apply instant comes: the set is applied, and the writes held meanwhile are performed (R484, R486). -/
def execLatchApply (s : State) : Host.Outcome State Fault Refusal := onNode s fun s =>
  .next (
    match s.ctl.corud.apply with
    | some t =>
      if s.now < t then s
      else
        let held := s.ctl.corud.held
        let s1 := latchApply (modCorud s fun c => { c with held := [] })
        held.foldl (fun s (src, p) => corudWrite s src p) s1
    | none => s)

/-! ## Telemetry (R489) -/

/-- Sends a REPORT unit to TELEM_DEST: 1 MGT, 2 to 5 a front-end port. -/
def sendReport (s : Node) (dest da : Nat) (u : List Byte) : Node :=
  if dest = 1 then sendOut s ⟨20, 0, .corud, [da], u⟩
  else if 2 ≤ dest ∧ dest ≤ 5 then sendFrame s ⟨5 * (dest - 2) + 4, 0, .corud, [da], u⟩
  else s

/-- A REPORT unit of an entry. -/
def reportUnit (idx sub k : Nat) (v : List Byte) : List Byte := makeUnit 0x83 0 idx sub 0 0 (if k = 0 then 0 else 2) k v

/-- The telemetry entries, in order. -/
def reportList : List (Nat × Nat) :=
  (List.range 12).map (fun i => (0x8000, i + 1)) ++ (List.range 16).map (fun i => (0x8002, i + 1)) ++ (List.range 4).map fun i => (0x8003, i + 1)

/-- Where the lead's REPORT units go, and to which address: TELEM_DEST, or in hold mode an MGT broadcast (R507). -/
def reportDest (s : Node) : Nat × Nat :=
  let d := dictNat s 0x1010 4
  if (lifeOf s).boot = .hold then (1, 2 ^ 48 - 1) else (bits d 50 48, bits d 47 0)

/-- Offers the error records that wait and satisfy `now`, one in each unit; those of severity PART and NODE are never
marked as decimated. -/
def offerRecords (s : Node) (k : Nat) (now : ErrRec → Bool) : Node :=
  let units := (s.reports.filter now).map fun r =>
    reportUnit 0x8010 1 (if r.sev ≥ sevPart then 0 else k) (prefixed .domain (errRecBytes r))
  units.foldl (fun s u => sendReport s (reportDest s).1 (reportDest s).2 u) { s with reports := s.reports.filter fun r => !now r }

/-- The lead forwards the records of severity PART and NODE at once, as it does before the node leaves (R399, R413). -/
def forwardRecords (s : Node) : Node :=
  if !nodeRuns s || (reportDest s).1 == 0 then s else offerRecords s 0 fun r => decide (r.sev ≥ sevPart)

/-- A telemetry period: while behind, every 2^k-th report is sent; k, where no rule gives it, is free. Records of
severity PART and NODE are never held back. In hold mode the boot ROM offers the records alone (R507). -/
def execTelemetryReport (behind : Bool) (s : State) : Host.Outcome State Fault Refusal := onNode s fun s =>
  .next (
    let hold := (lifeOf s).boot == .hold
    if !nodeRuns s || (reportDest s).1 == 0 then s
    else
      let k := if behind then 1 + Config.freeNat s.fresh % 6 else 0
      let due := s.ctl.corud.beat % 2 ^ k == 0
      let s1 := modCorud (bump s) fun c => { c with decim := k, beat := c.beat + 1 }
      let tele := if due && !hold then reportList.filterMap fun (i, j) =>
        (dictFind i j).map fun e => reportUnit i j k (entryValue s1 e i j) else []
      let s2 := tele.foldl (fun t u => sendReport t (reportDest s).1 (reportDest s).2 u) s1
      offerRecords s2 k fun r => due || hold || decide (r.sev ≥ sevPart))

/-- Each second while a network image is awaited, a REPORT unit with INDEX 0x7010 is broadcast over MGT (R505). -/
def execNetbootReport (s : State) : Host.Outcome State Fault Refusal := onNode s fun s =>
  .next (if nodeRuns s && awaitsImage s then sendReport s 1 (2 ^ 48 - 1) (reportUnit 0x7010 0 0 []) else s)

/-! ## The management processors (R490, R492) -/

/-- Follower `base` claims the lead: it takes over every transport; requests in progress at the old lead are lost. -/
def execMpLeadClaim (base : Nat) (s : State) : Host.Outcome State Fault Refusal := onNode s fun s =>
  onBase base (
    let old := leadDie s
    let l := bLoc .mpStatus 0
    let alive := fGet s l fMpStatusAlive
    if !nodeRuns s || base == old || !bit alive base then s
    else
      let s1 := fSet (fSet s l fMpStatusLead base) l fMpStatusAlive (alive - (alive &&& 1 <<< old))
      let s2 := fSet s1 l fMpStatusFailovers (min (2 ^ 32 - 1) (fGet s l fMpStatusFailovers + 1))
      let s3 := setQueue (modCorud s2 fun c => { c with held := [], asm := [], kept := [], storing := [], mailbox := [], decim := 0 }) []
      let s4 := (List.range 4).foldl (fun s b => fSet s (bLoc .mbStatus b) fMbStatusBusy 0) s3
      logErr s4 (12 + base) 0x80 0x0A20 0 [(1, old), (1, base)])

/-- A store to MB_REQ: the unit in HBM, read through the home, is taken to the lead; one that cannot be read or is
dropped ends the request. -/
def mbReq (s : Node) (b : Nat) (v : Word) : Node :=
  let l := bLoc .mbStatus b
  let a := wbits v 55 4 * 16
  let s0 := agentTouch s b clsDma a 16
  let n := 16 + unitLength (readBytes s0 a 16)
  if fGet s l fMbStatusBusy = 1 then fSet s l fMbStatusOvf 1
  else if !inHbm s a 16 then s
  else
    let s1 := if inHbm s a n then agentTouch s0 b clsDma a n else s0
    match firstPoison s1 a n with
    | some line => poisonAgent s1 (12 + b) 0x80 line
    | none =>
      let p := readBytes s1 a n
      let op := unitOp p
      if !inHbm s a n || dropped p || (op != 1 && op != 2) || (answersFor s (some (.mailbox b)) (unitIdx p)).isNone then s1
      else corudArrives (fSet s1 l fMbStatusBusy 1) (.mailbox b) p

def execMbReqWrite (base : Nat) (value : Word) (s : State) : Host.Outcome State Fault Refusal := onServed s fun s =>
  onBase base (withResp (mbReq s base value) .done)

/-- The lead writes a mailbox's response, sets DONE and signals source 57. -/
def execMbResponse (base : Nat) (s : State) : Host.Outcome State Fault Refusal := onServed s fun s =>
  onBase base (
    match tblGet none s.ctl.corud.mailbox base with
    | none => s
    | some u =>
      let l := bLoc .mbStatus base
      let a := fGet s (bLoc .mbResp base) fMbRespAddr * 16
      let s1 := modCorud s fun c => { c with mailbox := tblSet none c.mailbox base none }
      let s2 := if inHbm s a u.length then agentWrite s1 base a u false else s1
      signal (fSet (fSet (fSet s2 l fMbStatusStatus (descField u 7 1)) l fMbStatusBusy 0) l fMbStatusDone 1) base 57)

end Sys2Proof.Machine
end

