-- ==== Sys2Proof/Machine/TimedEvents.lean ====
section
/-! DEFINITION. Timed events (R434 to R437). -/

namespace Sys2Proof.Machine

/-- Words of a timed-event entry. -/
def teLoc (e w : Nat) : RegLoc := bLoc .teEntry 0 [e, w]
def teTime (s : Node) (e : Nat) : Nat := (regGet s (teLoc e 0)).toNat
def teCtrl (s : Node) (e : Nat) : Word := regGet s (teLoc e 1)
def teArg (s : Node) (e : Nat) : Nat := (regGet s (teLoc e 2)).toNat
def teArmed (s : Node) (e : Nat) : Bool := wbit (teCtrl s e) 63
def teKind (s : Node) (e : Nat) : Nat := wbits (teCtrl s e) 59 56
def tePeriod (s : Node) (e : Nat) : Nat := wbits (teCtrl s e) 47 0

/-- Word 1 as stored: reserved bits read zero, and a bad KIND or a reserved bit clears ARMED (R435). -/
def teWord1 (v : Word) : Word :=
  let k := wbits v 59 56
  let bad := k == 0 || decide (k ≥ 7) || wbits v 62 60 != 0 || wbits v 55 48 != 0
  let w := wput (wput v 62 60 0) 55 48 0
  if bad then wput w 63 63 0 else w

/-- A store to a word of an entry as the table takes it; word 3 is read only. -/
def teStore (s : Node) (e w : Nat) (v : Word) : Node :=
  if w = 1 then regSet s (teLoc e 1) (teWord1 v) else if w < 3 then regSet s (teLoc e w) v else s

/-- Whether an armed entry's TIME is reached. -/
def teDue (s : Node) (e : Nat) : Bool := teArmed s e && decide (teTime s e ≤ s.now)

/-- The instant at which an entry became due: its TIME, where a later store did not make it due; an instant that a forward
step passed over, at the step's end. -/
def teDueAt (s : Node) (e : Nat) : Nat :=
  let t := s.ctl.time
  let d := max (teTime s e) (tblGet 0 t.stored e)
  if t.skip.1 < d ∧ d ≤ t.skip.2 then t.skip.2 else d

/-- Whether a due entry acts before another one: those that come due in one cycle act in ascending number (R436). -/
def teBefore (s : Node) (i e : Nat) : Bool :=
  decide (teDueAt s i < teDueAt s e) || (teDueAt s i == teDueAt s e && decide (i < e))

/-- Whether an entry of a kind fires now. -/
def teFires (s : Node) (e kind : Nat) : Bool :=
  teDue s e && teKind s e == kind && !anyBelow 64 fun i => teDue s i && teBefore s i e

/-- TIME after a periodic firing: the first instant of its period beyond the counter (R437). -/
def teNext (s : Node) (e : Nat) : Nat :=
  let p := tePeriod s e * 1000
  teTime s e + p * ((s.now - teTime s e) / p + 1)

/-- The firing of an entry: FIRED, EVENTS_FIRED, lateness, and the entry disarmed or moved to its next period. -/
def teFire (s : Node) (e : Nat) : Node :=
  let late := s.now - teTime s e
  let s1 := ftCount (regSet s (bLoc .teFired 0 [e]) (BitVec.ofNat 64 s.now)) 3
  let s2 := if late > dictNat s 0x5000 7 then logErr (ftCount s1 4) 12 0x60 0x0A42 0 [(1, e), (8, late)] else s1
  if tePeriod s e = 0 then regSet s2 (teLoc e 1) (wput (teCtrl s e) 63 63 0)
  else regSet s2 (teLoc e 0) (BitVec.ofNat 64 (teNext s e))

/-- Fires an entry of a kind, with its action. -/
def teRun (s : Node) (e kind : Nat) (act : Node → Node) : Host.Outcome Node Fault Refusal :=
  onUnit 64 e (if teFires s e kind then act (teFire s e) else s)

/-- The actions (R435). -/
def teLatchAct (s : Node) (e : Nat) : Node := latchFire s (bits (teArg s e) 15 0)

/-- CUT: a periodic entry adds 1 to the cut number. -/
def teCutAct (s : Node) (e : Nat) (periodic : Bool) : Node :=
  let n := bits (teArg s e) 31 0
  startCut (if periodic then regSet s (teLoc e 2) (wput (regGet s (teLoc e 2)) 31 0 ((n + 1) % 2 ^ 32)) else s) n

def teHoldAct (s : Node) (e : Nat) : Node := (List.range 4).foldl (fun s b => setShgHold s b (bit (teArg s e) 0)) s
def teSignalAct (s : Node) (e : Nat) : Node := addDep s (bits (teArg s e) 41 32) (bits (teArg s e) 31 0)

/-- ARM: consecutive arm descriptors. -/
def teArmAct (s : Node) (e : Nat) : Node :=
  let a := bits (teArg s e) 55 6 * 64
  (List.range (bits (teArg s e) 63 56 + 1)).foldl (fun s i => armWrite s (BitVec.ofNat 64 (a + 64 * i))) s

def teLouvreAct (s : Node) (e : Nat) : Node := forcePhase s (bits (teArg s e) 4 0)

/-- LATCH. -/
def execTeLatch (e : Nat) (s : State) : Host.Outcome State Fault Refusal := onNode s fun s => teRun s e 1 fun t => teLatchAct t e

/-- CUT. -/
def execTeCut (e : Nat) (s : State) : Host.Outcome State Fault Refusal := onServed s fun s =>
  teRun s e 2 fun t => teCutAct t e (tePeriod s e != 0)

/-- HOLD of the four slices. -/
def execTeHold (e : Nat) (s : State) : Host.Outcome State Fault Refusal := onServed s fun s => teRun s e 3 fun t => teHoldAct t e

/-- SIGNAL. -/
def execTeSignal (e : Nat) (s : State) : Host.Outcome State Fault Refusal := onNode s fun s => teRun s e 4 fun t => teSignalAct t e

/-- ARM. -/
def execTeArm (e : Nat) (s : State) : Host.Outcome State Fault Refusal := onNode s fun s => teRun s e 5 fun t => teArmAct t e

/-- LOUVRE. -/
def execTeLouvre (e : Nat) (s : State) : Host.Outcome State Fault Refusal := onNode s fun s => teRun s e 6 fun t => teLouvreAct t e

/-! ## Stores -/

/-- The due entry that acts first. -/
def teFirst (s : Node) : Option Nat :=
  firstBelow 64 fun e => teDue s e && !anyBelow 64 fun i => teDue s i && teBefore s i e

/-- Fires an entry with its action, of whatever kind. -/
def teAct (s : Node) (e : Nat) : Node :=
  let t := teFire s e
  match teKind s e with
  | 1 => teLatchAct t e
  | 2 => teCutAct t e (tePeriod s e != 0)
  | 3 => teHoldAct t e
  | 4 => teSignalAct t e
  | 5 => teArmAct t e
  | _ => teLouvreAct t e

/-- Fires the due entries in their order until one of them has fired. -/
def teUpTo : Nat → Node → Nat → Node
  | 0, s, _ => s
  | n + 1, s, e =>
    match teFirst s with
    | none => s
    | some i => if i = e then teAct s i else teUpTo n (teAct s i) e

/-- A store to an entry (R436): one that clears ARMED where the entry is due prevents the firing; any other is applied
after it. -/
def teWrite (s : Node) (e w : Nat) (v : Word) : Node :=
  let clears := w == 1 && !wbit (teWord1 v) 63
  let t := if teDue s e && !clears then teUpTo 64 s e else s
  if w < 3 then modTime (teStore t e w v) fun x => { x with stored := tblSet 0 x.stored e t.now } else t

/-- A store to a timed-event entry. -/
def execTeEntryWrite (e w : Nat) (value : Word) (s : State) : Host.Outcome State Fault Refusal := onServed s fun s =>
  onUnit 64 e (if w < 4 then withResp (teWrite s e w value) .done else s)

end Sys2Proof.Machine
end

