-- ==== Sys2Proof/Machine/Boot.lean ====
section
/-! DEFINITION. Power, reset, boot and life-cycle commands (21_reset_boot_lifecycle.md), rails and clocks (R536, R538). -/

namespace Sys2Proof.Machine

/-! ## Reset (R494 to R500) -/

/-- Whether a reset may be released: powered, RESET_N high, in reset, not stopped. -/
def mayRelease (s : Node) : Bool :=
  let l := lifeOf s
  l.pwrok && l.resetN && l.boot == .inReset && !l.stopped && !l.trip

/-- PWROK rises; with RESET_N high this is reset release. -/
def execPwrokRise (found : BootIn) (s : State) : Host.Outcome State Fault Refusal := onNode s fun s =>
  .next (
    if (lifeOf s).pwrok then s
    else
      let s1 := modLife s fun l => { l with pwrok := true }
      if mayRelease s1 then release s1 found else s1)

/-- PWROK falls: the node is reset at once. -/
def execPwrokFall (s : State) : Host.Outcome State Fault Refusal := onNode s fun s =>
  .next (if (lifeOf s).pwrok then modLife (coldReset (setReady s false)) fun l => { l with pwrok := false } else s)

/-- RESET_N has been low for 1 µs: a pin reset, or a cold power-up again before READY has first risen (R496). -/
def execResetNAssert (s : State) : Host.Outcome State Fault Refusal := onNode s fun s =>
  .next (
    let l := lifeOf s
    let s1 := modLife s fun l => { l with resetN := false }
    if !l.resetN || !l.pwrok || l.stopped || l.trip then s1
    else if l.boot = .inReset then
      if l.leaving then
        modLife ((List.range 4).foldl (fun s b => fSet s (bLoc .rstCause b) fRstCauseCause rstPin) s1) fun l => { l with leaving := false }
      else s1
    else if l.cold && !l.readied then coldReset s1
    else warmReset s1 rstPin false)

/-- RESET_N returns high. -/
def execResetNRelease (found : BootIn) (s : State) : Host.Outcome State Fault Refusal := onNode s fun s =>
  .next (
    if (lifeOf s).resetN then s
    else
      let s1 := modLife s fun l => { l with resetN := true }
      if mayRelease s1 then release s1 found else s1)

/-- SEC_CMD or Corud RESET 1. -/
def execSoftwareReset (s : State) : Host.Outcome State Fault Refusal := onNode s fun s => .next (withResp (softwareReset s) .done)

/-- A self-timed warm reset releases. -/
def execWarmResetRelease (found : BootIn) (s : State) : Host.Outcome State Fault Refusal := onNode s fun s =>
  .next (if (lifeOf s).leaving && mayRelease s then release s found else s)

/-! ## Boot (R498 to R506) -/

/-- The stacks that train come ON (R258): those neither fenced nor failed. -/
def stacksOn (s : Node) : Node :=
  (List.range 12).foldl (fun s k => if stackState s k = 0 then setStackState s k 1 else s) s

/-- HBM training ends: HBM is wiped, and the firmware turns to the host boot image. -/
def execHbmTrainingDone (s : State) : Host.Outcome State Fault Refusal := onNode s fun s =>
  .next (
    let l := lifeOf s
    if l.boot ≠ .boot ∨ l.mp.isNone ∨ l.trained ∨ !nodeRuns s then s
    else
      let s1 := modLife (stacksOn s) fun l => { l with trained := true }
      seekHost { s1 with mem := [], poison := [], stale := [] })

/-- PORT_CTRL as PORT_SETUP gives it, with EN (R473). -/
def portSetup (s : Node) (p : Nat) : Word :=
  let v := dictNat s 0x4030 (if isFe p then 0x11 + p / 5 else fpOfPort p + 1)
  let w := bits v 31 24 <<< 56 + bits v 23 16 <<< 48 + bits v 15 8 <<< 16 + bits v 4 4 <<< 12 + bits v 3 0 <<< 8 + 1
  BitVec.ofNat 64 w

/-- Ports, Dziger engines and Shingle slices are enabled (R499 step 12). -/
def enableUnits (s : Node) : Node :=
  let s1 := (List.range 20).foldl (fun s p => portWrite s p (portSetup s p)) s
  (List.range 4).foldl (fun s b => enableWrite (enableWrite s (bLoc .dzCtrl b) true) (bLoc .shgCtrl b) true) s1

/-- The stored configuration is applied, the ports are enabled, and READY rises (R501). -/
def execReadyRise (s : State) : Host.Outcome State Fault Refusal := onNode s fun s =>
  .next (
    let l := lifeOf s
    if l.boot = .up ∧ l.host ∧ l.trained ∧ !l.ready ∧ !testMode s ∧ nodeRuns s then setReady (enableUnits s) true else s)

/-- Answers whether a write was accepted. -/
def accepted (r : Node × Bool) : Host.Outcome Node Fault Refusal := .next (withResp r.1 (if r.2 then .done else .refused))

/-- A network boot chunk. -/
def execBootChunkWrite (chunk : Nat) (data : List Byte) (s : State) : Host.Outcome State Fault Refusal := onNode s fun s => accepted (bootChunk s chunk data)

/-- BOOT_GO. -/
def execBootGoWrite (length : Nat) (s : State) : Host.Outcome State Fault Refusal := onNode s fun s => accepted (bootGo s length)

/-! ## Security (R506 to R517) -/

/-- SVN_COMMIT. -/
def execSvnCommit (kind : Nat) (s : State) : Host.Outcome State Fault Refusal := onNode s fun s => accepted (svnCommit s kind)

/-- LCS_TOKEN. -/
def execLcsTokenWrite (token : List Byte) (s : State) : Host.Outcome State Fault Refusal := onNode s fun s => accepted (lcsToken s token)

/-- DEBUG_TOKEN. -/
def execDebugTokenWrite (token : List Byte) (s : State) : Host.Outcome State Fault Refusal := onNode s fun s => accepted (debugToken s token)

/-- OWNER_KEY. -/
def execOwnerKeyWrite (hash : List Byte) (s : State) : Host.Outcome State Fault Refusal := onNode s fun s => accepted (ownerKey s hash)

/-- REVOKE. -/
def execRevokeWrite (slot : Nat) (s : State) : Host.Outcome State Fault Refusal := onNode s fun s => accepted (revoke s slot)

/-- NONCE: 32 bytes. -/
def execNonceWrite (nonce : List Byte) (s : State) : Host.Outcome State Fault Refusal := onNode s fun s =>
  accepted (if nonce.length = 32 then (nonceWrite s nonce, true) else (s, false))

/-- An extension of M4 to M7 by a 64-byte digest. -/
def execMeasurementExtend (index : Nat) (digest : List Byte) (s : State) : Host.Outcome State Fault Refusal := onNode s fun s =>
  accepted (if 4 ≤ index ∧ index ≤ 7 ∧ digest.length = 64 then (extend s index digest, true) else (s, false))

/-- JOB_WIPE. -/
def execJobWipe (s : State) : Host.Outcome State Fault Refusal := onNode s fun s => accepted (jobWipe s)

/-- The job wipe ends. -/
def execJobWipeDone (s : State) : Host.Outcome State Fault Refusal := onNode s fun s =>
  .next (if (lifeOf s).wiping then setSec (modLife s fun l => { l with wiping := false }) fSecStatusJwBusy 0 else s)

/-! ## Rails and clocks (R536, R538) -/

/-- A rail below its tolerance for 10 µs. -/
def execRailUndervoltage (s : State) : Host.Outcome State Fault Refusal := onNode s fun s => .next (stopNode s false)

/-- A core PLL without lock for 10 µs. -/
def execCorePllLockLoss (s : State) : Host.Outcome State Fault Refusal := onNode s fun s => .next (stopNode s false)

/-- The ports of a base die. -/
def portsOf (b : Nat) : List Nat := (List.range 5).map (5 * b + ·)

/-- A SerDes reference is lost: every port of its base die goes down with LOS. -/
def execRefclkSdsLoss (base : Nat) (s : State) : Host.Outcome State Fault Refusal := onNode s fun s =>
  onBase base ((portsOf base).foldl (fun s p => modPort (linkFalls s p 1) p fun x => { x with training := false }) s)

/-- It returns: the ports train again. -/
def execRefclkSdsReturn (base : Nat) (s : State) : Host.Outcome State Fault Refusal := onNode s fun s =>
  onBase base ((portsOf base).foldl (fun s p =>
    if isOn s (portCtrlLoc p) && !portLink s p then modPort s p fun x => { x with training := true } else s) s)

end Sys2Proof.Machine
end

