-- ==== Sys2Proof/Machine/Net.lean ====
section
/-! DEFINITION. The bridge edges (R281 to R297): frames and replays, wire tests and the Shutter, route switches. -/

namespace Sys2Proof.Machine

/-- Runs `t` for a bundle direction the node has. -/
def onBundle (e d k : Nat) (t : Node) : Host.Outcome Node Fault Refusal :=
  if e < 4 ∧ d < 2 ∧ k < 64 then .next t else .fault .noSuchUnit

/-- A route switch starts (R291). -/
def startSwitch (s : Node) : Node :=
  (List.range 4).foldl (fun s b => fSet s (bLoc .netRoute b) fNetRouteSwitching 1) s


/-- The base dies that a list of open edges reaches from a die, by repeated steps. -/
def reachFrom : Nat → List Nat → List Nat → List Nat
  | 0, _, have_ => have_
  | n + 1, edges, have_ =>
    let more := edges.flatMap fun e =>
      let (a, b) := edgeEnds e
      if have_.contains a && !have_.contains b then [b] else if have_.contains b && !have_.contains a then [a] else []
    reachFrom n edges (have_ ++ more.eraseDups)

/-- The lowest-numbered base die still in service: none whose loss is known. -/
def lowestBase (s : Node) : Nat := (firstBelow 4 fun b => !s.leaveDue.contains (.baseDie b)).getD 0

/-- When two edges are DOWN the base dies cut off from the lowest in service are lost (R292). -/
def checkReach (s : Node) (wasDown : Nat) : Node :=
  let up := (List.range 4).filter fun e => edgeCond s e ≠ 2
  let lost := (List.range 4).filter fun b => !(reachFrom 4 up [lowestBase s]).contains b && !s.leaveDue.contains (.baseDie b)
  if up.length ≤ 2 ∧ wasDown < 2 ∧ lost ≠ [] then
    let s1 := logErr s (12 + lowestBase s) 0x30 0x0506 0 []
    { s1 with leaveDue := s1.leaveDue ++ lost.map LeaveCause.baseDie }
  else s

/-- Edges that are DOWN. -/
def downCount (s : Node) : Nat := ((List.range 4).filter fun e => edgeCond s e == 2).length

/-- Both base dies of an edge are signalled (R288). -/
def signalEdge (s : Node) (e : Nat) : Node := signal (signal s (edgeEnds e).1 56) (edgeEnds e).2 56

/-! ## Frames (R282, R285) -/

/-- A CRC failure is counted within its millisecond; the count, or eight replays of one frame, calls for a wire test. -/
def crcFailed (s : Node) (e : Nat) (x : Bundle) : Bundle :=
  let ms := s.now / 1000000
  let n := if x.crcMs = ms then x.crcFails + 1 else 1
  { x with crcMs := ms, crcFails := n
           testDue := x.testDue || decide (n ≥ max 1 (fGet s (edgeLoc .edgeCtrl e) fEdgeCtrlCrcThr)) }

/-- The replay buffer after a frame is sent: its last 64 frames, and those not yet delivered (R282). A number sent before is a
replay. -/
def keepFrame (x : Bundle) (seq msg : Nat) : List (Nat × Nat) :=
  if seq < x.sent then x.kept
  else (x.kept ++ [(seq, msg % 2 ^ 992)]).filter fun p => decide (p.1 + 64 > seq) || decide (p.1 ≥ x.recvSeq)

/-- The message that a frame carries, as its sender keeps it. -/
def keptMsg (x : Bundle) (seq : Nat) : Nat := ((x.kept.find? fun p => p.1 == seq).map (·.2)).getD 0

/-- A bridge frame arrives: delivered in order, or, the one that is awaited, answered by a NAK; frames behind a failed one wait
for its replay. The sender keeps a new frame's message in its replay buffer, and a replayed frame carries the message kept
there. -/
def execBundleFrameReceive (e d k : Nat) (f : BridgeFrame) (crcOk : Bool) (s : State) : Host.Outcome State Fault Refusal := onNode s fun s =>
  onBundle e d k (
    let x := bundleOf s e d k
    if x.width = 2 ∨ x.testing = true ∨ f.seq ≥ max x.sent (x.recvSeq + 64) then s
    else
      let y := { x with sent := max x.sent (f.seq + 1), kept := keepFrame x f.seq f.msg }
      if !crcOk then modBundle s e d k fun _ => crcFailed s e { y with nak := if f.seq = x.recvSeq ∧ x.nak = none then some f.seq else x.nak }
      else if f.seq = x.recvSeq ∧ x.nak = none then
        modBundle s e d k fun _ => { y with recvSeq := f.seq + 1, replays := 0, msg := keptMsg y f.seq }
      else modBundle s e d k fun _ => y)

/-- A NAK reaches the sender on the bundle of the opposite direction, unless that or its own is closed (R288), and the sender
replays its frames from the failed one. -/
def execBundleNakReceive (e d k : Nat) (s : State) : Host.Outcome State Fault Refusal := onNode s fun s =>
  onBundle e d k (
    let x := bundleOf s e d k
    match x.nak with
    | none => s
    | some f =>
      if x.width = 2 ∨ (bundleOf s e (1 - d) k).width = 2 then s
      else
        let s1 := cntAdd s (edgeLoc .edgeReplays e) (x.sent - f)
        modBundle s1 e d k fun x =>
          { x with nak := none, replays := x.replays + 1, testDue := x.testDue || decide (x.replays + 1 ≥ 8) })

/-- A wire test starts (R285), also while the edge drains. -/
def execWireTestStart (e d k : Nat) (s : State) : Host.Outcome State Fault Refusal := onNode s fun s =>
  onBundle e d k (
    let x := bundleOf s e d k
    let st := ctrlState s (edgeLoc .edgeCtrl e)
    if x.testDue && x.width != 2 && !x.testing && (st == stOn || st == stDisabling || st == stPending) then
      modBundle (cntAdd s (edgeLoc .edgeWireTests e) 1) e d k fun x => { x with testing := true, testDue := false }
    else s)

/-! ## The Shutter (R286 to R289) -/

/-- The data wire a spare carries. -/
def carries (x : Bundle) (sp : Nat) : Option Nat := tblGet none x.carried sp

/-- Whether a data wire is carried by a spare. -/
def isCarried (x : Bundle) (w : Nat) : Bool := anyBelow 8 fun sp => carries x sp == some w

/-- The result of a wire test on a bundle: the new bundle, its replacements as wire and spare, and the action: 0 none,
1 spared, 2 halved, 3 closed. -/
structure ShutterRes where
  bundle : Bundle
  spared : List (Nat × Nat)
  action : Nat
  deriving DecidableEq, Repr

/-- Replaces wires by spares, each in turn by the lowest usable one. -/
def spareWires : List Nat → Bundle → List (Nat × Nat) → Bundle × List (Nat × Nat)
  | [], x, out => (x, out.reverse)
  | w :: ws, x, out =>
    match firstBelow 8 fun sp => !bit x.retired sp && (carries x sp).isNone with
    | none => (x, out.reverse)
    | some sp => spareWires ws { x with carried := tblSet none x.carried sp (some w) } ((w, sp) :: out)

/-- A failing wire test at full width (R286, R287). -/
def shutterFull (x : Bundle) (fails : List Nat) : ShutterRes :=
  let spares := (List.range 8).filter fun sp => fails.contains (128 + sp)
  let data := (List.range 128).filter fun w => fails.contains w && !isCarried x w
  let again := spares.filterMap (carries x)
  let newSpares := spares.filter fun sp => !bit x.retired sp
  let x1 := { x with
    retired := x.retired ||| maskOf spares
    carried := x.carried.filter fun p => !spares.contains p.1
    wireFails := min 65535 (x.wireFails + data.length + newSpares.length) }
  let need := (List.range 128).filter fun w => data.contains w || again.contains w
  let usable := (List.range 8).filter fun sp => !bit x1.retired sp && (carries x1 sp).isNone
  if need.length ≤ usable.length then
    let (y, l) := spareWires need x1 []
    ⟨y, l, if l = [] then 0 else 1⟩
  else
    let all := (List.range 128).filter fun w => need.contains w || isCarried x1 w
    let free := ((List.range 8).filter fun sp => !bit x1.retired sp).length
    let low := all.filter (· < 64)
    let high := all.filter (· ≥ 64)
    if low.length ≤ free then
      ⟨(spareWires low { x1 with width := 1, half := 0, carried := [] } []).1, [], 2⟩
    else if high.length ≤ free then
      ⟨(spareWires high { x1 with width := 1, half := 1, carried := [] } []).1, [], 2⟩
    else ⟨{ x1 with width := 2 }, [], 3⟩

/-- A failing wire test at half width (R288): any further failure in the surviving half closes the bundle. -/
def shutterHalf (x : Bundle) (fails : List Nat) : ShutterRes :=
  let data := (List.range 128).filter fun w => fails.contains w && decide (w / 64 = x.half) && !isCarried x w
  let spares := (List.range 8).filter fun sp => fails.contains (128 + sp)
  let x1 := { x with
    retired := x.retired ||| maskOf spares
    wireFails := min 65535 (x.wireFails + data.length + (spares.filter fun sp => !bit x.retired sp).length) }
  if data ≠ [] ∨ spares.any (fun sp => (carries x sp).isSome) = true then ⟨{ x1 with width := 2 }, [], 3⟩ else ⟨x1, [], 0⟩

/-- An edge that becomes DEGRADED is recorded (R289); `was` is its condition before. -/
def noteDegraded (s : Node) (e was : Nat) : Node :=
  if was ≠ 1 ∧ edgeCond s e = 1 then logErr s (12 + (edgeEnds e).1) 0x30 0x0504 0 [] else s

/-- The wires that fail a test, from the bit errors counted on each: 4 or more (R285). -/
def failingWires (errors : List (Nat × Nat)) : List Nat := (errors.filter fun p => p.2 ≥ 4).map (·.1)

/-- What the Shutter does after a test. -/
def testResult (x : Bundle) (errors : List (Nat × Nat)) : ShutterRes :=
  if x.width = 0 then shutterFull x (failingWires errors) else shutterHalf x (failingWires errors)

/-- The messages of a bundle direction that have been sent and not delivered, in order. -/
def undelivered (x : Bundle) : List Nat := (x.kept.filter fun p => decide (p.1 ≥ x.recvSeq)).map (·.2)

/-- Where the undelivered frames of a closed bundle direction go on: the lowest open bundle of the direction, else that of the
first edge of the other way round the ring. -/
def frameTarget (s : Node) (e d : Nat) : Option (Nat × Nat × Nat) :=
  let a := edgeSender e d
  let b := edgeSender e (1 - d)
  ((e, d) :: (crossings [a, 3 - b]).take 1).findSome? fun p =>
    (firstBelow 64 fun k => (bundleOf s p.1 p.2 k).width != 2).map fun k => (p.1, p.2, k)

/-- A bundle direction closes (R282, R288): its failed frame is forgotten, and what it has not delivered is sent in order on
an open bundle, so that no frame is lost. DESIGN CHOICE (log entry 195): which bundle carries them is not stated. -/
def closeBundle (s : Node) (e d k : Nat) : Node :=
  let x := bundleOf s e d k
  let s1 := modBundle s e d k fun x => { x with nak := none, kept := [], sent := x.recvSeq }
  match frameTarget s1 e d with
  | none => s1
  | some (e2, d2, k2) => modBundle s1 e2 d2 k2 fun y =>
    { y with kept := y.kept ++ (undelivered x).mapIdx fun i m => (y.sent + i, m), sent := y.sent + (undelivered x).length }

/-- What a wire test's end does: the Shutter acts, and the bundle is trained again. A frame that failed before the test stays
outstanding until its replay (R282). -/
def endTest (s : Node) (e d k : Nat) (errors : List (Nat × Nat)) : Node :=
  let x := bundleOf s e d k
  let r := testResult x errors
  let down := downCount s
  let cond := edgeCond s e
  let b := 12 + edgeSender e d
  let s1 := modBundle s e d k fun _ => { r.bundle with testing := false, testDue := false, crcFails := 0, replays := 0 }
  let s2 := r.spared.foldl (fun s p => logErr s b 0x30 0x0501 0 [(1, e), (1, d), (1, k), (1, p.1), (1, p.2)]) s1
  if r.action = 0 then s2
  else if r.action = 1 then signalEdge s2 e
  else
    let s3 := signalEdge (logErr s2 b 0x30 (if r.action = 2 then 0x0502 else 0x0503) 0 []) e
    let s4 := startSwitch (if r.action = 2 then s3 else closeBundle s3 e d k)
    if closedCount s4 e d = 64 then
      checkReach (logErr (faultBlock s4 (edgeLoc .edgeCtrl e)) (12 + (edgeEnds e).1) 0x30 0x0505 0 []) down
    else noteDegraded s4 e cond

/-- A wire test ends; its records stand in the order of R404. -/
def execWireTestEnd (e d k : Nat) (errors : List (Nat × Nat)) (s : State) : Host.Outcome State Fault Refusal := onNode s fun s =>
  onBundle e d k (if (bundleOf s e d k).testing then ordered s (endTest s e d k errors) else s)

/-! ## Routes and enables (R291, R296) -/

/-- SWITCHING falls and EPOCH advances in every base die's register. -/
def switchEnds (s : Node) : Node :=
  (List.range 4).foldl (fun s b =>
    fSet (fSet s (bLoc .netRoute b) fNetRouteSwitching 0) (bLoc .netRoute b) fNetRouteEpoch
      ((fGet s (bLoc .netRoute b) fNetRouteEpoch + 1) % 65536)) s

/-- The requests held back by a route switch are sent, in order. -/
def sendHeld (s : Node) : Node :=
  let l := (netOf s).held
  l.foldl (fun s r => homeGo (atHome s r) r.line) (modNet s fun n => { n with held := [] })

/-- Whether a message in flight over a path from one base die to another is on a path or bundle that the switch changes. -/
def onOldPath (s : Node) (p : List Hop) (a b line : Nat) : Bool := decide (p ≠ []) && nextPath s a b (some line) 0 != p

/-- Whether a bundle direction whose map changes has a frame that awaits its replay, or holds frames for a test. -/
def onOldBundle (s : Node) (e d : Nat) : Bool :=
  openList s e d != mapInForce s e d && anyBelow 64 fun k =>
    let x := bundleOf s e d k
    x.width != 2 && (x.nak.isSome || x.testing)

/-- Whether a message sent before the switch on a path or bundle that it changes is still to be delivered (R291): a snoop,
the data or completion of a miss, or a frame. -/
def switchWaits (s : Node) : Bool :=
  (anyBelow 4 fun b => (dirOf s b).snoops.any fun m => onOldPath s m.path b (m.die / 3) m.line) ||
  (anyBelow 12 fun d => !isFenced s d && (dieOf s d).cache.misses.any fun m =>
    m.back.head?.any fun h => onOldPath s m.back (edgeSender h.edge h.dir) (d / 3) m.line) ||
  anyBelow 8 fun i => onOldBundle s (i / 2) (i % 2)

/-- What the switch held back at the homes goes on: transactions whose snoops are answered, and the requests that wait. -/
def settleHomes (s : Node) : Node :=
  (List.range 4).foldl (fun s b => homeNext ((dirOf s b).txns.foldl (fun s t => settleTxn s b t.req.line) s) b) s

/-- A route switch ends (R291): every message sent before has been delivered, the new routes and maps are in force, and
what was held back is sent. -/
def execRouteSwitchDone (s : State) : Host.Outcome State Fault Refusal := onNode s fun s =>
  .next (if switching s && !switchWaits s then settleHomes (sendHeld (takeRoutes (switchEnds s))) else s)

/-- A write of EDGE_CTRL (R296): EN = 0 is refused while another edge is not ON. -/
def edgeWrite (s : Node) (e : Nat) (v : Word) : Node :=
  let l := edgeLoc .edgeCtrl e
  let others := (List.range 4).filter fun x => x ≠ e
  if !wbit v 0 && others.any (fun x => !isOn s (edgeLoc .edgeCtrl x)) then fSet s (edgeLoc .edgeStatus e) fEdgeStatusRefused 1
  else
    let st := ctrlState s l
    let s1 := enableWrite (fSet s l fEdgeCtrlCrcThr (wbits v 31 16)) l (wbit v 0)
    if st = stOn ∧ !wbit v 0 then startSwitch s1 else s1

def execEdgeEnableWrite (e : Nat) (v : Word) (s : State) : Host.Outcome State Fault Refusal := onNode s fun s =>
  onUnit 4 e (withResp (edgeWrite s e v) .done)

/-- The replay buffers of an edge are drained: no frame awaits its replay, no test holds frames (R296). -/
def edgeDrained (s : Node) (e : Nat) : Bool :=
  (List.range 128).all fun i =>
    let x := bundleOf s e (i / 64) (i % 64)
    x.width == 2 || (x.nak.isNone && !x.testing)

/-- An edge's ENABLING or DISABLING ends (R296). -/
def execEdgeStepDone (e : Nat) (s : State) : Host.Outcome State Fault Refusal := onNode s fun s =>
  onUnit 4 e (
    let l := edgeLoc .edgeCtrl e
    let st := ctrlState s l
    if st = stEnabling then
      if closedCount s e 0 = 64 ∨ closedCount s e 1 = 64 then faultBlock s l
      else startSwitch (noteDegraded (ownStepEnds s l) e (edgeCond s e))
    else if (st = stDisabling ∨ st = stPending) ∧ switching s = false ∧ edgeDrained s e = true then ownStepEnds s l
    else s)

end Sys2Proof.Machine
end

