-- ==== Sys2Proof/Machine/TestAccess.lean ====
section
/-! DEFINITION. Test mode, loopbacks, self-tests and boundary scan (22_test_loopbacks.md). -/

namespace Sys2Proof.Machine

/-- Sets a field of every base die's LB_STATUS. -/
def setLb (s : Node) (f : Fld) (v : Nat) : Node := (List.range 4).foldl (fun s b => fSet s (bLoc .lbStatus b) f v) s

/-! ## Test mode (R520) -/

/-- TEST_MODE 1. -/
def execTestModeEnter (s : State) : Host.Outcome State Fault Refusal := onNode s fun s => accepted (testEnter s)

/-- TEST_MODE 0. -/
def execTestModeExit (s : State) : Host.Outcome State Fault Refusal := onNode s fun s => .next (withResp (testExit s) .done)

/-! ## Port loopbacks (R521 to R523) -/

/-- A store to LB_PORT: DEPTH waits for the next ENABLING, PRBS applies at once. While the pattern runs LINK stays 0; no
rule gives the cause of a link that falls so. -/
def lbWrite (s : Node) (p : Nat) (v : Word) : Node :=
  let s1 := storeReg s (portLoc .lbPort p) v
  if !isOn s1 (portCtrlLoc p) || !prbsRuns s1 p then s1
  else
    let s2 := if portLink s1 p then modPort (linkFalls (bump s1) p (Config.freeNat s.fresh % 8)) p fun x => { x with training := false } else s1
    restartCheckers s2 p

def execLbPrbsWrite (port : Nat) (value : Word) (s : State) : Host.Outcome State Fault Refusal := onNode s fun s =>
  onPort port (withResp (lbWrite s port value) .done)

/-- A lane's checker has locked, and has counted bit errors since. -/
def execPrbsCheckerLock (port lane errors : Nat) (s : State) : Host.Outcome State Fault Refusal := onNode s fun s =>
  onPort port (
    if isOn s (portCtrlLoc port) && prbsRuns s port && decide (lane < 8) && bit (portOf s port).lanes lane then
      let l := bLoc .prbsErr (port / 5) [port % 5, lane]
      fSet (fSet s l fPrbsErrNolock 0) l fPrbsErrCount (min (2 ^ 63 - 1) (fGet s l fPrbsErrCount + errors))
    else s)

/-! ## Self-tests (R524, R525) -/

/-- A store to BIST_CMD: OVF while a test runs, REFUSED outside test mode or for an OP that is not listed. -/
def bistStart (s : Node) (op target : Nat) : Node :=
  if s.ctl.test.bist.isSome then setLb s fLbStatusOvf 1
  else if !testMode s || op == 0 || decide (op > 6) then setLb s fLbStatusRefused 1
  else setLb (setLb (modTest s fun t => { t with bist := some (op, target % 2 ^ 17) }) fLbStatusBusy 1) fLbStatusLastOp op

def bistRow (s : Node) (op target : Nat) : Host.Outcome Node Fault Refusal := .next (withResp (bistStart s op target) .done)

/-- SRAM BIST. -/
def execBistSram (target : Nat) (s : State) : Host.Outcome State Fault Refusal := onNode s fun s => bistRow s 1 target

/-- Near-memory BIST. -/
def execBistNearMemory (target : Nat) (s : State) : Host.Outcome State Fault Refusal := onNode s fun s => bistRow s 2 target

/-- HBM MBIST. -/
def execBistHbmMbist (target : Nat) (s : State) : Host.Outcome State Fault Refusal := onNode s fun s => bistRow s 3 target

/-- Logic BIST. -/
def execBistLogic (target : Nat) (s : State) : Host.Outcome State Fault Refusal := onNode s fun s => bistRow s 4 target

/-- HBM PHY loopback. -/
def execBistHbmPhyLoopback (target : Nat) (s : State) : Host.Outcome State Fault Refusal := onNode s fun s => bistRow s 5 target

/-- Bridge loopback: the Shutter state and EDGE_STATUS do not change. -/
def execBistBridgeLoopback (target : Nat) (s : State) : Host.Outcome State Fault Refusal := onNode s fun s => bistRow s 6 target

/-- BIST_RESULT: a count and an entry for each failure, of die or stack, array or lane, and address or wire. -/
def bistResult (fails : List (Nat × Nat × Nat)) : List Byte :=
  let l := fails.take 8191
  leBytes 4 l.length ++ l.flatMap fun (u, a, w) => leBytes 2 (u % 256) ++ leBytes 2 a ++ leBytes 4 w

/-- A test ends with its failures and the targets that failed. -/
def execBistDone (fails : List (Nat × Nat × Nat)) (mask : Nat) (s : State) : Host.Outcome State Fault Refusal := onNode s fun s =>
  .next (
    match s.ctl.test.bist with
    | none => s
    | some (_, target) =>
      let s1 := dictSet (modTest s fun t => { t with bist := none }) 0x9001 1 (bistResult fails)
      setLb (setLb s1 fLbStatusBusy 0) fLbStatusFail (mask &&& target &&& 0xFFFF))

/-! ## Boundary scan (R526, R527) -/

/-- TAP instruction codes. -/
def irIdcode : Nat := 1
def irBypass : Nat := 0xFF

/-- Update-IR with an instruction: those that drive balls act only while READY is low, else BYPASS is selected. -/
def loadIr (s : Node) (code : Nat) : Node :=
  let drives := decide (3 ≤ code) && decide (code ≤ 7)
  if drives && (lifeOf s).ready then
    setLb (modTest s fun t => { t with ir := irBypass, loaded := code }) fLbStatusScanRefused 1
  else modTest s fun t => { t with ir := code, loaded := code }

/-- An instruction that drives balls from the boundary register takes effect on the balls. -/
def driveBalls (s : Node) (code : Nat) : Node :=
  let s1 := loadIr s code
  if s1.ctl.test.ir = code then sendOut s1 ⟨22, 0, .boundary, [code, s1.ctl.test.boundary], []⟩ else s1

/-- TRST_N low: the TAP is reset and holds IDCODE. -/
def execTapReset (s : State) : Host.Outcome State Fault Refusal := onNode s fun s =>
  .next (modTest s fun t => { t with ir := irIdcode, loaded := irIdcode })

/-- IDCODE. -/
def execIdcode (s : State) : Host.Outcome State Fault Refusal := onNode s fun s => .next (withResp (loadIr s irIdcode) (.data 0x1124888F))

/-- SAMPLE/PRELOAD: the update latches take a value; what the cells sample is the balls' own. -/
def execSamplePreload (value : Nat) (s : State) : Host.Outcome State Fault Refusal := onNode s fun s =>
  .next (
    let s1 := modTest (loadIr s 2) fun t => { t with boundary := value }
    withResp (bump s1) (.data (BitVec.ofNat 64 (Config.freeNat s.fresh))))

/-- EXTEST. -/
def execExtest (s : State) : Host.Outcome State Fault Refusal := onNode s fun s => .next (driveBalls s 3)

/-- HIGHZ. -/
def execHighz (s : State) : Host.Outcome State Fault Refusal := onNode s fun s => .next (driveBalls s 4)

/-- CLAMP. -/
def execClamp (s : State) : Host.Outcome State Fault Refusal := onNode s fun s => .next (driveBalls s 5)

/-- EXTEST_PULSE. -/
def execExtestPulse (s : State) : Host.Outcome State Fault Refusal := onNode s fun s => .next (driveBalls s 6)

/-- EXTEST_TRAIN. -/
def execExtestTrain (s : State) : Host.Outcome State Fault Refusal := onNode s fun s => .next (driveBalls s 7)

/-- DTMCS: version 1; the other fields are the transport's own. -/
def execDtmcs (s : State) : Host.Outcome State Fault Refusal := onNode s fun s =>
  .next (withResp (loadIr s 0x10) (.data (BitVec.ofNat 64 (Config.dtmcsRest % 2 ^ 28 * 16 + 1))))

/-- BYPASS: a zero bit. -/
def execBypass (s : State) : Host.Outcome State Fault Refusal := onNode s fun s => .next (withResp (loadIr s irBypass) (.data 0))

end Sys2Proof.Machine
end

