-- ==== Sys2Proof/Machine/Csr.lean ====
section
/-! DEFINITION. The CSR window (01_node_composition.md, R18 to R23): what a read of each register returns, what a store
to it does, and the registers of the common enable state without a row of their own (R294). -/

namespace Sys2Proof.Machine

/-! ## Registers whose value is computed when they are read -/

/-- A word from fields, each a low bit and a value. -/
def packWord (l : List (Nat × Nat)) : Word := BitVec.ofNat 64 (l.foldl (fun a p => a + p.2 <<< p.1) 0)

/-- The computed fields of a register in place of what is stored of them. -/
def withView (s : Node) (l : RegLoc) (v : List (Nat × Nat)) : Word := regGet s l ||| packWord v

/-- GROUP_STATE.RUN (R118). -/
def phaseCode : GPhase → Nat
  | .empty => 0
  | .running => 1
  | .waiting => 2
  | .translation => 3
  | .stopped => 4
  | .ending => 5

/-- Bank states (R56). -/
def bankCode : BankSt → Nat
  | .free => 0
  | .accum => 1
  | .full => 2
  | .discard => 3

/-- GABLE_STATUS (R118). -/
def gableStatusView (s : Node) (g : Nat) : Word :=
  let y := gableOf s g
  packWord ((40, (y.groups.filter fun p => decide (p.2.phase ≠ .empty)).length) ::
    (List.range 4).map fun q => (10 * q, freeRegs y q))

/-- GABLE_STOPPED (R118). -/
def gableStoppedView (s : Node) (g : Nat) : Word :=
  BitVec.ofNat 64 (maskOf ((List.range 64).filter fun k => decide ((groupOf s g k).phase = .stopped)))

/-- GROUP_STATE and GROUP_PC (R118). -/
def groupStateView (s : Node) (g k : Nat) : Word :=
  let x := groupOf s g k
  if x.phase = .empty then 0#64
  else packWord [(32, runMask x), (16, x.fault), (11, x.regs / 8 - 1), (6, x.paths.length - 1), (0, phaseCode x.phase)]

def groupPcView (s : Node) (g k : Nat) : Word :=
  let x := groupOf s g k
  BitVec.ofNat 64 (match x.phase, x.redo with
    | .stopped, l :: _ => l.pc
    | _, _ => runPc x)

/-- CELL_STATUS (R82). -/
def cellStatusView (s : Node) (g c : Nat) : Word :=
  let y := cellOf s g c
  withView s (gLoc .cellStatus g [c]) [(26, y.b1.group), (24, bankCode y.b1.st), (22, y.b1.gang), (16, y.b0.group),
    (14, bankCode y.b0.st), (12, y.b0.gang)]

/-- ELEM_STATUS and GUTTER_STATUS (R145). -/
def elemStatusView (s : Node) (g : Nat) : Word :=
  let e := (gableOf s g).elem
  withView s (gLoc .elemStatus g) [(32, (if e.running then e.pc else e.last) % 256), (29, e.slot % 8), (28, b2n e.running), (27, b2n (e.blocked || e.fseq != 0))]

def gutterStatusView (s : Node) (g : Nat) : Word :=
  let y := gableOf s g
  packWord [(8, y.gutter.length + y.copying.length), (4, entriesOf y 1), (0, entriesOf y 0)]

/-- TS_STATUS and TS_GQ (R183). -/
def tsStatusView (s : Node) (d : Nat) : Word :=
  packWord [(16, poolFree s d), (8, 16 - (schedOf s d).lists.length), (0, fGet s (dLoc .tsStatus d) fTsStatusListOvf)]

def tsGqView (s : Node) (d lg : Nat) : Word :=
  packWord [(16, ((queueOf s d lg).filter (tileReady s)).length), (0, (queueOf s d lg).length)]

/-- An error record's word (R399). -/
def errRecView (s : Node) (b slot w : Nat) : Word :=
  BitVec.ofNat 64 (fieldLE (errRecBytes (tblGet ErrRec.empty (logOf s b).recs slot)) (8 * w) 8)

/-- DIR_STATUS (R230). -/
def dirStatusView (s : Node) (b : Nat) : Word :=
  let x := dirOf s b
  packWord [(32, x.txns.length), (4, x.scan.headD 0), (0, b2n (x.scan ≠ []))]

/-- BUNDLE_STATUS and BUNDLE_SPARES of a bundle direction (R298). -/
def bundleStatusView (s : Node) (e d k : Nat) : Word :=
  let x := bundleOf s e d k
  packWord [(62, x.width), (61, if x.width = 1 then x.half else 0), (40, x.retired),
    (32, maskOf ((List.range 8).filter fun sp => (carries x sp).isSome)), (16, x.wireFails)]
def bundleSparesView (s : Node) (e d k : Nat) : Word :=
  let x := bundleOf s e d k
  packWord ((List.range 8).filterMap fun sp => (carries x sp).map fun w => (8 * sp, 128 + w))

/-- EDGE_STATUS (R298). -/
def edgeStatusView (s : Node) (e : Nat) : Word :=
  packWord [(32, closedCount s e 1), (24, halfCount s e 1), (16, closedCount s e 0), (8, halfCount s e 0),
    (7, fGet s (edgeLoc .edgeStatus e) fEdgeStatusRefused), (0, edgeCond s e)]

/-- DZ_STATUS and DZ_PORT (R347). -/
def dzStatusView (s : Node) (b : Nat) : Word :=
  packWord [(32, maskOf ((List.range 4).filter fun i => inSpray s (4 * b + i))), (0, contexts s b)]

def dzPortView (s : Node) (b i : Nat) : Word := wput (regGet s (bLoc .dzPort b [i])) 60 60 (b2n (inSpray s (4 * b + i)))

/-- LEDGER_STATUS (R398): a mirror is configured and has not been lost. -/
def ledgerStatusView (s : Node) (b : Nat) : Word :=
  let w := wput (regGet s (bLoc .ledgerStatus b)) 30 16 (ledEntries s b).length
  wput w 3 3 (b2n (mirrorMode s != 0 && !s.mirror.lost))

/-- REASON_TOTAL_US (R465): completed episodes and the one in progress. -/
def reasonTotalView (s : Node) (r : Nat) : Word :=
  let since := tblGet 0 (lvOf s).since r
  let ns := tblGet 0 (lvOf s).total r + (if since = 0 then 0 else s.now + 1 - since)
  BitVec.ofNat 64 (min (ns / 1000) (2 ^ 64 - 1))

/-- The value of a register, before a read clears anything. -/
def csrValue (s : Node) (by_ : Sender) (l : RegLoc) : Word :=
  let g := l.scope * 16 + l.blk
  let d := l.scope
  let b := l.scope - 12
  let i := l.idx.headD 0
  let w := (l.idx.drop 1).headD 0
  match l.id with
  | .gableStatus => gableStatusView s g
  | .gableStopped => gableStoppedView s g
  | .copyStatus => withView s l [(8, (gableOf s g).copies.length)]
  | .cellStatus => cellStatusView s g i
  | .groupState => groupStateView s g i
  | .groupPc => groupPcView s g i
  | .elemStatus => elemStatusView s g
  | .gutterStatus => gutterStatusView s g
  | .glaunchStatus => wput (regGet s l) 0 0 (b2n (gableOf s g).launch.isSome)
  | .dieStatus => wput (regGet s l) 0 0 (b2n (dieOf s d).aborting)
  | .tcStatus => packWord [(0, (dieOf s d).tlb.length)]
  | .tsStatus => tsStatusView s d
  | .tsListAddr =>
    match by_ with
    | .core c => BitVec.ofNat 64 (tblGet 0 (schedOf s d).listAddr c)
    | .mp n => BitVec.ofNat 64 (tblGet 0 (schedOf s d).listAddr (96 + n))
    | _ => 0#64
  | .tsGq => tsGqView s d i
  | .mtime => BitVec.ofNat 64 (mtime s)
  | .errRec => errRecView s b i w
  | .aplicM => BitVec.ofNat 64 (aplicRead s true b (4 * i))
  | .aplicS => BitVec.ofNat 64 (aplicRead s false b (4 * i))
  | .dirStatus => dirStatusView s b
  | .edgeStatus => edgeStatusView s i
  | .bundleStatus => bundleStatusView s i w ((l.idx.drop 2).headD 0)
  | .bundleSpares => bundleSparesView s i w ((l.idx.drop 2).headD 0)
  | .dzStatus => dzStatusView s b
  | .dzPort => dzPortView s b i
  | .shgStatus => shgStatusView s b
  | .shgBucket => shgBucketView s b i
  | .wqNotify =>
    match (ledOf s b).notify with
    | [] => 0#64
    | (q, n) :: _ => BitVec.ofNat 64 (2 ^ 63 + q * 2 ^ 48 + n)
  | .wqStatus => wput (regGet s l) 63 61 (wqCond s (64 * b + i))
  | .ledgerStatus => ledgerStatusView s b
  | .ftNs => BitVec.ofNat 64 s.now
  | .ftNsfrac => BitVec.ofNat 64 ((s.now % 2 ^ 48) <<< 16 + s.ctl.time.frac)
  | .reasonTotalUs => reasonTotalView s i
  | .secMeas => BitVec.ofNat 64 (fieldLE (measBytes s i) (8 * w) 8)
  | _ => regGet s l

/-- A read clears the RC fields it returned (R8). -/
def clearRead (s : Node) (l : RegLoc) : Node :=
  let s1 := regSet s l ((regSpec l.id).fields.foldl (fun v f => if f.acc = .rc then wput v f.fld.hi f.fld.lo 0 else v) (regGet s l))
  let k := (l.scope - 12) * 4 + l.idx.headD 0
  match l.id with
  | .portSat => modCorud s1 fun c => { c with sat := tblSet 0 c.sat k (tblGet 0 c.sat k + (regGet s l).toNat) }
  | .levelSat =>
    let j := 16 + l.idx.headD 0
    modCorud s1 fun c => { c with sat := tblSet 0 c.sat j (tblGet 0 c.sat j + (regGet s l).toNat) }
  | .wqNotify => modLed s (l.scope - 12) fun x => { x with notify := x.notify.drop 1 }
  | _ => s1

/-! ## Stores -/

/-- The node a command's meaning leads to; the node itself where it stops. -/
def runRow (s : Node) (f : State → Host.Outcome State Fault Refusal) : Node :=
  match f ⟨[], s⟩ with
  | .next t => t.node
  | _ => s

/-- A store to SEC_CMD, CKPT_CMD, LV_CMD and LEDGER_CMD. -/
def secCmdWrite (s : Node) (v : Word) : Node :=
  match wbits v 1 0 with
  | 1 => softwareReset s
  | 2 => (jobWipe s).1
  | _ => s

def ckptCmdWrite (s : Node) (v : Word) : Node :=
  match wbits v 63 60 with
  | 1 => startCut s (wbits v 31 0)
  | 2 => restoreLocal s
  | 3 => askBuddy s
  | _ => s

def lvCmdWrite (s : Node) (v : Word) : Node :=
  let s1 := if wbit v 0 then clearGuard s else s
  if wbit v 1 then clearLearned s1 else s1

def ledgerCmdWrite (s : Node) (v : Word) : Node :=
  let s1 := if wbit v 1 then ledgerFresh s else s
  if wbit v 0 then startReplay s1 else s1

/-- A store to a register of a compute die that is not fenced. -/
def dieStore (s : Node) (by_ : Sender) (l : RegLoc) (v : Word) : Node :=
  let g := l.scope * 16 + l.blk
  let d := l.scope
  let i := l.idx.headD 0
  let w := (l.idx.drop 1).headD 0
  let agent := match by_ with
    | .core c => c
    | .mp n => 96 + n
    | _ => 0
  match l.id with
  | .dieCmd => if wbit v 0 then dieAbort s d else s
  | .gableCtrl => runRow s (execGableEnableWrite g v)
  | .groupCtrl =>
    match wbits v 1 0 with
    | 1 => runRow s (execGroupResume g i)
    | 2 => runRow s (execGroupKill g i)
    | _ => s
  | .arrivalCnt => runRow s (execArrivalCntWrite g i v)
  | .elemSlot => runRow s (execElemSlotWrite g i w v)
  | .glaunch => runRow s (execGlaunchWrite g v)
  | .tsCtrl => runRow s (execTsEnableWrite d v)
  | .tsListAddr => runRow s (execTsListAddrWrite d agent v)
  | .tsListGo => runRow s (execTsListGoWrite d agent v)
  | .mtimecmp => updateTimers (storeReg s l v) (8 * d + i)
  | .depWatch => runRow s (execDepWatchWrite d i v)
  | .imsicMSeteipnum => runRow s (execImsicSeteipnumWrite (8 * d + i) true v)
  | .imsicSSeteipnum => runRow s (execImsicSeteipnumWrite (8 * d + i) false v)
  | .lpLimit => settlePower (storeReg s l v)
  | _ => storeReg s l v

/-- A store to a register of a base die. -/
def baseStore (s : Node) (l : RegLoc) (v : Word) : Node :=
  let b := l.scope - 12
  let i := l.idx.headD 0
  let w := (l.idx.drop 1).headD 0
  match l.id with
  | .fence => fenceWrite s v
  | .errHead => errHeadWrite s b (wbits v 31 0)
  | .ckptCmd => ckptCmdWrite s v
  | .aplicM => aplicWrite s true b (4 * i) (wbits v 31 0)
  | .aplicS => aplicWrite s false b (4 * i) (wbits v 31 0)
  | .nmcCtrl => nmcCtrlWrite s b v
  | .nmcSeed => runRow s (execNmcSeedWrite b v)
  | .brokerCtrl => runRow s (execBrokerEnableWrite b v)
  | .layout | .layoutRow | .batch => runRow s (execLayoutBatchWrite (regKey l) v)
  | .depCnt => runRow s (execDepCntWrite (256 * b + i) v)
  | .seqEntry =>
    if w = 0 then runRow s (execSeqEntryCommit (1024 * b + i) v)
    else runRow s (execSeqEntryStageWrite (1024 * b + i) w v)
  | .stuSatp => runRow s (execStuSatpWrite v)
  | .stuShoot => stuShoot s b v
  | .fqBase => fqBaseWrite s b v
  | .fqHead => fqHeadWrite s b v
  | .stuResolve =>
    match wbits v 1 0 with
    | 1 => runRow s (execStuResolveRetry ⟨wbits v 63 32, 0⟩)
    | 2 => runRow s (execStuResolveAbort ⟨wbits v 63 32, 0⟩)
    | _ => s
  | .stuMigrate => migrateWrite s b v
  | .stuCntCtrl => stuCntWrite s v
  | .edgeCtrl => edgeWrite s i v
  | .portCtrl => portWrite s (5 * b + i) v
  | .portCtrlFe => portWrite s (5 * b + 4) v
  | .roceQpCmd => qpCommand s b v
  | .roceSqDb => sqDoorbell s b v
  | .mrEntry => mrWrite s i w v.toNat
  | .dzCtrl => dzCtrlWrite s b v
  | .dzCmdBase => dzBaseWrite s b i v.toNat
  | .dzCmdDb => ringDoorbellDz s b v
  | .shgCtrl => shgCtrlWrite s b v
  | .shgArm => armWrite s v
  | .shgCmd => shgCmdWrite s v
  | .shgGroupW0 => groupWrite s i 0 v
  | .shgGroupW1 => groupWrite s i 1 v
  | .ridgeGo => ridgeGoWrite s v
  | .ridgeTree => treeWrite s i w v.toNat
  | .wqComplete => completeStore s v
  | .wqCfg => wqWrite s (64 * b + i) v
  | .wqRing | .wqCq | .wqAcc | .wqStatus => if wqState s (64 * b + i) = stOff then storeReg s l v else s
  | .ledgerCmd => ledgerCmdWrite s v
  | .teEntry => teWrite s i w v
  | .lvCmd => lvCmdWrite s v
  | .lvCtrl | .lvSigW0 | .lvSigW1 => storeReg s l v
  | .mbReq => mbReq s b v
  | .secCmd => secCmdWrite s v
  | .secExtend => secExtend s b v
  | .lbPort => lbWrite s (5 * b + i) v
  | .bistCmd => bistStart s (wbits v 63 60) (wbits v 16 0)
  | _ => storeReg s l v

/-- A store to a register, performed as one indivisible operation (R23). -/
def csrStore (s : Node) (by_ : Sender) (l : RegLoc) (v : Word) : Node :=
  if l.scope < 12 then dieStore s by_ l v else baseStore s l v

/-! ## Accesses -/

/-- Whether a sender reaches the CSR window (R22). -/
def reachesCsr : Sender → Bool
  | .core _ | .mp _ => true
  | _ => false

/-- The register of an access. An edge's registers appear only in the blocks of the base dies it joins (R298). -/
def csrFind (off : Nat) : Option RegLoc :=
  match findReg off with
  | none => none
  | some l =>
    let edge := [RegId.edgeCtrl, .edgeStatus, .edgeReplays, .edgeWireTests, .bundleStatus, .bundleSpares].contains l.id
    let ends := edgeEnds (l.idx.headD 0)
    if edge && l.scope - 12 != ends.1 && l.scope - 12 != ends.2 then none else some l

/-- Whether an access may be performed: a sender that reaches the window, a naturally aligned 64-bit access (R19). -/
def csrAllowed (by_ : Sender) (off size : Nat) : Bool := reachesCsr by_ && size == 8 && off % 8 == 0 && decide (off < 2 ^ 32)

/-- Whether an offset lies in the scope of a fenced die (R21). -/
def csrFenced (s : Node) (off : Nat) : Bool := decide (off / 2 ^ 28 < 12) && isFenced s (off / 2 ^ 28)

/-- A refused access to the CSR window as its sender sees it (R19): a management processor's access error also stands in
its mailbox status, as the status ACCESS of R468. DESIGN CHOICE (log entry 186). -/
def refuseCsr (s : Node) (by_ : Sender) : Node :=
  match by_ with
  | .mp n => withResp (if n < 4 then fSet s (bLoc .mbStatus n) fMbStatusStatus 2 else s) (refusal by_)
  | _ => withResp s (refusal by_)

/-- A store to the CSR window (R19 to R23). -/
def csrWriteOp (s : Node) (by_ : Sender) (off size : Nat) (v : Word) : Node :=
  if !csrAllowed by_ off size then refuseCsr s by_
  else if csrFenced s off then withResp s .done
  else match csrFind off with
    | none => withResp s .done
    | some l => withResp (csrStore s by_ l v) .done

/-- A load from the CSR window (R8, R19 to R23). The debug block of a base die shows its state while debug is open (R528). -/
def csrReadOp (s : Node) (by_ : Sender) (off size : Nat) : Node :=
  if !csrAllowed by_ off size then refuseCsr s by_
  else if csrFenced s off then withResp s (.data (BitVec.allOnes 64))
  else match csrFind off with
    | none =>
      let open_ := decide (12 ≤ off / 2 ^ 28) && decide (off / 2 ^ 20 % 256 = 0xF0) && debugOpen s
      withResp s (.data (if open_ then BitVec.ofNat 64 (Config.analysis off) else 0#64))
    | some l => withResp (clearRead s l) (.data (csrValue s by_ l))

def execCsrWrite (src : Sender) (offset size : Nat) (value : Word) (s : State) : Host.Outcome State Fault Refusal := onServed s fun s =>
  .next (csrWriteOp s src offset size value)

def execRcRegisterRead (src : Sender) (offset size : Nat) (s : State) : Host.Outcome State Fault Refusal := onNode s fun s =>
  .next (csrReadOp s src offset size)

/-! ## The common enable state (R293, R294) -/

/-- Whether a register has the common EN and STATE fields. -/
def hasEnable (id : RegId) : Bool :=
  [RegId.gableCtrl, .tsCtrl, .nmcCtrl, .brokerCtrl, .edgeCtrl, .portCtrl, .portCtrlFe, .dzCtrl, .shgCtrl, .wqCfg].contains id

/-- A write of EN to a block, its other fields as they stand. `clash`: it reaches the block in the cycle of a fault, which
takes effect first, and the write is discarded (R295). -/
def execCommonEnableWrite (offset : Nat) (x : EnableBit) (s : State) : Host.Outcome State Fault Refusal := onServed s fun s =>
  .next (withResp (match csrFind offset with
    | some l =>
      if x.clash && ctrlState s l == stFaulted then s
      else if hasEnable l.id && !csrFenced s offset then csrStore s (.mp 0) l (wput (regGet s l) 0 0 (b2n x.en)) else s
    | none => s) .done)

/-- The ENABLING or DISABLING of a block ends. Blocks whose end has a row of its own move by that row. -/
def execOwnStepEnds (offset : Nat) (s : State) : Host.Outcome State Fault Refusal := onServed s fun s =>
  .next (match csrFind offset with
    | some l =>
      let st := ctrlState s l
      let b := l.scope - 12
      if csrFenced s offset then s
      else match l.id with
        | .brokerCtrl => ownStepEnds s l
        | .tsCtrl | .dzCtrl => if st = stEnabling then ownStepEnds s l else s
        | .nmcCtrl => if st = stEnabling ∧ fGet s (bLoc .nmcStatus b) fNmcStatusInvBusy = 0 then ownStepEnds s l else s
        | .shgCtrl => if st = stEnabling then shgStepEnds s b else s
        | .wqCfg => if st = stEnabling then wqStepEnds s (64 * b + l.idx.headD 0) else s
        | _ => s
    | none => s)

end Sys2Proof.Machine
end

