-- ==== Sys2Proof/Machine/HostFns.lean ====
section
/-! DEFINITION. The integer and floating-point functions of a host core (R186, R191), as the RISC-V specifications that
the chapter names define them. -/

namespace Sys2Proof.Machine

/-- A 32-bit result sign-extended to a register. -/
def sx32 (v : Nat) : Nat := wrap 64 (signed 32 (v % 2 ^ 32))

/-- Rotates a `w`-bit value left. -/
def rotl (w v n : Nat) : Nat := (v <<< (n % w) ||| v >>> (w - n % w)) % 2 ^ w

/-- Leading zeros of a `w`-bit value, and trailing ones of its complement. -/
def clzOf (w v : Nat) : Nat := if v = 0 then w else w - 1 - Nat.log2 v
def ctzOf (w v : Nat) : Nat := (firstBelow w (bit v)).getD w

/-- Signed and unsigned division on `w` bits: by zero the quotient is all ones and the remainder the dividend; the
quotient truncates. -/
def divOf (w a b : Nat) : Nat := if b = 0 then 2 ^ w - 1 else wrap w (Int.tdiv (signed w a) (signed w b))
def remOf (w a b : Nat) : Nat := if b = 0 then a else wrap w (Int.tmod (signed w a) (signed w b))
def divuOf (w a b : Nat) : Nat := if b = 0 then 2 ^ w - 1 else a / b
def remuOf (a b : Nat) : Nat := if b = 0 then a else a % b

/-- The bytes of a value, each 0xFF where it is not zero, and the bytes reversed. -/
def orcOf (a : Nat) : Nat := leValue ((leBytes 8 a).map fun b => if b = 0 then 0 else 255#8)
def revOf (a : Nat) : Nat := beValue (leBytes 8 a)

/-- An integer function of two 64-bit values. -/
def rvFn (fn : RvFn) (a b : Nat) : Nat :=
  let a32 := a % 2 ^ 32
  let b32 := b % 2 ^ 32
  let sa := signed 64 a
  let sb := signed 64 b
  match fn with
  | .add => wrap 64 ((a : Int) + b)
  | .sub => wrap 64 ((a : Int) - b)
  | .sll => (a <<< (b % 64)) % 2 ^ 64
  | .slt => b2n (decide (sa < sb))
  | .sltu => b2n (decide (a < b))
  | .xor => a ^^^ b
  | .srl => a >>> (b % 64)
  | .sra => wrap 64 (sa / (2 ^ (b % 64) : Int))
  | .or => a ||| b
  | .and => a &&& b
  | .addw => sx32 (a32 + b32)
  | .subw => sx32 (wrap 32 ((a32 : Int) - b32))
  | .sllw => sx32 (a32 <<< (b % 32))
  | .srlw => sx32 (a32 >>> (b % 32))
  | .sraw => wrap 64 (signed 32 a32 / (2 ^ (b % 32) : Int))
  | .mul => (a * b) % 2 ^ 64
  | .mulh => wrap 64 (sa * sb / (2 ^ 64 : Int))
  | .mulhsu => wrap 64 (sa * b / (2 ^ 64 : Int))
  | .mulhu => a * b / 2 ^ 64
  | .mulw => sx32 (a32 * b32)
  | .div => divOf 64 a b
  | .divu => divuOf 64 a b
  | .rem => remOf 64 a b
  | .remu => remuOf a b
  | .divw => sx32 (divOf 32 a32 b32)
  | .divuw => sx32 (divuOf 32 a32 b32)
  | .remw => sx32 (remOf 32 a32 b32)
  | .remuw => sx32 (remuOf a32 b32)
  | .sh1add => (2 * a + b) % 2 ^ 64
  | .sh2add => (4 * a + b) % 2 ^ 64
  | .sh3add => (8 * a + b) % 2 ^ 64
  | .adduw => (a32 + b) % 2 ^ 64
  | .sh1adduw => (2 * a32 + b) % 2 ^ 64
  | .sh2adduw => (4 * a32 + b) % 2 ^ 64
  | .sh3adduw => (8 * a32 + b) % 2 ^ 64
  | .slliuw => (a32 <<< (b % 64)) % 2 ^ 64
  | .andn => a &&& (2 ^ 64 - 1 - b % 2 ^ 64)
  | .orn => a ||| (2 ^ 64 - 1 - b % 2 ^ 64)
  | .xnor => 2 ^ 64 - 1 - (a ^^^ b)
  | .min => if sa ≤ sb then a else b
  | .max => if sa ≤ sb then b else a
  | .minu => min a b
  | .maxu => max a b
  | .rol => rotl 64 a (b % 64)
  | .ror => rotl 64 a (64 - b % 64)
  | .rolw => sx32 (rotl 32 a32 (b % 32))
  | .rorw => sx32 (rotl 32 a32 (32 - b % 32))
  | .bclr => a - (a &&& 1 <<< (b % 64))
  | .bext => b2n (bit a (b % 64))
  | .binv => a ^^^ 1 <<< (b % 64)
  | .bset => a ||| 1 <<< (b % 64)
  | .czeroEqz => if b = 0 then 0 else a
  | .czeroNez => if b = 0 then a else 0
  | .clz => clzOf 64 a
  | .ctz => ctzOf 64 a
  | .cpop => popCount 64 a
  | .clzw => clzOf 32 a32
  | .ctzw => ctzOf 32 a32
  | .cpopw => popCount 32 a32
  | .sextb => wrap 64 (signed 8 (a % 2 ^ 8))
  | .sexth => wrap 64 (signed 16 (a % 2 ^ 16))
  | .zexth => a % 2 ^ 16
  | .orcb => orcOf a
  | .rev8 => revOf a

/-- Branch conditions. -/
def condHolds (cond : Cond) (a b : Nat) : Bool :=
  match cond with
  | .eq => a == b
  | .ne => a != b
  | .lt => decide (signed 64 a < signed 64 b)
  | .ge => decide (signed 64 a ≥ signed 64 b)
  | .ltu => decide (a < b)
  | .geu => decide (a ≥ b)

/-! ## Floating point -/

/-- The formats of the F, D, Zfh and Zfbfmin instructions: 2 FP16, 4 FP32, 8 FP64, and 1 BF16, which only conversions
and moves take. -/
def fpFmt (fmt : Nat) : Option Fmt :=
  match fmt with
  | 1 => some .bf16
  | 2 => some .fp16
  | 4 => some .fp32
  | 8 => some .fp64
  | _ => none

/-- A value narrower than the register lies under ones; one that does not reads as the canonical NaN. -/
def unbox (f : Fmt) (v : Nat) : Nat :=
  let w := fmtWidth f
  if w = 64 ∨ v >>> w = 2 ^ (64 - w) - 1 then v % 2 ^ w else canonicalNan f
def boxed (f : Fmt) (v : Nat) : Nat := (2 ^ 64 - 2 ^ fmtWidth f) + v % 2 ^ fmtWidth f

/-- A fused multiply-add with the product or the addend negated. -/
def fmaFn (f : Fmt) (m : RMode) (negMul negAdd : Bool) (a b c : Nat) : Flagged :=
  let p := numMul (numOfCode f a) (numOfCode f b)
  let z := numOfCode f c
  let r := numAdd (zeroNeg m) (if negMul then numNegate p.val else p.val) (if negAdd then numNegate z else z)
  deliver f m 0 (p.nv || r.nv) r.val

/-- A comparison: EQ is quiet, LT and LE signal on any NaN. -/
def fcmpFn (f : Fmt) (cmp : FpCmp) (a b : Nat) : Nat × Nat :=
  let x := numOfCode f a
  let y := numOfCode f b
  if numIsNan x || numIsNan y then
    (0, if decide (cmp ≠ .eq) || numIsSnan x || numIsSnan y then flNV else 0)
  else
    let o := numCmp x y
    (b2n (match cmp with
      | .eq => decide (o = .eq)
      | .lt => decide (o = .lt)
      | .le => decide (o ≠ .gt)), 0)

/-- FCLASS. -/
def fclassFn (f : Fmt) (a : Nat) : Nat :=
  match numOfCode f a with
  | .nan sig => if sig then 2 ^ 8 else 2 ^ 9
  | .inf neg => if neg then 1 else 2 ^ 7
  | .fin neg mag _ =>
    let lay := fmtLayout f
    let sub := lay.elim false fun l => decide (mag < 2 ^ l.fracBits)
    if mag = 0 then (if neg then 2 ^ 3 else 2 ^ 4)
    else if sub then (if neg then 2 ^ 2 else 2 ^ 5)
    else if neg then 2 else 2 ^ 6

/-- A conversion to an integer of `w` bits: out of range or NaN gives the limit and sets NV. -/
def fcvtInt (f : Fmt) (m : RMode) (w : Nat) (sgn : Bool) (a : Nat) : Nat × Nat :=
  let lo : Int := if sgn then -(2 ^ (w - 1) : Int) else 0
  let hi : Int := if sgn then 2 ^ (w - 1) - 1 else 2 ^ w - 1
  let out := fun (v : Int) => if w = 32 then sx32 (wrap 32 v) else wrap 64 v
  match numOfCode f a with
  | .nan _ => (out hi, flNV)
  | .inf neg => (out (if neg then lo else hi), flNV)
  | .fin neg mag exp =>
    let (k, ix) := roundCut m neg 0 (cutAt mag exp 0)
    let v : Int := if neg then -(k : Int) else k
    if v < lo then (out lo, flNV)
    else if v > hi then (out hi, flNV)
    else (out v, flIf ix flNX)

/-- A conversion from an integer of `w` bits. -/
def fcvtFrom (f : Fmt) (m : RMode) (w : Nat) (sgn : Bool) (v : Nat) : Flagged :=
  let x := v % 2 ^ w
  deliver f m 0 false (numOfInt (if sgn then signed w x else x))

/-- A conversion between formats: overflow follows the rounding mode, as IEEE 754 has it. -/
def fcvtFmt (f t : Fmt) (m : RMode) (a : Nat) : Flagged :=
  let x := numOfCode f a
  deliver t m 0 (numIsSnan x) x

/-! ## Zfa -/

/-- The constants of FLI: sign, significand and power of two; entry 1 is the smallest normal number, 30 infinity and 31
the canonical NaN. -/
def fliNum (f : Fmt) (k : Nat) : Num :=
  match k with
  | 0 => .fin true 1 0
  | 1 => .fin false 1 (1 - ((fmtLayout f).elim 1 fun l => (l.bias : Int)))
  | 2 => .fin false 1 (-16)
  | 3 => .fin false 1 (-15)
  | 4 => .fin false 1 (-8)
  | 5 => .fin false 1 (-7)
  | 6 => .fin false 1 (-4)
  | 7 => .fin false 1 (-3)
  | 23 => .fin false 4 0
  | 24 => .fin false 8 0
  | 25 => .fin false 16 0
  | 26 => .fin false 128 0
  | 27 => .fin false 256 0
  | 28 => .fin false 32768 0
  | 29 => .fin false 65536 0
  | 30 => .inf false
  | 31 => .nan false
  | _ =>
    if k < 12 then .fin false (k - 4) (-4) else if k < 16 then .fin false (k - 8) (-3)
    else if k < 20 then .fin false (k - 12) (-2) else .fin false (k - 16) (-1)
def fliFn (f : Fmt) (k : Nat) : Nat := (deliver f .rne 0 false (fliNum f k)).code

/-- FROUND and FROUNDNX: to an integral value of the format; only FROUNDNX reports inexactness. -/
def froundFn (f : Fmt) (m : RMode) (exact : Bool) (a : Nat) : Flagged :=
  match numOfCode f a with
  | .fin neg mag exp =>
    let (k, ix) := roundCut m neg 0 (cutAt mag exp 0)
    ⟨if exp ≥ 0 then a else (deliver f m 0 false (.fin neg k 0)).code, flIf (ix && exact) flNX⟩
  | x => deliver f m 0 (numIsSnan x) x

/-- FCVTMOD.W.D: truncation, its low 32 bits kept. -/
def fcvtModFn (a : Nat) : Nat × Nat :=
  match numOfCode .fp64 a with
  | .fin neg mag exp =>
    let (k, ix) := roundCut .rtz neg 0 (cutAt mag exp 0)
    let v : Int := if neg then -(k : Int) else k
    (sx32 (wrap 32 v), if v < -(2 ^ 31 : Int) ∨ v > 2 ^ 31 - 1 then flNV else flIf ix flNX)
  | _ => (0, flNV)

/-- FMINM and FMAXM: a NaN operand makes the result the canonical NaN. -/
def fminmFn (f : Fmt) (mx : Bool) (a b : Nat) : Flagged :=
  let x := numOfCode f a
  let y := numOfCode f b
  if numIsNan x || numIsNan y then ⟨canonicalNan f, flIf (numIsSnan x || numIsSnan y) flNV⟩
  else let r := numMinMax mx x y; deliver f .rne 0 r.nv r.val

/-- FLEQ and FLTQ: quiet comparisons. -/
def fcmpQuietFn (f : Fmt) (cmp : FpCmp) (a b : Nat) : Nat × Nat :=
  let x := numOfCode f a
  let y := numOfCode f b
  if numIsNan x || numIsNan y then (0, flIf (numIsSnan x || numIsSnan y) flNV) else fcmpFn f cmp a b

end Sys2Proof.Machine
end

