-- ==== Sys2Proof/Machine/HostTrap.lean ====
section
/-! DEFINITION. A host core's privileged state (R186 to R191, R197, R198): its CSRs, taking a trap and returning from
one, and its interrupts. The chapter names the RISC-V specifications a core implements and states the points they leave
open; what those specifications fix is taken from them (PRESUMED, log entry 46). -/

namespace Sys2Proof.Machine

/-! ## Registers -/

/-- A core's integer register: x0 reads as zero and discards writes. -/
def xGet (h : HostCore) (r : Nat) : Nat := if r = 0 then 0 else (tblGet 0 h.x r).toNat
def xPut (h : HostCore) (r v : Nat) : HostCore := if r = 0 then h else { h with x := tblSet 0 h.x r (BitVec.ofNat 64 v) }

/-- A core's floating-point register. -/
def frGet (h : HostCore) (r : Nat) : Nat := (tblGet 0 h.f r).toNat

/-- A core's stored CSR, replaced. -/
def csrPut (h : HostCore) (n v : Nat) : HostCore := { h with csr := tblSet 0 h.csr n (BitVec.ofNat 64 v) }

/-- mstatus fields. -/
def msField (h : HostCore) (hi lo : Nat) : Nat := bits (hcsr h 0x300) hi lo
def msPut (h : HostCore) (hi lo v : Nat) : HostCore := csrPut h 0x300 (putBits (hcsr h 0x300) hi lo v)

/-- Marks the floating-point or the vector state dirty. -/
def fsDirty (h : HostCore) : HostCore := msPut h 14 13 3
def vsDirty (h : HostCore) : HostCore := msPut h 10 9 3

/-- A write of a floating-point register. -/
def frPut (h : HostCore) (r v : Nat) : HostCore := fsDirty { h with f := tblSet 0 h.f r (BitVec.ofNat 64 v) }

/-- Accrues floating-point flags in fcsr, whose low bits have R54's positions. -/
def accrue (h : HostCore) (flags : Nat) : HostCore :=
  if flags % 32 = 0 then h else fsDirty (csrPut h 3 (hcsr h 3 ||| flags % 32))

/-! ## Interrupt state -/

/-- The lowest identity pending and enabled in an interrupt file and below its threshold; 0 for none. -/
def fileBest (h : HostCore) (mlevel : Bool) : Nat :=
  let f := if mlevel then h.mfile else h.sfile
  let thr := hcsr h ((if mlevel then 0x10000 else 0x20000) + 0x72)
  (firstBelow 256 fun i => bit f.pending i && bit f.enabled i && (thr == 0 || decide (i < thr))).getD 0

/-- What an interrupt file signals to its core: nothing while delivery is off. -/
def fileTop (h : HostCore) (mlevel : Bool) : Nat :=
  if hcsr h ((if mlevel then 0x10000 else 0x20000) + 0x70) = 1 then fileBest h mlevel else 0

/-- mip: the timers and the interrupt files drive their bits (R197, R198); the rest is stored. -/
def mipOf (h : HostCore) : Nat :=
  let stored := hcsr h 0x344
  maskOf ((if bit stored 1 then [1] else []) ++
    (if (if bit (hcsr h 0x30A) 63 then h.stip else bit stored 5) then [5] else []) ++ (if h.mtip then [7] else []) ++
    (if bit stored 9 || fileTop h false != 0 then [9] else []) ++ (if fileTop h true != 0 then [11] else []) ++
    (if bit stored 13 then [13] else []))

/-- The interrupt a core takes next, if any, in order of priority: those at M level, then those delegated to S level. -/
def intrDue (h : HostCore) : Option Nat :=
  let on := mipOf h &&& hcsr h 0x304
  let deleg := hcsr h 0x303
  let order := [11, 3, 7, 9, 1, 5, 13]
  let mOk := h.mode != 3 || msField h 3 3 == 1
  let sOk := h.mode == 0 || (h.mode == 1 && msField h 1 1 == 1)
  match order.find? (fun i => bit on i && !bit deleg i && mOk) with
  | some i => some i
  | none => order.find? fun i => bit on i && bit deleg i && sOk

/-! ## Taking a trap and returning -/

/-- Where a trap goes: the base of the vector register, and its entry of an interrupt in vectored mode. -/
def trapPc (tvec : Nat) (intr : Bool) (code : Nat) : Nat :=
  tvec / 4 * 4 + (if intr && tvec % 4 == 1 then 4 * code else 0)

/-- Takes a trap: the pc and the cause are saved at the level it goes to, the mode and the interrupt enable are stacked
in mstatus, and the pc is the handler's. -/
def takeTrap (h : HostCore) (intr : Bool) (code tval : Nat) : HostCore :=
  let cause := (if intr then 2 ^ 63 else 0) + code
  let toS := h.mode != 3 && bit (hcsr h (if intr then 0x303 else 0x302)) code
  if toS then
    let h1 := csrPut (csrPut (csrPut h 0x141 h.pc) 0x142 cause) 0x143 tval
    let h2 := msPut (msPut (msPut h1 5 5 (msField h 1 1)) 1 1 0) 8 8 h.mode
    { h2 with mode := 1, pc := trapPc (hcsr h 0x105) intr code, waiting := false }
  else
    let h1 := csrPut (csrPut (csrPut h 0x341 h.pc) 0x342 cause) 0x343 tval
    let h2 := msPut (msPut (msPut h1 7 7 (msField h 3 3)) 3 3 0) 12 11 h.mode
    { h2 with mode := 3, pc := trapPc (hcsr h 0x305) intr code, waiting := false }

/-! ## Retiring and counting -/

/-- minstret counts a retired instruction, unless mcountinhibit.IR is set. -/
def retired (h : HostCore) : HostCore :=
  if bit (hcsr h 0x320) 2 then h else csrPut h 0xB02 ((hcsr h 0xB02 + 1) % 2 ^ 64)

/-- The core with its instruction retired and the pc at the next one. -/
def hRetire (h : HostCore) (len : Nat) : HostCore := { retired h with pc := (h.pc + len) % 2 ^ 64 }

/-- mcycle goes on by a number of cycles that is open, unless mcountinhibit.CY is set. -/
def cycleStep (s : Node) (c : Nat) : Node :=
  if bit (hcsr (coreOf s c) 0x320) 0 then s
  else modCore (bump s) c fun h => csrPut h 0xB00 ((hcsr h 0xB00 + Config.freeNat s.fresh % 2 ^ 32) % 2 ^ 64)

/-- Whether event counter `i` of a core counts: it is not inhibited, its event is not 0, which names none, and its mode bit
is clear (Sscofpmf). -/
def hpmCounts (h : HostCore) (i : Nat) : Bool :=
  let e := hcsr h (0x320 + i)
  !bit (hcsr h 0x320) i && bits e 55 0 != 0 && !bit e (if h.mode = 3 then 62 else if h.mode = 1 then 61 else 60)

/-- An event counter goes on by an open number of events. As it wraps, OF of its event is set, and LCOFIP with it where OF
was clear (Sscofpmf). -/
def hpmAdd (h : HostCore) (i n : Nat) : HostCore :=
  let v := hcsr h (0xB00 + i) + n
  let h1 := csrPut h (0xB00 + i) (v % 2 ^ 64)
  let e := hcsr h (0x320 + i)
  if v < 2 ^ 64 ∨ bit e 63 then h1 else csrPut (csrPut h1 (0x320 + i) (e + 2 ^ 63)) 0x344 (hcsr h 0x344 ||| 2 ^ 13)

/-- The event counters of a core as it comes to an instruction. Which events an implementation has, and how often they
occur, is open. -/
def hpmStep (s : Node) (c : Nat) : Node :=
  ((List.range 29).filter fun i => hpmCounts (coreOf s c) (i + 3)).foldl (fun s i =>
    modCore (bump s) c fun h => hpmAdd h (i + 3) (Config.freeNat s.fresh % 2 ^ 32)) s

/-! ## Exceptions and returns -/

/-- An exception of core `c`, with the value stval or mtval takes. -/
def hTrap (s : Node) (c code tval : Nat) : Node := modCore s c fun h => takeTrap h false code tval

/-- An illegal-instruction exception: the trap value is the instruction's bits (Sstvala). -/
def hIllegal (s : Node) (c : Nat) : Node := hTrap s c 2 (coreOf s c).insn

/-- The return from an M-level trap. -/
def mretOf (h : HostCore) : HostCore :=
  let back := msField h 12 11
  let h1 := msPut (msPut (msPut h 3 3 (msField h 7 7)) 7 7 1) 12 11 0
  let h2 := if back = 3 then h1 else msPut h1 17 17 0
  { h2 with mode := if back = 2 then 0 else back, pc := hcsr h 0x341 }

/-- The return from an S-level trap. -/
def sretOf (h : HostCore) : HostCore :=
  let back := msField h 8 8
  let h1 := msPut (msPut (msPut (msPut h 1 1 (msField h 5 5)) 5 5 1) 8 8 0) 17 17 0
  { h1 with mode := back, pc := hcsr h 0x141 }

/-! ## Debug mode (R528) -/

/-- dcsr's stored fields: ebreakm, ebreaks, ebreaku, step, cause and prv. -/
def dcsrOf (h : HostCore) : Nat := hcsr h 0x7B0

/-- A core enters debug mode for a cause: its pc and mode are saved. -/
def enterDebug (s : Node) (c cause : Nat) : Node :=
  let h := coreOf s c
  let s1 := modCore s c fun h => { csrPut (csrPut h 0x7B1 h.pc) 0x7B0 (putBits (putBits (dcsrOf h) 8 6 cause) 1 0 h.mode) with waiting := false }
  if h.mode ≤ 3 then modTest s1 fun t => { t with halted := insertRising c t.halted } else s1

/-- A word of trigger `i` of a core: 1 for tdata1, 2 for tdata2. -/
def trigWord (h : HostCore) (i w : Nat) : Nat := hcsr h (0x30000 + 8 * i + w)

/-- Whether an mcontrol6 trigger fires on an access of a core: kind 0 load, 1 store, 2 execute. -/
def trigFires (h : HostCore) (i kind va : Nat) : Bool :=
  let t := trigWord h i 1
  let v := trigWord h i 2
  let inMode := if h.mode = 3 then bit t 6 else if h.mode = 1 then bit t 4 else bit t 3
  let hit := match bits t 10 7 with
    | 0 => va == v
    | 2 => decide (va ≥ v)
    | 3 => decide (va < v)
    | _ => false
  bit t kind && inMode && hit

/-- The first of a core's four triggers that fires. -/
def firedTrig (h : HostCore) (kind va : Nat) : Option Nat := firstBelow 4 fun i => trigFires h i kind va

/-- A trigger acts: a breakpoint exception, or debug mode where its ACTION asks for it and debug is open. -/
def trigAct (s : Node) (c i va : Nat) : Node :=
  if bits (trigWord (coreOf s c) i 1) 15 12 = 1 then (if debugOpen s then enterDebug s c 2 else s) else hTrap s c 3 va

/-! ## CSRs -/

/-- misa: A, B, C, D, F, I, M, S, U, V and 64 bits; H reads 0 (R186). -/
def misaValue : Nat := 2 ^ 63 + 2 ^ 0 + 2 ^ 1 + 2 ^ 2 + 2 ^ 3 + 2 ^ 5 + 2 ^ 8 + 2 ^ 12 + 2 ^ 18 + 2 ^ 20 + 2 ^ 21

/-- The software-writable bits of mstatus, and those that sstatus shows. -/
def mstatusMask : Nat := maskOf [1, 3, 5, 7, 8, 9, 10, 11, 12, 13, 14, 17, 18, 19, 20, 21, 22]
def sstatusMask : Nat := maskOf [1, 5, 8, 9, 10, 13, 14, 18, 19]

/-- The read-only parts of mstatus: UXL and SXL are 64 bits (Ssu64xl), SD sums up FS and VS. -/
def mstatusRead (h : HostCore) : Nat :=
  hcsr h 0x300 + 2 ^ 33 + 2 ^ 35 + (if msField h 14 13 = 3 ∨ msField h 10 9 = 3 then 2 ^ 63 else 0)

/-- CSRs that are plain storage, with the bits a write keeps. -/
def plainCsr : Nat → Option Nat
  | 0x302 => some 0xB3FF
  | 0x303 => some 0x2222
  | 0x304 => some 0x2AAA
  | 0x305 => some (2 ^ 64 - 1 - 2)
  | 0x105 => some (2 ^ 64 - 1 - 2)
  | 0x306 => some (2 ^ 32 - 1)
  | 0x106 => some (2 ^ 32 - 1)
  | 0x320 => some (2 ^ 32 - 1 - 2)
  | 0x340 => some (2 ^ 64 - 1)
  | 0x140 => some (2 ^ 64 - 1)
  | 0x341 => some (2 ^ 64 - 2)
  | 0x141 => some (2 ^ 64 - 2)
  | 0x342 => some (2 ^ 63 + 63)
  | 0x142 => some (2 ^ 63 + 63)
  | 0x343 => some (2 ^ 64 - 1)
  | 0x143 => some (2 ^ 64 - 1)
  | 0x14D => some (2 ^ 64 - 1)
  | 0x350 => some 0xFFF
  | 0x150 => some 0xFFF
  | 0x003 => some 0xFF
  | 0x008 => some 0xFF
  | 0x00F => some 7
  | 0x7A0 => some 3
  | n => if 0x323 ≤ n ∧ n ≤ 0x33F then some (2 ^ 64 - 1 - 2 ^ 58 - 2 ^ 59) else if n = 0x30C then some (2 ^ 63 + 2 ^ 62 + 2 ^ 60 + 2 ^ 59 + 2 ^ 58)
    else if 0x30D ≤ n ∧ n ≤ 0x30F then some (2 ^ 63)
    else if 0xB00 ≤ n ∧ n ≤ 0xB1F ∧ n ≠ 0xB01 then some (2 ^ 64 - 1) else none

/-- CSRs that read as zero and ignore writes: no PMP entry, no virtual interrupt and no supervisor state-enable bit is
implemented. -/
def zeroCsr (n : Nat) : Bool :=
  [0x308, 0x309, 0x7A3].contains n || (decide (0x10C ≤ n) && decide (n ≤ 0x10F)) || (decide (0x3A0 ≤ n) && decide (n ≤ 0x3EF))

/-- The counters' user views, but for `time`: cycle, instret and hpmcounter3 to 31. -/
def counterView (n : Nat) : Bool := decide (0xC00 ≤ n) && decide (n ≤ 0xC1F) && n != 0xC01

/-- The cycle counter and its view. -/
def isCycle (n : Nat) : Bool := n == 0xB00 || n == 0xC00

/-- The other CSRs a core has. -/
def viewCsr (n : Nat) : Bool :=
  [0x300, 0x100, 0x301, 0x104, 0x144, 0x344, 0x30A, 0x10A, 0x180, 0xC01, 0xF11, 0xF12, 0xF13, 0xF14, 0xF15, 0x001, 0x002,
    0x009, 0x00A, 0xC20, 0xC21, 0xC22, 0xDA0, 0x351, 0x151, 0x35C, 0x15C, 0xFB0, 0xDB0, 0x7A1, 0x7A2, 0x7A4].contains n

/-- Whether a core has a CSR outside debug mode. -/
def csrHas (n : Nat) : Bool := (plainCsr n).isSome || zeroCsr n || counterView n || viewCsr n

/-- The registers an interrupt file shows through miselect and sireg to a core of 64 bits: eidelivery, eithreshold, and the
even-numbered eip and eie registers; the even-numbered iprio registers of a core read zero. Any other selection is reserved
(RISC-V AIA). -/
def fileHas (sel : Nat) : Bool :=
  sel == 0x70 || sel == 0x72 ||
  (sel % 2 == 0 && (decide (0x30 ≤ sel ∧ sel < 0x40) || decide (0x80 ≤ sel ∧ sel < 0x100)))

/-- Whether the state-enable registers let a core access a CSR below M mode (Smstateen, Ssstateen): SE0 of mstateen0 to 3
governs sstateen0 to 3; ENVCFG of mstateen0 senvcfg; CSRIND siselect and sireg; IMSIC stopei and the registers of the
interrupt file behind sireg; AIA stopi and the other registers behind sireg. -/
def stateMay (h : HostCore) (n : Nat) : Bool :=
  let st := hcsr h 0x30C
  let file := decide (0x70 ≤ hcsr h 0x150)
  h.mode == 3 ||
    (!(decide (0x10C ≤ n) && decide (n ≤ 0x10F)) || bit (hcsr h (n + 0x200)) 63) &&
    (n != 0x10A || bit st 62) && (n != 0x150 || bit st 60) &&
    (n != 0x151 || (bit st 60 && bit st (if file then 58 else 59))) && (n != 0x15C || bit st 58) && (n != 0xDB0 || bit st 59)

/-- Whether a core in its mode may access a CSR; each refusal is an illegal-instruction exception. -/
def csrMay (h : HostCore) (n : Nat) (write : Bool) : Bool :=
  let en := fun b => h.mode == 3 || (bit (hcsr h 0x306) b && (h.mode == 1 || bit (hcsr h 0x106) b))
  csrHas n && stateMay h n && decide (bits n 9 8 ≤ h.mode) && !(write && bits n 11 10 == 3) &&
  !(n == 0x180 && h.mode == 1 && msField h 20 20 == 1) &&
  !(n == 0x14D && h.mode == 1 && !(bit (hcsr h 0x306) 1 && bit (hcsr h 0x30A) 63)) &&
  !(decide (0xC00 ≤ n) && decide (n ≤ 0xC1F) && !en (n - 0xC00)) &&
  !(n == 0x351 && !fileHas (hcsr h 0x350)) && !(n == 0x151 && !fileHas (hcsr h 0x150)) &&
  !([1, 2, 3].contains n && msField h 14 13 == 0) &&
  !([0x008, 0x009, 0x00A, 0x00F, 0xC20, 0xC21, 0xC22].contains n && msField h 10 9 == 0)

/-- Bits of an interrupt file by 64-bit register: eip from 0x80, eie from 0xC0, even numbers alone. -/
def fileReg (h : HostCore) (mlevel : Bool) (sel : Nat) : Nat :=
  let f := if mlevel then h.mfile else h.sfile
  let base := if mlevel then 0x10000 else 0x20000
  if sel = 0x70 ∨ sel = 0x72 then hcsr h (base + sel)
  else if 0x80 ≤ sel ∧ sel < 0x88 ∧ sel % 2 = 0 then bits f.pending (32 * (sel - 0x80) + 63) (32 * (sel - 0x80))
  else if 0xC0 ≤ sel ∧ sel < 0xC8 ∧ sel % 2 = 0 then bits f.enabled (32 * (sel - 0xC0) + 63) (32 * (sel - 0xC0))
  else 0

/-- A write of a register of an interrupt file; identity 0 does not exist. -/
def fileWrite (h : HostCore) (mlevel : Bool) (sel v : Nat) : HostCore :=
  let base := if mlevel then 0x10000 else 0x20000
  let f := if mlevel then h.mfile else h.sfile
  let g : ImsicFile :=
    if 0x80 ≤ sel ∧ sel < 0x88 ∧ sel % 2 = 0 then
      { f with pending := putBits f.pending (32 * (sel - 0x80) + 63) (32 * (sel - 0x80)) v / 2 * 2 }
    else if 0xC0 ≤ sel ∧ sel < 0xC8 ∧ sel % 2 = 0 then
      { f with enabled := putBits f.enabled (32 * (sel - 0xC0) + 63) (32 * (sel - 0xC0)) v / 2 * 2 }
    else f
  let h1 := if sel = 0x70 then csrPut h (base + sel) (v % 2) else if sel = 0x72 then csrPut h (base + sel) (v % 256) else h
  if mlevel then { h1 with mfile := g } else { h1 with sfile := g }

/-- A read of mtopei or stopei, which does not depend on delivery, and of mtopi or stopi. -/
def topei (h : HostCore) (mlevel : Bool) : Nat := fileBest h mlevel * (2 ^ 16 + 1)
def topi (h : HostCore) (mlevel : Bool) : Nat :=
  let on := mipOf h &&& hcsr h 0x304
  let deleg := hcsr h 0x303
  match [11, 3, 7, 9, 1, 5, 13].find? fun i => bit on i && (bit deleg i != mlevel) with
  | some i => i * 2 ^ 16 + 1
  | none => 0

/-- The value a CSR reads as. -/
def csrValueOf (s : Node) (c n : Nat) : Nat :=
  let h := coreOf s c
  let t := hcsr h 0x7A0
  match n with
  | 0x300 => mstatusRead h
  | 0x100 => (mstatusRead h) &&& (sstatusMask + 2 ^ 33 + 2 ^ 63)
  | 0x301 => misaValue
  | 0x104 => hcsr h 0x304 &&& hcsr h 0x303
  | 0x144 => mipOf h &&& hcsr h 0x303
  | 0x344 => mipOf h
  | 0xC01 => mtime s
  | 0xF14 => c
  | 0xF11 => Config.hostInfo 0xF11
  | 0xF12 => Config.hostInfo 0xF12
  | 0xF13 => Config.hostInfo 0xF13
  | 0xF15 => Config.hostInfo 0xF15
  | 0x001 => hcsr h 3 % 32
  | 0x002 => bits (hcsr h 3) 7 5
  | 0x009 => hcsr h 0x00F % 2
  | 0x00A => bits (hcsr h 0x00F) 2 1
  | 0xC22 => 32
  | 0xDA0 => maskOf ((List.range 29).filterMap fun i => if bit (hcsr h (0x323 + i)) 63 && (h.mode == 3 || bit (hcsr h 0x306) (i + 3)) then some (i + 3) else none)
  | 0x351 => fileReg h true (hcsr h 0x350)
  | 0x151 => fileReg h false (hcsr h 0x150)
  | 0x35C => topei h true
  | 0x15C => topei h false
  | 0xFB0 => topi h true
  | 0xDB0 => topi h false
  | 0x7A1 => 6 * 2 ^ 60 + trigWord h t 1
  | 0x7A2 => trigWord h t 2
  | 0x7A4 => 2 ^ 24 + 2 ^ 6
  | _ => if counterView n then hcsr h (n - 0x100) else hcsr h n

/-- menvcfg and senvcfg as a write stores them: CBIE accepts 00 and 01, and 10 and 11 store 01 (R188); a PMM of 01 is
reserved and stores 00. -/
def envcfg (v mask : Nat) : Nat := putBits (putBits (v &&& mask) 5 4 (if bits v 5 4 = 0 then 0 else 1)) 33 32 (if bits v 33 32 = 1 then 0 else bits (v &&& mask) 33 32)

/-- satp as a write leaves it (R187): Bare, Sv48 and Sv57 are accepted, any other mode leaves it unchanged. -/
def satpAfter (old v : Nat) : Nat := if [0, 9, 10].contains (bits v 63 60) then v else old

/-- A write of a CSR. -/
def csrWriteOf (s : Node) (c n v : Nat) : Node :=
  let h := coreOf s c
  let put := fun (m w : Nat) => modCore s c fun h => csrPut h m w
  let t := hcsr h 0x7A0
  let deleg := hcsr h 0x303
  let into := fun (old mask : Nat) => (old - (old &&& mask)) ||| (v &&& mask)
  match n with
  | 0x300 =>
    let w := into (hcsr h 0x300) mstatusMask
    put 0x300 (if bits w 12 11 = 2 then putBits w 12 11 (msField h 12 11) else w)
  | 0x100 => put 0x300 (into (hcsr h 0x300) sstatusMask)
  | 0x104 => put 0x304 (into (hcsr h 0x304) deleg)
  | 0x144 => put 0x344 (into (hcsr h 0x344) (deleg &&& 0x2002))
  | 0x344 => put 0x344 (into (hcsr h 0x344) (if bit (hcsr h 0x30A) 63 then 0x2202 else 0x2222))
  | 0x30A => updateTimers (put 0x30A (envcfg v (2 ^ 63 + 2 ^ 62 + 0xF1))) c
  | 0x10A => put 0x10A (envcfg v (2 ^ 33 + 2 ^ 32 + 0xF1))
  | 0x180 => put 0x180 (satpAfter (hcsr h 0x180) v)
  | 0x14D => updateTimers (put 0x14D v) c
  | 0x001 => put 3 (putBits (hcsr h 3) 4 0 v)
  | 0x002 => put 3 (putBits (hcsr h 3) 7 5 v)
  | 0x009 => put 0x00F (putBits (hcsr h 0x00F) 0 0 v)
  | 0x00A => put 0x00F (putBits (hcsr h 0x00F) 2 1 v)
  | 0x351 => modCore s c fun h => fileWrite h true (hcsr h 0x350) v
  | 0x151 => modCore s c fun h => fileWrite h false (hcsr h 0x150) v
  | 0x35C => modCore s c fun h => { h with mfile := { h.mfile with pending := h.mfile.pending &&& (2 ^ 256 - 1 - 1 <<< fileBest h true) } }
  | 0x15C => modCore s c fun h => { h with sfile := { h.sfile with pending := h.sfile.pending &&& (2 ^ 256 - 1 - 1 <<< fileBest h false) } }
  | 0x7A1 => put (0x30000 + 8 * t + 1) (v &&& maskOf [0, 1, 2, 3, 4, 6, 7, 8, 9, 10, 12])
  | 0x7A2 => put (0x30000 + 8 * t + 2) v
  | _ =>
    match plainCsr n with
    | some mask => put n (v &&& mask)
    | none => s

/-- The floating-point or vector state a CSR write touches becomes dirty. -/
def csrDirty (h : HostCore) (n : Nat) : HostCore :=
  if [1, 2, 3].contains n then fsDirty h
  else if [0x008, 0x009, 0x00A, 0x00F].contains n then vsDirty h else h

/-- What a set or clear of bits starts from: the value read, but for SEIP of mip, where the software-written bit alone takes
part. -/
def csrBase (h : HostCore) (n old : Nat) : Nat := if n = 0x344 then putBits old 9 9 (bits (hcsr h 0x344) 9 9) else old

/-- A CSR instruction: the old value goes to `rd`, and the CSR takes the new one where the instruction writes. -/
def csrInstr (s : Node) (c len : Nat) (fn : CsrFn) (n rd : Nat) (src : CsrSrc) : Node :=
  let h := coreOf s c
  let (arg, quiet) := match src with
    | .reg r => (xGet h r, r == 0)
    | .imm v => (v % 32, v % 32 == 0)
  let writes := decide (fn = .write) || !quiet
  if !csrMay h n writes then hIllegal s c
  else
    let s0 := if isCycle n then cycleStep s c else s
    let old := csrValueOf s0 c n
    let new := match fn with
      | .write => arg
      | .set => csrBase h n old ||| arg
      | .clear => csrBase h n old - (csrBase h n old &&& arg)
    let s1 := modCore s0 c fun h => hRetire (xPut h rd old) len
    if writes then modCore (csrWriteOf s1 c n new) c fun h => csrDirty h n else s1

end Sys2Proof.Machine
end

