-- ==== Sys2Proof/Machine/HostMem.lean ====
section
/-! DEFINITION. A host core's memory accesses (R188, R189, R192, R223, R229, R231, R232, R241, R335, R337): translation
with the core's own translations, the address map, and loads, stores, LR, SC and AMO. -/

namespace Sys2Proof.Machine

/-! ## Translation -/

/-- The exception an access of a kind raises: page fault, access fault, misaligned. -/
def pageFaultOf (acc : Nat) : Nat := if acc = accFetch then 12 else if acc = accRead then 13 else 15
def accessFaultOf (acc : Nat) : Nat := if acc = accFetch then 1 else if acc = accRead then 5 else 7

/-- How a core's access to an address ends: a physical address with its PBMT, or an exception. -/
inductive HostTrans where
  | ok (pa pbmt : Nat)
  | trap (code : Nat)
  deriving DecidableEq, Repr

/-- The mode an access is judged by: MPP's under mstatus.MPRV. -/
def accessMode (h : HostCore) (acc : Nat) : Nat :=
  if h.mode = 3 ∧ acc ≠ accFetch ∧ msField h 17 17 = 1 then msField h 12 11 else h.mode

/-- Whether a leaf's permissions forbid an access in a mode: U against the mode and SUM, R with MXR, W, X. -/
def leafForbids (h : HostCore) (mode acc : Nat) (r w x u : Bool) : Bool :=
  (mode == 0 && !u) || (mode == 1 && u && (acc == accFetch || msField h 18 18 == 0)) ||
  (acc == accFetch && !x) || (acc == accRead && !(r || (x && msField h 19 19 == 1))) ||
  ((acc == accWrite || acc == accAmo) && !w)

/-- One PTE of a core's walk: an exception, a leaf's entry, or the next table. -/
inductive HostStep where
  | trap (code : Nat)
  | leaf (e : HostTlb)
  | next (base : Nat)
  deriving DecidableEq, Repr

/-- The address an access of a core goes to (Supm): in U mode, senvcfg.PMM makes a load or store ignore its highest 7 or 16
bits, which take the value of the highest one left, or zero where addresses are not translated; not while MXR is set. -/
def hostVa (h : HostCore) (va acc : Nat) : Nat :=
  let pmm := bits (hcsr h 0x10A) 33 32
  let w := if pmm = 2 then 57 else 48
  if pmm < 2 ∨ acc = accFetch ∨ accessMode h acc ≠ 0 ∨ msField h 19 19 = 1 then va
  else if bits (hcsr h 0x180) 63 60 = 0 then va % 2 ^ w
  else wrap 64 (signed w va)

/-- Reads and judges the PTE of a level. A and D are not set by hardware (Svade); PBMT needs menvcfg.PBMTE. -/
def hostPte (s : Node) (c : Nat) (mode va acc level base : Nat) : HostStep :=
  let h := coreOf s c
  let pa := base + 8 * bits va (20 + 9 * level) (12 + 9 * level)
  if !inHbm s pa 8 || readsPoison s (c / 8) (lineOf pa) then .trap (accessFaultOf acc)
  else
    let p := leValue (dieBytes s (c / 8) pa 8)
    let size := if pteN p then 16 else 12 + 9 * level
    if !pteV p || pteReserved p level || (ptePbmt p != 0 && !bit (hcsr h 0x30A) 62) then .trap (pageFaultOf acc)
    else if !pteLeaf p then .next (ptePpn p * 4096)
    else if leafForbids h mode acc (pteR p) (pteW p) (pteX p) (pteU p) || pteNeedsAD p acc then .trap (pageFaultOf acc)
    else .leaf ⟨va / 2 ^ size, size, bits (hcsr h 0x180) 63 60, bits (hcsr h 0x180) 59 44, bit p 5,
      (ptePpn p * 4096) / 2 ^ size * 2 ^ size, pteR p, pteW p, pteX p, pteU p, pteD p, ptePbmt p⟩

/-- A core's walk from a level down. -/
def hostWalk (s : Node) (c : Nat) (mode va acc : Nat) : Nat → Nat → HostStep
  | 0, base =>
    match hostPte s c mode va acc 0 base with
    | .next _ => .trap (pageFaultOf acc)
    | r => r
  | l + 1, base =>
    match hostPte s c mode va acc (l + 1) base with
    | .next b => hostWalk s c mode va acc l b
    | r => r

/-- Whether a held translation serves an address. -/
def hostHit (h : HostCore) (va : Nat) (e : HostTlb) : Bool :=
  e.mode == bits (hcsr h 0x180) 63 60 && e.vpn == va / 2 ^ e.size && (e.g || e.asid == bits (hcsr h 0x180) 59 44)

/-- Translates one address of a core. A held translation that forbids the access, or whose D is clear for a store, is
walked again. -/
def hostTranslate (s : Node) (c va acc : Nat) : Node × HostTrans :=
  let h := coreOf s c
  let mode := accessMode h acc
  let sm := bits (hcsr h 0x180) 63 60
  if mode = 3 ∨ sm = 0 then (s, if va < 2 ^ 56 then .ok va 0 else .trap (accessFaultOf acc))
  else if !canonical sm va then (s, .trap (pageFaultOf acc))
  else
    let fits := fun (e : HostTlb) => hostHit h va e && !leafForbids h mode acc e.r e.w e.x e.u &&
      (e.d || acc == accRead || acc == accFetch)
    match h.tlb.find? fits with
    | some e => (s, .ok (e.pa + va % 2 ^ e.size) e.pbmt)
    | none =>
      match hostWalk s c mode va acc (if sm = 9 then 3 else 4) (bits (hcsr h 0x180) 43 0 * 4096) with
      | .leaf e =>
        (modCore s c fun x => { x with tlb := e :: x.tlb.filter fun y => !hostHit h va y }, .ok (e.pa + va % 2 ^ e.size) e.pbmt)
      | .trap code => (s, .trap code)
      | .next _ => (s, .trap (pageFaultOf acc))

/-! ## The address map as a core meets it -/

/-- How an access ends: its value, a wait until something it needs has come, or an exception. -/
inductive HostRes where
  | ok (v : Nat)
  | wait
  | trap (code va : Nat)
  deriving DecidableEq, Repr

/-- The part of an access that lies in one line, with its page's PBMT: an access that crosses a line is performed as two,
one for each line (R189). -/
structure Piece where
  pa : Nat
  n : Nat
  pbmt : Nat
  deriving DecidableEq, Repr

/-- The bytes of a piece. -/
def pieceBytes (p : Piece) : List Nat := (List.range p.n).map (p.pa + ·)

/-- Consecutive bytes of one page, line by line. -/
def splitLines (pa n pbmt : Nat) : List Piece :=
  let first := min n (lineBytes - pa % lineBytes)
  if first = n then [⟨pa, n, pbmt⟩] else [⟨pa, first, pbmt⟩, ⟨pa + first, n - first, pbmt⟩]

/-- The pieces of an access, or the exception of its first byte that is not translated. -/
inductive HostSpan where
  | ok (ps : List Piece)
  | trap (code va : Nat)
  deriving DecidableEq, Repr

/-- Translates the bytes of an access, each page by itself. -/
def hostSpan (s : Node) (c va n acc : Nat) : Node × HostSpan :=
  let first := min n (4096 - va % 4096)
  match hostTranslate s c va acc with
  | (s1, .trap code) => (s1, .trap code va)
  | (s1, .ok pa pbmt) =>
    if first = n then (s1, .ok (splitLines pa n pbmt))
    else
      let va2 := (va + first) % 2 ^ 64
      match hostTranslate s1 c va2 acc with
      | (s2, .trap code) => (s2, .trap code va2)
      | (s2, .ok pa2 pbmt2) => (s2, .ok (splitLines pa first pbmt ++ splitLines pa2 (n - first) pbmt2))

/-- Whether a piece may be performed where it lies: mapped (R232), a window reached uncached (R192, R231), a scratch
access of 1, 2, 4 or 8 aligned bytes of a die in service (R102), an aligned 64-bit CSR access (R19), reached through the
page tables (R22). -/
def pieceReaches (s : Node) (p : Piece) : Bool :=
  match paKind s p.pa with
  | .hbm => true
  | .scratch g _ => p.pbmt != 0 && [1, 2, 4, 8].contains p.n && p.pa % p.n == 0 && !isFenced s (g / 16)
  | .doorbell _ _ => p.pbmt != 0
  | .csr _ => p.pbmt != 0 && p.n == 8 && p.pa % 8 == 0
  | .remote _ _ => true
  | .unmapped => false

/-- The first piece of an access that a test holds of, with its offset in the access. -/
def pieceFind (f : Piece → Bool) : List Piece → Nat → Option (Piece × Nat)
  | [], _ => none
  | p :: rest, off => if f p then some (p, off) else pieceFind f rest (off + p.n)

/-- The virtual address of the first piece of an access that may not be performed; then none of them is (R189, R232). -/
def hostRefuses (s : Node) (va : Nat) (ps : List Piece) : Option Nat :=
  (pieceFind (fun p => !pieceReaches s p) ps 0).map fun x => (va + x.2) % 2 ^ 64

/-- The line of the first piece whose read meets the poison mark (R241), with the piece's virtual address. -/
def hostPoisoned (s : Node) (c va : Nat) (ps : List Piece) : Option (Nat × Nat) :=
  let meets := fun (p : Piece) => decide (paKind s p.pa = .hbm) && readsPoison s (if p.pbmt = 0 then c / 8 else 12) (lineOf p.pa)
  (pieceFind meets ps 0).map fun x => (lineOf x.1.pa, (va + x.2) % 2 ^ 64)

/-- Whether a piece lies in the remote window. -/
def pieceRemote (s : Node) (p : Piece) : Bool :=
  match paKind s p.pa with
  | .remote _ _ => true
  | _ => false

/-- A byte of HBM as a core reads it: its own latest store still pending, else its die cache's where the page is cached, and
the home's where it is not. -/
def hostByte (s : Node) (c a pbmt : Nat) : Byte :=
  let own := (dieOf s (c / 8)).cache.stores.filter fun p => p.gable == 16 + c % 8 && p.line == lineOf a
  match (own.flatMap (·.bytes)).reverse.find? (fun p => p.1 == a % lineBytes) with
  | some p => p.2
  | none => if pbmt = 0 then dieByte s (c / 8) a else readByte s a

/-- The record of poison consumed by a core (R241, R547). -/
def hostPoison (s : Node) (c line code : Nat) : Node := logErr s (c / 8) 0x30 0x0105 (line * lineBytes) [(1, code)]

/-- A core's remote access that covers an address. -/
def coreRemote (s : Node) (c kind pa : Nat) : Option RemoteReq :=
  s.remotes.find? fun r => r.who == .core c && r.kind == kind && remotePa r == pa

/-- The bytes of a remote load, line by line (R335): each line is asked for once, and the load waits for every answer.
A failed one raises an access fault with one record (R337); an answer with the poison mark is consumed (R336). -/
def remoteLoad (s : Node) (c acc va : Nat) (pas : List Nat) : Node × HostRes :=
  let lines := distinctLines pas
  match lines.find? (fun l => !windowValid s (l * lineBytes)) with
  | some l => (logRemote s (c / 8) 0x30 0x0608 (l * lineBytes) [], .trap (accessFaultOf acc) va)
  | none =>
    let missing := lines.filter fun l => (coreRemote s c 0 (l * lineBytes)).isNone
    let open_ := lines.any fun l => ((coreRemote s c 0 (l * lineBytes)).bind (·.result)).isNone
    if open_ then
      (missing.foldl (fun s l => (startRemote s (.core c) 0 (l * lineBytes) lineBytes [] 0 0 0).1) s, .wait)
    else
      let answer := fun (l : Nat) => ((coreRemote s c 0 (l * lineBytes)).bind (·.result)).getD (0, [])
      let s1 := lines.foldl (fun s l => match coreRemote s c 0 (l * lineBytes) with
        | some r => takeRemote s r.id
        | none => s) s
      match lines.find? (fun l => (answer l).1 != 0) with
      | some l =>
        let code := (answer l).1
        let s2 := if code = 0x0105 then hostPoison s1 c l (if acc = accFetch then 9 else 8) else logRemote s1 (c / 8) 0x30 code (l * lineBytes) []
        (s2, .trap (accessFaultOf acc) va)
      | none => (s1, .ok (leValue (pas.map fun a => (answer (lineOf a)).2.getD (a % lineBytes) 0)))

/-- A line of HBM that a core reads or fetches: through its caches, or at the home through an uncached page. -/
def hostTouch (s : Node) (c line pbmt : Nat) (fetch : Bool) : Node :=
  if pbmt = 0 then noteCore (touchRead s (c / 8) line .host) (c / 8) line (c % 8) fetch else homeRead s (c / 24) clsHost line

/-- A piece of a load outside the remote window. -/
def pieceLoad (s : Node) (c acc va : Nat) (p : Piece) : Node × HostRes :=
  match paKind s p.pa with
  | .hbm =>
    let s1 := hostTouch s c (lineOf p.pa) p.pbmt (acc == accFetch)
    (s1, .ok (leValue ((pieceBytes p).map fun a => hostByte s1 c a p.pbmt)))
  | .scratch g off => (s, .ok (scratchLE s g off p.n))
  | .doorbell _ _ => (s, .ok 0)
  | .csr off =>
    let s1 := csrReadOp s (.core c) off p.n
    (withResp s1 s.resp, match s1.resp with
      | .data v => .ok v.toNat
      | _ => .trap 5 va)
  | _ => (s, .trap 5 va)

/-- The pieces of a load, in order; the bytes of remote ones have come already. -/
def loadPieces (c acc : Nat) : List Piece → List Byte → Nat → Node → Node × HostRes
  | [], _, _, s => (s, .ok 0)
  | p :: rest, got, va, s =>
    let far := pieceRemote s p
    match (if far then (s, .ok (leValue (got.take p.n))) else pieceLoad s c acc va p) with
    | (s1, .ok v) =>
      match loadPieces c acc rest (if far then got.drop p.n else got) ((va + p.n) % 2 ^ 64) s1 with
      | (s2, .ok w) => (s2, .ok (v + w * 256 ^ p.n))
      | r => r
    | r => r

/-- The pieces of an access of a core, remote bytes first, since the others wait for them. -/
def loadAll (s : Node) (c acc va : Nat) (ps : List Piece) : Node × HostRes :=
  let far := (ps.filter (pieceRemote s)).flatMap pieceBytes
  match (if far = [] then (s, .ok 0) else remoteLoad s c acc va far) with
  | (s1, .ok v) => loadPieces c acc ps (leBytes far.length v) va s1
  | r => r

/-- A load of `n` bytes (R189, R192, R229, R232, R241). -/
def hostLoad (s : Node) (c va n : Nat) : Node × HostRes :=
  let va := hostVa (coreOf s c) va accRead
  match firedTrig (coreOf s c) 0 va with
  | some _ => (s, .trap 3 va)
  | none =>
    match hostSpan s c va n accRead with
    | (s1, .trap code bad) => (s1, .trap code bad)
    | (s1, .ok ps) =>
      match hostRefuses s1 va ps, hostPoisoned s1 c va ps with
      | some bad, _ => (s1, .trap 5 bad)
      | none, some (line, bad) => (hostPoison (hostTouch s1 c line (ps.headD ⟨0, 0, 0⟩).pbmt false) c line 8, .trap 5 bad)
      | none, none => loadAll s1 c accRead va ps

/-- A piece of a store: to HBM through the core's cache, or at the home through an uncached page; to a window uncached. A
remote store to an invalid window is only recorded (R337). -/
def pieceStore (s : Node) (c va : Nat) (p : Piece) (l : List Byte) : Node × HostRes :=
  let bytes := (l.zipIdx).map fun x => (p.pa % lineBytes + x.2, x.1)
  match paKind s p.pa with
  | .hbm =>
    (if p.pbmt = 0 then storeLine s (c / 8) (16 + c % 8) 0 (lineOf p.pa) .host bytes
      else homeWrite s (c / 24) clsHost (lineOf p.pa) bytes false, .ok 0)
  | .scratch g off => (scratchWrite s g off l, .ok 0)
  | .doorbell q off => (doorbellWrite s q off l, .ok 0)
  | .csr off =>
    let s1 := csrWriteOp s (.core c) off p.n (BitVec.ofNat 64 (leValue l))
    (withResp s1 s.resp, if s1.resp = .done then .ok 0 else .trap 7 va)
  | .remote _ _ =>
    (if windowValid s p.pa then (startRemote s (.core c) 1 (lineOf p.pa * lineBytes) lineBytes bytes 0 0 0).1
      else logRemote s (c / 8) 0x30 0x0608 p.pa [], .ok 0)
  | .unmapped => (s, .trap 7 va)

/-- The pieces of a store, in order. -/
def storePieces (c : Nat) : List Piece → List Byte → Nat → Node → Node × HostRes
  | [], _, _, s => (s, .ok 0)
  | p :: rest, l, va, s =>
    match pieceStore s c va p (l.take p.n) with
    | (s1, .ok _) => storePieces c rest (l.drop p.n) ((va + p.n) % 2 ^ 64) s1
    | r => r

/-- A store of bytes (R189). -/
def hostStoreBytes (s : Node) (c va : Nat) (l : List Byte) : Node × HostRes :=
  match hostSpan s c va l.length accWrite with
  | (s1, .trap code bad) => (s1, .trap code bad)
  | (s1, .ok ps) =>
    match hostRefuses s1 va ps with
    | some bad => (s1, .trap 7 bad)
    | none => storePieces c ps l va s1

/-- A store of `n` bytes. -/
def hostStore (s : Node) (c va n v : Nat) : Node × HostRes :=
  let va := hostVa (coreOf s c) va accWrite
  match firedTrig (coreOf s c) 1 va with
  | some _ => (s, .trap 3 va)
  | none => hostStoreBytes s c va (leBytes n v)

/-! ## LR, SC and AMO (R189, R223) -/

/-- Whether a core's earlier stores are all globally visible, remote ones acknowledged (R229, R335). -/
def hostDrained (s : Node) (c : Nat) : Bool :=
  !storesPending s (c / 8) (16 + c % 8) 0 && !s.remotes.any fun r => r.who == .core c && r.kind == 1 && r.result.isNone

/-- Whether an earlier store of a core to a line is not yet globally visible. -/
def lineStores (s : Node) (c line : Nat) : Bool :=
  (dieOf s (c / 8)).cache.stores.any fun p => p.gable == 16 + c % 8 && p.line == line

/-- The one piece of an aligned access. -/
def hostOne (s : Node) (c va n acc : Nat) : Node × HostTrans :=
  match hostSpan s c va n acc with
  | (s1, .ok ps) => (s1, .ok (ps.headD ⟨0, 0, 0⟩).pa (ps.headD ⟨0, 0, 0⟩).pbmt)
  | (s1, .trap code _) => (s1, .trap code)

/-- LR: the line is obtained, and the whole of it is reserved. With the release bit it waits for the core's earlier stores
(R223, R225). -/
def hostLr (s : Node) (c va n : Nat) (rl : Bool) : Node × HostRes :=
  let va := hostVa (coreOf s c) va accRead
  if va % n ≠ 0 then (s, .trap 6 va)
  else match hostOne s c va n accRead with
    | (s1, .trap code) => (s1, .trap code va)
    | (s1, .ok pa pbmt) =>
      let line := lineOf pa
      if decide (paKind s1 pa ≠ .hbm) then (s1, .trap 5 va)
      else if readsPoison s1 (if pbmt = 0 then c / 8 else 12) line then (hostPoison (hostTouch s1 c line pbmt false) c line 8, .trap 5 va)
      else if rl && !hostDrained s1 c then (s1, .wait)
      else if holdSt s1 (c / 8) line = .i then (noteCore (askOnce s1 (c / 8) line false .host) (c / 8) line (c % 8) false, .wait)
      else
        let s2 := hostTouch s1 c line 0 false
        (modCore s2 c fun h => { h with resv := some line }, .ok (leValue ((pieceBytes ⟨pa, n, pbmt⟩).map fun a => hostByte s2 c a 0)))

/-- SC: it succeeds while the reservation stands, once the line may be written. 0 for success, 1 for failure. With the
release bit the store follows the core's earlier ones (R225); a store to the same line it follows in every case (R223). -/
def hostSc (s : Node) (c va n v : Nat) (rl : Bool) : Node × HostRes :=
  let va := hostVa (coreOf s c) va accWrite
  if va % n ≠ 0 then (s, .trap 6 va)
  else match hostOne s c va n accWrite with
    | (s1, .trap code) => (s1, .trap code va)
    | (s1, .ok pa _) =>
      let line := lineOf pa
      let st := holdSt s1 (c / 8) line
      let s0 := modCore s1 c fun h => { h with resv := none }
      if decide (paKind s1 pa ≠ .hbm) then (s1, .trap 7 va)
      else if rl && !hostDrained s1 c then (s1, .wait)
      else if (coreOf s1 c).resv ≠ some line ∨ st = .i then (s0, .ok 1)
      else if lineStores s1 c line then (s1, .wait)
      else if st ≠ .m ∧ st ≠ .e then (askOnce s1 (c / 8) line true .host, .wait)
      else (storeLine s0 (c / 8) (16 + c % 8) 0 line .host ((leBytes n v).mapIdx fun i b => (pa % lineBytes + i, b)), .ok 0)

/-- AMO: performed in the core's cache once it holds the line in M, at the home through an uncached page, or sent as an
ATOMIC (R335). The old value is the result. -/
def hostAmo (s : Node) (c func va n v : Nat) (rl : Bool) : Node × HostRes :=
  let va := hostVa (coreOf s c) va accAmo
  if va % n ≠ 0 then (s, .trap 6 va)
  else match hostOne s c va n accAmo with
    | (s1, .trap code) => (s1, .trap code va)
    | (s1, .ok pa pbmt) =>
      let line := lineOf pa
      let d := c / 8
      let bytes := fun (old : Nat) => (leBytes n (amoResult func n old (v % 2 ^ (8 * n)) 0)).mapIdx fun i b => (pa % lineBytes + i, b)
      if !pieceReaches s1 ⟨pa, n, pbmt⟩ then (s1, .trap 7 va)
      else match paKind s1 pa with
        | .hbm =>
          if readsPoison s1 (if pbmt = 0 then d else 12) line then (hostPoison (hostTouch s1 c line pbmt false) c line 8, .trap 7 va)
          else if (rl && !hostDrained s1 c) || lineStores s1 c line then (s1, .wait)
          else if pbmt ≠ 0 then
            let r := homeAtom s1 (c / 24) pa n func v 0
            (r.1, .ok r.2)
          else if holdSt s1 d line ≠ .m ∧ holdSt s1 d line ≠ .e then
            (noteCore (askOnce s1 d line true .host) d line (c % 8) false, .wait)
          else
            let old := leValue (dieBytes s1 d pa n)
            (storeLine s1 d (16 + c % 8) 0 line .host (bytes old), .ok old)
        | .remote _ _ =>
          if !windowValid s1 pa then (logRemote s1 d 0x30 0x0608 pa [], .trap 7 va)
          else match coreRemote s1 c 2 pa with
            | none =>
              if rl && !hostDrained s1 c then (s1, .wait)
              else ((startRemote s1 (.core c) 2 pa n [] func (v % 2 ^ (8 * n)) 0).1, .wait)
            | some r =>
              match r.result with
              | none => (s1, .wait)
              | some (code, data) =>
                let s2 := takeRemote s1 r.id
                if code = 0 then (s2, .ok (leValue (data.take n)))
                else if code = 0x0105 then (hostPoison s2 c line 8, .trap 7 va)
                else (logRemote s2 d 0x30 code pa [], .trap 7 va)
        | _ => (s1, .trap 7 va)

/-! ## Fetch -/

/-- An instruction fetch (R192, R232, R241, R337): whether it succeeds; the command carries the instruction itself. -/
def hostFetch (s : Node) (c len : Nat) : Node × HostRes :=
  let pc := (coreOf s c).pc
  match hostSpan s c pc len accFetch with
  | (s1, .trap code va) => (s1, .trap code va)
  | (s1, .ok ps) =>
    match hostRefuses s1 pc ps, hostPoisoned s1 c pc ps with
    | some bad, _ => (s1, .trap 1 bad)
    | none, some (line, bad) => (hostPoison (hostTouch s1 c line (ps.headD ⟨0, 0, 0⟩).pbmt true) c line 9, .trap 1 bad)
    | none, none =>
      if ps.any fun p => match paKind s1 p.pa with
        | .csr _ => true
        | .doorbell _ _ => true
        | _ => false
      then (s1, .trap 1 pc)
      else loadAll s1 c accFetch pc ps

end Sys2Proof.Machine
end

