-- ==== Sys2Proof/Machine/HostVec.lean ====
section
/-! DEFINITION. A host core's vector unit (R190, R191): the V extension with Zvfh, Zvfbfmin, Zvfbfwma, Zvbb, Zvkned and
Zvknhb, as the RISC-V specifications that the chapter names define them. Tail elements and masked-off elements keep their
values, under either agnostic setting. PRESUMED (log entry 187). -/

namespace Sys2Proof.Machine

/-- Ends a memory access: its value is used, the instruction waits to be presented again, or it raises an exception. -/
def hEnd (r : Node × HostRes) (c : Nat) (f : Node → Nat → Node) : Node :=
  match r with
  | (s, .ok v) => f s v
  | (s, .wait) => s
  | (s, .trap code va) =>
    if code = 3 then
      match firstBelow 4 fun i => trigFires (coreOf s c) i 0 va || trigFires (coreOf s c) i 1 va with
      | some i => trigAct s c i va
      | none => hTrap s c 3 va
    else hTrap s c code va

/-- The rounding mode an instruction uses (R191): 5 and 6 are illegal, and so is a frm that holds them. -/
def hRound (h : HostCore) (rm : Nat) : Option RMode :=
  let m := if rm = 7 then bits (hcsr h 3) 7 5 else rm
  if m ≤ 4 then rmOfCode m else none

/-! ## Settings and elements -/

/-- SEW in bits and eight times LMUL of a vtype; none for a reserved one. -/
def vtypeOf (v : Nat) : Option (Nat × Nat) :=
  let sew := 8 <<< bits v 5 3
  let lmul8 := match bits v 2 0 with
    | 0 => 8
    | 1 => 16
    | 2 => 32
    | 3 => 64
    | 5 => 1
    | 6 => 2
    | 7 => 4
    | _ => 0
  if v ≥ 2 ^ 8 ∨ sew > 64 ∨ lmul8 = 0 ∨ sew * 8 > 64 * lmul8 then none else some (sew, lmul8)

/-- VLMAX for VLEN 256 (R190). -/
def vlmax (sew lmul8 : Nat) : Nat := 256 * lmul8 / (8 * sew)

/-- An element of a vector register group. -/
def vElem (h : HostCore) (vd sew i : Nat) : Nat :=
  let at_ := i * sew
  bits (tblGet 0 h.v (vd + at_ / 256)) (at_ % 256 + sew - 1) (at_ % 256)

/-- The core with an element of a group written. -/
def vPut (h : HostCore) (vd sew i v : Nat) : HostCore :=
  let at_ := i * sew
  { h with v := tblMod 0 h.v (vd + at_ / 256) fun w => putBits w (at_ % 256 + sew - 1) (at_ % 256) v }

/-- A bit of a mask register. -/
def vBit (h : HostCore) (r i : Nat) : Bool := vElem h r 1 i == 1

/-- Whether element `i` is active: unmasked, or its bit of v0 is set. -/
def vActive (h : HostCore) (masked : Bool) (i : Nat) : Bool := !masked || vBit h 0 i

/-- The elements a vector instruction acts on: vstart to vl. -/
def vBody (h : HostCore) : List Nat := (List.range (hcsr h 0xC20)).drop (hcsr h 8)

/-- The active ones. -/
def vLive (h : HostCore) (masked : Bool) : List Nat := (vBody h).filter (vActive h masked)

/-- A finished vector instruction: vstart is zero and the vector state dirty. -/
def vRetire (s : Node) (c len : Nat) : Node := modCore s c fun h => hRetire (vsDirty (csrPut h 8 0)) len

/-- The AVL that a register names: x0 asks for VLMAX, or for the present vl where no result is kept. -/
def avlOf (h : HostCore) (rd rs1 : Nat) : Nat := if rs1 ≠ 0 then xGet h rs1 else if rd ≠ 0 then 2 ^ 64 else hcsr h 0xC20

/-- The vset family: vl is AVL limited to VLMAX; an unsupported vtype sets VILL. -/
def vSet (s : Node) (c len rd avl vtype : Nat) : Node :=
  if msField (coreOf s c) 10 9 = 0 then hIllegal s c
  else
    let (vt, vl) := match vtypeOf vtype with
      | none => (2 ^ 63, 0)
      | some (sew, lmul8) => (vtype, min avl (vlmax sew lmul8))
    modCore s c fun h => hRetire (xPut (vsDirty (csrPut (csrPut (csrPut h 0xC21 vt) 0xC20 vl) 8 0)) rd vl) len

/-! ## Register groups -/

/-- A register group: its first register, the width of its elements and eight times its EMUL. -/
structure VGrp where
  r : Nat
  eew : Nat
  emul8 : Nat
  deriving DecidableEq, Repr

/-- The registers a group takes. -/
def grpLen (g : VGrp) : Nat := max 1 (g.emul8 / 8)

/-- Whether a group exists: an EMUL of 1/8 to 8, an element width of at most 64 bits, an aligned first register. -/
def grpOk (g : VGrp) : Bool :=
  decide (1 ≤ g.emul8) && decide (g.emul8 ≤ 64) && decide (g.eew ≤ 64) && g.r % grpLen g == 0 && decide (g.r + grpLen g ≤ 32)

/-- Whether two groups share no register. -/
def grpApart (a b : VGrp) : Bool := decide (a.r + grpLen a ≤ b.r) || decide (b.r + grpLen b ≤ a.r)

/-- Whether a destination may lie as it does over a source: apart, of one element width, the lowest part of a wider source,
or a wider destination whose highest part is the source. -/
def grpOver (d s : VGrp) : Bool :=
  grpApart d s || d.eew == s.eew || (decide (d.eew < s.eew) && d.r == s.r) ||
  (decide (d.eew > s.eew) && decide (s.emul8 ≥ 8) && s.r + grpLen s == d.r + grpLen d)

/-- A mask register as a group. -/
def maskGrp (r : Nat) : VGrp := ⟨r, 1, 8⟩

/-- The groups that a second source takes: of an integer instruction, whose source is no floating-point register (a group
that does not exist stands for one), and of a floating-point one, whose source is a vector or a floating-point register. -/
def srcGrps (src : VSrc) (eew emul8 : Nat) : List VGrp :=
  match src with
  | .vec r => [⟨r, eew, emul8⟩]
  | .f _ => [⟨32, eew, emul8⟩]
  | _ => []
def fltGrps (src : VSrc) (eew emul8 : Nat) : List VGrp :=
  match src with
  | .vec r => [⟨r, eew, emul8⟩]
  | .f _ => []
  | _ => [⟨32, eew, emul8⟩]

/-- Whether a destination and its sources may be used together: each exists, the overlaps are allowed, and a masked
instruction does not write v0 but as a mask. -/
def vMay (d : VGrp) (srcs : List VGrp) (masked : Bool) : Bool :=
  grpOk d && srcs.all grpOk && srcs.all (grpOver d) && !(masked && d.r == 0 && d.eew != 1)

/-- Runs a vector instruction under legal settings; `f` gives the core, or nothing where the instruction is illegal. -/
def withV (s : Node) (c len : Nat) (f : HostCore → Nat → Nat → Option HostCore) : Node :=
  let h := coreOf s c
  match vtypeOf (hcsr h 0xC21) with
  | none => hIllegal s c
  | some (sew, lmul8) =>
    match (if msField h 10 9 = 0 then none else f h sew lmul8) with
    | none => hIllegal s c
    | some g => vRetire (modCore s c fun _ => g) c len

/-- The core where a condition holds. -/
def whenV (ok : Bool) (g : HostCore) : Option HostCore := if ok then some g else none

/-- Element `i` of a second source, as bits of a width; a scalar floating-point register is read through its boxing. -/
def srcAt (h : HostCore) (src : VSrc) (sew i : Nat) : Nat :=
  match src with
  | .vec r => vElem h r sew i
  | .x r => xGet h r % 2 ^ sew
  | .f r =>
    let f := if sew = 16 then Fmt.fp16 else if sew = 32 then .fp32 else .fp64
    unbox f (frGet h r)
  | .imm v => wrap sew v

/-- Writes every active element of a group by a function of its number; sources are read before anything is written. -/
def vMap (h : HostCore) (masked : Bool) (vd sew : Nat) (f : Nat → Nat) : HostCore :=
  (vLive h masked).foldl (fun g i => vPut g vd sew i (f i)) h

/-- The same for a function that also raises flags; the fixed-point saturation flag is 32. -/
def vMapF (h : HostCore) (masked : Bool) (vd sew : Nat) (f : Nat → Nat × Nat) : HostCore :=
  let r := (vLive h masked).foldl (fun (g, fl) i => (vPut g vd sew i (f i).1, fl ||| (f i).2)) (h, 0)
  let g := accrue r.1 r.2
  if bit r.2 5 then csrPut g 0x00F (hcsr g 0x00F ||| 1) else g

/-- Writes the active bits of a mask register. -/
def vMapMask (h : HostCore) (masked : Bool) (vd : Nat) (f : Nat → Bool) : HostCore := vMap h masked vd 1 fun i => b2n (f i)

/-! ## Integer functions -/

/-- A fixed-point value shifted right under a rounding mode: to nearest up, to nearest even, down, to odd. -/
def roundOff (vxrm : Nat) (v : Int) (d : Nat) : Int :=
  if d = 0 then v
  else
    let q := v / (2 ^ d : Int)
    let r := (v % (2 ^ d : Int)).toNat
    let half := 2 ^ (d - 1)
    match vxrm with
    | 0 => if r ≥ half then q + 1 else q
    | 1 => if r > half ∨ (r = half ∧ q % 2 = 1) then q + 1 else q
    | 2 => q
    | _ => if q % 2 = 0 ∧ r ≠ 0 then q + 1 else q

/-- A value held between limits; the flag says that it was not. -/
def clipTo (lo hi v : Int) : Int × Nat := if v < lo then (lo, 32) else if v > hi then (hi, 32) else (v, 0)
def clipS (w : Nat) (v : Int) : Nat × Nat := let r := clipTo (-(2 ^ (w - 1) : Int)) (2 ^ (w - 1) - 1) v; (wrap w r.1, r.2)
def clipU (w : Nat) (v : Int) : Nat × Nat := let r := clipTo 0 (2 ^ w - 1) v; (wrap w r.1, r.2)

/-- A function of two elements of `w` bits, `a` of vs2 and `b` of the second source: the result and the saturation flag. -/
def vBin (fn : VBin) (vxrm w a b : Nat) : Nat × Nat :=
  let sa := signed w a
  let sb := signed w b
  let sh := b % w
  match fn with
  | .add => ((a + b) % 2 ^ w, 0)
  | .sub => (wrap w ((a : Int) - b), 0)
  | .rsub => (wrap w ((b : Int) - a), 0)
  | .and => (a &&& b, 0)
  | .or => (a ||| b, 0)
  | .xor => (a ^^^ b, 0)
  | .minu => (min a b, 0)
  | .min => (if sa ≤ sb then a else b, 0)
  | .maxu => (max a b, 0)
  | .max => (if sa ≤ sb then b else a, 0)
  | .sll => ((a <<< sh) % 2 ^ w, 0)
  | .srl => (a >>> sh, 0)
  | .sra => (wrap w (sa / (2 ^ sh : Int)), 0)
  | .mul => (a * b % 2 ^ w, 0)
  | .mulh => (wrap w (sa * sb / (2 ^ w : Int)), 0)
  | .mulhu => (a * b / 2 ^ w, 0)
  | .mulhsu => (wrap w (sa * b / (2 ^ w : Int)), 0)
  | .divu => (divuOf w a b, 0)
  | .div => (divOf w a b, 0)
  | .remu => (remuOf a b, 0)
  | .rem => (remOf w a b, 0)
  | .saddu => clipU w ((a : Int) + b)
  | .sadd => clipS w (sa + sb)
  | .ssubu => clipU w ((a : Int) - b)
  | .ssub => clipS w (sa - sb)
  | .aaddu => (wrap w (roundOff vxrm ((a : Int) + b) 1), 0)
  | .aadd => (wrap w (roundOff vxrm (sa + sb) 1), 0)
  | .asubu => (wrap w (roundOff vxrm ((a : Int) - b) 1), 0)
  | .asub => (wrap w (roundOff vxrm (sa - sb) 1), 0)
  | .smul => clipS w (roundOff vxrm (sa * sb) (w - 1))
  | .ssrl => (wrap w (roundOff vxrm a sh), 0)
  | .ssra => (wrap w (roundOff vxrm sa sh), 0)
  | .andn => (a &&& (2 ^ w - 1 - b), 0)
  | .rol => (rotl w a b, 0)
  | .ror => (rotl w a (w - sh), 0)

/-- The bits of a `w`-bit value reversed. -/
def revBits (w v : Nat) : Nat := maskOf ((ones w v).map fun i => w - 1 - i)

/-- A function of one element. -/
def vUna (fn : VUna) (w a : Nat) : Nat :=
  match fn with
  | .brev => revBits w a
  | .brev8 => leValue ((leBytes (w / 8) a).map fun b => BitVec.ofNat 8 (revBits 8 b.toNat))
  | .rev8 => beValue (leBytes (w / 8) a)
  | .clz => clzOf w a
  | .ctz => ctzOf w a
  | .cpop => popCount w a

/-- A widening function: `a` is of `2 w` bits already where `wideA` says so. -/
def vWide (fn : VWide) (wideA : Bool) (w a b : Nat) : Nat :=
  let sa := if wideA then signed (2 * w) a else signed w a
  let sb := signed w b
  match fn with
  | .addu => (a + b) % 2 ^ (2 * w)
  | .add => wrap (2 * w) (sa + sb)
  | .subu => wrap (2 * w) ((a : Int) - b)
  | .sub => wrap (2 * w) (sa - sb)
  | .mul => wrap (2 * w) (sa * sb)
  | .mulu => a * b
  | .mulsu => wrap (2 * w) (sa * b)
  | .sll => (a <<< (b % (2 * w))) % 2 ^ (2 * w)

/-- A narrowing function of an element of `2 w` bits. -/
def vNarrow (fn : VNarrow) (vxrm w a b : Nat) : Nat × Nat :=
  let sh := b % (2 * w)
  let sa := signed (2 * w) a
  match fn with
  | .srl => (a >>> sh % 2 ^ w, 0)
  | .sra => (wrap w (sa / (2 ^ sh : Int)), 0)
  | .clipu => clipU w (roundOff vxrm a sh)
  | .clip => clipS w (roundOff vxrm sa sh)

/-- A multiply-add of vd, vs2 and the second source. -/
def vMac (fn : VMac) (w d a b : Nat) : Nat :=
  match fn with
  | .macc => wrap w ((b : Int) * a + d)
  | .nmsac => wrap w ((d : Int) - b * a)
  | .madd => wrap w ((b : Int) * d + a)
  | .nmsub => wrap w ((a : Int) - b * d)

/-- A widening multiply-add; MACCSU takes the second source as signed, MACCUS as unsigned. -/
def vWMac (fn : VWMac) (w d a b : Nat) : Nat :=
  match fn with
  | .maccu => wrap (2 * w) ((a : Int) * b + d)
  | .macc => wrap (2 * w) (signed w a * signed w b + d)
  | .maccsu => wrap (2 * w) (signed w b * a + d)
  | .maccus => wrap (2 * w) (signed w a * b + d)

/-- A comparison. -/
def vCmp (fn : VCmp) (w a b : Nat) : Bool :=
  let sa := signed w a
  let sb := signed w b
  match fn with
  | .eq => a == b
  | .ne => a != b
  | .ltu => decide (a < b)
  | .lt => decide (sa < sb)
  | .leu => decide (a ≤ b)
  | .le => decide (sa ≤ sb)
  | .gtu => decide (a > b)
  | .gt => decide (sa > sb)

/-- One step of a reduction. -/
def vRed (fn : VRed) (w a b : Nat) : Nat :=
  (vBin (match fn with
    | .sum => .add
    | .and => .and
    | .or => .or
    | .xor => .xor
    | .minu => .minu
    | .min => .min
    | .maxu => .maxu
    | .max => .max) 0 w a b).1

/-- A function of two mask bits. -/
def vMaskFn (fn : VMask) (a b : Bool) : Bool :=
  match fn with
  | .and => a && b
  | .nand => !(a && b)
  | .andn => a && !b
  | .xor => a != b
  | .or => a || b
  | .nor => !(a || b)
  | .orn => a || !b
  | .xnor => a == b

/-! ## Floating-point functions -/

/-- The format of a floating-point element. -/
def vFmt (sew : Nat) : Option Fmt := if sew = 16 then some .fp16 else if sew = 32 then some .fp32 else if sew = 64 then some .fp64 else none

/-- Whether vector floating point may run, and its rounding mode: an frm of 5 to 7 is illegal (R191). -/
def vRound (h : HostCore) : Option RMode := if msField h 14 13 = 0 then none else hRound h 7

/-- A function of two elements. -/
def vFBin (f : Fmt) (m : RMode) (fn : VFBin) (a b : Nat) : Flagged :=
  let w := fmtWidth f - 1
  let sgn := fun (neg : Bool) => (⟨a % 2 ^ w + (if neg then 2 ^ w else 0), 0⟩ : Flagged)
  match fn with
  | .add => fltFn f m .add a b 0
  | .sub => fltFn f m .sub a b 0
  | .rsub => fltFn f m .sub b a 0
  | .mul => fltFn f m .mul a b 0
  | .div => fltFn f m .div a b 0
  | .rdiv => fltFn f m .div b a 0
  | .min => fltFn f m .min a b 0
  | .max => fltFn f m .max a b 0
  | .sgnj => sgn (bit b w)
  | .sgnjn => sgn (!bit b w)
  | .sgnjx => sgn (bit a w != bit b w)

/-- A comparison of `a` of vs2 with `b`: the bit and the flags. -/
def vFCmp (f : Fmt) (fn : VFCmp) (a b : Nat) : Bool × Nat :=
  let r := match fn with
    | .eq => fcmpFn f .eq a b
    | .ne => fcmpFn f .eq a b
    | .lt => fcmpFn f .lt a b
    | .le => fcmpFn f .le a b
    | .gt => fcmpFn f .lt b a
    | .ge => fcmpFn f .le b a
  ((if fn = .ne then r.1 == 0 else r.1 == 1), r.2)

/-- A subnormal's exponent and fraction as the 7-bit estimates normalise them. -/
def normSub : Nat → Nat → Nat → Int → Int × Nat
  | 0, _, sig, e => (e, sig)
  | n + 1, fb, sig, e => if bit sig (fb - 1) then (e, (2 * sig) % 2 ^ fb) else normSub n fb (2 * sig) (e - 1)

/-- vfrec7's and vfrsqrt7's tables: the reciprocal, or the reciprocal square root, at the middle of each interval, to
seven bits. -/
def rec7Table (i : Nat) : Nat := (65536 * 2 + (2 * i + 257)) / (2 * (2 * i + 257)) - 128
def rsqrt7Table (i : Nat) : Nat :=
  ((if i < 64 then Nat.sqrt (16777216 / (2 * i + 129)) else Nat.sqrt (33554432 / (2 * (i - 64) + 129))) + 1) / 2 - 128

/-- The reciprocal estimate. -/
def rec7 (f : Fmt) (l : Layout) (m : RMode) (a : Nat) : Flagged :=
  let neg := bit a (l.expBits + l.fracBits)
  let sgn := if neg then 2 ^ (l.expBits + l.fracBits) else 0
  match numOfCode f a with
  | .nan sig => ⟨canonicalNan f, flIf sig flNV⟩
  | .inf _ => ⟨sgn, 0⟩
  | .fin _ 0 _ => ⟨infCode l neg, flDZ⟩
  | .fin _ _ _ =>
    let e0 := bits a (l.expBits + l.fracBits - 1) l.fracBits
    let sig0 := a % 2 ^ l.fracBits
    let (e, sig) : Int × Nat := if e0 = 0 then normSub l.fracBits l.fracBits sig0 0 else (e0, sig0)
    if e < -1 then
      ⟨if overflowToInf m neg then infCode l neg else maxFiniteCode l neg, flNX ||| flOF⟩
    else
      let frac := rec7Table (sig >>> (l.fracBits - 7)) <<< (l.fracBits - 7)
      let out : Int := 2 * (l.bias : Int) - 1 - e
      let half := frac >>> 1 ||| 2 ^ (l.fracBits - 1)
      if out = 0 then ⟨sgn + half, 0⟩
      else if out = -1 then ⟨sgn + half / 2, 0⟩
      else ⟨sgn + out.toNat <<< l.fracBits + frac, 0⟩

/-- The reciprocal square root estimate. -/
def rsqrt7 (f : Fmt) (l : Layout) (a : Nat) : Flagged :=
  match numOfCode f a with
  | .nan sig => ⟨canonicalNan f, flIf sig flNV⟩
  | .inf neg => if neg then ⟨canonicalNan f, flNV⟩ else ⟨0, 0⟩
  | .fin neg 0 _ => ⟨infCode l neg, flDZ⟩
  | .fin true _ _ => ⟨canonicalNan f, flNV⟩
  | .fin false _ _ =>
    let e0 := bits a (l.expBits + l.fracBits - 1) l.fracBits
    let sig0 := a % 2 ^ l.fracBits
    let (e, sig) : Int × Nat := if e0 = 0 then normSub l.fracBits l.fracBits sig0 0 else (e0, sig0)
    let i := (e % 2).toNat * 64 + sig >>> (l.fracBits - 6)
    let out : Int := (3 * (l.bias : Int) - 1 - e) / 2
    ⟨out.toNat <<< l.fracBits + rsqrt7Table i <<< (l.fracBits - 7), 0⟩

/-- A function of one element. -/
def vFUna (f : Fmt) (m : RMode) (fn : VFUna) (a : Nat) : Flagged :=
  match fmtLayout f with
  | none => ⟨0, 0⟩
  | some l =>
    match fn with
    | .sqrt => fltFn f m .sqrt a 0 0
    | .rsqrt7 => rsqrt7 f l a
    | .rec7 => rec7 f l m a
    | .class => ⟨fclassFn f a, 0⟩

/-- A conversion between floating-point formats; rounding to odd truncates and sets the last bit where that is inexact. -/
def vFToF (src dst : Fmt) (m : RMode) (odd : Bool) (a : Nat) : Flagged :=
  let r := fcvtFmt src dst (if odd then .rtz else m) a
  if odd && bit r.flags 0 then ⟨r.code ||| 1, r.flags⟩ else r

/-- The conversion of an element of `ws` bits to one of `wd` bits; none where a format does not exist. -/
def vCvt (k : VCvt) (m : RMode) (ws wd a : Nat) : Option Flagged :=
  match k with
  | .toInt sgn rtz => (vFmt ws).map fun f => let r := fcvtInt f (if rtz then .rtz else m) wd sgn a; ⟨r.1 % 2 ^ wd, r.2⟩
  | .ofInt sgn => (vFmt wd).map fun f => fcvtFrom f m ws sgn a
  | .toFlt odd => (vFmt ws).bind fun f => (vFmt wd).map fun t => vFToF f t m odd a
  | .bf16 =>
    if ws = 16 ∧ wd = 32 then some (fcvtFmt .bf16 .fp32 m a)
    else if ws = 32 ∧ wd = 16 then some (fcvtFmt .fp32 .bf16 m a) else none

/-- A fused multiply-add: the product or the addend negated. -/
def vFma (f : Fmt) (m : RMode) (negMul negAdd : Bool) (a b d : Nat) : Flagged := fmaFn f m negMul negAdd a b d

/-! ## AES and SHA-2 (Zvkned, Zvknhb) -/

/-- Multiplication in AES's field. -/
def gfMul (a b : Nat) : Nat :=
  ((List.range 8).foldl (fun (acc, x) i =>
    (if bit b i then acc ^^^ x else acc, let y := 2 * x; if y ≥ 256 then (y ^^^ 0x11B) % 256 else y)) ((0, a) : Nat × Nat)).1

/-- The inverse in the field: the 254th power; 0 for 0. -/
def gfInv (a : Nat) : Nat :=
  let sq := fun (x : Nat) => gfMul x x
  let a2 := sq a
  let a4 := sq a2
  let a8 := sq a4
  let a16 := sq a8
  let a32 := sq a16
  let a64 := sq a32
  [a4, a8, a16, a32, a64, sq a64].foldl gfMul a2

/-- The S-box and its inverse. -/
def sbox (a : Nat) : Nat :=
  let x := gfInv a
  x ^^^ rotl 8 x 1 ^^^ rotl 8 x 2 ^^^ rotl 8 x 3 ^^^ rotl 8 x 4 ^^^ 0x63
def sboxInv (a : Nat) : Nat := gfInv (rotl 8 a 1 ^^^ rotl 8 a 3 ^^^ rotl 8 a 6 ^^^ 0x05)

/-- The sixteen bytes of an AES state, column by column, and the value they make. -/
def aesBytes (v : Nat) : List Nat := (leBytes 16 v).map (·.toNat)
def aesValue (l : List Nat) : Nat := leValue (l.map (BitVec.ofNat 8))

/-- ShiftRows, row `r` by `r` columns, and back. -/
def shiftRows (back : Bool) (l : List Nat) : List Nat :=
  (List.range 16).map fun i =>
    let r := i % 4
    l.getD (4 * ((i / 4 + (if back then 4 - r else r)) % 4) + r) 0

/-- MixColumns by a row of coefficients. -/
def mixColumns (k : List Nat) (l : List Nat) : List Nat :=
  (List.range 16).map fun i => (List.range 4).foldl (fun x j =>
    x ^^^ gfMul (l.getD (4 * (i / 4) + j) 0) (k.getD ((j + 4 - i % 4) % 4) 0)) 0

/-- One AES round of a state under a round key. -/
def aesRound (fn : AesFn) (v key : Nat) : Nat :=
  let l := aesBytes v
  match fn with
  | .ef => aesValue (shiftRows false (l.map sbox)) ^^^ key
  | .em => aesValue (mixColumns [2, 3, 1, 1] (shiftRows false (l.map sbox))) ^^^ key
  | .df => aesValue ((shiftRows true l).map sboxInv) ^^^ key
  | .dm => aesValue (mixColumns [14, 11, 13, 9] (aesBytes (aesValue ((shiftRows true l).map sboxInv) ^^^ key)))
  | .z => v ^^^ key

/-- SubWord of the key schedule, and the round constants. -/
def subWord (v : Nat) : Nat := leValue ((leBytes 4 v).map fun b => BitVec.ofNat 8 (sbox b.toNat))
def rcon (r : Nat) : Nat := [0x01, 0x02, 0x04, 0x08, 0x10, 0x20, 0x40, 0x80, 0x1B, 0x36].getD r 0

/-- The next round key of AES-128 (first form) or AES-256 (second): `a` is the current key, `b` the key before it. -/
def aesKey (second : Bool) (rnd a b : Nat) : Nat :=
  let r := if second then (if rnd % 16 < 2 ∨ rnd % 16 > 14 then (rnd % 16) ^^^ 8 else rnd % 16)
    else (if rnd % 16 > 10 ∨ rnd % 16 = 0 then (rnd % 16) ^^^ 8 else rnd % 16)
  let w := fun (v i : Nat) => bits v (32 * i + 31) (32 * i)
  let top := w a 3
  let base := if second then b else a
  let turned := subWord (rotl 32 top 24)
  let t := if !second then turned ^^^ rcon (r - 1) else if r % 2 = 1 then subWord top else turned ^^^ rcon (r / 2 - 1)
  let w0 := t ^^^ w base 0
  let w1 := w0 ^^^ w base 1
  let w2 := w1 ^^^ w base 2
  w0 + w1 <<< 32 + w2 <<< 64 + (w2 ^^^ w base 3) <<< 96

/-- SHA-2's functions for words of 32 or 64 bits: two rotations and a shift, or three rotations. -/
def shaSmall (w x a b k : Nat) : Nat := rotl w x (w - a) ^^^ rotl w x (w - b) ^^^ x >>> k
def shaBig (w x a b k : Nat) : Nat := rotl w x (w - a) ^^^ rotl w x (w - b) ^^^ rotl w x (w - k)
def sig0 (w x : Nat) : Nat := if w = 32 then shaSmall w x 7 18 3 else shaSmall w x 1 8 7
def sig1 (w x : Nat) : Nat := if w = 32 then shaSmall w x 17 19 10 else shaSmall w x 19 61 6
def sum0 (w x : Nat) : Nat := if w = 32 then shaBig w x 2 13 22 else shaBig w x 28 34 39
def sum1 (w x : Nat) : Nat := if w = 32 then shaBig w x 6 11 25 else shaBig w x 14 18 41

/-- Four words of the message schedule: `d` holds W0 to W3, `a` W4 and W9 to W11, `b` W12 to W15. -/
def shaSchedule (w : Nat) (d a b : List Nat) : List Nat :=
  let g := fun (l : List Nat) (i : Nat) => l.getD i 0
  let next := fun (x p q r : Nat) => (sig1 w x + p + sig0 w q + r) % 2 ^ w
  let w16 := next (g b 2) (g a 1) (g d 1) (g d 0)
  let w17 := next (g b 3) (g a 2) (g d 2) (g d 1)
  let w18 := next w16 (g a 3) (g d 3) (g d 2)
  [w16, w17, w18, next w17 (g b 0) (g a 0) (g d 3)]

/-- A round of the compression of the eight words a to h under a message word. -/
def shaRound (w : Nat) (l : List Nat) (msg : Nat) : List Nat :=
  let g := fun (i : Nat) => l.getD i 0
  let ch := (g 4 &&& g 5) ^^^ ((2 ^ w - 1 - g 4) &&& g 6)
  let maj := (g 0 &&& g 1) ^^^ (g 0 &&& g 2) ^^^ (g 1 &&& g 2)
  let t1 := g 7 + sum1 w (g 4) + ch + msg
  [(t1 + sum0 w (g 0) + maj) % 2 ^ w, g 0, g 1, g 2, (g 3 + t1) % 2 ^ w, g 4, g 5, g 6]

/-- Two rounds: `a` holds f, e, b, a and `d` holds h, g, d, c, from the lowest element up. -/
def shaTwo (w : Nat) (high : Bool) (d a msg : List Nat) : List Nat :=
  let g := fun (l : List Nat) (i : Nat) => l.getD i 0
  let st := [g a 3, g a 2, g d 3, g d 2, g a 1, g a 0, g d 1, g d 0]
  let k := if high then 2 else 0
  let r := shaRound w (shaRound w st (g msg k)) (g msg (k + 1))
  [g r 5, g r 4, g r 1, g r 0]

/-- The four elements of element group `i`. -/
def group4 (h : HostCore) (r sew i : Nat) : List Nat := (List.range 4).map fun j => vElem h r sew (4 * i + j)

/-- The element groups of four that an instruction acts on; none where vl or vstart does not divide into them. -/
def groups4 (h : HostCore) : Option (List Nat) :=
  let vl := hcsr h 0xC20
  if vl % 4 = 0 ∧ hcsr h 8 % 4 = 0 then some ((List.range (vl / 4)).drop (hcsr h 8 / 4)) else none

/-- Writes element groups of four by a function of their number. -/
def vMap4 (h : HostCore) (vd sew : Nat) (l : List Nat) (f : Nat → List Nat) : HostCore :=
  l.foldl (fun g i => (List.range 4).foldl (fun g j => vPut g vd sew (4 * i + j) ((f i).getD j 0)) g) h

/-! ## Loads and stores -/

/-- One element of a vector load or store: its number, its address, its register group and its element there. -/
structure VItem where
  i : Nat
  va : Nat
  r : Nat
  at_ : Nat
  deriving DecidableEq, Repr

/-- A vector access stops at an element: vstart names it, and the vector state is dirty. -/
def vStops (s : Node) (c i : Nat) : Node := modCore s c fun h => vsDirty (csrPut h 8 i)

/-- A vector load, element by element (R190): under a fault-only-first load only element 0 traps, and a later exception
ends the vector there. An element that waits is resumed at. -/
def vLoadGo (c eew : Nat) (fof : Bool) : List VItem → Node → Node × HostRes
  | [], s => (s, .ok 0)
  | x :: rest, s =>
    match hostLoad s c x.va (eew / 8) with
    | (s1, .ok v) => vLoadGo c eew fof rest (modCore s1 c fun h => vPut h x.r eew x.at_ v)
    | (s1, .wait) => (vStops s1 c x.i, .wait)
    | (s1, .trap code va) =>
      if fof && decide (x.i > 0) then (modCore s c fun h => csrPut h 0xC20 x.i, .ok 0)
      else (vStops s1 c x.i, .trap code va)

/-- A vector store, element by element. -/
def vStoreGo (c eew : Nat) : List VItem → Node → Node × HostRes
  | [], s => (s, .ok 0)
  | x :: rest, s =>
    match hostStore s c x.va (eew / 8) (vElem (coreOf s c) x.r eew x.at_) with
    | (s1, .ok _) => vStoreGo c eew rest s1
    | (s1, .wait) => (vStops s1 c x.i, .wait)
    | (s1, .trap code va) => (vStops s1 c x.i, .trap code va)

/-- The elements of an access in order, each with its fields: a masked-off element performs no access (R190). -/
def vItems (h : HostCore) (live : List Nat) (m : VAddr) (eew nf vd len rs1 : Nat) : List VItem :=
  live.flatMap fun i => (List.range nf).map fun f =>
    let off := match m with
      | .unit => i * nf * (eew / 8)
      | .strided r => i * xGet h r
      | .indexed v w => vElem h v w i
    ⟨i, (xGet h rs1 + off + f * (eew / 8)) % 2 ^ 64, vd + f * len, i⟩

/-- The effective groups of an access: of the data, whose elements an indexed access takes from SEW, and of the indexes;
none where the instruction is illegal. -/
def vAccess (h : HostCore) (m : VAddr) (eew nf vd : Nat) (masked load : Bool) : Option (Nat × Nat) :=
  match vtypeOf (hcsr h 0xC21) with
  | none => none
  | some (sew, lmul8) =>
    let w := match m with
      | .indexed _ _ => sew
      | _ => eew
    let d : VGrp := ⟨vd, w, w * lmul8 / sew⟩
    let apart := match m with
      | .indexed v iw =>
        let x : VGrp := ⟨v, iw, iw * lmul8 / sew⟩
        grpOk x && (!load || grpOver d x) && (!load || nf == 1 || grpApart ⟨vd, w, 8 * nf * grpLen d⟩ x)
      | _ => true
    if msField h 10 9 = 0 ∨ !([8, 16, 32, 64].contains w) ∨ !grpOk d ∨ nf = 0 ∨ nf * grpLen d > 8 ∨ vd + nf * grpLen d > 32 ∨
        !apart ∨ (load ∧ masked ∧ vd = 0) then none
    else some (w, grpLen d)

/-- A load or store of listed elements. -/
def vMem (s : Node) (c len eew : Nat) (load fof : Bool) (l : List VItem) : Node :=
  hEnd (if load then vLoadGo c eew fof l s else vStoreGo c eew l s) c fun s _ => vRetire s c len

/-- A load or store of the elements vstart to vl. -/
def vMemOp (s : Node) (c len : Nat) (m : VAddr) (eew nf vd rs1 : Nat) (masked load fof : Bool) : Node :=
  let h := coreOf s c
  match vAccess h m eew nf vd masked load with
  | none => hIllegal s c
  | some (w, n) => vMem s c len w load fof (vItems h (vLive h masked) m w nf vd n rs1)

/-- A mask load or store moves ⌈vl / 8⌉ bytes, a whole-register one its registers, whatever the settings are. -/
def vMemPlain (s : Node) (c len eew n vd rs1 count : Nat) (load ok : Bool) : Node :=
  let h := coreOf s c
  if msField h 10 9 = 0 ∨ !ok ∨ vd + n > 32 then hIllegal s c
  else vMem s c len eew load false (vItems h ((List.range count).drop (hcsr h 8)) .unit eew 1 vd n rs1)

/-! ## One vector instruction -/

/-- Runs a floating-point vector instruction: its rounding mode has to be legal. -/
def withVF (s : Node) (c len : Nat) (f : HostCore → Nat → Nat → RMode → Option HostCore) : Node :=
  withV s c len fun h sew lmul8 => (vRound h).bind fun m => f h sew lmul8 m

/-- The groups of a source of any kind: a floating-point register needs a legal rounding mode and a floating-point width. -/
def anyGrps (h : HostCore) (src : VSrc) (sew lmul8 : Nat) : List VGrp :=
  match src with
  | .f _ => if (vRound h).isSome && (vFmt sew).isSome then [] else [⟨32, sew, lmul8⟩]
  | _ => srcGrps src sew lmul8

/-- VXRM. -/
def vxrm (h : HostCore) : Nat := bits (hcsr h 0x00F) 2 1

/-- The carry or borrow that an element takes from v0. -/
def vCarry (h : HostCore) (i : Nat) : Int := if vBit h 0 i then 1 else 0

/-- Instructions on integers. -/
def vecInt (s : Node) (c len : Nat) (op : VecOp) : Node :=
  withV s c len fun h sew lmul8 =>
    let grp := fun (r : Nat) => (⟨r, sew, lmul8⟩ : VGrp)
    let wideG := fun (r : Nat) => (⟨r, 2 * sew, 2 * lmul8⟩ : VGrp)
    match op with
    | .bin fn vd vs2 src masked =>
      whenV (vMay (grp vd) (grp vs2 :: srcGrps src sew lmul8) masked)
        (vMapF h masked vd sew fun i => vBin fn (vxrm h) sew (vElem h vs2 sew i) (srcAt h src sew i))
    | .una fn vd vs2 masked =>
      whenV (vMay (grp vd) [grp vs2] masked) (vMap h masked vd sew fun i => vUna fn sew (vElem h vs2 sew i))
    | .ext sgn k vd vs2 masked =>
      let w := sew / k
      whenV ([2, 4, 8].contains k && decide (w ≥ 8) && vMay (grp vd) [⟨vs2, w, lmul8 / k⟩] masked)
        (vMap h masked vd sew fun i => let v := vElem h vs2 w i; if sgn then wrap sew (signed w v) else v)
    | .wide fn wideA vd vs2 src masked =>
      whenV (vMay (wideG vd) ((if wideA then wideG vs2 else grp vs2) :: srcGrps src sew lmul8) masked)
        (vMap h masked vd (2 * sew) fun i =>
          vWide fn wideA sew (vElem h vs2 (if wideA then 2 * sew else sew) i) (srcAt h src sew i))
    | .narrow fn vd vs2 src masked =>
      whenV (vMay (grp vd) (wideG vs2 :: srcGrps src sew lmul8) masked)
        (vMapF h masked vd sew fun i => vNarrow fn (vxrm h) sew (vElem h vs2 (2 * sew) i)
          (match src with
            | .x r => xGet h r % 2 ^ 64
            | _ => srcAt h src sew i))
    | .mac fn vd vs2 src masked =>
      whenV (vMay (grp vd) (grp vs2 :: srcGrps src sew lmul8) masked)
        (vMap h masked vd sew fun i => vMac fn sew (vElem h vd sew i) (vElem h vs2 sew i) (srcAt h src sew i))
    | .wmac fn vd vs2 src masked =>
      whenV (vMay (wideG vd) (grp vs2 :: srcGrps src sew lmul8) masked)
        (vMap h masked vd (2 * sew) fun i =>
          vWMac fn sew (vElem h vd (2 * sew) i) (vElem h vs2 sew i) (srcAt h src sew i))
    | .adc sub vd vs2 src =>
      whenV (vMay (grp vd) (grp vs2 :: srcGrps src sew lmul8) true)
        (vMap h false vd sew fun i =>
          let b : Int := srcAt h src sew i
          wrap sew (if sub then vElem h vs2 sew i - b - vCarry h i else vElem h vs2 sew i + b + vCarry h i))
    | .madc sub carry vd vs2 src =>
      whenV (vMay (maskGrp vd) (grp vs2 :: srcGrps src sew lmul8) false)
        (vMapMask h false vd fun i =>
          let b : Int := srcAt h src sew i
          let k := if carry then vCarry h i else 0
          if sub then decide ((vElem h vs2 sew i : Int) - b - k < 0) else decide ((vElem h vs2 sew i : Int) + b + k ≥ 2 ^ sew))
    | .cmp fn vd vs2 src masked =>
      whenV (vMay (maskGrp vd) (grp vs2 :: srcGrps src sew lmul8) masked)
        (vMapMask h masked vd fun i => vCmp fn sew (vElem h vs2 sew i) (srcAt h src sew i))
    | .merge vd vs2 src =>
      whenV (vMay (grp vd) (grp vs2 :: anyGrps h src sew lmul8) true)
        (vMap h false vd sew fun i => if vBit h 0 i then srcAt h src sew i else vElem h vs2 sew i)
    | .mv vd src =>
      whenV (vMay (grp vd) (anyGrps h src sew lmul8) false) (vMap h false vd sew fun i => srcAt h src sew i)
    | .red fn vd vs2 vs1 masked =>
      whenV (grpOk (grp vs2) && hcsr h 8 == 0)
        (if hcsr h 0xC20 = 0 then h
        else vPut h vd sew 0 ((vLive h masked).foldl (fun a i => vRed fn sew a (vElem h vs2 sew i)) (vElem h vs1 sew 0)))
    | .wred sgn vd vs2 vs1 masked =>
      whenV (grpOk (grp vs2) && decide (sew ≤ 32) && hcsr h 8 == 0)
        (if hcsr h 0xC20 = 0 then h
        else vPut h vd (2 * sew) 0 ((vLive h masked).foldl (fun a i =>
          let v := vElem h vs2 sew i
          wrap (2 * sew) ((a : Int) + (if sgn then signed sew v else (v : Int)))) (vElem h vs1 (2 * sew) 0)))
    | _ => none

/-- Instructions on masks, and moves and permutations. -/
def vecMove (s : Node) (c len : Nat) (op : VecOp) : Node :=
  withV s c len fun h sew lmul8 =>
    let grp := fun (r : Nat) => (⟨r, sew, lmul8⟩ : VGrp)
    let vl := hcsr h 0xC20
    let fresh := hcsr h 8 == 0
    match op with
    | .mask fn vd vs2 vs1 => some (vMapMask h false vd fun i => vMaskFn fn (vBit h vs2 i) (vBit h vs1 i))
    | .cpop rd vs2 masked => whenV fresh (xPut h rd ((vLive h masked).filter (vBit h vs2)).length)
    | .first rd vs2 masked => whenV fresh (xPut h rd (((vLive h masked).find? (vBit h vs2)).getD (2 ^ 64 - 1)))
    | .msets fn vd vs2 masked =>
      let k := ((vLive h masked).find? (vBit h vs2)).getD vl
      whenV (fresh && vd != vs2 && !(masked && vd == 0)) (vMapMask h masked vd fun i => match fn with
        | .before => decide (i < k)
        | .including => decide (i ≤ k)
        | .only => i == k)
    | .iota vd vs2 masked =>
      whenV (fresh && vMay (grp vd) [] masked && grpApart (grp vd) (maskGrp vs2))
        (vMap h masked vd sew fun i => ((vLive h masked).filter fun j => decide (j < i) && vBit h vs2 j).length)
    | .vid vd masked => whenV (vMay (grp vd) [] masked) (vMap h masked vd sew id)
    | .mvXS rd vs2 => some (xPut h rd (wrap 64 (signed sew (vElem h vs2 sew 0))))
    | .mvSX vd rs1 => some (if hcsr h 8 < vl then vPut h vd sew 0 (xGet h rs1 % 2 ^ sew) else h)
    | .mvFS rd vs2 =>
      (vRound h).bind fun _ => (vFmt sew).map fun t => frPut h rd (boxed t (vElem h vs2 sew 0))
    | .mvSF vd rs1 =>
      (vRound h).bind fun _ => (vFmt sew).map fun _ => if hcsr h 8 < vl then vPut h vd sew 0 (srcAt h (.f rs1) sew 0) else h
    | .slideUp vd vs2 src masked =>
      let off := srcAt h src 64 0
      whenV (vMay (grp vd) [grp vs2] masked && grpApart (grp vd) (grp vs2))
        (vMap h masked vd sew fun i => if i < off then vElem h vd sew i else vElem h vs2 sew (i - off))
    | .slideDown vd vs2 src masked =>
      let off := srcAt h src 64 0
      whenV (vMay (grp vd) [grp vs2] masked)
        (vMap h masked vd sew fun i => if i + off < vlmax sew lmul8 then vElem h vs2 sew (i + off) else 0)
    | .slide1Up vd vs2 src masked =>
      whenV (vMay (grp vd) (grp vs2 :: anyGrps h src sew lmul8) masked && grpApart (grp vd) (grp vs2))
        (vMap h masked vd sew fun i => if i = 0 then srcAt h src sew 0 else vElem h vs2 sew (i - 1))
    | .slide1Down vd vs2 src masked =>
      whenV (vMay (grp vd) (grp vs2 :: anyGrps h src sew lmul8) masked)
        (vMap h masked vd sew fun i => if i + 1 = vl then srcAt h src sew 0 else vElem h vs2 sew (i + 1))
    | .gather vd vs2 src index16 masked =>
      let w := if index16 then 16 else sew
      let ix := fun (i : Nat) => match src with
        | .x r => xGet h r
        | _ => srcAt h src w i
      let idx := srcGrps src w (w * lmul8 / sew)
      whenV (vMay (grp vd) (grp vs2 :: idx) masked && (grp vs2 :: idx).all (grpApart (grp vd)))
        (vMap h masked vd sew fun i => if ix i ≥ vlmax sew lmul8 then 0 else vElem h vs2 sew (ix i))
    | .compress vd vs2 vs1 =>
      whenV (fresh && vMay (grp vd) [grp vs2] false && grpApart (grp vd) (grp vs2) && grpApart (grp vd) (maskGrp vs1))
        (((vBody h).filter (vBit h vs1)).zipIdx.foldl (fun g p => vPut g vd sew p.2 (vElem h vs2 sew p.1)) h)
    | _ => none

/-- Instructions on floating-point elements. -/
def vecFlt (s : Node) (c len : Nat) (op : VecOp) : Node :=
  withVF s c len fun h sew lmul8 m =>
    let grp := fun (r : Nat) => (⟨r, sew, lmul8⟩ : VGrp)
    let wideG := fun (r : Nat) => (⟨r, 2 * sew, 2 * lmul8⟩ : VGrp)
    let pair := fun (r : Flagged) => (r.code, r.flags)
    let both := (vFmt sew).bind fun t => (vFmt (2 * sew)).map fun u => (t, u)
    let widen := fun (t u : Fmt) (v : Nat) => pair (fcvtFmt t u m v)
    match op with
    | .fbin fn vd vs2 src masked => (vFmt sew).bind fun t =>
      whenV (vMay (grp vd) (grp vs2 :: fltGrps src sew lmul8) masked)
        (vMapF h masked vd sew fun i => pair (vFBin t m fn (vElem h vs2 sew i) (srcAt h src sew i)))
    | .fwide fn wideA vd vs2 src masked => both.bind fun (t, u) =>
      whenV (vMay (wideG vd) ((if wideA then wideG vs2 else grp vs2) :: fltGrps src sew lmul8) masked)
        (vMapF h masked vd (2 * sew) fun i =>
          let a := if wideA then (vElem h vs2 (2 * sew) i, 0) else widen t u (vElem h vs2 sew i)
          let b := widen t u (srcAt h src sew i)
          let r := fltFn u m fn a.1 b.1 0
          (r.code, r.flags ||| a.2 ||| b.2))
    | .fma nm na addVd vd vs2 src masked => (vFmt sew).bind fun t =>
      whenV (vMay (grp vd) (grp vs2 :: fltGrps src sew lmul8) masked)
        (vMapF h masked vd sew fun i =>
          let d := vElem h vd sew i
          let a := vElem h vs2 sew i
          let b := srcAt h src sew i
          pair (if addVd then vFma t m nm na b a d else vFma t m nm na b d a))
    | .fwma nm na bf vd vs2 src masked =>
      (if bf then (if sew = 16 then some (Fmt.bf16, Fmt.fp32) else none) else both).bind fun (t, u) =>
      whenV (vMay (wideG vd) (grp vs2 :: fltGrps src sew lmul8) masked)
        (vMapF h masked vd (2 * sew) fun i =>
          let a := widen t u (vElem h vs2 sew i)
          let b := widen t u (match src with
            | .f r => unbox t (frGet h r)
            | _ => srcAt h src sew i)
          let r := vFma u m nm na b.1 a.1 (vElem h vd (2 * sew) i)
          (r.code, r.flags ||| a.2 ||| b.2))
    | .funa fn vd vs2 masked => (vFmt sew).bind fun t =>
      whenV (vMay (grp vd) [grp vs2] masked) (vMapF h masked vd sew fun i => pair (vFUna t m fn (vElem h vs2 sew i)))
    | .fcmp fn vd vs2 src masked => (vFmt sew).bind fun t =>
      whenV (vMay (maskGrp vd) (grp vs2 :: fltGrps src sew lmul8) masked)
        (vMapF h masked vd 1 fun i => let r := vFCmp t fn (vElem h vs2 sew i) (srcAt h src sew i); (b2n r.1, r.2))
    | .fred fn vd vs2 vs1 masked => (vFmt sew).bind fun t =>
      let k := match fn with
        | .sum => FltFn.add
        | .min => .min
        | .max => .max
      let r := (vLive h masked).foldl (fun (x : Nat × Nat) i =>
        let y := fltFn t m k x.1 (vElem h vs2 sew i) 0
        (y.code, x.2 ||| y.flags)) (vElem h vs1 sew 0, 0)
      whenV (grpOk (grp vs2) && hcsr h 8 == 0) (if hcsr h 0xC20 = 0 then h else accrue (vPut h vd sew 0 r.1) r.2)
    | .fwred vd vs2 vs1 masked => both.bind fun (t, u) =>
      let r := (vLive h masked).foldl (fun (x : Nat × Nat) i =>
        let a := widen t u (vElem h vs2 sew i)
        let y := fltFn u m .add x.1 a.1 0
        (y.code, x.2 ||| a.2 ||| y.flags)) (vElem h vs1 (2 * sew) 0, 0)
      whenV (grpOk (grp vs2) && hcsr h 8 == 0) (if hcsr h 0xC20 = 0 then h else accrue (vPut h vd (2 * sew) 0 r.1) r.2)
    | .cvt k w vd vs2 masked =>
      let (ws, wd, g2, gd) := match w with
        | .same => (sew, sew, grp vs2, grp vd)
        | .wide => (sew, 2 * sew, grp vs2, wideG vd)
        | .narrow => (2 * sew, sew, wideG vs2, grp vd)
      (vCvt k m ws wd 0).bind fun _ =>
      whenV (vMay gd [g2] masked && (ws != wd || match k with
        | .toFlt _ => false
        | _ => true))
        (vMapF h masked vd wd fun i => ((vCvt k m ws wd (vElem h vs2 ws i)).map pair).getD (0, 0))
    | _ => none

/-- AES and SHA-2 instructions, on element groups of four. -/
def vecCrypto (s : Node) (c len : Nat) (op : VecOp) : Node :=
  withV s c len fun h sew lmul8 =>
    let grp := fun (r : Nat) => (⟨r, sew, lmul8⟩ : VGrp)
    let room := decide (256 * lmul8 / 8 ≥ 4 * sew)
    let w128 := fun (l : List Nat) => leValue (l.flatMap (leBytes 4))
    let parts := fun (v : Nat) => (List.range 4).map fun j => bits v (32 * j + 31) (32 * j)
    (groups4 h).bind fun l =>
    match op with
    | .aes fn scalar vd vs2 =>
      let key := if scalar then (⟨vs2, sew, 8⟩ : VGrp) else grp vs2
      whenV (sew == 32 && room && (scalar || decide (fn ≠ .z)) && vMay (grp vd) [key] false && (!scalar || grpApart (grp vd) key))
        (vMap4 h vd sew l fun i =>
          parts (aesRound fn (w128 (group4 h vd sew i)) (w128 (group4 h vs2 sew (if scalar then 0 else i)))))
    | .aesKey second vd vs2 rnd =>
      whenV (sew == 32 && room && vMay (grp vd) [grp vs2] false)
        (vMap4 h vd sew l fun i => parts (aesKey second rnd (w128 (group4 h vs2 sew i)) (w128 (group4 h vd sew i))))
    | .shaMs vd vs2 vs1 =>
      whenV ((sew == 32 || sew == 64) && room && vMay (grp vd) [grp vs2, grp vs1] false && grpApart (grp vd) (grp vs2) && grpApart (grp vd) (grp vs1))
        (vMap4 h vd sew l fun i => shaSchedule sew (group4 h vd sew i) (group4 h vs2 sew i) (group4 h vs1 sew i))
    | .shaC high vd vs2 vs1 =>
      whenV ((sew == 32 || sew == 64) && room && vMay (grp vd) [grp vs2, grp vs1] false && grpApart (grp vd) (grp vs2) && grpApart (grp vd) (grp vs1))
        (vMap4 h vd sew l fun i => shaTwo sew high (group4 h vd sew i) (group4 h vs2 sew i) (group4 h vs1 sew i))
    | _ => none

/-- A whole-register move: under legal settings, the elements from vstart on of `n` registers, of SEW bits each. -/
def vWhole (s : Node) (c len n vd vs2 : Nat) : Node :=
  withV s c len fun h sew _ =>
    whenV ([1, 2, 4, 8].contains n && vd % max 1 n == 0 && vs2 % max 1 n == 0 && decide (vd + n ≤ 32) && decide (vs2 + n ≤ 32))
      (((List.range (n * 256 / sew)).drop (hcsr h 8)).foldl (fun g i => vPut g vd sew i (vElem h vs2 sew i)) h)

/-- The meaning of a vector instruction. -/
def vecEffect (s : Node) (c len : Nat) (op : VecOp) : Node :=
  match op with
  | .load m eew nf vd rs1 masked fof => vMemOp s c len m eew nf vd rs1 masked true fof
  | .store m eew nf vs rs1 masked => vMemOp s c len m eew nf vs rs1 masked false false
  | .loadMask vd rs1 => vMemPlain s c len 8 1 vd rs1 (ceilDiv (hcsr (coreOf s c) 0xC20) 8) true (vtypeOf (hcsr (coreOf s c) 0xC21)).isSome
  | .storeMask vs rs1 => vMemPlain s c len 8 1 vs rs1 (ceilDiv (hcsr (coreOf s c) 0xC20) 8) false (vtypeOf (hcsr (coreOf s c) 0xC21)).isSome
  | .loadWhole n eew vd rs1 =>
    vMemPlain s c len eew n vd rs1 (n * 256 / max 1 eew) true ([1, 2, 4, 8].contains n && [8, 16, 32, 64].contains eew && vd % max 1 n == 0)
  | .storeWhole n vs rs1 => vMemPlain s c len 8 n vs rs1 (n * 32) false ([1, 2, 4, 8].contains n && vs % max 1 n == 0)
  | .mvWhole n vd vs2 => vWhole s c len n vd vs2
  | .bin _ _ _ _ _ | .una _ _ _ _ | .ext _ _ _ _ _ | .wide _ _ _ _ _ _ | .narrow _ _ _ _ _ | .mac _ _ _ _ _ | .wmac _ _ _ _ _ => vecInt s c len op
  | .adc _ _ _ _ | .madc _ _ _ _ _ | .cmp _ _ _ _ _ | .merge _ _ _ | .red _ _ _ _ _ | .wred _ _ _ _ _ => vecInt s c len op
  | .mv _ _ => vecInt s c len op
  | .mask _ _ _ _ | .cpop _ _ _ | .first _ _ _ | .msets _ _ _ _ | .iota _ _ _ | .vid _ _ | .mvXS _ _ | .mvSX _ _ | .mvFS _ _ | .mvSF _ _ => vecMove s c len op
  | .slideUp _ _ _ _ | .slideDown _ _ _ _ | .slide1Up _ _ _ _ | .slide1Down _ _ _ _ | .gather _ _ _ _ _ | .compress _ _ _ => vecMove s c len op
  | .fbin _ _ _ _ _ | .fwide _ _ _ _ _ _ | .fma _ _ _ _ _ _ _ | .fwma _ _ _ _ _ _ _ | .funa _ _ _ _ | .fcmp _ _ _ _ _ => vecFlt s c len op
  | .fred _ _ _ _ _ | .fwred _ _ _ _ | .cvt _ _ _ _ _ => vecFlt s c len op
  | .aes _ _ _ _ | .aesKey _ _ _ _ | .shaMs _ _ _ | .shaC _ _ _ _ => vecCrypto s c len op

end Sys2Proof.Machine
end

