-- ==== Sys2Proof/Machine/HostCores.lean ====
section
/-! DEFINITION. What a host core's instructions do (R186 to R193). A command carries the instruction and its length; the
fetch is performed for its exceptions. -/

namespace Sys2Proof.Machine

/-- Writes an integer register and goes on. -/
def hWrite (s : Node) (c len rd v : Nat) : Node := modCore s c fun h => hRetire (xPut h rd v) len

/-- An address: a register and an offset. -/
def hAddr (h : HostCore) (rs1 : Nat) (off : Int) : Nat := wrap 64 ((xGet h rs1 : Int) + off)

/-! ## Floating point -/

/-- Runs a floating-point instruction in a format, unless the floating-point state is off. -/
def withFp (s : Node) (c fmt : Nat) (f : Fmt → Node) : Node :=
  match fpFmt fmt with
  | some t => if msField (coreOf s c) 14 13 = 0 then hIllegal s c else f t
  | none => hIllegal s c

/-- The same, with a rounding mode. -/
def withRm (s : Node) (c fmt rm : Nat) (f : Fmt → RMode → Node) : Node :=
  withFp s c fmt fun t =>
    match hRound (coreOf s c) rm with
    | some m => f t m
    | none => hIllegal s c

/-- A floating-point result written, its flags accrued. -/
def hFlt (s : Node) (c len rd : Nat) (t : Fmt) (r : Flagged) : Node :=
  modCore s c fun h => hRetire (accrue (frPut h rd (boxed t r.code)) r.flags) len

/-- An integer result of a floating-point instruction. -/
def hFltInt (s : Node) (c len rd : Nat) (r : Nat × Nat) : Node :=
  modCore s c fun h => hRetire (accrue (xPut h rd r.1) r.2) len

/-- A source operand in a format. -/
def fSrc (s : Node) (c : Nat) (t : Fmt) (r : Nat) : Nat := unbox t (frGet (coreOf s c) r)

/-! ## One instruction -/

/-- A jump: the link register takes the next instruction's address. -/
def hJump (s : Node) (c len rd target : Nat) : Node :=
  modCore s c fun h => { xPut (retired h) rd ((h.pc + len) % 2 ^ 64) with pc := target }

/-- A control transfer to a target; every instruction may start at any even address. -/
def hBranch (s : Node) (c len : Nat) (taken : Bool) (off : Int) : Node :=
  modCore s c fun h => if taken then { retired h with pc := wrap 64 ((h.pc : Int) + off) } else hRetire h len

/-- The meaning of an instruction, its fetch done. -/
def hostEffect (s : Node) (c len : Nat) (ins : HostOp) : Node :=
  let h := coreOf s c
  match ins with
  | .op fn rd rs1 rs2 => hWrite s c len rd (rvFn fn (xGet h rs1) (xGet h rs2))
  | .opImm fn rd rs1 imm => hWrite s c len rd (rvFn fn (xGet h rs1) (wrap 64 imm))
  | .lui rd imm => hWrite s c len rd (wrap 64 imm)
  | .auipc rd imm => hWrite s c len rd (wrap 64 ((h.pc : Int) + imm))
  | .branch cond rs1 rs2 off => hBranch s c len (condHolds cond (xGet h rs1) (xGet h rs2)) off
  | .jal rd off => hJump s c len rd (wrap 64 ((h.pc : Int) + off))
  | .jalr rd rs1 off => hJump s c len rd (hAddr h rs1 off / 2 * 2)
  | .load size sgn rd rs1 off =>
    if !([1, 2, 4, 8].contains size) then hIllegal s c
    else hEnd (hostLoad s c (hAddr h rs1 off) size) c fun s v =>
      hWrite s c len rd (if sgn then wrap 64 (signed (8 * size) v) else v)
  | .store size rs1 rs2 off =>
    if !([1, 2, 4, 8].contains size) then hIllegal s c
    else hEnd (hostStore s c (hAddr h rs1 off) size (xGet h rs2)) c fun s _ => modCore s c fun h => hRetire h len
  | .fload size rd rs1 off =>
    withFp s c size fun _ =>
      if size = 1 then hIllegal s c
      else hEnd (hostLoad s c (hAddr h rs1 off) size) c fun s v =>
        modCore s c fun h => hRetire (frPut h rd (2 ^ 64 - 2 ^ (8 * size) + v)) len
  | .fstore size rs1 rs2 off =>
    withFp s c size fun _ =>
      if size = 1 then hIllegal s c
      else hEnd (hostStore s c (hAddr h rs1 off) size (frGet h rs2)) c fun s _ => modCore s c fun h => hRetire h len
  | .lr size rd rs1 _ rl =>
    if !([4, 8].contains size) then hIllegal s c
    else hEnd (hostLr s c (xGet h rs1) size rl) c fun s v => hWrite s c len rd (wrap 64 (signed (8 * size) v))
  | .sc size rd rs1 rs2 _ rl =>
    if !([4, 8].contains size) then hIllegal s c
    else hEnd (hostSc s c (xGet h rs1) size (xGet h rs2) rl) c fun s v => hWrite s c len rd v
  | .amo func size rd rs1 rs2 _ rl =>
    if !([4, 8].contains size) || decide (func > 8) then hIllegal s c
    else hEnd (hostAmo s c func (xGet h rs1) size (xGet h rs2) rl) c fun s v => hWrite s c len rd (wrap 64 (signed (8 * size) v))
  | .fence => if hostDrained s c then modCore s c fun h => hRetire h len else s
  | .fenceI => modCore s c fun h => hRetire h len
  | .hint => modCore s c fun h => hRetire h len
  | .wfi =>
    if h.mode ≠ 3 ∧ msField h 21 21 = 1 then hIllegal s c else modCore s c fun h => { hRetire h len with waiting := true }
  | .wrs => modCore s c fun h => { hRetire h len with waiting := h.resv.isSome }
  | .csr fn num rd src => csrInstr s c len fn num rd src
  | .ecall => hTrap s c (if h.mode = 3 then 11 else 8 + h.mode) 0
  | .ebreak =>
    if debugOpen s && bit (dcsrOf h) (if h.mode = 3 then 15 else if h.mode = 1 then 13 else 12) then enterDebug s c 1
    else hTrap (bump s) c 3 (if Config.freeNat s.fresh % 2 = 0 then 0 else h.pc)
  | .mret => if h.mode = 3 then modCore s c fun h => mretOf (retired h) else hIllegal s c
  | .sret => if h.mode = 0 ∨ (h.mode = 1 ∧ msField h 22 22 = 1) then hIllegal s c else modCore s c fun h => sretOf (retired h)
  | .fp fmt fn rm rd rs1 rs2 rs3 =>
    if fmt = 1 then hIllegal s c
    else withRm s c fmt (if fn = .min ∨ fn = .max then 0 else rm) fun t m =>
      hFlt s c len rd t (fltFn t m fn (fSrc s c t rs1) (fSrc s c t rs2) (fSrc s c t rs3))
  | .fma fmt nm na rm rd rs1 rs2 rs3 =>
    if fmt = 1 then hIllegal s c
    else withRm s c fmt rm fun t m => hFlt s c len rd t (fmaFn t m nm na (fSrc s c t rs1) (fSrc s c t rs2) (fSrc s c t rs3))
  | .fsgnj fmt kind rd rs1 rs2 =>
    if fmt = 1 ∨ kind > 2 then hIllegal s c
    else withFp s c fmt fun t =>
      let a := fSrc s c t rs1
      let w := fmtWidth t - 1
      let sb := bit (fSrc s c t rs2) w
      let sg := if kind = 0 then sb else if kind = 1 then !sb else bit a w != sb
      hFlt s c len rd t ⟨a % 2 ^ w + (if sg then 2 ^ w else 0), 0⟩
  | .fcmp fmt cmp rd rs1 rs2 =>
    if fmt = 1 then hIllegal s c
    else withFp s c fmt fun t => hFltInt s c len rd (fcmpFn t cmp (fSrc s c t rs1) (fSrc s c t rs2))
  | .fclass fmt rd rs1 =>
    if fmt = 1 then hIllegal s c else withFp s c fmt fun t => hFltInt s c len rd (fclassFn t (fSrc s c t rs1), 0)
  | .fli fmt rd k => if fmt = 1 ∨ k ≥ 32 then hIllegal s c else withFp s c fmt fun t => hFlt s c len rd t ⟨fliFn t k, 0⟩
  | .fround fmt rm exact rd rs1 =>
    if fmt = 1 then hIllegal s c else withRm s c fmt rm fun t m => hFlt s c len rd t (froundFn t m exact (fSrc s c t rs1))
  | .fcvtMod rd rs1 => withFp s c 8 fun t => hFltInt s c len rd (fcvtModFn (fSrc s c t rs1))
  | .fminmax fmt mx rd rs1 rs2 =>
    if fmt = 1 then hIllegal s c else withFp s c fmt fun t => hFlt s c len rd t (fminmFn t mx (fSrc s c t rs1) (fSrc s c t rs2))
  | .fcmpQuiet fmt cmp rd rs1 rs2 =>
    if fmt = 1 then hIllegal s c
    else withFp s c fmt fun t => hFltInt s c len rd (fcmpQuietFn t cmp (fSrc s c t rs1) (fSrc s c t rs2))
  | .fcvtFF src dst rm rd rs1 =>
    withRm s c src rm fun f m =>
      match fpFmt dst with
      | some t => if src = dst ∨ ((src = 1 ∨ dst = 1) ∧ src ≠ 4 ∧ dst ≠ 4) then hIllegal s c
        else hFlt s c len rd t (fcvtFmt f t m (fSrc s c f rs1))
      | none => hIllegal s c
  | .fcvtFI fmt rm width sgn rd rs1 =>
    if fmt = 1 ∨ ¬(width = 32 ∨ width = 64) then hIllegal s c
    else withRm s c fmt rm fun t m => hFltInt s c len rd (fcvtInt t m width sgn (fSrc s c t rs1))
  | .fcvtIF fmt rm width sgn rd rs1 =>
    if fmt = 1 ∨ ¬(width = 32 ∨ width = 64) then hIllegal s c
    else withRm s c fmt rm fun t m => hFlt s c len rd t (fcvtFrom t m width sgn (xGet h rs1))
  | .fmvXF fmt rd rs1 =>
    withFp s c fmt fun t => hFltInt s c len rd (wrap 64 (signed (fmtWidth t) (frGet h rs1 % 2 ^ fmtWidth t)), 0)
  | .fmvFX fmt rd rs1 => withFp s c fmt fun t => hFlt s c len rd t ⟨xGet h rs1 % 2 ^ fmtWidth t, 0⟩
  | .vset rd rs1 vtype => vSet s c len rd (avlOf h rd rs1) vtype
  | .vseti rd avl vtype => vSet s c len rd avl vtype
  | .vsetr rd rs1 rs2 => vSet s c len rd (avlOf h rd rs1) (xGet h rs2)
  | .vec op => vecEffect s c len op
  | .mop rd => hWrite s c len rd 0
  | .hypervisor => hIllegal s c
  | .reserved => hIllegal s c

/-- Whether a core runs instructions: its die is in service and it is not halted (R528). -/
def hostRuns (s : Node) (c : Nat) : Bool := !isFenced s (c / 8) && !s.ctl.test.halted.contains c

/-- A core that debug steps enters debug mode with cause 4 when an instruction has ended (RISC-V Debug 1.0). -/
def stepEnds (t : Node) (c : Nat) : Node :=
  if t.ctl.test.stepping.contains c && !t.ctl.test.halted.contains c then enterDebug t c 4 else t

/-- One instruction of a core: an interrupt that is due is taken in its place; a trigger or the fetch may raise an
exception; a core that is being stepped halts afterwards. -/
def hostRun (s0 : Node) (c len : Nat) (f : Node → Node) : Node :=
  if !hostRuns s0 c then s0
  else
    let s := hpmStep (modCore s0 c fun h => { h with waiting := false }) c
    match intrDue (coreOf s c) with
    | some i => modCore s c fun h => takeTrap h true i 0
    | none =>
      let pc := (coreOf s c).pc
      stepEnds (match firedTrig (coreOf s c) 2 pc with
        | some i => trigAct s c i pc
        | none =>
          match hostFetch s c len with
          | (s1, .ok v) => f (modCore s1 c fun h => { h with insn := v })
          | (s1, .wait) => s1
          | (s1, .trap code va) => hTrap s1 c code va) c

/-- A core executes an instruction (R186); a compressed one has length 2. -/
def execHostCoreInstruction (core len : Nat) (ins : HostOp) (s : State) : Host.Outcome State Fault Refusal := onServed s fun s =>
  let n := if len = 2 then 2 else 4
  onCore core (hostRun s core n fun s => hostEffect s core n ins)

/-- A write of satp (R187): CSR 0x180. -/
def satpWrite (s : Node) (c : Nat) (v : Nat) : Node :=
  if !csrMay (coreOf s c) 0x180 true then hIllegal s c
  else modCore (csrWriteOf s c 0x180 v) c fun h => hRetire h 4

def execSatpWrite (core : Nat) (value : Word) (s : State) : Host.Outcome State Fault Refusal := onServed s fun s =>
  onCore core (hostRun s core 4 fun s => satpWrite s core value.toNat)

/-! ## Cache-block operations (R188) -/

/-- Whether the environment configuration lets the mode run an operation: its bit of menvcfg, and of senvcfg in U mode. -/
def cboMay (h : HostCore) (b : Nat) : Bool :=
  h.mode == 3 || (bit (hcsr h 0x30A) b && (h.mode == 1 || bit (hcsr h 0x10A) b))

/-- CBO.CLEAN, CBO.FLUSH and CBO.INVAL on the whole line that holds the named block: the core needs to be able to read
it, and the home is asked to clean or flush it. No cache holds a line of the remote window (R335): there is nothing to
do. -/
def cboLine (s : Node) (c va b : Nat) (kind : ReqKind) : Node :=
  let va := hostVa (coreOf s c) va accRead
  if !cboMay (coreOf s c) b then hIllegal s c
  else match hostOne s c va 1 accRead with
    | (s1, .trap code) => hTrap s1 c (if code = 13 then 15 else 7) va
    | (s1, .ok pa _) =>
      match paKind s1 pa with
      | .hbm => modCore (homeGo (sendHome s1 (plainReq kind (lineOf pa) (c / 8))) (lineOf pa)) c fun h => hRetire h 4
      | .remote _ _ => modCore s1 c fun h => hRetire h 4
      | _ => hTrap s1 c 7 va

/-- CBO.ZERO writes zero to the named 64 bytes, of HBM or of the remote window (R188, R335). -/
def cboZero (s : Node) (c va : Nat) : Node :=
  let va := hostVa (coreOf s c) va accWrite
  if !cboMay (coreOf s c) 7 then hIllegal s c
  else
    let a := va / 64 * 64
    match hostOne s c a 64 accWrite with
    | (s1, .trap code) => hTrap s1 c code va
    | (s1, .ok pa pbmt) =>
      if !inHbm s1 pa 64 && !pieceRemote s1 ⟨pa, 64, pbmt⟩ then hTrap s1 c 7 va
      else modCore (pieceStore s1 c a ⟨pa, 64, pbmt⟩ (List.replicate 64 0)).1 c fun h => hRetire h 4

def execCboClean (core va : Nat) (s : State) : Host.Outcome State Fault Refusal := onServed s fun s =>
  onCore core (hostRun s core 4 fun s => cboLine s core (va % 2 ^ 64) 6 .cln)

def execCboFlush (core va : Nat) (s : State) : Host.Outcome State Fault Refusal := onServed s fun s =>
  onCore core (hostRun s core 4 fun s => cboLine s core (va % 2 ^ 64) 6 .fls)

/-- CBO.INVAL acts as CBO.FLUSH of the whole line, where CBIE lets the mode run it. -/
def execCboInval (core va : Nat) (s : State) : Host.Outcome State Fault Refusal := onServed s fun s =>
  onCore core (hostRun s core 4 fun s => cboLine s core (va % 2 ^ 64) 4 .fls)

def execCboZero (core va : Nat) (s : State) : Host.Outcome State Fault Refusal := onServed s fun s =>
  onCore core (hostRun s core 4 fun s => cboZero s core (va % 2 ^ 64))

/-! ## Translation fences (R193) -/

/-- Whether a fence names a held translation: its address, and its ASID unless it serves every one. -/
def fenceHits (va asid : Option Nat) (e : HostTlb) : Bool :=
  (match va with
  | some a => e.vpn == a / 2 ^ e.size
  | none => true) &&
  (match asid with
  | some n => e.asid == n && !e.g
  | none => true)

/-- SFENCE.VMA and SINVAL.VMA act only on the translations of the core that executes them. -/
def sfence (s : Node) (c : Nat) (va asid : Option Nat) : Node :=
  let h := coreOf s c
  if h.mode = 0 ∨ (h.mode = 1 ∧ msField h 20 20 = 1) then hIllegal s c
  else modCore s c fun x => hRetire { x with tlb := x.tlb.filter fun e => !fenceHits va asid e } 4

def execSfenceVma (core : Nat) (va asid : Option Nat) (s : State) : Host.Outcome State Fault Refusal := onServed s fun s =>
  onCore core (hostRun s core 4 fun s => sfence s core va asid)

end Sys2Proof.Machine
end

