-- ==== Sys2Proof/Machine/Debug.lean ====
section
/-! DEFINITION. The debug module (R528), which implements the RISC-V Debug Specification 1.0 for harts 0 to 95. What the
chapter names is modelled: halt, resume, single step, halt-on-reset, abstract register and memory access and system bus
access; the module's register layout is that specification's (PRESUMED, log entry 155). -/

namespace Sys2Proof.Machine

/-! ## Registers of the module -/

/-- A stored register of the module. -/
def dmReg (s : Node) (a : Nat) : Nat := tblGet 0 s.ctl.test.dm a
def dmPut (s : Node) (a v : Nat) : Node := modTest s fun t => { t with dm := tblSet 0 t.dm a v }

/-- Keys of the table that are no DMI address: the harts that acknowledged a resume, those whose reset was acknowledged,
and cmderr. -/
def dmResumed : Nat := 0x1001
def dmResetSeen : Nat := 0x1002
def dmCmdErr : Nat := 0x1003

/-- hartsel, of dmcontrol's stored HARTSELLO and HARTSELHI. -/
def hartSel (s : Node) : Nat := bits (dmReg s 0x10) 25 16 + 2 ^ 10 * bits (dmReg s 0x10) 15 6

/-- How a hart stands to the module. -/
def hartThere (c : Nat) : Bool := decide (c < 96)
def hartAway (s : Node) (c : Nat) : Bool := hartThere c && isFenced s (c / 8)
def hartHalted (s : Node) (c : Nat) : Bool := hartThere c && !hartAway s c && s.ctl.test.halted.contains c
def hartRunning (s : Node) (c : Nat) : Bool := hartThere c && !hartAway s c && !s.ctl.test.halted.contains c

/-- dmstatus: version 3, authenticated, halt-on-reset supported; each pair of bits tells of the one selected hart. -/
def dmStatus (s : Node) : Nat :=
  let c := hartSel s
  let both := fun (b : Bool) (i : Nat) => if b then [i, i + 1] else []
  3 + maskOf ([5, 7] ++ both (hartHalted s c) 8 ++ both (hartRunning s c) 10 ++ both (hartAway s c) 12 ++
    both (!hartThere c) 14 ++ both (bit (dmReg s dmResumed) c) 16 ++ both (hartThere c && !bit (dmReg s dmResetSeen) c) 18)

/-- Halted harts summed up over groups of `n`, from hart `base`. -/
def haltSum (s : Node) (base n : Nat) : Nat :=
  maskOf ((List.range 32).filter fun i => (List.range n).any fun j => hartHalted s (base + i * n + j))

/-- A read of a register of the module. -/
def dmRead (s : Node) (a : Nat) : Nat :=
  if 0x04 ≤ a ∧ a ≤ 0x07 then dmReg s a
  else match a with
    | 0x10 => dmReg s 0x10
    | 0x11 => dmStatus s
    | 0x12 => Config.hostInfo 0x12 % 2 ^ 24
    | 0x13 => haltSum s (hartSel s / 1024 * 1024) 32
    | 0x16 => dmReg s dmCmdErr * 2 ^ 8 + 4
    | 0x34 => haltSum s 0 1024
    | 0x38 => 2 ^ 29 + dmReg s 0x38 + 56 * 2 ^ 5 + 15
    | 0x39 => dmReg s 0x39
    | 0x3A => dmReg s 0x3A
    | 0x3C => dmReg s 0x3C
    | 0x3D => dmReg s 0x3D
    | 0x40 => haltSum s (hartSel s / 32 * 32) 1
    | _ => 0

/-! ## Halt and resume -/

/-- A hart resumes where dpc says, in the mode dcsr.prv names; with dcsr.step set it halts after one instruction. -/
def hartResume (s : Node) (c : Nat) : Node :=
  let d := dcsrOf (coreOf s c)
  let back := d % 4
  let go := fun (h : HostCore) =>
    { (if back = 3 then h else msPut h 17 17 0) with mode := back, pc := hcsr h 0x7B1 }
  let s1 := modTest s fun t =>
    { t with halted := t.halted.filter (· != c), stepping := if bit d 2 then insertRising c t.stepping else t.stepping.filter (· != c) }
  dmPut (modCore s1 c go) dmResumed (dmReg s1 dmResumed ||| 1 <<< c)

/-- A store to dmcontrol. While DMACTIVE is 0 the module holds its reset state. -/
def dmControl (s : Node) (v : Nat) : Node :=
  if !bit v 0 then modTest s fun t => { t with dm := [], haltOnReset := [] }
  else
    let s0 := dmPut s 0x10 (v &&& (2 ^ 26 - 2 ^ 6 + 1))
    let c := hartSel s0
    if !hartThere c then s0
    else
      let s1 := if bit v 28 then dmPut s0 dmResetSeen (dmReg s0 dmResetSeen ||| 1 <<< c) else s0
      let onReset := fun (t : Test) =>
        if bit v 2 then t.haltOnReset.filter (· != c) else if bit v 3 then insertRising c t.haltOnReset else t.haltOnReset
      let s2 := modTest s1 fun t => { t with haltOnReset := onReset t }
      if bit v 31 then (if hartRunning s2 c then enterDebug s2 c 3 else s2)
      else if bit v 30 then
        let s3 := dmPut s2 dmResumed (dmReg s2 dmResumed - (dmReg s2 dmResumed &&& 1 <<< c))
        if hartHalted s3 c then hartResume s3 c else s3
      else s2

/-! ## Abstract commands -/

/-- Ends an abstract command with an error. -/
def cmdErr (s : Node) (e : Nat) : Node := dmPut s dmCmdErr e

/-- An argument of an abstract command: two data registers, or one for 32 bits. -/
def dmArg (s : Node) (i size : Nat) : Nat :=
  (dmReg s (4 + 2 * i) + 2 ^ 32 * dmReg s (5 + 2 * i)) % 2 ^ (8 * size)
def dmArgPut (s : Node) (i size v : Nat) : Node :=
  let s1 := dmPut s (4 + 2 * i) (v % 2 ^ 32)
  if size = 8 then dmPut s1 (5 + 2 * i) (v / 2 ^ 32 % 2 ^ 32) else s1

/-- Whether a CSR exists for the debugger: the debug CSRs, and those of the core. -/
def dbgCsrHas (n : Nat) : Bool := decide (0x7B0 ≤ n ∧ n ≤ 0x7B3) || csrHas n

/-- A register by its abstract number: its value, or none where it does not exist. -/
def dbgRead (s : Node) (c r : Nat) : Option Nat :=
  let h := coreOf s c
  if r < 0x1000 then
    if !dbgCsrHas r then none
    else if r = 0x7B0 then some (4 * 2 ^ 28 + dcsrOf h)
    else some (csrValueOf s c r)
  else if r < 0x1020 then some (xGet h (r - 0x1000))
  else if r < 0x1040 then some (frGet h (r - 0x1020))
  else none

/-- dcsr as a write leaves it: EBREAKM, EBREAKS, EBREAKU, STEP and a legal PRV; STOPTIME reads 0. -/
def dcsrAfter (old v : Nat) : Nat :=
  let keep := old - (old &&& maskOf [15, 13, 12, 2]) + (v &&& maskOf [15, 13, 12, 2])
  if v % 4 = 2 then keep else putBits keep 1 0 v

/-- A write of a register by its abstract number. -/
def dbgWrite (s : Node) (c r v : Nat) : Node :=
  if r < 0x1000 then
    if r = 0x7B0 then modCore s c fun h => csrPut h r (dcsrAfter (dcsrOf h) v)
    else if r = 0x7B1 then modCore s c fun h => csrPut h r (v / 2 * 2)
    else if r = 0x7B2 ∨ r = 0x7B3 then modCore s c fun h => csrPut h r v
    else csrWriteOf s c r v
  else if r < 0x1020 then modCore s c fun h => xPut h (r - 0x1000) v
  else modCore s c fun h => frPut h (r - 0x1020) v

/-- Access register: 32 or 64 bits of a halted hart's register. No program buffer is there to run. -/
def cmdRegister (s : Node) (v : Nat) : Node :=
  let c := hartSel s
  let size := 2 ^ bits v 22 20
  let r := v % 2 ^ 16
  if bit v 18 ∨ bit v 19 ∨ ¬(size = 4 ∨ size = 8) then cmdErr s 2
  else if !bit v 17 then s
  else if !hartHalted s c then cmdErr s 4
  else
    let s := if isCycle r then cycleStep s c else s
    match dbgRead s c r with
    | none => cmdErr s 3
    | some old =>
      if bit v 16 then dbgWrite s c r (if size = 8 then dmArg s 0 8 else old / 2 ^ 32 * 2 ^ 32 + dmArg s 0 4)
      else dmArgPut s 0 size old

/-- The core as a debugger's memory access meets it: M mode, translated as under MPRV where the address is virtual, and
no trigger fires. -/
def dbgCore (h : HostCore) (virt : Bool) : HostCore :=
  { msPut h 17 17 (if virt then 1 else 0) with
    mode := 3, csr := (msPut h 17 17 (if virt then 1 else 0)).csr.filter fun p => decide (p.1 < 0x30000) }

/-- Access memory: through a halted hart, of 1 to 8 bytes at the address in the second argument. -/
def cmdMemory (s : Node) (v : Nat) : Node :=
  let c := hartSel s
  let size := 2 ^ bits v 22 20
  let a := dmArg s 1 8
  if size > 8 then cmdErr s 2
  else if !hartHalted s c then cmdErr s 4
  else
    let h0 := coreOf s c
    let s1 := modCore s c fun h => dbgCore h (bit v 23)
    let (s2, r) := if bit v 16 then hostStore s1 c a size (dmArg s 0 size) else hostLoad s1 c a size
    let s3 := modCore s2 c fun h => { h with mode := h0.mode, csr := h0.csr }
    match r with
    | .wait => s3
    | .trap _ _ => cmdErr s3 3
    | .ok old =>
      let s4 := if bit v 16 then s3 else dmArgPut s3 0 size old
      if bit v 19 then dmArgPut s4 1 8 ((a + size) % 2 ^ 64) else s4

/-- A store to command: ignored while an error stands. -/
def dmCommand (s : Node) (v : Nat) : Node :=
  if dmReg s dmCmdErr ≠ 0 then s
  else match bits v 31 24 with
    | 0 => cmdRegister s v
    | 2 => cmdMemory s v
    | _ => cmdErr s 2

/-! ## System bus access -/

/-- Ends a system bus access with an error. -/
def sbError (s : Node) (e : Nat) : Node := dmPut s 0x38 (putBits (dmReg s 0x38) 14 12 e)

/-- The system bus address, and its step after an access. -/
def sbAddr (s : Node) : Nat := dmReg s 0x39 + 2 ^ 32 * dmReg s 0x3A
def sbStep (s : Node) (n : Nat) : Node :=
  if bit (dmReg s 0x38) 16 then
    let a := (sbAddr s + n) % 2 ^ 64
    dmPut (dmPut s 0x39 (a % 2 ^ 32)) 0x3A (a / 2 ^ 32)
  else s

/-- The size of a system bus access in bytes, and the error an address raises: 2 for one that is not there, 3 for a
misaligned one, 4 for a size that is not supported. -/
def sbSize (s : Node) : Nat := 2 ^ bits (dmReg s 0x38) 19 17
def sbFault (s : Node) : Nat :=
  let a := sbAddr s
  let n := sbSize s
  if n > 8 then 4
  else if a % n ≠ 0 then 3
  else match paKind s a with
    | .hbm => if readsPoison s 12 (lineOf a) then 7 else 0
    | .scratch g _ => if isFenced s (g / 16) then 2 else 0
    | .csr _ => if n = 8 then 0 else 4
    | _ => 2

/-- A system bus read into sbdata. -/
def sbRead (s : Node) : Node :=
  let a := sbAddr s
  let n := sbSize s
  if bits (dmReg s 0x38) 14 12 ≠ 0 then s
  else if sbFault s ≠ 0 then sbError s (sbFault s)
  else
    let (s1, v) : Node × Nat := match paKind s a with
      | .hbm => (homeRead s 0 clsHost (lineOf a), readLE (homeRead s 0 clsHost (lineOf a)) a n)
      | .scratch g off => (s, scratchLE s g off n)
      | .csr off =>
        let t := csrReadOp s (.core 0) off n
        (withResp t s.resp, match t.resp with
          | .data v => v.toNat
          | _ => 0)
      | _ => (s, 0)
    sbStep (dmPut (dmPut s1 0x3C (v % 2 ^ 32)) 0x3D (v / 2 ^ 32)) n

/-- A system bus write of sbdata. -/
def sbWrite (s : Node) : Node :=
  let a := sbAddr s
  let n := sbSize s
  let v := (dmReg s 0x3C + 2 ^ 32 * dmReg s 0x3D) % 2 ^ (8 * n)
  if bits (dmReg s 0x38) 14 12 ≠ 0 then s
  else if sbFault s ≠ 0 then sbError s (sbFault s)
  else
    let s1 := match paKind s a with
      | .hbm => homeWrite s 0 clsHost (lineOf a) ((leBytes n v).mapIdx fun i b => (a % lineBytes + i, b)) false
      | .scratch g off => scratchWrite s g off (leBytes n v)
      | .csr off => withResp (csrWriteOp s (.core 0) off n (BitVec.ofNat 64 v)) s.resp
      | _ => s
    sbStep s1 n

/-! ## DMI -/

/-- A write of a register of the module. -/
def dmWrite (s : Node) (a v : Nat) : Node :=
  if 0x04 ≤ a ∧ a ≤ 0x07 then dmPut s a v
  else match a with
    | 0x16 => dmPut s dmCmdErr (dmReg s dmCmdErr - (dmReg s dmCmdErr &&& bits v 10 8))
    | 0x17 => dmCommand s v
    | 0x38 =>
      let old := dmReg s 0x38
      let err := bits old 14 12 - (bits old 14 12 &&& bits v 14 12)
      dmPut s 0x38 (putBits (v &&& (2 ^ 21 - 2 ^ 15)) 14 12 err)
    | 0x39 =>
      let s1 := dmPut s 0x39 v
      if bit (dmReg s1 0x38) 20 then sbRead s1 else s1
    | 0x3A => dmPut s 0x3A v
    | 0x3C => sbWrite (dmPut s 0x3C v)
    | 0x3D => dmPut s 0x3D v
    | _ => s

/-- A DMI access while debug is open: 1 reads and 2 writes; before DMACTIVE is set only dmcontrol answers. -/
def dmiOp (s : Node) (access a v : Nat) : Node :=
  let on := bit (dmReg s 0x10) 0 || a == 0x10
  if access = 1 then
    let s1 := withResp s (.data (BitVec.ofNat 64 (if on then dmRead s a else 0)))
    if on && a == 0x3C && bit (dmReg s 0x38) 15 then sbRead s1 else s1
  else if access = 2 then withResp (if !on then s else if a = 0x10 then dmControl s v else dmWrite s a v) .done
  else withResp s (.data 0)

/-- DMI (R528): while debug is closed a read gives zero and a write is ignored. -/
def execDmi (access addr data : Nat) (s : State) : Host.Outcome State Fault Refusal := onServed s fun s =>
  .next (
    let s1 := loadIr s 0x11
    if debugOpen s then dmiOp s1 access (addr % 2 ^ 7) (data % 2 ^ 32)
    else withResp s1 (if access = 2 then .done else .data 0))

end Sys2Proof.Machine
end

