-- ==== Sys2Proof/Machine/Departure.lean ====
section
/-! DEFINITION. Departures from the job (R410 to R413): the causes acted on, the loss of every management processor, the
orphaned node. -/

namespace Sys2Proof.Machine

/-- STACK_FENCE takes the stack whose loss makes the node leave, unless one is fenced already (R410, step 2). -/
def fenceLostStack (s : Node) : Node :=
  let stack := s.leaveDue.findSome? fun c => match c with
    | .stack n => some n
    | _ => none
  match stack with
  | some n => if dictNat s 0x3000 2 = 0 then storeNat s 0x3000 2 (1 <<< n) else s
  | none => s

/-- The node leaves its job for a cause not yet acted on: the lead writes and forwards NODE_LEAVING (R399), and the
reset idles the transmitters and lowers READY. -/
def execNodeLeaving (s : State) : Host.Outcome State Fault Refusal := onNode s fun s =>
  .next (
    if s.leaveDue = [] ∨ !nodeRuns s then s
    else warmReset (fenceLostStack (forwardRecords (logErr s (12 + leadDie s) 0x00 0x0A02 0 []))) rstLeave false)

/-- Base dies in service: those not lost. -/
def basesInService (s : Node) : List Nat := (List.range 4).filter fun b => !s.leaveDue.contains (.baseDie b)

/-- Whether a management processor other than the lead still sends its heartbeat, and so would claim the lead (R490). -/
def followerAlive (s : Node) : Bool :=
  anyBelow 4 fun b => b != leadDie s && bit (fGet s (bLoc .mpStatus 0) fMpStatusAlive) b

/-- No heartbeat and no claim for 200 ms (R410): base control of every base die in service records the departure, without a
lead to forward it. -/
def execMpAllLost (s : State) : Host.Outcome State Fault Refusal := onNode s fun s =>
  .next (
    if !nodeRuns s || followerAlive s then s
    else
      let s1 := fSet s (bLoc .mpStatus 0) fMpStatusAlive 0
      warmReset (fenceLostStack ((basesInService s).foldl (fun s b => logErr s (12 + b) 0x00 0x0A02 0 []) s1)) rstLeave false)

/-- No session has been alive for ORPHAN_S seconds without a break, after one has been since the last reset (R412): the
lead writes and forwards ORPHAN_RESET, and the node resets itself (R413). -/
def execOrphanReset (s : State) : Host.Outcome State Fault Refusal := onNode s fun s =>
  .next (
    let over_ := decide (timeBack s.now s.ctl.ckpt.aliveAt ≥ dictNat s 0x4102 1 * 1000000000)
    if !nodeRuns s || !s.ctl.ckpt.sessioned || !over_ || [2, 3, 4, 5].any (sessionAlive s) then s
    else warmReset (forwardRecords (logErr s (12 + leadDie s) 0x00 0x0A03 0 [])) rstOrphan false)

end Sys2Proof.Machine
end

