-- ==== Sys2Proof/Machine/Dispatch.lean ====
section
/-! DEFINITION. One arm per command: a direct call of its meaning. -/

namespace Sys2Proof.Machine

/-- The effect of a command on everything but the queue. -/
def exec (i : Instr) (s : State) : Host.Outcome State Fault Refusal :=
  match i with
  | .csrWrite src offset size value => Sys2Proof.Machine.execCsrWrite src offset size value s
  | .rcRegisterRead src offset size => Sys2Proof.Machine.execRcRegisterRead src offset size s
  | .mma gable group word => Sys2Proof.Machine.execMma gable group word s
  | .mmaSp gable group word => Sys2Proof.Machine.execMmaSp gable group word s
  | .mmaQueueEnter gable group => Sys2Proof.Machine.execMmaQueueEnter gable group s
  | .mrel gable group word => Sys2Proof.Machine.execMrel gable group word s
  | .mfence gable group word => Sys2Proof.Machine.execMfence gable group word s
  | .mfenceSatisfied gable group => Sys2Proof.Machine.execMfenceSatisfied gable group s
  | .mmaKStep gable cell => Sys2Proof.Machine.execMmaKStep gable cell s
  | .gutterCopyStart gable cell bank => Sys2Proof.Machine.execGutterCopyStart gable cell bank s
  | .gutterCopyDone gable cell => Sys2Proof.Machine.execGutterCopyDone gable cell s
  | .groupLaunch gable => Sys2Proof.Machine.execGroupLaunch gable s
  | .gableAluInstruction gable group op => Sys2Proof.Machine.execGableAluInstruction gable group op s
  | .bnz gable group word => Sys2Proof.Machine.execBnz gable group word s
  | .bz gable group word => Sys2Proof.Machine.execBz gable group word s
  | .jmp gable group word => Sys2Proof.Machine.execJmp gable group word s
  | .yield gable group word => Sys2Proof.Machine.execYield gable group word s
  | .exit gable group word => Sys2Proof.Machine.execExit gable group word s
  | .ld gable group word => Sys2Proof.Machine.execLd gable group word s
  | .st gable group word => Sys2Proof.Machine.execSt gable group word s
  | .ldDataReturn gable group load => Sys2Proof.Machine.execLdDataReturn gable group load s
  | .lds gable group word => Sys2Proof.Machine.execLds gable group word s
  | .sts gable group word => Sys2Proof.Machine.execSts gable group word s
  | .copy gable group word => Sys2Proof.Machine.execCopy gable group word s
  | .copyStart gable => Sys2Proof.Machine.execCopyStart gable s
  | .copyBytesLand gable copy first count => Sys2Proof.Machine.execCopyBytesLand gable copy first count s
  | .cntset gable group word => Sys2Proof.Machine.execCntset gable group word s
  | .cntadd gable group word => Sys2Proof.Machine.execCntadd gable group word s
  | .waitcnt gable group word => Sys2Proof.Machine.execWaitcnt gable group word s
  | .waitcntSatisfied gable group => Sys2Proof.Machine.execWaitcntSatisfied gable group s
  | .arrivalCntWrite gable cnt value => Sys2Proof.Machine.execArrivalCntWrite gable cnt value s
  | .groupStall gable group => Sys2Proof.Machine.execGroupStall gable group s
  | .groupResume gable group => Sys2Proof.Machine.execGroupResume gable group s
  | .groupKill gable group => Sys2Proof.Machine.execGroupKill gable group s
  | .gableEnableWrite gable value => Sys2Proof.Machine.execGableEnableWrite gable value s
  | .gableDisableDone gable => Sys2Proof.Machine.execGableDisableDone gable s
  | .gableEnableDone gable => Sys2Proof.Machine.execGableEnableDone gable s
  | .gableSramUncorrected gable => Sys2Proof.Machine.execGableSramUncorrected gable s
  | .scratchWindowAccess sender addr size store value => Sys2Proof.Machine.execScratchWindowAccess sender addr size store value s
  | .elemRunStart gable => Sys2Proof.Machine.execElemRunStart gable s
  | .elemEnd gable => Sys2Proof.Machine.execElemEnd gable s
  | .elemAdd gable => Sys2Proof.Machine.execElemAdd gable s
  | .elemSub gable => Sys2Proof.Machine.execElemSub gable s
  | .elemMul gable => Sys2Proof.Machine.execElemMul gable s
  | .elemFma gable => Sys2Proof.Machine.execElemFma gable s
  | .elemMul3 gable => Sys2Proof.Machine.execElemMul3 gable s
  | .elemMin gable => Sys2Proof.Machine.execElemMin gable s
  | .elemMax gable => Sys2Proof.Machine.execElemMax gable s
  | .elemDiv gable => Sys2Proof.Machine.execElemDiv gable s
  | .elemFn gable => Sys2Proof.Machine.execElemFn gable s
  | .elemSel gable => Sys2Proof.Machine.execElemSel gable s
  | .elemCmp gable => Sys2Proof.Machine.execElemCmp gable s
  | .elemAnd gable => Sys2Proof.Machine.execElemAnd gable s
  | .elemOr gable => Sys2Proof.Machine.execElemOr gable s
  | .elemXor gable => Sys2Proof.Machine.execElemXor gable s
  | .elemShl gable => Sys2Proof.Machine.execElemShl gable s
  | .elemShr gable => Sys2Proof.Machine.execElemShr gable s
  | .elemCvt gable => Sys2Proof.Machine.execElemCvt gable s
  | .elemRed gable => Sys2Proof.Machine.execElemRed gable s
  | .elemPerm gable => Sys2Proof.Machine.execElemPerm gable s
  | .elemSetvl gable => Sys2Proof.Machine.execElemSetvl gable s
  | .elemHad gable => Sys2Proof.Machine.execElemHad gable s
  | .elemMsk gable => Sys2Proof.Machine.execElemMsk gable s
  | .elemSop gable => Sys2Proof.Machine.execElemSop gable s
  | .elemSkip gable => Sys2Proof.Machine.execElemSkip gable s
  | .elemLd gable => Sys2Proof.Machine.execElemLd gable s
  | .elemScaleLoad gable => Sys2Proof.Machine.execElemScaleLoad gable s
  | .elemSt gable => Sys2Proof.Machine.execElemSt gable s
  | .elemStsc gable => Sys2Proof.Machine.execElemStsc gable s
  | .elemCast cast => Sys2Proof.Machine.execElemCast cast s
  | .elemSig gable => Sys2Proof.Machine.execElemSig gable s
  | .erkey gable group word => Sys2Proof.Machine.execErkey gable group word s
  | .epld gable group word => Sys2Proof.Machine.execEpld gable group word s
  | .elemSlotWrite gable slot index value => Sys2Proof.Machine.execElemSlotWrite gable slot index value s
  | .tdarg gable group word => Sys2Proof.Machine.execTdarg gable group word s
  | .tsListAddrWrite die agent value => Sys2Proof.Machine.execTsListAddrWrite die agent value s
  | .tsListGoWrite die agent value => Sys2Proof.Machine.execTsListGoWrite die agent value s
  | .tileDescFetch die => Sys2Proof.Machine.execTileDescFetch die s
  | .tileLaunch gable => Sys2Proof.Machine.execTileLaunch gable s
  | .tileSteal gable => Sys2Proof.Machine.execTileSteal gable s
  | .brokerStealRequest die gable => Sys2Proof.Machine.execBrokerStealRequest die gable s
  | .tileComplete die tile => Sys2Proof.Machine.execTileComplete die tile s
  | .depCntWrite counter value => Sys2Proof.Machine.execDepCntWrite counter value s
  | .tsEnableWrite die value => Sys2Proof.Machine.execTsEnableWrite die value s
  | .tsDisableDone die => Sys2Proof.Machine.execTsDisableDone die s
  | .seqEntryStageWrite seq index value => Sys2Proof.Machine.execSeqEntryStageWrite seq index value s
  | .seqEntryCommit seq value => Sys2Proof.Machine.execSeqEntryCommit seq value s
  | .layoutBatchWrite addr value => Sys2Proof.Machine.execLayoutBatchWrite addr value s
  | .brokerEnableWrite base value => Sys2Proof.Machine.execBrokerEnableWrite base value s
  | .kvg gable group word => Sys2Proof.Machine.execKvg gable group word s
  | .kvgStart gable => Sys2Proof.Machine.execKvgStart gable s
  | .hostCoreInstruction core len ins => Sys2Proof.Machine.execHostCoreInstruction core len ins s
  | .satpWrite core value => Sys2Proof.Machine.execSatpWrite core value s
  | .cboClean core va => Sys2Proof.Machine.execCboClean core va s
  | .cboFlush core va => Sys2Proof.Machine.execCboFlush core va s
  | .cboInval core va => Sys2Proof.Machine.execCboInval core va s
  | .cboZero core va => Sys2Proof.Machine.execCboZero core va s
  | .sfenceVma core va asid => Sys2Proof.Machine.execSfenceVma core va asid s
  | .timerInterrupt core => Sys2Proof.Machine.execTimerInterrupt core s
  | .imsicSeteipnumWrite core mlevel value => Sys2Proof.Machine.execImsicSeteipnumWrite core mlevel value s
  | .aplicRegisterWrite base mdomain offset value => Sys2Proof.Machine.execAplicRegisterWrite base mdomain offset value s
  | .aplicSourceEvent base source => Sys2Proof.Machine.execAplicSourceEvent base source s
  | .glaunchWrite gable value => Sys2Proof.Machine.execGlaunchWrite gable value s
  | .glaunchFetchDone gable => Sys2Proof.Machine.execGlaunchFetchDone gable s
  | .depWatchWrite die watch value => Sys2Proof.Machine.execDepWatchWrite die watch value s
  | .depWatchFire die watch => Sys2Proof.Machine.execDepWatchFire die watch s
  | .rds die line fault => Sys2Proof.Machine.execRds die line fault s
  | .rdx die line fault => Sys2Proof.Machine.execRdx die line fault s
  | .upg die line => Sys2Proof.Machine.execUpg die line s
  | .wbd die line => Sys2Proof.Machine.execWbd die line s
  | .evc die line => Sys2Proof.Machine.execEvc die line s
  | .cln agent line => Sys2Proof.Machine.execCln agent line s
  | .fls agent line => Sys2Proof.Machine.execFls agent line s
  | .rdonce agent line fault => Sys2Proof.Machine.execRdonce agent line fault s
  | .wrline agent line data poison => Sys2Proof.Machine.execWrline agent line data poison s
  | .wrpart agent line data poison => Sys2Proof.Machine.execWrpart agent line data poison s
  | .atom agent addr size func arg cmp => Sys2Proof.Machine.execAtom agent addr size func arg cmp s
  | .snps die line => Sys2Proof.Machine.execSnps die line s
  | .snpx die line => Sys2Proof.Machine.execSnpx die line s
  | .snprd die line => Sys2Proof.Machine.execSnprd die line s
  | .snpcln die line => Sys2Proof.Machine.execSnpcln die line s
  | .snprcl die line => Sys2Proof.Machine.execSnprcl die line s
  | .snpinv die line => Sys2Proof.Machine.execSnpinv die line s
  | .coherenceResponse die line => Sys2Proof.Machine.execCoherenceResponse die line s
  | .cmpack die line => Sys2Proof.Machine.execCmpack die line s
  | .snoopTimeout die line => Sys2Proof.Machine.execSnoopTimeout die line s
  | .fenceScanDone base => Sys2Proof.Machine.execFenceScanDone base s
  | .amo gable group word => Sys2Proof.Machine.execAmo gable group word s
  | .gableFence gable group word => Sys2Proof.Machine.execGableFence gable group word s
  | .hbmReadComplete base line result => Sys2Proof.Machine.execHbmReadComplete base line result s
  | .patrolScrub base line result => Sys2Proof.Machine.execPatrolScrub base line result s
  | .hbmStackLost stack => Sys2Proof.Machine.execHbmStackLost stack s
  | .prefetchReturn base line => Sys2Proof.Machine.execPrefetchReturn base line s
  | .nmcDieLost base => Sys2Proof.Machine.execNmcDieLost base s
  | .nmcEnableWrite base value => Sys2Proof.Machine.execNmcEnableWrite base value s
  | .nmcInvWrite base value => Sys2Proof.Machine.execNmcInvWrite base value s
  | .nmcWritebackDone base => Sys2Proof.Machine.execNmcWritebackDone base s
  | .nmcInvDone base => Sys2Proof.Machine.execNmcInvDone base s
  | .nmcSeedWrite base value => Sys2Proof.Machine.execNmcSeedWrite base value s
  | .stuSatpWrite value => Sys2Proof.Machine.execStuSatpWrite value s
  | .stuWalkComplete who va acc => Sys2Proof.Machine.execStuWalkComplete who va acc s
  | .faultRecordWrite base => Sys2Proof.Machine.execFaultRecordWrite base s
  | .fqHeadWrite base value => Sys2Proof.Machine.execFqHeadWrite base value s
  | .fqBaseWrite base value => Sys2Proof.Machine.execFqBaseWrite base value s
  | .stuResolveRetry fseq => Sys2Proof.Machine.execStuResolveRetry fseq s
  | .stuResolveAbort fseq => Sys2Proof.Machine.execStuResolveAbort fseq s
  | .stuMigrateWrite base value => Sys2Proof.Machine.execStuMigrateWrite base value s
  | .migrationComplete base => Sys2Proof.Machine.execMigrationComplete base s
  | .stuShootRange base value => Sys2Proof.Machine.execStuShootRange base value s
  | .stuShootAll base value => Sys2Proof.Machine.execStuShootAll base value s
  | .shootdownComplete base => Sys2Proof.Machine.execShootdownComplete base s
  | .shootdownStalled base => Sys2Proof.Machine.execShootdownStalled base s
  | .stuCntCtrlWrite value => Sys2Proof.Machine.execStuCntCtrlWrite value s
  | .stuCntClear value => Sys2Proof.Machine.execStuCntClear value s
  | .accessCountBatch die page shift => Sys2Proof.Machine.execAccessCountBatch die page shift s
  | .bundleFrameReceive edge dir bundle frame crcOk => Sys2Proof.Machine.execBundleFrameReceive edge dir bundle frame crcOk s
  | .bundleNakReceive edge dir bundle => Sys2Proof.Machine.execBundleNakReceive edge dir bundle s
  | .wireTestStart edge dir bundle => Sys2Proof.Machine.execWireTestStart edge dir bundle s
  | .wireTestEnd edge dir bundle errors => Sys2Proof.Machine.execWireTestEnd edge dir bundle errors s
  | .routeSwitchDone => Sys2Proof.Machine.execRouteSwitchDone s
  | .edgeEnableWrite edge value => Sys2Proof.Machine.execEdgeEnableWrite edge value s
  | .edgeStepDone edge => Sys2Proof.Machine.execEdgeStepDone edge s
  | .commonEnableWrite offset en => Sys2Proof.Machine.execCommonEnableWrite offset en s
  | .portEnableWrite port value => Sys2Proof.Machine.execPortEnableWrite port value s
  | .portStepDone port => Sys2Proof.Machine.execPortStepDone port s
  | .portSignalDetect port => Sys2Proof.Machine.execPortSignalDetect port s
  | .portLinkUp port ms => Sys2Proof.Machine.execPortLinkUp port ms s
  | .portTrainTimeout port => Sys2Proof.Machine.execPortTrainTimeout port s
  | .portDown port cause => Sys2Proof.Machine.execPortDown port cause s
  | .laneFail port event => Sys2Proof.Machine.execLaneFail port event s
  | .ethFrameReceive port frame => Sys2Proof.Machine.execEthFrameReceive port frame s
  | .arpRequest port v6 target => Sys2Proof.Machine.execArpRequest port v6 target s
  | .pfcFrameReceive port enables quanta => Sys2Proof.Machine.execPfcFrameReceive port enables quanta s
  | .pfcBufferThreshold port prio full => Sys2Proof.Machine.execPfcBufferThreshold port prio full s
  | .pfcStorm port prio => Sys2Proof.Machine.execPfcStorm port prio s
  | .cnpReceive qp => Sys2Proof.Machine.execCnpReceive qp s
  | .roceRateIncrease qp => Sys2Proof.Machine.execRoceRateIncrease qp s
  | .rocePacketReceive port pkt => Sys2Proof.Machine.execRocePacketReceive port pkt s
  | .roceAckReceive qp ack => Sys2Proof.Machine.execRoceAckReceive qp ack s
  | .roceAckTimeout qp => Sys2Proof.Machine.execRoceAckTimeout qp s
  | .roceQpLoad base qp => Sys2Proof.Machine.execRoceQpLoad base qp s
  | .roceQpStore base qp => Sys2Proof.Machine.execRoceQpStore base qp s
  | .roceQpDestroy base qp => Sys2Proof.Machine.execRoceQpDestroy base qp s
  | .roceSqDb base value => Sys2Proof.Machine.execRoceSqDb base value s
  | .roceSendEntry qp => Sys2Proof.Machine.execRoceSendEntry qp s
  | .roceCompletionWrite base => Sys2Proof.Machine.execRoceCompletionWrite base s
  | .mrEntryWrite k w value => Sys2Proof.Machine.execMrEntryWrite k w value s
  | .dzFrameReceive port pkt fcsOk => Sys2Proof.Machine.execDzFrameReceive port pkt fcsOk s
  | .dzSend peer tc => Sys2Proof.Machine.execDzSend peer tc s
  | .dzPut peer => Sys2Proof.Machine.execDzPut peer s
  | .dzGet peer => Sys2Proof.Machine.execDzGet peer s
  | .dzLoad peer => Sys2Proof.Machine.execDzLoad peer s
  | .dzStore peer => Sys2Proof.Machine.execDzStore peer s
  | .dzAtomic peer => Sys2Proof.Machine.execDzAtomic peer s
  | .dzResp peer => Sys2Proof.Machine.execDzResp peer s
  | .dzMsg peer => Sys2Proof.Machine.execDzMsg peer s
  | .dzAck port pkt => Sys2Proof.Machine.execDzAck port pkt s
  | .dzNak port pkt => Sys2Proof.Machine.execDzNak port pkt s
  | .dzKeepalive port pkt => Sys2Proof.Machine.execDzKeepalive port pkt s
  | .dzAckTimer peer tc => Sys2Proof.Machine.execDzAckTimer peer tc s
  | .dzGapTimer peer tc => Sys2Proof.Machine.execDzGapTimer peer tc s
  | .dzRto peer tc seq => Sys2Proof.Machine.execDzRto peer tc seq s
  | .dzWindowIncrease peer tc => Sys2Proof.Machine.execDzWindowIncrease peer tc s
  | .flowIdleRelease peer tc sending => Sys2Proof.Machine.execFlowIdleRelease peer tc sending s
  | .keepaliveSend port => Sys2Proof.Machine.execKeepaliveSend port s
  | .neighbourLost port => Sys2Proof.Machine.execNeighbourLost port s
  | .dzCmdDb base value => Sys2Proof.Machine.execDzCmdDb base value s
  | .dzCmdBaseWrite base ring value => Sys2Proof.Machine.execDzCmdBaseWrite base ring value s
  | .dzCmdPut base ring => Sys2Proof.Machine.execDzCmdPut base ring s
  | .dzCmdGet base ring => Sys2Proof.Machine.execDzCmdGet base ring s
  | .dzCmdMsg base ring => Sys2Proof.Machine.execDzCmdMsg base ring s
  | .dzCmdComplete base id => Sys2Proof.Machine.execDzCmdComplete base id s
  | .dzEnableWrite base value => Sys2Proof.Machine.execDzEnableWrite base value s
  | .dzDisableDone base => Sys2Proof.Machine.execDzDisableDone base s
  | .ridgeGo value => Sys2Proof.Machine.execRidgeGo value s
  | .ridgeChunk peer => Sys2Proof.Machine.execRidgeChunk peer s
  | .ridgeTreeWrite tree w value => Sys2Proof.Machine.execRidgeTreeWrite tree w value s
  | .shgGroupWrite x w value => Sys2Proof.Machine.execShgGroupWrite x w value s
  | .shgArm value => Sys2Proof.Machine.execShgArm value s
  | .shgArmProcess base => Sys2Proof.Machine.execShgArmProcess base s
  | .shgDelivery tag fmt index code => Sys2Proof.Machine.execShgDelivery tag fmt index code s
  | .shgGo tag => Sys2Proof.Machine.execShgGo tag s
  | .shgCancel tag => Sys2Proof.Machine.execShgCancel tag s
  | .shgHoldWrite base value => Sys2Proof.Machine.execShgHoldWrite base value s
  | .shinglePacket peer => Sys2Proof.Machine.execShinglePacket peer s
  | .shgShardReduced tag shard => Sys2Proof.Machine.execShgShardReduced tag shard s
  | .shgAgLaunch tag => Sys2Proof.Machine.execShgAgLaunch tag s
  | .shgBucketComplete tag => Sys2Proof.Machine.execShgBucketComplete tag s
  | .shgEnableWrite base value => Sys2Proof.Machine.execShgEnableWrite base value s
  | .shgDisableDone base => Sys2Proof.Machine.execShgDisableDone base s
  | .wqEnableWrite queue value => Sys2Proof.Machine.execWqEnableWrite queue value s
  | .wqDisableDone queue => Sys2Proof.Machine.execWqDisableDone queue s
  | .doorbellProd queue value => Sys2Proof.Machine.execDoorbellProd queue value s
  | .doorbellResume queue => Sys2Proof.Machine.execDoorbellResume queue s
  | .doorbellReplay queue => Sys2Proof.Machine.execDoorbellReplay queue s
  | .wqSlotRead queue => Sys2Proof.Machine.execWqSlotRead queue s
  | .wqRereadTimer queue => Sys2Proof.Machine.execWqRereadTimer queue s
  | .doorbellAhead queue => Sys2Proof.Machine.execDoorbellAhead queue s
  | .mirrorWriteAck base slot => Sys2Proof.Machine.execMirrorWriteAck base slot s
  | .acceptanceWordWrite queue => Sys2Proof.Machine.execAcceptanceWordWrite queue s
  | .mirrorLost base slot => Sys2Proof.Machine.execMirrorLost base slot s
  | .wqTiles base slot => Sys2Proof.Machine.execWqTiles base slot s
  | .wqNotifyCmd base slot => Sys2Proof.Machine.execWqNotifyCmd base slot s
  | .wqWait base slot => Sys2Proof.Machine.execWqWait base slot s
  | .wqSignal base slot => Sys2Proof.Machine.execWqSignal base slot s
  | .wqNop base slot => Sys2Proof.Machine.execWqNop base slot s
  | .wqCommandComplete base slot => Sys2Proof.Machine.execWqCommandComplete base slot s
  | .completionRecordWrite base slot => Sys2Proof.Machine.execCompletionRecordWrite base slot s
  | .cqWriteFailed queue => Sys2Proof.Machine.execCqWriteFailed queue s
  | .wqNotifyRead base => Sys2Proof.Machine.execWqNotifyRead base s
  | .wqCompleteWrite value => Sys2Proof.Machine.execWqCompleteWrite value s
  | .ledgerFresh => Sys2Proof.Machine.execLedgerFresh s
  | .ledgerReplay => Sys2Proof.Machine.execLedgerReplay s
  | .reconciliationDone copies => Sys2Proof.Machine.execReconciliationDone copies s
  | .errHeadWrite base value => Sys2Proof.Machine.execErrHeadWrite base value s
  | .fenceWrite value => Sys2Proof.Machine.execFenceWrite value s
  | .heartbeatMissed die => Sys2Proof.Machine.execHeartbeatMissed die s
  | .dieFence die => Sys2Proof.Machine.execDieFence die s
  | .dieAbort die => Sys2Proof.Machine.execDieAbort die s
  | .dieAbortDone die => Sys2Proof.Machine.execDieAbortDone die s
  | .nodeLeaving => Sys2Proof.Machine.execNodeLeaving s
  | .mpAllLost => Sys2Proof.Machine.execMpAllLost s
  | .orphanReset => Sys2Proof.Machine.execOrphanReset s
  | .ckptCut cut => Sys2Proof.Machine.execCkptCut cut s
  | .cutDrained => Sys2Proof.Machine.execCutDrained s
  | .cutDrainTimeout => Sys2Proof.Machine.execCutDrainTimeout s
  | .cutScanDone => Sys2Proof.Machine.execCutScanDone s
  | .cutChunkCopied chunk => Sys2Proof.Machine.execCutChunkCopied chunk s
  | .cutRemoteDone => Sys2Proof.Machine.execCutRemoteDone s
  | .ckptRestoreLocal => Sys2Proof.Machine.execCkptRestoreLocal s
  | .ckptRestoreBuddy header contents poisoned => Sys2Proof.Machine.execCkptRestoreBuddy header contents poisoned s
  | .restoreDone => Sys2Proof.Machine.execRestoreDone s
  | .ptpSyncReceive port offset => Sys2Proof.Machine.execPtpSyncReceive port offset s
  | .ptpPdelay port request => Sys2Proof.Machine.execPtpPdelay port request s
  | .ptpAnnounce port data => Sys2Proof.Machine.execPtpAnnounce port data s
  | .ppsInEdge => Sys2Proof.Machine.execPpsInEdge s
  | .ppsMissing => Sys2Proof.Machine.execPpsMissing s
  | .ppsOutPulse => Sys2Proof.Machine.execPpsOutPulse s
  | .timeHoldover pps => Sys2Proof.Machine.execTimeHoldover pps s
  | .ppsHoldExpiry => Sys2Proof.Machine.execPpsHoldExpiry s
  | .teEntryWrite e w value => Sys2Proof.Machine.execTeEntryWrite e w value s
  | .teLatch e => Sys2Proof.Machine.execTeLatch e s
  | .teCut e => Sys2Proof.Machine.execTeCut e s
  | .teHold e => Sys2Proof.Machine.execTeHold e s
  | .teSignal e => Sys2Proof.Machine.execTeSignal e s
  | .teArm e => Sys2Proof.Machine.execTeArm e s
  | .teLouvre e => Sys2Proof.Machine.execTeLouvre e s
  | .powerSample meas activity faults => Sys2Proof.Machine.execPowerSample meas activity faults s
  | .estimatorDiverge domain => Sys2Proof.Machine.execEstimatorDiverge domain s
  | .lvClearGuard => Sys2Proof.Machine.execLvClearGuard s
  | .lvClearLearned => Sys2Proof.Machine.execLvClearLearned s
  | .packageLoop busy demand => Sys2Proof.Machine.execPackageLoop busy demand s
  | .phaseClassify key => Sys2Proof.Machine.execPhaseClassify key s
  | .shareLearn better => Sys2Proof.Machine.execShareLearn better s
  | .opMoveDone die => Sys2Proof.Machine.execOpMoveDone die s
  | .budgetWrite value => Sys2Proof.Machine.execBudgetWrite value s
  | .budgetExpired => Sys2Proof.Machine.execBudgetExpired s
  | .currentPeak base => Sys2Proof.Machine.execCurrentPeak base s
  | .currentPeakRelease base => Sys2Proof.Machine.execCurrentPeakRelease base s
  | .capBelowFloor => Sys2Proof.Machine.execCapBelowFloor s
  | .droopDetect die => Sys2Proof.Machine.execDroopDetect die s
  | .droopRelease die => Sys2Proof.Machine.execDroopRelease die s
  | .thermalRead sensed hottest failed doubled => Sys2Proof.Machine.execThermalRead sensed hottest failed doubled s
  | .thermalFault sensed => Sys2Proof.Machine.execThermalFault sensed s
  | .thermtrip sensed => Sys2Proof.Machine.execThermtrip sensed s
  | .pwrbrkAssert => Sys2Proof.Machine.execPwrbrkAssert s
  | .pwrbrkRelease => Sys2Proof.Machine.execPwrbrkRelease s
  | .brakeStuck => Sys2Proof.Machine.execBrakeStuck s
  | .coroudRead src packet started => Sys2Proof.Machine.execCoroudRead src packet started s
  | .coroudWrite src packet started => Sys2Proof.Machine.execCoroudWrite src packet started s
  | .coroudSegmentTimeout src idx sub => Sys2Proof.Machine.execCoroudSegmentTimeout src idx sub s
  | .coroudRequestStale src packet => Sys2Proof.Machine.execCoroudRequestStale src packet s
  | .configStoreWriteDone ok => Sys2Proof.Machine.execConfigStoreWriteDone ok s
  | .telemetryReport behind => Sys2Proof.Machine.execTelemetryReport behind s
  | .userCalibrationWrite idx sub value => Sys2Proof.Machine.execUserCalibrationWrite idx sub value s
  | .latchCheck => Sys2Proof.Machine.execLatchCheck s
  | .latchCommitNow => Sys2Proof.Machine.execLatchCommitNow s
  | .latchDiscard => Sys2Proof.Machine.execLatchDiscard s
  | .commitAtWrite value => Sys2Proof.Machine.execCommitAtWrite value s
  | .latchApply => Sys2Proof.Machine.execLatchApply s
  | .mpLeadClaim base => Sys2Proof.Machine.execMpLeadClaim base s
  | .mbReqWrite base value => Sys2Proof.Machine.execMbReqWrite base value s
  | .mbResponse base => Sys2Proof.Machine.execMbResponse base s
  | .pwrokRise found => Sys2Proof.Machine.execPwrokRise found s
  | .pwrokFall => Sys2Proof.Machine.execPwrokFall s
  | .resetNAssert => Sys2Proof.Machine.execResetNAssert s
  | .resetNRelease found => Sys2Proof.Machine.execResetNRelease found s
  | .softwareReset => Sys2Proof.Machine.execSoftwareReset s
  | .warmResetRelease found => Sys2Proof.Machine.execWarmResetRelease found s
  | .hbmTrainingDone => Sys2Proof.Machine.execHbmTrainingDone s
  | .readyRise => Sys2Proof.Machine.execReadyRise s
  | .bootChunkWrite chunk data => Sys2Proof.Machine.execBootChunkWrite chunk data s
  | .bootGoWrite length => Sys2Proof.Machine.execBootGoWrite length s
  | .svnCommit kind => Sys2Proof.Machine.execSvnCommit kind s
  | .lcsTokenWrite token => Sys2Proof.Machine.execLcsTokenWrite token s
  | .debugTokenWrite token => Sys2Proof.Machine.execDebugTokenWrite token s
  | .ownerKeyWrite hash => Sys2Proof.Machine.execOwnerKeyWrite hash s
  | .revokeWrite slot => Sys2Proof.Machine.execRevokeWrite slot s
  | .nonceWrite nonce => Sys2Proof.Machine.execNonceWrite nonce s
  | .measurementExtend index digest => Sys2Proof.Machine.execMeasurementExtend index digest s
  | .jobWipe => Sys2Proof.Machine.execJobWipe s
  | .jobWipeDone => Sys2Proof.Machine.execJobWipeDone s
  | .testModeEnter => Sys2Proof.Machine.execTestModeEnter s
  | .testModeExit => Sys2Proof.Machine.execTestModeExit s
  | .lbPrbsWrite port value => Sys2Proof.Machine.execLbPrbsWrite port value s
  | .prbsCheckerLock port lane errors => Sys2Proof.Machine.execPrbsCheckerLock port lane errors s
  | .bistSram target => Sys2Proof.Machine.execBistSram target s
  | .bistNearMemory target => Sys2Proof.Machine.execBistNearMemory target s
  | .bistHbmMbist target => Sys2Proof.Machine.execBistHbmMbist target s
  | .bistLogic target => Sys2Proof.Machine.execBistLogic target s
  | .bistHbmPhyLoopback target => Sys2Proof.Machine.execBistHbmPhyLoopback target s
  | .bistBridgeLoopback target => Sys2Proof.Machine.execBistBridgeLoopback target s
  | .bistDone fails mask => Sys2Proof.Machine.execBistDone fails mask s
  | .tapReset => Sys2Proof.Machine.execTapReset s
  | .idcode => Sys2Proof.Machine.execIdcode s
  | .samplePreload value => Sys2Proof.Machine.execSamplePreload value s
  | .extest => Sys2Proof.Machine.execExtest s
  | .highz => Sys2Proof.Machine.execHighz s
  | .clamp => Sys2Proof.Machine.execClamp s
  | .extestPulse => Sys2Proof.Machine.execExtestPulse s
  | .extestTrain => Sys2Proof.Machine.execExtestTrain s
  | .dtmcs => Sys2Proof.Machine.execDtmcs s
  | .dmi access addr data => Sys2Proof.Machine.execDmi access addr data s
  | .bypass => Sys2Proof.Machine.execBypass s
  | .railUndervoltage => Sys2Proof.Machine.execRailUndervoltage s
  | .corePllLockLoss => Sys2Proof.Machine.execCorePllLockLoss s
  | .refclkSdsLoss base => Sys2Proof.Machine.execRefclkSdsLoss base s
  | .alertAckWrite value => Sys2Proof.Machine.execAlertAckWrite value s
  | .ownStepEnds offset => Sys2Proof.Machine.execOwnStepEnds offset s
  | .evictionAcknowledged die line => Sys2Proof.Machine.execEvictionAcknowledged die line s
  | .ptpSyncSend port => Sys2Proof.Machine.execPtpSyncSend port s
  | .sramUncorrected part => Sys2Proof.Machine.execSramUncorrected part s
  | .regulatorFault die => Sys2Proof.Machine.execRegulatorFault die s
  | .refclkSdsReturn base => Sys2Proof.Machine.execRefclkSdsReturn base s
  | .netbootReport => Sys2Proof.Machine.execNetbootReport s
  | .narrowingCompleted port => Sys2Proof.Machine.execNarrowingCompleted port s

end Sys2Proof.Machine
end

