-- ==== Sys2Proof/Machine/Tick.lean ====
section
/-! DEFINITION. One FCLK cycle: what time alone changes where no command waits (R329, R378, R425). -/

namespace Sys2Proof.Machine

/-! ## Fabric time (R425) -/

/-- The units of FT_ADJ in one whole: an increment is scaled by `adjWhole + ADJ` over it. -/
def adjWhole : Nat := 1024000000000

/-- Half a nanosecond in units of 2^-16 ns. -/
def halfNs : Nat := 32768

/-- Each cycle adds 0.5 ns scaled by FT_ADJ; what scaling leaves over is kept. -/
def tickTime (s : Node) : Node :=
  let adj := signed 32 (fGet s (bLoc .ftAdj 0) fFtAdjAdj)
  let t := s.ctl.time
  let total := t.left + halfNs * ((adjWhole : Int) + adj).toNat
  let frac := t.frac + total / adjWhole
  let now := (s.now + frac / 2 ^ 16) % 2 ^ 64
  modTime { noteSessions s now with now := now } fun t => { t with frac := frac % 2 ^ 16, left := total % adjWhole }

/-! ## Transmit queues (R327, R329) -/

/-- Of a class's queued frames, oldest first, those that have left whole where `q` bytes remain. -/
def wholly (q : Nat) : List Out → List Out
  | [] => []
  | o :: t => if q ≤ (t.map frameBytes).sum then o :: wholly q t else []

/-- A cycle drains a port's queue of a class by an amount that no rule states, not while the class is paused (R309). -/
def drainClass (s : Node) (p tc : Nat) : Node :=
  let port := portOfFp p
  let mine := fun (o : Out) => o.kind == .dziger && o.prio == tc
  let l := (portOf s port).held.filter mine
  if !portLink s port || bit (pausedNow s port) tc || l.isEmpty then s
  else
    let q := txBytes s p tc - Config.txDrain s.fresh (p * 8 + tc)
    let sent := wholly q l
    let s1 := modFab s fun f => { f with txq := tblSet 0 f.txq (p * 8 + tc) q }
    if sent = [] then s1
    else
      let s2 := modPort s1 port fun x => { x with held := x.held.filter (fun o => !mine o) ++ l.drop sent.length }
      portCount { s2 with out := s2.out ++ sent } port cTxFrames sent.length

/-- The transmit queues after a cycle. -/
def tickQueues (s : Node) : Node :=
  if s.fabric.txq = [] then s else bump ((tblKeys s.fabric.txq).foldl (fun s k => drainClass s (k / 8) (k % 8)) s)

/-- Whether some class's queue on a port is above the threshold. -/
def portSaturated (s : Node) (p : Nat) : Bool := (List.range 8).any fun tc => decide (txBytes s p tc > ecnThr s (p / 4))

/-- PORT_SAT and the LEVEL_SAT of the port's level count the cycle. -/
def countSat (s : Node) (p : Nat) : Node :=
  if portSaturated s p then
    cntAdd (cntAdd s (bLoc .portSat (p / 4) [p % 4]) 1) (bLoc .levelSat (p / 4) [fGet s (dzPort p) fDzPortLevel]) 1
  else s

/-! ## The Ledger (R378) -/

/-- FULL_WAIT_CYCLES counts the cycle where a reader of the base die waits so. -/
def countFull (s : Node) (b : Nat) : Node :=
  if (freeEntry s b).isNone && (List.range 64).any fun i => readerWants s (b * 64 + i) then
    cntAdd s (bLoc .fullWaitCycles b) 1
  else s

/-! ## ACLK (R443) -/

/-- The part of an ACLK cycle that one FCLK cycle of 2.0 GHz holds, in 120ths: OP0 to OP7 are 2.25 to 1.20 GHz in steps of
0.15 GHz, and a stretched period is half as long again (R443, R449, R457). -/
def aclkRate (op : Nat) (stretched : Bool) : Nat := (45 - 3 * op) * (if stretched then 2 else 3)

/-- A Gable's counts of `n` ACLK cycles: the stall watchdogs of its groups (R94), CELL_GUTTER_WAIT (R120), and the
cycles of its element engine (R145). -/
def gableCycles (s : Node) (g n : Nat) : Node :=
  let y := gableOf s g
  let watch := fun (p : Nat × Group) => (p.1, if watched p.2 then { p.2 with watch := p.2.watch + n } else p.2)
  let s1 := if y.groups.any (fun p => watched p.2) then modGable s g fun z => { z with groups := z.groups.map watch } else s
  let s2 := [0, 1].foldl (fun s c => if gutterWaits y c then cntAdd s (gLoc .cellGutterWait g [c]) n else s) s1
  if y.elem.running then
    let s3 := cntAdd s2 (gLoc .elemBusyCycles g) n
    if y.elem.blocked || y.elem.fseq != 0 then cntAdd s3 (gLoc .elemBlockedCycles g) n else s3
  else s2

/-- A compute die's ACLK in one FCLK cycle: TS_IDLE_CYCLES and LP_STRETCH_CYCLES with the counts of its Gables. -/
def tickAclk (s : Node) (d : Nat) : Node :=
  if isFenced s d then s
  else
    let stretched := bit s.ctl.lv.droop d || bit s.ctl.lv.peak (d / 3)
    let part := tblGet 0 s.ctl.time.aclk d + aclkRate (runOp s d) stretched
    let n := part / 120
    let s1 := modTime s fun t => { t with aclk := tblSet 0 t.aclk d (part % 120) }
    let s2 := ((tblKeys s.gables).filter fun g => g / 16 == d).foldl (fun s g => gableCycles s g n) s1
    let s3 := if anyBelow 16 fun lg => gableIdle s (16 * d + lg) then cntAdd s2 (dLoc .tsIdleCycles d) n else s2
    if stretched then cntAdd s3 (dLoc .lpStretchCycles d) n else s3

/-- SHG_CAST_WAIT counts the cycle where a CAST to a tag of the slice waits for room (R24, R355). -/
def countCast (s : Node) (b : Nat) : Node :=
  if s.gables.any fun p => p.2.elem.running && p.2.elem.blocked && p.2.elem.fseq == 0 && eOp (elemWord p.2.elem) == 0x24 &&
      sAt p.2.elem (eD (elemWord p.2.elem)) % 4096 / 1024 == b then cntAdd s (bLoc .shgCounters b [2]) 1
  else s

/-- Each microsecond the power estimates are formed (R440), the PTP ports age (R430). -/
def tickMicro (s0 s : Node) : Node := if s.now / 1000 = s0.now / 1000 then s else agePtp (formEstimates s)

/-- One FCLK cycle; nothing moves while the node is in reset or stopped. -/
def tick (s : Node) : Node :=
  if !nodeRuns s then s
  else
    let s1 := (List.range 4).foldl countFull ((List.range 16).foldl countSat (tickQueues (tickTime s)))
    let s2 := (List.range 20).foldl (fun s p => if (portOf s p).paused = 0 then s else pauseEnds s p) s1
    let s3 := (List.range 12).foldl (fun s d => rampDie (tickAclk s d) d) s2
    tickMicro s (pulseFalls ((List.range 4).foldl countCast s3))

end Sys2Proof.Machine
end

