-- ==== Sys2Proof/WellFormed.lean ====
section
/-! DEFINITION. Which commands name units that the node has (R9, R12, R185, R299, R313, R370). A command that is not
well formed names something that does not exist. -/

namespace Sys2Proof

/-- Whether a sender's transport exists (R466). -/
def CorudSrc.exists_ : CorudSrc → Bool
  | .inband port _ => decide (port < 20)
  | .mailbox base => decide (base < 4)
  | .mgt _ => true
  | .i3c => true

/-- Whether an SRAM part exists (R12, R185). -/
def SramPart.exists_ : SramPart → Bool
  | .cacheTags die => decide (die < 12)
  | .tlb die => decide (die < 12)
  | .pool die => decide (die < 12)
  | .accumulator gable _ => decide (gable < 192)
  | .elemBuffer gable => decide (gable < 192)
  | .coreCache core _ _ => decide (core < 96)
  | .dirEntry _ => true
  | .ledgerEntry base _ => decide (base < 4)
  | .baseDie base => decide (base < 4)

/-- Whether every unit that a command names exists. -/
def Instr.wellFormed : Instr → Bool
  | .csrWrite _ _ _ _ => true
  | .rcRegisterRead _ _ _ => true
  | .mma gable _ _ => decide (gable < 192)
  | .mmaSp gable _ _ => decide (gable < 192)
  | .mmaQueueEnter gable _ => decide (gable < 192)
  | .mrel gable _ _ => decide (gable < 192)
  | .mfence gable _ _ => decide (gable < 192)
  | .mfenceSatisfied gable _ => decide (gable < 192)
  | .mmaKStep gable _ => decide (gable < 192)
  | .gutterCopyStart gable _ _ => decide (gable < 192)
  | .gutterCopyDone gable _ => decide (gable < 192)
  | .groupLaunch gable => decide (gable < 192)
  | .gableAluInstruction gable _ _ => decide (gable < 192)
  | .bnz gable _ _ => decide (gable < 192)
  | .bz gable _ _ => decide (gable < 192)
  | .jmp gable _ _ => decide (gable < 192)
  | .yield gable _ _ => decide (gable < 192)
  | .exit gable _ _ => decide (gable < 192)
  | .ld gable _ _ => decide (gable < 192)
  | .st gable _ _ => decide (gable < 192)
  | .ldDataReturn gable _ _ => decide (gable < 192)
  | .lds gable _ _ => decide (gable < 192)
  | .sts gable _ _ => decide (gable < 192)
  | .copy gable _ _ => decide (gable < 192)
  | .copyStart gable => decide (gable < 192)
  | .copyBytesLand gable _ _ _ => decide (gable < 192)
  | .cntset gable _ _ => decide (gable < 192)
  | .cntadd gable _ _ => decide (gable < 192)
  | .waitcnt gable _ _ => decide (gable < 192)
  | .waitcntSatisfied gable _ => decide (gable < 192)
  | .arrivalCntWrite gable _ _ => decide (gable < 192)
  | .groupStall gable _ => decide (gable < 192)
  | .groupResume gable _ => decide (gable < 192)
  | .groupKill gable _ => decide (gable < 192)
  | .gableEnableWrite gable _ => decide (gable < 192)
  | .gableDisableDone gable => decide (gable < 192)
  | .gableEnableDone gable => decide (gable < 192)
  | .gableSramUncorrected gable => decide (gable < 192)
  | .scratchWindowAccess _ _ _ _ _ => true
  | .elemRunStart gable => decide (gable < 192)
  | .elemEnd gable => decide (gable < 192)
  | .elemAdd gable => decide (gable < 192)
  | .elemSub gable => decide (gable < 192)
  | .elemMul gable => decide (gable < 192)
  | .elemFma gable => decide (gable < 192)
  | .elemMul3 gable => decide (gable < 192)
  | .elemMin gable => decide (gable < 192)
  | .elemMax gable => decide (gable < 192)
  | .elemDiv gable => decide (gable < 192)
  | .elemFn gable => decide (gable < 192)
  | .elemSel gable => decide (gable < 192)
  | .elemCmp gable => decide (gable < 192)
  | .elemAnd gable => decide (gable < 192)
  | .elemOr gable => decide (gable < 192)
  | .elemXor gable => decide (gable < 192)
  | .elemShl gable => decide (gable < 192)
  | .elemShr gable => decide (gable < 192)
  | .elemCvt gable => decide (gable < 192)
  | .elemRed gable => decide (gable < 192)
  | .elemPerm gable => decide (gable < 192)
  | .elemSetvl gable => decide (gable < 192)
  | .elemHad gable => decide (gable < 192)
  | .elemMsk gable => decide (gable < 192)
  | .elemSop gable => decide (gable < 192)
  | .elemSkip gable => decide (gable < 192)
  | .elemLd gable => decide (gable < 192)
  | .elemScaleLoad gable => decide (gable < 192)
  | .elemSt gable => decide (gable < 192)
  | .elemStsc gable => decide (gable < 192)
  | .elemCast cast => decide (cast.gable < 192)
  | .elemSig gable => decide (gable < 192)
  | .erkey gable _ _ => decide (gable < 192)
  | .epld gable _ _ => decide (gable < 192)
  | .elemSlotWrite gable _ _ _ => decide (gable < 192)
  | .tdarg gable _ _ => decide (gable < 192)
  | .tsListAddrWrite die _ _ => decide (die < 12)
  | .tsListGoWrite die _ _ => decide (die < 12)
  | .tileDescFetch die => decide (die < 12)
  | .tileLaunch gable => decide (gable < 192)
  | .tileSteal gable => decide (gable < 192)
  | .brokerStealRequest die _ => decide (die < 12)
  | .tileComplete die _ => decide (die < 12)
  | .depCntWrite counter _ => decide (counter < 1024)
  | .tsEnableWrite die _ => decide (die < 12)
  | .tsDisableDone die => decide (die < 12)
  | .seqEntryStageWrite seq _ _ => decide (seq < 4096)
  | .seqEntryCommit seq _ => decide (seq < 4096)
  | .layoutBatchWrite _ _ => true
  | .brokerEnableWrite base _ => decide (base < 4)
  | .kvg gable _ _ => decide (gable < 192)
  | .kvgStart gable => decide (gable < 192)
  | .hostCoreInstruction core _ _ => decide (core < 96)
  | .satpWrite core _ => decide (core < 96)
  | .cboClean core _ => decide (core < 96)
  | .cboFlush core _ => decide (core < 96)
  | .cboInval core _ => decide (core < 96)
  | .cboZero core _ => decide (core < 96)
  | .sfenceVma core _ _ => decide (core < 96)
  | .timerInterrupt core => decide (core < 96)
  | .imsicSeteipnumWrite core _ _ => decide (core < 96)
  | .aplicRegisterWrite base _ _ _ => decide (base < 4)
  | .aplicSourceEvent base _ => decide (base < 4)
  | .glaunchWrite gable _ => decide (gable < 192)
  | .glaunchFetchDone gable => decide (gable < 192)
  | .depWatchWrite die _ _ => decide (die < 12)
  | .depWatchFire die _ => decide (die < 12)
  | .rds die _ _ => decide (die < 12)
  | .rdx die _ _ => decide (die < 12)
  | .upg die _ => decide (die < 12)
  | .wbd die _ => decide (die < 12)
  | .evc die _ => decide (die < 12)
  | .cln _ _ => true
  | .fls _ _ => true
  | .rdonce _ _ _ => true
  | .wrline _ _ _ _ => true
  | .wrpart _ _ _ _ => true
  | .atom _ _ _ _ _ _ => true
  | .snps die _ => decide (die < 12)
  | .snpx die _ => decide (die < 12)
  | .snprd die _ => decide (die < 12)
  | .snpcln die _ => decide (die < 12)
  | .snprcl die _ => decide (die < 12)
  | .snpinv die _ => decide (die < 12)
  | .coherenceResponse die _ => decide (die < 12)
  | .cmpack die _ => decide (die < 12)
  | .snoopTimeout die _ => decide (die < 12)
  | .fenceScanDone base => decide (base < 4)
  | .amo gable _ _ => decide (gable < 192)
  | .gableFence gable _ _ => decide (gable < 192)
  | .hbmReadComplete base _ _ => decide (base < 4)
  | .patrolScrub base _ _ => decide (base < 4)
  | .hbmStackLost stack => decide (stack < 12)
  | .prefetchReturn base _ => decide (base < 4)
  | .nmcDieLost base => decide (base < 4)
  | .nmcEnableWrite base _ => decide (base < 4)
  | .nmcInvWrite base _ => decide (base < 4)
  | .nmcWritebackDone base => decide (base < 4)
  | .nmcInvDone base => decide (base < 4)
  | .nmcSeedWrite base _ => decide (base < 4)
  | .stuSatpWrite _ => true
  | .stuWalkComplete _ _ _ => true
  | .faultRecordWrite base => decide (base < 4)
  | .fqHeadWrite base _ => decide (base < 4)
  | .fqBaseWrite base _ => decide (base < 4)
  | .stuResolveRetry _ => true
  | .stuResolveAbort _ => true
  | .stuMigrateWrite base _ => decide (base < 4)
  | .migrationComplete base => decide (base < 4)
  | .stuShootRange base _ => decide (base < 4)
  | .stuShootAll base _ => decide (base < 4)
  | .shootdownComplete base => decide (base < 4)
  | .shootdownStalled base => decide (base < 4)
  | .stuCntCtrlWrite _ => true
  | .stuCntClear _ => true
  | .accessCountBatch die _ _ => decide (die < 12)
  | .bundleFrameReceive edge dir bundle _ _ => decide (edge < 4) && decide (dir < 2) && decide (bundle < 64)
  | .bundleNakReceive edge dir bundle => decide (edge < 4) && decide (dir < 2) && decide (bundle < 64)
  | .wireTestStart edge dir bundle => decide (edge < 4) && decide (dir < 2) && decide (bundle < 64)
  | .wireTestEnd edge dir bundle _ => decide (edge < 4) && decide (dir < 2) && decide (bundle < 64)
  | .routeSwitchDone => true
  | .edgeEnableWrite edge _ => decide (edge < 4)
  | .edgeStepDone edge => decide (edge < 4)
  | .commonEnableWrite _ _ => true
  | .portEnableWrite port _ => decide (port < 20)
  | .portStepDone port => decide (port < 20)
  | .portSignalDetect port => decide (port < 20)
  | .portLinkUp port _ => decide (port < 20)
  | .portTrainTimeout port => decide (port < 20)
  | .portDown port _ => decide (port < 20)
  | .laneFail port _ => decide (port < 20)
  | .ethFrameReceive port _ => decide (port < 20)
  | .arpRequest port _ _ => decide (port < 20)
  | .pfcFrameReceive port _ _ => decide (port < 20)
  | .pfcBufferThreshold port _ _ => decide (port < 20)
  | .pfcStorm port _ => decide (port < 20)
  | .cnpReceive qp => decide (qp < 4096)
  | .roceRateIncrease qp => decide (qp < 4096)
  | .rocePacketReceive port _ => decide (port < 20)
  | .roceAckReceive qp _ => decide (qp < 4096)
  | .roceAckTimeout qp => decide (qp < 4096)
  | .roceQpLoad base qp => decide (base < 4) && decide (qp < 4096)
  | .roceQpStore base qp => decide (base < 4) && decide (qp < 4096)
  | .roceQpDestroy base qp => decide (base < 4) && decide (qp < 4096)
  | .roceSqDb base _ => decide (base < 4)
  | .roceSendEntry qp => decide (qp < 4096)
  | .roceCompletionWrite base => decide (base < 4)
  | .mrEntryWrite k w _ => decide (k < 16384) && decide (w < 4)
  | .dzFrameReceive port _ _ => decide (port < 20) && port % 5 != 4
  | .dzSend _ _ => true
  | .dzPut _ => true
  | .dzGet _ => true
  | .dzLoad _ => true
  | .dzStore _ => true
  | .dzAtomic _ => true
  | .dzResp _ => true
  | .dzMsg _ => true
  | .dzAck port _ => decide (port < 20) && port % 5 != 4
  | .dzNak port _ => decide (port < 20) && port % 5 != 4
  | .dzKeepalive port _ => decide (port < 20) && port % 5 != 4
  | .dzAckTimer _ _ => true
  | .dzGapTimer _ _ => true
  | .dzRto _ _ _ => true
  | .dzWindowIncrease _ _ => true
  | .flowIdleRelease _ _ _ => true
  | .keepaliveSend port => decide (port < 20) && port % 5 != 4
  | .neighbourLost port => decide (port < 20) && port % 5 != 4
  | .dzCmdDb base _ => decide (base < 4)
  | .dzCmdBaseWrite base ring _ => decide (base < 4) && decide (ring < 16)
  | .dzCmdPut base ring => decide (base < 4) && decide (ring < 16)
  | .dzCmdGet base ring => decide (base < 4) && decide (ring < 16)
  | .dzCmdMsg base ring => decide (base < 4) && decide (ring < 16)
  | .dzCmdComplete base _ => decide (base < 4)
  | .dzEnableWrite base _ => decide (base < 4)
  | .dzDisableDone base => decide (base < 4)
  | .ridgeGo _ => true
  | .ridgeChunk _ => true
  | .ridgeTreeWrite tree w _ => decide (tree < 256) && decide (w < 8)
  | .shgGroupWrite x w _ => decide (x < 64) && decide (w < 2)
  | .shgArm _ => true
  | .shgArmProcess base => decide (base < 4)
  | .shgDelivery tag _ _ _ => decide (tag < 4096)
  | .shgGo tag => decide (tag < 4096)
  | .shgCancel tag => decide (tag < 4096)
  | .shgHoldWrite base _ => decide (base < 4)
  | .shinglePacket _ => true
  | .shgShardReduced tag _ => decide (tag < 4096)
  | .shgAgLaunch tag => decide (tag < 4096)
  | .shgBucketComplete tag => decide (tag < 4096)
  | .shgEnableWrite base _ => decide (base < 4)
  | .shgDisableDone base => decide (base < 4)
  | .wqEnableWrite queue _ => decide (queue < 256)
  | .wqDisableDone queue => decide (queue < 256)
  | .doorbellProd queue _ => decide (queue < 256)
  | .doorbellResume queue => decide (queue < 256)
  | .doorbellReplay queue => decide (queue < 256)
  | .wqSlotRead queue => decide (queue < 256)
  | .wqRereadTimer queue => decide (queue < 256)
  | .doorbellAhead queue => decide (queue < 256)
  | .mirrorWriteAck base i => decide (base < 4) && decide (i < 16384)
  | .acceptanceWordWrite queue => decide (queue < 256)
  | .mirrorLost base i => decide (base < 4) && decide (i < 16384)
  | .wqTiles base i => decide (base < 4) && decide (i < 16384)
  | .wqNotifyCmd base i => decide (base < 4) && decide (i < 16384)
  | .wqWait base i => decide (base < 4) && decide (i < 16384)
  | .wqSignal base i => decide (base < 4) && decide (i < 16384)
  | .wqNop base i => decide (base < 4) && decide (i < 16384)
  | .wqCommandComplete base i => decide (base < 4) && decide (i < 16384)
  | .completionRecordWrite base i => decide (base < 4) && decide (i < 16384)
  | .cqWriteFailed queue => decide (queue < 256)
  | .wqNotifyRead base => decide (base < 4)
  | .wqCompleteWrite _ => true
  | .ledgerFresh => true
  | .ledgerReplay => true
  | .reconciliationDone _ => true
  | .errHeadWrite base _ => decide (base < 4)
  | .fenceWrite _ => true
  | .heartbeatMissed die => decide (die < 12)
  | .dieFence die => decide (die < 12)
  | .dieAbort die => decide (die < 12)
  | .dieAbortDone die => decide (die < 12)
  | .nodeLeaving => true
  | .mpAllLost => true
  | .orphanReset => true
  | .ckptCut _ => true
  | .cutDrained => true
  | .cutDrainTimeout => true
  | .cutScanDone => true
  | .cutChunkCopied _ => true
  | .cutRemoteDone => true
  | .ckptRestoreLocal => true
  | .ckptRestoreBuddy _ _ _ => true
  | .restoreDone => true
  | .ptpSyncReceive port _ => decide (port < 20)
  | .ptpPdelay port _ => decide (port < 20)
  | .ptpAnnounce port _ => decide (port < 20)
  | .ppsInEdge => true
  | .ppsMissing => true
  | .ppsOutPulse => true
  | .timeHoldover _ => true
  | .ppsHoldExpiry => true
  | .teEntryWrite e _ _ => decide (e < 64)
  | .teLatch e => decide (e < 64)
  | .teCut e => decide (e < 64)
  | .teHold e => decide (e < 64)
  | .teSignal e => decide (e < 64)
  | .teArm e => decide (e < 64)
  | .teLouvre e => decide (e < 64)
  | .powerSample _ _ _ => true
  | .estimatorDiverge domain => decide (domain < 19)
  | .lvClearGuard => true
  | .lvClearLearned => true
  | .packageLoop _ _ => true
  | .phaseClassify _ => true
  | .shareLearn _ => true
  | .opMoveDone die => decide (die < 12)
  | .budgetWrite _ => true
  | .budgetExpired => true
  | .currentPeak x => decide (x.base < 4)
  | .currentPeakRelease x => decide (x.base < 4)
  | .capBelowFloor => true
  | .droopDetect die => decide (die < 12)
  | .droopRelease die => decide (die < 12)
  | .thermalRead sensed _ _ _ => decide (sensed < 32)
  | .thermalFault sensed => decide (sensed < 16)
  | .thermtrip sensed => decide (sensed < 32)
  | .pwrbrkAssert => true
  | .pwrbrkRelease => true
  | .brakeStuck => true
  | .coroudRead src _ _ => src.exists_
  | .coroudWrite src _ _ => src.exists_
  | .coroudSegmentTimeout _ _ _ => true
  | .coroudRequestStale _ _ => true
  | .configStoreWriteDone _ => true
  | .telemetryReport _ => true
  | .userCalibrationWrite _ _ _ => true
  | .latchCheck => true
  | .latchCommitNow => true
  | .latchDiscard => true
  | .commitAtWrite _ => true
  | .latchApply => true
  | .mpLeadClaim base => decide (base < 4)
  | .mbReqWrite base _ => decide (base < 4)
  | .mbResponse base => decide (base < 4)
  | .pwrokRise _ => true
  | .pwrokFall => true
  | .resetNAssert => true
  | .resetNRelease _ => true
  | .softwareReset => true
  | .warmResetRelease _ => true
  | .hbmTrainingDone => true
  | .readyRise => true
  | .bootChunkWrite _ _ => true
  | .bootGoWrite _ => true
  | .svnCommit _ => true
  | .lcsTokenWrite _ => true
  | .debugTokenWrite _ => true
  | .ownerKeyWrite _ => true
  | .revokeWrite _ => true
  | .nonceWrite _ => true
  | .measurementExtend _ _ => true
  | .jobWipe => true
  | .jobWipeDone => true
  | .testModeEnter => true
  | .testModeExit => true
  | .lbPrbsWrite port _ => decide (port < 20)
  | .prbsCheckerLock port _ _ => decide (port < 20)
  | .bistSram _ => true
  | .bistNearMemory _ => true
  | .bistHbmMbist _ => true
  | .bistLogic _ => true
  | .bistHbmPhyLoopback _ => true
  | .bistBridgeLoopback _ => true
  | .bistDone _ _ => true
  | .tapReset => true
  | .idcode => true
  | .samplePreload _ => true
  | .extest => true
  | .highz => true
  | .clamp => true
  | .extestPulse => true
  | .extestTrain => true
  | .dtmcs => true
  | .dmi _ _ _ => true
  | .bypass => true
  | .railUndervoltage => true
  | .corePllLockLoss => true
  | .refclkSdsLoss base => decide (base < 4)
  | .alertAckWrite _ => true
  | .ownStepEnds _ => true
  | .evictionAcknowledged die _ => decide (die < 12)
  | .ptpSyncSend port => decide (port < 20)
  | .sramUncorrected part => part.exists_
  | .regulatorFault die => decide (die < 12)
  | .refclkSdsReturn base => decide (base < 4)
  | .netbootReport => true
  | .narrowingCompleted port => decide (port < 20)

end Sys2Proof
end

