-- ==== Sys2Proof/Safety.lean ====
section
/-! DEFINITION. What claims about every run are stated in: the canonical form of memory, fuses that only burn, queues
whose commands name units that exist. -/

namespace Sys2Proof.Machine

/-- Whether every bit of `a` is set in `b`. -/
def bitsKept (a b : Nat) : Bool := a ||| b == b

/-- Whether `b` holds every fuse that `a` holds burnt (R506, R511, R512, R516): version bits, revoked slots,
owner slots; and whether its life-cycle state is no earlier. -/
def Fuses.kept (a b : Fuses) : Bool :=
  bitsKept a.svn.1 b.svn.1 && bitsKept a.svn.2 b.svn.2 && bitsKept a.rootRev b.rootRev && bitsKept a.ownerRev b.ownerRev &&
  a.owners.isPrefixOf b.owners && decide (a.lcs ≤ b.lcs)

/-- The node's fuses. -/
def fusesOf (s : State) : Fuses := s.node.ctl.life.fuses

/-- Memory in its canonical form. -/
def memoryOk (s : State) : Bool := Memory.wf s.node.mem

/-- Every waiting command names units that exist. -/
def queueOk (s : State) : Bool := s.pending.all Sys2Proof.Instr.wellFormed

/-- `n` steps, none of which stops. -/
def runs : Nat → State → State → Prop
  | 0, s, t => s = t
  | n + 1, s, t => ∃ u, step s = .next u ∧ runs n u t

/-- Fabric time in units of 2^-16 ns over `adjWhole`: the counter, its fraction and the remainder of its rate. -/
def timeUnits (n : Node) : Nat := (n.now * 2 ^ 16 + n.ctl.time.frac) * adjWhole + n.ctl.time.left

/-- Group `k` of Gable `g` executes an instruction: it may issue, and no load that RESUME issues again comes first
(R85, R114). -/
abbrev groupReady (s : Node) (g k : Nat) : Prop :=
  g < 192 ∧ canIssue s g k = true ∧ (groupOf s g k).redo = []

/-- Group `k` of Gable `g` executes word `w` of opcode `op`: it issues, the word is legal (R88), no source register awaits a
load (R85) and every register it names lies below REGS (R83). -/
abbrev mayIssue (s : Node) (g k op w : Nat) (legal : Bool) (regs srcs : List Nat) : Prop :=
  groupReady s g k ∧ opcodeOf w = op ∧ legal = true ∧ srcs.any (awaits (groupOf s g k)) = false ∧
  regsOk (groupOf s g k) regs = true

/-- Group `k` of Gable `g` executes the matrix word `w`: all 32 lanes run, the word is legal and its descriptor register
is readable, and a quad's other Gable is in service (R78, R79, R117). -/
abbrev mayMatrix (s : Node) (g k w : Nat) : Prop :=
  groupReady s g k ∧ runMask (groupOf s g k) = 0xFFFFFFFF ∧ matWordOk g w = true ∧
  (mGang w = 2 → ctrlState s (gLoc .gableCtrl (partner g)) ≠ stFaulted) ∧
  ((opcodeOf w = 0xD4 ∨ opcodeOf w = 0xD5) →
    awaits (groupOf s g k) (bits w 39 32) = false ∧ bits w 39 32 < (groupOf s g k).regs)

/-- Gable `g`'s element engine executes opcode `op`: a run stands at it, waits for no translation, and the Gable is in
service (R122, R117). -/
abbrev elemReady (s : Node) (g op : Nat) : Prop :=
  g < 192 ∧ (elemOf s g).running = true ∧ (elemOf s g).fseq = 0 ∧ eOp (elemWord (elemOf s g)) = op ∧
  isFenced s (g / 16) = false ∧ ctrlState s (gLoc .gableCtrl g) ≠ stFaulted

/-- The engine's state after an instruction that writes its destination tile position by position. -/
def elemWrites (s : Node) (g : Nat) (f : Elem → Nat → Nat → Nat → Flagged) : Node :=
  let e := elemOf s g
  let w := elemWord e
  elemDone s g (tileWrite e w (f e w)).1 (tileWrite e w (f e w)).2

/-- The state `t` core `c` executes an instruction of `len` bytes in, once it has been fetched in state `s` and no
interrupt, trigger or fetch exception took its place. -/
def fetchedTo (s : Node) (c len : Nat) (t : Node) : Prop :=
  let s1 := hpmStep (modCore s c fun h => { h with waiting := false }) c
  hostRuns s c = true ∧ intrDue (coreOf s1 c) = none ∧ firedTrig (coreOf s1 c) 2 (coreOf s1 c).pc = none ∧
  ∃ v u, hostFetch s1 c len = (u, .ok v) ∧ t = modCore u c fun h => { h with insn := v }

end Sys2Proof.Machine
end

