-- ==== Sys2Proof/Certificates/Slice0/Obligations.lean ====
section
/-! DEFINITION. The statements for the provers. A command's next state is given as the node it leaves; the queue is
untouched in each. -/

open Sys2Proof Sys2Proof.Machine

/-! ## The block -/

/-- A step with command `c` at the front of the queue is `exec c` with the queue's rest (the model's queue, log entry 1). -/
def Obligations.StepRunsFront : Prop :=
  ∀ (c : Instr) (s : State), step { s with pending := c :: s.pending } = exec c s

/-- On an empty queue one FCLK cycle passes, which is the model's choice (log entry 2): fabric time, in units of 2^-16 ns
over `adjWhole`, grows by half a nanosecond scaled by FT_ADJ, and memory and fuses stay as they are. While the node is in
reset or stopped nothing changes (R425). -/
def Obligations.IdleStepIsOneCycle : Prop :=
  ∀ s : State, s.pending = [] → ∃ n : Node, step s = .next { s with node := n } ∧
    n.mem = s.node.mem ∧ n.poison = s.node.poison ∧ n.ctl.life = s.node.ctl.life ∧
    (nodeRuns s.node = false → n = s.node) ∧
    (nodeRuns s.node = true → timeUnits n =
      (timeUnits s.node + halfNs * ((adjWhole : Int) + signed 32 (fGet s.node (bLoc .ftAdj 0) fFtAdjAdj)).toNat) %
        (2 ^ 80 * adjWhole))

/-- Every command that names units the node has completes: its effect is on the node alone. -/
def Obligations.CommandCompletes : Prop :=
  ∀ (i : Instr) (s : State), i.wellFormed = true → ∃ n : Node, exec i s = .next { s with node := n }

/-- A command that names a unit the node does not have stops with the fault that says so, and only such a one does. -/
def Obligations.AbsentUnitStops : Prop :=
  ∀ (i : Instr) (s : State), exec i s = .fault .noSuchUnit ↔ i.wellFormed = false

/-- A queue of commands that name existing units is served to its end, in order, without a stop: as many steps as there
are commands empty it. -/
def Obligations.QueueDrains : Prop :=
  ∀ s : State, queueOk s = true → ∃ t : State, runs s.pending.length s t ∧ t.pending = []

/-- Serving the queue `l ++ m` serves `l` first and then `m`: the queue is first in, first out. -/
def Obligations.QueueIsFirstInFirstOut : Prop :=
  ∀ (l m : List Instr) (n : Node) (t : State), runs l.length ⟨l ++ m, n⟩ t →
    ∃ k : Node, t = ⟨m, k⟩ ∧ runs l.length ⟨l, n⟩ ⟨[], k⟩

/-- Every step keeps memory in its canonical form. -/
def Obligations.MemoryKept : Prop :=
  ∀ s t : State, memoryOk s = true → step s = .next t → memoryOk t = true

/-- After reset memory has its canonical form, and no command waits. -/
def Obligations.ResetMeetsInvariants : Prop :=
  memoryOk State.reset = true ∧ queueOk State.reset = true ∧ State.reset.pending = []

/-- No step clears a fuse: burnt version bits, revoked slots and owner slots stay, and the life-cycle state never goes
back (R506, R511, R512). -/
def Obligations.FusesKept : Prop :=
  ∀ s t : State, step s = .next t → Fuses.kept (fusesOf s) (fusesOf t) = true

/-- Every reset starts fabric time at zero (R425): the power-up state, in FREERUN, and every reset from any state. -/
def Obligations.ResetStartsTimeAtZero : Prop :=
  State.reset.node.now = 0 ∧ quality State.reset.node = 0 ∧
  ∀ (n : Node) (cause : Nat) (keep wipeLed erase : Bool),
    (resetNode n cause keep wipeLed erase).now = 0 ∧ (resetNode n cause keep wipeLed erase).ctl.time.frac = 0

/-! ## CSRs (R19 to R23) -/

/-- R19: an access of another size than 64 bits or off its natural alignment is refused without being performed; a host
core receives an access fault, a management processor an access error in its mailbox status. That this is STATUS ACCESS
of MB_STATUS is the model's choice (log entry 186). -/
def Obligations.CsrAccessRefused : Prop :=
  ∀ (src : Sender) (off size : Nat) (v : Word) (s : State), ¬(size = 8 ∧ off % 8 = 0) →
    exec (.csrWrite src off size v) s = .next { s with node := refuseCsr s.node src } ∧
    exec (.rcRegisterRead src off size) s = .next { s with node := refuseCsr s.node src } ∧
    (∀ c, refuseCsr s.node (.core c) = { s.node with resp := .accessFault }) ∧
    ∀ m, m < 4 → ∃ n : Node, refuseCsr s.node (.mp m) = n ∧ n = { s.node with csr := n.csr, resp := .mpError } ∧
      fGet n (bLoc .mbStatus m) fMbStatusStatus = 2

/-- R20: a read where no register stands returns zero and a write there is ignored; neither raises an error. In the debug
block 0xF0 of a base die this holds while debug is closed (R528), and in a fenced die's scope R21 holds instead. -/
def Obligations.CsrWithoutRegister : Prop :=
  ∀ (src : Sender) (off : Nat) (v : Word) (s : State), csrAllowed src off 8 = true → csrFenced s.node off = false →
    csrFind off = none → (off / 2 ^ 28 < 12 ∨ off / 2 ^ 20 % 256 ≠ 0xF0 ∨ debugOpen s.node = false) →
    exec (.csrWrite src off 8 v) s = .next { s with node := { s.node with resp := .done } } ∧
    exec (.rcRegisterRead src off 8) s = .next { s with node := { s.node with resp := .data 0 } }

/-! ## The stochastic rounding generator and the memory map -/

/-- R46: a step toggles the polynomial's mask where the low bit leaves; the generator stays 32 bits wide, never leaves the
all-zero state, and that state is never loaded. -/
def Obligations.GeneratorNeverZero : Prop :=
  (∀ s : Nat, lfsrStep s = if s % 2 = 1 then (s >>> 1) ^^^ 0x80200003 else s >>> 1) ∧
  (∀ s : Nat, s < 2 ^ 32 → lfsrStep s < 2 ^ 32 ∧ (lfsrStep s = 0 ↔ s = 0)) ∧
  ∀ seed key : Nat, lfsrLoad seed key ≠ 0

/-- R233 in GLOBAL interleave: the home base die b, the die-local line number R, the position R mod 3 of the line's stack
H(3b + R mod 3) on that die, and the stack line address R div 3, which for the 0x1_2000_0000 lines of installed memory runs
to 402,653,183. The first two numbers name one line. -/
def Obligations.GlobalInterleave : Prop :=
  ∀ s : Node, fGet s (bLoc .hbmStatus 0) fHbmStatusMapping = 0 →
    (∀ line : Nat, homeOf s line = (bits line 1 0 ^^^ bits line 9 8 ^^^ bits line 17 16 ^^^ bits line 25 24) ∧
      localLine s line = bits line 32 2 ∧ stackOf s line = bits line 32 2 % 3 ∧
      (line < 0x120000000 → 3 * homeOf s line + stackOf s line < 12 ∧ localLine s line / 3 ≤ 402653183)) ∧
    ∀ l m : Nat, l < 2 ^ 33 → m < 2 ^ 33 → homeOf s l = homeOf s m → localLine s l = localLine s m → l = m

/-! ## Gables -/

/-- r0 reads as zero and discards writes; a write of another register is read back in its lane and changes no other
register or lane (R83). -/
def Obligations.ZeroRegister : Prop :=
  ∀ (x : Group) (r lane : Nat) (v : Half), lane < 32 →
    writeReg x 0 lane v = x ∧ readReg x 0 lane = 0 ∧ (r ≠ 0 → readReg (writeReg x r lane v) r lane = v) ∧
    ∀ r' lane' : Nat, lane' < 32 → (r' ≠ r ∨ lane' ≠ lane) → readReg (writeReg x r lane v) r' lane' = readReg x r' lane'

/-- CNTSET of a group that may issue it sets the counter it names to the value of RS in the group's lowest active lane,
and the group goes on; RS must be readable and below REGS (R83, R90, R111). -/
def Obligations.CntsetSetsCounter : Prop :=
  ∀ (g k w : Nat) (s : State), groupReady s.node g k → opcodeOf w = 0xCD → cntLegal w = true →
    awaits (groupOf s.node g k) (bits w 39 32) = false → bits w 39 32 < (groupOf s.node g k).regs →
    let v := (readReg (groupOf s.node g k) (bits w 39 32) (firstLane (groupOf s.node g k))).toNat
    let u := countBanks s.node g k [bits w 39 32]
    exec (.cntset g k w) s =
      .next { s with node := retire (setArrival u g (bits w 45 40) v) g k (stepPc (groupOf s.node g k)) } ∧
    arrival (setArrival u g (bits w 45 40) v) g (bits w 45 40) = v

/-- A thread instruction that names a register at or above REGS stops the group with REG_RANGE and writes nothing: shown
of CNTSET, ERKEY and TDARG (R83). -/
def Obligations.RegisterRange : Prop :=
  ∀ (g k w : Nat) (s : State), groupReady s.node g k →
    (opcodeOf w = 0xCD → cntLegal w = true → awaits (groupOf s.node g k) (bits w 39 32) = false →
      (groupOf s.node g k).regs ≤ bits w 39 32 →
      exec (.cntset g k w) s = .next { s with node := stopGroup s.node g k eRegRange }) ∧
    (opcodeOf w = 0xC2 → bits w 55 40 = 0 → bits w 31 0 = 0 → awaits (groupOf s.node g k) (bits w 39 32) = false →
      (groupOf s.node g k).regs ≤ bits w 39 32 →
      exec (.erkey g k w) s = .next { s with node := stopGroup s.node g k eRegRange }) ∧
    (opcodeOf w = 0xC4 → bits w 55 48 = 0 → bits w 35 0 = 0 → (groupOf s.node g k).regs ≤ bits w 47 40 →
      exec (.tdarg g k w) s = .next { s with node := stopGroup s.node g k eRegRange })

/-- MFENCE_SATISFIED: a group that waits at an MFENCE goes on once at most COUNT of its matrix instructions still read
operands, and stays as it is otherwise (R65). -/
def Obligations.MfenceReleases : Prop :=
  ∀ (g k n : Nat) (s : State), g < 192 → (groupOf s.node g k).wait = .fence n → isFenced s.node (g / 16) = false →
    (readingCount s.node g k ≤ n →
      exec (.mfenceSatisfied g k) s = .next { s with node := retire s.node g k (stepPc (groupOf s.node g k)) }) ∧
    (n < readingCount s.node g k → exec (.mfenceSatisfied g k) s = .next s)

/-- A software write of ARRIVAL_CNT or DEP_CNT sets that counter to the low 32 bits; no other counter and nothing else of
the node but the answer changes (R111, R168). -/
def Obligations.CounterWrites : Prop :=
  ∀ (q : List Instr) (s : Node) (v : Word),
    (∀ g c : Nat, g < 192 → c < 64 → isFenced s (g / 16) = false → ∃ n : Node,
      exec (.arrivalCntWrite g c v) ⟨q, s⟩ = .next ⟨q, n⟩ ∧ n = { s with csr := n.csr, resp := .done } ∧
      arrival n g c = wbits v 31 0 ∧ ∀ c' : Nat, c' < 64 → c' ≠ c → arrival n g c' = arrival s g c') ∧
    ∀ i : Nat, i < 1024 → ∃ n : Node, exec (.depCntWrite i v) ⟨q, s⟩ = .next ⟨q, n⟩ ∧
      fGet n (depLoc i) fDepCntValue = wbits v 31 0 ∧ n = { s with csr := n.csr, resp := .done } ∧
      ∀ j : Nat, j < 1024 → j ≠ i → fGet n (depLoc j) fDepCntValue = fGet s (depLoc j) fDepCntValue

/-- A host core's store to a scratch window is read back by a load of the same bytes; only that Gable's scratch and the
answer change, so no byte of memory does. An access of another size, off its alignment, or to a fenced die's window is
refused (R102). -/
def Obligations.ScratchWindow : Prop :=
  ∀ (q : List Instr) (s : Node) (src : Sender) (addr size g off : Nat) (v : Word), paKind s addr = .scratch g off →
    (size ∈ [1, 2, 4, 8] → addr % size = 0 → isFenced s (g / 16) = false → ∃ n : Node,
      exec (.scratchWindowAccess src addr size true v) ⟨q, s⟩ = .next ⟨q, n⟩ ∧
      n = { s with gables := n.gables, resp := .done } ∧ (∀ g' : Nat, g' ≠ g → gableOf n g' = gableOf s g') ∧
      exec (.scratchWindowAccess src addr size false 0) ⟨q, n⟩ =
        .next ⟨q, { n with resp := .data (BitVec.ofNat 64 (v.toNat % 2 ^ (8 * size))) }⟩) ∧
    (size ∉ [1, 2, 4, 8] ∨ addr % size ≠ 0 ∨ isFenced s (g / 16) = true → ∀ store : Bool,
      exec (.scratchWindowAccess src addr size store v) ⟨q, s⟩ = .next ⟨q, { s with resp := refusal src }⟩)

/-- A store to word 1, 2 or 3 of a sequence entry is staged and leaves the entry as it is; a store to word 0 that is not
refused commits the three staged words with it and advances GEN; a refused one changes no word and sets REJECT (R177). -/
def Obligations.SequenceEntry : Prop :=
  ∀ (q : List Instr) (s : Node) (k : Nat) (v : Word), k < 4096 →
    (∀ i : Nat, 1 ≤ i → i ≤ 3 → exec (.seqEntryStageWrite k i v) ⟨q, s⟩ = .next ⟨q,
      { s with seqStaged := tblSet 0 s.seqStaged (4 * k + i) v, resp := .done }⟩ ∧
      tblGet 0 (tblSet 0 s.seqStaged (4 * k + i) v) (4 * k + i) = v) ∧
    ∃ n : Node, exec (.seqEntryCommit k v) ⟨q, s⟩ = .next ⟨q, n⟩ ∧ n = { s with csr := n.csr, resp := .done } ∧
      (seqRefused v.toNat (tblGet 0 s.seqStaged (4 * k + 2)).toNat = false →
        (∀ i : Nat, 1 ≤ i → i ≤ 3 → regGet n (seqLoc k i) = tblGet 0 s.seqStaged (4 * k + i)) ∧
        regGet n (seqLoc k 0) = wput v 63 48 ((wbits (regGet s (seqLoc k 0)) 63 48 + 1) % 65536)) ∧
      (seqRefused v.toNat (tblGet 0 s.seqStaged (4 * k + 2)).toNat = true →
        (∀ i : Nat, i ≤ 3 → regGet n (seqLoc k i) = regGet s (seqLoc k i)) ∧
        fGet n (bLoc .seqStatus (k / 1024)) fSeqStatusReject = 1)

/-! ## Frames -/

/-- Frame of the thread instructions BNZ, BZ, JMP, YIELD, CNTSET, CNTADD, ERKEY, TDARG, LDS and STS, in every next state,
a stop of the group among them. Every byte of memory, every other Gable but for a store to the partner's scratch, every
other group of the Gable and its element engine keep their values; so does every register but the destination of TDARG and
LDS, every arrival counter but the one that CNTSET or CNTADD names, the rounding key but for ERKEY, and every byte of
scratch but those that the lanes of STS store to (R83, R90 to R92, R95, R100, R111, R127). No KILL waits for the group: one
waits inside an AMO alone (R114). -/
def Obligations.ThreadInstructionFrame : Prop :=
  ∀ (q : List Instr) (s n : Node) (g k w : Nat) (c : Instr),
    c ∈ [Instr.bnz g k w, .bz g k w, .jmp g k w, .yield g k w, .cntset g k w, .cntadd g k w, .erkey g k w, .tdarg g k w,
      .lds g k w, .sts g k w] →
    (groupOf s g k).kill = false →
    exec c ⟨q, s⟩ = .next ⟨q, n⟩ →
    let x := groupOf s g k
    (∀ a : Nat, readByte n a = readByte s a) ∧
    (∀ h : Nat, h ≠ g → (c = .sts g k w → h ≠ partner g) → gableOf n h = gableOf s h) ∧
    (∀ j : Nat, j ≠ k → groupOf n g j = groupOf s g j) ∧ elemOf n g = elemOf s g ∧
    (∀ r lane : Nat, lane < 32 → (c = .tdarg g k w → r ≠ bits w 47 40) →
      (c = .lds g k w → ¬(bits w 47 40 ≤ r ∧ r < bits w 47 40 + (2 ^ bits w 55 53 + 3) / 4)) →
      readReg (groupOf n g k) r lane = readReg x r lane) ∧
    (∀ h i : Nat, h < 192 → i < 64 → (c = .cntset g k w ∨ c = .cntadd g k w → ¬(h = g ∧ i = bits w 45 40)) →
      arrival n h i = arrival s h i) ∧
    (c ≠ .erkey g k w → (groupOf n g k).rkey = x.rkey) ∧
    (∀ h off : Nat, off < 0x200000 → (c = .sts g k w → ∀ i ∈ accessLanes x w, scratchGable g (laneScratch x w i) = h →
        ¬(bits (laneScratch x w i) 20 0 ≤ off ∧ off < bits (laneScratch x w i) 20 0 + 2 ^ bits w 55 53)) →
      scratchLE n h off 1 = scratchLE s h off 1)

/-- Frame of the element instructions that write a tile position by position: every byte of memory, every other Gable,
this Gable's groups and scratch, the run's vectors, scalars, mask and lengths, and every position of a tile buffer but the
destination's within the run's part keep their values (R129 to R139). -/
def Obligations.ElementInstructionFrame : Prop :=
  ∀ (q : List Instr) (s n : Node) (g : Nat) (c : Instr),
    c ∈ [Instr.elemAdd g, .elemSub g, .elemMul g, .elemFma g, .elemMul3 g, .elemMin g, .elemMax g, .elemDiv g, .elemFn g,
      .elemSel g, .elemCmp g, .elemAnd g, .elemOr g, .elemXor g, .elemShl g, .elemShr g, .elemCvt g, .elemRed g, .elemPerm g,
      .elemHad g] →
    exec c ⟨q, s⟩ = .next ⟨q, n⟩ →
    let e := elemOf s g
    (∀ a : Nat, readByte n a = readByte s a) ∧ (∀ h : Nat, h ≠ g → gableOf n h = gableOf s h) ∧
    (∀ k : Nat, groupOf n g k = groupOf s g k) ∧ (∀ h off : Nat, scratchLE n h off 1 = scratchLE s h off 1) ∧
    (elemOf n g).v = e.v ∧ (elemOf n g).sreg = e.sreg ∧ (elemOf n g).mask = e.mask ∧ (elemOf n g).vln = e.vln ∧
    (elemOf n g).vlm = e.vlm ∧
    ∀ key : Nat, (∀ m j : Nat, m < runRows e → j < runCols e → key ≠ tileKey (eD (elemWord e)) m j) →
      tblGet 0 (elemOf n g).t key = tblGet 0 e.t key

/-- Frame of a store to a line that the die holds in M or E: every byte of memory but those stored keeps its value, and
those stored read as stored where the store names each byte once, outside the output regions of commands in progress; no
copy of the line differs from its contents (R97, R205, R390). -/
def Obligations.StoreFrame : Prop :=
  ∀ (s : Node) (d gable group line : Nat) (f : FillBy) (l : List (Nat × Byte)), d < 12 → s.ctl.test.junk = none →
    (∀ w : Nat, w < 13 → tblGet [] s.stale (copyKey line w) = []) → holdSt s d line = .m ∨ holdSt s d line = .e →
    (∀ p ∈ l, p.1 < lineBytes) →
    (∀ a : Nat, (∀ p ∈ l, line * lineBytes + p.1 ≠ a) → readByte (storeLine s d gable group line f l) a = readByte s a) ∧
    ((l.map (·.1)).Nodup → ∀ p ∈ l, outputDraw s (line * lineBytes + p.1) = none →
      readByte (storeLine s d gable group line f l) (line * lineBytes + p.1) = p.2)

/-! ## Gables: completion -/

/-- MMA, MMA.SP and MREL and MFENCE of a group that may issue them: a multiply whose descriptor is at a good address and
raises no fault waits at the queues with its claim noted; MREL retires where its banks are free already, else enters the
queues that have room, else waits; MFENCE retires with few enough instructions reading operands, else waits. MMA_QUEUE_ENTER
enters a multiply into queues that have room once its bank may be claimed (R58 to R66, R72). -/
def Obligations.MatrixIssueCompletes : Prop :=
  ∀ (q : List Instr) (s : Node) (g k w : Nat), mayMatrix s g k w →
    (∀ off : Nat, off = (readReg (groupOf s g k) (bits w 39 32) 0).toNat → off % 64 = 0 → off < 0x200000 →
      matFault s g k w (mmaDescOf (scratchBytes s g off 64)) (scratchBytes s g off 64) = none →
      let t := modGable (waitOn s g k (.matrix w (mmaDescOf (scratchBytes s g off 64)) (mClaim s g w))) (g - g % 2) fun y =>
        { y with claims := y.claims.filter (fun p => p ≠ (g, k)) ++ [(g, k)] }
      (opcodeOf w = 0xD4 → exec (.mma g k w) ⟨q, s⟩ = .next ⟨q, t⟩) ∧
      (opcodeOf w = 0xD5 → exec (.mmaSp g k w) ⟨q, s⟩ = .next ⟨q, t⟩)) ∧
    (opcodeOf w = 0xD7 →
      ((mBanks s g w).all (fun b => decide (b.st = .free)) = true →
        exec (.mrel g k w) ⟨q, s⟩ = .next ⟨q, retire s g k (stepPc (groupOf s g k))⟩) ∧
      ((mBanks s g w).all (fun b => decide (b.st = .free)) = false →
        (mBanks s g w).any (fun b => !(ownsBank b g k) || decide (b.st = .full) || !b.isOpen || b.gang != mGang w) = false →
        exec (.mrel g k w) ⟨q, s⟩ = .next ⟨q,
          if queuesFree s g w then enterQueues s g k w MmaDesc.none (mClaim s g w)
          else waitOn s g k (.matrix w MmaDesc.none (mClaim s g w))⟩)) ∧
    (opcodeOf w = 0xD8 → exec (.mfence g k w) ⟨q, s⟩ = .next ⟨q,
      if readingCount s g k ≤ bits w 47 40 then retire s g k (stepPc (groupOf s g k)) else waitOn s g k (.fence (bits w 47 40))⟩)

/-- Waiting matrix instructions enter their queues, cells take K steps, and finished banks are copied to the gutter, each
where it is due (R60 to R65, R75, R119, R120). -/
def Obligations.MatrixEventsComplete : Prop :=
  ∀ (q : List Instr) (s : Node) (g : Nat), g < 192 → isFenced s (g / 16) = false →
    (∀ (k w claim : Nat) (d : MmaDesc), (groupOf s g k).wait = .matrix w d claim → meetsLost s g w d = false →
      queuesFree s g w = true →
      (opcodeOf w = 0xD7 ∨ claimReady s g k w = true) →
      exec (.mmaQueueEnter g k) ⟨q, s⟩ = .next ⟨q, enterQueues s g k w d claim⟩) ∧
    (∀ (c : Nat) (i : CellInstr) (l : List CellInstr) (h : MmaShape), c < 2 → (cellOf s g c).queue = i :: l →
      ctrlState s (gLoc .gableCtrl g) ≠ stFaulted → mmaShape i.word i.desc = some h →
      exec (.mmaKStep g c) ⟨q, s⟩ = .next ⟨q, kStep s g c i h⟩) ∧
    (∀ c bank : Nat, c < 2 → bank < 2 → (bankOf (cellOf s g c) bank).st = .full → entriesOf (gableOf s g) c < 4 →
      (gableOf s g).gutter.length + (gableOf s g).copying.length < 8 →
      (gableOf s g).copying.all (fun e => e.cell != c) = true →
      exec (.gutterCopyStart g c bank) ⟨q, s⟩ = .next ⟨q, modGable s g fun z => { z with copying := z.copying ++
        [let b := bankOf (cellOf s g c) bank
         ⟨b.head, b.group, b2n (b.claimer != g), c, bank, b.gang, b.part, b.afmt, b.flags, b.acc, b.tile, b.claim⟩] }⟩) ∧
    (∀ (c : Nat) (e : GutEntry), (gableOf s g).copying.find? (fun e => e.cell == c) = some e →
      ctrlState s (gLoc .gableCtrl g) ≠ stFaulted →
      let s1 := modGable s g fun z => { z with copying := z.copying.filter (fun x => x.cell != c), gutter := z.gutter ++ [e] }
      exec (.gutterCopyDone g c) ⟨q, s⟩ = .next ⟨q, settleGroup (modCell s1 g c fun y => modBank y e.bank fun _ => Bank.free)
        (bankOf (cellOf s g c) e.bank).claimer e.group⟩)

/-- Control flow of a group that may issue it: an arithmetic instruction works lane by lane and steps the pc; branches
split the running path; YIELD rotates the paths; EXIT ends the running threads, and the group with the last of them
(R83 to R92). -/
def Obligations.GroupFlowCompletes : Prop :=
  ∀ (q : List Instr) (s : Node) (g k w : Nat),
    (∀ (op : AluOp) (regs : List Nat), groupReady s g k → aluNames op = some regs →
      (aluSrcs op).any (awaits (groupOf s g k)) = false → regsOk (groupOf s g k) regs = true →
      exec (.gableAluInstruction g k op) ⟨q, s⟩ = .next ⟨q, retire (countBanks s g k (aluSrcs op)) g k (stepPc
        ((lanes (groupOf s g k)).foldl (fun y i => aluLane op (groupOf s g k) y i) (groupOf s g k)))⟩) ∧
    (mayIssue s g k 0xB0 w (branchLegal w) [bits w 39 32] [bits w 39 32] →
      exec (.bnz g k w) ⟨q, s⟩ = .next ⟨q, retire (countBanks s g k [bits w 39 32]) g k (branched (groupOf s g k) w)⟩) ∧
    (mayIssue s g k 0xB1 w (branchLegal w) [bits w 39 32] [bits w 39 32] →
      exec (.bz g k w) ⟨q, s⟩ = .next ⟨q, retire (countBanks s g k [bits w 39 32]) g k (branched (groupOf s g k) w)⟩) ∧
    (mayIssue s g k 0xB2 w (branchLegal w) [bits w 39 32] [] →
      exec (.jmp g k w) ⟨q, s⟩ = .next ⟨q, retire (countBanks s g k []) g k (branched (groupOf s g k) w)⟩) ∧
    (mayIssue s g k 0xC0 w (bits w 55 0 == 0) [] [] →
      exec (.yield g k w) ⟨q, s⟩ = .next ⟨q, retire (countBanks s g k []) g k
        (rotate (stepPc (groupOf s g k)) (runPc (groupOf s g k)) (nextPc (runPc (groupOf s g k))))⟩) ∧
    (mayIssue s g k 0xC1 w (bits w 55 0 == 0) [] [] →
      exec (.exit g k w) ⟨q, s⟩ = .next ⟨q, if (groupOf s g k).paths.length ≤ 1 then endGroup (countBanks s g k []) g k
        else retire (countBanks s g k []) g k (exited (groupOf s g k))⟩)

/-- Loads and stores of a group that may issue them, no access of theirs being held at a home (R229, R291, R417); scratch
accesses in range and aligned; a load's data come back when they are due, every remote answer is good, and no line it reads
is poisoned (R95 to R104). -/
def Obligations.ThreadMemoryCompletes : Prop :=
  ∀ (q : List Instr) (s : Node) (g k w : Nat),
    (mayIssue s g k 0xC8 w (memLegal w false) (memRegs w true) (memSrcs w true false) →
      let t := loadOp (countBanks s g k (memSrcs w true false)) g k w (groupOf s g k)
      accessHeld t = false → exec (.ld g k w) ⟨q, s⟩ = .next ⟨q, t⟩) ∧
    (mayIssue s g k 0xC9 w (memLegal w true) (memRegs w true) (memSrcs w true true) →
      let t := storeOp (countBanks s g k (memSrcs w true true)) g k w (groupOf s g k)
      accessHeld t = false → exec (.st g k w) ⟨q, s⟩ = .next ⟨q, t⟩) ∧
    (mayIssue s g k 0xCA w (memLegal w false) (memRegs w false) (memSrcs w false false) →
      let x := groupOf s g k
      let u := countBanks s g k (memSrcs w false false)
      let n := 2 ^ bits w 55 53
      let as := (accessLanes x w).map (laneScratch x w)
      scratchFault u g as n = none →
      exec (.lds g k w) ⟨q, s⟩ = .next ⟨q, retire (countRounds u g as n) g k (stepPc ((accessLanes x w).foldl (fun y i =>
        writeWide y (bits w 47 40) i n (loadValue (bits w 55 53) (bit w 52)
          (scratchLE u (scratchGable g (laneScratch x w i)) (bits (laneScratch x w i) 20 0) n))) x))⟩) ∧
    (mayIssue s g k 0xCB w (memLegal w true) (memRegs w false) (memSrcs w false true) →
      let x := groupOf s g k
      let u := countBanks s g k (memSrcs w false true)
      let n := 2 ^ bits w 55 53
      let as := (accessLanes x w).map (laneScratch x w)
      scratchFault u g as n = none →
      exec (.sts g k w) ⟨q, s⟩ = .next ⟨q, retire (countRounds ((accessLanes x w).foldl (fun s i =>
        scratchWrite s (scratchGable g (laneScratch x w i)) (bits (laneScratch x w i) 20 0) (readWide x (bits w 47 40) i n)) u)
        g as n) g k (stepPc x)⟩) ∧
    (∀ (load : Nat) (ld : PendLoad), g < 192 → (groupOf s g k).loads.find? (fun l => l.id == load) = some ld →
      loadDue s (groupOf s g k) ld = true →
      (s.remotes.filter fun r => ld.remote.contains r.id).all (fun r => (r.result.map (·.1)) == some 0) = true →
      loadPoison s g ld = none →
      exec (.ldDataReturn g k load) ⟨q, s⟩ = .next ⟨q,
        modGroup { s with remotes := s.remotes.filter fun r => !ld.remote.contains r.id } g k fun _ =>
          loadInto s g k { groupOf s g k with loads := (groupOf s g k).loads.filter fun l => l.id ≠ load } ld⟩)

/-- COPY and KVG queue a job where the copy queue has room; a queued job starts when fewer than four are in flight; a
started copy's elements land, and the job goes with its last one; no access of theirs is held at a home (R105 to R110, R179,
R180, R229). -/
def Obligations.CopyCompletes : Prop :=
  ∀ (q : List Instr) (s : Node) (g k w : Nat),
    (mayIssue s g k 0xCC w (bits w 55 40 == 0 && bits w 31 0 == 0) [bits w 39 32] [bits w 39 32] →
      let u := countBanks s g k [bits w 39 32]
      let off := (readReg (groupOf s g k) (bits w 39 32) (firstLane (groupOf s g k))).toNat
      let l := scratchBytes u g (bits off 20 0) 128
      bits off 31 21 = 0 → bits off 20 0 + 128 ≤ 0x200000 → copyFault l off = none → (gableOf u g).copies.length < 32 →
      exec (.copy g k w) ⟨q, s⟩ = .next ⟨q, queueCopy u g k (groupOf s g k) (.copy (copyDescOf l))⟩) ∧
    (mayIssue s g k 0xC5 w (bits w 55 40 == 0 && bits w 31 0 == 0) [bits w 39 32] [bits w 39 32] →
      let u := countBanks s g k [bits w 39 32]
      let off := (readReg (groupOf s g k) (bits w 39 32) (firstLane (groupOf s g k))).toNat
      let l := scratchBytes u g (bits off 20 0) 64
      bits off 31 21 = 0 → gatherFault l (gatherDescOf u l) off = none → (gableOf u g).copies.length < 32 →
      exec (.kvg g k w) ⟨q, s⟩ = .next ⟨q, queueCopy u g k (groupOf s g k) (.gather (gatherDescOf u l))⟩) ∧
    (∀ (c : Copy) (d : CopyDesc), g < 192 → nextJob s g = some c → c.job = .copy d →
      accessHeld (startCopy s g c d) = false → exec (.copyStart g) ⟨q, s⟩ = .next ⟨q, startCopy s g c d⟩) ∧
    (∀ (c : Copy) (d : GatherDesc), g < 192 → nextJob s g = some c → c.job = .gather d →
      accessHeld (startGather s g c d) = false → exec (.kvgStart g) ⟨q, s⟩ = .next ⟨q, startGather s g c d⟩) ∧
    (∀ (id first count : Nat) (c : Copy) (s1 : Node) (left : List CopyElem), g < 192 →
      (gableOf s g).copies.find? (fun c => c.id == id) = some c → c.started = true → c.fseq = 0 →
      landMany g c ((c.elems.drop first).take count) s [] 0 = (s1, left, 0) →
      let t := if c.elems.take first ++ left ++ c.elems.drop (first + count) = [] then dropCopy s1 g id
        else modCopy s1 g id fun y =>
          { y with elems := c.elems.take first ++ left ++ c.elems.drop (first + count), moved := true }
      accessHeld t = false → exec (.copyBytesLand g id first count) ⟨q, s⟩ = .next ⟨q, t⟩)

/-- Arrival counters and the group's other instructions: CNTADD adds, WAITCNT goes on once its counter has reached its
target and waits otherwise, ERKEY and TDARG write the rounding key and the launch argument, EPLD loads an element program
from scratch (R111, R127, R166, R227, R228). -/
def Obligations.ThreadCountersComplete : Prop :=
  ∀ (q : List Instr) (s : Node) (g k w : Nat),
    (mayIssue s g k 0xCE w (cntLegal w) [bits w 39 32] [bits w 39 32] →
      exec (.cntadd g k w) ⟨q, s⟩ = .next ⟨q, retire (addArrival (countBanks s g k [bits w 39 32]) g (bits w 45 40)
        (readReg (groupOf s g k) (bits w 39 32) (firstLane (groupOf s g k))).toNat) g k (stepPc (groupOf s g k))⟩) ∧
    (mayIssue s g k 0xCF w (waitcntLegal w) [bits w 39 32] [bits w 39 32] →
      let u := countBanks s g k [bits w 39 32]
      let target := (readReg (groupOf s g k) (bits w 39 32) (firstLane (groupOf s g k))).toNat
      (reached (arrival u g (bits w 45 40)) target = true → (bit w 48 = true → consumeBehind u g k (bits w 45 40) = false) →
        exec (.waitcnt g k w) ⟨q, s⟩ = .next ⟨q, waitDone u g k (bits w 45 40) target (bit w 48)⟩) ∧
      (reached (arrival u g (bits w 45 40)) target = false → (groupOf s g k).turn = false →
        exec (.waitcnt g k w) ⟨q, s⟩ = .next ⟨q, waitOn u g k (.counter (bits w 45 40) target (bit w 48))⟩)) ∧
    (∀ (cnt target : Nat) (consume : Bool), g < 192 → (groupOf s g k).wait = .counter cnt target consume →
      reached (arrival s g cnt) target = true → (consume = true → consumeBehind s g k cnt = false) →
      exec (.waitcntSatisfied g k) ⟨q, s⟩ = .next ⟨q, waitDone s g k cnt target consume⟩) ∧
    (mayIssue s g k 0xC2 w (bits w 55 40 == 0 && bits w 31 0 == 0) [bits w 39 32] [bits w 39 32] →
      exec (.erkey g k w) ⟨q, s⟩ = .next ⟨q, retire (countBanks s g k [bits w 39 32]) g k { stepPc (groupOf s g k) with
        rkey := (readReg (groupOf s g k) (bits w 39 32) (firstLane (groupOf s g k))).toNat }⟩) ∧
    (mayIssue s g k 0xC4 w (bits w 55 48 == 0 && bits w 35 0 == 0) [bits w 47 40] [] →
      exec (.tdarg g k w) ⟨q, s⟩ = .next ⟨q, retire (countBanks s g k []) g k (stepPc ((lanes (groupOf s g k)).foldl (fun y i =>
        writeReg y (bits w 47 40) i (BitVec.ofNat 32 ((groupOf s g k).launch.getD (bits w 39 36) 0))) (groupOf s g k)))⟩) ∧
    (mayIssue s g k 0xC3 w (bits w 55 43 == 0 && bits w 31 0 == 0) [bits w 39 32] [bits w 39 32] →
      let u := countBanks s g k [bits w 39 32]
      let a := (readReg (groupOf s g k) (bits w 39 32) (firstLane (groupOf s g k))).toNat
      a % 128 = 0 → bits a 31 22 = 0 → bits a 20 0 + 640 ≤ 0x200000 →
      ctrlState u (gLoc .gableCtrl (scratchGable g a)) ≠ stFaulted →
      exec (.epld g k w) ⟨q, s⟩ = .next ⟨q, retire (loadSlot u g (bits w 42 40)
        ((List.range 80).map fun i => scratchLE u (scratchGable g a) (bits a 20 0 + 8 * i) 8)) g k (stepPc (groupOf s g k))⟩) ∧
    (mayIssue s g k 0xE0 w (amoLegal w) (amoRegs w) (amoSrcs w) →
      let t := amoOp (countBanks s g k (amoSrcs w)) g k w (groupOf s g k)
      accessHeld t = false → exec (.amo g k w) ⟨q, s⟩ = .next ⟨q, t⟩) ∧
    (mayIssue s g k 0xE1 w (bits w 55 54 != 3 && bits w 52 0 == 0) [] [] → (groupOf s g k).badStore = 0 →
      (groupOf s g k).loads = [] → accessesDone (countBanks s g k []) g k = true →
      exec (.gableFence g k w) ⟨q, s⟩ = .next ⟨q, retire (countBanks s g k []) g k (stepPc (groupOf s g k))⟩)

/-- The Gable's control: a group that has not moved is stopped where watching is on, a stopped group resumes, a live group
is killed, at once or, inside an AMO, at its end; writes of the enable bit and of an arrival counter, accesses to a scratch
window, the steps that end in DISABLING and ENABLING, and an uncorrectable scratch error (R94, R102, R111, R114 to R117). -/
def Obligations.GableControlCompletes : Prop :=
  ∀ (q : List Instr) (s : Node) (g k : Nat), g < 192 → isFenced s (g / 16) = false →
    (∀ e : Nat, e = fGet s (gLoc .gableCtrl g) fGableCtrlWdExp → e ≠ 0 → 2 ^ max 16 e ≤ (groupOf s g k).watch →
      2 ≤ (groupOf s g k).paths.length → (groupOf s g k).stopNext.contains eStall = false →
      ((groupOf s g k).phase = .running ∨ (groupOf s g k).phase = .waiting →
        exec (.groupStall g k) ⟨q, s⟩ = .next ⟨q, stopGroup s g k eStall⟩) ∧
      ((groupOf s g k).phase = .translation → exec (.groupStall g k) ⟨q, s⟩ = .next ⟨q,
        modGroup s g k fun y => { y with stopNext := y.stopNext ++ [eStall] }⟩)) ∧
    ((groupOf s g k).phase = .stopped → exec (.groupResume g k) ⟨q, s⟩ = .next ⟨q,
      withResp (modGroup s g k fun x => { x with
        phase := .running, fault := 0, wait := .none, watch := if x.fault = eStall then 0 else x.watch }) .done⟩) ∧
    ((groupOf s g k).phase ≠ .empty → (groupOf s g k).phase ≠ .ending →
      exec (.groupKill g k) ⟨q, s⟩ = .next ⟨q, withResp (if midInstruction (groupOf s g k)
        then modGroup s g k fun x => { x with kill := true } else endGroup s g k) .done⟩) ∧
    (∀ v : Word, exec (.gableEnableWrite g v) ⟨q, s⟩ = .next ⟨q, withResp (afterCtrl s (enableWrite
      (fSet s (gLoc .gableCtrl g) fGableCtrlWdExp (wbits v 20 16)) (gLoc .gableCtrl g) (wbit v 0)) g) .done⟩) ∧
    (∀ (c : Nat) (v : Word), c < 64 →
      exec (.arrivalCntWrite g c v) ⟨q, s⟩ = .next ⟨q, withResp (setArrival s g c (wbits v 31 0)) .done⟩) ∧
    (∀ (src : Sender) (addr size off : Nat) (v : Word), paKind s addr = .scratch g off → size ∈ [1, 2, 4, 8] →
      addr % size = 0 →
      exec (.scratchWindowAccess src addr size true v) ⟨q, s⟩ =
        .next ⟨q, withResp (scratchWrite s g off (leBytes size v.toNat)) .done⟩ ∧
      exec (.scratchWindowAccess src addr size false v) ⟨q, s⟩ =
        .next ⟨q, withResp s (.data (BitVec.ofNat 64 (scratchLE s g off size)))⟩) ∧
    (ctrlState s (gLoc .gableCtrl g) = stDisabling → gableDrained s g = true →
      exec (.gableDisableDone g) ⟨q, s⟩ = .next ⟨q, setCtrlState s (gLoc .gableCtrl g) stOff⟩) ∧
    (ctrlState s (gLoc .gableCtrl g) = stEnabling → s.pendDisable.contains (regKey (gLoc .gableCtrl g)) = false →
      exec (.gableEnableDone g) ⟨q, s⟩ = .next ⟨q, setCtrlState s (gLoc .gableCtrl g) stOn⟩) ∧
    exec (.gableSramUncorrected g) ⟨q, s⟩ = .next ⟨q,
      signalGable (discardGutter (endAllGroups (logGable (faultBlock s (gLoc .gableCtrl g)) g 0x0107 0 []) g) g) g⟩ ∧
    (∀ (l : DirectLaunch) (ws : List Nat), (gableOf s g).launch = some l → l.block = some ws → canAdmit s g ws = true →
      let p := newTile s (g / 16) 1 l.addr scopeDirect (tdSig ws) (tdInc ws) none
      exec (.groupLaunch g) ⟨q, s⟩ = .next ⟨q, modGable (admitGroup p.1 g (launchBlock ws g 0 1) (tdRkey ws) (some p.2)) g
        fun y => { y with launch := none }⟩)

/-! ## Element engines: completion -/

/-- The element instructions that write a tile position by position, of a ready engine: each computes what its opcode
says from its operands at every position the mask lets through, and goes on (R131 to R139). -/
def Obligations.ElementArithmeticCompletes : Prop :=
  ∀ (q : List Instr) (s : Node) (g : Nat),
    let e := elemOf s g
    let w := elemWord e
    let arith := fun op => elemMapGo s g (fun e w m r16 i j => elemArith op (eTy w) m r16 (operandAt e w (eA w) i j)
      (operandAt e w (eB w) i j) (operandAt e w (eC w) i j)) e w
    let bitwise := fun (f : Nat → Nat → Nat → Nat) => elemMapGo s g (fun e w _ _ i j =>
      ⟨f (eX w) (operandAt e w (eA w) i j) (operandAt e w (eB w) i j) % 2 ^ tyBits (eTy w), 0⟩) e w
    (elemReady s g 0x01 → exec (.elemAdd g) ⟨q, s⟩ = .next ⟨q, arith 0x01⟩) ∧
    (elemReady s g 0x02 → exec (.elemSub g) ⟨q, s⟩ = .next ⟨q, arith 0x02⟩) ∧
    (elemReady s g 0x03 → exec (.elemMul g) ⟨q, s⟩ = .next ⟨q, arith 0x03⟩) ∧
    (elemReady s g 0x04 → exec (.elemFma g) ⟨q, s⟩ = .next ⟨q, arith 0x04⟩) ∧
    (elemReady s g 0x05 → exec (.elemMul3 g) ⟨q, s⟩ = .next ⟨q, arith 0x05⟩) ∧
    (elemReady s g 0x06 → exec (.elemMin g) ⟨q, s⟩ = .next ⟨q, arith 0x06⟩) ∧
    (elemReady s g 0x07 → exec (.elemMax g) ⟨q, s⟩ = .next ⟨q, arith 0x07⟩) ∧
    (elemReady s g 0x08 → exec (.elemDiv g) ⟨q, s⟩ = .next ⟨q, arith 0x08⟩) ∧
    (elemReady s g 0x0C → exec (.elemAnd g) ⟨q, s⟩ = .next ⟨q, bitwise fun _ a b => a &&& b⟩) ∧
    (elemReady s g 0x0D → exec (.elemOr g) ⟨q, s⟩ = .next ⟨q, bitwise fun _ a b => a ||| b⟩) ∧
    (elemReady s g 0x0E → exec (.elemXor g) ⟨q, s⟩ = .next ⟨q, bitwise fun _ a b => a ^^^ b⟩) ∧
    (elemReady s g 0x0F → exec (.elemShl g) ⟨q, s⟩ = .next ⟨q, bitwise fun _ a b => a <<< (b % 32)⟩) ∧
    (elemReady s g 0x10 → exec (.elemShr g) ⟨q, s⟩ = .next ⟨q, bitwise fun x a b =>
      if bit x 0 then wrap 32 (signed 32 a / 2 ^ (b % 32)) else a >>> (b % 32)⟩) ∧
    (elemReady s g 0x14 → exec (.elemCvt g) ⟨q, s⟩ = .next ⟨q, elemMapGo s g (fun e w m r16 i j =>
      elemCvt (eTy w) (eX w) m (eSat w) r16 (operandAt e w (eA w) i j)) e w⟩) ∧
    (elemReady s g 0x09 →
      let m := elemMode s g w
      let sr := eX w == 4 && decide (m = .sr)
      let r := tileWrite e w fun i j => elemFnVal (eX w) (eTy w) m (if sr then drawOf e i j else 0) (operandAt e w (eA w) i j)
      exec (.elemFn g) ⟨q, s⟩ = .next ⟨q, elemDone s g (if sr then { r.1 with gen := drawnGen e } else r.1) r.2⟩) ∧
    (elemReady s g 0x0A → exec (.elemSel g) ⟨q, s⟩ = .next ⟨q, elemWrites s g fun e w i j =>
      let a := operandAt e w (eA w) i j
      let v := if elemNonzero (eTy w) a then operandAt e w (eB w) i j else operandAt e w (eC w) i j
      ⟨v, snanFlag (eTy w) a ||| snanFlag (eTy w) v⟩⟩) ∧
    (elemReady s g 0x0B → exec (.elemCmp g) ⟨q, s⟩ = .next ⟨q, elemWrites s g fun e w i j =>
      elemCmp (bits (eX w) 2 0) (eTy w) (operandAt e w (eA w) i j) (operandAt e w (eB w) i j)⟩) ∧
    (elemReady s g 0x15 → exec (.elemRed g) ⟨q, s⟩ = .next ⟨q, elemWrites s g fun e w i j =>
      let dim := bits (eX w) 2 2
      let size := if bits (eX w) 4 3 = 3 then (if dim = 0 then runCols e else runRows e) else blockOf (bits (eX w) 4 3)
      reduceGroup (bits (eX w) 1 0) (eTy w) ((groupPositions dim size i j).map fun (m, n) =>
        if maskAt e m n then some (operandAt e w (eA w) m n) else none)⟩) ∧
    (elemReady s g 0x18 → exec (.elemHad g) ⟨q, s⟩ = .next ⟨q, elemWrites s g fun e w i j =>
      let dim := bits (eX w) 2 2
      let size := blockOf (bits (eX w) 4 3)
      let r := hadBlock (eTy w) size (sAt e (eB w) + sAt e (eB w + 1) * 2 ^ 64) (bit (eX w) 5)
        ((groupPositions dim size i j).map fun (m, n) => if maskAt e m n then operandAt e w (eA w) m n else 0)
      ⟨r.1.getD (if dim = 0 then j % size else i % size) 0, r.2⟩⟩) ∧
    (elemReady s g 0x16 →
      let index := fun i j => signed 32 (operandAt e w (eB w) i j)
      let bad := fun i j => decide (index i j < 0) || decide (index i j ≥ (if bit (eX w) 0 then e.vlm else e.vln : Nat))
      exec (.elemPerm g) ⟨q, s⟩ = .next ⟨q, fOr (elemWrites s g fun e w i j =>
        if bad i j then ⟨0, 0⟩
        else
          let x := if bit (eX w) 0 then operandAt e w (eA w) (index i j).toNat j else operandAt e w (eA w) i (index i j).toNat
          ⟨x, snanFlag (eTy w) x⟩) (gLoc .elemStatus g) fElemStatusIndexRange
        (b2n ((runPositions e).any fun (i, j) => (!eMsk w || maskAt e i j) && bad i j))⟩)

/-- The element engine's other instructions: END ends the run, SETVL and MSK set the lengths and the mask, SOP and SKIP
work on S registers, loads and stores run as their forms say, CAST delivers the tile, SIG adds to a counter once the run's
stores are done; a word of a program slot is stored; and a ready gutter entry starts a run whose program has no fault
(R122 to R143, R155, R156). -/
def Obligations.ElementControlCompletes : Prop :=
  ∀ (q : List Instr) (s : Node) (g : Nat),
    let e := elemOf s g
    let w := elemWord e
    let x := eX w
    (elemReady s g 0x00 → exec (.elemEnd g) ⟨q, s⟩ =
      .next ⟨q, endRun (modElem s g fun e => { e with last := e.pc }) g⟩) ∧
    (elemReady s g 0x17 → exec (.elemSetvl g) ⟨q, s⟩ = .next ⟨q, elemDone s g (if bit x 8
      then { e with vlm := if bits x 7 0 = 0 then runPM e else min (bits x 7 0) (runRows e) }
      else { e with vln := if bits x 7 0 = 0 then runPN e else min (bits x 7 0) (runCols e) }) 0⟩) ∧
    (elemReady s g 0x19 →
      let k := maskFrom e fun m n => runValid e m n && (!bit x 0 || elemNonzero (eTy w) (operandAt e w (eA w) m n))
      exec (.elemMsk g) ⟨q, s⟩ = .next ⟨q, elemDone s g { e with mask := k } (if bit x 0 && (runPositions e).any (fun p =>
        runValid e p.1 p.2 && snanFlag (eTy w) (operandAt e w (eA w) p.1 p.2) != 0) then flNV else 0)⟩) ∧
    (elemReady s g 0x1C →
      let a := sopArg e w (eA w)
      let b := sopArg e w (eB w)
      exec (.elemSop g) ⟨q, s⟩ = .next ⟨q, elemDone s g (setS e (eD w) ([a + b, wrap 64 ((a : Int) - b), a * b, a <<< (b % 64),
        a >>> (b % 64), a &&& b, a ||| b].getD (eC w) (a ^^^ b))) 0⟩) ∧
    (elemReady s g 0x1D → exec (.elemSkip g) ⟨q, s⟩ = .next ⟨q, elemDone s g
      (if (if bit x 6 then sAt e (eA w) ≠ 0 else sAt e (eA w) = 0) then { e with pc := e.pc + bits x 5 0 } else e) 0⟩) ∧
    (elemReady s g 0x20 →
      (bits x 14 13 = 0 → accessHeld (loadScalar s g e w) = false →
        exec (.elemLd g) ⟨q, s⟩ = .next ⟨q, loadScalar s g e w⟩) ∧
      (∀ f : Fmt, fmtOfCode (bits x 4 0) = some f →
        (bits x 14 13 = 1 ∨ bits x 14 13 = 2 → accessHeld (loadVector s g e w f) = false →
          exec (.elemLd g) ⟨q, s⟩ = .next ⟨q, loadVector s g e w f⟩) ∧
        (bits x 14 13 = 3 → bit x 12 = false → accessHeld (loadTile s g e w f) = false →
          exec (.elemLd g) ⟨q, s⟩ = .next ⟨q, loadTile s g e w f⟩)) ∧
      (bits x 14 13 = 3 → bit x 12 = true → accessHeld (loadScales s g e w) = false → exec (.elemScaleLoad g) ⟨q, s⟩ = .next ⟨q, loadScales s g e w⟩)) ∧
    (elemReady s g 0x21 → accessHeld (storeTile s g e w) = false → exec (.elemSt g) ⟨q, s⟩ = .next ⟨q, storeTile s g e w⟩) ∧
    (elemReady s g 0x22 → accessHeld (storeScales s g e w) = false → exec (.elemStsc g) ⟨q, s⟩ = .next ⟨q, storeScales s g e w⟩) ∧
    (elemReady s g 0x24 → accessHeld (castTile s g true e w) = false → exec (.elemCast ⟨g, true⟩) ⟨q, s⟩ = .next ⟨q, castTile s g true e w⟩) ∧
    (∀ (slot i : Nat) (v : Word), g < 192 → slot < 8 → i < 80 → isFenced s (g / 16) = false → ∃ n : Node,
      exec (.elemSlotWrite g slot i v) ⟨q, s⟩ = .next ⟨q, n⟩ ∧ regGet n (slotLoc g slot i) = v ∧
      n = { s with csr := n.csr, resp := .done }) ∧
    (elemReady s g 0x28 → storesPending s (g / 16) (g % 16) (64 + e.run) = false →
      s.remotes.all (fun r => !(decide (r.result = none) && r.who == elemStorer e g)) = true →
      exec (.elemSig g) ⟨q, s⟩ = .next ⟨q, elemDone (addArrival s g (eD w) (sAt e (eB w) % 2 ^ 32)) g e 0⟩) ∧
    (∀ y : GutEntry, g < 192 → e.running = false → isFenced s (g / 16) = false → ctrlState s (gLoc .gableCtrl g) ≠ stFaulted →
      (gableOf s g).gutter.find? (entryReady s g (gableOf s g).gutter) = some y →
      let wide := slotWide s g (entrySlot y)
      let e1 := startElem s g e (runEntries wide (gableOf s g).gutter y) wide
      programFault wide (y.gang == 0) y.afmt e1.image = none →
      exec (.elemRunStart g) ⟨q, s⟩ = .next ⟨q, modElem s g fun _ => e1⟩)

/-! ## Tiles: completion -/

/-- Lists are submitted and their descriptors taken, tiles launched, stolen and completed, the scheduler's and the broker's
enable states written and left, layout registers stored (R163 to R178, R184). -/
def Obligations.TileCommandsComplete : Prop :=
  ∀ (q : List Instr) (s : Node) (d : Nat) (v : Word), d < 12 → isFenced s d = false →
    (∀ agent : Nat, exec (.tsListAddrWrite d agent v) ⟨q, s⟩ = .next ⟨q,
      withResp (modSched s d fun c => { c with listAddr := tblSet 0 c.listAddr agent (v.toNat / 64 * 64) }) .done⟩) ∧
    (∀ agent : Nat, 1 ≤ wbits v 12 0 → wbits v 12 0 ≤ 4096 → exec (.tsListGoWrite d agent v) ⟨q, s⟩ = .next ⟨q,
      withResp (submitList s d (tblGet 0 (schedOf s d).listAddr agent) (wbits v 12 0) none) .done⟩) ∧
    (∀ (l : TileList) (rest : List TileList) (pas : List (Nat × Bool)), isOn s (tsCtrl d) = true → poolFree s d ≠ 0 →
      (schedOf s d).lists = l :: rest → l.fseq = 0 → l.pas = some pas →
      let t := takeDesc s d l (pas.getD l.next (0, true)).1 (pas.getD l.next (0, true)).2
      accessHeld t = false → exec (.tileDescFetch d) ⟨q, s⟩ = .next ⟨q, t⟩) ∧
    (∀ i : Nat, i < 1024 → exec (.depCntWrite i v) ⟨q, s⟩ = .next ⟨q,
      withResp (fSet s (depLoc i) fDepCntValue (wbits v 31 0)) .done⟩) ∧
    (∀ (g : Nat) (e : PoolEntry), g < 192 → g / 16 = d → isOn s (tsCtrl d) = true → directWaits s g = false →
      oldest ((queueOf s d (g % 16)).filter (tileReady s)) = some e → canAdmit s g e.words = true →
      exec (.tileLaunch g) ⟨q, s⟩ = .next ⟨q, launchEntry s g e⟩) ∧
    (∀ (g : Nat) (e : PoolEntry), g < 192 → maySteal s g = true → stealDie s g = some e →
      exec (.tileSteal g) ⟨q, s⟩ = .next ⟨q,
        cntAdd (modPool s (g / 16) e.order fun x => { x with gable := g % 16 }) (dLoc .tsStealsDie (g / 16)) 1⟩) ∧
    (∀ (g : Nat) (node : Bool), g < 192 → maySteal s g = true → stealDie s g = none → stealVictim s g = some (d, node) →
      exec (.tileSteal g) ⟨q, s⟩ = .next ⟨q, give s d g node⟩ ∧
      exec (.brokerStealRequest d g) ⟨q, s⟩ = .next ⟨q, give s d g node⟩) ∧
    (∀ (id : Nat) (t : Tile), (schedOf s d).tiles.find? (fun t => t.id == id) = some t → t.lost = false →
      tileBusy s ⟨d, id⟩ = false →
      let s1 := modSched s d fun c => { c with tiles := dropFirst (fun x => x.id == id) c.tiles }
      exec (.tileComplete d id) ⟨q, s⟩ = .next ⟨q, if bit t.sig 15 then addDep s1 (bits t.sig 9 0) t.inc else s1⟩) ∧
    exec (.tsEnableWrite d v) ⟨q, s⟩ = .next ⟨q,
      withResp (enableWrite (fSet s (tsCtrl d) fTsCtrlBatch (wbits v 19 16)) (tsCtrl d) (wbit v 0)) .done⟩ ∧
    (ctrlState s (tsCtrl d) = stDisabling → (schedOf s d).tiles.all (fun t => t.lost || t.scope == scopeDirect) = true →
      exec (.tsDisableDone d) ⟨q, s⟩ = .next ⟨q, setCtrlState s (tsCtrl d) stOff⟩) ∧
    (∀ b : Nat, b < 4 → exec (.brokerEnableWrite b v) ⟨q, s⟩ = .next ⟨q, withResp (enableWrite
      (fSet s (bLoc .brokerCtrl b) fBrokerCtrlXbd (wbits v 1 1)) (bLoc .brokerCtrl b) (wbit v 0)) .done⟩) ∧
    (∀ (addr : Nat) (l : RegLoc), findReg addr = some l →
      (l.id = .batch → exec (.layoutBatchWrite addr v) ⟨q, s⟩ = .next ⟨q,
        withResp (regSet s l (v &&& 0x8FFF8FFF8FFF8FFF#64)) .done⟩) ∧
      (l.id = .layout ∨ l.id = .layoutRow → exec (.layoutBatchWrite addr v) ⟨q, s⟩ = .next ⟨q,
        withResp (storeReg s l v) .done⟩))

/-! ## Host cores: completion -/

/-- A core executes an instruction it has fetched: any instruction has the effect `hostEffect` gives; an arithmetic one
writes its result to rd and steps the pc; a load whose access answers puts the value, sign-extended where asked; ECALL
traps; MRET in machine mode returns; then satp, the cache-block instructions and SFENCE.VMA where the mode may run them;
no access of theirs is held at a home (R185 to R193, R229). -/
def Obligations.HostInstructionsComplete : Prop :=
  ∀ (q : List Instr) (s t : Node) (c n : Nat), c < 96 → (n = 2 ∨ n = 4) → fetchedTo s c n t →
    (∀ ins : HostOp, accessHeld (stepEnds (hostEffect t c n ins) c) = false →
      exec (.hostCoreInstruction c n ins) ⟨q, s⟩ = .next ⟨q, stepEnds (hostEffect t c n ins) c⟩) ∧
    (∀ (fn : RvFn) (rd rs1 rs2 : Nat), hostEffect t c n (.op fn rd rs1 rs2) =
      modCore t c fun h => hRetire (xPut h rd (rvFn fn (xGet (coreOf t c) rs1) (xGet (coreOf t c) rs2))) n) ∧
    (∀ (size rd rs1 v : Nat) (sgn : Bool) (off : Int) (u : Node), size ∈ [1, 2, 4, 8] →
      hostLoad t c (hAddr (coreOf t c) rs1 off) size = (u, .ok v) →
      hostEffect t c n (.load size sgn rd rs1 off) =
        modCore u c fun h => hRetire (xPut h rd (if sgn then wrap 64 (signed (8 * size) v) else v)) n) ∧
    hostEffect t c n .ecall =
      (modCore t c fun h => takeTrap h false (if (coreOf t c).mode = 3 then 11 else 8 + (coreOf t c).mode) 0) ∧
    ((coreOf t c).mode = 3 → hostEffect t c n .mret = modCore t c fun h => mretOf (retired h)) ∧
    (n = 4 →
      (∀ v : Word, csrMay (coreOf t c) 0x180 true = true →
        let u := stepEnds (modCore (csrWriteOf t c 0x180 v.toNat) c fun h => hRetire h 4) c
        accessHeld u = false → exec (.satpWrite c v) ⟨q, s⟩ = .next ⟨q, u⟩) ∧
      (∀ (va asid : Option Nat), (coreOf t c).mode = 3 ∨ ((coreOf t c).mode = 1 ∧ msField (coreOf t c) 20 20 = 0) →
        let u := stepEnds (modCore t c fun x => hRetire { x with tlb := x.tlb.filter fun e => !fenceHits va asid e } 4) c
        accessHeld u = false → exec (.sfenceVma c va asid) ⟨q, s⟩ = .next ⟨q, u⟩) ∧
      (∀ (va pa pbmt : Nat) (u : Node), va < 2 ^ 64 → cboMay (coreOf t c) 6 = true →
        hostOne t c (hostVa (coreOf t c) va accRead) 1 accRead = (u, .ok pa pbmt) → paKind u pa = .hbm →
        let after := fun (k : ReqKind) => stepEnds (modCore (homeGo (sendHome u (plainReq k (lineOf pa) (c / 8))) (lineOf pa)) c
          fun h => hRetire h 4) c
        (accessHeld (after .cln) = false → exec (.cboClean c va) ⟨q, s⟩ = .next ⟨q, after .cln⟩) ∧
        (accessHeld (after .fls) = false → exec (.cboFlush c va) ⟨q, s⟩ = .next ⟨q, after .fls⟩)) ∧
      (∀ (va pa pbmt : Nat) (u : Node), va < 2 ^ 64 → cboMay (coreOf t c) 4 = true →
        hostOne t c (hostVa (coreOf t c) va accRead) 1 accRead = (u, .ok pa pbmt) → paKind u pa = .hbm →
        let u1 := stepEnds (modCore (homeGo (sendHome u (plainReq .fls (lineOf pa) (c / 8))) (lineOf pa)) c
          fun h => hRetire h 4) c
        accessHeld u1 = false → exec (.cboInval c va) ⟨q, s⟩ = .next ⟨q, u1⟩) ∧
      (∀ (va pa : Nat) (u : Node), va < 2 ^ 64 → cboMay (coreOf t c) 7 = true →
        hostOne t c (hostVa (coreOf t c) va accWrite / 64 * 64) 64 accWrite = (u, .ok pa 0) → inHbm u pa 64 = true →
        paKind u pa = .hbm →
        let u1 := stepEnds (modCore (storeLine u (c / 8) (16 + c % 8) 0 (lineOf pa) .host
          ((List.range 64).map fun i => (pa % lineBytes + i, (0#8 : Byte)))) c fun h => hRetire h 4) c
        accessHeld u1 = false → exec (.cboZero c va) ⟨q, s⟩ = .next ⟨q, u1⟩))

/-- Entering a trap for machine mode saves the pc, the cause, the trap value, the mode and MIE, clears MIE, and goes to
mtvec; MRET restores mode, MIE and pc (R185: the privileged architecture the chapter names). -/
def Obligations.TrapSavesAndReturns : Prop :=
  ∀ (h : HostCore) (intr : Bool) (code tval : Nat), h.pc < 2 ^ 64 → h.mode < 4 → h.mode ≠ 2 → code < 64 →
    (h.mode = 3 ∨ bit (hcsr h (if intr then 0x303 else 0x302)) code = false) →
    let t := takeTrap h intr code tval
    t.mode = 3 ∧ t.pc = trapPc (hcsr h 0x305) intr code ∧ hcsr t 0x341 = h.pc ∧
    hcsr t 0x342 = (if intr then 2 ^ 63 else 0) + code ∧ msField t 12 11 = h.mode ∧ msField t 7 7 = msField h 3 3 ∧
    msField t 3 3 = 0 ∧ t.x = h.x ∧ (mretOf t).mode = h.mode ∧ (mretOf t).pc = h.pc ∧ msField (mretOf t) 3 3 = msField h 3 3 ∧
    (mretOf t).x = h.x

/-- The cores' clusters: timers are judged, an MSI sets its pending bit, writes and events reach the interrupt controller,
GLAUNCH takes a direct launch, a dependency watch is written and fires (R197 to R203). -/
def Obligations.ClusterCommandsComplete : Prop :=
  ∀ (q : List Instr) (s : Node),
    (∀ c : Nat, c < 96 → isFenced s (c / 8) = false → exec (.timerInterrupt c) ⟨q, s⟩ = .next ⟨q, updateTimers s c⟩) ∧
    (∀ (c : Nat) (v : Word), c < 96 → 1 ≤ wbits v 31 0 → wbits v 31 0 ≤ 255 → isFenced s (c / 8) = false →
      exec (.imsicSeteipnumWrite c true v) ⟨q, s⟩ = .next ⟨q, withResp (modCore s c fun h => { h with
        mfile := { h.mfile with pending := h.mfile.pending ||| 1 <<< wbits v 31 0 }, waiting := false }) .done⟩ ∧
      exec (.imsicSeteipnumWrite c false v) ⟨q, s⟩ = .next ⟨q, withResp (modCore s c fun h => { h with
        sfile := { h.sfile with pending := h.sfile.pending ||| 1 <<< wbits v 31 0 }, waiting := false }) .done⟩) ∧
    (∀ (b a : Nat) (md : Bool) (v : Word), b < 4 → exec (.aplicRegisterWrite b md a v) ⟨q, s⟩ = .next ⟨q,
      withResp (aplicWrite s md b a (wbits v 31 0)) .done⟩) ∧
    (∀ b i : Nat, b < 4 → 1 ≤ i → i ≤ 255 → i ≠ 52 → exec (.aplicSourceEvent b i) ⟨q, s⟩ = .next ⟨q, signal s b i⟩) ∧
    (∀ (g : Nat) (v : Word), g < 192 → isFenced s (g / 16) = false → (gableOf s g).launch = none →
      exec (.glaunchWrite g v) ⟨q, s⟩ = .next ⟨q, withResp (modGable s g fun y =>
        { y with launch := some ⟨v.toNat - v.toNat % 64, none, 0⟩ }) .done⟩) ∧
    (∀ (g pa : Nat) (m : Bool) (maps : List PageMap) (l : DirectLaunch) (t : Node), g < 192 → isFenced s (g / 16) = false →
      (gableOf s g).launch = some l → l.block = none → l.fseq = 0 →
      translateAll s (g / 16) none accRead [l.addr] = (t, .ok [(pa, m)] maps) → paKind t pa = .hbm →
      readsPoison t (if m then g / 16 else 12) (lineOf pa) = false → s.remotes.all (fun r => r.who != .launch g) = true →
      let u := readLaunch t g l.addr pa m maps
      accessHeld u = false → exec (.glaunchFetchDone g) ⟨q, s⟩ = .next ⟨q, u⟩) ∧
    (∀ (d w : Nat) (v : Word), d < 12 → w < 16 → isFenced s d = false → wbits v 46 40 ≤ 95 →
      exec (.depWatchWrite d w v) ⟨q, s⟩ = .next ⟨q, withResp (let t := storeReg s (watchLoc d w) v
        if watchDue t d w then fireWatch t d w else t) .done⟩) ∧
    (∀ d w : Nat, d < 12 → w < 16 → isFenced s d = false → watchDue s d w = true →
      exec (.depWatchFire d w) ⟨q, s⟩ = .next ⟨q, fireWatch s d w⟩)

/-! ## Memory: completion -/

/-- Coherence requests for lines of installed memory: a die's own requests where its state asks for them, and the requests
of agents that hold no line, each put in the home's queue, served and run (R212 to R218). -/
def Obligations.CoherenceRequestsComplete : Prop :=
  ∀ (q : List Instr) (s : Node) (d a line : Nat) (f : ReadFault), inHbm s (line * lineBytes) lineBytes = true →
    (d < 12 → isFenced s d = false →
      (holdSt s d line = .i ∨ hasMiss s d line = true →
        exec (.rds d line f) ⟨q, s⟩ = .next ⟨q, dieReq s d line false f⟩ ∧
        exec (.rdx d line f) ⟨q, s⟩ = .next ⟨q, dieReq s d line true f⟩) ∧
      (hasMiss s d line = true ∨ holdSt s d line = .s ∨ holdSt s d line = .o →
        exec (.upg d ⟨line, f⟩) ⟨q, s⟩ = .next ⟨q, dieReq s d line true f⟩) ∧
      (hasMiss s d line = false →
        (holdSt s d line = .m ∨ holdSt s d line = .o →
          exec (.wbd d ⟨line, f⟩) ⟨q, s⟩ = .next ⟨q, serveLine (evictLine s d line) line f⟩) ∧
        (holdSt s d line = .e ∨ holdSt s d line = .s →
          exec (.evc d ⟨line, f⟩) ⟨q, s⟩ = .next ⟨q, serveLine (evictLine s d line) line f⟩))) ∧
    (let sent := fun (k : ReqKind) (l : List (Nat × Byte)) (p : Bool) (func size cmp : Nat) =>
      serveLine (sendHome s { agentReq k line a l p func with size := size, cmp := cmp }) line f
     exec (.cln a ⟨line, f⟩) ⟨q, s⟩ = .next ⟨q, sent .cln [] false clsDma 0 0⟩ ∧
     exec (.fls a ⟨line, f⟩) ⟨q, s⟩ = .next ⟨q, sent .fls [] false clsDma 0 0⟩ ∧
     exec (.rdonce a line f) ⟨q, s⟩ = .next ⟨q, sent .rdonce [] false clsDma 0 0⟩ ∧
     (∀ (data : List Byte) (p : Bool), exec (.wrline a ⟨line, f⟩ data p) ⟨q, s⟩ = .next ⟨q,
       sent .wrline ((List.range lineBytes).map fun i => (i, data.getD i 0)) p clsDma 0 0⟩) ∧
     (∀ (data : List (Nat × Byte)) (p : Bool), exec (.wrpart a ⟨line, f⟩ data p) ⟨q, s⟩ = .next ⟨q,
       sent .wrpart (data.filter fun x => x.1 < lineBytes) p clsDma 0 0⟩) ∧
     ∀ addr size func arg cmp : Nat, lineOf addr = line → (size = 4 ∨ size = 8) → addr % size = 0 → func ≤ 12 →
       exec (.atom a ⟨addr, f⟩ size func arg cmp) ⟨q, s⟩ = .next ⟨q,
         sent .atom ((leBytes size arg).mapIdx fun i v => (addr % lineBytes + i, v)) false func size cmp⟩)

/-- Snoops a die has been sent are answered; a granted line whose data and acknowledgements have come is taken; a
transaction its requester acknowledges ends; a snoop that times out fences the die's copy of the line; a fence scan
removes one die from the directory. No route switch holds the answers back (R209 to R221, R291). -/
def Obligations.CoherenceRepliesComplete : Prop :=
  ∀ (q : List Instr) (s : Node) (d line : Nat), d < 12 →
    (∀ (k : Snoop) (m : SnoopMsg),
      (dirOf s (homeOf s line)).snoops.find? (fun m => m.line == line && m.die == d && decide (m.kind = k)) = some m → snoopHeld s m = false →
      (k = .snpS → exec (.snps d line) ⟨q, s⟩ = .next ⟨q, answerSnoop s m⟩) ∧
      (k = .snpX → exec (.snpx d line) ⟨q, s⟩ = .next ⟨q, answerSnoop s m⟩) ∧
      (k = .snpRd → exec (.snprd d line) ⟨q, s⟩ = .next ⟨q, answerSnoop s m⟩) ∧
      (k = .snpCln → exec (.snpcln d line) ⟨q, s⟩ = .next ⟨q, answerSnoop s m⟩) ∧
      (k = .snpRcl → exec (.snprcl d line) ⟨q, s⟩ = .next ⟨q, answerSnoop s m⟩) ∧
      (k = .snpInv → exec (.snpinv d line) ⟨q, s⟩ = .next ⟨q, answerSnoop s m⟩)) ∧
    (∀ (m : Miss) (st : Moesi) (n : Nat), missOf s d line = some m → m.grant = some st → m.need = some n →
      m.gotData = true → n ≤ m.acks → exec (.coherenceResponse d line) ⟨q, s⟩ = .next ⟨q, fillGranted s d line m st⟩) ∧
    (∀ t : Txn, (dirOf s (homeOf s line)).txns.find? (fun t => t.req.line == line) = some t → t.answered = true →
      t.req.src = .die d → (∀ m : Miss, missOf s d line = some m → m.grant = none) →
      lineHeld s (d / 3) (homeOf s line) line = false →
      exec (.cmpack d line) ⟨q, s⟩ = .next ⟨q,
        homeNext (homeGo (endTxn s (homeOf s line) line) line) (homeOf s line)⟩) ∧
    (∀ m : SnoopMsg, (dirOf s (homeOf s line)).snoops.find? (fun m => m.line == line && m.die == d) = some m →
      let s1 := logErr s (12 + homeOf s line) 0x10 0x0161 (line * lineBytes) [(1, d)]
      exec (.snoopTimeout d line) ⟨q, s⟩ = .next ⟨q,
        answerSnoop (fenceLine { s1 with fenceReqs := s1.fenceReqs ++ [(d, 1)] } line d) m⟩) ∧
    (∀ (b : Nat) (rest : List Nat), b < 4 → (dirOf s b).scan = d :: rest →
      let lines := ((dirOf s b).entries.filter fun p => entryHolds p.2 d).map (·.1)
      exec (.fenceScanDone b) ⟨q, s⟩ = .next ⟨q,
        modDir (lines.foldl (fun s l => fenceLine s l d) s) b fun x => { x with scan := x.scan.drop 1 }⟩)

/-- Reads of the stacks and the patrol scrub are classified, a lost stack and a lost near-memory die are recorded, and the
near-memory cache's registers, write-back, invalidation and prefetch take effect (R237 to R257). -/
def Obligations.NearMemoryCommandsComplete : Prop :=
  ∀ (q : List Instr) (s : Node) (b line : Nat) (r : HbmRead) (v : Word), b < 4 →
    (homeOf s line = b → inHbm s (line * lineBytes) lineBytes = true →
      exec (.hbmReadComplete b line r) ⟨q, s⟩ = .next ⟨q, classifyRead s b line r false⟩ ∧
      (dictNat s 0x3000 3 ≠ 0 → exec (.patrolScrub b line r) ⟨q, s⟩ = .next ⟨q,
        classifyRead (cntAdd s (bLoc .hbmScrubLines b [stackOf s line]) 1) b line r true⟩)) ∧
    (∀ stack : Nat, stack < 12 → exec (.hbmStackLost stack) ⟨q, s⟩ = .next ⟨q,
      let s1 := logErr (setStackState s stack 3) (12 + stack / 3) 0x11 0x0108 0 []
      { s1 with leaveDue := s1.leaveDue ++ [.stack stack] }⟩) ∧
    ((nmcOf s b).prefetches.contains line = true →
      let s1 := modNmc s b fun x => { x with prefetches := dropLine line x.prefetches }
      exec (.prefetchReturn b line) ⟨q, s⟩ = .next ⟨q, if nmcHolds s1 line then s1 else transomPush s1 b line⟩) ∧
    (ctrlState s (bLoc .nmcCtrl b) ≠ stFaulted → nmcDirty s b = [] → exec (.nmcDieLost b) ⟨q, s⟩ = .next ⟨q,
      nmcClean (logErr (faultBlock (stopPrefetch s b) (bLoc .nmcCtrl b)) (12 + b) 0x12 0x0104 0 [(1, 0)]) b⟩) ∧
    exec (.nmcEnableWrite b v) ⟨q, s⟩ = .next ⟨q,
      withResp (nmcEnable (if wbit v 2 then nmcInvalidate s b else s) b (wbit v 0)) .done⟩ ∧
    exec (.nmcInvWrite b v) ⟨q, s⟩ = .next ⟨q,
      withResp (nmcEnable (if wbit v 2 then nmcInvalidate s b else s) b (wbit v 0)) .done⟩ ∧
    (ctrlState s (bLoc .nmcCtrl b) = stDisabling → exec (.nmcWritebackDone b) ⟨q, s⟩ = .next ⟨q, ownStepEnds
      ((nmcDirtyLines s b).foldl (fun s l => wroteHbm s l.line l.poison) (modNmc (cntAdd (nmcClean s b) (bLoc .nmcWritebacks b)
        (nmcDirtyLines s b).length) b fun x => { x with current := false })) (bLoc .nmcCtrl b)⟩) ∧
    (fGet s (bLoc .nmcStatus b) fNmcStatusInvBusy = 1 → ∃ n : Node, exec (.nmcInvDone b) ⟨q, s⟩ = .next ⟨q, n⟩ ∧
      (nmcOf n b).ways = [] ∧ (nmcOf n b).eaves = [] ∧ fGet n (bLoc .nmcStatus b) fNmcStatusInvBusy = 0 ∧
      fGet n (bLoc .nmcStatus b) fNmcStatusStaleSinceDisable = 0) ∧
    ∃ n : Node, exec (.nmcSeedWrite b v) ⟨q, s⟩ = .next ⟨q, n⟩ ∧ (nmcOf n b).gen = lfsrLoad (wbits v 31 0) 0

/-- The translation unit: a walk that translates ends without a fault, records go to the ring, its head and base are
written, faults are resolved, migrations are accepted and run, shootdowns are accepted, stall and complete, and far
accesses are counted; no access of theirs is held at a home (R259 to R277, R229). -/
def Obligations.TranslationCommandsComplete : Prop :=
  ∀ (q : List Instr) (s : Node) (b : Nat) (v : Word), b < 4 →
    (∀ (die va acc : Nat) (g : Option Nat) (wt : Waiter) (unit gl grp : Nat) (u : Node) (m : PageMap) (w : Walker),
      walkerLive s w = true → walkerOf s w = (die, g, wt, unit, gl, grp) → (∀ g k, w ≠ .fetch g k) →
      translatePage s die g va acc = (u, .ok m) → accessHeld u = false → exec (.stuWalkComplete w va acc) ⟨q, s⟩ = .next ⟨q, u⟩) ∧
    (accessHeld (writeRecord s b) = false → exec (.faultRecordWrite b) ⟨q, s⟩ = .next ⟨q, writeRecord s b⟩) ∧
    (let s1 := fSet s (bLoc .fqHead b) fFqHeadIndex (wbits v 31 0 % (fqRing s b).elim (2 ^ 32) (·.2))
     let t := followQueue (drainHeld 64 (followQueue s1 b (levelInput s b 52)) b) b (levelInput s1 b 52)
     accessHeld t = false → exec (.fqHeadWrite b v) ⟨q, s⟩ = .next ⟨q, withResp t .done⟩) ∧
    (fqBad (storeReg s (bLoc .fqBase b) v) b = false → accessHeld (drainHeld 64 (storeReg s (bLoc .fqBase b) v) b) = false →
      exec (.fqBaseWrite b v) ⟨q, s⟩ = .next ⟨q, withResp (drainHeld 64 (storeReg s (bLoc .fqBase b) v) b) .done⟩) ∧
    (∀ (n joined : Nat) (x : Fseq), n < 2 ^ 32 → (stuOf s (bits n 31 30)).faults.find? (fun x => x.num == n) = some x →
      let s1 := modStu s (bits n 31 30) fun u => { u with
        faults := dropFirst (fun y => y.num == n) u.faults, ready := dropJoined n joined u.ready }
      exec (.stuResolveRetry ⟨n, joined⟩) ⟨q, s⟩ = .next ⟨q, withResp (x.waiters.foldl (fun s w => replayWaiter s n w) s1) .done⟩ ∧
      exec (.stuResolveAbort ⟨n, joined⟩) ⟨q, s⟩ = .next ⟨q, withResp (x.waiters.foldl (fun s w => abortWaiter s n w) s1) .done⟩) ∧
    (let a := wbits v 55 6 * 64
     let n := if inHbm s a 64 then readLE s a 4 else 0
     let t := if n = 0 then b else bits n 31 30
     let u := startMigs 1 (modStu s t fun u => { u with migs := u.migs ++ [⟨a, none, false, false, false, [], 0, false⟩] }) t
     (stuOf s t).migs.length < 64 → accessHeld u = false →
      exec (.stuMigrateWrite b v) ⟨q, s⟩ = .next ⟨q, withResp u .done⟩) ∧
    (∀ (m : Mig) (d : MigDesc), (stuOf s b).migs.filter (fun m => m.desc.isSome) = [m] → m.desc = some d → d.bad = false →
      m.busy = false → m.closed = true → m.copying = true → migFar s d = false → inHbm s d.src (migBytes d) = true →
      let s1 := agentTouch (modMig s b m fun _ => m) b clsDma d.src (migBytes d)
      let t := installMig s1 b m d (readBytes s1 d.src (migBytes d))
      anyPoison s1 d.src (migBytes d) = false →
      accessHeld t = false → exec (.migrationComplete b) ⟨q, s⟩ = .next ⟨q, t⟩) ∧
    (∀ h : Shoot, (stuOf s b).shoots.length < 16 →
      (wbits v 3 0 = 1 ∧ wbits v 5 4 ≠ 3 → h = ⟨false, wbits v 63 12 * 4096, wbits v 63 12 * 4096 +
          (wbits v 11 6 + 1) * 2 ^ (if wbits v 5 4 = 0 then 12 else if wbits v 5 4 = 1 then 21 else 30) - 1, false,
          s.now, none⟩ →
        ∃ n : Node, exec (.stuShootRange b v) ⟨q, s⟩ = .next ⟨q, n⟩ ∧ (stuOf n b).shoots = (stuOf s b).shoots ++ [h]) ∧
      (wbits v 3 0 = 2 → ∃ n : Node, exec (.stuShootAll b v) ⟨q, s⟩ = .next ⟨q, n⟩ ∧
        (stuOf n b).shoots.length = (stuOf s b).shoots.length + 1)) ∧
    (∀ (h : Shoot) (rest : List Shoot), (stuOf s b).shoots = h :: rest →
      (shootHolder s h = none → ∃ n : Node, exec (.shootdownComplete b) ⟨q, s⟩ = .next ⟨q, n⟩ ∧ (stuOf n b).shoots = rest ∧
        n.gables = (shootApply s h).gables ∧ n.dies = (shootApply s h).dies) ∧
      (∀ p : Nat × Nat, h.stalled = false → shootHolder s h = some p →
        h.since + 1000 * max 1 (fGet s (bLoc .stuCtrl b) fStuCtrlShootTo) ≤ s.now → ∃ n : Node,
        exec (.shootdownStalled b) ⟨q, s⟩ = .next ⟨q, n⟩ ∧ (stuOf n b).shoots = { h with stalled := true } :: rest)) ∧
    exec (.stuCntCtrlWrite v) ⟨q, s⟩ = .next ⟨q, withResp (stuCntWrite s v) .done⟩ ∧
    exec (.stuCntClear v) ⟨q, s⟩ = .next ⟨q, withResp (stuCntWrite s v) .done⟩ ∧
    (∀ (die page shift : Nat) (c : FarCount), die < 12 → page % 4 = b → shift < 64 →
      tblGet 0 (dieOf s die).countBatch (page * 64 + shift) ≠ 0 →
      (stuOf s b).far.find? (fun c => c.page == page && c.shift == shift) = some c →
      exec (.accessCountBatch die page shift) ⟨q, s⟩ = .next ⟨q, execAccessCountBatch.addCount
        (modDie s die fun d => { d with countBatch := tblErase d.countBatch (page * 64 + shift) }) b page shift
        (tblGet 0 (dieOf s die).countBatch (page * 64 + shift)) (fun c => c.page == page && c.shift == shift)⟩) ∧
    exec (.stuSatpWrite v) ⟨q, s⟩ = .next ⟨q, withResp (acceptShoot (fSet (fSet s (bLoc .stuSatp 0) fStuSatpPpn (wbits v 43 0))
      (bLoc .stuSatp 0) fStuSatpMode (if wbits v 63 60 = 9 ∨ wbits v 63 60 = 10 then wbits v 63 60 else 0)) 0
      ⟨true, 0, 2 ^ 64 - 1, false, s.now, none⟩) .done⟩

/-! ## Links: completion -/

/-- Bundles and edges: the next frame of a bundle is received, a NAK replays, a wire test starts and ends, a route switch
ends; an edge's enable register is written and its own step ends; and the enable bit of any block is written through the
common register (R282 to R296). -/
def Obligations.EdgeCommandsComplete : Prop :=
  ∀ (q : List Instr) (s : Node) (e d k : Nat), e < 4 → d < 2 → k < 64 →
    (∀ seq msg : Nat, (bundleOf s e d k).width ≠ 2 → (bundleOf s e d k).testing = false → seq = (bundleOf s e d k).recvSeq →
      (bundleOf s e d k).nak = none → exec (.bundleFrameReceive e d k ⟨seq, msg⟩ true) ⟨q, s⟩ = .next ⟨q,
        let y := { bundleOf s e d k with sent := max (bundleOf s e d k).sent (seq + 1), kept := keepFrame (bundleOf s e d k) seq msg }
        modBundle s e d k fun _ => { y with recvSeq := seq + 1, replays := 0, msg := keptMsg y seq }⟩) ∧
    (∀ f : Nat, (bundleOf s e d k).nak = some f → (bundleOf s e d k).width ≠ 2 → (bundleOf s e (1 - d) k).width ≠ 2 → exec (.bundleNakReceive e d k) ⟨q, s⟩ = .next ⟨q,
      modBundle (cntAdd s (edgeLoc .edgeReplays e) ((bundleOf s e d k).sent - f)) e d k fun x =>
        { x with nak := none, replays := x.replays + 1, testDue := x.testDue || decide (x.replays + 1 ≥ 8) }⟩) ∧
    ((bundleOf s e d k).testDue = true → (bundleOf s e d k).width ≠ 2 → (bundleOf s e d k).testing = false →
      isOn s (edgeLoc .edgeCtrl e) = true → exec (.wireTestStart e d k) ⟨q, s⟩ = .next ⟨q,
        modBundle (cntAdd s (edgeLoc .edgeWireTests e) 1) e d k fun x => { x with testing := true, testDue := false }⟩) ∧
    (∀ errors : List (Nat × Nat), (bundleOf s e d k).testing = true →
      let r := testResult (bundleOf s e d k) errors
      r.action = 0 → exec (.wireTestEnd e d k errors) ⟨q, s⟩ = .next ⟨q, ordered s (r.spared.foldl
        (fun s p => logErr s (12 + edgeSender e d) 0x30 0x0501 0 [(1, e), (1, d), (1, k), (1, p.1), (1, p.2)])
        (modBundle s e d k fun _ => { r.bundle with testing := false, testDue := false, crcFails := 0, replays := 0 }))⟩) ∧
    (switching s = true → switchWaits s = false → ∃ n : Node,
      exec .routeSwitchDone ⟨q, s⟩ = .next ⟨q, settleHomes (sendHeld n)⟩ ∧
      (∀ b : Nat, b < 4 → fGet n (bLoc .netRoute b) fNetRouteSwitching = 0 ∧
        fGet n (bLoc .netRoute b) fNetRouteEpoch = (fGet s (bLoc .netRoute b) fNetRouteEpoch + 1) % 65536) ∧
      (∀ e : Nat, e < 4 → condInForce n e = edgeCond s e) ∧
      (∀ e d : Nat, e < 4 → d < 2 → mapInForce n e d = openList s e d) ∧
      n = { s with csr := n.csr, ctl := { s.ctl with net := n.ctl.net } }) ∧
    (∀ v : Word, wbit v 0 = true → exec (.edgeEnableWrite e v) ⟨q, s⟩ = .next ⟨q, withResp
      (enableWrite (fSet s (edgeLoc .edgeCtrl e) fEdgeCtrlCrcThr (wbits v 31 16)) (edgeLoc .edgeCtrl e) true) .done⟩) ∧
    (ctrlState s (edgeLoc .edgeCtrl e) = stEnabling → closedCount s e 0 ≠ 64 → closedCount s e 1 ≠ 64 →
      exec (.edgeStepDone e) ⟨q, s⟩ = .next ⟨q, startSwitch (noteDegraded (ownStepEnds s (edgeLoc .edgeCtrl e)) e (edgeCond s e))⟩) ∧
    (∀ (off : Nat) (en : Bool) (l : RegLoc), csrFind off = some l → hasEnable l.id = true → csrFenced s off = false →
      let t := withResp (csrStore s (.mp 0) l (wput (regGet s l) 0 0 (b2n en))) .done
      accessHeld t = false → exec (.commonEnableWrite off ⟨en, false⟩) ⟨q, s⟩ = .next ⟨q, t⟩)

/-- Port commands where they act: the control register, the enable step, signal detection, training, a link that falls, a
lane that fails; frames, ARP requests, flow control and storms of an up link (R303 to R310, R321). -/
def Obligations.PortCommandsComplete : Prop :=
  ∀ (q : List Instr) (s : Node) (p : Nat), p < 20 →
    (∀ v : Word, exec (.portEnableWrite p v) ⟨q, s⟩ = .next ⟨q, withResp (portWrite s p v) .done⟩) ∧
    (let mode := (portOf s p).mode
     let s1 := modPort (ownStepEnds s (portCtrlLoc p)) p fun x => { x with
       depth := lbDepth s p, lanes := modeLanes mode, training := false, restarted := false }
     ctrlState s (portCtrlLoc p) = stEnabling → modeListed p mode = true → prbsRuns s1 p = false →
      exec (.portStepDone p) ⟨q, s⟩ = .next ⟨q, s1⟩) ∧
    (isOn s (portCtrlLoc p) = true → portLink s p = false → exec (.portSignalDetect p) ⟨q, s⟩ = .next ⟨q,
      modPort s p fun x => { x with training := true }⟩) ∧
    (∀ ms m : Nat, (portOf s p).mode = 0 → trainSet (deadLanes s p) = some m → (portOf s p).training = true →
      isOn s (portCtrlLoc p) = true → portLink s p = false → prbsRuns s p = false →
      let l := portLoc .portStatus p
      let s1 := modPort s p fun x => { x with training := false, restarted := false, lanes := m }
      exec (.portLinkUp p ms) ⟨q, s⟩ = .next ⟨q, signal (flushHeld (fSet (fSet (fSet s1 l fPortStatusLink 1) l fPortStatusLanes
        (laneCount m)) l fPortStatusTrainMs (min ms 65535)) p) (p / 5) 56⟩) ∧
    ((portOf s p).training = true → portLink s p = false → (portOf s p).restarted = false →
      exec (.portTrainTimeout p) ⟨q, s⟩ = .next ⟨q,
        fSet (modPort s p fun x => { x with restarted := true }) (portLoc .portStatus p) fPortStatusDownCause 2⟩) ∧
    (portLink s p = true → (∀ cause : Nat, cause = 1 ∨ cause = 4 ∨ cause = 5 →
        exec (.portDown p cause) ⟨q, s⟩ = .next ⟨q,
          modPort (linkFalls s p cause) p fun x => { x with training := decide (cause ≠ 1) }⟩) ∧
      (∀ f : EthFrame, f.fec = 0 → f.fcsOk = true → f.len ≤ 9216 → f.noRoom = false → (portOf s p).depth ≠ 2 →
        accepts s p f = true → f.ce = false →
        exec (.ethFrameReceive p f) ⟨q, s⟩ = .next ⟨q, portCount s p cRxFrames 1⟩) ∧
      (∀ (enables : Nat) (quanta : List Nat), ∃ n : Node,
        exec (.pfcFrameReceive p enables quanta) ⟨q, s⟩ = .next ⟨q, flushHeld n p⟩ ∧
        (portOf n p).paused =
          (let en := wbits (regGet s (portCtrlLoc p)) 23 16 &&& enables
           let off := maskOf ((ones 8 en).filter fun q => quanta.getD q 0 ≠ 0)
           let all := (portOf (pauseEnds s p) p).paused ||| off
           all - (all &&& (en - (en &&& off))))) ∧
      (∀ prio : Nat, prio < 8 → bit (wbits (regGet s (portCtrlLoc p)) 23 16) prio = true → ∀ full : Bool,
        exec (.pfcBufferThreshold p prio full) ⟨q, s⟩ = .next ⟨q, portCount (sendOut (modPort s p fun x =>
          { x with xoff := if full then x.xoff ||| 1 <<< prio else x.xoff - (x.xoff &&& 1 <<< prio) })
          ⟨p, prio, .pfc, [prio, if full then 0xFFFF else 0], []⟩) p cPfcTx 1⟩) ∧
      (∀ prio : Nat, bit (pausedNow s p) prio = true → bit (portOf s p).stormed prio = false →
        fGet s (portLoc .portPfc p) fPortPfcWdMs ≠ 0 →
        tblGet 0 (portOf s p).pausedAt prio + fGet s (portLoc .portPfc p) fPortPfcWdMs * 1000000 ≤ s.now → fGet s (portLoc .portPfc p) fPortPfcWdDown = 0 →
        exec (.pfcStorm p prio) ⟨q, s⟩ = .next ⟨q, modPort (logErr s (12 + p / 5) 0x40 0x0523 0 []) p fun x =>
          { x with stormed := x.stormed ||| 1 <<< prio }⟩) ∧
      (p % 5 = 4 → ∀ (v6 : Bool) (target : Nat), target ≠ 0 → portAddr s p v6 = target →
        exec (.arpRequest p v6 target) ⟨q, s⟩ = .next ⟨q, sendFrame s
          ⟨p, 0, .arpReply, [target, fGet s (portLoc .portMac p) fPortMacMac], []⟩⟩)) ∧
    (∀ lane : Nat, isOn s (portCtrlLoc p) = true → bit (modeLanes (portOf s p).mode) lane = true →
      bit (portClosed s p) lane = false →
      exec (.laneFail p ⟨lane, none, false⟩) ⟨q, s⟩ = .next ⟨q, closeLane s p lane⟩ ∧
      (∀ n : Nat, exec (.laneFail p ⟨lane, some n, false⟩) ⟨q, s⟩ = .next ⟨q,
        if laneThr s p ≤ laneErrors s p lane + n then closeLane s p lane else modPort s p fun x =>
          { x with laneErrs := tblSet (0, 0) x.laneErrs lane (s.now / 1000000, laneErrors s p lane + n) }⟩) ∧
      (bit (portOf s p).farClosed lane = false → ∀ e : Option Nat, exec (.laneFail p ⟨lane, e, true⟩) ⟨q, s⟩ = .next ⟨q,
        loseLane (modPort s p fun x => { x with farClosed := x.farClosed ||| 1 <<< lane }) p lane⟩) ∧
      bit (portClosed (closeLane s p lane) p) lane = true)

/-- Queue pairs: congestion halves the rate and time raises it, packets in order are performed, acknowledgements complete
requests, a timeout repeats them; contexts are loaded, stored and destroyed; the send queue's doorbell and entries, the
completion queue, and region entries; no access of theirs is held at a home (R311 to R318, R229). -/
def Obligations.RoceCommandsComplete : Prop :=
  ∀ (q : List Instr) (s : Node) (x b : Nat) (v : Word), x < 4096 → b < 4 →
    ((qpOf s x).st = 3 → (qpOf s x).cutAt = none → exec (.cnpReceive x) ⟨q, s⟩ = .next ⟨q,
      modQp (portCount s (qpPort (qpOf s x)) cCnpRx 1) x fun y =>
        { y with rate := some (max 100 (y.rate.getD (feRate s x) / 2)), cutAt := some s.now }⟩) ∧
    (∀ r : Nat, (qpOf s x).rate = some r → r + feRate s x / 16 < feRate s x →
      exec (.roceRateIncrease x) ⟨q, s⟩ = .next ⟨q, modQp s x fun y => { y with rate := some (r + feRate s x / 16) }⟩) ∧
    (∀ (port : Nat) (pkt : RocePkt), port < 20 → isFe port = true → portLink s port = true → (portOf s port).depth ≠ 2 →
      toPort s port pkt.dest = true → pkt.qpn = x + 0x100 → pkt.op ≤ 6 → qpPort (qpOf s x) = port → ((qpOf s x).st = 2 ∨ (qpOf s x).st = 3) →
      pkt.psn = (qpOf s x).rqPsn →
      accessHeld (performRoce (acceptPacket s x) x pkt) = false →
      exec (.rocePacketReceive port pkt) ⟨q, s⟩ = .next ⟨q, performRoce (acceptPacket s x) x pkt⟩) ∧
    ((qpOf s x).st = 3 → (∀ (psn : Nat) (data : List Byte),
        let t := ackUpTo (qpOf s x).reqs (acceptPacket s x) x psn data
        accessHeld t = false → exec (.roceAckReceive x (.ack psn data)) ⟨q, s⟩ = .next ⟨q, t⟩) ∧
      ((qpOf s x).timeout ≠ 0 → (qpOf s x).reqs ≠ [] → exec (.roceAckTimeout x) ⟨q, s⟩ = .next ⟨q, retryQp s x⟩)) ∧
    (let a := qpImageAddr s b
     inHbm s a 64 = true →
      (let s1 := agentTouch s b clsDma a 64
       let l := readBytes s1 a 64
       firstPoison s1 a 64 = none → imageReserved l = false → qpLegal (qpOf s x).st (descField l 0 1) = true →
        descField l 0 1 ≠ 0 → descField l 0 1 ≠ 4 →
        accessHeld s1 = false →
        exec (.roceQpLoad b x) ⟨q, s⟩ = .next ⟨q, withResp (modQp s1 x fun y => loadQp y l) .done⟩) ∧
      (accessHeld (agentWrite s b a (qpImage (qpOf s x)) false) = false →
        exec (.roceQpStore b x) ⟨q, s⟩ = .next ⟨q, withResp (agentWrite s b a (qpImage (qpOf s x)) false) .done⟩)) ∧
    exec (.roceQpDestroy b x) ⟨q, s⟩ = .next ⟨q, withResp (modQp (qpFlush s x 4) x fun _ => Qp.reset) .done⟩ ∧
    (wbits v 11 0 = x → (qpOf s x).port = b → (wbits v 47 32 + 65536 - (qpOf s x).sqCi) % 65536 ≤ 2 ^ bits (qpOf s x).sq 4 0 → (qpOf s x).st ≠ 4 →
      exec (.roceSqDb b v) ⟨q, s⟩ = .next ⟨q, withResp (modQp s x fun y => { y with sqPi := wbits v 47 32 }) .done⟩) ∧
    (let a := bits (qpOf s x).sq 55 12 * 4096 + (qpOf s x).sqCi % 2 ^ bits (qpOf s x).sq 4 0 * 64
     let s0 := agentTouch s (qpOf s x).port clsDma a 64
     let l := readBytes s0 a 64
     let s1 := modQp s0 x fun y => { y with sqCi := (y.sqCi + 1) % 65536 }
     (qpOf s x).st = 3 → (qpOf s x).sqCi ≠ (qpOf s x).sqPi → inHbm s a 64 = true → firstPoison s0 a 64 = none → sendInvalid s0 l = false →
      descField l 0 1 ≥ 4 → bit (descField l 1 1) 1 = false →
      let t := qpPost s1 x (.entry (descField l 48 8) (bit (descField l 1 1) 0))
        (descField l 0 1) (if descField l 0 1 ≥ 5 then 8 else descField l 4 4) (descField l 8 8) (descField l 16 8)
        (descField l 24 4) (descField l 28 4) (descField l 32 8) (descField l 40 8) []
      accessHeld t = false → exec (.roceSendEntry x) ⟨q, s⟩ = .next ⟨q, t⟩) ∧
    (∀ (r : List Byte) (t : List (List Byte)), tblGet [] s.roceCq b = r :: t →
      let n := 2 ^ fGet s (bLoc .roceCqBase b) fRoceCqBaseLog2n
      let tail := fGet s (bLoc .roceCqTail b) fRoceCqTailIndex
      let a := fGet s (bLoc .roceCqBase b) fRoceCqBaseBase * 4096 + tail % n * 32
      (tail + 2 ^ 32 - fGet s (bLoc .roceCqHead b) fRoceCqHeadIndex) % 2 ^ 32 < n → 64 ≤ n → inHbm s a 32 = true →
      let u := fSet (agentWrite { s with roceCq := tblSet [] s.roceCq b t } b a r false)
        (bLoc .roceCqTail b) fRoceCqTailIndex ((tail + 1) % 2 ^ 32)
      accessHeld u = false → exec (.roceCompletionWrite b) ⟨q, s⟩ = .next ⟨q, u⟩) ∧
    (∀ k : Nat, k < 16384 → bit (mrWord s k 3) 63 = false →
      exec (.mrEntryWrite k 0 v) ⟨q, s⟩ = .next ⟨q, withResp (regSet s (bLoc .mrEntry 0 [k, 0]) v) .done⟩)

/-! ## Dziger: completion -/

/-- Packets and the flows' timers: a packet due in its flow is performed and the flow goes on with the next sequence
number; a queued packet is sent; acknowledgements, repeats, windows and idle flows; keepalives and lost neighbours. No
access of theirs is held at a home (R325 to R345, R229). -/
def Obligations.DzigerPacketsComplete : Prop :=
  ∀ (q : List Instr) (s : Node) (peer : Nat),
    (∀ k : DzPkt, nextPkt s peer (typeTc 1) 1 = some k → rwinHolds s k.addr k.data.length = true →
      let t := performed (agentWrite s (flowBase peer 0) k.addr k.data (bit k.info 0)) peer (typeTc 1) k
      accessHeld t = false → exec (.dzPut peer) ⟨q, s⟩ = .next ⟨q, t⟩) ∧
    (∀ k : DzPkt, nextPkt s peer (typeTc 2) 2 = some k → rwinHolds s k.addr k.info = true →
      let t := performed (getPieces (agentTouch s (flowBase peer 0) clsDma k.addr k.info) k k.info
        (List.range (max 1 (ceilDiv k.info 8192)))) peer (typeTc 2) k
      accessHeld t = false → exec (.dzGet peer) ⟨q, s⟩ = .next ⟨q, t⟩) ∧
    (∀ k : DzPkt, nextPkt s peer (typeTc 3) 3 = some k → rwinHolds s k.addr (bits k.info 11 0 + 1) = true →
      k.addr % 4096 + (bits k.info 11 0 + 1) ≤ 4096 →
      let s1 := agentTouch s (flowBase peer 1) clsDma k.addr (bits k.info 11 0 + 1)
      let t := performed (respond s1 k 0 (if (firstPoison s1 k.addr (bits k.info 11 0 + 1)).isSome then 2 else 0) false
        (readBytes s1 k.addr (bits k.info 11 0 + 1))) peer (typeTc 3) k
      accessHeld t = false → exec (.dzLoad peer) ⟨q, s⟩ = .next ⟨q, t⟩) ∧
    (∀ k : DzPkt, nextPkt s peer (typeTc 4) 4 = some k → bit k.info 1 = false → rwinHolds s k.addr k.data.length = true →
      k.addr % lineBytes + k.data.length ≤ lineBytes →
      let t := performed (agentWrite s (flowBase peer 1) k.addr k.data (bit k.info 0)) peer (typeTc 4) k
      accessHeld t = false → exec (.dzStore peer) ⟨q, s⟩ = .next ⟨q, t⟩) ∧
    (∀ k : DzPkt, nextPkt s peer (typeTc 5) 5 = some k →
      let n := if bit k.info 8 then 8 else 4
      let a := leValue (k.data.take 8)
      let r := if bits k.info 4 0 = 9 then homeAtom s (flowBase peer 1) k.addr n 9 (leValue ((k.data.drop 8).take 8)) a
        else homeAtom s (flowBase peer 1) k.addr n (bits k.info 4 0) a 0
      let t := performed (respond r.1 k 0 0 false (leBytes n r.2)) peer (typeTc 5) k
      rwinHolds s k.addr n = true → aligned n k.addr = true → readsPoison s 12 (lineOf k.addr) = false →
      accessHeld t = false → exec (.dzAtomic peer) ⟨q, s⟩ = .next ⟨q, t⟩) ∧
    (∀ k : DzPkt, nextPkt s peer (typeTc 6) 6 = some k →
      accessHeld (performed (takeResp s k) peer (typeTc 6) k) = false →
      exec (.dzResp peer) ⟨q, s⟩ = .next ⟨q, performed (takeResp s k) peer (typeTc 6) k⟩) ∧
    (∀ (k : DzPkt) (t : Node), nextPkt s peer 3 7 = some k → msgPut s k = .taken t →
      accessHeld (performed t peer 3 k) = false → exec (.dzMsg peer) ⟨q, s⟩ = .next ⟨q, performed t peer 3 k⟩) ∧
    (∀ k : DzPkt, nextPkt s peer (typeTc 9) 9 = some k →
      accessHeld (performed (ridgeChunk s k) peer (typeTc 9) k) = false →
      exec (.ridgeChunk peer) ⟨q, s⟩ = .next ⟨q, performed (ridgeChunk s k) peer (typeTc 9) k⟩) ∧
    (∀ (tc : Nat) (o : DzOut) (f : SFlow) (t : Node), dzOn s (flowBase peer tc) = true → nextToSend s peer tc = some o →
      sflowOf s peer tc = some f → f.unacked.length < f.window →
      spray (dropToSend s peer tc o) { o.pkt with seq := f.next, first := !f.acked } false = some t →
      let u := ridgeNext (setSflow t peer tc (some { f with
        next := (f.next + 1) % 2 ^ 32, unacked := f.unacked ++ [⟨{ o.pkt with seq := f.next, first := !f.acked }, o.who, 1⟩] }))
      accessHeld u = false → exec (.dzSend peer tc) ⟨q, s⟩ = .next ⟨q, u⟩) ∧
    (∀ (tc : Nat) (r : RFlow), rflowOf s peer tc = some r →
      (0 < r.since → exec (.dzAckTimer peer tc) ⟨q, s⟩ = .next ⟨q, sendAck s peer tc⟩) ∧
      (r.held ≠ [] → r.held.all (fun k => k.seq != r.expect) = true →
        exec (.dzGapTimer peer tc) ⟨q, s⟩ = .next ⟨q, sendNak s peer tc r.expect 0⟩) ∧
      (r.held = [] → r.since = 0 → exec (.flowIdleRelease peer tc false) ⟨q, s⟩ = .next ⟨q, setRflow s peer tc none⟩)) ∧
    (∀ (tc : Nat) (f : SFlow), sflowOf s peer tc = some f →
      exec (.dzWindowIncrease peer tc) ⟨q, s⟩ = .next ⟨q,
        setSflow s peer tc (some { f with window := min 1024 (f.window + 16) })⟩ ∧
      (f.unacked = [] → exec (.flowIdleRelease peer tc true) ⟨q, s⟩ = .next ⟨q, setSflow s peer tc none⟩) ∧
      (∀ (seq : Nat) (o : DzOut), badChunk s peer tc seq = false → f.unacked.find? (fun o => o.pkt.seq == seq) = some o →
        o.sends < max 1 (fGet s (bLoc .dzCtrl (flowBase peer tc)) fDzCtrlRetry) →
        let t := ridgeNext (sprayOrDrop (dzCount (setSflow s peer tc (some { f with
          unacked := modFirst (fun x => x.pkt.seq == seq) (fun x => { x with sends := x.sends + 1 }) f.unacked }))
          (flowBase peer tc) cRetransmits) (flowBase peer tc) o.pkt false)
        accessHeld t = false → exec (.dzRto peer tc seq) ⟨q, s⟩ = .next ⟨q, t⟩)) ∧
    (∀ (port : Nat) (k : DzPkt), port < 20 → isFe port = false →
      (accessHeld (ridgeNext (frameIn s port k true)) = false →
        exec (.dzFrameReceive port k true) ⟨q, s⟩ = .next ⟨q, ridgeNext (frameIn s port k true)⟩) ∧
      (portLink s port = true → (portOf s port).depth ≠ 2 → dzRuns s (port / 5) = true → k.ver = 1 →
        (k.type = 0xC → exec (.dzKeepalive port k) ⟨q, s⟩ = .next ⟨q, takeKeepalive s port k⟩) ∧
        (k.dst = selfEp s → jobMatches s k = true →
          (k.type = 0xA → accessHeld (ridgeNext (takeAck s k)) = false →
            exec (.dzAck port k) ⟨q, s⟩ = .next ⟨q, ridgeNext (takeAck s k)⟩) ∧
          (k.type = 0xB → accessHeld (ridgeNext (takeNak s k)) = false →
            exec (.dzNak port k) ⟨q, s⟩ = .next ⟨q, ridgeNext (takeNak s k)⟩))) ∧
      (portLink s port = true → dzOn s (port / 5) = true → tblGet false s.fabric.heard port = true →
        exec (.keepaliveSend port) ⟨q, s⟩ = .next ⟨q,
          let s1 := modFab s fun f => { f with heard := tblSet false f.heard port false, missed := tblSet 0 f.missed port 0 }
          emitOn s1 (fpOfPort port) (ownPkt s1 0xC 0 0 0 0 []) false⟩) ∧
      (portLink s port = true → fGet s (dzPort (fpOfPort port)) fDzPortLost = 0 → 5 ≤ tblGet 0 s.fabric.missed port →
        tblGet false s.fabric.heard port = false → exec (.neighbourLost port) ⟨q, s⟩ = .next ⟨q,
          sendOut (logErr (fSet s (dzPort (fpOfPort port)) fDzPortLost 1) (12 + port / 5) 0x41 0x0604 0 [])
            ⟨20, 0, .notify, [0x0604, port], []⟩⟩))

/-- Command rings: the doorbell moves the producer index, the base is written, a PUT, GET or MSG entry to another endpoint
starts its packets, a command that has ended writes its record; and the engine's control register and its last step, and
Ridge's trees and GO; no access of theirs is held at a home (R338 to R345, R229). -/
def Obligations.DzigerCommandsComplete : Prop :=
  ∀ (q : List Instr) (s : Node) (b r : Nat) (v : Word), b < 4 → r < 16 →
    (wbits v 3 0 = r → ringStopped s b r = false →
      (wbits v 47 32 + 65536 - ringIndex s b r) % 65536 ≤ ringSize s b r →
      exec (.dzCmdDb b v) ⟨q, s⟩ = .next ⟨q, withResp (modRing s b r fun x => { x with pi := wbits v 47 32 }) .done⟩) ∧
    (ringRuns s b r = false →
      exec (.dzCmdBaseWrite b r v) ⟨q, s⟩ = .next ⟨q, withResp (rebaseRing s b r v.toNat) .done⟩) ∧
    (∀ op : Nat,
      let a := ringBase s b r + ringIndex s b r % ringSize s b r * 64
      let s0 := agentTouch s b clsDma a 64
      let l := readBytes s0 a 64
      let c := cmdOf s b r l
      dzOn s b = true → ringStopped s b r = false → ringIndex s b r ≠ (ringOf s b r).pi → (ringOf s b r).rebase = none →
      16 ≤ ringSize s b r → inHbm s a 64 = true → firstPoison s0 a 64 = none → entryInvalid l = false →
      descField l 0 1 = op → bit (descField l 1 1) 1 = false →
      (bit (descField l 1 1) 2 = true → fGet s (bLoc .dzWindow 0 [c.win]) fDzWindowValid = 1) →
      inHbm s c.localPa c.len = true → (c.ep = selfEp s → (loopPort s b).isSome = true) →
      let s1 := agentTouch s0 b clsDma c.localPa c.len
      let put := putPieces (startCmd s1 b { c with left := ceilDiv c.len 8192 }) c c.ep c.addr
      let get := originate (startCmd s0 b { c with left := 1 }) (.op c.id) (ownPkt s0 2 c.ep (opTag c.id) c.addr c.len [])
      let msg := originate (startCmd s1 b { c with left := 1 }) (.op c.id)
        (ownPkt s1 7 c.ep (msgTag c.id c.addr) 0 0 (readBytes s1 c.localPa c.len))
      (op = 1 → c.len ≠ 0 → accessHeld put = false → exec (.dzCmdPut b r) ⟨q, s⟩ = .next ⟨q, put⟩) ∧
      (op = 2 → accessHeld get = false → exec (.dzCmdGet b r) ⟨q, s⟩ = .next ⟨q, get⟩) ∧
      (op = 3 → firstPoison s1 c.localPa c.len = none → accessHeld msg = false →
        exec (.dzCmdMsg b r) ⟨q, s⟩ = .next ⟨q, msg⟩)) ∧
    (∀ (id st a : Nat) (c : DzCmd), (dzOf s b).cq = [] → (dzOf s b).cmds.find? (fun c => c.id == id) = some c →
      c.status = some st → dzCqSlot s b = some a → (st ≠ 0 ∨ c.signalled = true) →
      let t := releaseCmd (dzRecord s b a (dzCqe (leBytes 8 c.wr) c.ring c.op st c.got)) b c
      accessHeld t = false → exec (.dzCmdComplete b id) ⟨q, s⟩ = .next ⟨q, t⟩) ∧
    exec (.dzEnableWrite b v) ⟨q, s⟩ = .next ⟨q, withResp (dzCtrlWrite s b v) .done⟩ ∧
    (ctrlState s (bLoc .dzCtrl b) = stDisabling → dzBusy s b = false → exec (.dzDisableDone b) ⟨q, s⟩ = .next ⟨q,
      ownStepEnds (modFab s fun f => { f with
        sflows := f.sflows.filter fun p => flowBase (p.1 / 8) (p.1 % 8) != b,
        rflows := f.rflows.filter fun p => flowBase (p.1 / 8) (p.1 % 8) != b }) (bLoc .dzCtrl b)⟩) ∧
    (bit (treeWord s (wbits v 7 0) 0) 63 = true → bit (treeWord s (wbits v 7 0) 0) 62 = true →
      let t := if ridgeBusy s (wbits v 7 0) then modFab s fun f => { f with ridgeWait := f.ridgeWait ++ [wbits v 7 0] }
        else ridgeStart s (wbits v 7 0)
      accessHeld t = false → exec (.ridgeGo v) ⟨q, s⟩ = .next ⟨q, withResp t .done⟩) ∧
    (∀ tree w : Nat, tree < 256 → w < 8 →
      exec (.ridgeTreeWrite tree w v) ⟨q, s⟩ = .next ⟨q, withResp (treeWrite s tree w v.toNat) .done⟩)

/-! ## Shingle and work queues: completion -/

/-- Shingle: arms are queued and processed, elements delivered, buckets launched, cancelled, gathered and completed,
packets of a live generation contribute, shards are reduced; groups, control and hold are written and left
(R348 to R366). -/
def Obligations.ShingleCommandsComplete : Prop :=
  ∀ (q : List Instr) (s : Node) (tag b : Nat) (v : Word), tag < 4096 → b < 4 →
    (∀ x : Nat, x < 64 → (List.range 4).all (fun c => (shgOf s c).buckets.all fun p => !(p.2.group == x && p.2.st != bFree)) = true →
      exec (.shgGroupWrite x 0 v) ⟨q, s⟩ = .next ⟨q, withResp (storeReg s (bLoc .shgGroupW0 0 [x]) v) .done⟩ ∧
      exec (.shgGroupWrite x 1 v) ⟨q, s⟩ = .next ⟨q, withResp (storeReg s (bLoc .shgGroupW1 0 [x]) v) .done⟩) ∧
    (∀ a c : Nat, a = wbits v 55 6 * 64 → c = sliceOf (readLE s a 2) → shgOn s c = true → (shgOf s c).arms.length < 64 →
      exec (.shgArm v) ⟨q, s⟩ = .next ⟨q, withResp (modShg s c fun x => { x with arms := x.arms ++ [a] }) .done⟩) ∧
    (∀ (a : Nat) (rest : List Nat), (shgOf s b).arms = a :: rest → ctrlState s (bLoc .shgCtrl b) = stOn → inHbm s a 64 = true →
      let t := agentTouch (modShg s b fun x => { x with arms := rest }) b clsDma a 64
      let l := readBytes t a 64
      let k := armBucket t l
      let t1 := agentTouch t b clsDma (groupTable t k.group) (8 * k.n)
      firstPoison t a 64 = none → armFault t l k (descField l 0 2 % 4096) = none →
      firstPoison t1 (groupTable t k.group) (8 * k.n) = none → bucketPages k ≤ pagesFree s b →
      let u := takeEarly (shgCount (modBucket t1 (descField l 0 2 % 4096) fun _ =>
        { k with pages := bucketPages k }) b 0) (descField l 0 2 % 4096)
      accessHeld u = false → exec (.shgArmProcess b) ⟨q, s⟩ = .next ⟨q, u⟩) ∧
    (∀ fmt index code : Nat, deliveryFault s tag fmt index = none → accessHeld (deliverElem s tag index code) = false →
      exec (.shgDelivery tag fmt index code) ⟨q, s⟩ = .next ⟨q, withResp (deliverElem s tag index code) .done⟩) ∧
    ((bucketOf s tag).st = bFilling → shgOn s (sliceOf tag) = true → accessHeld (launchOrHold s tag) = false →
      exec (.shgGo tag) ⟨q, s⟩ = .next ⟨q, withResp (launchOrHold s tag) .done⟩ ∧
      ((bucketOf s tag).kind = 1 → bit (bucketOf s tag).wait 15 = false →
        exec (.shgAgLaunch tag) ⟨q, s⟩ = .next ⟨q, launchOrHold s tag⟩)) ∧
    ((bucketOf s tag).st = bFilling ∨ (bucketOf s tag).st = bHeld ∨ (bucketOf s tag).st = bFailed →
      exec (.shgCancel tag) ⟨q, s⟩ = .next ⟨q, withResp (freeBucket s tag) .done⟩) ∧
    (accessHeld (shgCtrlWrite s b v) = false →
      exec (.shgHoldWrite b v) ⟨q, s⟩ = .next ⟨q, withResp (shgCtrlWrite s b v) .done⟩ ∧
      exec (.shgEnableWrite b v) ⟨q, s⟩ = .next ⟨q, withResp (shgCtrlWrite s b v) .done⟩) ∧
    (∀ (peer : Nat) (k : DzPkt), nextPkt s peer 4 8 = some k → (bucketOf s (k.tag % 4096)).st ≠ bFree →
      shgRuns s (sliceOf (k.tag % 4096)) = true → (bits k.info 31 24 + 256 - (bucketOf s (k.tag % 4096)).gen) % 256 = 0 →
      accessHeld (performed (contribute s (k.tag % 4096) k) peer 4 k) = false →
      exec (.shinglePacket peer) ⟨q, s⟩ = .next ⟨q, performed (contribute s (k.tag % 4096) k) peer 4 k⟩) ∧
    (∀ i : Nat, (bucketOf s tag).st = bReducing → (ownShards (bucketOf s tag)).contains i = true →
      (bucketOf s tag).reduced.contains i = false → treeComplete (bucketOf s tag) i = true →
      accessHeld (shardReduced s tag i) = false → exec (.shgShardReduced tag i) ⟨q, s⟩ = .next ⟨q, shardReduced s tag i⟩) ∧
    (bucketDone s tag (bucketOf s tag) = true → exec (.shgBucketComplete tag) ⟨q, s⟩ = .next ⟨q,
      if bit (bucketOf s tag).sig 15 then addDep (freeBucket s tag) (bits (bucketOf s tag).sig 9 0) (bucketOf s tag).inc
      else freeBucket s tag⟩) ∧
    (ctrlState s (bLoc .shgCtrl b) = stDisabling → inflight s b = 0 → accessHeld s = false →
      exec (.shgDisableDone b) ⟨q, s⟩ = .next ⟨q, setCtrlState s (bLoc .shgCtrl b) stOff⟩)

/-- Work queues: doorbells ring, resume and replay; a free reader takes the slot it waits for; an unanswered wait stalls
the queue; the enable bits are written and left; commands start and complete, and their records are written. The ledger's
mirror and recovery: an acknowledged entry settles, a lost mirror is noted, a fresh or replayed ledger leaves recovery, and
the copies are reconciled (R370 to R394). -/
def Obligations.WorkQueueCommandsComplete : Prop :=
  (∀ (q : List Instr) (s : Node) (k b i : Nat) (v : Word), k < 256 → b < 4 → i < 16384 →
    exec (.wqEnableWrite k v) ⟨q, s⟩ = .next ⟨q, withResp (wqWrite s k v) .done⟩ ∧
    (wqState s k = stDisabling → queueLive s k = false → (wqOf s k).entry = none → exec (.wqDisableDone k) ⟨q, s⟩ = .next ⟨q,
      ownStepEnds (modWq s k fun w => { w with stall := 0, waitFrom := none, entry := none, cqFailed := false }) (wqLoc .wqCfg k)⟩) ∧
    (v.toNat < 2 ^ 48 → exec (.doorbellProd k v) ⟨q, s⟩ = .next ⟨q, withResp (ringDoorbell s k v.toNat) .done⟩) ∧
    exec (.doorbellResume k) ⟨q, s⟩ = .next ⟨q, withResp (resumeQueue s k) .done⟩ ∧
    exec (.doorbellReplay k) ⟨q, s⟩ = .next ⟨q, withResp (startReplay s) .done⟩ ∧
    (readerRuns s k = true →
      (accessHeld (readSlot s k) = false → exec (.wqSlotRead k) ⟨q, s⟩ = .next ⟨q, readSlot s k⟩) ∧
      (let t := wqCount (readSlot s k) (k / 64) .aheadRetries
       (wqOf s k).waitFrom.any (fun t => decide (s.now ≤ t + aheadNs s k)) = true → accessHeld t = false →
        exec (.wqRereadTimer k) ⟨q, s⟩ = .next ⟨q, t⟩) ∧
      (aheadOver s k = true → exec (.doorbellAhead k) ⟨q, s⟩ = .next ⟨q, logErr (setStall s k 1) (12 + k / 64) 0x50 0x0801 0
          [(1, k), (8, wqNext s k), (8, wqProdVal s k)]⟩)) ∧
    ((wqOf s k).accDue = true → wqState s k ≠ stOff → fGet s (wqLoc .wqCfg k) fWqCfgLocal = 1 →
      inHbm s (fGet s (wqLoc .wqAcc k) fWqAccAddr * 8) 8 = true →
      let t := agentWriteLE (modWq s k fun w => { w with accDue := false }) (k / 64)
        (fGet s (wqLoc .wqAcc k) fWqAccAddr * 8) 8 (accWord s k)
      accessHeld t = false → exec (.acceptanceWordWrite k) ⟨q, s⟩ = .next ⟨q, t⟩) ∧
    (∀ e : LedEntry, ledEntry s b i = some e →
      (∀ d : Nat, tilesDie s b e.desc = some d → startable s b i 1 = true → (schedOf s d).lists.length < 16 →
        exec (.wqTiles b i) ⟨q, s⟩ = .next ⟨q, submitList (modLedEntry s b i fun x => { x with started := true, list := some d })
          d (descField e.desc 16 8) (bits (descField e.desc 24 8) 12 0) (some (cmdId b i))⟩) ∧
      (startable s b i 2 = true → (ledOf s b).notify.length < 1024 → exec (.wqNotifyCmd b i) ⟨q, s⟩ = .next ⟨q,
        signal (modLed (markStarted s b i) b fun x => { x with notify := x.notify ++ [(e.queue, descSeq e)] })
          b (64 + e.queue % 64)⟩) ∧
      (startable s b i 3 = true → exec (.wqWait b i) ⟨q, s⟩ = .next ⟨q, markStarted s b i⟩) ∧
      (startable s b i 4 = true → exec (.wqSignal b i) ⟨q, s⟩ = .next ⟨q,
        let s1 := addDep (markStarted s b i) (descCnt e.desc) (descField e.desc 16 4)
        modLedEntry s1 b i fun x => { x with doneBy := some (0, 0, depCounter s1 (descCnt e.desc)) }⟩) ∧
      (startable s b i 5 = true → exec (.wqNop b i) ⟨q, s⟩ = .next ⟨q,
        modLedEntry (markStarted s b i) b i fun x => { x with doneBy := some (0, 0, 0) }⟩) ∧
      (∀ st err res : Nat, e.acked ≠ 0 → e.st = 1 → e.flight = false → recovering s b = false →
        cmdEnd s b i e = some (st, err, res) → exec (.wqCommandComplete b i) ⟨q, s⟩ = .next ⟨q,
          entryMoves s b i 2 (completionRecord s b e st err res)⟩) ∧
      (e.st = 2 → e.acked = 2 → e.flight = false → recovering s b = false → fGet s (wqLoc .wqCfg e.queue) fWqCfgLocal = 1 →
        inHbm s (cqSlot s e) 32 = true →
        let t := entryMoves (agentWrite s b (cqSlot s e) e.cpl false) b i 3 e.cpl
        accessHeld t = false → exec (.completionRecordWrite b i) ⟨q, s⟩ = .next ⟨q, t⟩)) ∧
    ((qpOf s (fGet s (wqLoc .wqCfg k) fWqCfgQp)).st = 4 → fGet s (wqLoc .wqCfg k) fWqCfgLocal = 0 →
      (ledEntries s (k / 64)).any (fun p => p.2.queue == k && decide (p.2.st = 2) && decide (p.2.acked = 2)) = true →
      (wqOf s k).cqFailed = false → wqState s k ≠ stOff → exec (.cqWriteFailed k) ⟨q, s⟩ = .next ⟨q,
        logErr (modWq s k fun w => { w with cqFailed := true }) (12 + k / 64) 0x50 0x0806 0 []⟩) ∧
    (∀ (n : Nat) (t : List (Nat × Nat)), (ledOf s b).notify = (k, n) :: t → exec (.wqNotifyRead b) ⟨q, s⟩ = .next ⟨q,
      withResp (modLed s b fun x => { x with notify := t }) (.data (BitVec.ofNat 64 (2 ^ 63 + k * 2 ^ 48 + n)))⟩) ∧
    (∀ (j : Nat) (e : LedEntry), (ledEntries s (wbits v 63 56 / 64)).find? (fun p => p.2.queue == wbits v 63 56 &&
        descSeq p.2 == wbits v 47 0 && decide (p.2.acked ≥ 1) && decide (p.2.st = 1) && p.2.doneBy.isNone) = some (j, e) →
      wbits v 55 48 = 0 → exec (.wqCompleteWrite v) ⟨q, s⟩ = .next ⟨q, withResp (modLedEntry (bump s) (wbits v 63 56 / 64) j
        fun e => { e with doneBy := some (0, 0, 0) }) .done⟩)) ∧
  ∀ (q : List Instr) (s : Node) (b i : Nat), b < 4 → i < 16384 →
    (∀ e : LedEntry, ledEntry s b i = some e → mirrorEnd s b i = some none → e.acked ≠ 0 → e.st = 2 →
      ∃ n : Node, exec (.mirrorWriteAck b i) ⟨q, s⟩ = .next ⟨q, n⟩ ∧ (∀ x : LedEntry, ledEntry n b i = some x →
        x.acked = 2 ∧ x.copy = 1 - e.copy ∧ x.flight = false ∧ x.desc = e.desc ∧ x.st = 2)) ∧
    (mirrorEnd s b i = some (some 0x0603) → exec (.mirrorLost b i) ⟨q, s⟩ = .next ⟨q,
      mirrorWrite (dropMirrorRemote s b i) b i⟩) ∧
    (∀ code : Nat, mirrorEnd s b i = some (some code) → code ≠ 0x0603 →
      let s1 := modLedEntry (dropMirrorRemote s b i) b i fun x => { x with flight := false, heard := none }
      let s2 := (List.range 256).foldl (fun s q => if (wqOf s q).stall ≠ 0 then accChanged s q else s)
        { s1 with mirror := { s1.mirror with lost := true, reported := true, resync := false } }
      exec (.mirrorLost b i) ⟨q, s⟩ = .next ⟨q,
        if s.mirror.reported then s2 else logErr s2 (12 + b) 0x51 0x0804 0 []⟩ ∧ s2.mirror.lost = true) ∧
    ((List.range 4).any (recovering s) = true →
      (s.mirror.reading = false → mirrorMode s = 1 → ∃ r : RemoteReq, r.who = .replay ∧ r.kind = 4 ∧
        r.ep = dictNat s 0x4100 2 ∧ r.addr = dictNat s 0x4100 3 ∧ r.len = 2 ^ 24 ∧
        exec .ledgerReplay ⟨q, s⟩ = .next ⟨q, withResp { s with
          mirror := { s.mirror with reading := true, readDone := false },
          remotes := s.remotes ++ [r], remoteId := s.remoteId + 1 } .done⟩) ∧
      ((List.range 4).all (fun c => (ledEntries s c).isEmpty) = true →
        exec .ledgerFresh ⟨q, s⟩ = .next ⟨q, withResp (endRecovery s) .done⟩)) ∧
    (∀ copies : List (Nat × Nat × List Byte × List Byte), (replayRead s).mirror.reading = true →
      (replayRead s).mirror.readDone = true → mirrorMode (replayRead s) ≠ 0 →
      exec (.reconciliationDone copies) ⟨q, s⟩ = .next ⟨q, reconcile (replayRead s) copies⟩)

/-! ## Recovery: completion -/

/-- Errors, fences, aborts and the three ways the node leaves by itself: the head index is clamped into the log, a fence
asked for is performed, a die is aborted and ends its abort, and the node restarts warm. Checkpoints: a cut starts, drains
or times out, is scanned, copied and sent; a restore starts from the local or the buddy's slot and ends. A copy of which an
access is held at a home is none yet (`served`, the model's choice, log entry 184); the other clauses speak of states in
which none is held (R406 to R423). -/
def Obligations.RecoveryCommandsComplete : Prop :=
  (∀ (q : List Instr) (s : Node) (d : Nat) (v : Word), d < 12 →
    (∀ b : Nat, b < 4 → ∃ n : Node, exec (.errHeadWrite b v) ⟨q, s⟩ = .next ⟨q, n⟩ ∧
      n = { s with csr := n.csr, resp := .done } ∧
      let tail := fGet s (bLoc .errTail b) fErrTailIndex
      let back := signed 32 (wrap 32 ((tail : Int) - (wbits v 31 0 : Int)))
      fGet n (bLoc .errHead b) fErrHeadIndex =
        (if back < 0 then tail else if back ≤ 4096 then wbits v 31 0 else wrap 32 ((tail : Int) - 4096))) ∧
    (∃ n : Node, exec (.fenceWrite v) ⟨q, s⟩ = .next ⟨q, n⟩ ∧ n = { s with fenceReqs := n.fenceReqs, resp := .done } ∧
      n.fenceReqs = s.fenceReqs ++ (((List.range 12).filter fun d => wbit v d && !isFenced s d).map fun d => (d, 5))) ∧
    (isFenced s d = false → exec (.heartbeatMissed d) ⟨q, s⟩ = .next ⟨q, { s with fenceReqs := s.fenceReqs ++ [(d, 3)] }⟩ ∧
      (∀ (t : Nat) (ts : List Nat), (s.fenceReqs.filter fun p => p.1 == d).map (·.2) = t :: ts →
        exec (.dieFence d) ⟨q, s⟩ = .next ⟨q, ordered s (fenceDie s d (ts.foldl min t))⟩) ∧
      ((dieOf s d).aborting = false → exec (.dieAbort d) ⟨q, s⟩ = .next ⟨q, withResp (fSet ((List.range 16).foldl
        (fun s i => abortGable s (16 * d + i)) (modDie s d fun x => { x with
          aborting := true, sched := { x.sched with pool := [], lists := [], tiles := [] } }))
        (dLoc .dieStatus d) fDieStatusAbortBusy 1) .done⟩)) ∧
    ((dieOf s d).aborting = true → (List.range 16).all (fun i => !gutterFills s (16 * d + i)) = true →
      exec (.dieAbortDone d) ⟨q, s⟩ = .next ⟨q, fSet (modDie ((List.range 16).foldl (fun s i => abortGable s (16 * d + i)) s) d
        fun x => { x with aborting := false }) (dLoc .dieStatus d) fDieStatusAbortBusy 0⟩) ∧
    (nodeRuns s = true →
      (s.leaveDue ≠ [] → exec .nodeLeaving ⟨q, s⟩ = .next ⟨q,
        warmReset (fenceLostStack (forwardRecords (logErr s (12 + leadDie s) 0x00 0x0A02 0 []))) rstLeave false⟩) ∧
      (followerAlive s = false → exec .mpAllLost ⟨q, s⟩ = .next ⟨q, warmReset (fenceLostStack ((basesInService s).foldl
        (fun s b => logErr s (12 + b) 0x00 0x0A02 0 []) (fSet s (bLoc .mpStatus 0) fMpStatusAlive 0))) rstLeave false⟩) ∧
      (s.ctl.ckpt.sessioned = true → [2, 3, 4, 5].all (fun k => !sessionAlive s k) = true →
        timeBack s.now s.ctl.ckpt.aliveAt ≥ dictNat s 0x4102 1 * 1000000000 → exec .orphanReset ⟨q, s⟩ = .next ⟨q,
          warmReset (forwardRecords (logErr s (12 + leadDie s) 0x00 0x0A03 0 [])) rstOrphan false⟩))) ∧
  ∀ (q : List Instr) (s : Node),
    (∀ cut : Nat, accessHeld (startCut s (cut % 2 ^ 32)) = false →
      exec (.ckptCut cut) ⟨q, s⟩ = .next ⟨q, withResp (startCut s (cut % 2 ^ 32)) .done⟩) ∧
    (ckptPhase s = 1 →
      (let t := ckptFail (setPhase (restoreHold s) 0) 0x0A04 2
       s.ctl.ckpt.since + dictNat s 0x4101 5 * 1000000 < s.now → accessHeld t = false →
        exec .cutDrainTimeout ⟨q, s⟩ = .next ⟨q, t⟩) ∧
      (let t := setPhase (putSlot (agentWrite s (leadDie s) (localSlot s + 4)
        (leBytes 1 (readLE s (localSlot s + 4) 1 - readLE s (localSlot s + 4) 1 % 2)) false) 4 (leBytes 1 0)) 2
       (List.range 4).all (fun b => inflight s b == 0) = true → accessHeld t = false →
        exec .cutDrained ⟨q, s⟩ = .next ⟨q, t⟩)) ∧
    (let chunks := chunksOf s.ctl.ckpt.head
     let mine := fun (line : Nat) => chunks.contains (line / 512)
     ckptPhase s = 2 →
      (List.range 4).all (fun b => (dirOf s b).txns.all fun t => !(mine t.req.line || (t.evicts && mine t.victim))) = true →
      chunks ≠ [] →
      let lines := (List.range 4).flatMap fun b => ((dirOf s b).entries.map (·.1)).filter mine
      let t := setPhase (restoreHold { lines.foldl recallLine s with cutChunks := chunks }) 3
      accessHeld t = false → exec .cutScanDone ⟨q, s⟩ = .next ⟨q, t⟩) ∧
    (∀ chunk : Nat, s.cutChunks.contains chunk = true → chunkAwaited s chunk = true →
      let slot := chunkSlot s chunk / lineBytes
      let s1 := (List.range 512).foldl (fun s i => copyCutLine s (chunk * 512 + i) (slot + i)) s
      let s2 := (List.range 512).foldl (fun s i => homeGo s (chunk * 512 + i))
        { s1 with cutChunks := s1.cutChunks.filter fun c => c != chunk }
      let t := if s2.cutChunks = [] then sendSlot s2 else s2
      exec (.cutChunkCopied chunk) ⟨q, s⟩ = .next ⟨q, served s t⟩) ∧
    (s.ctl.ckpt.sending = true → s.ctl.ckpt.failed = false → slotSending s = false →
      let s1 := agentWrite s (leadDie s) (localSlot s) (sealHeader s.ctl.ckpt.head (1 + (if s.ctl.ckpt.poison then 2 else 0))) false
      let t := fSet (setPhase (modCkpt s1 fun c => { c with sending := false }) 0)
        (bLoc .ckptStatus 0) fCkptStatusLastCut (descField s.ctl.ckpt.head 0 4)
      accessHeld t = false → exec .cutRemoteDone ⟨q, s⟩ = .next ⟨q, t⟩) ∧
    (accessHeld (restoreLocal s) = false → exec .ckptRestoreLocal ⟨q, s⟩ = .next ⟨q, withResp (restoreLocal s) .done⟩) ∧
    (∀ (h : List Byte) (c : List (Nat × Byte)) (p : List Nat),
      let mine := s.remotes.filter fun r => r.who == .restore
      let u := { s with remotes := s.remotes.filter fun r => !(r.who == .restore) }
      let t := setPhase (modCkpt
        (restoreLines u h (fun o => ((c.find? fun x => x.1 == o).map (·.2)).getD 0) (fun l => p.contains l)) fun k =>
          { k with restore := (List.range 256).map fun q => descField h (1088 + 8 * q) 6 }) 4
      mine ≠ [] → mine.all (fun r => r.result.isSome) = true →
      mine.all (fun r => r.result.any fun x => x.1 == 0 || x.1 == 0x0105) = true →
      ckptPhase s = 0 → restoreFault s h false = none → accessHeld t = false →
      exec (.ckptRestoreBuddy h c p) ⟨q, s⟩ = .next ⟨q, t⟩) ∧
    (ckptPhase s = 4 → exec .restoreDone ⟨q, s⟩ = .next ⟨q,
      let s1 := ((s.ctl.ckpt.restore).zipIdx).foldl (fun s (n, q) =>
        modLed s (q / 64) fun x => { x with frontier := tblSet 0 x.frontier q (n + 1) }) s
      fSet (setPhase (modCkpt s1 fun c => { c with restore := [] }) 0) (bLoc .ckptStatus 0) fCkptStatusRestored 1⟩)

/-! ## Fabric time, timed events and power: completion -/

/-- Fabric time: Sync on the slave port steers the counter, delay requests are answered, Announce re-runs the choice of
master, a PPS edge steers it and its loss is recorded, the output pulse, holdover and its expiry; a Sync is sent on a master
port. Timed events: a word of an entry is stored, and an entry that fires performs its action: a latch, a cut, a hold, a
counter, arms, a phase (R426 to R435, R455). -/
def Obligations.TimeCommandsComplete : Prop :=
  (∀ (q : List Instr) (s : Node) (p : Nat), p < 20 →
    (portLink s p = true →
      (ptpState s p = ptpSlave →
        let seen := modTime (ftCountAt (stampPort s p) (p / 5) 0) fun t => { t with syncAt := some s.now }
        let gives := fun (n : Node) (off : Int) => discipline (modTime (measured n off) fun t => { t with ptpHold := false }) off
        (ppsEn s = false → ∀ off : Int, exec (.ptpSyncReceive p (.oneStep off)) ⟨q, s⟩ = .next ⟨q, gives seen off⟩) ∧
        (∀ k : Nat, exec (.ptpSyncReceive p (.twoStep k)) ⟨q, s⟩ = .next ⟨q,
          modTime seen fun t => { t with twoStep := tblSet none t.twoStep p (some k) }⟩) ∧
        (∀ (k : Nat) (off : Int), ppsEn s = false → tblGet none s.ctl.time.twoStep p = some k →
          exec (.ptpSyncReceive p (.followUp k off)) ⟨q, s⟩ = .next ⟨q,
            gives (modTime s fun t => { t with twoStep := tblSet none t.twoStep p none }) off⟩)) ∧
      exec (.ptpPdelay p true) ⟨q, s⟩ = .next ⟨q, sendPtp (stampPort s p) p 3⟩ ∧
      exec (.ptpPdelay p false) ⟨q, s⟩ = .next ⟨q, stampPort s p⟩ ∧
      (∀ data : List Nat, exec (.ptpAnnounce p data) ⟨q, s⟩ = .next ⟨q,
        runBmca (modTime s fun t => { t with heard := tblSet none t.heard p (some data), listen := tblSet none t.listen p (some s.now) })⟩)) ∧
    (ppsEn s = true → s.ctl.time.ppsAt.all (fun t => decide (500000000 ≤ timeBack s.now t)) = true →
      exec .ppsInEdge ⟨q, s⟩ = .next ⟨q, servo (modTime (regSet (setPps s 1) (bLoc .ftPpsTs 0) (BitVec.ofNat 64 s.now))
        fun t => { t with ppsAt := some s.now, ppsFrom := some s.now, ppsAlone := false, ppsHold := false }) (ppsPhase s.now)⟩) ∧
    (ppsEn s = true → ppsState s ≠ 2 → timeBack s.now (s.ctl.time.ppsFrom.getD 0) ≥ 1500000000 →
      exec .ppsMissing ⟨q, s⟩ = .next ⟨q, signalAll (logErr (setPps s 2) 12 0x60 0x0A41 0 []) 55⟩) ∧
    (ppsOutEn s = true → quality s ≠ 0 → s.now % 1000000000 = 0 → hasPulsed s (s.now / 1000000000) = false →
      s.ctl.time.pulseAt.all (fun a => decide (500000000 ≤ timeBack s.now a)) = true →
      exec .ppsOutPulse ⟨q, s⟩ = .next ⟨q, sendOut (modTime s fun x => { x with
        pulsed := addPulsed x.pulsed (s.now / 1000000000), pulseAt := some s.now, pulseHigh := true })
        ⟨22, 0, .pulse, [1, s.now], []⟩⟩) ∧
    (quality s = 1 →
      (syncLost s = true → otherRef s = false → exec (.timeHoldover false) ⟨q, s⟩ = .next ⟨q,
        logErr (setQuality (modTime s fun t => { t with ptpHold := true }) 2) 12 0x60 0x0A40 0 []⟩) ∧
      (ppsEn s = true → ppsState s = 2 → s.ctl.time.ppsAlone = false → exec (.timeHoldover true) ⟨q, s⟩ = .next ⟨q,
        logErr (setQuality (modTime s fun t => { t with ppsHold := true, holdAt := s.now }) 2) 12 0x60 0x0A40 0 []⟩)) ∧
    (s.ctl.time.ppsHold = true → s.ctl.time.ptpHold = false → quality s = 2 → ptpState s p = ptpSlave → syncLost s = false →
      timeBack s.now s.ctl.time.holdAt ≥ dictNat s 0x5000 6 * 1000000000 →
      exec .ppsHoldExpiry ⟨q, s⟩ = .next ⟨q, setQuality (modTime s fun t => { t with ppsHold := false, ppsAlone := true }) 1⟩)) ∧
  ∀ (q : List Instr) (s : Node) (e : Nat), e < 64 →
    (∀ (w : Nat) (v : Word), w < 3 → teDue s e = false ∨ (w = 1 ∧ wbit (teWord1 v) 63 = false) →
      exec (.teEntryWrite e w v) ⟨q, s⟩ = .next ⟨q, withResp (modTime (teStore s e w v) fun x =>
        { x with stored := tblSet 0 x.stored e s.now }) .done⟩) ∧
    (∀ (w : Nat) (v : Word), w < 4 → accessHeld (teWrite s e w v) = false →
      exec (.teEntryWrite e w v) ⟨q, s⟩ = .next ⟨q, withResp (teWrite s e w v) .done⟩) ∧
    (teFires s e 1 = true → exec (.teLatch e) ⟨q, s⟩ = .next ⟨q, latchFire (teFire s e) (bits (teArg s e) 15 0)⟩) ∧
    (let n := bits (teArg s e) 31 0
     let u := teFire s e
     let t := startCut (if tePeriod s e = 0 then u else
       regSet u (teLoc e 2) (wput (regGet u (teLoc e 2)) 31 0 ((n + 1) % 2 ^ 32))) n
     teFires s e 2 = true → accessHeld t = false → exec (.teCut e) ⟨q, s⟩ = .next ⟨q, t⟩) ∧
    (let t := (List.range 4).foldl (fun t b => setShgHold t b (bit (teArg (teFire s e) e) 0)) (teFire s e)
     teFires s e 3 = true → accessHeld t = false → exec (.teHold e) ⟨q, s⟩ = .next ⟨q, t⟩) ∧
    (teFires s e 4 = true → exec (.teSignal e) ⟨q, s⟩ = .next ⟨q,
      addDep (teFire s e) (bits (teArg s e) 41 32) (bits (teArg s e) 31 0)⟩) ∧
    (teFires s e 5 = true → exec (.teArm e) ⟨q, s⟩ = .next ⟨q, (List.range (bits (teArg s e) 63 56 + 1)).foldl (fun t i =>
      armWrite t (BitVec.ofNat 64 (bits (teArg s e) 55 6 * 64 + 64 * i))) (teFire s e)⟩) ∧
    (teFires s e 6 = true → exec (.teLouvre e) ⟨q, s⟩ = .next ⟨q, forcePhase (teFire s e) (bits (teArg s e) 4 0)⟩)

/-- Power: samples and the package loop, guards and learned state cleared, phases and shares learned, operating points and
budgets taken, peaks, droops, temperatures and the brake, each where it acts (R440 to R465). -/
def Obligations.PowerCommandsComplete : Prop :=
  ∀ (q : List Instr) (s : Node) (d b : Nat) (v : Word), d < 12 → b < 4 →
    (∀ (meas act : List Nat) (faults : Nat), exec (.powerSample meas act faults) ⟨q, s⟩ = .next ⟨q, takeSample s meas act faults⟩) ∧
    (∀ (busy : List Nat) (demand : Nat), exec (.packageLoop busy demand) ⟨q, s⟩ = .next ⟨q, divideRound s busy demand⟩) ∧
    (∀ k m e : Nat, k < 19 → bit (lvOf s).guard k = false → bit (lvOf s).suspect k = false → m = tblGet 0 (lvOf s).meas k →
      e = tblGet 0 (lvOf s).est k → m * 15 < ((e : Int) - (m : Int)).natAbs * 100 →
      exec (.estimatorDiverge k) ⟨q, s⟩ = .next ⟨q, settlePower (fSet (modLv (lvLog s 0x0901 [(1, k), (2, e / 1000), (2, m / 1000)])
        fun x => { x with guard := x.guard ||| 1 <<< k, est := tblSet 0 x.est k (e * 11 / 10) }) (bLoc .lvStatus 0)
        fLvStatusGuard 1)⟩) ∧
    exec .lvClearGuard ⟨q, s⟩ = .next ⟨q, withResp (clearGuard s) .done⟩ ∧
    exec .lvClearLearned ⟨q, s⟩ = .next ⟨q, withResp (clearLearned s) .done⟩ ∧
    (∀ key k : Nat, key < 2 ^ 32 → (lvOf s).force = 0 → nearestSig s key = some k →
      keyDistance key (sigKey s k) ≤ fGet s (bLoc .lvCtrl 0) fLvCtrlMatch →
      exec (.phaseClassify key) ⟨q, s⟩ = .next ⟨q, enterPhase (touchSig (cntAdd s (bLoc .lvSigW3 0 [k]) 1) k) k⟩) ∧
    (fGet s (bLoc .lvCtrl 0) fLvCtrlLearn ≠ 0 → fGet s (bLoc .lvReason 0) fLvReasonActive % 4 ≠ 0 →
      let new := if (lvOf s).up then min 240 (sigShare s (phase s) + 1) else max 64 (sigShare s (phase s) - 1)
      let s1 := modLv (fSet s (bLoc .lvSigW1 0 [phase s]) fLvSigW1Share new) fun x =>
        { x with trial := some ((lvOf s).up, sigShare s (phase s)), up := !(lvOf s).up }
      exec (.shareLearn true) ⟨q, s⟩ = .next ⟨q, fSet (fSet (bump s1) (bLoc .lvSigW2 0 [phase s]) fLvSigW2PowerW
        (Config.freeNat s.fresh % 65536)) (bLoc .lvStatus 0) fLvStatusShare new⟩) ∧
    (isFenced s d = false →
      let p := tblGet 0 (lvOf s).target d
      let now := diePoint s d
      let op := if pointOp p < pointOp now ∧ supplyUp s d (arithUv (pointOp p)) (arithUv 0) = false then pointOp now else pointOp p
      let hp := if pointHp p < pointHp now ∧ supplyUp s (12 + d) (hostUv (pointHp p)) (hostUv 0) = false then pointHp now else pointHp p
      exec (.opMoveDone d) ⟨q, s⟩ = .next ⟨q, fSet (fSet (fSet s (dLoc .lpStatus d) fLpStatusOp op) (dLoc .lpStatus d)
        fLpStatusHp hp) (dLoc .lpStatus d) fLpStatusDuty (pointDuty p)⟩) ∧
    (budgetOk s v = true → exec (.budgetWrite v) ⟨q, s⟩ = .next ⟨q, withResp (budgetWrite s v) .done⟩) ∧
    ((lvOf s).lease.isSome = true → exec .budgetExpired ⟨q, s⟩ = .next ⟨q,
      settlePower (endFloor (lvLog (modLv s fun l => { l with grant := none, lease := none }) 0x0906 []))⟩) ∧
    (∀ amps : Nat, iccLimit s < amps → exec (.currentPeak ⟨b, amps⟩) ⟨q, s⟩ = .next ⟨q, settlePower (modLv (modLv s fun l =>
      { l with peakAt := tblSet 0 l.peakAt b s.now }) fun l => { l with peak := l.peak ||| 1 <<< b })⟩) ∧
    (∀ amps : Nat, amps * 100 < iccLimit s * 95 → bit (lvOf s).peak b = true →
      timeBack s.now (tblGet 0 (lvOf s).peakAt b : Nat) ≥ 100000 → exec (.currentPeakRelease ⟨b, amps⟩) ⟨q, s⟩ = .next ⟨q,
        settlePower (modLv s fun l => { l with peak := l.peak - (l.peak &&& 1 <<< b) })⟩) ∧
    ((lvOf s).floorRec = false → (liveDies s).all (fun d => diePoint s d == floorPoint) = true →
      capW s * 1000 < averagePower s → exec .capBelowFloor ⟨q, s⟩ = .next ⟨q, settlePower (modLv
        (lvLog s 0x0903 [(2, capW s), (2, floorW s)]) fun l => { l with floorRec := true })⟩) ∧
    (isFenced s d = false → bit (lvOf s).droop d = false → exec (.droopDetect d) ⟨q, s⟩ = .next ⟨q, setReasons (cntAdd
      (modLv s fun l => { l with droop := l.droop ||| 1 <<< d }) (dLoc .lpDroopEvents d) 1)⟩) ∧
    exec (.droopRelease d) ⟨q, s⟩ = .next ⟨q, setReasons (modLv s fun l => { l with droop := l.droop - (l.droop &&& 1 <<< d) })⟩ ∧
    (∀ (k hottest : Nat) (failed doubled : Bool), 16 ≤ k → k < 32 → ∃ n : Node,
      exec (.thermalRead k hottest failed doubled) ⟨q, s⟩ = .next ⟨q, settlePower (coolDram n k)⟩ ∧
      tblGet 0 (lvOf n).temps k = hottest ∧
      tblGet 0 (lvOf n).hot k = (if hottest ≥ tripTemp k then tblGet 0 (lvOf s).hot k + 1 else 0)) ∧
    (isFenced s d = false → bit (lvOf s).failed d = true → exec (.thermalFault d) ⟨q, s⟩ = .next ⟨q, askFence s d 4⟩) ∧
    (∀ k : Nat, k < 32 → 2 ≤ tblGet 0 (lvOf s).hot k → exec (.thermtrip k) ⟨q, s⟩ = .next ⟨q, stopNode s true⟩) ∧
    exec .pwrbrkAssert ⟨q, s⟩ = .next ⟨q, settlePower (modLv s fun l => { l with brake := true })⟩ ∧
    exec .pwrbrkRelease ⟨q, s⟩ = .next ⟨q, settlePower (modLv s fun l => { l with brake := false, brakeRec := false })⟩ ∧
    ((lvOf s).brake = true → (lvOf s).brakeRec = false → exec .brakeStuck ⟨q, s⟩ = .next ⟨q,
      noteAlert (lvLog (modLv s fun l => { l with brakeRec := true }) 0x0904 [])⟩) ∧
    (isFenced s d = false → exec (.regulatorFault d) ⟨q, s⟩ = .next ⟨q, { s with fenceReqs := s.fenceReqs ++ [(d, 4)] }⟩)

/-! ## Management: completion -/

/-- Corud: units that a served object and a live path let in are performed or assembled, requests grow stale, the store
answers, reports are sent, the mailbox takes and answers, and the latch is checked, committed, discarded, applied; leads
are claimed (R468 to R492, R505, R542). -/
def Obligations.ManagementCommandsComplete : Prop :=
  ∀ (q : List Instr) (s : Node) (b : Nat) (v : Word), b < 4 →
    (∀ (src : CorudSrc) (p : List Byte), srcExists src = true → dropped p = false →
      (answersFor s (some src) (unitIdx p)).isSome = true → srcUp s src = true →
      (unitOp p = 1 → exec (.coroudRead src p true) ⟨q, s⟩ = .next ⟨q, corudStarts s src p⟩ ∧
        exec (.coroudRead src p false) ⟨q, s⟩ = .next ⟨q, corudArrives s src p⟩) ∧
      (unitOp p = 2 → exec (.coroudWrite src p true) ⟨q, s⟩ = .next ⟨q, corudStarts s src p⟩ ∧
        exec (.coroudWrite src p false) ⟨q, s⟩ = .next ⟨q, corudArrives s src p⟩)) ∧
    (∀ (src : CorudSrc) (idx sub : Nat), ∃ n : Node, exec (.coroudSegmentTimeout src idx sub) ⟨q, s⟩ = .next ⟨q, n⟩ ∧
      n.ctl.corud.asm = s.ctl.corud.asm.filter fun a => !(decide (a.src = src) && a.idx == idx && a.sub == sub)) ∧
    (∀ (src : CorudSrc) (p : List Byte), s.ctl.corud.queue.contains (src, p) = true →
      exec (.coroudRequestStale src p) ⟨q, s⟩ = .next ⟨q,
        replyBusy (setQueue s (dropFirst (fun x => decide (x = (src, p))) s.ctl.corud.queue)) src p⟩) ∧
    (∀ (w : Storing) (rest : List Storing), s.ctl.corud.storing = w :: rest →
      (let plain := (dictFind (w.key / 256) (w.key % 256)).any fun e => decide (dictDefault e (w.key % 256) = w.val)
       let n := modCorud s fun c => { c with store := tblSet none c.store w.key (if plain then none else some w.val), storing := rest }
       exec (.configStoreWriteDone true) ⟨q, s⟩ = .next ⟨q, reply n w.src w.unit (response w.unit stOk 0 0 0 [])⟩ ∧
       tblGet none n.ctl.corud.store w.key = if plain then none else some w.val) ∧
      exec (.configStoreWriteDone false) ⟨q, s⟩ = .next ⟨q, reply (modCorud s fun c => { c with storing := rest }) w.src w.unit
        (response w.unit stStoreFailed 0 0 0 [])⟩) ∧
    (nodeRuns s = true → (lifeOf s).boot ≠ .hold → bits (dictNat s 0x1010 4) 50 48 ≠ 0 → ∃ n : Node,
      exec (.telemetryReport false) ⟨q, s⟩ = .next ⟨q, n⟩ ∧ n.ctl.corud.beat = s.ctl.corud.beat + 1 ∧
        n.ctl.corud.decim = 0 ∧ n.reports = []) ∧
    (∀ idx sub : Nat, isUserCal (idx * 256 + sub) = true → exec (.userCalibrationWrite idx sub v) ⟨q, s⟩ = .next ⟨q,
      (dictFind idx sub).elim (withResp s .refused) fun e => ownWrite s idx sub (leBytes (tyBytes e.ty) v.toNat)⟩) ∧
    exec .latchCheck ⟨q, s⟩ = .next ⟨q, ownWrite s 0x1F00 2 [1]⟩ ∧
    exec .latchCommitNow ⟨q, s⟩ = .next ⟨q, ownWrite s 0x1F00 2 [2]⟩ ∧
    exec .latchDiscard ⟨q, s⟩ = .next ⟨q, ownWrite s 0x1F00 2 [3]⟩ ∧
    exec (.commitAtWrite v) ⟨q, s⟩ = .next ⟨q, ownWrite s 0x1F00 5 (leBytes 8 v.toNat)⟩ ∧
    (∀ n : Nat, exec (.alertAckWrite n) ⟨q, s⟩ = .next ⟨q, ownWrite s 0x1010 7 (leBytes 2 n)⟩) ∧
    (∀ t : Nat, s.ctl.corud.apply = some t → t ≤ s.now → exec .latchApply ⟨q, s⟩ = .next ⟨q,
      s.ctl.corud.held.foldl (fun s x => corudWrite s x.1 x.2) (latchApply (modCorud s fun c => { c with held := [] }))⟩) ∧
    (nodeRuns s = true → b ≠ leadDie s → bit (fGet s (bLoc .mpStatus 0) fMpStatusAlive) b = true → ∃ n : Node,
      exec (.mpLeadClaim b) ⟨q, s⟩ = .next ⟨q, n⟩ ∧ fGet n (bLoc .mpStatus 0) fMpStatusLead = b ∧
        n.ctl.corud.queue = [] ∧ n.ctl.corud.asm = [] ∧ n.ctl.corud.held = [] ∧ n.ctl.corud.mailbox = []) ∧
    (let a := wbits v 55 4 * 16
     let s0 := agentTouch s b clsDma a 16
     let n := 16 + unitLength (readBytes s0 a 16)
     let s1 := agentTouch s0 b clsDma a n
     let p := readBytes s1 a n
     fGet s (bLoc .mbStatus b) fMbStatusBusy = 0 → inHbm s a 16 = true → inHbm s a n = true → firstPoison s1 a n = none →
      dropped p = false → (unitOp p = 1 ∨ unitOp p = 2) → (answersFor s (some (.mailbox b)) (unitIdx p)).isSome = true →
      let t := corudArrives (fSet s1 (bLoc .mbStatus b) fMbStatusBusy 1) (.mailbox b) p
      accessHeld t = false → exec (.mbReqWrite b v) ⟨q, s⟩ = .next ⟨q, withResp t .done⟩) ∧
    (∀ u : List Byte, tblGet none s.ctl.corud.mailbox b = some u → inHbm s (fGet s (bLoc .mbResp b) fMbRespAddr * 16) u.length = true →
      let s1 := agentWrite (modCorud s fun c => { c with mailbox := tblSet none c.mailbox b none }) b
        (fGet s (bLoc .mbResp b) fMbRespAddr * 16) u false
      let t := signal (fSet (fSet (fSet s1 (bLoc .mbStatus b) fMbStatusStatus (descField u 7 1))
        (bLoc .mbStatus b) fMbStatusBusy 0) (bLoc .mbStatus b) fMbStatusDone 1) b 57
      accessHeld t = false → exec (.mbResponse b) ⟨q, s⟩ = .next ⟨q, t⟩) ∧
    (nodeRuns s = true → awaitsImage s = true →
      exec .netbootReport ⟨q, s⟩ = .next ⟨q, sendReport s 1 (2 ^ 48 - 1) (reportUnit 0x7010 0 0 [])⟩)

/-! ## Life of the node: completion -/

/-- Power, resets and release, training, READY, images over the network, and the stops (R494 to R505, R536, R538). -/
def Obligations.LifeCommandsComplete : Prop :=
  ∀ (q : List Instr) (s : Node) (found : BootIn),
    ((lifeOf s).pwrok = false → mayRelease (modLife s fun l => { l with pwrok := true }) = true →
      exec (.pwrokRise found) ⟨q, s⟩ = .next ⟨q, release (modLife s fun l => { l with pwrok := true }) found⟩) ∧
    ((lifeOf s).pwrok = true → exec .pwrokFall ⟨q, s⟩ = .next ⟨q,
      modLife (coldReset (setReady s false)) fun l => { l with pwrok := false }⟩) ∧
    ((lifeOf s).resetN = true → (lifeOf s).pwrok = true → (lifeOf s).stopped = false → (lifeOf s).trip = false →
      (lifeOf s).boot ≠ .inReset → (lifeOf s).readied = true → exec .resetNAssert ⟨q, s⟩ = .next ⟨q,
        warmReset (modLife s fun l => { l with resetN := false }) rstPin false⟩) ∧
    ((lifeOf s).resetN = false → mayRelease (modLife s fun l => { l with resetN := true }) = true →
      exec (.resetNRelease found) ⟨q, s⟩ = .next ⟨q, release (modLife s fun l => { l with resetN := true }) found⟩) ∧
    ((lifeOf s).readied = true → exec .softwareReset ⟨q, s⟩ = .next ⟨q, withResp (warmReset s rstSoftware false) .done⟩) ∧
    ((lifeOf s).leaving = true → mayRelease s = true → exec (.warmResetRelease found) ⟨q, s⟩ = .next ⟨q, release s found⟩) ∧
    (nodeRuns s = true →
      ((lifeOf s).boot = .boot → (lifeOf s).mp.isSome = true → (lifeOf s).trained = false →
        exec .hbmTrainingDone ⟨q, s⟩ = .next ⟨q, seekHost
          { modLife (stacksOn s) fun l => { l with trained := true } with mem := [], poison := [], stale := [] }⟩) ∧
      ((lifeOf s).boot = .up → (lifeOf s).host = true → (lifeOf s).trained = true → (lifeOf s).ready = false →
        testMode s = false → exec .readyRise ⟨q, s⟩ = .next ⟨q, setReady (enableUnits s) true⟩)) ∧
    (awaitsImage s = true →
      (∀ (c : Nat) (d : List Byte), c < 512 → d.length ≤ 32768 → exec (.bootChunkWrite c d) ⟨q, s⟩ = .next ⟨q,
        withResp (modLife s fun l => { l with chunks := tblSet none l.chunks c (some d) }) .done⟩) ∧
      (∀ n : Nat, n ≤ 512 * 32768 → (netImage s n).length = n →
        let t := modLife s fun x => { x with chunks := [] }
        ((lifeOf s).boot = .netMp → exec (.bootGoWrite n) ⟨q, s⟩ = .next ⟨q, withResp
          (if imageOk s 1 (netImage s n) then startFirmware t 0 true (netImage s n)
            else bootFails t (imageSigned s 1 (netImage s n))) .done⟩) ∧
        ((lifeOf s).boot ≠ .netMp → exec (.bootGoWrite n) ⟨q, s⟩ = .next ⟨q, withResp
          (if imageOk s 2 (netImage s n) then startHost t 0 (netImage s n) else t) .done⟩))) ∧
    exec .railUndervoltage ⟨q, s⟩ = .next ⟨q, stopNode s false⟩ ∧
    exec .corePllLockLoss ⟨q, s⟩ = .next ⟨q, stopNode s false⟩ ∧
    (∀ b : Nat, b < 4 → exec (.refclkSdsLoss b) ⟨q, s⟩ = .next ⟨q, (portsOf b).foldl (fun s p =>
        modPort (linkFalls s p 1) p fun x => { x with training := false }) s⟩ ∧
      exec (.refclkSdsReturn b) ⟨q, s⟩ = .next ⟨q, (portsOf b).foldl (fun s p =>
        if isOn s (portCtrlLoc p) && !portLink s p then modPort s p fun x => { x with training := true } else s) s⟩)

/-- Security: a running image's version is committed, a token acts where it holds and is refused otherwise, keys are fused and revoked, nonces and
measurements taken, and a job is wiped where none is present (R506 to R517). -/
def Obligations.SecurityCommandsComplete : Prop :=
  ∀ (q : List Instr) (s : Node),
    (∀ i : Image, (lifeOf s).mp = some i → ∃ n : Node, exec (.svnCommit 1) ⟨q, s⟩ = .next ⟨q, n⟩ ∧
      n.ctl.life.fuses.svn.1 = burnUp (lifeOf s).fuses.svn.1 (fusedSvn s 1) (max (fusedSvn s 1) i.svn) ∧ n.resp = .done ∧
      n.ctl.life.fuses = { (lifeOf s).fuses with svn := n.ctl.life.fuses.svn }) ∧
    (∀ t : List Byte, t.length = 7267 →
      let refuses := withResp (lifeLog (drawNonce s) 0x0B03 []) .refused
      (descField t 0 1 = 0x0D → debugMay s (descField t 1 1) = true → exec (.debugTokenWrite t) ⟨q, s⟩ = .next ⟨q,
        if tokenHolds s t then withResp (modLife (drawNonce s) fun l => { l with debugNext := true }) .done else refuses⟩) ∧
      (transitionMay s (descField t 0 1) (descField t 1 1) = true → descField t 0 1 ≠ lcsProvisioned →
        exec (.lcsTokenWrite t) ⟨q, s⟩ = .next ⟨q, if tokenHolds s t then withResp (warmReset (modLife (bump (drawNonce s)) fun l =>
          { l with fuses := { l.fuses with lcs := descField t 0 1, partialWord := false } }) rstSoftware true) .done else refuses⟩)) ∧
    (∀ hash : List Byte, lcs s = lcsProvisioned → hash.length = 64 → (lifeOf s).fuses.owners.length < 4 →
      exec (.ownerKeyWrite hash) ⟨q, s⟩ = .next ⟨q, withResp (modLife s fun l =>
        { l with fuses := { (lifeOf s).fuses with owners := (lifeOf s).fuses.owners ++ [leValue hash] } }) .done⟩) ∧
    (∀ v : Nat, keyValid v = true → (lifeOf s).mp = none → (lifeOf s).hostImg = none → ∃ n : Node,
      exec (.revokeWrite v) ⟨q, s⟩ = .next ⟨q, n⟩ ∧ n.resp = .done ∧
      (if keyOwner v then bit n.ctl.life.fuses.ownerRev (keySlot v) = true
        else bit n.ctl.life.fuses.rootRev (keySlot v) = true)) ∧
    (∀ nonce : List Byte, nonce.length = 32 → exec (.nonceWrite nonce) ⟨q, s⟩ = .next ⟨q, withResp (nonceWrite s nonce) .done⟩) ∧
    (∀ (i : Nat) (d : List Byte), 4 ≤ i → i ≤ 7 → d.length = 64 → exec (.measurementExtend i d) ⟨q, s⟩ = .next ⟨q,
      withResp (modLife s fun l => { l with meas := tblSet 0 l.meas i (sha3 (measBytes s i ++ d)) }) .done⟩) ∧
    (jobPresent s = false → s.ctl.life.wiping = false → ∃ n : Node, exec .jobWipe ⟨q, s⟩ = .next ⟨q, n⟩ ∧
      n.ctl.life.wiping = true ∧ n.resp = .done ∧ ∀ b : Nat, b < 4 → fGet n (bLoc .secStatus b) fSecStatusJwBusy = 1) ∧
    ((lifeOf s).wiping = true → exec .jobWipeDone ⟨q, s⟩ = .next ⟨q,
      setSec (modLife s fun l => { l with wiping := false }) fSecStatusJwBusy 0⟩)

/-- Test access: test mode, patterns, built-in tests and the TAP's instructions, with READY low where they drive balls
(R520 to R528). -/
def Obligations.TestCommandsComplete : Prop :=
  ∀ (q : List Instr) (s : Node),
    (testMode s = false → jobPresent s = false → ∃ n : Node, exec .testModeEnter ⟨q, s⟩ = .next ⟨q, n⟩ ∧ testMode n = true ∧
      n.ctl.life.ready = false ∧ n.resp = .done) ∧
    (testMode s = true → exec .testModeExit ⟨q, s⟩ = .next ⟨q, withResp (warmReset s rstSoftware false) .done⟩) ∧
    (∀ (p : Nat) (v : Word), p < 20 → exec (.lbPrbsWrite p v) ⟨q, s⟩ = .next ⟨q, withResp (lbWrite s p v) .done⟩) ∧
    (∀ p lane errors : Nat, p < 20 → lane < 8 → isOn s (portCtrlLoc p) = true → prbsRuns s p = true →
      bit (portOf s p).lanes lane = true → ∃ n : Node, exec (.prbsCheckerLock p lane errors) ⟨q, s⟩ = .next ⟨q, n⟩ ∧
        fGet n (bLoc .prbsErr (p / 5) [p % 5, lane]) fPrbsErrNolock = 0 ∧
        fGet n (bLoc .prbsErr (p / 5) [p % 5, lane]) fPrbsErrCount =
          min (2 ^ 63 - 1) (fGet s (bLoc .prbsErr (p / 5) [p % 5, lane]) fPrbsErrCount + errors)) ∧
    (testMode s = true → s.ctl.test.bist = none → ∀ target : Nat,
      let starts := fun (op : Nat) => withResp (setLb (setLb (modTest s fun t => { t with bist := some (op, target % 2 ^ 17) })
        fLbStatusBusy 1) fLbStatusLastOp op) .done
      exec (.bistSram target) ⟨q, s⟩ = .next ⟨q, starts 1⟩ ∧ exec (.bistNearMemory target) ⟨q, s⟩ = .next ⟨q, starts 2⟩ ∧
      exec (.bistHbmMbist target) ⟨q, s⟩ = .next ⟨q, starts 3⟩ ∧ exec (.bistLogic target) ⟨q, s⟩ = .next ⟨q, starts 4⟩ ∧
      exec (.bistHbmPhyLoopback target) ⟨q, s⟩ = .next ⟨q, starts 5⟩ ∧
      exec (.bistBridgeLoopback target) ⟨q, s⟩ = .next ⟨q, starts 6⟩) ∧
    (∀ (op target mask : Nat) (fails : List (Nat × Nat × Nat)), s.ctl.test.bist = some (op, target) →
      exec (.bistDone fails mask) ⟨q, s⟩ = .next ⟨q, setLb (setLb (dictSet (modTest s fun t => { t with bist := none }) 0x9001 1
        (bistResult fails)) fLbStatusBusy 0) fLbStatusFail (mask &&& target &&& 0xFFFF)⟩) ∧
    exec .tapReset ⟨q, s⟩ = .next ⟨q, modTest s fun t => { t with ir := irIdcode, loaded := irIdcode }⟩ ∧
    exec .idcode ⟨q, s⟩ = .next ⟨q,
      withResp (modTest s fun t => { t with ir := irIdcode, loaded := irIdcode }) (.data 0x1124888F)⟩ ∧
    (∀ v : Nat, exec (.samplePreload v) ⟨q, s⟩ = .next ⟨q, withResp (bump (modTest s fun t =>
      { t with ir := 2, loaded := 2, boundary := v })) (.data (BitVec.ofNat 64 (Config.freeNat s.fresh)))⟩) ∧
    ((lifeOf s).ready = false → ∀ code : Nat,
      let t := sendOut (modTest s fun t => { t with ir := code, loaded := code }) ⟨22, 0, .boundary, [code, s.ctl.test.boundary], []⟩
      (code = 3 → exec .extest ⟨q, s⟩ = .next ⟨q, t⟩) ∧ (code = 4 → exec .highz ⟨q, s⟩ = .next ⟨q, t⟩) ∧
      (code = 5 → exec .clamp ⟨q, s⟩ = .next ⟨q, t⟩) ∧ (code = 6 → exec .extestPulse ⟨q, s⟩ = .next ⟨q, t⟩) ∧
      (code = 7 → exec .extestTrain ⟨q, s⟩ = .next ⟨q, t⟩)) ∧
    exec .dtmcs ⟨q, s⟩ = .next ⟨q, withResp (modTest s fun t => { t with ir := 0x10, loaded := 0x10 })
      (.data (BitVec.ofNat 64 (Config.dtmcsRest % 2 ^ 28 * 16 + 1)))⟩ ∧
    (∀ access addr data : Nat, debugOpen s = true →
      let t := dmiOp (modTest s fun t => { t with ir := 0x11, loaded := 0x11 }) access (addr % 2 ^ 7) (data % 2 ^ 32)
      accessHeld t = false → exec (.dmi access addr data) ⟨q, s⟩ = .next ⟨q, t⟩) ∧
    exec .bypass ⟨q, s⟩ = .next ⟨q, withResp (modTest s fun t => { t with ir := irBypass, loaded := irBypass }) (.data 0)⟩

/-- Commands of several units: the common step that ends DISABLING or ENABLING, an eviction the home has taken, a Sync
sent by a master, uncorrectable errors in each SRAM, a link that has narrowed, and CSR accesses where a register
stands, or in a fenced die's scope, which reads as all ones and takes no write (R21, R23, R117, R214, R294, R306, R406, R428). -/
def Obligations.CommonCommandsComplete : Prop :=
  ∀ (q : List Instr) (s : Node),
    (∀ (off : Nat) (l : RegLoc), csrFind off = some l → csrFenced s off = false → accessHeld (ownStepEnds s l) = false →
      l.id = .brokerCtrl → exec (.ownStepEnds off) ⟨q, s⟩ = .next ⟨q, ownStepEnds s l⟩) ∧
    (∀ (off : Nat) (l : RegLoc), csrFind off = some l → csrFenced s off = false → accessHeld (ownStepEnds s l) = false →
      l.id = .tsCtrl ∨ l.id = .dzCtrl →
      ctrlState s l = stEnabling → exec (.ownStepEnds off) ⟨q, s⟩ = .next ⟨q, ownStepEnds s l⟩) ∧
    (∀ d line : Nat, d < 12 →
      let mine := fun (r : HomeReq) => r.line == line && decide (r.src = .die d) && (decide (r.kind = .wbd) || decide (r.kind = .evc))
      let t := modCache s d fun c => { c with evicting := c.evicting.filter fun p => p.1 ≠ line }
      (dirOf s (homeOf s line)).queue.any mine = false → (netOf s).held.any mine = false →
      lineHeld s (homeOf s line) (d / 3) line = false →
      exec (.evictionAcknowledged d line) ⟨q, s⟩ = .next ⟨q, if holdSt t d line = .i then dropAlt t line d else t⟩) ∧
    (∀ p : Nat, p < 20 → portLink s p = true → ptpState s p = ptpMaster →
      exec (.ptpSyncSend p) ⟨q, s⟩ = .next ⟨q, sendPtp (sendPtp s p 0) p 2⟩) ∧
    (∀ d : Nat, d < 12 → isFenced s d = false →
      exec (.sramUncorrected (.cacheTags d)) ⟨q, s⟩ = .next ⟨q, askFence (logErr s d 0x20 0x0107 0 []) d 2⟩ ∧
      exec (.sramUncorrected (.tlb d)) ⟨q, s⟩ = .next ⟨q, askFence (logErr s d 0x21 0x0107 0 []) d 2⟩ ∧
      exec (.sramUncorrected (.pool d)) ⟨q, s⟩ = .next ⟨q, askFence (logErr s d 0x22 0x0107 0 []) d 2⟩) ∧
    (∀ g c : Nat, g < 192 → exec (.sramUncorrected (.accumulator g c)) ⟨q, s⟩ = .next ⟨q, sramLost s g⟩ ∧
      exec (.sramUncorrected (.elemBuffer g)) ⟨q, s⟩ = .next ⟨q, sramLost s g⟩) ∧
    (∀ c line : Nat, c < 96 → isFenced s (c / 8) = false →
      let t := modCore s c fun h => { h with caches := {
        l1i := h.caches.l1i.filter (· != line), l1d := h.caches.l1d.filter (· != line), l2 := h.caches.l2.filter fun p => p.1 != line } }
      exec (.sramUncorrected (.coreCache c line false)) ⟨q, s⟩ = .next ⟨q, t⟩ ∧
      ((coreOf s c).caches.l2.any (fun p => p.1 == line) = true → holdSt s (c / 8) line ≠ .i →
        exec (.sramUncorrected (.coreCache c line true)) ⟨q, s⟩ = .next ⟨q, modCache t (c / 8) fun x =>
          { x with lines := tblMod DcLine.absent x.lines line fun y => { y with poison := true } }⟩)) ∧
    (∀ line : Nat, (dirEntry s line).st ≠ .di → exec (.sramUncorrected (.dirEntry line)) ⟨q, s⟩ = .next ⟨q,
      modDir s (homeOf s line) fun x => { x with bad := insertRising line x.bad }⟩) ∧
    (∀ b i : Nat, b < 4 → exec (.sramUncorrected (.ledgerEntry b i)) ⟨q, s⟩ = .next ⟨q, modLed s b fun x =>
      { x with entries := tblMod none x.entries i fun e => e.map fun y => { y with bad := true } }⟩) ∧
    (∀ b : Nat, b < 4 → s.leaveDue.contains (.baseDie b) = false → exec (.sramUncorrected (.baseDie b)) ⟨q, s⟩ = .next ⟨q,
      { s with leaveDue := s.leaveDue ++ [.baseDie b] }⟩) ∧
    (∀ p m : Nat, p < 20 → (portOf s p).narrowTo = some m → (portOf s p).deferOff = false →
      exec (.narrowingCompleted p) ⟨q, s⟩ = .next ⟨q, signal (logErr (fSet (modPort s p fun x =>
        { x with lanes := m, narrowTo := none, deferOff := false }) (portLoc .portStatus p) fPortStatusLanes (laneCount m))
        (12 + p / 5) 0x40 0x0522 0 []) (p / 5) 56⟩) ∧
    (∀ (src : Sender) (off : Nat) (v : Word) (l : RegLoc), csrAllowed src off 8 = true → csrFenced s off = false →
      csrFind off = some l →
      (accessHeld (csrStore s src l v) = false → exec (.csrWrite src off 8 v) ⟨q, s⟩ = .next ⟨q, withResp (csrStore s src l v) .done⟩) ∧
      exec (.rcRegisterRead src off 8) ⟨q, s⟩ = .next ⟨q, withResp (clearRead s l) (.data (csrValue s src l))⟩) ∧
    (∀ (src : Sender) (off : Nat) (v : Word), csrAllowed src off 8 = true → csrFenced s off = true →
      exec (.csrWrite src off 8 v) ⟨q, s⟩ = .next ⟨q, { s with resp := .done }⟩ ∧
      exec (.rcRegisterRead src off 8) ⟨q, s⟩ = .next ⟨q, { s with resp := .data 0xFFFFFFFFFFFFFFFF }⟩)

/-- satp of a host core takes Bare, Sv48 and Sv57 and keeps its value under any other mode; the translation unit's STU_SATP
holds only Sv48 or Sv57, or 0 (R187, R259). -/
def Obligations.SatpModes : Prop :=
  ∀ (s : Node) (c : Nat) (v : Word),
    (bits v.toNat 63 60 = 0 ∨ bits v.toNat 63 60 = 9 ∨ bits v.toNat 63 60 = 10 →
      bits (hcsr (coreOf (csrWriteOf s c 0x180 v.toNat) c) 0x180) 63 60 = bits v.toNat 63 60) ∧
    (¬(bits v.toNat 63 60 = 0 ∨ bits v.toNat 63 60 = 9 ∨ bits v.toNat 63 60 = 10) →
      hcsr (coreOf (csrWriteOf s c 0x180 v.toNat) c) 0x180 = hcsr (coreOf s c) 0x180) ∧
    ∀ q : List Instr, ∃ n : Node, exec (.stuSatpWrite v) ⟨q, s⟩ = .next ⟨q, n⟩ ∧
      fGet n (bLoc .stuSatp 0) fStuSatpPpn = wbits v 43 0 ∧
      fGet n (bLoc .stuSatp 0) fStuSatpMode = (if wbits v 63 60 = 9 ∨ wbits v 63 60 = 10 then wbits v 63 60 else 0)

/-- While the THERMTRIP latch holds no warm trigger moves the node: the software reset, a leaving node, lost management
processors, an orphan's reset and the end of test mode leave it as it is, RESET_N changes only its own level, and the fall
of PWROK clears the latch (R497). -/
def Obligations.ThermtripIgnoresWarm : Prop :=
  ∀ (q : List Instr) (s : Node), (lifeOf s).trip = true →
    exec .softwareReset ⟨q, s⟩ = .next ⟨q, withResp s .done⟩ ∧ exec .testModeExit ⟨q, s⟩ = .next ⟨q, withResp s .done⟩ ∧
    exec .nodeLeaving ⟨q, s⟩ = .next ⟨q, s⟩ ∧ exec .mpAllLost ⟨q, s⟩ = .next ⟨q, s⟩ ∧ exec .orphanReset ⟨q, s⟩ = .next ⟨q, s⟩ ∧
    exec .resetNAssert ⟨q, s⟩ = .next ⟨q, modLife s fun l => { l with resetN := false }⟩ ∧
    ((lifeOf s).pwrok = true → ∃ n : Node, exec .pwrokFall ⟨q, s⟩ = .next ⟨q, n⟩ ∧ (lifeOf n).trip = false ∧
      (lifeOf n).pwrok = false)

/-- While debug is closed a DMI read returns zero and a DMI write is ignored; DTMCS.version reads 1 always (R528). -/
def Obligations.DebugClosed : Prop :=
  ∀ (q : List Instr) (s : Node), debugOpen s = false →
    (∀ access addr data : Nat, exec (.dmi access addr data) ⟨q, s⟩ = .next ⟨q,
      withResp (modTest s fun t => { t with ir := 0x11, loaded := 0x11 }) (if access = 2 then .done else .data 0)⟩) ∧
    ∃ (n : Node) (w : Word), exec .dtmcs ⟨q, s⟩ = .next ⟨q, n⟩ ∧ n.resp = .data w ∧ wbits w 3 0 = 1

/-- While READY is high an instruction that would drive balls selects BYPASS and sets SCAN_REFUSED; nothing but the TAP and
LB_STATUS changes (R527). -/
def Obligations.ScanRefused : Prop :=
  ∀ (q : List Instr) (s : Node), (lifeOf s).ready = true →
    ∀ c : Instr, c ∈ [Instr.extest, .highz, .clamp, .extestPulse, .extestTrain] → ∃ n : Node,
      exec c ⟨q, s⟩ = .next ⟨q, n⟩ ∧ n.ctl.test.ir = irBypass ∧ (∀ b : Nat, b < 4 → fGet n (bLoc .lbStatus b) fLbStatusScanRefused = 1) ∧
      n.out = s.out ∧ n.mem = s.mem ∧ n.ctl.life = s.ctl.life ∧ n.gables = s.gables ∧ n.dies = s.dies
end

