-- ==== Sys2Proof/Laws/Table.lean ====
section
/-! SUPPORT. Laws of the sparse tables, of memory and of the units read through them: a read after a write, the canonical
form under each write. -/

namespace Sys2Proof.Machine

/-- Rising keys, stated over pairs. -/
theorem tblRising_iff {α : Type} (t : Tbl α) : ∀ o, tblRising o t = true ↔
    t.Pairwise (fun p q => p.1 < q.1) ∧ ∀ lo ∈ o, ∀ p ∈ t, lo < p.1 := by
  induction t with
  | nil => intro o; cases o <;> simp [tblRising]
  | cons x t ih =>
    obtain ⟨j, v⟩ := x
    intro o
    cases o with
    | none => simp [tblRising, ih, and_comm]
    | some lo =>
      simp only [tblRising, Bool.and_eq_true, decide_eq_true_eq, ih, List.pairwise_cons, Option.mem_def, Option.some.injEq,
        forall_eq', List.mem_cons, forall_eq_or_imp]
      constructor
      · rintro ⟨h1, h2, h3⟩
        exact ⟨⟨h3, h2⟩, h1, fun p hp => h1.trans (h3 p hp)⟩
      · rintro ⟨⟨h3, h2⟩, h1, -⟩
        exact ⟨h1, h2, h3⟩

theorem tblNoDefault_iff {α : Type} [DecidableEq α] (d : α) (t : Tbl α) : tblNoDefault d t = true ↔ ∀ p ∈ t, p.2 ≠ d := by
  induction t with
  | nil => simp [tblNoDefault]
  | cons x t ih => obtain ⟨j, v⟩ := x; simp [tblNoDefault, ih]

theorem tblWf_iff {α : Type} [DecidableEq α] (d : α) (t : Tbl α) :
    tblWf d t = true ↔ t.Pairwise (fun p q => p.1 < q.1) ∧ ∀ p ∈ t, p.2 ≠ d := by
  simp [tblWf, tblRising_iff, tblNoDefault_iff]

theorem tblErase_eq {α : Type} (t : Tbl α) (k : Nat) : tblErase t k = t.filter fun p => p.1 ≠ k := by
  induction t with
  | nil => rfl
  | cons x t ih => obtain ⟨j, v⟩ := x; by_cases h : j = k <;> simp [tblErase, ih, h]

theorem mem_tblInsert {α : Type} {k : Nat} {v : α} {t : Tbl α} {p : Nat × α} : p ∈ tblInsert k v t ↔ p = (k, v) ∨ p ∈ t := by
  induction t with
  | nil => simp [tblInsert]
  | cons x t ih =>
    obtain ⟨j, w⟩ := x
    by_cases h : k < j
    · simp [tblInsert, h]
    · simp only [tblInsert, h, if_false, List.mem_cons, ih]
      tauto

theorem tblInsert_rising {α : Type} {k : Nat} {v : α} {t : Tbl α} (h : t.Pairwise fun p q => p.1 < q.1) (hk : ∀ p ∈ t, p.1 ≠ k) :
    (tblInsert k v t).Pairwise fun p q => p.1 < q.1 := by
  induction t with
  | nil => simp [tblInsert]
  | cons x t ih =>
    obtain ⟨j, w⟩ := x
    rw [List.pairwise_cons] at h
    by_cases hj : k < j
    · simp only [tblInsert, hj, if_true, List.pairwise_cons]
      refine ⟨?_, h.1, h.2⟩
      intro p hp
      rcases List.mem_cons.1 hp with rfl | hp
      · exact hj
      · exact hj.trans (h.1 p hp)
    · have hjk : j < k := lt_of_le_of_ne (not_lt.1 hj) (hk (j, w) (by simp))
      simp only [tblInsert, hj, if_false, List.pairwise_cons]
      refine ⟨?_, ih h.2 fun p hp => hk p (List.mem_cons_of_mem _ hp)⟩
      intro p hp
      rcases mem_tblInsert.1 hp with rfl | hp
      · exact hjk
      · exact h.1 p hp

/-- A table keeps its canonical form under a write. -/
theorem tblWf_tblSet {α : Type} [DecidableEq α] {d : α} {t : Tbl α} {k : Nat} {v : α} (h : tblWf d t = true) :
    tblWf d (tblSet d t k v) = true := by
  rw [tblWf_iff] at *
  unfold tblSet
  rw [tblErase_eq]
  split
  · exact ⟨h.1.filter _, fun p hp => h.2 p (List.mem_filter.1 hp).1⟩
  · rename_i hv
    refine ⟨tblInsert_rising (h.1.filter _) fun p hp => by simpa using (List.mem_filter.1 hp).2, fun p hp => ?_⟩
    rcases mem_tblInsert.1 hp with rfl | hp
    · exact hv
    · exact h.2 p (List.mem_filter.1 hp).1

theorem tblGet_tblErase {α : Type} (d : α) (t : Tbl α) (k j : Nat) :
    tblGet d (tblErase t k) j = if k = j then d else tblGet d t j := by
  induction t with
  | nil => simp [tblErase, tblGet]
  | cons x t ih =>
    obtain ⟨i, v⟩ := x
    by_cases hi : i = k
    · subst hi
      by_cases hj : i = j
      · subst hj; simpa [tblErase] using ih
      · simp [tblErase, tblGet, ih, hj]
    · by_cases hj : k = j
      · subst hj
        simp [tblErase, tblGet, ih, hi]
      · simp [tblErase, tblGet, ih, hi, hj]

theorem tblGet_tblInsert {α : Type} (d v : α) (t : Tbl α) (k j : Nat) (hk : ∀ p ∈ t, p.1 ≠ k) :
    tblGet d (tblInsert k v t) j = if k = j then v else tblGet d t j := by
  induction t with
  | nil => simp [tblInsert, tblGet]
  | cons x t ih =>
    obtain ⟨i, w⟩ := x
    have hik : i ≠ k := hk (i, w) (by simp)
    by_cases hlt : k < i
    · simp [tblInsert, hlt, tblGet]
    · simp only [tblInsert, hlt, if_false, tblGet, ih fun p hp => hk p (List.mem_cons_of_mem _ hp)]
      by_cases hij : i = j
      · subst hij; simp [Ne.symm hik]
      · simp [hij]

/-- A read after a write, at the key written and at any other; the table need not be in its canonical form. -/
theorem tblGet_tblSet {α : Type} [DecidableEq α] (d v : α) (t : Tbl α) (k j : Nat) :
    tblGet d (tblSet d t k v) j = if k = j then v else tblGet d t j := by
  unfold tblSet
  split
  · rename_i hv
    rw [tblGet_tblErase]
    split <;> simp [hv]
  · rw [tblGet_tblInsert]
    · by_cases h : k = j
      · simp [h]
      · simp [h, tblGet_tblErase]
    · intro p hp
      rw [tblErase_eq] at hp
      simpa using (List.mem_filter.1 hp).2

@[simp] theorem tblGet_tblSet_self {α : Type} [DecidableEq α] (d v : α) (t : Tbl α) (k : Nat) :
    tblGet d (tblSet d t k v) k = v := by simp [tblGet_tblSet]

theorem tblGet_tblSet_ne {α : Type} [DecidableEq α] {d v : α} {t : Tbl α} {k j : Nat} (h : k ≠ j) :
    tblGet d (tblSet d t k v) j = tblGet d t j := by simp [tblGet_tblSet, h]

@[simp] theorem tblGet_tblMod_self {α : Type} [DecidableEq α] (d : α) (t : Tbl α) (k : Nat) (f : α → α) :
    tblGet d (tblMod d t k f) k = f (tblGet d t k) := tblGet_tblSet_self ..

theorem tblGet_tblMod_ne {α : Type} [DecidableEq α] {d : α} {t : Tbl α} {k j : Nat} {f : α → α} (h : k ≠ j) :
    tblGet d (tblMod d t k f) j = tblGet d t j := tblGet_tblSet_ne h

/-- A table keeps its canonical form when one of its values is rewritten. -/
theorem tblWf_tblMod {α : Type} [DecidableEq α] {d : α} {t : Tbl α} {k : Nat} {f : α → α} (h : tblWf d t = true) :
    tblWf d (tblMod d t k f) = true := tblWf_tblSet h

/-! ## Memory -/

/-- A byte of memory read after a write of one byte. -/
theorem memByte_memPut (m : List Host.Cell) (a b : Nat) (v : Byte) :
    tblGet memDefault (memPut m a v) b = if a = b then v else tblGet memDefault m b := tblGet_tblSet ..

/-- A write of bytes leaves every byte outside them alone. -/
theorem memByte_memPuts_out {m : List Host.Cell} {a b : Nat} {l : List Byte} (h : b < a ∨ a + l.length ≤ b) :
    tblGet memDefault (memPuts m a l) b = tblGet memDefault m b := by
  induction l generalizing m a with
  | nil => rfl
  | cons v l ih =>
    simp only [List.length_cons] at h
    simp only [memPuts]
    rw [ih (by omega), memByte_memPut, if_neg (by omega)]

/-- A byte that a write of bytes wrote. -/
theorem memByte_memPuts_in {m : List Host.Cell} {a i : Nat} {l : List Byte} (h : i < l.length) :
    tblGet memDefault (memPuts m a l) (a + i) = l[i] := by
  induction l generalizing m a i with
  | nil => simp at h
  | cons v l ih =>
    simp only [memPuts]
    cases i with
    | zero => rw [memByte_memPuts_out (by omega), memByte_memPut]; simp
    | succ i =>
      have := ih (m := memPut m a v) (a := a + 1) (i := i) (by simpa using h)
      rw [show a + (i + 1) = a + 1 + i by omega, this]
      rfl

/-- A list write leaves every byte it does not name alone. -/
theorem memByte_memPutList_out {m : List Host.Cell} {b : Nat} {l : List (Nat × Byte)} (h : ∀ p ∈ l, p.1 ≠ b) :
    tblGet memDefault (memPutList m l) b = tblGet memDefault m b := by
  induction l generalizing m with
  | nil => rfl
  | cons p l ih =>
    obtain ⟨a, v⟩ := p
    simp only [memPutList]
    rw [ih fun q hq => h q (List.mem_cons_of_mem _ hq), memByte_memPut, if_neg (h (a, v) (by simp))]

theorem Memory.wf_iff (m : List Host.Cell) :
    Memory.wf m = true ↔ m.Pairwise (fun p q => p.1 < q.1) ∧ ∀ p ∈ m, p.2 ≠ memDefault := tblWf_iff _ _

/-- Memory keeps its canonical form under every operation that writes it. -/
theorem Memory.wf_memPut {m : List Host.Cell} {a : Nat} {v : Byte} (h : Memory.wf m = true) : Memory.wf (memPut m a v) = true :=
  tblWf_tblSet h

theorem Memory.wf_filter {m : List Host.Cell} (p : Host.Cell → Bool) (h : Memory.wf m = true) : Memory.wf (m.filter p) = true := by
  rw [Memory.wf_iff] at *
  exact ⟨h.1.filter p, fun x hx => h.2 x (List.mem_filter.1 hx).1⟩

theorem Memory.wf_memPuts {m : List Host.Cell} {a : Nat} {l : List Byte} (h : Memory.wf m = true) : Memory.wf (memPuts m a l) = true := by
  induction l generalizing m a with
  | nil => exact h
  | cons v l ih => exact ih (Memory.wf_memPut h)

theorem Memory.wf_memPutList {m : List Host.Cell} {l : List (Nat × Byte)} (h : Memory.wf m = true) : Memory.wf (memPutList m l) = true := by
  induction l generalizing m with
  | nil => exact h
  | cons p l ih => exact ih (Memory.wf_memPut h)

/-! ## Registers -/

/-- A register read after a write of the same one. -/
@[simp] theorem regGet_regSet_self (s : Node) (l : RegLoc) (w : Word) : regGet (regSet s l w) l = w := by
  simp [regGet, regSet]

/-- A write of a register leaves a register at another place alone. -/
theorem regGet_regSet_ne {s : Node} {l m : RegLoc} {w : Word} (h : regKey l ≠ regKey m) :
    regGet (regSet s l w) m = regGet s m := by
  have key : ∀ d : Word, tblGet d (tblSet (regReset l.id) s.csr (regKey l) w) (regKey m) = tblGet d s.csr (regKey m) := by
    intro d
    unfold tblSet
    split
    · rw [tblGet_tblErase, if_neg h]
    · rw [tblGet_tblInsert, if_neg h, tblGet_tblErase, if_neg h]
      intro p hp
      rw [tblErase_eq] at hp
      simpa using (List.mem_filter.1 hp).2
  exact key _

@[simp] theorem gableOf_modGable_self (s : Node) (g : Nat) (f : Gable → Gable) : gableOf (modGable s g f) g = f (gableOf s g) := by
  simp [gableOf, modGable]

theorem gableOf_modGable_ne {s : Node} {g h : Nat} {f : Gable → Gable} (hne : g ≠ h) : gableOf (modGable s g f) h = gableOf s h :=
  tblGet_tblMod_ne hne

@[simp] theorem groupOf_modGroup_self (s : Node) (g k : Nat) (f : Group → Group) : groupOf (modGroup s g k f) g k = f (groupOf s g k) := by
  simp [groupOf, modGroup]

theorem groupOf_modGroup_ne {s : Node} {g k j : Nat} {f : Group → Group} (h : k ≠ j) : groupOf (modGroup s g k f) g j = groupOf s g j := by
  simp [groupOf, modGroup, tblGet_tblMod_ne h]

@[simp] theorem dieOf_modDie_self (s : Node) (d : Nat) (f : Die → Die) : dieOf (modDie s d f) d = f (dieOf s d) := by
  simp [dieOf, modDie]

theorem dieOf_modDie_ne {s : Node} {d e : Nat} {f : Die → Die} (h : d ≠ e) : dieOf (modDie s d f) e = dieOf s e :=
  tblGet_tblMod_ne h

@[simp] theorem coreOf_modCore_self (s : Node) (c : Nat) (f : HostCore → HostCore) : coreOf (modCore s c f) c = f (coreOf s c) := by
  simp [coreOf, modCore]

@[simp] theorem dirOf_modDir_self (s : Node) (b : Nat) (f : Dir → Dir) : dirOf (modDir s b f) b = f (dirOf s b) := by
  simp [dirOf, modDir]

@[simp] theorem nmcOf_modNmc_self (s : Node) (b : Nat) (f : Nmc → Nmc) : nmcOf (modNmc s b f) b = f (nmcOf s b) := by
  simp [nmcOf, modNmc]

@[simp] theorem stuOf_modStu_self (s : Node) (b : Nat) (f : Stu → Stu) : stuOf (modStu s b f) b = f (stuOf s b) := by
  simp [stuOf, modStu]

end Sys2Proof.Machine
end

