-- ==== Sys2Proof/Laws/Keeps.lean ====
section
/-! SUPPORT. What every operation keeps: the relation, its composition through folds, choices and record updates. -/

namespace Sys2Proof.Machine

/-- What every command keeps of a node `s`: memory in its canonical form, no burnt fuse blank again. -/
structure Keeps (s t : Node) : Prop where
  mem : Memory.wf s.mem = true → Memory.wf t.mem = true
  fuses : Fuses.kept s.ctl.life.fuses t.ctl.life.fuses = true

/-- `Keeps` of an outcome over nodes. -/
def KeepsO (s : Node) : Host.Outcome Node Fault Refusal → Prop
  | .next t => Keeps s t
  | _ => True

theorem Keeps.rcd {s0 t : Node} {resp fresh now mtimeHold csr mem poison stale ceWindows gables dies dirs nmcs stus errlogs seqStaged aplic bundles ports cnpSent out pendDisable remotes remoteId fenceReqs cutChunks qps roceCq wqs leds mirror dzs fabric shgs dict lastRec reports alert leaveDue ctl}
    (h : Keeps s0 t) (hm : mem = t.mem) (hc : ctl.life.fuses = t.ctl.life.fuses) :
    Keeps s0 (Node.mk resp fresh now mtimeHold csr mem poison stale ceWindows gables dies dirs nmcs stus errlogs seqStaged aplic bundles ports cnpSent out pendDisable remotes remoteId fenceReqs cutChunks qps roceCq wqs leds mirror dzs fabric shgs dict lastRec reports alert leaveDue ctl) :=
  ⟨fun w => by rw [hm]; exact h.mem w, by show Fuses.kept _ ctl.life.fuses = true; rw [hc]; exact h.fuses⟩

theorem Keeps.pair {s0 a : Node} {α : Type} {b : α} {e : Node × α} (he : e = (a, b)) (h : Keeps s0 e.1) : Keeps s0 a := by
  rw [he] at h; exact h

theorem KeepsO.next {s0 t : Node} (h : Keeps s0 t) : KeepsO s0 (.next t) := h
theorem KeepsO.fault {s0 : Node} {f : Fault} : KeepsO s0 (.fault f) := trivial

theorem Keeps.foldl {s0 s : Node} {α : Type} {l : List α} {f : Node → α → Node} (h : Keeps s0 s)
    (hf : ∀ s x, Keeps s0 s → Keeps s0 (f s x)) : Keeps s0 (l.foldl f s) := by
  induction l generalizing s with
  | nil => exact h
  | cons x l ih => exact ih (hf _ _ h)

/-- `Keeps` of an outcome over states. -/
def KeepsS (s : Node) : Host.Outcome State Fault Refusal → Prop
  | .next t => Keeps s t.node
  | _ => True

theorem keep_onNode {s0 : Node} {s : State} {f : Node → Host.Outcome Node Fault Refusal} (h : KeepsO s0 (f s.node)) :
    KeepsS s0 (onNode s f) := by
  unfold onNode
  revert h
  generalize f s.node = r
  intro h
  cases r with
  | next n => exact h
  | fault e => trivial
  | refused e => trivial

theorem keep_onServed {s0 : Node} {s : State} {f : Node → Host.Outcome Node Fault Refusal} (hs : Keeps s0 s.node)
    (h : KeepsO s0 (f s.node)) : KeepsS s0 (onServed s f) := by
  unfold onServed
  apply keep_onNode
  revert h
  cases f s.node with
  | next n => intro h; show Keeps s0 (served s.node n); unfold served; split <;> assumption
  | fault e => intro _; trivial
  | refused e => intro _; trivial

theorem bitsKept_refl (a : Nat) : bitsKept a a = true := by simp [bitsKept]

theorem bitsKept_trans {a b c : Nat} (h1 : bitsKept a b = true) (h2 : bitsKept b c = true) : bitsKept a c = true := by
  simp only [bitsKept, beq_iff_eq] at *
  rw [← h2, ← Nat.lor_assoc, h1]

theorem bitsKept_or (a b : Nat) : bitsKept a (a ||| b) = true := by
  simp [bitsKept]

theorem Fuses.kept_iff (a b : Fuses) : Fuses.kept a b = true ↔ bitsKept a.svn.1 b.svn.1 = true ∧ bitsKept a.svn.2 b.svn.2 = true ∧
    bitsKept a.rootRev b.rootRev = true ∧ bitsKept a.ownerRev b.ownerRev = true ∧ a.owners <+: b.owners ∧ a.lcs ≤ b.lcs := by
  simp [Fuses.kept, and_assoc]

theorem Fuses.kept_trans {a b c : Fuses} (h1 : Fuses.kept a b = true) (h2 : Fuses.kept b c = true) : Fuses.kept a c = true := by
  rw [Fuses.kept_iff] at *
  obtain ⟨p1, p2, p3, p4, p5, p6⟩ := h1
  obtain ⟨q1, q2, q3, q4, q5, q6⟩ := h2
  exact ⟨bitsKept_trans p1 q1, bitsKept_trans p2 q2, bitsKept_trans p3 q3, bitsKept_trans p4 q4, p5.trans q5, p6.trans q6⟩

theorem Keeps.burn {s0 s : Node} {f : Life → Life} (h : Keeps s0 s)
    (hf : Fuses.kept s.ctl.life.fuses (f s.ctl.life).fuses = true) : Keeps s0 (modLife s f) :=
  ⟨h.mem, Fuses.kept_trans h.fuses hf⟩

theorem Keeps.foldlFst {s0 : Node} {α β : Type} {p : Node × β} {l : List α} {f : Node × β → α → Node × β} (h : Keeps s0 p.1)
    (hf : ∀ p x, Keeps s0 p.1 → Keeps s0 (f p x).1) : Keeps s0 (l.foldl f p).1 := by
  induction l generalizing p with
  | nil => exact h
  | cons x l ih => exact ih (hf _ _ h)

theorem Keeps.elim {s0 d : Node} {α : Type} {o : Option α} {f : α → Node} (h : Keeps s0 d) (hf : ∀ x, Keeps s0 (f x)) :
    Keeps s0 (o.elim d f) := by
  cases o with
  | none => exact h
  | some x => exact hf x

theorem Keeps.ite {s0 a b : Node} {c : Prop} [Decidable c] (ha : Keeps s0 a) (hb : Keeps s0 b) : Keeps s0 (if c then a else b) := by
  by_cases h : c
  · rw [if_pos h]; exact ha
  · rw [if_neg h]; exact hb

theorem Keeps.iteFst {s0 : Node} {α : Type} {a b : Node × α} {c : Prop} [Decidable c] (ha : Keeps s0 a.1) (hb : Keeps s0 b.1) :
    Keeps s0 (if c then a else b).1 := by
  by_cases h : c
  · rw [if_pos h]; exact ha
  · rw [if_neg h]; exact hb

theorem KeepsO.ite {s0 : Node} {a b : Host.Outcome Node Fault Refusal} {c : Prop} [Decidable c] (ha : KeepsO s0 a) (hb : KeepsO s0 b) :
    KeepsO s0 (if c then a else b) := by
  by_cases h : c
  · rw [if_pos h]; exact ha
  · rw [if_neg h]; exact hb

end Sys2Proof.Machine
end

