-- ==== Sys2Proof/Laws/Keeps1.lean ====
section
/-! SUPPORT. What the operations of the machine keep, one lemma each (1 of 6): keep_regSet to keep_transGo. -/

set_option Elab.async false
set_option linter.all false

namespace Sys2Proof.Machine

theorem keep_regSet {s0 : Node} {a0 a1 a2} (h0 : Keeps s0 a0) : Keeps s0 (regSet a0 a1 a2) := by
  unfold regSet
  repeat' (first | with_reducible (first | assumption | intro _ | apply Keeps.ite | apply Keeps.iteFst | apply Keeps.foldl | apply Keeps.foldlFst | apply Keeps.elim) | split | with_reducible (apply Keeps.pair; assumption) | dsimp only | ((with_reducible apply Keeps.rcd); (on_goal 2 => rfl); (on_goal 2 => rfl)))

theorem keep_fSet {s0 : Node} {a0 a1 a2 a3} (h0 : Keeps s0 a0) : Keeps s0 (fSet a0 a1 a2 a3) := by
  unfold fSet
  repeat' (first | with_reducible (first | assumption | intro _ | apply keep_regSet | apply Keeps.ite | apply Keeps.iteFst | apply Keeps.foldl | apply Keeps.foldlFst | apply Keeps.elim) | split | with_reducible (apply Keeps.pair; assumption) | dsimp only)

theorem keep_fOr {s0 : Node} {a0 a1 a2 a3} (h0 : Keeps s0 a0) : Keeps s0 (fOr a0 a1 a2 a3) := by
  unfold fOr
  repeat' (first | with_reducible (first | assumption | intro _ | apply keep_fSet | apply Keeps.ite | apply Keeps.iteFst | apply Keeps.foldl | apply Keeps.foldlFst | apply Keeps.elim) | split | with_reducible (apply Keeps.pair; assumption) | dsimp only)

theorem keep_storeReg {s0 : Node} {a0 a1 a2} (h0 : Keeps s0 a0) : Keeps s0 (storeReg a0 a1 a2) := by
  unfold storeReg
  repeat' (first | with_reducible (first | assumption | intro _ | apply keep_regSet | apply Keeps.ite | apply Keeps.iteFst | apply Keeps.foldl | apply Keeps.foldlFst | apply Keeps.elim) | split | with_reducible (apply Keeps.pair; assumption) | dsimp only)

theorem keep_cntAdd {s0 : Node} {a0 a1 a2} (h0 : Keeps s0 a0) : Keeps s0 (cntAdd a0 a1 a2) := by
  unfold cntAdd
  repeat' (first | with_reducible (first | assumption | intro _ | apply keep_regSet | apply Keeps.ite | apply Keeps.iteFst | apply Keeps.foldl | apply Keeps.foldlFst | apply Keeps.elim) | split | with_reducible (apply Keeps.pair; assumption) | dsimp only)

theorem keep_modGable {s0 : Node} {a0 a1 a2} (h0 : Keeps s0 a0) : Keeps s0 (modGable a0 a1 a2) := by
  unfold modGable
  repeat' (first | with_reducible (first | assumption | intro _ | apply Keeps.ite | apply Keeps.iteFst | apply Keeps.foldl | apply Keeps.foldlFst | apply Keeps.elim) | split | with_reducible (apply Keeps.pair; assumption) | dsimp only | ((with_reducible apply Keeps.rcd); (on_goal 2 => rfl); (on_goal 2 => rfl)))

theorem keep_modGroup {s0 : Node} {a0 a1 a2 a3} (h0 : Keeps s0 a0) : Keeps s0 (modGroup a0 a1 a2 a3) := by
  unfold modGroup
  repeat' (first | with_reducible (first | assumption | intro _ | apply keep_modGable | apply Keeps.ite | apply Keeps.iteFst | apply Keeps.foldl | apply Keeps.foldlFst | apply Keeps.elim) | split | with_reducible (apply Keeps.pair; assumption) | dsimp only)

theorem keep_modDie {s0 : Node} {a0 a1 a2} (h0 : Keeps s0 a0) : Keeps s0 (modDie a0 a1 a2) := by
  unfold modDie
  repeat' (first | with_reducible (first | assumption | intro _ | apply Keeps.ite | apply Keeps.iteFst | apply Keeps.foldl | apply Keeps.foldlFst | apply Keeps.elim) | split | with_reducible (apply Keeps.pair; assumption) | dsimp only | ((with_reducible apply Keeps.rcd); (on_goal 2 => rfl); (on_goal 2 => rfl)))

theorem keep_modSched {s0 : Node} {a0 a1 a2} (h0 : Keeps s0 a0) : Keeps s0 (modSched a0 a1 a2) := by
  unfold modSched
  repeat' (first | with_reducible (first | assumption | intro _ | apply keep_modDie | apply Keeps.ite | apply Keeps.iteFst | apply Keeps.foldl | apply Keeps.foldlFst | apply Keeps.elim) | split | with_reducible (apply Keeps.pair; assumption) | dsimp only)

theorem keep_modCache {s0 : Node} {a0 a1 a2} (h0 : Keeps s0 a0) : Keeps s0 (modCache a0 a1 a2) := by
  unfold modCache
  repeat' (first | with_reducible (first | assumption | intro _ | apply keep_modDie | apply Keeps.ite | apply Keeps.iteFst | apply Keeps.foldl | apply Keeps.foldlFst | apply Keeps.elim) | split | with_reducible (apply Keeps.pair; assumption) | dsimp only)

theorem keep_modCore {s0 : Node} {a0 a1 a2} (h0 : Keeps s0 a0) : Keeps s0 (modCore a0 a1 a2) := by
  unfold modCore
  repeat' (first | with_reducible (first | assumption | intro _ | apply keep_modDie | apply Keeps.ite | apply Keeps.iteFst | apply Keeps.foldl | apply Keeps.foldlFst | apply Keeps.elim) | split | with_reducible (apply Keeps.pair; assumption) | dsimp only)

theorem keep_modDir {s0 : Node} {a0 a1 a2} (h0 : Keeps s0 a0) : Keeps s0 (modDir a0 a1 a2) := by
  unfold modDir
  repeat' (first | with_reducible (first | assumption | intro _ | apply Keeps.ite | apply Keeps.iteFst | apply Keeps.foldl | apply Keeps.foldlFst | apply Keeps.elim) | split | with_reducible (apply Keeps.pair; assumption) | dsimp only | ((with_reducible apply Keeps.rcd); (on_goal 2 => rfl); (on_goal 2 => rfl)))

theorem keep_modNmc {s0 : Node} {a0 a1 a2} (h0 : Keeps s0 a0) : Keeps s0 (modNmc a0 a1 a2) := by
  unfold modNmc
  repeat' (first | with_reducible (first | assumption | intro _ | apply Keeps.ite | apply Keeps.iteFst | apply Keeps.foldl | apply Keeps.foldlFst | apply Keeps.elim) | split | with_reducible (apply Keeps.pair; assumption) | dsimp only | ((with_reducible apply Keeps.rcd); (on_goal 2 => rfl); (on_goal 2 => rfl)))

theorem keep_modStu {s0 : Node} {a0 a1 a2} (h0 : Keeps s0 a0) : Keeps s0 (modStu a0 a1 a2) := by
  unfold modStu
  repeat' (first | with_reducible (first | assumption | intro _ | apply Keeps.ite | apply Keeps.iteFst | apply Keeps.foldl | apply Keeps.foldlFst | apply Keeps.elim) | split | with_reducible (apply Keeps.pair; assumption) | dsimp only | ((with_reducible apply Keeps.rcd); (on_goal 2 => rfl); (on_goal 2 => rfl)))

theorem keep_onGable {s0 : Node} {a0 a1} (h1 : Keeps s0 a1) : KeepsO s0 (onGable a0 a1) := by
  unfold onGable
  repeat' (first | with_reducible (first | assumption | intro _ | apply keep_onNode | apply keep_onServed | apply KeepsO.next | apply KeepsO.fault | apply KeepsO.ite | apply Keeps.ite | apply Keeps.iteFst | apply Keeps.foldl | apply Keeps.foldlFst | apply Keeps.elim) | split | with_reducible (apply Keeps.pair; assumption) | dsimp only)

theorem keep_onDie {s0 : Node} {a0 a1} (h1 : Keeps s0 a1) : KeepsO s0 (onDie a0 a1) := by
  unfold onDie
  repeat' (first | with_reducible (first | assumption | intro _ | apply keep_onNode | apply keep_onServed | apply KeepsO.next | apply KeepsO.fault | apply KeepsO.ite | apply Keeps.ite | apply Keeps.iteFst | apply Keeps.foldl | apply Keeps.foldlFst | apply Keeps.elim) | split | with_reducible (apply Keeps.pair; assumption) | dsimp only)

theorem keep_onBase {s0 : Node} {a0 a1} (h1 : Keeps s0 a1) : KeepsO s0 (onBase a0 a1) := by
  unfold onBase
  repeat' (first | with_reducible (first | assumption | intro _ | apply keep_onNode | apply keep_onServed | apply KeepsO.next | apply KeepsO.fault | apply KeepsO.ite | apply Keeps.ite | apply Keeps.iteFst | apply Keeps.foldl | apply Keeps.foldlFst | apply Keeps.elim) | split | with_reducible (apply Keeps.pair; assumption) | dsimp only)

theorem keep_onCore {s0 : Node} {a0 a1} (h1 : Keeps s0 a1) : KeepsO s0 (onCore a0 a1) := by
  unfold onCore
  repeat' (first | with_reducible (first | assumption | intro _ | apply keep_onNode | apply keep_onServed | apply KeepsO.next | apply KeepsO.fault | apply KeepsO.ite | apply Keeps.ite | apply Keeps.iteFst | apply Keeps.foldl | apply Keeps.foldlFst | apply Keeps.elim) | split | with_reducible (apply Keeps.pair; assumption) | dsimp only)

theorem keep_onUnit {s0 : Node} {a0 a1 a2} (h2 : Keeps s0 a2) : KeepsO s0 (onUnit a0 a1 a2) := by
  unfold onUnit
  repeat' (first | with_reducible (first | assumption | intro _ | apply keep_onNode | apply keep_onServed | apply KeepsO.next | apply KeepsO.fault | apply KeepsO.ite | apply Keeps.ite | apply Keeps.iteFst | apply Keeps.foldl | apply Keeps.foldlFst | apply Keeps.elim) | split | with_reducible (apply Keeps.pair; assumption) | dsimp only)

theorem keep_withResp {s0 : Node} {a0 a1} (h0 : Keeps s0 a0) : Keeps s0 (withResp a0 a1) := by
  unfold withResp
  repeat' (first | with_reducible (first | assumption | intro _ | apply Keeps.ite | apply Keeps.iteFst | apply Keeps.foldl | apply Keeps.foldlFst | apply Keeps.elim) | split | with_reducible (apply Keeps.pair; assumption) | dsimp only | ((with_reducible apply Keeps.rcd); (on_goal 2 => rfl); (on_goal 2 => rfl)))

theorem keep_setCtrlState {s0 : Node} {a0 a1 a2} (h0 : Keeps s0 a0) : Keeps s0 (setCtrlState a0 a1 a2) := by
  unfold setCtrlState
  repeat' (first | with_reducible (first | assumption | intro _ | apply keep_regSet | apply Keeps.ite | apply Keeps.iteFst | apply Keeps.foldl | apply Keeps.foldlFst | apply Keeps.elim) | split | with_reducible (apply Keeps.pair; assumption) | dsimp only)

theorem keep_dropPendDisable {s0 : Node} {a0 a1} (h0 : Keeps s0 a0) : Keeps s0 (dropPendDisable a0 a1) := by
  unfold dropPendDisable
  repeat' (first | with_reducible (first | assumption | intro _ | apply Keeps.ite | apply Keeps.iteFst | apply Keeps.foldl | apply Keeps.foldlFst | apply Keeps.elim) | split | with_reducible (apply Keeps.pair; assumption) | dsimp only | ((with_reducible apply Keeps.rcd); (on_goal 2 => rfl); (on_goal 2 => rfl)))

theorem keep_enableWrite {s0 : Node} {a0 a1 a2} (h0 : Keeps s0 a0) : Keeps s0 (enableWrite a0 a1 a2) := by
  unfold enableWrite
  repeat' (first | with_reducible (first | assumption | intro _ | apply keep_dropPendDisable | apply keep_regSet | apply keep_setCtrlState | apply Keeps.ite | apply Keeps.iteFst | apply Keeps.foldl | apply Keeps.foldlFst | apply Keeps.elim) | split | with_reducible (apply Keeps.pair; assumption) | dsimp only | ((with_reducible apply Keeps.rcd); (on_goal 2 => rfl); (on_goal 2 => rfl)))

theorem keep_ownStepEnds {s0 : Node} {a0 a1} (h0 : Keeps s0 a0) : Keeps s0 (ownStepEnds a0 a1) := by
  unfold ownStepEnds
  repeat' (first | with_reducible (first | assumption | intro _ | apply keep_dropPendDisable | apply keep_setCtrlState | apply Keeps.ite | apply Keeps.iteFst | apply Keeps.foldl | apply Keeps.foldlFst | apply Keeps.elim) | split | with_reducible (apply Keeps.pair; assumption) | dsimp only)

theorem keep_faultBlock {s0 : Node} {a0 a1} (h0 : Keeps s0 a0) : Keeps s0 (faultBlock a0 a1) := by
  unfold faultBlock
  repeat' (first | with_reducible (first | assumption | intro _ | apply keep_dropPendDisable | apply keep_setCtrlState | apply Keeps.ite | apply Keeps.iteFst | apply Keeps.foldl | apply Keeps.foldlFst | apply Keeps.elim) | split | with_reducible (apply Keeps.pair; assumption) | dsimp only)

theorem keep_sendMsi {s0 : Node} {a0 a1 a2 a3} (h0 : Keeps s0 a0) : Keeps s0 (sendMsi a0 a1 a2 a3) := by
  unfold sendMsi
  repeat' (first | with_reducible (first | assumption | intro _ | apply keep_cntAdd | apply keep_modCore | apply Keeps.ite | apply Keeps.iteFst | apply Keeps.foldl | apply Keeps.foldlFst | apply Keeps.elim) | split | with_reducible (apply Keeps.pair; assumption) | dsimp only)

theorem keep_modAplic {s0 : Node} {a0 a1 a2 a3} (h0 : Keeps s0 a0) : Keeps s0 (modAplic a0 a1 a2 a3) := by
  unfold modAplic
  repeat' (first | with_reducible (first | assumption | intro _ | apply Keeps.ite | apply Keeps.iteFst | apply Keeps.foldl | apply Keeps.foldlFst | apply Keeps.elim) | split | with_reducible (apply Keeps.pair; assumption) | dsimp only | ((with_reducible apply Keeps.rcd); (on_goal 2 => rfl); (on_goal 2 => rfl)))

theorem keep_aplicDeliver {s0 : Node} {a0 a1 a2 a3} (h0 : Keeps s0 a0) : Keeps s0 (aplicDeliver a0 a1 a2 a3) := by
  unfold aplicDeliver
  repeat' (first | with_reducible (first | assumption | intro _ | apply keep_modAplic | apply keep_sendMsi | apply Keeps.ite | apply Keeps.iteFst | apply Keeps.foldl | apply Keeps.foldlFst | apply Keeps.elim) | split | with_reducible (apply Keeps.pair; assumption) | dsimp only)

theorem keep_signal {s0 : Node} {a0 a1 a2} (h0 : Keeps s0 a0) : Keeps s0 (signal a0 a1 a2) := by
  unfold signal
  repeat' (first | with_reducible (first | assumption | intro _ | apply keep_aplicDeliver | apply keep_modAplic | apply Keeps.ite | apply Keeps.iteFst | apply Keeps.foldl | apply Keeps.foldlFst | apply Keeps.elim) | split | with_reducible (apply Keeps.pair; assumption) | dsimp only)

theorem keep_signalGable {s0 : Node} {a0 a1} (h0 : Keeps s0 a0) : Keeps s0 (signalGable a0 a1) := by
  unfold signalGable
  repeat' (first | with_reducible (first | assumption | intro _ | apply keep_signal | apply Keeps.ite | apply Keeps.iteFst | apply Keeps.foldl | apply Keeps.foldlFst | apply Keeps.elim) | split | with_reducible (apply Keeps.pair; assumption) | dsimp only)

theorem keep_logErr {s0 : Node} {a0 a1 a2 a3 a4 a5} (h0 : Keeps s0 a0) : Keeps s0 (logErr a0 a1 a2 a3 a4 a5) := by
  unfold logErr
  repeat' (first | with_reducible (first | assumption | intro _ | apply keep_cntAdd | apply keep_fSet | apply keep_signal | apply Keeps.ite | apply Keeps.iteFst | apply Keeps.foldl | apply Keeps.foldlFst | apply Keeps.elim) | split | with_reducible (apply Keeps.pair; assumption) | dsimp only | ((with_reducible apply Keeps.rcd); (on_goal 2 => rfl); (on_goal 2 => rfl)))

theorem keep_ordered {s0 : Node} {a0 a1} (h0 : Keeps s0 a0) (h1 : Keeps s0 a1) : Keeps s0 (ordered a0 a1) := by
  unfold ordered
  repeat' (first | with_reducible (first | assumption | intro _ | apply Keeps.ite | apply Keeps.iteFst | apply Keeps.foldl | apply Keeps.foldlFst | apply Keeps.elim) | split | with_reducible (apply Keeps.pair; assumption) | dsimp only | ((with_reducible apply Keeps.rcd); (on_goal 2 => rfl); (on_goal 2 => rfl)))

theorem keep_logGable {s0 : Node} {a0 a1 a2 a3 a4} (h0 : Keeps s0 a0) : Keeps s0 (logGable a0 a1 a2 a3 a4) := by
  unfold logGable
  repeat' (first | with_reducible (first | assumption | intro _ | apply keep_logErr | apply Keeps.ite | apply Keeps.iteFst | apply Keeps.foldl | apply Keeps.foldlFst | apply Keeps.elim) | split | with_reducible (apply Keeps.pair; assumption) | dsimp only)

theorem keep_writeList {s0 s : Node} {l} (h : Keeps s0 s) : Keeps s0 (writeList s l) :=
  ⟨fun w => Memory.wf_memPutList (h.mem w), h.fuses⟩

theorem keep_writeBytes {s0 s : Node} {a l} (h : Keeps s0 s) : Keeps s0 (writeBytes s a l) :=
  ⟨fun w => Memory.wf_memPuts (h.mem w), h.fuses⟩

theorem keep_scratchWrite {s0 : Node} {a0 a1 a2 a3} (h0 : Keeps s0 a0) : Keeps s0 (scratchWrite a0 a1 a2 a3) := by
  unfold scratchWrite
  repeat' (first | with_reducible (first | assumption | intro _ | apply keep_modGable | apply Keeps.ite | apply Keeps.iteFst | apply Keeps.foldl | apply Keeps.foldlFst | apply Keeps.elim) | split | with_reducible (apply Keeps.pair; assumption) | dsimp only)

theorem keep_bump {s0 : Node} {a0} (h0 : Keeps s0 a0) : Keeps s0 (bump a0) := by
  unfold bump
  repeat' (first | with_reducible (first | assumption | intro _ | apply Keeps.ite | apply Keeps.iteFst | apply Keeps.foldl | apply Keeps.foldlFst | apply Keeps.elim) | split | with_reducible (apply Keeps.pair; assumption) | dsimp only | ((with_reducible apply Keeps.rcd); (on_goal 2 => rfl); (on_goal 2 => rfl)))

theorem keep_modBundle {s0 : Node} {a0 a1 a2 a3 a4} (h0 : Keeps s0 a0) : Keeps s0 (modBundle a0 a1 a2 a3 a4) := by
  unfold modBundle
  repeat' (first | with_reducible (first | assumption | intro _ | apply Keeps.ite | apply Keeps.iteFst | apply Keeps.foldl | apply Keeps.foldlFst | apply Keeps.elim) | split | with_reducible (apply Keeps.pair; assumption) | dsimp only | ((with_reducible apply Keeps.rcd); (on_goal 2 => rfl); (on_goal 2 => rfl)))

theorem keep_modNet {s0 : Node} {a0 a1} (h0 : Keeps s0 a0) : Keeps s0 (modNet a0 a1) := by
  unfold modNet
  repeat' (first | with_reducible (first | assumption | intro _ | apply Keeps.ite | apply Keeps.iteFst | apply Keeps.foldl | apply Keeps.foldlFst | apply Keeps.elim) | split | with_reducible (apply Keeps.pair; assumption) | dsimp only | ((with_reducible apply Keeps.rcd); (on_goal 2 => rfl); (on_goal 2 => rfl)))

theorem keep_takeRoutes {s0 : Node} {a0} (h0 : Keeps s0 a0) : Keeps s0 (takeRoutes a0) := by
  unfold takeRoutes
  repeat' (first | with_reducible (first | assumption | intro _ | apply keep_modNet | apply Keeps.ite | apply Keeps.iteFst | apply Keeps.foldl | apply Keeps.foldlFst | apply Keeps.elim) | split | with_reducible (apply Keeps.pair; assumption) | dsimp only)

theorem keep_dropGroupWaiters {s0 : Node} {a0 a1 a2} (h0 : Keeps s0 a0) : Keeps s0 (dropGroupWaiters a0 a1 a2) := by
  unfold dropGroupWaiters
  repeat' (first | with_reducible (first | assumption | intro _ | apply Keeps.ite | apply Keeps.iteFst | apply Keeps.foldl | apply Keeps.foldlFst | apply Keeps.elim) | split | with_reducible (apply Keeps.pair; assumption) | dsimp only | ((with_reducible apply Keeps.rcd); (on_goal 2 => rfl); (on_goal 2 => rfl)))

theorem keep_modCell {s0 : Node} {a0 a1 a2 a3} (h0 : Keeps s0 a0) : Keeps s0 (modCell a0 a1 a2 a3) := by
  unfold modCell
  repeat' (first | with_reducible (first | assumption | intro _ | apply keep_modGable | apply Keeps.ite | apply Keeps.iteFst | apply Keeps.foldl | apply Keeps.foldlFst | apply Keeps.elim) | split | with_reducible (apply Keeps.pair; assumption) | dsimp only)

theorem keep_endBanks {s0 : Node} {a0 a1 a2} (h0 : Keeps s0 a0) : Keeps s0 (endBanks a0 a1 a2) := by
  unfold endBanks
  repeat' (first | with_reducible (first | assumption | intro _ | apply keep_logGable | apply keep_modCell | apply Keeps.ite | apply Keeps.iteFst | apply Keeps.foldl | apply Keeps.foldlFst | apply Keeps.elim) | split | with_reducible (apply Keeps.pair; assumption) | dsimp only)

theorem keep_settleGroup {s0 : Node} {a0 a1 a2} (h0 : Keeps s0 a0) : Keeps s0 (settleGroup a0 a1 a2) := by
  unfold settleGroup
  repeat' (first | with_reducible (first | assumption | intro _ | apply keep_modGroup | apply Keeps.ite | apply Keeps.iteFst | apply Keeps.foldl | apply Keeps.foldlFst | apply Keeps.elim) | split | with_reducible (apply Keeps.pair; assumption) | dsimp only)

theorem keep_settleGroups {s0 : Node} {a0 a1} (h0 : Keeps s0 a0) : Keeps s0 (settleGroups a0 a1) := by
  unfold settleGroups
  repeat' (first | with_reducible (first | assumption | intro _ | apply keep_settleGroup | apply Keeps.ite | apply Keeps.iteFst | apply Keeps.foldl | apply Keeps.foldlFst | apply Keeps.elim) | split | with_reducible (apply Keeps.pair; assumption) | dsimp only)

theorem keep_logStops {s0 : Node} {a0 a1 a2 a3 a4} (h0 : Keeps s0 a0) : Keeps s0 (logStops a0 a1 a2 a3 a4) := by
  unfold logStops
  repeat' (first | with_reducible (first | assumption | intro _ | apply keep_logGable | apply Keeps.ite | apply Keeps.iteFst | apply Keeps.foldl | apply Keeps.foldlFst | apply Keeps.elim) | split | with_reducible (apply Keeps.pair; assumption) | dsimp only)

theorem keep_endGroup {s0 : Node} {a0 a1 a2} (h0 : Keeps s0 a0) : Keeps s0 (endGroup a0 a1 a2) := by
  unfold endGroup
  repeat' (first | with_reducible (first | assumption | intro _ | apply keep_dropGroupWaiters | apply keep_endBanks | apply keep_logStops | apply keep_modGroup | apply keep_settleGroup | apply Keeps.ite | apply Keeps.iteFst | apply Keeps.foldl | apply Keeps.foldlFst | apply Keeps.elim) | split | with_reducible (apply Keeps.pair; assumption) | dsimp only)

theorem keep_halt {s0 : Node} {a0 a1 a2 a3 a4} (h0 : Keeps s0 a0) : Keeps s0 (halt a0 a1 a2 a3 a4) := by
  unfold halt
  repeat' (first | with_reducible (first | assumption | intro _ | apply keep_endGroup | apply keep_logStops | apply keep_modGroup | apply keep_signalGable | apply Keeps.ite | apply Keeps.iteFst | apply Keeps.foldl | apply Keeps.foldlFst | apply Keeps.elim) | split | with_reducible (apply Keeps.pair; assumption) | dsimp only)

theorem keep_stopGroupAt {s0 : Node} {a0 a1 a2 a3 a4} (h0 : Keeps s0 a0) : Keeps s0 (stopGroupAt a0 a1 a2 a3 a4) := by
  unfold stopGroupAt
  repeat' (first | with_reducible (first | assumption | intro _ | apply keep_halt | apply keep_logGable | apply Keeps.ite | apply Keeps.iteFst | apply Keeps.foldl | apply Keeps.foldlFst | apply Keeps.elim) | split | with_reducible (apply Keeps.pair; assumption) | dsimp only)

theorem keep_stopGroup {s0 : Node} {a0 a1 a2 a3} (h0 : Keeps s0 a0) : Keeps s0 (stopGroup a0 a1 a2 a3) := by
  unfold stopGroup
  repeat' (first | with_reducible (first | assumption | intro _ | apply keep_stopGroupAt | apply Keeps.ite | apply Keeps.iteFst | apply Keeps.foldl | apply Keeps.foldlFst | apply Keeps.elim) | split | with_reducible (apply Keeps.pair; assumption) | dsimp only)

theorem keep_stopPoisonAt {s0 : Node} {a0 a1 a2 a3 a4 a5} (h0 : Keeps s0 a0) : Keeps s0 (stopPoisonAt a0 a1 a2 a3 a4 a5) := by
  unfold stopPoisonAt
  repeat' (first | with_reducible (first | assumption | intro _ | apply keep_halt | apply keep_logGable | apply Keeps.ite | apply Keeps.iteFst | apply Keeps.foldl | apply Keeps.foldlFst | apply Keeps.elim) | split | with_reducible (apply Keeps.pair; assumption) | dsimp only)

theorem keep_stopPoison {s0 : Node} {a0 a1 a2 a3 a4} (h0 : Keeps s0 a0) : Keeps s0 (stopPoison a0 a1 a2 a3 a4) := by
  unfold stopPoison
  repeat' (first | with_reducible (first | assumption | intro _ | apply keep_stopPoisonAt | apply Keeps.ite | apply Keeps.iteFst | apply Keeps.foldl | apply Keeps.foldlFst | apply Keeps.elim) | split | with_reducible (apply Keeps.pair; assumption) | dsimp only)

theorem keep_boundary {s0 : Node} {a0 a1 a2} (h0 : Keeps s0 a0) : Keeps s0 (boundary a0 a1 a2) := by
  unfold boundary
  repeat' (first | with_reducible (first | assumption | intro _ | apply keep_endGroup | apply keep_halt | apply Keeps.ite | apply Keeps.iteFst | apply Keeps.foldl | apply Keeps.foldlFst | apply Keeps.elim) | split | with_reducible (apply Keeps.pair; assumption) | dsimp only)

theorem keep_retire {s0 : Node} {a0 a1 a2 a3} (h0 : Keeps s0 a0) : Keeps s0 (retire a0 a1 a2 a3) := by
  unfold retire
  repeat' (first | with_reducible (first | assumption | intro _ | apply keep_boundary | apply keep_modGroup | apply Keeps.ite | apply Keeps.iteFst | apply Keeps.foldl | apply Keeps.foldlFst | apply Keeps.elim) | split | with_reducible (apply Keeps.pair; assumption) | dsimp only)

theorem keep_waitOn {s0 : Node} {a0 a1 a2 a3} (h0 : Keeps s0 a0) : Keeps s0 (waitOn a0 a1 a2 a3) := by
  unfold waitOn
  repeat' (first | with_reducible (first | assumption | intro _ | apply keep_modGroup | apply Keeps.ite | apply Keeps.iteFst | apply Keeps.foldl | apply Keeps.foldlFst | apply Keeps.elim) | split | with_reducible (apply Keeps.pair; assumption) | dsimp only)

theorem keep_suspendOn {s0 : Node} {a0 a1 a2 a3} (h0 : Keeps s0 a0) : Keeps s0 (suspendOn a0 a1 a2 a3) := by
  unfold suspendOn
  repeat' (first | with_reducible (first | assumption | intro _ | apply keep_modGroup | apply Keeps.ite | apply Keeps.iteFst | apply Keeps.foldl | apply Keeps.foldlFst | apply Keeps.elim) | split | with_reducible (apply Keeps.pair; assumption) | dsimp only)

theorem keep_issue {s0 : Node} {a0 a1 a2 a3} (h0 : Keeps s0 a0) (h3 : ∀ x0, Keeps s0 (a3 x0)) : Keeps s0 (issue a0 a1 a2 a3) := by
  unfold issue
  repeat' (first | with_reducible (first | assumption | intro _ | apply h3 | apply Keeps.ite | apply Keeps.iteFst | apply Keeps.foldl | apply Keeps.foldlFst | apply Keeps.elim) | split | with_reducible (apply Keeps.pair; assumption) | dsimp only)

theorem keep_stopAtBoundary {s0 : Node} {a0 a1 a2 a3 a4} (h0 : Keeps s0 a0) : Keeps s0 (stopAtBoundary a0 a1 a2 a3 a4) := by
  unfold stopAtBoundary
  repeat' (first | with_reducible (first | assumption | intro _ | apply keep_logGable | apply keep_modGroup | apply keep_signalGable | apply keep_stopGroup | apply Keeps.ite | apply Keeps.iteFst | apply Keeps.foldl | apply Keeps.foldlFst | apply Keeps.elim) | split | with_reducible (apply Keeps.pair; assumption) | dsimp only)

theorem keep_stopPoisonBoundary {s0 : Node} {a0 a1 a2 a3 a4 a5} (h0 : Keeps s0 a0) : Keeps s0 (stopPoisonBoundary a0 a1 a2 a3 a4 a5) := by
  unfold stopPoisonBoundary
  repeat' (first | with_reducible (first | assumption | intro _ | apply keep_logGable | apply keep_modGroup | apply keep_stopPoison | apply Keeps.ite | apply Keeps.iteFst | apply Keeps.foldl | apply Keeps.foldlFst | apply Keeps.elim) | split | with_reducible (apply Keeps.pair; assumption) | dsimp only)

theorem keep_modEntry {s0 : Node} {a0 a1 a2} (h0 : Keeps s0 a0) : Keeps s0 (modEntry a0 a1 a2) := by
  unfold modEntry
  repeat' (first | with_reducible (first | assumption | intro _ | apply keep_modDir | apply Keeps.ite | apply Keeps.iteFst | apply Keeps.foldl | apply Keeps.foldlFst | apply Keeps.elim) | split | with_reducible (apply Keeps.pair; assumption) | dsimp only)

theorem keep_dropAlt {s0 : Node} {a0 a1 a2} (h0 : Keeps s0 a0) : Keeps s0 (dropAlt a0 a1 a2) := by
  unfold dropAlt
  repeat' (first | with_reducible (first | assumption | intro _ | apply Keeps.ite | apply Keeps.iteFst | apply Keeps.foldl | apply Keeps.foldlFst | apply Keeps.elim) | split | with_reducible (apply Keeps.pair; assumption) | dsimp only | ((with_reducible apply Keeps.rcd); (on_goal 2 => rfl); (on_goal 2 => rfl)))

theorem keep_dropStale {s0 : Node} {a0 a1} (h0 : Keeps s0 a0) : Keeps s0 (dropStale a0 a1) := by
  unfold dropStale
  repeat' (first | with_reducible (first | assumption | intro _ | apply keep_dropAlt | apply Keeps.ite | apply Keeps.iteFst | apply Keeps.foldl | apply Keeps.foldlFst | apply Keeps.elim) | split | with_reducible (apply Keeps.pair; assumption) | dsimp only | ((with_reducible apply Keeps.rcd); (on_goal 2 => rfl); (on_goal 2 => rfl)))

theorem keep_giveCopy {s0 : Node} {a0 a1 a2 a3} (h0 : Keeps s0 a0) : Keeps s0 (giveCopy a0 a1 a2 a3) := by
  unfold giveCopy
  repeat' (first | with_reducible (first | assumption | intro _ | apply Keeps.ite | apply Keeps.iteFst | apply Keeps.foldl | apply Keeps.foldlFst | apply Keeps.elim) | split | with_reducible (apply Keeps.pair; assumption) | dsimp only | ((with_reducible apply Keeps.rcd); (on_goal 2 => rfl); (on_goal 2 => rfl)))

theorem keep_keepCopy {s0 : Node} {a0 a1} (h0 : Keeps s0 a0) : Keeps s0 (keepCopy a0 a1) := by
  unfold keepCopy
  repeat' (first | with_reducible (first | assumption | intro _ | apply Keeps.ite | apply Keeps.iteFst | apply Keeps.foldl | apply Keeps.foldlFst | apply Keeps.elim) | split | with_reducible (apply Keeps.pair; assumption) | dsimp only | ((with_reducible apply Keeps.rcd); (on_goal 2 => rfl); (on_goal 2 => rfl)))

theorem keep_takeCopy {s0 : Node} {a0 a1 a2} (h0 : Keeps s0 a0) : Keeps s0 (takeCopy a0 a1 a2) := by
  unfold takeCopy
  repeat' (first | with_reducible (first | assumption | intro _ | apply keep_dropAlt | apply keep_writeBytes | apply Keeps.ite | apply Keeps.iteFst | apply Keeps.foldl | apply Keeps.foldlFst | apply Keeps.elim) | split | with_reducible (apply Keeps.pair; assumption) | dsimp only)

theorem keep_noteCopy {s0 : Node} {a0 a1 a2} (h0 : Keeps s0 a0) : Keeps s0 (noteCopy a0 a1 a2) := by
  unfold noteCopy
  repeat' (first | with_reducible (first | assumption | intro _ | apply keep_keepCopy | apply keep_takeCopy | apply Keeps.ite | apply Keeps.iteFst | apply Keeps.foldl | apply Keeps.foldlFst | apply Keeps.elim) | split | with_reducible (apply Keeps.pair; assumption) | dsimp only | ((with_reducible apply Keeps.rcd); (on_goal 2 => rfl); (on_goal 2 => rfl)))

theorem keep_noteMemory {s0 : Node} {a0 a1} (h0 : Keeps s0 a0) : Keeps s0 (noteMemory a0 a1) := by
  unfold noteMemory
  repeat' (first | with_reducible (first | assumption | intro _ | apply keep_keepCopy | apply keep_takeCopy | apply Keeps.ite | apply Keeps.iteFst | apply Keeps.foldl | apply Keeps.foldlFst | apply Keeps.elim) | split | with_reducible (apply Keeps.pair; assumption) | dsimp only)

theorem keep_wroteHbm {s0 : Node} {a0 a1 a2} (h0 : Keeps s0 a0) : Keeps s0 (wroteHbm a0 a1 a2) := by
  unfold wroteHbm
  repeat' (first | with_reducible (first | assumption | intro _ | apply Keeps.ite | apply Keeps.iteFst | apply Keeps.foldl | apply Keeps.foldlFst | apply Keeps.elim) | split | with_reducible (apply Keeps.pair; assumption) | dsimp only | ((with_reducible apply Keeps.rcd); (on_goal 2 => rfl); (on_goal 2 => rfl)))

theorem keep_eavesPush {s0 : Node} {a0 a1 a2} (h0 : Keeps s0 a0) : Keeps s0 (eavesPush a0 a1 a2) := by
  unfold eavesPush
  repeat' (first | with_reducible (first | assumption | intro _ | apply keep_cntAdd | apply keep_dropStale | apply keep_modNmc | apply keep_wroteHbm | apply Keeps.ite | apply Keeps.iteFst | apply Keeps.foldl | apply Keeps.foldlFst | apply Keeps.elim) | split | with_reducible (apply Keeps.pair; assumption) | dsimp only)

theorem keep_nmcFill {s0 : Node} {a0 a1 a2 a3 a4 a5} (h0 : Keeps s0 a0) : Keeps s0 (nmcFill a0 a1 a2 a3 a4 a5) := by
  unfold nmcFill
  repeat' (first | with_reducible (first | assumption | intro _ | apply keep_eavesPush | apply keep_modNmc | apply Keeps.ite | apply Keeps.iteFst | apply Keeps.foldl | apply Keeps.foldlFst | apply Keeps.elim) | split | with_reducible (apply Keeps.pair; assumption) | dsimp only)

theorem keep_nmcMark {s0 : Node} {a0 a1 a2 a3 a4} (h0 : Keeps s0 a0) : Keeps s0 (nmcMark a0 a1 a2 a3 a4) := by
  unfold nmcMark
  repeat' (first | with_reducible (first | assumption | intro _ | apply keep_modNmc | apply Keeps.ite | apply Keeps.iteFst | apply Keeps.foldl | apply Keeps.foldlFst | apply Keeps.elim) | split | with_reducible (apply Keeps.pair; assumption) | dsimp only)

theorem keep_prefetch {s0 : Node} {a0 a1 a2} (h0 : Keeps s0 a0) : Keeps s0 (prefetch a0 a1 a2) := by
  unfold prefetch
  repeat' (first | with_reducible (first | assumption | intro _ | apply keep_modNmc | apply Keeps.ite | apply Keeps.iteFst | apply Keeps.foldl | apply Keeps.foldlFst | apply Keeps.elim) | split | with_reducible (apply Keeps.pair; assumption) | dsimp only)

theorem keep_trainTrackers {s0 : Node} {a0 a1 a2 a3} (h0 : Keeps s0 a0) : Keeps s0 (trainTrackers a0 a1 a2 a3) := by
  unfold trainTrackers
  repeat' (first | with_reducible (first | assumption | intro _ | apply keep_modNmc | apply keep_prefetch | apply Keeps.ite | apply Keeps.iteFst | apply Keeps.foldl | apply Keeps.foldlFst | apply Keeps.elim) | split | with_reducible (apply Keeps.pair; assumption) | dsimp only)

theorem keep_nmcRead {s0 : Node} {a0 a1 a2} (h0 : Keeps s0 a0) : Keeps s0 (nmcRead a0 a1 a2) := by
  unfold nmcRead
  repeat' (first | with_reducible (first | assumption | intro _ | apply keep_cntAdd | apply keep_modNmc | apply keep_nmcFill | apply keep_trainTrackers | apply Keeps.ite | apply Keeps.iteFst | apply Keeps.foldl | apply Keeps.foldlFst | apply Keeps.elim) | split | with_reducible (apply Keeps.pair; assumption) | dsimp only)

theorem keep_dropTransom {s0 : Node} {a0 a1 a2} (h0 : Keeps s0 a0) : Keeps s0 (dropTransom a0 a1 a2) := by
  unfold dropTransom
  repeat' (first | with_reducible (first | assumption | intro _ | apply keep_cntAdd | apply keep_modNmc | apply Keeps.ite | apply Keeps.iteFst | apply Keeps.foldl | apply Keeps.foldlFst | apply Keeps.elim) | split | with_reducible (apply Keeps.pair; assumption) | dsimp only)

theorem keep_nmcWrite {s0 : Node} {a0 a1 a2 a3 a4} (h0 : Keeps s0 a0) : Keeps s0 (nmcWrite a0 a1 a2 a3 a4) := by
  unfold nmcWrite
  repeat' (first | with_reducible (first | assumption | intro _ | apply keep_cntAdd | apply keep_dropStale | apply keep_dropTransom | apply keep_fSet | apply keep_modNmc | apply keep_nmcFill | apply keep_nmcMark | apply keep_trainTrackers | apply keep_wroteHbm | apply Keeps.ite | apply Keeps.iteFst | apply Keeps.foldl | apply Keeps.foldlFst | apply Keeps.elim) | split | with_reducible (apply Keeps.pair; assumption) | dsimp only)

theorem keep_breakCores {s0 : Node} {a0 a1 a2 a3} (h0 : Keeps s0 a0) : Keeps s0 (breakCores a0 a1 a2 a3) := by
  unfold breakCores
  repeat' (first | with_reducible (first | assumption | intro _ | apply keep_modDie | apply Keeps.ite | apply Keeps.iteFst | apply Keeps.foldl | apply Keeps.foldlFst | apply Keeps.elim) | split | with_reducible (apply Keeps.pair; assumption) | dsimp only)

theorem keep_weakenCores {s0 : Node} {a0 a1 a2} (h0 : Keeps s0 a0) : Keeps s0 (weakenCores a0 a1 a2) := by
  unfold weakenCores
  repeat' (first | with_reducible (first | assumption | intro _ | apply keep_modDie | apply Keeps.ite | apply Keeps.iteFst | apply Keeps.foldl | apply Keeps.foldlFst | apply Keeps.elim) | split | with_reducible (apply Keeps.pair; assumption) | dsimp only)

theorem keep_setHold {s0 : Node} {a0 a1 a2 a3} (h0 : Keeps s0 a0) : Keeps s0 (setHold a0 a1 a2 a3) := by
  unfold setHold
  repeat' (first | with_reducible (first | assumption | intro _ | apply keep_breakCores | apply keep_dropAlt | apply keep_modCache | apply keep_noteCopy | apply keep_weakenCores | apply Keeps.ite | apply Keeps.iteFst | apply Keeps.foldl | apply Keeps.foldlFst | apply Keeps.elim) | split | with_reducible (apply Keeps.pair; assumption) | dsimp only)

theorem keep_mergeStore {s0 : Node} {a0 a1 a2 a3} (h0 : Keeps s0 a0) : Keeps s0 (mergeStore a0 a1 a2 a3) := by
  unfold mergeStore
  repeat' (first | with_reducible (first | assumption | intro _ | apply keep_modCache | apply keep_writeList | apply Keeps.ite | apply Keeps.iteFst | apply Keeps.foldl | apply Keeps.foldlFst | apply Keeps.elim) | split | with_reducible (apply Keeps.pair; assumption) | dsimp only | ((with_reducible apply Keeps.rcd); (on_goal 2 => rfl); (on_goal 2 => rfl)))

theorem keep_atHome {s0 : Node} {a0 a1} (h0 : Keeps s0 a0) : Keeps s0 (atHome a0 a1) := by
  unfold atHome
  repeat' (first | with_reducible (first | assumption | intro _ | apply keep_modCache | apply keep_modDir | apply Keeps.ite | apply Keeps.iteFst | apply Keeps.foldl | apply Keeps.foldlFst | apply Keeps.elim) | split | with_reducible (apply Keeps.pair; assumption) | dsimp only)

theorem keep_sendHome {s0 : Node} {a0 a1} (h0 : Keeps s0 a0) : Keeps s0 (sendHome a0 a1) := by
  unfold sendHome
  repeat' (first | with_reducible (first | assumption | intro _ | apply keep_atHome | apply keep_modNet | apply Keeps.ite | apply Keeps.iteFst | apply Keeps.foldl | apply Keeps.foldlFst | apply Keeps.elim) | split | with_reducible (apply Keeps.pair; assumption) | dsimp only)

theorem keep_sendMiss {s0 : Node} {a0 a1 a2 a3 a4} (h0 : Keeps s0 a0) : Keeps s0 (sendMiss a0 a1 a2 a3 a4) := by
  unfold sendMiss
  repeat' (first | with_reducible (first | assumption | intro _ | apply keep_modCache | apply keep_sendHome | apply Keeps.ite | apply Keeps.iteFst | apply Keeps.foldl | apply Keeps.foldlFst | apply Keeps.elim) | split | with_reducible (apply Keeps.pair; assumption) | dsimp only)

theorem keep_askLine {s0 : Node} {a0 a1 a2 a3 a4} (h0 : Keeps s0 a0) : Keeps s0 (askLine a0 a1 a2 a3 a4) := by
  unfold askLine
  repeat' (first | with_reducible (first | assumption | intro _ | apply keep_cntAdd | apply keep_sendMiss | apply Keeps.ite | apply Keeps.iteFst | apply Keeps.foldl | apply Keeps.foldlFst | apply Keeps.elim) | split | with_reducible (apply Keeps.pair; assumption) | dsimp only)

theorem keep_askOnce {s0 : Node} {a0 a1 a2 a3 a4} (h0 : Keeps s0 a0) : Keeps s0 (askOnce a0 a1 a2 a3 a4) := by
  unfold askOnce
  repeat' (first | with_reducible (first | assumption | intro _ | apply keep_askLine | apply Keeps.ite | apply Keeps.iteFst | apply Keeps.foldl | apply Keeps.foldlFst | apply Keeps.elim) | split | with_reducible (apply Keeps.pair; assumption) | dsimp only)

theorem keep_l2Room {s0 : Node} {a0 a1 a2 a3} (h0 : Keeps s0 a0) : Keeps s0 (l2Room a0 a1 a2 a3) := by
  unfold l2Room
  repeat' (first | with_reducible (first | assumption | intro _ | apply keep_modCache | apply keep_modCore | apply Keeps.ite | apply Keeps.iteFst | apply Keeps.foldl | apply Keeps.foldlFst | apply Keeps.elim) | split | with_reducible (apply Keeps.pair; assumption) | dsimp only)

theorem keep_coreTake {s0 : Node} {a0 a1 a2 a3 a4 a5} (h0 : Keeps s0 a0) : Keeps s0 (coreTake a0 a1 a2 a3 a4 a5) := by
  unfold coreTake
  repeat' (first | with_reducible (first | assumption | intro _ | apply keep_l2Room | apply keep_modCore | apply Keeps.ite | apply Keeps.iteFst | apply Keeps.foldl | apply Keeps.foldlFst | apply Keeps.elim) | split | with_reducible (apply Keeps.pair; assumption) | dsimp only)

theorem keep_noteCore {s0 : Node} {a0 a1 a2 a3 a4} (h0 : Keeps s0 a0) : Keeps s0 (noteCore a0 a1 a2 a3 a4) := by
  unfold noteCore
  repeat' (first | with_reducible (first | assumption | intro _ | apply keep_coreTake | apply keep_modCache | apply keep_weakenCores | apply Keeps.ite | apply Keeps.iteFst | apply Keeps.foldl | apply Keeps.foldlFst | apply Keeps.elim) | split | with_reducible (apply Keeps.pair; assumption) | dsimp only)

theorem keep_noteCores {s0 : Node} {a0 a1 a2 a3} (h0 : Keeps s0 a0) : Keeps s0 (noteCores a0 a1 a2 a3) := by
  unfold noteCores
  repeat' (first | with_reducible (first | assumption | intro _ | apply keep_noteCore | apply Keeps.ite | apply Keeps.iteFst | apply Keeps.foldl | apply Keeps.foldlFst | apply Keeps.elim) | split | with_reducible (apply Keeps.pair; assumption) | dsimp only)

theorem keep_soleCore {s0 : Node} {a0 a1 a2 a3} (h0 : Keeps s0 a0) : Keeps s0 (soleCore a0 a1 a2 a3) := by
  unfold soleCore
  repeat' (first | with_reducible (first | assumption | intro _ | apply keep_breakCores | apply keep_coreTake | apply keep_modCache | apply Keeps.ite | apply Keeps.iteFst | apply Keeps.foldl | apply Keeps.foldlFst | apply Keeps.elim) | split | with_reducible (apply Keeps.pair; assumption) | dsimp only)

theorem keep_touchRead {s0 : Node} {a0 a1 a2 a3} (h0 : Keeps s0 a0) : Keeps s0 (touchRead a0 a1 a2 a3) := by
  unfold touchRead
  repeat' (first | with_reducible (first | assumption | intro _ | apply keep_askLine | apply keep_cntAdd | apply Keeps.ite | apply Keeps.iteFst | apply Keeps.foldl | apply Keeps.foldlFst | apply Keeps.elim) | split | with_reducible (apply Keeps.pair; assumption) | dsimp only)

theorem keep_storeLineBy {s0 : Node} {a0 a1 a2 a3 a4 a5 a6 a7} (h1 : Keeps s0 a1) : Keeps s0 (storeLineBy a0 a1 a2 a3 a4 a5 a6 a7) := by
  unfold storeLineBy
  repeat' (first | with_reducible (first | assumption | intro _ | apply keep_askLine | apply keep_cntAdd | apply keep_mergeStore | apply keep_modCache | apply keep_setHold | apply keep_soleCore | apply Keeps.ite | apply Keeps.iteFst | apply Keeps.foldl | apply Keeps.foldlFst | apply Keeps.elim) | split | with_reducible (apply Keeps.pair; assumption) | dsimp only)

theorem keep_storeLine {s0 : Node} {a0 a1 a2 a3 a4 a5 a6} (h0 : Keeps s0 a0) : Keeps s0 (storeLine a0 a1 a2 a3 a4 a5 a6) := by
  unfold storeLine
  repeat' (first | with_reducible (first | assumption | intro _ | apply keep_storeLineBy | apply Keeps.ite | apply Keeps.iteFst | apply Keeps.foldl | apply Keeps.foldlFst | apply Keeps.elim) | split | with_reducible (apply Keeps.pair; assumption) | dsimp only)

theorem keep_startRemoteBy {s0 : Node} {a0 a1 a2 a3 a4 a5 a6 a7 a8 a9} (h1 : Keeps s0 a1) : Keeps s0 (startRemoteBy a0 a1 a2 a3 a4 a5 a6 a7 a8 a9).1 := by
  unfold startRemoteBy
  repeat' (first | with_reducible (first | assumption | intro _ | apply Keeps.ite | apply Keeps.iteFst | apply Keeps.foldl | apply Keeps.foldlFst | apply Keeps.elim) | split | with_reducible (apply Keeps.pair; assumption) | dsimp only | ((with_reducible apply Keeps.rcd); (on_goal 2 => rfl); (on_goal 2 => rfl)))

theorem keep_startRemote {s0 : Node} {a0 a1 a2 a3 a4 a5 a6 a7 a8} (h0 : Keeps s0 a0) : Keeps s0 (startRemote a0 a1 a2 a3 a4 a5 a6 a7 a8).1 := by
  unfold startRemote
  repeat' (first | with_reducible (first | assumption | intro _ | apply keep_startRemoteBy | apply Keeps.ite | apply Keeps.iteFst | apply Keeps.foldl | apply Keeps.foldlFst | apply Keeps.elim) | split | with_reducible (apply Keeps.pair; assumption) | dsimp only | ((with_reducible apply Keeps.rcd); (on_goal 2 => rfl); (on_goal 2 => rfl)))

theorem keep_askRun {s0 : Node} {a0 a1 a2 a3 a4 a5} (h1 : Keeps s0 a1) : Keeps s0 (askRun a0 a1 a2 a3 a4 a5) := by
  unfold askRun
  repeat' (first | with_reducible (first | assumption | intro _ | apply keep_startRemoteBy | apply Keeps.ite | apply Keeps.iteFst | apply Keeps.foldl | apply Keeps.foldlFst | apply Keeps.elim) | split | with_reducible (apply Keeps.pair; assumption) | dsimp only)

theorem keep_takeRemote {s0 : Node} {a0 a1} (h0 : Keeps s0 a0) : Keeps s0 (takeRemote a0 a1) := by
  unfold takeRemote
  repeat' (first | with_reducible (first | assumption | intro _ | apply Keeps.ite | apply Keeps.iteFst | apply Keeps.foldl | apply Keeps.foldlFst | apply Keeps.elim) | split | with_reducible (apply Keeps.pair; assumption) | dsimp only | ((with_reducible apply Keeps.rcd); (on_goal 2 => rfl); (on_goal 2 => rfl)))

theorem keep_logRemote {s0 : Node} {a0 a1 a2 a3 a4 a5} (h0 : Keeps s0 a0) : Keeps s0 (logRemote a0 a1 a2 a3 a4 a5) := by
  unfold logRemote
  repeat' (first | with_reducible (first | assumption | intro _ | apply keep_logErr | apply Keeps.ite | apply Keeps.iteFst | apply Keeps.foldl | apply Keeps.foldlFst | apply Keeps.elim) | split | with_reducible (apply Keeps.pair; assumption) | dsimp only)

theorem keep_stopRemoteAt {s0 : Node} {a0 a1 a2 a3 a4 a5} (h0 : Keeps s0 a0) : Keeps s0 (stopRemoteAt a0 a1 a2 a3 a4 a5) := by
  unfold stopRemoteAt
  repeat' (first | with_reducible (first | assumption | intro _ | apply keep_halt | apply keep_logRemote | apply keep_stopPoisonAt | apply Keeps.ite | apply Keeps.iteFst | apply Keeps.foldl | apply Keeps.foldlFst | apply Keeps.elim) | split | with_reducible (apply Keeps.pair; assumption) | dsimp only)

theorem keep_stopRemote {s0 : Node} {a0 a1 a2 a3 a4} (h0 : Keeps s0 a0) : Keeps s0 (stopRemote a0 a1 a2 a3 a4) := by
  unfold stopRemote
  repeat' (first | with_reducible (first | assumption | intro _ | apply keep_stopRemoteAt | apply Keeps.ite | apply Keeps.iteFst | apply Keeps.foldl | apply Keeps.foldlFst | apply Keeps.elim) | split | with_reducible (apply Keeps.pair; assumption) | dsimp only)

theorem keep_dictSet {s0 : Node} {a0 a1 a2 a3} (h0 : Keeps s0 a0) : Keeps s0 (dictSet a0 a1 a2 a3) := by
  unfold dictSet
  repeat' (first | with_reducible (first | assumption | intro _ | apply Keeps.ite | apply Keeps.iteFst | apply Keeps.foldl | apply Keeps.foldlFst | apply Keeps.elim) | split | with_reducible (apply Keeps.pair; assumption) | dsimp only | ((with_reducible apply Keeps.rcd); (on_goal 2 => rfl); (on_goal 2 => rfl)))

theorem keep_dictSetNat {s0 : Node} {a0 a1 a2 a3} (h0 : Keeps s0 a0) : Keeps s0 (dictSetNat a0 a1 a2 a3) := by
  unfold dictSetNat
  repeat' (first | with_reducible (first | assumption | intro _ | apply keep_dictSet | apply Keeps.ite | apply Keeps.iteFst | apply Keeps.foldl | apply Keeps.foldlFst | apply Keeps.elim) | split | with_reducible (apply Keeps.pair; assumption) | dsimp only)

theorem keep_countCorrected {s0 : Node} {a0 a1 a2 a3 a4 a5} (h0 : Keeps s0 a0) : Keeps s0 (countCorrected a0 a1 a2 a3 a4 a5) := by
  unfold countCorrected
  repeat' (first | with_reducible (first | assumption | intro _ | apply keep_cntAdd | apply keep_logErr | apply Keeps.ite | apply Keeps.iteFst | apply Keeps.foldl | apply Keeps.foldlFst | apply Keeps.elim) | split | with_reducible (apply Keeps.pair; assumption) | dsimp only | ((with_reducible apply Keeps.rcd); (on_goal 2 => rfl); (on_goal 2 => rfl)))

theorem keep_poisonHbm {s0 : Node} {a0 a1} (h0 : Keeps s0 a0) : Keeps s0 (poisonHbm a0 a1) := by
  unfold poisonHbm
  repeat' (first | with_reducible (first | assumption | intro _ | apply keep_wroteHbm | apply Keeps.ite | apply Keeps.iteFst | apply Keeps.foldl | apply Keeps.foldlFst | apply Keeps.elim) | split | with_reducible (apply Keeps.pair; assumption) | dsimp only | ((with_reducible apply Keeps.rcd); (on_goal 2 => rfl); (on_goal 2 => rfl)))

theorem keep_hbmUncorrectable {s0 : Node} {a0 a1 a2 a3} (h0 : Keeps s0 a0) : Keeps s0 (hbmUncorrectable a0 a1 a2 a3) := by
  unfold hbmUncorrectable
  repeat' (first | with_reducible (first | assumption | intro _ | apply keep_cntAdd | apply keep_logErr | apply keep_poisonHbm | apply Keeps.ite | apply Keeps.iteFst | apply Keeps.foldl | apply Keeps.foldlFst | apply Keeps.elim) | split | with_reducible (apply Keeps.pair; assumption) | dsimp only)

theorem keep_classifyRead {s0 : Node} {a0 a1 a2 a3 a4} (h0 : Keeps s0 a0) : Keeps s0 (classifyRead a0 a1 a2 a3 a4) := by
  unfold classifyRead
  repeat' (first | with_reducible (first | assumption | intro _ | apply keep_cntAdd | apply keep_countCorrected | apply keep_hbmUncorrectable | apply keep_poisonHbm | apply Keeps.ite | apply Keeps.iteFst | apply Keeps.foldl | apply Keeps.foldlFst | apply Keeps.elim) | split | with_reducible (apply Keeps.pair; assumption) | dsimp only)

theorem keep_execHbmReadComplete {s0 : Node} {a0 a1 a2 a3} (h3 : Keeps s0 a3.node) : KeepsS s0 (execHbmReadComplete a0 a1 a2 a3) := by
  unfold execHbmReadComplete
  repeat' (first | with_reducible (first | assumption | intro _ | apply keep_classifyRead | apply keep_onBase | apply keep_onNode | apply keep_onServed | apply KeepsO.next | apply KeepsO.fault | apply KeepsO.ite | apply Keeps.ite | apply Keeps.iteFst | apply Keeps.foldl | apply Keeps.foldlFst | apply Keeps.elim) | split | with_reducible (apply Keeps.pair; assumption) | dsimp only)

theorem keep_execPatrolScrub {s0 : Node} {a0 a1 a2 a3} (h3 : Keeps s0 a3.node) : KeepsS s0 (execPatrolScrub a0 a1 a2 a3) := by
  unfold execPatrolScrub
  repeat' (first | with_reducible (first | assumption | intro _ | apply keep_classifyRead | apply keep_cntAdd | apply keep_onBase | apply keep_onNode | apply keep_onServed | apply KeepsO.next | apply KeepsO.fault | apply KeepsO.ite | apply Keeps.ite | apply Keeps.iteFst | apply Keeps.foldl | apply Keeps.foldlFst | apply Keeps.elim) | split | with_reducible (apply Keeps.pair; assumption) | dsimp only)

theorem keep_setStackState {s0 : Node} {a0 a1 a2} (h0 : Keeps s0 a0) : Keeps s0 (setStackState a0 a1 a2) := by
  unfold setStackState
  repeat' (first | with_reducible (first | assumption | intro _ | apply keep_regSet | apply Keeps.ite | apply Keeps.iteFst | apply Keeps.foldl | apply Keeps.foldlFst | apply Keeps.elim) | split | with_reducible (apply Keeps.pair; assumption) | dsimp only)

theorem keep_execHbmStackLost {s0 : Node} {a0 a1} (h1 : Keeps s0 a1.node) : KeepsS s0 (execHbmStackLost a0 a1) := by
  unfold execHbmStackLost
  repeat' (first | with_reducible (first | assumption | intro _ | apply keep_logErr | apply keep_onUnit | apply keep_setStackState | apply keep_onNode | apply keep_onServed | apply KeepsO.next | apply KeepsO.fault | apply KeepsO.ite | apply Keeps.ite | apply Keeps.iteFst | apply Keeps.foldl | apply Keeps.foldlFst | apply Keeps.elim) | split | with_reducible (apply Keeps.pair; assumption) | dsimp only | ((with_reducible apply Keeps.rcd); (on_goal 2 => rfl); (on_goal 2 => rfl)))

theorem keep_transomPush {s0 : Node} {a0 a1 a2} (h0 : Keeps s0 a0) : Keeps s0 (transomPush a0 a1 a2) := by
  unfold transomPush
  repeat' (first | with_reducible (first | assumption | intro _ | apply keep_cntAdd | apply keep_modNmc | apply Keeps.ite | apply Keeps.iteFst | apply Keeps.foldl | apply Keeps.foldlFst | apply Keeps.elim) | split | with_reducible (apply Keeps.pair; assumption) | dsimp only)

theorem keep_execPrefetchReturn {s0 : Node} {a0 a1 a2} (h2 : Keeps s0 a2.node) : KeepsS s0 (execPrefetchReturn a0 a1 a2) := by
  unfold execPrefetchReturn
  repeat' (first | with_reducible (first | assumption | intro _ | apply keep_modNmc | apply keep_onBase | apply keep_transomPush | apply keep_onNode | apply keep_onServed | apply KeepsO.next | apply KeepsO.fault | apply KeepsO.ite | apply Keeps.ite | apply Keeps.iteFst | apply Keeps.foldl | apply Keeps.foldlFst | apply Keeps.elim) | split | with_reducible (apply Keeps.pair; assumption) | dsimp only)

theorem keep_nmcClean {s0 : Node} {a0 a1} (h0 : Keeps s0 a0) : Keeps s0 (nmcClean a0 a1) := by
  unfold nmcClean
  repeat' (first | with_reducible (first | assumption | intro _ | apply keep_modNmc | apply Keeps.ite | apply Keeps.iteFst | apply Keeps.foldl | apply Keeps.foldlFst | apply Keeps.elim) | split | with_reducible (apply Keeps.pair; assumption) | dsimp only)

theorem keep_loseContents {s0 : Node} {a0 a1} (h0 : Keeps s0 a0) : Keeps s0 (loseContents a0 a1) := by
  unfold loseContents
  repeat' (first | with_reducible (first | assumption | intro _ | apply keep_writeBytes | apply Keeps.ite | apply Keeps.iteFst | apply Keeps.foldl | apply Keeps.foldlFst | apply Keeps.elim) | split | with_reducible (apply Keeps.pair; assumption) | dsimp only | ((with_reducible apply Keeps.rcd); (on_goal 2 => rfl); (on_goal 2 => rfl)))

theorem keep_stopPrefetch {s0 : Node} {a0 a1} (h0 : Keeps s0 a0) : Keeps s0 (stopPrefetch a0 a1) := by
  unfold stopPrefetch
  repeat' (first | with_reducible (first | assumption | intro _ | apply keep_cntAdd | apply keep_modNmc | apply Keeps.ite | apply Keeps.iteFst | apply Keeps.foldl | apply Keeps.foldlFst | apply Keeps.elim) | split | with_reducible (apply Keeps.pair; assumption) | dsimp only)

theorem keep_nmcDieLost {s0 : Node} {a0 a1} (h0 : Keeps s0 a0) : Keeps s0 (nmcDieLost a0 a1) := by
  unfold nmcDieLost
  repeat' (first | with_reducible (first | assumption | intro _ | apply keep_faultBlock | apply keep_logErr | apply keep_loseContents | apply keep_nmcClean | apply keep_stopPrefetch | apply Keeps.ite | apply Keeps.iteFst | apply Keeps.foldl | apply Keeps.foldlFst | apply Keeps.elim) | split | with_reducible (apply Keeps.pair; assumption) | dsimp only | ((with_reducible apply Keeps.rcd); (on_goal 2 => rfl); (on_goal 2 => rfl)))

theorem keep_execNmcDieLost {s0 : Node} {a0 a1} (h1 : Keeps s0 a1.node) : KeepsS s0 (execNmcDieLost a0 a1) := by
  unfold execNmcDieLost
  repeat' (first | with_reducible (first | assumption | intro _ | apply keep_nmcDieLost | apply keep_onBase | apply keep_onNode | apply keep_onServed | apply KeepsO.next | apply KeepsO.fault | apply KeepsO.ite | apply Keeps.ite | apply Keeps.iteFst | apply Keeps.foldl | apply Keeps.foldlFst | apply Keeps.elim) | split | with_reducible (apply Keeps.pair; assumption) | dsimp only | ((with_reducible apply Keeps.rcd); (on_goal 2 => rfl); (on_goal 2 => rfl)))

theorem keep_nmcUeSeen {s0 : Node} {a0 a1} (h0 : Keeps s0 a0) : Keeps s0 (nmcUeSeen a0 a1) := by
  unfold nmcUeSeen
  repeat' (first | with_reducible (first | assumption | intro _ | apply keep_modNmc | apply keep_nmcDieLost | apply Keeps.ite | apply Keeps.iteFst | apply Keeps.foldl | apply Keeps.foldlFst | apply Keeps.elim) | split | with_reducible (apply Keeps.pair; assumption) | dsimp only)

theorem keep_nmcInvalidate {s0 : Node} {a0 a1} (h0 : Keeps s0 a0) : Keeps s0 (nmcInvalidate a0 a1) := by
  unfold nmcInvalidate
  repeat' (first | with_reducible (first | assumption | intro _ | apply keep_fSet | apply Keeps.ite | apply Keeps.iteFst | apply Keeps.foldl | apply Keeps.foldlFst | apply Keeps.elim) | split | with_reducible (apply Keeps.pair; assumption) | dsimp only)

theorem keep_nmcEnable {s0 : Node} {a0 a1 a2} (h0 : Keeps s0 a0) : Keeps s0 (nmcEnable a0 a1 a2) := by
  unfold nmcEnable
  repeat' (first | with_reducible (first | assumption | intro _ | apply keep_enableWrite | apply keep_fSet | apply keep_stopPrefetch | apply Keeps.ite | apply Keeps.iteFst | apply Keeps.foldl | apply Keeps.foldlFst | apply Keeps.elim) | split | with_reducible (apply Keeps.pair; assumption) | dsimp only)

theorem keep_nmcCtrlWrite {s0 : Node} {a0 a1 a2} (h0 : Keeps s0 a0) : Keeps s0 (nmcCtrlWrite a0 a1 a2) := by
  unfold nmcCtrlWrite
  repeat' (first | with_reducible (first | assumption | intro _ | apply keep_nmcEnable | apply keep_nmcInvalidate | apply Keeps.ite | apply Keeps.iteFst | apply Keeps.foldl | apply Keeps.foldlFst | apply Keeps.elim) | split | with_reducible (apply Keeps.pair; assumption) | dsimp only)

theorem keep_execNmcEnableWrite {s0 : Node} {a0 a1 a2} (h2 : Keeps s0 a2.node) : KeepsS s0 (execNmcEnableWrite a0 a1 a2) := by
  unfold execNmcEnableWrite
  repeat' (first | with_reducible (first | assumption | intro _ | apply keep_nmcCtrlWrite | apply keep_onBase | apply keep_withResp | apply keep_onNode | apply keep_onServed | apply KeepsO.next | apply KeepsO.fault | apply KeepsO.ite | apply Keeps.ite | apply Keeps.iteFst | apply Keeps.foldl | apply Keeps.foldlFst | apply Keeps.elim) | split | with_reducible (apply Keeps.pair; assumption) | dsimp only)

theorem keep_execNmcInvWrite {s0 : Node} {a0 a1 a2} (h2 : Keeps s0 a2.node) : KeepsS s0 (execNmcInvWrite a0 a1 a2) := by
  unfold execNmcInvWrite
  repeat' (first | with_reducible (first | assumption | intro _ | apply keep_nmcCtrlWrite | apply keep_onBase | apply keep_withResp | apply keep_onNode | apply keep_onServed | apply KeepsO.next | apply KeepsO.fault | apply KeepsO.ite | apply Keeps.ite | apply Keeps.iteFst | apply Keeps.foldl | apply Keeps.foldlFst | apply Keeps.elim) | split | with_reducible (apply Keeps.pair; assumption) | dsimp only)

theorem keep_execNmcWritebackDone {s0 : Node} {a0 a1} (h1 : Keeps s0 a1.node) : KeepsS s0 (execNmcWritebackDone a0 a1) := by
  unfold execNmcWritebackDone
  repeat' (first | with_reducible (first | assumption | intro _ | apply keep_cntAdd | apply keep_modNmc | apply keep_nmcClean | apply keep_onBase | apply keep_ownStepEnds | apply keep_wroteHbm | apply keep_onNode | apply keep_onServed | apply KeepsO.next | apply KeepsO.fault | apply KeepsO.ite | apply Keeps.ite | apply Keeps.iteFst | apply Keeps.foldl | apply Keeps.foldlFst | apply Keeps.elim) | split | with_reducible (apply Keeps.pair; assumption) | dsimp only)

theorem keep_execNmcInvDone {s0 : Node} {a0 a1} (h1 : Keeps s0 a1.node) : KeepsS s0 (execNmcInvDone a0 a1) := by
  unfold execNmcInvDone
  repeat' (first | with_reducible (first | assumption | intro _ | apply keep_fSet | apply keep_modNmc | apply keep_onBase | apply keep_onNode | apply keep_onServed | apply KeepsO.next | apply KeepsO.fault | apply KeepsO.ite | apply Keeps.ite | apply Keeps.iteFst | apply Keeps.foldl | apply Keeps.foldlFst | apply Keeps.elim) | split | with_reducible (apply Keeps.pair; assumption) | dsimp only | ((with_reducible apply Keeps.rcd); (on_goal 2 => rfl); (on_goal 2 => rfl)))

theorem keep_execNmcSeedWrite {s0 : Node} {a0 a1 a2} (h2 : Keeps s0 a2.node) : KeepsS s0 (execNmcSeedWrite a0 a1 a2) := by
  unfold execNmcSeedWrite
  repeat' (first | with_reducible (first | assumption | intro _ | apply keep_modNmc | apply keep_onBase | apply keep_storeReg | apply keep_withResp | apply keep_onNode | apply keep_onServed | apply KeepsO.next | apply KeepsO.fault | apply KeepsO.ite | apply Keeps.ite | apply Keeps.iteFst | apply Keeps.foldl | apply Keeps.foldlFst | apply Keeps.elim) | split | with_reducible (apply Keeps.pair; assumption) | dsimp only)

theorem keep_modMiss {s0 : Node} {a0 a1 a2 a3} (h0 : Keeps s0 a0) : Keeps s0 (modMiss a0 a1 a2 a3) := by
  unfold modMiss
  repeat' (first | with_reducible (first | assumption | intro _ | apply keep_modCache | apply Keeps.ite | apply Keeps.iteFst | apply Keeps.foldl | apply Keeps.foldlFst | apply Keeps.elim) | split | with_reducible (apply Keeps.pair; assumption) | dsimp only)

theorem keep_evictLine {s0 : Node} {a0 a1 a2} (h0 : Keeps s0 a0) : Keeps s0 (evictLine a0 a1 a2) := by
  unfold evictLine
  repeat' (first | with_reducible (first | assumption | intro _ | apply keep_cntAdd | apply keep_modCache | apply keep_sendHome | apply keep_setHold | apply Keeps.ite | apply Keeps.iteFst | apply Keeps.foldl | apply Keeps.foldlFst | apply Keeps.elim) | split | with_reducible (apply Keeps.pair; assumption) | dsimp only)

theorem keep_setSnoopSt {s0 : Node} {a0 a1 a2 a3} (h0 : Keeps s0 a0) : Keeps s0 (setSnoopSt a0 a1 a2 a3) := by
  unfold setSnoopSt
  repeat' (first | with_reducible (first | assumption | intro _ | apply keep_modCache | apply keep_setHold | apply Keeps.ite | apply Keeps.iteFst | apply Keeps.foldl | apply Keeps.foldlFst | apply Keeps.elim) | split | with_reducible (apply Keeps.pair; assumption) | dsimp only)

theorem keep_modTxn {s0 : Node} {a0 a1 a2 a3} (h0 : Keeps s0 a0) : Keeps s0 (modTxn a0 a1 a2 a3) := by
  unfold modTxn
  repeat' (first | with_reducible (first | assumption | intro _ | apply keep_modDir | apply Keeps.ite | apply Keeps.iteFst | apply Keeps.foldl | apply Keeps.foldlFst | apply Keeps.elim) | split | with_reducible (apply Keeps.pair; assumption) | dsimp only)

theorem keep_endTxn {s0 : Node} {a0 a1 a2} (h0 : Keeps s0 a0) : Keeps s0 (endTxn a0 a1 a2) := by
  unfold endTxn
  repeat' (first | with_reducible (first | assumption | intro _ | apply keep_modDir | apply Keeps.ite | apply Keeps.iteFst | apply Keeps.foldl | apply Keeps.foldlFst | apply Keeps.elim) | split | with_reducible (apply Keeps.pair; assumption) | dsimp only)

theorem keep_loseLine {s0 : Node} {a0 a1} (h0 : Keeps s0 a0) : Keeps s0 (loseLine a0 a1) := by
  unfold loseLine
  repeat' (first | with_reducible (first | assumption | intro _ | apply keep_cntAdd | apply keep_logErr | apply keep_modEntry | apply keep_nmcWrite | apply keep_setHold | apply Keeps.ite | apply Keeps.iteFst | apply Keeps.foldl | apply Keeps.foldlFst | apply Keeps.elim) | split | with_reducible (apply Keeps.pair; assumption) | dsimp only)

theorem keep_fenceLine {s0 : Node} {a0 a1 a2} (h0 : Keeps s0 a0) : Keeps s0 (fenceLine a0 a1 a2) := by
  unfold fenceLine
  repeat' (first | with_reducible (first | assumption | intro _ | apply keep_loseLine | apply keep_modCache | apply keep_modEntry | apply keep_setSnoopSt | apply Keeps.ite | apply Keeps.iteFst | apply Keeps.foldl | apply Keeps.foldlFst | apply Keeps.elim) | split | with_reducible (apply Keeps.pair; assumption) | dsimp only)

theorem keep_purgeFenced {s0 : Node} {a0 a1} (h0 : Keeps s0 a0) : Keeps s0 (purgeFenced a0 a1) := by
  unfold purgeFenced
  repeat' (first | with_reducible (first | assumption | intro _ | apply keep_fenceLine | apply Keeps.ite | apply Keeps.iteFst | apply Keeps.foldl | apply Keeps.foldlFst | apply Keeps.elim) | split | with_reducible (apply Keeps.pair; assumption) | dsimp only)

theorem keep_sendSnoops {s0 : Node} {a0 a1 a2 a3} (h0 : Keeps s0 a0) : Keeps s0 (sendSnoops a0 a1 a2 a3) := by
  unfold sendSnoops
  repeat' (first | with_reducible (first | assumption | intro _ | apply keep_modDir | apply Keeps.ite | apply Keeps.iteFst | apply Keeps.foldl | apply Keeps.foldlFst | apply Keeps.elim) | split | with_reducible (apply Keeps.pair; assumption) | dsimp only)

theorem keep_closeFenced {s0 : Node} {a0 a1} (h0 : Keeps s0 a0) : Keeps s0 (closeFenced a0 a1) := by
  unfold closeFenced
  repeat' (first | with_reducible (first | assumption | intro _ | apply keep_loseLine | apply keep_modEntry | apply Keeps.ite | apply Keeps.iteFst | apply Keeps.foldl | apply Keeps.foldlFst | apply Keeps.elim) | split | with_reducible (apply Keeps.pair; assumption) | dsimp only)

theorem keep_answerTo {s0 : Node} {a0 a1 a2} (h0 : Keeps s0 a0) : Keeps s0 (answerTo a0 a1 a2) := by
  unfold answerTo
  repeat' (first | with_reducible (first | assumption | intro _ | apply keep_withResp | apply Keeps.ite | apply Keeps.iteFst | apply Keeps.foldl | apply Keeps.foldlFst | apply Keeps.elim) | split | with_reducible (apply Keeps.pair; assumption) | dsimp only)

theorem keep_giveData {s0 : Node} {a0 a1 a2 a3 a4 a5} (h0 : Keeps s0 a0) : Keeps s0 (giveData a0 a1 a2 a3 a4 a5) := by
  unfold giveData
  repeat' (first | with_reducible (first | assumption | intro _ | apply keep_giveCopy | apply keep_modMiss | apply Keeps.ite | apply Keeps.iteFst | apply Keeps.foldl | apply Keeps.foldlFst | apply Keeps.elim) | split | with_reducible (apply Keeps.pair; assumption) | dsimp only)

theorem keep_closeReq {s0 : Node} {a0 a1 a2} (h0 : Keeps s0 a0) : Keeps s0 (closeReq a0 a1 a2).1 := by
  unfold closeReq
  repeat' (first | with_reducible (first | assumption | intro _ | apply keep_answerTo | apply keep_closeFenced | apply keep_endTxn | apply keep_giveData | apply keep_modEntry | apply keep_modMiss | apply keep_modTxn | apply keep_nmcRead | apply keep_nmcWrite | apply keep_noteMemory | apply keep_writeBytes | apply keep_writeList | apply Keeps.ite | apply Keeps.iteFst | apply Keeps.foldl | apply Keeps.foldlFst | apply Keeps.elim) | split | with_reducible (apply Keeps.pair; assumption) | dsimp only)

theorem keep_takeEviction {s0 : Node} {a0 a1} (h0 : Keeps s0 a0) : Keeps s0 (takeEviction a0 a1) := by
  unfold takeEviction
  repeat' (first | with_reducible (first | assumption | intro _ | apply keep_modCache | apply keep_modEntry | apply keep_nmcWrite | apply Keeps.ite | apply Keeps.iteFst | apply Keeps.foldl | apply Keeps.foldlFst | apply Keeps.elim) | split | with_reducible (apply Keeps.pair; assumption) | dsimp only)

theorem keep_startRecall {s0 : Node} {a0 a1 a2 a3 a4 a5} (h0 : Keeps s0 a0) : Keeps s0 (startRecall a0 a1 a2 a3 a4 a5) := by
  unfold startRecall
  repeat' (first | with_reducible (first | assumption | intro _ | apply keep_modDir | apply keep_sendSnoops | apply Keeps.ite | apply Keeps.iteFst | apply Keeps.foldl | apply Keeps.foldlFst | apply Keeps.elim) | split | with_reducible (apply Keeps.pair; assumption) | dsimp only)

theorem keep_endRecall {s0 : Node} {a0 a1 a2} (h0 : Keeps s0 a0) : Keeps s0 (endRecall a0 a1 a2) := by
  unfold endRecall
  repeat' (first | with_reducible (first | assumption | intro _ | apply keep_endTxn | apply keep_logErr | apply keep_modEntry | apply Keeps.ite | apply Keeps.iteFst | apply Keeps.foldl | apply Keeps.foldlFst | apply Keeps.elim) | split | with_reducible (apply Keeps.pair; assumption) | dsimp only)

theorem keep_popReq {s0 : Node} {a0 a1 a2} (h0 : Keeps s0 a0) : Keeps s0 (popReq a0 a1 a2) := by
  unfold popReq
  repeat' (first | with_reducible (first | assumption | intro _ | apply keep_modDir | apply Keeps.ite | apply Keeps.iteFst | apply Keeps.foldl | apply Keeps.foldlFst | apply Keeps.elim) | split | with_reducible (apply Keeps.pair; assumption) | dsimp only)

theorem keep_openTxn {s0 : Node} {a0 a1 a2} (h0 : Keeps s0 a0) : Keeps s0 (openTxn a0 a1 a2).1 := by
  unfold openTxn
  repeat' (first | with_reducible (first | assumption | intro _ | apply keep_modDir | apply keep_modMiss | apply keep_sendSnoops | apply Keeps.ite | apply Keeps.iteFst | apply Keeps.foldl | apply Keeps.foldlFst | apply Keeps.elim) | split | with_reducible (apply Keeps.pair; assumption) | dsimp only)

theorem keep_rebuildEntry {s0 : Node} {a0 a1 a2} (h0 : Keeps s0 a0) : Keeps s0 (rebuildEntry a0 a1 a2) := by
  unfold rebuildEntry
  repeat' (first | with_reducible (first | assumption | intro _ | apply keep_modDir | apply keep_purgeFenced | apply keep_startRecall | apply Keeps.ite | apply Keeps.iteFst | apply Keeps.foldl | apply Keeps.foldlFst | apply Keeps.elim) | split | with_reducible (apply Keeps.pair; assumption) | dsimp only)

theorem keep_homeRun {s0 : Node} {a0 a1 a2} (h1 : Keeps s0 a1) : Keeps s0 (homeRun a0 a1 a2) := by
  induction a0 generalizing a1 a2 with
  | zero =>
    unfold homeRun
    repeat' (first | with_reducible (first | assumption | intro _ | apply keep_closeReq | apply keep_cntAdd | apply keep_endRecall | apply keep_openTxn | apply keep_popReq | apply keep_purgeFenced | apply keep_rebuildEntry | apply keep_startRecall | apply keep_takeEviction | apply Keeps.ite | apply Keeps.iteFst | apply Keeps.foldl | apply Keeps.foldlFst | apply Keeps.elim) | split | with_reducible (apply Keeps.pair; assumption) | dsimp only)
  | succ n ih =>
    unfold homeRun
    repeat' (first | with_reducible (first | assumption | apply ih | intro _ | apply keep_closeReq | apply keep_cntAdd | apply keep_endRecall | apply keep_openTxn | apply keep_popReq | apply keep_purgeFenced | apply keep_rebuildEntry | apply keep_startRecall | apply keep_takeEviction | apply Keeps.ite | apply Keeps.iteFst | apply Keeps.foldl | apply Keeps.foldlFst | apply Keeps.elim) | split | with_reducible (apply Keeps.pair; assumption) | dsimp only)

theorem keep_homeGo {s0 : Node} {a0 a1} (h0 : Keeps s0 a0) : Keeps s0 (homeGo a0 a1) := by
  unfold homeGo
  repeat' (first | with_reducible (first | assumption | intro _ | apply keep_homeRun | apply Keeps.ite | apply Keeps.iteFst | apply Keeps.foldl | apply Keeps.foldlFst | apply Keeps.elim) | split | with_reducible (apply Keeps.pair; assumption) | dsimp only)

theorem keep_homeNext {s0 : Node} {a0 a1} (h0 : Keeps s0 a0) : Keeps s0 (homeNext a0 a1) := by
  unfold homeNext
  repeat' (first | with_reducible (first | assumption | intro _ | apply keep_homeGo | apply Keeps.ite | apply Keeps.iteFst | apply Keeps.foldl | apply Keeps.foldlFst | apply Keeps.elim) | split | with_reducible (apply Keeps.pair; assumption) | dsimp only)

theorem keep_settleTxn {s0 : Node} {a0 a1 a2} (h0 : Keeps s0 a0) : Keeps s0 (settleTxn a0 a1 a2) := by
  unfold settleTxn
  repeat' (first | with_reducible (first | assumption | intro _ | apply keep_closeReq | apply keep_endRecall | apply keep_homeGo | apply keep_homeNext | apply Keeps.ite | apply Keeps.iteFst | apply Keeps.foldl | apply Keeps.foldlFst | apply Keeps.elim) | split | with_reducible (apply Keeps.pair; assumption) | dsimp only)

theorem keep_answerSnoop {s0 : Node} {a0 a1} (h0 : Keeps s0 a0) : Keeps s0 (answerSnoop a0 a1) := by
  unfold answerSnoop
  repeat' (first | with_reducible (first | assumption | intro _ | apply keep_cntAdd | apply keep_fenceLine | apply keep_giveData | apply keep_modDir | apply keep_modMiss | apply keep_modTxn | apply keep_nmcWrite | apply keep_setSnoopSt | apply keep_settleTxn | apply Keeps.ite | apply Keeps.iteFst | apply Keeps.foldl | apply Keeps.foldlFst | apply Keeps.elim) | split | with_reducible (apply Keeps.pair; assumption) | dsimp only)

theorem keep_meetFault {s0 : Node} {a0 a1 a2} (h0 : Keeps s0 a0) : Keeps s0 (meetFault a0 a1 a2) := by
  unfold meetFault
  repeat' (first | with_reducible (first | assumption | intro _ | apply keep_countCorrected | apply keep_dropStale | apply keep_logErr | apply keep_modDir | apply keep_modNmc | apply keep_nmcMark | apply keep_nmcUeSeen | apply Keeps.ite | apply Keeps.iteFst | apply Keeps.foldl | apply Keeps.foldlFst | apply Keeps.elim) | split | with_reducible (apply Keeps.pair; assumption) | dsimp only)

theorem keep_onLine {s0 : Node} {a0 a1 a2} (h0 : Keeps s0 a0) (h2 : Keeps s0 a2) : KeepsO s0 (onLine a0 a1 a2) := by
  unfold onLine
  repeat' (first | with_reducible (first | assumption | intro _ | apply keep_withResp | apply keep_onNode | apply keep_onServed | apply KeepsO.next | apply KeepsO.fault | apply KeepsO.ite | apply Keeps.ite | apply Keeps.iteFst | apply Keeps.foldl | apply Keeps.foldlFst | apply Keeps.elim) | split | with_reducible (apply Keeps.pair; assumption) | dsimp only)

theorem keep_serveLine {s0 : Node} {a0 a1 a2} (h0 : Keeps s0 a0) : Keeps s0 (serveLine a0 a1 a2) := by
  unfold serveLine
  repeat' (first | with_reducible (first | assumption | intro _ | apply keep_homeGo | apply keep_meetFault | apply Keeps.ite | apply Keeps.iteFst | apply Keeps.foldl | apply Keeps.foldlFst | apply Keeps.elim) | split | with_reducible (apply Keeps.pair; assumption) | dsimp only)

theorem keep_dieReq {s0 : Node} {a0 a1 a2 a3 a4} (h0 : Keeps s0 a0) : Keeps s0 (dieReq a0 a1 a2 a3 a4) := by
  unfold dieReq
  repeat' (first | with_reducible (first | assumption | intro _ | apply keep_askLine | apply keep_serveLine | apply Keeps.ite | apply Keeps.iteFst | apply Keeps.foldl | apply Keeps.foldlFst | apply Keeps.elim) | split | with_reducible (apply Keeps.pair; assumption) | dsimp only)

theorem keep_execRds {s0 : Node} {a0 a1 a2 a3} (h3 : Keeps s0 a3.node) : KeepsS s0 (execRds a0 a1 a2 a3) := by
  unfold execRds
  repeat' (first | with_reducible (first | assumption | intro _ | apply keep_dieReq | apply keep_onLine | apply keep_onNode | apply keep_onServed | apply KeepsO.next | apply KeepsO.fault | apply KeepsO.ite | apply Keeps.ite | apply Keeps.iteFst | apply Keeps.foldl | apply Keeps.foldlFst | apply Keeps.elim) | split | with_reducible (apply Keeps.pair; assumption) | dsimp only)

theorem keep_execRdx {s0 : Node} {a0 a1 a2 a3} (h3 : Keeps s0 a3.node) : KeepsS s0 (execRdx a0 a1 a2 a3) := by
  unfold execRdx
  repeat' (first | with_reducible (first | assumption | intro _ | apply keep_dieReq | apply keep_onLine | apply keep_onNode | apply keep_onServed | apply KeepsO.next | apply KeepsO.fault | apply KeepsO.ite | apply Keeps.ite | apply Keeps.iteFst | apply Keeps.foldl | apply Keeps.foldlFst | apply Keeps.elim) | split | with_reducible (apply Keeps.pair; assumption) | dsimp only)

theorem keep_execUpg {s0 : Node} {a0 a1 a2} (h2 : Keeps s0 a2.node) : KeepsS s0 (execUpg a0 a1 a2) := by
  unfold execUpg
  repeat' (first | with_reducible (first | assumption | intro _ | apply keep_dieReq | apply keep_onLine | apply keep_onNode | apply keep_onServed | apply KeepsO.next | apply KeepsO.fault | apply KeepsO.ite | apply Keeps.ite | apply Keeps.iteFst | apply Keeps.foldl | apply Keeps.foldlFst | apply Keeps.elim) | split | with_reducible (apply Keeps.pair; assumption) | dsimp only)

theorem keep_execWbd {s0 : Node} {a0 a1 a2} (h2 : Keeps s0 a2.node) : KeepsS s0 (execWbd a0 a1 a2) := by
  unfold execWbd
  repeat' (first | with_reducible (first | assumption | intro _ | apply keep_evictLine | apply keep_onLine | apply keep_serveLine | apply keep_onNode | apply keep_onServed | apply KeepsO.next | apply KeepsO.fault | apply KeepsO.ite | apply Keeps.ite | apply Keeps.iteFst | apply Keeps.foldl | apply Keeps.foldlFst | apply Keeps.elim) | split | with_reducible (apply Keeps.pair; assumption) | dsimp only)

theorem keep_execEvc {s0 : Node} {a0 a1 a2} (h2 : Keeps s0 a2.node) : KeepsS s0 (execEvc a0 a1 a2) := by
  unfold execEvc
  repeat' (first | with_reducible (first | assumption | intro _ | apply keep_evictLine | apply keep_onLine | apply keep_serveLine | apply keep_onNode | apply keep_onServed | apply KeepsO.next | apply KeepsO.fault | apply KeepsO.ite | apply Keeps.ite | apply Keeps.iteFst | apply Keeps.foldl | apply Keeps.foldlFst | apply Keeps.elim) | split | with_reducible (apply Keeps.pair; assumption) | dsimp only)

theorem keep_plainSend {s0 : Node} {a0 a1 a2} (h0 : Keeps s0 a0) : KeepsO s0 (plainSend a0 a1 a2) := by
  unfold plainSend
  repeat' (first | with_reducible (first | assumption | intro _ | apply keep_onLine | apply keep_sendHome | apply keep_serveLine | apply keep_onNode | apply keep_onServed | apply KeepsO.next | apply KeepsO.fault | apply KeepsO.ite | apply Keeps.ite | apply Keeps.iteFst | apply Keeps.foldl | apply Keeps.foldlFst | apply Keeps.elim) | split | with_reducible (apply Keeps.pair; assumption) | dsimp only)

theorem keep_execCln {s0 : Node} {a0 a1 a2} (h2 : Keeps s0 a2.node) : KeepsS s0 (execCln a0 a1 a2) := by
  unfold execCln
  repeat' (first | with_reducible (first | assumption | intro _ | apply keep_plainSend | apply keep_onNode | apply keep_onServed | apply KeepsO.next | apply KeepsO.fault | apply KeepsO.ite | apply Keeps.ite | apply Keeps.iteFst | apply Keeps.foldl | apply Keeps.foldlFst | apply Keeps.elim) | split | with_reducible (apply Keeps.pair; assumption) | dsimp only)

theorem keep_execFls {s0 : Node} {a0 a1 a2} (h2 : Keeps s0 a2.node) : KeepsS s0 (execFls a0 a1 a2) := by
  unfold execFls
  repeat' (first | with_reducible (first | assumption | intro _ | apply keep_plainSend | apply keep_onNode | apply keep_onServed | apply KeepsO.next | apply KeepsO.fault | apply KeepsO.ite | apply Keeps.ite | apply Keeps.iteFst | apply Keeps.foldl | apply Keeps.foldlFst | apply Keeps.elim) | split | with_reducible (apply Keeps.pair; assumption) | dsimp only)

theorem keep_execRdonce {s0 : Node} {a0 a1 a2 a3} (h3 : Keeps s0 a3.node) : KeepsS s0 (execRdonce a0 a1 a2 a3) := by
  unfold execRdonce
  repeat' (first | with_reducible (first | assumption | intro _ | apply keep_plainSend | apply keep_onNode | apply keep_onServed | apply KeepsO.next | apply KeepsO.fault | apply KeepsO.ite | apply Keeps.ite | apply Keeps.iteFst | apply Keeps.foldl | apply Keeps.foldlFst | apply Keeps.elim) | split | with_reducible (apply Keeps.pair; assumption) | dsimp only)

theorem keep_execWrline {s0 : Node} {a0 a1 a2 a3 a4} (h4 : Keeps s0 a4.node) : KeepsS s0 (execWrline a0 a1 a2 a3 a4) := by
  unfold execWrline
  repeat' (first | with_reducible (first | assumption | intro _ | apply keep_plainSend | apply keep_onNode | apply keep_onServed | apply KeepsO.next | apply KeepsO.fault | apply KeepsO.ite | apply Keeps.ite | apply Keeps.iteFst | apply Keeps.foldl | apply Keeps.foldlFst | apply Keeps.elim) | split | with_reducible (apply Keeps.pair; assumption) | dsimp only)

theorem keep_execWrpart {s0 : Node} {a0 a1 a2 a3 a4} (h4 : Keeps s0 a4.node) : KeepsS s0 (execWrpart a0 a1 a2 a3 a4) := by
  unfold execWrpart
  repeat' (first | with_reducible (first | assumption | intro _ | apply keep_plainSend | apply keep_onNode | apply keep_onServed | apply KeepsO.next | apply KeepsO.fault | apply KeepsO.ite | apply Keeps.ite | apply Keeps.iteFst | apply Keeps.foldl | apply Keeps.foldlFst | apply Keeps.elim) | split | with_reducible (apply Keeps.pair; assumption) | dsimp only)

theorem keep_execAtom {s0 : Node} {a0 a1 a2 a3 a4 a5 a6} (h6 : Keeps s0 a6.node) : KeepsS s0 (execAtom a0 a1 a2 a3 a4 a5 a6) := by
  unfold execAtom
  repeat' (first | with_reducible (first | assumption | intro _ | apply keep_plainSend | apply keep_withResp | apply keep_onNode | apply keep_onServed | apply KeepsO.next | apply KeepsO.fault | apply KeepsO.ite | apply Keeps.ite | apply Keeps.iteFst | apply Keeps.foldl | apply Keeps.foldlFst | apply Keeps.elim) | split | with_reducible (apply Keeps.pair; assumption) | dsimp only)

theorem keep_snoopCmd {s0 : Node} {a0 a1 a2 a3} (h0 : Keeps s0 a0) : KeepsO s0 (snoopCmd a0 a1 a2 a3) := by
  unfold snoopCmd
  repeat' (first | with_reducible (first | assumption | intro _ | apply keep_answerSnoop | apply keep_onDie | apply keep_onNode | apply keep_onServed | apply KeepsO.next | apply KeepsO.fault | apply KeepsO.ite | apply Keeps.ite | apply Keeps.iteFst | apply Keeps.foldl | apply Keeps.foldlFst | apply Keeps.elim) | split | with_reducible (apply Keeps.pair; assumption) | dsimp only)

theorem keep_execSnps {s0 : Node} {a0 a1 a2} (h2 : Keeps s0 a2.node) : KeepsS s0 (execSnps a0 a1 a2) := by
  unfold execSnps
  repeat' (first | with_reducible (first | assumption | intro _ | apply keep_snoopCmd | apply keep_onNode | apply keep_onServed | apply KeepsO.next | apply KeepsO.fault | apply KeepsO.ite | apply Keeps.ite | apply Keeps.iteFst | apply Keeps.foldl | apply Keeps.foldlFst | apply Keeps.elim) | split | with_reducible (apply Keeps.pair; assumption) | dsimp only)

theorem keep_execSnpx {s0 : Node} {a0 a1 a2} (h2 : Keeps s0 a2.node) : KeepsS s0 (execSnpx a0 a1 a2) := by
  unfold execSnpx
  repeat' (first | with_reducible (first | assumption | intro _ | apply keep_snoopCmd | apply keep_onNode | apply keep_onServed | apply KeepsO.next | apply KeepsO.fault | apply KeepsO.ite | apply Keeps.ite | apply Keeps.iteFst | apply Keeps.foldl | apply Keeps.foldlFst | apply Keeps.elim) | split | with_reducible (apply Keeps.pair; assumption) | dsimp only)

theorem keep_execSnprd {s0 : Node} {a0 a1 a2} (h2 : Keeps s0 a2.node) : KeepsS s0 (execSnprd a0 a1 a2) := by
  unfold execSnprd
  repeat' (first | with_reducible (first | assumption | intro _ | apply keep_snoopCmd | apply keep_onNode | apply keep_onServed | apply KeepsO.next | apply KeepsO.fault | apply KeepsO.ite | apply Keeps.ite | apply Keeps.iteFst | apply Keeps.foldl | apply Keeps.foldlFst | apply Keeps.elim) | split | with_reducible (apply Keeps.pair; assumption) | dsimp only)

theorem keep_execSnpcln {s0 : Node} {a0 a1 a2} (h2 : Keeps s0 a2.node) : KeepsS s0 (execSnpcln a0 a1 a2) := by
  unfold execSnpcln
  repeat' (first | with_reducible (first | assumption | intro _ | apply keep_snoopCmd | apply keep_onNode | apply keep_onServed | apply KeepsO.next | apply KeepsO.fault | apply KeepsO.ite | apply Keeps.ite | apply Keeps.iteFst | apply Keeps.foldl | apply Keeps.foldlFst | apply Keeps.elim) | split | with_reducible (apply Keeps.pair; assumption) | dsimp only)

theorem keep_execSnprcl {s0 : Node} {a0 a1 a2} (h2 : Keeps s0 a2.node) : KeepsS s0 (execSnprcl a0 a1 a2) := by
  unfold execSnprcl
  repeat' (first | with_reducible (first | assumption | intro _ | apply keep_snoopCmd | apply keep_onNode | apply keep_onServed | apply KeepsO.next | apply KeepsO.fault | apply KeepsO.ite | apply Keeps.ite | apply Keeps.iteFst | apply Keeps.foldl | apply Keeps.foldlFst | apply Keeps.elim) | split | with_reducible (apply Keeps.pair; assumption) | dsimp only)

theorem keep_execSnpinv {s0 : Node} {a0 a1 a2} (h2 : Keeps s0 a2.node) : KeepsS s0 (execSnpinv a0 a1 a2) := by
  unfold execSnpinv
  repeat' (first | with_reducible (first | assumption | intro _ | apply keep_snoopCmd | apply keep_onNode | apply keep_onServed | apply KeepsO.next | apply KeepsO.fault | apply KeepsO.ite | apply Keeps.ite | apply Keeps.iteFst | apply Keeps.foldl | apply Keeps.foldlFst | apply Keeps.elim) | split | with_reducible (apply Keeps.pair; assumption) | dsimp only)

theorem keep_dcRoom {s0 s t : Node} {d line f c w0 w} (he : (if c ≠ Moesi.i then some (s, w0) else dcRoom s d line f) = some (t, w))
    (h : Keeps s0 s) : Keeps s0 t := by
  split at he
  · injection he with he
    injection he with he _
    rw [← he]; exact h
  · unfold dcRoom at he
    dsimp only at he
    split at he
    · injection he with he
      injection he with he _
      rw [← he]; exact h
    · split at he
      · cases he
      · split at he <;> (injection he with he; injection he with he _; rw [← he])
        · exact keep_homeGo (keep_evictLine h)
        · exact h

theorem keep_mergeWaiting {s0 : Node} {a0 a1 a2} (h0 : Keeps s0 a0) : Keeps s0 (mergeWaiting a0 a1 a2) := by
  unfold mergeWaiting
  repeat' (first | with_reducible (first | assumption | intro _ | apply keep_mergeStore | apply keep_modCache | apply keep_soleCore | apply Keeps.ite | apply Keeps.iteFst | apply Keeps.foldl | apply Keeps.foldlFst | apply Keeps.elim) | split | with_reducible (apply Keeps.pair; assumption) | dsimp only)

theorem keep_nextMiss {s0 : Node} {a0 a1} (h0 : Keeps s0 a0) : Keeps s0 (nextMiss a0 a1) := by
  unfold nextMiss
  repeat' (first | with_reducible (first | assumption | intro _ | apply keep_modCache | apply keep_sendMiss | apply Keeps.ite | apply Keeps.iteFst | apply Keeps.foldl | apply Keeps.foldlFst | apply Keeps.elim) | split | with_reducible (apply Keeps.pair; assumption) | dsimp only)

theorem keep_loadsGot {s0 : Node} {a0 a1 a2} (h0 : Keeps s0 a0) : Keeps s0 (loadsGot a0 a1 a2) := by
  unfold loadsGot
  repeat' (first | with_reducible (first | assumption | intro _ | apply keep_modGable | apply Keeps.ite | apply Keeps.iteFst | apply Keeps.foldl | apply Keeps.foldlFst | apply Keeps.elim) | split | with_reducible (apply Keeps.pair; assumption) | dsimp only)

theorem keep_fillGranted {s0 : Node} {a0 a1 a2 a3 a4} (h0 : Keeps s0 a0) : Keeps s0 (fillGranted a0 a1 a2 a3 a4) := by
  unfold fillGranted
  repeat' (first | with_reducible (first | assumption | intro _ | apply keep_loadsGot | apply keep_mergeWaiting | apply keep_modCache | apply keep_nextMiss | apply keep_noteCopy | apply keep_noteCores | apply keep_sendMiss | apply keep_settleGroups | apply Keeps.ite | apply Keeps.iteFst | apply Keeps.foldl | apply Keeps.foldlFst | apply Keeps.elim) | split | with_reducible (apply Keeps.pair; assumption) | dsimp only | with_reducible (apply keep_dcRoom; assumption))

theorem keep_takeResponse {s0 : Node} {a0 a1 a2} (h0 : Keeps s0 a0) : Keeps s0 (takeResponse a0 a1 a2) := by
  unfold takeResponse
  repeat' (first | with_reducible (first | assumption | intro _ | apply keep_fillGranted | apply Keeps.ite | apply Keeps.iteFst | apply Keeps.foldl | apply Keeps.foldlFst | apply Keeps.elim) | split | with_reducible (apply Keeps.pair; assumption) | dsimp only)

theorem keep_takeCmpAck {s0 : Node} {a0 a1 a2} (h0 : Keeps s0 a0) : Keeps s0 (takeCmpAck a0 a1 a2) := by
  unfold takeCmpAck
  repeat' (first | with_reducible (first | assumption | intro _ | apply keep_endTxn | apply keep_homeGo | apply keep_homeNext | apply Keeps.ite | apply Keeps.iteFst | apply Keeps.foldl | apply Keeps.foldlFst | apply Keeps.elim) | split | with_reducible (apply Keeps.pair; assumption) | dsimp only)

theorem keep_execCoherenceResponse {s0 : Node} {a0 a1 a2} (h2 : Keeps s0 a2.node) : KeepsS s0 (execCoherenceResponse a0 a1 a2) := by
  unfold execCoherenceResponse
  repeat' (first | with_reducible (first | assumption | intro _ | apply keep_onDie | apply keep_takeResponse | apply keep_onNode | apply keep_onServed | apply KeepsO.next | apply KeepsO.fault | apply KeepsO.ite | apply Keeps.ite | apply Keeps.iteFst | apply Keeps.foldl | apply Keeps.foldlFst | apply Keeps.elim) | split | with_reducible (apply Keeps.pair; assumption) | dsimp only)

theorem keep_execCmpack {s0 : Node} {a0 a1 a2} (h2 : Keeps s0 a2.node) : KeepsS s0 (execCmpack a0 a1 a2) := by
  unfold execCmpack
  repeat' (first | with_reducible (first | assumption | intro _ | apply keep_onDie | apply keep_takeCmpAck | apply keep_onNode | apply keep_onServed | apply KeepsO.next | apply KeepsO.fault | apply KeepsO.ite | apply Keeps.ite | apply Keeps.iteFst | apply Keeps.foldl | apply Keeps.foldlFst | apply Keeps.elim) | split | with_reducible (apply Keeps.pair; assumption) | dsimp only)

theorem keep_execEvictionAcknowledged {s0 : Node} {a0 a1 a2} (h2 : Keeps s0 a2.node) : KeepsS s0 (execEvictionAcknowledged a0 a1 a2) := by
  unfold execEvictionAcknowledged
  repeat' (first | with_reducible (first | assumption | intro _ | apply keep_dropAlt | apply keep_modCache | apply keep_onDie | apply keep_onNode | apply keep_onServed | apply KeepsO.next | apply KeepsO.fault | apply KeepsO.ite | apply Keeps.ite | apply Keeps.iteFst | apply Keeps.foldl | apply Keeps.foldlFst | apply Keeps.elim) | split | with_reducible (apply Keeps.pair; assumption) | dsimp only)

theorem keep_execSnoopTimeout {s0 : Node} {a0 a1 a2} (h2 : Keeps s0 a2.node) : KeepsS s0 (execSnoopTimeout a0 a1 a2) := by
  unfold execSnoopTimeout
  repeat' (first | with_reducible (first | assumption | intro _ | apply keep_answerSnoop | apply keep_fenceLine | apply keep_logErr | apply keep_onDie | apply keep_onNode | apply keep_onServed | apply KeepsO.next | apply KeepsO.fault | apply KeepsO.ite | apply Keeps.ite | apply Keeps.iteFst | apply Keeps.foldl | apply Keeps.foldlFst | apply Keeps.elim) | split | with_reducible (apply Keeps.pair; assumption) | dsimp only | ((with_reducible apply Keeps.rcd); (on_goal 2 => rfl); (on_goal 2 => rfl)))

theorem keep_execFenceScanDone {s0 : Node} {a0 a1} (h1 : Keeps s0 a1.node) : KeepsS s0 (execFenceScanDone a0 a1) := by
  unfold execFenceScanDone
  repeat' (first | with_reducible (first | assumption | intro _ | apply keep_fenceLine | apply keep_modDir | apply keep_onBase | apply keep_onNode | apply keep_onServed | apply KeepsO.next | apply KeepsO.fault | apply KeepsO.ite | apply Keeps.ite | apply Keeps.iteFst | apply Keeps.foldl | apply Keeps.foldlFst | apply Keeps.elim) | split | with_reducible (apply Keeps.pair; assumption) | dsimp only)

theorem keep_lineStep {s0 : Node} {a0 a1} (h0 : Keeps s0 a0) : Keeps s0 (lineStep a0 a1) := by
  unfold lineStep
  repeat' (first | with_reducible (first | assumption | intro _ | apply keep_answerSnoop | apply keep_homeGo | apply keep_takeCmpAck | apply keep_takeResponse | apply Keeps.ite | apply Keeps.iteFst | apply Keeps.foldl | apply Keeps.foldlFst | apply Keeps.elim) | split | with_reducible (apply Keeps.pair; assumption) | dsimp only)

theorem keep_lineSteps {s0 : Node} {a0 a1 a2} (h1 : Keeps s0 a1) : Keeps s0 (lineSteps a0 a1 a2) := by
  induction a0 generalizing a1 a2 with
  | zero =>
    unfold lineSteps
    repeat' (first | with_reducible (first | assumption | intro _ | apply keep_lineStep | apply Keeps.ite | apply Keeps.iteFst | apply Keeps.foldl | apply Keeps.foldlFst | apply Keeps.elim) | split | with_reducible (apply Keeps.pair; assumption) | dsimp only)
  | succ n ih =>
    unfold lineSteps
    repeat' (first | with_reducible (first | assumption | apply ih | intro _ | apply keep_lineStep | apply Keeps.ite | apply Keeps.iteFst | apply Keeps.foldl | apply Keeps.foldlFst | apply Keeps.elim) | split | with_reducible (apply Keeps.pair; assumption) | dsimp only)

theorem keep_access {s0 : Node} {a0 a1} (h0 : Keeps s0 a0) : Keeps s0 (access a0 a1) := by
  unfold access
  repeat' (first | with_reducible (first | assumption | intro _ | apply keep_atHome | apply keep_lineSteps | apply Keeps.ite | apply Keeps.iteFst | apply Keeps.foldl | apply Keeps.foldlFst | apply Keeps.elim) | split | with_reducible (apply Keeps.pair; assumption) | dsimp only)

theorem keep_served {s0 : Node} {a0 a1} (h0 : Keeps s0 a0) (h1 : Keeps s0 a1) : Keeps s0 (served a0 a1) := by
  unfold served
  repeat' (first | with_reducible (first | assumption | intro _ | apply Keeps.ite | apply Keeps.iteFst | apply Keeps.foldl | apply Keeps.foldlFst | apply Keeps.elim) | split | with_reducible (apply Keeps.pair; assumption) | dsimp only)

theorem keep_settleSteps {s0 : Node} {a0 a1 a2} (h1 : Keeps s0 a1) : Keeps s0 (settleSteps a0 a1 a2) := by
  induction a0 generalizing a1 a2 with
  | zero =>
    unfold settleSteps
    repeat' (first | with_reducible (first | assumption | intro _ | apply keep_lineStep | apply Keeps.ite | apply Keeps.iteFst | apply Keeps.foldl | apply Keeps.foldlFst | apply Keeps.elim) | split | with_reducible (apply Keeps.pair; assumption) | dsimp only)
  | succ n ih =>
    unfold settleSteps
    repeat' (first | with_reducible (first | assumption | apply ih | intro _ | apply keep_lineStep | apply Keeps.ite | apply Keeps.iteFst | apply Keeps.foldl | apply Keeps.foldlFst | apply Keeps.elim) | split | with_reducible (apply Keeps.pair; assumption) | dsimp only)

theorem keep_homeAtom {s0 : Node} {a0 a1 a2 a3 a4 a5 a6} (h0 : Keeps s0 a0) : Keeps s0 (homeAtom a0 a1 a2 a3 a4 a5 a6).1 := by
  unfold homeAtom
  repeat' (first | with_reducible (first | assumption | intro _ | apply keep_access | apply keep_settleSteps | apply Keeps.ite | apply Keeps.iteFst | apply Keeps.foldl | apply Keeps.foldlFst | apply Keeps.elim) | split | with_reducible (apply Keeps.pair; assumption) | dsimp only)

theorem keep_homeRead {s0 : Node} {a0 a1 a2 a3} (h0 : Keeps s0 a0) : Keeps s0 (homeRead a0 a1 a2 a3) := by
  unfold homeRead
  repeat' (first | with_reducible (first | assumption | intro _ | apply keep_access | apply Keeps.ite | apply Keeps.iteFst | apply Keeps.foldl | apply Keeps.foldlFst | apply Keeps.elim) | split | with_reducible (apply Keeps.pair; assumption) | dsimp only)

theorem keep_homeReadFirst {s0 : Node} {a0 a1 a2 a3} (h0 : Keeps s0 a0) : Keeps s0 (homeReadFirst a0 a1 a2 a3) := by
  unfold homeReadFirst
  repeat' (first | with_reducible (first | assumption | intro _ | apply keep_lineSteps | apply keep_modDir | apply Keeps.ite | apply Keeps.iteFst | apply Keeps.foldl | apply Keeps.foldlFst | apply Keeps.elim) | split | with_reducible (apply Keeps.pair; assumption) | dsimp only)

theorem keep_homeWrite {s0 : Node} {a0 a1 a2 a3 a4 a5} (h0 : Keeps s0 a0) : Keeps s0 (homeWrite a0 a1 a2 a3 a4 a5) := by
  unfold homeWrite
  repeat' (first | with_reducible (first | assumption | intro _ | apply keep_access | apply Keeps.ite | apply Keeps.iteFst | apply Keeps.foldl | apply Keeps.foldlFst | apply Keeps.elim) | split | with_reducible (apply Keeps.pair; assumption) | dsimp only)

theorem keep_agentTouch {s0 : Node} {a0 a1 a2 a3 a4} (h0 : Keeps s0 a0) : Keeps s0 (agentTouch a0 a1 a2 a3 a4) := by
  unfold agentTouch
  repeat' (first | with_reducible (first | assumption | intro _ | apply keep_homeRead | apply Keeps.ite | apply Keeps.iteFst | apply Keeps.foldl | apply Keeps.foldlFst | apply Keeps.elim) | split | with_reducible (apply Keeps.pair; assumption) | dsimp only)

theorem keep_agentWriteBy {s0 : Node} {a0 a1 a2 a3 a4 a5} (h0 : Keeps s0 a0) : Keeps s0 (agentWriteBy a0 a1 a2 a3 a4 a5) := by
  unfold agentWriteBy
  repeat' (first | with_reducible (first | assumption | intro _ | apply keep_homeWrite | apply Keeps.ite | apply Keeps.iteFst | apply Keeps.foldl | apply Keeps.foldlFst | apply Keeps.elim) | split | with_reducible (apply Keeps.pair; assumption) | dsimp only)

theorem keep_agentWrite {s0 : Node} {a0 a1 a2 a3 a4} (h0 : Keeps s0 a0) : Keeps s0 (agentWrite a0 a1 a2 a3 a4) := by
  unfold agentWrite
  repeat' (first | with_reducible (first | assumption | intro _ | apply keep_agentWriteBy | apply Keeps.ite | apply Keeps.iteFst | apply Keeps.foldl | apply Keeps.foldlFst | apply Keeps.elim) | split | with_reducible (apply Keeps.pair; assumption) | dsimp only)

theorem keep_agentWriteLE {s0 : Node} {a0 a1 a2 a3 a4} (h0 : Keeps s0 a0) : Keeps s0 (agentWriteLE a0 a1 a2 a3 a4) := by
  unfold agentWriteLE
  repeat' (first | with_reducible (first | assumption | intro _ | apply keep_agentWrite | apply Keeps.ite | apply Keeps.iteFst | apply Keeps.foldl | apply Keeps.foldlFst | apply Keeps.elim) | split | with_reducible (apply Keeps.pair; assumption) | dsimp only)

theorem keep_dmaWriteList {s0 : Node} {a0 a1 a2 a3} (h0 : Keeps s0 a0) : Keeps s0 (dmaWriteList a0 a1 a2 a3) := by
  unfold dmaWriteList
  repeat' (first | with_reducible (first | assumption | intro _ | apply keep_homeWrite | apply Keeps.ite | apply Keeps.iteFst | apply Keeps.foldl | apply Keeps.foldlFst | apply Keeps.elim) | split | with_reducible (apply Keeps.pair; assumption) | dsimp only)

theorem keep_dmaWrite {s0 : Node} {a0 a1 a2 a3} (h0 : Keeps s0 a0) : Keeps s0 (dmaWrite a0 a1 a2 a3) := by
  unfold dmaWrite
  repeat' (first | with_reducible (first | assumption | intro _ | apply keep_agentWrite | apply Keeps.ite | apply Keeps.iteFst | apply Keeps.foldl | apply Keeps.foldlFst | apply Keeps.elim) | split | with_reducible (apply Keeps.pair; assumption) | dsimp only)

theorem keep_walkFill {s0 : Node} {a0 a1 a2 a3 a4} (h0 : Keeps s0 a0) : Keeps s0 (walkFill a0 a1 a2 a3 a4).1 := by
  unfold walkFill
  repeat' (first | with_reducible (first | assumption | intro _ | apply keep_cntAdd | apply keep_homeRead | apply keep_logErr | apply keep_modDie | apply keep_modGable | apply keep_modStu | apply Keeps.ite | apply Keeps.iteFst | apply Keeps.foldl | apply Keeps.foldlFst | apply Keeps.elim) | split | with_reducible (apply Keeps.pair; assumption) | dsimp only)

theorem keep_translatePage {s0 : Node} {a0 a1 a2 a3 a4} (h0 : Keeps s0 a0) : Keeps s0 (translatePage a0 a1 a2 a3 a4).1 := by
  unfold translatePage
  repeat' (first | with_reducible (first | assumption | intro _ | apply keep_cntAdd | apply keep_modDie | apply keep_modGable | apply keep_walkFill | apply Keeps.ite | apply Keeps.iteFst | apply Keeps.foldl | apply Keeps.foldlFst | apply Keeps.elim) | split | with_reducible (apply Keeps.pair; assumption) | dsimp only)

theorem keep_transGo {s0 : Node} {a0 a1 a2 a3 a4 a5 a6} (h4 : Keeps s0 a4) : Keeps s0 (transGo a0 a1 a2 a3 a4 a5 a6).1 := by
  induction a3 generalizing a0 a1 a2 a4 a5 a6 with
  | nil =>
    unfold transGo
    repeat' (first | with_reducible (first | assumption | intro _ | apply keep_translatePage | apply Keeps.ite | apply Keeps.iteFst | apply Keeps.foldl | apply Keeps.foldlFst | apply Keeps.elim) | split | with_reducible (apply Keeps.pair; assumption) | dsimp only)
  | cons x l ih =>
    unfold transGo
    repeat' (first | with_reducible (first | assumption | apply ih | intro _ | apply keep_translatePage | apply Keeps.ite | apply Keeps.iteFst | apply Keeps.foldl | apply Keeps.foldlFst | apply Keeps.elim) | split | with_reducible (apply Keeps.pair; assumption) | dsimp only)

end Sys2Proof.Machine
end

