-- ==== Sys2Proof/Laws/Keeps2.lean ====
section
/-! SUPPORT. What the operations of the machine keep, one lemma each (2 of 6): keep_translateAll to keep_portOff. -/

set_option Elab.async false
set_option linter.all false

namespace Sys2Proof.Machine

theorem keep_translateAll {s0 : Node} {a0 a1 a2 a3 a4} (h0 : Keeps s0 a0) : Keeps s0 (translateAll a0 a1 a2 a3 a4).1 := by
  unfold translateAll
  repeat' (first | with_reducible (first | assumption | intro _ | apply keep_transGo | apply Keeps.ite | apply Keeps.iteFst | apply Keeps.foldl | apply Keeps.foldlFst | apply Keeps.elim) | split | with_reducible (apply Keeps.pair; assumption) | dsimp only)

theorem keep_countFar {s0 : Node} {a0 a1 a2 a3} (h0 : Keeps s0 a0) : Keeps s0 (countFar a0 a1 a2 a3) := by
  unfold countFar
  repeat' (first | with_reducible (first | assumption | intro _ | apply keep_modDie | apply Keeps.ite | apply Keeps.iteFst | apply Keeps.foldl | apply Keeps.foldlFst | apply Keeps.elim) | split | with_reducible (apply Keeps.pair; assumption) | dsimp only)

theorem keep_queueFault {s0 : Node} {a0 a1 a2 a3 a4 a5 a6 a7 a8 a9} (h0 : Keeps s0 a0) : Keeps s0 (queueFault a0 a1 a2 a3 a4 a5 a6 a7 a8 a9).1 := by
  unfold queueFault
  repeat' (first | with_reducible (first | assumption | intro _ | apply keep_cntAdd | apply keep_modStu | apply Keeps.ite | apply Keeps.iteFst | apply Keeps.foldl | apply Keeps.foldlFst | apply Keeps.elim) | split | with_reducible (apply Keeps.pair; assumption) | dsimp only)

theorem keep_countBanks {s0 : Node} {a0 a1 a2 a3} (h0 : Keeps s0 a0) : Keeps s0 (countBanks a0 a1 a2 a3) := by
  unfold countBanks
  repeat' (first | with_reducible (first | assumption | intro _ | apply keep_cntAdd | apply Keeps.ite | apply Keeps.iteFst | apply Keeps.foldl | apply Keeps.foldlFst | apply Keeps.elim) | split | with_reducible (apply Keeps.pair; assumption) | dsimp only)

theorem keep_issueWord {s0 : Node} {a0 a1 a2 a3 a4 a5 a6 a7 a8} (h0 : Keeps s0 a0) (h8 : ∀ x0 x1, Keeps s0 x0 → Keeps s0 (a8 x0 x1)) : Keeps s0 (issueWord a0 a1 a2 a3 a4 a5 a6 a7 a8) := by
  unfold issueWord
  repeat' (first | with_reducible (first | assumption | intro _ | apply h8 | apply keep_countBanks | apply keep_issue | apply keep_stopGroup | apply keep_waitOn | apply Keeps.ite | apply Keeps.iteFst | apply Keeps.foldl | apply Keeps.foldlFst | apply Keeps.elim) | split | with_reducible (apply Keeps.pair; assumption) | dsimp only)

theorem keep_branchOp {s0 : Node} {a0 a1 a2 a3 a4} (h0 : Keeps s0 a0) : Keeps s0 (branchOp a0 a1 a2 a3 a4) := by
  unfold branchOp
  repeat' (first | with_reducible (first | assumption | intro _ | apply keep_issueWord | apply keep_retire | apply Keeps.ite | apply Keeps.iteFst | apply Keeps.foldl | apply Keeps.foldlFst | apply Keeps.elim) | split | with_reducible (apply Keeps.pair; assumption) | dsimp only)

theorem keep_execBnz {s0 : Node} {a0 a1 a2 a3} (h3 : Keeps s0 a3.node) : KeepsS s0 (execBnz a0 a1 a2 a3) := by
  unfold execBnz
  repeat' (first | with_reducible (first | assumption | intro _ | apply keep_branchOp | apply keep_onGable | apply keep_onNode | apply keep_onServed | apply KeepsO.next | apply KeepsO.fault | apply KeepsO.ite | apply Keeps.ite | apply Keeps.iteFst | apply Keeps.foldl | apply Keeps.foldlFst | apply Keeps.elim) | split | with_reducible (apply Keeps.pair; assumption) | dsimp only)

theorem keep_execBz {s0 : Node} {a0 a1 a2 a3} (h3 : Keeps s0 a3.node) : KeepsS s0 (execBz a0 a1 a2 a3) := by
  unfold execBz
  repeat' (first | with_reducible (first | assumption | intro _ | apply keep_branchOp | apply keep_onGable | apply keep_onNode | apply keep_onServed | apply KeepsO.next | apply KeepsO.fault | apply KeepsO.ite | apply Keeps.ite | apply Keeps.iteFst | apply Keeps.foldl | apply Keeps.foldlFst | apply Keeps.elim) | split | with_reducible (apply Keeps.pair; assumption) | dsimp only)

theorem keep_execJmp {s0 : Node} {a0 a1 a2 a3} (h3 : Keeps s0 a3.node) : KeepsS s0 (execJmp a0 a1 a2 a3) := by
  unfold execJmp
  repeat' (first | with_reducible (first | assumption | intro _ | apply keep_branchOp | apply keep_onGable | apply keep_onNode | apply keep_onServed | apply KeepsO.next | apply KeepsO.fault | apply KeepsO.ite | apply Keeps.ite | apply Keeps.iteFst | apply Keeps.foldl | apply Keeps.foldlFst | apply Keeps.elim) | split | with_reducible (apply Keeps.pair; assumption) | dsimp only)

theorem keep_execYield {s0 : Node} {a0 a1 a2 a3} (h3 : Keeps s0 a3.node) : KeepsS s0 (execYield a0 a1 a2 a3) := by
  unfold execYield
  repeat' (first | with_reducible (first | assumption | intro _ | apply keep_issueWord | apply keep_onGable | apply keep_retire | apply keep_onNode | apply keep_onServed | apply KeepsO.next | apply KeepsO.fault | apply KeepsO.ite | apply Keeps.ite | apply Keeps.iteFst | apply Keeps.foldl | apply Keeps.foldlFst | apply Keeps.elim) | split | with_reducible (apply Keeps.pair; assumption) | dsimp only)

theorem keep_execExit {s0 : Node} {a0 a1 a2 a3} (h3 : Keeps s0 a3.node) : KeepsS s0 (execExit a0 a1 a2 a3) := by
  unfold execExit
  repeat' (first | with_reducible (first | assumption | intro _ | apply keep_endGroup | apply keep_issueWord | apply keep_onGable | apply keep_retire | apply keep_onNode | apply keep_onServed | apply KeepsO.next | apply KeepsO.fault | apply KeepsO.ite | apply Keeps.ite | apply Keeps.iteFst | apply Keeps.foldl | apply Keeps.foldlFst | apply Keeps.elim) | split | with_reducible (apply Keeps.pair; assumption) | dsimp only)

theorem keep_execGroupStall {s0 : Node} {a0 a1 a2} (h2 : Keeps s0 a2.node) : KeepsS s0 (execGroupStall a0 a1 a2) := by
  unfold execGroupStall
  repeat' (first | with_reducible (first | assumption | intro _ | apply keep_onGable | apply keep_stopAtBoundary | apply keep_onNode | apply keep_onServed | apply KeepsO.next | apply KeepsO.fault | apply KeepsO.ite | apply Keeps.ite | apply Keeps.iteFst | apply Keeps.foldl | apply Keeps.foldlFst | apply Keeps.elim) | split | with_reducible (apply Keeps.pair; assumption) | dsimp only)

theorem keep_withLanes {s0 : Node} {a0 a1 a2 a3 a4 a5 a6 a7} (h0 : Keeps s0 a0) (h7 : ∀ x0 x1 x2 x3, Keeps s0 x0 → Keeps s0 (a7 x0 x1 x2 x3)) : Keeps s0 (withLanes a0 a1 a2 a3 a4 a5 a6 a7) := by
  unfold withLanes
  repeat' (first | with_reducible (first | assumption | intro _ | apply h7 | apply keep_queueFault | apply keep_stopGroup | apply keep_suspendOn | apply keep_transGo | apply Keeps.ite | apply Keeps.iteFst | apply Keeps.foldl | apply Keeps.foldlFst | apply Keeps.elim) | split | with_reducible (apply Keeps.pair; assumption) | dsimp only)

theorem keep_sendLoads {s0 : Node} {a0 a1 a2 a3} (h1 : Keeps s0 a1) : Keeps s0 (sendLoads a0 a1 a2 a3).1 := by
  unfold sendLoads
  repeat' (first | with_reducible (first | assumption | intro _ | apply keep_startRemoteBy | apply Keeps.ite | apply Keeps.iteFst | apply Keeps.foldl | apply Keeps.foldlFst | apply Keeps.elim) | split | with_reducible (apply Keeps.pair; assumption) | dsimp only)

theorem keep_loadIssue {s0 : Node} {a0 a1 a2 a3 a4 a5 a6 a7} (h0 : Keeps s0 a0) (h7 : ∀ x0 x1, Keeps s0 x0 → Keeps s0 (a7 x0 x1)) : Keeps s0 (loadIssue a0 a1 a2 a3 a4 a5 a6 a7) := by
  unfold loadIssue
  repeat' (first | with_reducible (first | assumption | intro _ | apply h7 | apply keep_countFar | apply keep_homeRead | apply keep_modGable | apply keep_sendLoads | apply keep_stopGroupAt | apply keep_stopPoisonAt | apply keep_stopRemoteAt | apply keep_touchRead | apply keep_withLanes | apply Keeps.ite | apply Keeps.iteFst | apply Keeps.foldl | apply Keeps.foldlFst | apply Keeps.elim) | split | with_reducible (apply Keeps.pair; assumption) | dsimp only)

theorem keep_loadOp {s0 : Node} {a0 a1 a2 a3 a4} (h0 : Keeps s0 a0) : Keeps s0 (loadOp a0 a1 a2 a3 a4) := by
  unfold loadOp
  repeat' (first | with_reducible (first | assumption | intro _ | apply keep_loadIssue | apply keep_retire | apply keep_stopGroup | apply Keeps.ite | apply Keeps.iteFst | apply Keeps.foldl | apply Keeps.foldlFst | apply Keeps.elim) | split | with_reducible (apply Keeps.pair; assumption) | dsimp only)

theorem keep_loadAgain {s0 : Node} {a0 a1 a2 a3} (h0 : Keeps s0 a0) : Keeps s0 (loadAgain a0 a1 a2 a3) := by
  unfold loadAgain
  repeat' (first | with_reducible (first | assumption | intro _ | apply keep_loadIssue | apply keep_retire | apply Keeps.ite | apply Keeps.iteFst | apply Keeps.foldl | apply Keeps.foldlFst | apply Keeps.elim) | split | with_reducible (apply Keeps.pair; assumption) | dsimp only)

theorem keep_execLd {s0 : Node} {a0 a1 a2 a3} (h3 : Keeps s0 a3.node) : KeepsS s0 (execLd a0 a1 a2 a3) := by
  unfold execLd
  repeat' (first | with_reducible (first | assumption | intro _ | apply keep_issueWord | apply keep_loadAgain | apply keep_loadOp | apply keep_onGable | apply keep_onNode | apply keep_onServed | apply KeepsO.next | apply KeepsO.fault | apply KeepsO.ite | apply Keeps.ite | apply Keeps.iteFst | apply Keeps.foldl | apply Keeps.foldlFst | apply Keeps.elim) | split | with_reducible (apply Keeps.pair; assumption) | dsimp only)

theorem keep_execLdDataReturn {s0 : Node} {a0 a1 a2 a3} (h3 : Keeps s0 a3.node) : KeepsS s0 (execLdDataReturn a0 a1 a2 a3) := by
  unfold execLdDataReturn
  repeat' (first | with_reducible (first | assumption | intro _ | apply keep_modGroup | apply keep_onGable | apply keep_stopPoisonAt | apply keep_stopRemoteAt | apply keep_onNode | apply keep_onServed | apply KeepsO.next | apply KeepsO.fault | apply KeepsO.ite | apply Keeps.ite | apply Keeps.iteFst | apply Keeps.foldl | apply Keeps.foldlFst | apply Keeps.elim) | split | with_reducible (apply Keeps.pair; assumption) | dsimp only | ((with_reducible apply Keeps.rcd); (on_goal 2 => rfl); (on_goal 2 => rfl)))

theorem keep_storeAll {s0 : Node} {a0 a1 a2 a3 a4 a5 a6} (h0 : Keeps s0 a0) : Keeps s0 (storeAll a0 a1 a2 a3 a4 a5 a6) := by
  unfold storeAll
  repeat' (first | with_reducible (first | assumption | intro _ | apply keep_dmaWriteList | apply keep_scratchWrite | apply keep_startRemoteBy | apply keep_storeLineBy | apply Keeps.ite | apply Keeps.iteFst | apply Keeps.foldl | apply Keeps.foldlFst | apply Keeps.elim) | split | with_reducible (apply Keeps.pair; assumption) | dsimp only)

theorem keep_takeEarlier {s0 : Node} {a0 a1 a2 a3} (h0 : Keeps s0 a0) : Keeps s0 (takeEarlier a0 a1 a2 a3) := by
  unfold takeEarlier
  repeat' (first | with_reducible (first | assumption | intro _ | apply keep_modGroup | apply Keeps.ite | apply Keeps.iteFst | apply Keeps.foldl | apply Keeps.foldlFst | apply Keeps.elim) | split | with_reducible (apply Keeps.pair; assumption) | dsimp only)

theorem keep_failLanes {s0 : Node} {a0 a1 a2 a3} (h0 : Keeps s0 a0) : Keeps s0 (failLanes a0 a1 a2 a3) := by
  unfold failLanes
  repeat' (first | with_reducible (first | assumption | intro _ | apply keep_logRemote | apply keep_modGroup | apply Keeps.ite | apply Keeps.iteFst | apply Keeps.foldl | apply Keeps.foldlFst | apply Keeps.elim) | split | with_reducible (apply Keeps.pair; assumption) | dsimp only)

theorem keep_storeOp {s0 : Node} {a0 a1 a2 a3 a4} (h0 : Keeps s0 a0) : Keeps s0 (storeOp a0 a1 a2 a3 a4) := by
  unfold storeOp
  repeat' (first | with_reducible (first | assumption | intro _ | apply keep_countFar | apply keep_failLanes | apply keep_retire | apply keep_stopGroup | apply keep_storeAll | apply keep_takeEarlier | apply keep_withLanes | apply Keeps.ite | apply Keeps.iteFst | apply Keeps.foldl | apply Keeps.foldlFst | apply Keeps.elim) | split | with_reducible (apply Keeps.pair; assumption) | dsimp only)

theorem keep_execSt {s0 : Node} {a0 a1 a2 a3} (h3 : Keeps s0 a3.node) : KeepsS s0 (execSt a0 a1 a2 a3) := by
  unfold execSt
  repeat' (first | with_reducible (first | assumption | intro _ | apply keep_issueWord | apply keep_onGable | apply keep_storeOp | apply keep_onNode | apply keep_onServed | apply KeepsO.next | apply KeepsO.fault | apply KeepsO.ite | apply Keeps.ite | apply Keeps.iteFst | apply Keeps.foldl | apply Keeps.foldlFst | apply Keeps.elim) | split | with_reducible (apply Keeps.pair; assumption) | dsimp only)

theorem keep_countRounds {s0 : Node} {a0 a1 a2 a3} (h0 : Keeps s0 a0) : Keeps s0 (countRounds a0 a1 a2 a3) := by
  unfold countRounds
  repeat' (first | with_reducible (first | assumption | intro _ | apply keep_cntAdd | apply Keeps.ite | apply Keeps.iteFst | apply Keeps.foldl | apply Keeps.foldlFst | apply Keeps.elim) | split | with_reducible (apply Keeps.pair; assumption) | dsimp only)

theorem keep_execLds {s0 : Node} {a0 a1 a2 a3} (h3 : Keeps s0 a3.node) : KeepsS s0 (execLds a0 a1 a2 a3) := by
  unfold execLds
  repeat' (first | with_reducible (first | assumption | intro _ | apply keep_countRounds | apply keep_issueWord | apply keep_onGable | apply keep_retire | apply keep_stopGroup | apply keep_onNode | apply keep_onServed | apply KeepsO.next | apply KeepsO.fault | apply KeepsO.ite | apply Keeps.ite | apply Keeps.iteFst | apply Keeps.foldl | apply Keeps.foldlFst | apply Keeps.elim) | split | with_reducible (apply Keeps.pair; assumption) | dsimp only)

theorem keep_execSts {s0 : Node} {a0 a1 a2 a3} (h3 : Keeps s0 a3.node) : KeepsS s0 (execSts a0 a1 a2 a3) := by
  unfold execSts
  repeat' (first | with_reducible (first | assumption | intro _ | apply keep_countRounds | apply keep_issueWord | apply keep_onGable | apply keep_retire | apply keep_scratchWrite | apply keep_stopGroup | apply keep_onNode | apply keep_onServed | apply KeepsO.next | apply KeepsO.fault | apply KeepsO.ite | apply Keeps.ite | apply Keeps.iteFst | apply Keeps.foldl | apply Keeps.foldlFst | apply Keeps.elim) | split | with_reducible (apply Keeps.pair; assumption) | dsimp only)

theorem keep_setArrival {s0 : Node} {a0 a1 a2 a3} (h0 : Keeps s0 a0) : Keeps s0 (setArrival a0 a1 a2 a3) := by
  unfold setArrival
  repeat' (first | with_reducible (first | assumption | intro _ | apply keep_fSet | apply Keeps.ite | apply Keeps.iteFst | apply Keeps.foldl | apply Keeps.foldlFst | apply Keeps.elim) | split | with_reducible (apply Keeps.pair; assumption) | dsimp only)

theorem keep_addArrival {s0 : Node} {a0 a1 a2 a3} (h0 : Keeps s0 a0) : Keeps s0 (addArrival a0 a1 a2 a3) := by
  unfold addArrival
  repeat' (first | with_reducible (first | assumption | intro _ | apply keep_setArrival | apply Keeps.ite | apply Keeps.iteFst | apply Keeps.foldl | apply Keeps.foldlFst | apply Keeps.elim) | split | with_reducible (apply Keeps.pair; assumption) | dsimp only)

theorem keep_execCntset {s0 : Node} {a0 a1 a2 a3} (h3 : Keeps s0 a3.node) : KeepsS s0 (execCntset a0 a1 a2 a3) := by
  unfold execCntset
  repeat' (first | with_reducible (first | assumption | intro _ | apply keep_issueWord | apply keep_onGable | apply keep_retire | apply keep_setArrival | apply keep_onNode | apply keep_onServed | apply KeepsO.next | apply KeepsO.fault | apply KeepsO.ite | apply Keeps.ite | apply Keeps.iteFst | apply Keeps.foldl | apply Keeps.foldlFst | apply Keeps.elim) | split | with_reducible (apply Keeps.pair; assumption) | dsimp only)

theorem keep_execCntadd {s0 : Node} {a0 a1 a2 a3} (h3 : Keeps s0 a3.node) : KeepsS s0 (execCntadd a0 a1 a2 a3) := by
  unfold execCntadd
  repeat' (first | with_reducible (first | assumption | intro _ | apply keep_addArrival | apply keep_issueWord | apply keep_onGable | apply keep_retire | apply keep_onNode | apply keep_onServed | apply KeepsO.next | apply KeepsO.fault | apply KeepsO.ite | apply Keeps.ite | apply Keeps.iteFst | apply Keeps.foldl | apply Keeps.foldlFst | apply Keeps.elim) | split | with_reducible (apply Keeps.pair; assumption) | dsimp only)

theorem keep_waitDone {s0 : Node} {a0 a1 a2 a3 a4 a5} (h0 : Keeps s0 a0) : Keeps s0 (waitDone a0 a1 a2 a3 a4 a5) := by
  unfold waitDone
  repeat' (first | with_reducible (first | assumption | intro _ | apply keep_retire | apply keep_setArrival | apply Keeps.ite | apply Keeps.iteFst | apply Keeps.foldl | apply Keeps.foldlFst | apply Keeps.elim) | split | with_reducible (apply Keeps.pair; assumption) | dsimp only)

theorem keep_execWaitcnt {s0 : Node} {a0 a1 a2 a3} (h3 : Keeps s0 a3.node) : KeepsS s0 (execWaitcnt a0 a1 a2 a3) := by
  unfold execWaitcnt
  repeat' (first | with_reducible (first | assumption | intro _ | apply keep_issueWord | apply keep_onGable | apply keep_retire | apply keep_waitDone | apply keep_waitOn | apply keep_onNode | apply keep_onServed | apply KeepsO.next | apply KeepsO.fault | apply KeepsO.ite | apply Keeps.ite | apply Keeps.iteFst | apply Keeps.foldl | apply Keeps.foldlFst | apply Keeps.elim) | split | with_reducible (apply Keeps.pair; assumption) | dsimp only)

theorem keep_execWaitcntSatisfied {s0 : Node} {a0 a1 a2} (h2 : Keeps s0 a2.node) : KeepsS s0 (execWaitcntSatisfied a0 a1 a2) := by
  unfold execWaitcntSatisfied
  repeat' (first | with_reducible (first | assumption | intro _ | apply keep_onGable | apply keep_waitDone | apply keep_onNode | apply keep_onServed | apply KeepsO.next | apply KeepsO.fault | apply KeepsO.ite | apply Keeps.ite | apply Keeps.iteFst | apply Keeps.foldl | apply Keeps.foldlFst | apply Keeps.elim) | split | with_reducible (apply Keeps.pair; assumption) | dsimp only)

theorem keep_execArrivalCntWrite {s0 : Node} {a0 a1 a2 a3} (h3 : Keeps s0 a3.node) : KeepsS s0 (execArrivalCntWrite a0 a1 a2 a3) := by
  unfold execArrivalCntWrite
  repeat' (first | with_reducible (first | assumption | intro _ | apply keep_onGable | apply keep_setArrival | apply keep_withResp | apply keep_onNode | apply keep_onServed | apply KeepsO.next | apply KeepsO.fault | apply KeepsO.ite | apply Keeps.ite | apply Keeps.iteFst | apply Keeps.foldl | apply Keeps.foldlFst | apply Keeps.elim) | split | with_reducible (apply Keeps.pair; assumption) | dsimp only)

theorem keep_execGroupResume {s0 : Node} {a0 a1 a2} (h2 : Keeps s0 a2.node) : KeepsS s0 (execGroupResume a0 a1 a2) := by
  unfold execGroupResume
  repeat' (first | with_reducible (first | assumption | intro _ | apply keep_modGroup | apply keep_onGable | apply keep_withResp | apply keep_onNode | apply keep_onServed | apply KeepsO.next | apply KeepsO.fault | apply KeepsO.ite | apply Keeps.ite | apply Keeps.iteFst | apply Keeps.foldl | apply Keeps.foldlFst | apply Keeps.elim) | split | with_reducible (apply Keeps.pair; assumption) | dsimp only)

theorem keep_execGroupKill {s0 : Node} {a0 a1 a2} (h2 : Keeps s0 a2.node) : KeepsS s0 (execGroupKill a0 a1 a2) := by
  unfold execGroupKill
  repeat' (first | with_reducible (first | assumption | intro _ | apply keep_endGroup | apply keep_modGroup | apply keep_onGable | apply keep_withResp | apply keep_onNode | apply keep_onServed | apply KeepsO.next | apply KeepsO.fault | apply KeepsO.ite | apply Keeps.ite | apply Keeps.iteFst | apply Keeps.foldl | apply Keeps.foldlFst | apply Keeps.elim) | split | with_reducible (apply Keeps.pair; assumption) | dsimp only)

theorem keep_execTdarg {s0 : Node} {a0 a1 a2 a3} (h3 : Keeps s0 a3.node) : KeepsS s0 (execTdarg a0 a1 a2 a3) := by
  unfold execTdarg
  repeat' (first | with_reducible (first | assumption | intro _ | apply keep_issueWord | apply keep_onGable | apply keep_retire | apply keep_onNode | apply keep_onServed | apply KeepsO.next | apply KeepsO.fault | apply KeepsO.ite | apply Keeps.ite | apply Keeps.iteFst | apply Keeps.foldl | apply Keeps.foldlFst | apply Keeps.elim) | split | with_reducible (apply Keeps.pair; assumption) | dsimp only)

theorem keep_execErkey {s0 : Node} {a0 a1 a2 a3} (h3 : Keeps s0 a3.node) : KeepsS s0 (execErkey a0 a1 a2 a3) := by
  unfold execErkey
  repeat' (first | with_reducible (first | assumption | intro _ | apply keep_issueWord | apply keep_onGable | apply keep_retire | apply keep_onNode | apply keep_onServed | apply KeepsO.next | apply KeepsO.fault | apply KeepsO.ite | apply Keeps.ite | apply Keeps.iteFst | apply Keeps.foldl | apply Keeps.foldlFst | apply Keeps.elim) | split | with_reducible (apply Keeps.pair; assumption) | dsimp only)

theorem keep_loadSlot {s0 : Node} {a0 a1 a2 a3} (h0 : Keeps s0 a0) : Keeps s0 (loadSlot a0 a1 a2 a3) := by
  unfold loadSlot
  repeat' (first | with_reducible (first | assumption | intro _ | apply keep_regSet | apply Keeps.ite | apply Keeps.iteFst | apply Keeps.foldl | apply Keeps.foldlFst | apply Keeps.elim) | split | with_reducible (apply Keeps.pair; assumption) | dsimp only)

theorem keep_execEpld {s0 : Node} {a0 a1 a2 a3} (h3 : Keeps s0 a3.node) : KeepsS s0 (execEpld a0 a1 a2 a3) := by
  unfold execEpld
  repeat' (first | with_reducible (first | assumption | intro _ | apply keep_issueWord | apply keep_loadSlot | apply keep_onGable | apply keep_retire | apply keep_stopGroup | apply keep_onNode | apply keep_onServed | apply KeepsO.next | apply KeepsO.fault | apply KeepsO.ite | apply Keeps.ite | apply Keeps.iteFst | apply Keeps.foldl | apply Keeps.foldlFst | apply Keeps.elim) | split | with_reducible (apply Keeps.pair; assumption) | dsimp only)

theorem keep_execElemSlotWrite {s0 : Node} {a0 a1 a2 a3 a4} (h4 : Keeps s0 a4.node) : KeepsS s0 (execElemSlotWrite a0 a1 a2 a3 a4) := by
  unfold execElemSlotWrite
  repeat' (first | with_reducible (first | assumption | intro _ | apply keep_onGable | apply keep_regSet | apply keep_withResp | apply keep_onNode | apply keep_onServed | apply KeepsO.next | apply KeepsO.fault | apply KeepsO.ite | apply Keeps.ite | apply Keeps.iteFst | apply Keeps.foldl | apply Keeps.foldlFst | apply Keeps.elim) | split | with_reducible (apply Keeps.pair; assumption) | dsimp only)

theorem keep_execGableAluInstruction {s0 : Node} {a0 a1 a2 a3} (h3 : Keeps s0 a3.node) : KeepsS s0 (execGableAluInstruction a0 a1 a2 a3) := by
  unfold execGableAluInstruction
  repeat' (first | with_reducible (first | assumption | intro _ | apply keep_countBanks | apply keep_issue | apply keep_onGable | apply keep_retire | apply keep_stopGroup | apply keep_waitOn | apply keep_onNode | apply keep_onServed | apply KeepsO.next | apply KeepsO.fault | apply KeepsO.ite | apply Keeps.ite | apply Keeps.iteFst | apply Keeps.foldl | apply Keeps.foldlFst | apply Keeps.elim) | split | with_reducible (apply Keeps.pair; assumption) | dsimp only)

theorem keep_stopBadStore {s0 : Node} {a0 a1 a2} (h0 : Keeps s0 a0) : Keeps s0 (stopBadStore a0 a1 a2) := by
  unfold stopBadStore
  repeat' (first | with_reducible (first | assumption | intro _ | apply keep_modGroup | apply keep_stopGroup | apply Keeps.ite | apply Keeps.iteFst | apply Keeps.foldl | apply Keeps.foldlFst | apply Keeps.elim) | split | with_reducible (apply Keeps.pair; assumption) | dsimp only)

theorem keep_amoLane {s0 : Node} {a0 a1 a2 a3 a4 a5} (h4 : Keeps s0 a4.1) : Keeps s0 (amoLane a0 a1 a2 a3 a4 a5).1 := by
  unfold amoLane
  repeat' (first | with_reducible (first | assumption | intro _ | apply keep_homeAtom | apply keep_mergeStore | apply keep_soleCore | apply Keeps.ite | apply Keeps.iteFst | apply Keeps.foldl | apply Keeps.foldlFst | apply Keeps.elim) | split | with_reducible (apply Keeps.pair; assumption) | dsimp only)

theorem keep_amoSend {s0 : Node} {a0 a1 a2 a3 a4 a5 a6} (h1 : Keeps s0 a1) : Keeps s0 (amoSend a0 a1 a2 a3 a4 a5 a6) := by
  unfold amoSend
  repeat' (first | with_reducible (first | assumption | intro _ | apply keep_startRemoteBy | apply Keeps.ite | apply Keeps.iteFst | apply Keeps.foldl | apply Keeps.foldlFst | apply Keeps.elim) | split | with_reducible (apply Keeps.pair; assumption) | dsimp only)

theorem keep_takeLanes {s0 : Node} {a0 a1 a2 a3 a4} (h0 : Keeps s0 a0) : Keeps s0 (takeLanes a0 a1 a2 a3 a4) := by
  unfold takeLanes
  repeat' (first | with_reducible (first | assumption | intro _ | apply Keeps.ite | apply Keeps.iteFst | apply Keeps.foldl | apply Keeps.foldlFst | apply Keeps.elim) | split | with_reducible (apply Keeps.pair; assumption) | dsimp only | ((with_reducible apply Keeps.rcd); (on_goal 2 => rfl); (on_goal 2 => rfl)))

theorem keep_amoPerform {s0 : Node} {a0 a1 a2 a3 a4 a5} (h0 : Keeps s0 a0) : Keeps s0 (amoPerform a0 a1 a2 a3 a4 a5) := by
  unfold amoPerform
  repeat' (first | with_reducible (first | assumption | intro _ | apply keep_amoLane | apply keep_retire | apply keep_stopRemote | apply keep_takeLanes | apply Keeps.ite | apply Keeps.iteFst | apply Keeps.foldl | apply Keeps.foldlFst | apply Keeps.elim) | split | with_reducible (apply Keeps.pair; assumption) | dsimp only | ((with_reducible apply Keeps.rcd); (on_goal 2 => rfl); (on_goal 2 => rfl)))

theorem keep_countLookups {s0 : Node} {a0 a1 a2} (h0 : Keeps s0 a0) : Keeps s0 (countLookups a0 a1 a2) := by
  unfold countLookups
  repeat' (first | with_reducible (first | assumption | intro _ | apply keep_cntAdd | apply Keeps.ite | apply Keeps.iteFst | apply Keeps.foldl | apply Keeps.foldlFst | apply Keeps.elim) | split | with_reducible (apply Keeps.pair; assumption) | dsimp only)

theorem keep_amoLanesGo {s0 : Node} {a0 a1 a2 a3 a4 a5 a6 a7} (h0 : Keeps s0 a0) : Keeps s0 (amoLanesGo a0 a1 a2 a3 a4 a5 a6 a7) := by
  unfold amoLanesGo
  repeat' (first | with_reducible (first | assumption | intro _ | apply keep_amoPerform | apply keep_amoSend | apply keep_countFar | apply keep_countLookups | apply keep_modGroup | apply keep_sendMiss | apply keep_setHold | apply keep_stopGroup | apply keep_stopPoison | apply keep_stopRemote | apply keep_takeEarlier | apply keep_takeLanes | apply keep_waitOn | apply Keeps.ite | apply Keeps.iteFst | apply Keeps.foldl | apply Keeps.foldlFst | apply Keeps.elim) | split | with_reducible (apply Keeps.pair; assumption) | dsimp only)

theorem keep_amoOp {s0 : Node} {a0 a1 a2 a3 a4} (h0 : Keeps s0 a0) : Keeps s0 (amoOp a0 a1 a2 a3 a4) := by
  unfold amoOp
  repeat' (first | with_reducible (first | assumption | intro _ | apply keep_amoLanesGo | apply keep_retire | apply keep_stopBadStore | apply keep_stopGroup | apply keep_waitOn | apply keep_withLanes | apply Keeps.ite | apply Keeps.iteFst | apply Keeps.foldl | apply Keeps.foldlFst | apply Keeps.elim) | split | with_reducible (apply Keeps.pair; assumption) | dsimp only)

theorem keep_execAmo {s0 : Node} {a0 a1 a2 a3} (h3 : Keeps s0 a3.node) : KeepsS s0 (execAmo a0 a1 a2 a3) := by
  unfold execAmo
  repeat' (first | with_reducible (first | assumption | intro _ | apply keep_amoOp | apply keep_issueWord | apply keep_onGable | apply keep_onNode | apply keep_onServed | apply KeepsO.next | apply KeepsO.fault | apply KeepsO.ite | apply Keeps.ite | apply Keeps.iteFst | apply Keeps.foldl | apply Keeps.foldlFst | apply Keeps.elim) | split | with_reducible (apply Keeps.pair; assumption) | dsimp only)

theorem keep_execGableFence {s0 : Node} {a0 a1 a2 a3} (h3 : Keeps s0 a3.node) : KeepsS s0 (execGableFence a0 a1 a2 a3) := by
  unfold execGableFence
  repeat' (first | with_reducible (first | assumption | intro _ | apply keep_issueWord | apply keep_onGable | apply keep_retire | apply keep_stopBadStore | apply keep_waitOn | apply keep_onNode | apply keep_onServed | apply KeepsO.next | apply KeepsO.fault | apply KeepsO.ite | apply Keeps.ite | apply Keeps.iteFst | apply Keeps.foldl | apply Keeps.foldlFst | apply Keeps.elim) | split | with_reducible (apply Keeps.pair; assumption) | dsimp only)

theorem keep_queueCopy {s0 : Node} {a0 a1 a2 a3 a4} (h0 : Keeps s0 a0) : Keeps s0 (queueCopy a0 a1 a2 a3 a4) := by
  unfold queueCopy
  repeat' (first | with_reducible (first | assumption | intro _ | apply keep_modGable | apply keep_retire | apply Keeps.ite | apply Keeps.iteFst | apply Keeps.foldl | apply Keeps.foldlFst | apply Keeps.elim) | split | with_reducible (apply Keeps.pair; assumption) | dsimp only)

theorem keep_execCopy {s0 : Node} {a0 a1 a2 a3} (h3 : Keeps s0 a3.node) : KeepsS s0 (execCopy a0 a1 a2 a3) := by
  unfold execCopy
  repeat' (first | with_reducible (first | assumption | intro _ | apply keep_issueWord | apply keep_onGable | apply keep_queueCopy | apply keep_stopGroup | apply keep_waitOn | apply keep_onNode | apply keep_onServed | apply KeepsO.next | apply KeepsO.fault | apply KeepsO.ite | apply Keeps.ite | apply Keeps.iteFst | apply Keeps.foldl | apply Keeps.foldlFst | apply Keeps.elim) | split | with_reducible (apply Keeps.pair; assumption) | dsimp only)

theorem keep_modCopy {s0 : Node} {a0 a1 a2 a3} (h0 : Keeps s0 a0) : Keeps s0 (modCopy a0 a1 a2 a3) := by
  unfold modCopy
  repeat' (first | with_reducible (first | assumption | intro _ | apply keep_modGable | apply Keeps.ite | apply Keeps.iteFst | apply Keeps.foldl | apply Keeps.foldlFst | apply Keeps.elim) | split | with_reducible (apply Keeps.pair; assumption) | dsimp only)

theorem keep_dropCopy {s0 : Node} {a0 a1 a2} (h0 : Keeps s0 a0) : Keeps s0 (dropCopy a0 a1 a2) := by
  unfold dropCopy
  repeat' (first | with_reducible (first | assumption | intro _ | apply keep_modGable | apply Keeps.ite | apply Keeps.iteFst | apply Keeps.foldl | apply Keeps.foldlFst | apply Keeps.elim) | split | with_reducible (apply Keeps.pair; assumption) | dsimp only | ((with_reducible apply Keeps.rcd); (on_goal 2 => rfl); (on_goal 2 => rfl)))

theorem keep_failCopy {s0 : Node} {a0 a1 a2 a3} (h0 : Keeps s0 a0) : Keeps s0 (failCopy a0 a1 a2 a3) := by
  unfold failCopy
  repeat' (first | with_reducible (first | assumption | intro _ | apply keep_dropCopy | apply keep_stopAtBoundary | apply Keeps.ite | apply Keeps.iteFst | apply Keeps.foldl | apply Keeps.foldlFst | apply Keeps.elim) | split | with_reducible (apply Keeps.pair; assumption) | dsimp only)

theorem keep_jobFault {s0 : Node} {a0 a1 a2 a3 a4 a5 a6 a7 a8} (h0 : Keeps s0 a0) : Keeps s0 (jobFault a0 a1 a2 a3 a4 a5 a6 a7 a8) := by
  unfold jobFault
  repeat' (first | with_reducible (first | assumption | intro _ | apply keep_modCopy | apply keep_queueFault | apply Keeps.ite | apply Keeps.iteFst | apply Keeps.foldl | apply Keeps.foldlFst | apply Keeps.elim) | split | with_reducible (apply Keeps.pair; assumption) | dsimp only)

theorem keep_jobReads {s0 : Node} {a0 a1 a2 a3} (h0 : Keeps s0 a0) : Keeps s0 (jobReads a0 a1 a2 a3) := by
  unfold jobReads
  repeat' (first | with_reducible (first | assumption | intro _ | apply keep_countFar | apply keep_homeRead | apply keep_touchRead | apply Keeps.ite | apply Keeps.iteFst | apply Keeps.foldl | apply Keeps.foldlFst | apply Keeps.elim) | split | with_reducible (apply Keeps.pair; assumption) | dsimp only)

theorem keep_refuseJob {s0 : Node} {a0 a1 a2 a3 a4} (h0 : Keeps s0 a0) : Keeps s0 (refuseJob a0 a1 a2 a3 a4) := by
  unfold refuseJob
  repeat' (first | with_reducible (first | assumption | intro _ | apply keep_failCopy | apply keep_logRemote | apply Keeps.ite | apply Keeps.iteFst | apply Keeps.foldl | apply Keeps.foldlFst | apply Keeps.elim) | split | with_reducible (apply Keeps.pair; assumption) | dsimp only)

theorem keep_startJob {s0 : Node} {a0 a1 a2 a3 a4 a5 a6 a7 a8 a9} (h0 : Keeps s0 a0) : Keeps s0 (startJob a0 a1 a2 a3 a4 a5 a6 a7 a8 a9) := by
  unfold startJob
  repeat' (first | with_reducible (first | assumption | intro _ | apply keep_countFar | apply keep_failCopy | apply keep_jobFault | apply keep_jobReads | apply keep_modCopy | apply keep_refuseJob | apply keep_transGo | apply Keeps.ite | apply Keeps.iteFst | apply Keeps.foldl | apply Keeps.foldlFst | apply Keeps.elim) | split | with_reducible (apply Keeps.pair; assumption) | dsimp only)

theorem keep_startCopy {s0 : Node} {a0 a1 a2 a3} (h0 : Keeps s0 a0) : Keeps s0 (startCopy a0 a1 a2 a3) := by
  unfold startCopy
  repeat' (first | with_reducible (first | assumption | intro _ | apply keep_failCopy | apply keep_startJob | apply Keeps.ite | apply Keeps.iteFst | apply Keeps.foldl | apply Keeps.foldlFst | apply Keeps.elim) | split | with_reducible (apply Keeps.pair; assumption) | dsimp only)

theorem keep_execCopyStart {s0 : Node} {a0 a1} (h1 : Keeps s0 a1.node) : KeepsS s0 (execCopyStart a0 a1) := by
  unfold execCopyStart
  repeat' (first | with_reducible (first | assumption | intro _ | apply keep_onGable | apply keep_startCopy | apply keep_onNode | apply keep_onServed | apply KeepsO.next | apply KeepsO.fault | apply KeepsO.ite | apply Keeps.ite | apply Keeps.iteFst | apply Keeps.foldl | apply Keeps.foldlFst | apply Keeps.elim) | split | with_reducible (apply Keeps.pair; assumption) | dsimp only)

theorem keep_landElem {s0 : Node} {a0 a1 a2 a3 a4 a5 a6} (h0 : Keeps s0 a0) : Keeps s0 (landElem a0 a1 a2 a3 a4 a5 a6) := by
  unfold landElem
  repeat' (first | with_reducible (first | assumption | intro _ | apply keep_dmaWrite | apply keep_fOr | apply keep_scratchWrite | apply Keeps.ite | apply Keeps.iteFst | apply Keeps.foldl | apply Keeps.foldlFst | apply Keeps.elim) | split | with_reducible (apply Keeps.pair; assumption) | dsimp only)

theorem keep_countLanded {s0 : Node} {a0 a1 a2 a3} (h0 : Keeps s0 a0) : Keeps s0 (countLanded a0 a1 a2 a3) := by
  unfold countLanded
  repeat' (first | with_reducible (first | assumption | intro _ | apply keep_addArrival | apply keep_cntAdd | apply Keeps.ite | apply Keeps.iteFst | apply Keeps.foldl | apply Keeps.foldlFst | apply Keeps.elim) | split | with_reducible (apply Keeps.pair; assumption) | dsimp only)

theorem keep_landCopy {s0 : Node} {a0 a1 a2 a3 a4} (h0 : Keeps s0 a0) : Keeps s0 (landCopy a0 a1 a2 a3 a4).1 := by
  unfold landCopy
  repeat' (first | with_reducible (first | assumption | intro _ | apply keep_askRun | apply keep_countLanded | apply keep_landElem | apply keep_logRemote | apply keep_startRemoteBy | apply Keeps.ite | apply Keeps.iteFst | apply Keeps.foldl | apply Keeps.foldlFst | apply Keeps.elim) | split | with_reducible (apply Keeps.pair; assumption) | dsimp only)

theorem keep_execKvg {s0 : Node} {a0 a1 a2 a3} (h3 : Keeps s0 a3.node) : KeepsS s0 (execKvg a0 a1 a2 a3) := by
  unfold execKvg
  repeat' (first | with_reducible (first | assumption | intro _ | apply keep_issueWord | apply keep_onGable | apply keep_queueCopy | apply keep_stopGroup | apply keep_waitOn | apply keep_onNode | apply keep_onServed | apply KeepsO.next | apply KeepsO.fault | apply KeepsO.ite | apply Keeps.ite | apply Keeps.iteFst | apply Keeps.foldl | apply Keeps.foldlFst | apply Keeps.elim) | split | with_reducible (apply Keeps.pair; assumption) | dsimp only)

theorem keep_gatherRows {s0 : Node} {a0 a1 a2 a3 a4 a5 a6 a7 a8} (h0 : Keeps s0 a0) : Keeps s0 (gatherRows a0 a1 a2 a3 a4 a5 a6 a7 a8) := by
  unfold gatherRows
  repeat' (first | with_reducible (first | assumption | intro _ | apply keep_failCopy | apply keep_modCopy | apply keep_startJob | apply Keeps.ite | apply Keeps.iteFst | apply Keeps.foldl | apply Keeps.foldlFst | apply Keeps.elim) | split | with_reducible (apply Keeps.pair; assumption) | dsimp only)

theorem keep_gatherList {s0 : Node} {a0 a1 a2 a3 a4 a5 a6 a7 a8 a9} (h0 : Keeps s0 a0) : Keeps s0 (gatherList a0 a1 a2 a3 a4 a5 a6 a7 a8 a9) := by
  unfold gatherList
  repeat' (first | with_reducible (first | assumption | intro _ | apply keep_askRun | apply keep_countFar | apply keep_dropCopy | apply keep_failCopy | apply keep_gatherRows | apply keep_jobReads | apply keep_logRemote | apply keep_modCopy | apply keep_refuseJob | apply keep_stopPoisonBoundary | apply Keeps.ite | apply Keeps.iteFst | apply Keeps.foldl | apply Keeps.foldlFst | apply Keeps.elim) | split | with_reducible (apply Keeps.pair; assumption) | dsimp only | ((with_reducible apply Keeps.rcd); (on_goal 2 => rfl); (on_goal 2 => rfl)))

theorem keep_startGather {s0 : Node} {a0 a1 a2 a3} (h0 : Keeps s0 a0) : Keeps s0 (startGather a0 a1 a2 a3) := by
  unfold startGather
  repeat' (first | with_reducible (first | assumption | intro _ | apply keep_failCopy | apply keep_gatherList | apply keep_jobFault | apply keep_modCopy | apply keep_transGo | apply Keeps.ite | apply Keeps.iteFst | apply Keeps.foldl | apply Keeps.foldlFst | apply Keeps.elim) | split | with_reducible (apply Keeps.pair; assumption) | dsimp only | ((with_reducible apply Keeps.rcd); (on_goal 2 => rfl); (on_goal 2 => rfl)))

theorem keep_execKvgStart {s0 : Node} {a0 a1} (h1 : Keeps s0 a1.node) : KeepsS s0 (execKvgStart a0 a1) := by
  unfold execKvgStart
  repeat' (first | with_reducible (first | assumption | intro _ | apply keep_onGable | apply keep_startGather | apply keep_onNode | apply keep_onServed | apply KeepsO.next | apply KeepsO.fault | apply KeepsO.ite | apply Keeps.ite | apply Keeps.iteFst | apply Keeps.foldl | apply Keeps.foldlFst | apply Keeps.elim) | split | with_reducible (apply Keeps.pair; assumption) | dsimp only)

theorem keep_landGather {s0 : Node} {a0 a1 a2 a3 a4} (h0 : Keeps s0 a0) : Keeps s0 (landGather a0 a1 a2 a3 a4).1 := by
  unfold landGather
  repeat' (first | with_reducible (first | assumption | intro _ | apply keep_askRun | apply keep_countLanded | apply keep_logRemote | apply keep_scratchWrite | apply Keeps.ite | apply Keeps.iteFst | apply Keeps.foldl | apply Keeps.foldlFst | apply Keeps.elim) | split | with_reducible (apply Keeps.pair; assumption) | dsimp only)

theorem keep_landOne {s0 : Node} {a0 a1 a2 a3} (h0 : Keeps s0 a0) : Keeps s0 (landOne a0 a1 a2 a3).1 := by
  unfold landOne
  repeat' (first | with_reducible (first | assumption | intro _ | apply keep_landCopy | apply keep_landGather | apply Keeps.ite | apply Keeps.iteFst | apply Keeps.foldl | apply Keeps.foldlFst | apply Keeps.elim) | split | with_reducible (apply Keeps.pair; assumption) | dsimp only)

theorem keep_landMany {s0 : Node} {a0 a1 a2 a3 a4 a5} (h3 : Keeps s0 a3) : Keeps s0 (landMany a0 a1 a2 a3 a4 a5).1 := by
  induction a2 generalizing a0 a1 a3 a4 a5 with
  | nil =>
    unfold landMany
    repeat' (first | with_reducible (first | assumption | intro _ | apply keep_landOne | apply Keeps.ite | apply Keeps.iteFst | apply Keeps.foldl | apply Keeps.foldlFst | apply Keeps.elim) | split | with_reducible (apply Keeps.pair; assumption) | dsimp only)
  | cons x l ih =>
    unfold landMany
    repeat' (first | with_reducible (first | assumption | apply ih | intro _ | apply keep_landOne | apply Keeps.ite | apply Keeps.iteFst | apply Keeps.foldl | apply Keeps.foldlFst | apply Keeps.elim) | split | with_reducible (apply Keeps.pair; assumption) | dsimp only)

theorem keep_execCopyBytesLand {s0 : Node} {a0 a1 a2 a3 a4} (h4 : Keeps s0 a4.node) : KeepsS s0 (execCopyBytesLand a0 a1 a2 a3 a4) := by
  unfold execCopyBytesLand
  repeat' (first | with_reducible (first | assumption | intro _ | apply keep_dropCopy | apply keep_failCopy | apply keep_landMany | apply keep_modCopy | apply keep_onGable | apply keep_stopPoisonBoundary | apply keep_onNode | apply keep_onServed | apply KeepsO.next | apply KeepsO.fault | apply KeepsO.ite | apply Keeps.ite | apply Keeps.iteFst | apply Keeps.foldl | apply Keeps.foldlFst | apply Keeps.elim) | split | with_reducible (apply Keeps.pair; assumption) | dsimp only)

theorem keep_matIssue {s0 : Node} {a0 a1 a2 a3 a4} (h0 : Keeps s0 a0) (h4 : ∀ x0, Keeps s0 (a4 x0)) : Keeps s0 (matIssue a0 a1 a2 a3 a4) := by
  unfold matIssue
  repeat' (first | with_reducible (first | assumption | intro _ | apply h4 | apply keep_issue | apply keep_stopGroup | apply keep_waitOn | apply Keeps.ite | apply Keeps.iteFst | apply Keeps.foldl | apply Keeps.foldlFst | apply Keeps.elim) | split | with_reducible (apply Keeps.pair; assumption) | dsimp only)

theorem keep_matMultiply {s0 : Node} {a0 a1 a2 a3} (h0 : Keeps s0 a0) : Keeps s0 (matMultiply a0 a1 a2 a3) := by
  unfold matMultiply
  repeat' (first | with_reducible (first | assumption | intro _ | apply keep_matIssue | apply keep_modGable | apply keep_stopGroup | apply keep_waitOn | apply Keeps.ite | apply Keeps.iteFst | apply Keeps.foldl | apply Keeps.foldlFst | apply Keeps.elim) | split | with_reducible (apply Keeps.pair; assumption) | dsimp only)

theorem keep_execMma {s0 : Node} {a0 a1 a2 a3} (h3 : Keeps s0 a3.node) : KeepsS s0 (execMma a0 a1 a2 a3) := by
  unfold execMma
  repeat' (first | with_reducible (first | assumption | intro _ | apply keep_matMultiply | apply keep_onGable | apply keep_onNode | apply keep_onServed | apply KeepsO.next | apply KeepsO.fault | apply KeepsO.ite | apply Keeps.ite | apply Keeps.iteFst | apply Keeps.foldl | apply Keeps.foldlFst | apply Keeps.elim) | split | with_reducible (apply Keeps.pair; assumption) | dsimp only)

theorem keep_execMmaSp {s0 : Node} {a0 a1 a2 a3} (h3 : Keeps s0 a3.node) : KeepsS s0 (execMmaSp a0 a1 a2 a3) := by
  unfold execMmaSp
  repeat' (first | with_reducible (first | assumption | intro _ | apply keep_matMultiply | apply keep_onGable | apply keep_onNode | apply keep_onServed | apply KeepsO.next | apply KeepsO.fault | apply KeepsO.ite | apply Keeps.ite | apply Keeps.iteFst | apply Keeps.foldl | apply Keeps.foldlFst | apply Keeps.elim) | split | with_reducible (apply Keeps.pair; assumption) | dsimp only)

theorem keep_enterQueues {s0 : Node} {a0 a1 a2 a3 a4 a5} (h0 : Keeps s0 a0) : Keeps s0 (enterQueues a0 a1 a2 a3 a4 a5) := by
  unfold enterQueues
  repeat' (first | with_reducible (first | assumption | intro _ | apply keep_modCell | apply keep_modGable | apply keep_retire | apply Keeps.ite | apply Keeps.iteFst | apply Keeps.foldl | apply Keeps.foldlFst | apply Keeps.elim) | split | with_reducible (apply Keeps.pair; assumption) | dsimp only)

theorem keep_execMmaQueueEnter {s0 : Node} {a0 a1 a2} (h2 : Keeps s0 a2.node) : KeepsS s0 (execMmaQueueEnter a0 a1 a2) := by
  unfold execMmaQueueEnter
  repeat' (first | with_reducible (first | assumption | intro _ | apply keep_enterQueues | apply keep_modGable | apply keep_onGable | apply keep_stopGroup | apply keep_onNode | apply keep_onServed | apply KeepsO.next | apply KeepsO.fault | apply KeepsO.ite | apply Keeps.ite | apply Keeps.iteFst | apply Keeps.foldl | apply Keeps.foldlFst | apply Keeps.elim) | split | with_reducible (apply Keeps.pair; assumption) | dsimp only)

theorem keep_execMrel {s0 : Node} {a0 a1 a2 a3} (h3 : Keeps s0 a3.node) : KeepsS s0 (execMrel a0 a1 a2 a3) := by
  unfold execMrel
  repeat' (first | with_reducible (first | assumption | intro _ | apply keep_enterQueues | apply keep_matIssue | apply keep_onGable | apply keep_retire | apply keep_stopGroup | apply keep_waitOn | apply keep_onNode | apply keep_onServed | apply KeepsO.next | apply KeepsO.fault | apply KeepsO.ite | apply Keeps.ite | apply Keeps.iteFst | apply Keeps.foldl | apply Keeps.foldlFst | apply Keeps.elim) | split | with_reducible (apply Keeps.pair; assumption) | dsimp only)

theorem keep_execMfence {s0 : Node} {a0 a1 a2 a3} (h3 : Keeps s0 a3.node) : KeepsS s0 (execMfence a0 a1 a2 a3) := by
  unfold execMfence
  repeat' (first | with_reducible (first | assumption | intro _ | apply keep_matIssue | apply keep_onGable | apply keep_retire | apply keep_waitOn | apply keep_onNode | apply keep_onServed | apply KeepsO.next | apply KeepsO.fault | apply KeepsO.ite | apply Keeps.ite | apply Keeps.iteFst | apply Keeps.foldl | apply Keeps.foldlFst | apply Keeps.elim) | split | with_reducible (apply Keeps.pair; assumption) | dsimp only)

theorem keep_execMfenceSatisfied {s0 : Node} {a0 a1 a2} (h2 : Keeps s0 a2.node) : KeepsS s0 (execMfenceSatisfied a0 a1 a2) := by
  unfold execMfenceSatisfied
  repeat' (first | with_reducible (first | assumption | intro _ | apply keep_onGable | apply keep_retire | apply keep_onNode | apply keep_onServed | apply KeepsO.next | apply KeepsO.fault | apply KeepsO.ite | apply Keeps.ite | apply Keeps.iteFst | apply Keeps.foldl | apply Keeps.foldlFst | apply Keeps.elim) | split | with_reducible (apply Keeps.pair; assumption) | dsimp only)

theorem keep_popHead {s0 : Node} {a0 a1 a2} (h0 : Keeps s0 a0) : Keeps s0 (popHead a0 a1 a2) := by
  unfold popHead
  repeat' (first | with_reducible (first | assumption | intro _ | apply keep_modCell | apply Keeps.ite | apply Keeps.iteFst | apply Keeps.foldl | apply Keeps.foldlFst | apply Keeps.elim) | split | with_reducible (apply Keeps.pair; assumption) | dsimp only)

theorem keep_discardTile {s0 : Node} {a0 a1 a2 a3 a4 a5 a6} (h0 : Keeps s0 a0) : Keeps s0 (discardTile a0 a1 a2 a3 a4 a5 a6) := by
  unfold discardTile
  repeat' (first | with_reducible (first | assumption | intro _ | apply keep_logGable | apply keep_modCell | apply keep_modGable | apply Keeps.ite | apply Keeps.iteFst | apply Keeps.foldl | apply Keeps.foldlFst | apply Keeps.elim) | split | with_reducible (apply Keeps.pair; assumption) | dsimp only)

theorem keep_skipDiscarded {s0 : Node} {a0 a1 a2 a3 a4} (h0 : Keeps s0 a0) : Keeps s0 (skipDiscarded a0 a1 a2 a3 a4) := by
  unfold skipDiscarded
  repeat' (first | with_reducible (first | assumption | intro _ | apply keep_modCell | apply keep_popHead | apply keep_settleGroup | apply Keeps.ite | apply Keeps.iteFst | apply Keeps.foldl | apply Keeps.foldlFst | apply Keeps.elim) | split | with_reducible (apply Keeps.pair; assumption) | dsimp only)

theorem keep_endInstr {s0 : Node} {a0 a1 a2 a3 a4 a5} (h0 : Keeps s0 a0) : Keeps s0 (endInstr a0 a1 a2 a3 a4 a5) := by
  unfold endInstr
  repeat' (first | with_reducible (first | assumption | intro _ | apply keep_modCell | apply keep_popHead | apply Keeps.ite | apply Keeps.iteFst | apply Keeps.foldl | apply Keeps.foldlFst | apply Keeps.elim) | split | with_reducible (apply Keeps.pair; assumption) | dsimp only)

theorem keep_kStep {s0 : Node} {a0 a1 a2 a3 a4} (h0 : Keeps s0 a0) : Keeps s0 (kStep a0 a1 a2 a3 a4) := by
  unfold kStep
  repeat' (first | with_reducible (first | assumption | intro _ | apply keep_cntAdd | apply keep_discardTile | apply keep_endInstr | apply keep_fOr | apply keep_modCell | apply keep_popHead | apply keep_settleGroup | apply keep_skipDiscarded | apply Keeps.ite | apply Keeps.iteFst | apply Keeps.foldl | apply Keeps.foldlFst | apply Keeps.elim) | split | with_reducible (apply Keeps.pair; assumption) | dsimp only)

theorem keep_execMmaKStep {s0 : Node} {a0 a1 a2} (h2 : Keeps s0 a2.node) : KeepsS s0 (execMmaKStep a0 a1 a2) := by
  unfold execMmaKStep
  repeat' (first | with_reducible (first | assumption | intro _ | apply keep_kStep | apply keep_onGable | apply keep_onNode | apply keep_onServed | apply KeepsO.next | apply KeepsO.fault | apply KeepsO.ite | apply Keeps.ite | apply Keeps.iteFst | apply Keeps.foldl | apply Keeps.foldlFst | apply Keeps.elim) | split | with_reducible (apply Keeps.pair; assumption) | dsimp only)

theorem keep_execGutterCopyStart {s0 : Node} {a0 a1 a2 a3} (h3 : Keeps s0 a3.node) : KeepsS s0 (execGutterCopyStart a0 a1 a2 a3) := by
  unfold execGutterCopyStart
  repeat' (first | with_reducible (first | assumption | intro _ | apply keep_modGable | apply keep_onGable | apply keep_onNode | apply keep_onServed | apply KeepsO.next | apply KeepsO.fault | apply KeepsO.ite | apply Keeps.ite | apply Keeps.iteFst | apply Keeps.foldl | apply Keeps.foldlFst | apply Keeps.elim) | split | with_reducible (apply Keeps.pair; assumption) | dsimp only)

theorem keep_loseTiles {s0 : Node} {a0 a1} (h0 : Keeps s0 a0) : Keeps s0 (loseTiles a0 a1) := by
  unfold loseTiles
  repeat' (first | with_reducible (first | assumption | intro _ | apply keep_modSched | apply Keeps.ite | apply Keeps.iteFst | apply Keeps.foldl | apply Keeps.foldlFst | apply Keeps.elim) | split | with_reducible (apply Keeps.pair; assumption) | dsimp only)

theorem keep_execGutterCopyDone {s0 : Node} {a0 a1 a2} (h2 : Keeps s0 a2.node) : KeepsS s0 (execGutterCopyDone a0 a1 a2) := by
  unfold execGutterCopyDone
  repeat' (first | with_reducible (first | assumption | intro _ | apply keep_loseTiles | apply keep_modCell | apply keep_modGable | apply keep_onGable | apply keep_settleGroup | apply keep_onNode | apply keep_onServed | apply KeepsO.next | apply KeepsO.fault | apply KeepsO.ite | apply Keeps.ite | apply Keeps.iteFst | apply Keeps.foldl | apply Keeps.foldlFst | apply Keeps.elim) | split | with_reducible (apply Keeps.pair; assumption) | dsimp only)

theorem keep_admitGroup {s0 : Node} {a0 a1 a2 a3 a4} (h0 : Keeps s0 a0) : Keeps s0 (admitGroup a0 a1 a2 a3 a4) := by
  unfold admitGroup
  repeat' (first | with_reducible (first | assumption | intro _ | apply keep_modGable | apply Keeps.ite | apply Keeps.iteFst | apply Keeps.foldl | apply Keeps.foldlFst | apply Keeps.elim) | split | with_reducible (apply Keeps.pair; assumption) | dsimp only)

theorem keep_newTile {s0 : Node} {a0 a1 a2 a3 a4 a5 a6 a7} (h0 : Keeps s0 a0) : Keeps s0 (newTile a0 a1 a2 a3 a4 a5 a6 a7).1 := by
  unfold newTile
  repeat' (first | with_reducible (first | assumption | intro _ | apply keep_modSched | apply Keeps.ite | apply Keeps.iteFst | apply Keeps.foldl | apply Keeps.foldlFst | apply Keeps.elim) | split | with_reducible (apply Keeps.pair; assumption) | dsimp only)

theorem keep_execGroupLaunch {s0 : Node} {a0 a1} (h1 : Keeps s0 a1.node) : KeepsS s0 (execGroupLaunch a0 a1) := by
  unfold execGroupLaunch
  repeat' (first | with_reducible (first | assumption | intro _ | apply keep_admitGroup | apply keep_modGable | apply keep_newTile | apply keep_onGable | apply keep_onNode | apply keep_onServed | apply KeepsO.next | apply KeepsO.fault | apply KeepsO.ite | apply Keeps.ite | apply Keeps.iteFst | apply Keeps.foldl | apply Keeps.foldlFst | apply Keeps.elim) | split | with_reducible (apply Keeps.pair; assumption) | dsimp only)

theorem keep_execGableDisableDone {s0 : Node} {a0 a1} (h1 : Keeps s0 a1.node) : KeepsS s0 (execGableDisableDone a0 a1) := by
  unfold execGableDisableDone
  repeat' (first | with_reducible (first | assumption | intro _ | apply keep_onGable | apply keep_ownStepEnds | apply keep_onNode | apply keep_onServed | apply KeepsO.next | apply KeepsO.fault | apply KeepsO.ite | apply Keeps.ite | apply Keeps.iteFst | apply Keeps.foldl | apply Keeps.foldlFst | apply Keeps.elim) | split | with_reducible (apply Keeps.pair; assumption) | dsimp only)

theorem keep_discardGutter {s0 : Node} {a0 a1} (h0 : Keeps s0 a0) : Keeps s0 (discardGutter a0 a1) := by
  unfold discardGutter
  repeat' (first | with_reducible (first | assumption | intro _ | apply keep_loseTiles | apply keep_modGable | apply Keeps.ite | apply Keeps.iteFst | apply Keeps.foldl | apply Keeps.foldlFst | apply Keeps.elim) | split | with_reducible (apply Keeps.pair; assumption) | dsimp only)

theorem keep_endAllGroups {s0 : Node} {a0 a1} (h0 : Keeps s0 a0) : Keeps s0 (endAllGroups a0 a1) := by
  unfold endAllGroups
  repeat' (first | with_reducible (first | assumption | intro _ | apply keep_endGroup | apply Keeps.ite | apply Keeps.iteFst | apply Keeps.foldl | apply Keeps.foldlFst | apply Keeps.elim) | split | with_reducible (apply Keeps.pair; assumption) | dsimp only)

theorem keep_sramLost {s0 : Node} {a0 a1} (h0 : Keeps s0 a0) : Keeps s0 (sramLost a0 a1) := by
  unfold sramLost
  repeat' (first | with_reducible (first | assumption | intro _ | apply keep_discardGutter | apply keep_endAllGroups | apply keep_faultBlock | apply keep_logGable | apply keep_signalGable | apply Keeps.ite | apply Keeps.iteFst | apply Keeps.foldl | apply Keeps.foldlFst | apply Keeps.elim) | split | with_reducible (apply Keeps.pair; assumption) | dsimp only)

theorem keep_execGableSramUncorrected {s0 : Node} {a0 a1} (h1 : Keeps s0 a1.node) : KeepsS s0 (execGableSramUncorrected a0 a1) := by
  unfold execGableSramUncorrected
  repeat' (first | with_reducible (first | assumption | intro _ | apply keep_onGable | apply keep_sramLost | apply keep_onNode | apply keep_onServed | apply KeepsO.next | apply KeepsO.fault | apply KeepsO.ite | apply Keeps.ite | apply Keeps.iteFst | apply Keeps.foldl | apply Keeps.foldlFst | apply Keeps.elim) | split | with_reducible (apply Keeps.pair; assumption) | dsimp only)

theorem keep_execScratchWindowAccess {s0 : Node} {a0 a1 a2 a3 a4 a5} (h5 : Keeps s0 a5.node) : KeepsS s0 (execScratchWindowAccess a0 a1 a2 a3 a4 a5) := by
  unfold execScratchWindowAccess
  repeat' (first | with_reducible (first | assumption | intro _ | apply keep_scratchWrite | apply keep_withResp | apply keep_onNode | apply keep_onServed | apply KeepsO.next | apply KeepsO.fault | apply KeepsO.ite | apply Keeps.ite | apply Keeps.iteFst | apply Keeps.foldl | apply Keeps.foldlFst | apply Keeps.elim) | split | with_reducible (apply Keeps.pair; assumption) | dsimp only)

theorem keep_addDep {s0 : Node} {a0 a1 a2} (h0 : Keeps s0 a0) : Keeps s0 (addDep a0 a1 a2) := by
  unfold addDep
  repeat' (first | with_reducible (first | assumption | intro _ | apply keep_fSet | apply Keeps.ite | apply Keeps.iteFst | apply Keeps.foldl | apply Keeps.foldlFst | apply Keeps.elim) | split | with_reducible (apply Keeps.pair; assumption) | dsimp only)

theorem keep_execDepCntWrite {s0 : Node} {a0 a1 a2} (h2 : Keeps s0 a2.node) : KeepsS s0 (execDepCntWrite a0 a1 a2) := by
  unfold execDepCntWrite
  repeat' (first | with_reducible (first | assumption | intro _ | apply keep_fSet | apply keep_onUnit | apply keep_withResp | apply keep_onNode | apply keep_onServed | apply KeepsO.next | apply KeepsO.fault | apply KeepsO.ite | apply Keeps.ite | apply Keeps.iteFst | apply Keeps.foldl | apply Keeps.foldlFst | apply Keeps.elim) | split | with_reducible (apply Keeps.pair; assumption) | dsimp only)

theorem keep_addPool {s0 : Node} {a0 a1 a2 a3 a4 a5 a6 a7 a8} (h0 : Keeps s0 a0) : Keeps s0 (addPool a0 a1 a2 a3 a4 a5 a6 a7 a8) := by
  unfold addPool
  repeat' (first | with_reducible (first | assumption | intro _ | apply keep_modSched | apply Keeps.ite | apply Keeps.iteFst | apply Keeps.foldl | apply Keeps.foldlFst | apply Keeps.elim) | split | with_reducible (apply Keeps.pair; assumption) | dsimp only)

theorem keep_modPool {s0 : Node} {a0 a1 a2 a3} (h0 : Keeps s0 a0) : Keeps s0 (modPool a0 a1 a2 a3) := by
  unfold modPool
  repeat' (first | with_reducible (first | assumption | intro _ | apply keep_modSched | apply Keeps.ite | apply Keeps.iteFst | apply Keeps.foldl | apply Keeps.foldlFst | apply Keeps.elim) | split | with_reducible (apply Keeps.pair; assumption) | dsimp only)

theorem keep_dropPool {s0 : Node} {a0 a1 a2} (h0 : Keeps s0 a0) : Keeps s0 (dropPool a0 a1 a2) := by
  unfold dropPool
  repeat' (first | with_reducible (first | assumption | intro _ | apply keep_modSched | apply Keeps.ite | apply Keeps.iteFst | apply Keeps.foldl | apply Keeps.foldlFst | apply Keeps.elim) | split | with_reducible (apply Keeps.pair; assumption) | dsimp only)

theorem keep_replaceQueue {s0 : Node} {a0 a1} (h0 : Keeps s0 a0) : Keeps s0 (replaceQueue a0 a1) := by
  unfold replaceQueue
  repeat' (first | with_reducible (first | assumption | intro _ | apply keep_modPool | apply Keeps.ite | apply Keeps.iteFst | apply Keeps.foldl | apply Keeps.foldlFst | apply Keeps.elim) | split | with_reducible (apply Keeps.pair; assumption) | dsimp only)

theorem keep_afterCtrl {s0 : Node} {a0 a1 a2} (h0 : Keeps s0 a0) (h1 : Keeps s0 a1) : Keeps s0 (afterCtrl a0 a1 a2) := by
  unfold afterCtrl
  repeat' (first | with_reducible (first | assumption | intro _ | apply keep_replaceQueue | apply Keeps.ite | apply Keeps.iteFst | apply Keeps.foldl | apply Keeps.foldlFst | apply Keeps.elim) | split | with_reducible (apply Keeps.pair; assumption) | dsimp only)

theorem keep_execGableEnableWrite {s0 : Node} {a0 a1 a2} (h2 : Keeps s0 a2.node) : KeepsS s0 (execGableEnableWrite a0 a1 a2) := by
  unfold execGableEnableWrite
  repeat' (first | with_reducible (first | assumption | intro _ | apply keep_afterCtrl | apply keep_enableWrite | apply keep_fSet | apply keep_onGable | apply keep_withResp | apply keep_onNode | apply keep_onServed | apply KeepsO.next | apply KeepsO.fault | apply KeepsO.ite | apply Keeps.ite | apply Keeps.iteFst | apply Keeps.foldl | apply Keeps.foldlFst | apply Keeps.elim) | split | with_reducible (apply Keeps.pair; assumption) | dsimp only)

theorem keep_execGableEnableDone {s0 : Node} {a0 a1} (h1 : Keeps s0 a1.node) : KeepsS s0 (execGableEnableDone a0 a1) := by
  unfold execGableEnableDone
  repeat' (first | with_reducible (first | assumption | intro _ | apply keep_afterCtrl | apply keep_onGable | apply keep_ownStepEnds | apply keep_onNode | apply keep_onServed | apply KeepsO.next | apply KeepsO.fault | apply KeepsO.ite | apply Keeps.ite | apply Keeps.iteFst | apply Keeps.foldl | apply Keeps.foldlFst | apply Keeps.elim) | split | with_reducible (apply Keeps.pair; assumption) | dsimp only)

theorem keep_execTsListAddrWrite {s0 : Node} {a0 a1 a2 a3} (h3 : Keeps s0 a3.node) : KeepsS s0 (execTsListAddrWrite a0 a1 a2 a3) := by
  unfold execTsListAddrWrite
  repeat' (first | with_reducible (first | assumption | intro _ | apply keep_modSched | apply keep_onDie | apply keep_withResp | apply keep_onNode | apply keep_onServed | apply KeepsO.next | apply KeepsO.fault | apply KeepsO.ite | apply Keeps.ite | apply Keeps.iteFst | apply Keeps.foldl | apply Keeps.foldlFst | apply Keeps.elim) | split | with_reducible (apply Keeps.pair; assumption) | dsimp only)

theorem keep_tsEvent {s0 : Node} {a0 a1} (h0 : Keeps s0 a0) : Keeps s0 (tsEvent a0 a1) := by
  unfold tsEvent
  repeat' (first | with_reducible (first | assumption | intro _ | apply keep_signal | apply Keeps.ite | apply Keeps.iteFst | apply Keeps.foldl | apply Keeps.foldlFst | apply Keeps.elim) | split | with_reducible (apply Keeps.pair; assumption) | dsimp only)

theorem keep_submitList {s0 : Node} {a0 a1 a2 a3 a4} (h0 : Keeps s0 a0) : Keeps s0 (submitList a0 a1 a2 a3 a4) := by
  unfold submitList
  repeat' (first | with_reducible (first | assumption | intro _ | apply keep_fOr | apply keep_modSched | apply keep_tsEvent | apply Keeps.ite | apply Keeps.iteFst | apply Keeps.foldl | apply Keeps.foldlFst | apply Keeps.elim) | split | with_reducible (apply Keeps.pair; assumption) | dsimp only)

theorem keep_execTsListGoWrite {s0 : Node} {a0 a1 a2 a3} (h3 : Keeps s0 a3.node) : KeepsS s0 (execTsListGoWrite a0 a1 a2 a3) := by
  unfold execTsListGoWrite
  repeat' (first | with_reducible (first | assumption | intro _ | apply keep_onDie | apply keep_submitList | apply keep_withResp | apply keep_onNode | apply keep_onServed | apply KeepsO.next | apply KeepsO.fault | apply KeepsO.ite | apply Keeps.ite | apply Keeps.iteFst | apply Keeps.foldl | apply Keeps.foldlFst | apply Keeps.elim) | split | with_reducible (apply Keeps.pair; assumption) | dsimp only)

theorem keep_modHeadList {s0 : Node} {a0 a1 a2} (h0 : Keeps s0 a0) : Keeps s0 (modHeadList a0 a1 a2) := by
  unfold modHeadList
  repeat' (first | with_reducible (first | assumption | intro _ | apply keep_modSched | apply Keeps.ite | apply Keeps.iteFst | apply Keeps.foldl | apply Keeps.foldlFst | apply Keeps.elim) | split | with_reducible (apply Keeps.pair; assumption) | dsimp only)

theorem keep_nextInList {s0 : Node} {a0 a1} (h0 : Keeps s0 a0) : Keeps s0 (nextInList a0 a1) := by
  unfold nextInList
  repeat' (first | with_reducible (first | assumption | intro _ | apply keep_modSched | apply Keeps.ite | apply Keeps.iteFst | apply Keeps.foldl | apply Keeps.foldlFst | apply Keeps.elim) | split | with_reducible (apply Keeps.pair; assumption) | dsimp only)

theorem keep_takeWords {s0 : Node} {a0 a1 a2 a3} (h0 : Keeps s0 a0) : Keeps s0 (takeWords a0 a1 a2 a3) := by
  unfold takeWords
  repeat' (first | with_reducible (first | assumption | intro _ | apply keep_addPool | apply keep_logErr | apply keep_nextInList | apply keep_tsEvent | apply Keeps.ite | apply Keeps.iteFst | apply Keeps.foldl | apply Keeps.foldlFst | apply Keeps.elim) | split | with_reducible (apply Keeps.pair; assumption) | dsimp only)

theorem keep_takeDesc {s0 : Node} {a0 a1 a2 a3 a4} (h0 : Keeps s0 a0) : Keeps s0 (takeDesc a0 a1 a2 a3 a4) := by
  unfold takeDesc
  repeat' (first | with_reducible (first | assumption | intro _ | apply keep_countFar | apply keep_homeRead | apply keep_logErr | apply keep_logRemote | apply keep_nextInList | apply keep_startRemoteBy | apply keep_takeRemote | apply keep_takeWords | apply keep_touchRead | apply Keeps.ite | apply Keeps.iteFst | apply Keeps.foldl | apply Keeps.foldlFst | apply Keeps.elim) | split | with_reducible (apply Keeps.pair; assumption) | dsimp only)

theorem keep_execTileDescFetch {s0 : Node} {a0 a1} (h1 : Keeps s0 a1.node) : KeepsS s0 (execTileDescFetch a0 a1) := by
  unfold execTileDescFetch
  repeat' (first | with_reducible (first | assumption | intro _ | apply keep_logErr | apply keep_logRemote | apply keep_modHeadList | apply keep_modSched | apply keep_onDie | apply keep_queueFault | apply keep_takeDesc | apply keep_translateAll | apply keep_onNode | apply keep_onServed | apply KeepsO.next | apply KeepsO.fault | apply KeepsO.ite | apply Keeps.ite | apply Keeps.iteFst | apply Keeps.foldl | apply Keeps.foldlFst | apply Keeps.elim) | split | with_reducible (apply Keeps.pair; assumption) | dsimp only)

theorem keep_launchPiece {s0 : Node} {a0 a1 a2 a3 a4 a5} (h0 : Keeps s0 a0) : Keeps s0 (launchPiece a0 a1 a2 a3 a4 a5) := by
  unfold launchPiece
  repeat' (first | with_reducible (first | assumption | intro _ | apply keep_admitGroup | apply keep_cntAdd | apply Keeps.ite | apply Keeps.iteFst | apply Keeps.foldl | apply Keeps.foldlFst | apply Keeps.elim) | split | with_reducible (apply Keeps.pair; assumption) | dsimp only)

theorem keep_launchEntry {s0 : Node} {a0 a1 a2} (h0 : Keeps s0 a0) : Keeps s0 (launchEntry a0 a1 a2) := by
  unfold launchEntry
  repeat' (first | with_reducible (first | assumption | intro _ | apply keep_addPool | apply keep_cntAdd | apply keep_dropPool | apply keep_launchPiece | apply keep_newTile | apply Keeps.ite | apply Keeps.iteFst | apply Keeps.foldl | apply Keeps.foldlFst | apply Keeps.elim) | split | with_reducible (apply Keeps.pair; assumption) | dsimp only)

theorem keep_execTileLaunch {s0 : Node} {a0 a1} (h1 : Keeps s0 a1.node) : KeepsS s0 (execTileLaunch a0 a1) := by
  unfold execTileLaunch
  repeat' (first | with_reducible (first | assumption | intro _ | apply keep_launchEntry | apply keep_onGable | apply keep_onNode | apply keep_onServed | apply KeepsO.next | apply KeepsO.fault | apply KeepsO.ite | apply Keeps.ite | apply Keeps.iteFst | apply Keeps.foldl | apply Keeps.foldlFst | apply Keeps.elim) | split | with_reducible (apply Keeps.pair; assumption) | dsimp only)

theorem keep_moveTiles {s0 : Node} {a0 a1 a2 a3 a4 a5} (h5 : Keeps s0 a5) : Keeps s0 (moveTiles a0 a1 a2 a3 a4 a5) := by
  induction a4 generalizing a0 a1 a2 a3 a5 with
  | zero =>
    unfold moveTiles
    repeat' (first | with_reducible (first | assumption | intro _ | apply keep_addPool | apply keep_dropPool | apply Keeps.ite | apply Keeps.iteFst | apply Keeps.foldl | apply Keeps.foldlFst | apply Keeps.elim) | split | with_reducible (apply Keeps.pair; assumption) | dsimp only)
  | succ n ih =>
    unfold moveTiles
    repeat' (first | with_reducible (first | assumption | apply ih | intro _ | apply keep_addPool | apply keep_dropPool | apply Keeps.ite | apply Keeps.iteFst | apply Keeps.foldl | apply Keeps.foldlFst | apply Keeps.elim) | split | with_reducible (apply Keeps.pair; assumption) | dsimp only)

theorem keep_give {s0 : Node} {a0 a1 a2 a3} (h0 : Keeps s0 a0) : Keeps s0 (give a0 a1 a2 a3) := by
  unfold give
  repeat' (first | with_reducible (first | assumption | intro _ | apply keep_cntAdd | apply keep_moveTiles | apply Keeps.ite | apply Keeps.iteFst | apply Keeps.foldl | apply Keeps.foldlFst | apply Keeps.elim) | split | with_reducible (apply Keeps.pair; assumption) | dsimp only)

theorem keep_execTileSteal {s0 : Node} {a0 a1} (h1 : Keeps s0 a1.node) : KeepsS s0 (execTileSteal a0 a1) := by
  unfold execTileSteal
  repeat' (first | with_reducible (first | assumption | intro _ | apply keep_cntAdd | apply keep_give | apply keep_modPool | apply keep_onGable | apply keep_onNode | apply keep_onServed | apply KeepsO.next | apply KeepsO.fault | apply KeepsO.ite | apply Keeps.ite | apply Keeps.iteFst | apply Keeps.foldl | apply Keeps.foldlFst | apply Keeps.elim) | split | with_reducible (apply Keeps.pair; assumption) | dsimp only)

theorem keep_execBrokerStealRequest {s0 : Node} {a0 a1 a2} (h2 : Keeps s0 a2.node) : KeepsS s0 (execBrokerStealRequest a0 a1 a2) := by
  unfold execBrokerStealRequest
  repeat' (first | with_reducible (first | assumption | intro _ | apply keep_give | apply keep_onDie | apply keep_onNode | apply keep_onServed | apply KeepsO.next | apply KeepsO.fault | apply KeepsO.ite | apply Keeps.ite | apply Keeps.iteFst | apply Keeps.foldl | apply Keeps.foldlFst | apply Keeps.elim) | split | with_reducible (apply Keeps.pair; assumption) | dsimp only)

theorem keep_execTileComplete {s0 : Node} {a0 a1 a2} (h2 : Keeps s0 a2.node) : KeepsS s0 (execTileComplete a0 a1 a2) := by
  unfold execTileComplete
  repeat' (first | with_reducible (first | assumption | intro _ | apply keep_addDep | apply keep_modSched | apply keep_onDie | apply keep_onNode | apply keep_onServed | apply KeepsO.next | apply KeepsO.fault | apply KeepsO.ite | apply Keeps.ite | apply Keeps.iteFst | apply Keeps.foldl | apply Keeps.foldlFst | apply Keeps.elim) | split | with_reducible (apply Keeps.pair; assumption) | dsimp only)

theorem keep_execTsEnableWrite {s0 : Node} {a0 a1 a2} (h2 : Keeps s0 a2.node) : KeepsS s0 (execTsEnableWrite a0 a1 a2) := by
  unfold execTsEnableWrite
  repeat' (first | with_reducible (first | assumption | intro _ | apply keep_enableWrite | apply keep_fSet | apply keep_onDie | apply keep_withResp | apply keep_onNode | apply keep_onServed | apply KeepsO.next | apply KeepsO.fault | apply KeepsO.ite | apply Keeps.ite | apply Keeps.iteFst | apply Keeps.foldl | apply Keeps.foldlFst | apply Keeps.elim) | split | with_reducible (apply Keeps.pair; assumption) | dsimp only)

theorem keep_execTsDisableDone {s0 : Node} {a0 a1} (h1 : Keeps s0 a1.node) : KeepsS s0 (execTsDisableDone a0 a1) := by
  unfold execTsDisableDone
  repeat' (first | with_reducible (first | assumption | intro _ | apply keep_onDie | apply keep_ownStepEnds | apply keep_onNode | apply keep_onServed | apply KeepsO.next | apply KeepsO.fault | apply KeepsO.ite | apply Keeps.ite | apply Keeps.iteFst | apply Keeps.foldl | apply Keeps.foldlFst | apply Keeps.elim) | split | with_reducible (apply Keeps.pair; assumption) | dsimp only)

theorem keep_execBrokerEnableWrite {s0 : Node} {a0 a1 a2} (h2 : Keeps s0 a2.node) : KeepsS s0 (execBrokerEnableWrite a0 a1 a2) := by
  unfold execBrokerEnableWrite
  repeat' (first | with_reducible (first | assumption | intro _ | apply keep_enableWrite | apply keep_fSet | apply keep_onBase | apply keep_withResp | apply keep_onNode | apply keep_onServed | apply KeepsO.next | apply KeepsO.fault | apply KeepsO.ite | apply Keeps.ite | apply Keeps.iteFst | apply Keeps.foldl | apply Keeps.foldlFst | apply Keeps.elim) | split | with_reducible (apply Keeps.pair; assumption) | dsimp only)

theorem keep_execSeqEntryStageWrite {s0 : Node} {a0 a1 a2 a3} (h3 : Keeps s0 a3.node) : KeepsS s0 (execSeqEntryStageWrite a0 a1 a2 a3) := by
  unfold execSeqEntryStageWrite
  repeat' (first | with_reducible (first | assumption | intro _ | apply keep_onUnit | apply keep_withResp | apply keep_onNode | apply keep_onServed | apply KeepsO.next | apply KeepsO.fault | apply KeepsO.ite | apply Keeps.ite | apply Keeps.iteFst | apply Keeps.foldl | apply Keeps.foldlFst | apply Keeps.elim) | split | with_reducible (apply Keeps.pair; assumption) | dsimp only | ((with_reducible apply Keeps.rcd); (on_goal 2 => rfl); (on_goal 2 => rfl)))

theorem keep_execSeqEntryCommit {s0 : Node} {a0 a1 a2} (h2 : Keeps s0 a2.node) : KeepsS s0 (execSeqEntryCommit a0 a1 a2) := by
  unfold execSeqEntryCommit
  repeat' (first | with_reducible (first | assumption | intro _ | apply keep_fOr | apply keep_onUnit | apply keep_regSet | apply keep_withResp | apply keep_onNode | apply keep_onServed | apply KeepsO.next | apply KeepsO.fault | apply KeepsO.ite | apply Keeps.ite | apply Keeps.iteFst | apply Keeps.foldl | apply Keeps.foldlFst | apply Keeps.elim) | split | with_reducible (apply Keeps.pair; assumption) | dsimp only)

theorem keep_execLayoutBatchWrite {s0 : Node} {a0 a1 a2} (h2 : Keeps s0 a2.node) : KeepsS s0 (execLayoutBatchWrite a0 a1 a2) := by
  unfold execLayoutBatchWrite
  repeat' (first | with_reducible (first | assumption | intro _ | apply keep_regSet | apply keep_storeReg | apply keep_withResp | apply keep_onNode | apply keep_onServed | apply KeepsO.next | apply KeepsO.fault | apply KeepsO.ite | apply Keeps.ite | apply Keeps.iteFst | apply Keeps.foldl | apply Keeps.foldlFst | apply Keeps.elim) | split | with_reducible (apply Keeps.pair; assumption) | dsimp only)

theorem keep_updateTimers {s0 : Node} {a0 a1} (h0 : Keeps s0 a0) : Keeps s0 (updateTimers a0 a1) := by
  unfold updateTimers
  repeat' (first | with_reducible (first | assumption | intro _ | apply keep_modCore | apply Keeps.ite | apply Keeps.iteFst | apply Keeps.foldl | apply Keeps.foldlFst | apply Keeps.elim) | split | with_reducible (apply Keeps.pair; assumption) | dsimp only)

theorem keep_passTimers {s0 : Node} {a0} (h0 : Keeps s0 a0) : Keeps s0 (passTimers a0) := by
  unfold passTimers
  repeat' (first | with_reducible (first | assumption | intro _ | apply keep_updateTimers | apply Keeps.ite | apply Keeps.iteFst | apply Keeps.foldl | apply Keeps.foldlFst | apply Keeps.elim) | split | with_reducible (apply Keeps.pair; assumption) | dsimp only)

theorem keep_execTimerInterrupt {s0 : Node} {a0 a1} (h1 : Keeps s0 a1.node) : KeepsS s0 (execTimerInterrupt a0 a1) := by
  unfold execTimerInterrupt
  repeat' (first | with_reducible (first | assumption | intro _ | apply keep_onCore | apply keep_updateTimers | apply keep_onNode | apply keep_onServed | apply KeepsO.next | apply KeepsO.fault | apply KeepsO.ite | apply Keeps.ite | apply Keeps.iteFst | apply Keeps.foldl | apply Keeps.foldlFst | apply Keeps.elim) | split | with_reducible (apply Keeps.pair; assumption) | dsimp only)

theorem keep_execImsicSeteipnumWrite {s0 : Node} {a0 a1 a2 a3} (h3 : Keeps s0 a3.node) : KeepsS s0 (execImsicSeteipnumWrite a0 a1 a2 a3) := by
  unfold execImsicSeteipnumWrite
  repeat' (first | with_reducible (first | assumption | intro _ | apply keep_onCore | apply keep_sendMsi | apply keep_withResp | apply keep_onNode | apply keep_onServed | apply KeepsO.next | apply KeepsO.fault | apply KeepsO.ite | apply Keeps.ite | apply Keeps.iteFst | apply Keeps.foldl | apply Keeps.foldlFst | apply Keeps.elim) | split | with_reducible (apply Keeps.pair; assumption) | dsimp only)

theorem keep_aiaSet {s0 : Node} {a0 a1 a2 a3 a4} (h0 : Keeps s0 a0) : Keeps s0 (aiaSet a0 a1 a2 a3 a4) := by
  unfold aiaSet
  repeat' (first | with_reducible (first | assumption | intro _ | apply keep_regSet | apply Keeps.ite | apply Keeps.iteFst | apply Keeps.foldl | apply Keeps.foldlFst | apply Keeps.elim) | split | with_reducible (apply Keeps.pair; assumption) | dsimp only)

theorem keep_aplicDeliverAll {s0 : Node} {a0 a1 a2} (h0 : Keeps s0 a0) : Keeps s0 (aplicDeliverAll a0 a1 a2) := by
  unfold aplicDeliverAll
  repeat' (first | with_reducible (first | assumption | intro _ | apply keep_aplicDeliver | apply Keeps.ite | apply Keeps.iteFst | apply Keeps.foldl | apply Keeps.foldlFst | apply Keeps.elim) | split | with_reducible (apply Keeps.pair; assumption) | dsimp only)

theorem keep_aplicSetIp {s0 : Node} {a0 a1 a2 a3} (h0 : Keeps s0 a0) : Keeps s0 (aplicSetIp a0 a1 a2 a3) := by
  unfold aplicSetIp
  repeat' (first | with_reducible (first | assumption | intro _ | apply keep_modAplic | apply Keeps.ite | apply Keeps.iteFst | apply Keeps.foldl | apply Keeps.foldlFst | apply Keeps.elim) | split | with_reducible (apply Keeps.pair; assumption) | dsimp only)

theorem keep_aplicClrIp {s0 : Node} {a0 a1 a2 a3} (h0 : Keeps s0 a0) : Keeps s0 (aplicClrIp a0 a1 a2 a3) := by
  unfold aplicClrIp
  repeat' (first | with_reducible (first | assumption | intro _ | apply keep_modAplic | apply Keeps.ite | apply Keeps.iteFst | apply Keeps.foldl | apply Keeps.foldlFst | apply Keeps.elim) | split | with_reducible (apply Keeps.pair; assumption) | dsimp only)

theorem keep_aplicSetIe {s0 : Node} {a0 a1 a2 a3} (h0 : Keeps s0 a0) : Keeps s0 (aplicSetIe a0 a1 a2 a3) := by
  unfold aplicSetIe
  repeat' (first | with_reducible (first | assumption | intro _ | apply keep_modAplic | apply Keeps.ite | apply Keeps.iteFst | apply Keeps.foldl | apply Keeps.foldlFst | apply Keeps.elim) | split | with_reducible (apply Keeps.pair; assumption) | dsimp only)

theorem keep_aplicClrIe {s0 : Node} {a0 a1 a2 a3} (h0 : Keeps s0 a0) : Keeps s0 (aplicClrIe a0 a1 a2 a3) := by
  unfold aplicClrIe
  repeat' (first | with_reducible (first | assumption | intro _ | apply keep_modAplic | apply Keeps.ite | apply Keeps.iteFst | apply Keeps.foldl | apply Keeps.foldlFst | apply Keeps.elim) | split | with_reducible (apply Keeps.pair; assumption) | dsimp only)

theorem keep_aplicQuiet {s0 : Node} {a0 a1 a2 a3} (h0 : Keeps s0 a0) : Keeps s0 (aplicQuiet a0 a1 a2 a3) := by
  unfold aplicQuiet
  repeat' (first | with_reducible (first | assumption | intro _ | apply keep_aiaSet | apply keep_aplicClrIe | apply keep_aplicClrIp | apply Keeps.ite | apply Keeps.iteFst | apply Keeps.foldl | apply Keeps.foldlFst | apply Keeps.elim) | split | with_reducible (apply Keeps.pair; assumption) | dsimp only)

theorem keep_aplicSourcecfg {s0 : Node} {a0 a1 a2 a3 a4} (h0 : Keeps s0 a0) : Keeps s0 (aplicSourcecfg a0 a1 a2 a3 a4) := by
  unfold aplicSourcecfg
  repeat' (first | with_reducible (first | assumption | intro _ | apply keep_aiaSet | apply keep_aplicClrIp | apply keep_aplicQuiet | apply keep_aplicSetIp | apply Keeps.ite | apply Keeps.iteFst | apply Keeps.foldl | apply Keeps.foldlFst | apply Keeps.elim) | split | with_reducible (apply Keeps.pair; assumption) | dsimp only)

theorem keep_aplicTarget {s0 : Node} {a0 a1 a2 a3 a4} (h0 : Keeps s0 a0) : Keeps s0 (aplicTarget a0 a1 a2 a3 a4) := by
  unfold aplicTarget
  repeat' (first | with_reducible (first | assumption | intro _ | apply keep_aiaSet | apply Keeps.ite | apply Keeps.iteFst | apply Keeps.foldl | apply Keeps.foldlFst | apply Keeps.elim) | split | with_reducible (apply Keeps.pair; assumption) | dsimp only)

theorem keep_aplicWrite {s0 : Node} {a0 a1 a2 a3 a4} (h0 : Keeps s0 a0) : Keeps s0 (aplicWrite a0 a1 a2 a3 a4) := by
  unfold aplicWrite
  repeat' (first | with_reducible (first | assumption | intro _ | apply keep_aiaSet | apply keep_aplicClrIe | apply keep_aplicClrIp | apply keep_aplicDeliverAll | apply keep_aplicSetIe | apply keep_aplicSetIp | apply keep_aplicSourcecfg | apply keep_aplicTarget | apply keep_sendMsi | apply Keeps.ite | apply Keeps.iteFst | apply Keeps.foldl | apply Keeps.foldlFst | apply Keeps.elim) | split | with_reducible (apply Keeps.pair; assumption) | dsimp only)

theorem keep_execAplicRegisterWrite {s0 : Node} {a0 a1 a2 a3 a4} (h4 : Keeps s0 a4.node) : KeepsS s0 (execAplicRegisterWrite a0 a1 a2 a3 a4) := by
  unfold execAplicRegisterWrite
  repeat' (first | with_reducible (first | assumption | intro _ | apply keep_aplicWrite | apply keep_onBase | apply keep_withResp | apply keep_onNode | apply keep_onServed | apply KeepsO.next | apply KeepsO.fault | apply KeepsO.ite | apply Keeps.ite | apply Keeps.iteFst | apply Keeps.foldl | apply Keeps.foldlFst | apply Keeps.elim) | split | with_reducible (apply Keeps.pair; assumption) | dsimp only)

theorem keep_execAplicSourceEvent {s0 : Node} {a0 a1 a2} (h2 : Keeps s0 a2.node) : KeepsS s0 (execAplicSourceEvent a0 a1 a2) := by
  unfold execAplicSourceEvent
  repeat' (first | with_reducible (first | assumption | intro _ | apply keep_onBase | apply keep_signal | apply keep_onNode | apply keep_onServed | apply KeepsO.next | apply KeepsO.fault | apply KeepsO.ite | apply Keeps.ite | apply Keeps.iteFst | apply Keeps.foldl | apply Keeps.foldlFst | apply Keeps.elim) | split | with_reducible (apply Keeps.pair; assumption) | dsimp only)

theorem keep_execGlaunchWrite {s0 : Node} {a0 a1 a2} (h2 : Keeps s0 a2.node) : KeepsS s0 (execGlaunchWrite a0 a1 a2) := by
  unfold execGlaunchWrite
  repeat' (first | with_reducible (first | assumption | intro _ | apply keep_fSet | apply keep_modGable | apply keep_onGable | apply keep_withResp | apply keep_onNode | apply keep_onServed | apply KeepsO.next | apply KeepsO.fault | apply KeepsO.ite | apply Keeps.ite | apply Keeps.iteFst | apply Keeps.foldl | apply Keeps.foldlFst | apply Keeps.elim) | split | with_reducible (apply Keeps.pair; assumption) | dsimp only)

theorem keep_dropLaunch {s0 : Node} {a0 a1} (h0 : Keeps s0 a0) : Keeps s0 (dropLaunch a0 a1) := by
  unfold dropLaunch
  repeat' (first | with_reducible (first | assumption | intro _ | apply keep_fSet | apply keep_modGable | apply Keeps.ite | apply Keeps.iteFst | apply Keeps.foldl | apply Keeps.foldlFst | apply Keeps.elim) | split | with_reducible (apply Keeps.pair; assumption) | dsimp only)

theorem keep_takeBlock {s0 : Node} {a0 a1 a2} (h0 : Keeps s0 a0) : Keeps s0 (takeBlock a0 a1 a2) := by
  unfold takeBlock
  repeat' (first | with_reducible (first | assumption | intro _ | apply keep_dropLaunch | apply keep_logGable | apply keep_modGable | apply Keeps.ite | apply Keeps.iteFst | apply Keeps.foldl | apply Keeps.foldlFst | apply Keeps.elim) | split | with_reducible (apply Keeps.pair; assumption) | dsimp only)

theorem keep_poisonLaunch {s0 : Node} {a0 a1 a2} (h0 : Keeps s0 a0) : Keeps s0 (poisonLaunch a0 a1 a2) := by
  unfold poisonLaunch
  repeat' (first | with_reducible (first | assumption | intro _ | apply keep_dropLaunch | apply keep_logGable | apply Keeps.ite | apply Keeps.iteFst | apply Keeps.foldl | apply Keeps.foldlFst | apply Keeps.elim) | split | with_reducible (apply Keeps.pair; assumption) | dsimp only)

theorem keep_launchAnswer {s0 : Node} {a0 a1 a2} (h0 : Keeps s0 a0) : Keeps s0 (launchAnswer a0 a1 a2) := by
  unfold launchAnswer
  repeat' (first | with_reducible (first | assumption | intro _ | apply keep_dropLaunch | apply keep_logRemote | apply keep_poisonLaunch | apply keep_takeBlock | apply keep_takeRemote | apply Keeps.ite | apply Keeps.iteFst | apply Keeps.foldl | apply Keeps.foldlFst | apply Keeps.elim) | split | with_reducible (apply Keeps.pair; assumption) | dsimp only)

theorem keep_readLaunch {s0 : Node} {a0 a1 a2 a3 a4 a5} (h0 : Keeps s0 a0) : Keeps s0 (readLaunch a0 a1 a2 a3 a4 a5) := by
  unfold readLaunch
  repeat' (first | with_reducible (first | assumption | intro _ | apply keep_countFar | apply keep_dropLaunch | apply keep_homeRead | apply keep_logGable | apply keep_logRemote | apply keep_poisonLaunch | apply keep_startRemoteBy | apply keep_takeBlock | apply keep_touchRead | apply Keeps.ite | apply Keeps.iteFst | apply Keeps.foldl | apply Keeps.foldlFst | apply Keeps.elim) | split | with_reducible (apply Keeps.pair; assumption) | dsimp only)

theorem keep_execGlaunchFetchDone {s0 : Node} {a0 a1} (h1 : Keeps s0 a1.node) : KeepsS s0 (execGlaunchFetchDone a0 a1) := by
  unfold execGlaunchFetchDone
  repeat' (first | with_reducible (first | assumption | intro _ | apply keep_launchAnswer | apply keep_modGable | apply keep_onGable | apply keep_queueFault | apply keep_readLaunch | apply keep_translateAll | apply keep_onNode | apply keep_onServed | apply KeepsO.next | apply KeepsO.fault | apply KeepsO.ite | apply Keeps.ite | apply Keeps.iteFst | apply Keeps.foldl | apply Keeps.foldlFst | apply Keeps.elim) | split | with_reducible (apply Keeps.pair; assumption) | dsimp only)

theorem keep_fireWatch {s0 : Node} {a0 a1 a2} (h0 : Keeps s0 a0) : Keeps s0 (fireWatch a0 a1 a2) := by
  unfold fireWatch
  repeat' (first | with_reducible (first | assumption | intro _ | apply keep_fSet | apply keep_sendMsi | apply Keeps.ite | apply Keeps.iteFst | apply Keeps.foldl | apply Keeps.foldlFst | apply Keeps.elim) | split | with_reducible (apply Keeps.pair; assumption) | dsimp only)

theorem keep_execDepWatchWrite {s0 : Node} {a0 a1 a2 a3} (h3 : Keeps s0 a3.node) : KeepsS s0 (execDepWatchWrite a0 a1 a2 a3) := by
  unfold execDepWatchWrite
  repeat' (first | with_reducible (first | assumption | intro _ | apply keep_fSet | apply keep_fireWatch | apply keep_onDie | apply keep_storeReg | apply keep_withResp | apply keep_onNode | apply keep_onServed | apply KeepsO.next | apply KeepsO.fault | apply KeepsO.ite | apply Keeps.ite | apply Keeps.iteFst | apply Keeps.foldl | apply Keeps.foldlFst | apply Keeps.elim) | split | with_reducible (apply Keeps.pair; assumption) | dsimp only)

theorem keep_execDepWatchFire {s0 : Node} {a0 a1 a2} (h2 : Keeps s0 a2.node) : KeepsS s0 (execDepWatchFire a0 a1 a2) := by
  unfold execDepWatchFire
  repeat' (first | with_reducible (first | assumption | intro _ | apply keep_fireWatch | apply keep_onDie | apply keep_onNode | apply keep_onServed | apply KeepsO.next | apply KeepsO.fault | apply KeepsO.ite | apply Keeps.ite | apply Keeps.iteFst | apply Keeps.foldl | apply Keeps.foldlFst | apply Keeps.elim) | split | with_reducible (apply Keeps.pair; assumption) | dsimp only)

theorem keep_modFab {s0 : Node} {a0 a1} (h0 : Keeps s0 a0) : Keeps s0 (modFab a0 a1) := by
  unfold modFab
  repeat' (first | with_reducible (first | assumption | intro _ | apply Keeps.ite | apply Keeps.iteFst | apply Keeps.foldl | apply Keeps.foldlFst | apply Keeps.elim) | split | with_reducible (apply Keeps.pair; assumption) | dsimp only | ((with_reducible apply Keeps.rcd); (on_goal 2 => rfl); (on_goal 2 => rfl)))

theorem keep_dzCount {s0 : Node} {a0 a1 a2} (h0 : Keeps s0 a0) : Keeps s0 (dzCount a0 a1 a2) := by
  unfold dzCount
  repeat' (first | with_reducible (first | assumption | intro _ | apply keep_cntAdd | apply Keeps.ite | apply Keeps.iteFst | apply Keeps.foldl | apply Keeps.foldlFst | apply Keeps.elim) | split | with_reducible (apply Keeps.pair; assumption) | dsimp only)

theorem keep_modDz {s0 : Node} {a0 a1 a2} (h0 : Keeps s0 a0) : Keeps s0 (modDz a0 a1 a2) := by
  unfold modDz
  repeat' (first | with_reducible (first | assumption | intro _ | apply Keeps.ite | apply Keeps.iteFst | apply Keeps.foldl | apply Keeps.foldlFst | apply Keeps.elim) | split | with_reducible (apply Keeps.pair; assumption) | dsimp only | ((with_reducible apply Keeps.rcd); (on_goal 2 => rfl); (on_goal 2 => rfl)))

theorem keep_setSflow {s0 : Node} {a0 a1 a2 a3} (h0 : Keeps s0 a0) : Keeps s0 (setSflow a0 a1 a2 a3) := by
  unfold setSflow
  repeat' (first | with_reducible (first | assumption | intro _ | apply keep_modFab | apply Keeps.ite | apply Keeps.iteFst | apply Keeps.foldl | apply Keeps.foldlFst | apply Keeps.elim) | split | with_reducible (apply Keeps.pair; assumption) | dsimp only)

theorem keep_setRflow {s0 : Node} {a0 a1 a2 a3} (h0 : Keeps s0 a0) : Keeps s0 (setRflow a0 a1 a2 a3) := by
  unfold setRflow
  repeat' (first | with_reducible (first | assumption | intro _ | apply keep_modFab | apply Keeps.ite | apply Keeps.iteFst | apply Keeps.foldl | apply Keeps.foldlFst | apply Keeps.elim) | split | with_reducible (apply Keeps.pair; assumption) | dsimp only)

theorem keep_endCmd {s0 : Node} {a0 a1 a2} (h0 : Keeps s0 a0) : Keeps s0 (endCmd a0 a1 a2) := by
  unfold endCmd
  repeat' (first | with_reducible (first | assumption | intro _ | apply keep_modDz | apply Keeps.ite | apply Keeps.iteFst | apply Keeps.foldl | apply Keeps.foldlFst | apply Keeps.elim) | split | with_reducible (apply Keeps.pair; assumption) | dsimp only)

theorem keep_logCmd {s0 : Node} {a0 a1 a2 a3} (h0 : Keeps s0 a0) : Keeps s0 (logCmd a0 a1 a2 a3) := by
  unfold logCmd
  repeat' (first | with_reducible (first | assumption | intro _ | apply keep_logErr | apply Keeps.ite | apply Keeps.iteFst | apply Keeps.foldl | apply Keeps.foldlFst | apply Keeps.elim) | split | with_reducible (apply Keeps.pair; assumption) | dsimp only)

theorem keep_failCmd {s0 : Node} {a0 a1 a2} (h0 : Keeps s0 a0) : Keeps s0 (failCmd a0 a1 a2) := by
  unfold failCmd
  repeat' (first | with_reducible (first | assumption | intro _ | apply keep_endCmd | apply keep_logCmd | apply keep_modFab | apply Keeps.ite | apply Keeps.iteFst | apply Keeps.foldl | apply Keeps.foldlFst | apply Keeps.elim) | split | with_reducible (apply Keeps.pair; assumption) | dsimp only)

theorem keep_settleStore {s0 : Node} {a0 a1} (h0 : Keeps s0 a0) : Keeps s0 (settleStore a0 a1) := by
  unfold settleStore
  repeat' (first | with_reducible (first | assumption | intro _ | apply Keeps.ite | apply Keeps.iteFst | apply Keeps.foldl | apply Keeps.foldlFst | apply Keeps.elim) | split | with_reducible (apply Keeps.pair; assumption) | dsimp only | ((with_reducible apply Keeps.rcd); (on_goal 2 => rfl); (on_goal 2 => rfl)))

theorem keep_endRemote {s0 : Node} {a0 a1 a2 a3} (h0 : Keeps s0 a0) : Keeps s0 (endRemote a0 a1 a2 a3) := by
  unfold endRemote
  repeat' (first | with_reducible (first | assumption | intro _ | apply keep_logRemote | apply keep_modGroup | apply keep_settleGroup | apply keep_settleStore | apply keep_takeRemote | apply Keeps.ite | apply Keeps.iteFst | apply Keeps.foldl | apply Keeps.foldlFst | apply Keeps.elim) | split | with_reducible (apply Keeps.pair; assumption) | dsimp only | ((with_reducible apply Keeps.rcd); (on_goal 2 => rfl); (on_goal 2 => rfl)))

theorem keep_failOp {s0 : Node} {a0 a1 a2} (h0 : Keeps s0 a0) : Keeps s0 (failOp a0 a1 a2) := by
  unfold failOp
  repeat' (first | with_reducible (first | assumption | intro _ | apply keep_endRemote | apply keep_failCmd | apply Keeps.ite | apply Keeps.iteFst | apply Keeps.foldl | apply Keeps.foldlFst | apply Keeps.elim) | split | with_reducible (apply Keeps.pair; assumption) | dsimp only)

theorem keep_failBucket {s0 : Node} {a0 a1 a2} (h0 : Keeps s0 a0) : Keeps s0 (failBucket a0 a1 a2) := by
  unfold failBucket
  repeat' (first | with_reducible (first | assumption | intro _ | apply keep_logErr | apply keep_modFab | apply Keeps.ite | apply Keeps.iteFst | apply Keeps.foldl | apply Keeps.foldlFst | apply Keeps.elim) | split | with_reducible (apply Keeps.pair; assumption) | dsimp only | ((with_reducible apply Keeps.rcd); (on_goal 2 => rfl); (on_goal 2 => rfl)))

theorem keep_failWho {s0 : Node} {a0 a1 a2 a3} (h0 : Keeps s0 a0) : Keeps s0 (failWho a0 a1 a2 a3) := by
  unfold failWho
  repeat' (first | with_reducible (first | assumption | intro _ | apply keep_failBucket | apply keep_failOp | apply keep_modFab | apply Keeps.ite | apply Keeps.iteFst | apply Keeps.foldl | apply Keeps.foldlFst | apply Keeps.elim) | split | with_reducible (apply Keeps.pair; assumption) | dsimp only | ((with_reducible apply Keeps.rcd); (on_goal 2 => rfl); (on_goal 2 => rfl)))

theorem keep_modPort {s0 : Node} {a0 a1 a2} (h0 : Keeps s0 a0) : Keeps s0 (modPort a0 a1 a2) := by
  unfold modPort
  repeat' (first | with_reducible (first | assumption | intro _ | apply Keeps.ite | apply Keeps.iteFst | apply Keeps.foldl | apply Keeps.foldlFst | apply Keeps.elim) | split | with_reducible (apply Keeps.pair; assumption) | dsimp only | ((with_reducible apply Keeps.rcd); (on_goal 2 => rfl); (on_goal 2 => rfl)))

theorem keep_onPort {s0 : Node} {a0 a1} (h1 : Keeps s0 a1) : KeepsO s0 (onPort a0 a1) := by
  unfold onPort
  repeat' (first | with_reducible (first | assumption | intro _ | apply keep_onNode | apply keep_onServed | apply KeepsO.next | apply KeepsO.fault | apply KeepsO.ite | apply Keeps.ite | apply Keeps.iteFst | apply Keeps.foldl | apply Keeps.foldlFst | apply Keeps.elim) | split | with_reducible (apply Keeps.pair; assumption) | dsimp only)

theorem keep_portCount {s0 : Node} {a0 a1 a2 a3} (h0 : Keeps s0 a0) : Keeps s0 (portCount a0 a1 a2 a3) := by
  unfold portCount
  repeat' (first | with_reducible (first | assumption | intro _ | apply keep_cntAdd | apply Keeps.ite | apply Keeps.iteFst | apply Keeps.foldl | apply Keeps.foldlFst | apply Keeps.elim) | split | with_reducible (apply Keeps.pair; assumption) | dsimp only)

theorem keep_sendFrame {s0 : Node} {a0 a1} (h0 : Keeps s0 a0) : Keeps s0 (sendFrame a0 a1) := by
  unfold sendFrame
  repeat' (first | with_reducible (first | assumption | intro _ | apply keep_modPort | apply keep_portCount | apply Keeps.ite | apply Keeps.iteFst | apply Keeps.foldl | apply Keeps.foldlFst | apply Keeps.elim) | split | with_reducible (apply Keeps.pair; assumption) | dsimp only | ((with_reducible apply Keeps.rcd); (on_goal 2 => rfl); (on_goal 2 => rfl)))

theorem keep_sendOut {s0 : Node} {a0 a1} (h0 : Keeps s0 a0) : Keeps s0 (sendOut a0 a1) := by
  unfold sendOut
  repeat' (first | with_reducible (first | assumption | intro _ | apply Keeps.ite | apply Keeps.iteFst | apply Keeps.foldl | apply Keeps.foldlFst | apply Keeps.elim) | split | with_reducible (apply Keeps.pair; assumption) | dsimp only | ((with_reducible apply Keeps.rcd); (on_goal 2 => rfl); (on_goal 2 => rfl)))

theorem keep_queueFrame {s0 : Node} {a0 a1 a2} (h0 : Keeps s0 a0) : Keeps s0 (queueFrame a0 a1 a2) := by
  unfold queueFrame
  repeat' (first | with_reducible (first | assumption | intro _ | apply keep_modFab | apply keep_sendFrame | apply Keeps.ite | apply Keeps.iteFst | apply Keeps.foldl | apply Keeps.foldlFst | apply Keeps.elim) | split | with_reducible (apply Keeps.pair; assumption) | dsimp only)

theorem keep_noRoute {s0 : Node} {a0 a1 a2 a3 a4 a5} (h0 : Keeps s0 a0) : Keeps s0 (noRoute a0 a1 a2 a3 a4 a5) := by
  unfold noRoute
  repeat' (first | with_reducible (first | assumption | intro _ | apply keep_dzCount | apply keep_failWho | apply Keeps.ite | apply Keeps.iteFst | apply Keeps.foldl | apply Keeps.foldlFst | apply Keeps.elim) | split | with_reducible (apply Keeps.pair; assumption) | dsimp only)

theorem keep_resprayHeld {s0 : Node} {a0 a1} (h0 : Keeps s0 a0) : Keeps s0 (resprayHeld a0 a1) := by
  unfold resprayHeld
  repeat' (first | with_reducible (first | assumption | intro _ | apply keep_modFab | apply keep_modPort | apply keep_noRoute | apply keep_queueFrame | apply Keeps.ite | apply Keeps.iteFst | apply Keeps.foldl | apply Keeps.foldlFst | apply Keeps.elim) | split | with_reducible (apply Keeps.pair; assumption) | dsimp only)

theorem keep_dropHeld {s0 : Node} {a0 a1} (h0 : Keeps s0 a0) : Keeps s0 (dropHeld a0 a1) := by
  unfold dropHeld
  repeat' (first | with_reducible (first | assumption | intro _ | apply keep_modPort | apply keep_portCount | apply Keeps.ite | apply Keeps.iteFst | apply Keeps.foldl | apply Keeps.foldlFst | apply Keeps.elim) | split | with_reducible (apply Keeps.pair; assumption) | dsimp only)

theorem keep_linkFalls {s0 : Node} {a0 a1 a2} (h0 : Keeps s0 a0) : Keeps s0 (linkFalls a0 a1 a2) := by
  unfold linkFalls
  repeat' (first | with_reducible (first | assumption | intro _ | apply keep_dropHeld | apply keep_enableWrite | apply keep_fSet | apply keep_logErr | apply keep_modPort | apply keep_portCount | apply keep_resprayHeld | apply keep_signal | apply Keeps.ite | apply Keeps.iteFst | apply Keeps.foldl | apply Keeps.foldlFst | apply Keeps.elim) | split | with_reducible (apply Keeps.pair; assumption) | dsimp only)

theorem keep_portOff {s0 : Node} {a0 a1} (h0 : Keeps s0 a0) : Keeps s0 (portOff a0 a1) := by
  unfold portOff
  repeat' (first | with_reducible (first | assumption | intro _ | apply keep_dropHeld | apply keep_fSet | apply keep_linkFalls | apply keep_modPort | apply Keeps.ite | apply Keeps.iteFst | apply Keeps.foldl | apply Keeps.foldlFst | apply Keeps.elim) | split | with_reducible (apply Keeps.pair; assumption) | dsimp only)

end Sys2Proof.Machine
end

