-- ==== Sys2Proof/Laws/Keeps3.lean ====
section
/-! SUPPORT. What the operations of the machine keep, one lemma each (3 of 6): keep_latchMode to keep_execFlowIdleRelease. -/

set_option Elab.async false
set_option linter.all false

namespace Sys2Proof.Machine

theorem keep_latchMode {s0 : Node} {a0 a1 a2} (h0 : Keeps s0 a0) (h1 : Keeps s0 a1) : Keeps s0 (latchMode a0 a1 a2) := by
  unfold latchMode
  repeat' (first | with_reducible (first | assumption | intro _ | apply keep_modPort | apply Keeps.ite | apply Keeps.iteFst | apply Keeps.foldl | apply Keeps.foldlFst | apply Keeps.elim) | split | with_reducible (apply Keeps.pair; assumption) | dsimp only)

theorem keep_portEnable {s0 : Node} {a0 a1 a2} (h0 : Keeps s0 a0) : Keeps s0 (portEnable a0 a1 a2) := by
  unfold portEnable
  repeat' (first | with_reducible (first | assumption | intro _ | apply keep_dropHeld | apply keep_enableWrite | apply keep_latchMode | apply keep_modPort | apply keep_portOff | apply keep_regSet | apply Keeps.ite | apply Keeps.iteFst | apply Keeps.foldl | apply Keeps.foldlFst | apply Keeps.elim) | split | with_reducible (apply Keeps.pair; assumption) | dsimp only)

theorem keep_portWrite {s0 : Node} {a0 a1 a2} (h0 : Keeps s0 a0) : Keeps s0 (portWrite a0 a1 a2) := by
  unfold portWrite
  repeat' (first | with_reducible (first | assumption | intro _ | apply keep_portEnable | apply keep_regSet | apply Keeps.ite | apply Keeps.iteFst | apply Keeps.foldl | apply Keeps.foldlFst | apply Keeps.elim) | split | with_reducible (apply Keeps.pair; assumption) | dsimp only)

theorem keep_execPortEnableWrite {s0 : Node} {a0 a1 a2} (h2 : Keeps s0 a2.node) : KeepsS s0 (execPortEnableWrite a0 a1 a2) := by
  unfold execPortEnableWrite
  repeat' (first | with_reducible (first | assumption | intro _ | apply keep_onPort | apply keep_portWrite | apply keep_withResp | apply keep_onNode | apply keep_onServed | apply KeepsO.next | apply KeepsO.fault | apply KeepsO.ite | apply Keeps.ite | apply Keeps.iteFst | apply Keeps.foldl | apply Keeps.foldlFst | apply Keeps.elim) | split | with_reducible (apply Keeps.pair; assumption) | dsimp only)

theorem keep_restartCheckers {s0 : Node} {a0 a1} (h0 : Keeps s0 a0) : Keeps s0 (restartCheckers a0 a1) := by
  unfold restartCheckers
  repeat' (first | with_reducible (first | assumption | intro _ | apply keep_regSet | apply Keeps.ite | apply Keeps.iteFst | apply Keeps.foldl | apply Keeps.foldlFst | apply Keeps.elim) | split | with_reducible (apply Keeps.pair; assumption) | dsimp only)

theorem keep_execPortStepDone {s0 : Node} {a0 a1} (h1 : Keeps s0 a1.node) : KeepsS s0 (execPortStepDone a0 a1) := by
  unfold execPortStepDone
  repeat' (first | with_reducible (first | assumption | intro _ | apply keep_fSet | apply keep_faultBlock | apply keep_latchMode | apply keep_modPort | apply keep_onPort | apply keep_ownStepEnds | apply keep_portOff | apply keep_restartCheckers | apply keep_onNode | apply keep_onServed | apply KeepsO.next | apply KeepsO.fault | apply KeepsO.ite | apply Keeps.ite | apply Keeps.iteFst | apply Keeps.foldl | apply Keeps.foldlFst | apply Keeps.elim) | split | with_reducible (apply Keeps.pair; assumption) | dsimp only)

theorem keep_execPortSignalDetect {s0 : Node} {a0 a1} (h1 : Keeps s0 a1.node) : KeepsS s0 (execPortSignalDetect a0 a1) := by
  unfold execPortSignalDetect
  repeat' (first | with_reducible (first | assumption | intro _ | apply keep_modPort | apply keep_onPort | apply keep_onNode | apply keep_onServed | apply KeepsO.next | apply KeepsO.fault | apply KeepsO.ite | apply Keeps.ite | apply Keeps.iteFst | apply Keeps.foldl | apply Keeps.foldlFst | apply Keeps.elim) | split | with_reducible (apply Keeps.pair; assumption) | dsimp only)

theorem keep_flushHeld {s0 : Node} {a0 a1} (h0 : Keeps s0 a0) : Keeps s0 (flushHeld a0 a1) := by
  unfold flushHeld
  repeat' (first | with_reducible (first | assumption | intro _ | apply keep_modPort | apply keep_portCount | apply Keeps.ite | apply Keeps.iteFst | apply Keeps.foldl | apply Keeps.foldlFst | apply Keeps.elim) | split | with_reducible (apply Keeps.pair; assumption) | dsimp only | ((with_reducible apply Keeps.rcd); (on_goal 2 => rfl); (on_goal 2 => rfl)))

theorem keep_execPortLinkUp {s0 : Node} {a0 a1 a2} (h2 : Keeps s0 a2.node) : KeepsS s0 (execPortLinkUp a0 a1 a2) := by
  unfold execPortLinkUp
  repeat' (first | with_reducible (first | assumption | intro _ | apply keep_fSet | apply keep_flushHeld | apply keep_modPort | apply keep_onPort | apply keep_signal | apply keep_onNode | apply keep_onServed | apply KeepsO.next | apply KeepsO.fault | apply KeepsO.ite | apply Keeps.ite | apply Keeps.iteFst | apply Keeps.foldl | apply Keeps.foldlFst | apply Keeps.elim) | split | with_reducible (apply Keeps.pair; assumption) | dsimp only)

theorem keep_execPortTrainTimeout {s0 : Node} {a0 a1} (h1 : Keeps s0 a1.node) : KeepsS s0 (execPortTrainTimeout a0 a1) := by
  unfold execPortTrainTimeout
  repeat' (first | with_reducible (first | assumption | intro _ | apply keep_fSet | apply keep_modPort | apply keep_onPort | apply keep_onNode | apply keep_onServed | apply KeepsO.next | apply KeepsO.fault | apply KeepsO.ite | apply Keeps.ite | apply Keeps.iteFst | apply Keeps.foldl | apply Keeps.foldlFst | apply Keeps.elim) | split | with_reducible (apply Keeps.pair; assumption) | dsimp only)

theorem keep_execPortDown {s0 : Node} {a0 a1 a2} (h2 : Keeps s0 a2.node) : KeepsS s0 (execPortDown a0 a1 a2) := by
  unfold execPortDown
  repeat' (first | with_reducible (first | assumption | intro _ | apply keep_linkFalls | apply keep_modPort | apply keep_onPort | apply keep_onNode | apply keep_onServed | apply KeepsO.next | apply KeepsO.fault | apply KeepsO.ite | apply Keeps.ite | apply Keeps.iteFst | apply Keeps.foldl | apply Keeps.foldlFst | apply Keeps.elim) | split | with_reducible (apply Keeps.pair; assumption) | dsimp only)

theorem keep_loseLane {s0 : Node} {a0 a1 a2} (h0 : Keeps s0 a0) : Keeps s0 (loseLane a0 a1 a2) := by
  unfold loseLane
  repeat' (first | with_reducible (first | assumption | intro _ | apply keep_fSet | apply keep_linkFalls | apply keep_modPort | apply Keeps.ite | apply Keeps.iteFst | apply Keeps.foldl | apply Keeps.foldlFst | apply Keeps.elim) | split | with_reducible (apply Keeps.pair; assumption) | dsimp only)

theorem keep_closeLane {s0 : Node} {a0 a1 a2} (h0 : Keeps s0 a0) : Keeps s0 (closeLane a0 a1 a2) := by
  unfold closeLane
  repeat' (first | with_reducible (first | assumption | intro _ | apply keep_fOr | apply keep_logErr | apply keep_loseLane | apply keep_signal | apply Keeps.ite | apply Keeps.iteFst | apply Keeps.foldl | apply Keeps.foldlFst | apply Keeps.elim) | split | with_reducible (apply Keeps.pair; assumption) | dsimp only)

theorem keep_execLaneFail {s0 : Node} {a0 a1 a2} (h2 : Keeps s0 a2.node) : KeepsS s0 (execLaneFail a0 a1 a2) := by
  unfold execLaneFail
  repeat' (first | with_reducible (first | assumption | intro _ | apply keep_closeLane | apply keep_loseLane | apply keep_modPort | apply keep_onPort | apply keep_onNode | apply keep_onServed | apply KeepsO.next | apply KeepsO.fault | apply KeepsO.ite | apply Keeps.ite | apply Keeps.iteFst | apply Keeps.foldl | apply Keeps.foldlFst | apply Keeps.elim) | split | with_reducible (apply Keeps.pair; assumption) | dsimp only)

theorem keep_execNarrowingCompleted {s0 : Node} {a0 a1} (h1 : Keeps s0 a1.node) : KeepsS s0 (execNarrowingCompleted a0 a1) := by
  unfold execNarrowingCompleted
  repeat' (first | with_reducible (first | assumption | intro _ | apply keep_fSet | apply keep_logErr | apply keep_modPort | apply keep_onPort | apply keep_portEnable | apply keep_signal | apply keep_onNode | apply keep_onServed | apply KeepsO.next | apply KeepsO.fault | apply KeepsO.ite | apply Keeps.ite | apply Keeps.iteFst | apply Keeps.foldl | apply Keeps.foldlFst | apply Keeps.elim) | split | with_reducible (apply Keeps.pair; assumption) | dsimp only)

theorem keep_sendCnp {s0 : Node} {a0 a1 a2} (h0 : Keeps s0 a0) : Keeps s0 (sendCnp a0 a1 a2) := by
  unfold sendCnp
  repeat' (first | with_reducible (first | assumption | intro _ | apply keep_portCount | apply keep_sendFrame | apply Keeps.ite | apply Keeps.iteFst | apply Keeps.foldl | apply Keeps.foldlFst | apply Keeps.elim) | split | with_reducible (apply Keeps.pair; assumption) | dsimp only | ((with_reducible apply Keeps.rcd); (on_goal 2 => rfl); (on_goal 2 => rfl)))

theorem keep_execEthFrameReceive {s0 : Node} {a0 a1 a2} (h2 : Keeps s0 a2.node) : KeepsS s0 (execEthFrameReceive a0 a1 a2) := by
  unfold execEthFrameReceive
  repeat' (first | with_reducible (first | assumption | intro _ | apply keep_onPort | apply keep_portCount | apply keep_sendCnp | apply keep_onNode | apply keep_onServed | apply KeepsO.next | apply KeepsO.fault | apply KeepsO.ite | apply Keeps.ite | apply Keeps.iteFst | apply Keeps.foldl | apply Keeps.foldlFst | apply Keeps.elim) | split | with_reducible (apply Keeps.pair; assumption) | dsimp only | ((with_reducible apply Keeps.rcd); (on_goal 2 => rfl); (on_goal 2 => rfl)))

theorem keep_execArpRequest {s0 : Node} {a0 a1 a2 a3} (h3 : Keeps s0 a3.node) : KeepsS s0 (execArpRequest a0 a1 a2 a3) := by
  unfold execArpRequest
  repeat' (first | with_reducible (first | assumption | intro _ | apply keep_onPort | apply keep_sendFrame | apply keep_onNode | apply keep_onServed | apply KeepsO.next | apply KeepsO.fault | apply KeepsO.ite | apply Keeps.ite | apply Keeps.iteFst | apply Keeps.foldl | apply Keeps.foldlFst | apply Keeps.elim) | split | with_reducible (apply Keeps.pair; assumption) | dsimp only)

theorem keep_pauseEnds {s0 : Node} {a0 a1} (h0 : Keeps s0 a0) : Keeps s0 (pauseEnds a0 a1) := by
  unfold pauseEnds
  repeat' (first | with_reducible (first | assumption | intro _ | apply keep_flushHeld | apply keep_modPort | apply Keeps.ite | apply Keeps.iteFst | apply Keeps.foldl | apply Keeps.foldlFst | apply Keeps.elim) | split | with_reducible (apply Keeps.pair; assumption) | dsimp only)

theorem keep_execPfcFrameReceive {s0 : Node} {a0 a1 a2 a3} (h3 : Keeps s0 a3.node) : KeepsS s0 (execPfcFrameReceive a0 a1 a2 a3) := by
  unfold execPfcFrameReceive
  repeat' (first | with_reducible (first | assumption | intro _ | apply keep_flushHeld | apply keep_modPort | apply keep_onPort | apply keep_pauseEnds | apply keep_portCount | apply keep_onNode | apply keep_onServed | apply KeepsO.next | apply KeepsO.fault | apply KeepsO.ite | apply Keeps.ite | apply Keeps.iteFst | apply Keeps.foldl | apply Keeps.foldlFst | apply Keeps.elim) | split | with_reducible (apply Keeps.pair; assumption) | dsimp only)

theorem keep_execPfcBufferThreshold {s0 : Node} {a0 a1 a2 a3} (h3 : Keeps s0 a3.node) : KeepsS s0 (execPfcBufferThreshold a0 a1 a2 a3) := by
  unfold execPfcBufferThreshold
  repeat' (first | with_reducible (first | assumption | intro _ | apply keep_modPort | apply keep_onPort | apply keep_portCount | apply keep_sendOut | apply keep_onNode | apply keep_onServed | apply KeepsO.next | apply KeepsO.fault | apply KeepsO.ite | apply Keeps.ite | apply Keeps.iteFst | apply Keeps.foldl | apply Keeps.foldlFst | apply Keeps.elim) | split | with_reducible (apply Keeps.pair; assumption) | dsimp only)

theorem keep_execPfcStorm {s0 : Node} {a0 a1 a2} (h2 : Keeps s0 a2.node) : KeepsS s0 (execPfcStorm a0 a1 a2) := by
  unfold execPfcStorm
  repeat' (first | with_reducible (first | assumption | intro _ | apply keep_linkFalls | apply keep_logErr | apply keep_modPort | apply keep_onPort | apply keep_onNode | apply keep_onServed | apply KeepsO.next | apply KeepsO.fault | apply KeepsO.ite | apply Keeps.ite | apply Keeps.iteFst | apply Keeps.foldl | apply Keeps.foldlFst | apply Keeps.elim) | split | with_reducible (apply Keeps.pair; assumption) | dsimp only)

theorem keep_modQp {s0 : Node} {a0 a1 a2} (h0 : Keeps s0 a0) : Keeps s0 (modQp a0 a1 a2) := by
  unfold modQp
  repeat' (first | with_reducible (first | assumption | intro _ | apply Keeps.ite | apply Keeps.iteFst | apply Keeps.foldl | apply Keeps.foldlFst | apply Keeps.elim) | split | with_reducible (apply Keeps.pair; assumption) | dsimp only | ((with_reducible apply Keeps.rcd); (on_goal 2 => rfl); (on_goal 2 => rfl)))

theorem keep_modWq {s0 : Node} {a0 a1 a2} (h0 : Keeps s0 a0) : Keeps s0 (modWq a0 a1 a2) := by
  unfold modWq
  repeat' (first | with_reducible (first | assumption | intro _ | apply Keeps.ite | apply Keeps.iteFst | apply Keeps.foldl | apply Keeps.foldlFst | apply Keeps.elim) | split | with_reducible (apply Keeps.pair; assumption) | dsimp only | ((with_reducible apply Keeps.rcd); (on_goal 2 => rfl); (on_goal 2 => rfl)))

theorem keep_modLed {s0 : Node} {a0 a1 a2} (h0 : Keeps s0 a0) : Keeps s0 (modLed a0 a1 a2) := by
  unfold modLed
  repeat' (first | with_reducible (first | assumption | intro _ | apply Keeps.ite | apply Keeps.iteFst | apply Keeps.foldl | apply Keeps.foldlFst | apply Keeps.elim) | split | with_reducible (apply Keeps.pair; assumption) | dsimp only | ((with_reducible apply Keeps.rcd); (on_goal 2 => rfl); (on_goal 2 => rfl)))

theorem keep_setEntry {s0 : Node} {a0 a1 a2 a3} (h0 : Keeps s0 a0) : Keeps s0 (setEntry a0 a1 a2 a3) := by
  unfold setEntry
  repeat' (first | with_reducible (first | assumption | intro _ | apply keep_modLed | apply Keeps.ite | apply Keeps.iteFst | apply Keeps.foldl | apply Keeps.foldlFst | apply Keeps.elim) | split | with_reducible (apply Keeps.pair; assumption) | dsimp only)

theorem keep_modLedEntry {s0 : Node} {a0 a1 a2 a3} (h0 : Keeps s0 a0) : Keeps s0 (modLedEntry a0 a1 a2 a3) := by
  unfold modLedEntry
  repeat' (first | with_reducible (first | assumption | intro _ | apply keep_setEntry | apply Keeps.ite | apply Keeps.iteFst | apply Keeps.foldl | apply Keeps.foldlFst | apply Keeps.elim) | split | with_reducible (apply Keeps.pair; assumption) | dsimp only)

theorem keep_onQp {s0 : Node} {a0 a1} (h1 : Keeps s0 a1) : KeepsO s0 (onQp a0 a1) := by
  unfold onQp
  repeat' (first | with_reducible (first | assumption | intro _ | apply keep_onUnit | apply keep_onNode | apply keep_onServed | apply KeepsO.next | apply KeepsO.fault | apply KeepsO.ite | apply Keeps.ite | apply Keeps.iteFst | apply Keeps.foldl | apply Keeps.foldlFst | apply Keeps.elim) | split | with_reducible (apply Keeps.pair; assumption) | dsimp only)

theorem keep_onQueue {s0 : Node} {a0 a1} (h1 : Keeps s0 a1) : KeepsO s0 (onQueue a0 a1) := by
  unfold onQueue
  repeat' (first | with_reducible (first | assumption | intro _ | apply keep_onUnit | apply keep_onNode | apply keep_onServed | apply KeepsO.next | apply KeepsO.fault | apply KeepsO.ite | apply Keeps.ite | apply Keeps.iteFst | apply Keeps.foldl | apply Keeps.foldlFst | apply Keeps.elim) | split | with_reducible (apply Keeps.pair; assumption) | dsimp only)

theorem keep_onEntry {s0 : Node} {a0 a1 a2} (h2 : Keeps s0 a2) : KeepsO s0 (onEntry a0 a1 a2) := by
  unfold onEntry
  repeat' (first | with_reducible (first | assumption | intro _ | apply keep_onNode | apply keep_onServed | apply KeepsO.next | apply KeepsO.fault | apply KeepsO.ite | apply Keeps.ite | apply Keeps.iteFst | apply Keeps.foldl | apply Keeps.foldlFst | apply Keeps.elim) | split | with_reducible (apply Keeps.pair; assumption) | dsimp only)

theorem keep_qpTransmit {s0 : Node} {a0 a1 a2} (h0 : Keeps s0 a0) : Keeps s0 (qpTransmit a0 a1 a2) := by
  unfold qpTransmit
  repeat' (first | with_reducible (first | assumption | intro _ | apply keep_sendFrame | apply Keeps.ite | apply Keeps.iteFst | apply Keeps.foldl | apply Keeps.foldlFst | apply Keeps.elim) | split | with_reducible (apply Keeps.pair; assumption) | dsimp only)

theorem keep_qpPost {s0 : Node} {a0 a1 a2 a3 a4 a5 a6 a7 a8 a9 a10 a11} (h0 : Keeps s0 a0) : Keeps s0 (qpPost a0 a1 a2 a3 a4 a5 a6 a7 a8 a9 a10 a11) := by
  unfold qpPost
  repeat' (first | with_reducible (first | assumption | intro _ | apply keep_modQp | apply keep_qpTransmit | apply Keeps.ite | apply Keeps.iteFst | apply Keeps.foldl | apply Keeps.foldlFst | apply Keeps.elim) | split | with_reducible (apply Keeps.pair; assumption) | dsimp only)

theorem keep_roceComplete {s0 : Node} {a0 a1 a2} (h0 : Keeps s0 a0) : Keeps s0 (roceComplete a0 a1 a2) := by
  unfold roceComplete
  repeat' (first | with_reducible (first | assumption | intro _ | apply Keeps.ite | apply Keeps.iteFst | apply Keeps.foldl | apply Keeps.foldlFst | apply Keeps.elim) | split | with_reducible (apply Keeps.pair; assumption) | dsimp only | ((with_reducible apply Keeps.rcd); (on_goal 2 => rfl); (on_goal 2 => rfl)))

theorem keep_qpReqEnds {s0 : Node} {a0 a1 a2 a3} (h0 : Keeps s0 a0) : Keeps s0 (qpReqEnds a0 a1 a2 a3) := by
  unfold qpReqEnds
  repeat' (first | with_reducible (first | assumption | intro _ | apply keep_modLedEntry | apply keep_modWq | apply keep_roceComplete | apply Keeps.ite | apply Keeps.iteFst | apply Keeps.foldl | apply Keeps.foldlFst | apply Keeps.elim) | split | with_reducible (apply Keeps.pair; assumption) | dsimp only | ((with_reducible apply Keeps.rcd); (on_goal 2 => rfl); (on_goal 2 => rfl)))

theorem keep_qpFlush {s0 : Node} {a0 a1 a2} (h0 : Keeps s0 a0) : Keeps s0 (qpFlush a0 a1 a2) := by
  unfold qpFlush
  repeat' (first | with_reducible (first | assumption | intro _ | apply keep_modQp | apply keep_qpReqEnds | apply keep_roceComplete | apply Keeps.ite | apply Keeps.iteFst | apply Keeps.foldl | apply Keeps.foldlFst | apply Keeps.elim) | split | with_reducible (apply Keeps.pair; assumption) | dsimp only)

theorem keep_qpError {s0 : Node} {a0 a1 a2 a3 a4} (h0 : Keeps s0 a0) : Keeps s0 (qpError a0 a1 a2 a3 a4) := by
  unfold qpError
  repeat' (first | with_reducible (first | assumption | intro _ | apply keep_logErr | apply keep_qpFlush | apply Keeps.ite | apply Keeps.iteFst | apply Keeps.foldl | apply Keeps.foldlFst | apply Keeps.elim) | split | with_reducible (apply Keeps.pair; assumption) | dsimp only)

theorem keep_poisonAgent {s0 : Node} {a0 a1 a2 a3} (h0 : Keeps s0 a0) : Keeps s0 (poisonAgent a0 a1 a2 a3) := by
  unfold poisonAgent
  repeat' (first | with_reducible (first | assumption | intro _ | apply keep_logErr | apply Keeps.ite | apply Keeps.iteFst | apply Keeps.foldl | apply Keeps.foldlFst | apply Keeps.elim) | split | with_reducible (apply Keeps.pair; assumption) | dsimp only)

theorem keep_accChanged {s0 : Node} {a0 a1} (h0 : Keeps s0 a0) : Keeps s0 (accChanged a0 a1) := by
  unfold accChanged
  repeat' (first | with_reducible (first | assumption | intro _ | apply keep_modWq | apply Keeps.ite | apply Keeps.iteFst | apply Keeps.foldl | apply Keeps.foldlFst | apply Keeps.elim) | split | with_reducible (apply Keeps.pair; assumption) | dsimp only)

theorem keep_setStall {s0 : Node} {a0 a1 a2} (h0 : Keeps s0 a0) : Keeps s0 (setStall a0 a1 a2) := by
  unfold setStall
  repeat' (first | with_reducible (first | assumption | intro _ | apply keep_accChanged | apply keep_modWq | apply Keeps.ite | apply Keeps.iteFst | apply Keeps.foldl | apply Keeps.foldlFst | apply Keeps.elim) | split | with_reducible (apply Keeps.pair; assumption) | dsimp only)

theorem keep_wqCount {s0 : Node} {a0 a1 a2} (h0 : Keeps s0 a0) : Keeps s0 (wqCount a0 a1 a2) := by
  unfold wqCount
  repeat' (first | with_reducible (first | assumption | intro _ | apply keep_cntAdd | apply Keeps.ite | apply Keeps.iteFst | apply Keeps.foldl | apply Keeps.foldlFst | apply Keeps.elim) | split | with_reducible (apply Keeps.pair; assumption) | dsimp only)

theorem keep_ringDoorbell {s0 : Node} {a0 a1 a2} (h0 : Keeps s0 a0) : Keeps s0 (ringDoorbell a0 a1 a2) := by
  unfold ringDoorbell
  repeat' (first | with_reducible (first | assumption | intro _ | apply keep_fSet | apply keep_logErr | apply keep_modWq | apply keep_setStall | apply keep_wqCount | apply Keeps.ite | apply Keeps.iteFst | apply Keeps.foldl | apply Keeps.foldlFst | apply Keeps.elim) | split | with_reducible (apply Keeps.pair; assumption) | dsimp only)

theorem keep_resumeQueue {s0 : Node} {a0 a1} (h0 : Keeps s0 a0) : Keeps s0 (resumeQueue a0 a1) := by
  unfold resumeQueue
  repeat' (first | with_reducible (first | assumption | intro _ | apply keep_setStall | apply keep_wqCount | apply Keeps.ite | apply Keeps.iteFst | apply Keeps.foldl | apply Keeps.foldlFst | apply Keeps.elim) | split | with_reducible (apply Keeps.pair; assumption) | dsimp only)

theorem keep_startReplay {s0 : Node} {a0} (h0 : Keeps s0 a0) : Keeps s0 (startReplay a0) := by
  unfold startReplay
  repeat' (first | with_reducible (first | assumption | intro _ | apply keep_qpPost | apply Keeps.ite | apply Keeps.iteFst | apply Keeps.foldl | apply Keeps.foldlFst | apply Keeps.elim) | split | with_reducible (apply Keeps.pair; assumption) | dsimp only | ((with_reducible apply Keeps.rcd); (on_goal 2 => rfl); (on_goal 2 => rfl)))

theorem keep_doorbellWrite {s0 : Node} {a0 a1 a2 a3} (h0 : Keeps s0 a0) : Keeps s0 (doorbellWrite a0 a1 a2 a3) := by
  unfold doorbellWrite
  repeat' (first | with_reducible (first | assumption | intro _ | apply keep_resumeQueue | apply keep_ringDoorbell | apply keep_startReplay | apply keep_wqCount | apply Keeps.ite | apply Keeps.iteFst | apply Keeps.foldl | apply Keeps.foldlFst | apply Keeps.elim) | split | with_reducible (apply Keeps.pair; assumption) | dsimp only)

theorem keep_mirrorWrite {s0 : Node} {a0 a1 a2} (h0 : Keeps s0 a0) : Keeps s0 (mirrorWrite a0 a1 a2) := by
  unfold mirrorWrite
  repeat' (first | with_reducible (first | assumption | intro _ | apply keep_modLed | apply keep_modLedEntry | apply keep_qpPost | apply keep_wqCount | apply Keeps.ite | apply Keeps.iteFst | apply Keeps.foldl | apply Keeps.foldlFst | apply Keeps.elim) | split | with_reducible (apply Keeps.pair; assumption) | dsimp only | ((with_reducible apply Keeps.rcd); (on_goal 2 => rfl); (on_goal 2 => rfl)))

theorem keep_entryMoves {s0 : Node} {a0 a1 a2 a3 a4} (h0 : Keeps s0 a0) : Keeps s0 (entryMoves a0 a1 a2 a3 a4) := by
  unfold entryMoves
  repeat' (first | with_reducible (first | assumption | intro _ | apply keep_mirrorWrite | apply keep_modLedEntry | apply Keeps.ite | apply Keeps.iteFst | apply Keeps.foldl | apply Keeps.foldlFst | apply Keeps.elim) | split | with_reducible (apply Keeps.pair; assumption) | dsimp only)

theorem keep_wqWrite {s0 : Node} {a0 a1 a2} (h0 : Keeps s0 a0) : Keeps s0 (wqWrite a0 a1 a2) := by
  unfold wqWrite
  repeat' (first | with_reducible (first | assumption | intro _ | apply keep_enableWrite | apply keep_regSet | apply Keeps.ite | apply Keeps.iteFst | apply Keeps.foldl | apply Keeps.foldlFst | apply Keeps.elim) | split | with_reducible (apply Keeps.pair; assumption) | dsimp only)

theorem keep_execWqEnableWrite {s0 : Node} {a0 a1 a2} (h2 : Keeps s0 a2.node) : KeepsS s0 (execWqEnableWrite a0 a1 a2) := by
  unfold execWqEnableWrite
  repeat' (first | with_reducible (first | assumption | intro _ | apply keep_onQueue | apply keep_withResp | apply keep_wqWrite | apply keep_onNode | apply keep_onServed | apply KeepsO.next | apply KeepsO.fault | apply KeepsO.ite | apply Keeps.ite | apply Keeps.iteFst | apply Keeps.foldl | apply Keeps.foldlFst | apply Keeps.elim) | split | with_reducible (apply Keeps.pair; assumption) | dsimp only)

theorem keep_wqStepEnds {s0 : Node} {a0 a1} (h0 : Keeps s0 a0) : Keeps s0 (wqStepEnds a0 a1) := by
  unfold wqStepEnds
  repeat' (first | with_reducible (first | assumption | intro _ | apply keep_accChanged | apply keep_ownStepEnds | apply Keeps.ite | apply Keeps.iteFst | apply Keeps.foldl | apply Keeps.foldlFst | apply Keeps.elim) | split | with_reducible (apply Keeps.pair; assumption) | dsimp only)

theorem keep_execWqDisableDone {s0 : Node} {a0 a1} (h1 : Keeps s0 a1.node) : KeepsS s0 (execWqDisableDone a0 a1) := by
  unfold execWqDisableDone
  repeat' (first | with_reducible (first | assumption | intro _ | apply keep_modWq | apply keep_onQueue | apply keep_ownStepEnds | apply keep_setEntry | apply keep_onNode | apply keep_onServed | apply KeepsO.next | apply KeepsO.fault | apply KeepsO.ite | apply Keeps.ite | apply Keeps.iteFst | apply Keeps.foldl | apply Keeps.foldlFst | apply Keeps.elim) | split | with_reducible (apply Keeps.pair; assumption) | dsimp only)

theorem keep_execDoorbellProd {s0 : Node} {a0 a1 a2} (h2 : Keeps s0 a2.node) : KeepsS s0 (execDoorbellProd a0 a1 a2) := by
  unfold execDoorbellProd
  repeat' (first | with_reducible (first | assumption | intro _ | apply keep_doorbellWrite | apply keep_onQueue | apply keep_withResp | apply keep_onNode | apply keep_onServed | apply KeepsO.next | apply KeepsO.fault | apply KeepsO.ite | apply Keeps.ite | apply Keeps.iteFst | apply Keeps.foldl | apply Keeps.foldlFst | apply Keeps.elim) | split | with_reducible (apply Keeps.pair; assumption) | dsimp only)

theorem keep_execDoorbellResume {s0 : Node} {a0 a1} (h1 : Keeps s0 a1.node) : KeepsS s0 (execDoorbellResume a0 a1) := by
  unfold execDoorbellResume
  repeat' (first | with_reducible (first | assumption | intro _ | apply keep_doorbellWrite | apply keep_onQueue | apply keep_withResp | apply keep_onNode | apply keep_onServed | apply KeepsO.next | apply KeepsO.fault | apply KeepsO.ite | apply Keeps.ite | apply Keeps.iteFst | apply Keeps.foldl | apply Keeps.foldlFst | apply Keeps.elim) | split | with_reducible (apply Keeps.pair; assumption) | dsimp only)

theorem keep_execDoorbellReplay {s0 : Node} {a0 a1} (h1 : Keeps s0 a1.node) : KeepsS s0 (execDoorbellReplay a0 a1) := by
  unfold execDoorbellReplay
  repeat' (first | with_reducible (first | assumption | intro _ | apply keep_doorbellWrite | apply keep_onQueue | apply keep_withResp | apply keep_onNode | apply keep_onServed | apply KeepsO.next | apply KeepsO.fault | apply KeepsO.ite | apply Keeps.ite | apply Keeps.iteFst | apply Keeps.foldl | apply Keeps.foldlFst | apply Keeps.elim) | split | with_reducible (apply Keeps.pair; assumption) | dsimp only)

theorem keep_freePlace {s0 : Node} {a0 a1 a2} (h0 : Keeps s0 a0) : Keeps s0 (freePlace a0 a1 a2) := by
  unfold freePlace
  repeat' (first | with_reducible (first | assumption | intro _ | apply keep_modLed | apply keep_setEntry | apply Keeps.ite | apply Keeps.iteFst | apply Keeps.foldl | apply Keeps.foldlFst | apply Keeps.elim) | split | with_reducible (apply Keeps.pair; assumption) | dsimp only)

theorem keep_readSlot {s0 : Node} {a0 a1} (h0 : Keeps s0 a0) : Keeps s0 (readSlot a0 a1) := by
  unfold readSlot
  repeat' (first | with_reducible (first | assumption | intro _ | apply keep_agentTouch | apply keep_mirrorWrite | apply keep_modWq | apply keep_poisonAgent | apply keep_setEntry | apply keep_wqCount | apply Keeps.ite | apply Keeps.iteFst | apply Keeps.foldl | apply Keeps.foldlFst | apply Keeps.elim) | split | with_reducible (apply Keeps.pair; assumption) | dsimp only)

theorem keep_execWqSlotRead {s0 : Node} {a0 a1} (h1 : Keeps s0 a1.node) : KeepsS s0 (execWqSlotRead a0 a1) := by
  unfold execWqSlotRead
  repeat' (first | with_reducible (first | assumption | intro _ | apply keep_onQueue | apply keep_readSlot | apply keep_onNode | apply keep_onServed | apply KeepsO.next | apply KeepsO.fault | apply KeepsO.ite | apply Keeps.ite | apply Keeps.iteFst | apply Keeps.foldl | apply Keeps.foldlFst | apply Keeps.elim) | split | with_reducible (apply Keeps.pair; assumption) | dsimp only)

theorem keep_execWqRereadTimer {s0 : Node} {a0 a1} (h1 : Keeps s0 a1.node) : KeepsS s0 (execWqRereadTimer a0 a1) := by
  unfold execWqRereadTimer
  repeat' (first | with_reducible (first | assumption | intro _ | apply keep_onQueue | apply keep_readSlot | apply keep_wqCount | apply keep_onNode | apply keep_onServed | apply KeepsO.next | apply KeepsO.fault | apply KeepsO.ite | apply Keeps.ite | apply Keeps.iteFst | apply Keeps.foldl | apply Keeps.foldlFst | apply Keeps.elim) | split | with_reducible (apply Keeps.pair; assumption) | dsimp only)

theorem keep_execDoorbellAhead {s0 : Node} {a0 a1} (h1 : Keeps s0 a1.node) : KeepsS s0 (execDoorbellAhead a0 a1) := by
  unfold execDoorbellAhead
  repeat' (first | with_reducible (first | assumption | intro _ | apply keep_logErr | apply keep_onQueue | apply keep_setStall | apply keep_onNode | apply keep_onServed | apply KeepsO.next | apply KeepsO.fault | apply KeepsO.ite | apply Keeps.ite | apply Keeps.iteFst | apply Keeps.foldl | apply Keeps.foldlFst | apply Keeps.elim) | split | with_reducible (apply Keeps.pair; assumption) | dsimp only)

theorem keep_judge {s0 : Node} {a0 a1 a2} (h0 : Keeps s0 a0) : Keeps s0 (judge a0 a1 a2) := by
  unfold judge
  repeat' (first | with_reducible (first | assumption | intro _ | apply keep_logErr | apply keep_modLedEntry | apply Keeps.ite | apply Keeps.iteFst | apply Keeps.foldl | apply Keeps.foldlFst | apply Keeps.elim) | split | with_reducible (apply Keeps.pair; assumption) | dsimp only)

theorem keep_freeRetired {s0 : Node} {a0 a1 a2} (h0 : Keeps s0 a0) : Keeps s0 (freeRetired a0 a1 a2) := by
  unfold freeRetired
  repeat' (first | with_reducible (first | assumption | intro _ | apply keep_freePlace | apply Keeps.ite | apply Keeps.iteFst | apply Keeps.foldl | apply Keeps.foldlFst | apply Keeps.elim) | split | with_reducible (apply Keeps.pair; assumption) | dsimp only)

theorem keep_dropMirrorRemote {s0 : Node} {a0 a1 a2} (h0 : Keeps s0 a0) : Keeps s0 (dropMirrorRemote a0 a1 a2) := by
  unfold dropMirrorRemote
  repeat' (first | with_reducible (first | assumption | intro _ | apply Keeps.ite | apply Keeps.iteFst | apply Keeps.foldl | apply Keeps.foldlFst | apply Keeps.elim) | split | with_reducible (apply Keeps.pair; assumption) | dsimp only | ((with_reducible apply Keeps.rcd); (on_goal 2 => rfl); (on_goal 2 => rfl)))

theorem keep_openOutput {s0 : Node} {a0 a1 a2} (h0 : Keeps s0 a0) : Keeps s0 (openOutput a0 a1 a2) := by
  unfold openOutput
  repeat' (first | with_reducible (first | assumption | intro _ | apply keep_bump | apply keep_modLedEntry | apply Keeps.ite | apply Keeps.iteFst | apply Keeps.foldl | apply Keeps.foldlFst | apply Keeps.elim) | split | with_reducible (apply Keeps.pair; assumption) | dsimp only)

theorem keep_execMirrorWriteAck {s0 : Node} {a0 a1 a2} (h2 : Keeps s0 a2.node) : KeepsS s0 (execMirrorWriteAck a0 a1 a2) := by
  unfold execMirrorWriteAck
  repeat' (first | with_reducible (first | assumption | intro _ | apply keep_cntAdd | apply keep_dropMirrorRemote | apply keep_fSet | apply keep_freeRetired | apply keep_judge | apply keep_modLedEntry | apply keep_modWq | apply keep_onEntry | apply keep_openOutput | apply keep_onNode | apply keep_onServed | apply KeepsO.next | apply KeepsO.fault | apply KeepsO.ite | apply Keeps.ite | apply Keeps.iteFst | apply Keeps.foldl | apply Keeps.foldlFst | apply Keeps.elim) | split | with_reducible (apply Keeps.pair; assumption) | dsimp only | ((with_reducible apply Keeps.rcd); (on_goal 2 => rfl); (on_goal 2 => rfl)))

theorem keep_execMirrorLost {s0 : Node} {a0 a1 a2} (h2 : Keeps s0 a2.node) : KeepsS s0 (execMirrorLost a0 a1 a2) := by
  unfold execMirrorLost
  repeat' (first | with_reducible (first | assumption | intro _ | apply keep_accChanged | apply keep_dropMirrorRemote | apply keep_logErr | apply keep_mirrorWrite | apply keep_modLedEntry | apply keep_onEntry | apply keep_onNode | apply keep_onServed | apply KeepsO.next | apply KeepsO.fault | apply KeepsO.ite | apply Keeps.ite | apply Keeps.iteFst | apply Keeps.foldl | apply Keeps.foldlFst | apply Keeps.elim) | split | with_reducible (apply Keeps.pair; assumption) | dsimp only | ((with_reducible apply Keeps.rcd); (on_goal 2 => rfl); (on_goal 2 => rfl)))

theorem keep_mirrorNamed {s0 : Node} {a0} (h0 : Keeps s0 a0) : Keeps s0 (mirrorNamed a0) := by
  unfold mirrorNamed
  repeat' (first | with_reducible (first | assumption | intro _ | apply keep_accChanged | apply keep_dropMirrorRemote | apply keep_mirrorWrite | apply keep_modLed | apply keep_modLedEntry | apply Keeps.ite | apply Keeps.iteFst | apply Keeps.foldl | apply Keeps.foldlFst | apply Keeps.elim) | split | with_reducible (apply Keeps.pair; assumption) | dsimp only | ((with_reducible apply Keeps.rcd); (on_goal 2 => rfl); (on_goal 2 => rfl)))

theorem keep_execAcceptanceWordWrite {s0 : Node} {a0 a1} (h1 : Keeps s0 a1.node) : KeepsS s0 (execAcceptanceWordWrite a0 a1) := by
  unfold execAcceptanceWordWrite
  repeat' (first | with_reducible (first | assumption | intro _ | apply keep_agentWriteLE | apply keep_modWq | apply keep_onQueue | apply keep_qpPost | apply keep_onNode | apply keep_onServed | apply KeepsO.next | apply KeepsO.fault | apply KeepsO.ite | apply Keeps.ite | apply Keeps.iteFst | apply Keeps.foldl | apply Keeps.foldlFst | apply Keeps.elim) | split | with_reducible (apply Keeps.pair; assumption) | dsimp only)

theorem keep_markStarted {s0 : Node} {a0 a1 a2} (h0 : Keeps s0 a0) : Keeps s0 (markStarted a0 a1 a2) := by
  unfold markStarted
  repeat' (first | with_reducible (first | assumption | intro _ | apply keep_modLedEntry | apply Keeps.ite | apply Keeps.iteFst | apply Keeps.foldl | apply Keeps.foldlFst | apply Keeps.elim) | split | with_reducible (apply Keeps.pair; assumption) | dsimp only)

theorem keep_execWqTiles {s0 : Node} {a0 a1 a2} (h2 : Keeps s0 a2.node) : KeepsS s0 (execWqTiles a0 a1 a2) := by
  unfold execWqTiles
  repeat' (first | with_reducible (first | assumption | intro _ | apply keep_modLedEntry | apply keep_onEntry | apply keep_submitList | apply keep_onNode | apply keep_onServed | apply KeepsO.next | apply KeepsO.fault | apply KeepsO.ite | apply Keeps.ite | apply Keeps.iteFst | apply Keeps.foldl | apply Keeps.foldlFst | apply Keeps.elim) | split | with_reducible (apply Keeps.pair; assumption) | dsimp only)

theorem keep_execWqNotifyCmd {s0 : Node} {a0 a1 a2} (h2 : Keeps s0 a2.node) : KeepsS s0 (execWqNotifyCmd a0 a1 a2) := by
  unfold execWqNotifyCmd
  repeat' (first | with_reducible (first | assumption | intro _ | apply keep_markStarted | apply keep_modLed | apply keep_onEntry | apply keep_signal | apply keep_onNode | apply keep_onServed | apply KeepsO.next | apply KeepsO.fault | apply KeepsO.ite | apply Keeps.ite | apply Keeps.iteFst | apply Keeps.foldl | apply Keeps.foldlFst | apply Keeps.elim) | split | with_reducible (apply Keeps.pair; assumption) | dsimp only)

theorem keep_execWqWait {s0 : Node} {a0 a1 a2} (h2 : Keeps s0 a2.node) : KeepsS s0 (execWqWait a0 a1 a2) := by
  unfold execWqWait
  repeat' (first | with_reducible (first | assumption | intro _ | apply keep_markStarted | apply keep_onEntry | apply keep_onNode | apply keep_onServed | apply KeepsO.next | apply KeepsO.fault | apply KeepsO.ite | apply Keeps.ite | apply Keeps.iteFst | apply Keeps.foldl | apply Keeps.foldlFst | apply Keeps.elim) | split | with_reducible (apply Keeps.pair; assumption) | dsimp only)

theorem keep_execWqSignal {s0 : Node} {a0 a1 a2} (h2 : Keeps s0 a2.node) : KeepsS s0 (execWqSignal a0 a1 a2) := by
  unfold execWqSignal
  repeat' (first | with_reducible (first | assumption | intro _ | apply keep_addDep | apply keep_markStarted | apply keep_modLedEntry | apply keep_onEntry | apply keep_onNode | apply keep_onServed | apply KeepsO.next | apply KeepsO.fault | apply KeepsO.ite | apply Keeps.ite | apply Keeps.iteFst | apply Keeps.foldl | apply Keeps.foldlFst | apply Keeps.elim) | split | with_reducible (apply Keeps.pair; assumption) | dsimp only)

theorem keep_execWqNop {s0 : Node} {a0 a1 a2} (h2 : Keeps s0 a2.node) : KeepsS s0 (execWqNop a0 a1 a2) := by
  unfold execWqNop
  repeat' (first | with_reducible (first | assumption | intro _ | apply keep_markStarted | apply keep_modLedEntry | apply keep_onEntry | apply keep_onNode | apply keep_onServed | apply KeepsO.next | apply KeepsO.fault | apply KeepsO.ite | apply Keeps.ite | apply Keeps.iteFst | apply Keeps.foldl | apply Keeps.foldlFst | apply Keeps.elim) | split | with_reducible (apply Keeps.pair; assumption) | dsimp only)

theorem keep_execWqCommandComplete {s0 : Node} {a0 a1 a2} (h2 : Keeps s0 a2.node) : KeepsS s0 (execWqCommandComplete a0 a1 a2) := by
  unfold execWqCommandComplete
  repeat' (first | with_reducible (first | assumption | intro _ | apply keep_entryMoves | apply keep_onEntry | apply keep_onNode | apply keep_onServed | apply KeepsO.next | apply KeepsO.fault | apply KeepsO.ite | apply Keeps.ite | apply Keeps.iteFst | apply Keeps.foldl | apply Keeps.foldlFst | apply Keeps.elim) | split | with_reducible (apply Keeps.pair; assumption) | dsimp only)

theorem keep_execCompletionRecordWrite {s0 : Node} {a0 a1 a2} (h2 : Keeps s0 a2.node) : KeepsS s0 (execCompletionRecordWrite a0 a1 a2) := by
  unfold execCompletionRecordWrite
  repeat' (first | with_reducible (first | assumption | intro _ | apply keep_agentWrite | apply keep_entryMoves | apply keep_modLedEntry | apply keep_modWq | apply keep_onEntry | apply keep_qpPost | apply keep_onNode | apply keep_onServed | apply KeepsO.next | apply KeepsO.fault | apply KeepsO.ite | apply Keeps.ite | apply Keeps.iteFst | apply Keeps.foldl | apply Keeps.foldlFst | apply Keeps.elim) | split | with_reducible (apply Keeps.pair; assumption) | dsimp only)

theorem keep_execCqWriteFailed {s0 : Node} {a0 a1} (h1 : Keeps s0 a1.node) : KeepsS s0 (execCqWriteFailed a0 a1) := by
  unfold execCqWriteFailed
  repeat' (first | with_reducible (first | assumption | intro _ | apply keep_logErr | apply keep_modWq | apply keep_onQueue | apply keep_onNode | apply keep_onServed | apply KeepsO.next | apply KeepsO.fault | apply KeepsO.ite | apply Keeps.ite | apply Keeps.iteFst | apply Keeps.foldl | apply Keeps.foldlFst | apply Keeps.elim) | split | with_reducible (apply Keeps.pair; assumption) | dsimp only)

theorem keep_execWqNotifyRead {s0 : Node} {a0 a1} (h1 : Keeps s0 a1.node) : KeepsS s0 (execWqNotifyRead a0 a1) := by
  unfold execWqNotifyRead
  repeat' (first | with_reducible (first | assumption | intro _ | apply keep_modLed | apply keep_onBase | apply keep_withResp | apply keep_onNode | apply keep_onServed | apply KeepsO.next | apply KeepsO.fault | apply KeepsO.ite | apply Keeps.ite | apply Keeps.iteFst | apply Keeps.foldl | apply Keeps.foldlFst | apply Keeps.elim) | split | with_reducible (apply Keeps.pair; assumption) | dsimp only)

theorem keep_completeStore {s0 : Node} {a0 a1} (h0 : Keeps s0 a0) : Keeps s0 (completeStore a0 a1) := by
  unfold completeStore
  repeat' (first | with_reducible (first | assumption | intro _ | apply keep_bump | apply keep_modLedEntry | apply keep_wqCount | apply Keeps.ite | apply Keeps.iteFst | apply Keeps.foldl | apply Keeps.foldlFst | apply Keeps.elim) | split | with_reducible (apply Keeps.pair; assumption) | dsimp only)

theorem keep_execWqCompleteWrite {s0 : Node} {a0 a1} (h1 : Keeps s0 a1.node) : KeepsS s0 (execWqCompleteWrite a0 a1) := by
  unfold execWqCompleteWrite
  repeat' (first | with_reducible (first | assumption | intro _ | apply keep_completeStore | apply keep_withResp | apply keep_onNode | apply keep_onServed | apply KeepsO.next | apply KeepsO.fault | apply KeepsO.ite | apply Keeps.ite | apply Keeps.iteFst | apply Keeps.foldl | apply Keeps.foldlFst | apply Keeps.elim) | split | with_reducible (apply Keeps.pair; assumption) | dsimp only)

theorem keep_endRecovery {s0 : Node} {a0} (h0 : Keeps s0 a0) : Keeps s0 (endRecovery a0) := by
  unfold endRecovery
  repeat' (first | with_reducible (first | assumption | intro _ | apply keep_accChanged | apply keep_fSet | apply Keeps.ite | apply Keeps.iteFst | apply Keeps.foldl | apply Keeps.foldlFst | apply Keeps.elim) | split | with_reducible (apply Keeps.pair; assumption) | dsimp only | ((with_reducible apply Keeps.rcd); (on_goal 2 => rfl); (on_goal 2 => rfl)))

theorem keep_ledgerFresh {s0 : Node} {a0} (h0 : Keeps s0 a0) : Keeps s0 (ledgerFresh a0) := by
  unfold ledgerFresh
  repeat' (first | with_reducible (first | assumption | intro _ | apply keep_endRecovery | apply Keeps.ite | apply Keeps.iteFst | apply Keeps.foldl | apply Keeps.foldlFst | apply Keeps.elim) | split | with_reducible (apply Keeps.pair; assumption) | dsimp only)

theorem keep_execLedgerFresh {s0 : Node} {a0} (h0 : Keeps s0 a0.node) : KeepsS s0 (execLedgerFresh a0) := by
  unfold execLedgerFresh
  repeat' (first | with_reducible (first | assumption | intro _ | apply keep_ledgerFresh | apply keep_withResp | apply keep_onNode | apply keep_onServed | apply KeepsO.next | apply KeepsO.fault | apply KeepsO.ite | apply Keeps.ite | apply Keeps.iteFst | apply Keeps.foldl | apply Keeps.foldlFst | apply Keeps.elim) | split | with_reducible (apply Keeps.pair; assumption) | dsimp only)

theorem keep_execLedgerReplay {s0 : Node} {a0} (h0 : Keeps s0 a0.node) : KeepsS s0 (execLedgerReplay a0) := by
  unfold execLedgerReplay
  repeat' (first | with_reducible (first | assumption | intro _ | apply keep_startReplay | apply keep_withResp | apply keep_onNode | apply keep_onServed | apply KeepsO.next | apply KeepsO.fault | apply KeepsO.ite | apply Keeps.ite | apply Keeps.iteFst | apply Keeps.foldl | apply Keeps.foldlFst | apply Keeps.elim) | split | with_reducible (apply Keeps.pair; assumption) | dsimp only)

theorem keep_reconcileEntry {s0 : Node} {a0 a1 a2 a3 a4} (h0 : Keeps s0 a0) : Keeps s0 (reconcileEntry a0 a1 a2 a3 a4) := by
  unfold reconcileEntry
  repeat' (first | with_reducible (first | assumption | intro _ | apply keep_dropMirrorRemote | apply keep_logErr | apply keep_modLed | apply keep_modWq | apply keep_openOutput | apply keep_setEntry | apply Keeps.ite | apply Keeps.iteFst | apply Keeps.foldl | apply Keeps.foldlFst | apply Keeps.elim) | split | with_reducible (apply Keeps.pair; assumption) | dsimp only)

theorem keep_actOnEntry {s0 : Node} {a0 a1 a2 a3} (h0 : Keeps s0 a0) : Keeps s0 (actOnEntry a0 a1 a2 a3) := by
  unfold actOnEntry
  repeat' (first | with_reducible (first | assumption | intro _ | apply keep_cntAdd | apply keep_entryMoves | apply keep_freeRetired | apply keep_judge | apply keep_modLedEntry | apply Keeps.ite | apply Keeps.iteFst | apply Keeps.foldl | apply Keeps.foldlFst | apply Keeps.elim) | split | with_reducible (apply Keeps.pair; assumption) | dsimp only)

theorem keep_nextAfter {s0 : Node} {a0 a1} (h0 : Keeps s0 a0) : Keeps s0 (nextAfter a0 a1) := by
  unfold nextAfter
  repeat' (first | with_reducible (first | assumption | intro _ | apply keep_fSet | apply Keeps.ite | apply Keeps.iteFst | apply Keeps.foldl | apply Keeps.foldlFst | apply Keeps.elim) | split | with_reducible (apply Keeps.pair; assumption) | dsimp only)

theorem keep_reconcile {s0 : Node} {a0 a1} (h0 : Keeps s0 a0) : Keeps s0 (reconcile a0 a1) := by
  unfold reconcile
  repeat' (first | with_reducible (first | assumption | intro _ | apply keep_actOnEntry | apply keep_endRecovery | apply keep_logErr | apply keep_modLed | apply keep_nextAfter | apply keep_reconcileEntry | apply keep_setEntry | apply Keeps.ite | apply Keeps.iteFst | apply Keeps.foldl | apply Keeps.foldlFst | apply Keeps.elim) | split | with_reducible (apply Keeps.pair; assumption) | dsimp only)

theorem keep_replayRead {s0 : Node} {a0} (h0 : Keeps s0 a0) : Keeps s0 (replayRead a0) := by
  unfold replayRead
  repeat' (first | with_reducible (first | assumption | intro _ | apply keep_takeRemote | apply Keeps.ite | apply Keeps.iteFst | apply Keeps.foldl | apply Keeps.foldlFst | apply Keeps.elim) | split | with_reducible (apply Keeps.pair; assumption) | dsimp only | ((with_reducible apply Keeps.rcd); (on_goal 2 => rfl); (on_goal 2 => rfl)))

theorem keep_execReconciliationDone {s0 : Node} {a0 a1} (h1 : Keeps s0 a1.node) : KeepsS s0 (execReconciliationDone a0 a1) := by
  unfold execReconciliationDone
  repeat' (first | with_reducible (first | assumption | intro _ | apply keep_reconcile | apply keep_replayRead | apply keep_onNode | apply keep_onServed | apply KeepsO.next | apply KeepsO.fault | apply KeepsO.ite | apply Keeps.ite | apply Keeps.iteFst | apply Keeps.foldl | apply Keeps.foldlFst | apply Keeps.elim) | split | with_reducible (apply Keeps.pair; assumption) | dsimp only)

theorem keep_execCnpReceive {s0 : Node} {a0 a1} (h1 : Keeps s0 a1.node) : KeepsS s0 (execCnpReceive a0 a1) := by
  unfold execCnpReceive
  repeat' (first | with_reducible (first | assumption | intro _ | apply keep_modQp | apply keep_onQp | apply keep_portCount | apply keep_onNode | apply keep_onServed | apply KeepsO.next | apply KeepsO.fault | apply KeepsO.ite | apply Keeps.ite | apply Keeps.iteFst | apply Keeps.foldl | apply Keeps.foldlFst | apply Keeps.elim) | split | with_reducible (apply Keeps.pair; assumption) | dsimp only)

theorem keep_execRoceRateIncrease {s0 : Node} {a0 a1} (h1 : Keeps s0 a1.node) : KeepsS s0 (execRoceRateIncrease a0 a1) := by
  unfold execRoceRateIncrease
  repeat' (first | with_reducible (first | assumption | intro _ | apply keep_modQp | apply keep_onQp | apply keep_onNode | apply keep_onServed | apply KeepsO.next | apply KeepsO.fault | apply KeepsO.ite | apply Keeps.ite | apply Keeps.iteFst | apply Keeps.foldl | apply Keeps.foldlFst | apply Keeps.elim) | split | with_reducible (apply Keeps.pair; assumption) | dsimp only)

theorem keep_mrWrite {s0 : Node} {a0 a1 a2 a3} (h0 : Keeps s0 a0) : Keeps s0 (mrWrite a0 a1 a2 a3) := by
  unfold mrWrite
  repeat' (first | with_reducible (first | assumption | intro _ | apply keep_regSet | apply Keeps.ite | apply Keeps.iteFst | apply Keeps.foldl | apply Keeps.foldlFst | apply Keeps.elim) | split | with_reducible (apply Keeps.pair; assumption) | dsimp only)

theorem keep_execMrEntryWrite {s0 : Node} {a0 a1 a2 a3} (h3 : Keeps s0 a3.node) : KeepsS s0 (execMrEntryWrite a0 a1 a2 a3) := by
  unfold execMrEntryWrite
  repeat' (first | with_reducible (first | assumption | intro _ | apply keep_mrWrite | apply keep_withResp | apply keep_onNode | apply keep_onServed | apply KeepsO.next | apply KeepsO.fault | apply KeepsO.ite | apply Keeps.ite | apply Keeps.iteFst | apply Keeps.foldl | apply Keeps.foldlFst | apply Keeps.elim) | split | with_reducible (apply Keeps.pair; assumption) | dsimp only)

theorem keep_qpAnswer {s0 : Node} {a0 a1 a2 a3 a4} (h0 : Keeps s0 a0) : Keeps s0 (qpAnswer a0 a1 a2 a3 a4) := by
  unfold qpAnswer
  repeat' (first | with_reducible (first | assumption | intro _ | apply keep_sendFrame | apply Keeps.ite | apply Keeps.iteFst | apply Keeps.foldl | apply Keeps.foldlFst | apply Keeps.elim) | split | with_reducible (apply Keeps.pair; assumption) | dsimp only)

theorem keep_qpNak {s0 : Node} {a0 a1 a2 a3} (h0 : Keeps s0 a0) : Keeps s0 (qpNak a0 a1 a2 a3) := by
  unfold qpNak
  repeat' (first | with_reducible (first | assumption | intro _ | apply keep_qpAnswer | apply Keeps.ite | apply Keeps.iteFst | apply Keeps.foldl | apply Keeps.foldlFst | apply Keeps.elim) | split | with_reducible (apply Keeps.pair; assumption) | dsimp only)

theorem keep_accessFails {s0 : Node} {a0 a1 a2} (h0 : Keeps s0 a0) : Keeps s0 (accessFails a0 a1 a2) := by
  unfold accessFails
  repeat' (first | with_reducible (first | assumption | intro _ | apply keep_logErr | apply keep_qpFlush | apply keep_qpNak | apply Keeps.ite | apply Keeps.iteFst | apply Keeps.foldl | apply Keeps.foldlFst | apply Keeps.elim) | split | with_reducible (apply Keeps.pair; assumption) | dsimp only)

theorem keep_requestInvalid {s0 : Node} {a0 a1 a2} (h0 : Keeps s0 a0) : Keeps s0 (requestInvalid a0 a1 a2) := by
  unfold requestInvalid
  repeat' (first | with_reducible (first | assumption | intro _ | apply keep_qpFlush | apply keep_qpNak | apply Keeps.ite | apply Keeps.iteFst | apply Keeps.foldl | apply Keeps.foldlFst | apply Keeps.elim) | split | with_reducible (apply Keeps.pair; assumption) | dsimp only)

theorem keep_recvComplete {s0 : Node} {a0 a1 a2 a3 a4 a5} (h0 : Keeps s0 a0) : Keeps s0 (recvComplete a0 a1 a2 a3 a4 a5) := by
  unfold recvComplete
  repeat' (first | with_reducible (first | assumption | intro _ | apply keep_bump | apply keep_roceComplete | apply Keeps.ite | apply Keeps.iteFst | apply Keeps.foldl | apply Keeps.foldlFst | apply Keeps.elim) | split | with_reducible (apply Keeps.pair; assumption) | dsimp only)

theorem keep_qpAccept {s0 : Node} {a0 a1 a2 a3} (h0 : Keeps s0 a0) : Keeps s0 (qpAccept a0 a1 a2 a3) := by
  unfold qpAccept
  repeat' (first | with_reducible (first | assumption | intro _ | apply keep_modQp | apply keep_qpAnswer | apply Keeps.ite | apply Keeps.iteFst | apply Keeps.foldl | apply Keeps.foldlFst | apply Keeps.elim) | split | with_reducible (apply Keeps.pair; assumption) | dsimp only)

theorem keep_withRecv {s0 : Node} {a0 a1 a2 a3} (h0 : Keeps s0 a0) (h3 : ∀ x0 x1 x2, Keeps s0 x0 → Keeps s0 (a3 x0 x1 x2)) : Keeps s0 (withRecv a0 a1 a2 a3) := by
  unfold withRecv
  repeat' (first | with_reducible (first | assumption | intro _ | apply h3 | apply keep_agentTouch | apply keep_modQp | apply keep_qpNak | apply Keeps.ite | apply Keeps.iteFst | apply Keeps.foldl | apply Keeps.foldlFst | apply Keeps.elim) | split | with_reducible (apply Keeps.pair; assumption) | dsimp only)

theorem keep_landWrite {s0 : Node} {a0 a1 a2 a3} (h0 : Keeps s0 a0) : Keeps s0 (landWrite a0 a1 a2 a3) := by
  unfold landWrite
  repeat' (first | with_reducible (first | assumption | intro _ | apply keep_agentWrite | apply keep_doorbellWrite | apply Keeps.ite | apply Keeps.iteFst | apply Keeps.foldl | apply Keeps.foldlFst | apply Keeps.elim) | split | with_reducible (apply Keeps.pair; assumption) | dsimp only)

theorem keep_setMsg {s0 : Node} {a0 a1 a2} (h0 : Keeps s0 a0) : Keeps s0 (setMsg a0 a1 a2) := by
  unfold setMsg
  repeat' (first | with_reducible (first | assumption | intro _ | apply keep_modQp | apply Keeps.ite | apply Keeps.iteFst | apply Keeps.foldl | apply Keeps.foldlFst | apply Keeps.elim) | split | with_reducible (apply Keeps.pair; assumption) | dsimp only)

theorem keep_sendPart {s0 : Node} {a0 a1 a2 a3} (h0 : Keeps s0 a0) : Keeps s0 (sendPart a0 a1 a2 a3) := by
  unfold sendPart
  repeat' (first | with_reducible (first | assumption | intro _ | apply keep_agentWrite | apply keep_qpAccept | apply keep_qpFlush | apply keep_qpNak | apply keep_recvComplete | apply keep_requestInvalid | apply keep_setMsg | apply Keeps.ite | apply Keeps.iteFst | apply Keeps.foldl | apply Keeps.foldlFst | apply Keeps.elim) | split | with_reducible (apply Keeps.pair; assumption) | dsimp only)

theorem keep_performSend {s0 : Node} {a0 a1 a2} (h0 : Keeps s0 a0) : Keeps s0 (performSend a0 a1 a2) := by
  unfold performSend
  repeat' (first | with_reducible (first | assumption | intro _ | apply keep_requestInvalid | apply keep_sendPart | apply keep_withRecv | apply Keeps.ite | apply Keeps.iteFst | apply Keeps.foldl | apply Keeps.foldlFst | apply Keeps.elim) | split | with_reducible (apply Keeps.pair; assumption) | dsimp only)

theorem keep_landPart {s0 : Node} {a0 a1 a2 a3} (h0 : Keeps s0 a0) : Keeps s0 (landPart a0 a1 a2 a3) := by
  unfold landPart
  repeat' (first | with_reducible (first | assumption | intro _ | apply keep_landWrite | apply Keeps.ite | apply Keeps.iteFst | apply Keeps.foldl | apply Keeps.foldlFst | apply Keeps.elim) | split | with_reducible (apply Keeps.pair; assumption) | dsimp only)

theorem keep_writePart {s0 : Node} {a0 a1 a2 a3} (h0 : Keeps s0 a0) : Keeps s0 (writePart a0 a1 a2 a3) := by
  unfold writePart
  repeat' (first | with_reducible (first | assumption | intro _ | apply keep_landPart | apply keep_qpAccept | apply keep_recvComplete | apply keep_requestInvalid | apply keep_setMsg | apply keep_withRecv | apply Keeps.ite | apply Keeps.iteFst | apply Keeps.foldl | apply Keeps.foldlFst | apply Keeps.elim) | split | with_reducible (apply Keeps.pair; assumption) | dsimp only)

theorem keep_performWrite {s0 : Node} {a0 a1 a2} (h0 : Keeps s0 a0) : Keeps s0 (performWrite a0 a1 a2) := by
  unfold performWrite
  repeat' (first | with_reducible (first | assumption | intro _ | apply keep_accessFails | apply keep_requestInvalid | apply keep_writePart | apply Keeps.ite | apply Keeps.iteFst | apply Keeps.foldl | apply Keeps.foldlFst | apply Keeps.elim) | split | with_reducible (apply Keeps.pair; assumption) | dsimp only)

theorem keep_readResponses {s0 : Node} {a0 a1 a2 a3} (h0 : Keeps s0 a0) : Keeps s0 (readResponses a0 a1 a2 a3) := by
  unfold readResponses
  repeat' (first | with_reducible (first | assumption | intro _ | apply keep_qpAnswer | apply Keeps.ite | apply Keeps.iteFst | apply Keeps.foldl | apply Keeps.foldlFst | apply Keeps.elim) | split | with_reducible (apply Keeps.pair; assumption) | dsimp only)

theorem keep_performRead {s0 : Node} {a0 a1 a2} (h0 : Keeps s0 a0) : Keeps s0 (performRead a0 a1 a2) := by
  unfold performRead
  repeat' (first | with_reducible (first | assumption | intro _ | apply keep_accessFails | apply keep_agentTouch | apply keep_modQp | apply keep_poisonAgent | apply keep_qpNak | apply keep_readResponses | apply Keeps.ite | apply Keeps.iteFst | apply Keeps.foldl | apply Keeps.foldlFst | apply Keeps.elim) | split | with_reducible (apply Keeps.pair; assumption) | dsimp only)

theorem keep_performAtomic {s0 : Node} {a0 a1 a2} (h0 : Keeps s0 a0) : Keeps s0 (performAtomic a0 a1 a2) := by
  unfold performAtomic
  repeat' (first | with_reducible (first | assumption | intro _ | apply keep_accessFails | apply keep_homeAtom | apply keep_modQp | apply keep_poisonAgent | apply keep_qpAnswer | apply keep_qpNak | apply Keeps.ite | apply Keeps.iteFst | apply Keeps.foldl | apply Keeps.foldlFst | apply Keeps.elim) | split | with_reducible (apply Keeps.pair; assumption) | dsimp only)

theorem keep_performRoce {s0 : Node} {a0 a1 a2} (h0 : Keeps s0 a0) : Keeps s0 (performRoce a0 a1 a2) := by
  unfold performRoce
  repeat' (first | with_reducible (first | assumption | intro _ | apply keep_performAtomic | apply keep_performRead | apply keep_performSend | apply keep_performWrite | apply keep_requestInvalid | apply Keeps.ite | apply Keeps.iteFst | apply Keeps.foldl | apply Keeps.foldlFst | apply Keeps.elim) | split | with_reducible (apply Keeps.pair; assumption) | dsimp only)

theorem keep_ackAgain {s0 : Node} {a0 a1} (h0 : Keeps s0 a0) : Keeps s0 (ackAgain a0 a1) := by
  unfold ackAgain
  repeat' (first | with_reducible (first | assumption | intro _ | apply keep_qpAnswer | apply Keeps.ite | apply Keeps.iteFst | apply Keeps.foldl | apply Keeps.foldlFst | apply Keeps.elim) | split | with_reducible (apply Keeps.pair; assumption) | dsimp only)

theorem keep_duplicateWrite {s0 : Node} {a0 a1 a2} (h0 : Keeps s0 a0) : Keeps s0 (duplicateWrite a0 a1 a2) := by
  unfold duplicateWrite
  repeat' (first | with_reducible (first | assumption | intro _ | apply keep_accessFails | apply keep_ackAgain | apply keep_landPart | apply keep_modQp | apply keep_requestInvalid | apply Keeps.ite | apply Keeps.iteFst | apply Keeps.foldl | apply Keeps.foldlFst | apply Keeps.elim) | split | with_reducible (apply Keeps.pair; assumption) | dsimp only)

theorem keep_duplicateRoce {s0 : Node} {a0 a1 a2} (h0 : Keeps s0 a0) : Keeps s0 (duplicateRoce a0 a1 a2) := by
  unfold duplicateRoce
  repeat' (first | with_reducible (first | assumption | intro _ | apply keep_ackAgain | apply keep_duplicateWrite | apply keep_modQp | apply keep_performRead | apply keep_qpAnswer | apply Keeps.ite | apply Keeps.iteFst | apply Keeps.foldl | apply Keeps.foldlFst | apply Keeps.elim) | split | with_reducible (apply Keeps.pair; assumption) | dsimp only)

theorem keep_acceptPacket {s0 : Node} {a0 a1} (h0 : Keeps s0 a0) : Keeps s0 (acceptPacket a0 a1) := by
  unfold acceptPacket
  repeat' (first | with_reducible (first | assumption | intro _ | apply keep_modQp | apply Keeps.ite | apply Keeps.iteFst | apply Keeps.foldl | apply Keeps.foldlFst | apply Keeps.elim) | split | with_reducible (apply Keeps.pair; assumption) | dsimp only | ((with_reducible apply Keeps.rcd); (on_goal 2 => rfl); (on_goal 2 => rfl)))

theorem keep_execRocePacketReceive {s0 : Node} {a0 a1 a2} (h2 : Keeps s0 a2.node) : KeepsS s0 (execRocePacketReceive a0 a1 a2) := by
  unfold execRocePacketReceive
  repeat' (first | with_reducible (first | assumption | intro _ | apply keep_acceptPacket | apply keep_duplicateRoce | apply keep_onPort | apply keep_performRoce | apply keep_portCount | apply keep_qpNak | apply keep_onNode | apply keep_onServed | apply KeepsO.next | apply KeepsO.fault | apply KeepsO.ite | apply Keeps.ite | apply Keeps.iteFst | apply Keeps.foldl | apply Keeps.foldlFst | apply Keeps.elim) | split | with_reducible (apply Keeps.pair; assumption) | dsimp only)

theorem keep_goBackN {s0 : Node} {a0 a1} (h0 : Keeps s0 a0) : Keeps s0 (goBackN a0 a1) := by
  unfold goBackN
  repeat' (first | with_reducible (first | assumption | intro _ | apply keep_qpTransmit | apply Keeps.ite | apply Keeps.iteFst | apply Keeps.foldl | apply Keeps.foldlFst | apply Keeps.elim) | split | with_reducible (apply Keeps.pair; assumption) | dsimp only)

theorem keep_retryQp {s0 : Node} {a0 a1} (h0 : Keeps s0 a0) : Keeps s0 (retryQp a0 a1) := by
  unfold retryQp
  repeat' (first | with_reducible (first | assumption | intro _ | apply keep_goBackN | apply keep_modQp | apply keep_qpError | apply Keeps.ite | apply Keeps.iteFst | apply Keeps.foldl | apply Keeps.foldlFst | apply Keeps.elim) | split | with_reducible (apply Keeps.pair; assumption) | dsimp only)

theorem keep_ackedPsns {s0 : Node} {a0 a1 a2} (h0 : Keeps s0 a0) : Keeps s0 (ackedPsns a0 a1 a2) := by
  unfold ackedPsns
  repeat' (first | with_reducible (first | assumption | intro _ | apply keep_modQp | apply Keeps.ite | apply Keeps.iteFst | apply Keeps.foldl | apply Keeps.foldlFst | apply Keeps.elim) | split | with_reducible (apply Keeps.pair; assumption) | dsimp only)

theorem keep_ackUpTo {s0 : Node} {a0 a1 a2 a3 a4} (h1 : Keeps s0 a1) : Keeps s0 (ackUpTo a0 a1 a2 a3 a4) := by
  induction a0 generalizing a1 a2 a3 a4 with
  | nil =>
    unfold ackUpTo
    repeat' (first | with_reducible (first | assumption | intro _ | apply keep_ackedPsns | apply keep_agentWrite | apply keep_modQp | apply keep_qpReqEnds | apply Keeps.ite | apply Keeps.iteFst | apply Keeps.foldl | apply Keeps.foldlFst | apply Keeps.elim) | split | with_reducible (apply Keeps.pair; assumption) | dsimp only)
  | cons x l ih =>
    unfold ackUpTo
    repeat' (first | with_reducible (first | assumption | apply ih | intro _ | apply keep_ackedPsns | apply keep_agentWrite | apply keep_modQp | apply keep_qpReqEnds | apply Keeps.ite | apply Keeps.iteFst | apply Keeps.foldl | apply Keeps.foldlFst | apply Keeps.elim) | split | with_reducible (apply Keeps.pair; assumption) | dsimp only)

theorem keep_execRoceAckReceive {s0 : Node} {a0 a1 a2} (h2 : Keeps s0 a2.node) : KeepsS s0 (execRoceAckReceive a0 a1 a2) := by
  unfold execRoceAckReceive
  repeat' (first | with_reducible (first | assumption | intro _ | apply keep_acceptPacket | apply keep_ackUpTo | apply keep_goBackN | apply keep_modQp | apply keep_onQp | apply keep_portCount | apply keep_qpError | apply keep_retryQp | apply keep_onNode | apply keep_onServed | apply KeepsO.next | apply KeepsO.fault | apply KeepsO.ite | apply Keeps.ite | apply Keeps.iteFst | apply Keeps.foldl | apply Keeps.foldlFst | apply Keeps.elim) | split | with_reducible (apply Keeps.pair; assumption) | dsimp only)

theorem keep_execRoceAckTimeout {s0 : Node} {a0 a1} (h1 : Keeps s0 a1.node) : KeepsS s0 (execRoceAckTimeout a0 a1) := by
  unfold execRoceAckTimeout
  repeat' (first | with_reducible (first | assumption | intro _ | apply keep_onQp | apply keep_retryQp | apply keep_onNode | apply keep_onServed | apply KeepsO.next | apply KeepsO.fault | apply KeepsO.ite | apply Keeps.ite | apply Keeps.iteFst | apply Keeps.foldl | apply Keeps.foldlFst | apply Keeps.elim) | split | with_reducible (apply Keeps.pair; assumption) | dsimp only)

theorem keep_qpRefused {s0 : Node} {a0 a1} (h0 : Keeps s0 a0) : Keeps s0 (qpRefused a0 a1) := by
  unfold qpRefused
  repeat' (first | with_reducible (first | assumption | intro _ | apply keep_fSet | apply Keeps.ite | apply Keeps.iteFst | apply Keeps.foldl | apply Keeps.foldlFst | apply Keeps.elim) | split | with_reducible (apply Keeps.pair; assumption) | dsimp only)

theorem keep_qpLoad {s0 : Node} {a0 a1 a2} (h0 : Keeps s0 a0) : Keeps s0 (qpLoad a0 a1 a2) := by
  unfold qpLoad
  repeat' (first | with_reducible (first | assumption | intro _ | apply keep_agentTouch | apply keep_modQp | apply keep_poisonAgent | apply keep_qpFlush | apply keep_qpRefused | apply Keeps.ite | apply Keeps.iteFst | apply Keeps.foldl | apply Keeps.foldlFst | apply Keeps.elim) | split | with_reducible (apply Keeps.pair; assumption) | dsimp only)

theorem keep_execRoceQpLoad {s0 : Node} {a0 a1 a2} (h2 : Keeps s0 a2.node) : KeepsS s0 (execRoceQpLoad a0 a1 a2) := by
  unfold execRoceQpLoad
  repeat' (first | with_reducible (first | assumption | intro _ | apply keep_qpLoad | apply keep_withResp | apply keep_onNode | apply keep_onServed | apply KeepsO.next | apply KeepsO.fault | apply KeepsO.ite | apply Keeps.ite | apply Keeps.iteFst | apply Keeps.foldl | apply Keeps.foldlFst | apply Keeps.elim) | split | with_reducible (apply Keeps.pair; assumption) | dsimp only)

theorem keep_qpStore {s0 : Node} {a0 a1 a2} (h0 : Keeps s0 a0) : Keeps s0 (qpStore a0 a1 a2) := by
  unfold qpStore
  repeat' (first | with_reducible (first | assumption | intro _ | apply keep_agentWrite | apply keep_qpRefused | apply Keeps.ite | apply Keeps.iteFst | apply Keeps.foldl | apply Keeps.foldlFst | apply Keeps.elim) | split | with_reducible (apply Keeps.pair; assumption) | dsimp only)

theorem keep_execRoceQpStore {s0 : Node} {a0 a1 a2} (h2 : Keeps s0 a2.node) : KeepsS s0 (execRoceQpStore a0 a1 a2) := by
  unfold execRoceQpStore
  repeat' (first | with_reducible (first | assumption | intro _ | apply keep_qpStore | apply keep_withResp | apply keep_onNode | apply keep_onServed | apply KeepsO.next | apply KeepsO.fault | apply KeepsO.ite | apply Keeps.ite | apply Keeps.iteFst | apply Keeps.foldl | apply Keeps.foldlFst | apply Keeps.elim) | split | with_reducible (apply Keeps.pair; assumption) | dsimp only)

theorem keep_qpDestroy {s0 : Node} {a0 a1} (h0 : Keeps s0 a0) : Keeps s0 (qpDestroy a0 a1) := by
  unfold qpDestroy
  repeat' (first | with_reducible (first | assumption | intro _ | apply keep_modQp | apply keep_qpFlush | apply Keeps.ite | apply Keeps.iteFst | apply Keeps.foldl | apply Keeps.foldlFst | apply Keeps.elim) | split | with_reducible (apply Keeps.pair; assumption) | dsimp only)

theorem keep_execRoceQpDestroy {s0 : Node} {a0 a1 a2} (h2 : Keeps s0 a2.node) : KeepsS s0 (execRoceQpDestroy a0 a1 a2) := by
  unfold execRoceQpDestroy
  repeat' (first | with_reducible (first | assumption | intro _ | apply keep_qpDestroy | apply keep_withResp | apply keep_onNode | apply keep_onServed | apply KeepsO.next | apply KeepsO.fault | apply KeepsO.ite | apply Keeps.ite | apply Keeps.iteFst | apply Keeps.foldl | apply Keeps.foldlFst | apply Keeps.elim) | split | with_reducible (apply Keeps.pair; assumption) | dsimp only)

theorem keep_qpCommand {s0 : Node} {a0 a1 a2} (h0 : Keeps s0 a0) : Keeps s0 (qpCommand a0 a1 a2) := by
  unfold qpCommand
  repeat' (first | with_reducible (first | assumption | intro _ | apply keep_qpDestroy | apply keep_qpLoad | apply keep_qpStore | apply Keeps.ite | apply Keeps.iteFst | apply Keeps.foldl | apply Keeps.foldlFst | apply Keeps.elim) | split | with_reducible (apply Keeps.pair; assumption) | dsimp only)

theorem keep_sqDoorbell {s0 : Node} {a0 a1 a2} (h0 : Keeps s0 a0) : Keeps s0 (sqDoorbell a0 a1 a2) := by
  unfold sqDoorbell
  repeat' (first | with_reducible (first | assumption | intro _ | apply keep_modQp | apply keep_qpError | apply keep_qpFlush | apply Keeps.ite | apply Keeps.iteFst | apply Keeps.foldl | apply Keeps.foldlFst | apply Keeps.elim) | split | with_reducible (apply Keeps.pair; assumption) | dsimp only)

theorem keep_execRoceSqDb {s0 : Node} {a0 a1 a2} (h2 : Keeps s0 a2.node) : KeepsS s0 (execRoceSqDb a0 a1 a2) := by
  unfold execRoceSqDb
  repeat' (first | with_reducible (first | assumption | intro _ | apply keep_onBase | apply keep_sqDoorbell | apply keep_withResp | apply keep_onNode | apply keep_onServed | apply KeepsO.next | apply KeepsO.fault | apply KeepsO.ite | apply Keeps.ite | apply Keeps.iteFst | apply Keeps.foldl | apply Keeps.foldlFst | apply Keeps.elim) | split | with_reducible (apply Keeps.pair; assumption) | dsimp only)

theorem keep_sendEntry {s0 : Node} {a0 a1} (h0 : Keeps s0 a0) : Keeps s0 (sendEntry a0 a1) := by
  unfold sendEntry
  repeat' (first | with_reducible (first | assumption | intro _ | apply keep_agentTouch | apply keep_modQp | apply keep_poisonAgent | apply keep_qpError | apply keep_qpPost | apply Keeps.ite | apply Keeps.iteFst | apply Keeps.foldl | apply Keeps.foldlFst | apply Keeps.elim) | split | with_reducible (apply Keeps.pair; assumption) | dsimp only)

theorem keep_execRoceSendEntry {s0 : Node} {a0 a1} (h1 : Keeps s0 a1.node) : KeepsS s0 (execRoceSendEntry a0 a1) := by
  unfold execRoceSendEntry
  repeat' (first | with_reducible (first | assumption | intro _ | apply keep_onQp | apply keep_sendEntry | apply keep_onNode | apply keep_onServed | apply KeepsO.next | apply KeepsO.fault | apply KeepsO.ite | apply Keeps.ite | apply Keeps.iteFst | apply Keeps.foldl | apply Keeps.foldlFst | apply Keeps.elim) | split | with_reducible (apply Keeps.pair; assumption) | dsimp only)

theorem keep_execRoceCompletionWrite {s0 : Node} {a0 a1} (h1 : Keeps s0 a1.node) : KeepsS s0 (execRoceCompletionWrite a0 a1) := by
  unfold execRoceCompletionWrite
  repeat' (first | with_reducible (first | assumption | intro _ | apply keep_agentWrite | apply keep_fSet | apply keep_onBase | apply keep_onNode | apply keep_onServed | apply KeepsO.next | apply KeepsO.fault | apply KeepsO.ite | apply Keeps.ite | apply Keeps.iteFst | apply Keeps.foldl | apply Keeps.foldlFst | apply Keeps.elim) | split | with_reducible (apply Keeps.pair; assumption) | dsimp only | ((with_reducible apply Keeps.rcd); (on_goal 2 => rfl); (on_goal 2 => rfl)))

theorem keep_emitOn {s0 : Node} {a0 a1 a2 a3} (h0 : Keeps s0 a0) : Keeps s0 (emitOn a0 a1 a2 a3) := by
  unfold emitOn
  repeat' (first | with_reducible (first | assumption | intro _ | apply keep_queueFrame | apply Keeps.ite | apply Keeps.iteFst | apply Keeps.foldl | apply Keeps.foldlFst | apply Keeps.elim) | split | with_reducible (apply Keeps.pair; assumption) | dsimp only)

theorem keep_spray {s0 s t : Node} {k bad} (he : spray s k bad = some t) (h : Keeps s0 s) : Keeps s0 t := by
  unfold spray at he
  split at he
  · cases he
    exact keep_emitOn h
  · simp only [Option.map_eq_some_iff] at he
    obtain ⟨p, -, rfl⟩ := he
    exact keep_emitOn (keep_modFab h)

theorem keep_sprayOrDrop {s0 : Node} {a0 a1 a2 a3} (h0 : Keeps s0 a0) : Keeps s0 (sprayOrDrop a0 a1 a2 a3) := by
  unfold sprayOrDrop
  repeat' (first | with_reducible (first | assumption | intro _ | apply keep_noRoute | apply Keeps.ite | apply Keeps.iteFst | apply Keeps.foldl | apply Keeps.foldlFst | apply Keeps.elim) | split | with_reducible (apply Keeps.pair; assumption) | dsimp only | with_reducible (apply keep_spray; assumption))

theorem keep_originate {s0 : Node} {a0 a1 a2} (h0 : Keeps s0 a0) : Keeps s0 (originate a0 a1 a2) := by
  unfold originate
  repeat' (first | with_reducible (first | assumption | intro _ | apply keep_modFab | apply Keeps.ite | apply Keeps.iteFst | apply Keeps.foldl | apply Keeps.foldlFst | apply Keeps.elim) | split | with_reducible (apply Keeps.pair; assumption) | dsimp only)

theorem keep_sendAck {s0 : Node} {a0 a1 a2} (h0 : Keeps s0 a0) : Keeps s0 (sendAck a0 a1 a2) := by
  unfold sendAck
  repeat' (first | with_reducible (first | assumption | intro _ | apply keep_setRflow | apply keep_sprayOrDrop | apply Keeps.ite | apply Keeps.iteFst | apply Keeps.foldl | apply Keeps.foldlFst | apply Keeps.elim) | split | with_reducible (apply Keeps.pair; assumption) | dsimp only)

theorem keep_sendNak {s0 : Node} {a0 a1 a2 a3 a4} (h0 : Keeps s0 a0) : Keeps s0 (sendNak a0 a1 a2 a3 a4) := by
  unfold sendNak
  repeat' (first | with_reducible (first | assumption | intro _ | apply keep_dzCount | apply keep_sprayOrDrop | apply Keeps.ite | apply Keeps.iteFst | apply Keeps.foldl | apply Keeps.foldlFst | apply Keeps.elim) | split | with_reducible (apply Keeps.pair; assumption) | dsimp only)

theorem keep_performed {s0 : Node} {a0 a1 a2 a3} (h0 : Keeps s0 a0) : Keeps s0 (performed a0 a1 a2 a3) := by
  unfold performed
  repeat' (first | with_reducible (first | assumption | intro _ | apply keep_sendAck | apply keep_setRflow | apply Keeps.ite | apply Keeps.iteFst | apply Keeps.foldl | apply Keeps.foldlFst | apply Keeps.elim) | split | with_reducible (apply Keeps.pair; assumption) | dsimp only)

theorem keep_ackedWho {s0 : Node} {a0 a1} (h0 : Keeps s0 a0) : Keeps s0 (ackedWho a0 a1) := by
  unfold ackedWho
  repeat' (first | with_reducible (first | assumption | intro _ | apply keep_endRemote | apply keep_modDz | apply Keeps.ite | apply Keeps.iteFst | apply Keeps.foldl | apply Keeps.foldlFst | apply Keeps.elim) | split | with_reducible (apply Keeps.pair; assumption) | dsimp only)

theorem keep_dropToSend {s0 : Node} {a0 a1 a2 a3} (h0 : Keeps s0 a0) : Keeps s0 (dropToSend a0 a1 a2 a3) := by
  unfold dropToSend
  repeat' (first | with_reducible (first | assumption | intro _ | apply keep_modFab | apply Keeps.ite | apply Keeps.iteFst | apply Keeps.foldl | apply Keeps.foldlFst | apply Keeps.elim) | split | with_reducible (apply Keeps.pair; assumption) | dsimp only | ((with_reducible apply Keeps.rcd); (on_goal 2 => rfl); (on_goal 2 => rfl)))

theorem keep_failFlow {s0 : Node} {a0 a1 a2} (h0 : Keeps s0 a0) : Keeps s0 (failFlow a0 a1 a2) := by
  unfold failFlow
  repeat' (first | with_reducible (first | assumption | intro _ | apply keep_failOp | apply keep_failWho | apply keep_logErr | apply keep_setSflow | apply Keeps.ite | apply Keeps.iteFst | apply Keeps.foldl | apply Keeps.foldlFst | apply Keeps.elim) | split | with_reducible (apply Keeps.pair; assumption) | dsimp only)

theorem keep_resendPkt {s0 : Node} {a0 a1 a2 a3} (h0 : Keeps s0 a0) : Keeps s0 (resendPkt a0 a1 a2 a3) := by
  unfold resendPkt
  repeat' (first | with_reducible (first | assumption | intro _ | apply keep_dzCount | apply keep_failFlow | apply keep_setSflow | apply keep_sprayOrDrop | apply Keeps.ite | apply Keeps.iteFst | apply Keeps.foldl | apply Keeps.foldlFst | apply Keeps.elim) | split | with_reducible (apply Keeps.pair; assumption) | dsimp only)

theorem keep_onFp {s0 : Node} {a0 a1} (h1 : Keeps s0 a1) : KeepsO s0 (onFp a0 a1) := by
  unfold onFp
  repeat' (first | with_reducible (first | assumption | intro _ | apply keep_onNode | apply keep_onServed | apply KeepsO.next | apply KeepsO.fault | apply KeepsO.ite | apply Keeps.ite | apply Keeps.iteFst | apply Keeps.foldl | apply Keeps.foldlFst | apply Keeps.elim) | split | with_reducible (apply Keeps.pair; assumption) | dsimp only)

theorem keep_ridgeStart {s0 : Node} {a0 a1} (h0 : Keeps s0 a0) : Keeps s0 (ridgeStart a0 a1) := by
  unfold ridgeStart
  repeat' (first | with_reducible (first | assumption | intro _ | apply keep_agentTouch | apply keep_originate | apply keep_poisonAgent | apply Keeps.ite | apply Keeps.iteFst | apply Keeps.foldl | apply Keeps.foldlFst | apply Keeps.elim) | split | with_reducible (apply Keeps.pair; assumption) | dsimp only)

theorem keep_ridgeOne {s0 : Node} {a0} (h0 : Keeps s0 a0) : Keeps s0 (ridgeOne a0) := by
  unfold ridgeOne
  repeat' (first | with_reducible (first | assumption | intro _ | apply keep_modFab | apply keep_ridgeStart | apply Keeps.ite | apply Keeps.iteFst | apply Keeps.foldl | apply Keeps.foldlFst | apply Keeps.elim) | split | with_reducible (apply Keeps.pair; assumption) | dsimp only)

theorem keep_ridgeNext {s0 : Node} {a0} (h0 : Keeps s0 a0) : Keeps s0 (ridgeNext a0) := by
  unfold ridgeNext
  repeat' (first | with_reducible (first | assumption | intro _ | apply keep_ridgeOne | apply Keeps.ite | apply Keeps.iteFst | apply Keeps.foldl | apply Keeps.foldlFst | apply Keeps.elim) | split | with_reducible (apply Keeps.pair; assumption) | dsimp only)

theorem keep_flowReceive {s0 : Node} {a0 a1} (h0 : Keeps s0 a0) : Keeps s0 (flowReceive a0 a1) := by
  unfold flowReceive
  repeat' (first | with_reducible (first | assumption | intro _ | apply keep_dzCount | apply keep_sendAck | apply keep_sendNak | apply keep_setRflow | apply Keeps.ite | apply Keeps.iteFst | apply Keeps.foldl | apply Keeps.foldlFst | apply Keeps.elim) | split | with_reducible (apply Keeps.pair; assumption) | dsimp only)

theorem keep_takeAck {s0 : Node} {a0 a1} (h0 : Keeps s0 a0) : Keeps s0 (takeAck a0 a1) := by
  unfold takeAck
  repeat' (first | with_reducible (first | assumption | intro _ | apply keep_ackedWho | apply keep_setSflow | apply Keeps.ite | apply Keeps.iteFst | apply Keeps.foldl | apply Keeps.foldlFst | apply Keeps.elim) | split | with_reducible (apply Keeps.pair; assumption) | dsimp only)

theorem keep_takeNak {s0 : Node} {a0 a1} (h0 : Keeps s0 a0) : Keeps s0 (takeNak a0 a1) := by
  unfold takeNak
  repeat' (first | with_reducible (first | assumption | intro _ | apply keep_dzCount | apply keep_failFlow | apply keep_modFab | apply keep_resendPkt | apply keep_setSflow | apply keep_sprayOrDrop | apply Keeps.ite | apply Keeps.iteFst | apply Keeps.foldl | apply Keeps.foldlFst | apply Keeps.elim) | split | with_reducible (apply Keeps.pair; assumption) | dsimp only)

theorem keep_takeKeepalive {s0 : Node} {a0 a1 a2} (h0 : Keeps s0 a0) : Keeps s0 (takeKeepalive a0 a1 a2) := by
  unfold takeKeepalive
  repeat' (first | with_reducible (first | assumption | intro _ | apply keep_fSet | apply keep_logErr | apply keep_modFab | apply keep_modPort | apply Keeps.ite | apply Keeps.iteFst | apply Keeps.foldl | apply Keeps.foldlFst | apply Keeps.elim) | split | with_reducible (apply Keeps.pair; assumption) | dsimp only)

theorem keep_forwardBad {s0 : Node} {a0 a1} (h0 : Keeps s0 a0) : Keeps s0 (forwardBad a0 a1) := by
  unfold forwardBad
  repeat' (first | with_reducible (first | assumption | intro _ | apply keep_modFab | apply keep_setSflow | apply keep_sprayOrDrop | apply Keeps.ite | apply Keeps.iteFst | apply Keeps.foldl | apply Keeps.foldlFst | apply Keeps.elim) | split | with_reducible (apply Keeps.pair; assumption) | dsimp only)

theorem keep_frameIn {s0 : Node} {a0 a1 a2 a3} (h0 : Keeps s0 a0) : Keeps s0 (frameIn a0 a1 a2 a3) := by
  unfold frameIn
  repeat' (first | with_reducible (first | assumption | intro _ | apply keep_dzCount | apply keep_flowReceive | apply keep_forwardBad | apply keep_portCount | apply keep_sprayOrDrop | apply keep_takeAck | apply keep_takeKeepalive | apply keep_takeNak | apply Keeps.ite | apply Keeps.iteFst | apply Keeps.foldl | apply Keeps.foldlFst | apply Keeps.elim) | split | with_reducible (apply Keeps.pair; assumption) | dsimp only)

theorem keep_execDzFrameReceive {s0 : Node} {a0 a1 a2 a3} (h3 : Keeps s0 a3.node) : KeepsS s0 (execDzFrameReceive a0 a1 a2 a3) := by
  unfold execDzFrameReceive
  repeat' (first | with_reducible (first | assumption | intro _ | apply keep_frameIn | apply keep_onFp | apply keep_ridgeNext | apply keep_onNode | apply keep_onServed | apply KeepsO.next | apply KeepsO.fault | apply KeepsO.ite | apply Keeps.ite | apply Keeps.iteFst | apply Keeps.foldl | apply Keeps.foldlFst | apply Keeps.elim) | split | with_reducible (apply Keeps.pair; assumption) | dsimp only)

theorem keep_sendNext {s0 : Node} {a0 a1 a2} (h0 : Keeps s0 a0) : Keeps s0 (sendNext a0 a1 a2) := by
  unfold sendNext
  repeat' (first | with_reducible (first | assumption | intro _ | apply keep_dropToSend | apply keep_dzCount | apply keep_failWho | apply keep_setSflow | apply Keeps.ite | apply Keeps.iteFst | apply Keeps.foldl | apply Keeps.foldlFst | apply Keeps.elim) | split | with_reducible (apply Keeps.pair; assumption) | dsimp only | with_reducible (apply keep_spray; assumption))

theorem keep_execDzSend {s0 : Node} {a0 a1 a2} (h2 : Keeps s0 a2.node) : KeepsS s0 (execDzSend a0 a1 a2) := by
  unfold execDzSend
  repeat' (first | with_reducible (first | assumption | intro _ | apply keep_ridgeNext | apply keep_sendNext | apply keep_onNode | apply keep_onServed | apply KeepsO.next | apply KeepsO.fault | apply KeepsO.ite | apply Keeps.ite | apply Keeps.iteFst | apply Keeps.foldl | apply Keeps.foldlFst | apply Keeps.elim) | split | with_reducible (apply Keeps.pair; assumption) | dsimp only)

theorem keep_respond {s0 : Node} {a0 a1 a2 a3 a4 a5} (h0 : Keeps s0 a0) : Keeps s0 (respond a0 a1 a2 a3 a4 a5) := by
  unfold respond
  repeat' (first | with_reducible (first | assumption | intro _ | apply keep_originate | apply Keeps.ite | apply Keeps.iteFst | apply Keeps.foldl | apply Keeps.foldlFst | apply Keeps.elim) | split | with_reducible (apply Keeps.pair; assumption) | dsimp only)

theorem keep_perform {s0 : Node} {a0 a1 a2 a3} (h0 : Keeps s0 a0) (h3 : ∀ x0, Keeps s0 (a3 x0)) : Keeps s0 (perform a0 a1 a2 a3) := by
  unfold perform
  repeat' (first | with_reducible (first | assumption | intro _ | apply h3 | apply keep_performed | apply Keeps.ite | apply Keeps.iteFst | apply Keeps.foldl | apply Keeps.foldlFst | apply Keeps.elim) | split | with_reducible (apply Keeps.pair; assumption) | dsimp only)

theorem keep_execDzPut {s0 : Node} {a0 a1} (h1 : Keeps s0 a1.node) : KeepsS s0 (execDzPut a0 a1) := by
  unfold execDzPut
  repeat' (first | with_reducible (first | assumption | intro _ | apply keep_agentWrite | apply keep_perform | apply keep_respond | apply keep_onNode | apply keep_onServed | apply KeepsO.next | apply KeepsO.fault | apply KeepsO.ite | apply Keeps.ite | apply Keeps.iteFst | apply Keeps.foldl | apply Keeps.foldlFst | apply Keeps.elim) | split | with_reducible (apply Keeps.pair; assumption) | dsimp only)

theorem keep_getPieces {s0 : Node} {a0 a1 a2 a3} (h0 : Keeps s0 a0) : Keeps s0 (getPieces a0 a1 a2 a3) := by
  induction a3 generalizing a0 a1 a2 with
  | nil =>
    unfold getPieces
    repeat' (first | with_reducible (first | assumption | intro _ | apply keep_respond | apply Keeps.ite | apply Keeps.iteFst | apply Keeps.foldl | apply Keeps.foldlFst | apply Keeps.elim) | split | with_reducible (apply Keeps.pair; assumption) | dsimp only)
  | cons x l ih =>
    unfold getPieces
    repeat' (first | with_reducible (first | assumption | apply ih | intro _ | apply keep_respond | apply Keeps.ite | apply Keeps.iteFst | apply Keeps.foldl | apply Keeps.foldlFst | apply Keeps.elim) | split | with_reducible (apply Keeps.pair; assumption) | dsimp only)

theorem keep_execDzGet {s0 : Node} {a0 a1} (h1 : Keeps s0 a1.node) : KeepsS s0 (execDzGet a0 a1) := by
  unfold execDzGet
  repeat' (first | with_reducible (first | assumption | intro _ | apply keep_agentTouch | apply keep_getPieces | apply keep_perform | apply keep_respond | apply keep_onNode | apply keep_onServed | apply KeepsO.next | apply KeepsO.fault | apply KeepsO.ite | apply Keeps.ite | apply Keeps.iteFst | apply Keeps.foldl | apply Keeps.foldlFst | apply Keeps.elim) | split | with_reducible (apply Keeps.pair; assumption) | dsimp only)

theorem keep_execDzLoad {s0 : Node} {a0 a1} (h1 : Keeps s0 a1.node) : KeepsS s0 (execDzLoad a0 a1) := by
  unfold execDzLoad
  repeat' (first | with_reducible (first | assumption | intro _ | apply keep_agentTouch | apply keep_perform | apply keep_respond | apply keep_onNode | apply keep_onServed | apply KeepsO.next | apply KeepsO.fault | apply KeepsO.ite | apply Keeps.ite | apply Keeps.iteFst | apply Keeps.foldl | apply Keeps.foldlFst | apply Keeps.elim) | split | with_reducible (apply Keeps.pair; assumption) | dsimp only)

theorem keep_execDzStore {s0 : Node} {a0 a1} (h1 : Keeps s0 a1.node) : KeepsS s0 (execDzStore a0 a1) := by
  unfold execDzStore
  repeat' (first | with_reducible (first | assumption | intro _ | apply keep_agentWrite | apply keep_dmaWriteList | apply keep_perform | apply keep_respond | apply keep_onNode | apply keep_onServed | apply KeepsO.next | apply KeepsO.fault | apply KeepsO.ite | apply Keeps.ite | apply Keeps.iteFst | apply Keeps.foldl | apply Keeps.foldlFst | apply Keeps.elim) | split | with_reducible (apply Keeps.pair; assumption) | dsimp only)

theorem keep_execDzAtomic {s0 : Node} {a0 a1} (h1 : Keeps s0 a1.node) : KeepsS s0 (execDzAtomic a0 a1) := by
  unfold execDzAtomic
  repeat' (first | with_reducible (first | assumption | intro _ | apply keep_homeAtom | apply keep_perform | apply keep_respond | apply keep_onNode | apply keep_onServed | apply KeepsO.next | apply KeepsO.fault | apply KeepsO.ite | apply Keeps.ite | apply Keeps.iteFst | apply Keeps.foldl | apply Keeps.foldlFst | apply Keeps.elim) | split | with_reducible (apply Keeps.pair; assumption) | dsimp only)

theorem keep_getResp {s0 : Node} {a0 a1 a2 a3} (h0 : Keeps s0 a0) : Keeps s0 (getResp a0 a1 a2 a3) := by
  unfold getResp
  repeat' (first | with_reducible (first | assumption | intro _ | apply keep_agentWrite | apply keep_endCmd | apply keep_logCmd | apply keep_modDz | apply Keeps.ite | apply Keeps.iteFst | apply Keeps.foldl | apply Keeps.foldlFst | apply Keeps.elim) | split | with_reducible (apply Keeps.pair; assumption) | dsimp only)

theorem keep_refuseCmd {s0 : Node} {a0 a1 a2 a3} (h0 : Keeps s0 a0) : Keeps s0 (refuseCmd a0 a1 a2 a3) := by
  unfold refuseCmd
  repeat' (first | with_reducible (first | assumption | intro _ | apply keep_logCmd | apply keep_modDz | apply Keeps.ite | apply Keeps.iteFst | apply Keeps.foldl | apply Keeps.foldlFst | apply Keeps.elim) | split | with_reducible (apply Keeps.pair; assumption) | dsimp only)

theorem keep_takeResp {s0 : Node} {a0 a1} (h0 : Keeps s0 a0) : Keeps s0 (takeResp a0 a1) := by
  unfold takeResp
  repeat' (first | with_reducible (first | assumption | intro _ | apply keep_endRemote | apply keep_getResp | apply keep_refuseCmd | apply Keeps.ite | apply Keeps.iteFst | apply Keeps.foldl | apply Keeps.foldlFst | apply Keeps.elim) | split | with_reducible (apply Keeps.pair; assumption) | dsimp only)

theorem keep_execDzResp {s0 : Node} {a0 a1} (h1 : Keeps s0 a1.node) : KeepsS s0 (execDzResp a0 a1) := by
  unfold execDzResp
  repeat' (first | with_reducible (first | assumption | intro _ | apply keep_perform | apply keep_takeResp | apply keep_onNode | apply keep_onServed | apply KeepsO.next | apply KeepsO.fault | apply KeepsO.ite | apply Keeps.ite | apply Keeps.iteFst | apply Keeps.foldl | apply Keeps.foldlFst | apply Keeps.elim) | split | with_reducible (apply Keeps.pair; assumption) | dsimp only)

theorem keep_msgPut {s0 s t : Node} {k} (he : msgPut s k = .taken t) (h : Keeps s0 s) : Keeps s0 t := by
  have key : ∀ (c : Prop) [Decidable c] (a b : MsgTaken), (if c then a else b) = .taken t → (a = .taken t → Keeps s0 t) →
      (b = .taken t → Keeps s0 t) → Keeps s0 t := by
    intro c _ a b hab ha hb
    by_cases hc : c
    · rw [if_pos hc] at hab; exact ha hab
    · rw [if_neg hc] at hab; exact hb hab
  unfold msgPut at he
  dsimp only at he
  refine key _ _ _ he (fun e => MsgTaken.noConfusion e) fun he => key _ _ _ he (fun e => MsgTaken.noConfusion e) fun he => ?_
  injection he with he
  rw [← he]; exact keep_fSet (keep_agentWrite h)

theorem keep_execDzMsg {s0 : Node} {a0 a1} (h1 : Keeps s0 a1.node) : KeepsS s0 (execDzMsg a0 a1) := by
  unfold execDzMsg
  repeat' (first | with_reducible (first | assumption | intro _ | apply keep_performed | apply keep_respond | apply keep_sendNak | apply keep_setRflow | apply keep_onNode | apply keep_onServed | apply KeepsO.next | apply KeepsO.fault | apply KeepsO.ite | apply Keeps.ite | apply Keeps.iteFst | apply Keeps.foldl | apply Keeps.foldlFst | apply Keeps.elim) | split | with_reducible (apply Keeps.pair; assumption) | dsimp only | with_reducible (apply keep_msgPut; assumption))

theorem keep_ridgeGoWrite {s0 : Node} {a0 a1} (h0 : Keeps s0 a0) : Keeps s0 (ridgeGoWrite a0 a1) := by
  unfold ridgeGoWrite
  repeat' (first | with_reducible (first | assumption | intro _ | apply keep_fSet | apply keep_modFab | apply keep_ridgeStart | apply Keeps.ite | apply Keeps.iteFst | apply Keeps.foldl | apply Keeps.foldlFst | apply Keeps.elim) | split | with_reducible (apply Keeps.pair; assumption) | dsimp only)

theorem keep_execRidgeGo {s0 : Node} {a0 a1} (h1 : Keeps s0 a1.node) : KeepsS s0 (execRidgeGo a0 a1) := by
  unfold execRidgeGo
  repeat' (first | with_reducible (first | assumption | intro _ | apply keep_ridgeGoWrite | apply keep_withResp | apply keep_onNode | apply keep_onServed | apply KeepsO.next | apply KeepsO.fault | apply KeepsO.ite | apply Keeps.ite | apply Keeps.iteFst | apply Keeps.foldl | apply Keeps.foldlFst | apply Keeps.elim) | split | with_reducible (apply Keeps.pair; assumption) | dsimp only)

theorem keep_forwardChunk {s0 : Node} {a0 a1} (h0 : Keeps s0 a0) : Keeps s0 (forwardChunk a0 a1) := by
  unfold forwardChunk
  repeat' (first | with_reducible (first | assumption | intro _ | apply keep_modFab | apply keep_originate | apply keep_resendPkt | apply keep_setSflow | apply Keeps.ite | apply Keeps.iteFst | apply Keeps.foldl | apply Keeps.foldlFst | apply Keeps.elim) | split | with_reducible (apply Keeps.pair; assumption) | dsimp only)

theorem keep_ridgeChunk {s0 : Node} {a0 a1} (h0 : Keeps s0 a0) : Keeps s0 (ridgeChunk a0 a1) := by
  unfold ridgeChunk
  repeat' (first | with_reducible (first | assumption | intro _ | apply keep_addDep | apply keep_agentWrite | apply keep_cntAdd | apply keep_fSet | apply keep_forwardChunk | apply keep_logErr | apply Keeps.ite | apply Keeps.iteFst | apply Keeps.foldl | apply Keeps.foldlFst | apply Keeps.elim) | split | with_reducible (apply Keeps.pair; assumption) | dsimp only)

theorem keep_execRidgeChunk {s0 : Node} {a0 a1} (h1 : Keeps s0 a1.node) : KeepsS s0 (execRidgeChunk a0 a1) := by
  unfold execRidgeChunk
  repeat' (first | with_reducible (first | assumption | intro _ | apply keep_perform | apply keep_ridgeChunk | apply keep_onNode | apply keep_onServed | apply KeepsO.next | apply KeepsO.fault | apply KeepsO.ite | apply Keeps.ite | apply Keeps.iteFst | apply Keeps.foldl | apply Keeps.foldlFst | apply Keeps.elim) | split | with_reducible (apply Keeps.pair; assumption) | dsimp only)

theorem keep_treeWrite {s0 : Node} {a0 a1 a2 a3} (h0 : Keeps s0 a0) : Keeps s0 (treeWrite a0 a1 a2 a3) := by
  unfold treeWrite
  repeat' (first | with_reducible (first | assumption | intro _ | apply keep_regSet | apply Keeps.ite | apply Keeps.iteFst | apply Keeps.foldl | apply Keeps.foldlFst | apply Keeps.elim) | split | with_reducible (apply Keeps.pair; assumption) | dsimp only)

theorem keep_execRidgeTreeWrite {s0 : Node} {a0 a1 a2 a3} (h3 : Keeps s0 a3.node) : KeepsS s0 (execRidgeTreeWrite a0 a1 a2 a3) := by
  unfold execRidgeTreeWrite
  repeat' (first | with_reducible (first | assumption | intro _ | apply keep_treeWrite | apply keep_withResp | apply keep_onNode | apply keep_onServed | apply KeepsO.next | apply KeepsO.fault | apply KeepsO.ite | apply Keeps.ite | apply Keeps.iteFst | apply Keeps.foldl | apply Keeps.foldlFst | apply Keeps.elim) | split | with_reducible (apply Keeps.pair; assumption) | dsimp only)

theorem keep_execDzAck {s0 : Node} {a0 a1 a2} (h2 : Keeps s0 a2.node) : KeepsS s0 (execDzAck a0 a1 a2) := by
  unfold execDzAck
  repeat' (first | with_reducible (first | assumption | intro _ | apply keep_frameIn | apply keep_onFp | apply keep_ridgeNext | apply keep_onNode | apply keep_onServed | apply KeepsO.next | apply KeepsO.fault | apply KeepsO.ite | apply Keeps.ite | apply Keeps.iteFst | apply Keeps.foldl | apply Keeps.foldlFst | apply Keeps.elim) | split | with_reducible (apply Keeps.pair; assumption) | dsimp only)

theorem keep_execDzNak {s0 : Node} {a0 a1 a2} (h2 : Keeps s0 a2.node) : KeepsS s0 (execDzNak a0 a1 a2) := by
  unfold execDzNak
  repeat' (first | with_reducible (first | assumption | intro _ | apply keep_frameIn | apply keep_onFp | apply keep_ridgeNext | apply keep_onNode | apply keep_onServed | apply KeepsO.next | apply KeepsO.fault | apply KeepsO.ite | apply Keeps.ite | apply Keeps.iteFst | apply Keeps.foldl | apply Keeps.foldlFst | apply Keeps.elim) | split | with_reducible (apply Keeps.pair; assumption) | dsimp only)

theorem keep_execDzKeepalive {s0 : Node} {a0 a1 a2} (h2 : Keeps s0 a2.node) : KeepsS s0 (execDzKeepalive a0 a1 a2) := by
  unfold execDzKeepalive
  repeat' (first | with_reducible (first | assumption | intro _ | apply keep_frameIn | apply keep_onFp | apply keep_onNode | apply keep_onServed | apply KeepsO.next | apply KeepsO.fault | apply KeepsO.ite | apply Keeps.ite | apply Keeps.iteFst | apply Keeps.foldl | apply Keeps.foldlFst | apply Keeps.elim) | split | with_reducible (apply Keeps.pair; assumption) | dsimp only)

theorem keep_execDzAckTimer {s0 : Node} {a0 a1 a2} (h2 : Keeps s0 a2.node) : KeepsS s0 (execDzAckTimer a0 a1 a2) := by
  unfold execDzAckTimer
  repeat' (first | with_reducible (first | assumption | intro _ | apply keep_sendAck | apply keep_onNode | apply keep_onServed | apply KeepsO.next | apply KeepsO.fault | apply KeepsO.ite | apply Keeps.ite | apply Keeps.iteFst | apply Keeps.foldl | apply Keeps.foldlFst | apply Keeps.elim) | split | with_reducible (apply Keeps.pair; assumption) | dsimp only)

theorem keep_execDzGapTimer {s0 : Node} {a0 a1 a2} (h2 : Keeps s0 a2.node) : KeepsS s0 (execDzGapTimer a0 a1 a2) := by
  unfold execDzGapTimer
  repeat' (first | with_reducible (first | assumption | intro _ | apply keep_sendNak | apply keep_onNode | apply keep_onServed | apply KeepsO.next | apply KeepsO.fault | apply KeepsO.ite | apply Keeps.ite | apply Keeps.iteFst | apply Keeps.foldl | apply Keeps.foldlFst | apply Keeps.elim) | split | with_reducible (apply Keeps.pair; assumption) | dsimp only)

theorem keep_execDzRto {s0 : Node} {a0 a1 a2 a3} (h3 : Keeps s0 a3.node) : KeepsS s0 (execDzRto a0 a1 a2 a3) := by
  unfold execDzRto
  repeat' (first | with_reducible (first | assumption | intro _ | apply keep_resendPkt | apply keep_ridgeNext | apply keep_onNode | apply keep_onServed | apply KeepsO.next | apply KeepsO.fault | apply KeepsO.ite | apply Keeps.ite | apply Keeps.iteFst | apply Keeps.foldl | apply Keeps.foldlFst | apply Keeps.elim) | split | with_reducible (apply Keeps.pair; assumption) | dsimp only)

theorem keep_execDzWindowIncrease {s0 : Node} {a0 a1 a2} (h2 : Keeps s0 a2.node) : KeepsS s0 (execDzWindowIncrease a0 a1 a2) := by
  unfold execDzWindowIncrease
  repeat' (first | with_reducible (first | assumption | intro _ | apply keep_setSflow | apply keep_onNode | apply keep_onServed | apply KeepsO.next | apply KeepsO.fault | apply KeepsO.ite | apply Keeps.ite | apply Keeps.iteFst | apply Keeps.foldl | apply Keeps.foldlFst | apply Keeps.elim) | split | with_reducible (apply Keeps.pair; assumption) | dsimp only)

theorem keep_execFlowIdleRelease {s0 : Node} {a0 a1 a2 a3} (h3 : Keeps s0 a3.node) : KeepsS s0 (execFlowIdleRelease a0 a1 a2 a3) := by
  unfold execFlowIdleRelease
  repeat' (first | with_reducible (first | assumption | intro _ | apply keep_setRflow | apply keep_setSflow | apply keep_onNode | apply keep_onServed | apply KeepsO.next | apply KeepsO.fault | apply KeepsO.ite | apply Keeps.ite | apply Keeps.iteFst | apply Keeps.foldl | apply Keeps.foldlFst | apply Keeps.elim) | split | with_reducible (apply Keeps.pair; assumption) | dsimp only)

end Sys2Proof.Machine
end

