-- ==== Sys2Proof/Laws/Keeps4.lean ====
section
/-! SUPPORT. What the operations of the machine keep, one lemma each (4 of 6): keep_execKeepaliveSend to keep_rescueTile. -/

set_option Elab.async false
set_option linter.all false

namespace Sys2Proof.Machine

theorem keep_execKeepaliveSend {s0 : Node} {a0 a1} (h1 : Keeps s0 a1.node) : KeepsS s0 (execKeepaliveSend a0 a1) := by
  unfold execKeepaliveSend
  repeat' (first | with_reducible (first | assumption | intro _ | apply keep_emitOn | apply keep_modFab | apply keep_onFp | apply keep_onNode | apply keep_onServed | apply KeepsO.next | apply KeepsO.fault | apply KeepsO.ite | apply Keeps.ite | apply Keeps.iteFst | apply Keeps.foldl | apply Keeps.foldlFst | apply Keeps.elim) | split | with_reducible (apply Keeps.pair; assumption) | dsimp only)

theorem keep_execNeighbourLost {s0 : Node} {a0 a1} (h1 : Keeps s0 a1.node) : KeepsS s0 (execNeighbourLost a0 a1) := by
  unfold execNeighbourLost
  repeat' (first | with_reducible (first | assumption | intro _ | apply keep_fSet | apply keep_logErr | apply keep_onFp | apply keep_sendOut | apply keep_onNode | apply keep_onServed | apply KeepsO.next | apply KeepsO.fault | apply KeepsO.ite | apply Keeps.ite | apply Keeps.iteFst | apply Keeps.foldl | apply Keeps.foldlFst | apply Keeps.elim) | split | with_reducible (apply Keeps.pair; assumption) | dsimp only)

theorem keep_modRing {s0 : Node} {a0 a1 a2 a3} (h0 : Keeps s0 a0) : Keeps s0 (modRing a0 a1 a2 a3) := by
  unfold modRing
  repeat' (first | with_reducible (first | assumption | intro _ | apply keep_modDz | apply Keeps.ite | apply Keeps.iteFst | apply Keeps.foldl | apply Keeps.foldlFst | apply Keeps.elim) | split | with_reducible (apply Keeps.pair; assumption) | dsimp only)

theorem keep_ringDoorbellDz {s0 : Node} {a0 a1 a2} (h0 : Keeps s0 a0) : Keeps s0 (ringDoorbellDz a0 a1 a2) := by
  unfold ringDoorbellDz
  repeat' (first | with_reducible (first | assumption | intro _ | apply keep_bump | apply keep_fSet | apply keep_logErr | apply keep_modDz | apply keep_modRing | apply Keeps.ite | apply Keeps.iteFst | apply Keeps.foldl | apply Keeps.foldlFst | apply Keeps.elim) | split | with_reducible (apply Keeps.pair; assumption) | dsimp only)

theorem keep_execDzCmdDb {s0 : Node} {a0 a1 a2} (h2 : Keeps s0 a2.node) : KeepsS s0 (execDzCmdDb a0 a1 a2) := by
  unfold execDzCmdDb
  repeat' (first | with_reducible (first | assumption | intro _ | apply keep_onBase | apply keep_ringDoorbellDz | apply keep_withResp | apply keep_onNode | apply keep_onServed | apply KeepsO.next | apply KeepsO.fault | apply KeepsO.ite | apply Keeps.ite | apply Keeps.iteFst | apply Keeps.foldl | apply Keeps.foldlFst | apply Keeps.elim) | split | with_reducible (apply Keeps.pair; assumption) | dsimp only)

theorem keep_rebaseRing {s0 : Node} {a0 a1 a2 a3} (h0 : Keeps s0 a0) : Keeps s0 (rebaseRing a0 a1 a2 a3) := by
  unfold rebaseRing
  repeat' (first | with_reducible (first | assumption | intro _ | apply keep_modRing | apply keep_regSet | apply Keeps.ite | apply Keeps.iteFst | apply Keeps.foldl | apply Keeps.foldlFst | apply Keeps.elim) | split | with_reducible (apply Keeps.pair; assumption) | dsimp only)

theorem keep_dzBaseWrite {s0 : Node} {a0 a1 a2 a3} (h0 : Keeps s0 a0) : Keeps s0 (dzBaseWrite a0 a1 a2 a3) := by
  unfold dzBaseWrite
  repeat' (first | with_reducible (first | assumption | intro _ | apply keep_modRing | apply keep_rebaseRing | apply Keeps.ite | apply Keeps.iteFst | apply Keeps.foldl | apply Keeps.foldlFst | apply Keeps.elim) | split | with_reducible (apply Keeps.pair; assumption) | dsimp only)

theorem keep_execDzCmdBaseWrite {s0 : Node} {a0 a1 a2 a3} (h3 : Keeps s0 a3.node) : KeepsS s0 (execDzCmdBaseWrite a0 a1 a2 a3) := by
  unfold execDzCmdBaseWrite
  repeat' (first | with_reducible (first | assumption | intro _ | apply keep_dzBaseWrite | apply keep_withResp | apply keep_onNode | apply keep_onServed | apply KeepsO.next | apply KeepsO.fault | apply KeepsO.ite | apply Keeps.ite | apply Keeps.iteFst | apply Keeps.foldl | apply Keeps.foldlFst | apply Keeps.elim) | split | with_reducible (apply Keeps.pair; assumption) | dsimp only)

theorem keep_startCmd {s0 : Node} {a0 a1 a2} (h0 : Keeps s0 a0) : Keeps s0 (startCmd a0 a1 a2) := by
  unfold startCmd
  repeat' (first | with_reducible (first | assumption | intro _ | apply keep_fSet | apply keep_modDz | apply Keeps.ite | apply Keeps.iteFst | apply Keeps.foldl | apply Keeps.foldlFst | apply Keeps.elim) | split | with_reducible (apply Keeps.pair; assumption) | dsimp only | ((with_reducible apply Keeps.rcd); (on_goal 2 => rfl); (on_goal 2 => rfl)))

theorem keep_putPieces {s0 : Node} {a0 a1 a2 a3} (h0 : Keeps s0 a0) : Keeps s0 (putPieces a0 a1 a2 a3) := by
  unfold putPieces
  repeat' (first | with_reducible (first | assumption | intro _ | apply keep_originate | apply Keeps.ite | apply Keeps.iteFst | apply Keeps.foldl | apply Keeps.foldlFst | apply Keeps.elim) | split | with_reducible (apply Keeps.pair; assumption) | dsimp only)

theorem keep_selfCmd {s0 : Node} {a0 a1 a2} (h0 : Keeps s0 a0) : Keeps s0 (selfCmd a0 a1 a2) := by
  unfold selfCmd
  repeat' (first | with_reducible (first | assumption | intro _ | apply keep_agentTouch | apply keep_agentWrite | apply keep_logCmd | apply keep_startCmd | apply Keeps.ite | apply Keeps.iteFst | apply Keeps.foldl | apply Keeps.foldlFst | apply Keeps.elim) | split | with_reducible (apply Keeps.pair; assumption) | dsimp only | with_reducible (apply keep_msgPut; assumption))

theorem keep_ringEntry {s0 : Node} {a0 a1 a2 a3} (h0 : Keeps s0 a0) : Keeps s0 (ringEntry a0 a1 a2 a3) := by
  unfold ringEntry
  repeat' (first | with_reducible (first | assumption | intro _ | apply keep_agentTouch | apply keep_bump | apply keep_logCmd | apply keep_logErr | apply keep_originate | apply keep_poisonAgent | apply keep_putPieces | apply keep_selfCmd | apply keep_startCmd | apply Keeps.ite | apply Keeps.iteFst | apply Keeps.foldl | apply Keeps.foldlFst | apply Keeps.elim) | split | with_reducible (apply Keeps.pair; assumption) | dsimp only)

theorem keep_execDzCmdPut {s0 : Node} {a0 a1 a2} (h2 : Keeps s0 a2.node) : KeepsS s0 (execDzCmdPut a0 a1 a2) := by
  unfold execDzCmdPut
  repeat' (first | with_reducible (first | assumption | intro _ | apply keep_ringEntry | apply keep_onNode | apply keep_onServed | apply KeepsO.next | apply KeepsO.fault | apply KeepsO.ite | apply Keeps.ite | apply Keeps.iteFst | apply Keeps.foldl | apply Keeps.foldlFst | apply Keeps.elim) | split | with_reducible (apply Keeps.pair; assumption) | dsimp only)

theorem keep_execDzCmdGet {s0 : Node} {a0 a1 a2} (h2 : Keeps s0 a2.node) : KeepsS s0 (execDzCmdGet a0 a1 a2) := by
  unfold execDzCmdGet
  repeat' (first | with_reducible (first | assumption | intro _ | apply keep_ringEntry | apply keep_onNode | apply keep_onServed | apply KeepsO.next | apply KeepsO.fault | apply KeepsO.ite | apply Keeps.ite | apply Keeps.iteFst | apply Keeps.foldl | apply Keeps.foldlFst | apply Keeps.elim) | split | with_reducible (apply Keeps.pair; assumption) | dsimp only)

theorem keep_execDzCmdMsg {s0 : Node} {a0 a1 a2} (h2 : Keeps s0 a2.node) : KeepsS s0 (execDzCmdMsg a0 a1 a2) := by
  unfold execDzCmdMsg
  repeat' (first | with_reducible (first | assumption | intro _ | apply keep_ringEntry | apply keep_onNode | apply keep_onServed | apply KeepsO.next | apply KeepsO.fault | apply KeepsO.ite | apply Keeps.ite | apply Keeps.iteFst | apply Keeps.foldl | apply Keeps.foldlFst | apply Keeps.elim) | split | with_reducible (apply Keeps.pair; assumption) | dsimp only)

theorem keep_dzRecord {s0 : Node} {a0 a1 a2 a3} (h0 : Keeps s0 a0) : Keeps s0 (dzRecord a0 a1 a2 a3) := by
  unfold dzRecord
  repeat' (first | with_reducible (first | assumption | intro _ | apply keep_agentWrite | apply keep_fSet | apply Keeps.ite | apply Keeps.iteFst | apply Keeps.foldl | apply Keeps.foldlFst | apply Keeps.elim) | split | with_reducible (apply Keeps.pair; assumption) | dsimp only)

theorem keep_releaseCmd {s0 : Node} {a0 a1 a2} (h0 : Keeps s0 a0) : Keeps s0 (releaseCmd a0 a1 a2) := by
  unfold releaseCmd
  repeat' (first | with_reducible (first | assumption | intro _ | apply keep_addDep | apply keep_modDz | apply keep_rebaseRing | apply Keeps.ite | apply Keeps.iteFst | apply Keeps.foldl | apply Keeps.foldlFst | apply Keeps.elim) | split | with_reducible (apply Keeps.pair; assumption) | dsimp only)

theorem keep_execDzCmdComplete {s0 : Node} {a0 a1 a2} (h2 : Keeps s0 a2.node) : KeepsS s0 (execDzCmdComplete a0 a1 a2) := by
  unfold execDzCmdComplete
  repeat' (first | with_reducible (first | assumption | intro _ | apply keep_dzRecord | apply keep_modDz | apply keep_onBase | apply keep_releaseCmd | apply keep_onNode | apply keep_onServed | apply KeepsO.next | apply KeepsO.fault | apply KeepsO.ite | apply Keeps.ite | apply Keeps.iteFst | apply Keeps.foldl | apply Keeps.foldlFst | apply Keeps.elim) | split | with_reducible (apply Keeps.pair; assumption) | dsimp only)

theorem keep_dzCtrlWrite {s0 : Node} {a0 a1 a2} (h0 : Keeps s0 a0) : Keeps s0 (dzCtrlWrite a0 a1 a2) := by
  unfold dzCtrlWrite
  repeat' (first | with_reducible (first | assumption | intro _ | apply keep_enableWrite | apply keep_regSet | apply Keeps.ite | apply Keeps.iteFst | apply Keeps.foldl | apply Keeps.foldlFst | apply Keeps.elim) | split | with_reducible (apply Keeps.pair; assumption) | dsimp only)

theorem keep_execDzEnableWrite {s0 : Node} {a0 a1 a2} (h2 : Keeps s0 a2.node) : KeepsS s0 (execDzEnableWrite a0 a1 a2) := by
  unfold execDzEnableWrite
  repeat' (first | with_reducible (first | assumption | intro _ | apply keep_dzCtrlWrite | apply keep_onBase | apply keep_withResp | apply keep_onNode | apply keep_onServed | apply KeepsO.next | apply KeepsO.fault | apply KeepsO.ite | apply Keeps.ite | apply Keeps.iteFst | apply Keeps.foldl | apply Keeps.foldlFst | apply Keeps.elim) | split | with_reducible (apply Keeps.pair; assumption) | dsimp only)

theorem keep_execDzDisableDone {s0 : Node} {a0 a1} (h1 : Keeps s0 a1.node) : KeepsS s0 (execDzDisableDone a0 a1) := by
  unfold execDzDisableDone
  repeat' (first | with_reducible (first | assumption | intro _ | apply keep_modFab | apply keep_onBase | apply keep_ownStepEnds | apply keep_onNode | apply keep_onServed | apply KeepsO.next | apply KeepsO.fault | apply KeepsO.ite | apply Keeps.ite | apply Keeps.iteFst | apply Keeps.foldl | apply Keeps.foldlFst | apply Keeps.elim) | split | with_reducible (apply Keeps.pair; assumption) | dsimp only)

theorem keep_clearRidge {s0 : Node} {a0} (h0 : Keeps s0 a0) : Keeps s0 (clearRidge a0) := by
  unfold clearRidge
  repeat' (first | with_reducible (first | assumption | intro _ | apply Keeps.ite | apply Keeps.iteFst | apply Keeps.foldl | apply Keeps.foldlFst | apply Keeps.elim) | split | with_reducible (apply Keeps.pair; assumption) | dsimp only | ((with_reducible apply Keeps.rcd); (on_goal 2 => rfl); (on_goal 2 => rfl)))

theorem keep_epochChanged {s0 : Node} {a0} (h0 : Keeps s0 a0) : Keeps s0 (epochChanged a0) := by
  unfold epochChanged
  repeat' (first | with_reducible (first | assumption | intro _ | apply keep_clearRidge | apply keep_endCmd | apply keep_endRemote | apply keep_failWho | apply keep_logErr | apply keep_modFab | apply Keeps.ite | apply Keeps.iteFst | apply Keeps.foldl | apply Keeps.foldlFst | apply Keeps.elim) | split | with_reducible (apply Keeps.pair; assumption) | dsimp only)

theorem keep_modElem {s0 : Node} {a0 a1 a2} (h0 : Keeps s0 a0) : Keeps s0 (modElem a0 a1 a2) := by
  unfold modElem
  repeat' (first | with_reducible (first | assumption | intro _ | apply keep_modGable | apply Keeps.ite | apply Keeps.iteFst | apply Keeps.foldl | apply Keeps.foldlFst | apply Keeps.elim) | split | with_reducible (apply Keeps.pair; assumption) | dsimp only)

theorem keep_elemFlags {s0 : Node} {a0 a1 a2} (h0 : Keeps s0 a0) : Keeps s0 (elemFlags a0 a1 a2) := by
  unfold elemFlags
  repeat' (first | with_reducible (first | assumption | intro _ | apply keep_fOr | apply Keeps.ite | apply Keeps.iteFst | apply Keeps.foldl | apply Keeps.foldlFst | apply Keeps.elim) | split | with_reducible (apply Keeps.pair; assumption) | dsimp only)

theorem keep_endRun {s0 : Node} {a0 a1} (h0 : Keeps s0 a0) : Keeps s0 (endRun a0 a1) := by
  unfold endRun
  repeat' (first | with_reducible (first | assumption | intro _ | apply keep_cntAdd | apply keep_modGable | apply Keeps.ite | apply Keeps.iteFst | apply Keeps.foldl | apply Keeps.foldlFst | apply Keeps.elim) | split | with_reducible (apply Keeps.pair; assumption) | dsimp only | ((with_reducible apply Keeps.rcd); (on_goal 2 => rfl); (on_goal 2 => rfl)))

theorem keep_runError {s0 : Node} {a0 a1 a2 a3 a4 a5} (h0 : Keeps s0 a0) : Keeps s0 (runError a0 a1 a2 a3 a4 a5) := by
  unfold runError
  repeat' (first | with_reducible (first | assumption | intro _ | apply keep_endRun | apply keep_logGable | apply keep_signalGable | apply Keeps.ite | apply Keeps.iteFst | apply Keeps.foldl | apply Keeps.foldlFst | apply Keeps.elim) | split | with_reducible (apply Keeps.pair; assumption) | dsimp only)

theorem keep_elemErr {s0 : Node} {a0 a1 a2} (h0 : Keeps s0 a0) : Keeps s0 (elemErr a0 a1 a2) := by
  unfold elemErr
  repeat' (first | with_reducible (first | assumption | intro _ | apply keep_runError | apply Keeps.ite | apply Keeps.iteFst | apply Keeps.foldl | apply Keeps.foldlFst | apply Keeps.elim) | split | with_reducible (apply Keeps.pair; assumption) | dsimp only)

theorem keep_elemDone {s0 : Node} {a0 a1 a2 a3} (h0 : Keeps s0 a0) : Keeps s0 (elemDone a0 a1 a2 a3) := by
  unfold elemDone
  repeat' (first | with_reducible (first | assumption | intro _ | apply keep_elemFlags | apply keep_modElem | apply Keeps.ite | apply Keeps.iteFst | apply Keeps.foldl | apply Keeps.foldlFst | apply Keeps.elim) | split | with_reducible (apply Keeps.pair; assumption) | dsimp only)

theorem keep_elemStep {s0 : Node} {a0 a1 a2 a3} (h0 : Keeps s0 a0) (h3 : ∀ x0 x1, Keeps s0 (a3 x0 x1)) : Keeps s0 (elemStep a0 a1 a2 a3) := by
  unfold elemStep
  repeat' (first | with_reducible (first | assumption | intro _ | apply h3 | apply Keeps.ite | apply Keeps.iteFst | apply Keeps.foldl | apply Keeps.foldlFst | apply Keeps.elim) | split | with_reducible (apply Keeps.pair; assumption) | dsimp only)

theorem keep_elemMapGo {s0 : Node} {a0 a1 a2 a3 a4} (h0 : Keeps s0 a0) : Keeps s0 (elemMapGo a0 a1 a2 a3 a4) := by
  unfold elemMapGo
  repeat' (first | with_reducible (first | assumption | intro _ | apply keep_elemDone | apply Keeps.ite | apply Keeps.iteFst | apply Keeps.foldl | apply Keeps.foldlFst | apply Keeps.elim) | split | with_reducible (apply Keeps.pair; assumption) | dsimp only)

theorem keep_elemMap {s0 : Node} {a0 a1 a2 a3} (h0 : Keeps s0 a0) : Keeps s0 (elemMap a0 a1 a2 a3) := by
  unfold elemMap
  repeat' (first | with_reducible (first | assumption | intro _ | apply keep_elemMapGo | apply keep_elemStep | apply Keeps.ite | apply Keeps.iteFst | apply Keeps.foldl | apply Keeps.foldlFst | apply Keeps.elim) | split | with_reducible (apply Keeps.pair; assumption) | dsimp only)

theorem keep_elemArithOp {s0 : Node} {a0 a1 a2} (h0 : Keeps s0 a0) : Keeps s0 (elemArithOp a0 a1 a2) := by
  unfold elemArithOp
  repeat' (first | with_reducible (first | assumption | intro _ | apply keep_elemMap | apply Keeps.ite | apply Keeps.iteFst | apply Keeps.foldl | apply Keeps.foldlFst | apply Keeps.elim) | split | with_reducible (apply Keeps.pair; assumption) | dsimp only)

theorem keep_elemBitOp {s0 : Node} {a0 a1 a2 a3} (h0 : Keeps s0 a0) : Keeps s0 (elemBitOp a0 a1 a2 a3) := by
  unfold elemBitOp
  repeat' (first | with_reducible (first | assumption | intro _ | apply keep_elemMap | apply Keeps.ite | apply Keeps.iteFst | apply Keeps.foldl | apply Keeps.foldlFst | apply Keeps.elim) | split | with_reducible (apply Keeps.pair; assumption) | dsimp only)

theorem keep_execElemRunStart {s0 : Node} {a0 a1} (h1 : Keeps s0 a1.node) : KeepsS s0 (execElemRunStart a0 a1) := by
  unfold execElemRunStart
  repeat' (first | with_reducible (first | assumption | intro _ | apply keep_modElem | apply keep_onGable | apply keep_runError | apply keep_onNode | apply keep_onServed | apply KeepsO.next | apply KeepsO.fault | apply KeepsO.ite | apply Keeps.ite | apply Keeps.iteFst | apply Keeps.foldl | apply Keeps.foldlFst | apply Keeps.elim) | split | with_reducible (apply Keeps.pair; assumption) | dsimp only)

theorem keep_execElemEnd {s0 : Node} {a0 a1} (h1 : Keeps s0 a1.node) : KeepsS s0 (execElemEnd a0 a1) := by
  unfold execElemEnd
  repeat' (first | with_reducible (first | assumption | intro _ | apply keep_elemStep | apply keep_endRun | apply keep_modElem | apply keep_onGable | apply keep_onNode | apply keep_onServed | apply KeepsO.next | apply KeepsO.fault | apply KeepsO.ite | apply Keeps.ite | apply Keeps.iteFst | apply Keeps.foldl | apply Keeps.foldlFst | apply Keeps.elim) | split | with_reducible (apply Keeps.pair; assumption) | dsimp only)

theorem keep_execElemAdd {s0 : Node} {a0 a1} (h1 : Keeps s0 a1.node) : KeepsS s0 (execElemAdd a0 a1) := by
  unfold execElemAdd
  repeat' (first | with_reducible (first | assumption | intro _ | apply keep_elemArithOp | apply keep_onGable | apply keep_onNode | apply keep_onServed | apply KeepsO.next | apply KeepsO.fault | apply KeepsO.ite | apply Keeps.ite | apply Keeps.iteFst | apply Keeps.foldl | apply Keeps.foldlFst | apply Keeps.elim) | split | with_reducible (apply Keeps.pair; assumption) | dsimp only)

theorem keep_execElemSub {s0 : Node} {a0 a1} (h1 : Keeps s0 a1.node) : KeepsS s0 (execElemSub a0 a1) := by
  unfold execElemSub
  repeat' (first | with_reducible (first | assumption | intro _ | apply keep_elemArithOp | apply keep_onGable | apply keep_onNode | apply keep_onServed | apply KeepsO.next | apply KeepsO.fault | apply KeepsO.ite | apply Keeps.ite | apply Keeps.iteFst | apply Keeps.foldl | apply Keeps.foldlFst | apply Keeps.elim) | split | with_reducible (apply Keeps.pair; assumption) | dsimp only)

theorem keep_execElemMul {s0 : Node} {a0 a1} (h1 : Keeps s0 a1.node) : KeepsS s0 (execElemMul a0 a1) := by
  unfold execElemMul
  repeat' (first | with_reducible (first | assumption | intro _ | apply keep_elemArithOp | apply keep_onGable | apply keep_onNode | apply keep_onServed | apply KeepsO.next | apply KeepsO.fault | apply KeepsO.ite | apply Keeps.ite | apply Keeps.iteFst | apply Keeps.foldl | apply Keeps.foldlFst | apply Keeps.elim) | split | with_reducible (apply Keeps.pair; assumption) | dsimp only)

theorem keep_execElemFma {s0 : Node} {a0 a1} (h1 : Keeps s0 a1.node) : KeepsS s0 (execElemFma a0 a1) := by
  unfold execElemFma
  repeat' (first | with_reducible (first | assumption | intro _ | apply keep_elemArithOp | apply keep_onGable | apply keep_onNode | apply keep_onServed | apply KeepsO.next | apply KeepsO.fault | apply KeepsO.ite | apply Keeps.ite | apply Keeps.iteFst | apply Keeps.foldl | apply Keeps.foldlFst | apply Keeps.elim) | split | with_reducible (apply Keeps.pair; assumption) | dsimp only)

theorem keep_execElemMul3 {s0 : Node} {a0 a1} (h1 : Keeps s0 a1.node) : KeepsS s0 (execElemMul3 a0 a1) := by
  unfold execElemMul3
  repeat' (first | with_reducible (first | assumption | intro _ | apply keep_elemArithOp | apply keep_onGable | apply keep_onNode | apply keep_onServed | apply KeepsO.next | apply KeepsO.fault | apply KeepsO.ite | apply Keeps.ite | apply Keeps.iteFst | apply Keeps.foldl | apply Keeps.foldlFst | apply Keeps.elim) | split | with_reducible (apply Keeps.pair; assumption) | dsimp only)

theorem keep_execElemMin {s0 : Node} {a0 a1} (h1 : Keeps s0 a1.node) : KeepsS s0 (execElemMin a0 a1) := by
  unfold execElemMin
  repeat' (first | with_reducible (first | assumption | intro _ | apply keep_elemArithOp | apply keep_onGable | apply keep_onNode | apply keep_onServed | apply KeepsO.next | apply KeepsO.fault | apply KeepsO.ite | apply Keeps.ite | apply Keeps.iteFst | apply Keeps.foldl | apply Keeps.foldlFst | apply Keeps.elim) | split | with_reducible (apply Keeps.pair; assumption) | dsimp only)

theorem keep_execElemMax {s0 : Node} {a0 a1} (h1 : Keeps s0 a1.node) : KeepsS s0 (execElemMax a0 a1) := by
  unfold execElemMax
  repeat' (first | with_reducible (first | assumption | intro _ | apply keep_elemArithOp | apply keep_onGable | apply keep_onNode | apply keep_onServed | apply KeepsO.next | apply KeepsO.fault | apply KeepsO.ite | apply Keeps.ite | apply Keeps.iteFst | apply Keeps.foldl | apply Keeps.foldlFst | apply Keeps.elim) | split | with_reducible (apply Keeps.pair; assumption) | dsimp only)

theorem keep_execElemDiv {s0 : Node} {a0 a1} (h1 : Keeps s0 a1.node) : KeepsS s0 (execElemDiv a0 a1) := by
  unfold execElemDiv
  repeat' (first | with_reducible (first | assumption | intro _ | apply keep_elemArithOp | apply keep_onGable | apply keep_onNode | apply keep_onServed | apply KeepsO.next | apply KeepsO.fault | apply KeepsO.ite | apply Keeps.ite | apply Keeps.iteFst | apply Keeps.foldl | apply Keeps.foldlFst | apply Keeps.elim) | split | with_reducible (apply Keeps.pair; assumption) | dsimp only)

theorem keep_execElemFn {s0 : Node} {a0 a1} (h1 : Keeps s0 a1.node) : KeepsS s0 (execElemFn a0 a1) := by
  unfold execElemFn
  repeat' (first | with_reducible (first | assumption | intro _ | apply keep_elemDone | apply keep_elemStep | apply keep_onGable | apply keep_onNode | apply keep_onServed | apply KeepsO.next | apply KeepsO.fault | apply KeepsO.ite | apply Keeps.ite | apply Keeps.iteFst | apply Keeps.foldl | apply Keeps.foldlFst | apply Keeps.elim) | split | with_reducible (apply Keeps.pair; assumption) | dsimp only)

theorem keep_execElemSel {s0 : Node} {a0 a1} (h1 : Keeps s0 a1.node) : KeepsS s0 (execElemSel a0 a1) := by
  unfold execElemSel
  repeat' (first | with_reducible (first | assumption | intro _ | apply keep_elemDone | apply keep_elemStep | apply keep_onGable | apply keep_onNode | apply keep_onServed | apply KeepsO.next | apply KeepsO.fault | apply KeepsO.ite | apply Keeps.ite | apply Keeps.iteFst | apply Keeps.foldl | apply Keeps.foldlFst | apply Keeps.elim) | split | with_reducible (apply Keeps.pair; assumption) | dsimp only)

theorem keep_execElemCmp {s0 : Node} {a0 a1} (h1 : Keeps s0 a1.node) : KeepsS s0 (execElemCmp a0 a1) := by
  unfold execElemCmp
  repeat' (first | with_reducible (first | assumption | intro _ | apply keep_elemDone | apply keep_elemStep | apply keep_onGable | apply keep_onNode | apply keep_onServed | apply KeepsO.next | apply KeepsO.fault | apply KeepsO.ite | apply Keeps.ite | apply Keeps.iteFst | apply Keeps.foldl | apply Keeps.foldlFst | apply Keeps.elim) | split | with_reducible (apply Keeps.pair; assumption) | dsimp only)

theorem keep_execElemAnd {s0 : Node} {a0 a1} (h1 : Keeps s0 a1.node) : KeepsS s0 (execElemAnd a0 a1) := by
  unfold execElemAnd
  repeat' (first | with_reducible (first | assumption | intro _ | apply keep_elemBitOp | apply keep_onGable | apply keep_onNode | apply keep_onServed | apply KeepsO.next | apply KeepsO.fault | apply KeepsO.ite | apply Keeps.ite | apply Keeps.iteFst | apply Keeps.foldl | apply Keeps.foldlFst | apply Keeps.elim) | split | with_reducible (apply Keeps.pair; assumption) | dsimp only)

theorem keep_execElemOr {s0 : Node} {a0 a1} (h1 : Keeps s0 a1.node) : KeepsS s0 (execElemOr a0 a1) := by
  unfold execElemOr
  repeat' (first | with_reducible (first | assumption | intro _ | apply keep_elemBitOp | apply keep_onGable | apply keep_onNode | apply keep_onServed | apply KeepsO.next | apply KeepsO.fault | apply KeepsO.ite | apply Keeps.ite | apply Keeps.iteFst | apply Keeps.foldl | apply Keeps.foldlFst | apply Keeps.elim) | split | with_reducible (apply Keeps.pair; assumption) | dsimp only)

theorem keep_execElemXor {s0 : Node} {a0 a1} (h1 : Keeps s0 a1.node) : KeepsS s0 (execElemXor a0 a1) := by
  unfold execElemXor
  repeat' (first | with_reducible (first | assumption | intro _ | apply keep_elemBitOp | apply keep_onGable | apply keep_onNode | apply keep_onServed | apply KeepsO.next | apply KeepsO.fault | apply KeepsO.ite | apply Keeps.ite | apply Keeps.iteFst | apply Keeps.foldl | apply Keeps.foldlFst | apply Keeps.elim) | split | with_reducible (apply Keeps.pair; assumption) | dsimp only)

theorem keep_execElemShl {s0 : Node} {a0 a1} (h1 : Keeps s0 a1.node) : KeepsS s0 (execElemShl a0 a1) := by
  unfold execElemShl
  repeat' (first | with_reducible (first | assumption | intro _ | apply keep_elemBitOp | apply keep_onGable | apply keep_onNode | apply keep_onServed | apply KeepsO.next | apply KeepsO.fault | apply KeepsO.ite | apply Keeps.ite | apply Keeps.iteFst | apply Keeps.foldl | apply Keeps.foldlFst | apply Keeps.elim) | split | with_reducible (apply Keeps.pair; assumption) | dsimp only)

theorem keep_execElemShr {s0 : Node} {a0 a1} (h1 : Keeps s0 a1.node) : KeepsS s0 (execElemShr a0 a1) := by
  unfold execElemShr
  repeat' (first | with_reducible (first | assumption | intro _ | apply keep_elemBitOp | apply keep_onGable | apply keep_onNode | apply keep_onServed | apply KeepsO.next | apply KeepsO.fault | apply KeepsO.ite | apply Keeps.ite | apply Keeps.iteFst | apply Keeps.foldl | apply Keeps.foldlFst | apply Keeps.elim) | split | with_reducible (apply Keeps.pair; assumption) | dsimp only)

theorem keep_execElemCvt {s0 : Node} {a0 a1} (h1 : Keeps s0 a1.node) : KeepsS s0 (execElemCvt a0 a1) := by
  unfold execElemCvt
  repeat' (first | with_reducible (first | assumption | intro _ | apply keep_elemMap | apply keep_onGable | apply keep_onNode | apply keep_onServed | apply KeepsO.next | apply KeepsO.fault | apply KeepsO.ite | apply Keeps.ite | apply Keeps.iteFst | apply Keeps.foldl | apply Keeps.foldlFst | apply Keeps.elim) | split | with_reducible (apply Keeps.pair; assumption) | dsimp only)

theorem keep_execElemRed {s0 : Node} {a0 a1} (h1 : Keeps s0 a1.node) : KeepsS s0 (execElemRed a0 a1) := by
  unfold execElemRed
  repeat' (first | with_reducible (first | assumption | intro _ | apply keep_elemDone | apply keep_elemStep | apply keep_onGable | apply keep_onNode | apply keep_onServed | apply KeepsO.next | apply KeepsO.fault | apply KeepsO.ite | apply Keeps.ite | apply Keeps.iteFst | apply Keeps.foldl | apply Keeps.foldlFst | apply Keeps.elim) | split | with_reducible (apply Keeps.pair; assumption) | dsimp only)

theorem keep_execElemPerm {s0 : Node} {a0 a1} (h1 : Keeps s0 a1.node) : KeepsS s0 (execElemPerm a0 a1) := by
  unfold execElemPerm
  repeat' (first | with_reducible (first | assumption | intro _ | apply keep_elemDone | apply keep_elemStep | apply keep_fOr | apply keep_onGable | apply keep_onNode | apply keep_onServed | apply KeepsO.next | apply KeepsO.fault | apply KeepsO.ite | apply Keeps.ite | apply Keeps.iteFst | apply Keeps.foldl | apply Keeps.foldlFst | apply Keeps.elim) | split | with_reducible (apply Keeps.pair; assumption) | dsimp only)

theorem keep_execElemSetvl {s0 : Node} {a0 a1} (h1 : Keeps s0 a1.node) : KeepsS s0 (execElemSetvl a0 a1) := by
  unfold execElemSetvl
  repeat' (first | with_reducible (first | assumption | intro _ | apply keep_elemDone | apply keep_elemStep | apply keep_onGable | apply keep_onNode | apply keep_onServed | apply KeepsO.next | apply KeepsO.fault | apply KeepsO.ite | apply Keeps.ite | apply Keeps.iteFst | apply Keeps.foldl | apply Keeps.foldlFst | apply Keeps.elim) | split | with_reducible (apply Keeps.pair; assumption) | dsimp only)

theorem keep_execElemHad {s0 : Node} {a0 a1} (h1 : Keeps s0 a1.node) : KeepsS s0 (execElemHad a0 a1) := by
  unfold execElemHad
  repeat' (first | with_reducible (first | assumption | intro _ | apply keep_elemDone | apply keep_elemStep | apply keep_onGable | apply keep_onNode | apply keep_onServed | apply KeepsO.next | apply KeepsO.fault | apply KeepsO.ite | apply Keeps.ite | apply Keeps.iteFst | apply Keeps.foldl | apply Keeps.foldlFst | apply Keeps.elim) | split | with_reducible (apply Keeps.pair; assumption) | dsimp only)

theorem keep_execElemMsk {s0 : Node} {a0 a1} (h1 : Keeps s0 a1.node) : KeepsS s0 (execElemMsk a0 a1) := by
  unfold execElemMsk
  repeat' (first | with_reducible (first | assumption | intro _ | apply keep_elemDone | apply keep_elemStep | apply keep_onGable | apply keep_onNode | apply keep_onServed | apply KeepsO.next | apply KeepsO.fault | apply KeepsO.ite | apply Keeps.ite | apply Keeps.iteFst | apply Keeps.foldl | apply Keeps.foldlFst | apply Keeps.elim) | split | with_reducible (apply Keeps.pair; assumption) | dsimp only)

theorem keep_execElemSop {s0 : Node} {a0 a1} (h1 : Keeps s0 a1.node) : KeepsS s0 (execElemSop a0 a1) := by
  unfold execElemSop
  repeat' (first | with_reducible (first | assumption | intro _ | apply keep_elemDone | apply keep_elemStep | apply keep_onGable | apply keep_onNode | apply keep_onServed | apply KeepsO.next | apply KeepsO.fault | apply KeepsO.ite | apply Keeps.ite | apply Keeps.iteFst | apply Keeps.foldl | apply Keeps.foldlFst | apply Keeps.elim) | split | with_reducible (apply Keeps.pair; assumption) | dsimp only)

theorem keep_execElemSkip {s0 : Node} {a0 a1} (h1 : Keeps s0 a1.node) : KeepsS s0 (execElemSkip a0 a1) := by
  unfold execElemSkip
  repeat' (first | with_reducible (first | assumption | intro _ | apply keep_elemDone | apply keep_elemStep | apply keep_onGable | apply keep_onNode | apply keep_onServed | apply KeepsO.next | apply KeepsO.fault | apply KeepsO.ite | apply Keeps.ite | apply Keeps.iteFst | apply Keeps.foldl | apply Keeps.foldlFst | apply Keeps.elim) | split | with_reducible (apply Keeps.pair; assumption) | dsimp only)

theorem keep_failBytes {s0 : Node} {a0 a1 a2} (h0 : Keeps s0 a0) : Keeps s0 (failBytes a0 a1 a2) := by
  unfold failBytes
  repeat' (first | with_reducible (first | assumption | intro _ | apply keep_logRemote | apply Keeps.ite | apply Keeps.iteFst | apply Keeps.foldl | apply Keeps.foldlFst | apply Keeps.elim) | split | with_reducible (apply Keeps.pair; assumption) | dsimp only)

theorem keep_elemResolve {s0 : Node} {a0 a1 a2 a3 a4 a5 a6} (h0 : Keeps s0 a0) (h6 : ∀ x0 x1 x2 x3, Keeps s0 x0 → Keeps s0 (a6 x0 x1 x2 x3)) : Keeps s0 (elemResolve a0 a1 a2 a3 a4 a5 a6) := by
  unfold elemResolve
  repeat' (first | with_reducible (first | assumption | intro _ | apply h6 | apply keep_elemErr | apply keep_failBytes | apply keep_modElem | apply keep_queueFault | apply keep_runError | apply keep_transGo | apply Keeps.ite | apply Keeps.iteFst | apply Keeps.foldl | apply Keeps.foldlFst | apply Keeps.elim) | split | with_reducible (apply Keeps.pair; assumption) | dsimp only)

theorem keep_askRemote {s0 : Node} {a0 a1 a2 a3} (h1 : Keeps s0 a1) : Keeps s0 (askRemote a0 a1 a2 a3) := by
  unfold askRemote
  repeat' (first | with_reducible (first | assumption | intro _ | apply keep_askRun | apply Keeps.ite | apply Keeps.iteFst | apply Keeps.foldl | apply Keeps.foldlFst | apply Keeps.elim) | split | with_reducible (apply Keeps.pair; assumption) | dsimp only)

theorem keep_elemRead {s0 : Node} {a0 a1 a2 a3 a4 a5} (h0 : Keeps s0 a0) (h5 : ∀ x0 x1, Keeps s0 x0 → Keeps s0 (a5 x0 x1)) : Keeps s0 (elemRead a0 a1 a2 a3 a4 a5) := by
  unfold elemRead
  repeat' (first | with_reducible (first | assumption | intro _ | apply h5 | apply keep_askRemote | apply keep_countFar | apply keep_elemResolve | apply keep_homeRead | apply keep_modElem | apply keep_runError | apply keep_touchRead | apply Keeps.ite | apply Keeps.iteFst | apply Keeps.foldl | apply Keeps.foldlFst | apply Keeps.elim) | split | with_reducible (apply Keeps.pair; assumption) | dsimp only | ((with_reducible apply Keeps.rcd); (on_goal 2 => rfl); (on_goal 2 => rfl)))

theorem keep_loadScalar {s0 : Node} {a0 a1 a2 a3} (h0 : Keeps s0 a0) : Keeps s0 (loadScalar a0 a1 a2 a3) := by
  unfold loadScalar
  repeat' (first | with_reducible (first | assumption | intro _ | apply keep_elemDone | apply keep_elemErr | apply keep_elemRead | apply Keeps.ite | apply Keeps.iteFst | apply Keeps.foldl | apply Keeps.foldlFst | apply Keeps.elim) | split | with_reducible (apply Keeps.pair; assumption) | dsimp only)

theorem keep_loadVector {s0 : Node} {a0 a1 a2 a3 a4} (h0 : Keeps s0 a0) : Keeps s0 (loadVector a0 a1 a2 a3 a4) := by
  unfold loadVector
  repeat' (first | with_reducible (first | assumption | intro _ | apply keep_elemDone | apply keep_elemErr | apply keep_elemRead | apply Keeps.ite | apply Keeps.iteFst | apply Keeps.foldl | apply Keeps.foldlFst | apply Keeps.elim) | split | with_reducible (apply Keeps.pair; assumption) | dsimp only)

theorem keep_loadTile {s0 : Node} {a0 a1 a2 a3 a4} (h0 : Keeps s0 a0) : Keeps s0 (loadTile a0 a1 a2 a3 a4) := by
  unfold loadTile
  repeat' (first | with_reducible (first | assumption | intro _ | apply keep_elemDone | apply keep_elemErr | apply keep_elemRead | apply Keeps.ite | apply Keeps.iteFst | apply Keeps.foldl | apply Keeps.foldlFst | apply Keeps.elim) | split | with_reducible (apply Keeps.pair; assumption) | dsimp only)

theorem keep_execElemLd {s0 : Node} {a0 a1} (h1 : Keeps s0 a1.node) : KeepsS s0 (execElemLd a0 a1) := by
  unfold execElemLd
  repeat' (first | with_reducible (first | assumption | intro _ | apply keep_elemStep | apply keep_loadScalar | apply keep_loadTile | apply keep_loadVector | apply keep_onGable | apply keep_onNode | apply keep_onServed | apply KeepsO.next | apply KeepsO.fault | apply KeepsO.ite | apply Keeps.ite | apply Keeps.iteFst | apply Keeps.foldl | apply Keeps.foldlFst | apply Keeps.elim) | split | with_reducible (apply Keeps.pair; assumption) | dsimp only)

theorem keep_loadScales {s0 : Node} {a0 a1 a2 a3} (h0 : Keeps s0 a0) : Keeps s0 (loadScales a0 a1 a2 a3) := by
  unfold loadScales
  repeat' (first | with_reducible (first | assumption | intro _ | apply keep_elemDone | apply keep_elemErr | apply keep_elemRead | apply Keeps.ite | apply Keeps.iteFst | apply Keeps.foldl | apply Keeps.foldlFst | apply Keeps.elim) | split | with_reducible (apply Keeps.pair; assumption) | dsimp only)

theorem keep_execElemScaleLoad {s0 : Node} {a0 a1} (h1 : Keeps s0 a1.node) : KeepsS s0 (execElemScaleLoad a0 a1) := by
  unfold execElemScaleLoad
  repeat' (first | with_reducible (first | assumption | intro _ | apply keep_elemStep | apply keep_loadScales | apply keep_onGable | apply keep_onNode | apply keep_onServed | apply KeepsO.next | apply KeepsO.fault | apply KeepsO.ite | apply Keeps.ite | apply Keeps.iteFst | apply Keeps.foldl | apply Keeps.foldlFst | apply Keeps.elim) | split | with_reducible (apply Keeps.pair; assumption) | dsimp only)

theorem keep_elemWrite {s0 : Node} {a0 a1 a2 a3 a4 a5 a6 a7 a8} (h0 : Keeps s0 a0) : Keeps s0 (elemWrite a0 a1 a2 a3 a4 a5 a6 a7 a8) := by
  unfold elemWrite
  repeat' (first | with_reducible (first | assumption | intro _ | apply keep_countFar | apply keep_elemDone | apply keep_elemResolve | apply keep_scratchWrite | apply keep_storeAll | apply Keeps.ite | apply Keeps.iteFst | apply Keeps.foldl | apply Keeps.foldlFst | apply Keeps.elim) | split | with_reducible (apply Keeps.pair; assumption) | dsimp only)

theorem keep_storeTile {s0 : Node} {a0 a1 a2 a3} (h0 : Keeps s0 a0) : Keeps s0 (storeTile a0 a1 a2 a3) := by
  unfold storeTile
  repeat' (first | with_reducible (first | assumption | intro _ | apply keep_elemErr | apply keep_elemWrite | apply Keeps.ite | apply Keeps.iteFst | apply Keeps.foldl | apply Keeps.foldlFst | apply Keeps.elim) | split | with_reducible (apply Keeps.pair; assumption) | dsimp only | ((with_reducible apply Keeps.rcd); (on_goal 2 => rfl); (on_goal 2 => rfl)))

theorem keep_execElemSt {s0 : Node} {a0 a1} (h1 : Keeps s0 a1.node) : KeepsS s0 (execElemSt a0 a1) := by
  unfold execElemSt
  repeat' (first | with_reducible (first | assumption | intro _ | apply keep_elemStep | apply keep_onGable | apply keep_storeTile | apply keep_onNode | apply keep_onServed | apply KeepsO.next | apply KeepsO.fault | apply KeepsO.ite | apply Keeps.ite | apply Keeps.iteFst | apply Keeps.foldl | apply Keeps.foldlFst | apply Keeps.elim) | split | with_reducible (apply Keeps.pair; assumption) | dsimp only)

theorem keep_storeScales {s0 : Node} {a0 a1 a2 a3} (h0 : Keeps s0 a0) : Keeps s0 (storeScales a0 a1 a2 a3) := by
  unfold storeScales
  repeat' (first | with_reducible (first | assumption | intro _ | apply keep_elemErr | apply keep_elemWrite | apply Keeps.ite | apply Keeps.iteFst | apply Keeps.foldl | apply Keeps.foldlFst | apply Keeps.elim) | split | with_reducible (apply Keeps.pair; assumption) | dsimp only)

theorem keep_execElemStsc {s0 : Node} {a0 a1} (h1 : Keeps s0 a1.node) : KeepsS s0 (execElemStsc a0 a1) := by
  unfold execElemStsc
  repeat' (first | with_reducible (first | assumption | intro _ | apply keep_elemStep | apply keep_onGable | apply keep_storeScales | apply keep_onNode | apply keep_onServed | apply KeepsO.next | apply KeepsO.fault | apply KeepsO.ite | apply Keeps.ite | apply Keeps.iteFst | apply Keeps.foldl | apply Keeps.foldlFst | apply Keeps.elim) | split | with_reducible (apply Keeps.pair; assumption) | dsimp only)

theorem keep_execElemSig {s0 : Node} {a0 a1} (h1 : Keeps s0 a1.node) : KeepsS s0 (execElemSig a0 a1) := by
  unfold execElemSig
  repeat' (first | with_reducible (first | assumption | intro _ | apply keep_addArrival | apply keep_elemDone | apply keep_elemStep | apply keep_modElem | apply keep_onGable | apply keep_onNode | apply keep_onServed | apply KeepsO.next | apply KeepsO.fault | apply KeepsO.ite | apply Keeps.ite | apply Keeps.iteFst | apply Keeps.foldl | apply Keeps.foldlFst | apply Keeps.elim) | split | with_reducible (apply Keeps.pair; assumption) | dsimp only)

theorem keep_modShg {s0 : Node} {a0 a1 a2} (h0 : Keeps s0 a0) : Keeps s0 (modShg a0 a1 a2) := by
  unfold modShg
  repeat' (first | with_reducible (first | assumption | intro _ | apply Keeps.ite | apply Keeps.iteFst | apply Keeps.foldl | apply Keeps.foldlFst | apply Keeps.elim) | split | with_reducible (apply Keeps.pair; assumption) | dsimp only | ((with_reducible apply Keeps.rcd); (on_goal 2 => rfl); (on_goal 2 => rfl)))

theorem keep_modBucket {s0 : Node} {a0 a1 a2} (h0 : Keeps s0 a0) : Keeps s0 (modBucket a0 a1 a2) := by
  unfold modBucket
  repeat' (first | with_reducible (first | assumption | intro _ | apply keep_modShg | apply Keeps.ite | apply Keeps.iteFst | apply Keeps.foldl | apply Keeps.foldlFst | apply Keeps.elim) | split | with_reducible (apply Keeps.pair; assumption) | dsimp only)

theorem keep_shgCount {s0 : Node} {a0 a1 a2} (h0 : Keeps s0 a0) : Keeps s0 (shgCount a0 a1 a2) := by
  unfold shgCount
  repeat' (first | with_reducible (first | assumption | intro _ | apply keep_cntAdd | apply Keeps.ite | apply Keeps.iteFst | apply Keeps.foldl | apply Keeps.foldlFst | apply Keeps.elim) | split | with_reducible (apply Keeps.pair; assumption) | dsimp only)

theorem keep_sendShingle {s0 : Node} {a0 a1 a2 a3 a4 a5 a6} (h0 : Keeps s0 a0) : Keeps s0 (sendShingle a0 a1 a2 a3 a4 a5 a6) := by
  unfold sendShingle
  repeat' (first | with_reducible (first | assumption | intro _ | apply keep_originate | apply Keeps.ite | apply Keeps.iteFst | apply Keeps.foldl | apply Keeps.foldlFst | apply Keeps.elim) | split | with_reducible (apply Keeps.pair; assumption) | dsimp only)

theorem keep_sendLeaves {s0 : Node} {a0 a1 a2 a3} (h0 : Keeps s0 a0) : Keeps s0 (sendLeaves a0 a1 a2 a3) := by
  unfold sendLeaves
  repeat' (first | with_reducible (first | assumption | intro _ | apply keep_bump | apply keep_failBucket | apply keep_sendShingle | apply Keeps.ite | apply Keeps.iteFst | apply Keeps.foldl | apply Keeps.foldlFst | apply Keeps.elim) | split | with_reducible (apply Keeps.pair; assumption) | dsimp only)

theorem keep_sendShard {s0 : Node} {a0 a1 a2 a3 a4} (h0 : Keeps s0 a0) : Keeps s0 (sendShard a0 a1 a2 a3 a4) := by
  unfold sendShard
  repeat' (first | with_reducible (first | assumption | intro _ | apply keep_agentTouch | apply keep_poisonAgent | apply keep_sendShingle | apply Keeps.ite | apply Keeps.iteFst | apply Keeps.foldl | apply Keeps.foldlFst | apply Keeps.elim) | split | with_reducible (apply Keeps.pair; assumption) | dsimp only)

theorem keep_afterReduce {s0 : Node} {a0 a1} (h0 : Keeps s0 a0) : Keeps s0 (afterReduce a0 a1) := by
  unfold afterReduce
  repeat' (first | with_reducible (first | assumption | intro _ | apply keep_modBucket | apply Keeps.ite | apply Keeps.iteFst | apply Keeps.foldl | apply Keeps.foldlFst | apply Keeps.elim) | split | with_reducible (apply Keeps.pair; assumption) | dsimp only)

theorem keep_launchReduce {s0 : Node} {a0 a1 a2} (h0 : Keeps s0 a0) : Keeps s0 (launchReduce a0 a1 a2) := by
  unfold launchReduce
  repeat' (first | with_reducible (first | assumption | intro _ | apply keep_afterReduce | apply keep_modBucket | apply keep_sendLeaves | apply Keeps.ite | apply Keeps.iteFst | apply Keeps.foldl | apply Keeps.foldlFst | apply Keeps.elim) | split | with_reducible (apply Keeps.pair; assumption) | dsimp only)

theorem keep_launchGather {s0 : Node} {a0 a1 a2} (h0 : Keeps s0 a0) : Keeps s0 (launchGather a0 a1 a2) := by
  unfold launchGather
  repeat' (first | with_reducible (first | assumption | intro _ | apply keep_agentWrite | apply keep_modBucket | apply keep_sendShard | apply Keeps.ite | apply Keeps.iteFst | apply Keeps.foldl | apply Keeps.foldlFst | apply Keeps.elim) | split | with_reducible (apply Keeps.pair; assumption) | dsimp only)

theorem keep_launchOrHold {s0 : Node} {a0 a1} (h0 : Keeps s0 a0) : Keeps s0 (launchOrHold a0 a1) := by
  unfold launchOrHold
  repeat' (first | with_reducible (first | assumption | intro _ | apply keep_launchGather | apply keep_launchReduce | apply keep_modBucket | apply keep_modShg | apply keep_shgCount | apply Keeps.ite | apply Keeps.iteFst | apply Keeps.foldl | apply Keeps.foldlFst | apply Keeps.elim) | split | with_reducible (apply Keeps.pair; assumption) | dsimp only)

theorem keep_deliverElem {s0 : Node} {a0 a1 a2 a3} (h0 : Keeps s0 a0) : Keeps s0 (deliverElem a0 a1 a2 a3) := by
  unfold deliverElem
  repeat' (first | with_reducible (first | assumption | intro _ | apply keep_fOr | apply keep_launchOrHold | apply keep_modBucket | apply Keeps.ite | apply Keeps.iteFst | apply Keeps.foldl | apply Keeps.foldlFst | apply Keeps.elim) | split | with_reducible (apply Keeps.pair; assumption) | dsimp only)

theorem keep_execShgDelivery {s0 : Node} {a0 a1 a2 a3 a4} (h4 : Keeps s0 a4.node) : KeepsS s0 (execShgDelivery a0 a1 a2 a3 a4) := by
  unfold execShgDelivery
  repeat' (first | with_reducible (first | assumption | intro _ | apply keep_deliverElem | apply keep_onUnit | apply keep_withResp | apply keep_onNode | apply keep_onServed | apply KeepsO.next | apply KeepsO.fault | apply KeepsO.ite | apply Keeps.ite | apply Keeps.iteFst | apply Keeps.foldl | apply Keeps.foldlFst | apply Keeps.elim) | split | with_reducible (apply Keeps.pair; assumption) | dsimp only)

theorem keep_castAll {s0 : Node} {a0 a1 a2 a3} (h2 : Keeps s0 a2) : Keeps s0 (castAll a0 a1 a2 a3).1 := by
  induction a3 generalizing a0 a1 a2 with
  | nil =>
    unfold castAll
    repeat' (first | with_reducible (first | assumption | intro _ | apply keep_deliverElem | apply Keeps.ite | apply Keeps.iteFst | apply Keeps.foldl | apply Keeps.foldlFst | apply Keeps.elim) | split | with_reducible (apply Keeps.pair; assumption) | dsimp only)
  | cons x l ih =>
    unfold castAll
    repeat' (first | with_reducible (first | assumption | apply ih | intro _ | apply keep_deliverElem | apply Keeps.ite | apply Keeps.iteFst | apply Keeps.foldl | apply Keeps.foldlFst | apply Keeps.elim) | split | with_reducible (apply Keeps.pair; assumption) | dsimp only)

theorem keep_castTile {s0 : Node} {a0 a1 a2 a3 a4} (h0 : Keeps s0 a0) : Keeps s0 (castTile a0 a1 a2 a3 a4) := by
  unfold castTile
  repeat' (first | with_reducible (first | assumption | intro _ | apply keep_castAll | apply keep_elemDone | apply keep_elemErr | apply keep_modElem | apply Keeps.ite | apply Keeps.iteFst | apply Keeps.foldl | apply Keeps.foldlFst | apply Keeps.elim) | split | with_reducible (apply Keeps.pair; assumption) | dsimp only)

theorem keep_execElemCast {s0 : Node} {a0 a1} (h1 : Keeps s0 a1.node) : KeepsS s0 (execElemCast a0 a1) := by
  unfold execElemCast
  repeat' (first | with_reducible (first | assumption | intro _ | apply keep_castTile | apply keep_elemStep | apply keep_onGable | apply keep_onNode | apply keep_onServed | apply KeepsO.next | apply KeepsO.fault | apply KeepsO.ite | apply Keeps.ite | apply Keeps.iteFst | apply Keeps.foldl | apply Keeps.foldlFst | apply Keeps.elim) | split | with_reducible (apply Keeps.pair; assumption) | dsimp only)

theorem keep_contribute {s0 : Node} {a0 a1 a2} (h0 : Keeps s0 a0) : Keeps s0 (contribute a0 a1 a2) := by
  unfold contribute
  repeat' (first | with_reducible (first | assumption | intro _ | apply keep_agentWrite | apply keep_failBucket | apply keep_logErr | apply keep_modBucket | apply Keeps.ite | apply Keeps.iteFst | apply Keeps.foldl | apply Keeps.foldlFst | apply Keeps.elim) | split | with_reducible (apply Keeps.pair; assumption) | dsimp only)

theorem keep_shinglePacket {s0 : Node} {a0 a1 a2} (h0 : Keeps s0 a0) : Keeps s0 (shinglePacket a0 a1 a2) := by
  unfold shinglePacket
  repeat' (first | with_reducible (first | assumption | intro _ | apply keep_contribute | apply keep_modShg | apply keep_performed | apply keep_sendNak | apply keep_setRflow | apply keep_shgCount | apply Keeps.ite | apply Keeps.iteFst | apply Keeps.foldl | apply Keeps.foldlFst | apply Keeps.elim) | split | with_reducible (apply Keeps.pair; assumption) | dsimp only)

theorem keep_execShinglePacket {s0 : Node} {a0 a1} (h1 : Keeps s0 a1.node) : KeepsS s0 (execShinglePacket a0 a1) := by
  unfold execShinglePacket
  repeat' (first | with_reducible (first | assumption | intro _ | apply keep_shinglePacket | apply keep_onNode | apply keep_onServed | apply KeepsO.next | apply KeepsO.fault | apply KeepsO.ite | apply Keeps.ite | apply Keeps.iteFst | apply Keeps.foldl | apply Keeps.foldlFst | apply Keeps.elim) | split | with_reducible (apply Keeps.pair; assumption) | dsimp only)

theorem keep_takeEarly {s0 : Node} {a0 a1} (h0 : Keeps s0 a0) : Keeps s0 (takeEarly a0 a1) := by
  unfold takeEarly
  repeat' (first | with_reducible (first | assumption | intro _ | apply keep_contribute | apply keep_modShg | apply Keeps.ite | apply Keeps.iteFst | apply Keeps.foldl | apply Keeps.foldlFst | apply Keeps.elim) | split | with_reducible (apply Keeps.pair; assumption) | dsimp only)

theorem keep_armWrite {s0 : Node} {a0 a1} (h0 : Keeps s0 a0) : Keeps s0 (armWrite a0 a1) := by
  unfold armWrite
  repeat' (first | with_reducible (first | assumption | intro _ | apply keep_fSet | apply keep_modShg | apply Keeps.ite | apply Keeps.iteFst | apply Keeps.foldl | apply Keeps.foldlFst | apply Keeps.elim) | split | with_reducible (apply Keeps.pair; assumption) | dsimp only)

theorem keep_execShgArm {s0 : Node} {a0 a1} (h1 : Keeps s0 a1.node) : KeepsS s0 (execShgArm a0 a1) := by
  unfold execShgArm
  repeat' (first | with_reducible (first | assumption | intro _ | apply keep_armWrite | apply keep_withResp | apply keep_onNode | apply keep_onServed | apply KeepsO.next | apply KeepsO.fault | apply KeepsO.ite | apply Keeps.ite | apply Keeps.iteFst | apply Keeps.foldl | apply Keeps.foldlFst | apply Keeps.elim) | split | with_reducible (apply Keeps.pair; assumption) | dsimp only)

theorem keep_armProcess {s0 : Node} {a0 a1} (h0 : Keeps s0 a0) : Keeps s0 (armProcess a0 a1) := by
  unfold armProcess
  repeat' (first | with_reducible (first | assumption | intro _ | apply keep_agentTouch | apply keep_fSet | apply keep_logErr | apply keep_modBucket | apply keep_modShg | apply keep_poisonAgent | apply keep_shgCount | apply keep_takeEarly | apply Keeps.ite | apply Keeps.iteFst | apply Keeps.foldl | apply Keeps.foldlFst | apply Keeps.elim) | split | with_reducible (apply Keeps.pair; assumption) | dsimp only)

theorem keep_execShgArmProcess {s0 : Node} {a0 a1} (h1 : Keeps s0 a1.node) : KeepsS s0 (execShgArmProcess a0 a1) := by
  unfold execShgArmProcess
  repeat' (first | with_reducible (first | assumption | intro _ | apply keep_armProcess | apply keep_onBase | apply keep_onNode | apply keep_onServed | apply KeepsO.next | apply KeepsO.fault | apply KeepsO.ite | apply Keeps.ite | apply Keeps.iteFst | apply Keeps.foldl | apply Keeps.foldlFst | apply Keeps.elim) | split | with_reducible (apply Keeps.pair; assumption) | dsimp only)

theorem keep_groupWrite {s0 : Node} {a0 a1 a2 a3} (h0 : Keeps s0 a0) : Keeps s0 (groupWrite a0 a1 a2 a3) := by
  unfold groupWrite
  repeat' (first | with_reducible (first | assumption | intro _ | apply keep_fSet | apply keep_storeReg | apply Keeps.ite | apply Keeps.iteFst | apply Keeps.foldl | apply Keeps.foldlFst | apply Keeps.elim) | split | with_reducible (apply Keeps.pair; assumption) | dsimp only)

theorem keep_execShgGroupWrite {s0 : Node} {a0 a1 a2 a3} (h3 : Keeps s0 a3.node) : KeepsS s0 (execShgGroupWrite a0 a1 a2 a3) := by
  unfold execShgGroupWrite
  repeat' (first | with_reducible (first | assumption | intro _ | apply keep_groupWrite | apply keep_withResp | apply keep_onNode | apply keep_onServed | apply KeepsO.next | apply KeepsO.fault | apply KeepsO.ite | apply Keeps.ite | apply Keeps.iteFst | apply Keeps.foldl | apply Keeps.foldlFst | apply Keeps.elim) | split | with_reducible (apply Keeps.pair; assumption) | dsimp only)

theorem keep_bucketGo {s0 : Node} {a0 a1} (h0 : Keeps s0 a0) : Keeps s0 (bucketGo a0 a1) := by
  unfold bucketGo
  repeat' (first | with_reducible (first | assumption | intro _ | apply keep_launchOrHold | apply Keeps.ite | apply Keeps.iteFst | apply Keeps.foldl | apply Keeps.foldlFst | apply Keeps.elim) | split | with_reducible (apply Keeps.pair; assumption) | dsimp only)

theorem keep_execShgGo {s0 : Node} {a0 a1} (h1 : Keeps s0 a1.node) : KeepsS s0 (execShgGo a0 a1) := by
  unfold execShgGo
  repeat' (first | with_reducible (first | assumption | intro _ | apply keep_bucketGo | apply keep_onUnit | apply keep_withResp | apply keep_onNode | apply keep_onServed | apply KeepsO.next | apply KeepsO.fault | apply KeepsO.ite | apply Keeps.ite | apply Keeps.iteFst | apply Keeps.foldl | apply Keeps.foldlFst | apply Keeps.elim) | split | with_reducible (apply Keeps.pair; assumption) | dsimp only)

theorem keep_execShgAgLaunch {s0 : Node} {a0 a1} (h1 : Keeps s0 a1.node) : KeepsS s0 (execShgAgLaunch a0 a1) := by
  unfold execShgAgLaunch
  repeat' (first | with_reducible (first | assumption | intro _ | apply keep_launchOrHold | apply keep_onUnit | apply keep_onNode | apply keep_onServed | apply KeepsO.next | apply KeepsO.fault | apply KeepsO.ite | apply Keeps.ite | apply Keeps.iteFst | apply Keeps.foldl | apply Keeps.foldlFst | apply Keeps.elim) | split | with_reducible (apply Keeps.pair; assumption) | dsimp only)

theorem keep_freeBucket {s0 : Node} {a0 a1} (h0 : Keeps s0 a0) : Keeps s0 (freeBucket a0 a1) := by
  unfold freeBucket
  repeat' (first | with_reducible (first | assumption | intro _ | apply keep_modBucket | apply Keeps.ite | apply Keeps.iteFst | apply Keeps.foldl | apply Keeps.foldlFst | apply Keeps.elim) | split | with_reducible (apply Keeps.pair; assumption) | dsimp only)

theorem keep_bucketCancel {s0 : Node} {a0 a1} (h0 : Keeps s0 a0) : Keeps s0 (bucketCancel a0 a1) := by
  unfold bucketCancel
  repeat' (first | with_reducible (first | assumption | intro _ | apply keep_freeBucket | apply Keeps.ite | apply Keeps.iteFst | apply Keeps.foldl | apply Keeps.foldlFst | apply Keeps.elim) | split | with_reducible (apply Keeps.pair; assumption) | dsimp only)

theorem keep_execShgCancel {s0 : Node} {a0 a1} (h1 : Keeps s0 a1.node) : KeepsS s0 (execShgCancel a0 a1) := by
  unfold execShgCancel
  repeat' (first | with_reducible (first | assumption | intro _ | apply keep_bucketCancel | apply keep_onUnit | apply keep_withResp | apply keep_onNode | apply keep_onServed | apply KeepsO.next | apply KeepsO.fault | apply KeepsO.ite | apply Keeps.ite | apply Keeps.iteFst | apply Keeps.foldl | apply Keeps.foldlFst | apply Keeps.elim) | split | with_reducible (apply Keeps.pair; assumption) | dsimp only)

theorem keep_shgCmdWrite {s0 : Node} {a0 a1} (h0 : Keeps s0 a0) : Keeps s0 (shgCmdWrite a0 a1) := by
  unfold shgCmdWrite
  repeat' (first | with_reducible (first | assumption | intro _ | apply keep_bucketCancel | apply keep_bucketGo | apply Keeps.ite | apply Keeps.iteFst | apply Keeps.foldl | apply Keeps.foldlFst | apply Keeps.elim) | split | with_reducible (apply Keeps.pair; assumption) | dsimp only)

theorem keep_shardReduced {s0 : Node} {a0 a1 a2} (h0 : Keeps s0 a0) : Keeps s0 (shardReduced a0 a1 a2) := by
  unfold shardReduced
  repeat' (first | with_reducible (first | assumption | intro _ | apply keep_afterReduce | apply keep_agentWrite | apply keep_fOr | apply keep_modBucket | apply keep_sendShard | apply Keeps.ite | apply Keeps.iteFst | apply Keeps.foldl | apply Keeps.foldlFst | apply Keeps.elim) | split | with_reducible (apply Keeps.pair; assumption) | dsimp only)

theorem keep_execShgShardReduced {s0 : Node} {a0 a1 a2} (h2 : Keeps s0 a2.node) : KeepsS s0 (execShgShardReduced a0 a1 a2) := by
  unfold execShgShardReduced
  repeat' (first | with_reducible (first | assumption | intro _ | apply keep_onUnit | apply keep_shardReduced | apply keep_onNode | apply keep_onServed | apply KeepsO.next | apply KeepsO.fault | apply KeepsO.ite | apply Keeps.ite | apply Keeps.iteFst | apply Keeps.foldl | apply Keeps.foldlFst | apply Keeps.elim) | split | with_reducible (apply Keeps.pair; assumption) | dsimp only)

theorem keep_execShgBucketComplete {s0 : Node} {a0 a1} (h1 : Keeps s0 a1.node) : KeepsS s0 (execShgBucketComplete a0 a1) := by
  unfold execShgBucketComplete
  repeat' (first | with_reducible (first | assumption | intro _ | apply keep_addDep | apply keep_freeBucket | apply keep_onUnit | apply keep_onNode | apply keep_onServed | apply KeepsO.next | apply KeepsO.fault | apply KeepsO.ite | apply Keeps.ite | apply Keeps.iteFst | apply Keeps.foldl | apply Keeps.foldlFst | apply Keeps.elim) | split | with_reducible (apply Keeps.pair; assumption) | dsimp only)

theorem keep_launchHeld {s0 : Node} {a0 a1} (h0 : Keeps s0 a0) : Keeps s0 (launchHeld a0 a1) := by
  unfold launchHeld
  repeat' (first | with_reducible (first | assumption | intro _ | apply keep_launchOrHold | apply Keeps.ite | apply Keeps.iteFst | apply Keeps.foldl | apply Keeps.foldlFst | apply Keeps.elim) | split | with_reducible (apply Keeps.pair; assumption) | dsimp only)

theorem keep_setShgHold {s0 : Node} {a0 a1 a2} (h0 : Keeps s0 a0) : Keeps s0 (setShgHold a0 a1 a2) := by
  unfold setShgHold
  repeat' (first | with_reducible (first | assumption | intro _ | apply keep_fSet | apply keep_launchHeld | apply Keeps.ite | apply Keeps.iteFst | apply Keeps.foldl | apply Keeps.foldlFst | apply Keeps.elim) | split | with_reducible (apply Keeps.pair; assumption) | dsimp only)

theorem keep_shgCtrlWrite {s0 : Node} {a0 a1 a2} (h0 : Keeps s0 a0) : Keeps s0 (shgCtrlWrite a0 a1 a2) := by
  unfold shgCtrlWrite
  repeat' (first | with_reducible (first | assumption | intro _ | apply keep_enableWrite | apply keep_fSet | apply keep_setShgHold | apply Keeps.ite | apply Keeps.iteFst | apply Keeps.foldl | apply Keeps.foldlFst | apply Keeps.elim) | split | with_reducible (apply Keeps.pair; assumption) | dsimp only)

theorem keep_execShgHoldWrite {s0 : Node} {a0 a1 a2} (h2 : Keeps s0 a2.node) : KeepsS s0 (execShgHoldWrite a0 a1 a2) := by
  unfold execShgHoldWrite
  repeat' (first | with_reducible (first | assumption | intro _ | apply keep_onBase | apply keep_shgCtrlWrite | apply keep_withResp | apply keep_onNode | apply keep_onServed | apply KeepsO.next | apply KeepsO.fault | apply KeepsO.ite | apply Keeps.ite | apply Keeps.iteFst | apply Keeps.foldl | apply Keeps.foldlFst | apply Keeps.elim) | split | with_reducible (apply Keeps.pair; assumption) | dsimp only)

theorem keep_execShgEnableWrite {s0 : Node} {a0 a1 a2} (h2 : Keeps s0 a2.node) : KeepsS s0 (execShgEnableWrite a0 a1 a2) := by
  unfold execShgEnableWrite
  repeat' (first | with_reducible (first | assumption | intro _ | apply keep_onBase | apply keep_shgCtrlWrite | apply keep_withResp | apply keep_onNode | apply keep_onServed | apply KeepsO.next | apply KeepsO.fault | apply KeepsO.ite | apply Keeps.ite | apply Keeps.iteFst | apply Keeps.foldl | apply Keeps.foldlFst | apply Keeps.elim) | split | with_reducible (apply Keeps.pair; assumption) | dsimp only)

theorem keep_shgStepEnds {s0 : Node} {a0 a1} (h0 : Keeps s0 a0) : Keeps s0 (shgStepEnds a0 a1) := by
  unfold shgStepEnds
  repeat' (first | with_reducible (first | assumption | intro _ | apply keep_launchHeld | apply keep_ownStepEnds | apply keep_takeEarly | apply Keeps.ite | apply Keeps.iteFst | apply Keeps.foldl | apply Keeps.foldlFst | apply Keeps.elim) | split | with_reducible (apply Keeps.pair; assumption) | dsimp only)

theorem keep_execShgDisableDone {s0 : Node} {a0 a1} (h1 : Keeps s0 a1.node) : KeepsS s0 (execShgDisableDone a0 a1) := by
  unfold execShgDisableDone
  repeat' (first | with_reducible (first | assumption | intro _ | apply keep_onBase | apply keep_shgStepEnds | apply keep_onNode | apply keep_onServed | apply KeepsO.next | apply KeepsO.fault | apply KeepsO.ite | apply Keeps.ite | apply Keeps.iteFst | apply Keeps.foldl | apply Keeps.foldlFst | apply Keeps.elim) | split | with_reducible (apply Keeps.pair; assumption) | dsimp only)

theorem keep_shgAbandon {s0 : Node} {a0} (h0 : Keeps s0 a0) : Keeps s0 (shgAbandon a0) := by
  unfold shgAbandon
  repeat' (first | with_reducible (first | assumption | intro _ | apply keep_logErr | apply keep_modShg | apply Keeps.ite | apply Keeps.iteFst | apply Keeps.foldl | apply Keeps.foldlFst | apply Keeps.elim) | split | with_reducible (apply Keeps.pair; assumption) | dsimp only)

theorem keep_noteHeld {s0 : Node} {a0 a1} (h0 : Keeps s0 a0) : Keeps s0 (noteHeld a0 a1) := by
  unfold noteHeld
  repeat' (first | with_reducible (first | assumption | intro _ | apply keep_fSet | apply Keeps.ite | apply Keeps.iteFst | apply Keeps.foldl | apply Keeps.foldlFst | apply Keeps.elim) | split | with_reducible (apply Keeps.pair; assumption) | dsimp only)

theorem keep_writeRecord {s0 : Node} {a0 a1} (h0 : Keeps s0 a0) : Keeps s0 (writeRecord a0 a1) := by
  unfold writeRecord
  repeat' (first | with_reducible (first | assumption | intro _ | apply keep_agentWriteBy | apply keep_fSet | apply keep_modStu | apply keep_noteHeld | apply keep_signal | apply Keeps.ite | apply Keeps.iteFst | apply Keeps.foldl | apply Keeps.foldlFst | apply Keeps.elim) | split | with_reducible (apply Keeps.pair; assumption) | dsimp only)

theorem keep_execFaultRecordWrite {s0 : Node} {a0 a1} (h1 : Keeps s0 a1.node) : KeepsS s0 (execFaultRecordWrite a0 a1) := by
  unfold execFaultRecordWrite
  repeat' (first | with_reducible (first | assumption | intro _ | apply keep_onBase | apply keep_writeRecord | apply keep_onNode | apply keep_onServed | apply KeepsO.next | apply KeepsO.fault | apply KeepsO.ite | apply Keeps.ite | apply Keeps.iteFst | apply Keeps.foldl | apply Keeps.foldlFst | apply Keeps.elim) | split | with_reducible (apply Keeps.pair; assumption) | dsimp only)

theorem keep_drainHeld {s0 : Node} {a0 a1 a2} (h1 : Keeps s0 a1) : Keeps s0 (drainHeld a0 a1 a2) := by
  induction a0 generalizing a1 a2 with
  | zero =>
    unfold drainHeld
    repeat' (first | with_reducible (first | assumption | intro _ | apply keep_writeRecord | apply Keeps.ite | apply Keeps.iteFst | apply Keeps.foldl | apply Keeps.foldlFst | apply Keeps.elim) | split | with_reducible (apply Keeps.pair; assumption) | dsimp only)
  | succ n ih =>
    unfold drainHeld
    repeat' (first | with_reducible (first | assumption | apply ih | intro _ | apply keep_writeRecord | apply Keeps.ite | apply Keeps.iteFst | apply Keeps.foldl | apply Keeps.foldlFst | apply Keeps.elim) | split | with_reducible (apply Keeps.pair; assumption) | dsimp only)

theorem keep_followQueue {s0 : Node} {a0 a1 a2} (h0 : Keeps s0 a0) : Keeps s0 (followQueue a0 a1 a2) := by
  unfold followQueue
  repeat' (first | with_reducible (first | assumption | intro _ | apply keep_aplicClrIp | apply keep_signal | apply Keeps.ite | apply Keeps.iteFst | apply Keeps.foldl | apply Keeps.foldlFst | apply Keeps.elim) | split | with_reducible (apply Keeps.pair; assumption) | dsimp only)

theorem keep_fqHeadWrite {s0 : Node} {a0 a1 a2} (h0 : Keeps s0 a0) : Keeps s0 (fqHeadWrite a0 a1 a2) := by
  unfold fqHeadWrite
  repeat' (first | with_reducible (first | assumption | intro _ | apply keep_drainHeld | apply keep_fSet | apply keep_followQueue | apply Keeps.ite | apply Keeps.iteFst | apply Keeps.foldl | apply Keeps.foldlFst | apply Keeps.elim) | split | with_reducible (apply Keeps.pair; assumption) | dsimp only)

theorem keep_execFqHeadWrite {s0 : Node} {a0 a1 a2} (h2 : Keeps s0 a2.node) : KeepsS s0 (execFqHeadWrite a0 a1 a2) := by
  unfold execFqHeadWrite
  repeat' (first | with_reducible (first | assumption | intro _ | apply keep_fqHeadWrite | apply keep_onBase | apply keep_withResp | apply keep_onNode | apply keep_onServed | apply KeepsO.next | apply KeepsO.fault | apply KeepsO.ite | apply Keeps.ite | apply Keeps.iteFst | apply Keeps.foldl | apply Keeps.foldlFst | apply Keeps.elim) | split | with_reducible (apply Keeps.pair; assumption) | dsimp only)

theorem keep_fqBaseWrite {s0 : Node} {a0 a1 a2} (h0 : Keeps s0 a0) : Keeps s0 (fqBaseWrite a0 a1 a2) := by
  unfold fqBaseWrite
  repeat' (first | with_reducible (first | assumption | intro _ | apply keep_drainHeld | apply keep_logErr | apply keep_storeReg | apply Keeps.ite | apply Keeps.iteFst | apply Keeps.foldl | apply Keeps.foldlFst | apply Keeps.elim) | split | with_reducible (apply Keeps.pair; assumption) | dsimp only)

theorem keep_execFqBaseWrite {s0 : Node} {a0 a1 a2} (h2 : Keeps s0 a2.node) : KeepsS s0 (execFqBaseWrite a0 a1 a2) := by
  unfold execFqBaseWrite
  repeat' (first | with_reducible (first | assumption | intro _ | apply keep_fqBaseWrite | apply keep_onBase | apply keep_withResp | apply keep_onNode | apply keep_onServed | apply KeepsO.next | apply KeepsO.fault | apply KeepsO.ite | apply Keeps.ite | apply Keeps.iteFst | apply Keeps.foldl | apply Keeps.foldlFst | apply Keeps.elim) | split | with_reducible (apply Keeps.pair; assumption) | dsimp only)

theorem keep_suspendWaiter {s0 : Node} {a0 a1 a2} (h0 : Keeps s0 a0) : Keeps s0 (suspendWaiter a0 a1 a2) := by
  unfold suspendWaiter
  repeat' (first | with_reducible (first | assumption | intro _ | apply keep_modCopy | apply keep_modElem | apply keep_modGable | apply keep_modHeadList | apply keep_suspendOn | apply Keeps.ite | apply Keeps.iteFst | apply Keeps.foldl | apply Keeps.foldlFst | apply Keeps.elim) | split | with_reducible (apply Keeps.pair; assumption) | dsimp only)

theorem keep_execStuWalkComplete {s0 : Node} {a0 a1 a2 a3} (h3 : Keeps s0 a3.node) : KeepsS s0 (execStuWalkComplete a0 a1 a2 a3) := by
  unfold execStuWalkComplete
  repeat' (first | with_reducible (first | assumption | intro _ | apply keep_countFar | apply keep_homeRead | apply keep_queueFault | apply keep_stopGroup | apply keep_stopPoison | apply keep_stopRemote | apply keep_suspendWaiter | apply keep_touchRead | apply keep_translatePage | apply keep_onNode | apply keep_onServed | apply KeepsO.next | apply KeepsO.fault | apply KeepsO.ite | apply Keeps.ite | apply Keeps.iteFst | apply Keeps.foldl | apply Keeps.foldlFst | apply Keeps.elim) | split | with_reducible (apply Keeps.pair; assumption) | dsimp only)

theorem keep_replayWaiter {s0 : Node} {a0 a1 a2} (h0 : Keeps s0 a0) : Keeps s0 (replayWaiter a0 a1 a2) := by
  unfold replayWaiter
  repeat' (first | with_reducible (first | assumption | intro _ | apply keep_modElem | apply keep_modGable | apply keep_modGroup | apply keep_modSched | apply Keeps.ite | apply Keeps.iteFst | apply Keeps.foldl | apply Keeps.foldlFst | apply Keeps.elim) | split | with_reducible (apply Keeps.pair; assumption) | dsimp only)

theorem keep_abortWaiter {s0 : Node} {a0 a1 a2} (h0 : Keeps s0 a0) : Keeps s0 (abortWaiter a0 a1 a2) := by
  unfold abortWaiter
  repeat' (first | with_reducible (first | assumption | intro _ | apply keep_dropLaunch | apply keep_elemErr | apply keep_failCopy | apply keep_logErr | apply keep_logGable | apply keep_modSched | apply keep_stopGroup | apply Keeps.ite | apply Keeps.iteFst | apply Keeps.foldl | apply Keeps.foldlFst | apply Keeps.elim) | split | with_reducible (apply Keeps.pair; assumption) | dsimp only)

theorem keep_resolve {s0 : Node} {a0 a1 a2 a3} (h0 : Keeps s0 a0) (h3 : ∀ x0 x1 x2, Keeps s0 x0 → Keeps s0 (a3 x0 x1 x2)) : Keeps s0 (resolve a0 a1 a2 a3) := by
  unfold resolve
  repeat' (first | with_reducible (first | assumption | intro _ | apply h3 | apply keep_fSet | apply keep_modStu | apply Keeps.ite | apply Keeps.iteFst | apply Keeps.foldl | apply Keeps.foldlFst | apply Keeps.elim) | split | with_reducible (apply Keeps.pair; assumption) | dsimp only)

theorem keep_execStuResolveRetry {s0 : Node} {a0 a1} (h1 : Keeps s0 a1.node) : KeepsS s0 (execStuResolveRetry a0 a1) := by
  unfold execStuResolveRetry
  repeat' (first | with_reducible (first | assumption | intro _ | apply keep_replayWaiter | apply keep_resolve | apply keep_withResp | apply keep_onNode | apply keep_onServed | apply KeepsO.next | apply KeepsO.fault | apply KeepsO.ite | apply Keeps.ite | apply Keeps.iteFst | apply Keeps.foldl | apply Keeps.foldlFst | apply Keeps.elim) | split | with_reducible (apply Keeps.pair; assumption) | dsimp only)

theorem keep_execStuResolveAbort {s0 : Node} {a0 a1} (h1 : Keeps s0 a1.node) : KeepsS s0 (execStuResolveAbort a0 a1) := by
  unfold execStuResolveAbort
  repeat' (first | with_reducible (first | assumption | intro _ | apply keep_abortWaiter | apply keep_resolve | apply keep_withResp | apply keep_onNode | apply keep_onServed | apply KeepsO.next | apply KeepsO.fault | apply KeepsO.ite | apply Keeps.ite | apply Keeps.iteFst | apply Keeps.foldl | apply Keeps.foldlFst | apply Keeps.elim) | split | with_reducible (apply Keeps.pair; assumption) | dsimp only)

theorem keep_shootApply {s0 : Node} {a0 a1} (h0 : Keeps s0 a0) : Keeps s0 (shootApply a0 a1) := by
  unfold shootApply
  repeat' (first | with_reducible (first | assumption | intro _ | apply Keeps.ite | apply Keeps.iteFst | apply Keeps.foldl | apply Keeps.foldlFst | apply Keeps.elim) | split | with_reducible (apply Keeps.pair; assumption) | dsimp only | ((with_reducible apply Keeps.rcd); (on_goal 2 => rfl); (on_goal 2 => rfl)))

theorem keep_acceptShoot {s0 : Node} {a0 a1 a2} (h0 : Keeps s0 a0) : Keeps s0 (acceptShoot a0 a1 a2) := by
  unfold acceptShoot
  repeat' (first | with_reducible (first | assumption | intro _ | apply keep_fSet | apply keep_modStu | apply Keeps.ite | apply Keeps.iteFst | apply Keeps.foldl | apply Keeps.foldlFst | apply Keeps.elim) | split | with_reducible (apply Keeps.pair; assumption) | dsimp only)

theorem keep_stuShoot {s0 : Node} {a0 a1 a2} (h0 : Keeps s0 a0) : Keeps s0 (stuShoot a0 a1 a2) := by
  unfold stuShoot
  repeat' (first | with_reducible (first | assumption | intro _ | apply keep_acceptShoot | apply keep_fSet | apply Keeps.ite | apply Keeps.iteFst | apply Keeps.foldl | apply Keeps.foldlFst | apply Keeps.elim) | split | with_reducible (apply Keeps.pair; assumption) | dsimp only)

theorem keep_execStuShootRange {s0 : Node} {a0 a1 a2} (h2 : Keeps s0 a2.node) : KeepsS s0 (execStuShootRange a0 a1 a2) := by
  unfold execStuShootRange
  repeat' (first | with_reducible (first | assumption | intro _ | apply keep_onBase | apply keep_stuShoot | apply keep_withResp | apply keep_onNode | apply keep_onServed | apply KeepsO.next | apply KeepsO.fault | apply KeepsO.ite | apply Keeps.ite | apply Keeps.iteFst | apply Keeps.foldl | apply Keeps.foldlFst | apply Keeps.elim) | split | with_reducible (apply Keeps.pair; assumption) | dsimp only)

theorem keep_execStuShootAll {s0 : Node} {a0 a1 a2} (h2 : Keeps s0 a2.node) : KeepsS s0 (execStuShootAll a0 a1 a2) := by
  unfold execStuShootAll
  repeat' (first | with_reducible (first | assumption | intro _ | apply keep_onBase | apply keep_stuShoot | apply keep_withResp | apply keep_onNode | apply keep_onServed | apply KeepsO.next | apply KeepsO.fault | apply KeepsO.ite | apply Keeps.ite | apply Keeps.iteFst | apply Keeps.foldl | apply Keeps.foldlFst | apply Keeps.elim) | split | with_reducible (apply Keeps.pair; assumption) | dsimp only)

theorem keep_execShootdownComplete {s0 : Node} {a0 a1} (h1 : Keeps s0 a1.node) : KeepsS s0 (execShootdownComplete a0 a1) := by
  unfold execShootdownComplete
  repeat' (first | with_reducible (first | assumption | intro _ | apply keep_cntAdd | apply keep_fSet | apply keep_modStu | apply keep_onBase | apply keep_shootApply | apply keep_onNode | apply keep_onServed | apply KeepsO.next | apply KeepsO.fault | apply KeepsO.ite | apply Keeps.ite | apply Keeps.iteFst | apply Keeps.foldl | apply Keeps.foldlFst | apply Keeps.elim) | split | with_reducible (apply Keeps.pair; assumption) | dsimp only)

theorem keep_logStalled {s0 : Node} {a0 a1 a2} (h0 : Keeps s0 a0) : Keeps s0 (logStalled a0 a1 a2) := by
  unfold logStalled
  repeat' (first | with_reducible (first | assumption | intro _ | apply keep_logErr | apply Keeps.ite | apply Keeps.iteFst | apply Keeps.foldl | apply Keeps.foldlFst | apply Keeps.elim) | split | with_reducible (apply Keeps.pair; assumption) | dsimp only)

theorem keep_execShootdownStalled {s0 : Node} {a0 a1} (h1 : Keeps s0 a1.node) : KeepsS s0 (execShootdownStalled a0 a1) := by
  unfold execShootdownStalled
  repeat' (first | with_reducible (first | assumption | intro _ | apply keep_logStalled | apply keep_modStu | apply keep_onBase | apply keep_onNode | apply keep_onServed | apply KeepsO.next | apply KeepsO.fault | apply KeepsO.ite | apply Keeps.ite | apply Keeps.iteFst | apply Keeps.foldl | apply Keeps.foldlFst | apply Keeps.elim) | split | with_reducible (apply Keeps.pair; assumption) | dsimp only)

theorem keep_execStuSatpWrite {s0 : Node} {a0 a1} (h1 : Keeps s0 a1.node) : KeepsS s0 (execStuSatpWrite a0 a1) := by
  unfold execStuSatpWrite
  repeat' (first | with_reducible (first | assumption | intro _ | apply keep_acceptShoot | apply keep_fSet | apply keep_withResp | apply keep_onNode | apply keep_onServed | apply KeepsO.next | apply KeepsO.fault | apply KeepsO.ite | apply Keeps.ite | apply Keeps.iteFst | apply Keeps.foldl | apply Keeps.foldlFst | apply Keeps.elim) | split | with_reducible (apply Keeps.pair; assumption) | dsimp only)

theorem keep_startMigs {s0 : Node} {a0 a1 a2} (h1 : Keeps s0 a1) : Keeps s0 (startMigs a0 a1 a2) := by
  induction a0 generalizing a1 a2 with
  | zero =>
    unfold startMigs
    repeat' (first | with_reducible (first | assumption | intro _ | apply keep_agentTouch | apply keep_modStu | apply Keeps.ite | apply Keeps.iteFst | apply Keeps.foldl | apply Keeps.foldlFst | apply Keeps.elim) | split | with_reducible (apply Keeps.pair; assumption) | dsimp only)
  | succ n ih =>
    unfold startMigs
    repeat' (first | with_reducible (first | assumption | apply ih | intro _ | apply keep_agentTouch | apply keep_modStu | apply Keeps.ite | apply Keeps.iteFst | apply Keeps.foldl | apply Keeps.foldlFst | apply Keeps.elim) | split | with_reducible (apply Keeps.pair; assumption) | dsimp only)

theorem keep_migrateWrite {s0 : Node} {a0 a1 a2} (h0 : Keeps s0 a0) : Keeps s0 (migrateWrite a0 a1 a2) := by
  unfold migrateWrite
  repeat' (first | with_reducible (first | assumption | intro _ | apply keep_fSet | apply keep_modStu | apply keep_startMigs | apply Keeps.ite | apply Keeps.iteFst | apply Keeps.foldl | apply Keeps.foldlFst | apply Keeps.elim) | split | with_reducible (apply Keeps.pair; assumption) | dsimp only)

theorem keep_execStuMigrateWrite {s0 : Node} {a0 a1 a2} (h2 : Keeps s0 a2.node) : KeepsS s0 (execStuMigrateWrite a0 a1 a2) := by
  unfold execStuMigrateWrite
  repeat' (first | with_reducible (first | assumption | intro _ | apply keep_migrateWrite | apply keep_onBase | apply keep_withResp | apply keep_onNode | apply keep_onServed | apply KeepsO.next | apply KeepsO.fault | apply KeepsO.ite | apply Keeps.ite | apply Keeps.iteFst | apply Keeps.foldl | apply Keeps.foldlFst | apply Keeps.elim) | split | with_reducible (apply Keeps.pair; assumption) | dsimp only)

theorem keep_casPte {s0 : Node} {a0 a1 a2 a3 a4} (h0 : Keeps s0 a0) : Keeps s0 (casPte a0 a1 a2 a3 a4).1 := by
  unfold casPte
  repeat' (first | with_reducible (first | assumption | intro _ | apply keep_homeAtom | apply Keeps.ite | apply Keeps.iteFst | apply Keeps.foldl | apply Keeps.foldlFst | apply Keeps.elim) | split | with_reducible (apply Keeps.pair; assumption) | dsimp only)

theorem keep_modMig {s0 : Node} {a0 a1 a2 a3} (h0 : Keeps s0 a0) : Keeps s0 (modMig a0 a1 a2 a3) := by
  unfold modMig
  repeat' (first | with_reducible (first | assumption | intro _ | apply keep_modStu | apply Keeps.ite | apply Keeps.iteFst | apply Keeps.foldl | apply Keeps.foldlFst | apply Keeps.elim) | split | with_reducible (apply Keeps.pair; assumption) | dsimp only)

theorem keep_endMig {s0 : Node} {a0 a1 a2 a3 a4} (h0 : Keeps s0 a0) : Keeps s0 (endMig a0 a1 a2 a3 a4) := by
  unfold endMig
  repeat' (first | with_reducible (first | assumption | intro _ | apply keep_agentWriteBy | apply keep_cntAdd | apply keep_modStu | apply keep_replayWaiter | apply keep_startMigs | apply Keeps.ite | apply Keeps.iteFst | apply Keeps.foldl | apply Keeps.foldlFst | apply Keeps.elim) | split | with_reducible (apply Keeps.pair; assumption) | dsimp only)

theorem keep_failMig {s0 : Node} {a0 a1 a2 a3 a4} (h0 : Keeps s0 a0) : Keeps s0 (failMig a0 a1 a2 a3 a4) := by
  unfold failMig
  repeat' (first | with_reducible (first | assumption | intro _ | apply keep_casPte | apply keep_endMig | apply keep_logErr | apply Keeps.ite | apply Keeps.iteFst | apply Keeps.foldl | apply Keeps.foldlFst | apply Keeps.elim) | split | with_reducible (apply Keeps.pair; assumption) | dsimp only)

theorem keep_installMig {s0 : Node} {a0 a1 a2 a3 a4} (h0 : Keeps s0 a0) : Keeps s0 (installMig a0 a1 a2 a3 a4) := by
  unfold installMig
  repeat' (first | with_reducible (first | assumption | intro _ | apply keep_agentWrite | apply keep_casPte | apply keep_endMig | apply keep_replayWaiter | apply keep_resolve | apply Keeps.ite | apply Keeps.iteFst | apply Keeps.foldl | apply Keeps.foldlFst | apply Keeps.elim) | split | with_reducible (apply Keeps.pair; assumption) | dsimp only)

theorem keep_copyMig {s0 : Node} {a0 a1 a2 a3 a4} (h0 : Keeps s0 a0) : Keeps s0 (copyMig a0 a1 a2 a3 a4).1 := by
  unfold copyMig
  repeat' (first | with_reducible (first | assumption | intro _ | apply keep_agentTouch | apply keep_failMig | apply keep_installMig | apply keep_startRemote | apply Keeps.ite | apply Keeps.iteFst | apply Keeps.foldl | apply Keeps.foldlFst | apply Keeps.elim) | split | with_reducible (apply Keeps.pair; assumption) | dsimp only | ((with_reducible apply Keeps.rcd); (on_goal 2 => rfl); (on_goal 2 => rfl)))

theorem keep_migrate {s0 : Node} {a0 a1 a2 a3} (h0 : Keeps s0 a0) : Keeps s0 (migrate a0 a1 a2 a3).1 := by
  unfold migrate
  repeat' (first | with_reducible (first | assumption | intro _ | apply keep_casPte | apply keep_copyMig | apply keep_endMig | apply keep_modMig | apply keep_shootApply | apply Keeps.ite | apply Keeps.iteFst | apply Keeps.foldl | apply Keeps.foldlFst | apply Keeps.elim) | split | with_reducible (apply Keeps.pair; assumption) | dsimp only | ((with_reducible apply Keeps.rcd); (on_goal 2 => rfl); (on_goal 2 => rfl)))

theorem keep_migrateAll {s0 : Node} {a0 a1 a2 a3} (h2 : Keeps s0 a2) : Keeps s0 (migrateAll a0 a1 a2 a3) := by
  induction a1 generalizing a0 a2 a3 with
  | nil =>
    unfold migrateAll
    repeat' (first | with_reducible (first | assumption | intro _ | apply keep_migrate | apply Keeps.ite | apply Keeps.iteFst | apply Keeps.foldl | apply Keeps.foldlFst | apply Keeps.elim) | split | with_reducible (apply Keeps.pair; assumption) | dsimp only)
  | cons x l ih =>
    unfold migrateAll
    repeat' (first | with_reducible (first | assumption | apply ih | intro _ | apply keep_migrate | apply Keeps.ite | apply Keeps.iteFst | apply Keeps.foldl | apply Keeps.foldlFst | apply Keeps.elim) | split | with_reducible (apply Keeps.pair; assumption) | dsimp only)

theorem keep_execMigrationComplete {s0 : Node} {a0 a1} (h1 : Keeps s0 a1.node) : KeepsS s0 (execMigrationComplete a0 a1) := by
  unfold execMigrationComplete
  repeat' (first | with_reducible (first | assumption | intro _ | apply keep_migrateAll | apply keep_onBase | apply keep_onNode | apply keep_onServed | apply KeepsO.next | apply KeepsO.fault | apply KeepsO.ite | apply Keeps.ite | apply Keeps.iteFst | apply Keeps.foldl | apply Keeps.foldlFst | apply Keeps.elim) | split | with_reducible (apply Keeps.pair; assumption) | dsimp only)

theorem keep_stuCntWrite {s0 : Node} {a0 a1} (h0 : Keeps s0 a0) : Keeps s0 (stuCntWrite a0 a1) := by
  unfold stuCntWrite
  repeat' (first | with_reducible (first | assumption | intro _ | apply keep_modStu | apply keep_storeReg | apply Keeps.ite | apply Keeps.iteFst | apply Keeps.foldl | apply Keeps.foldlFst | apply Keeps.elim) | split | with_reducible (apply Keeps.pair; assumption) | dsimp only)

theorem keep_execStuCntCtrlWrite {s0 : Node} {a0 a1} (h1 : Keeps s0 a1.node) : KeepsS s0 (execStuCntCtrlWrite a0 a1) := by
  unfold execStuCntCtrlWrite
  repeat' (first | with_reducible (first | assumption | intro _ | apply keep_stuCntWrite | apply keep_withResp | apply keep_onNode | apply keep_onServed | apply KeepsO.next | apply KeepsO.fault | apply KeepsO.ite | apply Keeps.ite | apply Keeps.iteFst | apply Keeps.foldl | apply Keeps.foldlFst | apply Keeps.elim) | split | with_reducible (apply Keeps.pair; assumption) | dsimp only)

theorem keep_execStuCntClear {s0 : Node} {a0 a1} (h1 : Keeps s0 a1.node) : KeepsS s0 (execStuCntClear a0 a1) := by
  unfold execStuCntClear
  repeat' (first | with_reducible (first | assumption | intro _ | apply keep_stuCntWrite | apply keep_withResp | apply keep_onNode | apply keep_onServed | apply KeepsO.next | apply KeepsO.fault | apply KeepsO.ite | apply Keeps.ite | apply Keeps.iteFst | apply Keeps.foldl | apply Keeps.foldlFst | apply Keeps.elim) | split | with_reducible (apply Keeps.pair; assumption) | dsimp only)

theorem keep_execAccessCountBatch_addCount {s0 : Node} {a0 a1 a2 a3 a4 a5} (h0 : Keeps s0 a0) : Keeps s0 (execAccessCountBatch.addCount a0 a1 a2 a3 a4 a5) := by
  unfold execAccessCountBatch.addCount
  repeat' (first | with_reducible (first | assumption | intro _ | apply keep_cntAdd | apply keep_modDie | apply keep_modStu | apply keep_onDie | apply Keeps.ite | apply Keeps.iteFst | apply Keeps.foldl | apply Keeps.foldlFst | apply Keeps.elim) | split | with_reducible (apply Keeps.pair; assumption) | dsimp only)

theorem keep_execAccessCountBatch {s0 : Node} {a0 a1 a2 a3} (h3 : Keeps s0 a3.node) : KeepsS s0 (execAccessCountBatch a0 a1 a2 a3) := by
  unfold execAccessCountBatch
  repeat' (first | with_reducible (first | assumption | intro _ | apply keep_cntAdd | apply keep_execAccessCountBatch_addCount | apply keep_modDie | apply keep_modStu | apply keep_onDie | apply keep_onNode | apply keep_onServed | apply KeepsO.next | apply KeepsO.fault | apply KeepsO.ite | apply Keeps.ite | apply Keeps.iteFst | apply Keeps.foldl | apply Keeps.foldlFst | apply Keeps.elim) | split | with_reducible (apply Keeps.pair; assumption) | dsimp only)

theorem keep_modCtl {s0 s : Node} {f : Ctl → Ctl} (h : Keeps s0 s) (hf : (f s.ctl).life.fuses = s.ctl.life.fuses) :
    Keeps s0 (modCtl s f) := ⟨h.mem, by show Fuses.kept _ (f s.ctl).life.fuses = true; rw [hf]; exact h.fuses⟩

theorem keep_modCkpt {s0 : Node} {a0 a1} (h0 : Keeps s0 a0) : Keeps s0 (modCkpt a0 a1) := by
  unfold modCkpt
  repeat' (first | with_reducible (first | assumption | intro _ | apply keep_modCtl | apply Keeps.ite | apply Keeps.iteFst | apply Keeps.foldl | apply Keeps.foldlFst | apply Keeps.elim) | split | with_reducible (apply Keeps.pair; assumption) | dsimp only)

theorem keep_modTime {s0 : Node} {a0 a1} (h0 : Keeps s0 a0) : Keeps s0 (modTime a0 a1) := by
  unfold modTime
  repeat' (first | with_reducible (first | assumption | intro _ | apply keep_modCtl | apply Keeps.ite | apply Keeps.iteFst | apply Keeps.foldl | apply Keeps.foldlFst | apply Keeps.elim) | split | with_reducible (apply Keeps.pair; assumption) | dsimp only)

theorem keep_modLv {s0 : Node} {a0 a1} (h0 : Keeps s0 a0) : Keeps s0 (modLv a0 a1) := by
  unfold modLv
  repeat' (first | with_reducible (first | assumption | intro _ | apply keep_modCtl | apply Keeps.ite | apply Keeps.iteFst | apply Keeps.foldl | apply Keeps.foldlFst | apply Keeps.elim) | split | with_reducible (apply Keeps.pair; assumption) | dsimp only)

theorem keep_modCorud {s0 : Node} {a0 a1} (h0 : Keeps s0 a0) : Keeps s0 (modCorud a0 a1) := by
  unfold modCorud
  repeat' (first | with_reducible (first | assumption | intro _ | apply keep_modCtl | apply Keeps.ite | apply Keeps.iteFst | apply Keeps.foldl | apply Keeps.foldlFst | apply Keeps.elim) | split | with_reducible (apply Keeps.pair; assumption) | dsimp only)

theorem keep_modLife {s0 s : Node} {f : Life → Life} (h : Keeps s0 s) (hf : (f s.ctl.life).fuses = s.ctl.life.fuses) :
    Keeps s0 (modLife s f) := keep_modCtl h hf

theorem keep_modTest {s0 : Node} {a0 a1} (h0 : Keeps s0 a0) : Keeps s0 (modTest a0 a1) := by
  unfold modTest
  repeat' (first | with_reducible (first | assumption | intro _ | apply keep_modCtl | apply Keeps.ite | apply Keeps.iteFst | apply Keeps.foldl | apply Keeps.foldlFst | apply Keeps.elim) | split | with_reducible (apply Keeps.pair; assumption) | dsimp only)

theorem keep_signalAll {s0 : Node} {a0 a1} (h0 : Keeps s0 a0) : Keeps s0 (signalAll a0 a1) := by
  unfold signalAll
  repeat' (first | with_reducible (first | assumption | intro _ | apply keep_signal | apply Keeps.ite | apply Keeps.iteFst | apply Keeps.foldl | apply Keeps.foldlFst | apply Keeps.elim) | split | with_reducible (apply Keeps.pair; assumption) | dsimp only)

theorem keep_checkCal {s0 : Node} {a0 a1} (h0 : Keeps s0 a0) : Keeps s0 (checkCal a0 a1) := by
  unfold checkCal
  repeat' (first | with_reducible (first | assumption | intro _ | apply keep_dictSetNat | apply keep_logErr | apply Keeps.ite | apply Keeps.iteFst | apply Keeps.foldl | apply Keeps.foldlFst | apply Keeps.elim) | split | with_reducible (apply Keeps.pair; assumption) | dsimp only)

theorem keep_logBadEntries {s0 : Node} {a0 a1} (h0 : Keeps s0 a0) (h1 : Keeps s0 a1) : Keeps s0 (logBadEntries a0 a1) := by
  unfold logBadEntries
  repeat' (first | with_reducible (first | assumption | intro _ | apply keep_logErr | apply Keeps.ite | apply Keeps.iteFst | apply Keeps.foldl | apply Keeps.foldlFst | apply Keeps.elim) | split | with_reducible (apply Keeps.pair; assumption) | dsimp only)

theorem keep_setMapping {s0 : Node} {a0} (h0 : Keeps s0 a0) : Keeps s0 (setMapping a0) := by
  unfold setMapping
  repeat' (first | with_reducible (first | assumption | intro _ | apply keep_fSet | apply keep_setStackState | apply Keeps.ite | apply Keeps.iteFst | apply Keeps.foldl | apply Keeps.foldlFst | apply Keeps.elim) | split | with_reducible (apply Keeps.pair; assumption) | dsimp only)

theorem keep_loadSigs {s0 : Node} {a0 a1} (h0 : Keeps s0 a0) : Keeps s0 (loadSigs a0 a1) := by
  unfold loadSigs
  repeat' (first | with_reducible (first | assumption | intro _ | apply keep_regSet | apply Keeps.ite | apply Keeps.iteFst | apply Keeps.foldl | apply Keeps.foldlFst | apply Keeps.elim) | split | with_reducible (apply Keeps.pair; assumption) | dsimp only)

theorem keep_mirrorStored {s0 : Node} {a0} (h0 : Keeps s0 a0) : Keeps s0 (mirrorStored a0) := by
  unfold mirrorStored
  repeat' (first | with_reducible (first | assumption | intro _ | apply keep_fSet | apply keep_loadSigs | apply Keeps.ite | apply Keeps.iteFst | apply Keeps.foldl | apply Keeps.foldlFst | apply Keeps.elim) | split | with_reducible (apply Keeps.pair; assumption) | dsimp only)

theorem keep_haltedAtReset {s0 : Node} {a0 a1} (h0 : Keeps s0 a0) : Keeps s0 (haltedAtReset a0 a1) := by
  unfold haltedAtReset
  repeat' (first | with_reducible (first | assumption | intro _ | apply keep_modCore | apply Keeps.ite | apply Keeps.iteFst | apply Keeps.foldl | apply Keeps.foldlFst | apply Keeps.elim) | split | with_reducible (apply Keeps.pair; assumption) | dsimp only | ((with_reducible apply Keeps.rcd); (on_goal 2 => rfl); (on_goal 2 => rfl)))

theorem keep_resetNode {s0 s : Node} {a b c d} (h : Keeps s0 s) : Keeps s0 (resetNode s a b c d) := by
  unfold resetNode
  dsimp only
  repeat' (first | with_reducible (first | assumption | apply keep_checkCal | apply keep_logBadEntries | apply keep_mirrorStored | apply keep_setMapping | apply keep_fSet | apply keep_haltedAtReset | apply Keeps.foldl | intro _) | split | exact ⟨fun _ => rfl, h.fuses⟩)

theorem keep_coldReset {s0 : Node} {a0} (h0 : Keeps s0 a0) : Keeps s0 (coldReset a0) := by
  unfold coldReset
  repeat' (first | with_reducible (first | assumption | intro _ | apply keep_resetNode | apply Keeps.ite | apply Keeps.iteFst | apply Keeps.foldl | apply Keeps.foldlFst | apply Keeps.elim) | split | with_reducible (apply Keeps.pair; assumption) | dsimp only)

theorem keep_warmReset {s0 : Node} {a0 a1 a2} (h0 : Keeps s0 a0) : Keeps s0 (warmReset a0 a1 a2) := by
  unfold warmReset
  repeat' (first | with_reducible (first | assumption | intro _ | apply keep_modLife | apply keep_resetNode | apply keep_sendOut | apply Keeps.ite | apply Keeps.iteFst | apply Keeps.foldl | apply Keeps.foldlFst | apply Keeps.elim) | split | with_reducible (apply Keeps.pair; assumption) | dsimp only)

theorem keep_softwareReset {s0 : Node} {a0} (h0 : Keeps s0 a0) : Keeps s0 (softwareReset a0) := by
  unfold softwareReset
  repeat' (first | with_reducible (first | assumption | intro _ | apply keep_warmReset | apply Keeps.ite | apply Keeps.iteFst | apply Keeps.foldl | apply Keeps.foldlFst | apply Keeps.elim) | split | with_reducible (apply Keeps.pair; assumption) | dsimp only)

theorem keep_stopNode {s0 : Node} {a0 a1} (h0 : Keeps s0 a0) : Keeps s0 (stopNode a0 a1) := by
  unfold stopNode
  repeat' (first | with_reducible (first | assumption | intro _ | apply keep_fSet | apply keep_modLife | apply keep_modPort | apply keep_sendOut | apply Keeps.ite | apply Keeps.iteFst | apply Keeps.foldl | apply Keeps.foldlFst | apply Keeps.elim) | split | with_reducible (apply Keeps.pair; assumption) | dsimp only)

theorem keep_wipeJob {s0 s : Node} (h : Keeps s0 s) : Keeps s0 (wipeJob s) :=
  ⟨fun w => Memory.wf_filter _ (h.mem w), h.fuses⟩

theorem keep_jobWipe {s0 : Node} {a0} (h0 : Keeps s0 a0) : Keeps s0 (jobWipe a0).1 := by
  unfold jobWipe
  repeat' (first | with_reducible (first | assumption | intro _ | apply keep_fSet | apply keep_modLife | apply keep_wipeJob | apply Keeps.ite | apply Keeps.iteFst | apply Keeps.foldl | apply Keeps.foldlFst | apply Keeps.elim) | split | with_reducible (apply Keeps.pair; assumption) | dsimp only)

theorem keep_errHeadWrite {s0 : Node} {a0 a1 a2} (h0 : Keeps s0 a0) : Keeps s0 (errHeadWrite a0 a1 a2) := by
  unfold errHeadWrite
  repeat' (first | with_reducible (first | assumption | intro _ | apply keep_fSet | apply Keeps.ite | apply Keeps.iteFst | apply Keeps.foldl | apply Keeps.foldlFst | apply Keeps.elim) | split | with_reducible (apply Keeps.pair; assumption) | dsimp only)

theorem keep_execErrHeadWrite {s0 : Node} {a0 a1 a2} (h2 : Keeps s0 a2.node) : KeepsS s0 (execErrHeadWrite a0 a1 a2) := by
  unfold execErrHeadWrite
  repeat' (first | with_reducible (first | assumption | intro _ | apply keep_errHeadWrite | apply keep_onBase | apply keep_withResp | apply keep_onNode | apply keep_onServed | apply KeepsO.next | apply KeepsO.fault | apply KeepsO.ite | apply Keeps.ite | apply Keeps.iteFst | apply Keeps.foldl | apply Keeps.foldlFst | apply Keeps.elim) | split | with_reducible (apply Keeps.pair; assumption) | dsimp only)

theorem keep_askFence {s0 : Node} {a0 a1 a2} (h0 : Keeps s0 a0) : Keeps s0 (askFence a0 a1 a2) := by
  unfold askFence
  repeat' (first | with_reducible (first | assumption | intro _ | apply Keeps.ite | apply Keeps.iteFst | apply Keeps.foldl | apply Keeps.foldlFst | apply Keeps.elim) | split | with_reducible (apply Keeps.pair; assumption) | dsimp only | ((with_reducible apply Keeps.rcd); (on_goal 2 => rfl); (on_goal 2 => rfl)))

theorem keep_fenceWrite {s0 : Node} {a0 a1} (h0 : Keeps s0 a0) : Keeps s0 (fenceWrite a0 a1) := by
  unfold fenceWrite
  repeat' (first | with_reducible (first | assumption | intro _ | apply keep_askFence | apply Keeps.ite | apply Keeps.iteFst | apply Keeps.foldl | apply Keeps.foldlFst | apply Keeps.elim) | split | with_reducible (apply Keeps.pair; assumption) | dsimp only)

theorem keep_execFenceWrite {s0 : Node} {a0 a1} (h1 : Keeps s0 a1.node) : KeepsS s0 (execFenceWrite a0 a1) := by
  unfold execFenceWrite
  repeat' (first | with_reducible (first | assumption | intro _ | apply keep_fenceWrite | apply keep_withResp | apply keep_onNode | apply keep_onServed | apply KeepsO.next | apply KeepsO.fault | apply KeepsO.ite | apply Keeps.ite | apply Keeps.iteFst | apply Keeps.foldl | apply Keeps.foldlFst | apply Keeps.elim) | split | with_reducible (apply Keeps.pair; assumption) | dsimp only)

theorem keep_execHeartbeatMissed {s0 : Node} {a0 a1} (h1 : Keeps s0 a1.node) : KeepsS s0 (execHeartbeatMissed a0 a1) := by
  unfold execHeartbeatMissed
  repeat' (first | with_reducible (first | assumption | intro _ | apply keep_askFence | apply keep_onDie | apply keep_onNode | apply keep_onServed | apply KeepsO.next | apply KeepsO.fault | apply KeepsO.ite | apply Keeps.ite | apply Keeps.iteFst | apply Keeps.foldl | apply Keeps.foldlFst | apply Keeps.elim) | split | with_reducible (apply Keeps.pair; assumption) | dsimp only)

theorem keep_execRegulatorFault {s0 : Node} {a0 a1} (h1 : Keeps s0 a1.node) : KeepsS s0 (execRegulatorFault a0 a1) := by
  unfold execRegulatorFault
  repeat' (first | with_reducible (first | assumption | intro _ | apply keep_askFence | apply keep_onDie | apply keep_onNode | apply keep_onServed | apply KeepsO.next | apply KeepsO.fault | apply KeepsO.ite | apply Keeps.ite | apply Keeps.iteFst | apply Keeps.foldl | apply Keeps.foldlFst | apply Keeps.elim) | split | with_reducible (apply Keeps.pair; assumption) | dsimp only)

theorem keep_fenceHome {s0 : Node} {a0 a1 a2} (h0 : Keeps s0 a0) : Keeps s0 (fenceHome a0 a1 a2) := by
  unfold fenceHome
  repeat' (first | with_reducible (first | assumption | intro _ | apply keep_answerSnoop | apply keep_closeFenced | apply keep_cntAdd | apply keep_endTxn | apply keep_homeGo | apply keep_modDir | apply Keeps.ite | apply Keeps.iteFst | apply Keeps.foldl | apply Keeps.foldlFst | apply Keeps.elim) | split | with_reducible (apply Keeps.pair; assumption) | dsimp only)

theorem keep_rescueTile {s0 : Node} {a0 a1 a2 a3} (h0 : Keeps s0 a0) : Keeps s0 (rescueTile a0 a1 a2 a3) := by
  unfold rescueTile
  repeat' (first | with_reducible (first | assumption | intro _ | apply keep_addPool | apply keep_logErr | apply keep_tsEvent | apply Keeps.ite | apply Keeps.iteFst | apply Keeps.foldl | apply Keeps.foldlFst | apply Keeps.elim) | split | with_reducible (apply Keeps.pair; assumption) | dsimp only)

end Sys2Proof.Machine
end

