-- ==== Sys2Proof/Laws/Keeps5.lean ====
section
/-! SUPPORT. What the operations of the machine keep, one lemma each (5 of 6): keep_fenceDie to keep_execTeHold. -/

set_option Elab.async false
set_option linter.all false

namespace Sys2Proof.Machine

theorem keep_fenceDie {s0 : Node} {a0 a1 a2} (h0 : Keeps s0 a0) : Keeps s0 (fenceDie a0 a1 a2) := by
  unfold fenceDie
  repeat' (first | with_reducible (first | assumption | intro _ | apply keep_cntAdd | apply keep_fSet | apply keep_fenceHome | apply keep_logErr | apply keep_modDie | apply keep_modNet | apply keep_rescueTile | apply Keeps.ite | apply Keeps.iteFst | apply Keeps.foldl | apply Keeps.foldlFst | apply Keeps.elim) | split | with_reducible (apply Keeps.pair; assumption) | dsimp only | ((with_reducible apply Keeps.rcd); (on_goal 2 => rfl); (on_goal 2 => rfl)))

theorem keep_execDieFence {s0 : Node} {a0 a1} (h1 : Keeps s0 a1.node) : KeepsS s0 (execDieFence a0 a1) := by
  unfold execDieFence
  repeat' (first | with_reducible (first | assumption | intro _ | apply keep_fenceDie | apply keep_onDie | apply keep_ordered | apply keep_onNode | apply keep_onServed | apply KeepsO.next | apply KeepsO.fault | apply KeepsO.ite | apply Keeps.ite | apply Keeps.iteFst | apply Keeps.foldl | apply Keeps.foldlFst | apply Keeps.elim) | split | with_reducible (apply Keeps.pair; assumption) | dsimp only)

theorem keep_coreCacheLost {s0 : Node} {a0 a1 a2 a3} (h0 : Keeps s0 a0) : Keeps s0 (coreCacheLost a0 a1 a2 a3) := by
  unfold coreCacheLost
  repeat' (first | with_reducible (first | assumption | intro _ | apply keep_modCache | apply keep_modCore | apply Keeps.ite | apply Keeps.iteFst | apply Keeps.foldl | apply Keeps.foldlFst | apply Keeps.elim) | split | with_reducible (apply Keeps.pair; assumption) | dsimp only | ((with_reducible apply Keeps.rcd); (on_goal 2 => rfl); (on_goal 2 => rfl)))

theorem keep_execSramUncorrected {s0 : Node} {a0 a1} (h1 : Keeps s0 a1.node) : KeepsS s0 (execSramUncorrected a0 a1) := by
  unfold execSramUncorrected
  repeat' (first | with_reducible (first | assumption | intro _ | apply keep_askFence | apply keep_coreCacheLost | apply keep_logErr | apply keep_modDir | apply keep_modLed | apply keep_onBase | apply keep_onDie | apply keep_onGable | apply keep_onUnit | apply keep_sramLost | apply keep_onNode | apply keep_onServed | apply KeepsO.next | apply KeepsO.fault | apply KeepsO.ite | apply Keeps.ite | apply Keeps.iteFst | apply Keeps.foldl | apply Keeps.foldlFst | apply Keeps.elim) | split | with_reducible (apply Keeps.pair; assumption) | dsimp only | ((with_reducible apply Keeps.rcd); (on_goal 2 => rfl); (on_goal 2 => rfl)))

theorem keep_abortGable {s0 : Node} {a0 a1} (h0 : Keeps s0 a0) : Keeps s0 (abortGable a0 a1) := by
  unfold abortGable
  repeat' (first | with_reducible (first | assumption | intro _ | apply keep_endAllGroups | apply keep_modGable | apply Keeps.ite | apply Keeps.iteFst | apply Keeps.foldl | apply Keeps.foldlFst | apply Keeps.elim) | split | with_reducible (apply Keeps.pair; assumption) | dsimp only | ((with_reducible apply Keeps.rcd); (on_goal 2 => rfl); (on_goal 2 => rfl)))

theorem keep_dieAbort {s0 : Node} {a0 a1} (h0 : Keeps s0 a0) : Keeps s0 (dieAbort a0 a1) := by
  unfold dieAbort
  repeat' (first | with_reducible (first | assumption | intro _ | apply keep_abortGable | apply keep_fSet | apply keep_modDie | apply Keeps.ite | apply Keeps.iteFst | apply Keeps.foldl | apply Keeps.foldlFst | apply Keeps.elim) | split | with_reducible (apply Keeps.pair; assumption) | dsimp only)

theorem keep_execDieAbort {s0 : Node} {a0 a1} (h1 : Keeps s0 a1.node) : KeepsS s0 (execDieAbort a0 a1) := by
  unfold execDieAbort
  repeat' (first | with_reducible (first | assumption | intro _ | apply keep_dieAbort | apply keep_onDie | apply keep_withResp | apply keep_onNode | apply keep_onServed | apply KeepsO.next | apply KeepsO.fault | apply KeepsO.ite | apply Keeps.ite | apply Keeps.iteFst | apply Keeps.foldl | apply Keeps.foldlFst | apply Keeps.elim) | split | with_reducible (apply Keeps.pair; assumption) | dsimp only)

theorem keep_execDieAbortDone {s0 : Node} {a0 a1} (h1 : Keeps s0 a1.node) : KeepsS s0 (execDieAbortDone a0 a1) := by
  unfold execDieAbortDone
  repeat' (first | with_reducible (first | assumption | intro _ | apply keep_abortGable | apply keep_fSet | apply keep_modDie | apply keep_onDie | apply keep_onNode | apply keep_onServed | apply KeepsO.next | apply KeepsO.fault | apply KeepsO.ite | apply Keeps.ite | apply Keeps.iteFst | apply Keeps.foldl | apply Keeps.foldlFst | apply Keeps.elim) | split | with_reducible (apply Keeps.pair; assumption) | dsimp only)

theorem keep_storeNat {s0 : Node} {a0 a1 a2 a3} (h0 : Keeps s0 a0) : Keeps s0 (storeNat a0 a1 a2 a3) := by
  unfold storeNat
  repeat' (first | with_reducible (first | assumption | intro _ | apply keep_dictSetNat | apply keep_modCorud | apply Keeps.ite | apply Keeps.iteFst | apply Keeps.foldl | apply Keeps.foldlFst | apply Keeps.elim) | split | with_reducible (apply Keeps.pair; assumption) | dsimp only)

theorem keep_noteSessions {s0 : Node} {a0 a1} (h0 : Keeps s0 a0) : Keeps s0 (noteSessions a0 a1) := by
  unfold noteSessions
  repeat' (first | with_reducible (first | assumption | intro _ | apply keep_modCkpt | apply Keeps.ite | apply Keeps.iteFst | apply Keeps.foldl | apply Keeps.foldlFst | apply Keeps.elim) | split | with_reducible (apply Keeps.pair; assumption) | dsimp only)

theorem keep_setPhase {s0 : Node} {a0 a1} (h0 : Keeps s0 a0) : Keeps s0 (setPhase a0 a1) := by
  unfold setPhase
  repeat' (first | with_reducible (first | assumption | intro _ | apply keep_fSet | apply Keeps.ite | apply Keeps.iteFst | apply Keeps.foldl | apply Keeps.foldlFst | apply Keeps.elim) | split | with_reducible (apply Keeps.pair; assumption) | dsimp only)

theorem keep_ckptFail {s0 : Node} {a0 a1 a2} (h0 : Keeps s0 a0) : Keeps s0 (ckptFail a0 a1 a2) := by
  unfold ckptFail
  repeat' (first | with_reducible (first | assumption | intro _ | apply keep_fSet | apply keep_logErr | apply Keeps.ite | apply Keeps.iteFst | apply Keeps.foldl | apply Keeps.foldlFst | apply Keeps.elim) | split | with_reducible (apply Keeps.pair; assumption) | dsimp only)

theorem keep_putSlot {s0 : Node} {a0 a1 a2} (h0 : Keeps s0 a0) : Keeps s0 (putSlot a0 a1 a2) := by
  unfold putSlot
  repeat' (first | with_reducible (first | assumption | intro _ | apply keep_originate | apply Keeps.ite | apply Keeps.iteFst | apply Keeps.foldl | apply Keeps.foldlFst | apply Keeps.elim) | split | with_reducible (apply Keeps.pair; assumption) | dsimp only)

theorem keep_startCut {s0 : Node} {a0 a1} (h0 : Keeps s0 a0) : Keeps s0 (startCut a0 a1) := by
  unfold startCut
  repeat' (first | with_reducible (first | assumption | intro _ | apply keep_ckptFail | apply keep_modCkpt | apply keep_setPhase | apply keep_setShgHold | apply Keeps.ite | apply Keeps.iteFst | apply Keeps.foldl | apply Keeps.foldlFst | apply Keeps.elim) | split | with_reducible (apply Keeps.pair; assumption) | dsimp only)

theorem keep_execCkptCut {s0 : Node} {a0 a1} (h1 : Keeps s0 a1.node) : KeepsS s0 (execCkptCut a0 a1) := by
  unfold execCkptCut
  repeat' (first | with_reducible (first | assumption | intro _ | apply keep_startCut | apply keep_withResp | apply keep_onNode | apply keep_onServed | apply KeepsO.next | apply KeepsO.fault | apply KeepsO.ite | apply Keeps.ite | apply Keeps.iteFst | apply Keeps.foldl | apply Keeps.foldlFst | apply Keeps.elim) | split | with_reducible (apply Keeps.pair; assumption) | dsimp only)

theorem keep_execCutDrained {s0 : Node} {a0} (h0 : Keeps s0 a0.node) : KeepsS s0 (execCutDrained a0) := by
  unfold execCutDrained
  repeat' (first | with_reducible (first | assumption | intro _ | apply keep_agentWrite | apply keep_putSlot | apply keep_setPhase | apply keep_onNode | apply keep_onServed | apply KeepsO.next | apply KeepsO.fault | apply KeepsO.ite | apply Keeps.ite | apply Keeps.iteFst | apply Keeps.foldl | apply Keeps.foldlFst | apply Keeps.elim) | split | with_reducible (apply Keeps.pair; assumption) | dsimp only)

theorem keep_restoreHold {s0 : Node} {a0} (h0 : Keeps s0 a0) : Keeps s0 (restoreHold a0) := by
  unfold restoreHold
  repeat' (first | with_reducible (first | assumption | intro _ | apply keep_setShgHold | apply Keeps.ite | apply Keeps.iteFst | apply Keeps.foldl | apply Keeps.foldlFst | apply Keeps.elim) | split | with_reducible (apply Keeps.pair; assumption) | dsimp only)

theorem keep_execCutDrainTimeout {s0 : Node} {a0} (h0 : Keeps s0 a0.node) : KeepsS s0 (execCutDrainTimeout a0) := by
  unfold execCutDrainTimeout
  repeat' (first | with_reducible (first | assumption | intro _ | apply keep_ckptFail | apply keep_restoreHold | apply keep_setPhase | apply keep_onNode | apply keep_onServed | apply KeepsO.next | apply KeepsO.fault | apply KeepsO.ite | apply Keeps.ite | apply Keeps.iteFst | apply Keeps.foldl | apply Keeps.foldlFst | apply Keeps.elim) | split | with_reducible (apply Keeps.pair; assumption) | dsimp only)

theorem keep_recallLine {s0 : Node} {a0 a1} (h0 : Keeps s0 a0) : Keeps s0 (recallLine a0 a1) := by
  unfold recallLine
  repeat' (first | with_reducible (first | assumption | intro _ | apply keep_cntAdd | apply keep_modEntry | apply keep_nmcWrite | apply keep_purgeFenced | apply keep_setSnoopSt | apply Keeps.ite | apply Keeps.iteFst | apply Keeps.foldl | apply Keeps.foldlFst | apply Keeps.elim) | split | with_reducible (apply Keeps.pair; assumption) | dsimp only)

theorem keep_sendSlot {s0 : Node} {a0} (h0 : Keeps s0 a0) : Keeps s0 (sendSlot a0) := by
  unfold sendSlot
  repeat' (first | with_reducible (first | assumption | intro _ | apply keep_modCkpt | apply keep_putSlot | apply Keeps.ite | apply Keeps.iteFst | apply Keeps.foldl | apply Keeps.foldlFst | apply Keeps.elim) | split | with_reducible (apply Keeps.pair; assumption) | dsimp only)

theorem keep_execCutScanDone {s0 : Node} {a0} (h0 : Keeps s0 a0.node) : KeepsS s0 (execCutScanDone a0) := by
  unfold execCutScanDone
  repeat' (first | with_reducible (first | assumption | intro _ | apply keep_recallLine | apply keep_restoreHold | apply keep_sendSlot | apply keep_setPhase | apply keep_onNode | apply keep_onServed | apply KeepsO.next | apply KeepsO.fault | apply KeepsO.ite | apply Keeps.ite | apply Keeps.iteFst | apply Keeps.foldl | apply Keeps.foldlFst | apply Keeps.elim) | split | with_reducible (apply Keeps.pair; assumption) | dsimp only | ((with_reducible apply Keeps.rcd); (on_goal 2 => rfl); (on_goal 2 => rfl)))

theorem keep_copyCutLine {s0 : Node} {a0 a1 a2} (h0 : Keeps s0 a0) : Keeps s0 (copyCutLine a0 a1 a2) := by
  unfold copyCutLine
  repeat' (first | with_reducible (first | assumption | intro _ | apply keep_homeReadFirst | apply keep_homeWrite | apply keep_modCkpt | apply Keeps.ite | apply Keeps.iteFst | apply Keeps.foldl | apply Keeps.foldlFst | apply Keeps.elim) | split | with_reducible (apply Keeps.pair; assumption) | dsimp only | ((with_reducible apply Keeps.rcd); (on_goal 2 => rfl); (on_goal 2 => rfl)))

theorem keep_execCutChunkCopied {s0 : Node} {a0 a1} (h1 : Keeps s0 a1.node) : KeepsS s0 (execCutChunkCopied a0 a1) := by
  unfold execCutChunkCopied
  repeat' (first | with_reducible (first | assumption | intro _ | apply keep_copyCutLine | apply keep_homeGo | apply keep_sendSlot | apply keep_onNode | apply keep_onServed | apply KeepsO.next | apply KeepsO.fault | apply KeepsO.ite | apply Keeps.ite | apply Keeps.iteFst | apply Keeps.foldl | apply Keeps.foldlFst | apply Keeps.elim) | split | with_reducible (apply Keeps.pair; assumption) | dsimp only | ((with_reducible apply Keeps.rcd); (on_goal 2 => rfl); (on_goal 2 => rfl)))

theorem keep_execCutRemoteDone {s0 : Node} {a0} (h0 : Keeps s0 a0.node) : KeepsS s0 (execCutRemoteDone a0) := by
  unfold execCutRemoteDone
  repeat' (first | with_reducible (first | assumption | intro _ | apply keep_agentWrite | apply keep_ckptFail | apply keep_fSet | apply keep_modCkpt | apply keep_setPhase | apply keep_onNode | apply keep_onServed | apply KeepsO.next | apply KeepsO.fault | apply KeepsO.ite | apply Keeps.ite | apply Keeps.iteFst | apply Keeps.foldl | apply Keeps.foldlFst | apply Keeps.elim) | split | with_reducible (apply Keeps.pair; assumption) | dsimp only)

theorem keep_restoreLines {s0 : Node} {a0 a1 a2 a3} (h0 : Keeps s0 a0) : Keeps s0 (restoreLines a0 a1 a2 a3) := by
  unfold restoreLines
  repeat' (first | with_reducible (first | assumption | intro _ | apply keep_homeWrite | apply Keeps.ite | apply Keeps.iteFst | apply Keeps.foldl | apply Keeps.foldlFst | apply Keeps.elim) | split | with_reducible (apply Keeps.pair; assumption) | dsimp only)

theorem keep_startRestore {s0 : Node} {a0 a1 a2 a3 a4} (h0 : Keeps s0 a0) : Keeps s0 (startRestore a0 a1 a2 a3 a4) := by
  unfold startRestore
  repeat' (first | with_reducible (first | assumption | intro _ | apply keep_ckptFail | apply keep_modCkpt | apply keep_restoreLines | apply keep_setPhase | apply Keeps.ite | apply Keeps.iteFst | apply Keeps.foldl | apply Keeps.foldlFst | apply Keeps.elim) | split | with_reducible (apply Keeps.pair; assumption) | dsimp only)

theorem keep_restoreLocal {s0 : Node} {a0} (h0 : Keeps s0 a0) : Keeps s0 (restoreLocal a0) := by
  unfold restoreLocal
  repeat' (first | with_reducible (first | assumption | intro _ | apply keep_agentTouch | apply keep_startRestore | apply Keeps.ite | apply Keeps.iteFst | apply Keeps.foldl | apply Keeps.foldlFst | apply Keeps.elim) | split | with_reducible (apply Keeps.pair; assumption) | dsimp only)

theorem keep_execCkptRestoreLocal {s0 : Node} {a0} (h0 : Keeps s0 a0.node) : KeepsS s0 (execCkptRestoreLocal a0) := by
  unfold execCkptRestoreLocal
  repeat' (first | with_reducible (first | assumption | intro _ | apply keep_restoreLocal | apply keep_withResp | apply keep_onNode | apply keep_onServed | apply KeepsO.next | apply KeepsO.fault | apply KeepsO.ite | apply Keeps.ite | apply Keeps.iteFst | apply Keeps.foldl | apply Keeps.foldlFst | apply Keeps.elim) | split | with_reducible (apply Keeps.pair; assumption) | dsimp only)

theorem keep_askBuddy {s0 : Node} {a0} (h0 : Keeps s0 a0) : Keeps s0 (askBuddy a0) := by
  unfold askBuddy
  repeat' (first | with_reducible (first | assumption | intro _ | apply Keeps.ite | apply Keeps.iteFst | apply Keeps.foldl | apply Keeps.foldlFst | apply Keeps.elim) | split | with_reducible (apply Keeps.pair; assumption) | dsimp only | ((with_reducible apply Keeps.rcd); (on_goal 2 => rfl); (on_goal 2 => rfl)))

theorem keep_execCkptRestoreBuddy {s0 : Node} {a0 a1 a2 a3} (h3 : Keeps s0 a3.node) : KeepsS s0 (execCkptRestoreBuddy a0 a1 a2 a3) := by
  unfold execCkptRestoreBuddy
  repeat' (first | with_reducible (first | assumption | intro _ | apply keep_ckptFail | apply keep_startRestore | apply keep_onNode | apply keep_onServed | apply KeepsO.next | apply KeepsO.fault | apply KeepsO.ite | apply Keeps.ite | apply Keeps.iteFst | apply Keeps.foldl | apply Keeps.foldlFst | apply Keeps.elim) | split | with_reducible (apply Keeps.pair; assumption) | dsimp only | ((with_reducible apply Keeps.rcd); (on_goal 2 => rfl); (on_goal 2 => rfl)))

theorem keep_execRestoreDone {s0 : Node} {a0} (h0 : Keeps s0 a0.node) : KeepsS s0 (execRestoreDone a0) := by
  unfold execRestoreDone
  repeat' (first | with_reducible (first | assumption | intro _ | apply keep_fSet | apply keep_modCkpt | apply keep_modLed | apply keep_setPhase | apply keep_onNode | apply keep_onServed | apply KeepsO.next | apply KeepsO.fault | apply KeepsO.ite | apply Keeps.ite | apply Keeps.iteFst | apply Keeps.foldl | apply Keeps.foldlFst | apply Keeps.elim) | split | with_reducible (apply Keeps.pair; assumption) | dsimp only)

theorem keep_ftCountAt {s0 : Node} {a0 a1 a2} (h0 : Keeps s0 a0) : Keeps s0 (ftCountAt a0 a1 a2) := by
  unfold ftCountAt
  repeat' (first | with_reducible (first | assumption | intro _ | apply keep_cntAdd | apply Keeps.ite | apply Keeps.iteFst | apply Keeps.foldl | apply Keeps.foldlFst | apply Keeps.elim) | split | with_reducible (apply Keeps.pair; assumption) | dsimp only)

theorem keep_ftCount {s0 : Node} {a0 a1} (h0 : Keeps s0 a0) : Keeps s0 (ftCount a0 a1) := by
  unfold ftCount
  repeat' (first | with_reducible (first | assumption | intro _ | apply keep_ftCountAt | apply Keeps.ite | apply Keeps.iteFst | apply Keeps.foldl | apply Keeps.foldlFst | apply Keeps.elim) | split | with_reducible (apply Keeps.pair; assumption) | dsimp only)

theorem keep_setQuality {s0 : Node} {a0 a1} (h0 : Keeps s0 a0) : Keeps s0 (setQuality a0 a1) := by
  unfold setQuality
  repeat' (first | with_reducible (first | assumption | intro _ | apply keep_fSet | apply keep_signalAll | apply Keeps.ite | apply Keeps.iteFst | apply Keeps.foldl | apply Keeps.foldlFst | apply Keeps.elim) | split | with_reducible (apply Keeps.pair; assumption) | dsimp only)

theorem keep_stepTime {s0 : Node} {a0 a1} (h0 : Keeps s0 a0) : Keeps s0 (stepTime a0 a1) := by
  unfold stepTime
  repeat' (first | with_reducible (first | assumption | intro _ | apply keep_ftCount | apply keep_modTime | apply keep_passTimers | apply keep_signalAll | apply Keeps.ite | apply Keeps.iteFst | apply Keeps.foldl | apply Keeps.foldlFst | apply Keeps.elim) | split | with_reducible (apply Keeps.pair; assumption) | dsimp only | ((with_reducible apply Keeps.rcd); (on_goal 2 => rfl); (on_goal 2 => rfl)))

theorem keep_slewTime {s0 : Node} {a0} (h0 : Keeps s0 a0) : Keeps s0 (slewTime a0) := by
  unfold slewTime
  repeat' (first | with_reducible (first | assumption | intro _ | apply keep_bump | apply keep_fSet | apply Keeps.ite | apply Keeps.iteFst | apply Keeps.foldl | apply Keeps.foldlFst | apply Keeps.elim) | split | with_reducible (apply Keeps.pair; assumption) | dsimp only)

theorem keep_discipline {s0 : Node} {a0 a1} (h0 : Keeps s0 a0) : Keeps s0 (discipline a0 a1) := by
  unfold discipline
  repeat' (first | with_reducible (first | assumption | intro _ | apply keep_setQuality | apply keep_slewTime | apply keep_stepTime | apply Keeps.ite | apply Keeps.iteFst | apply Keeps.foldl | apply Keeps.foldlFst | apply Keeps.elim) | split | with_reducible (apply Keeps.pair; assumption) | dsimp only)

theorem keep_measured {s0 : Node} {a0 a1} (h0 : Keeps s0 a0) : Keeps s0 (measured a0 a1) := by
  unfold measured
  repeat' (first | with_reducible (first | assumption | intro _ | apply keep_fSet | apply Keeps.ite | apply Keeps.iteFst | apply Keeps.foldl | apply Keeps.foldlFst | apply Keeps.elim) | split | with_reducible (apply Keeps.pair; assumption) | dsimp only)

theorem keep_servo {s0 : Node} {a0 a1} (h0 : Keeps s0 a0) : Keeps s0 (servo a0 a1) := by
  unfold servo
  repeat' (first | with_reducible (first | assumption | intro _ | apply keep_discipline | apply keep_measured | apply Keeps.ite | apply Keeps.iteFst | apply Keeps.foldl | apply Keeps.foldlFst | apply Keeps.elim) | split | with_reducible (apply Keeps.pair; assumption) | dsimp only)

theorem keep_stampPort {s0 : Node} {a0 a1} (h0 : Keeps s0 a0) : Keeps s0 (stampPort a0 a1) := by
  unfold stampPort
  repeat' (first | with_reducible (first | assumption | intro _ | apply keep_modTime | apply Keeps.ite | apply Keeps.iteFst | apply Keeps.foldl | apply Keeps.foldlFst | apply Keeps.elim) | split | with_reducible (apply Keeps.pair; assumption) | dsimp only)

theorem keep_sendPtp {s0 : Node} {a0 a1 a2} (h0 : Keeps s0 a0) : Keeps s0 (sendPtp a0 a1 a2) := by
  unfold sendPtp
  repeat' (first | with_reducible (first | assumption | intro _ | apply keep_sendFrame | apply keep_stampPort | apply Keeps.ite | apply Keeps.iteFst | apply Keeps.foldl | apply Keeps.foldlFst | apply Keeps.elim) | split | with_reducible (apply Keeps.pair; assumption) | dsimp only)

theorem keep_syncSeen {s0 : Node} {a0 a1} (h0 : Keeps s0 a0) : Keeps s0 (syncSeen a0 a1) := by
  unfold syncSeen
  repeat' (first | with_reducible (first | assumption | intro _ | apply keep_ftCountAt | apply keep_modTime | apply keep_stampPort | apply Keeps.ite | apply Keeps.iteFst | apply Keeps.foldl | apply Keeps.foldlFst | apply Keeps.elim) | split | with_reducible (apply Keeps.pair; assumption) | dsimp only)

theorem keep_syncGives {s0 : Node} {a0 a1 a2} (h0 : Keeps s0 a0) : Keeps s0 (syncGives a0 a1 a2) := by
  unfold syncGives
  repeat' (first | with_reducible (first | assumption | intro _ | apply keep_discipline | apply keep_measured | apply keep_modTime | apply Keeps.ite | apply Keeps.iteFst | apply Keeps.foldl | apply Keeps.foldlFst | apply Keeps.elim) | split | with_reducible (apply Keeps.pair; assumption) | dsimp only)

theorem keep_execPtpSyncReceive {s0 : Node} {a0 a1 a2} (h2 : Keeps s0 a2.node) : KeepsS s0 (execPtpSyncReceive a0 a1 a2) := by
  unfold execPtpSyncReceive
  repeat' (first | with_reducible (first | assumption | intro _ | apply keep_modTime | apply keep_onPort | apply keep_syncGives | apply keep_syncSeen | apply keep_onNode | apply keep_onServed | apply KeepsO.next | apply KeepsO.fault | apply KeepsO.ite | apply Keeps.ite | apply Keeps.iteFst | apply Keeps.foldl | apply Keeps.foldlFst | apply Keeps.elim) | split | with_reducible (apply Keeps.pair; assumption) | dsimp only)

theorem keep_execPtpPdelay {s0 : Node} {a0 a1 a2} (h2 : Keeps s0 a2.node) : KeepsS s0 (execPtpPdelay a0 a1 a2) := by
  unfold execPtpPdelay
  repeat' (first | with_reducible (first | assumption | intro _ | apply keep_onPort | apply keep_sendPtp | apply keep_stampPort | apply keep_onNode | apply keep_onServed | apply KeepsO.next | apply KeepsO.fault | apply KeepsO.ite | apply Keeps.ite | apply Keeps.iteFst | apply Keeps.foldl | apply Keeps.foldlFst | apply Keeps.elim) | split | with_reducible (apply Keeps.pair; assumption) | dsimp only)

theorem keep_execPtpSyncSend {s0 : Node} {a0 a1} (h1 : Keeps s0 a1.node) : KeepsS s0 (execPtpSyncSend a0 a1) := by
  unfold execPtpSyncSend
  repeat' (first | with_reducible (first | assumption | intro _ | apply keep_onPort | apply keep_sendPtp | apply keep_onNode | apply keep_onServed | apply KeepsO.next | apply KeepsO.fault | apply KeepsO.ite | apply Keeps.ite | apply Keeps.iteFst | apply Keeps.foldl | apply Keeps.foldlFst | apply Keeps.elim) | split | with_reducible (apply Keeps.pair; assumption) | dsimp only)

theorem keep_runBmca {s0 : Node} {a0} (h0 : Keeps s0 a0) : Keeps s0 (runBmca a0) := by
  unfold runBmca
  repeat' (first | with_reducible (first | assumption | intro _ | apply keep_fSet | apply keep_modTime | apply Keeps.ite | apply Keeps.iteFst | apply Keeps.foldl | apply Keeps.foldlFst | apply Keeps.elim) | split | with_reducible (apply Keeps.pair; assumption) | dsimp only)

theorem keep_execPtpAnnounce {s0 : Node} {a0 a1 a2} (h2 : Keeps s0 a2.node) : KeepsS s0 (execPtpAnnounce a0 a1 a2) := by
  unfold execPtpAnnounce
  repeat' (first | with_reducible (first | assumption | intro _ | apply keep_modTime | apply keep_onPort | apply keep_runBmca | apply keep_onNode | apply keep_onServed | apply KeepsO.next | apply KeepsO.fault | apply KeepsO.ite | apply Keeps.ite | apply Keeps.iteFst | apply Keeps.foldl | apply Keeps.foldlFst | apply Keeps.elim) | split | with_reducible (apply Keeps.pair; assumption) | dsimp only)

theorem keep_agePort {s0 : Node} {a0 a1} (h0 : Keeps s0 a0) : Keeps s0 (agePort a0 a1) := by
  unfold agePort
  repeat' (first | with_reducible (first | assumption | intro _ | apply keep_modTime | apply Keeps.ite | apply Keeps.iteFst | apply Keeps.foldl | apply Keeps.foldlFst | apply Keeps.elim) | split | with_reducible (apply Keeps.pair; assumption) | dsimp only)

theorem keep_agePtp {s0 : Node} {a0} (h0 : Keeps s0 a0) : Keeps s0 (agePtp a0) := by
  unfold agePtp
  repeat' (first | with_reducible (first | assumption | intro _ | apply keep_agePort | apply keep_runBmca | apply Keeps.ite | apply Keeps.iteFst | apply Keeps.foldl | apply Keeps.foldlFst | apply Keeps.elim) | split | with_reducible (apply Keeps.pair; assumption) | dsimp only)

theorem keep_setPps {s0 : Node} {a0 a1} (h0 : Keeps s0 a0) : Keeps s0 (setPps a0 a1) := by
  unfold setPps
  repeat' (first | with_reducible (first | assumption | intro _ | apply keep_fSet | apply Keeps.ite | apply Keeps.iteFst | apply Keeps.foldl | apply Keeps.foldlFst | apply Keeps.elim) | split | with_reducible (apply Keeps.pair; assumption) | dsimp only)

theorem keep_execPpsInEdge {s0 : Node} {a0} (h0 : Keeps s0 a0.node) : KeepsS s0 (execPpsInEdge a0) := by
  unfold execPpsInEdge
  repeat' (first | with_reducible (first | assumption | intro _ | apply keep_ftCountAt | apply keep_modTime | apply keep_regSet | apply keep_servo | apply keep_setPps | apply keep_onNode | apply keep_onServed | apply KeepsO.next | apply KeepsO.fault | apply KeepsO.ite | apply Keeps.ite | apply Keeps.iteFst | apply Keeps.foldl | apply Keeps.foldlFst | apply Keeps.elim) | split | with_reducible (apply Keeps.pair; assumption) | dsimp only)

theorem keep_execPpsMissing {s0 : Node} {a0} (h0 : Keeps s0 a0.node) : KeepsS s0 (execPpsMissing a0) := by
  unfold execPpsMissing
  repeat' (first | with_reducible (first | assumption | intro _ | apply keep_logErr | apply keep_setPps | apply keep_signalAll | apply keep_onNode | apply keep_onServed | apply KeepsO.next | apply KeepsO.fault | apply KeepsO.ite | apply Keeps.ite | apply Keeps.iteFst | apply Keeps.foldl | apply Keeps.foldlFst | apply Keeps.elim) | split | with_reducible (apply Keeps.pair; assumption) | dsimp only)

theorem keep_execPpsOutPulse {s0 : Node} {a0} (h0 : Keeps s0 a0.node) : KeepsS s0 (execPpsOutPulse a0) := by
  unfold execPpsOutPulse
  repeat' (first | with_reducible (first | assumption | intro _ | apply keep_modTime | apply keep_sendOut | apply keep_onNode | apply keep_onServed | apply KeepsO.next | apply KeepsO.fault | apply KeepsO.ite | apply Keeps.ite | apply Keeps.iteFst | apply Keeps.foldl | apply Keeps.foldlFst | apply Keeps.elim) | split | with_reducible (apply Keeps.pair; assumption) | dsimp only)

theorem keep_pulseFalls {s0 : Node} {a0} (h0 : Keeps s0 a0) : Keeps s0 (pulseFalls a0) := by
  unfold pulseFalls
  repeat' (first | with_reducible (first | assumption | intro _ | apply keep_modTime | apply keep_sendOut | apply Keeps.ite | apply Keeps.iteFst | apply Keeps.foldl | apply Keeps.foldlFst | apply Keeps.elim) | split | with_reducible (apply Keeps.pair; assumption) | dsimp only)

theorem keep_execTimeHoldover {s0 : Node} {a0 a1} (h1 : Keeps s0 a1.node) : KeepsS s0 (execTimeHoldover a0 a1) := by
  unfold execTimeHoldover
  repeat' (first | with_reducible (first | assumption | intro _ | apply keep_logErr | apply keep_modTime | apply keep_setQuality | apply keep_onNode | apply keep_onServed | apply KeepsO.next | apply KeepsO.fault | apply KeepsO.ite | apply Keeps.ite | apply Keeps.iteFst | apply Keeps.foldl | apply Keeps.foldlFst | apply Keeps.elim) | split | with_reducible (apply Keeps.pair; assumption) | dsimp only)

theorem keep_execPpsHoldExpiry {s0 : Node} {a0} (h0 : Keeps s0 a0.node) : KeepsS s0 (execPpsHoldExpiry a0) := by
  unfold execPpsHoldExpiry
  repeat' (first | with_reducible (first | assumption | intro _ | apply keep_modTime | apply keep_setQuality | apply keep_onNode | apply keep_onServed | apply KeepsO.next | apply KeepsO.fault | apply KeepsO.ite | apply Keeps.ite | apply Keeps.iteFst | apply Keeps.foldl | apply Keeps.foldlFst | apply Keeps.elim) | split | with_reducible (apply Keeps.pair; assumption) | dsimp only)

theorem keep_lvEvent {s0 : Node} {a0} (h0 : Keeps s0 a0) : Keeps s0 (lvEvent a0) := by
  unfold lvEvent
  repeat' (first | with_reducible (first | assumption | intro _ | apply keep_signalAll | apply Keeps.ite | apply Keeps.iteFst | apply Keeps.foldl | apply Keeps.foldlFst | apply Keeps.elim) | split | with_reducible (apply Keeps.pair; assumption) | dsimp only)

theorem keep_lvLog {s0 : Node} {a0 a1 a2} (h0 : Keeps s0 a0) : Keeps s0 (lvLog a0 a1 a2) := by
  unfold lvLog
  repeat' (first | with_reducible (first | assumption | intro _ | apply keep_logErr | apply keep_lvEvent | apply Keeps.ite | apply Keeps.iteFst | apply Keeps.foldl | apply Keeps.foldlFst | apply Keeps.elim) | split | with_reducible (apply Keeps.pair; assumption) | dsimp only)

theorem keep_noteReason {s0 : Node} {a0 a1 a2 a3} (h0 : Keeps s0 a0) : Keeps s0 (noteReason a0 a1 a2 a3) := by
  unfold noteReason
  repeat' (first | with_reducible (first | assumption | intro _ | apply keep_fSet | apply keep_modLv | apply keep_regSet | apply Keeps.ite | apply Keeps.iteFst | apply Keeps.foldl | apply Keeps.foldlFst | apply Keeps.elim) | split | with_reducible (apply Keeps.pair; assumption) | dsimp only)

theorem keep_noteAlert {s0 : Node} {a0} (h0 : Keeps s0 a0) : Keeps s0 (noteAlert a0) := by
  unfold noteAlert
  repeat' (first | with_reducible (first | assumption | intro _ | apply Keeps.ite | apply Keeps.iteFst | apply Keeps.foldl | apply Keeps.foldlFst | apply Keeps.elim) | split | with_reducible (apply Keeps.pair; assumption) | dsimp only | ((with_reducible apply Keeps.rcd); (on_goal 2 => rfl); (on_goal 2 => rfl)))

theorem keep_setReasons {s0 : Node} {a0} (h0 : Keeps s0 a0) : Keeps s0 (setReasons a0) := by
  unfold setReasons
  repeat' (first | with_reducible (first | assumption | intro _ | apply keep_fOr | apply keep_fSet | apply keep_lvEvent | apply keep_noteAlert | apply keep_noteReason | apply Keeps.ite | apply Keeps.iteFst | apply Keeps.foldl | apply Keeps.foldlFst | apply Keeps.elim) | split | with_reducible (apply Keeps.pair; assumption) | dsimp only)

theorem keep_settlePower {s0 : Node} {a0} (h0 : Keeps s0 a0) : Keeps s0 (settlePower a0) := by
  unfold settlePower
  repeat' (first | with_reducible (first | assumption | intro _ | apply keep_fSet | apply keep_modLv | apply keep_setReasons | apply Keeps.ite | apply Keeps.iteFst | apply Keeps.foldl | apply Keeps.foldlFst | apply Keeps.elim) | split | with_reducible (apply Keeps.pair; assumption) | dsimp only)

theorem keep_execOpMoveDone {s0 : Node} {a0 a1} (h1 : Keeps s0 a1.node) : KeepsS s0 (execOpMoveDone a0 a1) := by
  unfold execOpMoveDone
  repeat' (first | with_reducible (first | assumption | intro _ | apply keep_fSet | apply keep_onDie | apply keep_onNode | apply keep_onServed | apply KeepsO.next | apply KeepsO.fault | apply KeepsO.ite | apply Keeps.ite | apply Keeps.iteFst | apply Keeps.foldl | apply Keeps.foldlFst | apply Keeps.elim) | split | with_reducible (apply Keeps.pair; assumption) | dsimp only)

theorem keep_rampDie {s0 : Node} {a0 a1} (h0 : Keeps s0 a0) : Keeps s0 (rampDie a0 a1) := by
  unfold rampDie
  repeat' (first | with_reducible (first | assumption | intro _ | apply keep_modLv | apply Keeps.ite | apply Keeps.iteFst | apply Keeps.foldl | apply Keeps.foldlFst | apply Keeps.elim) | split | with_reducible (apply Keeps.pair; assumption) | dsimp only)

theorem keep_judgeDomain {s0 : Node} {a0 a1 a2 a3} (h0 : Keeps s0 a0) : Keeps s0 (judgeDomain a0 a1 a2 a3) := by
  unfold judgeDomain
  repeat' (first | with_reducible (first | assumption | intro _ | apply keep_lvLog | apply keep_modLv | apply Keeps.ite | apply Keeps.iteFst | apply Keeps.foldl | apply Keeps.foldlFst | apply Keeps.elim) | split | with_reducible (apply Keeps.pair; assumption) | dsimp only)

theorem keep_formEstimates {s0 : Node} {a0} (h0 : Keeps s0 a0) : Keeps s0 (formEstimates a0) := by
  unfold formEstimates
  repeat' (first | with_reducible (first | assumption | intro _ | apply keep_fSet | apply keep_modLv | apply Keeps.ite | apply Keeps.iteFst | apply Keeps.foldl | apply Keeps.foldlFst | apply Keeps.elim) | split | with_reducible (apply Keeps.pair; assumption) | dsimp only)

theorem keep_trimPower {s0 : Node} {a0 a1} (h0 : Keeps s0 a0) : Keeps s0 (trimPower a0 a1) := by
  unfold trimPower
  repeat' (first | with_reducible (first | assumption | intro _ | apply keep_modLv | apply Keeps.ite | apply Keeps.iteFst | apply Keeps.foldl | apply Keeps.foldlFst | apply Keeps.elim) | split | with_reducible (apply Keeps.pair; assumption) | dsimp only)

theorem keep_takeSample {s0 : Node} {a0 a1 a2 a3} (h0 : Keeps s0 a0) : Keeps s0 (takeSample a0 a1 a2 a3) := by
  unfold takeSample
  repeat' (first | with_reducible (first | assumption | intro _ | apply keep_fSet | apply keep_formEstimates | apply keep_judgeDomain | apply keep_modLv | apply keep_settlePower | apply keep_trimPower | apply Keeps.ite | apply Keeps.iteFst | apply Keeps.foldl | apply Keeps.foldlFst | apply Keeps.elim) | split | with_reducible (apply Keeps.pair; assumption) | dsimp only)

theorem keep_execPowerSample {s0 : Node} {a0 a1 a2 a3} (h3 : Keeps s0 a3.node) : KeepsS s0 (execPowerSample a0 a1 a2 a3) := by
  unfold execPowerSample
  repeat' (first | with_reducible (first | assumption | intro _ | apply keep_takeSample | apply keep_onNode | apply keep_onServed | apply KeepsO.next | apply KeepsO.fault | apply KeepsO.ite | apply Keeps.ite | apply Keeps.iteFst | apply Keeps.foldl | apply Keeps.foldlFst | apply Keeps.elim) | split | with_reducible (apply Keeps.pair; assumption) | dsimp only)

theorem keep_execEstimatorDiverge {s0 : Node} {a0 a1} (h1 : Keeps s0 a1.node) : KeepsS s0 (execEstimatorDiverge a0 a1) := by
  unfold execEstimatorDiverge
  repeat' (first | with_reducible (first | assumption | intro _ | apply keep_fSet | apply keep_lvLog | apply keep_modLv | apply keep_onUnit | apply keep_settlePower | apply keep_onNode | apply keep_onServed | apply KeepsO.next | apply KeepsO.fault | apply KeepsO.ite | apply Keeps.ite | apply Keeps.iteFst | apply Keeps.foldl | apply Keeps.foldlFst | apply Keeps.elim) | split | with_reducible (apply Keeps.pair; assumption) | dsimp only)

theorem keep_clearGuard {s0 : Node} {a0} (h0 : Keeps s0 a0) : Keeps s0 (clearGuard a0) := by
  unfold clearGuard
  repeat' (first | with_reducible (first | assumption | intro _ | apply keep_fSet | apply keep_formEstimates | apply keep_modLv | apply keep_settlePower | apply Keeps.ite | apply Keeps.iteFst | apply Keeps.foldl | apply Keeps.foldlFst | apply Keeps.elim) | split | with_reducible (apply Keeps.pair; assumption) | dsimp only)

theorem keep_execLvClearGuard {s0 : Node} {a0} (h0 : Keeps s0 a0.node) : KeepsS s0 (execLvClearGuard a0) := by
  unfold execLvClearGuard
  repeat' (first | with_reducible (first | assumption | intro _ | apply keep_clearGuard | apply keep_withResp | apply keep_onNode | apply keep_onServed | apply KeepsO.next | apply KeepsO.fault | apply KeepsO.ite | apply Keeps.ite | apply Keeps.iteFst | apply Keeps.foldl | apply Keeps.foldlFst | apply Keeps.elim) | split | with_reducible (apply Keeps.pair; assumption) | dsimp only)

theorem keep_clearLearned {s0 : Node} {a0} (h0 : Keeps s0 a0) : Keeps s0 (clearLearned a0) := by
  unfold clearLearned
  repeat' (first | with_reducible (first | assumption | intro _ | apply keep_fSet | apply Keeps.ite | apply Keeps.iteFst | apply Keeps.foldl | apply Keeps.foldlFst | apply Keeps.elim) | split | with_reducible (apply Keeps.pair; assumption) | dsimp only)

theorem keep_execLvClearLearned {s0 : Node} {a0} (h0 : Keeps s0 a0.node) : KeepsS s0 (execLvClearLearned a0) := by
  unfold execLvClearLearned
  repeat' (first | with_reducible (first | assumption | intro _ | apply keep_clearLearned | apply keep_withResp | apply keep_onNode | apply keep_onServed | apply KeepsO.next | apply KeepsO.fault | apply KeepsO.ite | apply Keeps.ite | apply Keeps.iteFst | apply Keeps.foldl | apply Keeps.foldlFst | apply Keeps.elim) | split | with_reducible (apply Keeps.pair; assumption) | dsimp only)

theorem keep_endFloor {s0 : Node} {a0} (h0 : Keeps s0 a0) : Keeps s0 (endFloor a0) := by
  unfold endFloor
  repeat' (first | with_reducible (first | assumption | intro _ | apply keep_modLv | apply Keeps.ite | apply Keeps.iteFst | apply Keeps.foldl | apply Keeps.foldlFst | apply Keeps.elim) | split | with_reducible (apply Keeps.pair; assumption) | dsimp only)

theorem keep_divideRound {s0 : Node} {a0 a1 a2} (h0 : Keeps s0 a0) : Keeps s0 (divideRound a0 a1 a2) := by
  unfold divideRound
  repeat' (first | with_reducible (first | assumption | intro _ | apply keep_bump | apply keep_endFloor | apply keep_fSet | apply keep_modLv | apply keep_settlePower | apply Keeps.ite | apply Keeps.iteFst | apply Keeps.foldl | apply Keeps.foldlFst | apply Keeps.elim) | split | with_reducible (apply Keeps.pair; assumption) | dsimp only)

theorem keep_execPackageLoop {s0 : Node} {a0 a1 a2} (h2 : Keeps s0 a2.node) : KeepsS s0 (execPackageLoop a0 a1 a2) := by
  unfold execPackageLoop
  repeat' (first | with_reducible (first | assumption | intro _ | apply keep_divideRound | apply keep_onNode | apply keep_onServed | apply KeepsO.next | apply KeepsO.fault | apply KeepsO.ite | apply Keeps.ite | apply Keeps.iteFst | apply Keeps.foldl | apply Keeps.foldlFst | apply Keeps.elim) | split | with_reducible (apply Keeps.pair; assumption) | dsimp only)

theorem keep_execCapBelowFloor {s0 : Node} {a0} (h0 : Keeps s0 a0.node) : KeepsS s0 (execCapBelowFloor a0) := by
  unfold execCapBelowFloor
  repeat' (first | with_reducible (first | assumption | intro _ | apply keep_lvLog | apply keep_modLv | apply keep_settlePower | apply keep_onNode | apply keep_onServed | apply KeepsO.next | apply KeepsO.fault | apply KeepsO.ite | apply Keeps.ite | apply Keeps.iteFst | apply Keeps.foldl | apply Keeps.foldlFst | apply Keeps.elim) | split | with_reducible (apply Keeps.pair; assumption) | dsimp only)

theorem keep_budgetWrite {s0 : Node} {a0 a1} (h0 : Keeps s0 a0) : Keeps s0 (budgetWrite a0 a1) := by
  unfold budgetWrite
  repeat' (first | with_reducible (first | assumption | intro _ | apply keep_dictSet | apply keep_endFloor | apply keep_lvEvent | apply keep_modLv | apply keep_settlePower | apply Keeps.ite | apply Keeps.iteFst | apply Keeps.foldl | apply Keeps.foldlFst | apply Keeps.elim) | split | with_reducible (apply Keeps.pair; assumption) | dsimp only)

theorem keep_execBudgetWrite {s0 : Node} {a0 a1} (h1 : Keeps s0 a1.node) : KeepsS s0 (execBudgetWrite a0 a1) := by
  unfold execBudgetWrite
  repeat' (first | with_reducible (first | assumption | intro _ | apply keep_budgetWrite | apply keep_withResp | apply keep_onNode | apply keep_onServed | apply KeepsO.next | apply KeepsO.fault | apply KeepsO.ite | apply Keeps.ite | apply Keeps.iteFst | apply Keeps.foldl | apply Keeps.foldlFst | apply Keeps.elim) | split | with_reducible (apply Keeps.pair; assumption) | dsimp only)

theorem keep_execBudgetExpired {s0 : Node} {a0} (h0 : Keeps s0 a0.node) : KeepsS s0 (execBudgetExpired a0) := by
  unfold execBudgetExpired
  repeat' (first | with_reducible (first | assumption | intro _ | apply keep_endFloor | apply keep_lvLog | apply keep_modLv | apply keep_settlePower | apply keep_onNode | apply keep_onServed | apply KeepsO.next | apply KeepsO.fault | apply KeepsO.ite | apply Keeps.ite | apply Keeps.iteFst | apply Keeps.foldl | apply Keeps.foldlFst | apply Keeps.elim) | split | with_reducible (apply Keeps.pair; assumption) | dsimp only)

theorem keep_execCurrentPeak {s0 : Node} {a0 a1} (h1 : Keeps s0 a1.node) : KeepsS s0 (execCurrentPeak a0 a1) := by
  unfold execCurrentPeak
  repeat' (first | with_reducible (first | assumption | intro _ | apply keep_modLv | apply keep_onBase | apply keep_settlePower | apply keep_onNode | apply keep_onServed | apply KeepsO.next | apply KeepsO.fault | apply KeepsO.ite | apply Keeps.ite | apply Keeps.iteFst | apply Keeps.foldl | apply Keeps.foldlFst | apply Keeps.elim) | split | with_reducible (apply Keeps.pair; assumption) | dsimp only)

theorem keep_execCurrentPeakRelease {s0 : Node} {a0 a1} (h1 : Keeps s0 a1.node) : KeepsS s0 (execCurrentPeakRelease a0 a1) := by
  unfold execCurrentPeakRelease
  repeat' (first | with_reducible (first | assumption | intro _ | apply keep_modLv | apply keep_onBase | apply keep_settlePower | apply keep_onNode | apply keep_onServed | apply KeepsO.next | apply KeepsO.fault | apply KeepsO.ite | apply Keeps.ite | apply Keeps.iteFst | apply Keeps.foldl | apply Keeps.foldlFst | apply Keeps.elim) | split | with_reducible (apply Keeps.pair; assumption) | dsimp only)

theorem keep_execDroopDetect {s0 : Node} {a0 a1} (h1 : Keeps s0 a1.node) : KeepsS s0 (execDroopDetect a0 a1) := by
  unfold execDroopDetect
  repeat' (first | with_reducible (first | assumption | intro _ | apply keep_cntAdd | apply keep_modLv | apply keep_onDie | apply keep_setReasons | apply keep_onNode | apply keep_onServed | apply KeepsO.next | apply KeepsO.fault | apply KeepsO.ite | apply Keeps.ite | apply Keeps.iteFst | apply Keeps.foldl | apply Keeps.foldlFst | apply Keeps.elim) | split | with_reducible (apply Keeps.pair; assumption) | dsimp only)

theorem keep_execDroopRelease {s0 : Node} {a0 a1} (h1 : Keeps s0 a1.node) : KeepsS s0 (execDroopRelease a0 a1) := by
  unfold execDroopRelease
  repeat' (first | with_reducible (first | assumption | intro _ | apply keep_modLv | apply keep_onDie | apply keep_setReasons | apply keep_onNode | apply keep_onServed | apply KeepsO.next | apply KeepsO.fault | apply KeepsO.ite | apply Keeps.ite | apply Keeps.iteFst | apply Keeps.foldl | apply Keeps.foldlFst | apply Keeps.elim) | split | with_reducible (apply Keeps.pair; assumption) | dsimp only)

theorem keep_dropTrial {s0 : Node} {a0} (h0 : Keeps s0 a0) : Keeps s0 (dropTrial a0) := by
  unfold dropTrial
  repeat' (first | with_reducible (first | assumption | intro _ | apply keep_fSet | apply keep_modLv | apply Keeps.ite | apply Keeps.iteFst | apply Keeps.foldl | apply Keeps.foldlFst | apply Keeps.elim) | split | with_reducible (apply Keeps.pair; assumption) | dsimp only)

theorem keep_enterPhase {s0 : Node} {a0 a1} (h0 : Keeps s0 a0) : Keeps s0 (enterPhase a0 a1) := by
  unfold enterPhase
  repeat' (first | with_reducible (first | assumption | intro _ | apply keep_dropTrial | apply keep_fSet | apply Keeps.ite | apply Keeps.iteFst | apply Keeps.foldl | apply Keeps.foldlFst | apply Keeps.elim) | split | with_reducible (apply Keeps.pair; assumption) | dsimp only)

theorem keep_touchSig {s0 : Node} {a0 a1} (h0 : Keeps s0 a0) : Keeps s0 (touchSig a0 a1) := by
  unfold touchSig
  repeat' (first | with_reducible (first | assumption | intro _ | apply keep_modLv | apply Keeps.ite | apply Keeps.iteFst | apply Keeps.foldl | apply Keeps.foldlFst | apply Keeps.elim) | split | with_reducible (apply Keeps.pair; assumption) | dsimp only)

theorem keep_execPhaseClassify_learn {s0 : Node} {a0 a1 a2 a3} (h0 : Keeps s0 a0) : Keeps s0 (execPhaseClassify.learn a0 a1 a2 a3) := by
  unfold execPhaseClassify.learn
  repeat' (first | with_reducible (first | assumption | intro _ | apply keep_cntAdd | apply keep_dropTrial | apply keep_enterPhase | apply keep_fSet | apply keep_modLv | apply keep_regSet | apply keep_touchSig | apply Keeps.ite | apply Keeps.iteFst | apply Keeps.foldl | apply Keeps.foldlFst | apply Keeps.elim) | split | with_reducible (apply Keeps.pair; assumption) | dsimp only)

theorem keep_execPhaseClassify {s0 : Node} {a0 a1} (h1 : Keeps s0 a1.node) : KeepsS s0 (execPhaseClassify a0 a1) := by
  unfold execPhaseClassify
  repeat' (first | with_reducible (first | assumption | intro _ | apply keep_cntAdd | apply keep_dropTrial | apply keep_enterPhase | apply keep_execPhaseClassify_learn | apply keep_fSet | apply keep_modLv | apply keep_regSet | apply keep_touchSig | apply keep_onNode | apply keep_onServed | apply KeepsO.next | apply KeepsO.fault | apply KeepsO.ite | apply Keeps.ite | apply Keeps.iteFst | apply Keeps.foldl | apply Keeps.foldlFst | apply Keeps.elim) | split | with_reducible (apply Keeps.pair; assumption) | dsimp only)

theorem keep_execShareLearn {s0 : Node} {a0 a1} (h1 : Keeps s0 a1.node) : KeepsS s0 (execShareLearn a0 a1) := by
  unfold execShareLearn
  repeat' (first | with_reducible (first | assumption | intro _ | apply keep_bump | apply keep_dropTrial | apply keep_fSet | apply keep_modLv | apply keep_onNode | apply keep_onServed | apply KeepsO.next | apply KeepsO.fault | apply KeepsO.ite | apply Keeps.ite | apply Keeps.iteFst | apply Keeps.foldl | apply Keeps.foldlFst | apply Keeps.elim) | split | with_reducible (apply Keeps.pair; assumption) | dsimp only)

theorem keep_forcePhase {s0 : Node} {a0 a1} (h0 : Keeps s0 a0) : Keeps s0 (forcePhase a0 a1) := by
  unfold forcePhase
  repeat' (first | with_reducible (first | assumption | intro _ | apply keep_cntAdd | apply keep_enterPhase | apply keep_fSet | apply keep_modLv | apply Keeps.ite | apply Keeps.iteFst | apply Keeps.foldl | apply Keeps.foldlFst | apply Keeps.elim) | split | with_reducible (apply Keeps.pair; assumption) | dsimp only)

theorem keep_throttleRecord_note {s0 : Node} {a0 a1} (h1 : Keeps s0 a1) : Keeps s0 (throttleRecord.note a0 a1) := by
  unfold throttleRecord.note
  repeat' (first | with_reducible (first | assumption | intro _ | apply keep_logErr | apply keep_lvEvent | apply keep_modLv | apply Keeps.ite | apply Keeps.iteFst | apply Keeps.foldl | apply Keeps.foldlFst | apply Keeps.elim) | split | with_reducible (apply Keeps.pair; assumption) | dsimp only)

theorem keep_throttleRecord {s0 : Node} {a0 a1} (h0 : Keeps s0 a0) : Keeps s0 (throttleRecord a0 a1) := by
  unfold throttleRecord
  repeat' (first | with_reducible (first | assumption | intro _ | apply keep_logErr | apply keep_lvEvent | apply keep_modLv | apply keep_throttleRecord_note | apply Keeps.ite | apply Keeps.iteFst | apply Keeps.foldl | apply Keeps.foldlFst | apply Keeps.elim) | split | with_reducible (apply Keeps.pair; assumption) | dsimp only)

theorem keep_coolDie {s0 : Node} {a0 a1} (h0 : Keeps s0 a0) : Keeps s0 (coolDie a0 a1) := by
  unfold coolDie
  repeat' (first | with_reducible (first | assumption | intro _ | apply keep_modLv | apply keep_throttleRecord | apply Keeps.ite | apply Keeps.iteFst | apply Keeps.foldl | apply Keeps.foldlFst | apply Keeps.elim) | split | with_reducible (apply Keeps.pair; assumption) | dsimp only)

theorem keep_coolDram {s0 : Node} {a0 a1} (h0 : Keeps s0 a0) : Keeps s0 (coolDram a0 a1) := by
  unfold coolDram
  repeat' (first | with_reducible (first | assumption | intro _ | apply keep_modLv | apply keep_throttleRecord | apply Keeps.ite | apply Keeps.iteFst | apply Keeps.foldl | apply Keeps.foldlFst | apply Keeps.elim) | split | with_reducible (apply Keeps.pair; assumption) | dsimp only)

theorem keep_execThermalRead {s0 : Node} {a0 a1 a2 a3 a4} (h4 : Keeps s0 a4.node) : KeepsS s0 (execThermalRead a0 a1 a2 a3 a4) := by
  unfold execThermalRead
  repeat' (first | with_reducible (first | assumption | intro _ | apply keep_coolDie | apply keep_coolDram | apply keep_fSet | apply keep_modLv | apply keep_onUnit | apply keep_settlePower | apply keep_onNode | apply keep_onServed | apply KeepsO.next | apply KeepsO.fault | apply KeepsO.ite | apply Keeps.ite | apply Keeps.iteFst | apply Keeps.foldl | apply Keeps.foldlFst | apply Keeps.elim) | split | with_reducible (apply Keeps.pair; assumption) | dsimp only)

theorem keep_execThermalFault {s0 : Node} {a0 a1} (h1 : Keeps s0 a1.node) : KeepsS s0 (execThermalFault a0 a1) := by
  unfold execThermalFault
  repeat' (first | with_reducible (first | assumption | intro _ | apply keep_askFence | apply keep_onUnit | apply keep_onNode | apply keep_onServed | apply KeepsO.next | apply KeepsO.fault | apply KeepsO.ite | apply Keeps.ite | apply Keeps.iteFst | apply Keeps.foldl | apply Keeps.foldlFst | apply Keeps.elim) | split | with_reducible (apply Keeps.pair; assumption) | dsimp only | ((with_reducible apply Keeps.rcd); (on_goal 2 => rfl); (on_goal 2 => rfl)))

theorem keep_execThermtrip {s0 : Node} {a0 a1} (h1 : Keeps s0 a1.node) : KeepsS s0 (execThermtrip a0 a1) := by
  unfold execThermtrip
  repeat' (first | with_reducible (first | assumption | intro _ | apply keep_onUnit | apply keep_stopNode | apply keep_onNode | apply keep_onServed | apply KeepsO.next | apply KeepsO.fault | apply KeepsO.ite | apply Keeps.ite | apply Keeps.iteFst | apply Keeps.foldl | apply Keeps.foldlFst | apply Keeps.elim) | split | with_reducible (apply Keeps.pair; assumption) | dsimp only)

theorem keep_execPwrbrkAssert {s0 : Node} {a0} (h0 : Keeps s0 a0.node) : KeepsS s0 (execPwrbrkAssert a0) := by
  unfold execPwrbrkAssert
  repeat' (first | with_reducible (first | assumption | intro _ | apply keep_modLv | apply keep_settlePower | apply keep_onNode | apply keep_onServed | apply KeepsO.next | apply KeepsO.fault | apply KeepsO.ite | apply Keeps.ite | apply Keeps.iteFst | apply Keeps.foldl | apply Keeps.foldlFst | apply Keeps.elim) | split | with_reducible (apply Keeps.pair; assumption) | dsimp only)

theorem keep_execPwrbrkRelease {s0 : Node} {a0} (h0 : Keeps s0 a0.node) : KeepsS s0 (execPwrbrkRelease a0) := by
  unfold execPwrbrkRelease
  repeat' (first | with_reducible (first | assumption | intro _ | apply keep_modLv | apply keep_settlePower | apply keep_onNode | apply keep_onServed | apply KeepsO.next | apply KeepsO.fault | apply KeepsO.ite | apply Keeps.ite | apply Keeps.iteFst | apply Keeps.foldl | apply Keeps.foldlFst | apply Keeps.elim) | split | with_reducible (apply Keeps.pair; assumption) | dsimp only)

theorem keep_execBrakeStuck {s0 : Node} {a0} (h0 : Keeps s0 a0.node) : KeepsS s0 (execBrakeStuck a0) := by
  unfold execBrakeStuck
  repeat' (first | with_reducible (first | assumption | intro _ | apply keep_lvLog | apply keep_modLv | apply keep_noteAlert | apply keep_onNode | apply keep_onServed | apply KeepsO.next | apply KeepsO.fault | apply KeepsO.ite | apply Keeps.ite | apply Keeps.iteFst | apply Keeps.foldl | apply Keeps.foldlFst | apply Keeps.elim) | split | with_reducible (apply Keeps.pair; assumption) | dsimp only)

theorem keep_setSec {s0 : Node} {a0 a1 a2} (h0 : Keeps s0 a0) : Keeps s0 (setSec a0 a1 a2) := by
  unfold setSec
  repeat' (first | with_reducible (first | assumption | intro _ | apply keep_fSet | apply Keeps.ite | apply Keeps.iteFst | apply Keeps.foldl | apply Keeps.foldlFst | apply Keeps.elim) | split | with_reducible (apply Keeps.pair; assumption) | dsimp only)

theorem keep_lifeLog {s0 : Node} {a0 a1 a2} (h0 : Keeps s0 a0) : Keeps s0 (lifeLog a0 a1 a2) := by
  unfold lifeLog
  repeat' (first | with_reducible (first | assumption | intro _ | apply keep_logErr | apply Keeps.ite | apply Keeps.iteFst | apply Keeps.foldl | apply Keeps.foldlFst | apply Keeps.elim) | split | with_reducible (apply Keeps.pair; assumption) | dsimp only)

theorem keep_alertAck {s0 : Node} {a0 a1} (h0 : Keeps s0 a0) : Keeps s0 (alertAck a0 a1) := by
  unfold alertAck
  repeat' (first | with_reducible (first | assumption | intro _ | apply keep_noteAlert | apply Keeps.ite | apply Keeps.iteFst | apply Keeps.foldl | apply Keeps.foldlFst | apply Keeps.elim) | split | with_reducible (apply Keeps.pair; assumption) | dsimp only | ((with_reducible apply Keeps.rcd); (on_goal 2 => rfl); (on_goal 2 => rfl)))

theorem keep_setReady {s0 : Node} {a0 a1} (h0 : Keeps s0 a0) : Keeps s0 (setReady a0 a1) := by
  unfold setReady
  repeat' (first | with_reducible (first | assumption | intro _ | apply keep_modLife | apply keep_sendOut | apply Keeps.ite | apply Keeps.iteFst | apply Keeps.foldl | apply Keeps.foldlFst | apply Keeps.elim) | split | with_reducible (apply Keeps.pair; assumption) | dsimp only)

theorem keep_extend {s0 : Node} {a0 a1 a2} (h0 : Keeps s0 a0) : Keeps s0 (extend a0 a1 a2) := by
  unfold extend
  repeat' (first | with_reducible (first | assumption | intro _ | apply keep_modLife | apply Keeps.ite | apply Keeps.iteFst | apply Keeps.foldl | apply Keeps.foldlFst | apply Keeps.elim) | split | with_reducible (apply Keeps.pair; assumption) | dsimp only)

theorem keep_secExtend {s0 : Node} {a0 a1 a2} (h0 : Keeps s0 a0) : Keeps s0 (secExtend a0 a1 a2) := by
  unfold secExtend
  repeat' (first | with_reducible (first | assumption | intro _ | apply keep_agentTouch | apply keep_extend | apply keep_fSet | apply keep_poisonAgent | apply Keeps.ite | apply Keeps.iteFst | apply Keeps.foldl | apply Keeps.foldlFst | apply Keeps.elim) | split | with_reducible (apply Keeps.pair; assumption) | dsimp only)

theorem keep_nonceWrite {s0 : Node} {a0 a1} (h0 : Keeps s0 a0) : Keeps s0 (nonceWrite a0 a1) := by
  unfold nonceWrite
  repeat' (first | with_reducible (first | assumption | intro _ | apply keep_modLife | apply Keeps.ite | apply Keeps.iteFst | apply Keeps.foldl | apply Keeps.foldlFst | apply Keeps.elim) | split | with_reducible (apply Keeps.pair; assumption) | dsimp only)

theorem keep_drawNonce {s0 : Node} {a0} (h0 : Keeps s0 a0) : Keeps s0 (drawNonce a0) := by
  unfold drawNonce
  repeat' (first | with_reducible (first | assumption | intro _ | apply keep_bump | apply keep_modLife | apply Keeps.ite | apply Keeps.iteFst | apply Keeps.foldl | apply Keeps.foldlFst | apply Keeps.elim) | split | with_reducible (apply Keeps.pair; assumption) | dsimp only)

theorem keep_refuseLife {s0 : Node} {a0} (h0 : Keeps s0 a0) : Keeps s0 (refuseLife a0).1 := by
  unfold refuseLife
  repeat' (first | with_reducible (first | assumption | intro _ | apply keep_lifeLog | apply Keeps.ite | apply Keeps.iteFst | apply Keeps.foldl | apply Keeps.foldlFst | apply Keeps.elim) | split | with_reducible (apply Keeps.pair; assumption) | dsimp only)

theorem keep_lcsToken {s0 s : Node} {t} (h : Keeps s0 s) : Keeps s0 (lcsToken s t).1 := by
  have hd : (drawNonce s).ctl.life.fuses = s.ctl.life.fuses := rfl
  unfold lcsToken
  dsimp only
  split
  · rename_i hc
    have hle : s.ctl.life.fuses.lcs ≤ descField t 0 1 := by
      have := hc.2.1
      unfold transitionMay at this
      dsimp only at this
      have hl : lcs s = s.ctl.life.fuses.lcs := rfl
      split at this
      · omega
      · omega
      · omega
      · rename_i h4 _
        rw [Bool.and_eq_true, decide_eq_true_eq] at this
        omega
      · cases this
    refine keep_warmReset ((keep_bump (keep_drawNonce h)).burn ?_)
    rw [Fuses.kept_iff]
    dsimp only
    split
    · exact ⟨bitsKept_refl _, bitsKept_refl _, bitsKept_refl _, bitsKept_refl _, List.prefix_refl _, hle⟩
    · exact ⟨bitsKept_refl _, bitsKept_refl _, bitsKept_refl _, bitsKept_refl _, List.prefix_refl _, hle⟩
  · exact keep_refuseLife (keep_drawNonce h)

theorem keep_debugToken {s0 : Node} {a0 a1} (h0 : Keeps s0 a0) : Keeps s0 (debugToken a0 a1).1 := by
  unfold debugToken
  repeat' (first | with_reducible (first | assumption | intro _ | apply keep_drawNonce | apply keep_modLife | apply keep_refuseLife | apply Keeps.ite | apply Keeps.iteFst | apply Keeps.foldl | apply Keeps.foldlFst | apply Keeps.elim) | split | with_reducible (apply Keeps.pair; assumption) | dsimp only)

theorem keep_ownerKey {s0 s : Node} {l} (h : Keeps s0 s) : Keeps s0 (ownerKey s l).1 := by
  unfold ownerKey
  dsimp only
  split
  · dsimp only
    refine h.burn ?_
    rw [Fuses.kept_iff]
    exact ⟨bitsKept_refl _, bitsKept_refl _, bitsKept_refl _, bitsKept_refl _, List.prefix_append _ _, le_refl _⟩
  · exact keep_refuseLife h

theorem keep_revoke {s0 s : Node} {v} (h : Keeps s0 s) : Keeps s0 (revoke s v).1 := by
  unfold revoke
  dsimp only
  split
  · exact keep_refuseLife h
  · dsimp only
    refine h.burn ?_
    rw [Fuses.kept_iff]
    dsimp only
    split
    · exact ⟨bitsKept_refl _, bitsKept_refl _, bitsKept_refl _, bitsKept_or _ _, List.prefix_refl _, le_refl _⟩
    · exact ⟨bitsKept_refl _, bitsKept_refl _, bitsKept_or _ _, bitsKept_refl _, List.prefix_refl _, le_refl _⟩

theorem keep_svnCommit {s0 s : Node} {v} (h : Keeps s0 s) : Keeps s0 (svnCommit s v).1 := by
  unfold svnCommit
  dsimp only
  split
  · exact keep_refuseLife h
  · dsimp only
    refine h.burn ?_
    rw [Fuses.kept_iff]
    dsimp only
    split
    · exact ⟨bitsKept_or _ _, bitsKept_refl _, bitsKept_refl _, bitsKept_refl _, List.prefix_refl _, le_refl _⟩
    · exact ⟨bitsKept_refl _, bitsKept_or _ _, bitsKept_refl _, bitsKept_refl _, List.prefix_refl _, le_refl _⟩

theorem keep_enterHold {s0 : Node} {a0 a1} (h0 : Keeps s0 a0) : Keeps s0 (enterHold a0 a1) := by
  unfold enterHold
  repeat' (first | with_reducible (first | assumption | intro _ | apply keep_modLife | apply keep_setReady | apply Keeps.ite | apply Keeps.iteFst | apply Keeps.foldl | apply Keeps.foldlFst | apply Keeps.elim) | split | with_reducible (apply Keeps.pair; assumption) | dsimp only)

theorem keep_measureBoot {s0 : Node} {a0 a1} (h0 : Keeps s0 a0) : Keeps s0 (measureBoot a0 a1) := by
  unfold measureBoot
  repeat' (first | with_reducible (first | assumption | intro _ | apply keep_extend | apply keep_modLife | apply Keeps.ite | apply Keeps.iteFst | apply Keeps.foldl | apply Keeps.foldlFst | apply Keeps.elim) | split | with_reducible (apply Keeps.pair; assumption) | dsimp only)

theorem keep_startFirmware {s0 : Node} {a0 a1 a2 a3} (h0 : Keeps s0 a0) : Keeps s0 (startFirmware a0 a1 a2 a3) := by
  unfold startFirmware
  repeat' (first | with_reducible (first | assumption | intro _ | apply keep_measureBoot | apply keep_modLife | apply keep_setSec | apply Keeps.ite | apply Keeps.iteFst | apply Keeps.foldl | apply Keeps.foldlFst | apply Keeps.elim) | split | with_reducible (apply Keeps.pair; assumption) | dsimp only)

theorem keep_startHost {s0 : Node} {a0 a1 a2} (h0 : Keeps s0 a0) : Keeps s0 (startHost a0 a1 a2) := by
  unfold startHost
  repeat' (first | with_reducible (first | assumption | intro _ | apply keep_extend | apply keep_modCore | apply keep_modLife | apply keep_setSec | apply keep_writeBytes | apply Keeps.ite | apply Keeps.iteFst | apply Keeps.foldl | apply Keeps.foldlFst | apply Keeps.elim) | split | with_reducible (apply Keeps.pair; assumption) | dsimp only)

theorem keep_seekHost {s0 : Node} {a0} (h0 : Keeps s0 a0) : Keeps s0 (seekHost a0) := by
  unfold seekHost
  repeat' (first | with_reducible (first | assumption | intro _ | apply keep_modLife | apply keep_startHost | apply Keeps.ite | apply Keeps.iteFst | apply Keeps.foldl | apply Keeps.foldlFst | apply Keeps.elim) | split | with_reducible (apply Keeps.pair; assumption) | dsimp only)

theorem keep_bootFails {s0 : Node} {a0 a1} (h0 : Keeps s0 a0) : Keeps s0 (bootFails a0 a1) := by
  unfold bootFails
  repeat' (first | with_reducible (first | assumption | intro _ | apply keep_enterHold | apply keep_lifeLog | apply keep_measureBoot | apply Keeps.ite | apply Keeps.iteFst | apply Keeps.foldl | apply Keeps.foldlFst | apply Keeps.elim) | split | with_reducible (apply Keeps.pair; assumption) | dsimp only)

theorem keep_seekFirmware {s0 : Node} {a0 a1} (h0 : Keeps s0 a0) : Keeps s0 (seekFirmware a0 a1) := by
  unfold seekFirmware
  repeat' (first | with_reducible (first | assumption | intro _ | apply keep_bootFails | apply keep_modLife | apply keep_startFirmware | apply Keeps.ite | apply Keeps.iteFst | apply Keeps.foldl | apply Keeps.foldlFst | apply Keeps.elim) | split | with_reducible (apply Keeps.pair; assumption) | dsimp only)

theorem keep_release {s0 s : Node} {f} (h : Keeps s0 s) : Keeps s0 (release s f) := by
  have hd : ∀ t b, Keeps s0 t → Keeps s0 (measureBoot (enterHold t b) none) := fun t b ht => keep_measureBoot (keep_enterHold ht)
  unfold release
  extract_lets sel l alive debug s1 s2 s3 fence second dark
  have h1 : Keeps s0 s1 := keep_modLife h rfl
  have h2 : Keeps s0 s2 := keep_setSec (keep_setSec (keep_setSec (keep_setSec h1)))
  have h3 : Keeps s0 s3 := keep_fSet (keep_fSet h2)
  split
  · exact hd _ _ (keep_lifeLog h3)
  · split
    · exact hd _ _ h3
    · split
      · exact hd _ _ h3
      · exact keep_seekFirmware h3

theorem keep_bootChunk {s0 : Node} {a0 a1 a2} (h0 : Keeps s0 a0) : Keeps s0 (bootChunk a0 a1 a2).1 := by
  unfold bootChunk
  repeat' (first | with_reducible (first | assumption | intro _ | apply keep_modLife | apply Keeps.ite | apply Keeps.iteFst | apply Keeps.foldl | apply Keeps.foldlFst | apply Keeps.elim) | split | with_reducible (apply Keeps.pair; assumption) | dsimp only)

theorem keep_bootGo {s0 : Node} {a0 a1} (h0 : Keeps s0 a0) : Keeps s0 (bootGo a0 a1).1 := by
  unfold bootGo
  repeat' (first | with_reducible (first | assumption | intro _ | apply keep_bootFails | apply keep_modLife | apply keep_startFirmware | apply keep_startHost | apply Keeps.ite | apply Keeps.iteFst | apply Keeps.foldl | apply Keeps.foldlFst | apply Keeps.elim) | split | with_reducible (apply Keeps.pair; assumption) | dsimp only)

theorem keep_testEnter {s0 : Node} {a0} (h0 : Keeps s0 a0) : Keeps s0 (testEnter a0).1 := by
  unfold testEnter
  repeat' (first | with_reducible (first | assumption | intro _ | apply keep_bump | apply keep_dictSetNat | apply keep_enableWrite | apply keep_modTest | apply keep_portEnable | apply keep_setReady | apply Keeps.ite | apply Keeps.iteFst | apply Keeps.foldl | apply Keeps.foldlFst | apply Keeps.elim) | split | with_reducible (apply Keeps.pair; assumption) | dsimp only)

theorem keep_testExit {s0 : Node} {a0} (h0 : Keeps s0 a0) : Keeps s0 (testExit a0) := by
  unfold testExit
  repeat' (first | with_reducible (first | assumption | intro _ | apply keep_warmReset | apply Keeps.ite | apply Keeps.iteFst | apply Keeps.foldl | apply Keeps.foldlFst | apply Keeps.elim) | split | with_reducible (apply Keeps.pair; assumption) | dsimp only)

theorem keep_setLatch {s0 : Node} {a0 a1} (h0 : Keeps s0 a0) : Keeps s0 (setLatch a0 a1) := by
  unfold setLatch
  repeat' (first | with_reducible (first | assumption | intro _ | apply keep_dictSetNat | apply Keeps.ite | apply Keeps.iteFst | apply Keeps.foldl | apply Keeps.foldlFst | apply Keeps.elim) | split | with_reducible (apply Keeps.pair; assumption) | dsimp only)

theorem keep_stageValue {s0 : Node} {a0 a1 a2} (h0 : Keeps s0 a0) : Keeps s0 (stageValue a0 a1 a2) := by
  unfold stageValue
  repeat' (first | with_reducible (first | assumption | intro _ | apply keep_modCorud | apply keep_setLatch | apply Keeps.ite | apply Keeps.iteFst | apply Keeps.foldl | apply Keeps.foldlFst | apply Keeps.elim) | split | with_reducible (apply Keeps.pair; assumption) | dsimp only)

theorem keep_latchReject {s0 : Node} {a0 a1} (h0 : Keeps s0 a0) : Keeps s0 (latchReject a0 a1) := by
  unfold latchReject
  repeat' (first | with_reducible (first | assumption | intro _ | apply keep_dictSetNat | apply keep_logErr | apply Keeps.ite | apply Keeps.iteFst | apply Keeps.foldl | apply Keeps.foldlFst | apply Keeps.elim) | split | with_reducible (apply Keeps.pair; assumption) | dsimp only)

theorem keep_latchCheck {s0 : Node} {a0} (h0 : Keeps s0 a0) : Keeps s0 (latchCheck a0) := by
  unfold latchCheck
  repeat' (first | with_reducible (first | assumption | intro _ | apply keep_dictSetNat | apply keep_latchReject | apply keep_setLatch | apply Keeps.ite | apply Keeps.iteFst | apply Keeps.foldl | apply Keeps.foldlFst | apply Keeps.elim) | split | with_reducible (apply Keeps.pair; assumption) | dsimp only)

theorem keep_latchTrigger {s0 : Node} {a0} (h0 : Keeps s0 a0) : Keeps s0 (latchTrigger a0) := by
  unfold latchTrigger
  repeat' (first | with_reducible (first | assumption | intro _ | apply keep_modCorud | apply keep_setLatch | apply Keeps.ite | apply Keeps.iteFst | apply Keeps.foldl | apply Keeps.foldlFst | apply Keeps.elim) | split | with_reducible (apply Keeps.pair; assumption) | dsimp only)

theorem keep_latchCommitNow {s0 : Node} {a0} (h0 : Keeps s0 a0) : Keeps s0 (latchCommitNow a0) := by
  unfold latchCommitNow
  repeat' (first | with_reducible (first | assumption | intro _ | apply keep_dictSetNat | apply keep_latchReject | apply keep_latchTrigger | apply Keeps.ite | apply Keeps.iteFst | apply Keeps.foldl | apply Keeps.foldlFst | apply Keeps.elim) | split | with_reducible (apply Keeps.pair; assumption) | dsimp only)

theorem keep_latchDiscard {s0 : Node} {a0} (h0 : Keeps s0 a0) : Keeps s0 (latchDiscard a0) := by
  unfold latchDiscard
  repeat' (first | with_reducible (first | assumption | intro _ | apply keep_dictSetNat | apply keep_modCorud | apply keep_setLatch | apply Keeps.ite | apply Keeps.iteFst | apply Keeps.foldl | apply Keeps.foldlFst | apply Keeps.elim) | split | with_reducible (apply Keeps.pair; assumption) | dsimp only)

theorem keep_latchFire {s0 : Node} {a0 a1} (h0 : Keeps s0 a0) : Keeps s0 (latchFire a0 a1) := by
  unfold latchFire
  repeat' (first | with_reducible (first | assumption | intro _ | apply keep_latchReject | apply keep_latchTrigger | apply Keeps.ite | apply Keeps.iteFst | apply Keeps.foldl | apply Keeps.foldlFst | apply Keeps.elim) | split | with_reducible (apply Keeps.pair; assumption) | dsimp only)

theorem keep_commitAt {s0 : Node} {a0 a1} (h0 : Keeps s0 a0) : Keeps s0 (commitAt a0 a1) := by
  unfold commitAt
  repeat' (first | with_reducible (first | assumption | intro _ | apply keep_modTime | apply keep_regSet | apply Keeps.ite | apply Keeps.iteFst | apply Keeps.foldl | apply Keeps.foldlFst | apply Keeps.elim) | split | with_reducible (apply Keeps.pair; assumption) | dsimp only)

theorem keep_putMasks {s0 : Node} {a0 a1 a2 a3} (h0 : Keeps s0 a0) : Keeps s0 (putMasks a0 a1 a2 a3) := by
  unfold putMasks
  repeat' (first | with_reducible (first | assumption | intro _ | apply keep_regSet | apply Keeps.ite | apply Keeps.iteFst | apply Keeps.foldl | apply Keeps.foldlFst | apply Keeps.elim) | split | with_reducible (apply Keeps.pair; assumption) | dsimp only)

theorem keep_commitRegs {s0 : Node} {a0 a1 a2} (h0 : Keeps s0 a0) : Keeps s0 (commitRegs a0 a1 a2) := by
  unfold commitRegs
  repeat' (first | with_reducible (first | assumption | intro _ | apply keep_fSet | apply keep_putMasks | apply Keeps.ite | apply Keeps.iteFst | apply Keeps.foldl | apply Keeps.foldlFst | apply Keeps.elim) | split | with_reducible (apply Keeps.pair; assumption) | dsimp only)

theorem keep_applySet {s0 : Node} {a0} (h0 : Keeps s0 a0) : Keeps s0 (applySet a0) := by
  unfold applySet
  repeat' (first | with_reducible (first | assumption | intro _ | apply keep_commitRegs | apply keep_dictSet | apply keep_dictSetNat | apply keep_epochChanged | apply keep_mirrorNamed | apply keep_modCorud | apply keep_setLatch | apply keep_shgAbandon | apply Keeps.ite | apply Keeps.iteFst | apply Keeps.foldl | apply Keeps.foldlFst | apply Keeps.elim) | split | with_reducible (apply Keeps.pair; assumption) | dsimp only)

theorem keep_latchApply {s0 : Node} {a0} (h0 : Keeps s0 a0) : Keeps s0 (latchApply a0) := by
  unfold latchApply
  repeat' (first | with_reducible (first | assumption | intro _ | apply keep_applySet | apply keep_latchReject | apply keep_modCorud | apply keep_setLatch | apply Keeps.ite | apply Keeps.iteFst | apply Keeps.foldl | apply Keeps.foldlFst | apply Keeps.elim) | split | with_reducible (apply Keeps.pair; assumption) | dsimp only)

theorem keep_sendUnit {s0 : Node} {a0 a1 a2} (h0 : Keeps s0 a0) : Keeps s0 (sendUnit a0 a1 a2) := by
  unfold sendUnit
  repeat' (first | with_reducible (first | assumption | intro _ | apply keep_modCorud | apply keep_sendFrame | apply keep_sendOut | apply Keeps.ite | apply Keeps.iteFst | apply Keeps.foldl | apply Keeps.foldlFst | apply Keeps.elim) | split | with_reducible (apply Keeps.pair; assumption) | dsimp only)

theorem keep_keepUnit {s0 : Node} {a0 a1 a2 a3} (h0 : Keeps s0 a0) : Keeps s0 (keepUnit a0 a1 a2 a3) := by
  unfold keepUnit
  repeat' (first | with_reducible (first | assumption | intro _ | apply keep_modCorud | apply Keeps.ite | apply Keeps.iteFst | apply Keeps.foldl | apply Keeps.foldlFst | apply Keeps.elim) | split | with_reducible (apply Keeps.pair; assumption) | dsimp only)

theorem keep_reply {s0 : Node} {a0 a1 a2 a3} (h0 : Keeps s0 a0) : Keeps s0 (reply a0 a1 a2 a3) := by
  unfold reply
  repeat' (first | with_reducible (first | assumption | intro _ | apply keep_keepUnit | apply keep_sendUnit | apply Keeps.ite | apply Keeps.iteFst | apply Keeps.foldl | apply Keeps.foldlFst | apply Keeps.elim) | split | with_reducible (apply Keeps.pair; assumption) | dsimp only)

theorem keep_replyBusy {s0 : Node} {a0 a1 a2} (h0 : Keeps s0 a0) : Keeps s0 (replyBusy a0 a1 a2) := by
  unfold replyBusy
  repeat' (first | with_reducible (first | assumption | intro _ | apply keep_bump | apply keep_sendUnit | apply Keeps.ite | apply Keeps.iteFst | apply Keeps.foldl | apply Keeps.foldlFst | apply Keeps.elim) | split | with_reducible (apply Keeps.pair; assumption) | dsimp only)

theorem keep_entryTakes {s0 : Node} {a0 a1 a2 a3} (h0 : Keeps s0 a0) : Keeps s0 (entryTakes a0 a1 a2 a3) := by
  unfold entryTakes
  repeat' (first | with_reducible (first | assumption | intro _ | apply keep_endFloor | apply keep_fSet | apply keep_loadSigs | apply keep_modTime | apply keep_setPps | apply keep_settlePower | apply Keeps.ite | apply Keeps.iteFst | apply Keeps.foldl | apply Keeps.foldlFst | apply Keeps.elim) | split | with_reducible (apply Keeps.pair; assumption) | dsimp only)

theorem keep_latchCmd {s0 : Node} {a0 a1} (h0 : Keeps s0 a0) : Keeps s0 (latchCmd a0 a1) := by
  unfold latchCmd
  repeat' (first | with_reducible (first | assumption | intro _ | apply keep_latchCheck | apply keep_latchCommitNow | apply keep_latchDiscard | apply Keeps.ite | apply Keeps.iteFst | apply Keeps.foldl | apply Keeps.foldlFst | apply Keeps.elim) | split | with_reducible (apply Keeps.pair; assumption) | dsimp only)

theorem keep_resetCmd {s0 : Node} {a0 a1} (h0 : Keeps s0 a0) : Keeps s0 (resetCmd a0 a1).1 := by
  unfold resetCmd
  repeat' (first | with_reducible (first | assumption | intro _ | apply keep_jobWipe | apply keep_softwareReset | apply Keeps.ite | apply Keeps.iteFst | apply Keeps.foldl | apply Keeps.foldlFst | apply Keeps.elim) | split | with_reducible (apply Keeps.pair; assumption) | dsimp only)

theorem keep_applyEntry {s0 : Node} {a0 a1 a2 a3} (h0 : Keeps s0 a0) : Keeps s0 (applyEntry a0 a1 a2 a3).1 := by
  unfold applyEntry
  repeat' (first | with_reducible (first | assumption | intro _ | apply keep_alertAck | apply keep_bootChunk | apply keep_bootGo | apply keep_budgetWrite | apply keep_commitAt | apply keep_debugToken | apply keep_dictSet | apply keep_entryTakes | apply keep_extend | apply keep_latchCmd | apply keep_lcsToken | apply keep_nonceWrite | apply keep_ownerKey | apply keep_resetCmd | apply keep_revoke | apply keep_svnCommit | apply keep_testEnter | apply keep_testExit | apply Keeps.ite | apply Keeps.iteFst | apply Keeps.foldl | apply Keeps.foldlFst | apply Keeps.elim) | split | with_reducible (apply Keeps.pair; assumption) | dsimp only)

theorem keep_takeValue {s0 : Node} {a0 a1 a2 a3 a4} (h0 : Keeps s0 a0) : Keeps s0 (takeValue a0 a1 a2 a3 a4).1 := by
  unfold takeValue
  repeat' (first | with_reducible (first | assumption | intro _ | apply keep_applyEntry | apply keep_modCorud | apply keep_stageValue | apply Keeps.ite | apply Keeps.iteFst | apply Keeps.foldl | apply Keeps.foldlFst | apply Keeps.elim) | split | with_reducible (apply Keeps.pair; assumption) | dsimp only)

theorem keep_dropAssembly {s0 : Node} {a0 a1 a2 a3} (h0 : Keeps s0 a0) : Keeps s0 (dropAssembly a0 a1 a2 a3) := by
  unfold dropAssembly
  repeat' (first | with_reducible (first | assumption | intro _ | apply keep_modCorud | apply Keeps.ite | apply Keeps.iteFst | apply Keeps.foldl | apply Keeps.foldlFst | apply Keeps.elim) | split | with_reducible (apply Keeps.pair; assumption) | dsimp only)

theorem keep_writeSegment {s0 : Node} {a0 a1 a2 a3} (h0 : Keeps s0 a0) : Keeps s0 (writeSegment a0 a1 a2 a3).1 := by
  unfold writeSegment
  repeat' (first | with_reducible (first | assumption | intro _ | apply keep_dropAssembly | apply keep_modCorud | apply keep_takeValue | apply Keeps.ite | apply Keeps.iteFst | apply Keeps.foldl | apply Keeps.foldlFst | apply Keeps.elim) | split | with_reducible (apply Keeps.pair; assumption) | dsimp only)

theorem keep_corudPerform {s0 : Node} {a0 a1 a2} (h0 : Keeps s0 a0) : Keeps s0 (corudPerform a0 a1 a2).1 := by
  unfold corudPerform
  repeat' (first | with_reducible (first | assumption | intro _ | apply keep_takeValue | apply keep_writeSegment | apply Keeps.ite | apply Keeps.iteFst | apply Keeps.foldl | apply Keeps.foldlFst | apply Keeps.elim) | split | with_reducible (apply Keeps.pair; assumption) | dsimp only)

theorem keep_corudWrite {s0 : Node} {a0 a1 a2} (h0 : Keeps s0 a0) : Keeps s0 (corudWrite a0 a1 a2) := by
  unfold corudWrite
  repeat' (first | with_reducible (first | assumption | intro _ | apply keep_corudPerform | apply keep_modCorud | apply keep_reply | apply Keeps.ite | apply Keeps.iteFst | apply Keeps.foldl | apply Keeps.foldlFst | apply Keeps.elim) | split | with_reducible (apply Keeps.pair; assumption) | dsimp only)

theorem keep_corudDo {s0 : Node} {a0 a1 a2} (h0 : Keeps s0 a0) : Keeps s0 (corudDo a0 a1 a2) := by
  unfold corudDo
  repeat' (first | with_reducible (first | assumption | intro _ | apply keep_corudWrite | apply keep_reply | apply keep_sendUnit | apply Keeps.ite | apply Keeps.iteFst | apply Keeps.foldl | apply Keeps.foldlFst | apply Keeps.elim) | split | with_reducible (apply Keeps.pair; assumption) | dsimp only)

theorem keep_setQueue {s0 : Node} {a0 a1} (h0 : Keeps s0 a0) : Keeps s0 (setQueue a0 a1) := by
  unfold setQueue
  repeat' (first | with_reducible (first | assumption | intro _ | apply keep_fSet | apply keep_modCorud | apply Keeps.ite | apply Keeps.iteFst | apply Keeps.foldl | apply Keeps.foldlFst | apply Keeps.elim) | split | with_reducible (apply Keeps.pair; assumption) | dsimp only)

theorem keep_corudArrives {s0 : Node} {a0 a1 a2} (h0 : Keeps s0 a0) : Keeps s0 (corudArrives a0 a1 a2) := by
  unfold corudArrives
  repeat' (first | with_reducible (first | assumption | intro _ | apply keep_corudDo | apply keep_replyBusy | apply keep_sendUnit | apply keep_setQueue | apply Keeps.ite | apply Keeps.iteFst | apply Keeps.foldl | apply Keeps.foldlFst | apply Keeps.elim) | split | with_reducible (apply Keeps.pair; assumption) | dsimp only)

theorem keep_corudStarts {s0 : Node} {a0 a1 a2} (h0 : Keeps s0 a0) : Keeps s0 (corudStarts a0 a1 a2) := by
  unfold corudStarts
  repeat' (first | with_reducible (first | assumption | intro _ | apply keep_corudDo | apply keep_setQueue | apply Keeps.ite | apply Keeps.iteFst | apply Keeps.foldl | apply Keeps.foldlFst | apply Keeps.elim) | split | with_reducible (apply Keeps.pair; assumption) | dsimp only)

theorem keep_corudUnit {s0 : Node} {a0 a1 a2 a3 a4} (h0 : Keeps s0 a0) : KeepsO s0 (corudUnit a0 a1 a2 a3 a4) := by
  unfold corudUnit
  repeat' (first | with_reducible (first | assumption | intro _ | apply keep_corudArrives | apply keep_corudStarts | apply keep_onNode | apply keep_onServed | apply KeepsO.next | apply KeepsO.fault | apply KeepsO.ite | apply Keeps.ite | apply Keeps.iteFst | apply Keeps.foldl | apply Keeps.foldlFst | apply Keeps.elim) | split | with_reducible (apply Keeps.pair; assumption) | dsimp only)

theorem keep_execCoroudRead {s0 : Node} {a0 a1 a2 a3} (h3 : Keeps s0 a3.node) : KeepsS s0 (execCoroudRead a0 a1 a2 a3) := by
  unfold execCoroudRead
  repeat' (first | with_reducible (first | assumption | intro _ | apply keep_corudUnit | apply keep_onNode | apply keep_onServed | apply KeepsO.next | apply KeepsO.fault | apply KeepsO.ite | apply Keeps.ite | apply Keeps.iteFst | apply Keeps.foldl | apply Keeps.foldlFst | apply Keeps.elim) | split | with_reducible (apply Keeps.pair; assumption) | dsimp only)

theorem keep_execCoroudWrite {s0 : Node} {a0 a1 a2 a3} (h3 : Keeps s0 a3.node) : KeepsS s0 (execCoroudWrite a0 a1 a2 a3) := by
  unfold execCoroudWrite
  repeat' (first | with_reducible (first | assumption | intro _ | apply keep_corudUnit | apply keep_onNode | apply keep_onServed | apply KeepsO.next | apply KeepsO.fault | apply KeepsO.ite | apply Keeps.ite | apply Keeps.iteFst | apply Keeps.foldl | apply Keeps.foldlFst | apply Keeps.elim) | split | with_reducible (apply Keeps.pair; assumption) | dsimp only)

theorem keep_execCoroudSegmentTimeout {s0 : Node} {a0 a1 a2 a3} (h3 : Keeps s0 a3.node) : KeepsS s0 (execCoroudSegmentTimeout a0 a1 a2 a3) := by
  unfold execCoroudSegmentTimeout
  repeat' (first | with_reducible (first | assumption | intro _ | apply keep_dropAssembly | apply keep_onNode | apply keep_onServed | apply KeepsO.next | apply KeepsO.fault | apply KeepsO.ite | apply Keeps.ite | apply Keeps.iteFst | apply Keeps.foldl | apply Keeps.foldlFst | apply Keeps.elim) | split | with_reducible (apply Keeps.pair; assumption) | dsimp only)

theorem keep_execCoroudRequestStale {s0 : Node} {a0 a1 a2} (h2 : Keeps s0 a2.node) : KeepsS s0 (execCoroudRequestStale a0 a1 a2) := by
  unfold execCoroudRequestStale
  repeat' (first | with_reducible (first | assumption | intro _ | apply keep_replyBusy | apply keep_setQueue | apply keep_onNode | apply keep_onServed | apply KeepsO.next | apply KeepsO.fault | apply KeepsO.ite | apply Keeps.ite | apply Keeps.iteFst | apply Keeps.foldl | apply Keeps.foldlFst | apply Keeps.elim) | split | with_reducible (apply Keeps.pair; assumption) | dsimp only)

theorem keep_execConfigStoreWriteDone {s0 : Node} {a0 a1} (h1 : Keeps s0 a1.node) : KeepsS s0 (execConfigStoreWriteDone a0 a1) := by
  unfold execConfigStoreWriteDone
  repeat' (first | with_reducible (first | assumption | intro _ | apply keep_modCorud | apply keep_reply | apply keep_onNode | apply keep_onServed | apply KeepsO.next | apply KeepsO.fault | apply KeepsO.ite | apply Keeps.ite | apply Keeps.iteFst | apply Keeps.foldl | apply Keeps.foldlFst | apply Keeps.elim) | split | with_reducible (apply Keeps.pair; assumption) | dsimp only)

theorem keep_ownWrite {s0 : Node} {a0 a1 a2 a3} (h0 : Keeps s0 a0) : Keeps s0 (ownWrite a0 a1 a2 a3) := by
  unfold ownWrite
  repeat' (first | with_reducible (first | assumption | intro _ | apply keep_corudPerform | apply keep_corudWrite | apply keep_withResp | apply Keeps.ite | apply Keeps.iteFst | apply Keeps.foldl | apply Keeps.foldlFst | apply Keeps.elim) | split | with_reducible (apply Keeps.pair; assumption) | dsimp only)

theorem keep_execUserCalibrationWrite {s0 : Node} {a0 a1 a2 a3} (h3 : Keeps s0 a3.node) : KeepsS s0 (execUserCalibrationWrite a0 a1 a2 a3) := by
  unfold execUserCalibrationWrite
  repeat' (first | with_reducible (first | assumption | intro _ | apply keep_ownWrite | apply keep_withResp | apply keep_onNode | apply keep_onServed | apply KeepsO.next | apply KeepsO.fault | apply KeepsO.ite | apply Keeps.ite | apply Keeps.iteFst | apply Keeps.foldl | apply Keeps.foldlFst | apply Keeps.elim) | split | with_reducible (apply Keeps.pair; assumption) | dsimp only)

theorem keep_execLatchCheck {s0 : Node} {a0} (h0 : Keeps s0 a0.node) : KeepsS s0 (execLatchCheck a0) := by
  unfold execLatchCheck
  repeat' (first | with_reducible (first | assumption | intro _ | apply keep_ownWrite | apply keep_onNode | apply keep_onServed | apply KeepsO.next | apply KeepsO.fault | apply KeepsO.ite | apply Keeps.ite | apply Keeps.iteFst | apply Keeps.foldl | apply Keeps.foldlFst | apply Keeps.elim) | split | with_reducible (apply Keeps.pair; assumption) | dsimp only)

theorem keep_execLatchCommitNow {s0 : Node} {a0} (h0 : Keeps s0 a0.node) : KeepsS s0 (execLatchCommitNow a0) := by
  unfold execLatchCommitNow
  repeat' (first | with_reducible (first | assumption | intro _ | apply keep_ownWrite | apply keep_onNode | apply keep_onServed | apply KeepsO.next | apply KeepsO.fault | apply KeepsO.ite | apply Keeps.ite | apply Keeps.iteFst | apply Keeps.foldl | apply Keeps.foldlFst | apply Keeps.elim) | split | with_reducible (apply Keeps.pair; assumption) | dsimp only)

theorem keep_execLatchDiscard {s0 : Node} {a0} (h0 : Keeps s0 a0.node) : KeepsS s0 (execLatchDiscard a0) := by
  unfold execLatchDiscard
  repeat' (first | with_reducible (first | assumption | intro _ | apply keep_ownWrite | apply keep_onNode | apply keep_onServed | apply KeepsO.next | apply KeepsO.fault | apply KeepsO.ite | apply Keeps.ite | apply Keeps.iteFst | apply Keeps.foldl | apply Keeps.foldlFst | apply Keeps.elim) | split | with_reducible (apply Keeps.pair; assumption) | dsimp only)

theorem keep_execCommitAtWrite {s0 : Node} {a0 a1} (h1 : Keeps s0 a1.node) : KeepsS s0 (execCommitAtWrite a0 a1) := by
  unfold execCommitAtWrite
  repeat' (first | with_reducible (first | assumption | intro _ | apply keep_ownWrite | apply keep_onNode | apply keep_onServed | apply KeepsO.next | apply KeepsO.fault | apply KeepsO.ite | apply Keeps.ite | apply Keeps.iteFst | apply Keeps.foldl | apply Keeps.foldlFst | apply Keeps.elim) | split | with_reducible (apply Keeps.pair; assumption) | dsimp only)

theorem keep_execAlertAckWrite {s0 : Node} {a0 a1} (h1 : Keeps s0 a1.node) : KeepsS s0 (execAlertAckWrite a0 a1) := by
  unfold execAlertAckWrite
  repeat' (first | with_reducible (first | assumption | intro _ | apply keep_ownWrite | apply keep_onNode | apply keep_onServed | apply KeepsO.next | apply KeepsO.fault | apply KeepsO.ite | apply Keeps.ite | apply Keeps.iteFst | apply Keeps.foldl | apply Keeps.foldlFst | apply Keeps.elim) | split | with_reducible (apply Keeps.pair; assumption) | dsimp only)

theorem keep_execLatchApply {s0 : Node} {a0} (h0 : Keeps s0 a0.node) : KeepsS s0 (execLatchApply a0) := by
  unfold execLatchApply
  repeat' (first | with_reducible (first | assumption | intro _ | apply keep_corudWrite | apply keep_latchApply | apply keep_modCorud | apply keep_onNode | apply keep_onServed | apply KeepsO.next | apply KeepsO.fault | apply KeepsO.ite | apply Keeps.ite | apply Keeps.iteFst | apply Keeps.foldl | apply Keeps.foldlFst | apply Keeps.elim) | split | with_reducible (apply Keeps.pair; assumption) | dsimp only)

theorem keep_sendReport {s0 : Node} {a0 a1 a2 a3} (h0 : Keeps s0 a0) : Keeps s0 (sendReport a0 a1 a2 a3) := by
  unfold sendReport
  repeat' (first | with_reducible (first | assumption | intro _ | apply keep_sendFrame | apply keep_sendOut | apply Keeps.ite | apply Keeps.iteFst | apply Keeps.foldl | apply Keeps.foldlFst | apply Keeps.elim) | split | with_reducible (apply Keeps.pair; assumption) | dsimp only)

theorem keep_offerRecords {s0 : Node} {a0 a1 a2} (h0 : Keeps s0 a0) : Keeps s0 (offerRecords a0 a1 a2) := by
  unfold offerRecords
  repeat' (first | with_reducible (first | assumption | intro _ | apply keep_sendReport | apply Keeps.ite | apply Keeps.iteFst | apply Keeps.foldl | apply Keeps.foldlFst | apply Keeps.elim) | split | with_reducible (apply Keeps.pair; assumption) | dsimp only | ((with_reducible apply Keeps.rcd); (on_goal 2 => rfl); (on_goal 2 => rfl)))

theorem keep_forwardRecords {s0 : Node} {a0} (h0 : Keeps s0 a0) : Keeps s0 (forwardRecords a0) := by
  unfold forwardRecords
  repeat' (first | with_reducible (first | assumption | intro _ | apply keep_offerRecords | apply Keeps.ite | apply Keeps.iteFst | apply Keeps.foldl | apply Keeps.foldlFst | apply Keeps.elim) | split | with_reducible (apply Keeps.pair; assumption) | dsimp only)

theorem keep_execTelemetryReport {s0 : Node} {a0 a1} (h1 : Keeps s0 a1.node) : KeepsS s0 (execTelemetryReport a0 a1) := by
  unfold execTelemetryReport
  repeat' (first | with_reducible (first | assumption | intro _ | apply keep_bump | apply keep_modCorud | apply keep_offerRecords | apply keep_sendReport | apply keep_onNode | apply keep_onServed | apply KeepsO.next | apply KeepsO.fault | apply KeepsO.ite | apply Keeps.ite | apply Keeps.iteFst | apply Keeps.foldl | apply Keeps.foldlFst | apply Keeps.elim) | split | with_reducible (apply Keeps.pair; assumption) | dsimp only | ((with_reducible apply Keeps.rcd); (on_goal 2 => rfl); (on_goal 2 => rfl)))

theorem keep_execNetbootReport {s0 : Node} {a0} (h0 : Keeps s0 a0.node) : KeepsS s0 (execNetbootReport a0) := by
  unfold execNetbootReport
  repeat' (first | with_reducible (first | assumption | intro _ | apply keep_sendReport | apply keep_onNode | apply keep_onServed | apply KeepsO.next | apply KeepsO.fault | apply KeepsO.ite | apply Keeps.ite | apply Keeps.iteFst | apply Keeps.foldl | apply Keeps.foldlFst | apply Keeps.elim) | split | with_reducible (apply Keeps.pair; assumption) | dsimp only)

theorem keep_execMpLeadClaim {s0 : Node} {a0 a1} (h1 : Keeps s0 a1.node) : KeepsS s0 (execMpLeadClaim a0 a1) := by
  unfold execMpLeadClaim
  repeat' (first | with_reducible (first | assumption | intro _ | apply keep_fSet | apply keep_logErr | apply keep_modCorud | apply keep_onBase | apply keep_setQueue | apply keep_onNode | apply keep_onServed | apply KeepsO.next | apply KeepsO.fault | apply KeepsO.ite | apply Keeps.ite | apply Keeps.iteFst | apply Keeps.foldl | apply Keeps.foldlFst | apply Keeps.elim) | split | with_reducible (apply Keeps.pair; assumption) | dsimp only)

theorem keep_mbReq {s0 : Node} {a0 a1 a2} (h0 : Keeps s0 a0) : Keeps s0 (mbReq a0 a1 a2) := by
  unfold mbReq
  repeat' (first | with_reducible (first | assumption | intro _ | apply keep_agentTouch | apply keep_corudArrives | apply keep_fSet | apply keep_poisonAgent | apply Keeps.ite | apply Keeps.iteFst | apply Keeps.foldl | apply Keeps.foldlFst | apply Keeps.elim) | split | with_reducible (apply Keeps.pair; assumption) | dsimp only)

theorem keep_execMbReqWrite {s0 : Node} {a0 a1 a2} (h2 : Keeps s0 a2.node) : KeepsS s0 (execMbReqWrite a0 a1 a2) := by
  unfold execMbReqWrite
  repeat' (first | with_reducible (first | assumption | intro _ | apply keep_mbReq | apply keep_onBase | apply keep_withResp | apply keep_onNode | apply keep_onServed | apply KeepsO.next | apply KeepsO.fault | apply KeepsO.ite | apply Keeps.ite | apply Keeps.iteFst | apply Keeps.foldl | apply Keeps.foldlFst | apply Keeps.elim) | split | with_reducible (apply Keeps.pair; assumption) | dsimp only)

theorem keep_execMbResponse {s0 : Node} {a0 a1} (h1 : Keeps s0 a1.node) : KeepsS s0 (execMbResponse a0 a1) := by
  unfold execMbResponse
  repeat' (first | with_reducible (first | assumption | intro _ | apply keep_agentWrite | apply keep_fSet | apply keep_modCorud | apply keep_onBase | apply keep_signal | apply keep_onNode | apply keep_onServed | apply KeepsO.next | apply KeepsO.fault | apply KeepsO.ite | apply Keeps.ite | apply Keeps.iteFst | apply Keeps.foldl | apply Keeps.foldlFst | apply Keeps.elim) | split | with_reducible (apply Keeps.pair; assumption) | dsimp only)

theorem keep_teStore {s0 : Node} {a0 a1 a2 a3} (h0 : Keeps s0 a0) : Keeps s0 (teStore a0 a1 a2 a3) := by
  unfold teStore
  repeat' (first | with_reducible (first | assumption | intro _ | apply keep_regSet | apply Keeps.ite | apply Keeps.iteFst | apply Keeps.foldl | apply Keeps.foldlFst | apply Keeps.elim) | split | with_reducible (apply Keeps.pair; assumption) | dsimp only)

theorem keep_teFire {s0 : Node} {a0 a1} (h0 : Keeps s0 a0) : Keeps s0 (teFire a0 a1) := by
  unfold teFire
  repeat' (first | with_reducible (first | assumption | intro _ | apply keep_ftCount | apply keep_logErr | apply keep_regSet | apply Keeps.ite | apply Keeps.iteFst | apply Keeps.foldl | apply Keeps.foldlFst | apply Keeps.elim) | split | with_reducible (apply Keeps.pair; assumption) | dsimp only)

theorem keep_teRun {s0 : Node} {a0 a1 a2 a3} (h0 : Keeps s0 a0) (h3 : ∀ x0, Keeps s0 x0 → Keeps s0 (a3 x0)) : KeepsO s0 (teRun a0 a1 a2 a3) := by
  unfold teRun
  repeat' (first | with_reducible (first | assumption | intro _ | apply h3 | apply keep_onUnit | apply keep_teFire | apply keep_onNode | apply keep_onServed | apply KeepsO.next | apply KeepsO.fault | apply KeepsO.ite | apply Keeps.ite | apply Keeps.iteFst | apply Keeps.foldl | apply Keeps.foldlFst | apply Keeps.elim) | split | with_reducible (apply Keeps.pair; assumption) | dsimp only)

theorem keep_teLatchAct {s0 : Node} {a0 a1} (h0 : Keeps s0 a0) : Keeps s0 (teLatchAct a0 a1) := by
  unfold teLatchAct
  repeat' (first | with_reducible (first | assumption | intro _ | apply keep_latchFire | apply Keeps.ite | apply Keeps.iteFst | apply Keeps.foldl | apply Keeps.foldlFst | apply Keeps.elim) | split | with_reducible (apply Keeps.pair; assumption) | dsimp only)

theorem keep_teCutAct {s0 : Node} {a0 a1 a2} (h0 : Keeps s0 a0) : Keeps s0 (teCutAct a0 a1 a2) := by
  unfold teCutAct
  repeat' (first | with_reducible (first | assumption | intro _ | apply keep_regSet | apply keep_startCut | apply Keeps.ite | apply Keeps.iteFst | apply Keeps.foldl | apply Keeps.foldlFst | apply Keeps.elim) | split | with_reducible (apply Keeps.pair; assumption) | dsimp only)

theorem keep_teHoldAct {s0 : Node} {a0 a1} (h0 : Keeps s0 a0) : Keeps s0 (teHoldAct a0 a1) := by
  unfold teHoldAct
  repeat' (first | with_reducible (first | assumption | intro _ | apply keep_setShgHold | apply Keeps.ite | apply Keeps.iteFst | apply Keeps.foldl | apply Keeps.foldlFst | apply Keeps.elim) | split | with_reducible (apply Keeps.pair; assumption) | dsimp only)

theorem keep_teSignalAct {s0 : Node} {a0 a1} (h0 : Keeps s0 a0) : Keeps s0 (teSignalAct a0 a1) := by
  unfold teSignalAct
  repeat' (first | with_reducible (first | assumption | intro _ | apply keep_addDep | apply Keeps.ite | apply Keeps.iteFst | apply Keeps.foldl | apply Keeps.foldlFst | apply Keeps.elim) | split | with_reducible (apply Keeps.pair; assumption) | dsimp only)

theorem keep_teArmAct {s0 : Node} {a0 a1} (h0 : Keeps s0 a0) : Keeps s0 (teArmAct a0 a1) := by
  unfold teArmAct
  repeat' (first | with_reducible (first | assumption | intro _ | apply keep_armWrite | apply Keeps.ite | apply Keeps.iteFst | apply Keeps.foldl | apply Keeps.foldlFst | apply Keeps.elim) | split | with_reducible (apply Keeps.pair; assumption) | dsimp only)

theorem keep_teLouvreAct {s0 : Node} {a0 a1} (h0 : Keeps s0 a0) : Keeps s0 (teLouvreAct a0 a1) := by
  unfold teLouvreAct
  repeat' (first | with_reducible (first | assumption | intro _ | apply keep_forcePhase | apply Keeps.ite | apply Keeps.iteFst | apply Keeps.foldl | apply Keeps.foldlFst | apply Keeps.elim) | split | with_reducible (apply Keeps.pair; assumption) | dsimp only)

theorem keep_execTeLatch {s0 : Node} {a0 a1} (h1 : Keeps s0 a1.node) : KeepsS s0 (execTeLatch a0 a1) := by
  unfold execTeLatch
  repeat' (first | with_reducible (first | assumption | intro _ | apply keep_teLatchAct | apply keep_teRun | apply keep_onNode | apply keep_onServed | apply KeepsO.next | apply KeepsO.fault | apply KeepsO.ite | apply Keeps.ite | apply Keeps.iteFst | apply Keeps.foldl | apply Keeps.foldlFst | apply Keeps.elim) | split | with_reducible (apply Keeps.pair; assumption) | dsimp only)

theorem keep_execTeCut {s0 : Node} {a0 a1} (h1 : Keeps s0 a1.node) : KeepsS s0 (execTeCut a0 a1) := by
  unfold execTeCut
  repeat' (first | with_reducible (first | assumption | intro _ | apply keep_teCutAct | apply keep_teRun | apply keep_onNode | apply keep_onServed | apply KeepsO.next | apply KeepsO.fault | apply KeepsO.ite | apply Keeps.ite | apply Keeps.iteFst | apply Keeps.foldl | apply Keeps.foldlFst | apply Keeps.elim) | split | with_reducible (apply Keeps.pair; assumption) | dsimp only)

theorem keep_execTeHold {s0 : Node} {a0 a1} (h1 : Keeps s0 a1.node) : KeepsS s0 (execTeHold a0 a1) := by
  unfold execTeHold
  repeat' (first | with_reducible (first | assumption | intro _ | apply keep_teHoldAct | apply keep_teRun | apply keep_onNode | apply keep_onServed | apply KeepsO.next | apply KeepsO.fault | apply KeepsO.ite | apply Keeps.ite | apply Keeps.iteFst | apply Keeps.foldl | apply Keeps.foldlFst | apply Keeps.elim) | split | with_reducible (apply Keeps.pair; assumption) | dsimp only)

end Sys2Proof.Machine
end

