-- ==== Sys2Proof/Laws/Keeps6.lean ====
section
/-! SUPPORT. What the operations of the machine keep, one lemma each (6 of 6): keep_execTeSignal to keep_tick. -/

set_option Elab.async false
set_option linter.all false

namespace Sys2Proof.Machine

theorem keep_execTeSignal {s0 : Node} {a0 a1} (h1 : Keeps s0 a1.node) : KeepsS s0 (execTeSignal a0 a1) := by
  unfold execTeSignal
  repeat' (first | with_reducible (first | assumption | intro _ | apply keep_teRun | apply keep_teSignalAct | apply keep_onNode | apply keep_onServed | apply KeepsO.next | apply KeepsO.fault | apply KeepsO.ite | apply Keeps.ite | apply Keeps.iteFst | apply Keeps.foldl | apply Keeps.foldlFst | apply Keeps.elim) | split | with_reducible (apply Keeps.pair; assumption) | dsimp only)

theorem keep_execTeArm {s0 : Node} {a0 a1} (h1 : Keeps s0 a1.node) : KeepsS s0 (execTeArm a0 a1) := by
  unfold execTeArm
  repeat' (first | with_reducible (first | assumption | intro _ | apply keep_teArmAct | apply keep_teRun | apply keep_onNode | apply keep_onServed | apply KeepsO.next | apply KeepsO.fault | apply KeepsO.ite | apply Keeps.ite | apply Keeps.iteFst | apply Keeps.foldl | apply Keeps.foldlFst | apply Keeps.elim) | split | with_reducible (apply Keeps.pair; assumption) | dsimp only)

theorem keep_execTeLouvre {s0 : Node} {a0 a1} (h1 : Keeps s0 a1.node) : KeepsS s0 (execTeLouvre a0 a1) := by
  unfold execTeLouvre
  repeat' (first | with_reducible (first | assumption | intro _ | apply keep_teLouvreAct | apply keep_teRun | apply keep_onNode | apply keep_onServed | apply KeepsO.next | apply KeepsO.fault | apply KeepsO.ite | apply Keeps.ite | apply Keeps.iteFst | apply Keeps.foldl | apply Keeps.foldlFst | apply Keeps.elim) | split | with_reducible (apply Keeps.pair; assumption) | dsimp only)

theorem keep_teAct {s0 : Node} {a0 a1} (h0 : Keeps s0 a0) : Keeps s0 (teAct a0 a1) := by
  unfold teAct
  repeat' (first | with_reducible (first | assumption | intro _ | apply keep_teArmAct | apply keep_teCutAct | apply keep_teFire | apply keep_teHoldAct | apply keep_teLatchAct | apply keep_teLouvreAct | apply keep_teSignalAct | apply Keeps.ite | apply Keeps.iteFst | apply Keeps.foldl | apply Keeps.foldlFst | apply Keeps.elim) | split | with_reducible (apply Keeps.pair; assumption) | dsimp only)

theorem keep_teUpTo {s0 : Node} {a0 a1 a2} (h1 : Keeps s0 a1) : Keeps s0 (teUpTo a0 a1 a2) := by
  induction a0 generalizing a1 a2 with
  | zero =>
    unfold teUpTo
    repeat' (first | with_reducible (first | assumption | intro _ | apply keep_teAct | apply Keeps.ite | apply Keeps.iteFst | apply Keeps.foldl | apply Keeps.foldlFst | apply Keeps.elim) | split | with_reducible (apply Keeps.pair; assumption) | dsimp only)
  | succ n ih =>
    unfold teUpTo
    repeat' (first | with_reducible (first | assumption | apply ih | intro _ | apply keep_teAct | apply Keeps.ite | apply Keeps.iteFst | apply Keeps.foldl | apply Keeps.foldlFst | apply Keeps.elim) | split | with_reducible (apply Keeps.pair; assumption) | dsimp only)

theorem keep_teWrite {s0 : Node} {a0 a1 a2 a3} (h0 : Keeps s0 a0) : Keeps s0 (teWrite a0 a1 a2 a3) := by
  unfold teWrite
  repeat' (first | with_reducible (first | assumption | intro _ | apply keep_modTime | apply keep_teStore | apply keep_teUpTo | apply Keeps.ite | apply Keeps.iteFst | apply Keeps.foldl | apply Keeps.foldlFst | apply Keeps.elim) | split | with_reducible (apply Keeps.pair; assumption) | dsimp only)

theorem keep_execTeEntryWrite {s0 : Node} {a0 a1 a2 a3} (h3 : Keeps s0 a3.node) : KeepsS s0 (execTeEntryWrite a0 a1 a2 a3) := by
  unfold execTeEntryWrite
  repeat' (first | with_reducible (first | assumption | intro _ | apply keep_onUnit | apply keep_teWrite | apply keep_withResp | apply keep_onNode | apply keep_onServed | apply KeepsO.next | apply KeepsO.fault | apply KeepsO.ite | apply Keeps.ite | apply Keeps.iteFst | apply Keeps.foldl | apply Keeps.foldlFst | apply Keeps.elim) | split | with_reducible (apply Keeps.pair; assumption) | dsimp only)

theorem keep_execPwrokRise {s0 : Node} {a0 a1} (h1 : Keeps s0 a1.node) : KeepsS s0 (execPwrokRise a0 a1) := by
  unfold execPwrokRise
  repeat' (first | with_reducible (first | assumption | intro _ | apply keep_modLife | apply keep_release | apply keep_onNode | apply keep_onServed | apply KeepsO.next | apply KeepsO.fault | apply KeepsO.ite | apply Keeps.ite | apply Keeps.iteFst | apply Keeps.foldl | apply Keeps.foldlFst | apply Keeps.elim) | split | with_reducible (apply Keeps.pair; assumption) | dsimp only)

theorem keep_execPwrokFall {s0 : Node} {a0} (h0 : Keeps s0 a0.node) : KeepsS s0 (execPwrokFall a0) := by
  unfold execPwrokFall
  repeat' (first | with_reducible (first | assumption | intro _ | apply keep_coldReset | apply keep_modLife | apply keep_setReady | apply keep_onNode | apply keep_onServed | apply KeepsO.next | apply KeepsO.fault | apply KeepsO.ite | apply Keeps.ite | apply Keeps.iteFst | apply Keeps.foldl | apply Keeps.foldlFst | apply Keeps.elim) | split | with_reducible (apply Keeps.pair; assumption) | dsimp only)

theorem keep_execResetNAssert {s0 : Node} {a0} (h0 : Keeps s0 a0.node) : KeepsS s0 (execResetNAssert a0) := by
  unfold execResetNAssert
  repeat' (first | with_reducible (first | assumption | intro _ | apply keep_coldReset | apply keep_fSet | apply keep_modLife | apply keep_warmReset | apply keep_onNode | apply keep_onServed | apply KeepsO.next | apply KeepsO.fault | apply KeepsO.ite | apply Keeps.ite | apply Keeps.iteFst | apply Keeps.foldl | apply Keeps.foldlFst | apply Keeps.elim) | split | with_reducible (apply Keeps.pair; assumption) | dsimp only)

theorem keep_execResetNRelease {s0 : Node} {a0 a1} (h1 : Keeps s0 a1.node) : KeepsS s0 (execResetNRelease a0 a1) := by
  unfold execResetNRelease
  repeat' (first | with_reducible (first | assumption | intro _ | apply keep_modLife | apply keep_release | apply keep_onNode | apply keep_onServed | apply KeepsO.next | apply KeepsO.fault | apply KeepsO.ite | apply Keeps.ite | apply Keeps.iteFst | apply Keeps.foldl | apply Keeps.foldlFst | apply Keeps.elim) | split | with_reducible (apply Keeps.pair; assumption) | dsimp only)

theorem keep_execSoftwareReset {s0 : Node} {a0} (h0 : Keeps s0 a0.node) : KeepsS s0 (execSoftwareReset a0) := by
  unfold execSoftwareReset
  repeat' (first | with_reducible (first | assumption | intro _ | apply keep_softwareReset | apply keep_withResp | apply keep_onNode | apply keep_onServed | apply KeepsO.next | apply KeepsO.fault | apply KeepsO.ite | apply Keeps.ite | apply Keeps.iteFst | apply Keeps.foldl | apply Keeps.foldlFst | apply Keeps.elim) | split | with_reducible (apply Keeps.pair; assumption) | dsimp only)

theorem keep_execWarmResetRelease {s0 : Node} {a0 a1} (h1 : Keeps s0 a1.node) : KeepsS s0 (execWarmResetRelease a0 a1) := by
  unfold execWarmResetRelease
  repeat' (first | with_reducible (first | assumption | intro _ | apply keep_release | apply keep_onNode | apply keep_onServed | apply KeepsO.next | apply KeepsO.fault | apply KeepsO.ite | apply Keeps.ite | apply Keeps.iteFst | apply Keeps.foldl | apply Keeps.foldlFst | apply Keeps.elim) | split | with_reducible (apply Keeps.pair; assumption) | dsimp only)

theorem keep_stacksOn {s0 : Node} {a0} (h0 : Keeps s0 a0) : Keeps s0 (stacksOn a0) := by
  unfold stacksOn
  repeat' (first | with_reducible (first | assumption | intro _ | apply keep_setStackState | apply Keeps.ite | apply Keeps.iteFst | apply Keeps.foldl | apply Keeps.foldlFst | apply Keeps.elim) | split | with_reducible (apply Keeps.pair; assumption) | dsimp only)

theorem keep_execHbmTrainingDone {s0 : Node} {s : State} (h : Keeps s0 s.node) : KeepsS s0 (execHbmTrainingDone s) := by
  refine keep_onNode ?_
  refine KeepsO.next ?_
  dsimp only
  split
  · exact h
  · refine keep_seekHost ?_
    exact ⟨fun _ => rfl, (keep_stacksOn h).fuses⟩

theorem keep_enableUnits {s0 : Node} {a0} (h0 : Keeps s0 a0) : Keeps s0 (enableUnits a0) := by
  unfold enableUnits
  repeat' (first | with_reducible (first | assumption | intro _ | apply keep_enableWrite | apply keep_portWrite | apply Keeps.ite | apply Keeps.iteFst | apply Keeps.foldl | apply Keeps.foldlFst | apply Keeps.elim) | split | with_reducible (apply Keeps.pair; assumption) | dsimp only)

theorem keep_execReadyRise {s0 : Node} {a0} (h0 : Keeps s0 a0.node) : KeepsS s0 (execReadyRise a0) := by
  unfold execReadyRise
  repeat' (first | with_reducible (first | assumption | intro _ | apply keep_enableUnits | apply keep_setReady | apply keep_onNode | apply keep_onServed | apply KeepsO.next | apply KeepsO.fault | apply KeepsO.ite | apply Keeps.ite | apply Keeps.iteFst | apply Keeps.foldl | apply Keeps.foldlFst | apply Keeps.elim) | split | with_reducible (apply Keeps.pair; assumption) | dsimp only)

theorem keep_accepted {s0 : Node} {a0} (h0 : Keeps s0 a0.1) : KeepsO s0 (accepted a0) := by
  unfold accepted
  repeat' (first | with_reducible (first | assumption | intro _ | apply keep_withResp | apply keep_onNode | apply keep_onServed | apply KeepsO.next | apply KeepsO.fault | apply KeepsO.ite | apply Keeps.ite | apply Keeps.iteFst | apply Keeps.foldl | apply Keeps.foldlFst | apply Keeps.elim) | split | with_reducible (apply Keeps.pair; assumption) | dsimp only)

theorem keep_execBootChunkWrite {s0 : Node} {a0 a1 a2} (h2 : Keeps s0 a2.node) : KeepsS s0 (execBootChunkWrite a0 a1 a2) := by
  unfold execBootChunkWrite
  repeat' (first | with_reducible (first | assumption | intro _ | apply keep_accepted | apply keep_bootChunk | apply keep_onNode | apply keep_onServed | apply KeepsO.next | apply KeepsO.fault | apply KeepsO.ite | apply Keeps.ite | apply Keeps.iteFst | apply Keeps.foldl | apply Keeps.foldlFst | apply Keeps.elim) | split | with_reducible (apply Keeps.pair; assumption) | dsimp only)

theorem keep_execBootGoWrite {s0 : Node} {a0 a1} (h1 : Keeps s0 a1.node) : KeepsS s0 (execBootGoWrite a0 a1) := by
  unfold execBootGoWrite
  repeat' (first | with_reducible (first | assumption | intro _ | apply keep_accepted | apply keep_bootGo | apply keep_onNode | apply keep_onServed | apply KeepsO.next | apply KeepsO.fault | apply KeepsO.ite | apply Keeps.ite | apply Keeps.iteFst | apply Keeps.foldl | apply Keeps.foldlFst | apply Keeps.elim) | split | with_reducible (apply Keeps.pair; assumption) | dsimp only)

theorem keep_execSvnCommit {s0 : Node} {a0 a1} (h1 : Keeps s0 a1.node) : KeepsS s0 (execSvnCommit a0 a1) := by
  unfold execSvnCommit
  repeat' (first | with_reducible (first | assumption | intro _ | apply keep_accepted | apply keep_svnCommit | apply keep_onNode | apply keep_onServed | apply KeepsO.next | apply KeepsO.fault | apply KeepsO.ite | apply Keeps.ite | apply Keeps.iteFst | apply Keeps.foldl | apply Keeps.foldlFst | apply Keeps.elim) | split | with_reducible (apply Keeps.pair; assumption) | dsimp only)

theorem keep_execLcsTokenWrite {s0 : Node} {a0 a1} (h1 : Keeps s0 a1.node) : KeepsS s0 (execLcsTokenWrite a0 a1) := by
  unfold execLcsTokenWrite
  repeat' (first | with_reducible (first | assumption | intro _ | apply keep_accepted | apply keep_lcsToken | apply keep_onNode | apply keep_onServed | apply KeepsO.next | apply KeepsO.fault | apply KeepsO.ite | apply Keeps.ite | apply Keeps.iteFst | apply Keeps.foldl | apply Keeps.foldlFst | apply Keeps.elim) | split | with_reducible (apply Keeps.pair; assumption) | dsimp only)

theorem keep_execDebugTokenWrite {s0 : Node} {a0 a1} (h1 : Keeps s0 a1.node) : KeepsS s0 (execDebugTokenWrite a0 a1) := by
  unfold execDebugTokenWrite
  repeat' (first | with_reducible (first | assumption | intro _ | apply keep_accepted | apply keep_debugToken | apply keep_onNode | apply keep_onServed | apply KeepsO.next | apply KeepsO.fault | apply KeepsO.ite | apply Keeps.ite | apply Keeps.iteFst | apply Keeps.foldl | apply Keeps.foldlFst | apply Keeps.elim) | split | with_reducible (apply Keeps.pair; assumption) | dsimp only)

theorem keep_execOwnerKeyWrite {s0 : Node} {a0 a1} (h1 : Keeps s0 a1.node) : KeepsS s0 (execOwnerKeyWrite a0 a1) := by
  unfold execOwnerKeyWrite
  repeat' (first | with_reducible (first | assumption | intro _ | apply keep_accepted | apply keep_ownerKey | apply keep_onNode | apply keep_onServed | apply KeepsO.next | apply KeepsO.fault | apply KeepsO.ite | apply Keeps.ite | apply Keeps.iteFst | apply Keeps.foldl | apply Keeps.foldlFst | apply Keeps.elim) | split | with_reducible (apply Keeps.pair; assumption) | dsimp only)

theorem keep_execRevokeWrite {s0 : Node} {a0 a1} (h1 : Keeps s0 a1.node) : KeepsS s0 (execRevokeWrite a0 a1) := by
  unfold execRevokeWrite
  repeat' (first | with_reducible (first | assumption | intro _ | apply keep_accepted | apply keep_revoke | apply keep_onNode | apply keep_onServed | apply KeepsO.next | apply KeepsO.fault | apply KeepsO.ite | apply Keeps.ite | apply Keeps.iteFst | apply Keeps.foldl | apply Keeps.foldlFst | apply Keeps.elim) | split | with_reducible (apply Keeps.pair; assumption) | dsimp only)

theorem keep_execNonceWrite {s0 : Node} {a0 a1} (h1 : Keeps s0 a1.node) : KeepsS s0 (execNonceWrite a0 a1) := by
  unfold execNonceWrite
  repeat' (first | with_reducible (first | assumption | intro _ | apply keep_accepted | apply keep_nonceWrite | apply keep_onNode | apply keep_onServed | apply KeepsO.next | apply KeepsO.fault | apply KeepsO.ite | apply Keeps.ite | apply Keeps.iteFst | apply Keeps.foldl | apply Keeps.foldlFst | apply Keeps.elim) | split | with_reducible (apply Keeps.pair; assumption) | dsimp only)

theorem keep_execMeasurementExtend {s0 : Node} {a0 a1 a2} (h2 : Keeps s0 a2.node) : KeepsS s0 (execMeasurementExtend a0 a1 a2) := by
  unfold execMeasurementExtend
  repeat' (first | with_reducible (first | assumption | intro _ | apply keep_accepted | apply keep_extend | apply keep_onNode | apply keep_onServed | apply KeepsO.next | apply KeepsO.fault | apply KeepsO.ite | apply Keeps.ite | apply Keeps.iteFst | apply Keeps.foldl | apply Keeps.foldlFst | apply Keeps.elim) | split | with_reducible (apply Keeps.pair; assumption) | dsimp only)

theorem keep_execJobWipe {s0 : Node} {a0} (h0 : Keeps s0 a0.node) : KeepsS s0 (execJobWipe a0) := by
  unfold execJobWipe
  repeat' (first | with_reducible (first | assumption | intro _ | apply keep_accepted | apply keep_jobWipe | apply keep_onNode | apply keep_onServed | apply KeepsO.next | apply KeepsO.fault | apply KeepsO.ite | apply Keeps.ite | apply Keeps.iteFst | apply Keeps.foldl | apply Keeps.foldlFst | apply Keeps.elim) | split | with_reducible (apply Keeps.pair; assumption) | dsimp only)

theorem keep_execJobWipeDone {s0 : Node} {a0} (h0 : Keeps s0 a0.node) : KeepsS s0 (execJobWipeDone a0) := by
  unfold execJobWipeDone
  repeat' (first | with_reducible (first | assumption | intro _ | apply keep_modLife | apply keep_setSec | apply keep_onNode | apply keep_onServed | apply KeepsO.next | apply KeepsO.fault | apply KeepsO.ite | apply Keeps.ite | apply Keeps.iteFst | apply Keeps.foldl | apply Keeps.foldlFst | apply Keeps.elim) | split | with_reducible (apply Keeps.pair; assumption) | dsimp only)

theorem keep_execRailUndervoltage {s0 : Node} {a0} (h0 : Keeps s0 a0.node) : KeepsS s0 (execRailUndervoltage a0) := by
  unfold execRailUndervoltage
  repeat' (first | with_reducible (first | assumption | intro _ | apply keep_stopNode | apply keep_onNode | apply keep_onServed | apply KeepsO.next | apply KeepsO.fault | apply KeepsO.ite | apply Keeps.ite | apply Keeps.iteFst | apply Keeps.foldl | apply Keeps.foldlFst | apply Keeps.elim) | split | with_reducible (apply Keeps.pair; assumption) | dsimp only)

theorem keep_execCorePllLockLoss {s0 : Node} {a0} (h0 : Keeps s0 a0.node) : KeepsS s0 (execCorePllLockLoss a0) := by
  unfold execCorePllLockLoss
  repeat' (first | with_reducible (first | assumption | intro _ | apply keep_stopNode | apply keep_onNode | apply keep_onServed | apply KeepsO.next | apply KeepsO.fault | apply KeepsO.ite | apply Keeps.ite | apply Keeps.iteFst | apply Keeps.foldl | apply Keeps.foldlFst | apply Keeps.elim) | split | with_reducible (apply Keeps.pair; assumption) | dsimp only)

theorem keep_execRefclkSdsLoss {s0 : Node} {a0 a1} (h1 : Keeps s0 a1.node) : KeepsS s0 (execRefclkSdsLoss a0 a1) := by
  unfold execRefclkSdsLoss
  repeat' (first | with_reducible (first | assumption | intro _ | apply keep_linkFalls | apply keep_modPort | apply keep_onBase | apply keep_onNode | apply keep_onServed | apply KeepsO.next | apply KeepsO.fault | apply KeepsO.ite | apply Keeps.ite | apply Keeps.iteFst | apply Keeps.foldl | apply Keeps.foldlFst | apply Keeps.elim) | split | with_reducible (apply Keeps.pair; assumption) | dsimp only)

theorem keep_execRefclkSdsReturn {s0 : Node} {a0 a1} (h1 : Keeps s0 a1.node) : KeepsS s0 (execRefclkSdsReturn a0 a1) := by
  unfold execRefclkSdsReturn
  repeat' (first | with_reducible (first | assumption | intro _ | apply keep_modPort | apply keep_onBase | apply keep_onNode | apply keep_onServed | apply KeepsO.next | apply KeepsO.fault | apply KeepsO.ite | apply Keeps.ite | apply Keeps.iteFst | apply Keeps.foldl | apply Keeps.foldlFst | apply Keeps.elim) | split | with_reducible (apply Keeps.pair; assumption) | dsimp only)

theorem keep_onBundle {s0 : Node} {a0 a1 a2 a3} (h3 : Keeps s0 a3) : KeepsO s0 (onBundle a0 a1 a2 a3) := by
  unfold onBundle
  repeat' (first | with_reducible (first | assumption | intro _ | apply keep_onNode | apply keep_onServed | apply KeepsO.next | apply KeepsO.fault | apply KeepsO.ite | apply Keeps.ite | apply Keeps.iteFst | apply Keeps.foldl | apply Keeps.foldlFst | apply Keeps.elim) | split | with_reducible (apply Keeps.pair; assumption) | dsimp only)

theorem keep_startSwitch {s0 : Node} {a0} (h0 : Keeps s0 a0) : Keeps s0 (startSwitch a0) := by
  unfold startSwitch
  repeat' (first | with_reducible (first | assumption | intro _ | apply keep_fSet | apply Keeps.ite | apply Keeps.iteFst | apply Keeps.foldl | apply Keeps.foldlFst | apply Keeps.elim) | split | with_reducible (apply Keeps.pair; assumption) | dsimp only)

theorem keep_checkReach {s0 : Node} {a0 a1} (h0 : Keeps s0 a0) : Keeps s0 (checkReach a0 a1) := by
  unfold checkReach
  repeat' (first | with_reducible (first | assumption | intro _ | apply keep_logErr | apply Keeps.ite | apply Keeps.iteFst | apply Keeps.foldl | apply Keeps.foldlFst | apply Keeps.elim) | split | with_reducible (apply Keeps.pair; assumption) | dsimp only | ((with_reducible apply Keeps.rcd); (on_goal 2 => rfl); (on_goal 2 => rfl)))

theorem keep_signalEdge {s0 : Node} {a0 a1} (h0 : Keeps s0 a0) : Keeps s0 (signalEdge a0 a1) := by
  unfold signalEdge
  repeat' (first | with_reducible (first | assumption | intro _ | apply keep_signal | apply Keeps.ite | apply Keeps.iteFst | apply Keeps.foldl | apply Keeps.foldlFst | apply Keeps.elim) | split | with_reducible (apply Keeps.pair; assumption) | dsimp only)

theorem keep_execBundleFrameReceive {s0 : Node} {a0 a1 a2 a3 a4 a5} (h5 : Keeps s0 a5.node) : KeepsS s0 (execBundleFrameReceive a0 a1 a2 a3 a4 a5) := by
  unfold execBundleFrameReceive
  repeat' (first | with_reducible (first | assumption | intro _ | apply keep_modBundle | apply keep_onBundle | apply keep_onNode | apply keep_onServed | apply KeepsO.next | apply KeepsO.fault | apply KeepsO.ite | apply Keeps.ite | apply Keeps.iteFst | apply Keeps.foldl | apply Keeps.foldlFst | apply Keeps.elim) | split | with_reducible (apply Keeps.pair; assumption) | dsimp only)

theorem keep_execBundleNakReceive {s0 : Node} {a0 a1 a2 a3} (h3 : Keeps s0 a3.node) : KeepsS s0 (execBundleNakReceive a0 a1 a2 a3) := by
  unfold execBundleNakReceive
  repeat' (first | with_reducible (first | assumption | intro _ | apply keep_cntAdd | apply keep_modBundle | apply keep_onBundle | apply keep_onNode | apply keep_onServed | apply KeepsO.next | apply KeepsO.fault | apply KeepsO.ite | apply Keeps.ite | apply Keeps.iteFst | apply Keeps.foldl | apply Keeps.foldlFst | apply Keeps.elim) | split | with_reducible (apply Keeps.pair; assumption) | dsimp only)

theorem keep_execWireTestStart {s0 : Node} {a0 a1 a2 a3} (h3 : Keeps s0 a3.node) : KeepsS s0 (execWireTestStart a0 a1 a2 a3) := by
  unfold execWireTestStart
  repeat' (first | with_reducible (first | assumption | intro _ | apply keep_cntAdd | apply keep_modBundle | apply keep_onBundle | apply keep_onNode | apply keep_onServed | apply KeepsO.next | apply KeepsO.fault | apply KeepsO.ite | apply Keeps.ite | apply Keeps.iteFst | apply Keeps.foldl | apply Keeps.foldlFst | apply Keeps.elim) | split | with_reducible (apply Keeps.pair; assumption) | dsimp only)

theorem keep_noteDegraded {s0 : Node} {a0 a1 a2} (h0 : Keeps s0 a0) : Keeps s0 (noteDegraded a0 a1 a2) := by
  unfold noteDegraded
  repeat' (first | with_reducible (first | assumption | intro _ | apply keep_logErr | apply Keeps.ite | apply Keeps.iteFst | apply Keeps.foldl | apply Keeps.foldlFst | apply Keeps.elim) | split | with_reducible (apply Keeps.pair; assumption) | dsimp only)

theorem keep_closeBundle {s0 : Node} {a0 a1 a2 a3} (h0 : Keeps s0 a0) : Keeps s0 (closeBundle a0 a1 a2 a3) := by
  unfold closeBundle
  repeat' (first | with_reducible (first | assumption | intro _ | apply keep_modBundle | apply Keeps.ite | apply Keeps.iteFst | apply Keeps.foldl | apply Keeps.foldlFst | apply Keeps.elim) | split | with_reducible (apply Keeps.pair; assumption) | dsimp only)

theorem keep_endTest {s0 : Node} {a0 a1 a2 a3 a4} (h0 : Keeps s0 a0) : Keeps s0 (endTest a0 a1 a2 a3 a4) := by
  unfold endTest
  repeat' (first | with_reducible (first | assumption | intro _ | apply keep_checkReach | apply keep_closeBundle | apply keep_faultBlock | apply keep_logErr | apply keep_modBundle | apply keep_noteDegraded | apply keep_signalEdge | apply keep_startSwitch | apply Keeps.ite | apply Keeps.iteFst | apply Keeps.foldl | apply Keeps.foldlFst | apply Keeps.elim) | split | with_reducible (apply Keeps.pair; assumption) | dsimp only)

theorem keep_execWireTestEnd {s0 : Node} {a0 a1 a2 a3 a4} (h4 : Keeps s0 a4.node) : KeepsS s0 (execWireTestEnd a0 a1 a2 a3 a4) := by
  unfold execWireTestEnd
  repeat' (first | with_reducible (first | assumption | intro _ | apply keep_endTest | apply keep_onBundle | apply keep_ordered | apply keep_onNode | apply keep_onServed | apply KeepsO.next | apply KeepsO.fault | apply KeepsO.ite | apply Keeps.ite | apply Keeps.iteFst | apply Keeps.foldl | apply Keeps.foldlFst | apply Keeps.elim) | split | with_reducible (apply Keeps.pair; assumption) | dsimp only)

theorem keep_switchEnds {s0 : Node} {a0} (h0 : Keeps s0 a0) : Keeps s0 (switchEnds a0) := by
  unfold switchEnds
  repeat' (first | with_reducible (first | assumption | intro _ | apply keep_fSet | apply Keeps.ite | apply Keeps.iteFst | apply Keeps.foldl | apply Keeps.foldlFst | apply Keeps.elim) | split | with_reducible (apply Keeps.pair; assumption) | dsimp only)

theorem keep_sendHeld {s0 : Node} {a0} (h0 : Keeps s0 a0) : Keeps s0 (sendHeld a0) := by
  unfold sendHeld
  repeat' (first | with_reducible (first | assumption | intro _ | apply keep_atHome | apply keep_homeGo | apply keep_modNet | apply Keeps.ite | apply Keeps.iteFst | apply Keeps.foldl | apply Keeps.foldlFst | apply Keeps.elim) | split | with_reducible (apply Keeps.pair; assumption) | dsimp only)

theorem keep_settleHomes {s0 : Node} {a0} (h0 : Keeps s0 a0) : Keeps s0 (settleHomes a0) := by
  unfold settleHomes
  repeat' (first | with_reducible (first | assumption | intro _ | apply keep_homeNext | apply keep_settleTxn | apply Keeps.ite | apply Keeps.iteFst | apply Keeps.foldl | apply Keeps.foldlFst | apply Keeps.elim) | split | with_reducible (apply Keeps.pair; assumption) | dsimp only)

theorem keep_execRouteSwitchDone {s0 : Node} {a0} (h0 : Keeps s0 a0.node) : KeepsS s0 (execRouteSwitchDone a0) := by
  unfold execRouteSwitchDone
  repeat' (first | with_reducible (first | assumption | intro _ | apply keep_sendHeld | apply keep_settleHomes | apply keep_switchEnds | apply keep_takeRoutes | apply keep_onNode | apply keep_onServed | apply KeepsO.next | apply KeepsO.fault | apply KeepsO.ite | apply Keeps.ite | apply Keeps.iteFst | apply Keeps.foldl | apply Keeps.foldlFst | apply Keeps.elim) | split | with_reducible (apply Keeps.pair; assumption) | dsimp only)

theorem keep_edgeWrite {s0 : Node} {a0 a1 a2} (h0 : Keeps s0 a0) : Keeps s0 (edgeWrite a0 a1 a2) := by
  unfold edgeWrite
  repeat' (first | with_reducible (first | assumption | intro _ | apply keep_enableWrite | apply keep_fSet | apply keep_startSwitch | apply Keeps.ite | apply Keeps.iteFst | apply Keeps.foldl | apply Keeps.foldlFst | apply Keeps.elim) | split | with_reducible (apply Keeps.pair; assumption) | dsimp only)

theorem keep_execEdgeEnableWrite {s0 : Node} {a0 a1 a2} (h2 : Keeps s0 a2.node) : KeepsS s0 (execEdgeEnableWrite a0 a1 a2) := by
  unfold execEdgeEnableWrite
  repeat' (first | with_reducible (first | assumption | intro _ | apply keep_edgeWrite | apply keep_onUnit | apply keep_withResp | apply keep_onNode | apply keep_onServed | apply KeepsO.next | apply KeepsO.fault | apply KeepsO.ite | apply Keeps.ite | apply Keeps.iteFst | apply Keeps.foldl | apply Keeps.foldlFst | apply Keeps.elim) | split | with_reducible (apply Keeps.pair; assumption) | dsimp only)

theorem keep_execEdgeStepDone {s0 : Node} {a0 a1} (h1 : Keeps s0 a1.node) : KeepsS s0 (execEdgeStepDone a0 a1) := by
  unfold execEdgeStepDone
  repeat' (first | with_reducible (first | assumption | intro _ | apply keep_faultBlock | apply keep_noteDegraded | apply keep_onUnit | apply keep_ownStepEnds | apply keep_startSwitch | apply keep_onNode | apply keep_onServed | apply KeepsO.next | apply KeepsO.fault | apply KeepsO.ite | apply Keeps.ite | apply Keeps.iteFst | apply Keeps.foldl | apply Keeps.foldlFst | apply Keeps.elim) | split | with_reducible (apply Keeps.pair; assumption) | dsimp only)

theorem keep_setLb {s0 : Node} {a0 a1 a2} (h0 : Keeps s0 a0) : Keeps s0 (setLb a0 a1 a2) := by
  unfold setLb
  repeat' (first | with_reducible (first | assumption | intro _ | apply keep_fSet | apply Keeps.ite | apply Keeps.iteFst | apply Keeps.foldl | apply Keeps.foldlFst | apply Keeps.elim) | split | with_reducible (apply Keeps.pair; assumption) | dsimp only)

theorem keep_execTestModeEnter {s0 : Node} {a0} (h0 : Keeps s0 a0.node) : KeepsS s0 (execTestModeEnter a0) := by
  unfold execTestModeEnter
  repeat' (first | with_reducible (first | assumption | intro _ | apply keep_accepted | apply keep_testEnter | apply keep_onNode | apply keep_onServed | apply KeepsO.next | apply KeepsO.fault | apply KeepsO.ite | apply Keeps.ite | apply Keeps.iteFst | apply Keeps.foldl | apply Keeps.foldlFst | apply Keeps.elim) | split | with_reducible (apply Keeps.pair; assumption) | dsimp only)

theorem keep_execTestModeExit {s0 : Node} {a0} (h0 : Keeps s0 a0.node) : KeepsS s0 (execTestModeExit a0) := by
  unfold execTestModeExit
  repeat' (first | with_reducible (first | assumption | intro _ | apply keep_testExit | apply keep_withResp | apply keep_onNode | apply keep_onServed | apply KeepsO.next | apply KeepsO.fault | apply KeepsO.ite | apply Keeps.ite | apply Keeps.iteFst | apply Keeps.foldl | apply Keeps.foldlFst | apply Keeps.elim) | split | with_reducible (apply Keeps.pair; assumption) | dsimp only)

theorem keep_lbWrite {s0 : Node} {a0 a1 a2} (h0 : Keeps s0 a0) : Keeps s0 (lbWrite a0 a1 a2) := by
  unfold lbWrite
  repeat' (first | with_reducible (first | assumption | intro _ | apply keep_bump | apply keep_linkFalls | apply keep_modPort | apply keep_restartCheckers | apply keep_storeReg | apply Keeps.ite | apply Keeps.iteFst | apply Keeps.foldl | apply Keeps.foldlFst | apply Keeps.elim) | split | with_reducible (apply Keeps.pair; assumption) | dsimp only)

theorem keep_execLbPrbsWrite {s0 : Node} {a0 a1 a2} (h2 : Keeps s0 a2.node) : KeepsS s0 (execLbPrbsWrite a0 a1 a2) := by
  unfold execLbPrbsWrite
  repeat' (first | with_reducible (first | assumption | intro _ | apply keep_lbWrite | apply keep_onPort | apply keep_withResp | apply keep_onNode | apply keep_onServed | apply KeepsO.next | apply KeepsO.fault | apply KeepsO.ite | apply Keeps.ite | apply Keeps.iteFst | apply Keeps.foldl | apply Keeps.foldlFst | apply Keeps.elim) | split | with_reducible (apply Keeps.pair; assumption) | dsimp only)

theorem keep_execPrbsCheckerLock {s0 : Node} {a0 a1 a2 a3} (h3 : Keeps s0 a3.node) : KeepsS s0 (execPrbsCheckerLock a0 a1 a2 a3) := by
  unfold execPrbsCheckerLock
  repeat' (first | with_reducible (first | assumption | intro _ | apply keep_fSet | apply keep_onPort | apply keep_onNode | apply keep_onServed | apply KeepsO.next | apply KeepsO.fault | apply KeepsO.ite | apply Keeps.ite | apply Keeps.iteFst | apply Keeps.foldl | apply Keeps.foldlFst | apply Keeps.elim) | split | with_reducible (apply Keeps.pair; assumption) | dsimp only)

theorem keep_bistStart {s0 : Node} {a0 a1 a2} (h0 : Keeps s0 a0) : Keeps s0 (bistStart a0 a1 a2) := by
  unfold bistStart
  repeat' (first | with_reducible (first | assumption | intro _ | apply keep_modTest | apply keep_setLb | apply Keeps.ite | apply Keeps.iteFst | apply Keeps.foldl | apply Keeps.foldlFst | apply Keeps.elim) | split | with_reducible (apply Keeps.pair; assumption) | dsimp only)

theorem keep_bistRow {s0 : Node} {a0 a1 a2} (h0 : Keeps s0 a0) : KeepsO s0 (bistRow a0 a1 a2) := by
  unfold bistRow
  repeat' (first | with_reducible (first | assumption | intro _ | apply keep_bistStart | apply keep_withResp | apply keep_onNode | apply keep_onServed | apply KeepsO.next | apply KeepsO.fault | apply KeepsO.ite | apply Keeps.ite | apply Keeps.iteFst | apply Keeps.foldl | apply Keeps.foldlFst | apply Keeps.elim) | split | with_reducible (apply Keeps.pair; assumption) | dsimp only)

theorem keep_execBistSram {s0 : Node} {a0 a1} (h1 : Keeps s0 a1.node) : KeepsS s0 (execBistSram a0 a1) := by
  unfold execBistSram
  repeat' (first | with_reducible (first | assumption | intro _ | apply keep_bistRow | apply keep_onNode | apply keep_onServed | apply KeepsO.next | apply KeepsO.fault | apply KeepsO.ite | apply Keeps.ite | apply Keeps.iteFst | apply Keeps.foldl | apply Keeps.foldlFst | apply Keeps.elim) | split | with_reducible (apply Keeps.pair; assumption) | dsimp only)

theorem keep_execBistNearMemory {s0 : Node} {a0 a1} (h1 : Keeps s0 a1.node) : KeepsS s0 (execBistNearMemory a0 a1) := by
  unfold execBistNearMemory
  repeat' (first | with_reducible (first | assumption | intro _ | apply keep_bistRow | apply keep_onNode | apply keep_onServed | apply KeepsO.next | apply KeepsO.fault | apply KeepsO.ite | apply Keeps.ite | apply Keeps.iteFst | apply Keeps.foldl | apply Keeps.foldlFst | apply Keeps.elim) | split | with_reducible (apply Keeps.pair; assumption) | dsimp only)

theorem keep_execBistHbmMbist {s0 : Node} {a0 a1} (h1 : Keeps s0 a1.node) : KeepsS s0 (execBistHbmMbist a0 a1) := by
  unfold execBistHbmMbist
  repeat' (first | with_reducible (first | assumption | intro _ | apply keep_bistRow | apply keep_onNode | apply keep_onServed | apply KeepsO.next | apply KeepsO.fault | apply KeepsO.ite | apply Keeps.ite | apply Keeps.iteFst | apply Keeps.foldl | apply Keeps.foldlFst | apply Keeps.elim) | split | with_reducible (apply Keeps.pair; assumption) | dsimp only)

theorem keep_execBistLogic {s0 : Node} {a0 a1} (h1 : Keeps s0 a1.node) : KeepsS s0 (execBistLogic a0 a1) := by
  unfold execBistLogic
  repeat' (first | with_reducible (first | assumption | intro _ | apply keep_bistRow | apply keep_onNode | apply keep_onServed | apply KeepsO.next | apply KeepsO.fault | apply KeepsO.ite | apply Keeps.ite | apply Keeps.iteFst | apply Keeps.foldl | apply Keeps.foldlFst | apply Keeps.elim) | split | with_reducible (apply Keeps.pair; assumption) | dsimp only)

theorem keep_execBistHbmPhyLoopback {s0 : Node} {a0 a1} (h1 : Keeps s0 a1.node) : KeepsS s0 (execBistHbmPhyLoopback a0 a1) := by
  unfold execBistHbmPhyLoopback
  repeat' (first | with_reducible (first | assumption | intro _ | apply keep_bistRow | apply keep_onNode | apply keep_onServed | apply KeepsO.next | apply KeepsO.fault | apply KeepsO.ite | apply Keeps.ite | apply Keeps.iteFst | apply Keeps.foldl | apply Keeps.foldlFst | apply Keeps.elim) | split | with_reducible (apply Keeps.pair; assumption) | dsimp only)

theorem keep_execBistBridgeLoopback {s0 : Node} {a0 a1} (h1 : Keeps s0 a1.node) : KeepsS s0 (execBistBridgeLoopback a0 a1) := by
  unfold execBistBridgeLoopback
  repeat' (first | with_reducible (first | assumption | intro _ | apply keep_bistRow | apply keep_onNode | apply keep_onServed | apply KeepsO.next | apply KeepsO.fault | apply KeepsO.ite | apply Keeps.ite | apply Keeps.iteFst | apply Keeps.foldl | apply Keeps.foldlFst | apply Keeps.elim) | split | with_reducible (apply Keeps.pair; assumption) | dsimp only)

theorem keep_execBistDone {s0 : Node} {a0 a1 a2} (h2 : Keeps s0 a2.node) : KeepsS s0 (execBistDone a0 a1 a2) := by
  unfold execBistDone
  repeat' (first | with_reducible (first | assumption | intro _ | apply keep_dictSet | apply keep_modTest | apply keep_setLb | apply keep_onNode | apply keep_onServed | apply KeepsO.next | apply KeepsO.fault | apply KeepsO.ite | apply Keeps.ite | apply Keeps.iteFst | apply Keeps.foldl | apply Keeps.foldlFst | apply Keeps.elim) | split | with_reducible (apply Keeps.pair; assumption) | dsimp only)

theorem keep_loadIr {s0 : Node} {a0 a1} (h0 : Keeps s0 a0) : Keeps s0 (loadIr a0 a1) := by
  unfold loadIr
  repeat' (first | with_reducible (first | assumption | intro _ | apply keep_modTest | apply keep_setLb | apply Keeps.ite | apply Keeps.iteFst | apply Keeps.foldl | apply Keeps.foldlFst | apply Keeps.elim) | split | with_reducible (apply Keeps.pair; assumption) | dsimp only)

theorem keep_driveBalls {s0 : Node} {a0 a1} (h0 : Keeps s0 a0) : Keeps s0 (driveBalls a0 a1) := by
  unfold driveBalls
  repeat' (first | with_reducible (first | assumption | intro _ | apply keep_loadIr | apply keep_sendOut | apply Keeps.ite | apply Keeps.iteFst | apply Keeps.foldl | apply Keeps.foldlFst | apply Keeps.elim) | split | with_reducible (apply Keeps.pair; assumption) | dsimp only)

theorem keep_execTapReset {s0 : Node} {a0} (h0 : Keeps s0 a0.node) : KeepsS s0 (execTapReset a0) := by
  unfold execTapReset
  repeat' (first | with_reducible (first | assumption | intro _ | apply keep_modTest | apply keep_onNode | apply keep_onServed | apply KeepsO.next | apply KeepsO.fault | apply KeepsO.ite | apply Keeps.ite | apply Keeps.iteFst | apply Keeps.foldl | apply Keeps.foldlFst | apply Keeps.elim) | split | with_reducible (apply Keeps.pair; assumption) | dsimp only)

theorem keep_execIdcode {s0 : Node} {a0} (h0 : Keeps s0 a0.node) : KeepsS s0 (execIdcode a0) := by
  unfold execIdcode
  repeat' (first | with_reducible (first | assumption | intro _ | apply keep_loadIr | apply keep_withResp | apply keep_onNode | apply keep_onServed | apply KeepsO.next | apply KeepsO.fault | apply KeepsO.ite | apply Keeps.ite | apply Keeps.iteFst | apply Keeps.foldl | apply Keeps.foldlFst | apply Keeps.elim) | split | with_reducible (apply Keeps.pair; assumption) | dsimp only)

theorem keep_execSamplePreload {s0 : Node} {a0 a1} (h1 : Keeps s0 a1.node) : KeepsS s0 (execSamplePreload a0 a1) := by
  unfold execSamplePreload
  repeat' (first | with_reducible (first | assumption | intro _ | apply keep_boundary | apply keep_bump | apply keep_loadIr | apply keep_modTest | apply keep_withResp | apply keep_onNode | apply keep_onServed | apply KeepsO.next | apply KeepsO.fault | apply KeepsO.ite | apply Keeps.ite | apply Keeps.iteFst | apply Keeps.foldl | apply Keeps.foldlFst | apply Keeps.elim) | split | with_reducible (apply Keeps.pair; assumption) | dsimp only)

theorem keep_execExtest {s0 : Node} {a0} (h0 : Keeps s0 a0.node) : KeepsS s0 (execExtest a0) := by
  unfold execExtest
  repeat' (first | with_reducible (first | assumption | intro _ | apply keep_driveBalls | apply keep_onNode | apply keep_onServed | apply KeepsO.next | apply KeepsO.fault | apply KeepsO.ite | apply Keeps.ite | apply Keeps.iteFst | apply Keeps.foldl | apply Keeps.foldlFst | apply Keeps.elim) | split | with_reducible (apply Keeps.pair; assumption) | dsimp only)

theorem keep_execHighz {s0 : Node} {a0} (h0 : Keeps s0 a0.node) : KeepsS s0 (execHighz a0) := by
  unfold execHighz
  repeat' (first | with_reducible (first | assumption | intro _ | apply keep_driveBalls | apply keep_onNode | apply keep_onServed | apply KeepsO.next | apply KeepsO.fault | apply KeepsO.ite | apply Keeps.ite | apply Keeps.iteFst | apply Keeps.foldl | apply Keeps.foldlFst | apply Keeps.elim) | split | with_reducible (apply Keeps.pair; assumption) | dsimp only)

theorem keep_execClamp {s0 : Node} {a0} (h0 : Keeps s0 a0.node) : KeepsS s0 (execClamp a0) := by
  unfold execClamp
  repeat' (first | with_reducible (first | assumption | intro _ | apply keep_driveBalls | apply keep_onNode | apply keep_onServed | apply KeepsO.next | apply KeepsO.fault | apply KeepsO.ite | apply Keeps.ite | apply Keeps.iteFst | apply Keeps.foldl | apply Keeps.foldlFst | apply Keeps.elim) | split | with_reducible (apply Keeps.pair; assumption) | dsimp only)

theorem keep_execExtestPulse {s0 : Node} {a0} (h0 : Keeps s0 a0.node) : KeepsS s0 (execExtestPulse a0) := by
  unfold execExtestPulse
  repeat' (first | with_reducible (first | assumption | intro _ | apply keep_driveBalls | apply keep_onNode | apply keep_onServed | apply KeepsO.next | apply KeepsO.fault | apply KeepsO.ite | apply Keeps.ite | apply Keeps.iteFst | apply Keeps.foldl | apply Keeps.foldlFst | apply Keeps.elim) | split | with_reducible (apply Keeps.pair; assumption) | dsimp only)

theorem keep_execExtestTrain {s0 : Node} {a0} (h0 : Keeps s0 a0.node) : KeepsS s0 (execExtestTrain a0) := by
  unfold execExtestTrain
  repeat' (first | with_reducible (first | assumption | intro _ | apply keep_driveBalls | apply keep_onNode | apply keep_onServed | apply KeepsO.next | apply KeepsO.fault | apply KeepsO.ite | apply Keeps.ite | apply Keeps.iteFst | apply Keeps.foldl | apply Keeps.foldlFst | apply Keeps.elim) | split | with_reducible (apply Keeps.pair; assumption) | dsimp only)

theorem keep_execDtmcs {s0 : Node} {a0} (h0 : Keeps s0 a0.node) : KeepsS s0 (execDtmcs a0) := by
  unfold execDtmcs
  repeat' (first | with_reducible (first | assumption | intro _ | apply keep_loadIr | apply keep_withResp | apply keep_onNode | apply keep_onServed | apply KeepsO.next | apply KeepsO.fault | apply KeepsO.ite | apply Keeps.ite | apply Keeps.iteFst | apply Keeps.foldl | apply Keeps.foldlFst | apply Keeps.elim) | split | with_reducible (apply Keeps.pair; assumption) | dsimp only)

theorem keep_execBypass {s0 : Node} {a0} (h0 : Keeps s0 a0.node) : KeepsS s0 (execBypass a0) := by
  unfold execBypass
  repeat' (first | with_reducible (first | assumption | intro _ | apply keep_loadIr | apply keep_withResp | apply keep_onNode | apply keep_onServed | apply KeepsO.next | apply KeepsO.fault | apply KeepsO.ite | apply Keeps.ite | apply Keeps.iteFst | apply Keeps.foldl | apply Keeps.foldlFst | apply Keeps.elim) | split | with_reducible (apply Keeps.pair; assumption) | dsimp only)

theorem keep_clearRead {s0 : Node} {a0 a1} (h0 : Keeps s0 a0) : Keeps s0 (clearRead a0 a1) := by
  unfold clearRead
  repeat' (first | with_reducible (first | assumption | intro _ | apply keep_modCorud | apply keep_modLed | apply keep_regSet | apply Keeps.ite | apply Keeps.iteFst | apply Keeps.foldl | apply Keeps.foldlFst | apply Keeps.elim) | split | with_reducible (apply Keeps.pair; assumption) | dsimp only)

theorem keep_runRow {s0 s : Node} {f : State → Host.Outcome State Fault Refusal} (h : KeepsS s0 (f ⟨[], s⟩)) (h0 : Keeps s0 s) :
    Keeps s0 (runRow s f) := by
  unfold runRow
  split
  · rename_i heq
    rw [heq] at h
    exact h
  · exact h0

theorem keep_secCmdWrite {s0 : Node} {a0 a1} (h0 : Keeps s0 a0) : Keeps s0 (secCmdWrite a0 a1) := by
  unfold secCmdWrite
  repeat' (first | with_reducible (first | assumption | intro _ | apply keep_jobWipe | apply keep_softwareReset | apply Keeps.ite | apply Keeps.iteFst | apply Keeps.foldl | apply Keeps.foldlFst | apply Keeps.elim) | split | with_reducible (apply Keeps.pair; assumption) | dsimp only)

theorem keep_ckptCmdWrite {s0 : Node} {a0 a1} (h0 : Keeps s0 a0) : Keeps s0 (ckptCmdWrite a0 a1) := by
  unfold ckptCmdWrite
  repeat' (first | with_reducible (first | assumption | intro _ | apply keep_askBuddy | apply keep_restoreLocal | apply keep_startCut | apply Keeps.ite | apply Keeps.iteFst | apply Keeps.foldl | apply Keeps.foldlFst | apply Keeps.elim) | split | with_reducible (apply Keeps.pair; assumption) | dsimp only)

theorem keep_lvCmdWrite {s0 : Node} {a0 a1} (h0 : Keeps s0 a0) : Keeps s0 (lvCmdWrite a0 a1) := by
  unfold lvCmdWrite
  repeat' (first | with_reducible (first | assumption | intro _ | apply keep_clearGuard | apply keep_clearLearned | apply Keeps.ite | apply Keeps.iteFst | apply Keeps.foldl | apply Keeps.foldlFst | apply Keeps.elim) | split | with_reducible (apply Keeps.pair; assumption) | dsimp only)

theorem keep_ledgerCmdWrite {s0 : Node} {a0 a1} (h0 : Keeps s0 a0) : Keeps s0 (ledgerCmdWrite a0 a1) := by
  unfold ledgerCmdWrite
  repeat' (first | with_reducible (first | assumption | intro _ | apply keep_ledgerFresh | apply keep_startReplay | apply Keeps.ite | apply Keeps.iteFst | apply Keeps.foldl | apply Keeps.foldlFst | apply Keeps.elim) | split | with_reducible (apply Keeps.pair; assumption) | dsimp only)

theorem keep_dieStore {s0 : Node} {a0 a1 a2 a3} (h0 : Keeps s0 a0) : Keeps s0 (dieStore a0 a1 a2 a3) := by
  unfold dieStore
  repeat' (first | with_reducible (first | assumption | intro _ | apply keep_dieAbort | apply keep_execArrivalCntWrite | apply keep_execDepWatchWrite | apply keep_execElemSlotWrite | apply keep_execGableEnableWrite | apply keep_execGlaunchWrite | apply keep_execGroupKill | apply keep_execGroupResume | apply keep_execImsicSeteipnumWrite | apply keep_execTsEnableWrite | apply keep_execTsListAddrWrite | apply keep_execTsListGoWrite | apply keep_runRow | apply keep_settlePower | apply keep_storeReg | apply keep_updateTimers | apply Keeps.ite | apply Keeps.iteFst | apply Keeps.foldl | apply Keeps.foldlFst | apply Keeps.elim) | split | with_reducible (apply Keeps.pair; assumption) | dsimp only)

theorem keep_baseStore {s0 : Node} {a0 a1 a2} (h0 : Keeps s0 a0) : Keeps s0 (baseStore a0 a1 a2) := by
  unfold baseStore
  repeat' (first | with_reducible (first | assumption | intro _ | apply keep_aplicWrite | apply keep_armWrite | apply keep_bistStart | apply keep_ckptCmdWrite | apply keep_completeStore | apply keep_dzBaseWrite | apply keep_dzCtrlWrite | apply keep_edgeWrite | apply keep_errHeadWrite | apply keep_execBrokerEnableWrite | apply keep_execDepCntWrite | apply keep_execLayoutBatchWrite | apply keep_execNmcSeedWrite | apply keep_execSeqEntryCommit | apply keep_execSeqEntryStageWrite | apply keep_execStuResolveAbort | apply keep_execStuResolveRetry | apply keep_execStuSatpWrite | apply keep_fenceWrite | apply keep_fqBaseWrite | apply keep_fqHeadWrite | apply keep_groupWrite | apply keep_lbWrite | apply keep_ledgerCmdWrite | apply keep_lvCmdWrite | apply keep_mbReq | apply keep_migrateWrite | apply keep_mrWrite | apply keep_nmcCtrlWrite | apply keep_portWrite | apply keep_qpCommand | apply keep_ridgeGoWrite | apply keep_ringDoorbellDz | apply keep_runRow | apply keep_secCmdWrite | apply keep_secExtend | apply keep_shgCmdWrite | apply keep_shgCtrlWrite | apply keep_sqDoorbell | apply keep_storeReg | apply keep_stuCntWrite | apply keep_stuShoot | apply keep_teWrite | apply keep_treeWrite | apply keep_wqWrite | apply Keeps.ite | apply Keeps.iteFst | apply Keeps.foldl | apply Keeps.foldlFst | apply Keeps.elim) | split | with_reducible (apply Keeps.pair; assumption) | dsimp only)

theorem keep_csrStore {s0 : Node} {a0 a1 a2 a3} (h0 : Keeps s0 a0) : Keeps s0 (csrStore a0 a1 a2 a3) := by
  unfold csrStore
  repeat' (first | with_reducible (first | assumption | intro _ | apply keep_baseStore | apply keep_dieStore | apply Keeps.ite | apply Keeps.iteFst | apply Keeps.foldl | apply Keeps.foldlFst | apply Keeps.elim) | split | with_reducible (apply Keeps.pair; assumption) | dsimp only)

theorem keep_refuseCsr {s0 : Node} {a0 a1} (h0 : Keeps s0 a0) : Keeps s0 (refuseCsr a0 a1) := by
  unfold refuseCsr
  repeat' (first | with_reducible (first | assumption | intro _ | apply keep_fSet | apply keep_withResp | apply Keeps.ite | apply Keeps.iteFst | apply Keeps.foldl | apply Keeps.foldlFst | apply Keeps.elim) | split | with_reducible (apply Keeps.pair; assumption) | dsimp only)

theorem keep_csrWriteOp {s0 : Node} {a0 a1 a2 a3 a4} (h0 : Keeps s0 a0) : Keeps s0 (csrWriteOp a0 a1 a2 a3 a4) := by
  unfold csrWriteOp
  repeat' (first | with_reducible (first | assumption | intro _ | apply keep_csrStore | apply keep_refuseCsr | apply keep_withResp | apply Keeps.ite | apply Keeps.iteFst | apply Keeps.foldl | apply Keeps.foldlFst | apply Keeps.elim) | split | with_reducible (apply Keeps.pair; assumption) | dsimp only)

theorem keep_csrReadOp {s0 : Node} {a0 a1 a2 a3} (h0 : Keeps s0 a0) : Keeps s0 (csrReadOp a0 a1 a2 a3) := by
  unfold csrReadOp
  repeat' (first | with_reducible (first | assumption | intro _ | apply keep_clearRead | apply keep_refuseCsr | apply keep_withResp | apply Keeps.ite | apply Keeps.iteFst | apply Keeps.foldl | apply Keeps.foldlFst | apply Keeps.elim) | split | with_reducible (apply Keeps.pair; assumption) | dsimp only)

theorem keep_execCsrWrite {s0 : Node} {a0 a1 a2 a3 a4} (h4 : Keeps s0 a4.node) : KeepsS s0 (execCsrWrite a0 a1 a2 a3 a4) := by
  unfold execCsrWrite
  repeat' (first | with_reducible (first | assumption | intro _ | apply keep_csrWriteOp | apply keep_onNode | apply keep_onServed | apply KeepsO.next | apply KeepsO.fault | apply KeepsO.ite | apply Keeps.ite | apply Keeps.iteFst | apply Keeps.foldl | apply Keeps.foldlFst | apply Keeps.elim) | split | with_reducible (apply Keeps.pair; assumption) | dsimp only)

theorem keep_execRcRegisterRead {s0 : Node} {a0 a1 a2 a3} (h3 : Keeps s0 a3.node) : KeepsS s0 (execRcRegisterRead a0 a1 a2 a3) := by
  unfold execRcRegisterRead
  repeat' (first | with_reducible (first | assumption | intro _ | apply keep_csrReadOp | apply keep_onNode | apply keep_onServed | apply KeepsO.next | apply KeepsO.fault | apply KeepsO.ite | apply Keeps.ite | apply Keeps.iteFst | apply Keeps.foldl | apply Keeps.foldlFst | apply Keeps.elim) | split | with_reducible (apply Keeps.pair; assumption) | dsimp only)

theorem keep_execCommonEnableWrite {s0 : Node} {a0 a1 a2} (h2 : Keeps s0 a2.node) : KeepsS s0 (execCommonEnableWrite a0 a1 a2) := by
  unfold execCommonEnableWrite
  repeat' (first | with_reducible (first | assumption | intro _ | apply keep_csrStore | apply keep_withResp | apply keep_onNode | apply keep_onServed | apply KeepsO.next | apply KeepsO.fault | apply KeepsO.ite | apply Keeps.ite | apply Keeps.iteFst | apply Keeps.foldl | apply Keeps.foldlFst | apply Keeps.elim) | split | with_reducible (apply Keeps.pair; assumption) | dsimp only)

theorem keep_execOwnStepEnds {s0 : Node} {a0 a1} (h1 : Keeps s0 a1.node) : KeepsS s0 (execOwnStepEnds a0 a1) := by
  unfold execOwnStepEnds
  repeat' (first | with_reducible (first | assumption | intro _ | apply keep_ownStepEnds | apply keep_shgStepEnds | apply keep_wqStepEnds | apply keep_onNode | apply keep_onServed | apply KeepsO.next | apply KeepsO.fault | apply KeepsO.ite | apply Keeps.ite | apply Keeps.iteFst | apply Keeps.foldl | apply Keeps.foldlFst | apply Keeps.elim) | split | with_reducible (apply Keeps.pair; assumption) | dsimp only)

theorem keep_cycleStep {s0 : Node} {a0 a1} (h0 : Keeps s0 a0) : Keeps s0 (cycleStep a0 a1) := by
  unfold cycleStep
  repeat' (first | with_reducible (first | assumption | intro _ | apply keep_bump | apply keep_modCore | apply Keeps.ite | apply Keeps.iteFst | apply Keeps.foldl | apply Keeps.foldlFst | apply Keeps.elim) | split | with_reducible (apply Keeps.pair; assumption) | dsimp only)

theorem keep_hpmStep {s0 : Node} {a0 a1} (h0 : Keeps s0 a0) : Keeps s0 (hpmStep a0 a1) := by
  unfold hpmStep
  repeat' (first | with_reducible (first | assumption | intro _ | apply keep_bump | apply keep_modCore | apply Keeps.ite | apply Keeps.iteFst | apply Keeps.foldl | apply Keeps.foldlFst | apply Keeps.elim) | split | with_reducible (apply Keeps.pair; assumption) | dsimp only)

theorem keep_hTrap {s0 : Node} {a0 a1 a2 a3} (h0 : Keeps s0 a0) : Keeps s0 (hTrap a0 a1 a2 a3) := by
  unfold hTrap
  repeat' (first | with_reducible (first | assumption | intro _ | apply keep_modCore | apply Keeps.ite | apply Keeps.iteFst | apply Keeps.foldl | apply Keeps.foldlFst | apply Keeps.elim) | split | with_reducible (apply Keeps.pair; assumption) | dsimp only)

theorem keep_hIllegal {s0 : Node} {a0 a1} (h0 : Keeps s0 a0) : Keeps s0 (hIllegal a0 a1) := by
  unfold hIllegal
  repeat' (first | with_reducible (first | assumption | intro _ | apply keep_hTrap | apply Keeps.ite | apply Keeps.iteFst | apply Keeps.foldl | apply Keeps.foldlFst | apply Keeps.elim) | split | with_reducible (apply Keeps.pair; assumption) | dsimp only)

theorem keep_enterDebug {s0 : Node} {a0 a1 a2} (h0 : Keeps s0 a0) : Keeps s0 (enterDebug a0 a1 a2) := by
  unfold enterDebug
  repeat' (first | with_reducible (first | assumption | intro _ | apply keep_modCore | apply keep_modTest | apply Keeps.ite | apply Keeps.iteFst | apply Keeps.foldl | apply Keeps.foldlFst | apply Keeps.elim) | split | with_reducible (apply Keeps.pair; assumption) | dsimp only)

theorem keep_trigAct {s0 : Node} {a0 a1 a2 a3} (h0 : Keeps s0 a0) : Keeps s0 (trigAct a0 a1 a2 a3) := by
  unfold trigAct
  repeat' (first | with_reducible (first | assumption | intro _ | apply keep_enterDebug | apply keep_hTrap | apply Keeps.ite | apply Keeps.iteFst | apply Keeps.foldl | apply Keeps.foldlFst | apply Keeps.elim) | split | with_reducible (apply Keeps.pair; assumption) | dsimp only)

theorem keep_csrWriteOf {s0 : Node} {a0 a1 a2 a3} (h0 : Keeps s0 a0) : Keeps s0 (csrWriteOf a0 a1 a2 a3) := by
  unfold csrWriteOf
  repeat' (first | with_reducible (first | assumption | intro _ | apply keep_modCore | apply keep_updateTimers | apply Keeps.ite | apply Keeps.iteFst | apply Keeps.foldl | apply Keeps.foldlFst | apply Keeps.elim) | split | with_reducible (apply Keeps.pair; assumption) | dsimp only)

theorem keep_csrInstr {s0 : Node} {a0 a1 a2 a3 a4 a5 a6} (h0 : Keeps s0 a0) : Keeps s0 (csrInstr a0 a1 a2 a3 a4 a5 a6) := by
  unfold csrInstr
  repeat' (first | with_reducible (first | assumption | intro _ | apply keep_csrWriteOf | apply keep_cycleStep | apply keep_hIllegal | apply keep_modCore | apply Keeps.ite | apply Keeps.iteFst | apply Keeps.foldl | apply Keeps.foldlFst | apply Keeps.elim) | split | with_reducible (apply Keeps.pair; assumption) | dsimp only)

theorem keep_hostTranslate {s0 : Node} {a0 a1 a2 a3} (h0 : Keeps s0 a0) : Keeps s0 (hostTranslate a0 a1 a2 a3).1 := by
  unfold hostTranslate
  repeat' (first | with_reducible (first | assumption | intro _ | apply keep_modCore | apply Keeps.ite | apply Keeps.iteFst | apply Keeps.foldl | apply Keeps.foldlFst | apply Keeps.elim) | split | with_reducible (apply Keeps.pair; assumption) | dsimp only)

theorem keep_hostSpan {s0 : Node} {a0 a1 a2 a3 a4} (h0 : Keeps s0 a0) : Keeps s0 (hostSpan a0 a1 a2 a3 a4).1 := by
  unfold hostSpan
  repeat' (first | with_reducible (first | assumption | intro _ | apply keep_hostTranslate | apply Keeps.ite | apply Keeps.iteFst | apply Keeps.foldl | apply Keeps.foldlFst | apply Keeps.elim) | split | with_reducible (apply Keeps.pair; assumption) | dsimp only)

theorem keep_hostPoison {s0 : Node} {a0 a1 a2 a3} (h0 : Keeps s0 a0) : Keeps s0 (hostPoison a0 a1 a2 a3) := by
  unfold hostPoison
  repeat' (first | with_reducible (first | assumption | intro _ | apply keep_logErr | apply Keeps.ite | apply Keeps.iteFst | apply Keeps.foldl | apply Keeps.foldlFst | apply Keeps.elim) | split | with_reducible (apply Keeps.pair; assumption) | dsimp only)

theorem keep_remoteLoad {s0 : Node} {a0 a1 a2 a3 a4} (h0 : Keeps s0 a0) : Keeps s0 (remoteLoad a0 a1 a2 a3 a4).1 := by
  unfold remoteLoad
  repeat' (first | with_reducible (first | assumption | intro _ | apply keep_hostPoison | apply keep_logRemote | apply keep_startRemote | apply keep_takeRemote | apply Keeps.ite | apply Keeps.iteFst | apply Keeps.foldl | apply Keeps.foldlFst | apply Keeps.elim) | split | with_reducible (apply Keeps.pair; assumption) | dsimp only)

theorem keep_hostTouch {s0 : Node} {a0 a1 a2 a3 a4} (h0 : Keeps s0 a0) : Keeps s0 (hostTouch a0 a1 a2 a3 a4) := by
  unfold hostTouch
  repeat' (first | with_reducible (first | assumption | intro _ | apply keep_homeRead | apply keep_noteCore | apply keep_touchRead | apply Keeps.ite | apply Keeps.iteFst | apply Keeps.foldl | apply Keeps.foldlFst | apply Keeps.elim) | split | with_reducible (apply Keeps.pair; assumption) | dsimp only)

theorem keep_pieceLoad {s0 : Node} {a0 a1 a2 a3 a4} (h0 : Keeps s0 a0) : Keeps s0 (pieceLoad a0 a1 a2 a3 a4).1 := by
  unfold pieceLoad
  repeat' (first | with_reducible (first | assumption | intro _ | apply keep_csrReadOp | apply keep_hostTouch | apply keep_withResp | apply Keeps.ite | apply Keeps.iteFst | apply Keeps.foldl | apply Keeps.foldlFst | apply Keeps.elim) | split | with_reducible (apply Keeps.pair; assumption) | dsimp only)

theorem keep_loadPieces {s0 : Node} {a0 a1 a2 a3 a4 a5} (h5 : Keeps s0 a5) : Keeps s0 (loadPieces a0 a1 a2 a3 a4 a5).1 := by
  induction a2 generalizing a0 a1 a3 a4 a5 with
  | nil =>
    unfold loadPieces
    repeat' (first | with_reducible (first | assumption | intro _ | apply keep_pieceLoad | apply Keeps.ite | apply Keeps.iteFst | apply Keeps.foldl | apply Keeps.foldlFst | apply Keeps.elim) | split | with_reducible (apply Keeps.pair; assumption) | dsimp only)
  | cons x l ih =>
    unfold loadPieces
    repeat' (first | with_reducible (first | assumption | apply ih | intro _ | apply keep_pieceLoad | apply Keeps.ite | apply Keeps.iteFst | apply Keeps.foldl | apply Keeps.foldlFst | apply Keeps.elim) | split | with_reducible (apply Keeps.pair; assumption) | dsimp only)

theorem keep_loadAll {s0 : Node} {a0 a1 a2 a3 a4} (h0 : Keeps s0 a0) : Keeps s0 (loadAll a0 a1 a2 a3 a4).1 := by
  unfold loadAll
  repeat' (first | with_reducible (first | assumption | intro _ | apply keep_loadPieces | apply keep_remoteLoad | apply Keeps.ite | apply Keeps.iteFst | apply Keeps.foldl | apply Keeps.foldlFst | apply Keeps.elim) | split | with_reducible (apply Keeps.pair; assumption) | dsimp only)

theorem keep_hostLoad {s0 : Node} {a0 a1 a2 a3} (h0 : Keeps s0 a0) : Keeps s0 (hostLoad a0 a1 a2 a3).1 := by
  unfold hostLoad
  repeat' (first | with_reducible (first | assumption | intro _ | apply keep_hostPoison | apply keep_hostSpan | apply keep_hostTouch | apply keep_loadAll | apply Keeps.ite | apply Keeps.iteFst | apply Keeps.foldl | apply Keeps.foldlFst | apply Keeps.elim) | split | with_reducible (apply Keeps.pair; assumption) | dsimp only)

theorem keep_pieceStore {s0 : Node} {a0 a1 a2 a3 a4} (h0 : Keeps s0 a0) : Keeps s0 (pieceStore a0 a1 a2 a3 a4).1 := by
  unfold pieceStore
  repeat' (first | with_reducible (first | assumption | intro _ | apply keep_csrWriteOp | apply keep_doorbellWrite | apply keep_homeWrite | apply keep_logRemote | apply keep_scratchWrite | apply keep_startRemote | apply keep_storeLine | apply keep_withResp | apply Keeps.ite | apply Keeps.iteFst | apply Keeps.foldl | apply Keeps.foldlFst | apply Keeps.elim) | split | with_reducible (apply Keeps.pair; assumption) | dsimp only)

theorem keep_storePieces {s0 : Node} {a0 a1 a2 a3 a4} (h4 : Keeps s0 a4) : Keeps s0 (storePieces a0 a1 a2 a3 a4).1 := by
  induction a1 generalizing a0 a2 a3 a4 with
  | nil =>
    unfold storePieces
    repeat' (first | with_reducible (first | assumption | intro _ | apply keep_pieceStore | apply Keeps.ite | apply Keeps.iteFst | apply Keeps.foldl | apply Keeps.foldlFst | apply Keeps.elim) | split | with_reducible (apply Keeps.pair; assumption) | dsimp only)
  | cons x l ih =>
    unfold storePieces
    repeat' (first | with_reducible (first | assumption | apply ih | intro _ | apply keep_pieceStore | apply Keeps.ite | apply Keeps.iteFst | apply Keeps.foldl | apply Keeps.foldlFst | apply Keeps.elim) | split | with_reducible (apply Keeps.pair; assumption) | dsimp only)

theorem keep_hostStoreBytes {s0 : Node} {a0 a1 a2 a3} (h0 : Keeps s0 a0) : Keeps s0 (hostStoreBytes a0 a1 a2 a3).1 := by
  unfold hostStoreBytes
  repeat' (first | with_reducible (first | assumption | intro _ | apply keep_hostSpan | apply keep_storePieces | apply Keeps.ite | apply Keeps.iteFst | apply Keeps.foldl | apply Keeps.foldlFst | apply Keeps.elim) | split | with_reducible (apply Keeps.pair; assumption) | dsimp only)

theorem keep_hostStore {s0 : Node} {a0 a1 a2 a3 a4} (h0 : Keeps s0 a0) : Keeps s0 (hostStore a0 a1 a2 a3 a4).1 := by
  unfold hostStore
  repeat' (first | with_reducible (first | assumption | intro _ | apply keep_hostStoreBytes | apply Keeps.ite | apply Keeps.iteFst | apply Keeps.foldl | apply Keeps.foldlFst | apply Keeps.elim) | split | with_reducible (apply Keeps.pair; assumption) | dsimp only)

theorem keep_hostOne {s0 : Node} {a0 a1 a2 a3 a4} (h0 : Keeps s0 a0) : Keeps s0 (hostOne a0 a1 a2 a3 a4).1 := by
  unfold hostOne
  repeat' (first | with_reducible (first | assumption | intro _ | apply keep_hostSpan | apply Keeps.ite | apply Keeps.iteFst | apply Keeps.foldl | apply Keeps.foldlFst | apply Keeps.elim) | split | with_reducible (apply Keeps.pair; assumption) | dsimp only)

theorem keep_hostLr {s0 : Node} {a0 a1 a2 a3 a4} (h0 : Keeps s0 a0) : Keeps s0 (hostLr a0 a1 a2 a3 a4).1 := by
  unfold hostLr
  repeat' (first | with_reducible (first | assumption | intro _ | apply keep_askOnce | apply keep_hostOne | apply keep_hostPoison | apply keep_hostTouch | apply keep_modCore | apply keep_noteCore | apply Keeps.ite | apply Keeps.iteFst | apply Keeps.foldl | apply Keeps.foldlFst | apply Keeps.elim) | split | with_reducible (apply Keeps.pair; assumption) | dsimp only)

theorem keep_hostSc {s0 : Node} {a0 a1 a2 a3 a4 a5} (h0 : Keeps s0 a0) : Keeps s0 (hostSc a0 a1 a2 a3 a4 a5).1 := by
  unfold hostSc
  repeat' (first | with_reducible (first | assumption | intro _ | apply keep_askOnce | apply keep_hostOne | apply keep_modCore | apply keep_storeLine | apply Keeps.ite | apply Keeps.iteFst | apply Keeps.foldl | apply Keeps.foldlFst | apply Keeps.elim) | split | with_reducible (apply Keeps.pair; assumption) | dsimp only)

theorem keep_hostAmo {s0 : Node} {a0 a1 a2 a3 a4 a5 a6} (h0 : Keeps s0 a0) : Keeps s0 (hostAmo a0 a1 a2 a3 a4 a5 a6).1 := by
  unfold hostAmo
  repeat' (first | with_reducible (first | assumption | intro _ | apply keep_askOnce | apply keep_homeAtom | apply keep_hostOne | apply keep_hostPoison | apply keep_hostTouch | apply keep_logRemote | apply keep_noteCore | apply keep_startRemote | apply keep_storeLine | apply keep_takeRemote | apply Keeps.ite | apply Keeps.iteFst | apply Keeps.foldl | apply Keeps.foldlFst | apply Keeps.elim) | split | with_reducible (apply Keeps.pair; assumption) | dsimp only)

theorem keep_hostFetch {s0 : Node} {a0 a1 a2} (h0 : Keeps s0 a0) : Keeps s0 (hostFetch a0 a1 a2).1 := by
  unfold hostFetch
  repeat' (first | with_reducible (first | assumption | intro _ | apply keep_hostPoison | apply keep_hostSpan | apply keep_hostTouch | apply keep_loadAll | apply Keeps.ite | apply Keeps.iteFst | apply Keeps.foldl | apply Keeps.foldlFst | apply Keeps.elim) | split | with_reducible (apply Keeps.pair; assumption) | dsimp only)

theorem keep_hEnd {s0 : Node} {a0 a1 a2} (h0 : Keeps s0 a0.1) (h2 : ∀ x0 x1, Keeps s0 x0 → Keeps s0 (a2 x0 x1)) : Keeps s0 (hEnd a0 a1 a2) := by
  unfold hEnd
  repeat' (first | with_reducible (first | assumption | intro _ | apply h2 | apply keep_hTrap | apply keep_trigAct | apply Keeps.ite | apply Keeps.iteFst | apply Keeps.foldl | apply Keeps.foldlFst | apply Keeps.elim) | split | with_reducible (apply Keeps.pair; assumption) | dsimp only)

theorem keep_vRetire {s0 : Node} {a0 a1 a2} (h0 : Keeps s0 a0) : Keeps s0 (vRetire a0 a1 a2) := by
  unfold vRetire
  repeat' (first | with_reducible (first | assumption | intro _ | apply keep_modCore | apply Keeps.ite | apply Keeps.iteFst | apply Keeps.foldl | apply Keeps.foldlFst | apply Keeps.elim) | split | with_reducible (apply Keeps.pair; assumption) | dsimp only)

theorem keep_vSet {s0 : Node} {a0 a1 a2 a3 a4 a5} (h0 : Keeps s0 a0) : Keeps s0 (vSet a0 a1 a2 a3 a4 a5) := by
  unfold vSet
  repeat' (first | with_reducible (first | assumption | intro _ | apply keep_hIllegal | apply keep_modCore | apply Keeps.ite | apply Keeps.iteFst | apply Keeps.foldl | apply Keeps.foldlFst | apply Keeps.elim) | split | with_reducible (apply Keeps.pair; assumption) | dsimp only)

theorem keep_withV {s0 : Node} {a0 a1 a2 a3} (h0 : Keeps s0 a0) : Keeps s0 (withV a0 a1 a2 a3) := by
  unfold withV
  repeat' (first | with_reducible (first | assumption | intro _ | apply keep_hIllegal | apply keep_modCore | apply keep_vRetire | apply Keeps.ite | apply Keeps.iteFst | apply Keeps.foldl | apply Keeps.foldlFst | apply Keeps.elim) | split | with_reducible (apply Keeps.pair; assumption) | dsimp only)

theorem keep_vStops {s0 : Node} {a0 a1 a2} (h0 : Keeps s0 a0) : Keeps s0 (vStops a0 a1 a2) := by
  unfold vStops
  repeat' (first | with_reducible (first | assumption | intro _ | apply keep_modCore | apply Keeps.ite | apply Keeps.iteFst | apply Keeps.foldl | apply Keeps.foldlFst | apply Keeps.elim) | split | with_reducible (apply Keeps.pair; assumption) | dsimp only)

theorem keep_vLoadGo {s0 : Node} {a0 a1 a2 a3 a4} (h4 : Keeps s0 a4) : Keeps s0 (vLoadGo a0 a1 a2 a3 a4).1 := by
  induction a3 generalizing a0 a1 a2 a4 with
  | nil =>
    unfold vLoadGo
    repeat' (first | with_reducible (first | assumption | intro _ | apply keep_hostLoad | apply keep_modCore | apply keep_vStops | apply Keeps.ite | apply Keeps.iteFst | apply Keeps.foldl | apply Keeps.foldlFst | apply Keeps.elim) | split | with_reducible (apply Keeps.pair; assumption) | dsimp only)
  | cons x l ih =>
    unfold vLoadGo
    repeat' (first | with_reducible (first | assumption | apply ih | intro _ | apply keep_hostLoad | apply keep_modCore | apply keep_vStops | apply Keeps.ite | apply Keeps.iteFst | apply Keeps.foldl | apply Keeps.foldlFst | apply Keeps.elim) | split | with_reducible (apply Keeps.pair; assumption) | dsimp only)

theorem keep_vStoreGo {s0 : Node} {a0 a1 a2 a3} (h3 : Keeps s0 a3) : Keeps s0 (vStoreGo a0 a1 a2 a3).1 := by
  induction a2 generalizing a0 a1 a3 with
  | nil =>
    unfold vStoreGo
    repeat' (first | with_reducible (first | assumption | intro _ | apply keep_hostStore | apply keep_vStops | apply Keeps.ite | apply Keeps.iteFst | apply Keeps.foldl | apply Keeps.foldlFst | apply Keeps.elim) | split | with_reducible (apply Keeps.pair; assumption) | dsimp only)
  | cons x l ih =>
    unfold vStoreGo
    repeat' (first | with_reducible (first | assumption | apply ih | intro _ | apply keep_hostStore | apply keep_vStops | apply Keeps.ite | apply Keeps.iteFst | apply Keeps.foldl | apply Keeps.foldlFst | apply Keeps.elim) | split | with_reducible (apply Keeps.pair; assumption) | dsimp only)

theorem keep_vMem {s0 : Node} {a0 a1 a2 a3 a4 a5 a6} (h0 : Keeps s0 a0) : Keeps s0 (vMem a0 a1 a2 a3 a4 a5 a6) := by
  unfold vMem
  repeat' (first | with_reducible (first | assumption | intro _ | apply keep_hEnd | apply keep_vLoadGo | apply keep_vRetire | apply keep_vStoreGo | apply Keeps.ite | apply Keeps.iteFst | apply Keeps.foldl | apply Keeps.foldlFst | apply Keeps.elim) | split | with_reducible (apply Keeps.pair; assumption) | dsimp only)

theorem keep_vMemOp {s0 : Node} {a0 a1 a2 a3 a4 a5 a6 a7 a8 a9 a10} (h0 : Keeps s0 a0) : Keeps s0 (vMemOp a0 a1 a2 a3 a4 a5 a6 a7 a8 a9 a10) := by
  unfold vMemOp
  repeat' (first | with_reducible (first | assumption | intro _ | apply keep_hIllegal | apply keep_vMem | apply Keeps.ite | apply Keeps.iteFst | apply Keeps.foldl | apply Keeps.foldlFst | apply Keeps.elim) | split | with_reducible (apply Keeps.pair; assumption) | dsimp only)

theorem keep_vMemPlain {s0 : Node} {a0 a1 a2 a3 a4 a5 a6 a7 a8 a9} (h0 : Keeps s0 a0) : Keeps s0 (vMemPlain a0 a1 a2 a3 a4 a5 a6 a7 a8 a9) := by
  unfold vMemPlain
  repeat' (first | with_reducible (first | assumption | intro _ | apply keep_hIllegal | apply keep_vMem | apply Keeps.ite | apply Keeps.iteFst | apply Keeps.foldl | apply Keeps.foldlFst | apply Keeps.elim) | split | with_reducible (apply Keeps.pair; assumption) | dsimp only)

theorem keep_withVF {s0 : Node} {a0 a1 a2 a3} (h0 : Keeps s0 a0) : Keeps s0 (withVF a0 a1 a2 a3) := by
  unfold withVF
  repeat' (first | with_reducible (first | assumption | intro _ | apply keep_withV | apply Keeps.ite | apply Keeps.iteFst | apply Keeps.foldl | apply Keeps.foldlFst | apply Keeps.elim) | split | with_reducible (apply Keeps.pair; assumption) | dsimp only)

theorem keep_vecInt {s0 : Node} {a0 a1 a2 a3} (h0 : Keeps s0 a0) : Keeps s0 (vecInt a0 a1 a2 a3) := by
  unfold vecInt
  repeat' (first | with_reducible (first | assumption | intro _ | apply keep_withV | apply Keeps.ite | apply Keeps.iteFst | apply Keeps.foldl | apply Keeps.foldlFst | apply Keeps.elim) | split | with_reducible (apply Keeps.pair; assumption) | dsimp only)

theorem keep_vecMove {s0 : Node} {a0 a1 a2 a3} (h0 : Keeps s0 a0) : Keeps s0 (vecMove a0 a1 a2 a3) := by
  unfold vecMove
  repeat' (first | with_reducible (first | assumption | intro _ | apply keep_withV | apply Keeps.ite | apply Keeps.iteFst | apply Keeps.foldl | apply Keeps.foldlFst | apply Keeps.elim) | split | with_reducible (apply Keeps.pair; assumption) | dsimp only)

theorem keep_vecFlt {s0 : Node} {a0 a1 a2 a3} (h0 : Keeps s0 a0) : Keeps s0 (vecFlt a0 a1 a2 a3) := by
  unfold vecFlt
  repeat' (first | with_reducible (first | assumption | intro _ | apply keep_withVF | apply Keeps.ite | apply Keeps.iteFst | apply Keeps.foldl | apply Keeps.foldlFst | apply Keeps.elim) | split | with_reducible (apply Keeps.pair; assumption) | dsimp only)

theorem keep_vecCrypto {s0 : Node} {a0 a1 a2 a3} (h0 : Keeps s0 a0) : Keeps s0 (vecCrypto a0 a1 a2 a3) := by
  unfold vecCrypto
  repeat' (first | with_reducible (first | assumption | intro _ | apply keep_withV | apply Keeps.ite | apply Keeps.iteFst | apply Keeps.foldl | apply Keeps.foldlFst | apply Keeps.elim) | split | with_reducible (apply Keeps.pair; assumption) | dsimp only)

theorem keep_vWhole {s0 : Node} {a0 a1 a2 a3 a4 a5} (h0 : Keeps s0 a0) : Keeps s0 (vWhole a0 a1 a2 a3 a4 a5) := by
  unfold vWhole
  repeat' (first | with_reducible (first | assumption | intro _ | apply keep_withV | apply Keeps.ite | apply Keeps.iteFst | apply Keeps.foldl | apply Keeps.foldlFst | apply Keeps.elim) | split | with_reducible (apply Keeps.pair; assumption) | dsimp only)

theorem keep_vecEffect {s0 : Node} {a0 a1 a2 a3} (h0 : Keeps s0 a0) : Keeps s0 (vecEffect a0 a1 a2 a3) := by
  unfold vecEffect
  repeat' (first | with_reducible (first | assumption | intro _ | apply keep_vMemOp | apply keep_vMemPlain | apply keep_vWhole | apply keep_vecCrypto | apply keep_vecFlt | apply keep_vecInt | apply keep_vecMove | apply Keeps.ite | apply Keeps.iteFst | apply Keeps.foldl | apply Keeps.foldlFst | apply Keeps.elim) | split | with_reducible (apply Keeps.pair; assumption) | dsimp only)

theorem keep_hWrite {s0 : Node} {a0 a1 a2 a3 a4} (h0 : Keeps s0 a0) : Keeps s0 (hWrite a0 a1 a2 a3 a4) := by
  unfold hWrite
  repeat' (first | with_reducible (first | assumption | intro _ | apply keep_modCore | apply Keeps.ite | apply Keeps.iteFst | apply Keeps.foldl | apply Keeps.foldlFst | apply Keeps.elim) | split | with_reducible (apply Keeps.pair; assumption) | dsimp only)

theorem keep_withFp {s0 : Node} {a0 a1 a2 a3} (h0 : Keeps s0 a0) (h3 : ∀ x0, Keeps s0 (a3 x0)) : Keeps s0 (withFp a0 a1 a2 a3) := by
  unfold withFp
  repeat' (first | with_reducible (first | assumption | intro _ | apply h3 | apply keep_hIllegal | apply Keeps.ite | apply Keeps.iteFst | apply Keeps.foldl | apply Keeps.foldlFst | apply Keeps.elim) | split | with_reducible (apply Keeps.pair; assumption) | dsimp only)

theorem keep_withRm {s0 : Node} {a0 a1 a2 a3 a4} (h0 : Keeps s0 a0) (h4 : ∀ x0 x1, Keeps s0 (a4 x0 x1)) : Keeps s0 (withRm a0 a1 a2 a3 a4) := by
  unfold withRm
  repeat' (first | with_reducible (first | assumption | intro _ | apply h4 | apply keep_hIllegal | apply keep_withFp | apply Keeps.ite | apply Keeps.iteFst | apply Keeps.foldl | apply Keeps.foldlFst | apply Keeps.elim) | split | with_reducible (apply Keeps.pair; assumption) | dsimp only)

theorem keep_hFlt {s0 : Node} {a0 a1 a2 a3 a4 a5} (h0 : Keeps s0 a0) : Keeps s0 (hFlt a0 a1 a2 a3 a4 a5) := by
  unfold hFlt
  repeat' (first | with_reducible (first | assumption | intro _ | apply keep_modCore | apply Keeps.ite | apply Keeps.iteFst | apply Keeps.foldl | apply Keeps.foldlFst | apply Keeps.elim) | split | with_reducible (apply Keeps.pair; assumption) | dsimp only)

theorem keep_hFltInt {s0 : Node} {a0 a1 a2 a3 a4} (h0 : Keeps s0 a0) : Keeps s0 (hFltInt a0 a1 a2 a3 a4) := by
  unfold hFltInt
  repeat' (first | with_reducible (first | assumption | intro _ | apply keep_modCore | apply Keeps.ite | apply Keeps.iteFst | apply Keeps.foldl | apply Keeps.foldlFst | apply Keeps.elim) | split | with_reducible (apply Keeps.pair; assumption) | dsimp only)

theorem keep_hJump {s0 : Node} {a0 a1 a2 a3 a4} (h0 : Keeps s0 a0) : Keeps s0 (hJump a0 a1 a2 a3 a4) := by
  unfold hJump
  repeat' (first | with_reducible (first | assumption | intro _ | apply keep_modCore | apply Keeps.ite | apply Keeps.iteFst | apply Keeps.foldl | apply Keeps.foldlFst | apply Keeps.elim) | split | with_reducible (apply Keeps.pair; assumption) | dsimp only)

theorem keep_hBranch {s0 : Node} {a0 a1 a2 a3 a4} (h0 : Keeps s0 a0) : Keeps s0 (hBranch a0 a1 a2 a3 a4) := by
  unfold hBranch
  repeat' (first | with_reducible (first | assumption | intro _ | apply keep_modCore | apply Keeps.ite | apply Keeps.iteFst | apply Keeps.foldl | apply Keeps.foldlFst | apply Keeps.elim) | split | with_reducible (apply Keeps.pair; assumption) | dsimp only)

theorem keep_hostEffect {s0 : Node} {a0 a1 a2 a3} (h0 : Keeps s0 a0) : Keeps s0 (hostEffect a0 a1 a2 a3) := by
  unfold hostEffect
  repeat' (first | with_reducible (first | assumption | intro _ | apply keep_bump | apply keep_csrInstr | apply keep_enterDebug | apply keep_hBranch | apply keep_hEnd | apply keep_hFlt | apply keep_hFltInt | apply keep_hIllegal | apply keep_hJump | apply keep_hTrap | apply keep_hWrite | apply keep_hostAmo | apply keep_hostLoad | apply keep_hostLr | apply keep_hostSc | apply keep_hostStore | apply keep_modCore | apply keep_vSet | apply keep_vecEffect | apply keep_withFp | apply keep_withRm | apply Keeps.ite | apply Keeps.iteFst | apply Keeps.foldl | apply Keeps.foldlFst | apply Keeps.elim) | split | with_reducible (apply Keeps.pair; assumption) | dsimp only)

theorem keep_stepEnds {s0 : Node} {a0 a1} (h0 : Keeps s0 a0) : Keeps s0 (stepEnds a0 a1) := by
  unfold stepEnds
  repeat' (first | with_reducible (first | assumption | intro _ | apply keep_enterDebug | apply Keeps.ite | apply Keeps.iteFst | apply Keeps.foldl | apply Keeps.foldlFst | apply Keeps.elim) | split | with_reducible (apply Keeps.pair; assumption) | dsimp only)

theorem keep_hostRun {s0 : Node} {a0 a1 a2 a3} (h0 : Keeps s0 a0) (h3 : ∀ x0, Keeps s0 x0 → Keeps s0 (a3 x0)) : Keeps s0 (hostRun a0 a1 a2 a3) := by
  unfold hostRun
  repeat' (first | with_reducible (first | assumption | intro _ | apply h3 | apply keep_hTrap | apply keep_hostFetch | apply keep_hpmStep | apply keep_modCore | apply keep_stepEnds | apply keep_trigAct | apply Keeps.ite | apply Keeps.iteFst | apply Keeps.foldl | apply Keeps.foldlFst | apply Keeps.elim) | split | with_reducible (apply Keeps.pair; assumption) | dsimp only)

theorem keep_execHostCoreInstruction {s0 : Node} {a0 a1 a2 a3} (h3 : Keeps s0 a3.node) : KeepsS s0 (execHostCoreInstruction a0 a1 a2 a3) := by
  unfold execHostCoreInstruction
  repeat' (first | with_reducible (first | assumption | intro _ | apply keep_hostEffect | apply keep_hostRun | apply keep_onCore | apply keep_onNode | apply keep_onServed | apply KeepsO.next | apply KeepsO.fault | apply KeepsO.ite | apply Keeps.ite | apply Keeps.iteFst | apply Keeps.foldl | apply Keeps.foldlFst | apply Keeps.elim) | split | with_reducible (apply Keeps.pair; assumption) | dsimp only)

theorem keep_satpWrite {s0 : Node} {a0 a1 a2} (h0 : Keeps s0 a0) : Keeps s0 (satpWrite a0 a1 a2) := by
  unfold satpWrite
  repeat' (first | with_reducible (first | assumption | intro _ | apply keep_csrWriteOf | apply keep_hIllegal | apply keep_modCore | apply Keeps.ite | apply Keeps.iteFst | apply Keeps.foldl | apply Keeps.foldlFst | apply Keeps.elim) | split | with_reducible (apply Keeps.pair; assumption) | dsimp only)

theorem keep_execSatpWrite {s0 : Node} {a0 a1 a2} (h2 : Keeps s0 a2.node) : KeepsS s0 (execSatpWrite a0 a1 a2) := by
  unfold execSatpWrite
  repeat' (first | with_reducible (first | assumption | intro _ | apply keep_hostRun | apply keep_onCore | apply keep_satpWrite | apply keep_onNode | apply keep_onServed | apply KeepsO.next | apply KeepsO.fault | apply KeepsO.ite | apply Keeps.ite | apply Keeps.iteFst | apply Keeps.foldl | apply Keeps.foldlFst | apply Keeps.elim) | split | with_reducible (apply Keeps.pair; assumption) | dsimp only)

theorem keep_cboLine {s0 : Node} {a0 a1 a2 a3 a4} (h0 : Keeps s0 a0) : Keeps s0 (cboLine a0 a1 a2 a3 a4) := by
  unfold cboLine
  repeat' (first | with_reducible (first | assumption | intro _ | apply keep_hIllegal | apply keep_hTrap | apply keep_homeGo | apply keep_hostOne | apply keep_modCore | apply keep_sendHome | apply Keeps.ite | apply Keeps.iteFst | apply Keeps.foldl | apply Keeps.foldlFst | apply Keeps.elim) | split | with_reducible (apply Keeps.pair; assumption) | dsimp only)

theorem keep_cboZero {s0 : Node} {a0 a1 a2} (h0 : Keeps s0 a0) : Keeps s0 (cboZero a0 a1 a2) := by
  unfold cboZero
  repeat' (first | with_reducible (first | assumption | intro _ | apply keep_hIllegal | apply keep_hTrap | apply keep_hostOne | apply keep_modCore | apply keep_pieceStore | apply Keeps.ite | apply Keeps.iteFst | apply Keeps.foldl | apply Keeps.foldlFst | apply Keeps.elim) | split | with_reducible (apply Keeps.pair; assumption) | dsimp only)

theorem keep_execCboClean {s0 : Node} {a0 a1 a2} (h2 : Keeps s0 a2.node) : KeepsS s0 (execCboClean a0 a1 a2) := by
  unfold execCboClean
  repeat' (first | with_reducible (first | assumption | intro _ | apply keep_cboLine | apply keep_hostRun | apply keep_onCore | apply keep_onNode | apply keep_onServed | apply KeepsO.next | apply KeepsO.fault | apply KeepsO.ite | apply Keeps.ite | apply Keeps.iteFst | apply Keeps.foldl | apply Keeps.foldlFst | apply Keeps.elim) | split | with_reducible (apply Keeps.pair; assumption) | dsimp only)

theorem keep_execCboFlush {s0 : Node} {a0 a1 a2} (h2 : Keeps s0 a2.node) : KeepsS s0 (execCboFlush a0 a1 a2) := by
  unfold execCboFlush
  repeat' (first | with_reducible (first | assumption | intro _ | apply keep_cboLine | apply keep_hostRun | apply keep_onCore | apply keep_onNode | apply keep_onServed | apply KeepsO.next | apply KeepsO.fault | apply KeepsO.ite | apply Keeps.ite | apply Keeps.iteFst | apply Keeps.foldl | apply Keeps.foldlFst | apply Keeps.elim) | split | with_reducible (apply Keeps.pair; assumption) | dsimp only)

theorem keep_execCboInval {s0 : Node} {a0 a1 a2} (h2 : Keeps s0 a2.node) : KeepsS s0 (execCboInval a0 a1 a2) := by
  unfold execCboInval
  repeat' (first | with_reducible (first | assumption | intro _ | apply keep_cboLine | apply keep_hostRun | apply keep_onCore | apply keep_onNode | apply keep_onServed | apply KeepsO.next | apply KeepsO.fault | apply KeepsO.ite | apply Keeps.ite | apply Keeps.iteFst | apply Keeps.foldl | apply Keeps.foldlFst | apply Keeps.elim) | split | with_reducible (apply Keeps.pair; assumption) | dsimp only)

theorem keep_execCboZero {s0 : Node} {a0 a1 a2} (h2 : Keeps s0 a2.node) : KeepsS s0 (execCboZero a0 a1 a2) := by
  unfold execCboZero
  repeat' (first | with_reducible (first | assumption | intro _ | apply keep_cboZero | apply keep_hostRun | apply keep_onCore | apply keep_onNode | apply keep_onServed | apply KeepsO.next | apply KeepsO.fault | apply KeepsO.ite | apply Keeps.ite | apply Keeps.iteFst | apply Keeps.foldl | apply Keeps.foldlFst | apply Keeps.elim) | split | with_reducible (apply Keeps.pair; assumption) | dsimp only)

theorem keep_sfence {s0 : Node} {a0 a1 a2 a3} (h0 : Keeps s0 a0) : Keeps s0 (sfence a0 a1 a2 a3) := by
  unfold sfence
  repeat' (first | with_reducible (first | assumption | intro _ | apply keep_hIllegal | apply keep_modCore | apply Keeps.ite | apply Keeps.iteFst | apply Keeps.foldl | apply Keeps.foldlFst | apply Keeps.elim) | split | with_reducible (apply Keeps.pair; assumption) | dsimp only)

theorem keep_execSfenceVma {s0 : Node} {a0 a1 a2 a3} (h3 : Keeps s0 a3.node) : KeepsS s0 (execSfenceVma a0 a1 a2 a3) := by
  unfold execSfenceVma
  repeat' (first | with_reducible (first | assumption | intro _ | apply keep_hostRun | apply keep_onCore | apply keep_sfence | apply keep_onNode | apply keep_onServed | apply KeepsO.next | apply KeepsO.fault | apply KeepsO.ite | apply Keeps.ite | apply Keeps.iteFst | apply Keeps.foldl | apply Keeps.foldlFst | apply Keeps.elim) | split | with_reducible (apply Keeps.pair; assumption) | dsimp only)

theorem keep_dmPut {s0 : Node} {a0 a1 a2} (h0 : Keeps s0 a0) : Keeps s0 (dmPut a0 a1 a2) := by
  unfold dmPut
  repeat' (first | with_reducible (first | assumption | intro _ | apply keep_modTest | apply Keeps.ite | apply Keeps.iteFst | apply Keeps.foldl | apply Keeps.foldlFst | apply Keeps.elim) | split | with_reducible (apply Keeps.pair; assumption) | dsimp only)

theorem keep_hartResume {s0 : Node} {a0 a1} (h0 : Keeps s0 a0) : Keeps s0 (hartResume a0 a1) := by
  unfold hartResume
  repeat' (first | with_reducible (first | assumption | intro _ | apply keep_dmPut | apply keep_modCore | apply keep_modTest | apply Keeps.ite | apply Keeps.iteFst | apply Keeps.foldl | apply Keeps.foldlFst | apply Keeps.elim) | split | with_reducible (apply Keeps.pair; assumption) | dsimp only)

theorem keep_dmControl {s0 : Node} {a0 a1} (h0 : Keeps s0 a0) : Keeps s0 (dmControl a0 a1) := by
  unfold dmControl
  repeat' (first | with_reducible (first | assumption | intro _ | apply keep_dmPut | apply keep_enterDebug | apply keep_hartResume | apply keep_modTest | apply Keeps.ite | apply Keeps.iteFst | apply Keeps.foldl | apply Keeps.foldlFst | apply Keeps.elim) | split | with_reducible (apply Keeps.pair; assumption) | dsimp only)

theorem keep_cmdErr {s0 : Node} {a0 a1} (h0 : Keeps s0 a0) : Keeps s0 (cmdErr a0 a1) := by
  unfold cmdErr
  repeat' (first | with_reducible (first | assumption | intro _ | apply keep_dmPut | apply Keeps.ite | apply Keeps.iteFst | apply Keeps.foldl | apply Keeps.foldlFst | apply Keeps.elim) | split | with_reducible (apply Keeps.pair; assumption) | dsimp only)

theorem keep_dmArgPut {s0 : Node} {a0 a1 a2 a3} (h0 : Keeps s0 a0) : Keeps s0 (dmArgPut a0 a1 a2 a3) := by
  unfold dmArgPut
  repeat' (first | with_reducible (first | assumption | intro _ | apply keep_dmPut | apply Keeps.ite | apply Keeps.iteFst | apply Keeps.foldl | apply Keeps.foldlFst | apply Keeps.elim) | split | with_reducible (apply Keeps.pair; assumption) | dsimp only)

theorem keep_dbgWrite {s0 : Node} {a0 a1 a2 a3} (h0 : Keeps s0 a0) : Keeps s0 (dbgWrite a0 a1 a2 a3) := by
  unfold dbgWrite
  repeat' (first | with_reducible (first | assumption | intro _ | apply keep_csrWriteOf | apply keep_modCore | apply Keeps.ite | apply Keeps.iteFst | apply Keeps.foldl | apply Keeps.foldlFst | apply Keeps.elim) | split | with_reducible (apply Keeps.pair; assumption) | dsimp only)

theorem keep_cmdRegister {s0 : Node} {a0 a1} (h0 : Keeps s0 a0) : Keeps s0 (cmdRegister a0 a1) := by
  unfold cmdRegister
  repeat' (first | with_reducible (first | assumption | intro _ | apply keep_cmdErr | apply keep_cycleStep | apply keep_dbgWrite | apply keep_dmArgPut | apply Keeps.ite | apply Keeps.iteFst | apply Keeps.foldl | apply Keeps.foldlFst | apply Keeps.elim) | split | with_reducible (apply Keeps.pair; assumption) | dsimp only)

theorem keep_cmdMemory {s0 : Node} {a0 a1} (h0 : Keeps s0 a0) : Keeps s0 (cmdMemory a0 a1) := by
  unfold cmdMemory
  repeat' (first | with_reducible (first | assumption | intro _ | apply keep_cmdErr | apply keep_dmArgPut | apply keep_hostLoad | apply keep_hostStore | apply keep_modCore | apply Keeps.ite | apply Keeps.iteFst | apply Keeps.foldl | apply Keeps.foldlFst | apply Keeps.elim) | split | with_reducible (apply Keeps.pair; assumption) | dsimp only)

theorem keep_dmCommand {s0 : Node} {a0 a1} (h0 : Keeps s0 a0) : Keeps s0 (dmCommand a0 a1) := by
  unfold dmCommand
  repeat' (first | with_reducible (first | assumption | intro _ | apply keep_cmdErr | apply keep_cmdMemory | apply keep_cmdRegister | apply Keeps.ite | apply Keeps.iteFst | apply Keeps.foldl | apply Keeps.foldlFst | apply Keeps.elim) | split | with_reducible (apply Keeps.pair; assumption) | dsimp only)

theorem keep_sbError {s0 : Node} {a0 a1} (h0 : Keeps s0 a0) : Keeps s0 (sbError a0 a1) := by
  unfold sbError
  repeat' (first | with_reducible (first | assumption | intro _ | apply keep_dmPut | apply Keeps.ite | apply Keeps.iteFst | apply Keeps.foldl | apply Keeps.foldlFst | apply Keeps.elim) | split | with_reducible (apply Keeps.pair; assumption) | dsimp only)

theorem keep_sbStep {s0 : Node} {a0 a1} (h0 : Keeps s0 a0) : Keeps s0 (sbStep a0 a1) := by
  unfold sbStep
  repeat' (first | with_reducible (first | assumption | intro _ | apply keep_dmPut | apply Keeps.ite | apply Keeps.iteFst | apply Keeps.foldl | apply Keeps.foldlFst | apply Keeps.elim) | split | with_reducible (apply Keeps.pair; assumption) | dsimp only)

theorem keep_sbRead {s0 : Node} {a0} (h0 : Keeps s0 a0) : Keeps s0 (sbRead a0) := by
  unfold sbRead
  repeat' (first | with_reducible (first | assumption | intro _ | apply keep_csrReadOp | apply keep_dmPut | apply keep_homeRead | apply keep_sbError | apply keep_sbStep | apply keep_withResp | apply Keeps.ite | apply Keeps.iteFst | apply Keeps.foldl | apply Keeps.foldlFst | apply Keeps.elim) | split | with_reducible (apply Keeps.pair; assumption) | dsimp only)

theorem keep_sbWrite {s0 : Node} {a0} (h0 : Keeps s0 a0) : Keeps s0 (sbWrite a0) := by
  unfold sbWrite
  repeat' (first | with_reducible (first | assumption | intro _ | apply keep_csrWriteOp | apply keep_homeWrite | apply keep_sbError | apply keep_sbStep | apply keep_scratchWrite | apply keep_withResp | apply Keeps.ite | apply Keeps.iteFst | apply Keeps.foldl | apply Keeps.foldlFst | apply Keeps.elim) | split | with_reducible (apply Keeps.pair; assumption) | dsimp only)

theorem keep_dmWrite {s0 : Node} {a0 a1 a2} (h0 : Keeps s0 a0) : Keeps s0 (dmWrite a0 a1 a2) := by
  unfold dmWrite
  repeat' (first | with_reducible (first | assumption | intro _ | apply keep_dmCommand | apply keep_dmPut | apply keep_sbRead | apply keep_sbWrite | apply Keeps.ite | apply Keeps.iteFst | apply Keeps.foldl | apply Keeps.foldlFst | apply Keeps.elim) | split | with_reducible (apply Keeps.pair; assumption) | dsimp only)

theorem keep_dmiOp {s0 : Node} {a0 a1 a2 a3} (h0 : Keeps s0 a0) : Keeps s0 (dmiOp a0 a1 a2 a3) := by
  unfold dmiOp
  repeat' (first | with_reducible (first | assumption | intro _ | apply keep_access | apply keep_dmControl | apply keep_dmWrite | apply keep_sbRead | apply keep_withResp | apply Keeps.ite | apply Keeps.iteFst | apply Keeps.foldl | apply Keeps.foldlFst | apply Keeps.elim) | split | with_reducible (apply Keeps.pair; assumption) | dsimp only)

theorem keep_execDmi {s0 : Node} {a0 a1 a2 a3} (h3 : Keeps s0 a3.node) : KeepsS s0 (execDmi a0 a1 a2 a3) := by
  unfold execDmi
  repeat' (first | with_reducible (first | assumption | intro _ | apply keep_access | apply keep_dmiOp | apply keep_loadIr | apply keep_withResp | apply keep_onNode | apply keep_onServed | apply KeepsO.next | apply KeepsO.fault | apply KeepsO.ite | apply Keeps.ite | apply Keeps.iteFst | apply Keeps.foldl | apply Keeps.foldlFst | apply Keeps.elim) | split | with_reducible (apply Keeps.pair; assumption) | dsimp only)

theorem keep_fenceLostStack {s0 : Node} {a0} (h0 : Keeps s0 a0) : Keeps s0 (fenceLostStack a0) := by
  unfold fenceLostStack
  repeat' (first | with_reducible (first | assumption | intro _ | apply keep_storeNat | apply Keeps.ite | apply Keeps.iteFst | apply Keeps.foldl | apply Keeps.foldlFst | apply Keeps.elim) | split | with_reducible (apply Keeps.pair; assumption) | dsimp only)

theorem keep_execNodeLeaving {s0 : Node} {a0} (h0 : Keeps s0 a0.node) : KeepsS s0 (execNodeLeaving a0) := by
  unfold execNodeLeaving
  repeat' (first | with_reducible (first | assumption | intro _ | apply keep_fenceLostStack | apply keep_forwardRecords | apply keep_logErr | apply keep_warmReset | apply keep_onNode | apply keep_onServed | apply KeepsO.next | apply KeepsO.fault | apply KeepsO.ite | apply Keeps.ite | apply Keeps.iteFst | apply Keeps.foldl | apply Keeps.foldlFst | apply Keeps.elim) | split | with_reducible (apply Keeps.pair; assumption) | dsimp only)

theorem keep_execMpAllLost {s0 : Node} {a0} (h0 : Keeps s0 a0.node) : KeepsS s0 (execMpAllLost a0) := by
  unfold execMpAllLost
  repeat' (first | with_reducible (first | assumption | intro _ | apply keep_fSet | apply keep_fenceLostStack | apply keep_logErr | apply keep_warmReset | apply keep_onNode | apply keep_onServed | apply KeepsO.next | apply KeepsO.fault | apply KeepsO.ite | apply Keeps.ite | apply Keeps.iteFst | apply Keeps.foldl | apply Keeps.foldlFst | apply Keeps.elim) | split | with_reducible (apply Keeps.pair; assumption) | dsimp only)

theorem keep_execOrphanReset {s0 : Node} {a0} (h0 : Keeps s0 a0.node) : KeepsS s0 (execOrphanReset a0) := by
  unfold execOrphanReset
  repeat' (first | with_reducible (first | assumption | intro _ | apply keep_forwardRecords | apply keep_logErr | apply keep_warmReset | apply keep_onNode | apply keep_onServed | apply KeepsO.next | apply KeepsO.fault | apply KeepsO.ite | apply Keeps.ite | apply Keeps.iteFst | apply Keeps.foldl | apply Keeps.foldlFst | apply Keeps.elim) | split | with_reducible (apply Keeps.pair; assumption) | dsimp only)

theorem keep_tickTime {s0 : Node} {a0} (h0 : Keeps s0 a0) : Keeps s0 (tickTime a0) := by
  unfold tickTime
  repeat' (first | with_reducible (first | assumption | intro _ | apply keep_modTime | apply keep_noteSessions | apply Keeps.ite | apply Keeps.iteFst | apply Keeps.foldl | apply Keeps.foldlFst | apply Keeps.elim) | split | with_reducible (apply Keeps.pair; assumption) | dsimp only | ((with_reducible apply Keeps.rcd); (on_goal 2 => rfl); (on_goal 2 => rfl)))

theorem keep_drainClass {s0 : Node} {a0 a1 a2} (h0 : Keeps s0 a0) : Keeps s0 (drainClass a0 a1 a2) := by
  unfold drainClass
  repeat' (first | with_reducible (first | assumption | intro _ | apply keep_modFab | apply keep_modPort | apply keep_portCount | apply Keeps.ite | apply Keeps.iteFst | apply Keeps.foldl | apply Keeps.foldlFst | apply Keeps.elim) | split | with_reducible (apply Keeps.pair; assumption) | dsimp only | ((with_reducible apply Keeps.rcd); (on_goal 2 => rfl); (on_goal 2 => rfl)))

theorem keep_tickQueues {s0 : Node} {a0} (h0 : Keeps s0 a0) : Keeps s0 (tickQueues a0) := by
  unfold tickQueues
  repeat' (first | with_reducible (first | assumption | intro _ | apply keep_bump | apply keep_drainClass | apply Keeps.ite | apply Keeps.iteFst | apply Keeps.foldl | apply Keeps.foldlFst | apply Keeps.elim) | split | with_reducible (apply Keeps.pair; assumption) | dsimp only)

theorem keep_countSat {s0 : Node} {a0 a1} (h0 : Keeps s0 a0) : Keeps s0 (countSat a0 a1) := by
  unfold countSat
  repeat' (first | with_reducible (first | assumption | intro _ | apply keep_cntAdd | apply Keeps.ite | apply Keeps.iteFst | apply Keeps.foldl | apply Keeps.foldlFst | apply Keeps.elim) | split | with_reducible (apply Keeps.pair; assumption) | dsimp only)

theorem keep_countFull {s0 : Node} {a0 a1} (h0 : Keeps s0 a0) : Keeps s0 (countFull a0 a1) := by
  unfold countFull
  repeat' (first | with_reducible (first | assumption | intro _ | apply keep_cntAdd | apply Keeps.ite | apply Keeps.iteFst | apply Keeps.foldl | apply Keeps.foldlFst | apply Keeps.elim) | split | with_reducible (apply Keeps.pair; assumption) | dsimp only)

theorem keep_gableCycles {s0 : Node} {a0 a1 a2} (h0 : Keeps s0 a0) : Keeps s0 (gableCycles a0 a1 a2) := by
  unfold gableCycles
  repeat' (first | with_reducible (first | assumption | intro _ | apply keep_cntAdd | apply keep_modGable | apply Keeps.ite | apply Keeps.iteFst | apply Keeps.foldl | apply Keeps.foldlFst | apply Keeps.elim) | split | with_reducible (apply Keeps.pair; assumption) | dsimp only)

theorem keep_tickAclk {s0 : Node} {a0 a1} (h0 : Keeps s0 a0) : Keeps s0 (tickAclk a0 a1) := by
  unfold tickAclk
  repeat' (first | with_reducible (first | assumption | intro _ | apply keep_cntAdd | apply keep_gableCycles | apply keep_modTime | apply Keeps.ite | apply Keeps.iteFst | apply Keeps.foldl | apply Keeps.foldlFst | apply Keeps.elim) | split | with_reducible (apply Keeps.pair; assumption) | dsimp only)

theorem keep_countCast {s0 : Node} {a0 a1} (h0 : Keeps s0 a0) : Keeps s0 (countCast a0 a1) := by
  unfold countCast
  repeat' (first | with_reducible (first | assumption | intro _ | apply keep_cntAdd | apply Keeps.ite | apply Keeps.iteFst | apply Keeps.foldl | apply Keeps.foldlFst | apply Keeps.elim) | split | with_reducible (apply Keeps.pair; assumption) | dsimp only)

theorem keep_tickMicro {s0 : Node} {a0 a1} (h0 : Keeps s0 a0) (h1 : Keeps s0 a1) : Keeps s0 (tickMicro a0 a1) := by
  unfold tickMicro
  repeat' (first | with_reducible (first | assumption | intro _ | apply keep_agePtp | apply keep_formEstimates | apply Keeps.ite | apply Keeps.iteFst | apply Keeps.foldl | apply Keeps.foldlFst | apply Keeps.elim) | split | with_reducible (apply Keeps.pair; assumption) | dsimp only)

theorem keep_tick {s0 : Node} {a0} (h0 : Keeps s0 a0) : Keeps s0 (tick a0) := by
  unfold tick
  repeat' (first | with_reducible (first | assumption | intro _ | apply keep_countCast | apply keep_countFull | apply keep_countSat | apply keep_pauseEnds | apply keep_pulseFalls | apply keep_rampDie | apply keep_tickAclk | apply keep_tickMicro | apply keep_tickQueues | apply keep_tickTime | apply Keeps.ite | apply Keeps.iteFst | apply Keeps.foldl | apply Keeps.foldlFst | apply Keeps.elim) | split | with_reducible (apply Keeps.pair; assumption) | dsimp only)

end Sys2Proof.Machine
end

