-- ==== Sys2Proof/Laws/Outcome.lean ====
section
/-! SUPPORT. When the wrappers of a meaning answer a next state, and which one. -/

namespace Sys2Proof.Machine

/-- A meaning over the node leaves the queue to the state and changes the node alone. -/
theorem onNode_eq_next {s t : State} {f : Node → Host.Outcome Node Fault Refusal} :
    onNode s f = .next t ↔ f s.node = .next t.node ∧ t.pending = s.pending := by
  unfold onNode
  cases f s.node with
  | next n =>
    obtain ⟨q, m⟩ := t
    simp only [Host.Outcome.next.injEq, State.mk.injEq]
    exact ⟨fun h => ⟨h.2, h.1.symm⟩, fun h => ⟨h.2.symm, h.1⟩⟩
  | fault e => simp
  | refused e => simp

theorem onNode_of_next {s : State} {n : Node} {f : Node → Host.Outcome Node Fault Refusal} (h : f s.node = .next n) :
    onNode s f = .next ⟨s.pending, n⟩ := by
  simp [onNode, h]

@[simp] theorem onUnit_eq_next {n i : Nat} {t u : Node} : onUnit n i t = .next u ↔ i < n ∧ t = u := by
  unfold onUnit
  split <;> simp_all

@[simp] theorem onGable_eq_next {g : Nat} {t u : Node} : onGable g t = .next u ↔ g < 192 ∧ t = u := onUnit_eq_next

@[simp] theorem onDie_eq_next {d : Nat} {t u : Node} : onDie d t = .next u ↔ d < 12 ∧ t = u := onUnit_eq_next

@[simp] theorem onBase_eq_next {b : Nat} {t u : Node} : onBase b t = .next u ↔ b < 4 ∧ t = u := onUnit_eq_next

@[simp] theorem onCore_eq_next {c : Nat} {t u : Node} : onCore c t = .next u ↔ c < 96 ∧ t = u := onUnit_eq_next

@[simp] theorem onPort_eq_next {p : Nat} {t u : Node} : onPort p t = .next u ↔ p < 20 ∧ t = u := onUnit_eq_next

@[simp] theorem onQp_eq_next {x : Nat} {t u : Node} : onQp x t = .next u ↔ x < 4096 ∧ t = u := onUnit_eq_next

@[simp] theorem onQueue_eq_next {q : Nat} {t u : Node} : onQueue q t = .next u ↔ q < 256 ∧ t = u := onUnit_eq_next

@[simp] theorem onEntry_eq_next {b i : Nat} {t u : Node} : onEntry b i t = .next u ↔ (b < 4 ∧ i < 16384) ∧ t = u := by
  unfold onEntry
  split <;> simp_all

@[simp] theorem onBundle_eq_next {e d k : Nat} {t u : Node} :
    onBundle e d k t = .next u ↔ (e < 4 ∧ d < 2 ∧ k < 64) ∧ t = u := by
  unfold onBundle
  split <;> simp_all

@[simp] theorem onFp_eq_next {p : Nat} {t u : Node} : onFp p t = .next u ↔ (p < 20 ∧ isFe p = false) ∧ t = u := by
  unfold onFp
  split <;> simp_all

end Sys2Proof.Machine
end

