-- ==== Sys2Proof/Laws/State.lean ====
section
/-! SUPPORT. The fields of Node that each named update leaves as they are: one lemma per field per update. -/

set_option linter.all false

namespace Sys2Proof.Machine

section modQp
variable (s : Node) (x : Nat) (f : Qp → Qp)

@[simp] theorem modQp_resp : (modQp s x f).resp = s.resp := rfl
@[simp] theorem modQp_fresh : (modQp s x f).fresh = s.fresh := rfl
@[simp] theorem modQp_now : (modQp s x f).now = s.now := rfl
@[simp] theorem modQp_mtimeHold : (modQp s x f).mtimeHold = s.mtimeHold := rfl
@[simp] theorem modQp_csr : (modQp s x f).csr = s.csr := rfl
@[simp] theorem modQp_mem : (modQp s x f).mem = s.mem := rfl
@[simp] theorem modQp_poison : (modQp s x f).poison = s.poison := rfl
@[simp] theorem modQp_stale : (modQp s x f).stale = s.stale := rfl
@[simp] theorem modQp_ceWindows : (modQp s x f).ceWindows = s.ceWindows := rfl
@[simp] theorem modQp_gables : (modQp s x f).gables = s.gables := rfl
@[simp] theorem modQp_dies : (modQp s x f).dies = s.dies := rfl
@[simp] theorem modQp_dirs : (modQp s x f).dirs = s.dirs := rfl
@[simp] theorem modQp_nmcs : (modQp s x f).nmcs = s.nmcs := rfl
@[simp] theorem modQp_stus : (modQp s x f).stus = s.stus := rfl
@[simp] theorem modQp_errlogs : (modQp s x f).errlogs = s.errlogs := rfl
@[simp] theorem modQp_seqStaged : (modQp s x f).seqStaged = s.seqStaged := rfl
@[simp] theorem modQp_aplic : (modQp s x f).aplic = s.aplic := rfl
@[simp] theorem modQp_bundles : (modQp s x f).bundles = s.bundles := rfl
@[simp] theorem modQp_ports : (modQp s x f).ports = s.ports := rfl
@[simp] theorem modQp_cnpSent : (modQp s x f).cnpSent = s.cnpSent := rfl
@[simp] theorem modQp_out : (modQp s x f).out = s.out := rfl
@[simp] theorem modQp_pendDisable : (modQp s x f).pendDisable = s.pendDisable := rfl
@[simp] theorem modQp_remotes : (modQp s x f).remotes = s.remotes := rfl
@[simp] theorem modQp_remoteId : (modQp s x f).remoteId = s.remoteId := rfl
@[simp] theorem modQp_fenceReqs : (modQp s x f).fenceReqs = s.fenceReqs := rfl
@[simp] theorem modQp_cutChunks : (modQp s x f).cutChunks = s.cutChunks := rfl
@[simp] theorem modQp_roceCq : (modQp s x f).roceCq = s.roceCq := rfl
@[simp] theorem modQp_wqs : (modQp s x f).wqs = s.wqs := rfl
@[simp] theorem modQp_leds : (modQp s x f).leds = s.leds := rfl
@[simp] theorem modQp_mirror : (modQp s x f).mirror = s.mirror := rfl
@[simp] theorem modQp_dzs : (modQp s x f).dzs = s.dzs := rfl
@[simp] theorem modQp_fabric : (modQp s x f).fabric = s.fabric := rfl
@[simp] theorem modQp_shgs : (modQp s x f).shgs = s.shgs := rfl
@[simp] theorem modQp_dict : (modQp s x f).dict = s.dict := rfl
@[simp] theorem modQp_lastRec : (modQp s x f).lastRec = s.lastRec := rfl
@[simp] theorem modQp_reports : (modQp s x f).reports = s.reports := rfl
@[simp] theorem modQp_alert : (modQp s x f).alert = s.alert := rfl
@[simp] theorem modQp_leaveDue : (modQp s x f).leaveDue = s.leaveDue := rfl
@[simp] theorem modQp_ctl : (modQp s x f).ctl = s.ctl := rfl

end modQp

section modWq
variable (s : Node) (q : Nat) (f : Wq → Wq)

@[simp] theorem modWq_resp : (modWq s q f).resp = s.resp := rfl
@[simp] theorem modWq_fresh : (modWq s q f).fresh = s.fresh := rfl
@[simp] theorem modWq_now : (modWq s q f).now = s.now := rfl
@[simp] theorem modWq_mtimeHold : (modWq s q f).mtimeHold = s.mtimeHold := rfl
@[simp] theorem modWq_csr : (modWq s q f).csr = s.csr := rfl
@[simp] theorem modWq_mem : (modWq s q f).mem = s.mem := rfl
@[simp] theorem modWq_poison : (modWq s q f).poison = s.poison := rfl
@[simp] theorem modWq_stale : (modWq s q f).stale = s.stale := rfl
@[simp] theorem modWq_ceWindows : (modWq s q f).ceWindows = s.ceWindows := rfl
@[simp] theorem modWq_gables : (modWq s q f).gables = s.gables := rfl
@[simp] theorem modWq_dies : (modWq s q f).dies = s.dies := rfl
@[simp] theorem modWq_dirs : (modWq s q f).dirs = s.dirs := rfl
@[simp] theorem modWq_nmcs : (modWq s q f).nmcs = s.nmcs := rfl
@[simp] theorem modWq_stus : (modWq s q f).stus = s.stus := rfl
@[simp] theorem modWq_errlogs : (modWq s q f).errlogs = s.errlogs := rfl
@[simp] theorem modWq_seqStaged : (modWq s q f).seqStaged = s.seqStaged := rfl
@[simp] theorem modWq_aplic : (modWq s q f).aplic = s.aplic := rfl
@[simp] theorem modWq_bundles : (modWq s q f).bundles = s.bundles := rfl
@[simp] theorem modWq_ports : (modWq s q f).ports = s.ports := rfl
@[simp] theorem modWq_cnpSent : (modWq s q f).cnpSent = s.cnpSent := rfl
@[simp] theorem modWq_out : (modWq s q f).out = s.out := rfl
@[simp] theorem modWq_pendDisable : (modWq s q f).pendDisable = s.pendDisable := rfl
@[simp] theorem modWq_remotes : (modWq s q f).remotes = s.remotes := rfl
@[simp] theorem modWq_remoteId : (modWq s q f).remoteId = s.remoteId := rfl
@[simp] theorem modWq_fenceReqs : (modWq s q f).fenceReqs = s.fenceReqs := rfl
@[simp] theorem modWq_cutChunks : (modWq s q f).cutChunks = s.cutChunks := rfl
@[simp] theorem modWq_qps : (modWq s q f).qps = s.qps := rfl
@[simp] theorem modWq_roceCq : (modWq s q f).roceCq = s.roceCq := rfl
@[simp] theorem modWq_leds : (modWq s q f).leds = s.leds := rfl
@[simp] theorem modWq_mirror : (modWq s q f).mirror = s.mirror := rfl
@[simp] theorem modWq_dzs : (modWq s q f).dzs = s.dzs := rfl
@[simp] theorem modWq_fabric : (modWq s q f).fabric = s.fabric := rfl
@[simp] theorem modWq_shgs : (modWq s q f).shgs = s.shgs := rfl
@[simp] theorem modWq_dict : (modWq s q f).dict = s.dict := rfl
@[simp] theorem modWq_lastRec : (modWq s q f).lastRec = s.lastRec := rfl
@[simp] theorem modWq_reports : (modWq s q f).reports = s.reports := rfl
@[simp] theorem modWq_alert : (modWq s q f).alert = s.alert := rfl
@[simp] theorem modWq_leaveDue : (modWq s q f).leaveDue = s.leaveDue := rfl
@[simp] theorem modWq_ctl : (modWq s q f).ctl = s.ctl := rfl

end modWq

section modLed
variable (s : Node) (b : Nat) (f : LedSlice → LedSlice)

@[simp] theorem modLed_resp : (modLed s b f).resp = s.resp := rfl
@[simp] theorem modLed_fresh : (modLed s b f).fresh = s.fresh := rfl
@[simp] theorem modLed_now : (modLed s b f).now = s.now := rfl
@[simp] theorem modLed_mtimeHold : (modLed s b f).mtimeHold = s.mtimeHold := rfl
@[simp] theorem modLed_csr : (modLed s b f).csr = s.csr := rfl
@[simp] theorem modLed_mem : (modLed s b f).mem = s.mem := rfl
@[simp] theorem modLed_poison : (modLed s b f).poison = s.poison := rfl
@[simp] theorem modLed_stale : (modLed s b f).stale = s.stale := rfl
@[simp] theorem modLed_ceWindows : (modLed s b f).ceWindows = s.ceWindows := rfl
@[simp] theorem modLed_gables : (modLed s b f).gables = s.gables := rfl
@[simp] theorem modLed_dies : (modLed s b f).dies = s.dies := rfl
@[simp] theorem modLed_dirs : (modLed s b f).dirs = s.dirs := rfl
@[simp] theorem modLed_nmcs : (modLed s b f).nmcs = s.nmcs := rfl
@[simp] theorem modLed_stus : (modLed s b f).stus = s.stus := rfl
@[simp] theorem modLed_errlogs : (modLed s b f).errlogs = s.errlogs := rfl
@[simp] theorem modLed_seqStaged : (modLed s b f).seqStaged = s.seqStaged := rfl
@[simp] theorem modLed_aplic : (modLed s b f).aplic = s.aplic := rfl
@[simp] theorem modLed_bundles : (modLed s b f).bundles = s.bundles := rfl
@[simp] theorem modLed_ports : (modLed s b f).ports = s.ports := rfl
@[simp] theorem modLed_cnpSent : (modLed s b f).cnpSent = s.cnpSent := rfl
@[simp] theorem modLed_out : (modLed s b f).out = s.out := rfl
@[simp] theorem modLed_pendDisable : (modLed s b f).pendDisable = s.pendDisable := rfl
@[simp] theorem modLed_remotes : (modLed s b f).remotes = s.remotes := rfl
@[simp] theorem modLed_remoteId : (modLed s b f).remoteId = s.remoteId := rfl
@[simp] theorem modLed_fenceReqs : (modLed s b f).fenceReqs = s.fenceReqs := rfl
@[simp] theorem modLed_cutChunks : (modLed s b f).cutChunks = s.cutChunks := rfl
@[simp] theorem modLed_qps : (modLed s b f).qps = s.qps := rfl
@[simp] theorem modLed_roceCq : (modLed s b f).roceCq = s.roceCq := rfl
@[simp] theorem modLed_wqs : (modLed s b f).wqs = s.wqs := rfl
@[simp] theorem modLed_mirror : (modLed s b f).mirror = s.mirror := rfl
@[simp] theorem modLed_dzs : (modLed s b f).dzs = s.dzs := rfl
@[simp] theorem modLed_fabric : (modLed s b f).fabric = s.fabric := rfl
@[simp] theorem modLed_shgs : (modLed s b f).shgs = s.shgs := rfl
@[simp] theorem modLed_dict : (modLed s b f).dict = s.dict := rfl
@[simp] theorem modLed_lastRec : (modLed s b f).lastRec = s.lastRec := rfl
@[simp] theorem modLed_reports : (modLed s b f).reports = s.reports := rfl
@[simp] theorem modLed_alert : (modLed s b f).alert = s.alert := rfl
@[simp] theorem modLed_leaveDue : (modLed s b f).leaveDue = s.leaveDue := rfl
@[simp] theorem modLed_ctl : (modLed s b f).ctl = s.ctl := rfl

end modLed

section roceComplete
variable (s : Node) (x : Nat) (rec_ : List Byte)

@[simp] theorem roceComplete_resp : (roceComplete s x rec_).resp = s.resp := rfl
@[simp] theorem roceComplete_fresh : (roceComplete s x rec_).fresh = s.fresh := rfl
@[simp] theorem roceComplete_now : (roceComplete s x rec_).now = s.now := rfl
@[simp] theorem roceComplete_mtimeHold : (roceComplete s x rec_).mtimeHold = s.mtimeHold := rfl
@[simp] theorem roceComplete_csr : (roceComplete s x rec_).csr = s.csr := rfl
@[simp] theorem roceComplete_mem : (roceComplete s x rec_).mem = s.mem := rfl
@[simp] theorem roceComplete_poison : (roceComplete s x rec_).poison = s.poison := rfl
@[simp] theorem roceComplete_stale : (roceComplete s x rec_).stale = s.stale := rfl
@[simp] theorem roceComplete_ceWindows : (roceComplete s x rec_).ceWindows = s.ceWindows := rfl
@[simp] theorem roceComplete_gables : (roceComplete s x rec_).gables = s.gables := rfl
@[simp] theorem roceComplete_dies : (roceComplete s x rec_).dies = s.dies := rfl
@[simp] theorem roceComplete_dirs : (roceComplete s x rec_).dirs = s.dirs := rfl
@[simp] theorem roceComplete_nmcs : (roceComplete s x rec_).nmcs = s.nmcs := rfl
@[simp] theorem roceComplete_stus : (roceComplete s x rec_).stus = s.stus := rfl
@[simp] theorem roceComplete_errlogs : (roceComplete s x rec_).errlogs = s.errlogs := rfl
@[simp] theorem roceComplete_seqStaged : (roceComplete s x rec_).seqStaged = s.seqStaged := rfl
@[simp] theorem roceComplete_aplic : (roceComplete s x rec_).aplic = s.aplic := rfl
@[simp] theorem roceComplete_bundles : (roceComplete s x rec_).bundles = s.bundles := rfl
@[simp] theorem roceComplete_ports : (roceComplete s x rec_).ports = s.ports := rfl
@[simp] theorem roceComplete_cnpSent : (roceComplete s x rec_).cnpSent = s.cnpSent := rfl
@[simp] theorem roceComplete_out : (roceComplete s x rec_).out = s.out := rfl
@[simp] theorem roceComplete_pendDisable : (roceComplete s x rec_).pendDisable = s.pendDisable := rfl
@[simp] theorem roceComplete_remotes : (roceComplete s x rec_).remotes = s.remotes := rfl
@[simp] theorem roceComplete_remoteId : (roceComplete s x rec_).remoteId = s.remoteId := rfl
@[simp] theorem roceComplete_fenceReqs : (roceComplete s x rec_).fenceReqs = s.fenceReqs := rfl
@[simp] theorem roceComplete_cutChunks : (roceComplete s x rec_).cutChunks = s.cutChunks := rfl
@[simp] theorem roceComplete_qps : (roceComplete s x rec_).qps = s.qps := rfl
@[simp] theorem roceComplete_wqs : (roceComplete s x rec_).wqs = s.wqs := rfl
@[simp] theorem roceComplete_leds : (roceComplete s x rec_).leds = s.leds := rfl
@[simp] theorem roceComplete_mirror : (roceComplete s x rec_).mirror = s.mirror := rfl
@[simp] theorem roceComplete_dzs : (roceComplete s x rec_).dzs = s.dzs := rfl
@[simp] theorem roceComplete_fabric : (roceComplete s x rec_).fabric = s.fabric := rfl
@[simp] theorem roceComplete_shgs : (roceComplete s x rec_).shgs = s.shgs := rfl
@[simp] theorem roceComplete_dict : (roceComplete s x rec_).dict = s.dict := rfl
@[simp] theorem roceComplete_lastRec : (roceComplete s x rec_).lastRec = s.lastRec := rfl
@[simp] theorem roceComplete_reports : (roceComplete s x rec_).reports = s.reports := rfl
@[simp] theorem roceComplete_alert : (roceComplete s x rec_).alert = s.alert := rfl
@[simp] theorem roceComplete_leaveDue : (roceComplete s x rec_).leaveDue = s.leaveDue := rfl
@[simp] theorem roceComplete_ctl : (roceComplete s x rec_).ctl = s.ctl := rfl

end roceComplete

section dropStale
variable (s : Node) (line : Nat)

@[simp] theorem dropStale_resp : (dropStale s line).resp = s.resp := rfl
@[simp] theorem dropStale_fresh : (dropStale s line).fresh = s.fresh := rfl
@[simp] theorem dropStale_now : (dropStale s line).now = s.now := rfl
@[simp] theorem dropStale_mtimeHold : (dropStale s line).mtimeHold = s.mtimeHold := rfl
@[simp] theorem dropStale_csr : (dropStale s line).csr = s.csr := rfl
@[simp] theorem dropStale_mem : (dropStale s line).mem = s.mem := rfl
@[simp] theorem dropStale_poison : (dropStale s line).poison = s.poison := rfl
@[simp] theorem dropStale_ceWindows : (dropStale s line).ceWindows = s.ceWindows := rfl
@[simp] theorem dropStale_gables : (dropStale s line).gables = s.gables := rfl
@[simp] theorem dropStale_dies : (dropStale s line).dies = s.dies := rfl
@[simp] theorem dropStale_dirs : (dropStale s line).dirs = s.dirs := rfl
@[simp] theorem dropStale_nmcs : (dropStale s line).nmcs = s.nmcs := rfl
@[simp] theorem dropStale_stus : (dropStale s line).stus = s.stus := rfl
@[simp] theorem dropStale_errlogs : (dropStale s line).errlogs = s.errlogs := rfl
@[simp] theorem dropStale_seqStaged : (dropStale s line).seqStaged = s.seqStaged := rfl
@[simp] theorem dropStale_aplic : (dropStale s line).aplic = s.aplic := rfl
@[simp] theorem dropStale_bundles : (dropStale s line).bundles = s.bundles := rfl
@[simp] theorem dropStale_ports : (dropStale s line).ports = s.ports := rfl
@[simp] theorem dropStale_cnpSent : (dropStale s line).cnpSent = s.cnpSent := rfl
@[simp] theorem dropStale_out : (dropStale s line).out = s.out := rfl
@[simp] theorem dropStale_pendDisable : (dropStale s line).pendDisable = s.pendDisable := rfl
@[simp] theorem dropStale_remotes : (dropStale s line).remotes = s.remotes := rfl
@[simp] theorem dropStale_remoteId : (dropStale s line).remoteId = s.remoteId := rfl
@[simp] theorem dropStale_fenceReqs : (dropStale s line).fenceReqs = s.fenceReqs := rfl
@[simp] theorem dropStale_cutChunks : (dropStale s line).cutChunks = s.cutChunks := rfl
@[simp] theorem dropStale_qps : (dropStale s line).qps = s.qps := rfl
@[simp] theorem dropStale_roceCq : (dropStale s line).roceCq = s.roceCq := rfl
@[simp] theorem dropStale_wqs : (dropStale s line).wqs = s.wqs := rfl
@[simp] theorem dropStale_leds : (dropStale s line).leds = s.leds := rfl
@[simp] theorem dropStale_mirror : (dropStale s line).mirror = s.mirror := rfl
@[simp] theorem dropStale_dzs : (dropStale s line).dzs = s.dzs := rfl
@[simp] theorem dropStale_fabric : (dropStale s line).fabric = s.fabric := rfl
@[simp] theorem dropStale_shgs : (dropStale s line).shgs = s.shgs := rfl
@[simp] theorem dropStale_dict : (dropStale s line).dict = s.dict := rfl
@[simp] theorem dropStale_lastRec : (dropStale s line).lastRec = s.lastRec := rfl
@[simp] theorem dropStale_reports : (dropStale s line).reports = s.reports := rfl
@[simp] theorem dropStale_alert : (dropStale s line).alert = s.alert := rfl
@[simp] theorem dropStale_leaveDue : (dropStale s line).leaveDue = s.leaveDue := rfl
@[simp] theorem dropStale_ctl : (dropStale s line).ctl = s.ctl := rfl

end dropStale

section wroteHbm
variable (s : Node) (line : Nat) (p : Bool)

@[simp] theorem wroteHbm_resp : (wroteHbm s line p).resp = s.resp := rfl
@[simp] theorem wroteHbm_fresh : (wroteHbm s line p).fresh = s.fresh := rfl
@[simp] theorem wroteHbm_now : (wroteHbm s line p).now = s.now := rfl
@[simp] theorem wroteHbm_mtimeHold : (wroteHbm s line p).mtimeHold = s.mtimeHold := rfl
@[simp] theorem wroteHbm_csr : (wroteHbm s line p).csr = s.csr := rfl
@[simp] theorem wroteHbm_mem : (wroteHbm s line p).mem = s.mem := rfl
@[simp] theorem wroteHbm_poison : (wroteHbm s line p).poison =
    if p then insertRising line s.poison else dropLine line s.poison := rfl
@[simp] theorem wroteHbm_stale : (wroteHbm s line p).stale = s.stale := rfl
@[simp] theorem wroteHbm_ceWindows : (wroteHbm s line p).ceWindows = s.ceWindows := rfl
@[simp] theorem wroteHbm_gables : (wroteHbm s line p).gables = s.gables := rfl
@[simp] theorem wroteHbm_dies : (wroteHbm s line p).dies = s.dies := rfl
@[simp] theorem wroteHbm_dirs : (wroteHbm s line p).dirs = s.dirs := rfl
@[simp] theorem wroteHbm_nmcs : (wroteHbm s line p).nmcs = s.nmcs := rfl
@[simp] theorem wroteHbm_stus : (wroteHbm s line p).stus = s.stus := rfl
@[simp] theorem wroteHbm_errlogs : (wroteHbm s line p).errlogs = s.errlogs := rfl
@[simp] theorem wroteHbm_seqStaged : (wroteHbm s line p).seqStaged = s.seqStaged := rfl
@[simp] theorem wroteHbm_aplic : (wroteHbm s line p).aplic = s.aplic := rfl
@[simp] theorem wroteHbm_bundles : (wroteHbm s line p).bundles = s.bundles := rfl
@[simp] theorem wroteHbm_ports : (wroteHbm s line p).ports = s.ports := rfl
@[simp] theorem wroteHbm_cnpSent : (wroteHbm s line p).cnpSent = s.cnpSent := rfl
@[simp] theorem wroteHbm_out : (wroteHbm s line p).out = s.out := rfl
@[simp] theorem wroteHbm_pendDisable : (wroteHbm s line p).pendDisable = s.pendDisable := rfl
@[simp] theorem wroteHbm_remotes : (wroteHbm s line p).remotes = s.remotes := rfl
@[simp] theorem wroteHbm_remoteId : (wroteHbm s line p).remoteId = s.remoteId := rfl
@[simp] theorem wroteHbm_fenceReqs : (wroteHbm s line p).fenceReqs = s.fenceReqs := rfl
@[simp] theorem wroteHbm_cutChunks : (wroteHbm s line p).cutChunks = s.cutChunks := rfl
@[simp] theorem wroteHbm_qps : (wroteHbm s line p).qps = s.qps := rfl
@[simp] theorem wroteHbm_roceCq : (wroteHbm s line p).roceCq = s.roceCq := rfl
@[simp] theorem wroteHbm_wqs : (wroteHbm s line p).wqs = s.wqs := rfl
@[simp] theorem wroteHbm_leds : (wroteHbm s line p).leds = s.leds := rfl
@[simp] theorem wroteHbm_mirror : (wroteHbm s line p).mirror = s.mirror := rfl
@[simp] theorem wroteHbm_dzs : (wroteHbm s line p).dzs = s.dzs := rfl
@[simp] theorem wroteHbm_fabric : (wroteHbm s line p).fabric = s.fabric := rfl
@[simp] theorem wroteHbm_shgs : (wroteHbm s line p).shgs = s.shgs := rfl
@[simp] theorem wroteHbm_dict : (wroteHbm s line p).dict = s.dict := rfl
@[simp] theorem wroteHbm_lastRec : (wroteHbm s line p).lastRec = s.lastRec := rfl
@[simp] theorem wroteHbm_reports : (wroteHbm s line p).reports = s.reports := rfl
@[simp] theorem wroteHbm_alert : (wroteHbm s line p).alert = s.alert := rfl
@[simp] theorem wroteHbm_leaveDue : (wroteHbm s line p).leaveDue = s.leaveDue := rfl
@[simp] theorem wroteHbm_ctl : (wroteHbm s line p).ctl = s.ctl := rfl

end wroteHbm

section modShg
variable (s : Node) (b : Nat) (f : Shg → Shg)

@[simp] theorem modShg_resp : (modShg s b f).resp = s.resp := rfl
@[simp] theorem modShg_fresh : (modShg s b f).fresh = s.fresh := rfl
@[simp] theorem modShg_now : (modShg s b f).now = s.now := rfl
@[simp] theorem modShg_mtimeHold : (modShg s b f).mtimeHold = s.mtimeHold := rfl
@[simp] theorem modShg_csr : (modShg s b f).csr = s.csr := rfl
@[simp] theorem modShg_mem : (modShg s b f).mem = s.mem := rfl
@[simp] theorem modShg_poison : (modShg s b f).poison = s.poison := rfl
@[simp] theorem modShg_stale : (modShg s b f).stale = s.stale := rfl
@[simp] theorem modShg_ceWindows : (modShg s b f).ceWindows = s.ceWindows := rfl
@[simp] theorem modShg_gables : (modShg s b f).gables = s.gables := rfl
@[simp] theorem modShg_dies : (modShg s b f).dies = s.dies := rfl
@[simp] theorem modShg_dirs : (modShg s b f).dirs = s.dirs := rfl
@[simp] theorem modShg_nmcs : (modShg s b f).nmcs = s.nmcs := rfl
@[simp] theorem modShg_stus : (modShg s b f).stus = s.stus := rfl
@[simp] theorem modShg_errlogs : (modShg s b f).errlogs = s.errlogs := rfl
@[simp] theorem modShg_seqStaged : (modShg s b f).seqStaged = s.seqStaged := rfl
@[simp] theorem modShg_aplic : (modShg s b f).aplic = s.aplic := rfl
@[simp] theorem modShg_bundles : (modShg s b f).bundles = s.bundles := rfl
@[simp] theorem modShg_ports : (modShg s b f).ports = s.ports := rfl
@[simp] theorem modShg_cnpSent : (modShg s b f).cnpSent = s.cnpSent := rfl
@[simp] theorem modShg_out : (modShg s b f).out = s.out := rfl
@[simp] theorem modShg_pendDisable : (modShg s b f).pendDisable = s.pendDisable := rfl
@[simp] theorem modShg_remotes : (modShg s b f).remotes = s.remotes := rfl
@[simp] theorem modShg_remoteId : (modShg s b f).remoteId = s.remoteId := rfl
@[simp] theorem modShg_fenceReqs : (modShg s b f).fenceReqs = s.fenceReqs := rfl
@[simp] theorem modShg_cutChunks : (modShg s b f).cutChunks = s.cutChunks := rfl
@[simp] theorem modShg_qps : (modShg s b f).qps = s.qps := rfl
@[simp] theorem modShg_roceCq : (modShg s b f).roceCq = s.roceCq := rfl
@[simp] theorem modShg_wqs : (modShg s b f).wqs = s.wqs := rfl
@[simp] theorem modShg_leds : (modShg s b f).leds = s.leds := rfl
@[simp] theorem modShg_mirror : (modShg s b f).mirror = s.mirror := rfl
@[simp] theorem modShg_dzs : (modShg s b f).dzs = s.dzs := rfl
@[simp] theorem modShg_fabric : (modShg s b f).fabric = s.fabric := rfl
@[simp] theorem modShg_dict : (modShg s b f).dict = s.dict := rfl
@[simp] theorem modShg_lastRec : (modShg s b f).lastRec = s.lastRec := rfl
@[simp] theorem modShg_reports : (modShg s b f).reports = s.reports := rfl
@[simp] theorem modShg_alert : (modShg s b f).alert = s.alert := rfl
@[simp] theorem modShg_leaveDue : (modShg s b f).leaveDue = s.leaveDue := rfl
@[simp] theorem modShg_ctl : (modShg s b f).ctl = s.ctl := rfl

end modShg

section modDz
variable (s : Node) (b : Nat) (f : Dz → Dz)

@[simp] theorem modDz_resp : (modDz s b f).resp = s.resp := rfl
@[simp] theorem modDz_fresh : (modDz s b f).fresh = s.fresh := rfl
@[simp] theorem modDz_now : (modDz s b f).now = s.now := rfl
@[simp] theorem modDz_mtimeHold : (modDz s b f).mtimeHold = s.mtimeHold := rfl
@[simp] theorem modDz_csr : (modDz s b f).csr = s.csr := rfl
@[simp] theorem modDz_mem : (modDz s b f).mem = s.mem := rfl
@[simp] theorem modDz_poison : (modDz s b f).poison = s.poison := rfl
@[simp] theorem modDz_stale : (modDz s b f).stale = s.stale := rfl
@[simp] theorem modDz_ceWindows : (modDz s b f).ceWindows = s.ceWindows := rfl
@[simp] theorem modDz_gables : (modDz s b f).gables = s.gables := rfl
@[simp] theorem modDz_dies : (modDz s b f).dies = s.dies := rfl
@[simp] theorem modDz_dirs : (modDz s b f).dirs = s.dirs := rfl
@[simp] theorem modDz_nmcs : (modDz s b f).nmcs = s.nmcs := rfl
@[simp] theorem modDz_stus : (modDz s b f).stus = s.stus := rfl
@[simp] theorem modDz_errlogs : (modDz s b f).errlogs = s.errlogs := rfl
@[simp] theorem modDz_seqStaged : (modDz s b f).seqStaged = s.seqStaged := rfl
@[simp] theorem modDz_aplic : (modDz s b f).aplic = s.aplic := rfl
@[simp] theorem modDz_bundles : (modDz s b f).bundles = s.bundles := rfl
@[simp] theorem modDz_ports : (modDz s b f).ports = s.ports := rfl
@[simp] theorem modDz_cnpSent : (modDz s b f).cnpSent = s.cnpSent := rfl
@[simp] theorem modDz_out : (modDz s b f).out = s.out := rfl
@[simp] theorem modDz_pendDisable : (modDz s b f).pendDisable = s.pendDisable := rfl
@[simp] theorem modDz_remotes : (modDz s b f).remotes = s.remotes := rfl
@[simp] theorem modDz_remoteId : (modDz s b f).remoteId = s.remoteId := rfl
@[simp] theorem modDz_fenceReqs : (modDz s b f).fenceReqs = s.fenceReqs := rfl
@[simp] theorem modDz_cutChunks : (modDz s b f).cutChunks = s.cutChunks := rfl
@[simp] theorem modDz_qps : (modDz s b f).qps = s.qps := rfl
@[simp] theorem modDz_roceCq : (modDz s b f).roceCq = s.roceCq := rfl
@[simp] theorem modDz_wqs : (modDz s b f).wqs = s.wqs := rfl
@[simp] theorem modDz_leds : (modDz s b f).leds = s.leds := rfl
@[simp] theorem modDz_mirror : (modDz s b f).mirror = s.mirror := rfl
@[simp] theorem modDz_fabric : (modDz s b f).fabric = s.fabric := rfl
@[simp] theorem modDz_shgs : (modDz s b f).shgs = s.shgs := rfl
@[simp] theorem modDz_dict : (modDz s b f).dict = s.dict := rfl
@[simp] theorem modDz_lastRec : (modDz s b f).lastRec = s.lastRec := rfl
@[simp] theorem modDz_reports : (modDz s b f).reports = s.reports := rfl
@[simp] theorem modDz_alert : (modDz s b f).alert = s.alert := rfl
@[simp] theorem modDz_leaveDue : (modDz s b f).leaveDue = s.leaveDue := rfl
@[simp] theorem modDz_ctl : (modDz s b f).ctl = s.ctl := rfl

end modDz

section modFab
variable (s : Node) (f : Fabric → Fabric)

@[simp] theorem modFab_resp : (modFab s f).resp = s.resp := rfl
@[simp] theorem modFab_fresh : (modFab s f).fresh = s.fresh := rfl
@[simp] theorem modFab_now : (modFab s f).now = s.now := rfl
@[simp] theorem modFab_mtimeHold : (modFab s f).mtimeHold = s.mtimeHold := rfl
@[simp] theorem modFab_csr : (modFab s f).csr = s.csr := rfl
@[simp] theorem modFab_mem : (modFab s f).mem = s.mem := rfl
@[simp] theorem modFab_poison : (modFab s f).poison = s.poison := rfl
@[simp] theorem modFab_stale : (modFab s f).stale = s.stale := rfl
@[simp] theorem modFab_ceWindows : (modFab s f).ceWindows = s.ceWindows := rfl
@[simp] theorem modFab_gables : (modFab s f).gables = s.gables := rfl
@[simp] theorem modFab_dies : (modFab s f).dies = s.dies := rfl
@[simp] theorem modFab_dirs : (modFab s f).dirs = s.dirs := rfl
@[simp] theorem modFab_nmcs : (modFab s f).nmcs = s.nmcs := rfl
@[simp] theorem modFab_stus : (modFab s f).stus = s.stus := rfl
@[simp] theorem modFab_errlogs : (modFab s f).errlogs = s.errlogs := rfl
@[simp] theorem modFab_seqStaged : (modFab s f).seqStaged = s.seqStaged := rfl
@[simp] theorem modFab_aplic : (modFab s f).aplic = s.aplic := rfl
@[simp] theorem modFab_bundles : (modFab s f).bundles = s.bundles := rfl
@[simp] theorem modFab_ports : (modFab s f).ports = s.ports := rfl
@[simp] theorem modFab_cnpSent : (modFab s f).cnpSent = s.cnpSent := rfl
@[simp] theorem modFab_out : (modFab s f).out = s.out := rfl
@[simp] theorem modFab_pendDisable : (modFab s f).pendDisable = s.pendDisable := rfl
@[simp] theorem modFab_remotes : (modFab s f).remotes = s.remotes := rfl
@[simp] theorem modFab_remoteId : (modFab s f).remoteId = s.remoteId := rfl
@[simp] theorem modFab_fenceReqs : (modFab s f).fenceReqs = s.fenceReqs := rfl
@[simp] theorem modFab_cutChunks : (modFab s f).cutChunks = s.cutChunks := rfl
@[simp] theorem modFab_qps : (modFab s f).qps = s.qps := rfl
@[simp] theorem modFab_roceCq : (modFab s f).roceCq = s.roceCq := rfl
@[simp] theorem modFab_wqs : (modFab s f).wqs = s.wqs := rfl
@[simp] theorem modFab_leds : (modFab s f).leds = s.leds := rfl
@[simp] theorem modFab_mirror : (modFab s f).mirror = s.mirror := rfl
@[simp] theorem modFab_dzs : (modFab s f).dzs = s.dzs := rfl
@[simp] theorem modFab_shgs : (modFab s f).shgs = s.shgs := rfl
@[simp] theorem modFab_dict : (modFab s f).dict = s.dict := rfl
@[simp] theorem modFab_lastRec : (modFab s f).lastRec = s.lastRec := rfl
@[simp] theorem modFab_reports : (modFab s f).reports = s.reports := rfl
@[simp] theorem modFab_alert : (modFab s f).alert = s.alert := rfl
@[simp] theorem modFab_leaveDue : (modFab s f).leaveDue = s.leaveDue := rfl
@[simp] theorem modFab_ctl : (modFab s f).ctl = s.ctl := rfl

end modFab

section regSet
variable (s : Node) (l : RegLoc) (w : Word)

@[simp] theorem regSet_resp : (regSet s l w).resp = s.resp := rfl
@[simp] theorem regSet_fresh : (regSet s l w).fresh = s.fresh := rfl
@[simp] theorem regSet_now : (regSet s l w).now = s.now := rfl
@[simp] theorem regSet_mtimeHold : (regSet s l w).mtimeHold = s.mtimeHold := rfl
@[simp] theorem regSet_mem : (regSet s l w).mem = s.mem := rfl
@[simp] theorem regSet_poison : (regSet s l w).poison = s.poison := rfl
@[simp] theorem regSet_stale : (regSet s l w).stale = s.stale := rfl
@[simp] theorem regSet_ceWindows : (regSet s l w).ceWindows = s.ceWindows := rfl
@[simp] theorem regSet_gables : (regSet s l w).gables = s.gables := rfl
@[simp] theorem regSet_dies : (regSet s l w).dies = s.dies := rfl
@[simp] theorem regSet_dirs : (regSet s l w).dirs = s.dirs := rfl
@[simp] theorem regSet_nmcs : (regSet s l w).nmcs = s.nmcs := rfl
@[simp] theorem regSet_stus : (regSet s l w).stus = s.stus := rfl
@[simp] theorem regSet_errlogs : (regSet s l w).errlogs = s.errlogs := rfl
@[simp] theorem regSet_seqStaged : (regSet s l w).seqStaged = s.seqStaged := rfl
@[simp] theorem regSet_aplic : (regSet s l w).aplic = s.aplic := rfl
@[simp] theorem regSet_bundles : (regSet s l w).bundles = s.bundles := rfl
@[simp] theorem regSet_ports : (regSet s l w).ports = s.ports := rfl
@[simp] theorem regSet_cnpSent : (regSet s l w).cnpSent = s.cnpSent := rfl
@[simp] theorem regSet_out : (regSet s l w).out = s.out := rfl
@[simp] theorem regSet_pendDisable : (regSet s l w).pendDisable = s.pendDisable := rfl
@[simp] theorem regSet_remotes : (regSet s l w).remotes = s.remotes := rfl
@[simp] theorem regSet_remoteId : (regSet s l w).remoteId = s.remoteId := rfl
@[simp] theorem regSet_fenceReqs : (regSet s l w).fenceReqs = s.fenceReqs := rfl
@[simp] theorem regSet_cutChunks : (regSet s l w).cutChunks = s.cutChunks := rfl
@[simp] theorem regSet_qps : (regSet s l w).qps = s.qps := rfl
@[simp] theorem regSet_roceCq : (regSet s l w).roceCq = s.roceCq := rfl
@[simp] theorem regSet_wqs : (regSet s l w).wqs = s.wqs := rfl
@[simp] theorem regSet_leds : (regSet s l w).leds = s.leds := rfl
@[simp] theorem regSet_mirror : (regSet s l w).mirror = s.mirror := rfl
@[simp] theorem regSet_dzs : (regSet s l w).dzs = s.dzs := rfl
@[simp] theorem regSet_fabric : (regSet s l w).fabric = s.fabric := rfl
@[simp] theorem regSet_shgs : (regSet s l w).shgs = s.shgs := rfl
@[simp] theorem regSet_dict : (regSet s l w).dict = s.dict := rfl
@[simp] theorem regSet_lastRec : (regSet s l w).lastRec = s.lastRec := rfl
@[simp] theorem regSet_reports : (regSet s l w).reports = s.reports := rfl
@[simp] theorem regSet_alert : (regSet s l w).alert = s.alert := rfl
@[simp] theorem regSet_leaveDue : (regSet s l w).leaveDue = s.leaveDue := rfl
@[simp] theorem regSet_ctl : (regSet s l w).ctl = s.ctl := rfl

end regSet

section modGable
variable (s : Node) (g : Nat) (f : Gable → Gable)

@[simp] theorem modGable_resp : (modGable s g f).resp = s.resp := rfl
@[simp] theorem modGable_fresh : (modGable s g f).fresh = s.fresh := rfl
@[simp] theorem modGable_now : (modGable s g f).now = s.now := rfl
@[simp] theorem modGable_mtimeHold : (modGable s g f).mtimeHold = s.mtimeHold := rfl
@[simp] theorem modGable_csr : (modGable s g f).csr = s.csr := rfl
@[simp] theorem modGable_mem : (modGable s g f).mem = s.mem := rfl
@[simp] theorem modGable_poison : (modGable s g f).poison = s.poison := rfl
@[simp] theorem modGable_stale : (modGable s g f).stale = s.stale := rfl
@[simp] theorem modGable_ceWindows : (modGable s g f).ceWindows = s.ceWindows := rfl
@[simp] theorem modGable_dies : (modGable s g f).dies = s.dies := rfl
@[simp] theorem modGable_dirs : (modGable s g f).dirs = s.dirs := rfl
@[simp] theorem modGable_nmcs : (modGable s g f).nmcs = s.nmcs := rfl
@[simp] theorem modGable_stus : (modGable s g f).stus = s.stus := rfl
@[simp] theorem modGable_errlogs : (modGable s g f).errlogs = s.errlogs := rfl
@[simp] theorem modGable_seqStaged : (modGable s g f).seqStaged = s.seqStaged := rfl
@[simp] theorem modGable_aplic : (modGable s g f).aplic = s.aplic := rfl
@[simp] theorem modGable_bundles : (modGable s g f).bundles = s.bundles := rfl
@[simp] theorem modGable_ports : (modGable s g f).ports = s.ports := rfl
@[simp] theorem modGable_cnpSent : (modGable s g f).cnpSent = s.cnpSent := rfl
@[simp] theorem modGable_out : (modGable s g f).out = s.out := rfl
@[simp] theorem modGable_pendDisable : (modGable s g f).pendDisable = s.pendDisable := rfl
@[simp] theorem modGable_remotes : (modGable s g f).remotes = s.remotes := rfl
@[simp] theorem modGable_remoteId : (modGable s g f).remoteId = s.remoteId := rfl
@[simp] theorem modGable_fenceReqs : (modGable s g f).fenceReqs = s.fenceReqs := rfl
@[simp] theorem modGable_cutChunks : (modGable s g f).cutChunks = s.cutChunks := rfl
@[simp] theorem modGable_qps : (modGable s g f).qps = s.qps := rfl
@[simp] theorem modGable_roceCq : (modGable s g f).roceCq = s.roceCq := rfl
@[simp] theorem modGable_wqs : (modGable s g f).wqs = s.wqs := rfl
@[simp] theorem modGable_leds : (modGable s g f).leds = s.leds := rfl
@[simp] theorem modGable_mirror : (modGable s g f).mirror = s.mirror := rfl
@[simp] theorem modGable_dzs : (modGable s g f).dzs = s.dzs := rfl
@[simp] theorem modGable_fabric : (modGable s g f).fabric = s.fabric := rfl
@[simp] theorem modGable_shgs : (modGable s g f).shgs = s.shgs := rfl
@[simp] theorem modGable_dict : (modGable s g f).dict = s.dict := rfl
@[simp] theorem modGable_lastRec : (modGable s g f).lastRec = s.lastRec := rfl
@[simp] theorem modGable_reports : (modGable s g f).reports = s.reports := rfl
@[simp] theorem modGable_alert : (modGable s g f).alert = s.alert := rfl
@[simp] theorem modGable_leaveDue : (modGable s g f).leaveDue = s.leaveDue := rfl
@[simp] theorem modGable_ctl : (modGable s g f).ctl = s.ctl := rfl

end modGable

section modDie
variable (s : Node) (d : Nat) (f : Die → Die)

@[simp] theorem modDie_resp : (modDie s d f).resp = s.resp := rfl
@[simp] theorem modDie_fresh : (modDie s d f).fresh = s.fresh := rfl
@[simp] theorem modDie_now : (modDie s d f).now = s.now := rfl
@[simp] theorem modDie_mtimeHold : (modDie s d f).mtimeHold = s.mtimeHold := rfl
@[simp] theorem modDie_csr : (modDie s d f).csr = s.csr := rfl
@[simp] theorem modDie_mem : (modDie s d f).mem = s.mem := rfl
@[simp] theorem modDie_poison : (modDie s d f).poison = s.poison := rfl
@[simp] theorem modDie_stale : (modDie s d f).stale = s.stale := rfl
@[simp] theorem modDie_ceWindows : (modDie s d f).ceWindows = s.ceWindows := rfl
@[simp] theorem modDie_gables : (modDie s d f).gables = s.gables := rfl
@[simp] theorem modDie_dirs : (modDie s d f).dirs = s.dirs := rfl
@[simp] theorem modDie_nmcs : (modDie s d f).nmcs = s.nmcs := rfl
@[simp] theorem modDie_stus : (modDie s d f).stus = s.stus := rfl
@[simp] theorem modDie_errlogs : (modDie s d f).errlogs = s.errlogs := rfl
@[simp] theorem modDie_seqStaged : (modDie s d f).seqStaged = s.seqStaged := rfl
@[simp] theorem modDie_aplic : (modDie s d f).aplic = s.aplic := rfl
@[simp] theorem modDie_bundles : (modDie s d f).bundles = s.bundles := rfl
@[simp] theorem modDie_ports : (modDie s d f).ports = s.ports := rfl
@[simp] theorem modDie_cnpSent : (modDie s d f).cnpSent = s.cnpSent := rfl
@[simp] theorem modDie_out : (modDie s d f).out = s.out := rfl
@[simp] theorem modDie_pendDisable : (modDie s d f).pendDisable = s.pendDisable := rfl
@[simp] theorem modDie_remotes : (modDie s d f).remotes = s.remotes := rfl
@[simp] theorem modDie_remoteId : (modDie s d f).remoteId = s.remoteId := rfl
@[simp] theorem modDie_fenceReqs : (modDie s d f).fenceReqs = s.fenceReqs := rfl
@[simp] theorem modDie_cutChunks : (modDie s d f).cutChunks = s.cutChunks := rfl
@[simp] theorem modDie_qps : (modDie s d f).qps = s.qps := rfl
@[simp] theorem modDie_roceCq : (modDie s d f).roceCq = s.roceCq := rfl
@[simp] theorem modDie_wqs : (modDie s d f).wqs = s.wqs := rfl
@[simp] theorem modDie_leds : (modDie s d f).leds = s.leds := rfl
@[simp] theorem modDie_mirror : (modDie s d f).mirror = s.mirror := rfl
@[simp] theorem modDie_dzs : (modDie s d f).dzs = s.dzs := rfl
@[simp] theorem modDie_fabric : (modDie s d f).fabric = s.fabric := rfl
@[simp] theorem modDie_shgs : (modDie s d f).shgs = s.shgs := rfl
@[simp] theorem modDie_dict : (modDie s d f).dict = s.dict := rfl
@[simp] theorem modDie_lastRec : (modDie s d f).lastRec = s.lastRec := rfl
@[simp] theorem modDie_reports : (modDie s d f).reports = s.reports := rfl
@[simp] theorem modDie_alert : (modDie s d f).alert = s.alert := rfl
@[simp] theorem modDie_leaveDue : (modDie s d f).leaveDue = s.leaveDue := rfl
@[simp] theorem modDie_ctl : (modDie s d f).ctl = s.ctl := rfl

end modDie

section modDir
variable (s : Node) (b : Nat) (f : Dir → Dir)

@[simp] theorem modDir_resp : (modDir s b f).resp = s.resp := rfl
@[simp] theorem modDir_fresh : (modDir s b f).fresh = s.fresh := rfl
@[simp] theorem modDir_now : (modDir s b f).now = s.now := rfl
@[simp] theorem modDir_mtimeHold : (modDir s b f).mtimeHold = s.mtimeHold := rfl
@[simp] theorem modDir_csr : (modDir s b f).csr = s.csr := rfl
@[simp] theorem modDir_mem : (modDir s b f).mem = s.mem := rfl
@[simp] theorem modDir_poison : (modDir s b f).poison = s.poison := rfl
@[simp] theorem modDir_stale : (modDir s b f).stale = s.stale := rfl
@[simp] theorem modDir_ceWindows : (modDir s b f).ceWindows = s.ceWindows := rfl
@[simp] theorem modDir_gables : (modDir s b f).gables = s.gables := rfl
@[simp] theorem modDir_dies : (modDir s b f).dies = s.dies := rfl
@[simp] theorem modDir_nmcs : (modDir s b f).nmcs = s.nmcs := rfl
@[simp] theorem modDir_stus : (modDir s b f).stus = s.stus := rfl
@[simp] theorem modDir_errlogs : (modDir s b f).errlogs = s.errlogs := rfl
@[simp] theorem modDir_seqStaged : (modDir s b f).seqStaged = s.seqStaged := rfl
@[simp] theorem modDir_aplic : (modDir s b f).aplic = s.aplic := rfl
@[simp] theorem modDir_bundles : (modDir s b f).bundles = s.bundles := rfl
@[simp] theorem modDir_ports : (modDir s b f).ports = s.ports := rfl
@[simp] theorem modDir_cnpSent : (modDir s b f).cnpSent = s.cnpSent := rfl
@[simp] theorem modDir_out : (modDir s b f).out = s.out := rfl
@[simp] theorem modDir_pendDisable : (modDir s b f).pendDisable = s.pendDisable := rfl
@[simp] theorem modDir_remotes : (modDir s b f).remotes = s.remotes := rfl
@[simp] theorem modDir_remoteId : (modDir s b f).remoteId = s.remoteId := rfl
@[simp] theorem modDir_fenceReqs : (modDir s b f).fenceReqs = s.fenceReqs := rfl
@[simp] theorem modDir_cutChunks : (modDir s b f).cutChunks = s.cutChunks := rfl
@[simp] theorem modDir_qps : (modDir s b f).qps = s.qps := rfl
@[simp] theorem modDir_roceCq : (modDir s b f).roceCq = s.roceCq := rfl
@[simp] theorem modDir_wqs : (modDir s b f).wqs = s.wqs := rfl
@[simp] theorem modDir_leds : (modDir s b f).leds = s.leds := rfl
@[simp] theorem modDir_mirror : (modDir s b f).mirror = s.mirror := rfl
@[simp] theorem modDir_dzs : (modDir s b f).dzs = s.dzs := rfl
@[simp] theorem modDir_fabric : (modDir s b f).fabric = s.fabric := rfl
@[simp] theorem modDir_shgs : (modDir s b f).shgs = s.shgs := rfl
@[simp] theorem modDir_dict : (modDir s b f).dict = s.dict := rfl
@[simp] theorem modDir_lastRec : (modDir s b f).lastRec = s.lastRec := rfl
@[simp] theorem modDir_reports : (modDir s b f).reports = s.reports := rfl
@[simp] theorem modDir_alert : (modDir s b f).alert = s.alert := rfl
@[simp] theorem modDir_leaveDue : (modDir s b f).leaveDue = s.leaveDue := rfl
@[simp] theorem modDir_ctl : (modDir s b f).ctl = s.ctl := rfl

end modDir

section modNmc
variable (s : Node) (b : Nat) (f : Nmc → Nmc)

@[simp] theorem modNmc_resp : (modNmc s b f).resp = s.resp := rfl
@[simp] theorem modNmc_fresh : (modNmc s b f).fresh = s.fresh := rfl
@[simp] theorem modNmc_now : (modNmc s b f).now = s.now := rfl
@[simp] theorem modNmc_mtimeHold : (modNmc s b f).mtimeHold = s.mtimeHold := rfl
@[simp] theorem modNmc_csr : (modNmc s b f).csr = s.csr := rfl
@[simp] theorem modNmc_mem : (modNmc s b f).mem = s.mem := rfl
@[simp] theorem modNmc_poison : (modNmc s b f).poison = s.poison := rfl
@[simp] theorem modNmc_stale : (modNmc s b f).stale = s.stale := rfl
@[simp] theorem modNmc_ceWindows : (modNmc s b f).ceWindows = s.ceWindows := rfl
@[simp] theorem modNmc_gables : (modNmc s b f).gables = s.gables := rfl
@[simp] theorem modNmc_dies : (modNmc s b f).dies = s.dies := rfl
@[simp] theorem modNmc_dirs : (modNmc s b f).dirs = s.dirs := rfl
@[simp] theorem modNmc_stus : (modNmc s b f).stus = s.stus := rfl
@[simp] theorem modNmc_errlogs : (modNmc s b f).errlogs = s.errlogs := rfl
@[simp] theorem modNmc_seqStaged : (modNmc s b f).seqStaged = s.seqStaged := rfl
@[simp] theorem modNmc_aplic : (modNmc s b f).aplic = s.aplic := rfl
@[simp] theorem modNmc_bundles : (modNmc s b f).bundles = s.bundles := rfl
@[simp] theorem modNmc_ports : (modNmc s b f).ports = s.ports := rfl
@[simp] theorem modNmc_cnpSent : (modNmc s b f).cnpSent = s.cnpSent := rfl
@[simp] theorem modNmc_out : (modNmc s b f).out = s.out := rfl
@[simp] theorem modNmc_pendDisable : (modNmc s b f).pendDisable = s.pendDisable := rfl
@[simp] theorem modNmc_remotes : (modNmc s b f).remotes = s.remotes := rfl
@[simp] theorem modNmc_remoteId : (modNmc s b f).remoteId = s.remoteId := rfl
@[simp] theorem modNmc_fenceReqs : (modNmc s b f).fenceReqs = s.fenceReqs := rfl
@[simp] theorem modNmc_cutChunks : (modNmc s b f).cutChunks = s.cutChunks := rfl
@[simp] theorem modNmc_qps : (modNmc s b f).qps = s.qps := rfl
@[simp] theorem modNmc_roceCq : (modNmc s b f).roceCq = s.roceCq := rfl
@[simp] theorem modNmc_wqs : (modNmc s b f).wqs = s.wqs := rfl
@[simp] theorem modNmc_leds : (modNmc s b f).leds = s.leds := rfl
@[simp] theorem modNmc_mirror : (modNmc s b f).mirror = s.mirror := rfl
@[simp] theorem modNmc_dzs : (modNmc s b f).dzs = s.dzs := rfl
@[simp] theorem modNmc_fabric : (modNmc s b f).fabric = s.fabric := rfl
@[simp] theorem modNmc_shgs : (modNmc s b f).shgs = s.shgs := rfl
@[simp] theorem modNmc_dict : (modNmc s b f).dict = s.dict := rfl
@[simp] theorem modNmc_lastRec : (modNmc s b f).lastRec = s.lastRec := rfl
@[simp] theorem modNmc_reports : (modNmc s b f).reports = s.reports := rfl
@[simp] theorem modNmc_alert : (modNmc s b f).alert = s.alert := rfl
@[simp] theorem modNmc_leaveDue : (modNmc s b f).leaveDue = s.leaveDue := rfl
@[simp] theorem modNmc_ctl : (modNmc s b f).ctl = s.ctl := rfl

end modNmc

section modStu
variable (s : Node) (b : Nat) (f : Stu → Stu)

@[simp] theorem modStu_resp : (modStu s b f).resp = s.resp := rfl
@[simp] theorem modStu_fresh : (modStu s b f).fresh = s.fresh := rfl
@[simp] theorem modStu_now : (modStu s b f).now = s.now := rfl
@[simp] theorem modStu_mtimeHold : (modStu s b f).mtimeHold = s.mtimeHold := rfl
@[simp] theorem modStu_csr : (modStu s b f).csr = s.csr := rfl
@[simp] theorem modStu_mem : (modStu s b f).mem = s.mem := rfl
@[simp] theorem modStu_poison : (modStu s b f).poison = s.poison := rfl
@[simp] theorem modStu_stale : (modStu s b f).stale = s.stale := rfl
@[simp] theorem modStu_ceWindows : (modStu s b f).ceWindows = s.ceWindows := rfl
@[simp] theorem modStu_gables : (modStu s b f).gables = s.gables := rfl
@[simp] theorem modStu_dies : (modStu s b f).dies = s.dies := rfl
@[simp] theorem modStu_dirs : (modStu s b f).dirs = s.dirs := rfl
@[simp] theorem modStu_nmcs : (modStu s b f).nmcs = s.nmcs := rfl
@[simp] theorem modStu_errlogs : (modStu s b f).errlogs = s.errlogs := rfl
@[simp] theorem modStu_seqStaged : (modStu s b f).seqStaged = s.seqStaged := rfl
@[simp] theorem modStu_aplic : (modStu s b f).aplic = s.aplic := rfl
@[simp] theorem modStu_bundles : (modStu s b f).bundles = s.bundles := rfl
@[simp] theorem modStu_ports : (modStu s b f).ports = s.ports := rfl
@[simp] theorem modStu_cnpSent : (modStu s b f).cnpSent = s.cnpSent := rfl
@[simp] theorem modStu_out : (modStu s b f).out = s.out := rfl
@[simp] theorem modStu_pendDisable : (modStu s b f).pendDisable = s.pendDisable := rfl
@[simp] theorem modStu_remotes : (modStu s b f).remotes = s.remotes := rfl
@[simp] theorem modStu_remoteId : (modStu s b f).remoteId = s.remoteId := rfl
@[simp] theorem modStu_fenceReqs : (modStu s b f).fenceReqs = s.fenceReqs := rfl
@[simp] theorem modStu_cutChunks : (modStu s b f).cutChunks = s.cutChunks := rfl
@[simp] theorem modStu_qps : (modStu s b f).qps = s.qps := rfl
@[simp] theorem modStu_roceCq : (modStu s b f).roceCq = s.roceCq := rfl
@[simp] theorem modStu_wqs : (modStu s b f).wqs = s.wqs := rfl
@[simp] theorem modStu_leds : (modStu s b f).leds = s.leds := rfl
@[simp] theorem modStu_mirror : (modStu s b f).mirror = s.mirror := rfl
@[simp] theorem modStu_dzs : (modStu s b f).dzs = s.dzs := rfl
@[simp] theorem modStu_fabric : (modStu s b f).fabric = s.fabric := rfl
@[simp] theorem modStu_shgs : (modStu s b f).shgs = s.shgs := rfl
@[simp] theorem modStu_dict : (modStu s b f).dict = s.dict := rfl
@[simp] theorem modStu_lastRec : (modStu s b f).lastRec = s.lastRec := rfl
@[simp] theorem modStu_reports : (modStu s b f).reports = s.reports := rfl
@[simp] theorem modStu_alert : (modStu s b f).alert = s.alert := rfl
@[simp] theorem modStu_leaveDue : (modStu s b f).leaveDue = s.leaveDue := rfl
@[simp] theorem modStu_ctl : (modStu s b f).ctl = s.ctl := rfl

end modStu

section withResp
variable (s : Node) (r : Resp)

@[simp] theorem withResp_fresh : (withResp s r).fresh = s.fresh := rfl
@[simp] theorem withResp_now : (withResp s r).now = s.now := rfl
@[simp] theorem withResp_mtimeHold : (withResp s r).mtimeHold = s.mtimeHold := rfl
@[simp] theorem withResp_csr : (withResp s r).csr = s.csr := rfl
@[simp] theorem withResp_mem : (withResp s r).mem = s.mem := rfl
@[simp] theorem withResp_poison : (withResp s r).poison = s.poison := rfl
@[simp] theorem withResp_stale : (withResp s r).stale = s.stale := rfl
@[simp] theorem withResp_ceWindows : (withResp s r).ceWindows = s.ceWindows := rfl
@[simp] theorem withResp_gables : (withResp s r).gables = s.gables := rfl
@[simp] theorem withResp_dies : (withResp s r).dies = s.dies := rfl
@[simp] theorem withResp_dirs : (withResp s r).dirs = s.dirs := rfl
@[simp] theorem withResp_nmcs : (withResp s r).nmcs = s.nmcs := rfl
@[simp] theorem withResp_stus : (withResp s r).stus = s.stus := rfl
@[simp] theorem withResp_errlogs : (withResp s r).errlogs = s.errlogs := rfl
@[simp] theorem withResp_seqStaged : (withResp s r).seqStaged = s.seqStaged := rfl
@[simp] theorem withResp_aplic : (withResp s r).aplic = s.aplic := rfl
@[simp] theorem withResp_bundles : (withResp s r).bundles = s.bundles := rfl
@[simp] theorem withResp_ports : (withResp s r).ports = s.ports := rfl
@[simp] theorem withResp_cnpSent : (withResp s r).cnpSent = s.cnpSent := rfl
@[simp] theorem withResp_out : (withResp s r).out = s.out := rfl
@[simp] theorem withResp_pendDisable : (withResp s r).pendDisable = s.pendDisable := rfl
@[simp] theorem withResp_remotes : (withResp s r).remotes = s.remotes := rfl
@[simp] theorem withResp_remoteId : (withResp s r).remoteId = s.remoteId := rfl
@[simp] theorem withResp_fenceReqs : (withResp s r).fenceReqs = s.fenceReqs := rfl
@[simp] theorem withResp_cutChunks : (withResp s r).cutChunks = s.cutChunks := rfl
@[simp] theorem withResp_qps : (withResp s r).qps = s.qps := rfl
@[simp] theorem withResp_roceCq : (withResp s r).roceCq = s.roceCq := rfl
@[simp] theorem withResp_wqs : (withResp s r).wqs = s.wqs := rfl
@[simp] theorem withResp_leds : (withResp s r).leds = s.leds := rfl
@[simp] theorem withResp_mirror : (withResp s r).mirror = s.mirror := rfl
@[simp] theorem withResp_dzs : (withResp s r).dzs = s.dzs := rfl
@[simp] theorem withResp_fabric : (withResp s r).fabric = s.fabric := rfl
@[simp] theorem withResp_shgs : (withResp s r).shgs = s.shgs := rfl
@[simp] theorem withResp_dict : (withResp s r).dict = s.dict := rfl
@[simp] theorem withResp_lastRec : (withResp s r).lastRec = s.lastRec := rfl
@[simp] theorem withResp_reports : (withResp s r).reports = s.reports := rfl
@[simp] theorem withResp_alert : (withResp s r).alert = s.alert := rfl
@[simp] theorem withResp_leaveDue : (withResp s r).leaveDue = s.leaveDue := rfl
@[simp] theorem withResp_ctl : (withResp s r).ctl = s.ctl := rfl

end withResp

section dropPendDisable
variable (s : Node) (l : RegLoc)

@[simp] theorem dropPendDisable_resp : (dropPendDisable s l).resp = s.resp := rfl
@[simp] theorem dropPendDisable_fresh : (dropPendDisable s l).fresh = s.fresh := rfl
@[simp] theorem dropPendDisable_now : (dropPendDisable s l).now = s.now := rfl
@[simp] theorem dropPendDisable_mtimeHold : (dropPendDisable s l).mtimeHold = s.mtimeHold := rfl
@[simp] theorem dropPendDisable_csr : (dropPendDisable s l).csr = s.csr := rfl
@[simp] theorem dropPendDisable_mem : (dropPendDisable s l).mem = s.mem := rfl
@[simp] theorem dropPendDisable_poison : (dropPendDisable s l).poison = s.poison := rfl
@[simp] theorem dropPendDisable_stale : (dropPendDisable s l).stale = s.stale := rfl
@[simp] theorem dropPendDisable_ceWindows : (dropPendDisable s l).ceWindows = s.ceWindows := rfl
@[simp] theorem dropPendDisable_gables : (dropPendDisable s l).gables = s.gables := rfl
@[simp] theorem dropPendDisable_dies : (dropPendDisable s l).dies = s.dies := rfl
@[simp] theorem dropPendDisable_dirs : (dropPendDisable s l).dirs = s.dirs := rfl
@[simp] theorem dropPendDisable_nmcs : (dropPendDisable s l).nmcs = s.nmcs := rfl
@[simp] theorem dropPendDisable_stus : (dropPendDisable s l).stus = s.stus := rfl
@[simp] theorem dropPendDisable_errlogs : (dropPendDisable s l).errlogs = s.errlogs := rfl
@[simp] theorem dropPendDisable_seqStaged : (dropPendDisable s l).seqStaged = s.seqStaged := rfl
@[simp] theorem dropPendDisable_aplic : (dropPendDisable s l).aplic = s.aplic := rfl
@[simp] theorem dropPendDisable_bundles : (dropPendDisable s l).bundles = s.bundles := rfl
@[simp] theorem dropPendDisable_ports : (dropPendDisable s l).ports = s.ports := rfl
@[simp] theorem dropPendDisable_cnpSent : (dropPendDisable s l).cnpSent = s.cnpSent := rfl
@[simp] theorem dropPendDisable_out : (dropPendDisable s l).out = s.out := rfl
@[simp] theorem dropPendDisable_remotes : (dropPendDisable s l).remotes = s.remotes := rfl
@[simp] theorem dropPendDisable_remoteId : (dropPendDisable s l).remoteId = s.remoteId := rfl
@[simp] theorem dropPendDisable_fenceReqs : (dropPendDisable s l).fenceReqs = s.fenceReqs := rfl
@[simp] theorem dropPendDisable_cutChunks : (dropPendDisable s l).cutChunks = s.cutChunks := rfl
@[simp] theorem dropPendDisable_qps : (dropPendDisable s l).qps = s.qps := rfl
@[simp] theorem dropPendDisable_roceCq : (dropPendDisable s l).roceCq = s.roceCq := rfl
@[simp] theorem dropPendDisable_wqs : (dropPendDisable s l).wqs = s.wqs := rfl
@[simp] theorem dropPendDisable_leds : (dropPendDisable s l).leds = s.leds := rfl
@[simp] theorem dropPendDisable_mirror : (dropPendDisable s l).mirror = s.mirror := rfl
@[simp] theorem dropPendDisable_dzs : (dropPendDisable s l).dzs = s.dzs := rfl
@[simp] theorem dropPendDisable_fabric : (dropPendDisable s l).fabric = s.fabric := rfl
@[simp] theorem dropPendDisable_shgs : (dropPendDisable s l).shgs = s.shgs := rfl
@[simp] theorem dropPendDisable_dict : (dropPendDisable s l).dict = s.dict := rfl
@[simp] theorem dropPendDisable_lastRec : (dropPendDisable s l).lastRec = s.lastRec := rfl
@[simp] theorem dropPendDisable_reports : (dropPendDisable s l).reports = s.reports := rfl
@[simp] theorem dropPendDisable_alert : (dropPendDisable s l).alert = s.alert := rfl
@[simp] theorem dropPendDisable_leaveDue : (dropPendDisable s l).leaveDue = s.leaveDue := rfl
@[simp] theorem dropPendDisable_ctl : (dropPendDisable s l).ctl = s.ctl := rfl

end dropPendDisable

section writeList
variable (s : Node) (l : List (Nat × Byte))

@[simp] theorem writeList_resp : (writeList s l).resp = s.resp := rfl
@[simp] theorem writeList_fresh : (writeList s l).fresh = s.fresh := rfl
@[simp] theorem writeList_now : (writeList s l).now = s.now := rfl
@[simp] theorem writeList_mtimeHold : (writeList s l).mtimeHold = s.mtimeHold := rfl
@[simp] theorem writeList_csr : (writeList s l).csr = s.csr := rfl
@[simp] theorem writeList_poison : (writeList s l).poison = s.poison := rfl
@[simp] theorem writeList_stale : (writeList s l).stale = s.stale := rfl
@[simp] theorem writeList_ceWindows : (writeList s l).ceWindows = s.ceWindows := rfl
@[simp] theorem writeList_gables : (writeList s l).gables = s.gables := rfl
@[simp] theorem writeList_dies : (writeList s l).dies = s.dies := rfl
@[simp] theorem writeList_dirs : (writeList s l).dirs = s.dirs := rfl
@[simp] theorem writeList_nmcs : (writeList s l).nmcs = s.nmcs := rfl
@[simp] theorem writeList_stus : (writeList s l).stus = s.stus := rfl
@[simp] theorem writeList_errlogs : (writeList s l).errlogs = s.errlogs := rfl
@[simp] theorem writeList_seqStaged : (writeList s l).seqStaged = s.seqStaged := rfl
@[simp] theorem writeList_aplic : (writeList s l).aplic = s.aplic := rfl
@[simp] theorem writeList_bundles : (writeList s l).bundles = s.bundles := rfl
@[simp] theorem writeList_ports : (writeList s l).ports = s.ports := rfl
@[simp] theorem writeList_cnpSent : (writeList s l).cnpSent = s.cnpSent := rfl
@[simp] theorem writeList_out : (writeList s l).out = s.out := rfl
@[simp] theorem writeList_pendDisable : (writeList s l).pendDisable = s.pendDisable := rfl
@[simp] theorem writeList_remotes : (writeList s l).remotes = s.remotes := rfl
@[simp] theorem writeList_remoteId : (writeList s l).remoteId = s.remoteId := rfl
@[simp] theorem writeList_fenceReqs : (writeList s l).fenceReqs = s.fenceReqs := rfl
@[simp] theorem writeList_cutChunks : (writeList s l).cutChunks = s.cutChunks := rfl
@[simp] theorem writeList_qps : (writeList s l).qps = s.qps := rfl
@[simp] theorem writeList_roceCq : (writeList s l).roceCq = s.roceCq := rfl
@[simp] theorem writeList_wqs : (writeList s l).wqs = s.wqs := rfl
@[simp] theorem writeList_leds : (writeList s l).leds = s.leds := rfl
@[simp] theorem writeList_mirror : (writeList s l).mirror = s.mirror := rfl
@[simp] theorem writeList_dzs : (writeList s l).dzs = s.dzs := rfl
@[simp] theorem writeList_fabric : (writeList s l).fabric = s.fabric := rfl
@[simp] theorem writeList_shgs : (writeList s l).shgs = s.shgs := rfl
@[simp] theorem writeList_dict : (writeList s l).dict = s.dict := rfl
@[simp] theorem writeList_lastRec : (writeList s l).lastRec = s.lastRec := rfl
@[simp] theorem writeList_reports : (writeList s l).reports = s.reports := rfl
@[simp] theorem writeList_alert : (writeList s l).alert = s.alert := rfl
@[simp] theorem writeList_leaveDue : (writeList s l).leaveDue = s.leaveDue := rfl
@[simp] theorem writeList_ctl : (writeList s l).ctl = s.ctl := rfl

end writeList

section writeBytes
variable (s : Node) (a : Nat) (l : List Byte)

@[simp] theorem writeBytes_resp : (writeBytes s a l).resp = s.resp := rfl
@[simp] theorem writeBytes_fresh : (writeBytes s a l).fresh = s.fresh := rfl
@[simp] theorem writeBytes_now : (writeBytes s a l).now = s.now := rfl
@[simp] theorem writeBytes_mtimeHold : (writeBytes s a l).mtimeHold = s.mtimeHold := rfl
@[simp] theorem writeBytes_csr : (writeBytes s a l).csr = s.csr := rfl
@[simp] theorem writeBytes_poison : (writeBytes s a l).poison = s.poison := rfl
@[simp] theorem writeBytes_stale : (writeBytes s a l).stale = s.stale := rfl
@[simp] theorem writeBytes_ceWindows : (writeBytes s a l).ceWindows = s.ceWindows := rfl
@[simp] theorem writeBytes_gables : (writeBytes s a l).gables = s.gables := rfl
@[simp] theorem writeBytes_dies : (writeBytes s a l).dies = s.dies := rfl
@[simp] theorem writeBytes_dirs : (writeBytes s a l).dirs = s.dirs := rfl
@[simp] theorem writeBytes_nmcs : (writeBytes s a l).nmcs = s.nmcs := rfl
@[simp] theorem writeBytes_stus : (writeBytes s a l).stus = s.stus := rfl
@[simp] theorem writeBytes_errlogs : (writeBytes s a l).errlogs = s.errlogs := rfl
@[simp] theorem writeBytes_seqStaged : (writeBytes s a l).seqStaged = s.seqStaged := rfl
@[simp] theorem writeBytes_aplic : (writeBytes s a l).aplic = s.aplic := rfl
@[simp] theorem writeBytes_bundles : (writeBytes s a l).bundles = s.bundles := rfl
@[simp] theorem writeBytes_ports : (writeBytes s a l).ports = s.ports := rfl
@[simp] theorem writeBytes_cnpSent : (writeBytes s a l).cnpSent = s.cnpSent := rfl
@[simp] theorem writeBytes_out : (writeBytes s a l).out = s.out := rfl
@[simp] theorem writeBytes_pendDisable : (writeBytes s a l).pendDisable = s.pendDisable := rfl
@[simp] theorem writeBytes_remotes : (writeBytes s a l).remotes = s.remotes := rfl
@[simp] theorem writeBytes_remoteId : (writeBytes s a l).remoteId = s.remoteId := rfl
@[simp] theorem writeBytes_fenceReqs : (writeBytes s a l).fenceReqs = s.fenceReqs := rfl
@[simp] theorem writeBytes_cutChunks : (writeBytes s a l).cutChunks = s.cutChunks := rfl
@[simp] theorem writeBytes_qps : (writeBytes s a l).qps = s.qps := rfl
@[simp] theorem writeBytes_roceCq : (writeBytes s a l).roceCq = s.roceCq := rfl
@[simp] theorem writeBytes_wqs : (writeBytes s a l).wqs = s.wqs := rfl
@[simp] theorem writeBytes_leds : (writeBytes s a l).leds = s.leds := rfl
@[simp] theorem writeBytes_mirror : (writeBytes s a l).mirror = s.mirror := rfl
@[simp] theorem writeBytes_dzs : (writeBytes s a l).dzs = s.dzs := rfl
@[simp] theorem writeBytes_fabric : (writeBytes s a l).fabric = s.fabric := rfl
@[simp] theorem writeBytes_shgs : (writeBytes s a l).shgs = s.shgs := rfl
@[simp] theorem writeBytes_dict : (writeBytes s a l).dict = s.dict := rfl
@[simp] theorem writeBytes_lastRec : (writeBytes s a l).lastRec = s.lastRec := rfl
@[simp] theorem writeBytes_reports : (writeBytes s a l).reports = s.reports := rfl
@[simp] theorem writeBytes_alert : (writeBytes s a l).alert = s.alert := rfl
@[simp] theorem writeBytes_leaveDue : (writeBytes s a l).leaveDue = s.leaveDue := rfl
@[simp] theorem writeBytes_ctl : (writeBytes s a l).ctl = s.ctl := rfl

end writeBytes

section bump
variable (s : Node)

@[simp] theorem bump_resp : (bump s).resp = s.resp := rfl
@[simp] theorem bump_now : (bump s).now = s.now := rfl
@[simp] theorem bump_mtimeHold : (bump s).mtimeHold = s.mtimeHold := rfl
@[simp] theorem bump_csr : (bump s).csr = s.csr := rfl
@[simp] theorem bump_mem : (bump s).mem = s.mem := rfl
@[simp] theorem bump_poison : (bump s).poison = s.poison := rfl
@[simp] theorem bump_stale : (bump s).stale = s.stale := rfl
@[simp] theorem bump_ceWindows : (bump s).ceWindows = s.ceWindows := rfl
@[simp] theorem bump_gables : (bump s).gables = s.gables := rfl
@[simp] theorem bump_dies : (bump s).dies = s.dies := rfl
@[simp] theorem bump_dirs : (bump s).dirs = s.dirs := rfl
@[simp] theorem bump_nmcs : (bump s).nmcs = s.nmcs := rfl
@[simp] theorem bump_stus : (bump s).stus = s.stus := rfl
@[simp] theorem bump_errlogs : (bump s).errlogs = s.errlogs := rfl
@[simp] theorem bump_seqStaged : (bump s).seqStaged = s.seqStaged := rfl
@[simp] theorem bump_aplic : (bump s).aplic = s.aplic := rfl
@[simp] theorem bump_bundles : (bump s).bundles = s.bundles := rfl
@[simp] theorem bump_ports : (bump s).ports = s.ports := rfl
@[simp] theorem bump_cnpSent : (bump s).cnpSent = s.cnpSent := rfl
@[simp] theorem bump_out : (bump s).out = s.out := rfl
@[simp] theorem bump_pendDisable : (bump s).pendDisable = s.pendDisable := rfl
@[simp] theorem bump_remotes : (bump s).remotes = s.remotes := rfl
@[simp] theorem bump_remoteId : (bump s).remoteId = s.remoteId := rfl
@[simp] theorem bump_fenceReqs : (bump s).fenceReqs = s.fenceReqs := rfl
@[simp] theorem bump_cutChunks : (bump s).cutChunks = s.cutChunks := rfl
@[simp] theorem bump_qps : (bump s).qps = s.qps := rfl
@[simp] theorem bump_roceCq : (bump s).roceCq = s.roceCq := rfl
@[simp] theorem bump_wqs : (bump s).wqs = s.wqs := rfl
@[simp] theorem bump_leds : (bump s).leds = s.leds := rfl
@[simp] theorem bump_mirror : (bump s).mirror = s.mirror := rfl
@[simp] theorem bump_dzs : (bump s).dzs = s.dzs := rfl
@[simp] theorem bump_fabric : (bump s).fabric = s.fabric := rfl
@[simp] theorem bump_shgs : (bump s).shgs = s.shgs := rfl
@[simp] theorem bump_dict : (bump s).dict = s.dict := rfl
@[simp] theorem bump_lastRec : (bump s).lastRec = s.lastRec := rfl
@[simp] theorem bump_reports : (bump s).reports = s.reports := rfl
@[simp] theorem bump_alert : (bump s).alert = s.alert := rfl
@[simp] theorem bump_leaveDue : (bump s).leaveDue = s.leaveDue := rfl
@[simp] theorem bump_ctl : (bump s).ctl = s.ctl := rfl

end bump

section takeRemote
variable (s : Node) (id : Nat)

@[simp] theorem takeRemote_resp : (takeRemote s id).resp = s.resp := rfl
@[simp] theorem takeRemote_fresh : (takeRemote s id).fresh = s.fresh := rfl
@[simp] theorem takeRemote_now : (takeRemote s id).now = s.now := rfl
@[simp] theorem takeRemote_mtimeHold : (takeRemote s id).mtimeHold = s.mtimeHold := rfl
@[simp] theorem takeRemote_csr : (takeRemote s id).csr = s.csr := rfl
@[simp] theorem takeRemote_mem : (takeRemote s id).mem = s.mem := rfl
@[simp] theorem takeRemote_poison : (takeRemote s id).poison = s.poison := rfl
@[simp] theorem takeRemote_stale : (takeRemote s id).stale = s.stale := rfl
@[simp] theorem takeRemote_ceWindows : (takeRemote s id).ceWindows = s.ceWindows := rfl
@[simp] theorem takeRemote_gables : (takeRemote s id).gables = s.gables := rfl
@[simp] theorem takeRemote_dies : (takeRemote s id).dies = s.dies := rfl
@[simp] theorem takeRemote_dirs : (takeRemote s id).dirs = s.dirs := rfl
@[simp] theorem takeRemote_nmcs : (takeRemote s id).nmcs = s.nmcs := rfl
@[simp] theorem takeRemote_stus : (takeRemote s id).stus = s.stus := rfl
@[simp] theorem takeRemote_errlogs : (takeRemote s id).errlogs = s.errlogs := rfl
@[simp] theorem takeRemote_seqStaged : (takeRemote s id).seqStaged = s.seqStaged := rfl
@[simp] theorem takeRemote_aplic : (takeRemote s id).aplic = s.aplic := rfl
@[simp] theorem takeRemote_bundles : (takeRemote s id).bundles = s.bundles := rfl
@[simp] theorem takeRemote_ports : (takeRemote s id).ports = s.ports := rfl
@[simp] theorem takeRemote_cnpSent : (takeRemote s id).cnpSent = s.cnpSent := rfl
@[simp] theorem takeRemote_out : (takeRemote s id).out = s.out := rfl
@[simp] theorem takeRemote_pendDisable : (takeRemote s id).pendDisable = s.pendDisable := rfl
@[simp] theorem takeRemote_remoteId : (takeRemote s id).remoteId = s.remoteId := rfl
@[simp] theorem takeRemote_fenceReqs : (takeRemote s id).fenceReqs = s.fenceReqs := rfl
@[simp] theorem takeRemote_cutChunks : (takeRemote s id).cutChunks = s.cutChunks := rfl
@[simp] theorem takeRemote_qps : (takeRemote s id).qps = s.qps := rfl
@[simp] theorem takeRemote_roceCq : (takeRemote s id).roceCq = s.roceCq := rfl
@[simp] theorem takeRemote_wqs : (takeRemote s id).wqs = s.wqs := rfl
@[simp] theorem takeRemote_leds : (takeRemote s id).leds = s.leds := rfl
@[simp] theorem takeRemote_mirror : (takeRemote s id).mirror = s.mirror := rfl
@[simp] theorem takeRemote_dzs : (takeRemote s id).dzs = s.dzs := rfl
@[simp] theorem takeRemote_fabric : (takeRemote s id).fabric = s.fabric := rfl
@[simp] theorem takeRemote_shgs : (takeRemote s id).shgs = s.shgs := rfl
@[simp] theorem takeRemote_dict : (takeRemote s id).dict = s.dict := rfl
@[simp] theorem takeRemote_lastRec : (takeRemote s id).lastRec = s.lastRec := rfl
@[simp] theorem takeRemote_reports : (takeRemote s id).reports = s.reports := rfl
@[simp] theorem takeRemote_alert : (takeRemote s id).alert = s.alert := rfl
@[simp] theorem takeRemote_leaveDue : (takeRemote s id).leaveDue = s.leaveDue := rfl
@[simp] theorem takeRemote_ctl : (takeRemote s id).ctl = s.ctl := rfl

end takeRemote

section modBundle
variable (s : Node) (e d k : Nat) (f : Bundle → Bundle)

@[simp] theorem modBundle_resp : (modBundle s e d k f).resp = s.resp := rfl
@[simp] theorem modBundle_fresh : (modBundle s e d k f).fresh = s.fresh := rfl
@[simp] theorem modBundle_now : (modBundle s e d k f).now = s.now := rfl
@[simp] theorem modBundle_mtimeHold : (modBundle s e d k f).mtimeHold = s.mtimeHold := rfl
@[simp] theorem modBundle_csr : (modBundle s e d k f).csr = s.csr := rfl
@[simp] theorem modBundle_mem : (modBundle s e d k f).mem = s.mem := rfl
@[simp] theorem modBundle_poison : (modBundle s e d k f).poison = s.poison := rfl
@[simp] theorem modBundle_stale : (modBundle s e d k f).stale = s.stale := rfl
@[simp] theorem modBundle_ceWindows : (modBundle s e d k f).ceWindows = s.ceWindows := rfl
@[simp] theorem modBundle_gables : (modBundle s e d k f).gables = s.gables := rfl
@[simp] theorem modBundle_dies : (modBundle s e d k f).dies = s.dies := rfl
@[simp] theorem modBundle_dirs : (modBundle s e d k f).dirs = s.dirs := rfl
@[simp] theorem modBundle_nmcs : (modBundle s e d k f).nmcs = s.nmcs := rfl
@[simp] theorem modBundle_stus : (modBundle s e d k f).stus = s.stus := rfl
@[simp] theorem modBundle_errlogs : (modBundle s e d k f).errlogs = s.errlogs := rfl
@[simp] theorem modBundle_seqStaged : (modBundle s e d k f).seqStaged = s.seqStaged := rfl
@[simp] theorem modBundle_aplic : (modBundle s e d k f).aplic = s.aplic := rfl
@[simp] theorem modBundle_ports : (modBundle s e d k f).ports = s.ports := rfl
@[simp] theorem modBundle_cnpSent : (modBundle s e d k f).cnpSent = s.cnpSent := rfl
@[simp] theorem modBundle_out : (modBundle s e d k f).out = s.out := rfl
@[simp] theorem modBundle_pendDisable : (modBundle s e d k f).pendDisable = s.pendDisable := rfl
@[simp] theorem modBundle_remotes : (modBundle s e d k f).remotes = s.remotes := rfl
@[simp] theorem modBundle_remoteId : (modBundle s e d k f).remoteId = s.remoteId := rfl
@[simp] theorem modBundle_fenceReqs : (modBundle s e d k f).fenceReqs = s.fenceReqs := rfl
@[simp] theorem modBundle_cutChunks : (modBundle s e d k f).cutChunks = s.cutChunks := rfl
@[simp] theorem modBundle_qps : (modBundle s e d k f).qps = s.qps := rfl
@[simp] theorem modBundle_roceCq : (modBundle s e d k f).roceCq = s.roceCq := rfl
@[simp] theorem modBundle_wqs : (modBundle s e d k f).wqs = s.wqs := rfl
@[simp] theorem modBundle_leds : (modBundle s e d k f).leds = s.leds := rfl
@[simp] theorem modBundle_mirror : (modBundle s e d k f).mirror = s.mirror := rfl
@[simp] theorem modBundle_dzs : (modBundle s e d k f).dzs = s.dzs := rfl
@[simp] theorem modBundle_fabric : (modBundle s e d k f).fabric = s.fabric := rfl
@[simp] theorem modBundle_shgs : (modBundle s e d k f).shgs = s.shgs := rfl
@[simp] theorem modBundle_dict : (modBundle s e d k f).dict = s.dict := rfl
@[simp] theorem modBundle_lastRec : (modBundle s e d k f).lastRec = s.lastRec := rfl
@[simp] theorem modBundle_reports : (modBundle s e d k f).reports = s.reports := rfl
@[simp] theorem modBundle_alert : (modBundle s e d k f).alert = s.alert := rfl
@[simp] theorem modBundle_leaveDue : (modBundle s e d k f).leaveDue = s.leaveDue := rfl
@[simp] theorem modBundle_ctl : (modBundle s e d k f).ctl = s.ctl := rfl

end modBundle

section modCtl
variable (s : Node) (f : Ctl → Ctl)

@[simp] theorem modCtl_resp : (modCtl s f).resp = s.resp := rfl
@[simp] theorem modCtl_fresh : (modCtl s f).fresh = s.fresh := rfl
@[simp] theorem modCtl_now : (modCtl s f).now = s.now := rfl
@[simp] theorem modCtl_mtimeHold : (modCtl s f).mtimeHold = s.mtimeHold := rfl
@[simp] theorem modCtl_csr : (modCtl s f).csr = s.csr := rfl
@[simp] theorem modCtl_mem : (modCtl s f).mem = s.mem := rfl
@[simp] theorem modCtl_poison : (modCtl s f).poison = s.poison := rfl
@[simp] theorem modCtl_stale : (modCtl s f).stale = s.stale := rfl
@[simp] theorem modCtl_ceWindows : (modCtl s f).ceWindows = s.ceWindows := rfl
@[simp] theorem modCtl_gables : (modCtl s f).gables = s.gables := rfl
@[simp] theorem modCtl_dies : (modCtl s f).dies = s.dies := rfl
@[simp] theorem modCtl_dirs : (modCtl s f).dirs = s.dirs := rfl
@[simp] theorem modCtl_nmcs : (modCtl s f).nmcs = s.nmcs := rfl
@[simp] theorem modCtl_stus : (modCtl s f).stus = s.stus := rfl
@[simp] theorem modCtl_errlogs : (modCtl s f).errlogs = s.errlogs := rfl
@[simp] theorem modCtl_seqStaged : (modCtl s f).seqStaged = s.seqStaged := rfl
@[simp] theorem modCtl_aplic : (modCtl s f).aplic = s.aplic := rfl
@[simp] theorem modCtl_bundles : (modCtl s f).bundles = s.bundles := rfl
@[simp] theorem modCtl_ports : (modCtl s f).ports = s.ports := rfl
@[simp] theorem modCtl_cnpSent : (modCtl s f).cnpSent = s.cnpSent := rfl
@[simp] theorem modCtl_out : (modCtl s f).out = s.out := rfl
@[simp] theorem modCtl_pendDisable : (modCtl s f).pendDisable = s.pendDisable := rfl
@[simp] theorem modCtl_remotes : (modCtl s f).remotes = s.remotes := rfl
@[simp] theorem modCtl_remoteId : (modCtl s f).remoteId = s.remoteId := rfl
@[simp] theorem modCtl_fenceReqs : (modCtl s f).fenceReqs = s.fenceReqs := rfl
@[simp] theorem modCtl_cutChunks : (modCtl s f).cutChunks = s.cutChunks := rfl
@[simp] theorem modCtl_qps : (modCtl s f).qps = s.qps := rfl
@[simp] theorem modCtl_roceCq : (modCtl s f).roceCq = s.roceCq := rfl
@[simp] theorem modCtl_wqs : (modCtl s f).wqs = s.wqs := rfl
@[simp] theorem modCtl_leds : (modCtl s f).leds = s.leds := rfl
@[simp] theorem modCtl_mirror : (modCtl s f).mirror = s.mirror := rfl
@[simp] theorem modCtl_dzs : (modCtl s f).dzs = s.dzs := rfl
@[simp] theorem modCtl_fabric : (modCtl s f).fabric = s.fabric := rfl
@[simp] theorem modCtl_shgs : (modCtl s f).shgs = s.shgs := rfl
@[simp] theorem modCtl_dict : (modCtl s f).dict = s.dict := rfl
@[simp] theorem modCtl_lastRec : (modCtl s f).lastRec = s.lastRec := rfl
@[simp] theorem modCtl_reports : (modCtl s f).reports = s.reports := rfl
@[simp] theorem modCtl_alert : (modCtl s f).alert = s.alert := rfl
@[simp] theorem modCtl_leaveDue : (modCtl s f).leaveDue = s.leaveDue := rfl

end modCtl

section modPort
variable (s : Node) (p : Nat) (f : Port → Port)

@[simp] theorem modPort_resp : (modPort s p f).resp = s.resp := rfl
@[simp] theorem modPort_fresh : (modPort s p f).fresh = s.fresh := rfl
@[simp] theorem modPort_now : (modPort s p f).now = s.now := rfl
@[simp] theorem modPort_mtimeHold : (modPort s p f).mtimeHold = s.mtimeHold := rfl
@[simp] theorem modPort_csr : (modPort s p f).csr = s.csr := rfl
@[simp] theorem modPort_mem : (modPort s p f).mem = s.mem := rfl
@[simp] theorem modPort_poison : (modPort s p f).poison = s.poison := rfl
@[simp] theorem modPort_stale : (modPort s p f).stale = s.stale := rfl
@[simp] theorem modPort_ceWindows : (modPort s p f).ceWindows = s.ceWindows := rfl
@[simp] theorem modPort_gables : (modPort s p f).gables = s.gables := rfl
@[simp] theorem modPort_dies : (modPort s p f).dies = s.dies := rfl
@[simp] theorem modPort_dirs : (modPort s p f).dirs = s.dirs := rfl
@[simp] theorem modPort_nmcs : (modPort s p f).nmcs = s.nmcs := rfl
@[simp] theorem modPort_stus : (modPort s p f).stus = s.stus := rfl
@[simp] theorem modPort_errlogs : (modPort s p f).errlogs = s.errlogs := rfl
@[simp] theorem modPort_seqStaged : (modPort s p f).seqStaged = s.seqStaged := rfl
@[simp] theorem modPort_aplic : (modPort s p f).aplic = s.aplic := rfl
@[simp] theorem modPort_bundles : (modPort s p f).bundles = s.bundles := rfl
@[simp] theorem modPort_cnpSent : (modPort s p f).cnpSent = s.cnpSent := rfl
@[simp] theorem modPort_out : (modPort s p f).out = s.out := rfl
@[simp] theorem modPort_pendDisable : (modPort s p f).pendDisable = s.pendDisable := rfl
@[simp] theorem modPort_remotes : (modPort s p f).remotes = s.remotes := rfl
@[simp] theorem modPort_remoteId : (modPort s p f).remoteId = s.remoteId := rfl
@[simp] theorem modPort_fenceReqs : (modPort s p f).fenceReqs = s.fenceReqs := rfl
@[simp] theorem modPort_cutChunks : (modPort s p f).cutChunks = s.cutChunks := rfl
@[simp] theorem modPort_qps : (modPort s p f).qps = s.qps := rfl
@[simp] theorem modPort_roceCq : (modPort s p f).roceCq = s.roceCq := rfl
@[simp] theorem modPort_wqs : (modPort s p f).wqs = s.wqs := rfl
@[simp] theorem modPort_leds : (modPort s p f).leds = s.leds := rfl
@[simp] theorem modPort_mirror : (modPort s p f).mirror = s.mirror := rfl
@[simp] theorem modPort_dzs : (modPort s p f).dzs = s.dzs := rfl
@[simp] theorem modPort_fabric : (modPort s p f).fabric = s.fabric := rfl
@[simp] theorem modPort_shgs : (modPort s p f).shgs = s.shgs := rfl
@[simp] theorem modPort_dict : (modPort s p f).dict = s.dict := rfl
@[simp] theorem modPort_lastRec : (modPort s p f).lastRec = s.lastRec := rfl
@[simp] theorem modPort_reports : (modPort s p f).reports = s.reports := rfl
@[simp] theorem modPort_alert : (modPort s p f).alert = s.alert := rfl
@[simp] theorem modPort_leaveDue : (modPort s p f).leaveDue = s.leaveDue := rfl
@[simp] theorem modPort_ctl : (modPort s p f).ctl = s.ctl := rfl

end modPort

section sendOut
variable (s : Node) (o : Out)

@[simp] theorem sendOut_resp : (sendOut s o).resp = s.resp := rfl
@[simp] theorem sendOut_fresh : (sendOut s o).fresh = s.fresh := rfl
@[simp] theorem sendOut_now : (sendOut s o).now = s.now := rfl
@[simp] theorem sendOut_mtimeHold : (sendOut s o).mtimeHold = s.mtimeHold := rfl
@[simp] theorem sendOut_csr : (sendOut s o).csr = s.csr := rfl
@[simp] theorem sendOut_mem : (sendOut s o).mem = s.mem := rfl
@[simp] theorem sendOut_poison : (sendOut s o).poison = s.poison := rfl
@[simp] theorem sendOut_stale : (sendOut s o).stale = s.stale := rfl
@[simp] theorem sendOut_ceWindows : (sendOut s o).ceWindows = s.ceWindows := rfl
@[simp] theorem sendOut_gables : (sendOut s o).gables = s.gables := rfl
@[simp] theorem sendOut_dies : (sendOut s o).dies = s.dies := rfl
@[simp] theorem sendOut_dirs : (sendOut s o).dirs = s.dirs := rfl
@[simp] theorem sendOut_nmcs : (sendOut s o).nmcs = s.nmcs := rfl
@[simp] theorem sendOut_stus : (sendOut s o).stus = s.stus := rfl
@[simp] theorem sendOut_errlogs : (sendOut s o).errlogs = s.errlogs := rfl
@[simp] theorem sendOut_seqStaged : (sendOut s o).seqStaged = s.seqStaged := rfl
@[simp] theorem sendOut_aplic : (sendOut s o).aplic = s.aplic := rfl
@[simp] theorem sendOut_bundles : (sendOut s o).bundles = s.bundles := rfl
@[simp] theorem sendOut_ports : (sendOut s o).ports = s.ports := rfl
@[simp] theorem sendOut_cnpSent : (sendOut s o).cnpSent = s.cnpSent := rfl
@[simp] theorem sendOut_pendDisable : (sendOut s o).pendDisable = s.pendDisable := rfl
@[simp] theorem sendOut_remotes : (sendOut s o).remotes = s.remotes := rfl
@[simp] theorem sendOut_remoteId : (sendOut s o).remoteId = s.remoteId := rfl
@[simp] theorem sendOut_fenceReqs : (sendOut s o).fenceReqs = s.fenceReqs := rfl
@[simp] theorem sendOut_cutChunks : (sendOut s o).cutChunks = s.cutChunks := rfl
@[simp] theorem sendOut_qps : (sendOut s o).qps = s.qps := rfl
@[simp] theorem sendOut_roceCq : (sendOut s o).roceCq = s.roceCq := rfl
@[simp] theorem sendOut_wqs : (sendOut s o).wqs = s.wqs := rfl
@[simp] theorem sendOut_leds : (sendOut s o).leds = s.leds := rfl
@[simp] theorem sendOut_mirror : (sendOut s o).mirror = s.mirror := rfl
@[simp] theorem sendOut_dzs : (sendOut s o).dzs = s.dzs := rfl
@[simp] theorem sendOut_fabric : (sendOut s o).fabric = s.fabric := rfl
@[simp] theorem sendOut_shgs : (sendOut s o).shgs = s.shgs := rfl
@[simp] theorem sendOut_dict : (sendOut s o).dict = s.dict := rfl
@[simp] theorem sendOut_lastRec : (sendOut s o).lastRec = s.lastRec := rfl
@[simp] theorem sendOut_reports : (sendOut s o).reports = s.reports := rfl
@[simp] theorem sendOut_alert : (sendOut s o).alert = s.alert := rfl
@[simp] theorem sendOut_leaveDue : (sendOut s o).leaveDue = s.leaveDue := rfl
@[simp] theorem sendOut_ctl : (sendOut s o).ctl = s.ctl := rfl

end sendOut

section noteAlert
variable (s : Node)

@[simp] theorem noteAlert_resp : (noteAlert s).resp = s.resp := rfl
@[simp] theorem noteAlert_fresh : (noteAlert s).fresh = s.fresh := rfl
@[simp] theorem noteAlert_now : (noteAlert s).now = s.now := rfl
@[simp] theorem noteAlert_mtimeHold : (noteAlert s).mtimeHold = s.mtimeHold := rfl
@[simp] theorem noteAlert_csr : (noteAlert s).csr = s.csr := rfl
@[simp] theorem noteAlert_mem : (noteAlert s).mem = s.mem := rfl
@[simp] theorem noteAlert_poison : (noteAlert s).poison = s.poison := rfl
@[simp] theorem noteAlert_stale : (noteAlert s).stale = s.stale := rfl
@[simp] theorem noteAlert_ceWindows : (noteAlert s).ceWindows = s.ceWindows := rfl
@[simp] theorem noteAlert_gables : (noteAlert s).gables = s.gables := rfl
@[simp] theorem noteAlert_dies : (noteAlert s).dies = s.dies := rfl
@[simp] theorem noteAlert_dirs : (noteAlert s).dirs = s.dirs := rfl
@[simp] theorem noteAlert_nmcs : (noteAlert s).nmcs = s.nmcs := rfl
@[simp] theorem noteAlert_stus : (noteAlert s).stus = s.stus := rfl
@[simp] theorem noteAlert_errlogs : (noteAlert s).errlogs = s.errlogs := rfl
@[simp] theorem noteAlert_seqStaged : (noteAlert s).seqStaged = s.seqStaged := rfl
@[simp] theorem noteAlert_aplic : (noteAlert s).aplic = s.aplic := rfl
@[simp] theorem noteAlert_bundles : (noteAlert s).bundles = s.bundles := rfl
@[simp] theorem noteAlert_ports : (noteAlert s).ports = s.ports := rfl
@[simp] theorem noteAlert_cnpSent : (noteAlert s).cnpSent = s.cnpSent := rfl
@[simp] theorem noteAlert_out : (noteAlert s).out = s.out := rfl
@[simp] theorem noteAlert_pendDisable : (noteAlert s).pendDisable = s.pendDisable := rfl
@[simp] theorem noteAlert_remotes : (noteAlert s).remotes = s.remotes := rfl
@[simp] theorem noteAlert_remoteId : (noteAlert s).remoteId = s.remoteId := rfl
@[simp] theorem noteAlert_fenceReqs : (noteAlert s).fenceReqs = s.fenceReqs := rfl
@[simp] theorem noteAlert_cutChunks : (noteAlert s).cutChunks = s.cutChunks := rfl
@[simp] theorem noteAlert_qps : (noteAlert s).qps = s.qps := rfl
@[simp] theorem noteAlert_roceCq : (noteAlert s).roceCq = s.roceCq := rfl
@[simp] theorem noteAlert_wqs : (noteAlert s).wqs = s.wqs := rfl
@[simp] theorem noteAlert_leds : (noteAlert s).leds = s.leds := rfl
@[simp] theorem noteAlert_mirror : (noteAlert s).mirror = s.mirror := rfl
@[simp] theorem noteAlert_dzs : (noteAlert s).dzs = s.dzs := rfl
@[simp] theorem noteAlert_fabric : (noteAlert s).fabric = s.fabric := rfl
@[simp] theorem noteAlert_shgs : (noteAlert s).shgs = s.shgs := rfl
@[simp] theorem noteAlert_dict : (noteAlert s).dict = s.dict := rfl
@[simp] theorem noteAlert_lastRec : (noteAlert s).lastRec = s.lastRec := rfl
@[simp] theorem noteAlert_reports : (noteAlert s).reports = s.reports := rfl
@[simp] theorem noteAlert_leaveDue : (noteAlert s).leaveDue = s.leaveDue := rfl
@[simp] theorem noteAlert_ctl : (noteAlert s).ctl = s.ctl := rfl

end noteAlert

section dropMirrorRemote
variable (s : Node) (b i : Nat)

@[simp] theorem dropMirrorRemote_resp : (dropMirrorRemote s b i).resp = s.resp := rfl
@[simp] theorem dropMirrorRemote_fresh : (dropMirrorRemote s b i).fresh = s.fresh := rfl
@[simp] theorem dropMirrorRemote_now : (dropMirrorRemote s b i).now = s.now := rfl
@[simp] theorem dropMirrorRemote_mtimeHold : (dropMirrorRemote s b i).mtimeHold = s.mtimeHold := rfl
@[simp] theorem dropMirrorRemote_csr : (dropMirrorRemote s b i).csr = s.csr := rfl
@[simp] theorem dropMirrorRemote_mem : (dropMirrorRemote s b i).mem = s.mem := rfl
@[simp] theorem dropMirrorRemote_poison : (dropMirrorRemote s b i).poison = s.poison := rfl
@[simp] theorem dropMirrorRemote_stale : (dropMirrorRemote s b i).stale = s.stale := rfl
@[simp] theorem dropMirrorRemote_ceWindows : (dropMirrorRemote s b i).ceWindows = s.ceWindows := rfl
@[simp] theorem dropMirrorRemote_gables : (dropMirrorRemote s b i).gables = s.gables := rfl
@[simp] theorem dropMirrorRemote_dies : (dropMirrorRemote s b i).dies = s.dies := rfl
@[simp] theorem dropMirrorRemote_dirs : (dropMirrorRemote s b i).dirs = s.dirs := rfl
@[simp] theorem dropMirrorRemote_nmcs : (dropMirrorRemote s b i).nmcs = s.nmcs := rfl
@[simp] theorem dropMirrorRemote_stus : (dropMirrorRemote s b i).stus = s.stus := rfl
@[simp] theorem dropMirrorRemote_errlogs : (dropMirrorRemote s b i).errlogs = s.errlogs := rfl
@[simp] theorem dropMirrorRemote_seqStaged : (dropMirrorRemote s b i).seqStaged = s.seqStaged := rfl
@[simp] theorem dropMirrorRemote_aplic : (dropMirrorRemote s b i).aplic = s.aplic := rfl
@[simp] theorem dropMirrorRemote_bundles : (dropMirrorRemote s b i).bundles = s.bundles := rfl
@[simp] theorem dropMirrorRemote_ports : (dropMirrorRemote s b i).ports = s.ports := rfl
@[simp] theorem dropMirrorRemote_cnpSent : (dropMirrorRemote s b i).cnpSent = s.cnpSent := rfl
@[simp] theorem dropMirrorRemote_out : (dropMirrorRemote s b i).out = s.out := rfl
@[simp] theorem dropMirrorRemote_pendDisable : (dropMirrorRemote s b i).pendDisable = s.pendDisable := rfl
@[simp] theorem dropMirrorRemote_remoteId : (dropMirrorRemote s b i).remoteId = s.remoteId := rfl
@[simp] theorem dropMirrorRemote_fenceReqs : (dropMirrorRemote s b i).fenceReqs = s.fenceReqs := rfl
@[simp] theorem dropMirrorRemote_cutChunks : (dropMirrorRemote s b i).cutChunks = s.cutChunks := rfl
@[simp] theorem dropMirrorRemote_qps : (dropMirrorRemote s b i).qps = s.qps := rfl
@[simp] theorem dropMirrorRemote_roceCq : (dropMirrorRemote s b i).roceCq = s.roceCq := rfl
@[simp] theorem dropMirrorRemote_wqs : (dropMirrorRemote s b i).wqs = s.wqs := rfl
@[simp] theorem dropMirrorRemote_leds : (dropMirrorRemote s b i).leds = s.leds := rfl
@[simp] theorem dropMirrorRemote_mirror : (dropMirrorRemote s b i).mirror = s.mirror := rfl
@[simp] theorem dropMirrorRemote_dzs : (dropMirrorRemote s b i).dzs = s.dzs := rfl
@[simp] theorem dropMirrorRemote_fabric : (dropMirrorRemote s b i).fabric = s.fabric := rfl
@[simp] theorem dropMirrorRemote_shgs : (dropMirrorRemote s b i).shgs = s.shgs := rfl
@[simp] theorem dropMirrorRemote_dict : (dropMirrorRemote s b i).dict = s.dict := rfl
@[simp] theorem dropMirrorRemote_lastRec : (dropMirrorRemote s b i).lastRec = s.lastRec := rfl
@[simp] theorem dropMirrorRemote_reports : (dropMirrorRemote s b i).reports = s.reports := rfl
@[simp] theorem dropMirrorRemote_alert : (dropMirrorRemote s b i).alert = s.alert := rfl
@[simp] theorem dropMirrorRemote_leaveDue : (dropMirrorRemote s b i).leaveDue = s.leaveDue := rfl
@[simp] theorem dropMirrorRemote_ctl : (dropMirrorRemote s b i).ctl = s.ctl := rfl

end dropMirrorRemote

end Sys2Proof.Machine
end

