-- ==== Sys2Proof/Tests/Slice0.lean ====
section
/-! SUPPORT. An ill-formed command for each check; small tests of single steps; and, named wit_<statement>, concrete states
and operands that meet the hypotheses of each statement's clauses. -/

set_option Elab.async false

open Sys2Proof Sys2Proof.Machine

/-! ## Helpers -/

/-- The node after reset. -/
def tN : Node := Node.reset

/-- The node with a register at a value. -/
def tReg (s : Node) (l : RegLoc) (v : Nat) : Node := regSet s l (BitVec.ofNat 64 v)

/-- The next node of an outcome. -/
def tNext : Host.Outcome State Fault Refusal → Option Node
  | .next s => some s.node
  | _ => none

/-- Whether an outcome is the fault of an absent unit. -/
def tAbsent : Host.Outcome State Fault Refusal → Bool
  | .fault .noSuchUnit => true
  | _ => false

/-- The node a command leaves when it is performed on `s`. -/
def tRun (c : Instr) (s : Node) : Option Node := tNext (exec c ⟨[], s⟩)

/-- A running group of 32 threads with the 32-bit registers given in every lane. -/
def tGroup (regs : List (Nat × Nat)) : Group :=
  { Group.none with
    phase := .running, regs := 256, threads := 0xFFFFFFFF, paths := [⟨0x1000, 0xFFFFFFFF⟩]
    file := regs.flatMap fun p => (List.range 32).map fun i => (p.1 * 32 + i, BitVec.ofNat 32 p.2) }

/-- The last group of the last Gable, running. -/
def tG (regs : List (Nat × Nat)) : Node := modGroup tN 191 63 fun _ => tGroup regs

/-- The same, with the group waiting. -/
def tGWait (w : GWait) : Node := modGroup tN 191 63 fun _ => { tGroup [] with phase := .waiting, wait := w }

/-- The same, with scratch bytes of the Gable. -/
def tGS (regs : List (Nat × Nat)) (bytes : List (Nat × Nat)) : Node :=
  modGable (tG regs) 191 fun x => { x with scratch := bytes.map fun p => (p.1, BitVec.ofNat 8 p.2) }

/-! ## Ill-formed commands: one for each check of WellFormed -/

theorem smoke_gable : Instr.wellFormed (.mma 192 0 0) = false ∧ Instr.wellFormed (.mma 191 0 0) = true := by decide
theorem smoke_die : Instr.wellFormed (.dieFence 12) = false ∧ Instr.wellFormed (.dieFence 11) = true := by decide
theorem smoke_base : Instr.wellFormed (.errHeadWrite 4 0) = false ∧ Instr.wellFormed (.errHeadWrite 3 0) = true := by decide
theorem smoke_core : Instr.wellFormed (.timerInterrupt 96) = false ∧ Instr.wellFormed (.timerInterrupt 95) = true := by decide
theorem smoke_counter : Instr.wellFormed (.depCntWrite 1024 0) = false ∧ Instr.wellFormed (.depCntWrite 1023 0) = true := by decide
theorem smoke_sequence : Instr.wellFormed (.seqEntryCommit 4096 0) = false ∧ Instr.wellFormed (.seqEntryCommit 4095 0) = true := by
  decide
theorem smoke_stack : Instr.wellFormed (.hbmStackLost 12) = false ∧ Instr.wellFormed (.hbmStackLost 11) = true := by decide
theorem smoke_bundle : Instr.wellFormed (.wireTestStart 4 0 0) = false ∧ Instr.wellFormed (.wireTestStart 0 2 0) = false ∧
    Instr.wellFormed (.wireTestStart 0 0 64) = false ∧ Instr.wellFormed (.wireTestStart 3 1 63) = true := by decide
theorem smoke_edge : Instr.wellFormed (.edgeStepDone 4) = false ∧ Instr.wellFormed (.edgeStepDone 3) = true := by decide
theorem smoke_port : Instr.wellFormed (.portStepDone 20) = false ∧ Instr.wellFormed (.portStepDone 19) = true := by decide
theorem smoke_fabric_port : Instr.wellFormed (.keepaliveSend 19) = false ∧ Instr.wellFormed (.keepaliveSend 20) = false ∧
    Instr.wellFormed (.keepaliveSend 18) = true := by decide
theorem smoke_qp : Instr.wellFormed (.cnpReceive 4096) = false ∧ Instr.wellFormed (.cnpReceive 4095) = true := by decide
theorem smoke_region : Instr.wellFormed (.mrEntryWrite 16384 0 0) = false ∧ Instr.wellFormed (.mrEntryWrite 0 4 0) = false ∧
    Instr.wellFormed (.mrEntryWrite 16383 3 0) = true := by decide
theorem smoke_tree : Instr.wellFormed (.ridgeTreeWrite 256 0 0) = false ∧ Instr.wellFormed (.ridgeTreeWrite 0 8 0) = false ∧
    Instr.wellFormed (.ridgeTreeWrite 255 7 0) = true := by decide
theorem smoke_group : Instr.wellFormed (.shgGroupWrite 64 0 0) = false ∧ Instr.wellFormed (.shgGroupWrite 0 2 0) = false ∧
    Instr.wellFormed (.shgGroupWrite 63 1 0) = true := by decide
theorem smoke_tag : Instr.wellFormed (.shgGo 4096) = false ∧ Instr.wellFormed (.shgGo 4095) = true := by decide
theorem smoke_queue : Instr.wellFormed (.doorbellProd 256 0) = false ∧ Instr.wellFormed (.doorbellProd 255 0) = true := by decide
theorem smoke_timed_event : Instr.wellFormed (.teCut 64) = false ∧ Instr.wellFormed (.teCut 63) = true := by decide
theorem smoke_domain : Instr.wellFormed (.estimatorDiverge 19) = false ∧ Instr.wellFormed (.estimatorDiverge 18) = true := by decide
theorem smoke_sensed : Instr.wellFormed (.thermtrip 32) = false ∧ Instr.wellFormed (.thermtrip 31) = true ∧
    Instr.wellFormed (.thermalFault 16) = false ∧ Instr.wellFormed (.thermalFault 15) = true := by decide
theorem smoke_transport : Instr.wellFormed (.coroudRead (.inband 20 0) [] false) = false ∧
    Instr.wellFormed (.coroudRead (.mailbox 4) [] false) = false ∧ Instr.wellFormed (.coroudRead .i3c [] false) = true := by decide
theorem smoke_sram : Instr.wellFormed (.sramUncorrected (.cacheTags 12)) = false ∧
    Instr.wellFormed (.sramUncorrected (.coreCache 96 0 true)) = false ∧
    Instr.wellFormed (.sramUncorrected (.accumulator 192 0)) = false := by decide
/-- An ill-formed command stops, whatever family it is of. -/
theorem smoke_stops : tAbsent (exec (.mma 192 0 0) State.reset) = true ∧ tAbsent (exec (.dieFence 12) State.reset) = true ∧
    tAbsent (exec (.keepaliveSend 19) State.reset) = true ∧ tAbsent (exec (.teCut 64) State.reset) = true := by decide

/-! ## The block -/

theorem wit_idle : State.reset.pending = [] ∧ nodeRuns tN = false := by decide
theorem wit_idle_running :
    nodeRuns (modLife tN fun l => { l with pwrok := true, boot := .up }) = true := by decide
theorem wit_command_completes : Instr.wellFormed (.mma 191 63 0) = true := by decide
theorem wit_queue_drains : queueOk ⟨[.tapReset, .portStepDone 19], tN⟩ = true := by decide
theorem wit_queue_is_first_in_first_out : ∃ t, runs [Instr.tapReset].length ⟨[.tapReset] ++ [.portStepDone 19], tN⟩ t :=
  ⟨_, _, rfl, rfl⟩
theorem wit_memory_kept : memoryOk ⟨[.tapReset], { tN with mem := [(0, 1), (2 ^ 40, 255)] }⟩ = true ∧
    ∃ t, step ⟨[.tapReset], { tN with mem := [(0, 1), (2 ^ 40, 255)] }⟩ = .next t := ⟨by decide, _, rfl⟩
theorem wit_fuses_kept : ∃ t, step ⟨[.ownerKeyWrite []], tN⟩ = .next t := ⟨_, rfl⟩

/-! ## CSRs, the generator and the memory map -/

theorem wit_csr_access_refused : ¬((4 = 8) ∧ 0xC5100000 % 8 = 0) ∧ ¬((8 = 8) ∧ 0xC5100004 % 8 = 0) := by decide
theorem wit_csr_without_register : csrAllowed (.core 95) 0xFFFFFFF8 8 = true ∧ csrFenced tN 0xFFFFFFF8 = false ∧
    csrFind 0xFFFFFFF8 = none ∧ 0xFFFFFFF8 / 2 ^ 20 % 256 ≠ 0xF0 := by decide
theorem wit_csr_without_register_debug : csrAllowed (.mp 3) 0xFF000000 8 = true ∧ csrFenced tN 0xFF000000 = false ∧
    csrFind 0xFF000000 = none ∧ debugOpen tN = false := by decide
theorem wit_generator : (0xFFFFFFFF : Nat) < 2 ^ 32 := by decide
theorem wit_global_interleave : fGet tN (bLoc .hbmStatus 0) fHbmStatusMapping = 0 ∧ 2 ^ 33 - 1 < 2 ^ 33 ∧
    homeOf tN (2 ^ 33 - 1) = homeOf tN (2 ^ 33 - 1) ∧ localLine tN (2 ^ 33 - 1) = localLine tN (2 ^ 33 - 1) := by decide

/-! ## Gables -/

theorem wit_zero_register : (31 : Nat) < 32 ∧ (255 : Nat) ≠ 0 ∧ ((254 : Nat) ≠ 255 ∨ (31 : Nat) ≠ 31) := by decide
theorem wit_cntset : groupReady (tG [(255, 7)]) 191 63 ∧ opcodeOf (0xCD <<< 56 + 63 <<< 40 + 255 <<< 32) = 0xCD ∧
    cntLegal (0xCD <<< 56 + 63 <<< 40 + 255 <<< 32) = true ∧
    awaits (groupOf (tG [(255, 7)]) 191 63) (bits (0xCD <<< 56 + 63 <<< 40 + 255 <<< 32) 39 32) = false ∧
    bits (0xCD <<< 56 + 63 <<< 40 + 255 <<< 32) 39 32 < (groupOf (tG [(255, 7)]) 191 63).regs := by decide
/-- A group of 8 registers. -/
def tSmall : Node := modGroup tN 191 63 fun _ => { tGroup [] with regs := 8 }
theorem wit_register_range_cntset : groupReady tSmall 191 63 ∧ opcodeOf (0xCD <<< 56 + 8 <<< 32) = 0xCD ∧
    cntLegal (0xCD <<< 56 + 8 <<< 32) = true ∧ awaits (groupOf tSmall 191 63) 8 = false ∧
    (groupOf tSmall 191 63).regs ≤ bits (0xCD <<< 56 + 8 <<< 32) 39 32 := by decide
theorem wit_register_range_erkey : opcodeOf (0xC2 <<< 56 + 255 <<< 32) = 0xC2 ∧ bits (0xC2 <<< 56 + 255 <<< 32) 55 40 = 0 ∧
    bits (0xC2 <<< 56 + 255 <<< 32) 31 0 = 0 ∧ (groupOf tSmall 191 63).regs ≤ bits (0xC2 <<< 56 + 255 <<< 32) 39 32 := by decide
theorem wit_register_range_tdarg : opcodeOf (0xC4 <<< 56 + 8 <<< 40) = 0xC4 ∧ bits (0xC4 <<< 56 + 8 <<< 40) 55 48 = 0 ∧
    bits (0xC4 <<< 56 + 8 <<< 40) 35 0 = 0 ∧ (groupOf tSmall 191 63).regs ≤ bits (0xC4 <<< 56 + 8 <<< 40) 47 40 := by decide
/-- A matrix instruction of group 63 in a cell's queue. -/
def tCellInstr (w : Nat) (d : MmaDesc) : CellInstr := ⟨0, false, w, d, 191, 63, 0, 0, ⟨0, 0, 0, 0, 0⟩, 0⟩
/-- A descriptor of two BF16 operands. -/
def tDesc : MmaDesc := ⟨0, 64, 3, 0x8000, 128, 3, 0, 0, 0, 0, 0, 0, 0, 0⟩
theorem wit_mfence_released : (groupOf (tGWait (.fence 0)) 191 63).wait = .fence 0 ∧ isFenced (tGWait (.fence 0)) 11 = false ∧
    readingCount (tGWait (.fence 0)) 191 63 ≤ 0 := by decide
theorem wit_mfence_waits : (groupOf (tGWait (.fence 0)) 191 63).wait = .fence 0 ∧
    0 < readingCount (modCell (tGWait (.fence 0)) 191 1 fun c => { c with queue := [tCellInstr (0xD4 <<< 56) tDesc] }) 191 63 := by
  decide
theorem wit_counter_writes : isFenced tN (191 / 16) = false ∧ (62 : Nat) ≠ 63 ∧ (1022 : Nat) ≠ 1023 := by decide
theorem wit_scratch_window : paKind tN (0xF000000000 + 191 * 0x200000 + 0x1FFFF8) = .scratch 191 0x1FFFF8 ∧
    (8 : Nat) ∈ [1, 2, 4, 8] ∧ (0xF000000000 + 191 * 0x200000 + 0x1FFFF8) % 8 = 0 ∧ isFenced tN 11 = false := by decide
theorem wit_scratch_window_refused : (3 : Nat) ∉ [1, 2, 4, 8] ∧ (0xF000000000 + 0x1FFFFC) % 8 ≠ 0 ∧
    isFenced (tReg tN (bLoc .fence 0) 0xFFFFFF) 11 = true := by decide
theorem wit_sequence_entry_commits : seqRefused 0 (tblGet 0 tN.seqStaged (4 * 4095 + 2)).toNat = false := by decide
theorem wit_sequence_entry_refused : seqRefused (1 <<< 28) 0 = true := by decide

/-! ## Gables: completion -/

/-- A multiply of group 63 of the last Gable, its descriptor at the top of scratch. -/
def tMma : Node := tGS [(255, 0x1FFFC0)] [(0x1FFFC4, 128), (0x1FFFC6, 3), (0x1FFFCC, 128), (0x1FFFCE, 3)]
def tMmaW (op : Nat) : Nat := op <<< 56 + 1 <<< 51 + 255 <<< 32
theorem wit_mma : mayMatrix tMma 191 63 (tMmaW 0xD4) ∧ (readReg (groupOf tMma 191 63) 255 0).toNat = 0x1FFFC0 ∧
    matFault tMma 191 63 (tMmaW 0xD4) (mmaDescOf (scratchBytes tMma 191 0x1FFFC0 64)) (scratchBytes tMma 191 0x1FFFC0 64) = none ∧
    opcodeOf (tMmaW 0xD4) = 0xD4 := by decide
theorem wit_mma_sp : mayMatrix tMma 191 63 (tMmaW 0xD5) ∧
    matFault tMma 191 63 (tMmaW 0xD5) (mmaDescOf (scratchBytes tMma 191 0x1FFFC0 64)) (scratchBytes tMma 191 0x1FFFC0 64) = none ∧
    opcodeOf (tMmaW 0xD5) = 0xD5 := by decide
theorem wit_mrel_free : mayMatrix (tG []) 191 63 (0xD7 <<< 56) ∧
    (mBanks (tG []) 191 (0xD7 <<< 56)).all (fun b => decide (b.st = .free)) = true := by decide
/-- Bank 0 of C0 claimed by group 63. -/
def tClaimed : Node := modCell (tG []) 191 0 fun c => { c with b0 := { Bank.free with st := .accum, claimer := 191, group := 63, isOpen := true } }
theorem wit_mrel_claimed : mayMatrix tClaimed 191 63 (0xD7 <<< 56) ∧
    (mBanks tClaimed 191 (0xD7 <<< 56)).all (fun b => decide (b.st = .free)) = false ∧
    (mBanks tClaimed 191 (0xD7 <<< 56)).any (fun b => !(ownsBank b 191 63) || decide (b.st = .full) || !b.isOpen ||
      b.gang != mGang (0xD7 <<< 56)) = false := by decide
theorem wit_mfence : mayMatrix (tG []) 191 63 (0xD8 <<< 56 + 255 <<< 40) ∧ opcodeOf (0xD8 <<< 56 + 255 <<< 40) = 0xD8 := by decide
theorem wit_mma_queue_enter : (groupOf (tGWait (.matrix (tMmaW 0xD4) tDesc 7)) 191 63).wait = .matrix (tMmaW 0xD4) tDesc 7 ∧
    isFenced (tGWait (.matrix (tMmaW 0xD4) tDesc 7)) 11 = false ∧
    meetsLost (tGWait (.matrix (tMmaW 0xD4) tDesc 7)) 191 (tMmaW 0xD4) tDesc = false ∧
    queuesFree (tGWait (.matrix (tMmaW 0xD4) tDesc 7)) 191 (tMmaW 0xD4) = true ∧
    claimReady (tGWait (.matrix (tMmaW 0xD4) tDesc 7)) 191 63 (tMmaW 0xD4) = true := by decide

/-- A cell with an instruction in its queue. -/
def tQueued : Node := modCell (tG []) 191 1 fun c => { c with queue := [tCellInstr (tMmaW 0xD4) tDesc] }
theorem wit_k_step : (cellOf tQueued 191 1).queue = [tCellInstr (tMmaW 0xD4) tDesc] ∧
    ctrlState tQueued (gLoc .gableCtrl 191) ≠ stFaulted ∧ (mmaShape (tMmaW 0xD4) tDesc).isSome = true := by decide
def tFull : Node := modCell (tG []) 191 1 fun c => { c with b1 := { Bank.free with st := .full, claimer := 191, group := 63 } }
theorem wit_gutter_copy_start : (bankOf (cellOf tFull 191 1) 1).st = .full ∧ entriesOf (gableOf tFull 191) 1 < 4 ∧
    (gableOf tFull 191).gutter.length + (gableOf tFull 191).copying.length < 8 ∧
    (gableOf tFull 191).copying.all (fun e => e.cell != 1) = true := by decide
/-- A Gutter entry of C1's bank 1. -/
def tEntry : GutEntry := ⟨⟨0xE0000000, 5, 0, 0, 0⟩, 63, 0, 1, 1, 0, 0, .fp32, 0, [], none, 7⟩
def tCopying : Node := modGable tFull 191 fun x => { x with copying := [tEntry] }
theorem wit_gutter_copy_done : (gableOf tCopying 191).copying.find? (fun e => e.cell == 1) = some tEntry ∧
    ctrlState tCopying (gLoc .gableCtrl 191) ≠ stFaulted := by decide
theorem wit_alu : groupReady (tG []) 191 63 ∧ aluNames (.int .add 255 254 253) = some [255, 254, 253] ∧
    (aluSrcs (.int .add 255 254 253)).any (awaits (groupOf (tG []) 191 63)) = false ∧ regsOk (groupOf (tG []) 191 63) [255, 254, 253] = true := by decide
theorem wit_branches : mayIssue (tG []) 191 63 0xB0 (0xB0 <<< 56 + 255 <<< 32) (branchLegal (0xB0 <<< 56 + 255 <<< 32)) [255] [255] ∧
    mayIssue (tG []) 191 63 0xB1 (0xB1 <<< 56 + 255 <<< 32) (branchLegal (0xB1 <<< 56 + 255 <<< 32)) [255] [255] ∧
    mayIssue (tG []) 191 63 0xB2 (0xB2 <<< 56) (branchLegal (0xB2 <<< 56)) [0] [] := by decide
theorem wit_yield_exit : mayIssue (tG []) 191 63 0xC0 (0xC0 <<< 56) (bits (0xC0 <<< 56) 55 0 == 0) [] [] ∧
    mayIssue (tG []) 191 63 0xC1 (0xC1 <<< 56) (bits (0xC1 <<< 56) 55 0 == 0) [] [] := by decide
/-- Word of a 4-byte access: data register 255, address register 252. -/
def tMemW (op : Nat) : Nat := op <<< 56 + 2 <<< 53 + 255 <<< 40 + 252 <<< 32
theorem wit_ld_st : mayIssue (tG []) 191 63 0xC8 (tMemW 0xC8) (memLegal (tMemW 0xC8) false) (memRegs (tMemW 0xC8) true)
      (memSrcs (tMemW 0xC8) true false) ∧
    mayIssue (tG []) 191 63 0xC9 (tMemW 0xC9) (memLegal (tMemW 0xC9) true) (memRegs (tMemW 0xC9) true) (memSrcs (tMemW 0xC9) true true) ∧
    accessHeld (loadOp (countBanks (tG []) 191 63 (memSrcs (tMemW 0xC8) true false)) 191 63 (tMemW 0xC8) (groupOf (tG []) 191 63)) = false ∧
    accessHeld (storeOp (countBanks (tG []) 191 63 (memSrcs (tMemW 0xC9) true true)) 191 63 (tMemW 0xC9) (groupOf (tG []) 191 63)) = false := by
  decide +kernel
theorem wit_lds_sts : mayIssue (tG [(252, 0x1FFFFC)]) 191 63 0xCA (tMemW 0xCA) (memLegal (tMemW 0xCA) false) (memRegs (tMemW 0xCA) false)
      (memSrcs (tMemW 0xCA) false false) ∧
    mayIssue (tG [(252, 0x1FFFFC)]) 191 63 0xCB (tMemW 0xCB) (memLegal (tMemW 0xCB) true) (memRegs (tMemW 0xCB) false)
      (memSrcs (tMemW 0xCB) false true) ∧
    scratchFault (tG [(252, 0x1FFFFC)]) 191 ((accessLanes (tGroup [(252, 0x1FFFFC)]) (tMemW 0xCA)).map
      (laneScratch (tGroup [(252, 0x1FFFFC)]) (tMemW 0xCA))) 4 = none := by decide
/-- A load of lane 31 whose line has come. -/
def tLoad : PendLoad := ⟨7, 255, 2, false, [⟨31, 0x1FC⟩], [], [], 0x1000, 0xC8 <<< 56, [0x1FC], [], [], []⟩
def tLoaded : Node := modGroup tN 191 63 fun _ => { tGroup [] with loads := [tLoad] }
theorem wit_ld_data_return : (groupOf tLoaded 191 63).loads.find? (fun l => l.id == 7) = some tLoad ∧
    loadDue tLoaded (groupOf tLoaded 191 63) tLoad = true ∧
    (tLoaded.remotes.filter fun r => tLoad.remote.contains r.id).all (fun r => (r.result.map (·.1)) == some 0) = true ∧
    loadPoison tLoaded 191 tLoad = none := by decide

/-- One element of a byte to copy from address 0 to scratch; descriptor at the top of scratch. -/
def tCopyN : Node := tGS [(255, 0x1FFF80)] [(0x1FFF98, 1)]
def tOneW (op r : Nat) : Nat := op <<< 56 + r <<< 32
theorem wit_copy : mayIssue tCopyN 191 63 0xCC (tOneW 0xCC 255) (bits (tOneW 0xCC 255) 55 40 == 0 && bits (tOneW 0xCC 255) 31 0 == 0) [255] [255] ∧
    (readReg (groupOf tCopyN 191 63) 255 0).toNat = 0x1FFF80 ∧ bits 0x1FFF80 31 21 = 0 ∧ 0x1FFF80 + 128 ≤ 0x200000 ∧
    copyFault (scratchBytes tCopyN 191 0x1FFF80 128) 0x1FFF80 = none ∧ (gableOf tCopyN 191).copies.length < 32 := by decide
/-- A gather of one token of one head; its descriptor at the top of scratch. -/
def tKvg : Node := tGS [(255, 0x1FFFC0)] [(0x1FFFC6, 1), (0x1FFFCC, 1)]
theorem wit_kvg : mayIssue tKvg 191 63 0xC5 (tOneW 0xC5 255)
      (bits (tOneW 0xC5 255) 55 40 == 0 && bits (tOneW 0xC5 255) 31 0 == 0) [255] [255] ∧
    gatherFault (scratchBytes tKvg 191 0x1FFFC0 64) (gatherDescOf tKvg (scratchBytes tKvg 191 0x1FFFC0 64)) 0x1FFFC0 = none := by decide
def tCopyJob : CopyDesc := ⟨0, 0, 0, 0, 1, false, 63, false, 0, 0, 0, [1, 0, 0, 0, 0], [0, 0, 0, 0], [0, 0, 0, 0]⟩
def tJob (j : CopyJob) (started : Bool) (es : List CopyElem) : Copy := ⟨5, j, 63, 0, started, 0, es, [], false⟩
def tCopies (c : Copy) : Node := modGable tN 191 fun x => { x with copies := [c] }
theorem wit_copy_start : nextJob (tCopies (tJob (.copy tCopyJob) false [])) 191 = some (tJob (.copy tCopyJob) false []) ∧
    accessHeld (startCopy (tCopies (tJob (.copy tCopyJob) false [])) 191 (tJob (.copy tCopyJob) false []) tCopyJob) = false := by decide +kernel
def tGather : GatherDesc := ⟨0, 0, 0, 1, 0, 0, 1, 0, 63, 0, 0, 0, none, 16⟩
theorem wit_kvg_start : nextJob (tCopies (tJob (.gather tGather) false [])) 191 = some (tJob (.gather tGather) false []) ∧
    accessHeld (startGather (tCopies (tJob (.gather tGather) false [])) 191 (tJob (.gather tGather) false []) tGather) = false := by decide +kernel
def tStarted : Copy := tJob (.copy tCopyJob) true [⟨some 0, 0x1FFFFF⟩]
theorem wit_copy_bytes_land : (gableOf (tCopies tStarted) 191).copies.find? (fun c => c.id == 5) = some tStarted ∧
    tStarted.started = true ∧ tStarted.fseq = 0 ∧
    (landMany 191 tStarted ((tStarted.elems.drop 0).take 1) (tCopies tStarted) [] 0).2 = ([], 0) ∧
    accessHeld (dropCopy (landMany 191 tStarted ((tStarted.elems.drop 0).take 1) (tCopies tStarted) [] 0).1 191 5) = false := by decide +kernel
def tCntW (op : Nat) : Nat := op <<< 56 + 63 <<< 40 + 255 <<< 32
theorem wit_cntadd : mayIssue (tG [(255, 1)]) 191 63 0xCE (tCntW 0xCE) (cntLegal (tCntW 0xCE)) [255] [255] := by decide
theorem wit_waitcnt_reached : mayIssue (tG []) 191 63 0xCF (tCntW 0xCF) (waitcntLegal (tCntW 0xCF)) [255] [255] ∧
    reached (arrival (tG []) 191 63) 0 = true := by decide
theorem wit_waitcnt_waits : mayIssue (tG [(255, 1)]) 191 63 0xCF (tCntW 0xCF) (waitcntLegal (tCntW 0xCF)) [255] [255] ∧
    reached (arrival (tG [(255, 1)]) 191 63) 1 = false ∧ (groupOf (tG [(255, 1)]) 191 63).turn = false := by decide
theorem wit_waitcnt_satisfied : (groupOf (tGWait (.counter 63 0 false)) 191 63).wait = .counter 63 0 false ∧
    reached (arrival (tGWait (.counter 63 0 false)) 191 63) 0 = true := by decide
theorem wit_erkey_tdarg : mayIssue (tG []) 191 63 0xC2 (tOneW 0xC2 255)
      (bits (tOneW 0xC2 255) 55 40 == 0 && bits (tOneW 0xC2 255) 31 0 == 0) [255] [255] ∧
    mayIssue (tG []) 191 63 0xC4 (0xC4 <<< 56 + 255 <<< 40 + 15 <<< 36)
      (bits (0xC4 <<< 56 + 255 <<< 40 + 15 <<< 36) 55 48 == 0 && bits (0xC4 <<< 56 + 255 <<< 40 + 15 <<< 36) 35 0 == 0) [255] [] := by decide
theorem wit_epld : mayIssue (tG [(255, 0x1FFD80)]) 191 63 0xC3 (tOneW 0xC3 255 + 7 <<< 40)
      (bits (tOneW 0xC3 255 + 7 <<< 40) 55 43 == 0 && bits (tOneW 0xC3 255 + 7 <<< 40) 31 0 == 0) [255] [255] ∧
    (readReg (groupOf (tG [(255, 0x1FFD80)]) 191 63) 255 0).toNat = 0x1FFD80 ∧ 0x1FFD80 % 128 = 0 ∧ bits 0x1FFD80 31 22 = 0 ∧
    bits 0x1FFD80 20 0 + 640 ≤ 0x200000 ∧
    ctrlState (tG [(255, 0x1FFD80)]) (gLoc .gableCtrl (scratchGable 191 0x1FFD80)) ≠ stFaulted := by decide
def tAmoW : Nat := 0xE0 <<< 56 + 2 <<< 53 + 255 <<< 40 + 252 <<< 32 + 251 <<< 16
theorem wit_amo : mayIssue (tG []) 191 63 0xE0 tAmoW (amoLegal tAmoW) (amoRegs tAmoW) (amoSrcs tAmoW) ∧
    accessHeld (amoOp (countBanks (tG []) 191 63 (amoSrcs tAmoW)) 191 63 tAmoW (groupOf (tG []) 191 63)) = false := by decide +kernel
theorem wit_fence : mayIssue (tG []) 191 63 0xE1 (0xE1 <<< 56) (bits (0xE1 <<< 56) 55 54 != 3 && bits (0xE1 <<< 56) 52 0 == 0) [] [] ∧
    (groupOf (tG []) 191 63).badStore = 0 ∧ (groupOf (tG []) 191 63).loads = [] ∧ accessesDone (tG []) 191 63 = true := by decide
def tStalled : Node := fSet (modGroup tN 191 63 fun _ => { tGroup [] with watch := 2 ^ 31, paths := [⟨0, 1⟩, ⟨8, 0xFFFFFFFE⟩] })
  (gLoc .gableCtrl 191) fGableCtrlWdExp 31
def tStalledAtFault : Node := fSet (modGroup tN 191 63 fun _ =>
  { tGroup [] with phase := .translation, watch := 2 ^ 16, paths := [⟨0, 1⟩, ⟨8, 0xFFFFFFFE⟩] }) (gLoc .gableCtrl 191) fGableCtrlWdExp 1
theorem wit_group_stall : (groupOf tStalled 191 63).phase = .running ∧ 2 ≤ (groupOf tStalled 191 63).paths.length ∧
    fGet tStalled (gLoc .gableCtrl 191) fGableCtrlWdExp = 31 ∧ 2 ^ max 16 31 ≤ (groupOf tStalled 191 63).watch ∧
    (groupOf tStalled 191 63).stopNext.contains eStall = false ∧
    isFenced tStalled 11 = false := by decide
theorem wit_group_stall_translation : (groupOf tStalledAtFault 191 63).phase = .translation ∧
    2 ≤ (groupOf tStalledAtFault 191 63).paths.length ∧ fGet tStalledAtFault (gLoc .gableCtrl 191) fGableCtrlWdExp = 1 ∧
    2 ^ max 16 1 ≤ (groupOf tStalledAtFault 191 63).watch ∧
    (groupOf tStalledAtFault 191 63).stopNext.contains eStall = false := by decide
def tStopped : Node := modGroup tN 191 63 fun _ => { tGroup [] with phase := .stopped, fault := 0x0401 }
theorem wit_group_resume_kill : (groupOf tStopped 191 63).phase = .stopped ∧ (groupOf tStopped 191 63).phase ≠ .empty ∧
    (groupOf tStopped 191 63).phase ≠ .ending := by decide
def tCtrl (l : RegLoc) (st : Nat) : Node := setCtrlState tN l st
theorem wit_gable_disable_done : ctrlState (tCtrl (gLoc .gableCtrl 191) stDisabling) (gLoc .gableCtrl 191) = stDisabling ∧
    gableDrained (tCtrl (gLoc .gableCtrl 191) stDisabling) 191 = true := by decide
theorem wit_gable_enable_done : ctrlState (tCtrl (gLoc .gableCtrl 191) stEnabling) (gLoc .gableCtrl 191) = stEnabling ∧
    (tCtrl (gLoc .gableCtrl 191) stEnabling).pendDisable.contains (regKey (gLoc .gableCtrl 191)) = false := by decide
def tLaunch : Node := modGable (tCtrl (gLoc .gableCtrl 191) stOn) 191 fun x => { x with launch := some ⟨64, some [], 0⟩ }
theorem wit_group_launch : (gableOf tLaunch 191).launch = some ⟨64, some [], 0⟩ ∧ canAdmit tLaunch 191 [] = true := by decide

/-! ## Element engines and tiles -/

/-- A run at an instruction of opcode `op` with its X field. -/
def tRunAt (op x : Nat) : Node := modGable tN 191 fun y =>
  { y with elem := { Elem.idle with running := true, image := [op <<< 58 + x], main := [tEntry] } }
theorem wit_elem_arithmetic : ∀ op ∈ [1, 2, 3, 4, 5, 6, 7, 8, 9, 0xA, 0xB, 0xC, 0xD, 0xE, 0xF, 0x10, 0x14, 0x15, 0x16, 0x18],
    elemReady (tRunAt op 0) 191 op := by decide
theorem wit_elem_control : ∀ op ∈ [0, 0x17, 0x19, 0x1C, 0x1D, 0x21, 0x22, 0x24, 0x28], elemReady (tRunAt op 0) 191 op := by decide
theorem wit_elem_loads : elemReady (tRunAt 0x20 0) 191 0x20 ∧ bits 0 14 13 = 0 ∧ bits (1 <<< 13 + 1) 14 13 = 1 ∧
    fmtOfCode (bits (1 <<< 13 + 1) 4 0) = some .fp32 ∧ bits (2 <<< 13 + 12) 14 13 = 2 ∧ fmtOfCode (bits (2 <<< 13 + 12) 4 0) = some .int32 ∧
    bits (3 <<< 13 + 3) 14 13 = 3 ∧ bit (3 <<< 13 + 3) 12 = false ∧ fmtOfCode (bits (3 <<< 13 + 3) 4 0) = some .bf16 ∧
    bit (3 <<< 13 + 1 <<< 12) 12 = true := by decide
/-- The same run, of one row and one column. -/
def tRunOne (op x : Nat) : Node := modElem (tRunAt op x) 191 fun e => { e with vlm := 1, vln := 1 }
theorem wit_elem_loads_ready : ∀ x ∈ [0, 1 <<< 13 + 1, 2 <<< 13 + 12, 3 <<< 13 + 3, 3 <<< 13 + 1 <<< 12],
    elemReady (tRunOne 0x20 x) 191 0x20 ∧ eX (elemWord (elemOf (tRunOne 0x20 x) 191)) = x := by decide
/-- What an element instruction of the run of one element leaves. -/
def tElemDoes (op x : Nat) (f : Node → Elem → Nat → Node) : Node :=
  f (tRunOne op x) (elemOf (tRunOne op x) 191) (elemWord (elemOf (tRunOne op x) 191))
set_option maxRecDepth 100000 in
theorem wit_elem_loads_served : accessHeld (tElemDoes 0x20 0 (loadScalar · 191)) = false ∧
    accessHeld (tElemDoes 0x20 (1 <<< 13 + 1) (loadVector · 191 · · .fp32)) = false ∧
    accessHeld (tElemDoes 0x20 (3 <<< 13 + 3) (loadTile · 191 · · .bf16)) = false ∧
    accessHeld (tElemDoes 0x20 (3 <<< 13 + 1 <<< 12) (loadScales · 191)) = false := by decide +kernel
set_option maxRecDepth 100000 in
theorem wit_elem_stores_served : elemReady (tRunOne 0x21 0) 191 0x21 ∧ accessHeld (tElemDoes 0x21 0 (storeTile · 191)) = false ∧
    elemReady (tRunOne 0x22 0) 191 0x22 ∧ accessHeld (tElemDoes 0x22 0 (storeScales · 191)) = false ∧
    elemReady (tRunOne 0x24 0) 191 0x24 ∧ accessHeld (tElemDoes 0x24 0 (castTile · 191 true)) = false := by decide +kernel

theorem wit_elem_slot_write : (191 : Nat) < 192 ∧ (7 : Nat) < 8 ∧ (79 : Nat) < 80 ∧ isFenced tN 11 = false := by decide
theorem wit_elem_sig : elemReady (tRunAt 0x28 0) 191 0x28 ∧
    storesPending (tRunAt 0x28 0) 11 15 (64 + (elemOf (tRunAt 0x28 0) 191).run) = false ∧
    (tRunAt 0x28 0).remotes.all (fun r => !(decide (r.result = none) && r.who == elemStorer (elemOf (tRunAt 0x28 0) 191) 191)) = true := by
  decide
def tGutter : Node := modGable tN 191 fun x => { x with gutter := [tEntry] }
theorem wit_elem_run_start : (elemOf tGutter 191).running = false ∧ ctrlState tGutter (gLoc .gableCtrl 191) ≠ stFaulted ∧
    (gableOf tGutter 191).gutter.find? (entryReady tGutter 191 (gableOf tGutter 191).gutter) = some tEntry ∧
    programFault (slotWide tGutter 191 (entrySlot tEntry)) (tEntry.gang == 0) tEntry.afmt
      (startElem tGutter 191 (elemOf tGutter 191) (runEntries (slotWide tGutter 191 (entrySlot tEntry)) [tEntry] tEntry)
        (slotWide tGutter 191 (entrySlot tEntry))).image = none := by decide
theorem wit_tile_lists : isFenced tN 11 = false ∧ 1 ≤ wbits (4096 : Word) 12 0 ∧ wbits (4096 : Word) 12 0 ≤ 4096 ∧ 1 ≤ wbits (1 : Word) 12 0 := by
  decide
/-- The scheduler of the last die, on. -/
def tSched (f : Sched → Sched) : Node := modSched (tCtrl (tsCtrl 11) stOn) 11 f
def tList : TileList := ⟨0, 4096, 4095, none, 0, some [(0, true)], []⟩
theorem wit_tile_desc_fetch : isOn (tSched fun c => { c with lists := [tList] }) (tsCtrl 11) = true ∧
    poolFree (tSched fun c => { c with lists := [tList] }) 11 ≠ 0 ∧
    (schedOf (tSched fun c => { c with lists := [tList] }) 11).lists = [tList] ∧ tList.fseq = 0 ∧ tList.pas = some [(0, true)] ∧
    accessHeld (takeDesc (tSched fun c => { c with lists := [tList] }) 11 tList 0 true) = false := by decide +kernel
/-- A pool entry of one-piece tile in the queue of local Gable `g`. -/
def tPool (order g scope : Nat) : PoolEntry := ⟨[0, 0, 0, scope <<< 19], 0, order, g, false, false, none, none⟩
def tTiles (l : List PoolEntry) : Node := modSched (setCtrlState (setCtrlState (tSched id) (gLoc .gableCtrl 191) stOn)
  (gLoc .gableCtrl 190) stOn) 11 fun c => { c with pool := l }
theorem wit_tile_launch : 191 / 16 = 11 ∧ isOn (tTiles [tPool 5 15 0]) (tsCtrl 11) = true ∧ directWaits (tTiles [tPool 5 15 0]) 191 = false ∧
    oldest ((queueOf (tTiles [tPool 5 15 0]) 11 15).filter (tileReady (tTiles [tPool 5 15 0]))) = some (tPool 5 15 0) ∧
    canAdmit (tTiles [tPool 5 15 0]) 191 (tPool 5 15 0).words = true := by decide
theorem wit_tile_steal_die : maySteal (tTiles [tPool 5 14 0]) 191 = true ∧ stealDie (tTiles [tPool 5 14 0]) 191 = some (tPool 5 14 0) := by
  decide
/-- Two tiles of package scope on die 9, none on die 11; the broker of BD3 is on. -/
def tVictim : Node := setCtrlState (setCtrlState (modSched (tTiles []) 9 fun c =>
  { c with pool := [tPool 1 0 1, tPool 2 0 1] }) (tsCtrl 9) stOn) (bLoc .brokerCtrl 3) stOn
theorem wit_tile_steal_base : maySteal tVictim 191 = true ∧ stealDie tVictim 191 = none ∧ stealVictim tVictim 191 = some (9, false) := by
  decide
def tTile : Tile := ⟨4, 1, 0, 0, 0x8000 + 1023, 1, false, none⟩
theorem wit_tile_complete : (schedOf (tSched fun c => { c with tiles := [tTile] }) 11).tiles.find? (fun t => t.id == 4) = some tTile ∧
    tTile.lost = false ∧ tileBusy (tSched fun c => { c with tiles := [tTile] }) ⟨11, 4⟩ = false := by decide
theorem wit_ts_disable_done : ctrlState (tCtrl (tsCtrl 11) stDisabling) (tsCtrl 11) = stDisabling ∧
    (schedOf (tCtrl (tsCtrl 11) stDisabling) 11).tiles.all (fun t => t.lost || t.scope == scopeDirect) = true := by decide
/-- The offset of a register in the CSR window. -/
def tOff (l : RegLoc) : Nat := regKey l
theorem wit_layout_batch : (findReg (tOff (bLoc .batch 0 [1, 255]))).map (·.id) = some .batch ∧
    (findReg (tOff (bLoc .layout 0 [7, 0]))).map (·.id) = some .layout ∧
    (findReg (tOff (bLoc .layoutRow 0 [7]))).map (·.id) = some .layoutRow := by decide

/-! ## Host cores and clusters -/

theorem wit_fetched : ∃ t, fetchedTo tN 95 4 t := ⟨_, by decide, by decide, by decide, 0, _, rfl, rfl⟩

theorem wit_fetched_short : ∃ t, fetchedTo tN 95 2 t := ⟨_, by decide, by decide, by decide, 0, _, rfl, rfl⟩

/-- The last core of the node after reset, with its instruction fetched; no access is held. -/
theorem wit_host_ends : accessHeld (stepEnds (hostEffect tN 95 4 .ecall) 95) = false ∧
    accessHeld (stepEnds (modCore (csrWriteOf tN 95 0x180 0) 95 fun h => hRetire h 4) 95) = false ∧
    accessHeld (stepEnds (modCore tN 95 fun x => hRetire { x with tlb := x.tlb.filter fun e => !fenceHits none none e } 4) 95) = false := by
  decide +kernel

theorem wit_host_load : (8 : Nat) ∈ [1, 2, 4, 8] ∧ (hostLoad tN 95 (hAddr (coreOf tN 95) 31 2040) 8).2 = .ok 0 := by decide
theorem wit_mret : (coreOf tN 95).mode = 3 ∧ csrMay (coreOf tN 95) 0x180 true = true ∧ cboMay (coreOf tN 95) 6 = true ∧
    cboMay (coreOf tN 95) 4 = true ∧ cboMay (coreOf tN 95) 7 = true := by decide
theorem wit_sfence_supervisor : ({ HostCore.reset with mode := 1 }).mode = 1 ∧ msField { HostCore.reset with mode := 1 } 20 20 = 0 := by
  decide
theorem wit_cbo : hostOne tN 95 (hostVa (coreOf tN 95) 0x1F8 accRead) 1 accRead = (tN, .ok 0x1F8 0) ∧ paKind tN 0x1F8 = .hbm ∧
    ∀ k ∈ [ReqKind.cln, .fls], accessHeld (stepEnds (modCore (homeGo (sendHome tN (plainReq k (lineOf 0x1F8) 11)) (lineOf 0x1F8)) 95
      fun h => hRetire h 4) 95) = false := by
  decide +kernel
theorem wit_cbo_zero : hostOne tN 95 (hostVa (coreOf tN 95) 0x1FF accWrite / 64 * 64) 64 accWrite = (tN, .ok 0x1C0 0) ∧
    inHbm tN 0x1C0 64 = true ∧ paKind tN 0x1C0 = .hbm ∧
    accessHeld (stepEnds (modCore (storeLine tN 11 23 0 (lineOf 0x1C0) .host
      ((List.range 64).map fun i => (0x1C0 % lineBytes + i, (0#8 : Byte)))) 95 fun h => hRetire h 4) 95) = false := by decide +kernel
theorem wit_trap : HostCore.reset.pc < 2 ^ 64 ∧ HostCore.reset.mode < 4 ∧ HostCore.reset.mode ≠ 2 ∧ (63 : Nat) < 64 ∧ HostCore.reset.mode = 3 := by
  decide
theorem wit_trap_user : ({ HostCore.reset with mode := 0 }).mode < 4 ∧ bit (hcsr { HostCore.reset with mode := 0 } 0x302) 63 = false := by
  decide
theorem wit_timer : isFenced tN (95 / 8) = false ∧ 1 ≤ wbits (255 : Word) 31 0 ∧ wbits (255 : Word) 31 0 ≤ 255 ∧ 1 ≤ wbits (1 : Word) 31 0 := by decide
theorem wit_aplic : (1 : Nat) ≤ 255 ∧ (255 : Nat) ≠ 52 := by decide
theorem wit_glaunch_write : isFenced tN (191 / 16) = false ∧ (gableOf tN 191).launch = none := by decide
/-- A launch block at address 0, whose page the die's translation cache holds. -/
def tFetch : Node := modDie (modGable tN 191 fun x => { x with launch := some ⟨0, none, 0⟩ }) 11 fun d =>
  { d with tlb := [⟨0, 12, 0, 1, true, true, true, true, true, 0, false⟩] }
theorem wit_glaunch_fetch_done : (gableOf tFetch 191).launch = some ⟨0, none, 0⟩ ∧
    (translateAll tFetch 11 none accRead [0]).2 = .ok [(0, true)] [⟨0, 0, 12, true⟩] ∧
    (let t := (translateAll tFetch 11 none accRead [0]).1
     paKind t 0 = .hbm ∧ readsPoison t 11 (lineOf 0) = false ∧ tFetch.remotes.all (fun r => r.who != .launch 191) = true ∧
     accessHeld (readLaunch t 191 0 0 true [⟨0, 0, 12, true⟩]) = false) := by decide +kernel

theorem wit_dep_watch_write : wbits ((95 : Word) <<< 40) 46 40 ≤ 95 ∧ isFenced tN 11 = false := by decide
theorem wit_dep_watch_fire : watchDue (fSet tN (watchLoc 11 15) fDepWatchEn 1) 11 15 = true := by decide
/-! ## Memory -/

/-- Die 11 holds line 3 in a state. -/
def tHold (st : Moesi) : Node := modCache tN 11 fun c => { c with lines := [(3, ⟨st, 0, .host, 0, false⟩)] }
theorem wit_line_in_memory : inHbm tN (3 * lineBytes) lineBytes = true ∧ isFenced tN 11 = false ∧ holdSt tN 11 3 = .i := by decide
theorem wit_upg : holdSt (tHold .s) 11 3 = .s ∧ holdSt (tHold .o) 11 3 = .o ∧ hasMiss (tHold .s) 11 3 = false := by decide
theorem wit_wbd_evc : hasMiss (tHold .m) 11 3 = false ∧ holdSt (tHold .m) 11 3 = .m ∧ holdSt (tHold .e) 11 3 = .e := by decide
/-- A request of an agent meets an uncorrectable directory entry once and is served after the rebuild. -/
theorem test_rdonce_entry_error : (tRun (.rdonce 5 3 .dirEntry) tN).map (fun n => fGet n (bLoc .dirStatus 3) fDirStatusBusy) = some 0 := by decide
theorem wit_atom : lineOf (3 * 128 + 120) = 3 ∧ (3 * 128 + 120) % 8 = 0 ∧ (12 : Nat) ≤ 12 := by decide
def tSnoop (k : Snoop) : Node := modDir tN 3 fun x => { x with snoops := [⟨3, k, 11, []⟩] }
theorem wit_snoops : homeOf tN 3 = 3 ∧ ∀ k ∈ [Snoop.snpS, .snpX, .snpRd, .snpCln, .snpRcl, .snpInv],
    (dirOf (tSnoop k) (homeOf (tSnoop k) 3)).snoops.find? (fun m => m.line == 3 && m.die == 11 && decide (m.kind = k)) = some ⟨3, k, 11, []⟩ ∧
    snoopHeld (tSnoop k) ⟨3, k, 11, []⟩ = false := by
  decide
def tMiss : Miss := ⟨3, .rds, .host, true, some .e, 2, some 2, false, 0, [], []⟩
theorem wit_coherence_response : missOf (modCache tN 11 fun c => { c with misses := [tMiss] }) 11 3 = some tMiss ∧
    tMiss.grant = some .e ∧ tMiss.need = some 2 ∧ tMiss.gotData = true ∧ 2 ≤ tMiss.acks := by decide
def tTxn : Txn := ⟨⟨.rds, 3, .die 11, [], false, 0, 0, 0, 3, []⟩, [], true, true, false, false, false, 0⟩
def tAnswered : Node := modDir tN 3 fun x => { x with txns := [tTxn] }
theorem wit_cmpack : (dirOf tAnswered (homeOf tAnswered 3)).txns.find? (fun t => t.req.line == 3) = some tTxn ∧
    tTxn.answered = true ∧ tTxn.req.src = .die 11 ∧ missOf tAnswered 11 3 = none ∧
    lineHeld tAnswered 3 (homeOf tAnswered 3) 3 = false := by decide
theorem wit_snoop_timeout : (dirOf (tSnoop .snpX) (homeOf (tSnoop .snpX) 3)).snoops.find? (fun m => m.line == 3 && m.die == 11) =
    some ⟨3, .snpX, 11, []⟩ := by decide
theorem wit_fence_scan_done : (dirOf (modDir tN 3 fun x => { x with scan := [11] }) 3).scan = 11 :: [] := by decide
theorem wit_hbm_read : homeOf tN 3 = 3 ∧ inHbm tN (3 * lineBytes) lineBytes = true ∧ (11 : Nat) < 12 ∧ dictNat tN 0x3000 3 ≠ 0 := by
  decide +kernel
theorem wit_prefetch_return : (nmcOf (modNmc tN 3 fun x => { x with prefetches := [3] }) 3).prefetches.contains 3 = true := by decide
theorem wit_nmc_die_lost : ctrlState tN (bLoc .nmcCtrl 3) ≠ stFaulted ∧ nmcDirty tN 3 = [] := by decide
theorem wit_nmc_writeback_done : ctrlState (tCtrl (bLoc .nmcCtrl 3) stDisabling) (bLoc .nmcCtrl 3) = stDisabling := by decide
theorem wit_nmc_inv_done : fGet (fSet tN (bLoc .nmcStatus 3) fNmcStatusInvBusy 1) (bLoc .nmcStatus 3) fNmcStatusInvBusy = 1 := by decide
/-- The same group, whose die's translation cache holds page 0. -/
def tWalk : Node := modDie (tG []) 11 fun d => { d with tlb := [⟨0, 12, 0, 1, true, true, true, true, true, 0, false⟩] }
theorem wit_stu_walk : walkerLive tWalk (.group 191 63 (tMemW 0xC8)) = true ∧ walkerOf tWalk (.group 191 63 (tMemW 0xC8)) = (11, some 191, .group 191 63, 0, 15, 63) ∧
    (∀ g k, Walker.group 191 63 (tMemW 0xC8) ≠ .fetch g k) ∧ ∃ u m, translatePage tWalk 11 (some 191) 0xFFF accRead = (u, .ok m) ∧ accessHeld u = false :=
  ⟨by decide, by decide, by intro _ _; exact Walker.noConfusion, _, _, rfl, by decide⟩

theorem wit_fq_base : fqBad (storeReg tN (bLoc .fqBase 3) 6) 3 = false ∧ fqBad (storeReg tN (bLoc .fqBase 3) 0) 3 = false := by decide
def tFault : Fseq := ⟨2 ^ 32 - 1, 0, []⟩
theorem wit_fault_ring : accessHeld (writeRecord tN 3) = false ∧ accessHeld (drainHeld 64 (storeReg tN (bLoc .fqBase 3) 6) 3) = false ∧
    (let s1 := fSet tN (bLoc .fqHead 3) fFqHeadIndex 0
     accessHeld (followQueue (drainHeld 64 (followQueue s1 3 (levelInput tN 3 52)) 3) 3 (levelInput s1 3 52)) = false) := by decide +kernel

theorem wit_stu_resolve : bits (2 ^ 32 - 1) 31 30 = 3 ∧
    (stuOf (modStu tN 3 fun u => { u with faults := [tFault] }) 3).faults.find? (fun x => x.num == 2 ^ 32 - 1) = some tFault := by decide
theorem wit_stu_migrate : (stuOf tN 3).migs.length < 64 ∧ accessHeld (startMigs 1 (modStu tN 3 fun u =>
    { u with migs := u.migs ++ [⟨0, none, false, false, false, [], 0, false⟩] }) 3) = false := by decide +kernel

def tMig : Mig := ⟨64, some ⟨1, 0, 0, 0, 0, 0, 0, 0, false⟩, false, true, true, [], 0, false⟩
theorem wit_migration_complete : (stuOf (modStu tN 3 fun u => { u with migs := [tMig] }) 3).migs.filter (fun m => m.desc.isSome) = [tMig] ∧
    tMig.desc = some ⟨1, 0, 0, 0, 0, 0, 0, 0, false⟩ ∧ tMig.busy = false ∧ tMig.closed = true ∧ tMig.copying = true ∧
    (⟨1, 0, 0, 0, 0, 0, 0, 0, false⟩ : MigDesc).bad = false ∧ migFar tN ⟨1, 0, 0, 0, 0, 0, 0, 0, false⟩ = false ∧ inHbm tN 0 (migBytes ⟨1, 0, 0, 0, 0, 0, 0, 0, false⟩) = true := by decide
theorem wit_shootdowns : (stuOf tN 3).shoots.length < 16 ∧ (∀ k ∈ [0, 1, 2], wbits (1 + BitVec.ofNat 64 k <<< 4 : Word) 3 0 = 1 ∧
    wbits (1 + BitVec.ofNat 64 k <<< 4 : Word) 5 4 = k ∧ k ≠ 3) ∧ wbits (2 : Word) 3 0 = 2 := by decide
def tShoot : Shoot := ⟨true, 0, 0, false, 0, none⟩
theorem wit_shootdown_complete : (stuOf (modStu tN 3 fun u => { u with shoots := [tShoot] }) 3).shoots = [tShoot] ∧
    shootHolder tN tShoot = none := by decide
theorem wit_shootdown_stalled : shootHolder (modCache tN 11 fun c =>
    { c with stores := [⟨15, 63, 3, [], none, [⟨0, 0, 12, true⟩]⟩] }) tShoot = some (11, 16) ∧ tShoot.stalled = false ∧
    tShoot.since + 1000 * max 1 (fGet tN (bLoc .stuCtrl 3) fStuCtrlShootTo) ≤ 2 ^ 40 := by decide
/-- Die 11 has counted five accesses to pages of 2 MiB with number 3; the slice of BD3 knows the page. -/
def tCounted : Node := modStu (modDie tN 11 fun d => { d with countBatch := [(3 * 64 + 21, 5)] }) 3 fun u => { u with far := [⟨3, 21, 0, false⟩] }
theorem wit_access_count_batch : 3 % 4 = 3 ∧ tblGet 0 (dieOf tCounted 11).countBatch (3 * 64 + 21) ≠ 0 ∧
    (stuOf tCounted 3).far.find? (fun c => c.page == 3 && c.shift == 21) = some ⟨3, 21, 0, false⟩ := by decide

/-! ## Links -/

/-- The worked example of R287 to R290: bundle 37 of E1 toward BD3 with all spares in use; wire 90 fails. -/
def tBundle37 : Bundle :=
  (testResult { Bundle.reset with
    carried := [(0, some 3), (1, some 17), (2, some 40), (3, some 70), (4, some 88), (5, some 101), (6, some 115), (7, some 120)]
    wireFails := 8 } [(90, 4), (91, 3)]).bundle
def tE1 : Node := modBundle tN 1 0 37 fun _ => tBundle37
theorem test_bundle_half : bundleStatusView tE1 1 0 37 = 0x4000000700090000 ∧ bundleSparesView tE1 1 0 37 = 0x0000000000A89183 := by
  decide +kernel
theorem test_bundle_map : (openList tE1 1 0).length = 127 ∧ mapBundle (openList tE1 1 0) 73 = 36 ∧ mapBundle (openList tE1 1 0) 74 = 37 ∧
    mapBundle (openList tE1 1 0) 75 = 38 ∧ mapBundle (openList tE1 1 0) 126 = 63 ∧ mapBundle (openList tE1 1 0) 127 = 0 := by
  decide +kernel
/-- Diagonal traffic splits by PA[7], and leaves the path of a DEGRADED edge when the other is NORMAL. -/
theorem test_routes : routeDies (fun _ => 0) 1 2 (some 1) = some [1, 3, 2] ∧ routeDies (fun _ => 0) 1 2 (some 2) = some [1, 0, 2] ∧
    routeDies (fun e => if e = 1 then 1 else 0) 1 2 (some 1) = some [1, 0, 2] ∧
    routeDies (fun e => if e = 0 then 2 else 0) 0 1 none = some [0, 2, 3, 1] ∧
    routeDies (fun e => if e = 0 ∨ e = 3 then 2 else 0) 0 3 none = none := by decide
theorem wit_bundle_frame : (bundleOf tN 3 1 63).width ≠ 2 ∧ (bundleOf tN 3 1 63).testing = false ∧ (bundleOf tN 3 1 63).recvSeq = 0 ∧
    (bundleOf tN 3 1 63).nak = none := by decide
theorem wit_bundle_nak : (bundleOf (modBundle tN 3 1 63 fun x => { x with nak := some 0 }) 3 1 63).nak = some 0 ∧
    (bundleOf (modBundle tN 3 1 63 fun x => { x with nak := some 0 }) 3 1 63).width ≠ 2 ∧
    (bundleOf (modBundle tN 3 1 63 fun x => { x with nak := some 0 }) 3 0 63).width ≠ 2 := by decide
theorem wit_route_switch : switching (startSwitch tN) = true ∧ switchWaits (startSwitch tN) = false := by decide

theorem wit_wire_test_start : (bundleOf (modBundle (tCtrl (edgeLoc .edgeCtrl 3) stOn) 3 1 63 fun x => { x with testDue := true }) 3 1 63).testDue = true ∧
    isOn (modBundle (tCtrl (edgeLoc .edgeCtrl 3) stOn) 3 1 63 fun x => { x with testDue := true }) (edgeLoc .edgeCtrl 3) = true ∧
    (bundleOf tN 3 1 63).width ≠ 2 ∧ (bundleOf tN 3 1 63).testing = false := by decide
def tTesting : Node := modBundle tN 3 1 63 fun x => { x with testing := true }
theorem wit_wire_test_end : (bundleOf tTesting 3 1 63).testing = true ∧ (bundleOf tTesting 3 1 63).width = 0 ∧
    (testResult (bundleOf tTesting 3 1 63) []).action = 0 := by decide
theorem wit_edge_step : ctrlState (tCtrl (edgeLoc .edgeCtrl 3) stEnabling) (edgeLoc .edgeCtrl 3) = stEnabling ∧
    closedCount (tCtrl (edgeLoc .edgeCtrl 3) stEnabling) 3 0 ≠ 64 ∧ closedCount (tCtrl (edgeLoc .edgeCtrl 3) stEnabling) 3 1 ≠ 64 ∧ wbit (1 : Word) 0 = true := by decide
theorem wit_common_enable : (csrFind (tOff (gLoc .gableCtrl 191))).map (fun l => hasEnable l.id) = some true ∧
    csrFenced tN (tOff (gLoc .gableCtrl 191)) = false ∧
    (csrFind (tOff (gLoc .gableCtrl 191))).map (fun l => accessHeld (withResp (csrStore tN (.mp 0) l (wput (regGet tN l) 0 0 1)) .done)) =
      some false := by decide +kernel
/-- Port 19 (a front-end port) with its control state and its link. -/
def tPort (p st : Nat) (up : Bool) (f : Port → Port) : Node :=
  modPort (fSet (tCtrl (portCtrlLoc p) st) (portLoc .portStatus p) fPortStatusLink (b2n up)) p f
/-- Port 19 enabling with mode 3. -/
def tEnabling : Node := modPort (tReg tN (portCtrlLoc 19) (stEnabling <<< 5)) 19 fun x => { x with mode := 3 }
theorem wit_port_step : ctrlState tEnabling (portCtrlLoc 19) = stEnabling ∧ (portOf tEnabling 19).mode = 3 ∧ modeListed 19 3 = true ∧
    prbsRuns (modPort (ownStepEnds tEnabling (portCtrlLoc 19)) 19 fun x => { x with
      depth := lbDepth tEnabling 19, lanes := modeLanes 3, training := false, restarted := false }) 19 = false := by decide

theorem wit_port_signal : isOn (tPort 19 stOn false id) (portCtrlLoc 19) = true ∧ portLink (tPort 19 stOn false id) 19 = false := by decide
def tTraining : Node := tPort 18 stOn false fun x => { x with training := true }
theorem wit_port_link_up : (portOf tTraining 18).mode = 0 ∧ trainSet (deadLanes tTraining 18) = some 0xFF ∧ (portOf tTraining 18).training = true ∧
    isOn tTraining (portCtrlLoc 18) = true ∧ portLink tTraining 18 = false ∧ prbsRuns tTraining 18 = false ∧
    (portOf tTraining 18).restarted = false := by decide
def tUp : Node := tPort 19 stOn true id
/-- The same with an IPv4 and an IPv6 address. -/
def tUpIp : Node := fSet (fSet tUp (bLoc .portIpv4 3) fPortIpv4Addr 1) (bLoc .portIpv6Hi 3) fPortIpv6HiAddr 1
theorem wit_port_up : portLink tUpIp 19 = true ∧ (portOf tUpIp 19).depth ≠ 2 ∧
    accepts tUpIp 19 ⟨.roce, 0, 9216, true, 0, some (7 <<< 13), ⟨false, 1, 4791⟩, ⟨0, false, false⟩, false, 0, false⟩ = true ∧ 19 % 5 = 4 ∧
    portAddr tUpIp 19 false = 1 ∧ portAddr tUpIp 19 true = 2 ^ 64 := by decide
/-- An address of 0 answers and takes nothing (R308). -/
theorem test_address_disabled : toPort tUp 19 ⟨false, 0, 4791⟩ = false ∧ toPort tUpIp 19 ⟨true, 2 ^ 64, 4791⟩ = true ∧
    toPort tUpIp 19 ⟨true, 2 ^ 64, 4790⟩ = false := by decide
theorem wit_pfc_threshold : bit (wbits (regGet (tReg tUp (portCtrlLoc 19) (0x80 <<< 16 + 2 <<< 5)) (portCtrlLoc 19)) 23 16) 7 = true ∧
    portLink (tReg tUp (portCtrlLoc 19) (0x80 <<< 16 + 2 <<< 5)) 19 = true := by decide
def tStorm : Node := { fSet (fSet (tPort 19 stOn true fun x => { x with paused := 0x80, pausedTo := [(7, 2 ^ 40)] })
  (portLoc .portPfc 19) fPortPfcWdMs 1) (portLoc .portPfc 19) fPortPfcWdDown 0 with now := 1000000 }
theorem wit_pfc_storm : bit (pausedNow tStorm 19) 7 = true ∧
    tblGet 0 (portOf tStorm 19).pausedAt 7 + fGet tStorm (portLoc .portPfc 19) fPortPfcWdMs * 1000000 ≤ tStorm.now ∧ bit (portOf tStorm 19).stormed 7 = false ∧
    fGet tStorm (portLoc .portPfc 19) fPortPfcWdMs ≠ 0 ∧ fGet tStorm (portLoc .portPfc 19) fPortPfcWdDown = 0 ∧ portLink tStorm 19 = true := by decide
theorem wit_lane_fail : isOn tTraining (portCtrlLoc 18) = true ∧ bit (modeLanes (portOf tTraining 18).mode) 7 = true ∧
    bit (portClosed tTraining 18) 7 = false ∧ bit (portOf tTraining 18).farClosed 7 = false := by decide
/-! ## RoCE and Dziger -/

/-- The last QP in a state. -/
def tQp (st : Nat) (f : Qp → Qp) : Node := modQp tN 4095 fun y => f { y with st := st, port := 3 }
/-- Bytes in memory from an address on. -/
def tMem (s : Node) (a : Nat) (l : List Nat) : Node := { s with mem := l.mapIdx fun i v => (a + i, BitVec.ofNat 8 v) }
theorem wit_cnp : (qpOf (tQp 3 id) 4095).st = 3 ∧ (qpOf (tQp 3 id) 4095).cutAt = none := by decide
theorem wit_rate_increase : (qpOf (tQp 3 fun y => { y with rate := some 100 }) 4095).rate = some 100 ∧
    100 + feRate (tQp 3 fun y => { y with rate := some 100 }) 4095 / 16 < feRate (tQp 3 fun y => { y with rate := some 100 }) 4095 := by decide
def tRocePort : Node := modQp tUpIp 4095 fun y => { y with st := 2, port := 3 }
theorem wit_roce_packet : toPort tRocePort 19 ⟨false, 1, 4791⟩ = true ∧ portLink tRocePort 19 = true ∧ (portOf tRocePort 19).depth ≠ 2 ∧
    qpPort (qpOf tRocePort 4095) = 19 ∧ (qpOf tRocePort 4095).st = 2 ∧ (qpOf tRocePort 4095).rqPsn = 0 ∧ (6 : Nat) ≤ 6 ∧
    accessHeld (performRoce (acceptPacket tRocePort 4095) 4095 ⟨⟨false, 1, 4791⟩, 4095 + 0x100, 0, 6, true, true, 0, 0, 0, 0, [], 0, 0⟩) = false := by
  decide +kernel
def tReq : QpReq := ⟨.entry 0 true, 0, 4, 0, 0, 0, 0, 0, 0, [], 0, 1, 0⟩
theorem wit_roce_ack : (qpOf (tQp 3 fun y => { y with reqs := [tReq] }) 4095).st = 3 ∧
    (let s := tQp 3 fun y => { y with reqs := [tReq] }
     accessHeld (ackUpTo (qpOf s 4095).reqs (acceptPacket s 4095) 4095 0 []) = false) := by decide +kernel

theorem wit_roce_timeout : (qpOf (tQp 3 fun y => { y with timeout := 1, reqs := [tReq] }) 4095).timeout ≠ 0 ∧
    (qpOf (tQp 3 fun y => { y with timeout := 1, reqs := [tReq] }) 4095).reqs ≠ [] := by decide
/-- A QP image of state INIT at address 0. -/
def tImage : Node := tMem tN 0 [1]
theorem wit_qp_load : inHbm tImage (qpImageAddr tImage 3) 64 = true ∧
    (let s1 := agentTouch tImage 3 clsDma 0 64
     let l := readBytes s1 0 64
     qpImageAddr tImage 3 = 0 ∧ firstPoison s1 0 64 = none ∧ imageReserved l = false ∧
     qpLegal (qpOf tImage 4095).st (descField l 0 1) = true ∧ descField l 0 1 ≠ 0 ∧ descField l 0 1 ≠ 4 ∧ accessHeld s1 = false) ∧
    accessHeld (agentWrite tImage 3 0 (qpImage (qpOf tImage 4095)) false) = false := by decide +kernel
theorem wit_sq_doorbell : wbits (4095 : Word) 11 0 = 4095 ∧ (qpOf tN 4095).port = 0 ∧ (wbits (4095 : Word) 47 32 + 65536 - (qpOf tN 4095).sqCi) % 65536 ≤
    2 ^ bits (qpOf tN 4095).sq 4 0 ∧ (qpOf tN 4095).st ≠ 4 := by decide
/-- An atomic add in the send ring at address 0. -/
def tSend : Node := modQp (tMem tN 0 [5]) 4095 fun y => { y with st := 3, sqPi := 1 }
theorem wit_send_entry : (qpOf tSend 4095).st = 3 ∧ (qpOf tSend 4095).sqCi ≠ (qpOf tSend 4095).sqPi ∧ inHbm tSend 0 64 = true ∧
    bits (qpOf tSend 4095).sq 55 12 * 4096 + (qpOf tSend 4095).sqCi % 2 ^ bits (qpOf tSend 4095).sq 4 0 * 64 = 0 ∧
    (let s0 := agentTouch tSend (qpOf tSend 4095).port clsDma 0 64
     firstPoison s0 0 64 = none ∧ sendInvalid s0 (readBytes s0 0 64) = false ∧ descField (readBytes s0 0 64) 0 1 ≥ 4 ∧
     bit (descField (readBytes s0 0 64) 1 1) 1 = false ∧
     accessHeld (qpPost (modQp s0 4095 fun y => { y with sqCi := (y.sqCi + 1) % 65536 }) 4095 (.entry 0 false) 5 8 0 0 0 0 0 0 []) = false) := by
  decide +kernel
def tRoceCq : Node := { fSet tN (bLoc .roceCqBase 3) fRoceCqBaseLog2n 6 with roceCq := [(3, [[]])] }
theorem wit_roce_completion : tblGet [] tRoceCq.roceCq 3 = [] :: [] ∧ 2 ^ fGet tRoceCq (bLoc .roceCqBase 3) fRoceCqBaseLog2n = 64 ∧
    fGet tRoceCq (bLoc .roceCqTail 3) fRoceCqTailIndex = 0 ∧ fGet tRoceCq (bLoc .roceCqHead 3) fRoceCqHeadIndex = 0 ∧
    inHbm tRoceCq (fGet tRoceCq (bLoc .roceCqBase 3) fRoceCqBaseBase * 4096) 32 = true ∧
    accessHeld (fSet (agentWrite { tRoceCq with roceCq := tblSet [] tRoceCq.roceCq 3 [] } 3 0 [] false) (bLoc .roceCqTail 3) fRoceCqTailIndex 1) =
      false := by decide +kernel
theorem wit_mr_entry : bit (mrWord tN 16383 3) 63 = false := by decide
/-- A packet from endpoint 5 that is due in its flow; the window of remote accesses is the first 4 KiB. -/
def tPkt (type info : Nat) (data : List Byte) : DzPkt := ⟨1, type, typeTc type, true, false, 0, 0, 5, 0, 0, 0, 0, 0, info, data⟩
def tDue (k : DzPkt) (tc : Nat) : Node :=
  setRflow (fSet tN (bLoc .dzRwinLimit 0) fDzRwinLimitAddr 1) 5 tc (some ⟨0, [k], 0, false⟩)
theorem wit_dz_due : ∀ t ∈ [1, 2, 3, 4, 5, 6, 9], nextPkt (tDue (tPkt t 0 []) (typeTc t)) 5 (typeTc t) t = some (tPkt t 0 []) := by decide
theorem wit_dz_window : rwinHolds (tDue (tPkt 1 0 []) 0) 0 4096 = true ∧ rwinHolds (tDue (tPkt 2 4096 []) 0) 0 4096 = true ∧
    rwinHolds (tDue (tPkt 3 4095 []) 1) 0 (bits 4095 11 0 + 1) = true ∧ 0 % 4096 + (bits 4095 11 0 + 1) ≤ 4096 ∧
    bit (tPkt 4 0 []).info 1 = false ∧ rwinHolds (tDue (tPkt 4 0 (List.replicate 128 0)) 1) 0 128 = true ∧ 0 % lineBytes + 128 ≤ lineBytes := by
  decide
/-- What a due packet of no bytes leaves. -/
def tDzDoes (t info : Nat) (f : Node → DzPkt → Node) : Node :=
  performed (f (tDue (tPkt t info []) (typeTc t)) (tPkt t info [])) 5 (typeTc t) (tPkt t info [])
theorem wit_dz_served :
    accessHeld (tDzDoes 1 0 fun s k => agentWrite s (flowBase 5 0) k.addr k.data (bit k.info 0)) = false ∧
    accessHeld (tDzDoes 2 16 fun s k => getPieces (agentTouch s (flowBase 5 0) clsDma k.addr k.info) k k.info
      (List.range (max 1 (ceilDiv k.info 8192)))) = false ∧
    accessHeld (tDzDoes 3 15 fun s k => respond (agentTouch s (flowBase 5 1) clsDma k.addr (bits k.info 11 0 + 1)) k 0 0 false
      (List.replicate 16 0)) = false ∧
    accessHeld (tDzDoes 4 0 fun s k => agentWrite s (flowBase 5 1) k.addr k.data (bit k.info 0)) = false ∧
    accessHeld (tDzDoes 5 256 fun s k =>
      let r := homeAtom s (flowBase 5 1) k.addr 8 0 0 0
      respond r.1 k 0 0 false (leBytes 8 r.2)) = false ∧
    accessHeld (tDzDoes 6 0 takeResp) = false ∧ accessHeld (tDzDoes 9 0 ridgeChunk) = false := by decide +kernel

theorem wit_dz_atomic : rwinHolds (tDue (tPkt 5 256 []) 1) 0 8 = true ∧ aligned 8 0 = true ∧ bit 256 8 = true ∧
    readsPoison (tDue (tPkt 5 256 []) 1) 12 (lineOf 0) = false ∧ bits (256 + 9) 4 0 = 9 ∧ bits 256 4 0 ≠ 9 := by decide

def tMsg : Node := fSet (tDue (tPkt 7 0 []) 3) (bLoc .dzMqBase 0 [0]) fDzMqBaseLog2n 1
theorem wit_dz_msg : nextPkt tMsg 5 3 7 = some (tPkt 7 0 []) ∧ ∃ t, msgPut tMsg (tPkt 7 0 []) = .taken t ∧ accessHeld (performed t 5 3 (tPkt 7 0 [])) = false :=
  ⟨by decide, _, rfl, by decide +kernel⟩
/-- A packet that waits in a flow to endpoint 5, whose route and port stand. -/
def tSendDz : Node := modFab (setSflow (fSet (setCtrlState (tPort 5 stOn true id) (bLoc .dzCtrl 1) stOn)
    (bLoc .dzMemberRt 0 [5]) fDzMemberRtMask 16) 5 0 (some ⟨0, true, 1024, none, []⟩)) fun f =>
  { f with waiting := [⟨{ tPkt 1 0 [] with dst := 5, src := 0 }, .resp, 0⟩] }
theorem wit_dz_send : dzOn tSendDz (flowBase 5 0) = true ∧
    nextToSend tSendDz 5 0 = some ⟨{ tPkt 1 0 [] with dst := 5, src := 0 }, .resp, 0⟩ ∧
    sflowOf tSendDz 5 0 = some ⟨0, true, 1024, none, []⟩ ∧
    (spray (dropToSend tSendDz 5 0 ⟨{ tPkt 1 0 [] with dst := 5, src := 0 }, .resp, 0⟩)
      { tPkt 1 0 [] with dst := 5, src := 0, seq := 0, first := false } false).any (fun t =>
        !accessHeld (ridgeNext (setSflow t 5 0 (some ⟨1, true, 1024, none,
          [⟨{ tPkt 1 0 [] with dst := 5, src := 0, seq := 0, first := false }, .resp, 1⟩]⟩)))) = true ∧ (0 : Nat) < 1024 := by decide +kernel
theorem wit_dz_timers : rflowOf (setRflow tN 5 7 (some ⟨1, [tPkt 1 0 []], 1023, false⟩)) 5 7 = some ⟨1, [tPkt 1 0 []], 1023, false⟩ ∧
    (0 : Nat) < 1023 ∧ [tPkt 1 0 []] ≠ [] ∧ [tPkt 1 0 []].all (fun k => k.seq != 1) = true ∧
    rflowOf (setRflow tN 5 7 (some ⟨1, [], 0, false⟩)) 5 7 = some ⟨1, [], 0, false⟩ := by decide
def tRto : Node := setSflow tN 5 0 (some ⟨1, true, 1024, none, [⟨tPkt 1 0 [], .resp, 0⟩]⟩)
theorem wit_dz_sender : sflowOf tRto 5 0 = some ⟨1, true, 1024, none, [⟨tPkt 1 0 [], .resp, 0⟩]⟩ ∧ (0 : Nat) ≠ 5 ∧
    [(⟨tPkt 1 0 [], .resp, 0⟩ : DzOut)].find? (fun o => o.pkt.seq == 0) = some ⟨tPkt 1 0 [], .resp, 0⟩ ∧
    0 < max 1 (fGet tRto (bLoc .dzCtrl (flowBase 5 0)) fDzCtrlRetry) ∧
    badChunk tRto 5 0 0 = false ∧
    accessHeld (ridgeNext (sprayOrDrop (dzCount (setSflow tRto 5 0 (some ⟨1, true, 1024, none, [⟨tPkt 1 0 [], .resp, 1⟩]⟩)) (flowBase 5 0)
      cRetransmits) (flowBase 5 0) (tPkt 1 0 []) false)) = false ∧
    sflowOf (setSflow tN 5 0 (some ⟨1, true, 16, none, []⟩)) 5 0 = some ⟨1, true, 16, none, []⟩ := by decide
/-- Port 18 up, with BD3's engine on; the node is endpoint 0 of job 1. -/
def tDzUp : Node := fSet (setCtrlState (tPort 18 stOn true id) (bLoc .dzCtrl 3) stOn) (bLoc .dzSelf 0) fDzSelfJob 1
theorem wit_dz_frame : isFe 18 = false ∧ portLink tDzUp 18 = true ∧ (portOf tDzUp 18).depth ≠ 2 ∧ dzRuns tDzUp (18 / 5) = true ∧
    selfEp tDzUp = 0 ∧ (∀ t ∈ [0xA, 0xB, 0xC], (tPkt t 0 []).type = t ∧ (tPkt t 0 []).ver = 1 ∧ (tPkt t 0 []).dst = 0) ∧
    jobMatches tDzUp { tPkt 0xA 0 [] with job := 1 } = true ∧
    accessHeld (ridgeNext (frameIn tDzUp 18 { tPkt 1 0 [] with job := 1 } true)) = false ∧
    accessHeld (ridgeNext (takeAck tDzUp { tPkt 0xA 0 [] with job := 1 })) = false ∧
    accessHeld (ridgeNext (takeNak tDzUp { tPkt 0xB 0 [] with job := 1 })) = false := by decide +kernel
theorem wit_keepalive : dzOn tDzUp (18 / 5) = true ∧ tblGet false (modFab tDzUp fun f => { f with heard := [(18, true)] }).fabric.heard 18 = true ∧
    tblGet false tDzUp.fabric.heard 18 = false ∧ fGet tDzUp (dzPort (fpOfPort 18)) fDzPortLost = 0 ∧
    5 ≤ tblGet 0 (modFab tDzUp fun f => { f with missed := [(18, 5)] }).fabric.missed 18 := by decide
theorem wit_dz_doorbell : wbits (15 : Word) 3 0 = 15 ∧ ringStopped tN 3 15 = false ∧
    (wbits (15 : Word) 47 32 + 65536 - ringIndex tN 3 15) % 65536 ≤ ringSize tN 3 15 ∧ ringRuns tN 3 15 = false := by decide
/-- Ring 15 of BD3 at address 0 with one entry of operation `op` to endpoint 5. -/
def tRing (op : Nat) : Node := modRing (fSet (tMem (tCtrl (bLoc .dzCtrl 3) stOn) 0 ([op, 0, 0, 0, 8] ++ List.replicate 19 0 ++ [5]))
  (bLoc .dzCmdBase 3 [15]) fDzCmdBaseLog2n 4) 3 15 fun x => { x with pi := 1 }
theorem wit_dz_entry : ∀ op ∈ [1, 2, 3], dzOn (tRing op) 3 = true ∧ ringStopped (tRing op) 3 15 = false ∧
    ringIndex (tRing op) 3 15 ≠ (ringOf (tRing op) 3 15).pi ∧ (ringOf (tRing op) 3 15).rebase = none ∧ 16 ≤ ringSize (tRing op) 3 15 ∧
    inHbm (tRing op) 0 64 = true ∧ firstPoison (agentTouch (tRing op) 3 clsDma 0 64) 0 64 = none ∧
    ringBase (tRing op) 3 15 + ringIndex (tRing op) 3 15 % ringSize (tRing op) 3 15 * 64 = 0 := by decide
theorem wit_dz_entry_fields : ∀ op ∈ [1, 2, 3],
    (let l := readBytes (agentTouch (tRing op) 3 clsDma 0 64) 0 64
     entryInvalid l = false ∧ descField l 0 1 = op ∧ bit (descField l 1 1) 1 = false ∧ bit (descField l 1 1) 2 = false ∧ (cmdOf (tRing op) 3 15 l).ep ≠ selfEp (tRing op) ∧
     firstPoison (tRing op) (cmdOf (tRing op) 3 15 l).localPa (cmdOf (tRing op) 3 15 l).len = none ∧
     inHbm (tRing op) (cmdOf (tRing op) 3 15 l).localPa (cmdOf (tRing op) 3 15 l).len = true ∧ (cmdOf (tRing op) 3 15 l).len ≠ 0 ∧
     descField l 24 4 ≠ selfEp (tRing op)) := by decide
/-- What the entry of a command starts. -/
def tStarts (op : Nat) (f : Node → Node → DzCmd → Node) : Node :=
  let s0 := agentTouch (tRing op) 3 clsDma 0 64
  let c := cmdOf (tRing op) 3 15 (readBytes s0 0 64)
  f s0 (agentTouch s0 3 clsDma c.localPa c.len) c
theorem wit_dz_entry_served :
    accessHeld (tStarts 1 fun _ s1 c => putPieces (startCmd s1 3 { c with left := ceilDiv c.len 8192 }) c c.ep c.addr) = false ∧
    accessHeld (tStarts 2 fun s0 _ c => originate (startCmd s0 3 { c with left := 1 }) (.op c.id)
      (ownPkt s0 2 c.ep (opTag c.id) c.addr c.len [])) = false ∧
    accessHeld (tStarts 3 fun _ s1 c => originate (startCmd s1 3 { c with left := 1 }) (.op c.id)
      (ownPkt s1 7 c.ep (msgTag c.id c.addr) 0 0 (readBytes s1 c.localPa c.len))) = false := by decide +kernel
/-- A second way to name the remote end: window 15, valid. -/
theorem wit_dz_entry_window : fGet (fSet tN (bLoc .dzWindow 0 [15]) fDzWindowValid 1) (bLoc .dzWindow 0 [15]) fDzWindowValid = 1 := by decide

def tCmd : DzCmd := ⟨15, 0, 1, true, 8, 0, 0, 0, 0, 0, 5, 0, 4, 0, 8, some 0⟩

def tEnded : Node := modDz (fSet tN (bLoc .dzCqBase 3) fDzCqBaseLog2n 6) 3 fun x => { x with cmds := [tCmd] }
theorem wit_dz_complete : (dzOf tEnded 3).cq = [] ∧ (dzOf tEnded 3).cmds.find? (fun c => c.id == 4) = some tCmd ∧ tCmd.status = some 0 ∧
    dzCqSlot tEnded 3 = some 0 ∧ tCmd.signalled = true ∧
    accessHeld (releaseCmd (dzRecord tEnded 3 0 (dzCqe (leBytes 8 0) 15 1 0 8)) 3 tCmd) = false := by decide +kernel
theorem wit_dz_disable : ctrlState (tCtrl (bLoc .dzCtrl 3) stDisabling) (bLoc .dzCtrl 3) = stDisabling ∧
    dzBusy (tCtrl (bLoc .dzCtrl 3) stDisabling) 3 = false := by decide
def tTree : Node := tReg tN (bLoc .ridgeTree 0 [255, 0]) (3 <<< 62)
theorem wit_ridge_go : wbits (255 : Word) 7 0 = 255 ∧ bit (treeWord tTree 255 0) 63 = true ∧ bit (treeWord tTree 255 0) 62 = true ∧
    ridgeBusy tTree 255 = false ∧ accessHeld (ridgeStart tTree 255) = false := by decide +kernel
/-! ## Shingle, work queues and the Ledger -/

theorem wit_shg_group : (List.range 4).all (fun c => (shgOf tN c).buckets.all fun p => !(p.2.group == 63 && p.2.st != bFree)) = true := by
  decide
/-- Slice 3 on, with the last tag's bucket. -/
def tShg (f : Bucket → Bucket) : Node := modBucket (tCtrl (bLoc .shgCtrl 3) stOn) 4095 f
theorem wit_shg_arm : wbits (64 : Word) 55 6 * 64 = 64 ∧ sliceOf (readLE (tMem (tShg id) 64 [0xFF, 0x0F]) 64 2) = 3 ∧
    shgOn (tMem (tShg id) 64 [0xFF, 0x0F]) 3 = true ∧ (shgOf (tMem (tShg id) 64 [0xFF, 0x0F]) 3).arms.length < 64 := by decide
/-- A descriptor at address 0 that arms tag 4095 for one FP32 element of group 0, whose rank table is at 4096. -/
def tArm : Node :=
  let s := tMem (tCtrl (bLoc .shgCtrl 3) stOn) 0 [0xFF, 0x0F, 0, 0, 0, 1, 1, 0, 1]
  modShg (fSet (fSet (fSet s (bLoc .shgGroupW0 0 [0]) fShgGroupW0Valid 1) (bLoc .shgGroupW0 0 [0]) fShgGroupW0N 1)
    (bLoc .shgGroupW1 0 [0]) fShgGroupW1Ranktab 512) 3 fun x => { x with arms := [0] }
theorem wit_shg_arm_process : (shgOf tArm 3).arms = 0 :: [] ∧ ctrlState tArm (bLoc .shgCtrl 3) = stOn ∧ inHbm tArm 0 64 = true ∧
    (let t := agentTouch (modShg tArm 3 fun x => { x with arms := [] }) 3 clsDma 0 64
     let l := readBytes t 0 64
     let k := armBucket t l
     let t1 := agentTouch t 3 clsDma (groupTable t k.group) (8 * k.n)
     firstPoison t 0 64 = none ∧ armFault t l k (descField l 0 2 % 4096) = none ∧
     firstPoison t1 (groupTable t k.group) (8 * k.n) = none ∧ bucketPages k ≤ pagesFree tArm 3 ∧
     accessHeld (takeEarly (shgCount (modBucket t1 (descField l 0 2 % 4096) fun _ =>
       { k with pages := bucketPages k }) 3 0) (descField l 0 2 % 4096)) = false) := by decide +kernel

def tFilling : Node := tShg fun b => { b with st := bFilling, kind := 1, fmt := 1, len := 8, expect := 8 }
theorem wit_shg_delivery : deliveryFault tFilling 4095 1 7 = none ∧ (bucketOf tFilling 4095).st = bFilling ∧
    shgOn tFilling (sliceOf 4095) = true ∧ (bucketOf tFilling 4095).kind = 1 ∧ bit (bucketOf tFilling 4095).wait 15 = false ∧
    accessHeld (deliverElem tFilling 4095 7 0) = false ∧ accessHeld (launchOrHold tFilling 4095) = false ∧
    accessHeld (shgCtrlWrite tFilling 3 3) = false := by decide +kernel
def tShgPkt : DzPkt := { tPkt 8 0 [] with tag := 4095 }
def tShgDue : Node := setRflow tFilling 5 4 (some ⟨0, [tShgPkt], 0, false⟩)
theorem wit_shg_packet : nextPkt tShgDue 5 4 8 = some tShgPkt ∧ (bucketOf tShgDue (tShgPkt.tag % 4096)).st ≠ bFree ∧
    shgRuns tShgDue (sliceOf (tShgPkt.tag % 4096)) = true ∧
    (bits tShgPkt.info 31 24 + 256 - (bucketOf tShgDue (tShgPkt.tag % 4096)).gen) % 256 = 0 ∧
    accessHeld (performed (contribute tShgDue (tShgPkt.tag % 4096) tShgPkt) 5 4 tShgPkt) = false := by decide +kernel
/-- One rank reduces its own shard of one element. -/
def tReduce (l : List Nat) : Node := tShg fun b =>
  { b with st := bReducing, fmt := 1, ofmt := 1, len := 1, n := 1, ranks := [(0, 0)], reduced := l }
theorem wit_shg_shard : (bucketOf (tReduce []) 4095).st = bReducing ∧ (ownShards (bucketOf (tReduce []) 4095)).contains 0 = true ∧
    (bucketOf (tReduce []) 4095).reduced.contains 0 = false ∧ treeComplete (bucketOf (tReduce []) 4095) 0 = true ∧
    bucketDone (tReduce [0]) 4095 (bucketOf (tReduce [0]) 4095) = true ∧
    accessHeld (shardReduced (tReduce []) 4095 0) = false := by decide +kernel
theorem wit_shg_disable : ctrlState (tCtrl (bLoc .shgCtrl 3) stDisabling) (bLoc .shgCtrl 3) = stDisabling ∧
    inflight (tCtrl (bLoc .shgCtrl 3) stDisabling) 3 = 0 ∧ accessHeld (tCtrl (bLoc .shgCtrl 3) stDisabling) = false := by decide
/-- The last work queue in a control state, the Ledger out of recovery. -/
def tWq (st : Nat) (f : Wq → Wq) : Node := modWq (setCtrlState (fSet tN (bLoc .ledgerStatus 3) fLedgerStatusRecovering 0) (wqLoc .wqCfg 255) st) 255 f
theorem wit_wq_disable : wqState (tWq stDisabling id) 255 = stDisabling ∧ queueLive (tWq stDisabling id) 255 = false ∧
    (wqOf (tWq stDisabling id) 255).entry = none ∧ (BitVec.ofNat 64 (2 ^ 48 - 1)).toNat < 2 ^ 48 := by decide
def tReader : Node := ringDoorbell (tWq stOn fun w => { w with waitFrom := some 0 }) 255 1
/-- The same as its period ends. -/
def tReaderLate : Node := { tReader with now := aheadNs tReader 255 }
theorem wit_wq_reader : readerRuns tReaderLate 255 = true ∧ accessHeld (readSlot tReaderLate 255) = false ∧
    (wqOf tReaderLate 255).waitFrom.any (fun t => decide (tReaderLate.now ≤ t + aheadNs tReaderLate 255)) = true ∧
    accessHeld (wqCount (readSlot tReaderLate 255) 3 .aheadRetries) = false ∧ aheadOver tReaderLate 255 = true := by decide +kernel

def tAcc : Node := fSet (tWq stOn fun w => { w with accDue := true }) (wqLoc .wqCfg 255) fWqCfgLocal 1
theorem wit_wq_acceptance : (wqOf tAcc 255).accDue = true ∧ wqState tAcc 255 ≠ stOff ∧ fGet tAcc (wqLoc .wqCfg 255) fWqCfgLocal = 1 ∧
    inHbm tAcc (fGet tAcc (wqLoc .wqAcc 255) fWqAccAddr * 8) 8 = true ∧
    accessHeld (agentWriteLE (modWq tAcc 255 fun w => { w with accDue := false }) 3 (fGet tAcc (wqLoc .wqAcc 255) fWqAccAddr * 8) 8
      (accWord tAcc 255)) = false := by decide +kernel
/-- An entry of the last queue with a descriptor of operation `op`. -/
def tEnt (op a1 st acked : Nat) (done : Option (Nat × Nat × Nat)) : LedEntry :=
  ⟨255, ([1, 0, 0, 0, 0, 0, 0, 0, op] ++ List.replicate 15 0 ++ [a1 % 256, 0, a1 / 65536] ++ List.replicate 37 0).map (BitVec.ofNat 8 ·),
    st, acked, 0, 0, false, none, false, done, [], false, false, none, none, false, 0, []⟩
def tLed (e : LedEntry) : Node := modLed (setCtrlState (tWq stOn id) (tsCtrl 11) stOn) 3 fun x => { x with entries := [(16383, some e)] }
theorem wit_wq_tiles : ledEntry (tLed (tEnt 1 0xB0001 1 1 none)) 3 16383 = some (tEnt 1 0xB0001 1 1 none) ∧
    tilesDie (tLed (tEnt 1 0xB0001 1 1 none)) 3 (tEnt 1 0xB0001 1 1 none).desc = some 11 ∧
    startable (tLed (tEnt 1 0xB0001 1 1 none)) 3 16383 1 = true ∧ (schedOf (tLed (tEnt 1 0xB0001 1 1 none)) 11).lists.length < 16 := by decide
theorem wit_wq_start : ∀ op ∈ [2, 3, 4, 5], startable (tLed (tEnt op 0 1 1 none)) 3 16383 op = true ∧
    (ledOf (tLed (tEnt op 0 1 1 none)) 3).notify.length < 1024 := by decide
theorem wit_wq_complete : (tEnt 5 0 1 1 (some (0, 0, 0))).acked ≠ 0 ∧ (tEnt 5 0 1 1 (some (0, 0, 0))).st = 1 ∧
    (tEnt 5 0 1 1 (some (0, 0, 0))).flight = false ∧ recovering (tLed (tEnt 5 0 1 1 (some (0, 0, 0)))) 3 = false ∧
    cmdEnd (tLed (tEnt 5 0 1 1 (some (0, 0, 0)))) 3 16383 (tEnt 5 0 1 1 (some (0, 0, 0))) = some (0, 0, 0) := by decide
def tDone : Node := fSet (tLed (tEnt 5 0 2 2 none)) (wqLoc .wqCfg 255) fWqCfgLocal 1
theorem wit_wq_record : (tEnt 5 0 2 2 none).st = 2 ∧ (tEnt 5 0 2 2 none).acked = 2 ∧ (tEnt 5 0 2 2 none).flight = false ∧
    recovering tDone 3 = false ∧ fGet tDone (wqLoc .wqCfg (tEnt 5 0 2 2 none).queue) fWqCfgLocal = 1 ∧ inHbm tDone (cqSlot tDone (tEnt 5 0 2 2 none)) 32 = true ∧
    accessHeld (entryMoves (agentWrite tDone 3 (cqSlot tDone (tEnt 5 0 2 2 none)) [] false) 3 16383 3 []) = false := by
  decide +kernel
def tBroken : Node := modQp (tLed (tEnt 5 0 2 2 none)) 0 fun y => { y with st := 4 }
theorem wit_wq_record_failed : (qpOf tBroken (fGet tBroken (wqLoc .wqCfg 255) fWqCfgQp)).st = 4 ∧
    fGet tBroken (wqLoc .wqCfg 255) fWqCfgLocal = 0 ∧
    (ledEntries tBroken (255 / 64)).any (fun p => p.2.queue == 255 && decide (p.2.st = 2) && decide (p.2.acked = 2)) = true ∧
    (wqOf tBroken 255).cqFailed = false ∧ wqState tBroken 255 ≠ stOff := by decide
theorem wit_wq_notify_read : (ledOf (modLed tN 3 fun x => { x with notify := [(255, 7)] }) 3).notify = (255, 7) :: [] := by decide
theorem wit_wq_complete_write : (ledEntries (tLed (tEnt 2 0 1 1 none)) (wbits (BitVec.ofNat 64 (255 * 2 ^ 56 + 1)) 63 56 / 64)).find? (fun p =>
      p.2.queue == wbits (BitVec.ofNat 64 (255 * 2 ^ 56 + 1)) 63 56 && descSeq p.2 == wbits (BitVec.ofNat 64 (255 * 2 ^ 56 + 1)) 47 0 &&
      decide (p.2.acked ≥ 1) && decide (p.2.st = 1) && p.2.doneBy.isNone) = some (16383, tEnt 2 0 1 1 none) ∧
    wbits (BitVec.ofNat 64 (255 * 2 ^ 56 + 1)) 55 48 = 0 := by decide
def tMirrored : Node := tLed { tEnt 5 0 2 1 none with flight := true, heard := some true }
theorem wit_mirror_ack : ledEntry tMirrored 3 16383 = some { tEnt 5 0 2 1 none with flight := true, heard := some true } ∧
    mirrorEnd tMirrored 3 16383 = some none := by decide
def tMirrorFail : Node := { tLed { tEnt 5 0 2 1 none with flight := true } with
  remotes := [⟨0, .mirror 3 16383, 3, 0, 0, 0, 0, [], 0, 0, 0, false, true, [], some (0x0603, []), []⟩] }
/-- A mirror write that a NAK ended. -/
def tMirrorNak : Node := tLed { tEnt 5 0 2 1 none with flight := true, heard := some false }
theorem wit_mirror_lost : mirrorEnd tMirrorFail 3 16383 = some (some 0x0603) ∧ mirrorEnd tMirrorNak 3 16383 = some (some 2) ∧
    2 ≠ 0x0603 ∧ tMirrorNak.mirror.reported = false := by decide
/-- The mirror lies at the buddy. -/
def tBuddyMirror : Node := dictSetNat tN 0x4100 1 1
theorem wit_ledger_recovery : (List.range 4).any (recovering tBuddyMirror) = true ∧ tBuddyMirror.mirror.reading = false ∧
    mirrorMode tBuddyMirror = 1 ∧ (List.range 4).all (fun c => (ledEntries tBuddyMirror c).isEmpty) = true := by decide

def tReconcile : Node := { tBuddyMirror with mirror := { tN.mirror with reading := true, readDone := true } }

theorem wit_reconciliation : (replayRead tReconcile).mirror.reading = true ∧ (replayRead tReconcile).mirror.readDone = true ∧
    mirrorMode (replayRead tReconcile) ≠ 0 := by decide

/-! ## Recovery, checkpoints and time -/

/-- A node that runs. -/
def tUpNode (at_ : BootAt) : Node := modLife tN fun l => { l with pwrok := true, boot := at_ }
/-- A fence of the last die is asked for. -/
def tAsked : Node := { tN with fenceReqs := [(11, 5)] }
theorem wit_die_fence : isFenced tN 11 = false ∧ (tAsked.fenceReqs.filter fun p => p.1 == 11).map (·.2) = 5 :: [] ∧
    (dieOf tN 11).aborting = false := by decide
def tAborting : Node := modDie tN 11 fun x => { x with aborting := true }
theorem wit_die_abort_done : (dieOf tAborting 11).aborting = true ∧ (List.range 16).all (fun i => !gutterFills tAborting (16 * 11 + i)) = true := by decide
theorem wit_node_leaving : nodeRuns { tUpNode .up with leaveDue := [.nmc 3] } = true ∧ { tUpNode .up with leaveDue := [.nmc 3] }.leaveDue ≠ [] ∧
    nodeRuns (tUpNode .up) = true ∧ followerAlive (tUpNode .up) = false := by decide +kernel

/-- No session has been alive since reset, at the end of the wait. -/
def tOrphan : Node := { modCkpt (tUpNode .up) fun c => { c with sessioned := true } with now := dictNat tN 0x4102 1 * 1000000000 }
theorem wit_orphan : tOrphan.ctl.ckpt.sessioned = true ∧ [2, 3, 4, 5].all (fun k => !sessionAlive tOrphan k) = true ∧
    timeBack tOrphan.now tOrphan.ctl.ckpt.aliveAt ≥ dictNat tOrphan 0x4102 1 * 1000000000 := by decide +kernel

def tPhase (p : Nat) : Node := fSet tN (bLoc .ckptStatus 0) fCkptStatusPhase p
theorem wit_cut_drained : ckptPhase (tPhase 1) = 1 ∧ (List.range 4).all (fun b => inflight (tPhase 1) b == 0) = true ∧
    accessHeld (setPhase (putSlot (agentWrite (tPhase 1) (leadDie (tPhase 1)) (localSlot (tPhase 1) + 4) (leBytes 1 0) false) 4 (leBytes 1 0)) 2) =
      false ∧ accessHeld (startCut tN (2 ^ 32 - 1)) = false := by decide +kernel
def tOverdue : Node := { tPhase 1 with now := dictNat tN 0x4101 5 * 1000000 + 1 }
theorem wit_cut_timeout : ckptPhase tOverdue = 1 ∧ tOverdue.ctl.ckpt.since + dictNat tOverdue 0x4101 5 * 1000000 < tOverdue.now ∧
    accessHeld (ckptFail (setPhase (restoreHold tOverdue) 0) 0x0A04 2) = false := by decide +kernel

/-- A cut of one extent of 64 KiB at address 0. -/
def tCut (p : Nat) : Node := modCkpt (tPhase p) fun c => { c with head := List.replicate 64 0 ++ List.replicate 8 0 ++ [0, 0, 1, 0, 0, 0, 0, 0] }
theorem wit_cut_scan_done : ckptPhase (tCut 2) = 2 ∧ chunksOf (tCut 2).ctl.ckpt.head = [0] ∧
    (List.range 4).all (fun b => (dirOf (tCut 2) b).txns.all fun t => !([0].contains (t.req.line / 512) || (t.evicts && [0].contains (t.victim / 512)))) = true ∧
    accessHeld (setPhase (restoreHold { tCut 2 with cutChunks := [0] }) 3) = false := by
  decide +kernel
/-- A write of line 0 waits for the chunk. -/
def tAwaited : Node := modDir { tCut 3 with cutChunks := [0] } 0 fun x => { x with queue := [⟨.wrline, 0, .other 0, [], false, 0, 0, 0, 0, []⟩] }
theorem wit_cut_chunk : tAwaited.cutChunks.contains 0 = true ∧ chunkAwaited tAwaited 0 = true := by decide
theorem wit_cut_remote :
    let s := modCkpt tN fun c => { c with sending := true }
    s.ctl.ckpt.sending = true ∧ s.ctl.ckpt.failed = false ∧ slotSending s = false ∧
    accessHeld (fSet (setPhase (modCkpt (agentWrite s (leadDie s) (localSlot s) (sealHeader s.ctl.ckpt.head 1) false)
      fun c => { c with sending := false }) 0) (bLoc .ckptStatus 0) fCkptStatusLastCut (descField s.ctl.ckpt.head 0 4)) = false := by
  decide +kernel

/-- A slot header that is complete, without extents, whose check passes. -/
def tHeader : List Byte := [0, 0, 0, 0, 1, 0, 0xFE, 0xFF] ++ List.replicate 4088 0
/-- The reads of the buddy's slot have ended. -/
def tBuddyRead : Node := { tN with remotes := [⟨0, .restore, 4, 0, 0, 0, 4096, [], 0, 0, 0, false, true, [], some (0, []), []⟩] }
set_option maxRecDepth 20000 in
theorem wit_restore_buddy : ckptPhase tBuddyRead = 0 ∧ restoreFault tBuddyRead tHeader false = none ∧
    tBuddyRead.remotes.filter (fun r => r.who == .restore) ≠ [] ∧ tBuddyRead.remotes.all (fun r => r.result.isSome) = true ∧
    tBuddyRead.remotes.all (fun r => r.result.any fun x => x.1 == 0 || x.1 == 0x0105) = true ∧
    accessHeld (setPhase (modCkpt (restoreLines tN tHeader (fun _ => 0) (fun _ => false)) fun k =>
      { k with restore := (List.range 256).map fun q => descField tHeader (1088 + 8 * q) 6 }) 4) = false ∧
    accessHeld (restoreLocal tN) = false := by decide +kernel

theorem wit_restore_done : ckptPhase (tPhase 4) = 4 := by decide
/-- Port 18's link is up. -/
def tPtp (st : Nat) : Node := modTime (tPort 18 stOn true id) fun t => { t with ptp := [(18, st)] }
/-- A two-step Sync with number 65535 awaits its Follow_Up. -/
def tTwoStep : Node := modTime (tPtp ptpSlave) fun t => { t with twoStep := [(18, some 65535)] }
theorem wit_ptp : portLink (tPtp ptpSlave) 18 = true ∧ ptpState (tPtp ptpSlave) 18 = ptpSlave ∧ ppsEn (tPtp ptpSlave) = false ∧
    tblGet none tTwoStep.ctl.time.twoStep 18 = some 65535 ∧ ptpState tTwoStep 18 = ptpSlave ∧ portLink tTwoStep 18 = true ∧
    ppsEn tTwoStep = false ∧ ptpState (tPtp ptpMaster) 18 = ptpMaster ∧ portLink (tPtp ptpMaster) 18 = true := by decide

/-- PPS input and output enabled, at a whole second of fabric time, in LOCKED. -/
def tPps : Node := { fSet (dictSetNat tN 0x5000 5 3) (bLoc .ftStatus 0) fFtStatusQuality 1 with now := 2000000000 }
theorem wit_pps : ppsEn tPps = true ∧ tPps.ctl.time.ppsAt.all (fun t => decide (500000000 ≤ timeBack tPps.now t)) = true ∧
    ppsState tPps ≠ 2 ∧ ppsOutEn tPps = true ∧ quality tPps ≠ 0 ∧ tPps.now % 1000000000 = 0 ∧ hasPulsed tPps (tPps.now / 1000000000) = false ∧
    tPps.ctl.time.pulseAt.all (fun a => decide (500000000 ≤ timeBack tPps.now a)) = true ∧
    timeBack tPps.now (tPps.ctl.time.ppsFrom.getD 0) ≥ 1500000000 ∧ quality tPps = 1 := by decide
/-- Sync lost in LOCKED after eight intervals; PPS missing in LOCKED. -/
def tLost : Node := modTime { tPps with now := 8 * syncInterval tPps } fun t => { t with syncAt := some 0 }
theorem wit_holdover : quality tLost = 1 ∧ syncLost tLost = true ∧ otherRef tLost = false ∧ ppsEn tLost = true ∧
    ppsState (setPps tLost 2) = 2 ∧ quality (setPps tLost 2) = 1 ∧ tLost.ctl.time.ppsAlone = false := by decide +kernel
def tHeld : Node := { fSet (modTime (tPtp ptpSlave) fun t => { t with ppsHold := true }) (bLoc .ftStatus 0) fFtStatusQuality 2 with
  now := dictNat tN 0x5000 6 * 1000000000 }

theorem wit_pps_hold : tHeld.ctl.time.ppsHold = true ∧ tHeld.ctl.time.ptpHold = false ∧ quality tHeld = 2 ∧ ptpState tHeld 18 = ptpSlave ∧ syncLost tHeld = false ∧
    timeBack tHeld.now tHeld.ctl.time.holdAt ≥ dictNat tHeld 0x5000 6 * 1000000000 := by decide +kernel
/-- The last entry armed for action `kind` at time 0, once. -/
def tEvent (kind : Nat) : Node := tReg tN (teLoc 63 1) (2 ^ 63 + kind <<< 56)
theorem wit_timed_events : ∀ k ∈ [1, 2, 3, 4, 5, 6], teFires (tEvent k) 63 k = true := by decide
theorem wit_timed_stores : teDue tN 63 = false ∧ teDue (tEvent 2) 63 = true ∧ wbit (teWord1 0) 63 = false ∧ (2 : Nat) < 3 ∧
    accessHeld (teWrite tN 63 3 0) = false ∧ accessHeld (teWrite (tEvent 4) 63 2 0) = false := by decide +kernel
theorem wit_timed_once : tePeriod (tEvent 2) 63 = 0 ∧ (3 : Nat) < 4 ∧ accessHeld (startCut (teFire (tEvent 2) 63) 0) = false ∧
    accessHeld ((List.range 4).foldl (fun t b => setShgHold t b false) (teFire (tEvent 3) 63)) = false := by decide +kernel

/-! ## Power -/

def tLv (f : Louvre → Louvre) : Node := modLv tN f
theorem wit_estimator : (18 : Nat) < 19 ∧ bit (lvOf (tLv fun l => { l with est := [(18, 116)], meas := [(18, 100)] })).guard 18 = false ∧
    bit (lvOf (tLv fun l => { l with est := [(18, 116)], meas := [(18, 100)] })).suspect 18 = false ∧
    100 * 15 < (((116 : Nat) : Int) - ((100 : Nat) : Int)).natAbs * 100 := by decide
def tSig : Node := fSet tN (bLoc .lvSigW0 0 [31]) fLvSigW0Valid 1
theorem wit_phase : (lvOf tSig).force = 0 ∧ nearestSig tSig 0 = some 31 ∧ keyDistance 0 (sigKey tSig 31) ≤ fGet tSig (bLoc .lvCtrl 0) fLvCtrlMatch ∧
    (0 : Nat) < 2 ^ 32 := by decide
def tLearn : Node := fSet (fSet tN (bLoc .lvCtrl 0) fLvCtrlLearn 1) (bLoc .lvReason 0) fLvReasonActive 1
theorem wit_learn : fGet tLearn (bLoc .lvCtrl 0) fLvCtrlLearn ≠ 0 ∧ fGet tLearn (bLoc .lvReason 0) fLvReasonActive % 4 ≠ 0 := by decide
theorem wit_budget : budgetOk tN (BitVec.ofNat 64 (2400 + 600000 <<< 16)) = true ∧ budgetOk tN (BitVec.ofNat 64 (800 + 1000 <<< 16)) = true ∧
    (lvOf (tLv fun l => { l with lease := some 5 })).lease.isSome = true := by decide
/-- Every die at the floor, over a cap of 800 W. -/
def tFloor : Node := (List.range 12).foldl (fun s d => fSet (fSet (fSet s (dLoc .lpStatus d) fLpStatusOp (pointOp floorPoint))
    (dLoc .lpStatus d) fLpStatusHp (pointHp floorPoint)) (dLoc .lpStatus d) fLpStatusDuty (pointDuty floorPoint))
  (modLv (dictSetNat tN 0x2000 1 800) fun l => { l with hist := [([800001], [])] })
theorem wit_cap_below_floor : (lvOf tFloor).floorRec = false ∧ (liveDies tFloor).all (fun d => diePoint tFloor d == floorPoint) = true := by decide +kernel
theorem wit_cap_exceeded : capW tFloor * 1000 < averagePower tFloor := by decide +kernel
theorem wit_droop : isFenced tN 11 = false ∧ bit (lvOf tN).droop 11 = false ∧ (16 : Nat) ≤ 31 ∧
    bit (lvOf (tLv fun l => { l with failed := 1 <<< 11 })).failed 11 = true ∧ 2 ≤ tblGet 0 (lvOf (tLv fun l => { l with hot := [(31, 2)] })).hot 31 := by decide
/-- A limiter of the last base die that has acted, 100 µs after its last near value. -/
def tPeak : Node := { tLv (fun l => { l with peak := 8 }) with now := 100000 }
theorem wit_current_peak : iccLimit tN < iccLimit tN + 1 ∧ 0 * 100 < iccLimit tPeak * 95 ∧ bit (lvOf tPeak).peak 3 = true ∧
    timeBack tPeak.now (tblGet 0 (lvOf tPeak).peakAt 3 : Nat) ≥ 100000 := by decide +kernel

theorem wit_brake : (lvOf (tLv fun l => { l with brake := true })).brake = true ∧ (lvOf (tLv fun l => { l with brake := true })).brakeRec = false := by decide

/-! ## Management, life, security, test -/

/-- A Corud unit of operation `op` for object 0x1000. -/
def tUnit (op : Nat) : List Byte := ([1, op, 0, 0, 0, 0x10] ++ List.replicate 10 0).map (BitVec.ofNat 8 ·)
theorem wit_corud : srcExists (.mailbox 3) = true ∧ srcUp (tUpNode .up) (.mailbox 3) = true ∧ (∀ op ∈ [1, 2], dropped (tUnit op) = false ∧
    unitOp (tUnit op) = op ∧ (answersFor (tUpNode .up) (some (.mailbox 3)) (unitIdx (tUnit op))).isSome = true) := by decide
theorem wit_corud_inband : srcExists (.inband 19 0) = true ∧
    srcUp (modLife (tPort 19 stOn true id) fun l => { l with pwrok := true, boot := .up }) (.inband 19 0) = true := by decide
theorem wit_corud_stale : (modCorud tN fun c => { c with queue := [(.i3c, [])] }).ctl.corud.queue.contains (.i3c, []) = true := by decide
theorem wit_store_done : (modCorud tN fun c => { c with storing := [⟨some .i3c, [], 0, []⟩] }).ctl.corud.storing = [⟨some .i3c, [], 0, []⟩] := by decide
def tTelem : Node := dictSetNat (tUpNode .up) 0x1010 4 (5 <<< 48)
theorem wit_telemetry : nodeRuns tTelem = true ∧ (lifeOf tTelem).boot ≠ .hold ∧ bits (dictNat tTelem 0x1010 4) 50 48 ≠ 0 := by decide
theorem wit_user_cal : isUserCal (0x6FFF * 256 + 255) = true ∧ isUserCal (0x6800 * 256) = true := by decide
theorem wit_latch_apply : (modCorud tN fun c => { c with apply := some 0 }).ctl.corud.apply = some 0 ∧ 0 ≤ tN.now := by decide
def tAlive : Node := fSet (tUpNode .up) (bLoc .mpStatus 0) fMpStatusAlive 0xF
theorem wit_lead : nodeRuns tAlive = true ∧ 3 ≠ leadDie tAlive ∧ bit (fGet tAlive (bLoc .mpStatus 0) fMpStatusAlive) 3 = true := by decide
def tMailbox : Node := { tUpNode .up with mem := (tUnit 1).zipIdx.filterMap fun p => if p.1 = 0 then none else some (p.2, p.1) }
theorem wit_mailbox : fGet tMailbox (bLoc .mbStatus 3) fMbStatusBusy = 0 ∧ inHbm tMailbox 0 16 = true ∧ 16 + unitLength (readBytes tMailbox 0 16) = 16 ∧
    firstPoison tMailbox 0 16 = none ∧ dropped (readBytes tMailbox 0 16) = false ∧ unitOp (readBytes tMailbox 0 16) = 1 ∧
    (answersFor tMailbox (some (.mailbox 3)) (unitIdx (readBytes tMailbox 0 16))).isSome = true ∧
    (let s1 := agentTouch (agentTouch tMailbox 3 clsDma 0 16) 3 clsDma 0 16
     firstPoison s1 0 16 = none ∧ readBytes s1 0 16 = tUnit 1 ∧
     accessHeld (corudArrives (fSet s1 (bLoc .mbStatus 3) fMbStatusBusy 1) (.mailbox 3) (tUnit 1)) = false) := by decide +kernel
theorem wit_mailbox_response : tblGet none (modCorud tN fun c => { c with mailbox := [(3, some (tUnit 1))] }).ctl.corud.mailbox 3 = some (tUnit 1) ∧
    inHbm tN (fGet tN (bLoc .mbResp 3) fMbRespAddr * 16) (tUnit 1).length = true ∧
    accessHeld (signal (agentWrite (modCorud tN fun c => { c with mailbox := [] }) 3 (fGet tN (bLoc .mbResp 3) fMbRespAddr * 16) (tUnit 1) false)
      3 57) = false := by decide +kernel
theorem wit_awaits_image : nodeRuns (tUpNode .netMp) = true ∧ awaitsImage (tUpNode .netMp) = true ∧ (lifeOf (tUpNode .netMp)).boot = .netMp ∧
    awaitsImage (tUpNode .netHost) = true ∧ (lifeOf (tUpNode .netHost)).boot ≠ .netMp ∧ (511 : Nat) < 512 ∧
    (netImage (modLife (tUpNode .netMp) fun l => { l with chunks := [(0, some [1, 2])] }) 2).length = 2 := by decide
theorem wit_power_up : (lifeOf tN).pwrok = false ∧ mayRelease (modLife tN fun l => { l with pwrok := true }) = true ∧
    (lifeOf (tUpNode .up)).pwrok = true := by decide
def tReady : Node := modLife (tUpNode .up) fun l => { l with ready := true, readied := true }
theorem wit_reset_pin : (lifeOf tReady).resetN = true ∧ (lifeOf tReady).pwrok = true ∧ (lifeOf tReady).stopped = false ∧ (lifeOf tReady).trip = false ∧
    (lifeOf tReady).boot ≠ .inReset ∧ (lifeOf tReady).readied = true ∧ (lifeOf tReady).ready = true := by decide
def tPinLow : Node := modLife (tUpNode .inReset) fun l => { l with resetN := false }
theorem wit_reset_release : (lifeOf tPinLow).resetN = false ∧ mayRelease (modLife tPinLow fun l => { l with resetN := true }) = true := by decide
def tLeaving : Node := modLife (tUpNode .inReset) fun l => { l with leaving := true }
theorem wit_warm_release : (lifeOf tLeaving).leaving = true ∧ mayRelease tLeaving = true := by decide
def tBoot : Node := modLife (tUpNode .boot) fun l => { l with mp := some ⟨0, 0, 5, 0⟩ }
theorem wit_training : nodeRuns tBoot = true ∧ (lifeOf tBoot).boot = .boot ∧ (lifeOf tBoot).mp.isSome = true ∧ (lifeOf tBoot).trained = false ∧
    (lifeOf tBoot).mp = some ⟨0, 0, 5, 0⟩ := by decide
def tTrained : Node := modLife (tUpNode .up) fun l => { l with host := true, trained := true }
theorem wit_ready : nodeRuns tTrained = true ∧ (lifeOf tTrained).boot = .up ∧ (lifeOf tTrained).host = true ∧ (lifeOf tTrained).trained = true ∧
    (lifeOf tTrained).ready = false ∧ testMode tTrained = false := by decide
/-- A token of debug, or of the move from BLANK to PROVISIONED's successors, by bytes 0 and 1. -/
def tToken (dest key : Nat) : List Byte := [BitVec.ofNat 8 dest, BitVec.ofNat 8 key] ++ List.replicate 7265 0
def tLcs (n : Nat) : Node := modLife tN fun l => { l with fuses := { l.fuses with lcs := n, owners := [1] } }
theorem wit_token_fields : (descField (tToken 0x0D 0) 0 1 = 0x0D ∧ descField (tToken 0x0D 0) 1 1 = 0) ∧ descField (tToken 4 0) 0 1 = 4 ∧ descField (tToken 4 0) 1 1 = 0 ∧
    debugMay (tLcs 1) 0 = true ∧ transitionMay (tLcs 3) 4 0 = true ∧ (4 : Nat) ≠ lcsProvisioned := by decide
theorem wit_token_length : (tToken 4 0).length = 7267 := by
  unfold tToken
  rw [List.length_append, List.length_replicate]
  rfl
theorem wit_owner_key : lcs (tLcs 1) = lcsProvisioned ∧ (List.replicate 64 (0 : Byte)).length = 64 ∧ (lifeOf (tLcs 1)).fuses.owners.length < 4 := by decide
theorem wit_revoke : keyValid 0x13 = true ∧ keyOwner 0x13 = true ∧ keyValid 3 = true ∧ keyOwner 3 = false ∧ (lifeOf tN).mp = none ∧ (lifeOf tN).hostImg = none := by decide
theorem wit_extend : (4 : Nat) ≤ 7 ∧ (7 : Nat) ≤ 7 ∧ (List.replicate 32 (0 : Byte)).length = 32 := by decide
theorem wit_wipe : jobPresent tN = false ∧ tN.ctl.life.wiping = false ∧ (lifeOf (modLife tN fun l => { l with wiping := true })).wiping = true := by decide +kernel
def tTest : Node := modTest tN fun t => { t with junk := some 0 }
theorem wit_test_mode : testMode tN = false ∧ testMode tTest = true ∧ tTest.ctl.test.bist = none := by decide
def tPrbs : Node := fSet (tPort 19 stOn false fun x => { x with lanes := 0x80 }) (portLoc .lbPort 19) fLbPortPrbs 1
theorem wit_prbs : isOn tPrbs (portCtrlLoc 19) = true ∧ prbsRuns tPrbs 19 = true ∧ bit (portOf tPrbs 19).lanes 7 = true := by decide
theorem wit_bist_done : (modTest tTest fun t => { t with bist := some (6, 0x1FFFF) }).ctl.test.bist = some (6, 0x1FFFF) := by decide
theorem wit_scan : (lifeOf tN).ready = false ∧ (lifeOf tReady).ready = true ∧ debugOpen tN = false ∧
    debugOpen (fSet tN (bLoc .secStatus 0) fSecStatusDebugOpen 1) = true := by decide

/-! ## Commands of several units -/

theorem wit_own_step : (csrFind (tOff (bLoc .brokerCtrl 3))).map (·.id) = some .brokerCtrl ∧ (csrFind (tOff (tsCtrl 11))).map (·.id) = some .tsCtrl ∧
    (csrFind (tOff (bLoc .dzCtrl 3))).map (·.id) = some .dzCtrl ∧ csrFenced tN (tOff (tsCtrl 11)) = false ∧ csrFenced tN (tOff (bLoc .dzCtrl 3)) = false ∧
    ctrlState (tCtrl (tsCtrl 11) stEnabling) (tsCtrl 11) = stEnabling ∧ csrAllowed (.core 95) (tOff (bLoc .brokerCtrl 3)) 8 = true ∧
    accessHeld (ownStepEnds (tCtrl (bLoc .brokerCtrl 3) stEnabling) (bLoc .brokerCtrl 3)) = false ∧
    accessHeld (ownStepEnds (tCtrl (tsCtrl 11) stEnabling) (tsCtrl 11)) = false ∧
    accessHeld (csrStore tN (.core 95) (bLoc .brokerCtrl 3) 1) = false := by decide +kernel
theorem wit_eviction : (dirOf tN (homeOf tN 3)).queue = [] ∧ (netOf tN).held = [] ∧ lineHeld tN (homeOf tN 3) 3 3 = false := by decide

/-- Core 95 and its die hold line 3. -/
def tCoreLine : Node := modCore (tHold .m) 95 fun h => { h with caches := { h.caches with l2 := [(3, .s)] } }
theorem wit_core_cache : isFenced tCoreLine (95 / 8) = false ∧ (coreOf tCoreLine 95).caches.l2.any (fun p => p.1 == 3) = true ∧
    holdSt tCoreLine 11 3 ≠ .i ∧ (dirEntry (modDir tN (homeOf tN 3) fun x => { x with entries := [(3, { DirEntry.none with st := .ds })] }) 3).st ≠ .di ∧ tN.leaveDue.contains (.baseDie 3) = false := by decide

def tNarrow : Node := modPort tN 19 fun x => { x with narrowTo := some 1 }
theorem wit_narrowing : (portOf tNarrow 19).narrowTo = some 1 ∧ (portOf tNarrow 19).deferOff = false := by decide
theorem wit_fenced_csr : csrAllowed (.mp 3) 0xB0000000 8 = true ∧ csrFenced (tReg tN (bLoc .fence 0) 0xFFFFFF) 0xB0000000 = true := by decide
theorem wit_satp_modes : bits ((10 : Word) <<< 60).toNat 63 60 = 10 ∧ ¬(bits ((15 : Word) <<< 60).toNat 63 60 = 0 ∨
    bits ((15 : Word) <<< 60).toNat 63 60 = 9 ∨ bits ((15 : Word) <<< 60).toNat 63 60 = 10) := by decide
def tTripped : Node := modLife (tUpNode .inReset) fun l => { l with trip := true, stopped := true }
theorem wit_thermtrip : (lifeOf tTripped).trip = true ∧ (lifeOf tTripped).pwrok = true := by decide
/-- A thread instruction of each frame clause: a store to scratch, a load with its destination registers, TDARG, ERKEY and a
counter instruction, each with a next state. -/
def tMemS : Nat := 0xCB <<< 56 + 2 <<< 53 + 255 <<< 40 + 252 <<< 32
theorem wit_thread_instruction_frame :
    (∀ c ∈ [Instr.bnz 191 63 0, .lds 191 63 (0xCA <<< 56 + 2 <<< 53 + 255 <<< 40 + 252 <<< 32), .sts 191 63 tMemS,
      .tdarg 191 63 (0xC4 <<< 56 + 255 <<< 40), .erkey 191 63 (0xC2 <<< 56 + 255 <<< 32),
      .cntset 191 63 (0xCD <<< 56 + 63 <<< 40 + 255 <<< 32)], (tRun c (tG [(252, 0x1FFFFC)])).isSome = true) ∧
    (groupOf (tG [(252, 0x1FFFFC)]) 191 63).kill = false ∧ bits tMemS 47 40 = 255 ∧ (2 ^ bits tMemS 55 53 + 3) / 4 = 1 ∧ 31 ∈ accessLanes (groupOf (tG [(252, 0x1FFFFC)]) 191 63) tMemS ∧
    bits (laneScratch (groupOf (tG [(252, 0x1FFFFC)]) 191 63) tMemS 31) 20 0 = 0x1FFFFC := by decide
theorem wit_element_instruction_frame : ∃ n, exec (.elemHad 191) ⟨[], tRunAt 0x18 0⟩ = .next ⟨[], n⟩ := ⟨_, rfl⟩
/-- A line that the last die holds in a state. -/
def tCached (st : Moesi) : Node := modCache tN 11 fun c => { c with lines := [(5, ⟨st, 0, .gable, 0, false⟩)] }
theorem wit_store_frame : (11 : Nat) < 12 ∧ (tCached .m).ctl.test.junk = none ∧
    (∀ w ∈ List.range 13, tblGet [] (tCached .m).stale (copyKey 5 w) = []) ∧
    holdSt (tCached .m) 11 5 = .m ∧ holdSt (tCached .e) 11 5 = .e ∧ (tCached .e).ctl.test.junk = none ∧
    (∀ w ∈ List.range 13, tblGet [] (tCached .e).stale (copyKey 5 w) = []) ∧ (∀ p ∈ [((127 : Nat), (1 : Byte))], p.1 < lineBytes) ∧
    ([((127 : Nat), (1 : Byte))].map (·.1)).Nodup ∧ outputDraw (tCached .m) (5 * lineBytes + 127) = none := by decide

/-! ## Worked examples of the spec

The expected values are the spec's own. -/

/-- Worked encodings of ch. 2: 1.0, -2.5, 6.0 and 0.75 from FP32 under RNE. -/
theorem test_worked_encodings :
    ([0x3F800000, 0xC0200000, 0x40C00000, 0x3F400000].map fun v =>
      [Fmt.bf16, .fp16, .e4m3, .e5m2, .e3m2, .e2m3, .e2m1].map fun f => (convert f .rne false 0 (numOfCode .fp32 v)).code) =
    [[0x3F80, 0x3C00, 0x38, 0x3C, 0x0C, 0x08, 0x2], [0xC020, 0xC100, 0xC2, 0xC1, 0x31, 0x32, 0xC],
     [0x40C0, 0x4600, 0x4C, 0x46, 0x16, 0x1C, 0x7], [0x3F40, 0x3A00, 0x34, 0x3A, 0x0A, 0x06, 0x2]] := by decide +kernel
/-- Packing under R33. -/
theorem test_packing : packRow .e2m1 [2, 0xB] = [0xB2] ∧ packRow .e3m2 [1, 2, 3, 4] = [0x81, 0x30, 0x10] := by decide
/-- The generator's load and sixteen steps (R46, R47). -/
theorem test_generator : lfsrLoad 0xA5 3 = 0xA6 ∧ lfsrLoad 0xA5 0xA5 = 1 ∧ lfsrDraw 0xA6 = (0x3A0E80, 0x0E80) := by decide
/-- The stochastic conversion of ch. 2: truncated for 0x0E80, incremented from 0x999A on (R45, R48). -/
theorem test_stochastic : ([0x0E80, 0x9999, 0x999A, 0xFFFF].map fun r => convert .e4m3 .sr false r (numOfCode .fp32 0xC0266666)) =
    [⟨0xC2, flNX⟩, ⟨0xC2, flNX⟩, ⟨0xC3, flNX⟩, ⟨0xC3, flNX⟩] := by decide +kernel
/-- MX and BS2 element values (R35, R36), as FP32 codes: 0.375 and -0.140625. -/
theorem test_scaled_elements : (convert .fp32 .rne false 0 (numMul (numOfCode .e2m1 5) (e8m0 0x7C)).val).code = 0x3EC00000 ∧
    (convert .fp32 .rne false 0 (numMul (numMul (numOfCode .e2m1 0xB) (numOfCode .e4m3 0x3C)).val (numOfCode .fp32 0x3D800000)).val).code
      = 0xBE100000 := by decide +kernel
/-- The operand format word of ch. 2 (R25). -/
theorem test_format_word : fwValid 0xC9 = true ∧ fwScheme 0xC9 = 2 ∧ fwBlockLen 0xC9 = 64 ∧ fmtOfCode (fwFmt 0xC9) = some .e2m1 := by decide
/-- A tile descriptor of given formats, for the K-step examples. -/
def tFmts (f : Nat) : MmaDesc := ⟨0, 0, f, 0, 0, f, 0, 0, 0, 0, 0, 0, 0, 0⟩
/-- K-steps of ch. 3 (R70): FP4 under BS2 with BLOCK 128, FP8 under MX, FP4 under MX. -/
theorem test_ksteps : (([0x149, 0x25, 0x29].map fun f => (mmaShape (0xD4 <<< 56) (tFmts f)).map fun h => (h.kstep, h.nb))) =
    [some (128, 1), some (32, 1), some (64, 2)] := by decide
/-- The fields of the matrix words of ch. 3. -/
theorem test_matrix_word : mGang 0xD498080C00000000 = 2 ∧ mBank 0xD498080C00000000 = 1 ∧ mStart 0xD498080C00000000 = true ∧
    mFinish 0xD498080C00000000 = false ∧ mSteps 0xD498080C00000000 = 8 ∧ mStart 0xD494080C00000000 = false ∧
    mFinish 0xD494080C00000000 = true ∧ mSparse 0xD498080C00000000 = false := by decide
/-- The spinning branch of ch. 4: lane 7 leaves the loop and holds the turn (R92, R93). -/
def tSpin : Group := { tGroup [] with
  paths := [⟨0x1008, 0xFFFFFFFF⟩], file := ((List.range 32).filter (· ≠ 7)).map fun i => (5 * 32 + i, 1) }
theorem test_spin : ((branched tSpin 0xB0800005FFFFFFFF).paths.map fun p => (p.pc, p.mask)) =
      [(0x1010, 0x80), (0x1000, 0xFFFFFF7F)] ∧ (branched tSpin 0xB0800005FFFFFFFF).turn = true ∧
    ((branched tSpin 0xB0000005FFFFFFFF).paths.map fun p => (p.pc, p.mask)) =
      [(0x1000, 0xFFFFFF7F), (0x1010, 0x80)] := by decide
/-- The cast program of ch. 5 passes every check in a WIDE slot (R142), and fails it with GANG 0. -/
def tCastProgram : List Nat := [0x7000232030050FFF, 0x7000242130040010, 0x7000242430050003, 0x700024243003000C,
  0x0C00000422000000, 0x90B0230024250006, 0]
theorem test_cast_program : programFault true false .fp32 tCastProgram = none ∧
    (programFault true true .fp32 tCastProgram).isSome = true := by decide
/-- The gradient of ch. 5: the scaled product, and the E5M2 code on each side of its threshold. -/
theorem test_gradient : elemArith 3 0 .rne 0 0x3A83126F 0x43800000 0 = ⟨0x3E83126F, 0⟩ ∧
    (convert .e5m2 .sr true 0xE76C (numOfCode .fp32 0x3E83126F)).code = 0x34 ∧
    (convert .e5m2 .sr true 0xE76D (numOfCode .fp32 0x3E83126F)).code = 0x35 := by decide +kernel
/-- The two Hadamard blocks of ch. 5 (R139). -/
theorem test_hadamard_ones : (hadBlock 0 32 0 true (List.replicate 32 0x3F800000)).1 = 0x40B504F3 :: List.replicate 31 0 := by
  decide +kernel
theorem test_hadamard_sign : (hadBlock 0 32 1 true (0x3F800000 :: List.replicate 31 0)).1 = List.replicate 32 0xBE3504F3 := by
  decide +kernel
/-- Quantising the block of ch. 6: the scale 36.0 under RUP, the elements under it, and the MUL3 at exit. -/
theorem test_block_quantised :
    (convert .e4m3 .rup true 0 (numOfCode .fp32 0x420F5C29)).code = 0x61 ∧
    ([0x3E570A3D, 0xBDB851EC, 0x3D4CCCCD, 0].map fun a =>
      (convert .e2m1 .rne true 0 (numOfCode .fp32 (elemArith 8 0 .rne 0 a 0x3D100000 0).code)).code) = [7, 0xD, 3, 0] ∧
    (elemArith 5 0 .rne 0 0x47070000 0x3A800000 0x3B000000).code = 0x3D870000 := by decide +kernel
theorem test_mul3_word : elemFieldsOk false 64 64 0x1400000418110000 = true ∧ eOp 0x1400000418110000 = 5 ∧
    eB 0x1400000418110000 = 0x18 ∧ eC 0x1400000418110000 = 0x11 := by decide
/-- The row of ch. 7: LAYOUT, LENGTH and STATE of word 0, and the row's place in its page (R178). -/
def tSeqs : Node :=
  let s := regSet tN (bLoc .seqEntry 0 [9, 0]) 0x40113001
  regSet (regSet s (bLoc .layout 0 [2, 0]) 0x20000) (bLoc .layout 0 [2, 1]) 0x10000
def tRows : Node :=
  fSet (regSet tSeqs (bLoc .layout 0 [2, 2]) 0x1000) (bLoc .layoutRow 0 [2]) fLayoutRowTokenStride 0x40
theorem test_sequence_row : seqLayout tRows 9 = 2 ∧ seqLength tRows 9 = 1100 ∧ seqState tRows 9 = 1 ∧
    rowOffset tRows 2 7 1 5 1000 = 0xF5A00 := by decide
/-- Register addresses worked out by the spec: GLAUNCH of Gable 40, DEP_WATCH 0 of CD2, DEP_CNT 0x041, word 0 of entry 3 on
BD0, word 0 of region entry 5 in BD2's block. -/
theorem test_register_addresses : (csrFind 0x20903800).map (fun l => (l.id, l.scope, l.blk)) = some (.glaunch, 2, 8) ∧
    (csrFind 0x23000300).map (fun l => (l.id, l.idx)) = some (.depWatch, [0]) ∧
    (csrFind 0xC1306208).map (fun l => (l.id, l.idx)) = some (.depCnt, [0x41]) ∧
    (csrFind 0xC6001060).map (fun l => (l.id, l.idx)) = some (.teEntry, [3, 0]) ∧
    (csrFind 0xE40800A0).map (fun l => (l.id, l.idx)) = some (.mrEntry, [5, 0]) := by decide
/-- FIPS 197: the S-box of 0x53, and the first word of the first round key that its appendix A.1 derives (R186, Zvkned). -/
theorem test_aes : sbox 0x53 = 0xED ∧ sboxInv 0xED = 0x53 ∧
    aesKey false 1 0x3C4FCF098815F7ABA6D2AE2816157E2B 0 % 2 ^ 32 = 0x17FEFAA0 := by decide +kernel

/-- The worked example of R87: two sources of one bank lose a cycle. -/
theorem test_bank_conflict : bankLoss 1 [4, 8, 13] = 1 ∧ bankLoss 0 [4, 8, 13] = 1 ∧ bankLoss 1 [4, 9, 14] = 0 := by decide
/-- PA 0x0012_3456_7880 under both interleaves (R233, R234). -/
def tQuad : Node := fSet tN (bLoc .hbmStatus 0) fHbmStatusMapping 1
theorem test_interleave : homeOf tN 0x2468ACF1 = 1 ∧ localLine tN 0x2468ACF1 = 0x091A2B3C ∧ stackOf tN 0x2468ACF1 = 0 ∧
    homeOf tQuad 0x2468ACF1 = 0 ∧ localLine tQuad 0x2468ACF1 = 610839793 ∧ stackOf tQuad 0x2468ACF1 = 1 := by decide
/-- Victim ways of ch. 10: with the generator at 0x8020_002A after its step, way 4 under the mask 0x0FF0 (R245). -/
theorem test_victim_ways : lfsrStep 0x53 = 0x8020002A ∧ (ones 16 0x0FF0).getD (0x002A * popCount 16 0x0FF0 / 65536) 0 = 4 ∧
    (ones 16 0x0FF0).getD (0xE83A * popCount 16 0x0FF0 / 65536) 0 = 11 := by decide
/-- The fault record of ch. 11: bytes 0-15 of the record and of its duplicate (R266, R267). -/
theorem test_fault_record :
    (faultRecord tN 0x1A2B false 0 0x22 8 5 0x7F4000358000 0 0 ⟨5, 0, 0x100, 0⟩).take 10 = [0x2B, 0x1A, 0, 0, 0, 5, 0x22, 8, 5, 0] ∧
    (faultRecord tN 0x1A2B true 1 0x63 5 0 0x7F4000358000 0 0 ⟨5, 0, 0x100, 0⟩).getD 4 0 = 0x84 := by decide
/-- Bundle 37 of ch. 12: a ninth wire narrows it to its lower half on three spares (R287). -/
def tSpared : Bundle :=
  { Bundle.reset with carried := [3, 17, 40, 70, 88, 101, 115, 120].mapIdx fun i w => (i, some w), wireFails := 8 }
theorem test_bundle_narrows : (shutterFull tSpared [90]).action = 2 ∧ (shutterFull tSpared [90]).bundle.width = 1 ∧
    (shutterFull tSpared [90]).bundle.half = 0 ∧ (shutterFull tSpared [90]).bundle.wireFails = 9 ∧
    (shutterFull tSpared [90]).bundle.carried = [(0, some 3), (1, some 17), (2, some 40)] := by decide
/-- The header bytes of ch. 14 (R323), and its flow's engine (R330). -/
theorem test_dziger_header : dzHeader ⟨1, 3, 1, true, false, 7, 0x00A41, 0x21C85, 0x317, 4, 0, 0x1C0, 0x04001000, 0xFFF, []⟩ =
    [0x13, 0x37, 0x00, 0x0A, 0x41, 0x02, 0x1C, 0x85, 0x03, 0x17, 0x00, 0x04, 0, 0, 0, 0,
     0, 0, 0x01, 0xC0, 0, 0, 0, 0, 0x04, 0, 0x10, 0, 0, 0, 0x0F, 0xFF] ∧ flowBase 0x00A41 1 = 2 := by decide
/-- Buckets of ch. 15 (R352, R357): the shards of 1,000 elements over 6 ranks, and the pages of a decoder bucket's rank. -/
def tBucketOf (len n fmt my : Nat) (ranks : List (Nat × Nat)) : Bucket :=
  ⟨3, 0, 0, false, 0, 0, fmt, fmt, 0, len, 0, 0, 0, 0, 0, 0, 0, n, my, ranks, 0, 0, [], 0, [], [], [], false⟩
theorem test_shards : shardSize (tBucketOf 1000 6 1 0 []) = 256 ∧
    ((List.range 6).map (shardLen (tBucketOf 1000 6 1 0 []))) = [256, 256, 256, 232, 0, 0] := by decide
theorem test_shard_of_decoder : shardSize (tBucketOf 1048576 16384 6 0 []) = 128 := by decide
/-- The six-rank tree of ch. 15. -/
theorem test_six_ranks : (treeSum 0 3 ([0x3F800000, 0x33800000, 0x33800000, 0x33800000, 0x33800000, 0].map (⟨·, 0⟩))).code
    = 0x3F800002 := by decide +kernel
/-- The descriptor of ch. 16: its CHECK passes and none of its fields is invalid (R373); one bit flipped fails. -/
def tWorkDesc : List Byte := [0x41, 0x2A, 0, 0, 0, 0, 0xC4, 0xD0, 1, 0, 0x41, 0, 0x60, 0, 0, 0, 0, 0, 0x20, 0, 0x40, 0x7F, 0, 0,
  0x60, 0, 0x0F, 0, 0, 0, 0, 0, 0, 0, 0, 0, 0x41, 0x7F, 0, 0, 0, 0, 0x30, 0, 0, 0, 0, 0,
  0x17, 5, 0, 0, 0, 0, 0, 0, 0, 0, 0, 0, 0, 0, 0, 0]
theorem test_descriptor_check : checkPasses tWorkDesc = true ∧ descInvalid tWorkDesc = false ∧
    checkPasses (0x40 :: tWorkDesc.drop 1) = false := by decide
/-- The error record of ch. 17 (R399, R402). -/
def tLogged : Node := logErr { tN with now := 5000000000 } 2 9 0x0310 0
  [(1, 0), (1, 3), (1, 1), (1, 0), (4, 0x40000152), (1, 0), (1, 0), (1, 0), (1, 0x30), (1, 0x20)]
theorem test_error_record : errRecBytes { tLogged.lastRec with seq := 0x17 } =
    [0x10, 0x03, 0x01, 0x00, 0x17, 0, 0, 0, 0x00, 0xF2, 0x05, 0x2A, 0x01, 0, 0, 0, 0, 0, 0x90, 0x20, 0, 0, 0, 0, 0, 0, 0, 0, 0, 0, 0, 0,
     0, 3, 1, 0, 0x52, 1, 0, 0x40, 0, 0, 0, 0x30, 0x20, 0, 0, 0] ++ List.replicate 16 0 := by decide
/-- The late timed event of ch. 18: the cut fires at once, TIME becomes 1,980 s and TIMED_EVENT_LATE is written (R437). -/
def tCutEntry : Node :=
  regSet (regSet { tN with now := 1921000000000 } (teLoc 3 0) (BitVec.ofNat 64 1920000000000)) (teLoc 3 1) 0x8200000003938700
theorem test_timed_event_late : teTime (teFire tCutEntry 3) 3 = 1980000000000 ∧ (teFire tCutEntry 3).lastRec.code = 0x0A42 ∧
    (teFire tCutEntry 3).lastRec.detail = [(1, 3), (8, 1000000000)] := by decide
/-- SVN_COMMIT of ch. 21: version 5 with an image of version 7 running burns bits 5 and 6 (R506). -/
def tFused : Node := modLife tN fun l => { l with fuses := { l.fuses with svn := (0x1F, 0) }, mp := some ⟨0, 0, 7, 0⟩ }
theorem test_svn_commit : fusedSvn tFused 1 = 5 ∧ (lifeOf (svnCommit tFused 1).1).fuses.svn.1 = 0x7F := by decide
end

section
/-! Statements of 01_node_composition.md: a command completes exactly where the units it names exist, accesses to the CSR
window, commands of several units. -/

namespace Sys2Proof.Machine

/-! ### Commands complete exactly where their units exist -/

/-- A meaning over the node answers a next node where `b` holds, and the fault of an absent unit where it does not. -/
def NextIf (b : Bool) (r : Host.Outcome Node Fault Refusal) : Prop :=
  ∃ n : Node, r = if b then .next n else .fault .noSuchUnit

/-- The same of a command on the block, whose effect is on the node alone. -/
def StepsIf (b : Bool) (s : State) (r : Host.Outcome State Fault Refusal) : Prop :=
  ∃ n : Node, r = if b then .next { s with node := n } else .fault .noSuchUnit

theorem onNode_stepsIf {b : Bool} {s : State} {f : Node → Host.Outcome Node Fault Refusal} (h : NextIf b (f s.node)) :
    StepsIf b s (onNode s f) := by
  obtain ⟨n, hn⟩ := h
  refine ⟨n, ?_⟩
  unfold onNode
  rw [hn]
  cases b <;> rfl

theorem onServed_stepsIf {b : Bool} {s : State} {f : Node → Host.Outcome Node Fault Refusal} (h : NextIf b (f s.node)) :
    StepsIf b s (onServed s f) := by
  obtain ⟨n, hn⟩ := h
  apply onNode_stepsIf
  refine ⟨served s.node n, ?_⟩
  simp only [hn]
  cases b <;> rfl

theorem nextIf_next (t : Node) : NextIf true (.next t) := ⟨t, rfl⟩

theorem nextIf_unit (n i : Nat) (t : Node) : NextIf (decide (i < n)) (onUnit n i t) := ⟨t, by simp [onUnit]⟩

/-- A unit named by two numbers, each with a bound of its own (the second may number a copy within the unit). -/
theorem nextIf_pair (p q : Prop) [Decidable p] [Decidable q] (t : Node) :
    NextIf (decide p && decide q) (if p ∧ q then .next t else .fault .noSuchUnit) := ⟨t, by simp⟩

theorem nextIf_bundle (e d k : Nat) (t : Node) :
    NextIf (decide (e < 4) && decide (d < 2) && decide (k < 64)) (onBundle e d k t) := ⟨t, by simp [onBundle, and_assoc]⟩

theorem nextIf_fabricPort (p : Nat) (t : Node) : NextIf (decide (p < 20) && p % 5 != 4) (onFp p t) :=
  ⟨t, by simp [onFp, isFe]⟩

/-- A choice between two meanings that both complete. -/
theorem nextIf_ite {b : Bool} {c : Prop} [Decidable c] {r u : Host.Outcome Node Fault Refusal} (hr : NextIf b r)
    (hu : NextIf b u) : NextIf b (if c then r else u) := by
  split
  · exact hr
  · exact hu

/-- The model and the well-formedness of a command agree on which Corud transports exist (R466). -/
theorem srcExists_eq (src : CorudSrc) : srcExists src = src.exists_ := by
  cases src <;> rfl

theorem nextIf_corudUnit (s : Node) (op : Nat) (src : CorudSrc) (p : List Byte) (started : Bool) :
    NextIf src.exists_ (corudUnit s op src p started) := by
  rw [← srcExists_eq]
  exact ⟨_, rfl⟩

theorem execScratchWindowAccess_stepsIf (by_ : Sender) (addr size : Nat) (store : Bool) (v : Word) (s : State) :
    StepsIf true s (execScratchWindowAccess by_ addr size store v s) := by
  apply onNode_stepsIf
  split
  · exact nextIf_next _
  · exact nextIf_next _

theorem execSramUncorrected_stepsIf (part : SramPart) (s : State) :
    StepsIf part.exists_ s (execSramUncorrected part s) := by
  apply onNode_stepsIf
  cases part with
  | dirEntry => exact nextIf_next _
  | _ => exact nextIf_unit _ _ _

/-- What every command does: a next state with the queue as it was where the units it names exist, the fault of an absent
unit where one of them does not. A command's arm follows from the wrapper that guards its meaning. -/
theorem exec_stepsIf (i : Instr) (s : State) : StepsIf i.wellFormed s (exec i s) := by
  cases i with dsimp only [exec]
  -- commands that name no unit by a number with a bound
  | rcRegisterRead | layoutBatchWrite | cln | fls | rdonce | wrline | wrpart | stuSatpWrite | stuResolveRetry
  | stuResolveAbort | stuCntCtrlWrite | stuCntClear | routeSwitchDone | dzAckTimer | dzGapTimer | dzWindowIncrease
  | flowIdleRelease | shgArm | wqCompleteWrite | ledgerFresh | ledgerReplay | reconciliationDone | fenceWrite | nodeLeaving
  | mpAllLost | orphanReset | restoreDone | ppsInEdge | ppsMissing | ppsOutPulse | timeHoldover | ppsHoldExpiry | powerSample
  | lvClearGuard | lvClearLearned | packageLoop | phaseClassify | shareLearn | budgetWrite | budgetExpired | capBelowFloor
  | pwrbrkAssert | pwrbrkRelease | brakeStuck | coroudSegmentTimeout | coroudRequestStale | configStoreWriteDone
  | telemetryReport | userCalibrationWrite | latchCheck | latchCommitNow | latchDiscard | commitAtWrite | latchApply | pwrokRise
  | pwrokFall | resetNAssert | resetNRelease | softwareReset | warmResetRelease | hbmTrainingDone | readyRise | bootChunkWrite
  | bootGoWrite | svnCommit | lcsTokenWrite | debugTokenWrite | ownerKeyWrite | revokeWrite | nonceWrite | measurementExtend
  | jobWipe | jobWipeDone | testModeEnter | testModeExit | bistSram | bistNearMemory | bistHbmMbist | bistLogic
  | bistHbmPhyLoopback | bistBridgeLoopback | bistDone | tapReset | idcode | samplePreload | extest | highz | clamp
  | extestPulse | extestTrain | dtmcs | bypass | railUndervoltage | corePllLockLoss | alertAckWrite | netbootReport =>
    apply onNode_stepsIf; exact nextIf_next ..
  -- the same, with accesses of the command's own
  | csrWrite | stuWalkComplete | commonEnableWrite | dzSend | dzPut | dzGet | dzLoad | dzStore | dzAtomic | dzResp | dzMsg
  | dzRto | ridgeGo | ridgeChunk | shinglePacket | ckptCut | cutDrained | cutDrainTimeout | cutScanDone | cutChunkCopied
  | cutRemoteDone | ckptRestoreLocal | ckptRestoreBuddy | dmi | ownStepEnds => apply onServed_stepsIf; exact nextIf_next ..
  -- one unit, named by a number with a bound
  | mma | mmaSp | mmaQueueEnter | mrel | mfence | mfenceSatisfied | mmaKStep | gutterCopyStart | gutterCopyDone | groupLaunch
  | gableAluInstruction | bnz | bz | jmp | yield | exit | ldDataReturn | lds | sts | copy | cntset | cntadd | waitcnt
  | waitcntSatisfied | arrivalCntWrite | groupStall | groupResume | groupKill | gableEnableWrite | gableDisableDone
  | gableEnableDone | gableSramUncorrected | elemRunStart | elemEnd | elemAdd | elemSub | elemMul | elemFma | elemMul3 | elemMin
  | elemMax | elemDiv | elemFn | elemSel | elemCmp | elemAnd | elemOr | elemXor | elemShl | elemShr | elemCvt | elemRed
  | elemPerm | elemSetvl | elemHad | elemMsk | elemSop | elemSkip | elemSig | erkey | epld | elemSlotWrite | tdarg
  | tsListAddrWrite | tsListGoWrite | tileLaunch | tileSteal | brokerStealRequest | tileComplete | depCntWrite | tsEnableWrite
  | tsDisableDone | seqEntryStageWrite | seqEntryCommit | brokerEnableWrite | kvg | timerInterrupt | imsicSeteipnumWrite
  | aplicRegisterWrite | aplicSourceEvent | glaunchWrite | depWatchWrite | depWatchFire | rds | rdx | upg | wbd | evc | snps
  | snpx | snprd | snpcln | snprcl | snpinv | coherenceResponse | cmpack | snoopTimeout | fenceScanDone | gableFence
  | hbmReadComplete | patrolScrub | hbmStackLost | prefetchReturn | nmcDieLost | nmcEnableWrite | nmcInvWrite | nmcWritebackDone
  | nmcInvDone | nmcSeedWrite | stuShootRange | stuShootAll | shootdownComplete | shootdownStalled | accessCountBatch
  | edgeEnableWrite | edgeStepDone | portEnableWrite | portStepDone | portSignalDetect | portLinkUp | portTrainTimeout
  | portDown | laneFail | ethFrameReceive | arpRequest | pfcFrameReceive | pfcBufferThreshold | pfcStorm | cnpReceive
  | roceRateIncrease | roceAckTimeout | roceSqDb | dzCmdDb | dzEnableWrite | dzDisableDone | shgCancel | shgBucketComplete
  | wqEnableWrite | wqDisableDone | doorbellProd | doorbellResume | doorbellReplay | doorbellAhead | cqWriteFailed
  | wqNotifyRead | errHeadWrite | heartbeatMissed | dieFence | dieAbort | dieAbortDone | ptpSyncReceive | ptpPdelay
  | ptpAnnounce | teLatch | teSignal | teArm | teLouvre | estimatorDiverge | opMoveDone | currentPeak | currentPeakRelease
  | droopDetect | droopRelease | thermalRead | thermalFault | thermtrip | mpLeadClaim | lbPrbsWrite | prbsCheckerLock
  | refclkSdsLoss | evictionAcknowledged | ptpSyncSend | regulatorFault | refclkSdsReturn | narrowingCompleted =>
    apply onNode_stepsIf; exact nextIf_unit ..
  -- the same, with accesses of the command's own
  | ld | st | copyStart | copyBytesLand | elemLd | elemScaleLoad | elemSt | elemStsc | tileDescFetch | kvgStart
  | hostCoreInstruction | satpWrite | cboClean | cboFlush | cboInval | cboZero | sfenceVma | glaunchFetchDone | amo
  | faultRecordWrite | fqHeadWrite | fqBaseWrite | stuMigrateWrite | migrationComplete | rocePacketReceive | roceAckReceive
  | roceSendEntry | roceCompletionWrite | dzCmdComplete | shgArmProcess | shgDelivery | shgGo | shgHoldWrite | shgShardReduced
  | shgAgLaunch | shgEnableWrite | shgDisableDone | wqSlotRead | wqRereadTimer | acceptanceWordWrite | teEntryWrite | teCut
  | teHold | mbReqWrite | mbResponse | elemCast => apply onServed_stepsIf; exact nextIf_unit ..
  -- a unit named by two numbers, each with its bound
  | roceQpDestroy | mrEntryWrite | dzCmdBaseWrite | ridgeTreeWrite | shgGroupWrite | mirrorWriteAck | mirrorLost | wqTiles
  | wqNotifyCmd | wqWait | wqSignal | wqNop | wqCommandComplete => apply onNode_stepsIf; exact nextIf_pair ..
  | roceQpLoad | roceQpStore | dzCmdPut | dzCmdGet | dzCmdMsg | completionRecordWrite =>
    apply onServed_stepsIf; exact nextIf_pair ..
  -- bundles of a bridge edge; fabric ports; meanings that choose before they answer; transports; SRAM parts
  | bundleFrameReceive | bundleNakReceive | wireTestStart | wireTestEnd => apply onNode_stepsIf; exact nextIf_bundle ..
  | dzKeepalive | keepaliveSend | neighbourLost => apply onNode_stepsIf; exact nextIf_fabricPort ..
  | dzFrameReceive | dzAck | dzNak => apply onServed_stepsIf; exact nextIf_fabricPort ..
  | scratchWindowAccess sender addr size store value => exact execScratchWindowAccess_stepsIf sender addr size store value s
  | atom => apply onNode_stepsIf; exact nextIf_ite (nextIf_next _) (nextIf_next _)
  | coroudRead src => apply onNode_stepsIf; exact nextIf_corudUnit ..
  | coroudWrite src => apply onNode_stepsIf; exact nextIf_corudUnit ..
  | sramUncorrected part => exact execSramUncorrected_stepsIf part s

/-- Settles O3: what every command does (`exec_stepsIf`), read where the units exist. -/
theorem commandCompletes : Obligations.CommandCompletes := by
  intro i s hwf
  obtain ⟨n, hn⟩ := exec_stepsIf i s
  exact ⟨n, by rw [hn, if_pos hwf]⟩

/-- Settles O4: what every command does, read both ways: a next state is no fault. -/
theorem absentUnitStops : Obligations.AbsentUnitStops := by
  intro i s
  obtain ⟨n, hn⟩ := exec_stepsIf i s
  rw [hn]
  cases i.wellFormed <;> simp

/-! ### Fields of a register -/

/-- A field of a number read after it was replaced. -/
@[simp] theorem bits_putBits (w hi lo v : Nat) : bits (putBits w hi lo v) hi lo = v % 2 ^ (hi + 1 - lo) := by
  set k := hi + 1 - lo with hk
  have hpos : 0 < 2 ^ lo := by positivity
  have hw := Nat.div_add_mod w (2 ^ lo)
  have hq := Nat.div_add_mod (w / 2 ^ lo) (2 ^ k)
  -- `w` is what lies above the field, the field, and what lies below it
  have hput : putBits w hi lo v = w % 2 ^ lo + 2 ^ lo * (2 ^ k * (w / 2 ^ lo / 2 ^ k) + v % 2 ^ k) := by
    simp only [putBits, bits, Nat.shiftRight_eq_div_pow, Nat.shiftLeft_eq, ← hk]
    have hsplit : w = w % 2 ^ lo + 2 ^ lo * (2 ^ k * (w / 2 ^ lo / 2 ^ k)) + w / 2 ^ lo % 2 ^ k * 2 ^ lo := by
      conv_lhs => rw [← hw, ← hq]
      ring
    conv_lhs => enter [1, 1]; rw [hsplit]
    rw [Nat.add_sub_cancel]
    ring
  rw [hput, bits, Nat.shiftRight_eq_div_pow, ← hk, Nat.add_mul_div_left _ _ hpos, Nat.div_eq_of_lt (Nat.mod_lt _ hpos),
    zero_add, Nat.mul_add_mod, Nat.mod_mod]

/-- Bits below a power of two do not see what is cut off above it. -/
theorem bits_mod_two_pow {hi n : Nat} (h : hi < n) (x lo : Nat) : bits (x % 2 ^ n) hi lo = bits x hi lo := by
  refine Nat.eq_of_testBit_eq fun i => ?_
  simp only [bits, Nat.testBit_mod_two_pow, Nat.testBit_shiftRight]
  by_cases hbit : i < hi + 1 - lo
  · simp [hbit, show lo + i < n by omega]
  · simp [hbit]

/-- A field of a register read after it was written. -/
theorem fGet_fSet_self (s : Node) (l : RegLoc) (f : Fld) (v : Nat) (h : f.hi < 64) :
    fGet (fSet s l f v) l f = v % 2 ^ (f.hi + 1 - f.lo) := by
  simp only [fGet, fSet, regGet_regSet_self, wbits, wput, BitVec.toNat_ofNat, bits_mod_two_pow h, bits_putBits]

theorem fGet_withResp (s : Node) (r : Resp) (l : RegLoc) (f : Fld) : fGet (withResp s r) l f = fGet s l f := rfl

/-! ### Commands whose accesses a home serves -/

/-- Whether an access is held is a matter of the directory slices alone. -/
theorem accessHeld_eq_of_dirs {s t : Node} (h : t.dirs = s.dirs) : accessHeld t = accessHeld s := by
  simp only [accessHeld, dirOf, h]

/-- Where no access is left at a home the command leaves what its meaning leads to (log entry 184). -/
theorem served_of_not_held {s t : Node} (h : accessHeld t = false) : served s t = t := by
  simp [served, h]

theorem served_of_dirs {s t : Node} (h : t.dirs = s.dirs) : served s t = t := by
  simp [served, accessHeld_eq_of_dirs h]

theorem onServed_of_next {s : State} {t : Node} {f : Node → Host.Outcome Node Fault Refusal} (hf : f s.node = .next t)
    (h : served s.node t = t) : onServed s f = .next { s with node := t } :=
  onNode_of_next (by simp only [hf, h])

/-! ### The meanings of the commands below -/

theorem exec_csrWrite_eq (src : Sender) (off size : Nat) (v : Word) (s : State) :
    exec (.csrWrite src off size v) s = execCsrWrite src off size v s := rfl

theorem exec_rcRegisterRead_eq (src : Sender) (off size : Nat) (s : State) :
    exec (.rcRegisterRead src off size) s = execRcRegisterRead src off size s := rfl

theorem exec_ownStepEnds_eq (off : Nat) (s : State) : exec (.ownStepEnds off) s = execOwnStepEnds off s := rfl

theorem exec_evictionAcknowledged_eq (d line : Nat) (s : State) :
    exec (.evictionAcknowledged d line) s = execEvictionAcknowledged d line s := rfl

theorem exec_ptpSyncSend_eq (p : Nat) (s : State) : exec (.ptpSyncSend p) s = execPtpSyncSend p s := rfl

theorem exec_sramUncorrected_eq (part : SramPart) (s : State) :
    exec (.sramUncorrected part) s = execSramUncorrected part s := rfl

theorem exec_narrowingCompleted_eq (p : Nat) (s : State) : exec (.narrowingCompleted p) s = execNarrowingCompleted p s := rfl

/-! ### Accesses to the CSR window (R19 to R23) -/

theorem exec_csrWrite {src : Sender} {off size : Nat} {v : Word} {s : State} {t : Node}
    (ht : csrWriteOp s.node src off size v = t) (h : served s.node t = t) :
    exec (.csrWrite src off size v) s = .next { s with node := t } := by
  rw [exec_csrWrite_eq]
  exact onServed_of_next (congrArg Host.Outcome.next ht) h

theorem exec_rcRegisterRead {src : Sender} {off size : Nat} {s : State} {t : Node} (ht : csrReadOp s.node src off size = t) :
    exec (.rcRegisterRead src off size) s = .next { s with node := t } := by
  rw [exec_rcRegisterRead_eq]
  exact onNode_of_next (congrArg Host.Outcome.next ht)

/-- R19: an access of another size or off its alignment is none that may be performed. -/
theorem csrAllowed_of_misaligned {off size : Nat} (h : ¬(size = 8 ∧ off % 8 = 0)) (src : Sender) :
    csrAllowed src off size = false := by
  by_cases hs : size = 8
  · simp [csrAllowed, show off % 8 ≠ 0 from fun ho => h ⟨hs, ho⟩]
  · simp [csrAllowed, hs]

section access
variable {s : Node} {src : Sender} {off size : Nat}

theorem csrWriteOp_refused (ha : csrAllowed src off size = false) (v : Word) :
    csrWriteOp s src off size v = refuseCsr s src := by
  simp [csrWriteOp, ha]

theorem csrReadOp_refused (ha : csrAllowed src off size = false) : csrReadOp s src off size = refuseCsr s src := by
  simp [csrReadOp, ha]

/-- R21: the scope of a fenced die takes no write. -/
theorem csrWriteOp_fenced (ha : csrAllowed src off size = true) (hf : csrFenced s off = true) (v : Word) :
    csrWriteOp s src off size v = withResp s .done := by
  simp [csrWriteOp, ha, hf]

/-- R21: the scope of a fenced die reads as all ones. -/
theorem csrReadOp_fenced (ha : csrAllowed src off size = true) (hf : csrFenced s off = true) :
    csrReadOp s src off size = withResp s (.data (BitVec.allOnes 64)) := by
  simp [csrReadOp, ha, hf]

theorem csrWriteOp_none (ha : csrAllowed src off size = true) (hf : csrFenced s off = false) (hn : csrFind off = none)
    (v : Word) : csrWriteOp s src off size v = withResp s .done := by
  simp [csrWriteOp, ha, hf, hn]

/-- R20, R528: outside the open debug block nothing stands where no register is found. -/
theorem csrReadOp_none (ha : csrAllowed src off size = true) (hf : csrFenced s off = false) (hn : csrFind off = none)
    (hd : off / 2 ^ 28 < 12 ∨ off / 2 ^ 20 % 256 ≠ 0xF0 ∨ debugOpen s = false) :
    csrReadOp s src off size = withResp s (.data 0) := by
  have hclosed : (decide (12 ≤ off / 2 ^ 28) && decide (off / 2 ^ 20 % 256 = 0xF0) && debugOpen s) = false := by
    rcases hd with h | h | h
    · rw [decide_eq_false (Nat.not_le.2 h), Bool.false_and, Bool.false_and]
    · rw [decide_eq_false h, Bool.and_false, Bool.false_and]
    · rw [h, Bool.and_false]
  simp only [csrReadOp, ha, hf, hn, hclosed]
  rfl

theorem csrWriteOp_some {l : RegLoc} (ha : csrAllowed src off size = true) (hf : csrFenced s off = false)
    (hl : csrFind off = some l) (v : Word) : csrWriteOp s src off size v = withResp (csrStore s src l v) .done := by
  simp [csrWriteOp, ha, hf, hl]

theorem csrReadOp_some {l : RegLoc} (ha : csrAllowed src off size = true) (hf : csrFenced s off = false)
    (hl : csrFind off = some l) : csrReadOp s src off size = withResp (clearRead s l) (.data (csrValue s src l)) := by
  simp [csrReadOp, ha, hf, hl]

end access

/-- A refusal changes the answer and a mailbox status, and no directory slice. -/
theorem refuseCsr_dirs (s : Node) (src : Sender) : (refuseCsr s src).dirs = s.dirs := by
  cases src with
  | mp n =>
    by_cases hn : n < 4
    · simp [refuseCsr, hn, fSet]
    · simp [refuseCsr, hn]
  | _ => simp [refuseCsr]

/-- The access error of a management processor's mailbox (log entry 186). -/
theorem refuseCsr_mp {s : Node} {m : Nat} (hm : m < 4) :
    refuseCsr s (.mp m) = withResp (fSet s (bLoc .mbStatus m) fMbStatusStatus 2) .mpError := by
  simp [refuseCsr, refusal, hm]

/-- Settles O11: the access is not allowed, so both commands refuse it, and a refusal leaves the directory slices alone. -/
theorem csrAccessRefused : Obligations.CsrAccessRefused := by
  intro src off size v s hmis
  have ha := csrAllowed_of_misaligned hmis src
  refine ⟨exec_csrWrite (csrWriteOp_refused ha v) (served_of_dirs (refuseCsr_dirs ..)),
    exec_rcRegisterRead (csrReadOp_refused ha), fun _ => rfl,
    fun m hm => ⟨_, refuseCsr_mp hm, by simp only [withResp, fSet, regSet], ?_⟩⟩
  rw [fGet_withResp, fGet_fSet_self _ _ _ _ (by decide)]
  decide

/-- Settles O12: where no register is found a write only answers, and a read answers zero. -/
theorem csrWithoutRegister : Obligations.CsrWithoutRegister := by
  intro src off v s ha hf hn hd
  exact ⟨exec_csrWrite (csrWriteOp_none ha hf hn v) (served_of_dirs (withResp_dirs ..)),
    exec_rcRegisterRead (csrReadOp_none ha hf hn hd)⟩

/-! ### Commands of several units -/

/-- A command of a unit the node has leads to what its meaning answers. -/
theorem onNode_unit {s : State} {n i : Nat} {f : Node → Node} {t : Node} (hi : i < n) (ht : f s.node = t) :
    onNode s (fun u => onUnit n i (f u)) = .next { s with node := t } :=
  onNode_of_next (by simp [hi, ht])

/-- The common step (R294) ends DISABLING and ENABLING of a broker, ENABLING of a tile scheduler and of a Dziger engine. -/
theorem exec_ownStepEnds {off : Nat} {l : RegLoc} {q : List Instr} {s : Node} (hl : csrFind off = some l)
    (hf : csrFenced s off = false) (hh : accessHeld (ownStepEnds s l) = false)
    (hid : l.id = .brokerCtrl ∨ (l.id = .tsCtrl ∨ l.id = .dzCtrl) ∧ ctrlState s l = stEnabling) :
    exec (.ownStepEnds off) ⟨q, s⟩ = .next ⟨q, ownStepEnds s l⟩ := by
  rw [exec_ownStepEnds_eq]
  refine onServed_of_next ?_ (served_of_not_held hh)
  rcases hid with h | ⟨h | h, he⟩
  · simp [hl, hf, h]
  · simp [hl, hf, h, he]
  · simp [hl, hf, h, he]

/-- R117: a lost line that stood dirty in a core's L2 is poisoned where its die's cache holds it. -/
theorem coreCacheLost_dirty {s : Node} {c line : Nat} (hl2 : (coreOf s c).caches.l2.any (fun p => p.1 == line) = true)
    (hst : holdSt s (c / 8) line ≠ .i) :
    coreCacheLost s c line true = modCache (coreCacheLost s c line false) (c / 8) fun x =>
      { x with lines := tblMod DcLine.absent x.lines line fun y => { y with poison := true } } := by
  simp [coreCacheLost, hl2, hst]

/-- Settles O56, a command at a time: the unit exists, and the conditions pick the branch of its meaning that acts. -/
theorem commonCommandsComplete : Obligations.CommonCommandsComplete := by
  intro q s
  refine ⟨?_, ?_, ?_, ?_, ?_, ?_, ?_, ?_, ?_, ?_, ?_, ?_, ?_⟩
  · intro off l hl hf hh hid
    exact exec_ownStepEnds hl hf hh (.inl hid)
  · intro off l hl hf hh hid he
    exact exec_ownStepEnds hl hf hh (.inr ⟨hid, he⟩)
  · intro d line hd mine t hq hn hp
    rw [exec_evictionAcknowledged_eq]
    exact onNode_unit hd (if_neg (by simp [mine, hq, hn, hp]))
  · intro p hp hlink hm
    rw [exec_ptpSyncSend_eq]
    exact onNode_unit hp (by simp [hlink, hm])
  · intro d hd hf
    simp only [exec_sramUncorrected_eq]
    have hrun : isFenced s d ≠ true := by simp [hf]
    exact ⟨onNode_unit hd (if_neg hrun), onNode_unit hd (if_neg hrun), onNode_unit hd (if_neg hrun)⟩
  · intro g c hg
    simp only [exec_sramUncorrected_eq]
    exact ⟨onNode_unit hg rfl, onNode_unit hg rfl⟩
  · intro c line hc hf t
    simp only [exec_sramUncorrected_eq]
    have hrun : isFenced s (c / 8) ≠ true := by simp [hf]
    refine ⟨onNode_unit hc (if_neg hrun), fun hl2 hst => ?_⟩
    exact onNode_unit hc ((if_neg hrun).trans (coreCacheLost_dirty hl2 hst))
  · intro line hst
    rw [exec_sramUncorrected_eq]
    exact onNode_of_next (congrArg Host.Outcome.next (if_neg hst))
  · intro b i hb
    rw [exec_sramUncorrected_eq]
    exact onNode_unit hb rfl
  · intro b hb hl
    rw [exec_sramUncorrected_eq]
    exact onNode_unit hb (if_neg (by rw [hl]; decide))
  · intro p m hp hm ho
    rw [exec_narrowingCompleted_eq]
    exact onNode_unit hp (by simp [hm, ho])
  · intro src off v l ha hf hl
    exact ⟨fun hh => exec_csrWrite (csrWriteOp_some ha hf hl v) (served_of_not_held hh),
      exec_rcRegisterRead (csrReadOp_some ha hf hl)⟩
  · intro src off v ha hf
    exact ⟨exec_csrWrite (csrWriteOp_fenced ha hf v) (served_of_dirs (withResp_dirs ..)),
      exec_rcRegisterRead (csrReadOp_fenced ha hf)⟩

end Sys2Proof.Machine
end

section
/-! Statements of 02_number_formats.md: the generator of stochastic rounding. -/

namespace Sys2Proof.Machine

/-! ### The rounding generator -/

section generator
variable {s : Nat}

/-- R46: where the bit that leaves is one, the step toggles the polynomial's mask. -/
theorem lfsrStep_of_odd (h : s % 2 = 1) : lfsrStep s = (s >>> 1) ^^^ 0x80200003 := if_pos h

/-- R46: where the bit that leaves is zero, the step only shifts. -/
theorem lfsrStep_of_even (h : s % 2 = 0) : lfsrStep s = s >>> 1 := if_neg (by omega)

/-- Neither the shift nor the mask reaches above bit 31. -/
theorem lfsrStep_lt (hs : s < 2 ^ 32) : lfsrStep s < 2 ^ 32 := by
  have hshift : s >>> 1 < 2 ^ 32 := (Nat.shiftRight_le s 1).trans_lt hs
  rcases Nat.mod_two_eq_zero_or_one s with h | h
  · rwa [lfsrStep_of_even h]
  · rw [lfsrStep_of_odd h]
    exact Nat.xor_lt_two_pow hshift (by decide)

/-- The shift leaves bit 31 clear and the mask sets it, so they never cancel. -/
theorem lfsrStep_ne_zero_of_odd (hs : s < 2 ^ 32) (h : s % 2 = 1) : lfsrStep s ≠ 0 := by
  rw [lfsrStep_of_odd h, Ne, Nat.xor_eq_zero_iff, Nat.shiftRight_eq_div_pow]
  omega

/-- An even state that shifts to zero had no bit set; an odd one never gets there. -/
theorem lfsrStep_eq_zero_iff (hs : s < 2 ^ 32) : lfsrStep s = 0 ↔ s = 0 := by
  rcases Nat.mod_two_eq_zero_or_one s with h | h
  · rw [lfsrStep_of_even h, Nat.shiftRight_eq_div_pow]
    omega
  · exact iff_of_false (lfsrStep_ne_zero_of_odd hs h) (by omega)

end generator

/-- R47: where seed and key cancel, one is loaded in place of zero. -/
theorem lfsrLoad_ne_zero (seed key : Nat) : lfsrLoad seed key ≠ 0 := by
  unfold lfsrLoad
  split
  · exact one_ne_zero
  · assumption

/-- Settles O13: by the bit that leaves, the step is a shift or a shift that the mask's bit 31 keeps from zero. -/
theorem generatorNeverZero : Obligations.GeneratorNeverZero :=
  ⟨fun _ => rfl, fun _ hs => ⟨lfsrStep_lt hs, lfsrStep_eq_zero_iff hs⟩, lfsrLoad_ne_zero⟩

end Sys2Proof.Machine
end

section
/-! Statements of 03_matrix_cells.md: issue of matrix instructions, entry into the cell queues, K-steps, copies into the
Gutter. -/

namespace Sys2Proof.Machine

/-! ### Commands of a Gable -/

/-- A command of a Gable the node has leads to what its meaning answers. -/
theorem onNode_gable {s : State} {g : Nat} {f : Node → Node} {t : Node} (hg : g < 192) (ht : f s.node = t) :
    onNode s (fun u => onGable g (f u)) = .next { s with node := t } :=
  onNode_unit hg ht

theorem exec_mma_eq (g k w : Nat) (s : State) : exec (.mma g k w) s = execMma g k w s := rfl

theorem exec_mmaSp_eq (g k w : Nat) (s : State) : exec (.mmaSp g k w) s = execMmaSp g k w s := rfl

theorem exec_mrel_eq (g k w : Nat) (s : State) : exec (.mrel g k w) s = execMrel g k w s := rfl

theorem exec_mfence_eq (g k w : Nat) (s : State) : exec (.mfence g k w) s = execMfence g k w s := rfl

theorem exec_mfenceSatisfied_eq (g k : Nat) (s : State) : exec (.mfenceSatisfied g k) s = execMfenceSatisfied g k s := rfl

theorem exec_mmaQueueEnter_eq (g k : Nat) (s : State) : exec (.mmaQueueEnter g k) s = execMmaQueueEnter g k s := rfl

theorem exec_mmaKStep_eq (g c : Nat) (s : State) : exec (.mmaKStep g c) s = execMmaKStep g c s := rfl

theorem exec_gutterCopyStart_eq (g c bank : Nat) (s : State) :
    exec (.gutterCopyStart g c bank) s = execGutterCopyStart g c bank s := rfl

theorem exec_gutterCopyDone_eq (g c : Nat) (s : State) : exec (.gutterCopyDone g c) s = execGutterCopyDone g c s := rfl

/-- STATE read as a field of GABLE_CTRL and as the state of a block's control register are one (R116). -/
theorem fGet_gableCtrlState (s : Node) (l : RegLoc) : fGet s l fGableCtrlState = ctrlState s l := rfl

/-- The class of an opcode is its upper half (R62). -/
theorem bits_63_60_eq_opcodeOf_div (w : Nat) : bits w 63 60 = opcodeOf w / 16 := by
  simp only [opcodeOf, bits, Nat.shiftRight_eq_div_pow]
  omega

/-- R24, R120: an entry is free for a part of the cell while the cell and the Gutter both have room. -/
theorem gutterFull_eq_false_iff {y : Gable} {c : Nat} :
    gutterFull y c = false ↔ entriesOf y c < 4 ∧ y.gutter.length + y.copying.length < 8 := by
  simp [gutterFull]

/-! ### Issue of a matrix instruction -/

section issue
variable {s : Node} {g k w : Nat}

theorem issue_of_groupReady (h : groupReady s g k) (f : Group → Node) : issue s g k f = f (groupOf s g k) := by
  obtain ⟨-, hcan, hredo⟩ := h
  exact if_pos (by rw [hcan, hredo]; rfl)

/-- A group that executes a matrix word passes every check before the instruction's own (R78, R79, R83, R85, R117). -/
theorem matIssue_of_mayMatrix (h : mayMatrix s g k w) (f : Group → Node) : matIssue s g k w f = f (groupOf s g k) := by
  obtain ⟨hready, hmask, hword, hquad, hreg⟩ := h
  rw [matIssue, issue_of_groupReady hready]
  have hsources : ¬((opcodeOf w = 0xD4 ∨ opcodeOf w = 0xD5) ∧ awaits (groupOf s g k) (bits w 39 32) = true) :=
    fun ⟨hop, hwait⟩ => by simp [(hreg hop).1] at hwait
  have hrange : ¬((opcodeOf w = 0xD4 ∨ opcodeOf w = 0xD5) ∧ bits w 39 32 ≥ (groupOf s g k).regs) :=
    fun ⟨hop, hge⟩ => Nat.not_lt.2 hge (hreg hop).2
  rw [if_neg hsources, if_neg fun ⟨hgang, _, hlost⟩ => hquad hgang hlost, if_neg (by simp [hmask]),
    if_neg (by simp [hword]), if_neg hrange]

/-- The same where the word's opcode is the one that the command names. -/
theorem namedMatIssue_of_mayMatrix {op : Nat} (h : mayMatrix s g k w) (hop : opcodeOf w = op) (f : Group → Node) :
    (if opcodeOf w ≠ op then s else matIssue s g k w f) = f (groupOf s g k) :=
  (if_neg (not_not.2 hop)).trans (matIssue_of_mayMatrix h f)

/-- R63 steps 1 to 3: a multiply at a good descriptor address that raises no fault waits at the queues, its claim noted in
the even Gable of the pair. -/
theorem matMultiply_of_noFault (h : mayMatrix s g k w) {off : Nat}
    (hoff : off = (readReg (groupOf s g k) (bits w 39 32) 0).toNat)
    (halign : off % 64 = 0) (hlt : off < 0x200000)
    (hfault : matFault s g k w (mmaDescOf (scratchBytes s g off 64)) (scratchBytes s g off 64) = none) :
    matMultiply s g k w =
      modGable (waitOn s g k (.matrix w (mmaDescOf (scratchBytes s g off 64)) (mClaim s g w))) (g - g % 2) fun y =>
        { y with claims := y.claims.filter (fun p => p ≠ (g, k)) ++ [(g, k)] } := by
  subst hoff
  rw [matMultiply, matIssue_of_mayMatrix h]
  dsimp only
  rw [if_neg (by omega), hfault]

end issue

/-! ### The statements -/

/-- Settles O18: the wait is an MFENCE's, and its COUNT picks between going on and waiting (R65). -/
theorem mfenceReleases : Obligations.MfenceReleases := by
  intro g k n s hg hwait hf
  rw [exec_mfenceSatisfied_eq]
  constructor
  · intro hle
    exact onNode_gable hg (by simp [hwait, hle, hf])
  · intro hlt
    exact onNode_gable hg (by simp [hwait, Nat.not_le.2 hlt])

/-- Settles O25: the group passes the checks of issue, so each instruction does what its own meaning says. -/
theorem matrixIssueCompletes : Obligations.MatrixIssueCompletes := by
  intro q s g k w hmay
  have ⟨⟨hg, _⟩, _⟩ := hmay
  refine ⟨?_, ?_, ?_⟩
  · intro off hoff halign hlt hfault t
    have ht : matMultiply s g k w = t := matMultiply_of_noFault hmay hoff halign hlt hfault
    refine ⟨fun hop => ?_, fun hop => ?_⟩
    · rw [exec_mma_eq]
      exact onNode_gable hg (by simp [bits_63_60_eq_opcodeOf_div, hop, ht])
    · rw [exec_mmaSp_eq]
      exact onNode_gable hg (by simp [hop, ht])
  · intro hop
    rw [exec_mrel_eq]
    refine ⟨fun hfree => ?_, fun hfree hbad => ?_⟩
    · exact onNode_gable hg ((namedMatIssue_of_mayMatrix hmay hop _).trans (if_pos hfree))
    · refine onNode_gable hg ((namedMatIssue_of_mayMatrix hmay hop _).trans ?_)
      exact (if_neg (by simp [hfree])).trans (if_neg (by simp [hbad]))
  · intro hop
    rw [exec_mfence_eq]
    exact onNode_gable hg (namedMatIssue_of_mayMatrix hmay hop _)

/-- Settles O26, a command at a time: the conditions pick the branch of its meaning that acts. -/
theorem matrixEventsComplete : Obligations.MatrixEventsComplete := by
  intro q s g hg hf
  refine ⟨?_, ?_, ?_, ?_⟩
  · intro k w claim d hwait hlost hroom hclaim
    rw [exec_mmaQueueEnter_eq]
    exact onNode_gable hg (by simp [hwait, hf, hlost, hroom, hclaim])
  · intro c i l h hc hqueue hrun hshape
    rw [exec_mmaKStep_eq]
    exact onNode_gable hg (by simp [hqueue, hshape, hf, fGet_gableCtrlState, hrun, hc])
  · intro c bank hc hb hfull hcell hgable hidle
    rw [exec_gutterCopyStart_eq]
    have hroom : gutterFull (gableOf s g) c = false := gutterFull_eq_false_iff.2 ⟨hcell, hgable⟩
    have hcopies : (gableOf s g).copying.any (fun e => e.cell == c) = false := by
      simpa [List.any_eq_false] using hidle
    exact onNode_gable hg (if_neg (by simp [hf, hc, hb, hfull, hroom, hcopies]))
  · intro c e hfind hrun s1
    rw [exec_gutterCopyDone_eq]
    exact onNode_gable hg (by simp [hfind, hrun, s1])

end Sys2Proof.Machine
end

section
/-! Statements of 04_gables.md: registers and counters, the instructions of a group, loads and stores, copies, the control of
a Gable, and what thread instructions and stores leave unchanged. -/

namespace Sys2Proof.Machine

/-! ### The meanings of the commands below -/

section meanings
variable (g k w : Nat) (v : Word) (s : State)

theorem exec_gableAluInstruction_eq (op : AluOp) :
    exec (.gableAluInstruction g k op) s = execGableAluInstruction g k op s := rfl
theorem exec_bnz_eq : exec (.bnz g k w) s = execBnz g k w s := rfl
theorem exec_bz_eq : exec (.bz g k w) s = execBz g k w s := rfl
theorem exec_jmp_eq : exec (.jmp g k w) s = execJmp g k w s := rfl
theorem exec_yield_eq : exec (.yield g k w) s = execYield g k w s := rfl
theorem exec_exit_eq : exec (.exit g k w) s = execExit g k w s := rfl
theorem exec_ld_eq : exec (.ld g k w) s = execLd g k w s := rfl
theorem exec_st_eq : exec (.st g k w) s = execSt g k w s := rfl
theorem exec_lds_eq : exec (.lds g k w) s = execLds g k w s := rfl
theorem exec_sts_eq : exec (.sts g k w) s = execSts g k w s := rfl
theorem exec_ldDataReturn_eq (load : Nat) : exec (.ldDataReturn g k load) s = execLdDataReturn g k load s := rfl
theorem exec_copy_eq : exec (.copy g k w) s = execCopy g k w s := rfl
theorem exec_kvg_eq : exec (.kvg g k w) s = execKvg g k w s := rfl
theorem exec_copyStart_eq : exec (.copyStart g) s = execCopyStart g s := rfl
theorem exec_kvgStart_eq : exec (.kvgStart g) s = execKvgStart g s := rfl
theorem exec_copyBytesLand_eq (id first count : Nat) :
    exec (.copyBytesLand g id first count) s = execCopyBytesLand g id first count s := rfl
theorem exec_cntset_eq : exec (.cntset g k w) s = execCntset g k w s := rfl
theorem exec_cntadd_eq : exec (.cntadd g k w) s = execCntadd g k w s := rfl
theorem exec_waitcnt_eq : exec (.waitcnt g k w) s = execWaitcnt g k w s := rfl
theorem exec_waitcntSatisfied_eq : exec (.waitcntSatisfied g k) s = execWaitcntSatisfied g k s := rfl
theorem exec_erkey_eq : exec (.erkey g k w) s = execErkey g k w s := rfl
theorem exec_tdarg_eq : exec (.tdarg g k w) s = execTdarg g k w s := rfl
theorem exec_epld_eq : exec (.epld g k w) s = execEpld g k w s := rfl
theorem exec_amo_eq : exec (.amo g k w) s = execAmo g k w s := rfl
theorem exec_gableFence_eq : exec (.gableFence g k w) s = execGableFence g k w s := rfl
theorem exec_arrivalCntWrite_eq (c : Nat) : exec (.arrivalCntWrite g c v) s = execArrivalCntWrite g c v s := rfl
theorem exec_depCntWrite_eq (i : Nat) : exec (.depCntWrite i v) s = execDepCntWrite i v s := rfl
theorem exec_groupStall_eq : exec (.groupStall g k) s = execGroupStall g k s := rfl
theorem exec_groupResume_eq : exec (.groupResume g k) s = execGroupResume g k s := rfl
theorem exec_groupKill_eq : exec (.groupKill g k) s = execGroupKill g k s := rfl
theorem exec_groupLaunch_eq : exec (.groupLaunch g) s = execGroupLaunch g s := rfl
theorem exec_gableEnableWrite_eq : exec (.gableEnableWrite g v) s = execGableEnableWrite g v s := rfl
theorem exec_gableEnableDone_eq : exec (.gableEnableDone g) s = execGableEnableDone g s := rfl
theorem exec_gableDisableDone_eq : exec (.gableDisableDone g) s = execGableDisableDone g s := rfl
theorem exec_gableSramUncorrected_eq : exec (.gableSramUncorrected g) s = execGableSramUncorrected g s := rfl
theorem exec_scratchWindowAccess_eq (src : Sender) (addr size : Nat) (store : Bool) :
    exec (.scratchWindowAccess src addr size store v) s = execScratchWindowAccess src addr size store v s := rfl

end meanings

/-! ### Registers of a lane (R83) -/

theorem readReg_zero (x : Group) (lane : Nat) : readReg x 0 lane = 0 := rfl

theorem writeReg_zero (x : Group) (lane : Nat) (v : Half) : writeReg x 0 lane v = x := rfl

theorem readReg_writeReg_self {r : Nat} (hr : r ≠ 0) (x : Group) (lane : Nat) (v : Half) :
    readReg (writeReg x r lane v) r lane = v := by
  simp [readReg, writeReg, hr]

/-- Registers lie 32 lanes apart, so two places of the file meet only where register and lane are the same. -/
theorem readReg_writeReg_ne {r lane r' lane' : Nat} (hl : lane < 32) (hl' : lane' < 32) (h : r' ≠ r ∨ lane' ≠ lane)
    (x : Group) (v : Half) : readReg (writeReg x r lane v) r' lane' = readReg x r' lane' := by
  by_cases hr : r = 0
  · rw [hr, writeReg_zero]
  · have hkey : r * 32 + lane ≠ r' * 32 + lane' := by omega
    simp [readReg, writeReg, hr, tblGet_tblSet_ne hkey]

/-- Settles O15: a write either is discarded or sets one place of the register file. -/
theorem zeroRegister : Obligations.ZeroRegister := by
  intro x r lane v hl
  exact ⟨writeReg_zero .., readReg_zero .., fun hr => readReg_writeReg_self hr ..,
    fun _ _ hl' h => readReg_writeReg_ne hl hl' h ..⟩

/-! ### Arrival and dependency counters (R111, R168) -/

theorem fGet_fSet_ne {l m : RegLoc} (h : regKey l ≠ regKey m) (s : Node) (f f' : Fld) (v : Nat) :
    fGet (fSet s l f v) m f' = fGet s m f' := by
  rw [fGet, fSet, regGet_regSet_ne h, fGet]

/-- The low 32 bits of a word are less than 2³² already. -/
theorem wbits_31_0_mod (v : Word) : wbits v 31 0 % 2 ^ 32 = wbits v 31 0 := Nat.mod_mod _ _

theorem regKey_arrivalCnt (g c : Nat) :
    regKey (gLoc .arrivalCnt g [c]) = g / 16 * 2 ^ 28 + (1 + g % 16) * 2 ^ 20 + 0xC00 + (c * 8 + 0) := rfl

theorem regKey_depLoc (i : Nat) :
    regKey (depLoc i) = (12 + i / 256 % 4) * 2 ^ 28 + (0x13 + 0) * 2 ^ 20 + 0x6000 + (i % 256 * 8 + 0) := rfl

theorem arrival_setArrival_self (s : Node) (g c v : Nat) : arrival (setArrival s g c v) g c = v % 2 ^ 32 := by
  rw [arrival, setArrival, fGet_fSet_self _ _ _ _ (by decide)]
  exact Nat.mod_mod _ _

theorem arrival_setArrival_ne {g c h i : Nat} (hc : c < 64) (hi : i < 64) (hne : ¬(h = g ∧ i = c)) (s : Node) (v : Nat) :
    arrival (setArrival s g c v) h i = arrival s h i := by
  refine fGet_fSet_ne ?_ ..
  rw [regKey_arrivalCnt, regKey_arrivalCnt]
  omega

theorem depCnt_fSet_ne {i j : Nat} (hi : i < 1024) (hj : j < 1024) (hne : j ≠ i) (s : Node) (v : Nat) :
    fGet (fSet s (depLoc i) fDepCntValue v) (depLoc j) fDepCntValue = fGet s (depLoc j) fDepCntValue := by
  refine fGet_fSet_ne ?_ ..
  rw [regKey_depLoc, regKey_depLoc]
  omega

theorem exec_arrivalCntWrite {q : List Instr} {s : Node} {g c : Nat} (hg : g < 192) (hc : c < 64)
    (hf : isFenced s (g / 16) = false) (v : Word) :
    exec (.arrivalCntWrite g c v) ⟨q, s⟩ = .next ⟨q, withResp (setArrival s g c (wbits v 31 0)) .done⟩ := by
  rw [exec_arrivalCntWrite_eq]
  exact onNode_gable hg (by simp [hf, hc])

theorem exec_depCntWrite {q : List Instr} {s : Node} {i : Nat} (hi : i < 1024) (v : Word) :
    exec (.depCntWrite i v) ⟨q, s⟩ = .next ⟨q, withResp (fSet s (depLoc i) fDepCntValue (wbits v 31 0)) .done⟩ := by
  rw [exec_depCntWrite_eq]
  exact onNode_unit hi rfl

/-- An answer leaves every register alone. -/
theorem arrival_withResp (s : Node) (r : Resp) (g c : Nat) : arrival (withResp s r) g c = arrival s g c := rfl

/-- Settles O19: each write sets one field of one register, and no two counters share a register. -/
theorem counterWrites : Obligations.CounterWrites := by
  intro q s v
  refine ⟨fun g c hg hc hf => ⟨_, exec_arrivalCntWrite hg hc hf v, ?_, ?_, fun c' hc' hne => ?_⟩,
    fun i hi => ⟨_, exec_depCntWrite hi v, ?_, ?_, fun j hj hne => ?_⟩⟩
  · simp only [withResp, setArrival, fSet, regSet]
  · rw [arrival_withResp, arrival_setArrival_self, wbits_31_0_mod]
  · rw [arrival_withResp, arrival_setArrival_ne hc hc' fun h => hne h.2]
  · rw [fGet_withResp, fGet_fSet_self _ _ _ _ (by decide)]
    exact wbits_31_0_mod v
  · simp only [withResp, fSet, regSet]
  · rw [fGet_withResp, depCnt_fSet_ne hi hj hne]

/-! ### Scratch (R102) -/

@[simp] theorem length_leBytes (n v : Nat) : (leBytes n v).length = n := by
  induction n generalizing v with
  | zero => rfl
  | succ n ih => rw [leBytes, List.length_cons, ih]

/-- R4: the low bytes of a value read back as the value cut to their width. -/
theorem leValue_leBytes (n v : Nat) : leValue (leBytes n v) = v % 2 ^ (8 * n) := by
  induction n generalizing v with
  | zero => simp [leBytes, leValue, Nat.mod_one]
  | succ n ih =>
    have hpow : 2 ^ (8 * (n + 1)) = 256 * 2 ^ (8 * n) := by rw [Nat.mul_succ, pow_add, mul_comm]; norm_num
    rw [leBytes, leValue, ih, hpow, Nat.mod_mul, BitVec.toNat_ofNat, Nat.mod_mod_of_dvd _ (by decide)]

/-- Bytes written to scratch leave every place alone that none of them takes; offsets go round at 2 MiB. -/
theorem tblGet_scratchPuts_out {b : Nat} {l : List Byte} :
    ∀ {t : Tbl Byte} {a : Nat}, (∀ i < l.length, (a + i) % 0x200000 ≠ b) →
      tblGet 0 (scratchPuts t a l) b = tblGet 0 t b := by
  induction l with
  | nil => exact fun _ => rfl
  | cons v l ih =>
    intro t a h
    rw [scratchPuts, ih fun i hi => ?_, tblGet_tblSet_ne (by simpa using h 0 (by simp))]
    have := h (i + 1) (by simpa using hi)
    rwa [show a + 1 + i = a + (i + 1) by omega]

theorem tblGet_scratchPuts_in {l : List Byte} (hlen : l.length ≤ 0x200000) :
    ∀ {t : Tbl Byte} {a i : Nat} (hi : i < l.length), tblGet 0 (scratchPuts t a l) ((a + i) % 0x200000) = l[i] := by
  induction l with
  | nil => exact fun hi => absurd hi (by simp)
  | cons v l ih =>
    intro t a i hi
    rw [List.length_cons] at hlen hi
    cases i with
    | zero =>
      -- no later byte comes round to the first one's place
      rw [scratchPuts, tblGet_scratchPuts_out fun j hj => by omega]
      exact tblGet_tblSet_self ..
    | succ i =>
      rw [scratchPuts, show a + (i + 1) = a + 1 + i by omega, ih (by omega) (by omega)]
      rfl

/-- Bytes written to scratch are read back. -/
theorem scratchBytes_scratchWrite_self {l : List Byte} (hlen : l.length ≤ 0x200000) (s : Node) (g off : Nat) :
    scratchBytes (scratchWrite s g off l) g off l.length = l := by
  refine List.ext_getElem (by simp [scratchBytes]) fun i _ hi => ?_
  simp only [scratchBytes, scratchByte, scratchWrite, List.getElem_map, List.getElem_range, gableOf_modGable_self]
  exact tblGet_scratchPuts_in hlen hi

theorem scratchLE_scratchWrite_leBytes {n : Nat} (hn : n ≤ 0x200000) (s : Node) (g off v : Nat) :
    scratchLE (scratchWrite s g off (leBytes n v)) g off n = v % 2 ^ (8 * n) := by
  have h := scratchBytes_scratchWrite_self (l := leBytes n v) (by simpa using hn) s g off
  rw [length_leBytes] at h
  rw [scratchLE, h, leValue_leBytes]

theorem gableOf_withResp (s : Node) (r : Resp) (g : Nat) : gableOf (withResp s r) g = gableOf s g := rfl

theorem scratchLE_withResp (s : Node) (r : Resp) (g off n : Nat) :
    scratchLE (withResp s r) g off n = scratchLE s g off n := rfl

section window
variable {q : List Instr} {s : Node} {addr size g off : Nat}

/-- R102: no access of a size that R102 names, on its alignment, to the window of a Gable whose die is not fenced, is
refused. -/
theorem scratchWindow_allowed (hsize : size ∈ [1, 2, 4, 8]) (halign : addr % size = 0) (hf : isFenced s (g / 16) = false) :
    ¬([1, 2, 4, 8].contains size = false ∨ addr % size ≠ 0 ∨ isFenced s (g / 16) = true) := by
  have hc : [1, 2, 4, 8].contains size = true := List.contains_iff_mem.2 hsize
  rw [hc, halign, hf]
  simp

theorem exec_scratchWindowAccess_store (hpa : paKind s addr = .scratch g off) (hsize : size ∈ [1, 2, 4, 8])
    (halign : addr % size = 0) (hf : isFenced s (g / 16) = false) (src : Sender) (v : Word) :
    exec (.scratchWindowAccess src addr size true v) ⟨q, s⟩ =
      .next ⟨q, withResp (scratchWrite s g off (leBytes size v.toNat)) .done⟩ := by
  rw [exec_scratchWindowAccess_eq]
  exact onNode_of_next (by simp only [hpa, if_neg (scratchWindow_allowed hsize halign hf)]; rfl)

theorem exec_scratchWindowAccess_load (hpa : paKind s addr = .scratch g off) (hsize : size ∈ [1, 2, 4, 8])
    (halign : addr % size = 0) (hf : isFenced s (g / 16) = false) (src : Sender) (v : Word) :
    exec (.scratchWindowAccess src addr size false v) ⟨q, s⟩ =
      .next ⟨q, withResp s (.data (BitVec.ofNat 64 (scratchLE s g off size)))⟩ := by
  rw [exec_scratchWindowAccess_eq]
  exact onNode_of_next (by simp only [hpa, if_neg (scratchWindow_allowed hsize halign hf)]; rfl)

theorem exec_scratchWindowAccess_refused (hpa : paKind s addr = .scratch g off)
    (hbad : size ∉ [1, 2, 4, 8] ∨ addr % size ≠ 0 ∨ isFenced s (g / 16) = true) (src : Sender) (store : Bool)
    (v : Word) :
    exec (.scratchWindowAccess src addr size store v) ⟨q, s⟩ = .next ⟨q, withResp s (refusal src)⟩ := by
  have hno : [1, 2, 4, 8].contains size = false ∨ addr % size ≠ 0 ∨ isFenced s (g / 16) = true :=
    hbad.imp_left fun h => by simpa using h
  rw [exec_scratchWindowAccess_eq]
  exact onNode_of_next (by simp only [hpa, if_pos hno])

end window

/-- Settles O20: a store writes the bytes that a load of the same window reads, and only scratch and the answer change. -/
theorem scratchWindow : Obligations.ScratchWindow := by
  intro q s src addr size g off v hpa
  refine ⟨fun hsize halign hf => ?_, fun hbad store => exec_scratchWindowAccess_refused hpa hbad src store v⟩
  have hle : size ≤ 0x200000 := by
    have : ∀ n ∈ [1, 2, 4, 8], n ≤ 0x200000 := by decide
    exact this size hsize
  refine ⟨_, exec_scratchWindowAccess_store hpa hsize halign hf src v, ?_, fun g' hne => ?_, ?_⟩
  · simp only [withResp, scratchWrite, modGable]
  · rw [gableOf_withResp, scratchWrite, gableOf_modGable_ne (Ne.symm hne)]
  · -- what the store leaves is decoded as before: it changes no register
    have hpa' : paKind (withResp (scratchWrite s g off (leBytes size v.toNat)) .done) addr = .scratch g off := hpa
    have hf' : isFenced (withResp (scratchWrite s g off (leBytes size v.toNat)) .done) (g / 16) = false := hf
    rw [exec_scratchWindowAccess_load hpa' hsize halign hf', scratchLE_withResp, scratchLE_scratchWrite_leBytes hle]
    rfl

/-! ### Issue of a thread instruction (R83, R85, R115) -/

section word
variable {s : Node} {g k op w : Nat} {legal : Bool} {regs srcs : List Nat}

/-- Issue of a word of the command's opcode by a group that may issue: its operands, its encoding and its registers are
checked, in that order. -/
theorem issueWord_of_groupReady (h : groupReady s g k) (hop : opcodeOf w = op) (f : Node → Group → Node) :
    issueWord s g k op w legal regs srcs f =
      if srcs.any (awaits (groupOf s g k)) then waitOn s g k .operands
      else if !legal then stopGroup s g k eIllegal
      else if !regsOk (groupOf s g k) regs then stopGroup s g k eRegRange
      else f (countBanks s g k srcs) (groupOf s g k) := by
  rw [issueWord, if_neg (not_not.2 hop), issue_of_groupReady h]

/-- R83: a register at or above REGS stops the group. -/
theorem issueWord_regRange (h : groupReady s g k) (hop : opcodeOf w = op) (hlegal : legal = true)
    (hsrcs : srcs.any (awaits (groupOf s g k)) = false) (hregs : regsOk (groupOf s g k) regs = false)
    (f : Node → Group → Node) : issueWord s g k op w legal regs srcs f = stopGroup s g k eRegRange := by
  rw [issueWord_of_groupReady h hop, hsrcs, hlegal, hregs]
  rfl

/-- An instruction that passes every check is performed, its bank conflicts counted. -/
theorem issueWord_of_mayIssue (h : mayIssue s g k op w legal regs srcs) (f : Node → Group → Node) :
    issueWord s g k op w legal regs srcs f = f (countBanks s g k srcs) (groupOf s g k) := by
  obtain ⟨hready, hop, hlegal, hsrcs, hregs⟩ := h
  rw [issueWord_of_groupReady hready hop, hsrcs, hlegal, hregs]
  rfl

theorem onNode_word {q : List Instr} {t : Node} {f : Node → Group → Node} (h : mayIssue s g k op w legal regs srcs)
    (ht : f (countBanks s g k srcs) (groupOf s g k) = t) :
    onNode ⟨q, s⟩ (fun u => onGable g (issueWord u g k op w legal regs srcs f)) = .next ⟨q, t⟩ := by
  have ⟨⟨hg, _⟩, _⟩ := h
  exact onNode_gable hg ((issueWord_of_mayIssue h f).trans ht)

/-- A register that exists, alone. -/
theorem regsOk_singleton {x : Group} {r : Nat} : regsOk x [r] = decide (r < x.regs) := by simp [regsOk]

theorem any_awaits_singleton {x : Group} {r : Nat} : [r].any (awaits x) = awaits x r := by simp

end word

/-- Settles O16: RS passes the checks of issue, so the counter is set to its value, which 32 bits hold. -/
theorem cntsetSetsCounter : Obligations.CntsetSetsCounter := by
  intro g k w s hready hop hlegal hwait hreg v u
  have hmay : mayIssue s.node g k 0xCD w (cntLegal w) [bits w 39 32] [bits w 39 32] :=
    ⟨hready, hop, hlegal, any_awaits_singleton.trans hwait, regsOk_singleton.trans (decide_eq_true hreg)⟩
  refine ⟨?_, ?_⟩
  · rw [exec_cntset_eq]
    exact onNode_word hmay rfl
  · rw [arrival_setArrival_self]
    exact Nat.mod_eq_of_lt (BitVec.isLt _)

/-- Settles O17: the check of the register numbers fails, after those that come before it. -/
theorem registerRange : Obligations.RegisterRange := by
  intro g k w s hready
  have ⟨hg, _⟩ := hready
  have hregs : ∀ {r}, (groupOf s.node g k).regs ≤ r → regsOk (groupOf s.node g k) [r] = false :=
    fun hle => regsOk_singleton.trans (decide_eq_false (Nat.not_lt.2 hle))
  refine ⟨fun hop hlegal hwait hle => ?_, fun hop hhigh hlow hwait hle => ?_, fun hop hhigh hlow hle => ?_⟩
  · rw [exec_cntset_eq]
    exact onNode_gable hg (issueWord_regRange hready hop hlegal (any_awaits_singleton.trans hwait) (hregs hle) _)
  · rw [exec_erkey_eq]
    exact onNode_gable hg
      (issueWord_regRange hready hop (by simp [hhigh, hlow]) (any_awaits_singleton.trans hwait) (hregs hle) _)
  · rw [exec_tdarg_eq]
    exact onNode_gable hg (issueWord_regRange hready hop (by simp [hhigh, hlow]) rfl (hregs hle) _)

/-! ### Completion of the instructions of a group -/

/-- Settles O27: an instruction that passes the checks of issue does what its own meaning says. -/
theorem groupFlowCompletes : Obligations.GroupFlowCompletes := by
  intro q s g k w
  refine ⟨?_, ?_, ?_, ?_, ?_, ?_⟩
  · intro op regs hready hnames hsrcs hregs
    have ⟨hg, _⟩ := hready
    rw [exec_gableAluInstruction_eq]
    refine onNode_gable hg ?_
    rw [issue_of_groupReady hready, hnames]
    simp only [hsrcs, hregs]
    rfl
  · intro h
    rw [exec_bnz_eq]
    exact onNode_word h rfl
  · intro h
    rw [exec_bz_eq]
    exact onNode_word h rfl
  · intro h
    rw [exec_jmp_eq]
    exact onNode_word h rfl
  · intro h
    rw [exec_yield_eq]
    exact onNode_word h rfl
  · intro h
    rw [exec_exit_eq]
    exact onNode_word h rfl

/-- A command with accesses of its own, of a Gable the node has, none of whose accesses is left at a home (log entry 184). -/
theorem onServed_gable {q : List Instr} {s t : Node} {g : Nat} {f : Node → Node} (hg : g < 192) (ht : f s = t)
    (hheld : accessHeld t = false) : onServed ⟨q, s⟩ (fun u => onGable g (f u)) = .next ⟨q, t⟩ :=
  onServed_of_next (onGable_eq_next.2 ⟨hg, ht⟩) (served_of_not_held hheld)

theorem onServed_word {q : List Instr} {s t : Node} {g k op w : Nat} {legal : Bool} {regs srcs : List Nat}
    {f : Node → Group → Node} (h : mayIssue s g k op w legal regs srcs)
    (ht : f (countBanks s g k srcs) (groupOf s g k) = t) (hheld : accessHeld t = false) :
    onServed ⟨q, s⟩ (fun u => onGable g (issueWord u g k op w legal regs srcs f)) = .next ⟨q, t⟩ := by
  have ⟨⟨hg, _⟩, _⟩ := h
  exact onServed_gable hg ((issueWord_of_mayIssue h f).trans ht) hheld

/-- R337: no answer of a load is a failure where every one is good. -/
theorem find?_failed_eq_none {l : List RemoteReq} (h : l.all (fun r => (r.result.map (·.1)) == some 0) = true) :
    l.find? (fun r => (r.result.map (·.1)).getD 0 ≠ 0) = none := by
  rw [List.find?_eq_none]
  intro r hr
  have hgood := List.all_eq_true.1 h r hr
  simp [beq_iff_eq.1 hgood]

/-- Settles O28: an instruction that passes the checks of issue does what its own meaning says; a load that is due has
neither a failed answer nor poison to stop it. -/
theorem threadMemoryCompletes : Obligations.ThreadMemoryCompletes := by
  intro q s g k w
  refine ⟨?_, ?_, ?_, ?_, ?_⟩
  · intro h t hheld
    have ⟨⟨hg, _, hredo⟩, _⟩ := h
    rw [exec_ld_eq]
    refine onServed_gable hg ?_ hheld
    exact (if_pos (by rw [hredo]; rfl)).trans (issueWord_of_mayIssue h _)
  · intro h t hheld
    rw [exec_st_eq]
    exact onServed_word h rfl hheld
  · intro h x u n as hfault
    rw [exec_lds_eq]
    exact onNode_word h (by dsimp only; rw [hfault])
  · intro h x u n as hfault
    rw [exec_sts_eq]
    exact onNode_word h (by dsimp only; rw [hfault])
  · intro load ld hg hfind hdue hgood hpoison
    rw [exec_ldDataReturn_eq]
    refine onNode_gable hg ?_
    simp only [hfind, hdue, find?_failed_eq_none hgood, hpoison]
    rfl

/-- Settles O29: a descriptor without a fault is queued where there is room, and the job at the front starts or lands. -/
theorem copyCompletes : Obligations.CopyCompletes := by
  intro q s g k w
  refine ⟨?_, ?_, ?_, ?_, ?_⟩
  · intro h u off l hhigh hend hfault hroom
    rw [exec_copy_eq]
    have hrange : ¬(bits off 31 21 ≠ 0 ∨ bits off 20 0 + 128 > 0x200000) := by omega
    refine onNode_word h ((if_neg hrange).trans ?_)
    rw [hfault]
    exact if_neg (Nat.not_le.2 hroom)
  · intro h u off l hhigh hfault hroom
    rw [exec_kvg_eq]
    refine onNode_word h ((if_neg (not_not.2 hhigh)).trans ?_)
    rw [hfault]
    exact if_neg (Nat.not_le.2 hroom)
  · intro c d hg hnext hjob hheld
    rw [exec_copyStart_eq]
    exact onServed_gable hg (by simp only [hnext, hjob]) hheld
  · intro c d hg hnext hjob hheld
    rw [exec_kvgStart_eq]
    exact onServed_gable hg (by simp only [hnext, hjob]) hheld
  · intro id first count c s1 left hg hfind hstarted hfseq hland t hheld
    rw [exec_copyBytesLand_eq]
    refine onServed_gable hg ?_ hheld
    simp only [hfind, hstarted, hfseq, hland]
    rfl

/-- Settles O30: an instruction that passes the checks of issue does what its own meaning says, and its conditions pick the
branch that acts. -/
theorem threadCountersComplete : Obligations.ThreadCountersComplete := by
  intro q s g k w
  refine ⟨?_, ?_, ?_, ?_, ?_, ?_, ?_, ?_⟩
  · intro h
    rw [exec_cntadd_eq]
    exact onNode_word h rfl
  · intro h u target
    rw [exec_waitcnt_eq]
    refine ⟨fun hreached hbehind => onNode_word h ?_, fun hshort hturn => onNode_word h ?_⟩
    · refine if_pos ?_
      cases hconsume : bit w 48 with
      | false => simp [u, target, hreached]
      | true => simp [u, target, hreached, hbehind hconsume]
    · dsimp only
      rw [hshort, hturn]
      rfl
  · intro cnt target consume hg hwait hreached hbehind
    rw [exec_waitcntSatisfied_eq]
    refine onNode_gable hg ?_
    cases consume with
    | false => simp [hwait, hreached]
    | true => simp [hwait, hreached, hbehind rfl]
  · intro h
    rw [exec_erkey_eq]
    exact onNode_word h rfl
  · intro h
    rw [exec_tdarg_eq]
    exact onNode_word h rfl
  · intro h u a halign hhigh hend hrun
    rw [exec_epld_eq]
    have hrange : ¬(a % 128 ≠ 0 ∨ bits a 31 22 ≠ 0 ∨ bits a 20 0 + 640 > 0x200000) := by omega
    exact onNode_word h ((if_neg hrange).trans (if_neg fun hlost => hrun hlost.2))
  · intro h t hheld
    rw [exec_amo_eq]
    exact onServed_word h rfl hheld
  · intro h hbad hloads hdone
    rw [exec_gableFence_eq]
    refine onNode_word h ?_
    rw [if_pos hloads, if_neg (not_not.2 hbad), if_pos hdone, ite_self]

/-! ### The control of a Gable (R114 to R117) -/

/-- STATE read after it was set (R116). -/
theorem ctrlState_setCtrlState_self (s : Node) (l : RegLoc) (v : Nat) : ctrlState (setCtrlState s l v) l = v % 8 :=
  fGet_fSet_self s l fGableCtrlState v (by decide)

/-- R294: ENABLING ends in ON where no disable is pending. -/
theorem ownStepEnds_of_enabling {s : Node} {l : RegLoc} (h : ctrlState s l = stEnabling)
    (hp : s.pendDisable.contains (regKey l) = false) : ownStepEnds s l = setCtrlState s l stOn := by
  rw [ownStepEnds, h, hp]
  rfl

/-- R294: DISABLING ends in OFF. -/
theorem ownStepEnds_of_disabling {s : Node} {l : RegLoc} (h : ctrlState s l = stDisabling) :
    ownStepEnds s l = setCtrlState s l stOff := by
  rw [ownStepEnds, h]
  rfl

/-- A Gable that enters another state than DISABLING keeps its queue. -/
theorem afterCtrl_of_not_disabling {old new : Node} {g : Nat} (h : ctrlState new (gLoc .gableCtrl g) ≠ stDisabling) :
    afterCtrl old new g = new := if_neg fun hd => h hd.2

section stall
variable {s : Node} {g k : Nat}

theorem stopAtBoundary_of_running {code : Nat} (h : (groupOf s g k).phase = .running ∨ (groupOf s g k).phase = .waiting) :
    stopAtBoundary s g k (groupOf s g k).order code = stopGroup s g k code := if_pos ⟨rfl, h⟩

theorem stopAtBoundary_of_translation {code : Nat} (h : (groupOf s g k).phase = .translation) :
    stopAtBoundary s g k (groupOf s g k).order code =
      modGroup s g k fun y => { y with stopNext := y.stopNext ++ [code] } := by
  simp [stopAtBoundary, h]

/-- R94: a divergent group whose watchdog has run out is stopped at its boundary. -/
theorem exec_groupStall {q : List Instr} {e : Nat} (hg : g < 192) (he : e = fGet s (gLoc .gableCtrl g) fGableCtrlWdExp)
    (hon : e ≠ 0) (hwatch : 2 ^ max 16 e ≤ (groupOf s g k).watch) (hpaths : 2 ≤ (groupOf s g k).paths.length)
    (hnew : (groupOf s g k).stopNext.contains eStall = false) (hphase : (groupOf s g k).phase ≠ .stopped) :
    exec (.groupStall g k) ⟨q, s⟩ = .next ⟨q, stopAtBoundary s g k (groupOf s g k).order eStall⟩ := by
  subst he
  have hperiod : watchPeriod s g = some (2 ^ max 16 (fGet s (gLoc .gableCtrl g) fGableCtrlWdExp)) := if_neg hon
  rw [exec_groupStall_eq]
  refine onNode_gable hg (if_pos ?_)
  rw [hnew, hperiod]
  simp [watched, hpaths, hphase, hwatch]

end stall

/-- Settles O31, a command at a time: the Gable exists and is in service, and the conditions pick the branch that acts. -/
theorem gableControlCompletes : Obligations.GableControlCompletes := by
  intro q s g k hg hf
  refine ⟨?_, ?_, ?_, ?_, ?_, ?_, ?_, ?_, ?_, ?_⟩
  · intro e he hon hwatch hpaths hnew
    refine ⟨fun hphase => ?_, fun hphase => ?_⟩
    · have hrun : (groupOf s g k).phase ≠ .stopped := by rcases hphase with h | h <;> simp [h]
      rw [exec_groupStall hg he hon hwatch hpaths hnew hrun, stopAtBoundary_of_running hphase]
    · rw [exec_groupStall hg he hon hwatch hpaths hnew (by simp [hphase]), stopAtBoundary_of_translation hphase]
  · intro hphase
    rw [exec_groupResume_eq]
    exact onNode_gable hg (if_pos (by simp [hf, hphase]))
  · intro hlive hends
    rw [exec_groupKill_eq]
    refine onNode_gable hg ((if_neg (by simp [hf, hlive, hends])).trans ?_)
    split <;> rfl
  · intro v
    rw [exec_gableEnableWrite_eq]
    exact onNode_gable hg (if_neg (by simp [hf]))
  · intro c v hc
    exact exec_arrivalCntWrite hg hc hf v
  · intro src addr size off v hpa hsize halign
    exact ⟨exec_scratchWindowAccess_store hpa hsize halign hf src v,
      exec_scratchWindowAccess_load hpa hsize halign hf src v⟩
  · intro hst hdrained
    rw [exec_gableDisableDone_eq]
    exact onNode_gable hg ((if_pos ⟨.inl hst, hdrained, hf⟩).trans (ownStepEnds_of_disabling hst))
  · intro hst hpend
    rw [exec_gableEnableDone_eq]
    refine onNode_gable hg ((if_pos ⟨hst, hf⟩).trans ?_)
    rw [ownStepEnds_of_enabling hst hpend]
    refine afterCtrl_of_not_disabling ?_
    rw [ctrlState_setCtrlState_self]
    decide
  · rw [exec_gableSramUncorrected_eq]
    exact onNode_gable hg (if_neg (by simp [hf]))
  · intro l ws hlaunch hblock hadmit p
    rw [exec_groupLaunch_eq]
    refine onNode_gable hg ?_
    simp only [hlaunch, hblock, if_pos hadmit]
    rfl

/-! ### What a read of memory rests on (R205, R209, R252, R253, R256) -/

theorem tblGet_tblMod {α : Type} [DecidableEq α] (d : α) (t : Tbl α) (k j : Nat) (f : α → α) :
    tblGet d (tblMod d t k f) j = if k = j then f (tblGet d t k) else tblGet d t j := tblGet_tblSet ..

/-- A line in M, O or E is supplied by the die cache that holds it (R209). -/
def ownerSt (st : Moesi) : Bool := decide (st = .m) || decide (st = .o) || decide (st = .e)

/-- A die cache's copy of a line: the cache's, or the one in its writeback buffer (R214). -/
def DieCache.copyOf (c : DieCache) (line : Nat) : DcLine :=
  if (tblGet DcLine.absent c.lines line).st ≠ .i then tblGet DcLine.absent c.lines line
  else (c.evicting.find? fun p => p.1 == line).elim DcLine.absent (·.2)

theorem supplier_eq (s : Node) (line : Nat) :
    supplier s line = firstBelow 12 fun d => ownerSt ((dieOf s d).cache.copyOf line).st := rfl

/-- The copy's state is that of the cache's entry, or of the writeback buffer's. -/
theorem copyOf_st_congr {c c' : DieCache} {line : Nat}
    (hst : (tblGet DcLine.absent c'.lines line).st = (tblGet DcLine.absent c.lines line).st)
    (hev : c'.evicting = c.evicting) : (c'.copyOf line).st = (c.copyOf line).st := by
  simp only [DieCache.copyOf, hst, hev]
  split
  · exact hst
  · rfl

theorem lt_of_firstBelow {n i : Nat} {p : Nat → Bool} (h : firstBelow n p = some i) : i < n :=
  List.mem_range.1 (List.mem_of_find?_eq_some h)

/-- Only the twelve die caches and the near-memory cache hold copies, so what the home supplies is current where
theirs are. -/
theorem homeAlt_eq_nil {s : Node} {line : Nat} (h : ∀ w < 13, tblGet [] s.stale (copyKey line w) = []) :
    homeAlt s line = [] := by
  unfold homeAlt memAlt
  split
  case h_1 d hd => exact h d (by have := lt_of_firstBelow hd; omega)
  case h_2 =>
    split
    · exact h 12 (by decide)
    · rfl

theorem homeAlt_of_stale_nil {s : Node} (h : s.stale = []) (line : Nat) : homeAlt s line = [] :=
  homeAlt_eq_nil fun _ _ => by rw [h]; rfl

/-- A byte comes from the copy that the home supplies where that differs from the contents, else from the contents. -/
theorem heldByte_eq (s : Node) (a : Nat) : heldByte s a =
    if homeAlt s (lineOf a) = [] then tblGet memDefault s.mem a else (homeAlt s (lineOf a)).getD (a % lineBytes) 0 := by
  unfold heldByte
  split
  case h_1 hs => rw [if_pos (homeAlt_of_stale_nil hs _)]
  case h_2 =>
    split
    case h_1 ha => rw [if_pos ha]
    case h_2 l hne => rw [if_neg hne]

/-- Every byte of `t` reads as in `s`, by what reads rest on. -/
structure SameReads (s t : Node) : Prop where
  mem : t.mem = s.mem
  alt : ∀ line, homeAlt t line = homeAlt s line
  junk : t.ctl.test.junk = s.ctl.test.junk
  leds : t.leds = s.leds

theorem SameReads.refl (s : Node) : SameReads s s := ⟨rfl, fun _ => rfl, rfl, rfl⟩

theorem SameReads.trans {s t u : Node} (h : SameReads s t) (h' : SameReads t u) : SameReads s u :=
  ⟨h'.mem.trans h.mem, fun l => (h'.alt l).trans (h.alt l), h'.junk.trans h.junk, h'.leds.trans h.leds⟩

theorem SameReads.readByte {s t : Node} (h : SameReads s t) (a : Nat) : readByte t a = readByte s a := by
  simp only [Machine.readByte, seenByte, outputDraw, heldByte_eq, h.mem, h.alt, h.junk, h.leds]

/-- A register without copies lies at the offset that its table gives, in a block of 2²⁰ bytes (R18). -/
theorem regKey_mod_block {l : RegLoc} {o : Nat} (hidx : l.idx = []) (hoff : (regSpec l.id).offset = o) (ho : o < 2 ^ 20) :
    regKey l % 2 ^ 20 = o := by
  have hcopy : idxOffset (regSpec l.id).dims [] = 0 := by
    cases (regSpec l.id).dims <;> rfl
  simp only [regKey, hidx, hcopy, hoff]
  omega

/-- A register that neither maps memory (HBM_STATUS, at 8 of its block) nor controls a near-memory cache (at 0). -/
def readFree (l : RegLoc) : Prop := regKey l % 2 ^ 20 ≠ 0 ∧ regKey l % 2 ^ 20 ≠ 8

theorem readFree_of_offset {l : RegLoc} {o : Nat} (hidx : l.idx = []) (hoff : (regSpec l.id).offset = o)
    (hlo : 8 < o) (hhi : o < 2 ^ 20) : readFree l := by
  rw [readFree, regKey_mod_block hidx hoff hhi]
  omega

theorem fGet_regSet_hbmStatus {l : RegLoc} (h : readFree l) (s : Node) (w : Word) (f : Fld) :
    fGet (regSet s l w) (bLoc .hbmStatus 0) f = fGet s (bLoc .hbmStatus 0) f := by
  have hkey : regKey (bLoc .hbmStatus 0) % 2 ^ 20 = 8 := regKey_mod_block rfl rfl (by decide)
  have hne : regKey l ≠ regKey (bLoc .hbmStatus 0) := fun he => h.2 (by rw [he, hkey])
  rw [fGet, regGet_regSet_ne hne, fGet]

theorem fGet_regSet_nmcCtrl {l : RegLoc} (h : readFree l) (s : Node) (w : Word) (b : Nat) (f : Fld) :
    fGet (regSet s l w) (bLoc .nmcCtrl b) f = fGet s (bLoc .nmcCtrl b) f := by
  have hkey : regKey (bLoc .nmcCtrl b) % 2 ^ 20 = 0 := regKey_mod_block rfl rfl (by decide)
  have hne : regKey l ≠ regKey (bLoc .nmcCtrl b) := fun he => h.1 (by rw [he, hkey])
  rw [fGet, regGet_regSet_ne hne, fGet]

theorem homeOf_regSet {l : RegLoc} (h : readFree l) (s : Node) (w : Word) (line : Nat) :
    homeOf (regSet s l w) line = homeOf s line := by
  simp only [homeOf, homeMap, survivors, fGet_regSet_hbmStatus h]

theorem nmcServes_regSet {l : RegLoc} (h : readFree l) (s : Node) (w : Word) (b : Nat) :
    nmcServes (regSet s l w) b = nmcServes s b := by
  simp only [nmcServes, fGet_regSet_nmcCtrl h]

theorem memAlt_regSet {l : RegLoc} (h : readFree l) (s : Node) (w : Word) (line : Nat) :
    memAlt (regSet s l w) line = memAlt s line := by
  rw [memAlt, memAlt, homeOf_regSet h, nmcServes_regSet h, regSet_stale]

/-- What the home supplies rests on the supplier, on the copies and on which near-memory cache serves. -/
theorem homeAlt_congr {s t : Node} {line : Nat} (hsup : supplier t line = supplier s line) (hstale : t.stale = s.stale)
    (hmem : memAlt t line = memAlt s line) : homeAlt t line = homeAlt s line := by
  rw [homeAlt, homeAlt, hsup, hstale, hmem]

theorem sameReads_regSet {l : RegLoc} (h : readFree l) (s : Node) (w : Word) : SameReads s (regSet s l w) :=
  ⟨rfl, fun line => homeAlt_congr rfl rfl (memAlt_regSet h s w line), rfl, rfl⟩

theorem sameReads_modGable (s : Node) (g : Nat) (f : Gable → Gable) : SameReads s (modGable s g f) :=
  ⟨rfl, fun _ => rfl, rfl, rfl⟩

/-- A change of a die that leaves its cache the supplier of the lines that it supplied. -/
theorem sameReads_modDie {s : Node} {d : Nat} {f : Die → Die}
    (h : ∀ line, ownerSt (((f (dieOf s d)).cache).copyOf line).st = ownerSt ((dieOf s d).cache.copyOf line).st) :
    SameReads s (modDie s d f) := by
  refine ⟨rfl, fun line => ?_, rfl, rfl⟩
  have hsup : supplier (modDie s d f) line = supplier s line := by
    rw [supplier_eq, supplier_eq]
    refine congrArg _ (funext fun e => ?_)
    by_cases he : d = e
    · subst he
      rw [dieOf_modDie_self, h]
    · rw [dieOf_modDie_ne he]
  exact homeAlt_congr hsup rfl rfl

/-- A change of a die that leaves its cache as it is. -/
theorem sameReads_modDie_keeping {s : Node} {d : Nat} {f : Die → Die} (h : (f (dieOf s d)).cache = (dieOf s d).cache) :
    SameReads s (modDie s d f) :=
  sameReads_modDie fun _ => by rw [h]

theorem sameReads_modCore (s : Node) (c : Nat) (f : HostCore → HostCore) : SameReads s (modCore s c f) :=
  sameReads_modDie_keeping rfl

/-- A change of one line's entry of a die cache that leaves the entry's state as it is. -/
theorem sameReads_modLine (s : Node) (d line : Nat) {f : DcLine → DcLine} (hst : ∀ x, (f x).st = x.st) :
    SameReads s (modCache s d fun c => { c with lines := tblMod DcLine.absent c.lines line f }) := by
  refine sameReads_modDie fun l => congrArg ownerSt (copyOf_st_congr ?_ rfl)
  rw [tblGet_tblMod]
  split
  case isTrue h => rw [hst, h]
  case isFalse => rfl

/-! ### A store to a line that its die holds in M or E (R97, R205) -/

section store
variable {s : Node} {d line : Nat}

theorem sameReads_breakCores (s : Node) (d line keep : Nat) : SameReads s (breakCores s d line keep) := by
  unfold breakCores
  split
  · exact sameReads_modDie_keeping rfl
  · exact SameReads.refl s

theorem sameReads_l2Room (s : Node) (d core line : Nat) : SameReads s (l2Room s d core line) := by
  unfold l2Room
  dsimp only
  split
  · exact SameReads.refl s
  · exact (sameReads_modCore ..).trans (sameReads_modLine _ _ _ fun _ => rfl)

theorem sameReads_coreTake (s : Node) (d line core : Nat) (fetch : Bool) (st : Moesi) :
    SameReads s (coreTake s d line core fetch st) := by
  unfold coreTake
  split
  · exact SameReads.refl s
  · exact (sameReads_l2Room ..).trans (sameReads_modCore ..)

theorem sameReads_soleCore (s : Node) (d line core : Nat) : SameReads s (soleCore s d line core) := by
  refine (sameReads_breakCores s d line core).trans ?_
  refine SameReads.trans ?_ (sameReads_coreTake _ d line core false .m)
  exact sameReads_modLine _ d line fun _ => rfl

/-- Noting what the near-memory cache keeps of a line sets its copy at most (R253). -/
theorem keepCopy_eq (s : Node) (line : Nat) : ∃ m, keepCopy s line = { s with stale := m } ∧
    ∀ k, copyKey line 12 ≠ k → tblGet [] m k = tblGet [] s.stale k := by
  unfold keepCopy
  split
  · exact ⟨s.stale, rfl, fun _ _ => rfl⟩
  · exact ⟨_, rfl, fun _ hk => tblGet_tblSet_ne hk⟩

theorem stale_keepCopy {k : Nat} (hk : copyKey line 12 ≠ k) :
    tblGet [] (keepCopy s line).stale k = tblGet [] s.stale k := by
  obtain ⟨m, h, hm⟩ := keepCopy_eq s line
  rw [h]
  exact hm k hk

/-- The copies of other lines, and those of the die caches, have other keys. -/
theorem copyKey_ne {l w : Nat} (hw : w < 13) (h : line ≠ l ∨ w ≠ 12) : copyKey line 12 ≠ copyKey l w := by
  simp only [copyKey]
  omega

theorem memAlt_keepCopy {l : Nat} (h : line ≠ l) : memAlt (keepCopy s line) l = memAlt s l := by
  have hserves : nmcServes (keepCopy s line) (homeOf (keepCopy s line) l) = nmcServes s (homeOf s l) := by
    obtain ⟨m, hm, -⟩ := keepCopy_eq s line
    rw [hm]
    rfl
  rw [memAlt, memAlt, hserves, stale_keepCopy (copyKey_ne (by decide) (.inl h))]

/-- Of a line that a die cache supplies, the older copy that the near-memory cache keeps is not seen. -/
theorem sameReads_keepCopy (h : (supplier s line).isSome) : SameReads s (keepCopy s line) := by
  obtain ⟨m, hm, -⟩ := keepCopy_eq s line
  refine ⟨by rw [hm], fun l => ?_, by rw [hm], by rw [hm]⟩
  have hsup : supplier (keepCopy s line) l = supplier s l := by rw [hm]; rfl
  rw [homeAlt, homeAlt, hsup]
  cases he : supplier s l with
  | some e =>
    have hlt := lt_of_firstBelow he
    exact stale_keepCopy (copyKey_ne (by omega) (.inr (by omega)))
  | none =>
    refine memAlt_keepCopy fun hl => ?_
    rw [hl, he] at h
    exact Bool.noConfusion h

theorem takeCopy_of_current {who : Nat} (h : tblGet [] s.stale (copyKey line who) = []) : takeCopy s line who = s := by
  rw [takeCopy, h]

theorem copyOf_of_holdSt {st : Moesi} (h : holdSt s d line = st) (hst : st ≠ .i) :
    ((dieOf s d).cache.copyOf line).st = st := by
  subst h
  exact congrArg DcLine.st (if_pos hst)

/-- A die that holds a line in E supplies it, or another does. -/
theorem supplier_isSome (hd : d < 12) (h : holdSt s d line = .e) : (supplier s line).isSome := by
  rw [supplier_eq, firstBelow, List.find?_isSome]
  exact ⟨d, List.mem_range.2 hd, by rw [copyOf_of_holdSt h (by decide)]; rfl⟩

/-- R209: a line held in E becomes M without a byte changing, where the die's copy is current. -/
theorem sameReads_setHold_m (hd : d < 12) (h : holdSt s d line = .e) (hcur : tblGet [] s.stale (copyKey line d) = []) :
    SameReads s (setHold s d line .m) := by
  have hnote : setHold s d line .m = modCache (keepCopy s line) d fun c =>
      { c with lines := tblMod DcLine.absent c.lines line fun x => { x with st := .m } } := by
    have hcur' : tblGet [] (keepCopy s line).stale (copyKey line d) = [] :=
      (stale_keepCopy (copyKey_ne (by omega) (.inr (by omega)))).trans hcur
    simp only [setHold, noteCopy, takeCopy_of_current hcur']
    rfl
  have hdies : dieOf (keepCopy s line) d = dieOf s d := by
    obtain ⟨m, hm, -⟩ := keepCopy_eq s line
    rw [hm]
    rfl
  rw [hnote]
  refine (sameReads_keepCopy (supplier_isSome hd h)).trans (sameReads_modDie fun l => ?_)
  rw [hdies]
  by_cases hl : line = l
  · subst hl
    rw [copyOf_of_holdSt h (by decide)]
    simp [DieCache.copyOf, ownerSt]
  · refine congrArg ownerSt (copyOf_st_congr ?_ rfl)
    rw [tblGet_tblMod, if_neg hl]

/-- The bytes of a line's store, by address. -/
def lineWrites (line : Nat) (l : List (Nat × Byte)) : List (Nat × Byte) := l.map fun p => (line * lineBytes + p.1, p.2)

/-- A store into an owned line writes its bytes and, where it fills the line, clears its mark (R240). -/
theorem sameReads_mergeStore (s : Node) (d line : Nat) (l : List (Nat × Byte)) :
    SameReads (writeList s (lineWrites line l)) (mergeStore s d line l) := by
  unfold mergeStore
  dsimp only
  split
  · exact sameReads_modLine _ _ _ fun _ => rfl
  · exact SameReads.refl _

/-- A store to a line held in M or E is a write of its bytes to a node that reads as the one before. -/
theorem storeLine_owned {gable group : Nat} {f : FillBy} {l : List (Nat × Byte)} (hd : d < 12)
    (hcur : tblGet [] s.stale (copyKey line d) = []) (hold : holdSt s d line = .m ∨ holdSt s d line = .e) :
    ∃ u, SameReads s u ∧ SameReads (writeList u (lineWrites line l)) (storeLine s d gable group line f l) := by
  have hcnt : SameReads s (cntAdd s (dLoc .dcHits d) 1) :=
    sameReads_regSet (readFree_of_offset (o := 0x100) rfl rfl (by decide) (by decide)) ..
  rcases hold with h | h
  · refine ⟨soleCore (cntAdd s (dLoc .dcHits d) 1) d line (unitCore gable), hcnt.trans (sameReads_soleCore ..), ?_⟩
    rw [storeLine, storeLineBy, h]
    exact sameReads_mergeStore ..
  · have hm : SameReads (cntAdd s (dLoc .dcHits d) 1) (setHold (cntAdd s (dLoc .dcHits d) 1) d line .m) :=
      sameReads_setHold_m hd h hcur
    refine ⟨soleCore (setHold (cntAdd s (dLoc .dcHits d) 1) d line .m) d line (unitCore gable),
      (hcnt.trans hm).trans (sameReads_soleCore ..), ?_⟩
    rw [storeLine, storeLineBy, h]
    exact sameReads_mergeStore ..

end store

theorem readByte_writeList_out {l : List (Nat × Byte)} {a : Nat} (h : ∀ p ∈ l, p.1 ≠ a) (s : Node) :
    readByte (writeList s l) a = readByte s a := by
  have hheld : heldByte (writeList s l) a = heldByte s a := by
    rw [heldByte_eq, heldByte_eq, show (writeList s l).mem = memPutList s.mem l from rfl, memByte_memPutList_out h]
    rfl
  exact congrArg (seenByte s a) hheld

/-- A byte that a list write names once. -/
theorem memByte_memPutList_in {l : List (Nat × Byte)} (hl : (l.map (·.1)).Nodup) {p : Nat × Byte} (hp : p ∈ l) :
    ∀ m : List Host.Cell, tblGet memDefault (memPutList m l) p.1 = p.2 := by
  induction l with
  | nil => exact absurd hp (List.not_mem_nil)
  | cons q l ih =>
    intro m
    rw [List.map_cons, List.nodup_cons] at hl
    rw [memPutList]
    rcases List.mem_cons.1 hp with rfl | hp
    · rw [memByte_memPutList_out fun r hr he => hl.1 (List.mem_map.2 ⟨r, hr, he⟩), memByte_memPut, if_pos rfl]
    · exact ih hl.2 hp _

/-- R390: outside test mode and the output regions of commands in progress a byte reads as it is held. -/
theorem readByte_of_plain {s : Node} {a : Nat} (hj : s.ctl.test.junk = none) (ho : outputDraw s a = none) :
    readByte s a = heldByte s a := by
  simp only [readByte, seenByte, hj, ho]

theorem nodup_lineWrites {line : Nat} {l : List (Nat × Byte)} (h : (l.map (·.1)).Nodup) :
    ((lineWrites line l).map (·.1)).Nodup := by
  have hmap : (lineWrites line l).map (·.1) = (l.map (·.1)).map (line * lineBytes + ·) := by
    simp [lineWrites]
  rw [hmap]
  exact h.map fun _ _ => Nat.add_left_cancel

/-- Settles O24: the store is a write of its bytes to a node that reads as before, and no copy hides the line's contents. -/
theorem storeFrame : Obligations.StoreFrame := by
  intro s d gable group line f l hd hjunk hcur hold hin
  obtain ⟨u, hu, ht⟩ := storeLine_owned (gable := gable) (group := group) (f := f) (l := l) hd (hcur d (by omega)) hold
  refine ⟨fun a ha => ?_, fun hnodup p hp hout => ?_⟩
  · have hmiss : ∀ r ∈ lineWrites line l, r.1 ≠ a := by
      intro r hr
      obtain ⟨p, hp, rfl⟩ := List.mem_map.1 hr
      exact ha p hp
    rw [ht.readByte, readByte_writeList_out hmiss, hu.readByte]
  · have hline : lineOf (line * lineBytes + p.1) = line := by
      have := hin p hp
      simp only [lineOf, lineBytes] at *
      omega
    have hplain : outputDraw (writeList u (lineWrites line l)) (line * lineBytes + p.1) = none := by
      rw [← hout]
      simp only [outputDraw, writeList_leds, hu.leds]
    have halt : homeAlt (writeList u (lineWrites line l)) (lineOf (line * lineBytes + p.1)) = [] := by
      rw [hline]
      exact (hu.alt line).trans (homeAlt_eq_nil hcur)
    have hj : (writeList u (lineWrites line l)).ctl.test.junk = none := hu.junk.trans hjunk
    rw [ht.readByte, readByte_of_plain hj hplain, heldByte_eq, if_pos halt]
    exact memByte_memPutList_in (nodup_lineWrites hnodup)
      (p := (line * lineBytes + p.1, p.2)) (List.mem_map_of_mem (f := fun p => (line * lineBytes + p.1, p.2)) hp) u.mem

/-! ### What records, interrupts and counts of cycles leave unchanged (R118, R198, R199, R399) -/

/-- `t` is `s` but for records, interrupts and counts: memory reads alike, and Gables and arrival counters are as they
were. -/
structure Quiet (s t : Node) : Prop where
  reads : SameReads s t
  gables : t.gables = s.gables
  arrival : ∀ g c, c < 64 → arrival t g c = arrival s g c

theorem Quiet.refl (s : Node) : Quiet s s := ⟨SameReads.refl s, rfl, fun _ _ _ => rfl⟩

theorem Quiet.trans {s t u : Node} (h : Quiet s t) (h' : Quiet t u) : Quiet s u :=
  ⟨h.reads.trans h'.reads, h'.gables.trans h.gables, fun g c hc => (h'.arrival g c hc).trans (h.arrival g c hc)⟩

theorem quiet_ite {c : Prop} [Decidable c] {s t u : Node} (ht : Quiet s t) (hu : Quiet s u) :
    Quiet s (if c then t else u) := by
  split
  · exact ht
  · exact hu

theorem Quiet.gableOf {s t : Node} (h : Quiet s t) (g : Nat) : gableOf t g = gableOf s g := by
  rw [Machine.gableOf, h.gables, Machine.gableOf]

theorem Quiet.groupOf {s t : Node} (h : Quiet s t) (g k : Nat) : groupOf t g k = groupOf s g k := by
  rw [Machine.groupOf, h.gableOf, Machine.groupOf]

/-- A register that memory does not read through and that is no arrival counter (0xC00 to 0xDF8 of a Gable's block). -/
def quietReg (l : RegLoc) : Prop := readFree l ∧ (regKey l % 2 ^ 20 < 0xC00 ∨ 0xE00 ≤ regKey l % 2 ^ 20)

theorem quiet_regSet {l : RegLoc} (h : quietReg l) (s : Node) (w : Word) : Quiet s (regSet s l w) := by
  obtain ⟨hread, hcnt⟩ := h
  refine ⟨sameReads_regSet hread s w, rfl, fun g c hc => ?_⟩
  have hne : regKey l ≠ regKey (gLoc .arrivalCnt g [c]) := fun he => by
    rw [he, regKey_arrivalCnt] at hcnt
    omega
  rw [Machine.arrival, fGet, regGet_regSet_ne hne, Machine.arrival, fGet]

theorem quietReg_of_offset {l : RegLoc} {o : Nat} (hidx : l.idx = []) (hoff : (regSpec l.id).offset = o)
    (h : 8 < o ∧ (o < 0xC00 ∨ 0xE00 ≤ o) ∧ o < 2 ^ 20) : quietReg l := by
  obtain ⟨hlo, hcnt, hhi⟩ := h
  exact ⟨readFree_of_offset hidx hoff hlo hhi, by rwa [regKey_mod_block hidx hoff hhi]⟩

theorem quiet_modCore (s : Node) (c : Nat) (f : HostCore → HostCore) : Quiet s (modCore s c f) :=
  ⟨sameReads_modCore s c f, rfl, fun _ _ _ => rfl⟩

theorem quiet_modAplic (s : Node) (mdomain : Bool) (b : Nat) (f : AplicDom → AplicDom) :
    Quiet s (modAplic s mdomain b f) :=
  ⟨⟨rfl, fun _ => rfl, rfl, rfl⟩, rfl, fun _ _ _ => rfl⟩

theorem quiet_sendMsi (s : Node) (core : Nat) (mlevel : Bool) (id : Nat) : Quiet s (sendMsi s core mlevel id) :=
  quiet_ite (quiet_regSet (quietReg_of_offset (o := 0x30) rfl rfl (by decide)) ..) (quiet_ite (.refl s) (quiet_modCore ..))

theorem quiet_aplicDeliver (s : Node) (mdomain : Bool) (b src : Nat) : Quiet s (aplicDeliver s mdomain b src) :=
  quiet_ite ((quiet_modAplic s mdomain b fun x => { x with ip := x.ip - 1 <<< src }).trans (quiet_sendMsi ..)) (.refl s)

theorem quiet_signal (s : Node) (b src : Nat) : Quiet s (signal s b src) :=
  quiet_ite ((quiet_modAplic s _ b fun x => { x with ip := x.ip ||| 1 <<< src }).trans (quiet_aplicDeliver ..)) (.refl s)

/-- Logs and what is to be reported are none of what a quiet change keeps. -/
theorem quiet_logs (s : Node) (logs : Tbl ErrLog) (last : ErrRec) (reports : List ErrRec) (alert : Nat) :
    Quiet s { s with errlogs := logs, lastRec := last, reports := reports, alert := alert } :=
  ⟨⟨rfl, fun _ => rfl, rfl, rfl⟩, rfl, fun _ _ _ => rfl⟩

/-- R399: a record is counted as dropped, or enters its log and signals. -/
theorem quiet_logErr (s : Node) (scope block code addr : Nat) (detail : List (Nat × Nat)) :
    Quiet s (logErr s scope block code addr detail) := by
  refine quiet_ite ?_ ?_
  · have hcnt : Quiet s (cntAdd s (bLoc .errDropped (logOfScope scope)) 1) :=
      quiet_regSet (quietReg_of_offset (o := 0x28) rfl rfl (by decide)) ..
    exact hcnt.trans (quiet_logs _ _ _ _ _)
  · refine Quiet.trans ?_ (quiet_signal ..)
    exact (quiet_logs s _ _ _ _).trans (quiet_regSet (quietReg_of_offset (o := 0x20) rfl rfl (by decide)) ..)

theorem quiet_foldl {α : Type} {f : Node → α → Node} (h : ∀ s x, Quiet s (f s x)) (l : List α) :
    ∀ s, Quiet s (l.foldl f s) := by
  induction l with
  | nil => exact Quiet.refl
  | cons x l ih => exact fun s => (h s x).trans (ih _)

theorem quiet_logStops (s : Node) (g k pc : Nat) (codes : List Nat) : Quiet s (logStops s g k pc codes) :=
  quiet_foldl (fun _ _ => quiet_logErr ..) _ s

theorem quiet_countBanks (s : Node) (g k : Nat) (srcs : List Nat) : Quiet s (countBanks s g k srcs) :=
  quiet_ite (quiet_regSet (quietReg_of_offset (o := 0xE08) rfl rfl (by decide)) ..) (.refl s)

theorem quiet_countRounds (s : Node) (g : Nat) (l : List Nat) (n : Nat) : Quiet s (countRounds s g l n) :=
  quiet_regSet (quietReg_of_offset (o := 0xE00) rfl rfl (by decide)) ..

/-! ### What an instruction of a group may touch -/

/-- What an instruction of a group may change besides the group's own control state: registers, the rounding key, arrival
counters of the Gable, the Gables whose scratch it writes and the bytes there. -/
structure Touch where
  reg : Nat → Prop
  key : Prop
  counter : Nat → Prop
  gable : Nat → Prop
  scratch : Nat → Nat → Prop

/-- Group `y` holds what `x` held, but for what may be touched; control state is left out (R83, R124). -/
structure Group.Kept (e : Touch) (x y : Group) : Prop where
  kill : y.kill = x.kill
  key : ¬e.key → y.rkey = x.rkey
  reg : ∀ r lane, lane < 32 → ¬e.reg r → readReg y r lane = readReg x r lane

/-- Node `n` holds what `s` held, but for what an instruction of group `k` of Gable `g` may touch. -/
structure Frame (e : Touch) (g k : Nat) (s n : Node) : Prop where
  byte : ∀ a, readByte n a = readByte s a
  gable : ∀ h, h ≠ g → ¬e.gable h → gableOf n h = gableOf s h
  group : ∀ j, j ≠ k → groupOf n g j = groupOf s g j
  elem : elemOf n g = elemOf s g
  own : Group.Kept e (groupOf s g k) (groupOf n g k)
  counter : ∀ h i, i < 64 → ¬(h = g ∧ e.counter i) → arrival n h i = arrival s h i
  scratch : ∀ h off, off < 0x200000 → ¬e.scratch h off → scratchByte n h off = scratchByte s h off

section kept
variable {e : Touch} {x y z : Group}

theorem Group.Kept.refl (x : Group) : Group.Kept e x x := ⟨rfl, fun _ => rfl, fun _ _ _ _ => rfl⟩

theorem Group.Kept.trans (h : Group.Kept e x y) (h' : Group.Kept e y z) : Group.Kept e x z :=
  ⟨h'.kill.trans h.kill, fun he => (h'.key he).trans (h.key he),
    fun r lane hl he => (h'.reg r lane hl he).trans (h.reg r lane hl he)⟩

theorem Group.Kept.symm (h : Group.Kept e x y) : Group.Kept e y x :=
  ⟨h.kill.symm, fun he => (h.key he).symm, fun r lane hl he => (h.reg r lane hl he).symm⟩

/-- A change of control state alone: the register file and the rounding key stand. -/
theorem Group.Kept.of_file (hkill : y.kill = x.kill) (hkey : y.rkey = x.rkey) (hfile : y.file = x.file) :
    Group.Kept e x y :=
  ⟨hkill, fun _ => hkey, fun r lane _ _ => by rw [readReg, hfile, readReg]⟩

theorem kept_ite {c : Prop} [Decidable c] (hy : Group.Kept e x y) (hz : Group.Kept e x z) :
    Group.Kept e x (if c then y else z) := by
  split
  · exact hy
  · exact hz

theorem kept_advance (x : Group) (parts : List Path) (keep : Nat) : Group.Kept e x (advance x parts keep) :=
  kept_ite (.of_file rfl rfl rfl) (.of_file rfl rfl rfl)

theorem kept_stepPc (x : Group) : Group.Kept e x (stepPc x) := kept_advance ..

theorem kept_rotate (x : Group) (pc keep : Nat) : Group.Kept e x (rotate x pc keep) :=
  kept_ite (.refl x) (.of_file rfl rfl rfl)

theorem kept_branched (x : Group) (w : Nat) : Group.Kept e x (branched x w) :=
  kept_ite ((kept_advance ..).trans (kept_rotate ..)) (kept_advance ..)

theorem kept_writeReg {r lane : Nat} (hr : e.reg r) (hl : lane < 32) (x : Group) (v : Half) :
    Group.Kept e x (writeReg x r lane v) := by
  refine ⟨?_, fun _ => ?_, fun r' lane' hl' he => readReg_writeReg_ne hl hl' (.inl fun hrr => he (by rwa [hrr])) ..⟩
  · unfold writeReg
    split <;> rfl
  · unfold writeReg
    split <;> rfl

theorem kept_foldl {α : Type} {l : List α} {f : Group → α → Group} (h : ∀ a ∈ l, ∀ y, Group.Kept e y (f y a)) :
    ∀ x, Group.Kept e x (l.foldl f x) := by
  induction l with
  | nil => exact Group.Kept.refl
  | cons a l ih =>
    exact fun x => (h a (List.mem_cons_self ..) x).trans (ih (fun b hb => h b (List.mem_cons_of_mem _ hb)) _)

/-- R88: a value of `n` bytes fills the registers from RD on. -/
theorem kept_writeWide {rd lane n : Nat} (hr : ∀ r, rd ≤ r → r < rd + (n + 3) / 4 → e.reg r) (hl : lane < 32)
    (x : Group) (v : Nat) : Group.Kept e x (writeWide x rd lane n v) := by
  refine kept_foldl (fun i hi y => kept_writeReg (hr _ (by omega) ?_) hl ..) x
  have := List.mem_range.1 hi
  omega

end kept

/-- The positions of ones below 32 are lanes. -/
theorem lt_of_mem_onesFrom {j : Nat} : ∀ {n i w : Nat}, j ∈ onesFrom i n w → j < i + n
  | 0, _, _, h => absurd h List.not_mem_nil
  | n + 1, i, w, h => by
    rw [onesFrom] at h
    split at h
    · rcases List.mem_cons.1 h with rfl | h
      · omega
      · have := lt_of_mem_onesFrom h
        omega
    · have := lt_of_mem_onesFrom h
      omega

theorem lt_of_mem_lanes {x : Group} {i : Nat} (h : i ∈ lanes x) : i < 32 := by
  have := lt_of_mem_onesFrom h
  omega

theorem lt_of_mem_accessLanes {x : Group} {w i : Nat} (h : i ∈ accessLanes x w) : i < 32 :=
  lt_of_mem_lanes (List.mem_of_mem_filter h)

section frame
variable {e : Touch} {g k : Nat} {s t u : Node}

theorem Frame.refl (s : Node) : Frame e g k s s :=
  ⟨fun _ => rfl, fun _ _ _ => rfl, fun _ _ => rfl, rfl, .refl _, fun _ _ _ _ => rfl, fun _ _ _ _ => rfl⟩

theorem Frame.trans (h : Frame e g k s t) (h' : Frame e g k t u) : Frame e g k s u :=
  ⟨fun a => (h'.byte a).trans (h.byte a), fun i hi he => (h'.gable i hi he).trans (h.gable i hi he),
    fun j hj => (h'.group j hj).trans (h.group j hj), h'.elem.trans h.elem, h.own.trans h'.own,
    fun i j hj he => (h'.counter i j hj he).trans (h.counter i j hj he),
    fun i off ho he => (h'.scratch i off ho he).trans (h.scratch i off ho he)⟩

theorem Quiet.frame (h : Quiet s t) : Frame e g k s t where
  byte := h.reads.readByte
  gable i _ _ := h.gableOf i
  group j _ := h.groupOf g j
  elem := congrArg Gable.elem (h.gableOf g)
  own := by rw [h.groupOf]; exact .refl _
  counter i j hj _ := h.arrival i j hj
  scratch i off _ _ := by rw [scratchByte, h.gableOf, scratchByte]

theorem frame_ite {c : Prop} [Decidable c] (ht : Frame e g k s t) (hu : Frame e g k s u) :
    Frame e g k s (if c then t else u) := by
  split
  · exact ht
  · exact hu

theorem scratchByte_modGroup (s : Node) (g k : Nat) (f : Group → Group) (h off : Nat) :
    scratchByte (modGroup s g k f) h off = scratchByte s h off := by
  by_cases hg : g = h
  · subst hg
    rw [scratchByte, modGroup, gableOf_modGable_self, scratchByte]
  · rw [scratchByte, modGroup, gableOf_modGable_ne hg, scratchByte]

theorem frame_modGroup {f : Group → Group} (h : Group.Kept e (groupOf s g k) (f (groupOf s g k))) :
    Frame e g k s (modGroup s g k f) where
  byte := (sameReads_modGable ..).readByte
  gable i hi _ := gableOf_modGable_ne (Ne.symm hi)
  group j hj := groupOf_modGroup_ne (Ne.symm hj)
  elem := by rw [elemOf, modGroup, gableOf_modGable_self, elemOf]
  own := by rw [groupOf_modGroup_self]; exact h
  counter _ _ _ _ := rfl
  scratch _ _ _ _ := scratchByte_modGroup ..

theorem frame_setArrival {c : Nat} (hc : c < 64) (he : e.counter c) (v : Nat) : Frame e g k s (setArrival s g c v) := by
  have hkey : readFree (gLoc .arrivalCnt g [c]) := by
    simp only [readFree, regKey_arrivalCnt]
    omega
  exact ⟨(sameReads_regSet hkey ..).readByte, fun _ _ _ => rfl, fun _ _ => rfl, rfl, .refl _,
    fun i j hj hij => arrival_setArrival_ne hc hj (fun ⟨hi, hjc⟩ => hij ⟨hi, hjc ▸ he⟩) .., fun _ _ _ _ => rfl⟩

/-- Bytes of scratch that may be written, of a Gable that may be. -/
theorem frame_scratchWrite {h off : Nat} {l : List Byte} (hg : h = g ∨ e.gable h)
    (hl : ∀ i < l.length, e.scratch h ((off + i) % 0x200000)) : Frame e g k s (scratchWrite s h off l) := by
  have hkeep : ∀ i, groupOf (scratchWrite s h off l) g i = groupOf s g i ∧
      elemOf (scratchWrite s h off l) g = elemOf s g := by
    intro i
    by_cases hhg : h = g
    · subst hhg
      simp only [groupOf, elemOf, scratchWrite, gableOf_modGable_self, and_self]
    · simp only [groupOf, elemOf, scratchWrite, gableOf_modGable_ne hhg, and_self]
  refine ⟨(sameReads_modGable ..).readByte, fun i hi he => gableOf_modGable_ne fun hhi => ?_, fun j _ => (hkeep j).1,
    (hkeep k).2, by rw [(hkeep k).1]; exact .refl _, fun _ _ _ _ => rfl, fun i o ho he => ?_⟩
  · subst hhi
    exact hg.elim hi he
  · by_cases hhi : h = i
    · subst hhi
      rw [scratchByte, scratchWrite, gableOf_modGable_self, scratchByte]
      refine tblGet_scratchPuts_out fun j hj hjo => he ?_
      rw [Nat.mod_eq_of_lt ho] at hjo
      exact hjo ▸ hl j hj
    · rw [scratchByte, scratchWrite, gableOf_modGable_ne hhi, scratchByte]

theorem frame_foldl {α : Type} {l : List α} {f : Node → α → Node} (h : ∀ a ∈ l, ∀ u, Frame e g k u (f u a)) :
    ∀ s, Frame e g k s (l.foldl f s) := by
  induction l with
  | nil => exact Frame.refl
  | cons a l ih =>
    exact fun s => (h a (List.mem_cons_self ..) s).trans (ih (fun b hb => h b (List.mem_cons_of_mem _ hb)) _)

/-! ### Stops and boundaries touch nothing (R113, R114) -/

theorem frame_halt (hkill : (groupOf s g k).kill = false) (code pc : Nat) : Frame e g k s (halt s g k code pc) := by
  unfold halt
  dsimp only
  rw [hkill, if_neg Bool.false_ne_true]
  have hlog := quiet_logStops s g k pc (groupOf s g k).stopNext
  refine (hlog.frame.trans ?_).trans (quiet_signal ..).frame
  exact frame_modGroup (.of_file rfl rfl rfl)

theorem frame_stopGroup (hkill : (groupOf s g k).kill = false) (code : Nat) : Frame e g k s (stopGroup s g k code) := by
  have hlog := quiet_logErr s (g / 16) (g % 16 + 1) code (faultPc (groupOf s g k)) [(1, k), (2, code)]
  refine hlog.frame.trans (frame_halt ?_ ..)
  rw [hlog.groupOf, hkill]

theorem frame_boundary (hkill : (groupOf s g k).kill = false) : Frame e g k s (boundary s g k) := by
  unfold boundary
  dsimp only
  split
  · exact frame_halt hkill ..
  · rw [hkill]
    exact .refl s

/-- An instruction leaves what its effect leaves, and what the group's new value and its boundary leave. -/
theorem frame_retire {x y : Group} (h : Frame e g k s t) (hx : groupOf s g k = x) (hkill : x.kill = false)
    (hy : Group.Kept e x y) : Frame e g k s (retire t g k y) := by
  subst hx
  have hown : Group.Kept e (groupOf t g k) { y with phase := .running, wait := .none, list := [] } :=
    (h.own.symm.trans hy).trans (.of_file rfl rfl rfl)
  refine (h.trans (frame_modGroup (f := fun _ => { y with phase := .running, wait := .none, list := [] }) hown)).trans
    (frame_boundary ?_)
  rw [groupOf_modGroup_self]
  exact hy.kill.trans hkill

/-- Issue leaves what the instruction leaves: a group that waits or stops at a check keeps all else. -/
theorem frame_issueWord (hkill : (groupOf s g k).kill = false) {op w : Nat} {legal : Bool} {regs srcs : List Nat}
    {f : Node → Group → Node}
    (h : ∀ u, groupOf u g k = groupOf s g k → Frame e g k u (f u (groupOf s g k))) :
    Frame e g k s (issueWord s g k op w legal regs srcs f) := by
  have hwait : Frame e g k s (waitOn s g k .operands) := frame_modGroup (.of_file rfl rfl rfl)
  have hstop : ∀ code, Frame e g k s (stopGroup s g k code) := frame_stopGroup hkill
  have hcount := quiet_countBanks s g k srcs
  have hperform := hcount.frame.trans (h _ (hcount.groupOf g k))
  exact frame_ite (.refl s) (frame_ite (frame_ite hwait (frame_ite (hstop _) (frame_ite (hstop _) hperform))) (.refl s))

end frame

/-! ### What each thread instruction may touch (R83, R90 to R92, R95, R100, R111, R127) -/

/-- What the command `c`, an instruction `w` of group `k` of Gable `g` whose value is `x`, may touch: TDARG and LDS their
destination, CNTSET and CNTADD their counter, ERKEY the rounding key, STS the bytes its lanes store to, in the Gable's
scratch or its partner's. -/
def threadTouch (x : Group) (g k w : Nat) (c : Instr) : Touch where
  reg r := (c = .tdarg g k w ∧ r = bits w 47 40) ∨
    (c = .lds g k w ∧ bits w 47 40 ≤ r ∧ r < bits w 47 40 + (2 ^ bits w 55 53 + 3) / 4)
  key := c = .erkey g k w
  counter i := (c = .cntset g k w ∨ c = .cntadd g k w) ∧ i = bits w 45 40
  gable h := c = .sts g k w ∧ h = partner g
  scratch h off := c = .sts g k w ∧ ∃ i ∈ accessLanes x w, scratchGable g (laneScratch x w i) = h ∧
    bits (laneScratch x w i) 20 0 ≤ off ∧ off < bits (laneScratch x w i) 20 0 + 2 ^ bits w 55 53

theorem bits_lt (w hi lo : Nat) : bits w hi lo < 2 ^ (hi + 1 - lo) := Nat.mod_lt _ (by positivity)

/-- The partner bit names the Gable itself or its partner (R89). -/
theorem scratchGable_eq (g a : Nat) : scratchGable g a = g ∨ scratchGable g a = partner g := by
  unfold scratchGable
  split
  · exact .inr rfl
  · exact .inl rfl

/-- R96: every lane of an access that raises no fault is aligned to its size. -/
theorem aligned_of_scratchFault_none {s : Node} {g n : Nat} {as : List Nat} (h : scratchFault s g as n = none) {a : Nat}
    (ha : a ∈ as) : a % n = 0 := by
  unfold scratchFault at h
  split at h
  · cases h
  · rename_i hno
    simp only [List.any_eq_true, bne_iff_ne, not_exists, not_and, not_not] at hno
    exact hno a ha

/-- An aligned access of at most 128 bytes ends within the 2 MiB of scratch. -/
theorem scratch_end_le {a size : Nat} (hsize : size < 8) (h : a % 2 ^ size = 0) : bits a 20 0 + 2 ^ size ≤ 0x200000 := by
  have hdvd : 2 ^ size ∣ 0x200000 := pow_dvd_pow 2 (show size ≤ 21 by omega)
  have hbits : bits a 20 0 = a % 0x200000 := by simp [bits]
  have hlow : 2 ^ size ∣ a % 0x200000 := (Nat.dvd_mod_iff hdvd).2 (Nat.dvd_of_mod_eq_zero h)
  rw [hbits]
  obtain ⟨m, hm⟩ := hdvd
  obtain ⟨i, hi⟩ := hlow
  have hlt : 2 ^ size * i < 2 ^ size * m := by
    rw [← hi, ← hm]
    exact Nat.mod_lt _ (by decide)
  have him : i + 1 ≤ m := Nat.lt_of_mul_lt_mul_left hlt
  calc a % 0x200000 + 2 ^ size = 2 ^ size * (i + 1) := by rw [hi, Nat.mul_succ]
    _ ≤ 2 ^ size * m := Nat.mul_le_mul_left _ him
    _ = 0x200000 := hm.symm

theorem length_readWide_le (x : Group) (r lane n : Nat) : (readWide x r lane n).length ≤ n := List.length_take_le ..

section thread
variable {s : Node} {g k w : Nat}

/-- An STS lane's store stays within the bytes that it names. -/
theorem frame_stsLane {x : Group} {u : Node} {i : Nat} (hi : i ∈ accessLanes x w)
    (halign : laneScratch x w i % 2 ^ bits w 55 53 = 0) :
    Frame (threadTouch x g k w (.sts g k w)) g k u (scratchWrite u (scratchGable g (laneScratch x w i))
      (bits (laneScratch x w i) 20 0) (readWide x (bits w 47 40) i (2 ^ bits w 55 53))) := by
  have hend := scratch_end_le (bits_lt w 55 53) halign
  refine frame_scratchWrite ?_ fun j hj => ⟨rfl, i, hi, rfl, ?_⟩
  · exact (scratchGable_eq ..).imp_right fun hp => ⟨rfl, hp⟩
  · have hlen := length_readWide_le x (bits w 47 40) i (2 ^ bits w 55 53)
    rw [Nat.mod_eq_of_lt (by omega)]
    omega

section performed   -- each instruction once it is issued
variable {e : Touch} {u : Node} (hkill : (groupOf s g k).kill = false) (hu : groupOf u g k = groupOf s g k)
include hkill hu

theorem frame_branch : Frame e g k u (retire u g k (branched (groupOf s g k) w)) :=
  frame_retire (.refl u) hu hkill (kept_branched ..)

theorem frame_yield (pc keep : Nat) : Frame e g k u (retire u g k (rotate (stepPc (groupOf s g k)) pc keep)) :=
  frame_retire (.refl u) hu hkill ((kept_stepPc _).trans (kept_rotate ..))

/-- CNTSET and CNTADD set one counter (R111). -/
theorem frame_counter {c : Instr} (hc : c = .cntset g k w ∨ c = .cntadd g k w) (v : Nat) :
    Frame (threadTouch (groupOf s g k) g k w c) g k u
      (retire (setArrival u g (bits w 45 40) v) g k (stepPc (groupOf s g k))) :=
  frame_retire (frame_setArrival (bits_lt w 45 40) (And.intro hc rfl) v) hu hkill (kept_stepPc _)

theorem frame_erkey (v : Nat) :
    Frame (threadTouch (groupOf s g k) g k w (.erkey g k w)) g k u
      (retire u g k { stepPc (groupOf s g k) with rkey := v }) := by
  have hstep : Group.Kept (threadTouch (groupOf s g k) g k w (.erkey g k w)) (groupOf s g k) (stepPc (groupOf s g k)) :=
    kept_stepPc _
  exact frame_retire (.refl u) hu hkill ⟨hstep.kill, fun hno => absurd rfl hno, hstep.reg⟩

theorem frame_tdarg (v : Half) :
    Frame (threadTouch (groupOf s g k) g k w (.tdarg g k w)) g k u (retire u g k (stepPc ((lanes (groupOf s g k)).foldl
      (fun y i => writeReg y (bits w 47 40) i v) (groupOf s g k)))) :=
  frame_retire (.refl u) hu hkill ((kept_foldl
    (fun _ hi _ => kept_writeReg (Or.inl ⟨rfl, rfl⟩) (lt_of_mem_lanes hi) ..) _).trans (kept_stepPc _))

/-- LDS writes its destination in the lanes that access (R88, R95). -/
theorem frame_lds (as : List Nat) (v : Nat → Nat) :
    Frame (threadTouch (groupOf s g k) g k w (.lds g k w)) g k u (retire (countRounds u g as (2 ^ bits w 55 53)) g k
      (stepPc ((accessLanes (groupOf s g k) w).foldl
        (fun y i => writeWide y (bits w 47 40) i (2 ^ bits w 55 53) (v i)) (groupOf s g k)))) :=
  frame_retire (quiet_countRounds ..).frame hu hkill ((kept_foldl
    (fun _ hi _ => kept_writeWide (fun _ hlo hhi => Or.inr ⟨rfl, hlo, hhi⟩) (lt_of_mem_accessLanes hi) ..) _).trans
      (kept_stepPc _))

/-- STS stores lane by lane (R99). -/
theorem frame_sts {as : List Nat}
    (halign : ∀ i ∈ accessLanes (groupOf s g k) w, laneScratch (groupOf s g k) w i % 2 ^ bits w 55 53 = 0) :
    Frame (threadTouch (groupOf s g k) g k w (.sts g k w)) g k u (retire (countRounds
      ((accessLanes (groupOf s g k) w).foldl (fun t i => scratchWrite t (scratchGable g (laneScratch (groupOf s g k) w i))
        (bits (laneScratch (groupOf s g k) w i) 20 0)
        (readWide (groupOf s g k) (bits w 47 40) i (2 ^ bits w 55 53))) u) g as (2 ^ bits w 55 53)) g k
      (stepPc (groupOf s g k))) := by
  have hstores := frame_foldl (fun i hi t => frame_stsLane (g := g) (k := k) (u := t) hi (halign i hi)) u
  exact frame_retire (hstores.trans (quiet_countRounds ..).frame) hu hkill (kept_stepPc _)

end performed

/-- A command of a Gable that answers a next state leaves what its word's issue leaves. -/
theorem frame_of_word {q : List Instr} {n : Node} {c : Instr} {e : Touch} {op : Nat} {legal : Bool} {regs srcs : List Nat}
    {f : Node → Group → Node}
    (hc : exec c ⟨q, s⟩ = onNode ⟨q, s⟩ fun u => onGable g (issueWord u g k op w legal regs srcs f))
    (h : exec c ⟨q, s⟩ = .next ⟨q, n⟩) (hkill : (groupOf s g k).kill = false)
    (hf : ∀ u, groupOf u g k = groupOf s g k → Frame e g k u (f u (groupOf s g k))) : Frame e g k s n := by
  rw [hc] at h
  obtain ⟨_, rfl⟩ := onGable_eq_next.1 (onNode_eq_next.1 h).1
  exact frame_issueWord hkill hf

/-- Each of the ten instructions touches what `threadTouch` says of it alone. -/
theorem frame_exec {q : List Instr} {n : Node} {c : Instr} (hkill : (groupOf s g k).kill = false)
    (hc : c ∈ [Instr.bnz g k w, .bz g k w, .jmp g k w, .yield g k w, .cntset g k w, .cntadd g k w, .erkey g k w,
      .tdarg g k w, .lds g k w, .sts g k w])
    (h : exec c ⟨q, s⟩ = .next ⟨q, n⟩) : Frame (threadTouch (groupOf s g k) g k w c) g k s n := by
  simp only [List.mem_cons, List.not_mem_nil, or_false] at hc
  rcases hc with rfl | rfl | rfl | rfl | rfl | rfl | rfl | rfl | rfl | rfl
  · exact frame_of_word (exec_bnz_eq ..) h hkill fun u hu => frame_branch hkill hu
  · exact frame_of_word (exec_bz_eq ..) h hkill fun u hu => frame_branch hkill hu
  · exact frame_of_word (exec_jmp_eq ..) h hkill fun u hu => frame_branch hkill hu
  · exact frame_of_word (exec_yield_eq ..) h hkill fun u hu => frame_yield hkill hu ..
  · exact frame_of_word (exec_cntset_eq ..) h hkill fun u hu => frame_counter hkill hu (.inl rfl) _
  · exact frame_of_word (exec_cntadd_eq ..) h hkill fun u hu => frame_counter hkill hu (.inr rfl) _
  · exact frame_of_word (exec_erkey_eq ..) h hkill fun u hu => frame_erkey hkill hu _
  · exact frame_of_word (exec_tdarg_eq ..) h hkill fun u hu => frame_tdarg hkill hu _
  · refine frame_of_word (exec_lds_eq ..) h hkill fun u hu => ?_
    dsimp only
    split
    · exact frame_stopGroup (hu ▸ hkill) _
    · exact frame_lds hkill hu ..
  · refine frame_of_word (exec_sts_eq ..) h hkill fun u hu => ?_
    dsimp only
    split
    · exact frame_stopGroup (hu ▸ hkill) _
    · rename_i hok
      exact frame_sts hkill hu fun i hi => aligned_of_scratchFault_none hok (List.mem_map_of_mem hi)

end thread

/-- One byte of scratch is its own little-endian value. -/
theorem scratchLE_one (s : Node) (h off : Nat) : scratchLE s h off 1 = (scratchByte s h off).toNat := by
  simp [scratchLE, scratchBytes, leValue]

/-- Settles O22: each instruction touches what `threadTouch` says of it, and the statement asks for the rest. -/
theorem threadInstructionFrame : Obligations.ThreadInstructionFrame := by
  intro q s n g k w c hc hkill hexec x
  have hf := frame_exec hkill hc hexec
  refine ⟨hf.byte, ?_, hf.group, hf.elem, ?_, ?_, hf.own.key, ?_⟩
  · intro h hne hsts
    exact hf.gable h hne fun ⟨hc, hp⟩ => hsts hc hp
  · intro r lane hl htdarg hlds
    refine hf.own.reg r lane hl ?_
    rintro (⟨hc, hr⟩ | ⟨hc, hr⟩)
    · exact htdarg hc hr
    · exact hlds hc hr
  · intro h i _ hi hcnt
    exact hf.counter h i hi fun ⟨hg, hc, hic⟩ => hcnt hc ⟨hg, hic⟩
  · intro h off ho hsts
    rw [scratchLE_one, scratchLE_one, hf.scratch h off ho]
    rintro ⟨hc, i, hi, hg, hrange⟩
    exact hsts hc i hi hg hrange

end Sys2Proof.Machine
end

section
/-! Statements of 05_gutter_element_engine.md: the instructions of the element engine, the start of its runs, and what the
instructions that write a tile leave unchanged. -/

namespace Sys2Proof.Machine

/-! ### The meanings of the commands below -/

section meanings
variable (g : Nat) (s : State)

theorem exec_elemRunStart_eq : exec (.elemRunStart g) s = execElemRunStart g s := rfl
theorem exec_elemEnd_eq : exec (.elemEnd g) s = execElemEnd g s := rfl
theorem exec_elemAdd_eq : exec (.elemAdd g) s = execElemAdd g s := rfl
theorem exec_elemSub_eq : exec (.elemSub g) s = execElemSub g s := rfl
theorem exec_elemMul_eq : exec (.elemMul g) s = execElemMul g s := rfl
theorem exec_elemFma_eq : exec (.elemFma g) s = execElemFma g s := rfl
theorem exec_elemMul3_eq : exec (.elemMul3 g) s = execElemMul3 g s := rfl
theorem exec_elemMin_eq : exec (.elemMin g) s = execElemMin g s := rfl
theorem exec_elemMax_eq : exec (.elemMax g) s = execElemMax g s := rfl
theorem exec_elemDiv_eq : exec (.elemDiv g) s = execElemDiv g s := rfl
theorem exec_elemFn_eq : exec (.elemFn g) s = execElemFn g s := rfl
theorem exec_elemSel_eq : exec (.elemSel g) s = execElemSel g s := rfl
theorem exec_elemCmp_eq : exec (.elemCmp g) s = execElemCmp g s := rfl
theorem exec_elemAnd_eq : exec (.elemAnd g) s = execElemAnd g s := rfl
theorem exec_elemOr_eq : exec (.elemOr g) s = execElemOr g s := rfl
theorem exec_elemXor_eq : exec (.elemXor g) s = execElemXor g s := rfl
theorem exec_elemShl_eq : exec (.elemShl g) s = execElemShl g s := rfl
theorem exec_elemShr_eq : exec (.elemShr g) s = execElemShr g s := rfl
theorem exec_elemCvt_eq : exec (.elemCvt g) s = execElemCvt g s := rfl
theorem exec_elemRed_eq : exec (.elemRed g) s = execElemRed g s := rfl
theorem exec_elemPerm_eq : exec (.elemPerm g) s = execElemPerm g s := rfl
theorem exec_elemHad_eq : exec (.elemHad g) s = execElemHad g s := rfl
theorem exec_elemSetvl_eq : exec (.elemSetvl g) s = execElemSetvl g s := rfl
theorem exec_elemMsk_eq : exec (.elemMsk g) s = execElemMsk g s := rfl
theorem exec_elemSop_eq : exec (.elemSop g) s = execElemSop g s := rfl
theorem exec_elemSkip_eq : exec (.elemSkip g) s = execElemSkip g s := rfl
theorem exec_elemLd_eq : exec (.elemLd g) s = execElemLd g s := rfl
theorem exec_elemScaleLoad_eq : exec (.elemScaleLoad g) s = execElemScaleLoad g s := rfl
theorem exec_elemSt_eq : exec (.elemSt g) s = execElemSt g s := rfl
theorem exec_elemStsc_eq : exec (.elemStsc g) s = execElemStsc g s := rfl
theorem exec_elemCast_eq (x : CastTry) : exec (.elemCast x) s = execElemCast x s := rfl
theorem exec_elemSig_eq : exec (.elemSig g) s = execElemSig g s := rfl
theorem exec_elemSlotWrite_eq (slot i : Nat) (v : Word) :
    exec (.elemSlotWrite g slot i v) s = execElemSlotWrite g slot i v s := rfl

end meanings

/-! ### An instruction of a ready engine (R117, R122) -/

section ready
variable {q : List Instr} {s t : Node} {g op : Nat}

/-- A ready engine performs the instruction it stands at. -/
theorem elemStep_of_elemReady (h : elemReady s g op) (f : Elem → Nat → Node) :
    elemStep s g op f = f (elemOf s g) (elemWord (elemOf s g)) := by
  obtain ⟨-, hrun, hseq, hop, hfence, hctrl⟩ := h
  exact if_pos (by simp [hrun, hseq, hop, hfence, hctrl])

theorem onNode_elem {f : Node → Elem → Nat → Node} (h : elemReady s g op)
    (ht : f s (elemOf s g) (elemWord (elemOf s g)) = t) :
    onNode ⟨q, s⟩ (fun u => onGable g (elemStep u g op (f u))) = .next ⟨q, t⟩ :=
  have ⟨hg, _⟩ := h
  onNode_gable hg ((elemStep_of_elemReady h _).trans ht)

/-- An instruction with accesses of its own, none of which is left at a home (log entry 184). -/
theorem onServed_elem {f : Node → Elem → Nat → Node} (h : elemReady s g op)
    (ht : f s (elemOf s g) (elemWord (elemOf s g)) = t) (hheld : accessHeld t = false) :
    onServed ⟨q, s⟩ (fun u => onGable g (elemStep u g op (f u))) = .next ⟨q, t⟩ :=
  have ⟨hg, _⟩ := h
  onServed_gable hg ((elemStep_of_elemReady h _).trans ht) hheld

end ready

/-! ### Instructions that write a tile, position by position (R131 to R139) -/

/-- Settles O32: a ready engine performs the instruction, whose meaning is that of its opcode. -/
theorem elementArithmeticCompletes : Obligations.ElementArithmeticCompletes := by
  intro q s g e w arith bitwise
  refine ⟨?_, ?_, ?_, ?_, ?_, ?_, ?_, ?_, ?_, ?_, ?_, ?_, ?_, ?_, ?_, ?_, ?_, ?_, ?_, ?_⟩
  · exact fun h => (exec_elemAdd_eq ..).trans (onNode_elem h rfl)
  · exact fun h => (exec_elemSub_eq ..).trans (onNode_elem h rfl)
  · exact fun h => (exec_elemMul_eq ..).trans (onNode_elem h rfl)
  · exact fun h => (exec_elemFma_eq ..).trans (onNode_elem h rfl)
  · exact fun h => (exec_elemMul3_eq ..).trans (onNode_elem h rfl)
  · exact fun h => (exec_elemMin_eq ..).trans (onNode_elem h rfl)
  · exact fun h => (exec_elemMax_eq ..).trans (onNode_elem h rfl)
  · exact fun h => (exec_elemDiv_eq ..).trans (onNode_elem h rfl)
  · exact fun h => (exec_elemAnd_eq ..).trans (onNode_elem h rfl)
  · exact fun h => (exec_elemOr_eq ..).trans (onNode_elem h rfl)
  · exact fun h => (exec_elemXor_eq ..).trans (onNode_elem h rfl)
  · exact fun h => (exec_elemShl_eq ..).trans (onNode_elem h rfl)
  · exact fun h => (exec_elemShr_eq ..).trans (onNode_elem h rfl)
  · exact fun h => (exec_elemCvt_eq ..).trans (onNode_elem h rfl)
  · exact fun h => (exec_elemFn_eq ..).trans (onNode_elem h rfl)
  · exact fun h => (exec_elemSel_eq ..).trans (onNode_elem h rfl)
  · exact fun h => (exec_elemCmp_eq ..).trans (onNode_elem h rfl)
  · exact fun h => (exec_elemRed_eq ..).trans (onNode_elem h rfl)
  · exact fun h => (exec_elemHad_eq ..).trans (onNode_elem h rfl)
  · intro h index bad
    refine (exec_elemPerm_eq ..).trans (onNode_elem h ?_)
    -- the model asks for the index across the columns, the statement for the one along the rows
    simp only [Bool.not_eq_true', ← Bool.not_eq_true, ite_not]
    rfl

/-! ### What an instruction that writes a tile leaves unchanged (R129 to R139) -/

/-- Engine `y` holds what `x` held: its vectors, scalars, mask and lengths, and its tile buffers but for the positions that
`d` picks. -/
structure Elem.Kept (d : Nat → Prop) (x y : Elem) : Prop where
  v : y.v = x.v
  sreg : y.sreg = x.sreg
  mask : y.mask = x.mask
  vln : y.vln = x.vln
  vlm : y.vlm = x.vlm
  tile : ∀ key, ¬d key → tblGet 0 y.t key = tblGet 0 x.t key

/-- Node `n` holds what `s` held, but for the registers, the records and the engine of Gable `g`, of which it holds what
`Elem.Kept` says. -/
structure ElemFrame (d : Nat → Prop) (g : Nat) (s n : Node) : Prop where
  byte : ∀ a, readByte n a = readByte s a
  gable : ∀ h, h ≠ g → gableOf n h = gableOf s h
  group : ∀ k, groupOf n g k = groupOf s g k
  scratch : ∀ h off, scratchByte n h off = scratchByte s h off
  own : Elem.Kept d (elemOf s g) (elemOf n g)

/-- The positions of the tile buffer that an instruction's D names, within the run's part. -/
def destTile (e : Elem) (key : Nat) : Prop :=
  ∃ m j, m < runRows e ∧ j < runCols e ∧ key = tileKey (eD (elemWord e)) m j

theorem mem_runPositions {e : Elem} {m j : Nat} : (m, j) ∈ runPositions e ↔ m < runRows e ∧ j < runCols e := by
  simp [runPositions]

section kept
variable {d : Nat → Prop} {g : Nat} {x y : Elem} {s t u : Node}

theorem Elem.Kept.refl (x : Elem) : Elem.Kept d x x := ⟨rfl, rfl, rfl, rfl, rfl, fun _ _ => rfl⟩

/-- One position of the destination is written. -/
theorem Elem.Kept.write (h : Elem.Kept d x y) {key : Nat} (hd : d key) (c : Nat) :
    Elem.Kept d x { y with t := tblSet 0 y.t key c } := by
  obtain ⟨hv, hsreg, hmask, hvln, hvlm, htile⟩ := h
  refine ⟨hv, hsreg, hmask, hvln, hvlm, fun k hk => ?_⟩
  have hne : key ≠ k := fun he => hk (he ▸ hd)
  rw [tblGet_tblSet_ne hne, htile k hk]

/-- Of the engine, an instruction writes its destination alone. -/
theorem kept_tileWrite (e : Elem) (f : Nat → Nat → Flagged) :
    Elem.Kept (destTile e) e (tileWrite e (elemWord e) f).1 := by
  refine List.foldlRecOn (motive := fun p : Elem × Nat => Elem.Kept (destTile e) e p.1) _ _ (.refl e) ?_
  rintro ⟨y, fl⟩ hy ⟨m, j⟩ hmem
  dsimp only
  split
  · exact hy
  · obtain ⟨hm, hj⟩ := mem_runPositions.1 hmem
    exact hy.write ⟨m, j, hm, hj, rfl⟩ _

/-- The generator is none of what is kept. -/
theorem kept_drawn {sr : Prop} [Decidable sr] {gen : Nat} (h : Elem.Kept d x y) :
    Elem.Kept d x (if sr then { y with gen := gen } else y) := by
  obtain ⟨hv, hsreg, hmask, hvln, hvlm, htile⟩ := h
  split
  · exact ⟨hv, hsreg, hmask, hvln, hvlm, htile⟩
  · exact ⟨hv, hsreg, hmask, hvln, hvlm, htile⟩

theorem ElemFrame.refl (s : Node) : ElemFrame d g s s :=
  ⟨fun _ => rfl, fun _ _ => rfl, fun _ => rfl, fun _ _ => rfl, .refl _⟩

/-- A change of registers that memory does not read through touches no Gable. -/
theorem ElemFrame.quiet (h : ElemFrame d g s t) (hq : Quiet t u) : ElemFrame d g s u where
  byte a := (hq.reads.readByte a).trans (h.byte a)
  gable i hi := (hq.gableOf i).trans (h.gable i hi)
  group k := (hq.groupOf g k).trans (h.group k)
  scratch i off := by rw [scratchByte, hq.gableOf, ← h.scratch, scratchByte]
  own := by rw [show elemOf u g = elemOf t g from congrArg Gable.elem (hq.gableOf g)]; exact h.own

theorem elemOf_modElem_self (s : Node) (g : Nat) (f : Elem → Elem) : elemOf (modElem s g f) g = f (elemOf s g) := by
  rw [elemOf, modElem, gableOf_modGable_self, elemOf]

theorem elemFrame_modElem {f : Elem → Elem} (h : Elem.Kept d (elemOf s g) (f (elemOf s g))) :
    ElemFrame d g s (modElem s g f) where
  byte := (sameReads_modGable ..).readByte
  gable i hi := gableOf_modGable_ne (Ne.symm hi)
  group k := by rw [groupOf, modElem, gableOf_modGable_self, groupOf]
  scratch i off := by
    by_cases hi : g = i
    · subst hi
      rw [scratchByte, modElem, gableOf_modGable_self, scratchByte]
    · rw [scratchByte, modElem, gableOf_modGable_ne hi, scratchByte]
  own := by rw [elemOf_modElem_self]; exact h

/-- ELEM_STATUS is none of the registers that memory is read through. -/
theorem quiet_elemStatus (s : Node) (g : Nat) (f : Fld) (v : Nat) : Quiet s (fOr s (gLoc .elemStatus g) f v) :=
  quiet_regSet (quietReg_of_offset (o := 0x1008) rfl rfl (by decide)) ..

/-- The end of an instruction writes control state and flags beside the engine's new value. -/
theorem elemFrame_elemDone (h : Elem.Kept d (elemOf s g) y) (fl : Nat) : ElemFrame d g s (elemDone s g y fl) := by
  obtain ⟨hv, hsreg, hmask, hvln, hvlm, htile⟩ := h
  exact (elemFrame_modElem ⟨hv, hsreg, hmask, hvln, hvlm, htile⟩).quiet (quiet_elemStatus ..)

end kept

section tile
variable {q : List Instr} {s n : Node} {g op : Nat}

theorem elemFrame_tileWrite (f : Nat → Nat → Flagged) :
    ElemFrame (destTile (elemOf s g)) g s (elemDone s g (tileWrite (elemOf s g) (elemWord (elemOf s g)) f).1
      (tileWrite (elemOf s g) (elemWord (elemOf s g)) f).2) :=
  elemFrame_elemDone (kept_tileWrite ..) _

/-- The same where the instruction draws random numbers (R47). -/
theorem elemFrame_tileWrite_drawn {sr : Prop} [Decidable sr] {gen : Nat} (f : Nat → Nat → Flagged) :
    ElemFrame (destTile (elemOf s g)) g s (elemDone s g
      (if sr then { (tileWrite (elemOf s g) (elemWord (elemOf s g)) f).1 with gen := gen }
        else (tileWrite (elemOf s g) (elemWord (elemOf s g)) f).1)
      (tileWrite (elemOf s g) (elemWord (elemOf s g)) f).2) :=
  elemFrame_elemDone (kept_drawn (kept_tileWrite ..)) _

theorem elemFrame_elemMapGo (f : Elem → Nat → RMode → Nat → Nat → Nat → Flagged) :
    ElemFrame (destTile (elemOf s g)) g s (elemMapGo s g f (elemOf s g) (elemWord (elemOf s g))) := by
  dsimp only [elemMapGo]
  exact elemFrame_tileWrite_drawn _

/-- A command of an engine that answers a next state leaves what its instruction leaves, or changes nothing. -/
theorem elemFrame_of_step {c : Instr} {f : Node → Elem → Nat → Node}
    (hc : exec c ⟨q, s⟩ = onNode ⟨q, s⟩ fun u => onGable g (elemStep u g op (f u)))
    (h : exec c ⟨q, s⟩ = .next ⟨q, n⟩)
    (hf : ElemFrame (destTile (elemOf s g)) g s (f s (elemOf s g) (elemWord (elemOf s g)))) :
    ElemFrame (destTile (elemOf s g)) g s n := by
  rw [hc] at h
  obtain ⟨_, rfl⟩ := onGable_eq_next.1 (onNode_eq_next.1 h).1
  dsimp only [elemStep]
  split
  · exact hf
  · exact .refl s

/-- Each of the twenty instructions leaves all but its destination. -/
theorem elemFrame_exec {c : Instr}
    (hc : c ∈ [Instr.elemAdd g, .elemSub g, .elemMul g, .elemFma g, .elemMul3 g, .elemMin g, .elemMax g, .elemDiv g,
      .elemFn g, .elemSel g, .elemCmp g, .elemAnd g, .elemOr g, .elemXor g, .elemShl g, .elemShr g, .elemCvt g, .elemRed g,
      .elemPerm g, .elemHad g])
    (h : exec c ⟨q, s⟩ = .next ⟨q, n⟩) : ElemFrame (destTile (elemOf s g)) g s n := by
  simp only [List.mem_cons, List.not_mem_nil, or_false] at hc
  rcases hc with rfl | rfl | rfl | rfl | rfl | rfl | rfl | rfl | rfl | rfl | rfl | rfl | rfl | rfl | rfl | rfl | rfl |
    rfl | rfl | rfl
  · exact elemFrame_of_step (exec_elemAdd_eq ..) h (elemFrame_elemMapGo _)
  · exact elemFrame_of_step (exec_elemSub_eq ..) h (elemFrame_elemMapGo _)
  · exact elemFrame_of_step (exec_elemMul_eq ..) h (elemFrame_elemMapGo _)
  · exact elemFrame_of_step (exec_elemFma_eq ..) h (elemFrame_elemMapGo _)
  · exact elemFrame_of_step (exec_elemMul3_eq ..) h (elemFrame_elemMapGo _)
  · exact elemFrame_of_step (exec_elemMin_eq ..) h (elemFrame_elemMapGo _)
  · exact elemFrame_of_step (exec_elemMax_eq ..) h (elemFrame_elemMapGo _)
  · exact elemFrame_of_step (exec_elemDiv_eq ..) h (elemFrame_elemMapGo _)
  · exact elemFrame_of_step (exec_elemFn_eq ..) h (by dsimp only; exact elemFrame_tileWrite_drawn _)
  · exact elemFrame_of_step (exec_elemSel_eq ..) h (by dsimp only; exact elemFrame_tileWrite _)
  · exact elemFrame_of_step (exec_elemCmp_eq ..) h (by dsimp only; exact elemFrame_tileWrite _)
  · exact elemFrame_of_step (exec_elemAnd_eq ..) h (elemFrame_elemMapGo _)
  · exact elemFrame_of_step (exec_elemOr_eq ..) h (elemFrame_elemMapGo _)
  · exact elemFrame_of_step (exec_elemXor_eq ..) h (elemFrame_elemMapGo _)
  · exact elemFrame_of_step (exec_elemShl_eq ..) h (elemFrame_elemMapGo _)
  · exact elemFrame_of_step (exec_elemShr_eq ..) h (elemFrame_elemMapGo _)
  · exact elemFrame_of_step (exec_elemCvt_eq ..) h (elemFrame_elemMapGo _)
  · exact elemFrame_of_step (exec_elemRed_eq ..) h (by dsimp only; exact elemFrame_tileWrite _)
  · -- PERM sets INDEX_RANGE beside the flags (R138)
    have hperm := fun f fl v => (elemFrame_tileWrite (s := s) (g := g) f).quiet (quiet_elemStatus _ g fl v)
    exact elemFrame_of_step (exec_elemPerm_eq ..) h (by dsimp only; exact hperm ..)
  · exact elemFrame_of_step (exec_elemHad_eq ..) h (by dsimp only; exact elemFrame_tileWrite _)

end tile

/-- Settles O23: each instruction leaves all but its destination (`elemFrame_exec`), and the statement asks for that. -/
theorem elementInstructionFrame : Obligations.ElementInstructionFrame := by
  intro q s n g c hc hexec e
  obtain ⟨hbyte, hgable, hgroup, hscratch, hv, hsreg, hmask, hvln, hvlm, htile⟩ := elemFrame_exec hc hexec
  refine ⟨hbyte, hgable, hgroup, fun h off => ?_, hv, hsreg, hmask, hvln, hvlm, fun key hkey => htile key ?_⟩
  · rw [scratchLE_one, scratchLE_one, hscratch]
  · rintro ⟨m, j, hm, hj, hk⟩
    exact hkey m j hm hj hk

/-! ### The other instructions, and the start of a run (R122 to R143, R155, R156) -/

/-- Settles O33, a command at a time: the engine stands ready at its instruction, and the conditions pick the branch of its
meaning that acts. -/
theorem elementControlCompletes : Obligations.ElementControlCompletes := by
  intro q s g
  dsimp only
  refine ⟨?_, ?_, ?_, ?_, ?_, ?_, ?_, ?_, ?_, ?_, ?_, ?_⟩
  · exact fun h => (exec_elemEnd_eq ..).trans (onNode_elem h rfl)
  · intro h
    refine (exec_elemSetvl_eq ..).trans (onNode_elem h ?_)
    exact (apply_ite (fun y => elemDone s g y 0) _ _ _).symm
  · exact fun h => (exec_elemMsk_eq ..).trans (onNode_elem h rfl)
  · intro h
    refine (exec_elemSop_eq ..).trans (onNode_elem h ?_)
    dsimp only
    generalize eC (elemWord (elemOf s g)) = code
    -- codes 0 to 6 name a function each, every other one the last (R131)
    rcases code with _ | _ | _ | _ | _ | _ | _ | code <;> rfl
  · exact fun h => (exec_elemSkip_eq ..).trans (onNode_elem h rfl)
  · intro h
    refine ⟨fun hkind hheld => ?_, fun f hf => ⟨fun hkind hheld => ?_, fun hkind hplain hheld => ?_⟩, fun _ _ hheld => ?_⟩
    · exact (exec_elemLd_eq ..).trans (onServed_elem h (by simp only [hkind]) hheld)
    · refine (exec_elemLd_eq ..).trans (onServed_elem h ?_ hheld)
      rcases hkind with hkind | hkind <;> simp only [hkind, hf]
    · exact (exec_elemLd_eq ..).trans (onServed_elem h (by simp only [hkind, hf, hplain]; rfl) hheld)
    · exact (exec_elemScaleLoad_eq ..).trans (onServed_elem h rfl hheld)
  · exact fun h hheld => (exec_elemSt_eq ..).trans (onServed_elem h rfl hheld)
  · exact fun h hheld => (exec_elemStsc_eq ..).trans (onServed_elem h rfl hheld)
  · exact fun h hheld => (exec_elemCast_eq ..).trans (onServed_elem h rfl hheld)
  · intro slot i v hg hslot hi hf
    refine ⟨withResp (regSet s (slotLoc g slot i) v) .done, ?_, ?_, ?_⟩
    · exact (exec_elemSlotWrite_eq ..).trans (onNode_gable hg (by simp [hf, hslot, hi]))
    · exact regGet_regSet_self ..
    · simp only [withResp, regSet]
  · intro h hstores hremotes
    refine (exec_elemSig_eq ..).trans (onNode_elem h (if_neg ?_))
    have hnone : (s.remotes.any fun r => decide (r.result = none) && r.who == elemStorer (elemOf s g) g) = false := by
      rw [← Bool.not_eq_true', List.not_any_eq_all_not]
      exact hremotes
    simp [hstores, hnone]
  · intro y hg hidle hf hctrl hfind hfault
    simp only [elemOf] at hidle hfault
    refine (exec_elemRunStart_eq ..).trans (onNode_gable hg ((if_neg (by simp [hidle, hf, hctrl])).trans ?_))
    simp only [hfind, elemOf, hfault]

end Sys2Proof.Machine
end

section
/-! Statements of 07_tile_scheduling.md: sequence entries, and the commands of tile lists, launches, steals, completions and
their control. -/

namespace Sys2Proof.Machine

/-! ### The meanings of the commands below -/

section meanings
variable (d g : Nat) (v : Word) (s : State)

theorem exec_seqEntryStageWrite_eq (k i : Nat) : exec (.seqEntryStageWrite k i v) s = execSeqEntryStageWrite k i v s := rfl
theorem exec_seqEntryCommit_eq (k : Nat) : exec (.seqEntryCommit k v) s = execSeqEntryCommit k v s := rfl
theorem exec_tsListAddrWrite_eq (agent : Nat) :
    exec (.tsListAddrWrite d agent v) s = execTsListAddrWrite d agent v s := rfl
theorem exec_tsListGoWrite_eq (agent : Nat) : exec (.tsListGoWrite d agent v) s = execTsListGoWrite d agent v s := rfl
theorem exec_tileDescFetch_eq : exec (.tileDescFetch d) s = execTileDescFetch d s := rfl
theorem exec_tileLaunch_eq : exec (.tileLaunch g) s = execTileLaunch g s := rfl
theorem exec_tileSteal_eq : exec (.tileSteal g) s = execTileSteal g s := rfl
theorem exec_brokerStealRequest_eq : exec (.brokerStealRequest d g) s = execBrokerStealRequest d g s := rfl
theorem exec_tileComplete_eq (id : Nat) : exec (.tileComplete d id) s = execTileComplete d id s := rfl
theorem exec_tsEnableWrite_eq : exec (.tsEnableWrite d v) s = execTsEnableWrite d v s := rfl
theorem exec_tsDisableDone_eq : exec (.tsDisableDone d) s = execTsDisableDone d s := rfl
theorem exec_brokerEnableWrite_eq (b : Nat) : exec (.brokerEnableWrite b v) s = execBrokerEnableWrite b v s := rfl
theorem exec_layoutBatchWrite_eq (addr : Nat) : exec (.layoutBatchWrite addr v) s = execLayoutBatchWrite addr v s := rfl

end meanings

/-! ### Words of a sequence entry (R176, R177) -/

theorem regKey_seqLoc (k i : Nat) :
    regKey (seqLoc k i) = (12 + k / 1024 % 4) * 2 ^ 28 + (0x13 + 0) * 2 ^ 20 + 0x10000 + (k % 1024 * 0x20 + (i * 8 + 0)) :=
  rfl

theorem regKey_seqStatus (b : Nat) : regKey (bLoc .seqStatus b) = (12 + b) * 2 ^ 28 + (0x13 + 0) * 2 ^ 20 + 8 + 0 := rfl

theorem regGet_withResp (s : Node) (r : Resp) (l : RegLoc) : regGet (withResp s r) l = regGet s l := rfl

/-- No two words of an entry share a register. -/
theorem regGet_regSet_seqLoc_ne {i j : Nat} (h : i ≠ j) (s : Node) (k : Nat) (w : Word) :
    regGet (regSet s (seqLoc k i) w) (seqLoc k j) = regGet s (seqLoc k j) := by
  refine regGet_regSet_ne ?_
  rw [regKey_seqLoc, regKey_seqLoc]
  omega

/-- After the words `is` of an entry have been written, each of them reads as written and any other word as before. -/
theorem regGet_foldl_regSet_seqLoc (k j : Nat) (w : Nat → Word) (is : List Nat) (s : Node) :
    regGet (is.foldl (fun s i => regSet s (seqLoc k i) (w i)) s) (seqLoc k j) =
      if j ∈ is then w j else regGet s (seqLoc k j) := by
  induction is generalizing s with
  | nil => rfl
  | cons i is ih =>
    rw [List.foldl_cons, ih]
    by_cases hij : i = j
    · subst hij
      simp
    · rw [regGet_regSet_seqLoc_ne hij]
      simp [Ne.symm hij]

/-- SEQ_STATUS is no word of an entry. -/
theorem regGet_fOr_seqStatus {i : Nat} (hi : i ≤ 3) (s : Node) (b k : Nat) (f : Fld) (v : Nat) :
    regGet (fOr s (bLoc .seqStatus b) f v) (seqLoc k i) = regGet s (seqLoc k i) := by
  refine regGet_regSet_ne ?_
  rw [regKey_seqStatus, regKey_seqLoc]
  omega

/-- A one-bit field reads one after a one was set in it. -/
theorem fGet_fOr_one {f : Fld} (hbit : f.hi = f.lo) (h : f.hi < 64) (s : Node) (l : RegLoc) :
    fGet (fOr s l f 1) l f = 1 := by
  rw [fOr, fGet_fSet_self _ _ _ _ h, hbit, Nat.add_sub_cancel_left, pow_one, Nat.or_mod_two_eq_one]
  exact .inr rfl

/-- What an accepted commit leaves: word 0 as stored with GEN advanced, words 1 to 3 as staged. -/
def seqCommitted (s : Node) (k : Nat) (v : Word) : Node :=
  [1, 2, 3].foldl (fun u i => regSet u (seqLoc k i) (tblGet 0 s.seqStaged (4 * k + i)))
    (regSet s (seqLoc k 0) (wput v 63 48 ((wbits (regGet s (seqLoc k 0)) 63 48 + 1) % 65536)))

section sequence
variable {q : List Instr} {s : Node} {k : Nat} {v : Word}

theorem exec_seqEntryStageWrite {i : Nat} (hk : k < 4096) (hlo : 1 ≤ i) (hhi : i ≤ 3) :
    exec (.seqEntryStageWrite k i v) ⟨q, s⟩ =
      .next ⟨q, { s with seqStaged := tblSet 0 s.seqStaged (4 * k + i) v, resp := .done }⟩ := by
  rw [exec_seqEntryStageWrite_eq]
  exact onNode_unit hk (if_pos ⟨hlo, hhi⟩)

theorem exec_seqEntryCommit_accepted (hk : k < 4096)
    (h : seqRefused v.toNat (tblGet 0 s.seqStaged (4 * k + 2)).toNat = false) :
    exec (.seqEntryCommit k v) ⟨q, s⟩ = .next ⟨q, withResp (seqCommitted s k v) .done⟩ := by
  rw [exec_seqEntryCommit_eq]
  exact onNode_unit hk (if_neg (ne_true_of_eq_false h))

theorem exec_seqEntryCommit_refused (hk : k < 4096)
    (h : seqRefused v.toNat (tblGet 0 s.seqStaged (4 * k + 2)).toNat = true) :
    exec (.seqEntryCommit k v) ⟨q, s⟩ =
      .next ⟨q, withResp (fOr s (bLoc .seqStatus (k / 1024)) fSeqStatusReject 1) .done⟩ := by
  rw [exec_seqEntryCommit_eq]
  have hbase : k / 1024 % 4 = k / 1024 := Nat.mod_eq_of_lt (by omega)
  exact onNode_unit hk ((if_pos h).trans (by rw [hbase]))

theorem regGet_seqCommitted_zero :
    regGet (seqCommitted s k v) (seqLoc k 0) = wput v 63 48 ((wbits (regGet s (seqLoc k 0)) 63 48 + 1) % 65536) := by
  rw [seqCommitted, regGet_foldl_regSet_seqLoc k 0 fun i => tblGet 0 s.seqStaged (4 * k + i), if_neg (by decide),
    regGet_regSet_self]

theorem regGet_seqCommitted_staged {i : Nat} (hlo : 1 ≤ i) (hhi : i ≤ 3) :
    regGet (seqCommitted s k v) (seqLoc k i) = tblGet 0 s.seqStaged (4 * k + i) := by
  have hmem : i ∈ [1, 2, 3] := by simp; omega
  rw [seqCommitted, regGet_foldl_regSet_seqLoc k i fun i => tblGet 0 s.seqStaged (4 * k + i), if_pos hmem]

end sequence

/-- Settles O21: a store to words 1 to 3 changes the staged words alone; a commit either writes the four registers of its
entry, no two of which meet, or REJECT alone. -/
theorem sequenceEntry : Obligations.SequenceEntry := by
  intro q s k v hk
  refine ⟨fun i hlo hhi => ⟨exec_seqEntryStageWrite hk hlo hhi, tblGet_tblSet_self ..⟩, ?_⟩
  cases h : seqRefused v.toNat (tblGet 0 s.seqStaged (4 * k + 2)).toNat with
  | false =>
    refine ⟨_, exec_seqEntryCommit_accepted hk h, ?_, fun _ => ⟨fun i hlo hhi => ?_, ?_⟩, by simp⟩
    · simp only [withResp, seqCommitted, List.foldl, regSet]
    · rw [regGet_withResp, regGet_seqCommitted_staged hlo hhi]
    · rw [regGet_withResp, regGet_seqCommitted_zero]
  | true =>
    refine ⟨_, exec_seqEntryCommit_refused hk h, ?_, by simp, fun _ => ⟨fun i hi => ?_, ?_⟩⟩
    · simp only [withResp, fOr, fSet, regSet]
    · rw [regGet_withResp, regGet_fOr_seqStatus hi]
    · rw [fGet_withResp, fGet_fOr_one rfl (by decide)]

/-! ### Commands of a die -/

theorem onNode_die {q : List Instr} {s t : Node} {d : Nat} {f : Node → Node} (hd : d < 12) (ht : f s = t) :
    onNode ⟨q, s⟩ (fun u => onDie d (f u)) = .next ⟨q, t⟩ :=
  onNode_unit hd ht

/-- The same of a command with accesses of its own, none of which is left at a home (log entry 184). -/
theorem onServed_die {q : List Instr} {s t : Node} {d : Nat} {f : Node → Node} (hd : d < 12) (ht : f s = t)
    (hheld : accessHeld t = false) : onServed ⟨q, s⟩ (fun u => onDie d (f u)) = .next ⟨q, t⟩ :=
  onServed_of_next (onDie_eq_next.2 ⟨hd, ht⟩) (served_of_not_held hheld)

/-! ### Lists and their descriptors (R163 to R165) -/

section lists
variable {q : List Instr} {s : Node} {d : Nat} {v : Word}

theorem exec_tsListAddrWrite (hd : d < 12) (hf : isFenced s d = false) (agent : Nat) :
    exec (.tsListAddrWrite d agent v) ⟨q, s⟩ = .next ⟨q,
      withResp (modSched s d fun c => { c with listAddr := tblSet 0 c.listAddr agent (v.toNat / 64 * 64) }) .done⟩ := by
  rw [exec_tsListAddrWrite_eq]
  exact onNode_die hd (if_neg (by simp [hf]))

theorem exec_tsListGoWrite (hd : d < 12) (hf : isFenced s d = false) (agent : Nat) (hlo : 1 ≤ wbits v 12 0)
    (hhi : wbits v 12 0 ≤ 4096) :
    exec (.tsListGoWrite d agent v) ⟨q, s⟩ = .next ⟨q,
      withResp (submitList s d (tblGet 0 (schedOf s d).listAddr agent) (wbits v 12 0) none) .done⟩ := by
  rw [exec_tsListGoWrite_eq]
  have hcount : ¬(isFenced s d = true ∨ wbits v 12 0 = 0 ∨ wbits v 12 0 > 4096) := by
    simp only [hf, Bool.false_eq_true, false_or]
    omega
  exact onNode_die hd (if_neg hcount)

/-- The head list's pages are known, so its next descriptor is taken. -/
theorem exec_tileDescFetch {l : TileList} {rest : List TileList} {pas : List (Nat × Bool)} {t : Node} (hd : d < 12)
    (hf : isFenced s d = false) (hon : isOn s (tsCtrl d) = true) (hfree : poolFree s d ≠ 0)
    (hlists : (schedOf s d).lists = l :: rest) (hseq : l.fseq = 0) (hpas : l.pas = some pas)
    (ht : takeDesc s d l (pas.getD l.next (0, true)).1 (pas.getD l.next (0, true)).2 = t) (hheld : accessHeld t = false) :
    exec (.tileDescFetch d) ⟨q, s⟩ = .next ⟨q, t⟩ := by
  rw [exec_tileDescFetch_eq]
  refine onServed_die hd ((if_neg (by simp [hf, hon, hfree])).trans ?_) hheld
  simp only [hlists, hseq, hpas, ne_eq, not_true_eq_false, if_false, ht]

end lists

/-! ### Launches, steals and completions (R168 to R173) -/

section tiles
variable {q : List Instr} {s : Node} {d g : Nat}

theorem exec_tileLaunch {e : PoolEntry} (hg : g < 192) (hon : isOn s (tsCtrl (g / 16)) = true)
    (hdirect : directWaits s g = false) (he : oldest ((queueOf s (g / 16) (g % 16)).filter (tileReady s)) = some e)
    (hroom : canAdmit s g e.words = true) : exec (.tileLaunch g) ⟨q, s⟩ = .next ⟨q, launchEntry s g e⟩ := by
  rw [exec_tileLaunch_eq]
  refine onNode_gable hg ((if_neg (by simp [hon, hdirect])).trans ?_)
  simp only [he, hroom, if_true]

/-- R170: a steal within the die comes before any request to the broker. -/
theorem exec_tileSteal_die {e : PoolEntry} (hg : g < 192) (hmay : maySteal s g = true) (he : stealDie s g = some e) :
    exec (.tileSteal g) ⟨q, s⟩ = .next ⟨q,
      cntAdd (modPool s (g / 16) e.order fun x => { x with gable := g % 16 }) (dLoc .tsStealsDie (g / 16)) 1⟩ := by
  rw [exec_tileSteal_eq]
  refine onNode_gable hg ((if_neg (by simp [hmay])).trans ?_)
  simp only [he]

section victim
variable {node : Bool} (hg : g < 192) (hmay : maySteal s g = true) (hnone : stealDie s g = none)
  (hvictim : stealVictim s g = some (d, node))
include hg hmay hnone hvictim

theorem exec_tileSteal_broker : exec (.tileSteal g) ⟨q, s⟩ = .next ⟨q, give s d g node⟩ := by
  rw [exec_tileSteal_eq]
  refine onNode_gable hg ((if_neg (by simp [hmay])).trans ?_)
  simp only [hnone, hvictim]

theorem exec_brokerStealRequest (hd : d < 12) :
    exec (.brokerStealRequest d g) ⟨q, s⟩ = .next ⟨q, give s d g node⟩ := by
  rw [exec_brokerStealRequest_eq]
  refine onNode_die hd ((if_pos (by simp [hg, hmay, hnone])).trans ?_)
  simp only [hvictim, if_true]

end victim

theorem exec_tileComplete {id : Nat} {t : Tile} (hd : d < 12) (hf : isFenced s d = false)
    (ht : (schedOf s d).tiles.find? (fun t => t.id == id) = some t) (hlost : t.lost = false)
    (hbusy : tileBusy s ⟨d, id⟩ = false) :
    exec (.tileComplete d id) ⟨q, s⟩ = .next ⟨q,
      let s1 := modSched s d fun c => { c with tiles := dropFirst (fun x => x.id == id) c.tiles }
      if bit t.sig 15 then addDep s1 (bits t.sig 9 0) t.inc else s1⟩ := by
  rw [exec_tileComplete_eq]
  refine onNode_die hd ?_
  simp only [ht]
  exact if_neg (by simp [hf, hlost, hbusy])

end tiles

/-! ### Control of the scheduler and the broker, layout registers (R174, R178, R184) -/

section control
variable {q : List Instr} {s : Node} {d : Nat} {v : Word}

theorem exec_tsEnableWrite (hd : d < 12) (hf : isFenced s d = false) :
    exec (.tsEnableWrite d v) ⟨q, s⟩ = .next ⟨q,
      withResp (enableWrite (fSet s (tsCtrl d) fTsCtrlBatch (wbits v 19 16)) (tsCtrl d) (wbit v 0)) .done⟩ := by
  rw [exec_tsEnableWrite_eq]
  exact onNode_die hd (if_neg (by simp [hf]))

/-- R174: the scheduler leaves DISABLING once no tile of its own is left in flight. -/
theorem exec_tsDisableDone (hd : d < 12) (hf : isFenced s d = false) (hstate : ctrlState s (tsCtrl d) = stDisabling)
    (htiles : (schedOf s d).tiles.all (fun t => t.lost || t.scope == scopeDirect) = true) :
    exec (.tsDisableDone d) ⟨q, s⟩ = .next ⟨q, setCtrlState s (tsCtrl d) stOff⟩ := by
  rw [exec_tsDisableDone_eq]
  exact onNode_die hd ((if_pos ⟨.inl hstate, hf, htiles⟩).trans (ownStepEnds_of_disabling hstate))

theorem exec_brokerEnableWrite {b : Nat} (hb : b < 4) :
    exec (.brokerEnableWrite b v) ⟨q, s⟩ = .next ⟨q, withResp (enableWrite
      (fSet s (bLoc .brokerCtrl b) fBrokerCtrlXbd (wbits v 1 1)) (bLoc .brokerCtrl b) (wbit v 0)) .done⟩ := by
  rw [exec_brokerEnableWrite_eq]
  exact onNode_unit hb rfl

theorem exec_layoutBatchWrite_batch {addr : Nat} {l : RegLoc} (hl : findReg addr = some l) (hid : l.id = .batch) :
    exec (.layoutBatchWrite addr v) ⟨q, s⟩ = .next ⟨q, withResp (regSet s l (v &&& 0x8FFF8FFF8FFF8FFF#64)) .done⟩ := by
  rw [exec_layoutBatchWrite_eq]
  exact onNode_of_next (by simp only [hl, hid, if_true])

theorem exec_layoutBatchWrite_layout {addr : Nat} {l : RegLoc} (hl : findReg addr = some l)
    (hid : l.id = .layout ∨ l.id = .layoutRow) :
    exec (.layoutBatchWrite addr v) ⟨q, s⟩ = .next ⟨q, withResp (storeReg s l v) .done⟩ := by
  rw [exec_layoutBatchWrite_eq]
  have hbatch : l.id ≠ .batch := by rcases hid with h | h <;> simp [h]
  exact onNode_of_next (by simp only [hl, hbatch, hid, if_true, if_false])

end control

/-- Settles O34, a command at a time: the die is in service, and the conditions pick the branch that acts. -/
theorem tileCommandsComplete : Obligations.TileCommandsComplete := by
  intro q s d v hd hf
  refine ⟨?_, ?_, ?_, ?_, ?_, ?_, ?_, ?_, ?_, ?_, ?_, ?_⟩
  · exact exec_tsListAddrWrite hd hf
  · exact exec_tsListGoWrite hd hf
  · intro l rest pas hon hfree hlists hseq hpas t hheld
    exact exec_tileDescFetch hd hf hon hfree hlists hseq hpas rfl hheld
  · exact fun i hi => exec_depCntWrite hi v
  · intro g e hg hdie hon hdirect he hroom
    subst hdie
    exact exec_tileLaunch hg hon hdirect he hroom
  · exact fun g e hg hmay he => exec_tileSteal_die hg hmay he
  · intro g node hg hmay hnone hvictim
    exact ⟨exec_tileSteal_broker hg hmay hnone hvictim, exec_brokerStealRequest hg hmay hnone hvictim hd⟩
  · exact fun id t ht hlost hbusy => exec_tileComplete hd hf ht hlost hbusy
  · exact exec_tsEnableWrite hd hf
  · exact exec_tsDisableDone hd hf
  · exact fun b hb => exec_brokerEnableWrite hb
  · exact fun addr l hl => ⟨exec_layoutBatchWrite_batch hl, exec_layoutBatchWrite_layout hl⟩

end Sys2Proof.Machine
end

section
/-! Statements of 08_host_cores.md: instructions of a host core, traps and returns, the modes of satp and STU_SATP, and the
commands of a core's cluster. -/

namespace Sys2Proof.Machine

/-! ### The meanings of the commands below -/

section meanings
variable (c d g b : Nat) (v : Word) (s : State)

theorem exec_hostCoreInstruction_eq (len : Nat) (ins : HostOp) :
    exec (.hostCoreInstruction c len ins) s = execHostCoreInstruction c len ins s := rfl
theorem exec_satpWrite_eq : exec (.satpWrite c v) s = execSatpWrite c v s := rfl
theorem exec_sfenceVma_eq (va asid : Option Nat) : exec (.sfenceVma c va asid) s = execSfenceVma c va asid s := rfl
theorem exec_cboClean_eq (va : Nat) : exec (.cboClean c va) s = execCboClean c va s := rfl
theorem exec_cboFlush_eq (va : Nat) : exec (.cboFlush c va) s = execCboFlush c va s := rfl
theorem exec_cboInval_eq (va : Nat) : exec (.cboInval c va) s = execCboInval c va s := rfl
theorem exec_cboZero_eq (va : Nat) : exec (.cboZero c va) s = execCboZero c va s := rfl
theorem exec_stuSatpWrite_eq : exec (.stuSatpWrite v) s = execStuSatpWrite v s := rfl
theorem exec_timerInterrupt_eq : exec (.timerInterrupt c) s = execTimerInterrupt c s := rfl
theorem exec_imsicSeteipnumWrite_eq (mlevel : Bool) :
    exec (.imsicSeteipnumWrite c mlevel v) s = execImsicSeteipnumWrite c mlevel v s := rfl
theorem exec_aplicRegisterWrite_eq (md : Bool) (a : Nat) :
    exec (.aplicRegisterWrite b md a v) s = execAplicRegisterWrite b md a v s := rfl
theorem exec_aplicSourceEvent_eq (i : Nat) : exec (.aplicSourceEvent b i) s = execAplicSourceEvent b i s := rfl
theorem exec_glaunchWrite_eq : exec (.glaunchWrite g v) s = execGlaunchWrite g v s := rfl
theorem exec_glaunchFetchDone_eq : exec (.glaunchFetchDone g) s = execGlaunchFetchDone g s := rfl
theorem exec_depWatchWrite_eq (w : Nat) : exec (.depWatchWrite d w v) s = execDepWatchWrite d w v s := rfl
theorem exec_depWatchFire_eq (w : Nat) : exec (.depWatchFire d w) s = execDepWatchFire d w s := rfl

end meanings

/-! ### Fields beside the one that is written -/

/-- A bit of a number after a field was replaced: the field's own, or the number's outside it. -/
theorem testBit_putBits (w hi lo v i : Nat) :
    (putBits w hi lo v).testBit i = if i < lo ∨ hi < i then w.testBit i else v.testBit (i - lo) := by
  set k := hi + 1 - lo with hk
  have hw := Nat.div_add_mod w (2 ^ lo)
  have hq := Nat.div_add_mod (w / 2 ^ lo) (2 ^ k)
  -- what lies above the field, the field, and what lies below it
  have hput : putBits w hi lo v = 2 ^ lo * (2 ^ k * (w / 2 ^ lo / 2 ^ k) + v % 2 ^ k) + w % 2 ^ lo := by
    simp only [putBits, bits, Nat.shiftRight_eq_div_pow, Nat.shiftLeft_eq, ← hk]
    have hsplit : w = 2 ^ lo * (2 ^ k * (w / 2 ^ lo / 2 ^ k)) + w % 2 ^ lo + w / 2 ^ lo % 2 ^ k * 2 ^ lo := by
      conv_lhs => rw [← hw, ← hq]
      ring
    conv_lhs => enter [1, 1]; rw [hsplit]
    rw [Nat.add_sub_cancel]
    ring
  have hlow : w % 2 ^ lo < 2 ^ lo := Nat.mod_lt _ (by positivity)
  have hfield : v % 2 ^ k < 2 ^ k := Nat.mod_lt _ (by positivity)
  rw [hput, Nat.testBit_two_pow_mul_add _ hlow, Nat.testBit_two_pow_mul_add _ hfield]
  by_cases hbelow : i < lo
  · simp [hbelow]
  · by_cases habove : hi < i
    · have hout : ¬i - lo < k := by omega
      rw [if_neg hbelow, if_neg hout, if_pos (.inr habove), Nat.div_div_eq_div_mul, ← pow_add, Nat.testBit_div_two_pow]
      congr 1
      omega
    · have hin : i - lo < k := by omega
      simp [hbelow, habove, hin]

theorem bits_putBits_of_disjoint {hi lo hi' lo' : Nat} (h : hi' < lo ∨ hi < lo') (w v : Nat) :
    bits (putBits w hi lo v) hi' lo' = bits w hi' lo' := by
  refine Nat.eq_of_testBit_eq fun i => ?_
  simp only [bits, Nat.testBit_mod_two_pow, Nat.testBit_shiftRight, testBit_putBits]
  by_cases hbit : i < hi' + 1 - lo'
  · rw [if_pos (by omega)]
  · simp [hbit]

/-- A write of one field of a register leaves its other fields alone. -/
theorem fGet_fSet_of_disjoint {f f' : Fld} (h : f'.hi < f.lo ∨ f.hi < f'.lo) (h64 : f'.hi < 64) (s : Node) (l : RegLoc)
    (v : Nat) : fGet (fSet s l f v) l f' = fGet s l f' := by
  simp only [fGet, fSet, regGet_regSet_self, wbits, wput, BitVec.toNat_ofNat, bits_mod_two_pow h64,
    bits_putBits_of_disjoint h]

/-! ### A core's CSRs and mstatus (R187) -/

section core
variable (h : HostCore) (n v hi lo : Nat)

@[simp] theorem csrPut_x : (csrPut h n v).x = h.x := rfl
@[simp] theorem msPut_x : (msPut h hi lo v).x = h.x := rfl

/-- A CSR's value rests on the core's stored CSRs alone. -/
theorem hcsr_congr {h h' : HostCore} (hcsrs : h.csr = h'.csr) (n : Nat) : hcsr h n = hcsr h' n := by
  rw [hcsr, hcsrs, hcsr]

theorem msField_congr {h h' : HostCore} (hcsrs : h.csr = h'.csr) {hi lo : Nat} : msField h hi lo = msField h' hi lo := by
  rw [msField, hcsr_congr hcsrs, msField]

/-- A CSR holds 64 bits, and no two CSRs share their storage. -/
theorem hcsr_csrPut (m : Nat) : hcsr (csrPut h n v) m = if n = m then v % 2 ^ 64 else hcsr h m := by
  simp only [hcsr, csrPut, tblGet_tblSet]
  split
  · rw [BitVec.toNat_ofNat]
  · rfl

/-- A write of an mstatus field writes no other CSR. -/
theorem hcsr_msPut_of_ne {m : Nat} (hm : m ≠ 0x300) : hcsr (msPut h hi lo v) m = hcsr h m := by
  rw [msPut, hcsr_csrPut, if_neg hm.symm]

variable {hi lo}

theorem msField_msPut_self (h64 : hi < 64) : msField (msPut h hi lo v) hi lo = v % 2 ^ (hi + 1 - lo) := by
  rw [msField, msPut, hcsr_csrPut, if_pos rfl, bits_mod_two_pow h64, bits_putBits]

theorem msField_msPut_of_disjoint {hi' lo' : Nat} (hd : hi' < lo ∨ hi < lo') (h64 : hi' < 64) :
    msField (msPut h hi lo v) hi' lo' = msField h hi' lo' := by
  rw [msField, msPut, hcsr_csrPut, if_pos rfl, bits_mod_two_pow h64, bits_putBits_of_disjoint hd, msField]

end core

/-! ### Traps to machine mode, and MRET (R185, by the RISC-V privileged architecture: log entry 46) -/

/-- A core as a trap to machine mode saves it: MEPC, MCAUSE and MTVAL written, MIE and the mode stacked in mstatus. -/
def trapSaved (h : HostCore) (cause tval : Nat) : HostCore :=
  msPut (msPut (msPut (csrPut (csrPut (csrPut h 0x341 h.pc) 0x342 cause) 0x343 tval) 7 7 (msField h 3 3)) 3 3 0) 12 11 h.mode

section trap
variable {h : HostCore} {intr : Bool} {code : Nat}

/-- A trap that is not delegated goes to machine mode. -/
theorem takeTrap_of_machine (hm : h.mode = 3 ∨ bit (hcsr h (if intr then 0x303 else 0x302)) code = false) (tval : Nat) :
    takeTrap h intr code tval = { trapSaved h ((if intr then 2 ^ 63 else 0) + code) tval with
      mode := 3, pc := trapPc (hcsr h 0x305) intr code, waiting := false } := by
  refine if_neg ?_
  rcases hm with h3 | hbit
  · simp [h3]
  · simp [hbit]

variable (h) (cause tval : Nat)

theorem trapSaved_x : (trapSaved h cause tval).x = h.x := by
  simp only [trapSaved, msPut_x, csrPut_x]

theorem hcsr_trapSaved_mepc : hcsr (trapSaved h cause tval) 0x341 = h.pc % 2 ^ 64 := by
  simp [trapSaved, hcsr_msPut_of_ne, hcsr_csrPut]

theorem hcsr_trapSaved_mcause : hcsr (trapSaved h cause tval) 0x342 = cause % 2 ^ 64 := by
  simp [trapSaved, hcsr_msPut_of_ne, hcsr_csrPut]

theorem msField_trapSaved_mpp : msField (trapSaved h cause tval) 12 11 = h.mode % 4 := by
  simp [trapSaved, msField_msPut_self]

theorem msField_trapSaved_mpie : msField (trapSaved h cause tval) 7 7 = msField h 3 3 := by
  have hbit : msField h 3 3 < 2 := bits_lt ..
  simp [trapSaved, msField_msPut_self, msField_msPut_of_disjoint, Nat.mod_eq_of_lt hbit]

theorem msField_trapSaved_mie : msField (trapSaved h cause tval) 3 3 = 0 := by
  simp [trapSaved, msField_msPut_self, msField_msPut_of_disjoint]

end trap

theorem mretOf_pc (h : HostCore) : (mretOf h).pc = hcsr h 0x341 := rfl

theorem mretOf_mode {h : HostCore} (hmpp : msField h 12 11 ≠ 2) : (mretOf h).mode = msField h 12 11 := if_neg hmpp

/-- A core as MRET unstacks it: MIE from MPIE, MPIE set, MPP cleared. -/
def unstacked (h : HostCore) : HostCore := msPut (msPut (msPut h 3 3 (msField h 7 7)) 7 7 1) 12 11 0

theorem msField_unstacked_mie (h : HostCore) : msField (unstacked h) 3 3 = msField h 7 7 := by
  have hbit : msField h 7 7 < 2 := bits_lt ..
  simp [unstacked, msField_msPut_self, msField_msPut_of_disjoint, Nat.mod_eq_of_lt hbit]

/-- The same with MPRV cleared where MRET leaves machine mode. -/
def mretUnstacked (h : HostCore) : HostCore :=
  if msField h 12 11 = 3 then unstacked h else msPut (unstacked h) 17 17 0

theorem mretOf_eq (h : HostCore) : mretOf h = { mretUnstacked h with
    mode := if msField h 12 11 = 2 then 0 else msField h 12 11, pc := hcsr h 0x341 } := rfl

theorem mretOf_x (h : HostCore) : (mretOf h).x = h.x := by
  rw [mretOf_eq]
  dsimp only [mretUnstacked]
  split
  · simp only [unstacked, msPut_x]
  · simp only [unstacked, msPut_x]

/-- MRET restores MIE from MPIE. -/
theorem msField_mretOf_mie (h : HostCore) : msField (mretOf h) 3 3 = msField h 7 7 := by
  have hcsr : (mretOf h).csr = (mretUnstacked h).csr := by rw [mretOf_eq]
  rw [msField_congr hcsr, mretUnstacked]
  split
  · exact msField_unstacked_mie h
  · rw [msField_msPut_of_disjoint _ _ (.inl (by decide)) (by decide), msField_unstacked_mie]

/-- Settles O36: a trap to machine mode leaves the core as `trapSaved` says, and MRET reads back what that saved. -/
theorem trapSavesAndReturns : Obligations.TrapSavesAndReturns := by
  intro h intr code tval hpc hmode hmode2 hcode hm t
  set cause := (if intr then 2 ^ 63 else 0) + code with hcause
  have hcause64 : cause < 2 ^ 64 := by
    rw [hcause]
    split <;> omega
  have ht : t = _ := takeTrap_of_machine hm tval
  have hcsrs : t.csr = (trapSaved h cause tval).csr := by rw [ht]
  have hmpp : msField t 12 11 = h.mode := by
    rw [msField_congr hcsrs, msField_trapSaved_mpp, Nat.mod_eq_of_lt hmode]
  have hmpie : msField t 7 7 = msField h 3 3 := by rw [msField_congr hcsrs, msField_trapSaved_mpie]
  have hmepc : hcsr t 0x341 = h.pc := by rw [hcsr_congr hcsrs, hcsr_trapSaved_mepc, Nat.mod_eq_of_lt hpc]
  have hx : t.x = h.x := by rw [ht, trapSaved_x]
  refine ⟨by rw [ht], by rw [ht], hmepc, ?_, hmpp, hmpie, ?_, hx, ?_, ?_, ?_, ?_⟩
  · rw [hcsr_congr hcsrs, hcsr_trapSaved_mcause, Nat.mod_eq_of_lt hcause64]
  · rw [msField_congr hcsrs, msField_trapSaved_mie]
  · rw [mretOf_mode (hmpp.trans_ne hmode2), hmpp]
  · rw [mretOf_pc, hmepc]
  · rw [msField_mretOf_mie, hmpie]
  · rw [mretOf_x, hx]

/-! ### The modes of satp and STU_SATP (R187, R259) -/

theorem csrWriteOf_satp (s : Node) (c v : Nat) :
    csrWriteOf s c 0x180 v = modCore s c fun h => csrPut h 0x180 (satpAfter (hcsr (coreOf s c) 0x180) v) := rfl

theorem satpAfter_of_accepted {v : Nat} (hv : bits v 63 60 = 0 ∨ bits v 63 60 = 9 ∨ bits v 63 60 = 10) (old : Nat) :
    satpAfter old v = v := if_pos (by simpa using hv)

theorem satpAfter_of_not_accepted {v : Nat} (hv : ¬(bits v 63 60 = 0 ∨ bits v 63 60 = 9 ∨ bits v 63 60 = 10)) (old : Nat) :
    satpAfter old v = old := if_neg (by simpa using hv)

theorem hcsr_lt (h : HostCore) (n : Nat) : hcsr h n < 2 ^ 64 := BitVec.isLt _

theorem satpAfter_lt {old v : Nat} (hold : old < 2 ^ 64) (hv : v < 2 ^ 64) : satpAfter old v < 2 ^ 64 := by
  unfold satpAfter
  split
  · exact hv
  · exact hold

theorem hcsr_csrWriteOf_satp (s : Node) (c : Nat) (v : Word) :
    hcsr (coreOf (csrWriteOf s c 0x180 v.toNat) c) 0x180 = satpAfter (hcsr (coreOf s c) 0x180) v.toNat := by
  rw [csrWriteOf_satp, coreOf_modCore_self, hcsr_csrPut, if_pos rfl,
    Nat.mod_eq_of_lt (satpAfter_lt (hcsr_lt ..) v.isLt)]

/-- R274: a slice that accepts a shootdown writes STU_SHOOT_SEQ and no other register. -/
theorem fGet_acceptShoot {b : Nat} {l : RegLoc} (h : regKey (bLoc .stuShootSeq b) ≠ regKey l) (s : Node) (x : Shoot)
    (f : Fld) : fGet (acceptShoot s b x) l f = fGet s l f :=
  fGet_fSet_ne h ..

/-- Settles O57: satp is written with what `satpAfter` picks; STU_SATP's two fields lie apart, and the shootdown that the
write starts touches neither. -/
theorem satpModes : Obligations.SatpModes := by
  intro s c v
  refine ⟨fun hv => ?_, fun hv => ?_, fun q => ⟨_, rfl, ?_, ?_⟩⟩
  · rw [hcsr_csrWriteOf_satp, satpAfter_of_accepted hv]
  · rw [hcsr_csrWriteOf_satp, satpAfter_of_not_accepted hv]
  · rw [fGet_withResp, fGet_acceptShoot (by decide), fGet_fSet_of_disjoint (.inl (by decide)) (by decide),
      fGet_fSet_self _ _ _ _ (by decide)]
    exact Nat.mod_eq_of_lt (bits_lt ..)
  · rw [fGet_withResp, fGet_acceptShoot (by decide), fGet_fSet_self _ _ _ _ (by decide)]
    have hmode : wbits v 63 60 < 16 := bits_lt ..
    refine Nat.mod_eq_of_lt ?_
    split
    · exact hmode
    · decide

/-! ### Instructions of a core (R185 to R193) -/

/-- An instruction that has been fetched is performed in the state its fetch left, and a core that is stepped halts after
it (R528). -/
theorem hostRun_of_fetchedTo {s t : Node} {c len : Nat} (h : fetchedTo s c len t) (f : Node → Node) :
    hostRun s c len f = stepEnds (f t) c := by
  obtain ⟨hruns, hintr, htrig, v, u, hfetch, rfl⟩ := h
  simp only [hostRun, hruns, hintr, htrig, hfetch]
  rfl

/-- A command of a core that executes an instruction, none of whose accesses is left at a home (log entry 184). -/
theorem onServed_fetched {q : List Instr} {s t u : Node} {c len : Nat} {f : Node → Node} (hc : c < 96)
    (h : fetchedTo s c len t) (hu : stepEnds (f t) c = u) (hheld : accessHeld u = false) :
    onServed ⟨q, s⟩ (fun s => onCore c (hostRun s c len f)) = .next ⟨q, u⟩ :=
  onServed_of_next (onCore_eq_next.2 ⟨hc, (hostRun_of_fetchedTo h f).trans hu⟩) (served_of_not_held hheld)

section instruction
variable {q : List Instr} {s t : Node} {c : Nat}

theorem exec_hostCoreInstruction {n : Nat} {ins : HostOp} (hc : c < 96) (hn : n = 2 ∨ n = 4) (h : fetchedTo s c n t)
    (hheld : accessHeld (stepEnds (hostEffect t c n ins) c) = false) :
    exec (.hostCoreInstruction c n ins) ⟨q, s⟩ = .next ⟨q, stepEnds (hostEffect t c n ins) c⟩ := by
  have hlen : (if n = 2 then 2 else 4) = n := by rcases hn with rfl | rfl <;> rfl
  rw [exec_hostCoreInstruction_eq]
  simp only [execHostCoreInstruction, hlen]
  exact onServed_fetched hc h rfl hheld

/-- A load whose access answers puts the value in its register (R189). -/
theorem hostEffect_load {n size rd rs1 v : Nat} {sgn : Bool} {off : Int} {u : Node} (hsize : size ∈ [1, 2, 4, 8])
    (hload : hostLoad t c (hAddr (coreOf t c) rs1 off) size = (u, .ok v)) :
    hostEffect t c n (.load size sgn rd rs1 off) =
      modCore u c fun h => hRetire (xPut h rd (if sgn then wrap 64 (signed (8 * size) v) else v)) n := by
  simp only [hostEffect, List.contains_iff_mem.2 hsize, hload]
  rfl

theorem hostEffect_mret (n : Nat) (hm : (coreOf t c).mode = 3) :
    hostEffect t c n .mret = modCore t c fun h => mretOf (retired h) := if_pos hm

theorem satpWrite_of_may (hmay : csrMay (coreOf t c) 0x180 true = true) (v : Nat) :
    satpWrite t c v = modCore (csrWriteOf t c 0x180 v) c fun h => hRetire h 4 := if_neg (by simp [hmay])

/-- R193: a fence in machine mode, or in supervisor mode where TVM is clear, drops the translations it names. -/
theorem sfence_of_may (hmay : (coreOf t c).mode = 3 ∨ ((coreOf t c).mode = 1 ∧ msField (coreOf t c) 20 20 = 0))
    (va asid : Option Nat) :
    sfence t c va asid =
      modCore t c fun x => hRetire { x with tlb := x.tlb.filter fun e => !fenceHits va asid e } 4 := by
  refine if_neg ?_
  rcases hmay with hm | ⟨hm, htvm⟩
  · simp [hm]
  · simp [hm, htvm]

/-- R188: the home of a line of HBM is asked to clean or flush it. -/
theorem cboLine_hbm {u : Node} {va bitNo pa pbmt : Nat} {kind : ReqKind} (hmay : cboMay (coreOf t c) bitNo = true)
    (hone : hostOne t c (hostVa (coreOf t c) va accRead) 1 accRead = (u, .ok pa pbmt)) (hpa : paKind u pa = .hbm) :
    cboLine t c va bitNo kind =
      modCore (homeGo (sendHome u (plainReq kind (lineOf pa) (c / 8))) (lineOf pa)) c fun h => hRetire h 4 := by
  simp only [cboLine, hmay, hone, hpa]
  rfl

/-- R188: CBO.ZERO on a cached page stores 64 zero bytes in the core's cache. -/
theorem cboZero_hbm {u : Node} {va pa : Nat} (hmay : cboMay (coreOf t c) 7 = true)
    (hone : hostOne t c (hostVa (coreOf t c) va accWrite / 64 * 64) 64 accWrite = (u, .ok pa 0))
    (hhbm : inHbm u pa 64 = true) (hpa : paKind u pa = .hbm) :
    cboZero t c va = modCore (storeLine u (c / 8) (16 + c % 8) 0 (lineOf pa) .host
      ((List.range 64).map fun i => (pa % lineBytes + i, (0#8 : Byte)))) c fun h => hRetire h 4 := by
  simp only [cboZero, hmay, hone, hhbm, pieceStore, hpa]
  rfl

end instruction

/-- Settles O35: an instruction that has been fetched does what its own meaning says (which one it is, the command says: log
entry 51), and the conditions pick the branch that acts. -/
theorem hostInstructionsComplete : Obligations.HostInstructionsComplete := by
  intro q s t c n hc hn hfetched
  refine ⟨fun ins => exec_hostCoreInstruction hc hn hfetched, fun _ _ _ _ => rfl,
    fun _ _ _ _ _ _ _ hsize hload => hostEffect_load hsize hload, rfl, hostEffect_mret n, ?_⟩
  rintro rfl
  refine ⟨?_, ?_, ?_, ?_, ?_⟩
  · intro v hmay u hheld
    rw [exec_satpWrite_eq]
    exact onServed_fetched hc hfetched (by rw [satpWrite_of_may hmay]) hheld
  · intro va asid hmay u hheld
    rw [exec_sfenceVma_eq]
    exact onServed_fetched hc hfetched (by rw [sfence_of_may hmay]) hheld
  · intro va pa pbmt u hva hmay hone hpa after
    rw [exec_cboClean_eq, exec_cboFlush_eq]
    have hline (kind : ReqKind) : stepEnds (cboLine t c (va % 2 ^ 64) 6 kind) c = after kind := by
      rw [Nat.mod_eq_of_lt hva, cboLine_hbm hmay hone hpa]
    exact ⟨onServed_fetched hc hfetched (hline .cln), onServed_fetched hc hfetched (hline .fls)⟩
  · intro va pa pbmt u hva hmay hone hpa u1 hheld
    rw [exec_cboInval_eq]
    refine onServed_fetched hc hfetched ?_ hheld
    rw [Nat.mod_eq_of_lt hva, cboLine_hbm hmay hone hpa]
  · intro va pa u hva hmay hone hhbm hpa u1 hheld
    rw [exec_cboZero_eq]
    refine onServed_fetched hc hfetched ?_ hheld
    rw [Nat.mod_eq_of_lt hva, cboZero_hbm hmay hone hhbm hpa]

/-! ### The cores' clusters (R197 to R203) -/

/-- A command of a core the node has leads to what its meaning answers. -/
theorem onNode_core {q : List Instr} {s t : Node} {c : Nat} {f : Node → Node} (hc : c < 96) (ht : f s = t) :
    onNode ⟨q, s⟩ (fun u => onCore c (f u)) = .next ⟨q, t⟩ :=
  onNode_unit hc ht

/-- R198: an MSI to a core in service sets the pending bit of an identity its file implements. -/
theorem sendMsi_of_valid {s : Node} {c id : Nat} (hf : isFenced s (c / 8) = false) (hlo : 1 ≤ id) (hhi : id ≤ 255)
    (mlevel : Bool) :
    sendMsi s c mlevel id = modCore s c fun h =>
      if mlevel then { h with mfile := { h.mfile with pending := h.mfile.pending ||| 1 <<< id }, waiting := false }
      else { h with sfile := { h.sfile with pending := h.sfile.pending ||| 1 <<< id }, waiting := false } :=
  (if_neg (by simp [hf])).trans (if_neg (by omega))

section cluster
variable {q : List Instr} {s : Node} {d g : Nat} {v : Word}

/-- R201: a launch block in HBM is read where its page translates without a fault. -/
theorem exec_glaunchFetchDone {pa : Nat} {m : Bool} {maps : List PageMap} {l : DirectLaunch} {t : Node} (hg : g < 192)
    (hf : isFenced s (g / 16) = false) (hl : (gableOf s g).launch = some l) (hblock : l.block = none) (hseq : l.fseq = 0)
    (htrans : translateAll s (g / 16) none accRead [l.addr] = (t, .ok [(pa, m)] maps))
    (hnone : s.remotes.all (fun r => r.who != .launch g) = true)
    (hheld : accessHeld (readLaunch t g l.addr pa m maps) = false) :
    exec (.glaunchFetchDone g) ⟨q, s⟩ = .next ⟨q, readLaunch t g l.addr pa m maps⟩ := by
  have hasked : s.remotes.find? (fun r => r.who == .launch g) = none := by
    rw [List.find?_eq_none]
    intro r hr
    simpa using List.all_eq_true.1 hnone r hr
  rw [exec_glaunchFetchDone_eq]
  refine onServed_gable hg ?_ hheld
  simp only [hl, hasked, hblock, hseq, hf, htrans]
  rfl

/-- R203: a watch's CORE that names a core of the node is kept as stored. -/
theorem exec_depWatchWrite {w : Nat} (hd : d < 12) (hw : w < 16) (hf : isFenced s d = false) (hcore : wbits v 46 40 ≤ 95) :
    exec (.depWatchWrite d w v) ⟨q, s⟩ = .next ⟨q, withResp (let t := storeReg s (watchLoc d w) v
      if watchDue t d w then fireWatch t d w else t) .done⟩ := by
  rw [exec_depWatchWrite_eq]
  refine onNode_die hd ?_
  have hrun : ¬(isFenced s d = true ∨ w ≥ 16) := by simp [hf, hw]
  rw [if_neg hrun]
  simp only [if_neg (Nat.not_lt.2 hcore)]

end cluster

/-- Settles O37, a command at a time: the unit exists and its die is in service, and the conditions pick the branch that
acts. -/
theorem clusterCommandsComplete : Obligations.ClusterCommandsComplete := by
  intro q s
  refine ⟨?_, ?_, ?_, ?_, ?_, ?_, ?_, ?_⟩
  · intro c hc hf
    rw [exec_timerInterrupt_eq]
    exact onNode_core hc (if_neg (by simp [hf]))
  · intro c v hc hlo hhi hf
    simp only [exec_imsicSeteipnumWrite_eq]
    exact ⟨onNode_core hc (by rw [sendMsi_of_valid hf hlo hhi]; rfl),
      onNode_core hc (by rw [sendMsi_of_valid hf hlo hhi]; rfl)⟩
  · intro b a md v hb
    rw [exec_aplicRegisterWrite_eq]
    exact onNode_unit hb rfl
  · intro b i hb hlo hhi hi
    rw [exec_aplicSourceEvent_eq]
    exact onNode_unit hb (if_neg (by omega))
  · intro g v hg hf hfree
    rw [exec_glaunchWrite_eq]
    exact onNode_gable hg (by simp [hf, hfree])
  · intro g pa m maps l t hg hf hl hblock hseq htrans _ _ hnone u hheld
    exact exec_glaunchFetchDone hg hf hl hblock hseq htrans hnone hheld
  · exact fun d w v hd hw hf hcore => exec_depWatchWrite hd hw hf hcore
  · intro d w hd hw hf hdue
    rw [exec_depWatchFire_eq]
    exact onNode_die hd (if_pos ⟨hw, hf, hdue⟩)

end Sys2Proof.Machine
end

section
/-! Statements of 09_coherence.md: requests that reach their home and run, and the snoops, responses, acknowledgements,
timeouts and fence scans that end them. -/

namespace Sys2Proof.Machine

/-! ### The meanings of the commands below -/

section meanings
variable (d a b line : Nat) (x : Target) (f : ReadFault) (p : Bool) (s : State)

theorem exec_rds_eq : exec (.rds d line f) s = execRds d line f s := rfl
theorem exec_rdx_eq : exec (.rdx d line f) s = execRdx d line f s := rfl
theorem exec_upg_eq : exec (.upg d x) s = execUpg d x s := rfl
theorem exec_wbd_eq : exec (.wbd d x) s = execWbd d x s := rfl
theorem exec_evc_eq : exec (.evc d x) s = execEvc d x s := rfl
theorem exec_cln_eq : exec (.cln a x) s = execCln a x s := rfl
theorem exec_fls_eq : exec (.fls a x) s = execFls a x s := rfl
theorem exec_rdonce_eq : exec (.rdonce a line f) s = execRdonce a line f s := rfl
theorem exec_wrline_eq (data : List Byte) : exec (.wrline a x data p) s = execWrline a x data p s := rfl
theorem exec_wrpart_eq (data : List (Nat × Byte)) : exec (.wrpart a x data p) s = execWrpart a x data p s := rfl
theorem exec_atom_eq (size func arg cmp : Nat) :
    exec (.atom a x size func arg cmp) s = execAtom a x size func arg cmp s := rfl
theorem exec_snps_eq : exec (.snps d line) s = execSnps d line s := rfl
theorem exec_snpx_eq : exec (.snpx d line) s = execSnpx d line s := rfl
theorem exec_snprd_eq : exec (.snprd d line) s = execSnprd d line s := rfl
theorem exec_snpcln_eq : exec (.snpcln d line) s = execSnpcln d line s := rfl
theorem exec_snprcl_eq : exec (.snprcl d line) s = execSnprcl d line s := rfl
theorem exec_snpinv_eq : exec (.snpinv d line) s = execSnpinv d line s := rfl
theorem exec_coherenceResponse_eq : exec (.coherenceResponse d line) s = execCoherenceResponse d line s := rfl
theorem exec_cmpack_eq : exec (.cmpack d line) s = execCmpack d line s := rfl
theorem exec_snoopTimeout_eq : exec (.snoopTimeout d line) s = execSnoopTimeout d line s := rfl
theorem exec_fenceScanDone_eq : exec (.fenceScanDone b) s = execFenceScanDone b s := rfl

end meanings

/-! ### Lines of installed memory -/

/-- A command about a line of installed memory is not refused. -/
theorem onLine_of_inHbm {s : Node} {line : Nat} (h : inHbm s (line * lineBytes) lineBytes = true) (t : Node) :
    onLine s line t = .next t := by
  simp [onLine, h]

/-- A request without a miss is put in the queue of its line's home, and the home serves the line. -/
theorem onNode_plainSend {q : List Instr} {s : Node} {line : Nat} (h : inHbm s (line * lineBytes) lineBytes = true)
    (r : HomeReq) (f : ReadFault) (hr : r.line = line) :
    onNode ⟨q, s⟩ (fun u => plainSend u r f) = .next ⟨q, serveLine (sendHome s r) line f⟩ := by
  subst hr
  exact onNode_of_next (onLine_of_inHbm h _)

/-- A command of a die about a line of installed memory leads to what its meaning answers. -/
theorem onNode_dieLine {q : List Instr} {s t : Node} {d line : Nat} {g : Node → Node} (hd : d < 12)
    (h : inHbm s (line * lineBytes) lineBytes = true) (ht : g s = t) :
    onNode ⟨q, s⟩ (fun u => if d < 12 then onLine u line (g u) else .fault .noSuchUnit) = .next ⟨q, t⟩ :=
  onNode_of_next ((if_pos hd).trans ((onLine_of_inHbm h _).trans (congrArg _ ht)))

/-! ### A die's own requests (R208, R209, R214) -/

section request
variable {q : List Instr} {s : Node} {d line : Nat} (f : ReadFault) (hd : d < 12) (hf : isFenced s d = false)
  (hline : inHbm s (line * lineBytes) lineBytes = true)
include hd hf hline

/-- R209: a die asks for a line that it does not hold; a repeat waits for the request outstanding (R208). -/
theorem exec_rds_rdx (h : holdSt s d line = .i ∨ hasMiss s d line = true) :
    exec (.rds d line f) ⟨q, s⟩ = .next ⟨q, dieReq s d line false f⟩ ∧
    exec (.rdx d line f) ⟨q, s⟩ = .next ⟨q, dieReq s d line true f⟩ := by
  have hasks : ¬(isFenced s d || (decide (holdSt s d line ≠ .i) && !hasMiss s d line)) = true := by
    rcases h with h | h <;> simp [hf, h]
  rw [exec_rds_eq, exec_rdx_eq]
  exact ⟨onNode_dieLine hd hline (if_neg hasks), onNode_dieLine hd hline (if_neg hasks)⟩

/-- R209: a die asks to write a line that it holds in S or O. -/
theorem exec_upg (h : hasMiss s d line = true ∨ holdSt s d line = .s ∨ holdSt s d line = .o) :
    exec (.upg d ⟨line, f⟩) ⟨q, s⟩ = .next ⟨q, dieReq s d line true f⟩ := by
  rw [exec_upg_eq]
  exact onNode_dieLine hd hline (if_neg (by rcases h with h | h | h <;> simp [hf, h]))

/-- R214: a die evicts a dirty line by WbD. -/
theorem exec_wbd (hmiss : hasMiss s d line = false) (h : holdSt s d line = .m ∨ holdSt s d line = .o) :
    exec (.wbd d ⟨line, f⟩) ⟨q, s⟩ = .next ⟨q, serveLine (evictLine s d line) line f⟩ := by
  rw [exec_wbd_eq]
  exact onNode_dieLine hd hline (by simp [hf, hmiss, h])

/-- R214: a die evicts a clean line by EvC. -/
theorem exec_evc (hmiss : hasMiss s d line = false) (h : holdSt s d line = .e ∨ holdSt s d line = .s) :
    exec (.evc d ⟨line, f⟩) ⟨q, s⟩ = .next ⟨q, serveLine (evictLine s d line) line f⟩ := by
  rw [exec_evc_eq]
  exact onNode_dieLine hd hline (by simp [hf, hmiss, h])

end request

/-- R218, R226: an atomic of 4 or 8 bytes at a multiple of its size is sent to its line's home. -/
theorem exec_atom {q : List Instr} {s : Node} {addr size func : Nat} (a : Nat) (f : ReadFault) (arg cmp : Nat)
    (hline : inHbm s (lineOf addr * lineBytes) lineBytes = true) (hsize : size = 4 ∨ size = 8) (halign : addr % size = 0)
    (hfunc : func ≤ 12) :
    exec (.atom a ⟨addr, f⟩ size func arg cmp) ⟨q, s⟩ = .next ⟨q, serveLine (sendHome s
      { agentReq .atom (lineOf addr) a ((leBytes size arg).mapIdx fun i v => (addr % lineBytes + i, v)) false func with
        size := size, cmp := cmp }) (lineOf addr) f⟩ := by
  rw [exec_atom_eq]
  exact onNode_of_next ((if_pos ⟨hsize, halign, hfunc⟩).trans (onLine_of_inHbm hline _))

/-- Settles O38, a request at a time: its line lies in installed memory, and the state of the die's line lets it ask. -/
theorem coherenceRequestsComplete : Obligations.CoherenceRequestsComplete := by
  intro q s d a line f hline
  refine ⟨fun hd hf => ⟨?_, ?_, ?_⟩, ?_⟩
  · exact exec_rds_rdx f hd hf hline
  · exact exec_upg f hd hf hline
  · exact fun hmiss => ⟨exec_wbd f hd hf hline hmiss, exec_evc f hd hf hline hmiss⟩
  · simp only [exec_cln_eq, exec_fls_eq, exec_rdonce_eq, exec_wrline_eq, exec_wrpart_eq]
    have hsent (r : HomeReq) := onNode_plainSend (q := q) hline r f
    refine ⟨hsent _ rfl, hsent _ rfl, hsent _ rfl, fun _ _ => hsent _ rfl, fun _ _ => hsent _ rfl, ?_⟩
    rintro addr size func arg cmp rfl hsize halign hfunc
    exact exec_atom a f arg cmp hline hsize halign hfunc

/-! ### Snoops, responses and acknowledgements (R209, R213, R291) -/

/-- R209: a die answers a snoop in flight whose answer no route switch holds back. -/
theorem onNode_snoopCmd {q : List Instr} {s : Node} {d line : Nat} {k : Snoop} {m : SnoopMsg} (hd : d < 12)
    (hsent : (dirOf s (homeOf s line)).snoops.find? (fun m => m.line == line && m.die == d && decide (m.kind = k)) = some m)
    (hheld : snoopHeld s m = false) :
    onNode ⟨q, s⟩ (fun u => snoopCmd u d line k) = .next ⟨q, answerSnoop s m⟩ :=
  onNode_die hd (by simp [hsent, hheld])

/-- R213: a requester takes the line once its data and the last of its Acks have come. -/
theorem takeResponse_of_complete {s : Node} {d line n : Nat} {m : Miss} {st : Moesi} (hm : missOf s d line = some m)
    (hgrant : m.grant = some st) (hneed : m.need = some n) (hdata : m.gotData = true) (hacks : n ≤ m.acks) :
    takeResponse s d line = fillGranted s d line m st := by
  have hcome : ¬((!m.gotData) = true ∨ m.acks < n) := by simp [hdata, hacks]
  simp only [takeResponse, hm, hgrant, hneed, if_neg hcome]

/-- R213: the CmpAck of a requester that waits for no grant ends its line's transaction. -/
theorem takeCmpAck_of_answered {s : Node} {d line : Nat} {t : Txn}
    (hopen : (dirOf s (homeOf s line)).txns.find? (fun t => t.req.line == line) = some t) (hanswered : t.answered = true)
    (hsrc : t.req.src = .die d) (hgrant : ∀ m : Miss, missOf s d line = some m → m.grant = none)
    (hheld : lineHeld s (d / 3) (homeOf s line) line = false) :
    takeCmpAck s d line = homeNext (homeGo (endTxn s (homeOf s line) line) line) (homeOf s line) := by
  cases hm : missOf s d line with
  | none => simp [takeCmpAck, hopen, hanswered, hsrc, hm, hheld]
  | some m => simp [takeCmpAck, hopen, hanswered, hsrc, hm, hgrant m hm, hheld]

/-- Settles O39, a command at a time: the die or the base die exists, and the conditions pick the branch that acts. -/
theorem coherenceRepliesComplete : Obligations.CoherenceRepliesComplete := by
  intro q s d line hd
  refine ⟨?_, ?_, ?_, ?_, ?_⟩
  · intro k m hsent hheld
    simp only [exec_snps_eq, exec_snpx_eq, exec_snprd_eq, exec_snpcln_eq, exec_snprcl_eq, exec_snpinv_eq]
    have hanswer := onNode_snoopCmd (q := q) hd hsent hheld
    refine ⟨?_, ?_, ?_, ?_, ?_, ?_⟩ <;> (rintro rfl; exact hanswer)
  · intro m st n hm hgrant hneed hdata hacks
    rw [exec_coherenceResponse_eq]
    exact onNode_die hd (takeResponse_of_complete hm hgrant hneed hdata hacks)
  · intro t hopen hanswered hsrc hgrant hheld
    rw [exec_cmpack_eq]
    exact onNode_die hd (takeCmpAck_of_answered hopen hanswered hsrc hgrant hheld)
  · intro m hsent s1
    rw [exec_snoopTimeout_eq]
    exact onNode_die hd (by simp only [hsent]; rfl)
  · intro b rest hb hscan lines
    rw [exec_fenceScanDone_eq]
    exact onNode_unit hb (by simp only [hscan]; rfl)

end Sys2Proof.Machine
end

section
/-! Statements of 10_memory_and_near_cache.md: the GLOBAL interleave of lines over base dies and stacks, reads of HBM and the
patrol scrub, lost stacks, and the near-memory cache's registers, write-back, invalidation and prefetch. -/

namespace Sys2Proof.Machine

/-! ### The GLOBAL interleave (R233) -/

/-- A field of a shifted number is the field that lies as far higher up in the number. -/
theorem bits_div_two_pow (w k hi lo : Nat) : bits (w / 2 ^ k) hi lo = bits w (hi + k) (lo + k) := by
  rw [bits, bits, ← Nat.shiftRight_eq_div_pow, ← Nat.shiftRight_add, Nat.add_comm k lo,
    show hi + k + 1 - (lo + k) = hi + 1 - lo by omega]

/-- The hash that R233 folds into the two low bits of a line: it reads the line's die-local number alone. -/
def homeFold (r : Nat) : Nat := bits r 7 6 ^^^ bits r 15 14 ^^^ bits r 23 22

theorem homeFold_div_four (line : Nat) :
    homeFold (line / 4) = bits line 9 8 ^^^ bits line 17 16 ^^^ bits line 25 24 := by
  simp only [homeFold, ← bits_div_two_pow line 2, Nat.reducePow]

/-- L[32:2] of a line of the 33 bits that R233 reads. -/
theorem bits_32_2_of_lt {line : Nat} (h : line < 2 ^ 33) : bits line 32 2 = line / 4 := by
  rw [bits, Nat.shiftRight_eq_div_pow, Nat.mod_eq_of_lt (by omega)]

section interleave
variable {s : Node} (hglobal : fGet s (bLoc .hbmStatus 0) fHbmStatusMapping = 0)
include hglobal

theorem homeOf_of_global (line : Nat) :
    homeOf s line = bits line 1 0 ^^^ bits line 9 8 ^^^ bits line 17 16 ^^^ bits line 25 24 := by
  have hlt : bits line 1 0 ^^^ bits line 9 8 ^^^ bits line 17 16 ^^^ bits line 25 24 < 2 ^ 2 :=
    Nat.xor_lt_two_pow (Nat.xor_lt_two_pow (Nat.xor_lt_two_pow (bits_lt ..) (bits_lt ..)) (bits_lt ..)) (bits_lt ..)
  rw [homeOf, homeMap, hglobal]
  exact Nat.mod_eq_of_lt hlt

theorem localLine_of_global (line : Nat) : localLine s line = bits line 32 2 := by
  rw [localLine, homeMap, hglobal]
  rfl

theorem homeOf_eq_xor_homeFold (line : Nat) : homeOf s line = line % 4 ^^^ homeFold (line / 4) := by
  rw [homeOf_of_global hglobal, homeFold_div_four, Nat.xor_assoc, Nat.xor_assoc, Nat.xor_assoc]
  rfl

/-- The home base die and the die-local line number name one line. -/
theorem line_eq_of_home_local {l m : Nat} (hl : l < 2 ^ 33) (hm : m < 2 ^ 33) (hhome : homeOf s l = homeOf s m)
    (hlocal : localLine s l = localLine s m) : l = m := by
  have hdiv : l / 4 = m / 4 := by
    rwa [localLine_of_global hglobal, localLine_of_global hglobal, bits_32_2_of_lt hl, bits_32_2_of_lt hm] at hlocal
  have hmod : l % 4 = m % 4 := by
    rw [homeOf_eq_xor_homeFold hglobal, homeOf_eq_xor_homeFold hglobal, hdiv] at hhome
    exact Nat.xor_left_inj.1 hhome
  omega

end interleave

theorem homeOf_lt (s : Node) (line : Nat) : homeOf s line < 4 := Nat.mod_lt _ (by decide)

theorem stackOf_lt (s : Node) (line : Nat) : stackOf s line < 3 := Nat.mod_lt _ (by decide)

/-- Settles O14: the home is the line's two low bits XORed with a hash of its die-local number, which the XOR takes out
again. -/
theorem globalInterleave : Obligations.GlobalInterleave := by
  intro s hglobal
  refine ⟨fun line => ⟨homeOf_of_global hglobal line, localLine_of_global hglobal line, ?_, fun hline => ⟨?_, ?_⟩⟩,
    fun l m hl hm => line_eq_of_home_local hglobal hl hm⟩
  · rw [stackOf, localLine_of_global hglobal]
  · have hhome := homeOf_lt s line
    have hstack := stackOf_lt s line
    omega
  · rw [localLine_of_global hglobal, bits_32_2_of_lt (by omega)]
    omega

/-! ### The meanings of the commands below -/

section meanings
variable (b line : Nat) (r : HbmRead) (v : Word) (s : State)

theorem exec_hbmReadComplete_eq : exec (.hbmReadComplete b line r) s = execHbmReadComplete b line r s := rfl
theorem exec_patrolScrub_eq : exec (.patrolScrub b line r) s = execPatrolScrub b line r s := rfl
theorem exec_hbmStackLost_eq (stack : Nat) : exec (.hbmStackLost stack) s = execHbmStackLost stack s := rfl
theorem exec_prefetchReturn_eq : exec (.prefetchReturn b line) s = execPrefetchReturn b line s := rfl
theorem exec_nmcDieLost_eq : exec (.nmcDieLost b) s = execNmcDieLost b s := rfl
theorem exec_nmcEnableWrite_eq : exec (.nmcEnableWrite b v) s = execNmcEnableWrite b v s := rfl
theorem exec_nmcInvWrite_eq : exec (.nmcInvWrite b v) s = execNmcInvWrite b v s := rfl
theorem exec_nmcWritebackDone_eq : exec (.nmcWritebackDone b) s = execNmcWritebackDone b s := rfl
theorem exec_nmcInvDone_eq : exec (.nmcInvDone b) s = execNmcInvDone b s := rfl
theorem exec_nmcSeedWrite_eq : exec (.nmcSeedWrite b v) s = execNmcSeedWrite b v s := rfl

end meanings

/-! ### Reads of HBM and the patrol scrub (R237, R239) -/

section hbm
variable {q : List Instr} {s : Node} {b line : Nat} (r : HbmRead) (hb : b < 4) (hhome : homeOf s line = b)
  (hline : inHbm s (line * lineBytes) lineBytes = true)
include hb hhome hline

theorem exec_hbmReadComplete :
    exec (.hbmReadComplete b line r) ⟨q, s⟩ = .next ⟨q, classifyRead s b line r false⟩ := by
  rw [exec_hbmReadComplete_eq]
  exact onNode_unit hb (if_pos ⟨hhome, hline⟩)

theorem exec_patrolScrub (hhours : dictNat s 0x3000 3 ≠ 0) : exec (.patrolScrub b line r) ⟨q, s⟩ = .next ⟨q,
    classifyRead (cntAdd s (bLoc .hbmScrubLines b [stackOf s line]) 1) b line r true⟩ := by
  rw [exec_patrolScrub_eq]
  exact onNode_unit hb (if_pos ⟨hhome, hline, hhours⟩)

end hbm

/-! ### The near-memory cache (R245, R248 to R255) -/

theorem nmcOf_withResp (s : Node) (r : Resp) (b : Nat) : nmcOf (withResp s r) b = nmcOf s b := rfl

/-- The node once the near-memory cache has dropped its lines (R254). -/
def nmcInvalidated (s : Node) (b : Nat) : Node :=
  let s1 := modNmc s b fun x => { x with ways := [], eaves := [] }
  let s2 := { s1 with stale := s1.stale.filter fun p => p.1 % 16 ≠ 12 ∨ homeOf s (p.1 / 16) ≠ b }
  fSet (fSet s2 (bLoc .nmcStatus b) fNmcStatusInvBusy 0) (bLoc .nmcStatus b) fNmcStatusStaleSinceDisable 0

theorem nmcOf_nmcInvalidated (s : Node) (b : Nat) :
    nmcOf (nmcInvalidated s b) b = { nmcOf s b with ways := [], eaves := [] } :=
  nmcOf_modNmc_self s b fun x => { x with ways := [], eaves := [] }

theorem fGet_invBusy_nmcInvalidated (s : Node) (b : Nat) :
    fGet (nmcInvalidated s b) (bLoc .nmcStatus b) fNmcStatusInvBusy = 0 := by
  rw [nmcInvalidated, fGet_fSet_of_disjoint (by decide) (by decide), fGet_fSet_self _ _ _ _ (by decide), Nat.zero_mod]

theorem fGet_staleSinceDisable_nmcInvalidated (s : Node) (b : Nat) :
    fGet (nmcInvalidated s b) (bLoc .nmcStatus b) fNmcStatusStaleSinceDisable = 0 := by
  rw [nmcInvalidated, fGet_fSet_self _ _ _ _ (by decide), Nat.zero_mod]

/-- R251: a near-memory die that held no dirty line is lost without a loss of contents. -/
theorem nmcDieLost_of_clean {s : Node} {b : Nat} (hstate : ctrlState s (bLoc .nmcCtrl b) ≠ stFaulted)
    (hclean : nmcDirty s b = []) : nmcDieLost s b =
      nmcClean (logErr (faultBlock (stopPrefetch s b) (bLoc .nmcCtrl b)) (12 + b) 0x12 0x0104 0 [(1, 0)]) b := by
  have hmark : b2n (decide (([] : List Nat) ≠ [])) = 0 := by decide
  simp only [nmcDieLost, if_neg hstate, hclean, hmark, List.foldl_nil, if_true]

section nmc
variable {q : List Instr} {s : Node} {b : Nat} (hb : b < 4)
include hb

theorem exec_prefetchReturn {line : Nat} (hasked : (nmcOf s b).prefetches.contains line = true) :
    let s1 := modNmc s b fun x => { x with prefetches := dropLine line x.prefetches }
    exec (.prefetchReturn b line) ⟨q, s⟩ = .next ⟨q, if nmcHolds s1 line then s1 else transomPush s1 b line⟩ := by
  rw [exec_prefetchReturn_eq]
  exact onNode_unit hb (if_neg (by simpa using hasked))

theorem exec_nmcWritebackDone (hstate : ctrlState s (bLoc .nmcCtrl b) = stDisabling) :
    exec (.nmcWritebackDone b) ⟨q, s⟩ = .next ⟨q, ownStepEnds
      ((nmcDirtyLines s b).foldl (fun s l => wroteHbm s l.line l.poison) (modNmc (cntAdd (nmcClean s b) (bLoc .nmcWritebacks b)
        (nmcDirtyLines s b).length) b fun x => { x with current := false })) (bLoc .nmcCtrl b)⟩ := by
  have hpending : decide (stDisabling = stPending) = false := by decide
  rw [exec_nmcWritebackDone_eq]
  exact onNode_unit hb (by simp only [hstate, true_or, if_true, hpending])

theorem exec_nmcInvDone (hbusy : fGet s (bLoc .nmcStatus b) fNmcStatusInvBusy = 1) :
    exec (.nmcInvDone b) ⟨q, s⟩ = .next ⟨q, nmcInvalidated s b⟩ := by
  rw [exec_nmcInvDone_eq]
  exact onNode_unit hb (if_pos hbusy)

end nmc

/-- Settles O40, a command at a time: the unit exists, and the conditions pick the branch of its meaning that acts. -/
theorem nearMemoryCommandsComplete : Obligations.NearMemoryCommandsComplete := by
  intro q s b line r v hb
  refine ⟨?_, ?_, ?_, ?_, ?_, ?_, ?_, ?_, ?_⟩
  · exact fun hhome hline => ⟨exec_hbmReadComplete r hb hhome hline, exec_patrolScrub r hb hhome hline⟩
  · intro stack hstack
    rw [exec_hbmStackLost_eq]
    exact onNode_unit hstack rfl
  · exact exec_prefetchReturn hb
  · intro hstate hclean
    rw [exec_nmcDieLost_eq]
    exact onNode_unit hb (nmcDieLost_of_clean hstate hclean)
  · rw [exec_nmcEnableWrite_eq]
    exact onNode_unit hb rfl
  · rw [exec_nmcInvWrite_eq]
    exact onNode_unit hb rfl
  · exact exec_nmcWritebackDone hb
  · intro hbusy
    have hcache := nmcOf_nmcInvalidated s b
    exact ⟨_, exec_nmcInvDone hb hbusy, congrArg Nmc.ways hcache, congrArg Nmc.eaves hcache,
      fGet_invBusy_nmcInvalidated s b, fGet_staleSinceDisable_nmcInvalidated s b⟩
  · rw [exec_nmcSeedWrite_eq]
    exact ⟨_, onNode_unit hb rfl, by rw [nmcOf_withResp, nmcOf_modNmc_self]⟩

end Sys2Proof.Machine
end

section
/-! Statements of 11_translation_migration.md: walks, the fault ring, resolutions, migrations, shootdowns and the counts of far
accesses. -/

namespace Sys2Proof.Machine

/-! ### The meanings of the commands below -/

section meanings
variable (b : Nat) (v : Word) (s : State)

theorem exec_stuWalkComplete_eq (w : Walker) (va acc : Nat) :
    exec (.stuWalkComplete w va acc) s = execStuWalkComplete w va acc s := rfl
theorem exec_faultRecordWrite_eq : exec (.faultRecordWrite b) s = execFaultRecordWrite b s := rfl
theorem exec_fqHeadWrite_eq : exec (.fqHeadWrite b v) s = execFqHeadWrite b v s := rfl
theorem exec_fqBaseWrite_eq : exec (.fqBaseWrite b v) s = execFqBaseWrite b v s := rfl
theorem exec_stuResolveRetry_eq (x : Resolution) : exec (.stuResolveRetry x) s = execStuResolveRetry x s := rfl
theorem exec_stuResolveAbort_eq (x : Resolution) : exec (.stuResolveAbort x) s = execStuResolveAbort x s := rfl
theorem exec_stuMigrateWrite_eq : exec (.stuMigrateWrite b v) s = execStuMigrateWrite b v s := rfl
theorem exec_migrationComplete_eq : exec (.migrationComplete b) s = execMigrationComplete b s := rfl
theorem exec_stuShootRange_eq : exec (.stuShootRange b v) s = execStuShootRange b v s := rfl
theorem exec_stuShootAll_eq : exec (.stuShootAll b v) s = execStuShootAll b v s := rfl
theorem exec_shootdownComplete_eq : exec (.shootdownComplete b) s = execShootdownComplete b s := rfl
theorem exec_shootdownStalled_eq : exec (.shootdownStalled b) s = execShootdownStalled b s := rfl
theorem exec_stuCntCtrlWrite_eq : exec (.stuCntCtrlWrite v) s = execStuCntCtrlWrite v s := rfl
theorem exec_stuCntClear_eq : exec (.stuCntClear v) s = execStuCntClear v s := rfl
theorem exec_accessCountBatch_eq (die page shift : Nat) :
    exec (.accessCountBatch die page shift) s = execAccessCountBatch die page shift s := rfl

end meanings

/-- A command of a base die with accesses of its own, none of which is left at a home (log entry 184). -/
theorem onServed_base {q : List Instr} {s t : Node} {b : Nat} {f : Node → Node} (hb : b < 4) (ht : f s = t)
    (hheld : accessHeld t = false) : onServed ⟨q, s⟩ (fun u => onBase b (f u)) = .next ⟨q, t⟩ :=
  onServed_of_next (onBase_eq_next.2 ⟨hb, ht⟩) (served_of_not_held hheld)

/-- An answer holds no access at a home. -/
theorem accessHeld_withResp (s : Node) (r : Resp) : accessHeld (withResp s r) = accessHeld s :=
  accessHeld_eq_of_dirs (withResp_dirs ..)

/-! ### What leaves a slice as it was -/

theorem stuOf_eq_of_stus {s t : Node} (h : t.stus = s.stus) (b : Nat) : stuOf t b = stuOf s b := by
  rw [stuOf, h, stuOf]

theorem stuOf_fSet (s : Node) (l : RegLoc) (f : Fld) (v b : Nat) : stuOf (fSet s l f v) b = stuOf s b := rfl

theorem stuOf_cntAdd (s : Node) (l : RegLoc) (n b : Nat) : stuOf (cntAdd s l n) b = stuOf s b := rfl

theorem stuOf_withResp (s : Node) (r : Resp) (b : Nat) : stuOf (withResp s r) b = stuOf s b := rfl

theorem ite_stus {c : Prop} [Decidable c] {s t u : Node} (ht : t.stus = s.stus) (hu : u.stus = s.stus) :
    (if c then t else u).stus = s.stus := by
  split
  · exact ht
  · exact hu

theorem sendMsi_stus (s : Node) (core : Nat) (mlevel : Bool) (id : Nat) : (sendMsi s core mlevel id).stus = s.stus :=
  ite_stus rfl (ite_stus rfl rfl)

theorem aplicDeliver_stus (s : Node) (mdomain : Bool) (b src : Nat) : (aplicDeliver s mdomain b src).stus = s.stus :=
  ite_stus (sendMsi_stus ..) rfl

theorem signal_stus (s : Node) (b src : Nat) : (signal s b src).stus = s.stus := ite_stus (aplicDeliver_stus ..) rfl

/-- R399: a record goes to an error log and signals; no slice is touched. -/
theorem logErr_stus (s : Node) (scope block code addr : Nat) (detail : List (Nat × Nat)) :
    (logErr s scope block code addr detail).stus = s.stus :=
  ite_stus rfl (signal_stus ..)

/-- What a rewriting of every listed value leaves of each of them, every key still shows. -/
theorem tblGet_map_proj {α β : Type} {f : α → α} {g : α → β} (h : ∀ x, g (f x) = g x) (d : α) (t : Tbl α) (k : Nat) :
    g (tblGet d (t.map fun p => (p.1, f p.2)) k) = g (tblGet d t k) := by
  induction t with
  | nil => rfl
  | cons p t ih =>
    simp only [List.map_cons, tblGet]
    split
    · exact h _
    · exact ih

/-! ### Walks (R260 to R266) -/

/-- A requester at its translation step whose page translates goes on with what the walk leads to; only an instruction
fetch then meets faults of the physical address. -/
theorem exec_stuWalkComplete {q : List Instr} {s u : Node} {w : Walker} {die unit gl grp va acc : Nat} {g : Option Nat}
    {wt : Waiter} {m : PageMap} (hlive : walkerLive s w = true) (hparts : walkerOf s w = (die, g, wt, unit, gl, grp))
    (hfetch : ∀ g k, w ≠ .fetch g k) (hpage : translatePage s die g va acc = (u, .ok m)) (hheld : accessHeld u = false) :
    exec (.stuWalkComplete w va acc) ⟨q, s⟩ = .next ⟨q, u⟩ := by
  rw [exec_stuWalkComplete_eq]
  refine onServed_of_next ?_ (served_of_not_held hheld)
  simp only [hlive, hparts, hpage]
  cases w with
  | fetch g k => exact absurd rfl (hfetch g k)
  | _ => rfl

/-! ### The fault ring and resolutions (R269 to R271, R277) -/

/-- R277: a base that names a well-placed ring, or none, lets the records held back follow into it. -/
theorem fqBaseWrite_of_good {s : Node} {b : Nat} {v : Word} (h : fqBad (storeReg s (bLoc .fqBase b) v) b = false) :
    fqBaseWrite s b v = drainHeld 64 (storeReg s (bLoc .fqBase b) v) b :=
  if_neg (by simp [h])

/-- R270: an outstanding fault leaves its slice, with the records of the faults that joined in the same cycle, and each of
its waiters is told. -/
theorem resolve_of_outstanding {s : Node} {n : Nat} {x : Fseq}
    (h : (stuOf s (bits n 31 30)).faults.find? (fun x => x.num == n) = some x) (joined : Nat) (f : Node → Nat → Waiter → Node) :
    resolve s n joined f = x.waiters.foldl (fun s w => f s n w) (modStu s (bits n 31 30) fun u => { u with
      faults := dropFirst (fun y => y.num == n) u.faults, ready := dropJoined n joined u.ready }) := by
  simp only [resolve, h]

/-! ### Migrations (R272, R273) -/

/-- R272: a descriptor goes to the slice of its fault, or of the store where it names none; its queue has room. -/
theorem migrateWrite_of_room {s : Node} {b : Nat} {v : Word} :
    let a := wbits v 55 6 * 64
    let n := if inHbm s a 64 then readLE s a 4 else 0
    let t := if n = 0 then b else bits n 31 30
    (stuOf s t).migs.length < 64 → migrateWrite s b v =
      startMigs 1 (modStu s t fun u => { u with migs := u.migs ++ [⟨a, none, false, false, false, [], 0, false⟩] }) t := by
  intro a n t hroom
  exact if_neg (Nat.not_le.2 hroom)

section migration
variable {s : Node} {b : Nat} {m : Mig} {d : MigDesc}

/-- A migration whose old entry is closed and which copies goes on copying. -/
theorem migrate_of_copying (hdesc : m.desc = some d) (hbad : d.bad = false) (hbusy : m.busy = false)
    (hclosed : m.closed = true) (hcopying : m.copying = true) (finish : Bool) :
    migrate s b m finish = copyMig (modMig s b m fun _ => m) b m d finish := by
  obtain ⟨addr, desc, busy, closed, copying, held, since, stalled⟩ := m
  dsimp only at hdesc hbusy hclosed hcopying
  subst hdesc hbusy hclosed hcopying
  simp [migrate, hbad]

/-- R273, step 2: a near page without poison is copied at once. -/
theorem copyMig_near (hnear : migFar s d = false) (hsrc : inHbm s d.src (migBytes d) = true)
    (hclean : anyPoison (agentTouch s b clsDma d.src (migBytes d)) d.src (migBytes d) = false) :
    copyMig s b m d true = (installMig (agentTouch s b clsDma d.src (migBytes d)) b m d
      (readBytes (agentTouch s b clsDma d.src (migBytes d)) d.src (migBytes d)), true) := by
  simp [copyMig, hnear, hsrc, hclean]

/-- Where a migration's source lies is no matter of the mover's queue. -/
theorem migFar_modMig (f : Mig → Mig) : migFar (modMig s b m f) d = migFar s d := rfl

theorem inHbm_modMig (f : Mig → Mig) (a n : Nat) : inHbm (modMig s b m f) a n = inHbm s a n := rfl

end migration

/-! ### Shootdowns (R274, R275) -/

/-- R274: an accepted shootdown is the last of its slice. -/
theorem shoots_acceptShoot (s : Node) (b : Nat) (h : Shoot) :
    (stuOf (acceptShoot s b h) b).shoots = (stuOf s b).shoots ++ [h] := by
  rw [acceptShoot, stuOf_fSet, stuOf_modStu_self]

/-- The shootdown that a store to STU_SHOOT asks for. -/
def shootOf (s : Node) (v : Word) : Shoot :=
  ⟨decide (wbits v 3 0 = 2), wbits v 63 12 * 4096, wbits v 63 12 * 4096 +
    (wbits v 11 6 + 1) * 2 ^ (if wbits v 5 4 = 0 then 12 else if wbits v 5 4 = 1 then 21 else 30) - 1, false, s.now, none⟩

/-- R274: a slice with room accepts a range in a unit that exists, and a shootdown of every translation. -/
theorem stuShoot_of_room {s : Node} {b : Nat} {v : Word} (hroom : (stuOf s b).shoots.length < 16)
    (hkind : (wbits v 3 0 = 1 ∧ wbits v 5 4 ≠ 3) ∨ wbits v 3 0 = 2) : stuShoot s b v = acceptShoot s b (shootOf s v) := by
  have htaken : ¬((wbits v 3 0 ≠ 1 ∧ wbits v 3 0 ≠ 2) ∨ (wbits v 3 0 = 1 ∧ wbits v 5 4 = 3)) := by omega
  exact (if_neg htaken).trans (if_neg (Nat.not_le.2 hroom))

theorem fSet_now (s : Node) (l : RegLoc) (f : Fld) (v : Nat) : (fSet s l f v).now = s.now := rfl

/-- R259: a write of STU_SATP is a shootdown of every translation, that begins with the write. -/
theorem exec_stuSatpWrite (q : List Instr) (s : Node) (v : Word) :
    exec (.stuSatpWrite v) ⟨q, s⟩ = .next ⟨q, withResp (acceptShoot (fSet (fSet s (bLoc .stuSatp 0) fStuSatpPpn (wbits v 43 0))
      (bLoc .stuSatp 0) fStuSatpMode (if wbits v 63 60 = 9 ∨ wbits v 63 60 = 10 then wbits v 63 60 else 0)) 0
      ⟨true, 0, 2 ^ 64 - 1, false, s.now, none⟩) .done⟩ := by
  rw [exec_stuSatpWrite_eq]
  refine onNode_of_next ?_
  simp only [fSet_now]

section requests
variable {q : List Instr} {s : Node} {b : Nat} {v : Word} (hb : b < 4) (hroom : (stuOf s b).shoots.length < 16)
include hb hroom

theorem exec_stuShootRange (hkind : wbits v 3 0 = 1) (hunit : wbits v 5 4 ≠ 3) :
    exec (.stuShootRange b v) ⟨q, s⟩ = .next ⟨q, withResp (acceptShoot s b (shootOf s v)) .done⟩ := by
  rw [exec_stuShootRange_eq]
  exact onNode_unit hb (congrArg (withResp · .done) (stuShoot_of_room hroom (.inl ⟨hkind, hunit⟩)))

theorem exec_stuShootAll (hkind : wbits v 3 0 = 2) :
    exec (.stuShootAll b v) ⟨q, s⟩ = .next ⟨q, withResp (acceptShoot s b (shootOf s v)) .done⟩ := by
  rw [exec_stuShootAll_eq]
  exact onNode_unit hb (congrArg (withResp · .done) (stuShoot_of_room hroom (.inr hkind)))

end requests

theorem shoots_shootApply (s : Node) (h : Shoot) (b : Nat) : (stuOf (shootApply s h) b).shoots = (stuOf s b).shoots :=
  tblGet_map_proj (f := fun u : Stu => { u with walkCache := u.walkCache.filter fun e => !shootWalk h e }) (g := Stu.shoots)
    (fun _ => rfl) Stu.reset s.stus b

/-- The node once a slice's oldest shootdown has been applied and counted (R275). -/
def shootdownDone (s : Node) (b : Nat) (h : Shoot) : Node :=
  let s1 := modStu (shootApply s h) b fun u => { u with shoots := u.shoots.drop 1 }
  let n := fGet s1 (bLoc .stuShootSeq b) fStuShootSeqDone
  cntAdd (fSet s1 (bLoc .stuShootSeq b) fStuShootSeqDone ((n + 1) % 2 ^ 32)) (bLoc .stuShootdowns b) 1

theorem shoots_shootdownDone (s : Node) (b : Nat) (h : Shoot) :
    (stuOf (shootdownDone s b h) b).shoots = (stuOf s b).shoots.drop 1 := by
  rw [shootdownDone, stuOf_cntAdd, stuOf_fSet, stuOf_modStu_self, shoots_shootApply]

/-- Whether a late shootdown of a slice is still to be recorded (R275). -/
def shootStalls (s : Node) (b : Nat) : Shoot → Bool := fun h =>
  !h.stalled && shootLate s b h.since && (shootBlocker s b h).isSome

theorem shootStalls_of_holder {s : Node} {b : Nat} {h : Shoot} {p : Nat × Nat} (hnew : h.stalled = false)
    (hholder : shootHolder s h = some p)
    (hlate : h.since + 1000 * max 1 (fGet s (bLoc .stuCtrl b) fStuCtrlShootTo) ≤ s.now) : shootStalls s b h = true := by
  simp [shootStalls, shootLate, shootBlocker, hnew, hholder, hlate]

theorem shoots_logStalled (s : Node) (b : Nat) (p : Nat × Nat) :
    (stuOf (logStalled s b p) b).shoots = (stuOf s b).shoots :=
  congrArg Stu.shoots (stuOf_eq_of_stus (logErr_stus ..) b)

section shootdowns
variable {q : List Instr} {s : Node} {b : Nat} {h : Shoot} {rest : List Shoot} (hb : b < 4)
  (hshoots : (stuOf s b).shoots = h :: rest)
include hb hshoots

theorem exec_shootdownComplete (hfree : shootHolder s h = none) :
    exec (.shootdownComplete b) ⟨q, s⟩ = .next ⟨q, shootdownDone s b h⟩ := by
  rw [exec_shootdownComplete_eq]
  refine onNode_unit hb ?_
  simp only [hshoots, hfree]
  rfl

theorem exec_shootdownStalled (hstalls : shootStalls s b h = true) :
    exec (.shootdownStalled b) ⟨q, s⟩ = .next ⟨q, logStalled (modStu s b fun u => { u with
      shoots := modFirst (shootStalls s b) (fun x => { x with stalled := true }) u.shoots }) b
      ((shootBlocker s b h).getD (0, 0))⟩ := by
  have hfirst : (stuOf s b).shoots.find? (shootStalls s b) = some h := by
    rw [hshoots, List.find?_cons_of_pos hstalls]
  rw [exec_shootdownStalled_eq]
  refine onNode_unit hb ?_
  unfold shootStalls at hfirst
  simp only [hfirst]
  rfl

end shootdowns

/-! ### Counts of far accesses (R276) -/

/-- A die's batch for a page that its slice counts is taken from the die and added. -/
theorem exec_accessCountBatch {q : List Instr} {s : Node} {die page shift : Nat} {c : FarCount} (hdie : die < 12)
    (hshift : shift < 64) (hbatch : tblGet 0 (dieOf s die).countBatch (page * 64 + shift) ≠ 0)
    (hpage : (stuOf s (page % 4)).far.find? (fun c => c.page == page && c.shift == shift) = some c) :
    exec (.accessCountBatch die page shift) ⟨q, s⟩ = .next ⟨q, execAccessCountBatch.addCount
      (modDie s die fun d => { d with countBatch := tblErase d.countBatch (page * 64 + shift) }) (page % 4) page shift
      (tblGet 0 (dieOf s die).countBatch (page * 64 + shift)) (fun c => c.page == page && c.shift == shift)⟩ := by
  have hcounts : ¬(tblGet 0 (dieOf s die).countBatch (page * 64 + shift) = 0 ∨ shift ≥ 64) := by omega
  rw [exec_accessCountBatch_eq]
  refine onNode_die hdie ?_
  simp only [if_neg hcounts, stuOf_eq_of_stus (modDie_stus ..), hpage]

/-- Settles O41, a command at a time: the base die exists, and the conditions pick the branch of its meaning that acts. -/
theorem translationCommandsComplete : Obligations.TranslationCommandsComplete := by
  intro q s b v hb
  refine ⟨?_, ?_, ?_, ?_, ?_, ?_, ?_, ?_, ?_, ?_, ?_, ?_, ?_⟩
  · intro die va acc g wt unit gl grp u m w hlive hparts hfetch hpage hheld
    exact exec_stuWalkComplete hlive hparts hfetch hpage hheld
  · intro hheld
    rw [exec_faultRecordWrite_eq]
    exact onServed_base hb rfl hheld
  · intro s1 t hheld
    rw [exec_fqHeadWrite_eq]
    exact onServed_base hb rfl ((accessHeld_withResp ..).trans hheld)
  · intro hgood hheld
    rw [exec_fqBaseWrite_eq]
    exact onServed_base hb (congrArg (withResp · .done) (fqBaseWrite_of_good hgood)) ((accessHeld_withResp ..).trans hheld)
  · intro n joined x hn hfault s1
    rw [exec_stuResolveRetry_eq, exec_stuResolveAbort_eq, execStuResolveRetry, execStuResolveAbort, Nat.mod_eq_of_lt hn]
    have hresolve := resolve_of_outstanding hfault joined
    refine ⟨onNode_of_next ?_, onNode_of_next ?_⟩
    · rw [hresolve replayWaiter]
    · rw [hresolve abortWaiter]
  · intro a n t u hroom hheld
    rw [exec_stuMigrateWrite_eq]
    exact onServed_base hb (congrArg (withResp · .done) (migrateWrite_of_room hroom)) ((accessHeld_withResp ..).trans hheld)
  · intro m d hmigs hdesc hbad hbusy hclosed hcopying hnear hsrc s1 t hclean hheld
    rw [exec_migrationComplete_eq]
    refine onServed_base hb ?_ hheld
    have hcopied := copyMig_near (m := m) ((migFar_modMig _).trans hnear) ((inHbm_modMig _ ..).trans hsrc) hclean
    simp only [hmigs, migrateAll, migrate_of_copying hdesc hbad hbusy hclosed hcopying, hcopied]
    rfl
  · intro h hroom
    refine ⟨?_, ?_⟩
    · rintro ⟨hkind, hunit⟩ rfl
      refine ⟨_, exec_stuShootRange hb hroom hkind hunit, ?_⟩
      rw [stuOf_withResp, shoots_acceptShoot, shootOf, hkind]
      rfl
    · intro hkind
      refine ⟨_, exec_stuShootAll hb hroom hkind, ?_⟩
      rw [stuOf_withResp, shoots_acceptShoot, List.length_append, List.length_singleton]
  · intro h rest hshoots
    refine ⟨?_, ?_⟩
    · intro hfree
      exact ⟨_, exec_shootdownComplete hb hshoots hfree, by rw [shoots_shootdownDone, hshoots]; rfl, rfl, rfl⟩
    · intro p hnew hholder hlate
      have hstalls := shootStalls_of_holder hnew hholder hlate
      refine ⟨_, exec_shootdownStalled hb hshoots hstalls, ?_⟩
      rw [shoots_logStalled, stuOf_modStu_self, hshoots]
      exact if_pos hstalls
  · rw [exec_stuCntCtrlWrite_eq]
    exact onNode_of_next rfl
  · rw [exec_stuCntClear_eq]
    exact onNode_of_next rfl
  · rintro die page shift c hdie rfl hshift hbatch hpage
    exact exec_accessCountBatch hdie hshift hbatch hpage
  · exact exec_stuSatpWrite q s v

end Sys2Proof.Machine
end

section
/-! Statements of 12_bridges_noc.md: frames and wire tests of the bundles, the end of a route switch, the enables of the
edges. -/

namespace Sys2Proof.Machine

/-! ### The meanings of the commands below -/

section meanings
variable (e d k : Nat) (v : Word) (s : State)

theorem exec_bundleFrameReceive_eq (f : BridgeFrame) (crcOk : Bool) :
    exec (.bundleFrameReceive e d k f crcOk) s = execBundleFrameReceive e d k f crcOk s := rfl
theorem exec_bundleNakReceive_eq : exec (.bundleNakReceive e d k) s = execBundleNakReceive e d k s := rfl
theorem exec_wireTestStart_eq : exec (.wireTestStart e d k) s = execWireTestStart e d k s := rfl
theorem exec_wireTestEnd_eq (errors : List (Nat × Nat)) :
    exec (.wireTestEnd e d k errors) s = execWireTestEnd e d k errors s := rfl
theorem exec_routeSwitchDone_eq : exec .routeSwitchDone s = execRouteSwitchDone s := rfl
theorem exec_edgeEnableWrite_eq : exec (.edgeEnableWrite e v) s = execEdgeEnableWrite e v s := rfl
theorem exec_edgeStepDone_eq : exec (.edgeStepDone e) s = execEdgeStepDone e s := rfl
theorem exec_commonEnableWrite_eq (off : Nat) (x : EnableBit) :
    exec (.commonEnableWrite off x) s = execCommonEnableWrite off x s := rfl

end meanings

/-! ### Frames and wire tests of a bundle (R282, R285) -/

/-- A bundle direction the node has. -/
def isBundle (e d k : Nat) : Prop := e < 4 ∧ d < 2 ∧ k < 64

/-- A command of a bundle the node has leads to what its meaning answers. -/
theorem onNode_bundle {s : State} {e d k : Nat} {f : Node → Node} {t : Node} (h : isBundle e d k) (ht : f s.node = t) :
    onNode s (fun u => onBundle e d k (f u)) = .next ⟨s.pending, t⟩ :=
  onNode_of_next (onBundle_eq_next.2 ⟨h, ht⟩)

/-- A test after which the Shutter neither spares, halves nor closes leaves its records and a bundle trained again. -/
theorem endTest_of_no_action {s : Node} {e d k : Nat} {errors : List (Nat × Nat)}
    (h : (testResult (bundleOf s e d k) errors).action = 0) :
    let r := testResult (bundleOf s e d k) errors
    endTest s e d k errors = r.spared.foldl
      (fun s p => logErr s (12 + edgeSender e d) 0x30 0x0501 0 [(1, e), (1, d), (1, k), (1, p.1), (1, p.2)])
      (modBundle s e d k fun _ => { r.bundle with testing := false, testDue := false, crcFails := 0, replays := 0 }) :=
  if_pos h

section bundle
variable {q : List Instr} {s : Node} {e d k : Nat} (hbundle : isBundle e d k)
include hbundle

/-- R282: an open bundle takes the frame it awaits, and delivers the message its sender keeps. -/
theorem exec_bundleFrameReceive {seq : Nat} (hopen : (bundleOf s e d k).width ≠ 2)
    (htest : (bundleOf s e d k).testing = false) (hseq : seq = (bundleOf s e d k).recvSeq)
    (hnak : (bundleOf s e d k).nak = none) (msg : Nat) :
    exec (.bundleFrameReceive e d k ⟨seq, msg⟩ true) ⟨q, s⟩ = .next ⟨q,
      let y := { bundleOf s e d k with sent := max (bundleOf s e d k).sent (seq + 1), kept := keepFrame (bundleOf s e d k) seq msg }
      modBundle s e d k fun _ => { y with recvSeq := seq + 1, replays := 0, msg := keptMsg y seq }⟩ := by
  have htaken : ¬((bundleOf s e d k).width = 2 ∨ (bundleOf s e d k).testing = true ∨
      seq ≥ max (bundleOf s e d k).sent ((bundleOf s e d k).recvSeq + 64)) := by
    simp only [hopen, htest, false_or, Bool.false_eq_true]
    omega
  rw [exec_bundleFrameReceive_eq]
  refine onNode_bundle hbundle ?_
  dsimp only
  rw [if_neg htaken, if_neg (by decide), if_pos ⟨hseq, hnak⟩]

/-- R282: the sender of an open bundle hears of the failed frame on the open bundle of the opposite direction. -/
theorem exec_bundleNakReceive {f : Nat} (hnak : (bundleOf s e d k).nak = some f) (hopen : (bundleOf s e d k).width ≠ 2)
    (hback : (bundleOf s e (1 - d) k).width ≠ 2) :
    exec (.bundleNakReceive e d k) ⟨q, s⟩ = .next ⟨q,
      modBundle (cntAdd s (edgeLoc .edgeReplays e) ((bundleOf s e d k).sent - f)) e d k fun x =>
        { x with nak := none, replays := x.replays + 1, testDue := x.testDue || decide (x.replays + 1 ≥ 8) }⟩ := by
  rw [exec_bundleNakReceive_eq]
  refine onNode_bundle hbundle ?_
  simp only [hnak]
  exact if_neg (not_or.2 ⟨hopen, hback⟩)

/-- R285: a wire test that is due starts on an open bundle of an edge that is ON. -/
theorem exec_wireTestStart (hdue : (bundleOf s e d k).testDue = true) (hopen : (bundleOf s e d k).width ≠ 2)
    (htest : (bundleOf s e d k).testing = false) (hon : isOn s (edgeLoc .edgeCtrl e) = true) :
    exec (.wireTestStart e d k) ⟨q, s⟩ = .next ⟨q,
      modBundle (cntAdd s (edgeLoc .edgeWireTests e) 1) e d k fun x => { x with testing := true, testDue := false }⟩ := by
  have hstate : (ctrlState s (edgeLoc .edgeCtrl e) == stOn) = true := hon
  rw [exec_wireTestStart_eq]
  exact onNode_bundle hbundle (if_pos (by simp [hdue, hopen, htest, hstate]))

theorem exec_wireTestEnd (htest : (bundleOf s e d k).testing = true) (errors : List (Nat × Nat)) :
    exec (.wireTestEnd e d k errors) ⟨q, s⟩ = .next ⟨q, ordered s (endTest s e d k errors)⟩ := by
  rw [exec_wireTestEnd_eq]
  exact onNode_bundle hbundle (if_pos htest)

end bundle

/-! ### The end of a route switch (R291) -/

/-- The end of a route switch at one base die: its NET_ROUTE with SWITCHING fallen and EPOCH advanced. -/
def switchEndsAt (s : Node) (b : Nat) : Node :=
  fSet (fSet s (bLoc .netRoute b) fNetRouteSwitching 0) (bLoc .netRoute b) fNetRouteEpoch
    ((fGet s (bLoc .netRoute b) fNetRouteEpoch + 1) % 65536)

theorem switchEnds_eq_foldl (s : Node) : switchEnds s = (List.range 4).foldl switchEndsAt s := rfl

theorem regKey_netRoute (b : Nat) : regKey (bLoc .netRoute b) = (12 + b) * 2 ^ 28 + (0x30 + 0) * 2 ^ 20 + 0x200 + 0 := rfl

theorem regKey_edgeCtrl (e : Nat) :
    regKey (edgeLoc .edgeCtrl e) = (12 + 0) * 2 ^ 28 + (0x30 + 0) * 2 ^ 20 + 0 + (e * 0x40 + 0) := rfl

theorem regKey_netRoute_ne_edgeCtrl {e : Nat} (he : e < 4) (b : Nat) :
    regKey (bLoc .netRoute b) ≠ regKey (edgeLoc .edgeCtrl e) := by
  rw [regKey_netRoute, regKey_edgeCtrl]
  omega

theorem regKey_netRoute_ne {b c : Nat} (h : b ≠ c) : regKey (bLoc .netRoute b) ≠ regKey (bLoc .netRoute c) := by
  rw [regKey_netRoute, regKey_netRoute]
  omega

theorem fGet_switchEndsAt_switching (s : Node) (b : Nat) :
    fGet (switchEndsAt s b) (bLoc .netRoute b) fNetRouteSwitching = 0 := by
  rw [switchEndsAt, fGet_fSet_of_disjoint (by decide) (by decide), fGet_fSet_self _ _ _ _ (by decide), Nat.zero_mod]

theorem fGet_switchEndsAt_epoch (s : Node) (b : Nat) :
    fGet (switchEndsAt s b) (bLoc .netRoute b) fNetRouteEpoch = (fGet s (bLoc .netRoute b) fNetRouteEpoch + 1) % 65536 := by
  rw [switchEndsAt, fGet_fSet_self _ _ _ _ (by decide)]
  exact Nat.mod_mod _ _

/-- The end of a switch at a base die writes its NET_ROUTE and no other register. -/
theorem regGet_switchEndsAt_ne {b : Nat} {l : RegLoc} (h : regKey (bLoc .netRoute b) ≠ regKey l) (s : Node) :
    regGet (switchEndsAt s b) l = regGet s l := by
  rw [switchEndsAt, fSet, regGet_regSet_ne h, fSet, regGet_regSet_ne h]

theorem regGet_foldl_switchEndsAt_ne {bs : List Nat} {l : RegLoc} (h : ∀ b ∈ bs, regKey (bLoc .netRoute b) ≠ regKey l)
    (s : Node) : regGet (bs.foldl switchEndsAt s) l = regGet s l := by
  induction bs generalizing s with
  | nil => rfl
  | cons b bs ih =>
    rw [List.foldl_cons, ih fun c hc => h c (List.mem_cons_of_mem _ hc), regGet_switchEndsAt_ne (h b List.mem_cons_self)]

/-- A base die's NET_ROUTE after the switch has ended at distinct base dies is what the end at that die makes of it. -/
theorem regGet_foldl_switchEndsAt {bs : List Nat} {b : Nat} (hdistinct : bs.Nodup) (hb : b ∈ bs) (s : Node) :
    ∃ t : Node, regGet t (bLoc .netRoute b) = regGet s (bLoc .netRoute b) ∧
      regGet (bs.foldl switchEndsAt s) (bLoc .netRoute b) = regGet (switchEndsAt t b) (bLoc .netRoute b) := by
  obtain ⟨before, after, rfl⟩ := List.append_of_mem hb
  have hout : b ∉ before ++ after := (List.nodup_cons.1 (List.nodup_middle.1 hdistinct)).1
  rw [List.mem_append, not_or] at hout
  obtain ⟨hbefore, hafter⟩ := hout
  refine ⟨before.foldl switchEndsAt s, ?_, ?_⟩
  · exact regGet_foldl_switchEndsAt_ne (fun c hc => regKey_netRoute_ne (ne_of_mem_of_not_mem hc hbefore)) s
  · rw [List.foldl_append, List.foldl_cons,
      regGet_foldl_switchEndsAt_ne fun c hc => regKey_netRoute_ne (ne_of_mem_of_not_mem hc hafter)]

theorem fGet_switchEnds {b : Nat} (hb : b < 4) (s : Node) :
    fGet (switchEnds s) (bLoc .netRoute b) fNetRouteSwitching = 0 ∧
      fGet (switchEnds s) (bLoc .netRoute b) fNetRouteEpoch = (fGet s (bLoc .netRoute b) fNetRouteEpoch + 1) % 65536 := by
  obtain ⟨t, hsame, hends⟩ := regGet_foldl_switchEndsAt (List.nodup_range (n := 4)) (List.mem_range.2 hb) s
  rw [← switchEnds_eq_foldl] at hends
  have hfields (f : Fld) : fGet (switchEnds s) (bLoc .netRoute b) f = fGet (switchEndsAt t b) (bLoc .netRoute b) f := by
    rw [fGet, hends, fGet]
  rw [hfields, hfields, fGet_switchEndsAt_switching, fGet_switchEndsAt_epoch, fGet, hsame, fGet]
  exact ⟨rfl, rfl⟩

theorem foldl_switchEndsAt_frame (bs : List Nat) (s : Node) : ∃ c, bs.foldl switchEndsAt s = { s with csr := c } := by
  induction bs generalizing s with
  | nil => exact ⟨s.csr, rfl⟩
  | cons b bs ih =>
    obtain ⟨c, hc⟩ := ih (switchEndsAt s b)
    exact ⟨c, by rw [List.foldl_cons, hc, switchEndsAt, fSet, regSet, fSet, regSet]⟩

/-- The end of a switch changes registers alone. -/
theorem switchEnds_frame (s : Node) : ∃ c, switchEnds s = { s with csr := c } :=
  foldl_switchEndsAt_frame (List.range 4) s

theorem ctrlState_switchEnds {e : Nat} (he : e < 4) (s : Node) :
    ctrlState (switchEnds s) (edgeLoc .edgeCtrl e) = ctrlState s (edgeLoc .edgeCtrl e) := by
  rw [ctrlState, switchEnds_eq_foldl, regGet_foldl_switchEndsAt_ne fun b _ => regKey_netRoute_ne_edgeCtrl he b, ctrlState]

theorem bundleOf_switchEnds (s : Node) (e d k : Nat) : bundleOf (switchEnds s) e d k = bundleOf s e d k := by
  obtain ⟨c, hc⟩ := switchEnds_frame s
  rw [hc, bundleOf, bundleOf]

theorem openList_switchEnds (s : Node) (e d : Nat) : openList (switchEnds s) e d = openList s e d := by
  simp only [openList, bundleOf_switchEnds]

theorem closedCount_switchEnds (s : Node) (e d : Nat) : closedCount (switchEnds s) e d = closedCount s e d := by
  simp only [closedCount, bundleOf_switchEnds]

theorem edgeCond_switchEnds {e : Nat} (he : e < 4) (s : Node) : edgeCond (switchEnds s) e = edgeCond s e := by
  rw [edgeCond, ctrlState_switchEnds he, closedCount_switchEnds, closedCount_switchEnds, edgeCond]

/-- After the keys `is` of a table have been written, each of them reads as written and any other key as before. -/
theorem tblGet_foldl_tblSet {α : Type} [DecidableEq α] (d : α) (v : Nat → α) (j : Nat) (is : List Nat) (t : Tbl α) :
    tblGet d (is.foldl (fun t i => tblSet d t i (v i)) t) j = if j ∈ is then v j else tblGet d t j := by
  induction is generalizing t with
  | nil => rfl
  | cons i is ih =>
    rw [List.foldl_cons, ih, tblGet_tblSet]
    by_cases hij : i = j
    · subst hij
      simp
    · simp [hij, Ne.symm hij]

theorem condInForce_takeRoutes {e : Nat} (he : e < 4) (s : Node) : condInForce (takeRoutes s) e = edgeCond s e :=
  (tblGet_foldl_tblSet 0 (edgeCond s) e _ _).trans (if_pos (List.mem_range.2 he))

theorem mapInForce_takeRoutes {e d : Nat} (he : e < 4) (hd : d < 2) (s : Node) :
    mapInForce (takeRoutes s) e d = openList s e d := by
  have hkey : e * 2 + d ∈ List.range 8 := List.mem_range.2 (by omega)
  have hedge : (e * 2 + d) / 2 = e := by omega
  have hdir : (e * 2 + d) % 2 = d := by omega
  refine (tblGet_foldl_tblSet fullMap (fun i => openList s (i / 2) (i % 2)) _ _ _).trans ((if_pos hkey).trans ?_)
  rw [hedge, hdir]

theorem fGet_takeRoutes (s : Node) (l : RegLoc) (f : Fld) : fGet (takeRoutes s) l f = fGet s l f := rfl

/-- What a switch's end changes before the held requests go on: registers, and the routes and maps in force. -/
theorem takeRoutes_switchEnds_frame (s : Node) :
    let n := takeRoutes (switchEnds s)
    n = { s with csr := n.csr, ctl := { s.ctl with net := n.ctl.net } } := by
  obtain ⟨c, hc⟩ := switchEnds_frame s
  rw [hc]
  rfl

/-- R291: a route switch that waits for no message puts the routes of the present conditions in force. -/
theorem exec_routeSwitchDone {q : List Instr} {s : Node} (hswitch : switching s = true) (hwait : switchWaits s = false) :
    exec .routeSwitchDone ⟨q, s⟩ = .next ⟨q, settleHomes (sendHeld (takeRoutes (switchEnds s)))⟩ := by
  rw [exec_routeSwitchDone_eq]
  exact onNode_of_next (congrArg Host.Outcome.next (if_pos (by simp [hswitch, hwait])))

/-! ### The enables of edges and other blocks (R294, R296) -/

/-- R296: EN = 1 is never refused, and starts no route switch. -/
theorem edgeWrite_of_enable {v : Word} (hen : wbit v 0 = true) (s : Node) (e : Nat) : edgeWrite s e v =
    enableWrite (fSet s (edgeLoc .edgeCtrl e) fEdgeCtrlCrcThr (wbits v 31 16)) (edgeLoc .edgeCtrl e) true := by
  simp [edgeWrite, hen]

section edge
variable {q : List Instr} {s : Node} {e : Nat} (he : e < 4)
include he

theorem exec_edgeEnableWrite_enable {v : Word} (hen : wbit v 0 = true) :
    exec (.edgeEnableWrite e v) ⟨q, s⟩ = .next ⟨q, withResp
      (enableWrite (fSet s (edgeLoc .edgeCtrl e) fEdgeCtrlCrcThr (wbits v 31 16)) (edgeLoc .edgeCtrl e) true) .done⟩ := by
  rw [exec_edgeEnableWrite_eq]
  exact onNode_unit he (congrArg (withResp · .done) (edgeWrite_of_enable hen s e))

/-- R296: an edge with an open bundle in each direction leaves ENABLING with a route switch. -/
theorem exec_edgeStepDone_enabling (hstate : ctrlState s (edgeLoc .edgeCtrl e) = stEnabling) (hfwd : closedCount s e 0 ≠ 64)
    (hback : closedCount s e 1 ≠ 64) : exec (.edgeStepDone e) ⟨q, s⟩ =
      .next ⟨q, startSwitch (noteDegraded (ownStepEnds s (edgeLoc .edgeCtrl e)) e (edgeCond s e))⟩ := by
  rw [exec_edgeStepDone_eq]
  exact onNode_unit he ((if_pos hstate).trans (if_neg (not_or.2 ⟨hfwd, hback⟩)))

end edge

/-- R294: EN of a block that has it, written with the other fields of its register as they stand. -/
theorem exec_commonEnableWrite {q : List Instr} {s : Node} {off : Nat} {l : RegLoc} (hfind : csrFind off = some l)
    (hhas : hasEnable l.id = true) (hfence : csrFenced s off = false) (en : Bool) :
    let t := withResp (csrStore s (.mp 0) l (wput (regGet s l) 0 0 (b2n en))) .done
    accessHeld t = false → exec (.commonEnableWrite off ⟨en, false⟩) ⟨q, s⟩ = .next ⟨q, t⟩ := by
  intro t hheld
  rw [exec_commonEnableWrite_eq]
  refine onServed_of_next (congrArg (fun u => Host.Outcome.next (withResp u .done)) ?_) (served_of_not_held hheld)
  simp [hfind, hhas, hfence]

/-- Settles O42, a command at a time: the bundle or edge exists, and the conditions pick the branch of its meaning that
acts; the node at the end of a route switch is the one that `switchEnds` and `takeRoutes` leave. -/
theorem edgeCommandsComplete : Obligations.EdgeCommandsComplete := by
  intro q s e d k he hd hk
  have hbundle : isBundle e d k := ⟨he, hd, hk⟩
  refine ⟨?_, ?_, ?_, ?_, ?_, ?_, ?_, ?_⟩
  · intro seq msg hopen htest hseq hnak
    exact exec_bundleFrameReceive hbundle hopen htest hseq hnak msg
  · intro f hnak hopen hback
    exact exec_bundleNakReceive hbundle hnak hopen hback
  · intro hdue hopen htest hon
    exact exec_wireTestStart hbundle hdue hopen htest hon
  · intro errors htest r haction
    rw [exec_wireTestEnd hbundle htest, endTest_of_no_action haction]
  · intro hswitch hwait
    refine ⟨_, exec_routeSwitchDone hswitch hwait, ?_, ?_, ?_, takeRoutes_switchEnds_frame s⟩
    · intro b hb
      simp only [fGet_takeRoutes]
      exact fGet_switchEnds hb s
    · intro e he
      rw [condInForce_takeRoutes he, edgeCond_switchEnds he]
    · intro e d he hd
      rw [mapInForce_takeRoutes he hd, openList_switchEnds]
  · intro v hen
    exact exec_edgeEnableWrite_enable he hen
  · intro hstate hfwd hback
    exact exec_edgeStepDone_enabling he hstate hfwd hback
  · intro off en l hfind hhas hfence
    exact exec_commonEnableWrite hfind hhas hfence en

end Sys2Proof.Machine
end

section
/-! Statements of 00_scope.md: the queue of commands, what every step keeps, the reset state. -/

namespace Sys2Proof.Machine

/-! ### The queue (log entry 1) -/

theorem step_cons (c : Instr) (q : List Instr) (n : Node) : step ⟨c :: q, n⟩ = exec c ⟨q, n⟩ := rfl

theorem step_nil (n : Node) : step ⟨[], n⟩ = .next ⟨[], tick n⟩ := rfl

/-- Settles O1: it is what a step is. -/
theorem stepRunsFront : Obligations.StepRunsFront := by
  intro c s
  exact step_cons c s.pending s.node

/-- The meaning of a command whose accesses a home serves is over the node alone, as every other is. -/
theorem onServed_eq_onNode (f : Node → Host.Outcome Node Fault Refusal) :
    ∃ g : Node → Host.Outcome Node Fault Refusal, ∀ s : State, onServed s f = onNode s g := ⟨_, fun _ => rfl⟩

/-- Every command has a meaning over the node alone. -/
theorem exec_eq_onNode (i : Instr) : ∃ f : Node → Host.Outcome Node Fault Refusal, ∀ s : State, exec i s = onNode s f := by
  cases i with dsimp only [exec]
  -- commands with accesses of their own
  | csrWrite | stuWalkComplete | commonEnableWrite | dzSend | dzPut | dzGet | dzLoad | dzStore | dzAtomic | dzResp | dzMsg
  | dzRto | ridgeGo | ridgeChunk | shinglePacket | ckptCut | cutDrained | cutDrainTimeout | cutScanDone | cutChunkCopied
  | cutRemoteDone | ckptRestoreLocal | ckptRestoreBuddy | dmi | ownStepEnds | ld | st | copyStart | copyBytesLand | elemLd
  | elemScaleLoad | elemSt | elemStsc | tileDescFetch | kvgStart | hostCoreInstruction | satpWrite | cboClean | cboFlush
  | cboInval | cboZero | sfenceVma | glaunchFetchDone | amo | faultRecordWrite | fqHeadWrite | fqBaseWrite | stuMigrateWrite
  | migrationComplete | rocePacketReceive | roceAckReceive | roceSendEntry | roceCompletionWrite | dzCmdComplete
  | shgArmProcess | shgDelivery | shgGo | shgHoldWrite | shgShardReduced | shgAgLaunch | shgEnableWrite | shgDisableDone
  | wqSlotRead | wqRereadTimer | acceptanceWordWrite | teEntryWrite | teCut | teHold | mbReqWrite | mbResponse | elemCast
  | roceQpLoad | roceQpStore | dzCmdPut | dzCmdGet | dzCmdMsg | completionRecordWrite | dzFrameReceive | dzAck | dzNak =>
    exact onServed_eq_onNode _
  | _ => exact ⟨_, fun _ => rfl⟩

/-- What a command does to the node does not depend on what waits behind it, and it leaves that alone. -/
theorem exec_eq_next_iff {c : Instr} (q : List Instr) {n : Node} {u : State} : exec c ⟨q, n⟩ = .next u ↔
    ∃ k : Node, u = ⟨q, k⟩ ∧ exec c ⟨[], n⟩ = .next ⟨[], k⟩ := by
  obtain ⟨f, hf⟩ := exec_eq_onNode c
  simp only [hf, onNode_eq_next]
  constructor
  · intro ⟨hnext, hq⟩
    exact ⟨u.node, by rw [← hq], hnext, trivial⟩
  · rintro ⟨k, rfl, hnext, -⟩
    exact ⟨hnext, rfl⟩

/-- Settles O6, by induction on the commands served first: each leaves the queue behind it alone. -/
theorem queueIsFirstInFirstOut : Obligations.QueueIsFirstInFirstOut := by
  intro l m
  induction l with
  | nil =>
    intro n t h
    exact ⟨n, h.symm, rfl⟩
  | cons c l ih =>
    intro n t ⟨u, hstep, hrest⟩
    obtain ⟨k, rfl, hk⟩ := (exec_eq_next_iff (l ++ m)).1 hstep
    obtain ⟨k', ht, hruns⟩ := ih k t hrest
    exact ⟨k', ht, ⟨l, k⟩, (exec_eq_next_iff l).2 ⟨k, rfl, hk⟩, hruns⟩

/-- Settles O5, by induction on the queue: each command completes. -/
theorem queueDrains : Obligations.QueueDrains := by
  intro ⟨q, n⟩
  induction q generalizing n with
  | nil => exact fun _ => ⟨⟨[], n⟩, rfl, rfl⟩
  | cons c q ih =>
    intro hok
    obtain ⟨hc, hq⟩ : c.wellFormed = true ∧ queueOk ⟨q, n⟩ = true := by simpa [queueOk] using hok
    obtain ⟨k, hk⟩ := commandCompletes c ⟨q, n⟩ hc
    obtain ⟨t, hruns, hempty⟩ := ih k hq
    exact ⟨t, ⟨⟨q, k⟩, hk, hruns⟩, hempty⟩

/-! ### What every step keeps: memory's form and the fuses (R498, R506, R511, R512) -/

theorem Fuses.kept_refl (a : Fuses) : Fuses.kept a a = true := by
  simp [Fuses.kept_iff, bitsKept_refl]

theorem Keeps.refl (s : Node) : Keeps s s := ⟨id, Fuses.kept_refl _⟩

/-- Every command keeps what its meaning keeps. -/
theorem exec_keeps (i : Instr) (s : State) : KeepsS s.node (exec i s) := by
  have h := Keeps.refl s.node
  cases i with
  | csrWrite => exact keep_execCsrWrite h
  | rcRegisterRead => exact keep_execRcRegisterRead h
  | mma => exact keep_execMma h
  | mmaSp => exact keep_execMmaSp h
  | mmaQueueEnter => exact keep_execMmaQueueEnter h
  | mrel => exact keep_execMrel h
  | mfence => exact keep_execMfence h
  | mfenceSatisfied => exact keep_execMfenceSatisfied h
  | mmaKStep => exact keep_execMmaKStep h
  | gutterCopyStart => exact keep_execGutterCopyStart h
  | gutterCopyDone => exact keep_execGutterCopyDone h
  | groupLaunch => exact keep_execGroupLaunch h
  | gableAluInstruction => exact keep_execGableAluInstruction h
  | bnz => exact keep_execBnz h
  | bz => exact keep_execBz h
  | jmp => exact keep_execJmp h
  | yield => exact keep_execYield h
  | exit => exact keep_execExit h
  | ld => exact keep_execLd h
  | st => exact keep_execSt h
  | ldDataReturn => exact keep_execLdDataReturn h
  | lds => exact keep_execLds h
  | sts => exact keep_execSts h
  | copy => exact keep_execCopy h
  | copyStart => exact keep_execCopyStart h
  | copyBytesLand => exact keep_execCopyBytesLand h
  | cntset => exact keep_execCntset h
  | cntadd => exact keep_execCntadd h
  | waitcnt => exact keep_execWaitcnt h
  | waitcntSatisfied => exact keep_execWaitcntSatisfied h
  | arrivalCntWrite => exact keep_execArrivalCntWrite h
  | groupStall => exact keep_execGroupStall h
  | groupResume => exact keep_execGroupResume h
  | groupKill => exact keep_execGroupKill h
  | gableEnableWrite => exact keep_execGableEnableWrite h
  | gableDisableDone => exact keep_execGableDisableDone h
  | gableEnableDone => exact keep_execGableEnableDone h
  | gableSramUncorrected => exact keep_execGableSramUncorrected h
  | scratchWindowAccess => exact keep_execScratchWindowAccess h
  | elemRunStart => exact keep_execElemRunStart h
  | elemEnd => exact keep_execElemEnd h
  | elemAdd => exact keep_execElemAdd h
  | elemSub => exact keep_execElemSub h
  | elemMul => exact keep_execElemMul h
  | elemFma => exact keep_execElemFma h
  | elemMul3 => exact keep_execElemMul3 h
  | elemMin => exact keep_execElemMin h
  | elemMax => exact keep_execElemMax h
  | elemDiv => exact keep_execElemDiv h
  | elemFn => exact keep_execElemFn h
  | elemSel => exact keep_execElemSel h
  | elemCmp => exact keep_execElemCmp h
  | elemAnd => exact keep_execElemAnd h
  | elemOr => exact keep_execElemOr h
  | elemXor => exact keep_execElemXor h
  | elemShl => exact keep_execElemShl h
  | elemShr => exact keep_execElemShr h
  | elemCvt => exact keep_execElemCvt h
  | elemRed => exact keep_execElemRed h
  | elemPerm => exact keep_execElemPerm h
  | elemSetvl => exact keep_execElemSetvl h
  | elemHad => exact keep_execElemHad h
  | elemMsk => exact keep_execElemMsk h
  | elemSop => exact keep_execElemSop h
  | elemSkip => exact keep_execElemSkip h
  | elemLd => exact keep_execElemLd h
  | elemScaleLoad => exact keep_execElemScaleLoad h
  | elemSt => exact keep_execElemSt h
  | elemStsc => exact keep_execElemStsc h
  | elemCast => exact keep_execElemCast h
  | elemSig => exact keep_execElemSig h
  | erkey => exact keep_execErkey h
  | epld => exact keep_execEpld h
  | elemSlotWrite => exact keep_execElemSlotWrite h
  | tdarg => exact keep_execTdarg h
  | tsListAddrWrite => exact keep_execTsListAddrWrite h
  | tsListGoWrite => exact keep_execTsListGoWrite h
  | tileDescFetch => exact keep_execTileDescFetch h
  | tileLaunch => exact keep_execTileLaunch h
  | tileSteal => exact keep_execTileSteal h
  | brokerStealRequest => exact keep_execBrokerStealRequest h
  | tileComplete => exact keep_execTileComplete h
  | depCntWrite => exact keep_execDepCntWrite h
  | tsEnableWrite => exact keep_execTsEnableWrite h
  | tsDisableDone => exact keep_execTsDisableDone h
  | seqEntryStageWrite => exact keep_execSeqEntryStageWrite h
  | seqEntryCommit => exact keep_execSeqEntryCommit h
  | layoutBatchWrite => exact keep_execLayoutBatchWrite h
  | brokerEnableWrite => exact keep_execBrokerEnableWrite h
  | kvg => exact keep_execKvg h
  | kvgStart => exact keep_execKvgStart h
  | hostCoreInstruction => exact keep_execHostCoreInstruction h
  | satpWrite => exact keep_execSatpWrite h
  | cboClean => exact keep_execCboClean h
  | cboFlush => exact keep_execCboFlush h
  | cboInval => exact keep_execCboInval h
  | cboZero => exact keep_execCboZero h
  | sfenceVma => exact keep_execSfenceVma h
  | timerInterrupt => exact keep_execTimerInterrupt h
  | imsicSeteipnumWrite => exact keep_execImsicSeteipnumWrite h
  | aplicRegisterWrite => exact keep_execAplicRegisterWrite h
  | aplicSourceEvent => exact keep_execAplicSourceEvent h
  | glaunchWrite => exact keep_execGlaunchWrite h
  | glaunchFetchDone => exact keep_execGlaunchFetchDone h
  | depWatchWrite => exact keep_execDepWatchWrite h
  | depWatchFire => exact keep_execDepWatchFire h
  | rds => exact keep_execRds h
  | rdx => exact keep_execRdx h
  | upg => exact keep_execUpg h
  | wbd => exact keep_execWbd h
  | evc => exact keep_execEvc h
  | cln => exact keep_execCln h
  | fls => exact keep_execFls h
  | rdonce => exact keep_execRdonce h
  | wrline => exact keep_execWrline h
  | wrpart => exact keep_execWrpart h
  | atom => exact keep_execAtom h
  | snps => exact keep_execSnps h
  | snpx => exact keep_execSnpx h
  | snprd => exact keep_execSnprd h
  | snpcln => exact keep_execSnpcln h
  | snprcl => exact keep_execSnprcl h
  | snpinv => exact keep_execSnpinv h
  | coherenceResponse => exact keep_execCoherenceResponse h
  | cmpack => exact keep_execCmpack h
  | snoopTimeout => exact keep_execSnoopTimeout h
  | fenceScanDone => exact keep_execFenceScanDone h
  | amo => exact keep_execAmo h
  | gableFence => exact keep_execGableFence h
  | hbmReadComplete => exact keep_execHbmReadComplete h
  | patrolScrub => exact keep_execPatrolScrub h
  | hbmStackLost => exact keep_execHbmStackLost h
  | prefetchReturn => exact keep_execPrefetchReturn h
  | nmcDieLost => exact keep_execNmcDieLost h
  | nmcEnableWrite => exact keep_execNmcEnableWrite h
  | nmcInvWrite => exact keep_execNmcInvWrite h
  | nmcWritebackDone => exact keep_execNmcWritebackDone h
  | nmcInvDone => exact keep_execNmcInvDone h
  | nmcSeedWrite => exact keep_execNmcSeedWrite h
  | stuSatpWrite => exact keep_execStuSatpWrite h
  | stuWalkComplete => exact keep_execStuWalkComplete h
  | faultRecordWrite => exact keep_execFaultRecordWrite h
  | fqHeadWrite => exact keep_execFqHeadWrite h
  | fqBaseWrite => exact keep_execFqBaseWrite h
  | stuResolveRetry => exact keep_execStuResolveRetry h
  | stuResolveAbort => exact keep_execStuResolveAbort h
  | stuMigrateWrite => exact keep_execStuMigrateWrite h
  | migrationComplete => exact keep_execMigrationComplete h
  | stuShootRange => exact keep_execStuShootRange h
  | stuShootAll => exact keep_execStuShootAll h
  | shootdownComplete => exact keep_execShootdownComplete h
  | shootdownStalled => exact keep_execShootdownStalled h
  | stuCntCtrlWrite => exact keep_execStuCntCtrlWrite h
  | stuCntClear => exact keep_execStuCntClear h
  | accessCountBatch => exact keep_execAccessCountBatch h
  | bundleFrameReceive => exact keep_execBundleFrameReceive h
  | bundleNakReceive => exact keep_execBundleNakReceive h
  | wireTestStart => exact keep_execWireTestStart h
  | wireTestEnd => exact keep_execWireTestEnd h
  | routeSwitchDone => exact keep_execRouteSwitchDone h
  | edgeEnableWrite => exact keep_execEdgeEnableWrite h
  | edgeStepDone => exact keep_execEdgeStepDone h
  | commonEnableWrite => exact keep_execCommonEnableWrite h
  | portEnableWrite => exact keep_execPortEnableWrite h
  | portStepDone => exact keep_execPortStepDone h
  | portSignalDetect => exact keep_execPortSignalDetect h
  | portLinkUp => exact keep_execPortLinkUp h
  | portTrainTimeout => exact keep_execPortTrainTimeout h
  | portDown => exact keep_execPortDown h
  | laneFail => exact keep_execLaneFail h
  | ethFrameReceive => exact keep_execEthFrameReceive h
  | arpRequest => exact keep_execArpRequest h
  | pfcFrameReceive => exact keep_execPfcFrameReceive h
  | pfcBufferThreshold => exact keep_execPfcBufferThreshold h
  | pfcStorm => exact keep_execPfcStorm h
  | cnpReceive => exact keep_execCnpReceive h
  | roceRateIncrease => exact keep_execRoceRateIncrease h
  | rocePacketReceive => exact keep_execRocePacketReceive h
  | roceAckReceive => exact keep_execRoceAckReceive h
  | roceAckTimeout => exact keep_execRoceAckTimeout h
  | roceQpLoad => exact keep_execRoceQpLoad h
  | roceQpStore => exact keep_execRoceQpStore h
  | roceQpDestroy => exact keep_execRoceQpDestroy h
  | roceSqDb => exact keep_execRoceSqDb h
  | roceSendEntry => exact keep_execRoceSendEntry h
  | roceCompletionWrite => exact keep_execRoceCompletionWrite h
  | mrEntryWrite => exact keep_execMrEntryWrite h
  | dzFrameReceive => exact keep_execDzFrameReceive h
  | dzSend => exact keep_execDzSend h
  | dzPut => exact keep_execDzPut h
  | dzGet => exact keep_execDzGet h
  | dzLoad => exact keep_execDzLoad h
  | dzStore => exact keep_execDzStore h
  | dzAtomic => exact keep_execDzAtomic h
  | dzResp => exact keep_execDzResp h
  | dzMsg => exact keep_execDzMsg h
  | dzAck => exact keep_execDzAck h
  | dzNak => exact keep_execDzNak h
  | dzKeepalive => exact keep_execDzKeepalive h
  | dzAckTimer => exact keep_execDzAckTimer h
  | dzGapTimer => exact keep_execDzGapTimer h
  | dzRto => exact keep_execDzRto h
  | dzWindowIncrease => exact keep_execDzWindowIncrease h
  | flowIdleRelease => exact keep_execFlowIdleRelease h
  | keepaliveSend => exact keep_execKeepaliveSend h
  | neighbourLost => exact keep_execNeighbourLost h
  | dzCmdDb => exact keep_execDzCmdDb h
  | dzCmdBaseWrite => exact keep_execDzCmdBaseWrite h
  | dzCmdPut => exact keep_execDzCmdPut h
  | dzCmdGet => exact keep_execDzCmdGet h
  | dzCmdMsg => exact keep_execDzCmdMsg h
  | dzCmdComplete => exact keep_execDzCmdComplete h
  | dzEnableWrite => exact keep_execDzEnableWrite h
  | dzDisableDone => exact keep_execDzDisableDone h
  | ridgeGo => exact keep_execRidgeGo h
  | ridgeChunk => exact keep_execRidgeChunk h
  | ridgeTreeWrite => exact keep_execRidgeTreeWrite h
  | shgGroupWrite => exact keep_execShgGroupWrite h
  | shgArm => exact keep_execShgArm h
  | shgArmProcess => exact keep_execShgArmProcess h
  | shgDelivery => exact keep_execShgDelivery h
  | shgGo => exact keep_execShgGo h
  | shgCancel => exact keep_execShgCancel h
  | shgHoldWrite => exact keep_execShgHoldWrite h
  | shinglePacket => exact keep_execShinglePacket h
  | shgShardReduced => exact keep_execShgShardReduced h
  | shgAgLaunch => exact keep_execShgAgLaunch h
  | shgBucketComplete => exact keep_execShgBucketComplete h
  | shgEnableWrite => exact keep_execShgEnableWrite h
  | shgDisableDone => exact keep_execShgDisableDone h
  | wqEnableWrite => exact keep_execWqEnableWrite h
  | wqDisableDone => exact keep_execWqDisableDone h
  | doorbellProd => exact keep_execDoorbellProd h
  | doorbellResume => exact keep_execDoorbellResume h
  | doorbellReplay => exact keep_execDoorbellReplay h
  | wqSlotRead => exact keep_execWqSlotRead h
  | wqRereadTimer => exact keep_execWqRereadTimer h
  | doorbellAhead => exact keep_execDoorbellAhead h
  | mirrorWriteAck => exact keep_execMirrorWriteAck h
  | acceptanceWordWrite => exact keep_execAcceptanceWordWrite h
  | mirrorLost => exact keep_execMirrorLost h
  | wqTiles => exact keep_execWqTiles h
  | wqNotifyCmd => exact keep_execWqNotifyCmd h
  | wqWait => exact keep_execWqWait h
  | wqSignal => exact keep_execWqSignal h
  | wqNop => exact keep_execWqNop h
  | wqCommandComplete => exact keep_execWqCommandComplete h
  | completionRecordWrite => exact keep_execCompletionRecordWrite h
  | cqWriteFailed => exact keep_execCqWriteFailed h
  | wqNotifyRead => exact keep_execWqNotifyRead h
  | wqCompleteWrite => exact keep_execWqCompleteWrite h
  | ledgerFresh => exact keep_execLedgerFresh h
  | ledgerReplay => exact keep_execLedgerReplay h
  | reconciliationDone => exact keep_execReconciliationDone h
  | errHeadWrite => exact keep_execErrHeadWrite h
  | fenceWrite => exact keep_execFenceWrite h
  | heartbeatMissed => exact keep_execHeartbeatMissed h
  | dieFence => exact keep_execDieFence h
  | dieAbort => exact keep_execDieAbort h
  | dieAbortDone => exact keep_execDieAbortDone h
  | nodeLeaving => exact keep_execNodeLeaving h
  | mpAllLost => exact keep_execMpAllLost h
  | orphanReset => exact keep_execOrphanReset h
  | ckptCut => exact keep_execCkptCut h
  | cutDrained => exact keep_execCutDrained h
  | cutDrainTimeout => exact keep_execCutDrainTimeout h
  | cutScanDone => exact keep_execCutScanDone h
  | cutChunkCopied => exact keep_execCutChunkCopied h
  | cutRemoteDone => exact keep_execCutRemoteDone h
  | ckptRestoreLocal => exact keep_execCkptRestoreLocal h
  | ckptRestoreBuddy => exact keep_execCkptRestoreBuddy h
  | restoreDone => exact keep_execRestoreDone h
  | ptpSyncReceive => exact keep_execPtpSyncReceive h
  | ptpPdelay => exact keep_execPtpPdelay h
  | ptpAnnounce => exact keep_execPtpAnnounce h
  | ppsInEdge => exact keep_execPpsInEdge h
  | ppsMissing => exact keep_execPpsMissing h
  | ppsOutPulse => exact keep_execPpsOutPulse h
  | timeHoldover => exact keep_execTimeHoldover h
  | ppsHoldExpiry => exact keep_execPpsHoldExpiry h
  | teEntryWrite => exact keep_execTeEntryWrite h
  | teLatch => exact keep_execTeLatch h
  | teCut => exact keep_execTeCut h
  | teHold => exact keep_execTeHold h
  | teSignal => exact keep_execTeSignal h
  | teArm => exact keep_execTeArm h
  | teLouvre => exact keep_execTeLouvre h
  | powerSample => exact keep_execPowerSample h
  | estimatorDiverge => exact keep_execEstimatorDiverge h
  | lvClearGuard => exact keep_execLvClearGuard h
  | lvClearLearned => exact keep_execLvClearLearned h
  | packageLoop => exact keep_execPackageLoop h
  | phaseClassify => exact keep_execPhaseClassify h
  | shareLearn => exact keep_execShareLearn h
  | opMoveDone => exact keep_execOpMoveDone h
  | budgetWrite => exact keep_execBudgetWrite h
  | budgetExpired => exact keep_execBudgetExpired h
  | currentPeak => exact keep_execCurrentPeak h
  | currentPeakRelease => exact keep_execCurrentPeakRelease h
  | capBelowFloor => exact keep_execCapBelowFloor h
  | droopDetect => exact keep_execDroopDetect h
  | droopRelease => exact keep_execDroopRelease h
  | thermalRead => exact keep_execThermalRead h
  | thermalFault => exact keep_execThermalFault h
  | thermtrip => exact keep_execThermtrip h
  | pwrbrkAssert => exact keep_execPwrbrkAssert h
  | pwrbrkRelease => exact keep_execPwrbrkRelease h
  | brakeStuck => exact keep_execBrakeStuck h
  | coroudRead => exact keep_execCoroudRead h
  | coroudWrite => exact keep_execCoroudWrite h
  | coroudSegmentTimeout => exact keep_execCoroudSegmentTimeout h
  | coroudRequestStale => exact keep_execCoroudRequestStale h
  | configStoreWriteDone => exact keep_execConfigStoreWriteDone h
  | telemetryReport => exact keep_execTelemetryReport h
  | userCalibrationWrite => exact keep_execUserCalibrationWrite h
  | latchCheck => exact keep_execLatchCheck h
  | latchCommitNow => exact keep_execLatchCommitNow h
  | latchDiscard => exact keep_execLatchDiscard h
  | commitAtWrite => exact keep_execCommitAtWrite h
  | latchApply => exact keep_execLatchApply h
  | mpLeadClaim => exact keep_execMpLeadClaim h
  | mbReqWrite => exact keep_execMbReqWrite h
  | mbResponse => exact keep_execMbResponse h
  | pwrokRise => exact keep_execPwrokRise h
  | pwrokFall => exact keep_execPwrokFall h
  | resetNAssert => exact keep_execResetNAssert h
  | resetNRelease => exact keep_execResetNRelease h
  | softwareReset => exact keep_execSoftwareReset h
  | warmResetRelease => exact keep_execWarmResetRelease h
  | hbmTrainingDone => exact keep_execHbmTrainingDone h
  | readyRise => exact keep_execReadyRise h
  | bootChunkWrite => exact keep_execBootChunkWrite h
  | bootGoWrite => exact keep_execBootGoWrite h
  | svnCommit => exact keep_execSvnCommit h
  | lcsTokenWrite => exact keep_execLcsTokenWrite h
  | debugTokenWrite => exact keep_execDebugTokenWrite h
  | ownerKeyWrite => exact keep_execOwnerKeyWrite h
  | revokeWrite => exact keep_execRevokeWrite h
  | nonceWrite => exact keep_execNonceWrite h
  | measurementExtend => exact keep_execMeasurementExtend h
  | jobWipe => exact keep_execJobWipe h
  | jobWipeDone => exact keep_execJobWipeDone h
  | testModeEnter => exact keep_execTestModeEnter h
  | testModeExit => exact keep_execTestModeExit h
  | lbPrbsWrite => exact keep_execLbPrbsWrite h
  | prbsCheckerLock => exact keep_execPrbsCheckerLock h
  | bistSram => exact keep_execBistSram h
  | bistNearMemory => exact keep_execBistNearMemory h
  | bistHbmMbist => exact keep_execBistHbmMbist h
  | bistLogic => exact keep_execBistLogic h
  | bistHbmPhyLoopback => exact keep_execBistHbmPhyLoopback h
  | bistBridgeLoopback => exact keep_execBistBridgeLoopback h
  | bistDone => exact keep_execBistDone h
  | tapReset => exact keep_execTapReset h
  | idcode => exact keep_execIdcode h
  | samplePreload => exact keep_execSamplePreload h
  | extest => exact keep_execExtest h
  | highz => exact keep_execHighz h
  | clamp => exact keep_execClamp h
  | extestPulse => exact keep_execExtestPulse h
  | extestTrain => exact keep_execExtestTrain h
  | dtmcs => exact keep_execDtmcs h
  | dmi => exact keep_execDmi h
  | bypass => exact keep_execBypass h
  | railUndervoltage => exact keep_execRailUndervoltage h
  | corePllLockLoss => exact keep_execCorePllLockLoss h
  | refclkSdsLoss => exact keep_execRefclkSdsLoss h
  | alertAckWrite => exact keep_execAlertAckWrite h
  | ownStepEnds => exact keep_execOwnStepEnds h
  | evictionAcknowledged => exact keep_execEvictionAcknowledged h
  | ptpSyncSend => exact keep_execPtpSyncSend h
  | sramUncorrected => exact keep_execSramUncorrected h
  | regulatorFault => exact keep_execRegulatorFault h
  | refclkSdsReturn => exact keep_execRefclkSdsReturn h
  | netbootReport => exact keep_execNetbootReport h
  | narrowingCompleted => exact keep_execNarrowingCompleted h

theorem step_keeps {s t : State} (h : step s = .next t) : Keeps s.node t.node := by
  obtain ⟨q, n⟩ := s
  have hstep : KeepsS n (step ⟨q, n⟩) := by
    cases q with
    | nil => exact keep_tick (Keeps.refl n)
    | cons c q => exact exec_keeps c ⟨q, n⟩
  rwa [h] at hstep

/-- Settles O7: what every step keeps. -/
theorem memoryKept : Obligations.MemoryKept := by
  intro s t hs h
  exact (step_keeps h).mem hs

/-- Settles O9: what every step keeps. -/
theorem fusesKept : Obligations.FusesKept := by
  intro s t h
  exact (step_keeps h).fuses

/-- Settles O8: after reset memory is empty, and so is the queue. -/
theorem resetMeetsInvariants : Obligations.ResetMeetsInvariants :=
  ⟨rfl, rfl, rfl⟩

end Sys2Proof.Machine
end

section
/-! What records and interrupts leave unchanged, for any view of the node (R198, R199, R399). -/

namespace Sys2Proof.Machine

/-- A view that shows neither error logs nor the counts and interrupts that come with a record: none of the changes that
`logErr` and `signal` are made of is seen in it. -/
structure RecordFree {α : Type} (v : Node → α) : Prop where
  dropped : ∀ s b w, v (regSet s (bLoc .errDropped b) w) = v s
  tail : ∀ s b w, v (regSet s (bLoc .errTail b) w) = v s
  fenceDrops : ∀ s b w, v (regSet s (bLoc .fenceDrops b) w) = v s
  core : ∀ s c f, v (modCore s c f) = v s
  aplic : ∀ s m b f, v (modAplic s m b f) = v s
  logs : ∀ s logs last reports alert,
    v { s with errlogs := logs, lastRec := last, reports := reports, alert := alert } = v s

/-- What both branches of a choice show, the choice shows. -/
theorem view_ite {α : Type} (v : Node → α) {x : α} {c : Prop} [Decidable c] {t u : Node} (ht : v t = x) (hu : v u = x) :
    v (if c then t else u) = x := by
  split
  · exact ht
  · exact hu

/-- A view that no round of a loop changes is left by the whole loop. -/
theorem view_foldl {α β : Type} {v : Node → α} {f : Node → β → Node} (h : ∀ s x, v (f s x) = v s) (l : List β) (s : Node) :
    v (l.foldl f s) = v s := by
  induction l generalizing s with
  | nil => rfl
  | cons x l ih => rw [List.foldl_cons, ih, h]

namespace RecordFree

variable {α : Type} {v : Node → α} (h : RecordFree v)
include h

section
variable (s : Node)

theorem sendMsi (core : Nat) (mlevel : Bool) (id : Nat) : v (sendMsi s core mlevel id) = v s :=
  view_ite v (h.fenceDrops ..) (view_ite v rfl (h.core ..))

theorem aplicDeliver (mdomain : Bool) (b src : Nat) : v (aplicDeliver s mdomain b src) = v s :=
  view_ite v ((h.sendMsi ..).trans (h.aplic ..)) rfl

theorem signal (b src : Nat) : v (signal s b src) = v s :=
  view_ite v ((h.aplicDeliver ..).trans (h.aplic ..)) rfl

theorem logErr (scope block code addr : Nat) (detail : List (Nat × Nat)) :
    v (logErr s scope block code addr detail) = v s := by
  refine view_ite v ?_ ?_
  · exact (h.logs _ _ s.lastRec s.reports s.alert).trans (h.dropped ..)
  · exact (h.signal ..).trans ((h.tail ..).trans (h.logs ..))

theorem signalAll (src : Nat) : v (signalAll s src) = v s := view_foldl (fun s b => h.signal s b src) _ s

end

theorem comp {β : Type} (g : α → β) : RecordFree fun s => g (v s) where
  dropped s b w := congrArg g (h.dropped s b w)
  tail s b w := congrArg g (h.tail s b w)
  fenceDrops s b w := congrArg g (h.fenceDrops s b w)
  core s c f := congrArg g (h.core s c f)
  aplic s m b f := congrArg g (h.aplic s m b f)
  logs s logs last reports alert := congrArg g (h.logs s logs last reports alert)

end RecordFree

/-- The block of a base die's register that has no copies. -/
theorem block_bLoc {r : RegId} (hb : (regSpec r).block < 2 ^ 8) (ho : (regSpec r).offset < 2 ^ 20) (b : Nat) :
    regKey (bLoc r b) / 2 ^ 20 % 2 ^ 8 = (regSpec r).block := by
  have hcopy : idxOffset (regSpec r).dims [] = 0 := by
    unfold idxOffset
    split <;> simp_all
  simp only [regKey, bLoc, hcopy]
  omega

theorem regGet_regSet_of_block_ne {l m : RegLoc} (h : regKey m / 2 ^ 20 % 2 ^ 8 ≠ regKey l / 2 ^ 20 % 2 ^ 8) (s : Node)
    (w : Word) : regGet (regSet s m w) l = regGet s l :=
  regGet_regSet_ne fun he => h (by rw [he])

/-- Records and counts of drops are kept in block 0 of a base die: a register of another block is none of theirs. -/
theorem recordFree_regGet {l : RegLoc} (h : regKey l / 2 ^ 20 % 2 ^ 8 ≠ 0) : RecordFree fun s => regGet s l := by
  have hreg {r : RegId} (hr : (regSpec r).block = 0) (ho : (regSpec r).offset < 2 ^ 20) (b : Nat) (s : Node) (w : Word) :
      regGet (regSet s (bLoc r b) w) l = regGet s l :=
    regGet_regSet_of_block_ne (by rw [block_bLoc (by omega) ho, hr]; exact h.symm) s w
  exact {
    dropped := fun s b w => hreg rfl (by decide) b s w
    tail := fun s b w => hreg rfl (by decide) b s w
    fenceDrops := fun s b w => hreg rfl (by decide) b s w
    core := fun _ _ _ => rfl
    aplic := fun _ _ _ _ => rfl
    logs := fun _ _ _ _ _ => rfl }

theorem recordFree_fGet {l : RegLoc} (h : regKey l / 2 ^ 20 % 2 ^ 8 ≠ 0) (f : Fld) : RecordFree fun s => fGet s l f :=
  (recordFree_regGet h).comp (wbits · f.hi f.lo)

end Sys2Proof.Machine
end

section
/-! Statements of 13_ethernet_ports.md: the ports, their links, lanes and frames; queue pairs of RoCEv2. -/

namespace Sys2Proof.Machine

/-! ### The meanings of the commands of a port -/

section meanings
variable (p : Nat) (v : Word) (s : State)

theorem exec_portEnableWrite_eq : exec (.portEnableWrite p v) s = execPortEnableWrite p v s := rfl
theorem exec_portStepDone_eq : exec (.portStepDone p) s = execPortStepDone p s := rfl
theorem exec_portSignalDetect_eq : exec (.portSignalDetect p) s = execPortSignalDetect p s := rfl
theorem exec_portLinkUp_eq (ms : Nat) : exec (.portLinkUp p ms) s = execPortLinkUp p ms s := rfl
theorem exec_portTrainTimeout_eq : exec (.portTrainTimeout p) s = execPortTrainTimeout p s := rfl
theorem exec_portDown_eq (cause : Nat) : exec (.portDown p cause) s = execPortDown p cause s := rfl
theorem exec_ethFrameReceive_eq (f : EthFrame) : exec (.ethFrameReceive p f) s = execEthFrameReceive p f s := rfl
theorem exec_pfcFrameReceive_eq (enables : Nat) (quanta : List Nat) :
    exec (.pfcFrameReceive p enables quanta) s = execPfcFrameReceive p enables quanta s := rfl
theorem exec_pfcBufferThreshold_eq (prio : Nat) (full : Bool) :
    exec (.pfcBufferThreshold p prio full) s = execPfcBufferThreshold p prio full s := rfl
theorem exec_pfcStorm_eq (prio : Nat) : exec (.pfcStorm p prio) s = execPfcStorm p prio s := rfl
theorem exec_arpRequest_eq (v6 : Bool) (target : Nat) : exec (.arpRequest p v6 target) s = execArpRequest p v6 target s := rfl
theorem exec_laneFail_eq (ev : LaneEvent) : exec (.laneFail p ev) s = execLaneFail p ev s := rfl

end meanings

@[simp] theorem portOf_modPort_self (s : Node) (p : Nat) (f : Port → Port) : portOf (modPort s p f) p = f (portOf s p) := by
  simp [portOf, modPort]

section port
variable {q : List Instr} {s : Node} {p : Nat} (hp : p < 20)
include hp

theorem exec_portStepDone_enabling (hstate : ctrlState s (portCtrlLoc p) = stEnabling)
    (hmode : modeListed p (portOf s p).mode = true) :
    let s1 := modPort (ownStepEnds s (portCtrlLoc p)) p fun x => { x with
      depth := lbDepth s p, lanes := modeLanes (portOf s p).mode, training := false, restarted := false }
    prbsRuns s1 p = false → exec (.portStepDone p) ⟨q, s⟩ = .next ⟨q, s1⟩ := by
  intro s1 hprbs
  rw [exec_portStepDone_eq]
  exact onNode_unit hp (by simp [hstate, hmode, s1, hprbs])

end port

/-! ### The lanes a port has closed -/

theorem regKey_portStatus (p : Nat) :
    regKey (portLoc .portStatus p) = (12 + p / 5) * 2 ^ 28 + (0x40 + 0) * 2 ^ 20 + 0x8 + (p % 5 * 0x1000 + 0) := rfl

theorem regKey_portCounters (p j : Nat) :
    regKey (bLoc .portCounters (p / 5) [p % 5, j]) =
      (12 + p / 5) * 2 ^ 28 + (0x40 + 0) * 2 ^ 20 + 0x100 + (p % 5 * 0x1000 + (j * 8 + 0)) := rfl

/-- Control registers lie 8 bytes before the status register, or above the last one. -/
theorem regKey_portCtrlLoc_ne (p q : Nat) : regKey (portCtrlLoc q) ≠ regKey (portLoc .portStatus p) := by
  have hfe : regKey (bLoc .portCtrlFe (q / 5)) = (12 + q / 5) * 2 ^ 28 + (0x40 + 0) * 2 ^ 20 + 0x4000 + 0 := rfl
  have hfp : regKey (bLoc .portCtrl (q / 5) [q % 5]) =
      (12 + q / 5) * 2 ^ 28 + (0x40 + 0) * 2 ^ 20 + 0 + (q % 5 * 0x1000 + 0) := rfl
  rw [portCtrlLoc, regKey_portStatus]
  split
  · rw [hfe]; omega
  · rw [hfp]; omega

section closed
variable (p : Nat)

theorem recordFree_portClosed : RecordFree (portClosed · p) :=
  recordFree_fGet (by rw [regKey_portStatus]; omega) _

theorem portClosed_regSet {l : RegLoc} (h : regKey l ≠ regKey (portLoc .portStatus p)) (s : Node) (w : Word) :
    portClosed (regSet s l w) p = portClosed s p := by
  rw [portClosed, fGet, regGet_regSet_ne h, portClosed, fGet]

/-- Every other field of PORT_STATUS lies apart from CLOSED. -/
theorem portClosed_fSet {f : Fld} (h : fPortStatusClosed.hi < f.lo ∨ f.hi < fPortStatusClosed.lo) (s : Node) (v : Nat) :
    portClosed (fSet s (portLoc .portStatus p) f v) p = portClosed s p :=
  fGet_fSet_of_disjoint h (by decide) ..

/-- The counters of the ports start at 0x100 of each port's registers. -/
theorem portClosed_portCount {j : Nat} (hj : j < 12) (s : Node) (q n : Nat) :
    portClosed (portCount s q j n) p = portClosed s p := by
  refine portClosed_regSet p ?_ ..
  rw [regKey_portCounters, regKey_portStatus]
  omega

theorem portClosed_modPort (s : Node) (q : Nat) (f : Port → Port) : portClosed (modPort s q f) p = portClosed s p := rfl

theorem portClosed_sendFrame (s : Node) (o : Out) : portClosed (sendFrame s o) p = portClosed s p :=
  view_ite (portClosed · p) rfl (view_ite (portClosed · p) rfl (portClosed_portCount p (by decide) ..))

theorem portClosed_logRemote (s : Node) (scope block code pa : Nat) (more : List (Nat × Nat)) :
    portClosed (logRemote s scope block code pa more) p = portClosed s p :=
  (recordFree_portClosed p).logErr ..

theorem portClosed_settleGroup (s : Node) (g k : Nat) : portClosed (settleGroup s g k) p = portClosed s p :=
  view_ite (portClosed · p) rfl rfl

theorem portClosed_endRemote (s : Node) (r : RemoteReq) (code : Nat) (data : List Byte) :
    portClosed (endRemote s r code data) p = portClosed s p := by
  have hgone (scope block : Nat) (more : List (Nat × Nat)) : portClosed (if code = 0x0603 then takeRemote s r.id else
      logRemote (takeRemote s r.id) scope block code (remotePa r) more) p = portClosed s p :=
    view_ite (portClosed · p) rfl ((portClosed_logRemote ..).trans rfl)
  unfold endRemote
  dsimp only
  split
  · refine view_ite (portClosed · p) (portClosed_settleGroup ..) ((portClosed_settleGroup ..).trans ?_)
    exact view_ite (portClosed · p) (hgone ..) (hgone ..)
  · exact view_ite (portClosed · p) rfl (hgone ..)
  · exact view_ite (portClosed · p) (view_ite (portClosed · p) rfl (hgone ..)) rfl
  · rfl

theorem portClosed_endCmd (s : Node) (id status : Nat) : portClosed (endCmd s id status) p = portClosed s p := by
  unfold endCmd
  split
  · rfl
  · rfl

theorem portClosed_failCmd (s : Node) (id code : Nat) : portClosed (failCmd s id code) p = portClosed s p := by
  unfold failCmd
  split
  · rfl
  split
  · rfl
  · exact view_ite (portClosed · p) (((recordFree_portClosed p).logErr ..).trans (portClosed_endCmd ..)) (portClosed_endCmd ..)

theorem portClosed_failWho (s : Node) (who : DzWho) (peer code : Nat) :
    portClosed (failWho s who peer code) p = portClosed s p := by
  unfold failWho
  split
  · unfold failOp
    split
    · exact portClosed_endRemote ..
    · exact portClosed_failCmd ..
  · refine view_ite (portClosed · p) ?_ rfl
    exact view_ite (portClosed · p) rfl ((recordFree_portClosed p).logErr ..)
  · rfl
  · rfl

theorem portClosed_noRoute (s : Node) (b dst tc seq : Nat) (own : Bool) :
    portClosed (noRoute s b dst tc seq own) p = portClosed s p := by
  have hcount : portClosed (dzCount s b cNoRoute) p = portClosed s p := by
    refine portClosed_regSet p ?_ ..
    have hkey : regKey (bLoc .dzCounters b [cNoRoute]) = (12 + b) * 2 ^ 28 + (0x41 + 0) * 2 ^ 20 + 0x200 + (3 * 8 + 0) := rfl
    rw [hkey, regKey_portStatus]
    omega
  unfold noRoute
  dsimp only
  split
  · exact (portClosed_failWho ..).trans hcount
  · exact hcount

theorem portClosed_resprayHeld (s : Node) (q : Nat) : portClosed (resprayHeld s q) p = portClosed s p := by
  unfold resprayHeld
  refine (view_foldl (v := (portClosed · p)) (fun s o => ?_) _ _).trans rfl
  dsimp only
  split
  · exact portClosed_noRoute ..
  · exact portClosed_sendFrame ..

theorem portClosed_enableWrite (s : Node) (q : Nat) (en : Bool) :
    portClosed (enableWrite s (portCtrlLoc q) en) p = portClosed s p := by
  have hset (s : Node) (w : Word) : portClosed (regSet s (portCtrlLoc q) w) p = portClosed s p :=
    portClosed_regSet p (regKey_portCtrlLoc_ne p q) s w
  unfold enableWrite
  dsimp only
  split
  case h_2 | h_3 | h_8 => exact hset ..
  all_goals exact (hset ..).trans (hset ..)

/-- The fall of a link leaves the lanes that have failed. -/
theorem portClosed_linkFalls (s : Node) (cause : Nat) : portClosed (linkFalls s p cause) p = portClosed s p := by
  unfold linkFalls
  dsimp only
  have hcause := portClosed_fSet p (f := fPortStatusDownCause) (by decide) s cause
  refine view_ite (portClosed · p) ?_ hcause
  generalize hs3 : portCount _ p cLinkDowns 1 = s3
  have h3 : portClosed s3 p = portClosed s p := by
    rw [← hs3, portClosed_portCount p (by decide), (recordFree_portClosed p).logErr, portClosed_fSet p (by decide),
      portClosed_fSet p (by decide), hcause]
  generalize hs5 : signal _ (p / 5) 56 = s5
  have h5 : portClosed s5 p = portClosed s p := by
    rw [← hs5, (recordFree_portClosed p).signal]
    exact view_ite (portClosed · p) h3 ((portClosed_resprayHeld ..).trans h3)
  refine view_ite (portClosed · p) ?_ h5
  exact (portClosed_portCount p (by decide) ..).trans ((portClosed_enableWrite ..).trans h5)

theorem portClosed_loseLane (s : Node) (lane : Nat) : portClosed (loseLane s p lane) p = portClosed s p := by
  unfold loseLane
  dsimp only
  have hfalls (f : Port → Port) : portClosed (modPort (linkFalls s p 3) p f) p = portClosed s p :=
    (portClosed_modPort ..).trans (portClosed_linkFalls ..)
  refine view_ite (portClosed · p) (hfalls _) ?_
  have hcause : portClosed (fSet s (portLoc .portStatus p) fPortStatusDownCause 3) p = portClosed s p :=
    portClosed_fSet p (by decide) ..
  refine view_ite (portClosed · p) (view_ite (portClosed · p) ((portClosed_modPort ..).trans hcause) rfl) ?_
  refine view_ite (portClosed · p) rfl ?_
  split
  · rfl
  · exact hfalls _

/-- No mode uses more than eight lanes. -/
theorem lt_eight_of_modeLanes {mode lane : Nat} (h : bit (modeLanes mode) lane = true) : lane < 8 := by
  have hle : modeLanes mode < 2 ^ 8 := by
    unfold modeLanes
    split <;> [decide; (split <;> decide)]
  by_contra hge
  have hbit : (modeLanes mode).testBit lane = false :=
    Nat.testBit_lt_two_pow (hle.trans_le (Nat.pow_le_pow_right (by decide) (Nat.not_lt.1 hge)))
  exact absurd (h.symm.trans hbit) (by decide)

/-- R305: a lane that the Shutter has closed shows in CLOSED. -/
theorem bit_portClosed_closeLane (s : Node) {lane : Nat} (h : lane < 8) : bit (portClosed (closeLane s p lane) p) lane = true := by
  have hclosed : portClosed (closeLane s p lane) p = (portClosed s p ||| 1 <<< lane) % 2 ^ 8 := by
    rw [closeLane, portClosed_loseLane, (recordFree_portClosed p).signal, (recordFree_portClosed p).logErr, fOr, portClosed,
      fGet_fSet_self _ _ _ _ (by decide)]
    rfl
  rw [hclosed, bit, Nat.testBit_mod_two_pow]
  simp [h, Nat.testBit_shiftLeft]

end closed

/-- Settles O43, row by row: each command acts where its own conditions hold. -/
theorem portCommandsComplete : Obligations.PortCommandsComplete := by
  intro q s p hp
  refine ⟨?_, ?_, ?_, ?_, ?_, ?_, ?_⟩
  · intro v
    rw [exec_portEnableWrite_eq]
    exact onNode_unit hp rfl
  · intro mode s1 hstate hmode hprbs
    exact exec_portStepDone_enabling hp hstate hmode hprbs
  · intro hon hlink
    rw [exec_portSignalDetect_eq]
    exact onNode_unit hp (by simp [hon, hlink])
  · intro ms m hmode hset htrain hon hlink hprbs l s1
    rw [exec_portLinkUp_eq]
    exact onNode_unit hp (by simp [hmode, hset, htrain, hon, hlink, hprbs, l, s1])
  · intro htrain hlink hrestart
    rw [exec_portTrainTimeout_eq]
    exact onNode_unit hp (by simp [htrain, hlink, hrestart])
  · intro hlink
    refine ⟨?_, ?_, ?_, ?_, ?_, ?_⟩
    · intro cause hcause
      rw [exec_portDown_eq]
      exact onNode_unit hp (if_pos ⟨hlink, by simpa using hcause⟩)
    · intro f hfec hfcs hlen hroom hdepth hacc hce
      rw [exec_ethFrameReceive_eq]
      exact onNode_unit hp (by simp [hlink, hfec, hfcs, Nat.not_lt.2 hlen, hroom, hdepth, hacc, hce])
    · intro enables quanta
      rw [exec_pfcFrameReceive_eq]
      refine ⟨_, onNode_unit hp (if_neg (by simp [hlink])), ?_⟩
      rw [portOf_modPort_self]
      rfl
    · intro prio hprio hen full
      rw [exec_pfcBufferThreshold_eq]
      exact onNode_unit hp (if_neg (by simp [hlink, hen, hprio]))
    · intro prio hpaused hstorm hwd htime hdown
      rw [exec_pfcStorm_eq]
      refine onNode_unit hp ((if_neg ?_).trans (if_neg ?_))
      · simp [hpaused, hstorm, hwd, hlink, Nat.not_lt.2 htime]
      · simp [hdown]
    · intro hfe v6 target htarget hown
      rw [exec_arpRequest_eq]
      exact onNode_unit hp (if_pos (by simp [isFe, hfe, hlink, hown, htarget]))
  · intro lane hon hlane hclosed
    refine ⟨?_, ?_, ?_, ?_⟩
    · rw [exec_laneFail_eq]
      exact onNode_unit hp (by simp [hon, hlane, hclosed])
    · intro n
      rw [exec_laneFail_eq]
      exact onNode_unit hp (by simp [hon, hlane, hclosed])
    · intro hfar e
      rw [exec_laneFail_eq]
      exact onNode_unit hp (by simp [hon, hlane, hclosed, hfar])
    · exact bit_portClosed_closeLane p s (lt_eight_of_modeLanes hlane)

end Sys2Proof.Machine
end

section
/-! What the home protocol and the collectives leave of registers outside their own blocks: a register of another block reads
the same after any access to memory, whatever the caches, the directories and the error logs go through. -/

namespace Sys2Proof.Machine

/-- A register outside the blocks that accesses and collectives write: the error log, the directory, the near-memory
cache, the die cache and Shingle. -/
def homeFree (l : RegLoc) : Prop := ∀ b ∈ [0x00, 0x10, 0x12, 0x20, 0x42], regKey l / 2 ^ 20 % 2 ^ 8 ≠ b

/-- The mapping of memory stands in a block of its own. -/
theorem homeFree_hbmStatus (b : Nat) : homeFree (bLoc .hbmStatus b) := by
  have hblock : regKey (bLoc .hbmStatus b) / 2 ^ 20 % 2 ^ 8 = 0x11 := block_bLoc (by decide) (by decide) b
  rw [homeFree, hblock]
  decide

/-- The block of a die's register that has no copies. -/
theorem block_dLoc {r : RegId} (hb : (regSpec r).block < 2 ^ 8) (ho : (regSpec r).offset < 2 ^ 20) (d : Nat) :
    regKey (dLoc r d) / 2 ^ 20 % 2 ^ 8 = (regSpec r).block := by
  have hcopy : idxOffset (regSpec r).dims [] = 0 := by
    unfold idxOffset
    split <;> simp_all
  simp only [regKey, dLoc, hcopy]
  omega

section free
variable {l : RegLoc} (s : Node)

/-! ### Changes of the state that write no register -/

@[simp] theorem regGet_modDie (d : Nat) (f : Die → Die) : regGet (modDie s d f) l = regGet s l := rfl
@[simp] theorem regGet_modCache (d : Nat) (f : DieCache → DieCache) : regGet (modCache s d f) l = regGet s l := rfl
@[simp] theorem regGet_modCore (c : Nat) (f : HostCore → HostCore) : regGet (modCore s c f) l = regGet s l := rfl
@[simp] theorem regGet_modGable (g : Nat) (f : Gable → Gable) : regGet (modGable s g f) l = regGet s l := rfl
@[simp] theorem regGet_modGroup (g k : Nat) (f : Group → Group) : regGet (modGroup s g k f) l = regGet s l := rfl
@[simp] theorem regGet_modDir (b : Nat) (f : Dir → Dir) : regGet (modDir s b f) l = regGet s l := rfl
@[simp] theorem regGet_modEntry (line : Nat) (f : DirEntry → DirEntry) : regGet (modEntry s line f) l = regGet s l := rfl
@[simp] theorem regGet_modNmc (b : Nat) (f : Nmc → Nmc) : regGet (modNmc s b f) l = regGet s l := rfl
@[simp] theorem regGet_modNet (f : Routes → Routes) : regGet (modNet s f) l = regGet s l := rfl
@[simp] theorem regGet_modFab (f : Fabric → Fabric) : regGet (modFab s f) l = regGet s l := rfl
@[simp] theorem regGet_modShg (b : Nat) (f : Shg → Shg) : regGet (modShg s b f) l = regGet s l := rfl
@[simp] theorem regGet_modBucket (tag : Nat) (f : Bucket → Bucket) : regGet (modBucket s tag f) l = regGet s l := rfl
@[simp] theorem regGet_bump : regGet (bump s) l = regGet s l := rfl
@[simp] theorem regGet_dropAlt (line who : Nat) : regGet (dropAlt s line who) l = regGet s l := rfl
@[simp] theorem regGet_dropStale (line : Nat) : regGet (dropStale s line) l = regGet s l := rfl
@[simp] theorem regGet_giveCopy (line d : Nat) (bytes : List Byte) : regGet (giveCopy s line d bytes) l = regGet s l := rfl
@[simp] theorem regGet_wroteHbm (line : Nat) (poison : Bool) : regGet (wroteHbm s line poison) l = regGet s l := rfl
@[simp] theorem regGet_writeBytes (a : Nat) (bytes : List Byte) : regGet (writeBytes s a bytes) l = regGet s l := rfl
@[simp] theorem regGet_writeList (bytes : List (Nat × Byte)) : regGet (writeList s bytes) l = regGet s l := rfl
@[simp] theorem regGet_originate (who : DzWho) (k : DzPkt) : regGet (originate s who k) l = regGet s l := rfl
@[simp] theorem regGet_modMiss (d line : Nat) (f : Miss → Miss) : regGet (modMiss s d line f) l = regGet s l := rfl
@[simp] theorem regGet_giveData (d line src : Nat) (poison : Bool) (bytes : List Byte) :
    regGet (giveData s d line src poison bytes) l = regGet s l := rfl
@[simp] theorem regGet_modTxn (b line : Nat) (f : Txn → Txn) : regGet (modTxn s b line f) l = regGet s l := rfl
@[simp] theorem regGet_endTxn (b line : Nat) : regGet (endTxn s b line) l = regGet s l := rfl
@[simp] theorem regGet_popReq (b line : Nat) : regGet (popReq s b line) l = regGet s l := rfl
@[simp] theorem regGet_sendSnoops (b line : Nat) (m : List (Snoop × Nat)) : regGet (sendSnoops s b line m) l = regGet s l := rfl
@[simp] theorem regGet_startRecall (b : Nat) (r : HomeReq) (victim : Nat) (dies : List Nat) (rebuilt : Bool) :
    regGet (startRecall s b r victim dies rebuilt) l = regGet s l := rfl

@[simp] theorem regGet_sendShingle (tag : Nat) (k : Bucket) (dst first phase : Nat) (data : List Byte) :
    regGet (sendShingle s tag k dst first phase data) l = regGet s l := rfl

@[simp] theorem regGet_afterReduce (tag : Nat) : regGet (afterReduce s tag) l = regGet s l := view_ite (regGet · l) rfl rfl

/-- A register reads the same after a choice that neither branch shows in it. -/
theorem regGet_ite (c : Prop) [Decidable c] (t : Node) : regGet (if c then s else t) l = if c then regGet s l else regGet t l :=
  apply_ite (regGet · l) ..

theorem regGet_foldl {α : Type} {f : Node → α → Node} (h : ∀ s x, regGet (f s x) l = regGet s l) (xs : List α) :
    regGet (xs.foldl f s) l = regGet s l :=
  view_foldl (v := (regGet · l)) h xs s

@[simp] theorem regGet_atHome (r : HomeReq) : regGet (atHome s r) l = regGet s l := by
  unfold atHome
  dsimp only
  split <;> rfl

@[simp] theorem regGet_answerTo (r : HomeReq) (a : Resp) : regGet (answerTo s r a) l = regGet s l :=
  view_ite (regGet · l) rfl rfl

@[simp] theorem regGet_keepCopy (line : Nat) : regGet (keepCopy s line) l = regGet s l := view_ite (regGet · l) rfl rfl

@[simp] theorem regGet_takeCopy (line who : Nat) : regGet (takeCopy s line who) l = regGet s l := by
  unfold takeCopy
  split <;> rfl

@[simp] theorem regGet_noteCopy (d line : Nat) : regGet (noteCopy s d line) l = regGet s l := by simp [noteCopy]

@[simp] theorem regGet_noteMemory (line : Nat) : regGet (noteMemory s line) l = regGet s l := by
  simp [noteMemory, regGet_ite]

@[simp] theorem regGet_breakCores (d line keep : Nat) : regGet (breakCores s d line keep) l = regGet s l :=
  view_ite (regGet · l) rfl rfl

@[simp] theorem regGet_weakenCores (d line : Nat) : regGet (weakenCores s d line) l = regGet s l :=
  view_ite (regGet · l) rfl rfl

@[simp] theorem regGet_setHold (d line : Nat) (st : Moesi) : regGet (setHold s d line st) l = regGet s l := by
  unfold setHold
  cases st <;> simp [regGet_ite]

@[simp] theorem regGet_setSnoopSt (d line : Nat) (st : Moesi) : regGet (setSnoopSt s d line st) l = regGet s l := by
  simp [setSnoopSt, regGet_ite]

@[simp] theorem regGet_nmcMark (b line : Nat) (dirty poison : Bool) : regGet (nmcMark s b line dirty poison) l = regGet s l := by
  unfold nmcMark
  split <;> rfl

@[simp] theorem regGet_prefetch (b : Nat) (line : Int) : regGet (prefetch s b line) l = regGet s l :=
  view_ite (regGet · l) rfl rfl

@[simp] theorem regGet_trainTrackers (b cls line : Nat) : regGet (trainTrackers s b cls line) l = regGet s l := by
  unfold trainTrackers
  split
  · rfl
  dsimp only
  split
  · rfl
  · simp [regGet_ite, regGet_foldl]

@[simp] theorem regGet_l2Room (d core line : Nat) : regGet (l2Room s d core line) l = regGet s l :=
  view_ite (regGet · l) rfl rfl

@[simp] theorem regGet_coreTake (d line core : Nat) (fetch : Bool) (st : Moesi) :
    regGet (coreTake s d line core fetch st) l = regGet s l := by
  simp [coreTake, regGet_ite]

@[simp] theorem regGet_soleCore (d line core : Nat) : regGet (soleCore s d line core) l = regGet s l := by simp [soleCore]

@[simp] theorem regGet_noteCore (d line core : Nat) (fetch : Bool) : regGet (noteCore s d line core fetch) l = regGet s l := by
  simp [noteCore, regGet_ite]

@[simp] theorem regGet_noteCores (d line cores : Nat) : regGet (noteCores s d line cores) l = regGet s l := by
  simp [noteCores, regGet_foldl]

@[simp] theorem regGet_mergeStore (d line : Nat) (bytes : List (Nat × Byte)) :
    regGet (mergeStore s d line bytes) l = regGet s l := by
  simp [mergeStore, regGet_ite]

@[simp] theorem regGet_mergeWaiting (d line : Nat) : regGet (mergeWaiting s d line) l = regGet s l := by
  simp [mergeWaiting, regGet_foldl]

@[simp] theorem regGet_settleGroup (g k : Nat) : regGet (settleGroup s g k) l = regGet s l := view_ite (regGet · l) rfl rfl

@[simp] theorem regGet_settleGroups (g : Nat) : regGet (settleGroups s g) l = regGet s l :=
  regGet_foldl s (fun s k => regGet_settleGroup s g k) _

@[simp] theorem regGet_loadsGot (d line : Nat) : regGet (loadsGot s d line) l = regGet s l := by
  unfold loadsGot
  refine regGet_foldl s (fun s i => ?_) _
  dsimp only
  split <;> rfl

@[simp] theorem regGet_sendHome (r : HomeReq) : regGet (sendHome s r) l = regGet s l := by simp [sendHome, regGet_ite]

@[simp] theorem regGet_sendMiss (d line : Nat) (write : Bool) (filler : FillBy) :
    regGet (sendMiss s d line write filler) l = regGet s l := by
  simp [sendMiss, regGet_ite]

@[simp] theorem regGet_nextMiss (d : Nat) : regGet (nextMiss s d) l = regGet s l := by
  unfold nextMiss
  split
  · rfl
  split <;> simp

@[simp] theorem regGet_openTxn (b : Nat) (r : HomeReq) : regGet (openTxn s b r).1 l = regGet s l := by
  unfold openTxn
  dsimp only
  split <;> simp

end free

/-! ### Changes that write registers of the homes' own blocks -/

section home
variable {l : RegLoc} (hl : homeFree l) (s : Node)
include hl

theorem regGet_regSet_bLoc {r : RegId} (hr : (regSpec r).block ∈ [0x00, 0x10, 0x12, 0x20, 0x42])
    (ho : (regSpec r).offset < 2 ^ 20) (b : Nat) (w : Word) : regGet (regSet s (bLoc r b) w) l = regGet s l := by
  have hsmall : ∀ k ∈ [0x00, 0x10, 0x12, 0x20, 0x42], k < 2 ^ 8 := by decide
  refine regGet_regSet_of_block_ne ?_ s w
  rw [block_bLoc (hsmall _ hr) ho]
  exact (hl _ hr).symm

theorem regGet_cntAdd_bLoc {r : RegId} (hr : (regSpec r).block ∈ [0x00, 0x10, 0x12, 0x20, 0x42])
    (ho : (regSpec r).offset < 2 ^ 20) (b n : Nat) : regGet (cntAdd s (bLoc r b) n) l = regGet s l :=
  regGet_regSet_bLoc hl s hr ho ..

theorem regGet_cntAdd_dLoc {r : RegId} (hr : (regSpec r).block ∈ [0x00, 0x10, 0x12, 0x20, 0x42])
    (ho : (regSpec r).offset < 2 ^ 20) (d n : Nat) : regGet (cntAdd s (dLoc r d) n) l = regGet s l := by
  have hsmall : ∀ k ∈ [0x00, 0x10, 0x12, 0x20, 0x42], k < 2 ^ 8 := by decide
  refine regGet_regSet_of_block_ne ?_ s _
  rw [block_dLoc (hsmall _ hr) ho]
  exact (hl _ hr).symm

@[simp] theorem regGet_logErr (scope block code addr : Nat) (detail : List (Nat × Nat)) :
    regGet (logErr s scope block code addr detail) l = regGet s l :=
  (recordFree_regGet (hl 0 (by decide))).logErr ..

@[simp] theorem regGet_poisonAgent (scope block line : Nat) : regGet (poisonAgent s scope block line) l = regGet s l :=
  regGet_logErr hl ..

/-! #### The counters of the homes -/

@[simp] theorem regGet_dcSnoops (d n : Nat) : regGet (cntAdd s (dLoc .dcSnoops d) n) l = regGet s l :=
  regGet_cntAdd_dLoc hl s (by decide) (by decide) ..
@[simp] theorem regGet_dcWritebacks (d n : Nat) : regGet (cntAdd s (dLoc .dcWritebacks d) n) l = regGet s l :=
  regGet_cntAdd_dLoc hl s (by decide) (by decide) ..
@[simp] theorem regGet_dirC2c (b n : Nat) : regGet (cntAdd s (bLoc .dirC2c b) n) l = regGet s l :=
  regGet_cntAdd_bLoc hl s (by decide) (by decide) ..
@[simp] theorem regGet_dirRecalls (b n : Nat) : regGet (cntAdd s (bLoc .dirRecalls b) n) l = regGet s l :=
  regGet_cntAdd_bLoc hl s (by decide) (by decide) ..
@[simp] theorem regGet_dirEvictions (b n : Nat) : regGet (cntAdd s (bLoc .dirEvictions b) n) l = regGet s l :=
  regGet_cntAdd_bLoc hl s (by decide) (by decide) ..
@[simp] theorem regGet_dirLookups (b n : Nat) : regGet (cntAdd s (bLoc .dirLookups b) n) l = regGet s l :=
  regGet_cntAdd_bLoc hl s (by decide) (by decide) ..
@[simp] theorem regGet_dirLostLines (b n : Nat) : regGet (cntAdd s (bLoc .dirLostLines b) n) l = regGet s l :=
  regGet_cntAdd_bLoc hl s (by decide) (by decide) ..
@[simp] theorem regGet_nmcHits (b n : Nat) : regGet (cntAdd s (bLoc .nmcHits b) n) l = regGet s l :=
  regGet_cntAdd_bLoc hl s (by decide) (by decide) ..
@[simp] theorem regGet_nmcMisses (b n : Nat) : regGet (cntAdd s (bLoc .nmcMisses b) n) l = regGet s l :=
  regGet_cntAdd_bLoc hl s (by decide) (by decide) ..
@[simp] theorem regGet_nmcWritebacks (b n : Nat) : regGet (cntAdd s (bLoc .nmcWritebacks b) n) l = regGet s l :=
  regGet_cntAdd_bLoc hl s (by decide) (by decide) ..
@[simp] theorem regGet_eavesHits (b n : Nat) : regGet (cntAdd s (bLoc .eavesHits b) n) l = regGet s l :=
  regGet_cntAdd_bLoc hl s (by decide) (by decide) ..
@[simp] theorem regGet_transomHits (b n : Nat) : regGet (cntAdd s (bLoc .transomHits b) n) l = regGet s l :=
  regGet_cntAdd_bLoc hl s (by decide) (by decide) ..
@[simp] theorem regGet_transomUnused (b n : Nat) : regGet (cntAdd s (bLoc .transomUnused b) n) l = regGet s l :=
  regGet_cntAdd_bLoc hl s (by decide) (by decide) ..
@[simp] theorem regGet_nmcStatus (b : Nat) (f : Fld) (v : Nat) : regGet (fSet s (bLoc .nmcStatus b) f v) l = regGet s l :=
  regGet_regSet_bLoc hl s (by decide) (by decide) ..

/-! #### The near-memory cache -/

@[simp] theorem regGet_dropTransom (b line : Nat) : regGet (dropTransom s b line) l = regGet s l := by
  simp [dropTransom, regGet_ite, hl]

@[simp] theorem regGet_eavesPush (b : Nat) (v : NmcLine) : regGet (eavesPush s b v) l = regGet s l := by
  unfold eavesPush
  split <;> simp [regGet_ite, hl]

@[simp] theorem regGet_nmcFill (b cls line : Nat) (dirty poison : Bool) :
    regGet (nmcFill s b cls line dirty poison) l = regGet s l := by
  unfold nmcFill
  dsimp only
  split
  · rfl
  split
  · rfl
  split <;> simp [hl]

@[simp] theorem regGet_nmcWrite (cls line : Nat) (full poison : Bool) :
    regGet (nmcWrite s cls line full poison) l = regGet s l := by
  unfold nmcWrite
  dsimp only
  split
  · split <;> simp [regGet_ite, hl]
  split
  · split
    · split <;> simp [hl]
    · simp [hl]
  · simp [regGet_ite, hl]

@[simp] theorem regGet_nmcRead (cls line : Nat) : regGet (nmcRead s cls line) l = regGet s l := by
  unfold nmcRead
  dsimp only
  split
  · split
    · simp [hl]
    · split <;> simp [regGet_ite, hl]
  · simp [regGet_ite, hl]

/-! #### Fenced dies and lines lost with them -/

@[simp] theorem regGet_loseLine (line : Nat) : regGet (loseLine s line) l = regGet s l := by
  simp [loseLine, regGet_foldl, hl]

@[simp] theorem regGet_fenceLine (line d : Nat) : regGet (fenceLine s line d) l = regGet s l := by
  simp [fenceLine, regGet_ite, hl]

@[simp] theorem regGet_purgeFenced (line : Nat) : regGet (purgeFenced s line) l = regGet s l := by
  simp [purgeFenced, regGet_foldl, hl]

@[simp] theorem regGet_closeFenced (t : Txn) : regGet (closeFenced s t) l = regGet s l := by
  unfold closeFenced
  dsimp only
  split <;> simp [regGet_ite, hl]

/-! #### Transactions at the home -/

@[simp] theorem regGet_endRecall (b : Nat) (t : Txn) : regGet (endRecall s b t) l = regGet s l := by
  simp [endRecall, regGet_ite, hl]

@[simp] theorem regGet_rebuildEntry (b : Nat) (r : HomeReq) : regGet (rebuildEntry s b r) l = regGet s l := by
  simp [rebuildEntry, hl]

@[simp] theorem regGet_takeEviction (r : HomeReq) : regGet (takeEviction s r) l = regGet s l := by
  unfold takeEviction
  split
  · simp [regGet_ite, hl]
  · rfl

@[simp] theorem regGet_closeReq (b : Nat) (t : Txn) : regGet (closeReq s b t).1 l = regGet s l := by
  unfold closeReq
  dsimp only
  split
  all_goals
    split
    · simp [hl]
    split <;> simp [regGet_ite, hl]

theorem regGet_homeRun (n line : Nat) : regGet (homeRun n s line) l = regGet s l := by
  induction n generalizing s with
  | zero => rfl
  | succ n ih =>
    unfold homeRun
    dsimp only
    split
    · rfl
    split
    · rfl
    split
    · simp [hl]
    split
    · split <;> simp [regGet_ite, ih, hl]
    split
    · split
      · simp [hl]
      split
      · split <;> simp [ih, hl]
      · simp [hl]
    · simp [regGet_ite, ih, hl]

@[simp] theorem regGet_homeGo (line : Nat) : regGet (homeGo s line) l = regGet s l := regGet_homeRun hl ..

@[simp] theorem regGet_homeNext (b : Nat) : regGet (homeNext s b) l = regGet s l :=
  regGet_foldl s (fun s line => regGet_homeGo hl s line) _

@[simp] theorem regGet_settleTxn (b line : Nat) : regGet (settleTxn s b line) l = regGet s l := by
  unfold settleTxn
  split
  · rfl
  · simp [regGet_ite, hl]

@[simp] theorem regGet_answerSnoop (m : SnoopMsg) : regGet (answerSnoop s m) l = regGet s l := by
  unfold answerSnoop
  dsimp only
  split
  · simp [regGet_ite, hl]
  · split <;> simp [regGet_ite, hl]

@[simp] theorem regGet_takeCmpAck (d line : Nat) : regGet (takeCmpAck s d line) l = regGet s l := by
  unfold takeCmpAck
  dsimp only
  split
  · simp [regGet_ite, hl]
  · rfl

/-! #### The die cache's own part -/

@[simp] theorem regGet_evictLine (d line : Nat) : regGet (evictLine s d line) l = regGet s l := by
  simp [evictLine, regGet_ite, hl]

theorem regGet_of_dcRoom {d line w : Nat} {filler : FillBy} {t : Node} (h : dcRoom s d line filler = some (t, w)) :
    regGet t l = regGet s l := by
  unfold dcRoom at h
  dsimp only at h
  split at h
  · cases h
    rfl
  split at h
  · cases h
  split at h
  · cases h
    simp [hl]
  · cases h
    rfl

@[simp] theorem regGet_fillGranted (d line : Nat) (m : Miss) (granted : Moesi) :
    regGet (fillGranted s d line m granted) l = regGet s l := by
  unfold fillGranted
  dsimp only
  split
  · rfl
  next t w hroom =>
    have ht : regGet t l = regGet s l := by
      split at hroom
      · cases hroom
        rfl
      · exact regGet_of_dcRoom hl s hroom
    simp [regGet_ite, regGet_foldl, ht]

@[simp] theorem regGet_takeResponse (d line : Nat) : regGet (takeResponse s d line) l = regGet s l := by
  unfold takeResponse
  split
  · rfl
  split
  · simp [regGet_ite, hl]
  · rfl

/-! #### Accesses -/

@[simp] theorem regGet_lineStep (line : Nat) : regGet (lineStep s line) l = regGet s l := by
  unfold lineStep
  dsimp only
  split
  · simp [hl]
  split
  · simp [regGet_ite, hl]
  split <;> simp [hl]

theorem regGet_lineSteps (n line : Nat) : regGet (lineSteps n s line) l = regGet s l := by
  induction n generalizing s with
  | zero => rfl
  | succ n ih => simp [lineSteps, regGet_ite, ih, hl]

@[simp] theorem regGet_access (r : HomeReq) : regGet (access s r) l = regGet s l := by
  simp [access, regGet_ite, regGet_lineSteps hl]

@[simp] theorem regGet_agentTouch (base cls a n : Nat) : regGet (agentTouch s base cls a n) l = regGet s l := by
  simp [agentTouch, homeRead, regGet_ite, regGet_foldl, hl]

@[simp] theorem regGet_agentWrite (base a : Nat) (bytes : List Byte) (poison : Bool) :
    regGet (agentWrite s base a bytes poison) l = regGet s l := by
  simp [agentWrite, agentWriteBy, homeWrite, regGet_ite, regGet_foldl, hl]

/-! #### Collectives -/

@[simp] theorem regGet_shgCount (b : Nat) {j : Nat} (hj : j < 6) : regGet (shgCount s b j) l = regGet s l := by
  have hkey : regKey (bLoc .shgCounters b [j]) = (12 + b) * 2 ^ 28 + (0x42 + 0) * 2 ^ 20 + 0x100 + (j * 8 + 0) := rfl
  refine regGet_regSet_of_block_ne ?_ s _
  have hblock : regKey (bLoc .shgCounters b [j]) / 2 ^ 20 % 2 ^ 8 = 0x42 := by rw [hkey]; omega
  rw [hblock]
  exact (hl _ (by decide)).symm

@[simp] theorem regGet_shgCtrl (b : Nat) (f : Fld) (v : Nat) : regGet (fSet s (bLoc .shgCtrl b) f v) l = regGet s l :=
  regGet_regSet_bLoc hl s (by decide) (by decide) ..

@[simp] theorem regGet_sendShard (tag : Nat) (k : Bucket) (region i : Nat) :
    regGet (sendShard s tag k region i) l = regGet s l := by
  unfold sendShard
  refine regGet_foldl s (fun s e => ?_) _
  dsimp only
  split
  · simp [hl]
  · rw [regGet_foldl _ fun _ _ => regGet_sendShingle ..]
    simp [hl]

@[simp] theorem regGet_launchGather (tag : Nat) (k : Bucket) : regGet (launchGather s tag k) l = regGet s l := by
  unfold launchGather
  refine (regGet_foldl _ (fun s i => ?_) _).trans (regGet_modBucket ..)
  have hshard := regGet_sendShard hl s tag k k.inn i
  exact view_ite (regGet · l) hshard ((regGet_foldl _ (fun _ _ => regGet_agentWrite hl ..) _).trans hshard)

@[simp] theorem regGet_failBucket (tag ep : Nat) : regGet (failBucket s tag ep) l = regGet s l :=
  view_ite (regGet · l) rfl (regGet_logErr hl ..)

@[simp] theorem regGet_sendLeaves (tag : Nat) (k : Bucket) (i : Nat) : regGet (sendLeaves s tag k i) l = regGet s l := by
  unfold sendLeaves
  split
  · simp [hl]
  · exact regGet_foldl s (fun _ _ => regGet_sendShingle ..) _

@[simp] theorem regGet_launchReduce (tag : Nat) (k : Bucket) : regGet (launchReduce s tag k) l = regGet s l := by
  simp [launchReduce, regGet_ite, regGet_foldl, hl]

@[simp] theorem regGet_launchOrHold (tag : Nat) : regGet (launchOrHold s tag) l = regGet s l := by
  simp [launchOrHold, regGet_ite, hl]

@[simp] theorem regGet_setShgHold (c : Nat) (h : Bool) : regGet (setShgHold s c h) l = regGet s l := by
  simp [setShgHold, launchHeld, regGet_ite, regGet_foldl, hl]

end home

/-- An access leaves the size of memory as it is. -/
theorem hbmBytes_agentTouch (s : Node) (base cls a n : Nat) : hbmBytes (agentTouch s base cls a n) = hbmBytes s := by
  rw [hbmBytes, fGet, regGet_agentTouch (homeFree_hbmStatus 0), hbmBytes, fGet]

end Sys2Proof.Machine
end

section
/-! Statements of 13_ethernet_ports.md: RoCE queue pairs, their packets, contexts and rings. -/

namespace Sys2Proof.Machine

/-! ### The meanings of the commands of a queue pair -/

section meanings
variable (b x port : Nat) (v : Word) (s : State)

theorem exec_cnpReceive_eq : exec (.cnpReceive x) s = execCnpReceive x s := rfl
theorem exec_roceRateIncrease_eq : exec (.roceRateIncrease x) s = execRoceRateIncrease x s := rfl
theorem exec_rocePacketReceive_eq (k : RocePkt) :
    exec (.rocePacketReceive port k) s = execRocePacketReceive port k s := rfl
theorem exec_roceAckReceive_eq (a : RoceAck) : exec (.roceAckReceive x a) s = execRoceAckReceive x a s := rfl
theorem exec_roceAckTimeout_eq : exec (.roceAckTimeout x) s = execRoceAckTimeout x s := rfl
theorem exec_roceQpLoad_eq : exec (.roceQpLoad b x) s = execRoceQpLoad b x s := rfl
theorem exec_roceQpStore_eq : exec (.roceQpStore b x) s = execRoceQpStore b x s := rfl
theorem exec_roceQpDestroy_eq : exec (.roceQpDestroy b x) s = execRoceQpDestroy b x s := rfl
theorem exec_roceSqDb_eq : exec (.roceSqDb b v) s = execRoceSqDb b v s := rfl
theorem exec_roceSendEntry_eq : exec (.roceSendEntry x) s = execRoceSendEntry x s := rfl
theorem exec_roceCompletionWrite_eq : exec (.roceCompletionWrite b) s = execRoceCompletionWrite b s := rfl
theorem exec_mrEntryWrite_eq (k w : Nat) : exec (.mrEntryWrite k w v) s = execMrEntryWrite k w v s := rfl

end meanings

/-! ### Commands with accesses of their own, none of which is left at a home (log entry 184) -/

theorem onServed_not_held {q : List Instr} {s t : Node} {f : Node → Host.Outcome Node Fault Refusal} (hf : f s = .next t)
    (hheld : accessHeld t = false) : onServed ⟨q, s⟩ f = .next ⟨q, t⟩ :=
  onServed_of_next hf (served_of_not_held hheld)

/-- The same where the command answers its sender. -/
theorem onServed_withResp {q : List Instr} {s t : Node} {r : Resp} {f : Node → Host.Outcome Node Fault Refusal}
    (hf : f s = .next (withResp t r)) (hheld : accessHeld t = false) : onServed ⟨q, s⟩ f = .next ⟨q, withResp t r⟩ :=
  onServed_not_held hf (by rw [accessHeld_withResp, hheld])

/-- The same for a command of a numbered unit. -/
theorem onServed_unit {q : List Instr} {s t : Node} {n i : Nat} {f : Node → Node} (hi : i < n) (ht : f s = t)
    (hheld : accessHeld t = false) : onServed ⟨q, s⟩ (fun u => onUnit n i (f u)) = .next ⟨q, t⟩ :=
  onServed_not_held (onUnit_eq_next.2 ⟨hi, ht⟩) hheld

section roce
variable {s : Node} {x b : Nat}

/-- R312: a packet that its queue pair expects is performed. -/
theorem exec_rocePacketReceive_of_expected {q : List Instr} {port : Nat} {k : RocePkt} (hport : port < 20)
    (hfe : isFe port = true) (hlink : portLink s port = true) (hdepth : (portOf s port).depth ≠ 2)
    (hto : toPort s port k.dest = true) (hqpn : k.qpn = x + 0x100) (hx : x < 4096) (hop : k.op ≤ 6)
    (hqp : qpPort (qpOf s x) = port) (hst : (qpOf s x).st = 2 ∨ (qpOf s x).st = 3) (hpsn : k.psn = (qpOf s x).rqPsn)
    (hheld : accessHeld (performRoce (acceptPacket s x) x k) = false) :
    exec (.rocePacketReceive port k) ⟨q, s⟩ = .next ⟨q, performRoce (acceptPacket s x) x k⟩ := by
  rw [exec_rocePacketReceive_eq]
  refine onServed_not_held (onPort_eq_next.2 ⟨hport, ?_⟩) hheld
  have hnum : k.qpn - 0x100 = x := by omega
  dsimp only
  rw [hnum, if_neg (by simp [hlink, hdepth]), if_neg (by simp [hto]), if_neg, if_pos hpsn]
  simp only [not_or]
  exact ⟨by omega, by omega, by omega, by simp [hfe], not_not.2 hqp, fun h => by omega⟩

/-- R313: a clean image without reserved bits, whose state follows the present one, is loaded. -/
theorem qpLoad_of_clean (hin : inHbm s (qpImageAddr s b) 64 = true) :
    let s1 := agentTouch s b clsDma (qpImageAddr s b) 64
    let l := readBytes s1 (qpImageAddr s b) 64
    firstPoison s1 (qpImageAddr s b) 64 = none → imageReserved l = false →
      qpLegal (qpOf s x).st (descField l 0 1) = true → descField l 0 1 ≠ 0 → descField l 0 1 ≠ 4 →
      qpLoad s b x = modQp s1 x fun y => loadQp y l := by
  intro s1 l hclean hres hlegal hzero hfour
  simp only [qpLoad]
  rw [show firstPoison (agentTouch s b clsDma (qpImageAddr s b) 64) (qpImageAddr s b) 64 = none from hclean]
  dsimp only
  rw [if_neg (by simp [hin, l, s1, hres, hlegal]), if_neg hfour, if_neg hzero]

/-- R315: a send doorbell that leaves room moves the producer index. -/
theorem sqDoorbell_of_room {v : Word} (hqp : wbits v 11 0 = x) (hport : (qpOf s x).port = b)
    (hroom : (wbits v 47 32 + 65536 - (qpOf s x).sqCi) % 65536 ≤ 2 ^ bits (qpOf s x).sq 4 0) (hst : (qpOf s x).st ≠ 4) :
    sqDoorbell s b v = modQp s x fun y => { y with sqPi := wbits v 47 32 } := by
  subst hqp
  unfold sqDoorbell
  dsimp only
  rw [if_neg (not_not.2 hport), if_neg (Nat.not_lt.2 hroom), if_neg hst]

/-- R316: a completion record goes to the tail of a queue that has room. -/
theorem exec_roceCompletionWrite_of_room {q : List Instr} (hb : b < 4) {r : List Byte} {t : List (List Byte)}
    (hcq : tblGet [] s.roceCq b = r :: t) :
    let n := 2 ^ fGet s (bLoc .roceCqBase b) fRoceCqBaseLog2n
    let tail := fGet s (bLoc .roceCqTail b) fRoceCqTailIndex
    let a := fGet s (bLoc .roceCqBase b) fRoceCqBaseBase * 4096 + tail % n * 32
    (tail + 2 ^ 32 - fGet s (bLoc .roceCqHead b) fRoceCqHeadIndex) % 2 ^ 32 < n → 64 ≤ n → inHbm s a 32 = true →
      let u := fSet (agentWrite { s with roceCq := tblSet [] s.roceCq b t } b a r false)
        (bLoc .roceCqTail b) fRoceCqTailIndex ((tail + 1) % 2 ^ 32)
      accessHeld u = false → exec (.roceCompletionWrite b) ⟨q, s⟩ = .next ⟨q, u⟩ := by
  intro n tail a hroom hn hin u hheld
  rw [exec_roceCompletionWrite_eq]
  refine onServed_not_held (onBase_eq_next.2 ⟨hb, ?_⟩) hheld
  rw [hcq]
  exact if_neg (by simp only [not_or]; exact ⟨Nat.not_le.2 hroom, Nat.not_lt.2 hn, by rw [hin]; decide⟩)

/-- R317: the first word of a region that is not valid is stored as it is. -/
theorem mrWrite_zero_of_invalid {k : Nat} {v : Word} (hinv : bit (mrWord s k 3) 63 = false) :
    mrWrite s k 0 v.toNat = regSet s (bLoc .mrEntry 0 [k, 0]) v := by
  have hword : BitVec.ofNat 64 v.toNat = v := by rw [BitVec.ofNat_toNat, BitVec.setWidth_eq]
  refine (if_neg ?_).trans (congrArg (regSet s _) hword)
  rw [Bool.and_eq_true, not_and]
  exact fun h => absurd (hinv.symm.trans h) Bool.false_ne_true

end roce

end Sys2Proof.Machine
end

section
/-! Statements of 13_ethernet_ports.md: the queue pairs' commands complete. -/

namespace Sys2Proof.Machine

section entry
variable {s : Node} {x : Nat}

/-- R315: an entry that carries no data of its own is posted with the fields of its descriptor. -/
theorem sendEntry_of_noData {a : Nat}
    (ha : a = bits (qpOf s x).sq 55 12 * 4096 + (qpOf s x).sqCi % 2 ^ bits (qpOf s x).sq 4 0 * 64) :
    let s0 := agentTouch s (qpOf s x).port clsDma a 64
    let l := readBytes s0 a 64
    let s1 := modQp s0 x fun y => { y with sqCi := (y.sqCi + 1) % 65536 }
    (qpOf s x).st = 3 → (qpOf s x).sqCi ≠ (qpOf s x).sqPi → inHbm s a 64 = true → firstPoison s0 a 64 = none →
      sendInvalid s0 l = false → descField l 0 1 ≥ 4 → bit (descField l 1 1) 1 = false →
      sendEntry s x = qpPost s1 x (.entry (descField l 48 8) (bit (descField l 1 1) 0))
        (descField l 0 1) (if descField l 0 1 ≥ 5 then 8 else descField l 4 4) (descField l 8 8) (descField l 16 8)
        (descField l 24 4) (descField l 28 4) (descField l 32 8) (descField l 40 8) [] := by
  intro s0 l s1 hst hne hin hclean hinv hop hfence
  have hvalid : sendInvalid s l = false := by
    rw [← hinv]
    simp only [sendInvalid, inHbm, s0, hbmBytes_agentTouch]
  have hmany : ¬ descField l 0 1 ≤ 3 := by omega
  simp only [sendEntry, ← ha]
  rw [if_neg (by simp [hst, hne]), if_neg (by rw [hin]; decide),
    show firstPoison (agentTouch s (qpOf s x).port clsDma a 64) a 64 = none from hclean]
  dsimp only
  rw [if_neg (by rw [show sendInvalid s _ = false from hvalid]; decide),
    if_neg (by rw [show bit (descField (readBytes (agentTouch s _ clsDma a 64) a 64) 1 1) 1 = false from hfence]; simp), if_neg hmany, if_neg hmany]

end entry

/-- Settles O44, row by row. -/
theorem roceCommandsComplete : Obligations.RoceCommandsComplete := by
  intro q s x b v hx hb
  refine ⟨?_, ?_, ?_, ?_, ?_, ?_, ?_, ?_, ?_, ?_⟩
  · intro hst hcut
    rw [exec_cnpReceive_eq]
    exact onNode_unit hx (by simp [hst, hcut])
  · intro r hr hlt
    rw [exec_roceRateIncrease_eq]
    exact onNode_unit hx (by simp [hr, Nat.not_le.2 hlt])
  · intro port k hport hfe hlink hdepth hto hqpn hop hqp hst hpsn hheld
    exact exec_rocePacketReceive_of_expected hport hfe hlink hdepth hto hqpn hx hop hqp hst hpsn hheld
  · intro hst
    constructor
    · intro psn data t hheld
      rw [exec_roceAckReceive_eq]
      exact onServed_unit hx (by simp [hst, t]) hheld
    · intro htimeout hreqs
      rw [exec_roceAckTimeout_eq]
      exact onNode_unit hx (if_pos ⟨hst, htimeout, hreqs⟩)
  · intro a hin
    constructor
    · intro s1 l hclean hres hlegal hzero hfour hheld
      rw [exec_roceQpLoad_eq]
      refine onServed_withResp ?_ (t := modQp s1 x fun y => loadQp y l) hheld
      exact (if_pos ⟨hb, hx⟩).trans (congrArg (fun t => Host.Outcome.next (withResp t .done))
        (qpLoad_of_clean hin hclean hres hlegal hzero hfour))
    · intro hheld
      rw [exec_roceQpStore_eq]
      refine onServed_withResp ?_ hheld
      refine (if_pos ⟨hb, hx⟩).trans (congrArg (fun t => Host.Outcome.next (withResp t .done)) ?_)
      exact if_pos hin
  · rw [exec_roceQpDestroy_eq]
    exact onNode_of_next (if_pos ⟨hb, hx⟩)
  · intro hqp hport hroom hst
    rw [exec_roceSqDb_eq]
    exact onNode_unit hb (congrArg (withResp · .done) (sqDoorbell_of_room hqp hport hroom hst))
  · intro a s0 l s1 hst hne hin hclean hinv hop hfence t hheld
    rw [exec_roceSendEntry_eq]
    exact onServed_unit hx (sendEntry_of_noData rfl hst hne hin hclean hinv hop hfence) hheld
  · intro r t hcq n tail a hroom hn hin u hheld
    exact exec_roceCompletionWrite_of_room hb hcq hroom hn hin hheld
  · intro k hk hinv
    rw [exec_mrEntryWrite_eq]
    exact onNode_of_next ((if_pos ⟨hk, by decide⟩).trans (by rw [mrWrite_zero_of_invalid hinv]))

end Sys2Proof.Machine
end

section
/-! Statements of 14_dziger_fabric.md: packets, flows and their timers; command rings, control, Ridge. -/

namespace Sys2Proof.Machine

/-! ### The meanings of Dziger's commands -/

section meanings
variable (peer tc port b r : Nat) (k : DzPkt) (v : Word) (s : State)

theorem exec_dzPut_eq : exec (.dzPut peer) s = execDzPut peer s := rfl
theorem exec_dzGet_eq : exec (.dzGet peer) s = execDzGet peer s := rfl
theorem exec_dzLoad_eq : exec (.dzLoad peer) s = execDzLoad peer s := rfl
theorem exec_dzStore_eq : exec (.dzStore peer) s = execDzStore peer s := rfl
theorem exec_dzAtomic_eq : exec (.dzAtomic peer) s = execDzAtomic peer s := rfl
theorem exec_dzResp_eq : exec (.dzResp peer) s = execDzResp peer s := rfl
theorem exec_dzMsg_eq : exec (.dzMsg peer) s = execDzMsg peer s := rfl
theorem exec_ridgeChunk_eq : exec (.ridgeChunk peer) s = execRidgeChunk peer s := rfl
theorem exec_dzSend_eq : exec (.dzSend peer tc) s = execDzSend peer tc s := rfl
theorem exec_dzAckTimer_eq : exec (.dzAckTimer peer tc) s = execDzAckTimer peer tc s := rfl
theorem exec_dzGapTimer_eq : exec (.dzGapTimer peer tc) s = execDzGapTimer peer tc s := rfl
theorem exec_flowIdleRelease_eq (sending : Bool) :
    exec (.flowIdleRelease peer tc sending) s = execFlowIdleRelease peer tc sending s := rfl
theorem exec_dzWindowIncrease_eq : exec (.dzWindowIncrease peer tc) s = execDzWindowIncrease peer tc s := rfl
theorem exec_dzRto_eq (seq : Nat) : exec (.dzRto peer tc seq) s = execDzRto peer tc seq s := rfl
theorem exec_dzFrameReceive_eq (ok : Bool) : exec (.dzFrameReceive port k ok) s = execDzFrameReceive port k ok s := rfl
theorem exec_dzKeepalive_eq : exec (.dzKeepalive port k) s = execDzKeepalive port k s := rfl
theorem exec_dzAck_eq : exec (.dzAck port k) s = execDzAck port k s := rfl
theorem exec_dzNak_eq : exec (.dzNak port k) s = execDzNak port k s := rfl
theorem exec_keepaliveSend_eq : exec (.keepaliveSend port) s = execKeepaliveSend port s := rfl
theorem exec_neighbourLost_eq : exec (.neighbourLost port) s = execNeighbourLost port s := rfl
theorem exec_dzCmdDb_eq : exec (.dzCmdDb b v) s = execDzCmdDb b v s := rfl
theorem exec_dzCmdBaseWrite_eq : exec (.dzCmdBaseWrite b r v) s = execDzCmdBaseWrite b r v s := rfl
theorem exec_dzCmdPut_eq : exec (.dzCmdPut b r) s = execDzCmdPut b r s := rfl
theorem exec_dzCmdGet_eq : exec (.dzCmdGet b r) s = execDzCmdGet b r s := rfl
theorem exec_dzCmdMsg_eq : exec (.dzCmdMsg b r) s = execDzCmdMsg b r s := rfl
theorem exec_dzCmdComplete_eq (id : Nat) : exec (.dzCmdComplete b id) s = execDzCmdComplete b id s := rfl
theorem exec_dzEnableWrite_eq : exec (.dzEnableWrite b v) s = execDzEnableWrite b v s := rfl
theorem exec_dzDisableDone_eq : exec (.dzDisableDone b) s = execDzDisableDone b s := rfl
theorem exec_ridgeGo_eq : exec (.ridgeGo v) s = execRidgeGo v s := rfl
theorem exec_ridgeTreeWrite_eq (tree w : Nat) : exec (.ridgeTreeWrite tree w v) s = execRidgeTreeWrite tree w v s := rfl

end meanings

section packets
variable {q : List Instr} {s : Node} {peer tc : Nat}

/-- R328: a flow performs the packet that it expects. -/
theorem perform_of_next {type : Nat} {k : DzPkt} (hk : nextPkt s peer (typeTc type) type = some k) (f : DzPkt → Node) :
    perform s peer type f = performed (f k) peer (typeTc type) k := by
  unfold perform
  rw [hk]

/-- R327: a flow whose window has room numbers and sprays its next packet. -/
theorem sendNext_of_room {o : DzOut} {f : SFlow} {t : Node} (hon : dzOn s (flowBase peer tc) = true)
    (ho : nextToSend s peer tc = some o) (hf : sflowOf s peer tc = some f) (hroom : f.unacked.length < f.window)
    (ht : spray (dropToSend s peer tc o) { o.pkt with seq := f.next, first := !f.acked } false = some t) :
    sendNext s peer tc = setSflow t peer tc (some { f with
      next := (f.next + 1) % 2 ^ 32,
      unacked := f.unacked ++ [⟨{ o.pkt with seq := f.next, first := !f.acked }, o.who, 1⟩] }) := by
  unfold sendNext
  rw [ho]
  dsimp only
  rw [hf, Option.getD_some, if_neg (by simp [hon]), if_neg (by simp [Nat.not_le.2 hroom]), ht]

/-- R332: a packet with sendings left is sent again. -/
theorem resendPkt_of_sends {f : SFlow} {seq : Nat} {o : DzOut} (hf : sflowOf s peer tc = some f)
    (hgood : badChunk s peer tc seq = false) (ho : f.unacked.find? (fun o => o.pkt.seq == seq) = some o)
    (hsends : o.sends < max 1 (fGet s (bLoc .dzCtrl (flowBase peer tc)) fDzCtrlRetry)) :
    resendPkt s peer tc seq = sprayOrDrop (dzCount (setSflow s peer tc (some { f with
      unacked := modFirst (fun x => x.pkt.seq == seq) (fun x => { x with sends := x.sends + 1 }) f.unacked }))
      (flowBase peer tc) cRetransmits) (flowBase peer tc) o.pkt false := by
  unfold resendPkt
  rw [hf]
  dsimp only
  rw [ho]
  dsimp only
  rw [if_neg (by simp [hgood]), if_neg (Nat.not_le.2 hsends)]

end packets

section frames
variable {s : Node} {port : Nat} {k : DzPkt} (hlink : portLink s port = true) (hdepth : (portOf s port).depth ≠ 2)
  (hrun : dzRuns s (port / 5) = true) (hver : k.ver = 1)
include hlink hdepth hrun hver

/-- R340: a keepalive is the port's own. -/
theorem frameIn_keepalive (htype : k.type = 0xC) : frameIn s port k true = takeKeepalive s port k := by
  simp [frameIn, hlink, hdepth, hrun, hver, htype]

/-- R333: a packet for this node whose job matches is taken by its type. -/
theorem frameIn_own (hlow : 0 < k.type) (hhigh : k.type < 0xC) (hself : k.dst = selfEp s) (hjob : jobMatches s k = true) :
    frameIn s port k true =
      if k.type = 0xA then takeAck s k else if k.type = 0xB then takeNak s k else flowReceive s k := by
  unfold frameIn
  dsimp only
  rw [if_neg (by simp [hlink, hdepth, hrun]), if_neg (by omega), if_neg (by omega), if_neg (not_not.2 hself),
    if_neg (by simp [hjob]), if_neg (by decide)]

end frames

/-- Settles O45, row by row. -/
theorem dzigerPacketsComplete : Obligations.DzigerPacketsComplete := by
  intro q s peer
  refine ⟨?_, ?_, ?_, ?_, ?_, ?_, ?_, ?_, ?_, ?_, ?_, ?_⟩
  · intro k hk hwin t hheld
    rw [exec_dzPut_eq]
    refine onServed_not_held (congrArg Host.Outcome.next ?_) hheld
    rw [perform_of_next hk, if_pos hwin]
  · intro k hk hwin t hheld
    rw [exec_dzGet_eq]
    refine onServed_not_held (congrArg Host.Outcome.next ?_) hheld
    rw [perform_of_next hk, if_pos hwin]
  · intro k hk hwin hcross s1 t hheld
    rw [exec_dzLoad_eq]
    refine onServed_not_held (congrArg Host.Outcome.next ?_) hheld
    rw [perform_of_next hk, if_pos (by simp [hwin, hcross])]
  · intro k hk hmask hwin hcross t hheld
    rw [exec_dzStore_eq]
    refine onServed_not_held (congrArg Host.Outcome.next ?_) hheld
    rw [perform_of_next hk, if_neg (by simp [hmask]), if_pos (by simp [hwin, hcross])]
  · intro k hk n a r t hwin halign hpoison hheld
    rw [exec_dzAtomic_eq]
    refine onServed_not_held (congrArg Host.Outcome.next ?_) hheld
    rw [perform_of_next hk, if_pos (by simp [n, hwin, halign]), if_neg (by simp [hpoison])]
  · intro k hk hheld
    rw [exec_dzResp_eq]
    exact onServed_not_held (congrArg Host.Outcome.next (perform_of_next hk _)) hheld
  · intro k t hk ht hheld
    rw [exec_dzMsg_eq]
    refine onServed_not_held (congrArg Host.Outcome.next ?_) hheld
    rw [hk]
    dsimp only
    rw [ht]
  · intro k hk hheld
    rw [exec_ridgeChunk_eq]
    exact onServed_not_held (congrArg Host.Outcome.next (perform_of_next hk _)) hheld
  · intro tc o f t hon ho hf hroom ht u hheld
    rw [exec_dzSend_eq]
    exact onServed_not_held (congrArg (fun t => Host.Outcome.next (ridgeNext t)) (sendNext_of_room hon ho hf hroom ht)) hheld
  · intro tc r hr
    refine ⟨fun hsince => ?_, fun hheld hgap => ?_, fun hheld hsince => ?_⟩
    · rw [exec_dzAckTimer_eq]
      exact onNode_of_next (congrArg Host.Outcome.next (if_pos (by simp [hr, hsince])))
    · rw [exec_dzGapTimer_eq]
      refine onNode_of_next (congrArg Host.Outcome.next ?_)
      rw [hr]
      exact if_pos ⟨hheld, by simpa using hgap⟩
    · rw [exec_flowIdleRelease_eq]
      exact onNode_of_next (congrArg Host.Outcome.next ((if_neg (by decide)).trans (if_pos (by simp [hr, hheld, hsince]))))
  · intro tc f hf
    refine ⟨?_, fun hacked => ?_, ?_⟩
    · rw [exec_dzWindowIncrease_eq]
      refine onNode_of_next (congrArg Host.Outcome.next ?_)
      rw [hf]
    · rw [exec_flowIdleRelease_eq]
      exact onNode_of_next (congrArg Host.Outcome.next ((if_pos rfl).trans (if_pos (by simp [hf, hacked]))))
    · intro seq o hgood ho hsends t hheld
      rw [exec_dzRto_eq]
      exact onServed_not_held (congrArg (fun t => Host.Outcome.next (ridgeNext t)) (resendPkt_of_sends hf hgood ho hsends)) hheld
  · intro port k hport hfe
    have hfp {t u : Node} (h : t = u) : onFp port t = .next u := h ▸ if_pos ⟨hport, by simp [hfe]⟩
    refine ⟨?_, ?_, ?_, ?_⟩
    · intro hheld
      rw [exec_dzFrameReceive_eq]
      exact onServed_not_held (hfp rfl) hheld
    · intro hlink hdepth hrun hver
      refine ⟨fun htype => ?_, fun hself hjob => ⟨fun htype hheld => ?_, fun htype hheld => ?_⟩⟩
      · rw [exec_dzKeepalive_eq]
        exact onNode_of_next (hfp ((if_pos htype).trans (frameIn_keepalive hlink hdepth hrun hver htype)))
      · rw [exec_dzAck_eq]
        refine onServed_not_held (hfp ((if_pos htype).trans (congrArg ridgeNext ?_))) hheld
        rw [frameIn_own hlink hdepth hrun hver (by omega) (by omega) hself hjob, if_pos htype]
      · rw [exec_dzNak_eq]
        refine onServed_not_held (hfp ((if_pos htype).trans (congrArg ridgeNext ?_))) hheld
        rw [frameIn_own hlink hdepth hrun hver (by omega) (by omega) hself hjob, if_neg (by omega), if_pos htype]
    · intro hlink hon hheard
      rw [exec_keepaliveSend_eq]
      refine onNode_of_next (hfp ((if_neg (by simp [hlink, hon])).trans ?_))
      simp only [hheard, if_true]
    · intro hlink hfound hmissed hheard
      rw [exec_neighbourLost_eq]
      exact onNode_of_next (hfp (if_neg (by simp [hlink, hfound, Nat.not_lt.2 hmissed, hheard])))

section rings
variable {s : Node} {b r : Nat}

/-- R338: a doorbell that stays within the ring moves the producer index. -/
theorem ringDoorbellDz_of_room {v : Word} (hr : wbits v 3 0 = r) (hrun : ringStopped s b r = false)
    (hroom : (wbits v 47 32 + 65536 - ringIndex s b r) % 65536 ≤ ringSize s b r) :
    ringDoorbellDz s b v = modRing s b r fun x => { x with pi := wbits v 47 32 } := by
  subst hr
  unfold ringDoorbellDz
  dsimp only
  rw [if_neg (by simp [hrun]), if_neg (Nat.not_lt.2 hroom)]

variable {a : Nat} (ha : a = ringBase s b r + ringIndex s b r % ringSize s b r * 64)
include ha

/-- R338: a clean, well-formed entry that its flags and windows let in reaches its own OP. -/
theorem ringEntry_of_clean {op : Nat} :
    let s0 := agentTouch s b clsDma a 64
    let l := readBytes s0 a 64
    let c := cmdOf s b r l
    dzOn s b = true → ringStopped s b r = false → ringIndex s b r ≠ (ringOf s b r).pi → (ringOf s b r).rebase = none →
    16 ≤ ringSize s b r → inHbm s a 64 = true → firstPoison s0 a 64 = none → entryInvalid l = false →
    descField l 0 1 = op → bit (descField l 1 1) 1 = false →
    (bit (descField l 1 1) 2 = true → fGet s (bLoc .dzWindow 0 [c.win]) fDzWindowValid = 1) →
    inHbm s c.localPa c.len = true → (c.ep = selfEp s → (loopPort s b).isSome = true) →
    let s1 := if op = 2 then s0 else agentTouch s0 b clsDma c.localPa c.len
    (op = 3 → firstPoison s1 c.localPa c.len = none) →
    ringEntry s b r op = if op = 1 then
        if c.len = 0 then startCmd s1 b { c with status := some 0 }
        else putPieces (startCmd s1 b { c with left := ceilDiv c.len 8192 }) c c.ep c.addr
      else if op = 2 then
        originate (startCmd s1 b { c with left := 1 }) (.op c.id) (ownPkt s1 2 c.ep (opTag c.id) c.addr c.len [])
      else originate (startCmd s1 b { c with left := 1 }) (.op c.id)
        (ownPkt s1 7 c.ep (msgTag c.id c.addr) 0 0 (readBytes s1 c.localPa c.len)) := by
  intro s0 l c hon hstop hidx hbase hsize hin hclean hvalid hop hfence hwin hlocal hself s1 hmsg
  have hmsg' : (if op = 3 then firstPoison s1 c.localPa c.len else none) = none := by
    split
    · exact hmsg ‹_›
    · rfl
  unfold ringEntry
  dsimp only
  rw [← ha, if_neg (by simp [hon, hstop, hidx, hbase, hin, Nat.not_lt.2 hsize]),
    show firstPoison (agentTouch s b clsDma a 64) a 64 = none from hclean]
  dsimp only
  rw [show readBytes (agentTouch s b clsDma a 64) a 64 = l from rfl, show cmdOf s b r l = c from rfl,
    if_neg (by simp [hvalid]), if_neg (by simp [hop, hfence]),
    if_neg fun h => absurd ((hwin h.1).symm.trans h.2) (by decide), if_neg (by simp [hlocal]), hmsg']
  dsimp only
  exact if_neg fun h => absurd (hself h.1) (by simpa using h.2)

end rings

/-- Settles O46, row by row. -/
theorem dzigerCommandsComplete : Obligations.DzigerCommandsComplete := by
  intro q s b r v hb hr
  refine ⟨?_, ?_, ?_, ?_, ?_, ?_, ?_, ?_⟩
  · intro hring hrun hroom
    rw [exec_dzCmdDb_eq]
    exact onNode_of_next (onBase_eq_next.2 ⟨hb, congrArg (withResp · .done) (ringDoorbellDz_of_room hring hrun hroom)⟩)
  · intro hrun
    rw [exec_dzCmdBaseWrite_eq]
    exact onNode_of_next ((if_pos ⟨hb, hr⟩).trans
      (congrArg (fun t => Host.Outcome.next (withResp t .done)) (if_neg (by simp [hrun]))))
  · intro op a s0 l c hon hstop hidx hbase hsize hin hclean hvalid hop hfence hwin hlocal hself s1 put get msg
    refine ⟨fun h1 hlen hheld => ?_, fun h2 hheld => ?_, fun h3 hdata hheld => ?_⟩
    · subst h1
      rw [exec_dzCmdPut_eq]
      refine onServed_not_held ((if_pos ⟨hb, hr⟩).trans (congrArg Host.Outcome.next ?_)) hheld
      exact (ringEntry_of_clean rfl hon hstop hidx hbase hsize hin hclean hvalid hop hfence hwin hlocal hself
        (fun h => absurd h (by decide))).trans ((if_pos rfl).trans (if_neg hlen))
    · subst h2
      rw [exec_dzCmdGet_eq]
      refine onServed_not_held ((if_pos ⟨hb, hr⟩).trans (congrArg Host.Outcome.next ?_)) hheld
      exact (ringEntry_of_clean rfl hon hstop hidx hbase hsize hin hclean hvalid hop hfence hwin hlocal hself
        (fun h => absurd h (by decide))).trans ((if_neg (by decide)).trans (if_pos rfl))
    · subst h3
      rw [exec_dzCmdMsg_eq]
      refine onServed_not_held ((if_pos ⟨hb, hr⟩).trans (congrArg Host.Outcome.next ?_)) hheld
      exact (ringEntry_of_clean rfl hon hstop hidx hbase hsize hin hclean hvalid hop hfence hwin hlocal hself
        (fun _ => hdata)).trans ((if_neg (by decide)).trans (if_neg (by decide)))
  · intro id st a c hcq hc hst hslot hwrites t hheld
    rw [exec_dzCmdComplete_eq]
    refine onServed_not_held (onBase_eq_next.2 ⟨hb, ?_⟩) hheld
    rw [hcq, hslot]
    dsimp only
    rw [hc]
    dsimp only
    rw [hst]
    refine if_neg fun h => ?_
    rcases hwrites with hfail | hsig
    · exact hfail h.1
    · simp [hsig] at h
  · rw [exec_dzEnableWrite_eq]
    exact onNode_of_next (onBase_eq_next.2 ⟨hb, rfl⟩)
  · intro hst hidle
    rw [exec_dzDisableDone_eq]
    exact onNode_of_next (onBase_eq_next.2 ⟨hb, if_pos ⟨.inl hst, by simp [hidle]⟩⟩)
  · intro hvalid hready t hheld
    rw [exec_ridgeGo_eq]
    refine onServed_withResp (congrArg (fun t => Host.Outcome.next (withResp t .done)) ?_) hheld
    exact if_neg (by simp [hvalid, hready])
  · intro tree w htree hw
    rw [exec_ridgeTreeWrite_eq]
    exact onNode_of_next (if_pos ⟨htree, hw⟩)

end Sys2Proof.Machine
end

section
/-! Statements of 15_shingle_collectives.md: groups, arms, deliveries, launches, buckets and control of Shingle. -/

namespace Sys2Proof.Machine

/-! ### The meanings of Shingle's commands -/

section meanings
variable (b tag : Nat) (v : Word) (s : State)

theorem exec_shgGroupWrite_eq (x w : Nat) : exec (.shgGroupWrite x w v) s = execShgGroupWrite x w v s := rfl
theorem exec_shgArm_eq : exec (.shgArm v) s = execShgArm v s := rfl
theorem exec_shgArmProcess_eq : exec (.shgArmProcess b) s = execShgArmProcess b s := rfl
theorem exec_shgDelivery_eq (fmt index code : Nat) :
    exec (.shgDelivery tag fmt index code) s = execShgDelivery tag fmt index code s := rfl
theorem exec_shgGo_eq : exec (.shgGo tag) s = execShgGo tag s := rfl
theorem exec_shgAgLaunch_eq : exec (.shgAgLaunch tag) s = execShgAgLaunch tag s := rfl
theorem exec_shgCancel_eq : exec (.shgCancel tag) s = execShgCancel tag s := rfl
theorem exec_shgHoldWrite_eq : exec (.shgHoldWrite b v) s = execShgHoldWrite b v s := rfl
theorem exec_shgEnableWrite_eq : exec (.shgEnableWrite b v) s = execShgEnableWrite b v s := rfl
theorem exec_shinglePacket_eq (peer : Nat) : exec (.shinglePacket peer) s = execShinglePacket peer s := rfl
theorem exec_shgShardReduced_eq (i : Nat) : exec (.shgShardReduced tag i) s = execShgShardReduced tag i s := rfl
theorem exec_shgBucketComplete_eq : exec (.shgBucketComplete tag) s = execShgBucketComplete tag s := rfl
theorem exec_shgDisableDone_eq : exec (.shgDisableDone b) s = execShgDisableDone b s := rfl

end meanings

section shingle
variable {s : Node} {b tag : Nat}

/-- R348: a group on which no bucket is armed takes the word. -/
theorem groupWrite_of_idle {x : Nat} (h : (List.range 4).all (fun c =>
    (shgOf s c).buckets.all fun p => !(p.2.group == x && p.2.st != bFree)) = true) (w : Nat) (v : Word) :
    groupWrite s x w v = storeReg s (if w = 0 then bLoc .shgGroupW0 0 [x] else bLoc .shgGroupW1 0 [x]) v := by
  refine if_neg fun hbusy => ?_
  obtain ⟨c, hc, hany⟩ := List.any_eq_true.1 hbusy
  obtain ⟨p, hp, harmed⟩ := List.any_eq_true.1 hany
  have hidle := List.all_eq_true.1 (List.all_eq_true.1 h c hc) p hp
  rw [harmed] at hidle
  exact absurd hidle (by decide)

/-- R350: a slice that is ON with room in its queue takes an arm. -/
theorem armWrite_of_room {a c : Nat} {v : Word} (ha : a = wbits v 55 6 * 64) (hc : c = sliceOf (readLE s a 2))
    (hon : shgOn s c = true) (hroom : (shgOf s c).arms.length < 64) :
    armWrite s v = modShg s c fun x => { x with arms := x.arms ++ [a] } := by
  subst ha hc
  exact if_neg (by simp [hon, Nat.not_le.2 hroom])

/-- R350 to R353: the arm at the head of the queue, where nothing about it is at fault, arms its bucket. -/
theorem armProcess_of_clean {a : Nat} {rest : List Nat} (harms : (shgOf s b).arms = a :: rest)
    (hst : ctrlState s (bLoc .shgCtrl b) = stOn) (hin : inHbm s a 64 = true) :
    let t := agentTouch (modShg s b fun x => { x with arms := rest }) b clsDma a 64
    let l := readBytes t a 64
    let k := armBucket t l
    let t1 := agentTouch t b clsDma (groupTable t k.group) (8 * k.n)
    firstPoison t a 64 = none → armFault t l k (descField l 0 2 % 4096) = none →
    firstPoison t1 (groupTable t k.group) (8 * k.n) = none → bucketPages k ≤ pagesFree s b →
    armProcess s b = takeEarly (shgCount (modBucket t1 (descField l 0 2 % 4096) fun _ =>
      { k with pages := bucketPages k }) b 0) (descField l 0 2 % 4096) := by
  intro t l k t1 hclean hfault htable hpages
  unfold armProcess
  rw [harms]
  dsimp only
  rw [hst, if_neg (by decide), if_neg (by decide), if_neg (by simp [hin]), show firstPoison _ a 64 = none from hclean]
  dsimp only
  rw [show armFault _ _ _ _ = none from hfault]
  dsimp only
  rw [show firstPoison _ _ _ = none from htable]
  exact if_neg (Nat.not_lt.2 hpages)

/-- R356: a packet of a bucket's own generation contributes to it. -/
theorem shinglePacket_of_live {peer : Nat} {k : DzPkt} (hst : (bucketOf s (k.tag % 4096)).st ≠ bFree)
    (hrun : shgRuns s (sliceOf (k.tag % 4096)) = true)
    (hgen : (bits k.info 31 24 + 256 - (bucketOf s (k.tag % 4096)).gen) % 256 = 0) :
    shinglePacket s peer k = performed (contribute s (k.tag % 4096) k) peer 4 k :=
  if_pos ⟨hst, hrun, hgen⟩

/-- R366: a slice with nothing in flight is OFF when its last step ends. -/
theorem shgStepEnds_of_disabling (hst : ctrlState s (bLoc .shgCtrl b) = stDisabling) (hidle : inflight s b = 0) :
    shgStepEnds s b = setCtrlState s (bLoc .shgCtrl b) stOff := by
  refine (if_neg (by simp [hidle])).trans ?_
  rw [ownStepEnds_of_disabling hst]
  refine if_neg ?_
  rw [shgOn, isOn, ctrlState_setCtrlState_self]
  decide

end shingle

/-- Settles O47, row by row. -/
theorem shingleCommandsComplete : Obligations.ShingleCommandsComplete := by
  intro q s tag b v htag hb
  refine ⟨?_, ?_, ?_, ?_, ?_, ?_, ?_, ?_, ?_, ?_, ?_⟩
  · intro x hx hidle
    have hword {w : Nat} (hw : w < 2) : execShgGroupWrite x w v ⟨q, s⟩ = .next ⟨q, withResp
        (storeReg s (if w = 0 then bLoc .shgGroupW0 0 [x] else bLoc .shgGroupW1 0 [x]) v) .done⟩ :=
      onNode_of_next ((if_pos ⟨hx, hw⟩).trans (by rw [groupWrite_of_idle hidle]))
    rw [exec_shgGroupWrite_eq, exec_shgGroupWrite_eq]
    exact ⟨hword (by decide), hword (by decide)⟩
  · intro a c ha hc hon hroom
    rw [exec_shgArm_eq]
    exact onNode_of_next (congrArg (fun t => Host.Outcome.next (withResp t .done)) (armWrite_of_room ha hc hon hroom))
  · intro a rest harms hst hin t l k t1 hclean hfault htable hpages u hheld
    rw [exec_shgArmProcess_eq]
    exact onServed_not_held
      (onBase_eq_next.2 ⟨hb, armProcess_of_clean harms hst hin hclean hfault htable hpages⟩) hheld
  · intro fmt index code hfault hheld
    rw [exec_shgDelivery_eq]
    refine onServed_withResp (onUnit_eq_next.2 ⟨htag, ?_⟩) hheld
    rw [hfault]
  · intro hst hon hheld
    refine ⟨?_, fun hkind hwait => ?_⟩
    · rw [exec_shgGo_eq]
      exact onServed_withResp (onUnit_eq_next.2 ⟨htag, congrArg (withResp · .done) (if_pos ⟨hst, hon⟩)⟩) hheld
    · rw [exec_shgAgLaunch_eq]
      exact onServed_unit htag (if_pos ⟨hst, hkind, hon, .inl (by simp [hwait])⟩) hheld
  · intro hst
    rw [exec_shgCancel_eq]
    exact onNode_unit htag (congrArg (withResp · .done) (if_pos hst))
  · intro hheld
    rw [exec_shgHoldWrite_eq, exec_shgEnableWrite_eq]
    exact ⟨onServed_withResp (onBase_eq_next.2 ⟨hb, rfl⟩) hheld, onServed_withResp (onBase_eq_next.2 ⟨hb, rfl⟩) hheld⟩
  · intro peer k hk hst hrun hgen hheld
    rw [exec_shinglePacket_eq]
    refine onServed_not_held (congrArg Host.Outcome.next ?_) hheld
    rw [hk]
    exact shinglePacket_of_live hst hrun hgen
  · intro i hst hown hnew htree hheld
    rw [exec_shgShardReduced_eq]
    exact onServed_unit htag rfl hheld
  · intro hdone
    rw [exec_shgBucketComplete_eq]
    exact onNode_unit htag (if_pos hdone)
  · intro hst hidle hheld
    rw [exec_shgDisableDone_eq]
    refine onServed_not_held (onBase_eq_next.2 ⟨hb, (if_pos (.inl hst)).trans (shgStepEnds_of_disabling hst hidle)⟩) ?_
    rw [accessHeld_eq_of_dirs (show (setCtrlState s (bLoc .shgCtrl b) stOff).dirs = s.dirs from rfl), hheld]

end Sys2Proof.Machine
end

section
/-! Statements of 16_work_queues_ledger.md: doorbells, readers, commands and records of work queues; the ledger's mirror
and its recovery. -/

namespace Sys2Proof.Machine

/-! ### The meanings of the commands of work queues and the ledger -/

section meanings
variable (k b i : Nat) (v : Word) (s : State)

theorem exec_wqEnableWrite_eq : exec (.wqEnableWrite k v) s = execWqEnableWrite k v s := rfl
theorem exec_wqDisableDone_eq : exec (.wqDisableDone k) s = execWqDisableDone k s := rfl
theorem exec_doorbellProd_eq : exec (.doorbellProd k v) s = execDoorbellProd k v s := rfl
theorem exec_doorbellResume_eq : exec (.doorbellResume k) s = execDoorbellResume k s := rfl
theorem exec_doorbellReplay_eq : exec (.doorbellReplay k) s = execDoorbellReplay k s := rfl
theorem exec_wqSlotRead_eq : exec (.wqSlotRead k) s = execWqSlotRead k s := rfl
theorem exec_wqRereadTimer_eq : exec (.wqRereadTimer k) s = execWqRereadTimer k s := rfl
theorem exec_doorbellAhead_eq : exec (.doorbellAhead k) s = execDoorbellAhead k s := rfl
theorem exec_acceptanceWordWrite_eq : exec (.acceptanceWordWrite k) s = execAcceptanceWordWrite k s := rfl
theorem exec_wqTiles_eq : exec (.wqTiles b i) s = execWqTiles b i s := rfl
theorem exec_wqNotifyCmd_eq : exec (.wqNotifyCmd b i) s = execWqNotifyCmd b i s := rfl
theorem exec_wqWait_eq : exec (.wqWait b i) s = execWqWait b i s := rfl
theorem exec_wqSignal_eq : exec (.wqSignal b i) s = execWqSignal b i s := rfl
theorem exec_wqNop_eq : exec (.wqNop b i) s = execWqNop b i s := rfl
theorem exec_wqCommandComplete_eq : exec (.wqCommandComplete b i) s = execWqCommandComplete b i s := rfl
theorem exec_completionRecordWrite_eq : exec (.completionRecordWrite b i) s = execCompletionRecordWrite b i s := rfl
theorem exec_cqWriteFailed_eq : exec (.cqWriteFailed k) s = execCqWriteFailed k s := rfl
theorem exec_wqNotifyRead_eq : exec (.wqNotifyRead b) s = execWqNotifyRead b s := rfl
theorem exec_wqCompleteWrite_eq : exec (.wqCompleteWrite v) s = execWqCompleteWrite v s := rfl
theorem exec_mirrorWriteAck_eq : exec (.mirrorWriteAck b i) s = execMirrorWriteAck b i s := rfl
theorem exec_mirrorLost_eq : exec (.mirrorLost b i) s = execMirrorLost b i s := rfl
theorem exec_ledgerReplay_eq : exec .ledgerReplay s = execLedgerReplay s := rfl
theorem exec_ledgerFresh_eq : exec .ledgerFresh s = execLedgerFresh s := rfl
theorem exec_reconciliationDone_eq (copies : List (Nat × Nat × List Byte × List Byte)) :
    exec (.reconciliationDone copies) s = execReconciliationDone copies s := rfl

end meanings

section queues
variable {s : Node} {b i k : Nat}

/-- R374: a PROD value without reserved bits is a doorbell. -/
theorem doorbellWrite_prod {v : Word} (hv : v.toNat < 2 ^ 48) :
    doorbellWrite s k 0 (leBytes 8 v.toNat) = ringDoorbell s k v.toNat := by
  have hval : leValue (leBytes 8 v.toNat) = v.toNat := by
    rw [leValue_leBytes]
    exact Nat.mod_eq_of_lt v.isLt
  have hlen : (leBytes 8 v.toNat).length = 8 := rfl
  unfold doorbellWrite
  dsimp only
  rw [hval, if_pos ⟨hlen, rfl, hv⟩]

/-- R371: a store to WQ_COMPLETE with STATUS 0 ends the live command that it names. -/
theorem completeStore_of_live {v : Word} {j : Nat} {e : LedEntry}
    (he : (ledEntries s (wbits v 63 56 / 64)).find? (fun p => p.2.queue == wbits v 63 56 && descSeq p.2 == wbits v 47 0 &&
      decide (p.2.acked ≥ 1) && decide (p.2.st = 1) && p.2.doneBy.isNone) = some (j, e)) (hst : wbits v 55 48 = 0) :
    completeStore s v = modLedEntry (bump s) (wbits v 63 56 / 64) j fun e => { e with doneBy := some (0, 0, 0) } := by
  unfold completeStore
  dsimp only
  rw [he]
  dsimp only
  rw [hst]
  rfl

/-! ### The entries of the ledger -/

theorem ledEntry_modLedEntry {e : LedEntry} (he : ledEntry s b i = some e) (f : LedEntry → LedEntry) :
    ledEntry (modLedEntry s b i f) b i = some (f e) := by
  rw [modLedEntry, he]
  simp [setEntry, ledEntry, ledOf, modLed]

theorem ledEntry_congr {t : Node} (h : t.leds = s.leds) : ledEntry t b i = ledEntry s b i := by
  rw [ledEntry, ledOf, h, ledEntry, ledOf]

theorem mirror_foldl_accChanged (l : List Nat) (s : Node) :
    (l.foldl (fun s q => if (wqOf s q).stall ≠ 0 then accChanged s q else s) s).mirror = s.mirror :=
  view_foldl (v := (·.mirror)) (f := fun s q => if (wqOf s q).stall ≠ 0 then accChanged s q else s)
    (fun _ _ => view_ite (·.mirror) rfl rfl) l s

/-- R379: an acknowledged entry that is not new and not retired holds its state as acknowledged; only the mirror's state
may move with it. -/
theorem exec_mirrorWriteAck_of_settled {q : List Instr} (hb : b < 4) (hi : i < 16384) {e : LedEntry}
    (he : ledEntry s b i = some e) (hend : mirrorEnd s b i = some none) (hacked : e.acked ≠ 0) (hst : e.st = 2) :
    let s1 := modLedEntry (dropMirrorRemote s b i) b i fun x =>
      { x with acked := x.st, copy := 1 - x.copy, flight := false, heard := none }
    ∃ n : Node, exec (.mirrorWriteAck b i) ⟨q, s⟩ = .next ⟨q, n⟩ ∧ n.leds = s1.leds := by
  intro s1
  rw [exec_mirrorWriteAck_eq]
  refine ⟨if s1.mirror.resync ∧ !anyFlight s1 then { s1 with mirror := { s1.mirror with resync := false } } else s1, ?_,
    view_ite (·.leds) rfl rfl⟩
  refine onNode_of_next (onEntry_eq_next.2 ⟨⟨hb, hi⟩, ?_⟩)
  rw [he, hend]
  dsimp only
  rw [if_neg (by simp [hacked]), if_neg (by simp [hacked]), if_neg (by omega), if_neg (by omega)]

/-- R382: what a lost mirror write leaves of the node, before its record. -/
theorem exec_mirrorLost_of_code {q : List Instr} (hb : b < 4) (hi : i < 16384) {code : Nat}
    (hend : mirrorEnd s b i = some (some code)) (hcode : code ≠ 0x0603) :
    let s1 := modLedEntry (dropMirrorRemote s b i) b i fun x => { x with flight := false, heard := none }
    let s2 := (List.range 256).foldl (fun s q => if (wqOf s q).stall ≠ 0 then accChanged s q else s)
      { s1 with mirror := { s1.mirror with lost := true, reported := true, resync := false } }
    exec (.mirrorLost b i) ⟨q, s⟩ = .next ⟨q,
      if s.mirror.reported then s2 else logErr s2 (12 + b) 0x51 0x0804 0 []⟩ := by
  intro s1 s2
  rw [exec_mirrorLost_eq]
  refine onNode_of_next (onEntry_eq_next.2 ⟨⟨hb, hi⟩, ?_⟩)
  rw [hend]
  split
  case h_1 heq => exact absurd (by simpa using heq) hcode
  case h_2 => rfl
  case h_3 hno => exact absurd rfl (hno code)

end queues

/-- Settles O48, row by row. -/
theorem workQueueCommandsComplete : Obligations.WorkQueueCommandsComplete := by
  refine ⟨?_, ?_⟩
  · intro q s k b i v hk hb hi
    have hqueue {t u : Node} (h : t = u) : onQueue k t = .next u := onQueue_eq_next.2 ⟨hk, h⟩
    have hentry {t u : Node} (h : t = u) : onEntry b i t = .next u := onEntry_eq_next.2 ⟨⟨hb, hi⟩, h⟩
    refine ⟨?_, ?_, ?_, ?_, ?_, ?_, ?_, ?_, ?_, ?_, ?_⟩
    · rw [exec_wqEnableWrite_eq]
      exact onNode_of_next (hqueue rfl)
    · intro hst hlive hnone
      rw [exec_wqDisableDone_eq]
      refine onNode_of_next (hqueue ((if_pos ⟨.inl hst, by simp [hlive]⟩).trans ?_))
      rw [hnone]
    · intro hv
      rw [exec_doorbellProd_eq]
      exact onNode_of_next (hqueue (congrArg (withResp · .done) (doorbellWrite_prod hv)))
    · rw [exec_doorbellResume_eq]
      exact onNode_of_next (hqueue rfl)
    · rw [exec_doorbellReplay_eq]
      exact onNode_of_next (hqueue rfl)
    · intro hruns
      refine ⟨?_, ?_, ?_⟩
      · intro hheld
        rw [exec_wqSlotRead_eq]
        exact onServed_not_held (hqueue (if_pos hruns)) hheld
      · intro t hwait hheld
        rw [exec_wqRereadTimer_eq]
        exact onServed_not_held (hqueue (if_pos (by simp only [hruns, hwait, Bool.and_self]))) hheld
      · intro hover
        rw [exec_doorbellAhead_eq]
        exact onNode_of_next (hqueue (if_pos (by simp only [hruns, hover, Bool.and_self])))
    · intro hdue hon hlocal hin t hheld
      rw [exec_acceptanceWordWrite_eq]
      refine onServed_not_held (hqueue ?_) hheld
      exact (if_neg (by simp [hdue, hon])).trans ((if_pos hlocal).trans (if_pos hin))
    · intro e he
      refine ⟨?_, ?_, ?_, ?_, ?_, ?_, ?_⟩
      · intro d hd hstart hroom
        rw [exec_wqTiles_eq]
        refine onNode_of_next (hentry ?_)
        rw [he]
        dsimp only
        rw [hd]
        exact if_pos (by simp [hstart, hroom])
      · intro hstart hroom
        rw [exec_wqNotifyCmd_eq]
        refine onNode_of_next (hentry ?_)
        rw [he]
        exact if_pos (by simp [hstart, hroom])
      · intro hstart
        rw [exec_wqWait_eq]
        exact onNode_of_next (hentry (if_pos hstart))
      · intro hstart
        rw [exec_wqSignal_eq]
        refine onNode_of_next (hentry ?_)
        rw [he]
        exact if_pos hstart
      · intro hstart
        rw [exec_wqNop_eq]
        exact onNode_of_next (hentry (if_pos hstart))
      · intro st err res hacked hst hflight hrec hend
        rw [exec_wqCommandComplete_eq]
        refine onNode_of_next (hentry ?_)
        rw [he]
        refine (if_neg (by simp [hacked, hst, hflight, hrec])).trans ?_
        rw [hend]
      · intro hst hacked hflight hrec hlocal hin t hheld
        rw [exec_completionRecordWrite_eq]
        refine onServed_not_held (hentry ?_) hheld
        rw [he]
        refine (if_neg (by simp [hacked, hst, hflight, hrec])).trans ((if_pos hlocal).trans ?_)
        rw [if_pos hin]
    · intro hqp hlocal hwaits hnew hon
      rw [exec_cqWriteFailed_eq]
      exact onNode_of_next (hqueue (if_pos ⟨hqp, hlocal, hwaits, by simp [hnew], hon⟩))
    · intro n t hnotify
      rw [exec_wqNotifyRead_eq]
      refine onNode_of_next (onBase_eq_next.2 ⟨hb, ?_⟩)
      rw [hnotify]
    · intro j e he hst
      rw [exec_wqCompleteWrite_eq]
      exact onNode_of_next (congrArg (fun t => Host.Outcome.next (withResp t .done)) (completeStore_of_live he hst))
  · intro q s b i hb hi
    refine ⟨?_, ?_, ?_, ?_, ?_⟩
    · intro e he hend hacked hst
      obtain ⟨n, hn, hleds⟩ := exec_mirrorWriteAck_of_settled (q := q) hb hi he hend hacked hst
      refine ⟨n, hn, fun x hx => ?_⟩
      have hdrop : ledEntry (dropMirrorRemote s b i) b i = some e := he
      rw [ledEntry_congr hleds, ledEntry_modLedEntry hdrop] at hx
      obtain rfl := Option.some.inj hx
      exact ⟨hst, rfl, rfl, rfl, hst⟩
    · intro hend
      rw [exec_mirrorLost_eq]
      refine onNode_of_next (onEntry_eq_next.2 ⟨⟨hb, hi⟩, ?_⟩)
      rw [hend]
      rfl
    · intro code hend hcode s1 s2
      refine ⟨exec_mirrorLost_of_code hb hi hend hcode, ?_⟩
      exact congrArg (·.lost) (mirror_foldl_accChanged (List.range 256) _)
    · intro hrec
      refine ⟨fun hreading hmode => ?_, fun hempty => ?_⟩
      · refine ⟨⟨s.remoteId, .replay, 4, 0, dictNat s 0x4100 2, dictNat s 0x4100 3, mirrorBytes, [], 0, 0, 0, false, false, [],
          none, []⟩, rfl, rfl, rfl, rfl, rfl, ?_⟩
        rw [exec_ledgerReplay_eq]
        refine onNode_of_next (congrArg (fun t => Host.Outcome.next (withResp t .done)) ((if_neg (by simp [hreading, hrec])).trans ?_))
        rw [hmode]
        rfl
      · rw [exec_ledgerFresh_eq]
        exact onNode_of_next (congrArg (fun t => Host.Outcome.next (withResp t .done)) (if_pos ⟨hrec, hempty⟩))
    · intro copies hreading hdone hmode
      rw [exec_reconciliationDone_eq]
      exact onNode_of_next (congrArg Host.Outcome.next (if_pos ⟨hreading, hdone, hmode⟩))

end Sys2Proof.Machine
end

section
/-! Statements of 17_recovery.md: records, fences, aborts, departures; checkpoint cuts and restores. -/

namespace Sys2Proof.Machine

/-! ### The meanings of the commands of recovery -/

section meanings
variable (d b n : Nat) (v : Word) (s : State)

theorem exec_errHeadWrite_eq : exec (.errHeadWrite b v) s = execErrHeadWrite b v s := rfl
theorem exec_fenceWrite_eq : exec (.fenceWrite v) s = execFenceWrite v s := rfl
theorem exec_heartbeatMissed_eq : exec (.heartbeatMissed d) s = execHeartbeatMissed d s := rfl
theorem exec_dieFence_eq : exec (.dieFence d) s = execDieFence d s := rfl
theorem exec_dieAbort_eq : exec (.dieAbort d) s = execDieAbort d s := rfl
theorem exec_dieAbortDone_eq : exec (.dieAbortDone d) s = execDieAbortDone d s := rfl
theorem exec_nodeLeaving_eq : exec .nodeLeaving s = execNodeLeaving s := rfl
theorem exec_mpAllLost_eq : exec .mpAllLost s = execMpAllLost s := rfl
theorem exec_orphanReset_eq : exec .orphanReset s = execOrphanReset s := rfl
theorem exec_ckptCut_eq : exec (.ckptCut n) s = execCkptCut n s := rfl
theorem exec_cutDrainTimeout_eq : exec .cutDrainTimeout s = execCutDrainTimeout s := rfl
theorem exec_cutDrained_eq : exec .cutDrained s = execCutDrained s := rfl
theorem exec_cutScanDone_eq : exec .cutScanDone s = execCutScanDone s := rfl
theorem exec_cutChunkCopied_eq : exec (.cutChunkCopied n) s = execCutChunkCopied n s := rfl
theorem exec_cutRemoteDone_eq : exec .cutRemoteDone s = execCutRemoteDone s := rfl
theorem exec_ckptRestoreLocal_eq : exec .ckptRestoreLocal s = execCkptRestoreLocal s := rfl
theorem exec_ckptRestoreBuddy_eq (h : List Byte) (c : List (Nat × Byte)) (p : List Nat) :
    exec (.ckptRestoreBuddy h c p) s = execCkptRestoreBuddy h c p s := rfl
theorem exec_restoreDone_eq : exec .restoreDone s = execRestoreDone s := rfl

end meanings

/-- Where each element passes a test that rules another out, none passes the other. -/
theorem not_any_of_all {α : Type} {l : List α} {p r : α → Bool} (h : l.all p = true) (hpr : ∀ x, p x = true → r x = false) :
    ¬ l.any r = true := by
  intro hany
  obtain ⟨x, hx, hr⟩ := List.any_eq_true.1 hany
  rw [hpr x (List.all_eq_true.1 h x hx)] at hr
  exact Bool.false_ne_true hr

/-! ### The error log's read index (R423) -/

theorem wrap_lt (n : Nat) (i : Int) : wrap n i < 2 ^ n := by
  have h := Int.emod_lt_of_pos i (by positivity : (0 : Int) < 2 ^ n)
  have hnonneg := Int.emod_nonneg i (by positivity : (2 ^ n : Int) ≠ 0)
  rw [wrap]
  zify
  rw [Int.toNat_of_nonneg hnonneg]
  exact_mod_cast h

/-- R423: the index read back is the one written, clamped to the records that the log can hold. -/
theorem errHead_errHeadWrite (s : Node) (b : Nat) {v : Nat} (hv : v < 2 ^ 32) :
    let tail := fGet s (bLoc .errTail b) fErrTailIndex
    let back := signed 32 (wrap 32 ((tail : Int) - (v : Int)))
    fGet (errHeadWrite s b v) (bLoc .errHead b) fErrHeadIndex =
      if back < 0 then tail else if back ≤ 4096 then v else wrap 32 ((tail : Int) - 4096) := by
  intro tail back
  have htail : tail < 2 ^ 32 := bits_lt _ fErrTailIndex.hi fErrTailIndex.lo
  refine (fGet_fSet_self _ _ _ _ (by decide)).trans (Nat.mod_eq_of_lt ?_)
  change (if back < 0 then tail else if back ≤ 4096 then v else wrap 32 ((tail : Int) - 4096)) < 2 ^ 32
  split
  · exact htail
  · split
    · exact hv
    · exact wrap_lt 32 _

/-! ### Fences asked for (R406) -/

/-- R406, trigger 5: a write of FENCE asks for each die that is named and not fenced, in order. -/
theorem foldl_askFence (v : Word) (l : List Nat) (s : Node) :
    l.foldl (fun s d => if wbit v d then askFence s d 5 else s) s =
      { s with fenceReqs := s.fenceReqs ++ ((l.filter fun d => wbit v d && !isFenced s d).map fun d => (d, 5)) } := by
  induction l generalizing s with
  | nil => simp
  | cons d l ih =>
    rw [List.foldl_cons, ih, List.filter_cons]
    by_cases hv : wbit v d = true
    · by_cases hf : isFenced s d = true
      · simp [askFence, hv, hf]
      · have hsame (k : Nat) : isFenced { s with fenceReqs := s.fenceReqs ++ [(d, 5)] } k = isFenced s k := rfl
        simp [askFence, hv, hf, hsame]
    · simp [hv]

/-! ### Restores (R419) -/

/-- R419: an idle node takes a slot that is not at fault. -/
theorem startRestore_of_sound {s : Node} {h : List Byte} {poisoned : Bool} (hphase : ckptPhase s = 0)
    (hfault : restoreFault s h poisoned = none) (byteAt : Nat → Byte) (bad : Nat → Bool) :
    startRestore s h poisoned byteAt bad = setPhase (modCkpt (restoreLines s h byteAt bad) fun c =>
      { c with restore := (List.range 256).map fun q => descField h (1088 + 8 * q) 6 }) 4 := by
  unfold startRestore
  rw [if_neg (not_not.2 hphase), hfault]

/-- Settles O49, row by row. -/
theorem recoveryCommandsComplete : Obligations.RecoveryCommandsComplete := by
  refine ⟨?_, ?_⟩
  · intro q s d v hd
    have hdie {t u : Node} (h : t = u) : onDie d t = .next u := onDie_eq_next.2 ⟨hd, h⟩
    refine ⟨?_, ?_, ?_, ?_, ?_⟩
    · intro b hb
      refine ⟨withResp (errHeadWrite s b (wbits v 31 0)) .done, ?_, rfl, ?_⟩
      · rw [exec_errHeadWrite_eq]
        exact onNode_of_next (onBase_eq_next.2 ⟨hb, rfl⟩)
      · exact (fGet_withResp ..).trans (errHead_errHeadWrite s b (bits_lt _ 31 0))
    · refine ⟨withResp (fenceWrite s v) .done, ?_, ?_, ?_⟩
      · rw [exec_fenceWrite_eq]
        exact onNode_of_next rfl
      · rw [fenceWrite, foldl_askFence]
        rfl
      · rw [fenceWrite, foldl_askFence]
        rfl
    · intro hfree
      refine ⟨?_, ?_, ?_⟩
      · rw [exec_heartbeatMissed_eq]
        exact onNode_of_next (hdie (if_neg (by simp [hfree])))
      · intro t ts hreqs
        rw [exec_dieFence_eq]
        refine onNode_of_next (hdie ?_)
        rw [hreqs]
        exact if_neg (by simp [hfree])
      · intro hidle
        rw [exec_dieAbort_eq]
        exact onNode_of_next (hdie (congrArg (withResp · .done) (if_neg (by simp [hfree, hidle]))))
    · intro habort hclear
      rw [exec_dieAbortDone_eq]
      refine onNode_of_next (hdie (if_neg ?_))
      rw [habort, Bool.not_true, Bool.false_or]
      exact not_any_of_all hclear fun i hi => (Bool.not_eq_true' _) ▸ hi
    · intro hruns
      refine ⟨?_, ?_, ?_⟩
      · intro hdue
        rw [exec_nodeLeaving_eq]
        exact onNode_of_next (congrArg Host.Outcome.next (if_neg (by simp [hdue, hruns])))
      · intro halone
        rw [exec_mpAllLost_eq]
        exact onNode_of_next (congrArg Host.Outcome.next (if_neg (by simp [halone, hruns])))
      · intro hsession hdead hover
        rw [exec_orphanReset_eq]
        refine onNode_of_next (congrArg Host.Outcome.next (if_neg ?_))
        rw [hsession, hruns, decide_eq_true hover]
        exact not_any_of_all hdead fun k hk => (Bool.not_eq_true' _) ▸ hk
  · intro q s
    refine ⟨?_, ?_, ?_, ?_, ?_, ?_, ?_, ?_⟩
    · intro cut hheld
      rw [exec_ckptCut_eq]
      exact onServed_withResp rfl hheld
    · intro hphase
      refine ⟨?_, ?_⟩
      · intro t hlate hheld
        rw [exec_cutDrainTimeout_eq]
        exact onServed_not_held (congrArg Host.Outcome.next (if_pos ⟨hphase, hlate⟩)) hheld
      · intro t hidle hheld
        rw [exec_cutDrained_eq]
        exact onServed_not_held (congrArg Host.Outcome.next (if_pos ⟨hphase, hidle⟩)) hheld
    · intro chunks mine hphase hquiet hchunks lines t hheld
      rw [exec_cutScanDone_eq]
      refine onServed_not_held (congrArg Host.Outcome.next ((if_neg ?_).trans (if_neg hchunks))) hheld
      refine not_or.2 ⟨not_not.2 hphase, not_any_of_all hquiet fun b hb => ?_⟩
      exact Bool.eq_false_iff.2 (not_any_of_all hb fun t ht => (Bool.not_eq_true' _) ▸ ht)
    · intro chunk hpending hawaited
      have hgoes : ¬ (!s.cutChunks.contains chunk || s.cutChunks.any (chunkAwaited s) && !chunkAwaited s chunk) = true := by
        rw [hpending, hawaited]
        simp
      rw [exec_cutChunkCopied_eq, execCutChunkCopied, onServed, onNode]
      dsimp only
      rw [if_neg hgoes]
    · intro hsending hfailed hacked s1 t hheld
      rw [exec_cutRemoteDone_eq]
      refine onServed_not_held (congrArg Host.Outcome.next ((if_neg ?_).trans (if_neg (by simp [hfailed])))) hheld
      simp [hsending, hacked]
    · intro hheld
      rw [exec_ckptRestoreLocal_eq]
      exact onServed_withResp rfl hheld
    · intro h c p mine u t hmine hended hgood hphase hfault hheld
      rw [exec_ckptRestoreBuddy_eq]
      refine onServed_not_held (congrArg Host.Outcome.next ?_) hheld
      rw [if_neg, if_neg]
      · exact startRestore_of_sound (s := u) hphase hfault _ _
      · exact not_any_of_all hgood fun r hr => by
          cases hres : r.result with
          | none => rfl
          | some x => simpa [hres, or_iff_not_imp_left] using hr
      · exact not_or.2 ⟨hmine, not_any_of_all hended fun r hr => by simpa using hr⟩
    · intro hphase
      rw [exec_restoreDone_eq]
      exact onNode_of_next (congrArg Host.Outcome.next (if_neg (not_not.2 hphase)))

end Sys2Proof.Machine
end

section
/-! Statements of 18_fabric_time.md: synchronisation, the pulse per second, holdover; timed events. -/

namespace Sys2Proof.Machine

/-! ### The meanings of the commands of fabric time -/

section meanings
variable (p e w : Nat) (v : Word) (s : State)

theorem exec_ptpSyncReceive_eq (m : SyncMsg) : exec (.ptpSyncReceive p m) s = execPtpSyncReceive p m s := rfl
theorem exec_ptpPdelay_eq (request : Bool) : exec (.ptpPdelay p request) s = execPtpPdelay p request s := rfl
theorem exec_ptpAnnounce_eq (data : List Nat) : exec (.ptpAnnounce p data) s = execPtpAnnounce p data s := rfl
theorem exec_ppsInEdge_eq : exec .ppsInEdge s = execPpsInEdge s := rfl
theorem exec_ppsMissing_eq : exec .ppsMissing s = execPpsMissing s := rfl
theorem exec_ppsOutPulse_eq : exec .ppsOutPulse s = execPpsOutPulse s := rfl
theorem exec_timeHoldover_eq (pps : Bool) : exec (.timeHoldover pps) s = execTimeHoldover pps s := rfl
theorem exec_ppsHoldExpiry_eq : exec .ppsHoldExpiry s = execPpsHoldExpiry s := rfl
theorem exec_teEntryWrite_eq : exec (.teEntryWrite e w v) s = execTeEntryWrite e w v s := rfl
theorem exec_teLatch_eq : exec (.teLatch e) s = execTeLatch e s := rfl
theorem exec_teCut_eq : exec (.teCut e) s = execTeCut e s := rfl
theorem exec_teHold_eq : exec (.teHold e) s = execTeHold e s := rfl
theorem exec_teSignal_eq : exec (.teSignal e) s = execTeSignal e s := rfl
theorem exec_teArm_eq : exec (.teArm e) s = execTeArm e s := rfl
theorem exec_teLouvre_eq : exec (.teLouvre e) s = execTeLouvre e s := rfl

end meanings

/-- A command of a port whose link is up (R304). -/
theorem onNode_of_link {q : List Instr} {s : Node} {p : Nat} (hp : p < 20) (hlink : portLink s p = true) (f : Node → Node) :
    onNode ⟨q, s⟩ (fun s => onPort p (if !portLink s p then s else f s)) = .next ⟨q, f s⟩ :=
  onNode_of_next (onPort_eq_next.2 ⟨hp, if_neg (by simp [hlink])⟩)

/-! ### Synchronisation (R428 to R433) -/

section sync
variable {s : Node} {p : Nat}

/-- R426: what Sync of the slave port gives where PPS gives no phase. -/
theorem syncGives_of_slave (hslave : ptpState s p = ptpSlave) (hpps : ppsEn s = false) (off : Int) :
    syncGives s p off = discipline (modTime (measured s off) fun t => { t with ptpHold := false }) off := by
  unfold syncGives
  dsimp only
  rw [if_neg (not_not.2 hslave), if_neg (by simp [hpps])]

/-- R428: Sync of the slave port ends its silence. -/
theorem syncSeen_of_slave (hslave : ptpState s p = ptpSlave) :
    syncSeen s p = modTime (ftCountAt (stampPort s p) (p / 5) 0) fun t => { t with syncAt := some s.now } :=
  if_pos hslave

end sync

/-- R431: an edge that lies half a second back or more is no recent one. -/
theorem lastEdge_past {now : Nat} {o : Option Int} (h : o.all (fun t => decide (500000000 ≤ timeBack now t)) = true) :
    o.any (fun t => decide (timeBack now t < 500000000)) = false := by
  cases o with
  | none => rfl
  | some t => simpa using h

/-! ### The argument of a timed event (R434) -/

section events
variable {s : Node} {e : Nat}

theorem regKey_teLoc (w : Nat) : regKey (teLoc e w) = 12 * 2 ^ 28 + (0x60 + 0) * 2 ^ 20 + 0x1000 + (e * 0x20 + (w * 8 + 0)) := rfl

theorem homeFree_teLoc (he : e < 64) : homeFree (teLoc e 2) := by
  have hblock : regKey (teLoc e 2) / 2 ^ 20 % 2 ^ 8 = 0x60 := by
    rw [regKey_teLoc]
    omega
  rw [homeFree, hblock]
  decide

theorem teArg_regSet {l : RegLoc} (h : regKey l ≠ regKey (teLoc e 2)) (s : Node) (w : Word) :
    teArg (regSet s l w) e = teArg s e := by
  rw [teArg, regGet_regSet_ne h, teArg]

theorem teArg_ftCount (he : e < 64) {j : Nat} (hj : j < 5) (s : Node) : teArg (ftCount s j) e = teArg s e := by
  refine view_foldl (v := (teArg · e)) (fun s b => teArg_regSet ?_ ..) _ s
  have hkey : regKey (bLoc .ftCounters b [j]) = (12 + b) * 2 ^ 28 + (0x60 + 0) * 2 ^ 20 + 0x100 + (j * 8 + 0) := rfl
  rw [hkey, regKey_teLoc]
  omega

/-- R435: the firing of an entry leaves its argument. -/
theorem teArg_teFire (he : e < 64) (s : Node) : teArg (teFire s e) e = teArg s e := by
  have hword {w : Nat} (hw : w < 2) : regKey (teLoc e w) ≠ regKey (teLoc e 2) := by
    rw [regKey_teLoc, regKey_teLoc]
    omega
  have hfired : regKey (bLoc .teFired 0 [e]) ≠ regKey (teLoc e 2) := by
    have hkey : regKey (bLoc .teFired 0 [e]) = 12 * 2 ^ 28 + (0x60 + 0) * 2 ^ 20 + 0x1018 + (e * 0x20 + 0) := rfl
    rw [hkey, regKey_teLoc]
    omega
  unfold teFire
  dsimp only
  generalize hs1 : ftCount (regSet s (bLoc .teFired 0 [e]) (BitVec.ofNat 64 s.now)) 3 = s1
  have h1 : teArg s1 e = teArg s e := by
    rw [← hs1, teArg_ftCount he (by decide), teArg_regSet hfired]
  generalize hs2 : (if s.now - teTime s e > dictNat s 0x5000 7 then
    logErr (ftCount s1 4) 12 0x60 0x0A42 0 [(1, e), (8, s.now - teTime s e)] else s1) = s2
  have h2 : teArg s2 e = teArg s e := by
    rw [← hs2]
    refine view_ite (teArg · e) ?_ h1
    rw [teArg, regGet_logErr (homeFree_teLoc he)]
    exact (teArg_ftCount he (by decide) s1).trans h1
  exact view_ite (teArg · e) ((teArg_regSet (hword (by decide)) ..).trans h2) ((teArg_regSet (hword (by decide)) ..).trans h2)

/-- HOLD of the slices leaves it too, whatever is launched. -/
theorem teHoldAct_eq (he : e < 64) (s : Node) :
    teHoldAct s e = (List.range 4).foldl (fun t b => setShgHold t b (bit (teArg s e) 0)) s := by
  have hkeep (l : List Nat) (t : Node) (ht : teArg t e = teArg s e) :
      l.foldl (fun t b => setShgHold t b (bit (teArg t e) 0)) t = l.foldl (fun t b => setShgHold t b (bit (teArg s e) 0)) t := by
    induction l generalizing t with
    | nil => rfl
    | cons b l ih =>
      rw [List.foldl_cons, List.foldl_cons, ht]
      refine ih _ ?_
      rw [teArg, regGet_setShgHold (homeFree_teLoc he)]
      exact ht
  exact hkeep _ s rfl

/-- R435: an entry that fires performs its action. -/
theorem teRun_of_fires {kind : Nat} (he : e < 64) (hfires : teFires s e kind = true) (act : Node → Node) :
    teRun s e kind act = .next (act (teFire s e)) :=
  onUnit_eq_next.2 ⟨he, if_pos hfires⟩

/-- R436: a store that no due entry precedes is applied at once. -/
theorem teWrite_of_quiet {w : Nat} {v : Word} (hw : w < 3) (h : teDue s e = false ∨ (w = 1 ∧ wbit (teWord1 v) 63 = false)) :
    teWrite s e w v = modTime (teStore s e w v) fun x => { x with stored := tblSet 0 x.stored e s.now } := by
  have hquiet : ¬ (teDue s e && !(w == 1 && !wbit (teWord1 v) 63)) = true := by
    rcases h with hdue | ⟨hw1, hclear⟩
    · simp [hdue]
    · simp [hw1, hclear]
  unfold teWrite
  dsimp only
  rw [if_neg hquiet, if_pos hw]

theorem dirs_teStore (w : Nat) (v : Word) : (teStore s e w v).dirs = s.dirs :=
  view_ite (·.dirs) rfl (view_ite (·.dirs) rfl rfl)

end events

/-- Settles O50, row by row. -/
theorem timeCommandsComplete : Obligations.TimeCommandsComplete := by
  refine ⟨?_, ?_⟩
  · intro q s p hp
    refine ⟨?_, ?_, ?_, ?_, ?_, ?_⟩
    · intro hlink
      refine ⟨?_, ?_, ?_, ?_⟩
      · intro hslave seen gives
        have hseen : ptpState seen p = ptpSlave := hslave
        refine ⟨?_, ?_, ?_⟩
        · intro hpps off
          rw [exec_ptpSyncReceive_eq, execPtpSyncReceive, onNode_of_link hp hlink]
          dsimp only
          rw [syncSeen_of_slave hslave, syncGives_of_slave hseen hpps]
        · intro k
          rw [exec_ptpSyncReceive_eq, execPtpSyncReceive, onNode_of_link hp hlink]
          dsimp only
          rw [syncSeen_of_slave hslave]
        · intro k off hpps hk
          rw [exec_ptpSyncReceive_eq, execPtpSyncReceive, onNode_of_link hp hlink]
          dsimp only
          have hstill : ptpState (modTime s fun t => { t with twoStep := tblSet none t.twoStep p none }) p = ptpSlave := hslave
          rw [if_pos hk, syncGives_of_slave hstill hpps]
      · rw [exec_ptpPdelay_eq, execPtpPdelay, onNode_of_link hp hlink]
        rfl
      · rw [exec_ptpPdelay_eq, execPtpPdelay, onNode_of_link hp hlink]
        rfl
      · intro data
        rw [exec_ptpAnnounce_eq, execPtpAnnounce, onNode_of_link hp hlink]
    · intro hpps hfar
      rw [exec_ppsInEdge_eq]
      refine onNode_of_next (congrArg Host.Outcome.next ((if_neg (by simp [hpps])).trans (if_neg ?_)))
      rw [lastEdge_past hfar]
      decide
    · intro hpps hstate hlate
      rw [exec_ppsMissing_eq]
      exact onNode_of_next (congrArg Host.Outcome.next (if_pos (by simp [hpps, hstate, hlate])))
    · intro hen hq hsec hnew hfar
      rw [exec_ppsOutPulse_eq]
      refine onNode_of_next (congrArg Host.Outcome.next (if_neg ?_))
      rw [lastEdge_past hfar]
      simp [hen, hq, hsec, hnew]
    · intro hq
      refine ⟨?_, ?_⟩
      · intro hlost hother
        rw [exec_timeHoldover_eq]
        exact onNode_of_next (congrArg Host.Outcome.next (if_neg (by simp [hq, hlost, hother])))
      · intro hpps hstate halone
        rw [exec_timeHoldover_eq]
        exact onNode_of_next (congrArg Host.Outcome.next (if_neg (by simp [hq, hpps, hstate, halone])))
    · intro hpps hptp hq hslave hsync hlate
      rw [exec_ppsHoldExpiry_eq]
      have hany : anyBelow 20 (fun p => ptpState s p == ptpSlave) = true :=
        List.any_eq_true.2 ⟨p, List.mem_range.2 hp, by simp [hslave]⟩
      refine onNode_of_next (congrArg Host.Outcome.next (if_neg ?_))
      simp [hpps, hptp, hq, hlate, hsync, hany]
  · intro q s e he
    refine ⟨?_, ?_, ?_, ?_, ?_, ?_, ?_, ?_⟩
    · intro w v hw hquiet
      rw [exec_teEntryWrite_eq]
      refine onServed_of_next (onUnit_eq_next.2 ⟨he, (if_pos (by omega)).trans
        (congrArg (withResp · .done) (teWrite_of_quiet hw hquiet))⟩) (served_of_dirs (dirs_teStore w v))
    · intro w v hw hheld
      rw [exec_teEntryWrite_eq]
      exact onServed_withResp (onUnit_eq_next.2 ⟨he, if_pos hw⟩) hheld
    · intro hfires
      rw [exec_teLatch_eq]
      refine onNode_of_next ((teRun_of_fires he hfires _).trans (congrArg Host.Outcome.next ?_))
      rw [teLatchAct, teArg_teFire he]
    · intro n u t hfires hheld
      rw [exec_teCut_eq]
      refine onServed_not_held ((teRun_of_fires he hfires _).trans (congrArg Host.Outcome.next ?_)) hheld
      rw [teCutAct, teArg_teFire he]
      refine congrArg (startCut · n) ?_
      by_cases hperiod : tePeriod s e = 0
      · rw [if_neg (by simp [hperiod]), if_pos hperiod]
      · rw [if_pos (by simp [hperiod]), if_neg hperiod]
    · intro t hfires hheld
      rw [exec_teHold_eq]
      exact onServed_not_held ((teRun_of_fires he hfires _).trans (congrArg Host.Outcome.next (teHoldAct_eq he _))) hheld
    · intro hfires
      rw [exec_teSignal_eq]
      refine onNode_of_next ((teRun_of_fires he hfires _).trans (congrArg Host.Outcome.next ?_))
      rw [teSignalAct, teArg_teFire he]
    · intro hfires
      rw [exec_teArm_eq]
      refine onNode_of_next ((teRun_of_fires he hfires _).trans (congrArg Host.Outcome.next ?_))
      simp only [teArmAct, teArg_teFire he]
    · intro hfires
      rw [exec_teLouvre_eq]
      refine onNode_of_next ((teRun_of_fires he hfires _).trans (congrArg Host.Outcome.next ?_))
      rw [teLouvreAct, teArg_teFire he]

end Sys2Proof.Machine
end

section
/-! Statements of 18_fabric_time.md (R425): the passing of a cycle, and where every reset starts the counter. -/

namespace Sys2Proof.Machine

/-! ### What a cycle moves besides the counter -/

/-- What the clock's own step is about: memory and its marks, the life-cycle state, the counter, its fraction and the
remainder of its rate. -/
def clockView (s : Node) : Tbl Byte × List Nat × Life × Nat × Nat × Nat :=
  (s.mem, s.poison, s.ctl.life, s.now, s.ctl.time.frac, s.ctl.time.left)

section cycle
variable (s : Node)

theorem clockView_cntAdd (l : RegLoc) (n : Nat) : clockView (cntAdd s l n) = clockView s := rfl
theorem clockView_fSet (l : RegLoc) (f : Fld) (v : Nat) : clockView (fSet s l f v) = clockView s := rfl

theorem clockView_countSat (p : Nat) : clockView (countSat s p) = clockView s := view_ite clockView rfl rfl
theorem clockView_countFull (b : Nat) : clockView (countFull s b) = clockView s := view_ite clockView rfl rfl
theorem clockView_countCast (b : Nat) : clockView (countCast s b) = clockView s := view_ite clockView rfl rfl
theorem clockView_pauseEnds (p : Nat) : clockView (pauseEnds s p) = clockView s := view_ite clockView rfl rfl
theorem clockView_rampDie (d : Nat) : clockView (rampDie s d) = clockView s := view_ite clockView rfl rfl
theorem clockView_pulseFalls : clockView (pulseFalls s) = clockView s := view_ite clockView rfl rfl
theorem clockView_formEstimates : clockView (formEstimates s) = clockView s := by
  unfold formEstimates
  exact clockView_fSet ..

theorem clockView_drainClass (p tc : Nat) : clockView (drainClass s p tc) = clockView s :=
  view_ite clockView rfl (view_ite clockView rfl rfl)

theorem clockView_tickQueues : clockView (tickQueues s) = clockView s :=
  view_ite clockView rfl (view_foldl (v := clockView) (fun s k => clockView_drainClass s (k / 8) (k % 8)) _ s)

theorem clockView_gableCycles (g n : Nat) : clockView (gableCycles s g n) = clockView s := by
  unfold gableCycles
  dsimp only
  generalize hs2 : List.foldl _ _ [0, 1] = s2
  have h2 : clockView s2 = clockView s := by
    rw [← hs2]
    refine Eq.trans (view_foldl (v := clockView) (fun s c => ?_) _ _) (view_ite clockView rfl rfl)
    exact view_ite clockView rfl rfl
  exact view_ite clockView (view_ite clockView h2 h2) h2

theorem clockView_tickAclk (d : Nat) : clockView (tickAclk s d) = clockView s := by
  refine view_ite clockView rfl ?_
  dsimp only
  generalize hs2 : List.foldl _ _ (List.filter _ _) = s2
  have h2 : clockView s2 = clockView s := by
    rw [← hs2]
    exact Eq.trans (view_foldl (v := clockView) (fun s g => clockView_gableCycles s g _) _ _) rfl
  have h3 (c : Prop) [Decidable c] (l : RegLoc) (n : Nat) : clockView (if c then cntAdd s2 l n else s2) = clockView s :=
    view_ite clockView h2 h2
  exact view_ite clockView (h3 ..) (h3 ..)

theorem clockView_runBmca : clockView (runBmca s) = clockView s := by
  unfold runBmca
  exact clockView_fSet ..

theorem clockView_agePtp : clockView (agePtp s) = clockView s := by
  unfold agePtp
  split
  · rfl
  · rw [clockView_runBmca]
    exact view_foldl (v := clockView) (f := agePort) (fun _ _ => rfl) _ s

theorem clockView_tickMicro (s0 : Node) : clockView (tickMicro s0 s) = clockView s := by
  unfold tickMicro
  split
  · rfl
  · rw [clockView_agePtp, clockView_formEstimates]

theorem clockView_noteSessions (t : Nat) :
    (noteSessions s t).mem = s.mem ∧ (noteSessions s t).poison = s.poison ∧ (noteSessions s t).ctl.life = s.ctl.life ∧
      (noteSessions s t).ctl.time = s.ctl.time := by
  unfold noteSessions
  dsimp only
  split
  · exact ⟨rfl, rfl, rfl, rfl⟩
  · exact ⟨rfl, rfl, rfl, rfl⟩

/-- Besides its counter a cycle leaves what the clock's step is about. -/
theorem clockView_tick (hruns : nodeRuns s = true) : clockView (tick s) = clockView (tickTime s) := by
  refine (congrArg clockView (if_neg (by simp [hruns]))).trans ?_
  dsimp only
  rw [clockView_tickMicro, clockView_pulseFalls, view_foldl (v := clockView) clockView_countCast,
    view_foldl (v := clockView) fun s d => (clockView_rampDie _ d).trans (clockView_tickAclk s d),
    view_foldl (v := clockView) fun s p => view_ite clockView rfl (clockView_pauseEnds s p),
    view_foldl (v := clockView) clockView_countFull, view_foldl (v := clockView) clockView_countSat, clockView_tickQueues]

end cycle

/-! ### The counter (R425) -/

/-- The carries of the counter's three parts are those of one number. -/
theorem carry_eq_mod {w now frac total : Nat} (hw : 0 < w) :
    ((now + (frac + total / w) / 2 ^ 16) % 2 ^ 64 * 2 ^ 16 + (frac + total / w) % 2 ^ 16) * w + total % w =
      ((now * 2 ^ 16 + frac) * w + total) % (2 ^ 80 * w) := by
  have hlow : ((now * 2 ^ 16 + frac) * w + total) % w = total % w := by
    rw [add_comm, Nat.add_mul_mod_self_right]
  have hhigh : ((now * 2 ^ 16 + frac) * w + total) / w = now * 2 ^ 16 + (frac + total / w) := by
    rw [add_comm, Nat.add_mul_div_right _ _ hw]
    omega
  rw [mul_comm (2 ^ 80) w, Nat.mod_mul, hlow, hhigh]
  have hcarry : (now * 2 ^ 16 + (frac + total / w)) % 2 ^ 80 =
      (now + (frac + total / w) / 2 ^ 16) % 2 ^ 64 * 2 ^ 16 + (frac + total / w) % 2 ^ 16 := by
    generalize frac + total / w = f
    omega
  rw [hcarry]
  ring

theorem timeUnits_tickTime (s : Node) : timeUnits (tickTime s) =
    (timeUnits s + halfNs * ((adjWhole : Int) + signed 32 (fGet s (bLoc .ftAdj 0) fFtAdjAdj)).toNat) % (2 ^ 80 * adjWhole) := by
  have h := carry_eq_mod (w := adjWhole) (now := s.now) (frac := s.ctl.time.frac)
    (total := s.ctl.time.left + halfNs * ((adjWhole : Int) + signed 32 (fGet s (bLoc .ftAdj 0) fFtAdjAdj)).toNat) (by decide)
  rw [← add_assoc] at h
  exact h

theorem timeUnits_eq_of_clockView {s t : Node} (h : clockView s = clockView t) : timeUnits s = timeUnits t := by
  simp only [clockView, Prod.mk.injEq] at h
  obtain ⟨-, -, -, hnow, hfrac, hleft⟩ := h
  rw [timeUnits, timeUnits, hnow, hfrac, hleft]

/-- Settles O2: only the clock's own step moves the counter, and its carries add up. -/
theorem idleStepIsOneCycle : Obligations.IdleStepIsOneCycle := by
  intro s hs
  have hstep : step s = .next { s with node := tick s.node } := by
    obtain ⟨l, n⟩ := s
    obtain rfl : l = [] := hs
    exact step_nil n
  refine ⟨tick s.node, hstep, ?_⟩
  have hstopped (h : nodeRuns s.node = false) : tick s.node = s.node := if_pos (by simp [h])
  cases hruns : nodeRuns s.node with
  | false =>
    rw [hstopped hruns]
    exact ⟨rfl, rfl, rfl, fun _ => rfl, fun h => absurd h (by decide)⟩
  | true =>
    have hview := clockView_tick s.node hruns
    have hunits := (timeUnits_eq_of_clockView hview).trans (timeUnits_tickTime s.node)
    simp only [clockView, Prod.mk.injEq] at hview
    obtain ⟨hmem, hpoison, hlife, -, -, -⟩ := hview
    obtain ⟨hmem', hpoison', hlife', -⟩ := clockView_noteSessions s.node _
    exact ⟨hmem.trans hmem', hpoison.trans hpoison', hlife.trans hlife', fun h => absurd h (by decide), fun _ => hunits⟩

/-! ### Where a reset starts the counter, and what it makes of the THERMTRIP latch (R425, R497) -/

/-- The counter, its fraction and the THERMTRIP latch. -/
def clockAndTrip (s : Node) : Nat × Nat × Bool := (s.now, s.ctl.time.frac, s.ctl.life.trip)

theorem recordFree_clockAndTrip : RecordFree clockAndTrip where
  dropped _ _ _ := rfl
  tail _ _ _ := rfl
  fenceDrops _ _ _ := rfl
  core _ _ _ := rfl
  aplic _ _ _ _ := rfl
  logs _ _ _ _ _ := rfl

section reset
variable (s : Node)

theorem clockAndTrip_dictSetNat (idx sub v : Nat) : clockAndTrip (dictSetNat s idx sub v) = clockAndTrip s := by
  unfold dictSetNat
  split <;> rfl

theorem clockAndTrip_checkCal (key : Nat) : clockAndTrip (checkCal s key) = clockAndTrip s :=
  view_ite clockAndTrip rfl ((recordFree_clockAndTrip.logErr ..).trans (clockAndTrip_dictSetNat ..))

theorem clockAndTrip_regSet (l : RegLoc) (w : Word) : clockAndTrip (regSet s l w) = clockAndTrip s := rfl
theorem clockAndTrip_fSet (l : RegLoc) (f : Fld) (v : Nat) : clockAndTrip (fSet s l f v) = clockAndTrip s := rfl
theorem clockAndTrip_haltedAtReset (c : Nat) : clockAndTrip (haltedAtReset s c) = clockAndTrip s := rfl

theorem clockAndTrip_setMapping : clockAndTrip (setMapping s) = clockAndTrip s := by
  unfold setMapping
  dsimp only
  refine Eq.trans (view_foldl (v := clockAndTrip) (fun s b => ?_) _ _) (view_ite clockAndTrip rfl (clockAndTrip_regSet ..))
  rw [clockAndTrip_fSet, clockAndTrip_fSet]

theorem clockAndTrip_mirrorStored : clockAndTrip (mirrorStored s) = clockAndTrip s := by
  unfold mirrorStored loadSigs
  dsimp only
  rw [clockAndTrip_fSet]
  refine Eq.trans (view_foldl (v := clockAndTrip) (fun s i => ?_) _ _) (clockAndTrip_fSet ..)
  rw [clockAndTrip_regSet, clockAndTrip_regSet, clockAndTrip_regSet, clockAndTrip_regSet]

theorem clockAndTrip_logBadEntries (old : Node) : clockAndTrip (logBadEntries old s) = clockAndTrip s := by
  refine view_foldl (v := clockAndTrip) (fun s b => view_foldl (v := clockAndTrip) (fun s p => ?_) _ s) _ s
  exact view_ite clockAndTrip (recordFree_clockAndTrip.logErr ..) rfl

/-- Every part of a reset but its first leaves the counter and the latch; the first starts the counter at zero, and only a
warm reset keeps the latch. -/
theorem clockAndTrip_resetNode (cause : Nat) (keep wipeLed erase : Bool) :
    clockAndTrip (resetNode s cause keep wipeLed erase) = (0, 0, keep && s.ctl.life.trip) := by
  unfold resetNode
  dsimp only
  rw [view_foldl clockAndTrip_checkCal]
  generalize hs3 : mirrorStored _ = s3
  have h3 : clockAndTrip s3 = (0, 0, keep && s.ctl.life.trip) := by
    rw [← hs3, clockAndTrip_mirrorStored, clockAndTrip_setMapping]
    refine Eq.trans (view_foldl (v := clockAndTrip) (fun s b => ?_) _ _) ?_
    · rw [clockAndTrip_fSet, clockAndTrip_fSet]
    · rw [clockAndTrip_fSet, clockAndTrip_fSet, view_foldl clockAndTrip_haltedAtReset]
      rfl
  exact view_ite clockAndTrip ((clockAndTrip_logBadEntries ..).trans h3) h3

end reset

/-- Settles O10: the power-up state has the counter at zero, and so has what any reset leaves. -/
theorem resetStartsTimeAtZero : Obligations.ResetStartsTimeAtZero := by
  refine ⟨rfl, by decide, fun n cause keep wipeLed erase => ?_⟩
  have h := clockAndTrip_resetNode n cause keep wipeLed erase
  exact ⟨congrArg Prod.fst h, congrArg (·.2.1) h⟩

end Sys2Proof.Machine
end

section
/-! Statements of 19_power_louvre.md: samples, guards, phases, points, the budget, peaks, droop, temperature, the brake. -/

namespace Sys2Proof.Machine

/-! ### The meanings of Louvre's commands -/

section meanings
variable (d k n : Nat) (v : Word) (s : State)

theorem exec_powerSample_eq (meas act : List Nat) : exec (.powerSample meas act n) s = execPowerSample meas act n s := rfl
theorem exec_packageLoop_eq (busy : List Nat) : exec (.packageLoop busy n) s = execPackageLoop busy n s := rfl
theorem exec_estimatorDiverge_eq : exec (.estimatorDiverge k) s = execEstimatorDiverge k s := rfl
theorem exec_lvClearGuard_eq : exec .lvClearGuard s = execLvClearGuard s := rfl
theorem exec_lvClearLearned_eq : exec .lvClearLearned s = execLvClearLearned s := rfl
theorem exec_phaseClassify_eq : exec (.phaseClassify k) s = execPhaseClassify k s := rfl
theorem exec_shareLearn_eq (better : Bool) : exec (.shareLearn better) s = execShareLearn better s := rfl
theorem exec_opMoveDone_eq : exec (.opMoveDone d) s = execOpMoveDone d s := rfl
theorem exec_budgetWrite_eq : exec (.budgetWrite v) s = execBudgetWrite v s := rfl
theorem exec_budgetExpired_eq : exec .budgetExpired s = execBudgetExpired s := rfl
theorem exec_currentPeak_eq (base : IccSense) : exec (.currentPeak base) s = execCurrentPeak base s := rfl
theorem exec_currentPeakRelease_eq (base : IccSense) : exec (.currentPeakRelease base) s = execCurrentPeakRelease base s := rfl
theorem exec_capBelowFloor_eq : exec .capBelowFloor s = execCapBelowFloor s := rfl
theorem exec_droopDetect_eq : exec (.droopDetect d) s = execDroopDetect d s := rfl
theorem exec_droopRelease_eq : exec (.droopRelease d) s = execDroopRelease d s := rfl
theorem exec_thermalRead_eq (failed doubled : Bool) :
    exec (.thermalRead k n failed doubled) s = execThermalRead k n failed doubled s := rfl
theorem exec_thermalFault_eq : exec (.thermalFault d) s = execThermalFault d s := rfl
theorem exec_thermtrip_eq : exec (.thermtrip k) s = execThermtrip k s := rfl
theorem exec_pwrbrkAssert_eq : exec .pwrbrkAssert s = execPwrbrkAssert s := rfl
theorem exec_pwrbrkRelease_eq : exec .pwrbrkRelease s = execPwrbrkRelease s := rfl
theorem exec_brakeStuck_eq : exec .brakeStuck s = execBrakeStuck s := rfl
theorem exec_regulatorFault_eq : exec (.regulatorFault d) s = execRegulatorFault d s := rfl

end meanings

/-- Settles O51, row by row. -/
theorem powerCommandsComplete : Obligations.PowerCommandsComplete := by
  intro q s d b v hd hb
  have hdie {t u : Node} (h : t = u) : onDie d t = .next u := onDie_eq_next.2 ⟨hd, h⟩
  have hall {f : Node → Node} {u : Node} (h : f s = u) : onNode ⟨q, s⟩ (fun s => .next (f s)) = .next ⟨q, u⟩ :=
    onNode_of_next (congrArg Host.Outcome.next h)
  refine ⟨?_, ?_, ?_, ?_, ?_, ?_, ?_, ?_, ?_, ?_, ?_, ?_, ?_, ?_, ?_, ?_, ?_, ?_, ?_, ?_, ?_, ?_⟩
  · intro meas act faults
    rw [exec_powerSample_eq]
    exact hall rfl
  · intro busy demand
    rw [exec_packageLoop_eq]
    exact hall rfl
  · intro k m e hk hguard hsuspect hm he hfar
    subst hm he
    rw [exec_estimatorDiverge_eq]
    exact onNode_unit hk (if_neg (by simp [hguard, hsuspect, hfar]))
  · rw [exec_lvClearGuard_eq]
    exact hall rfl
  · rw [exec_lvClearLearned_eq]
    exact hall rfl
  · intro key k hkey hforce hnear hdist
    rw [exec_phaseClassify_eq]
    refine hall ((if_neg (by simp [hforce])).trans ?_)
    rw [Nat.mod_eq_of_lt hkey, hnear]
    exact if_pos hdist
  · intro hlearn hactive new s1
    rw [exec_shareLearn_eq]
    exact hall (if_neg (by simp [hlearn, hactive]))
  · intro hlive p now op hp
    rw [exec_opMoveDone_eq]
    refine onNode_of_next (hdie ((if_neg (by simp [hlive])).trans ?_))
    simp only [Bool.and_eq_true, decide_eq_true_eq, Bool.not_eq_true']
    rfl
  · intro hok
    rw [exec_budgetWrite_eq]
    refine onNode_of_next (congrArg (fun r => Host.Outcome.next (withResp (budgetWrite s v) r)) (if_pos hok))
  · intro hlease
    rw [exec_budgetExpired_eq]
    exact hall (if_neg (by simp [Option.isNone_iff_eq_none, Option.isSome_iff_ne_none.1 hlease]))
  · intro amps hamps
    rw [exec_currentPeak_eq]
    have hnear : iccLimit s * 95 ≤ amps * 100 := by omega
    refine onNode_of_next (onBase_eq_next.2 ⟨hb, (if_pos (decide_eq_true hamps)).trans ?_⟩)
    rw [if_pos (by simp [hnear, hamps])]
  · intro amps hamps hpeak hlong
    rw [exec_currentPeakRelease_eq]
    exact onNode_of_next (onBase_eq_next.2 ⟨hb, if_pos (by simp [hamps, hpeak, hlong])⟩)
  · intro hnew hfloor hover
    rw [exec_capBelowFloor_eq]
    exact hall (if_neg (by simp only [hnew, hfloor, Nat.not_le.2 hover]; decide))
  · intro hlive hnew
    rw [exec_droopDetect_eq]
    exact onNode_of_next (hdie (if_neg (by simp [hlive, hnew])))
  · rw [exec_droopRelease_eq]
    exact onNode_of_next (hdie rfl)
  · intro k hottest failed doubled hlow hhigh
    rw [exec_thermalRead_eq]
    refine ⟨_, onNode_unit hhigh (congrArg settlePower ((if_neg (Nat.not_lt.2 hlow)).trans
      (congrArg (coolDram · k) (if_neg fun h => absurd h.1 (by omega))))), ?_, ?_⟩
    · exact tblGet_tblSet_self ..
    · exact tblGet_tblSet_self ..
  · intro hlive hfailed
    rw [exec_thermalFault_eq]
    exact onNode_unit (by omega) ((if_pos hd).trans (if_pos (by simp [hfailed])))
  · intro k hk hhot
    rw [exec_thermtrip_eq]
    exact onNode_unit hk (if_pos hhot)
  · rw [exec_pwrbrkAssert_eq]
    exact hall rfl
  · rw [exec_pwrbrkRelease_eq]
    exact hall rfl
  · intro hbrake hnew
    rw [exec_brakeStuck_eq]
    exact hall (if_pos (by simp [hbrake, hnew]))
  · intro hlive
    rw [exec_regulatorFault_eq]
    exact onNode_of_next (hdie (if_neg (by simp [hlive])))

end Sys2Proof.Machine
end

section
/-! Statements of 20_corud_dictionary.md: Corud's requests, the store, reports, the mailbox, the Latch, the lead. -/

namespace Sys2Proof.Machine

/-! ### The meanings of management's commands -/

section meanings
variable (b idx sub : Nat) (p : List Byte) (src : CorudSrc) (flag : Bool) (v : Word) (s : State)

theorem exec_coroudRead_eq : exec (.coroudRead src p flag) s = execCoroudRead src p flag s := rfl
theorem exec_coroudWrite_eq : exec (.coroudWrite src p flag) s = execCoroudWrite src p flag s := rfl
theorem exec_coroudSegmentTimeout_eq :
    exec (.coroudSegmentTimeout src idx sub) s = execCoroudSegmentTimeout src idx sub s := rfl
theorem exec_coroudRequestStale_eq : exec (.coroudRequestStale src p) s = execCoroudRequestStale src p s := rfl
theorem exec_configStoreWriteDone_eq : exec (.configStoreWriteDone flag) s = execConfigStoreWriteDone flag s := rfl
theorem exec_telemetryReport_eq : exec (.telemetryReport flag) s = execTelemetryReport flag s := rfl
theorem exec_userCalibrationWrite_eq : exec (.userCalibrationWrite idx sub v) s = execUserCalibrationWrite idx sub v s := rfl
theorem exec_latchCheck_eq : exec .latchCheck s = execLatchCheck s := rfl
theorem exec_latchCommitNow_eq : exec .latchCommitNow s = execLatchCommitNow s := rfl
theorem exec_latchDiscard_eq : exec .latchDiscard s = execLatchDiscard s := rfl
theorem exec_commitAtWrite_eq : exec (.commitAtWrite v) s = execCommitAtWrite v s := rfl
theorem exec_alertAckWrite_eq : exec (.alertAckWrite b) s = execAlertAckWrite b s := rfl
theorem exec_latchApply_eq : exec .latchApply s = execLatchApply s := rfl
theorem exec_mpLeadClaim_eq : exec (.mpLeadClaim b) s = execMpLeadClaim b s := rfl
theorem exec_mbReqWrite_eq : exec (.mbReqWrite b v) s = execMbReqWrite b v s := rfl
theorem exec_mbResponse_eq : exec (.mbResponse b) s = execMbResponse b s := rfl
theorem exec_netbootReport_eq : exec .netbootReport s = execNetbootReport s := rfl

end meanings

/-! ### Requests (R467, R487) -/

/-- A request that its source may send and the node answers is started, or arrives. -/
theorem corudUnit_of_answered {s : Node} {op : Nat} {src : CorudSrc} {p : List Byte} (hex : srcExists src = true)
    (hdrop : dropped p = false) (hans : (answersFor s (some src) (unitIdx p)).isSome = true) (hup : srcUp s src = true)
    (hop : unitOp p = op) (started : Bool) :
    corudUnit s op src p started = .next (if started then corudStarts s src p else corudArrives s src p) := by
  have hnone : (answersFor s (some src) (unitIdx p)).isNone = false := by
    rw [← Option.not_isSome, hans]
    rfl
  have hgo : ¬ (dropped p || unitOp p != op || (answersFor s (some src) (unitIdx p)).isNone) = true := by
    simp [hdrop, hop, hnone]
  rw [corudUnit, if_pos hex, if_neg hgo, if_pos hup]

/-! ### What reports leave unchanged (R489) -/

section reports
variable {α : Type} {v : Node → α}

/-- A view that shows neither what leaves the node nor the ports and their counters is left by a report. -/
theorem view_sendReport (hout : ∀ s o, v { s with out := o } = v s) (hport : ∀ s p f, v (modPort s p f) = v s)
    (hcnt : ∀ s l w, v (regSet s l w) = v s) (s : Node) (dest da : Nat) (u : List Byte) :
    v (sendReport s dest da u) = v s :=
  view_ite v (hout ..) (view_ite v (view_ite v rfl (view_ite v (hport ..) ((hcnt ..).trans (hout ..)))) rfl)

theorem corud_sendReport (s : Node) (dest da : Nat) (u : List Byte) :
    (sendReport s dest da u).ctl.corud = s.ctl.corud :=
  view_sendReport (v := fun s => s.ctl.corud) (fun _ _ => rfl) (fun _ _ _ => rfl) (fun _ _ _ => rfl) s dest da u

theorem reports_sendReport (s : Node) (dest da : Nat) (u : List Byte) : (sendReport s dest da u).reports = s.reports :=
  view_sendReport (v := fun s => s.reports) (fun _ _ => rfl) (fun _ _ _ => rfl) (fun _ _ _ => rfl) s dest da u

theorem corud_offerRecords (s : Node) (k : Nat) (now : ErrRec → Bool) : (offerRecords s k now).ctl.corud = s.ctl.corud :=
  view_foldl (v := fun s => s.ctl.corud) (fun s u => corud_sendReport s _ _ u) _ _

/-- Records that do not satisfy the condition still wait. -/
theorem reports_offerRecords (s : Node) (k : Nat) (now : ErrRec → Bool) :
    (offerRecords s k now).reports = s.reports.filter fun r => !now r :=
  view_foldl (v := fun s => s.reports) (fun s u => reports_sendReport s _ _ u) _ _

end reports

/-- What a period that is not behind does to the counts: every report is due. -/
theorem telemetryReport_next {q : List Instr} {s : Node} (hruns : nodeRuns s = true) (hdest : (reportDest s).1 ≠ 0) :
    ∃ n : Node, exec (.telemetryReport false) ⟨q, s⟩ = .next ⟨q, n⟩ ∧
      n.ctl.corud.beat = s.ctl.corud.beat + 1 ∧ n.ctl.corud.decim = 0 ∧ n.reports = [] := by
  have hgo : ¬ (!nodeRuns s || (reportDest s).1 == 0) = true := by simp [hruns, hdest]
  rw [exec_telemetryReport_eq, execTelemetryReport, onNode]
  dsimp only
  rw [if_neg hgo]
  generalize hs2 : List.foldl _ _ _ = s2
  have hcorud : s2.ctl.corud = { s.ctl.corud with decim := 0, beat := s.ctl.corud.beat + 1 } := by
    rw [← hs2]
    exact view_foldl (v := fun s => s.ctl.corud) (fun s u => corud_sendReport s _ _ u) _ _
  refine ⟨_, rfl, ?_, ?_, ?_⟩
  · rw [corud_offerRecords, hcorud]
  · rw [corud_offerRecords, hcorud]
  · rw [reports_offerRecords]
    simp [Nat.mod_one]

/-! ### A claim of the lead (R490) -/

/-- Corud's own state shows none of the changes a record makes. -/
theorem recordFree_corud : RecordFree fun s => s.ctl.corud where
  dropped _ _ _ := rfl
  tail _ _ _ := rfl
  fenceDrops _ _ _ := rfl
  core _ _ _ := rfl
  aplic _ _ _ _ := rfl
  logs _ _ _ _ _ := rfl

theorem block_mpStatus : regKey (bLoc .mpStatus 0) / 2 ^ 20 % 2 ^ 8 = 0x80 := block_bLoc (by decide) (by decide) 0

/-- A mailbox's status is no management processor's status. -/
theorem leadDie_mbStatus (s : Node) (b : Nat) (f : Fld) (v : Nat) : leadDie (fSet s (bLoc .mbStatus b) f v) = leadDie s := by
  refine congrArg (wbits · fMpStatusLead.hi fMpStatusLead.lo) (regGet_regSet_ne fun he => ?_)
  have hmb : regKey (bLoc .mbStatus b) % 2 ^ 20 = 0x10 := by
    simp only [regKey, bLoc, regSpec, idxOffset]
    omega
  have hmp : regKey (bLoc .mpStatus 0) % 2 ^ 20 = 0x18 := by decide
  omega

/-- Another field of the management processors' status is not the lead. -/
theorem leadDie_mpStatus {f : Fld} (h : fMpStatusLead.hi < f.lo ∨ f.hi < fMpStatusLead.lo) (s : Node) (v : Nat) :
    leadDie (fSet s (bLoc .mpStatus 0) f v) = leadDie s :=
  fGet_fSet_of_disjoint h (by decide) ..

theorem leadDie_modCorud (s : Node) (f : Corud → Corud) : leadDie (modCorud s f) = leadDie s := rfl

theorem leadDie_setQueue (s : Node) (l : List (CorudSrc × List Byte)) : leadDie (setQueue s l) = leadDie s :=
  leadDie_mpStatus (by decide) ..

/-- A follower that is alive claims the lead, and nothing in progress at the old lead stays. -/
theorem mpLeadClaim_next {q : List Instr} {s : Node} {b : Nat} (hb : b < 4) (hruns : nodeRuns s = true) (hnew : b ≠ leadDie s)
    (halive : bit (fGet s (bLoc .mpStatus 0) fMpStatusAlive) b = true) :
    ∃ n : Node, exec (.mpLeadClaim b) ⟨q, s⟩ = .next ⟨q, n⟩ ∧ leadDie n = b ∧
      n.ctl.corud.queue = [] ∧ n.ctl.corud.asm = [] ∧ n.ctl.corud.held = [] ∧ n.ctl.corud.mailbox = [] := by
  have hgo : ¬ (!nodeRuns s || b == leadDie s || !bit (fGet s (bLoc .mpStatus 0) fMpStatusAlive) b) = true := by
    simp [hruns, hnew, halive]
  rw [exec_mpLeadClaim_eq, execMpLeadClaim, onNode]
  dsimp only
  rw [if_neg hgo, onBase, if_pos hb]
  generalize hs4 : List.foldl _ _ _ = s4
  have hlead : leadDie s4 = b := by
    rw [← hs4, view_foldl (v := leadDie) fun s m => leadDie_mbStatus s m fMbStatusBusy 0, leadDie_setQueue, leadDie_modCorud,
      leadDie_mpStatus (by decide), leadDie_mpStatus (by decide)]
    exact (fGet_fSet_self _ _ _ _ (by decide)).trans (Nat.mod_eq_of_lt hb)
  have hcorud : s4.ctl.corud = { s.ctl.corud with
      queue := [], held := [], asm := [], kept := [], storing := [], mailbox := [], decim := 0 } := by
    rw [← hs4]
    exact view_foldl (v := fun s => s.ctl.corud) (f := fun s m => fSet s (bLoc .mbStatus m) fMbStatusBusy 0) (fun _ _ => rfl) _ _
  have hend : (logErr s4 (12 + b) 0x80 0x0A20 0 [(1, leadDie s), (1, b)]).ctl.corud = s4.ctl.corud :=
    recordFree_corud.logErr ..
  refine ⟨_, rfl, ?_, ?_, ?_, ?_, ?_⟩
  · exact ((recordFree_fGet (by rw [block_mpStatus]; decide) _).logErr ..).trans hlead
  all_goals rw [hend, hcorud]

/-! ### The mailbox (R492) -/

/-- A unit that lies in memory, is sound and the node answers is taken to the lead. -/
theorem mbReq_of_taken {s : Node} {b : Nat} {v : Word} {a n : Nat} {s1 : Node} {p : List Byte}
    (ha : a = wbits v 55 4 * 16) (hn : n = 16 + unitLength (readBytes (agentTouch s b clsDma a 16) a 16))
    (hs1 : s1 = agentTouch (agentTouch s b clsDma a 16) b clsDma a n) (hp : p = readBytes s1 a n)
    (hfree : fGet s (bLoc .mbStatus b) fMbStatusBusy = 0) (hhead : inHbm s a 16 = true) (hall : inHbm s a n = true)
    (hsound : firstPoison s1 a n = none) (hdrop : dropped p = false) (hop : unitOp p = 1 ∨ unitOp p = 2)
    (hans : (answersFor s (some (.mailbox b)) (unitIdx p)).isSome = true) :
    mbReq s b v = corudArrives (fSet s1 (bLoc .mbStatus b) fMbStatusBusy 1) (.mailbox b) p := by
  have hnone : (answersFor s (some (.mailbox b)) (unitIdx p)).isNone = false := by
    rw [← Option.not_isSome, hans]
    rfl
  have hkind : (unitOp p != 1 && unitOp p != 2) = false := by
    rcases hop with h | h <;> rw [h] <;> rfl
  unfold mbReq
  dsimp only
  rw [← ha, ← hn, if_neg (by rw [hfree]; decide), if_neg (by simp [hhead]), if_pos hall, ← hs1, hsound]
  dsimp only
  rw [← hp, if_neg (by rw [hall, hdrop, hkind, hnone]; decide)]

/-- Settles O52, row by row. -/
theorem managementCommandsComplete : Obligations.ManagementCommandsComplete := by
  intro q s b v hb
  have hall {f : Node → Node} {u : Node} (h : f s = u) : onNode ⟨q, s⟩ (fun s => .next (f s)) = .next ⟨q, u⟩ :=
    onNode_of_next (congrArg Host.Outcome.next h)
  refine ⟨?_, ?_, ?_, ?_, ?_, ?_, ?_, ?_, ?_, ?_, ?_, ?_, ?_, ?_, ?_, ?_⟩
  · intro src p hex hdrop hans hup
    refine ⟨fun hop => ?_, fun hop => ?_⟩
    · rw [exec_coroudRead_eq, exec_coroudRead_eq]
      exact ⟨onNode_of_next (corudUnit_of_answered hex hdrop hans hup hop true),
        onNode_of_next (corudUnit_of_answered hex hdrop hans hup hop false)⟩
    · rw [exec_coroudWrite_eq, exec_coroudWrite_eq]
      exact ⟨onNode_of_next (corudUnit_of_answered hex hdrop hans hup hop true),
        onNode_of_next (corudUnit_of_answered hex hdrop hans hup hop false)⟩
  · intro src idx sub
    exact ⟨_, exec_coroudSegmentTimeout_eq .. , rfl⟩
  · intro src p hqueued
    rw [exec_coroudRequestStale_eq]
    exact hall (if_pos hqueued)
  · intro w rest hw
    refine ⟨⟨?_, tblGet_tblSet_self ..⟩, ?_⟩
    all_goals
      rw [exec_configStoreWriteDone_eq, execConfigStoreWriteDone, onNode]
      dsimp only
      rw [hw]
      rfl
  · intro hruns hboot hdest
    refine telemetryReport_next hruns ?_
    rw [reportDest, if_neg hboot]
    exact hdest
  · intro idx sub hcal
    rw [exec_userCalibrationWrite_eq]
    refine hall ?_
    cases dictFind idx sub with
    | none => rfl
    | some e => exact if_pos hcal
  · rw [exec_latchCheck_eq]
    exact hall rfl
  · rw [exec_latchCommitNow_eq]
    exact hall rfl
  · rw [exec_latchDiscard_eq]
    exact hall rfl
  · rw [exec_commitAtWrite_eq]
    exact hall rfl
  · intro n
    rw [exec_alertAckWrite_eq]
    exact hall rfl
  · intro t ht hdue
    rw [exec_latchApply_eq, execLatchApply, onNode]
    dsimp only
    rw [ht]
    dsimp only
    rw [if_neg (Nat.not_lt.2 hdue)]
  · intro hruns hnew halive
    exact mpLeadClaim_next hb hruns hnew halive
  · intro a s0 n s1 p hfree hhead hin hsound hdrop hop hans t hheld
    rw [exec_mbReqWrite_eq]
    refine onServed_withResp (onBase_eq_next.2 ⟨hb, ?_⟩) hheld
    rw [mbReq_of_taken rfl rfl rfl rfl hfree hhead hin hsound hdrop hop hans]
  · intro u hu hin s1 t hheld
    rw [exec_mbResponse_eq]
    refine onServed_not_held (onBase_eq_next.2 ⟨hb, ?_⟩) hheld
    rw [hu]
    dsimp only
    rw [if_pos hin]
  · intro hruns hwait
    rw [exec_netbootReport_eq]
    exact hall (if_pos (by simp [hruns, hwait]))

end Sys2Proof.Machine
end

section
/-! Statements of 21_reset_boot_lifecycle.md and R536, R538: power, resets, boot, READY, the stops, the THERMTRIP latch. -/

namespace Sys2Proof.Machine

/-! ### The meanings of the life-cycle commands -/

section meanings
variable (b c n : Nat) (found : BootIn) (d : List Byte) (s : State)

theorem exec_pwrokRise_eq : exec (.pwrokRise found) s = execPwrokRise found s := rfl
theorem exec_pwrokFall_eq : exec .pwrokFall s = execPwrokFall s := rfl
theorem exec_resetNAssert_eq : exec .resetNAssert s = execResetNAssert s := rfl
theorem exec_resetNRelease_eq : exec (.resetNRelease found) s = execResetNRelease found s := rfl
theorem exec_softwareReset_eq : exec .softwareReset s = execSoftwareReset s := rfl
theorem exec_warmResetRelease_eq : exec (.warmResetRelease found) s = execWarmResetRelease found s := rfl
theorem exec_hbmTrainingDone_eq : exec .hbmTrainingDone s = execHbmTrainingDone s := rfl
theorem exec_readyRise_eq : exec .readyRise s = execReadyRise s := rfl
theorem exec_bootChunkWrite_eq : exec (.bootChunkWrite c d) s = execBootChunkWrite c d s := rfl
theorem exec_bootGoWrite_eq : exec (.bootGoWrite n) s = execBootGoWrite n s := rfl
theorem exec_railUndervoltage_eq : exec .railUndervoltage s = execRailUndervoltage s := rfl
theorem exec_corePllLockLoss_eq : exec .corePllLockLoss s = execCorePllLockLoss s := rfl
theorem exec_refclkSdsLoss_eq : exec (.refclkSdsLoss b) s = execRefclkSdsLoss b s := rfl
theorem exec_refclkSdsReturn_eq : exec (.refclkSdsReturn b) s = execRefclkSdsReturn b s := rfl
theorem exec_testModeExit_eq : exec .testModeExit s = execTestModeExit s := rfl

end meanings

/-! ### Images over the network (R505) -/

section netboot
variable {s : Node} {n : Nat}

/-- Management firmware whose chunks are all there is verified as an image from flash. -/
theorem bootGo_of_netMp (hwait : awaitsImage s = true) (hn : n ≤ 512 * 32768) (hwhole : (netImage s n).length = n)
    (hmp : (lifeOf s).boot = .netMp) : bootGo s n =
      (if imageOk s 1 (netImage s n) then startFirmware (modLife s fun x => { x with chunks := [] }) 0 true (netImage s n)
        else bootFails (modLife s fun x => { x with chunks := [] }) (imageSigned s 1 (netImage s n)), true) := by
  unfold bootGo
  dsimp only
  rw [if_neg (by simp [hwait, hn]), if_pos hmp, hwhole, beq_self_eq_true, Bool.true_and, Bool.true_and]
  split <;> rfl

/-- And so is a host boot image. -/
theorem bootGo_of_netHost (hwait : awaitsImage s = true) (hn : n ≤ 512 * 32768) (hwhole : (netImage s n).length = n)
    (hhost : (lifeOf s).boot ≠ .netMp) : bootGo s n =
      (if imageOk s 2 (netImage s n) then startHost (modLife s fun x => { x with chunks := [] }) 0 (netImage s n)
        else modLife s fun x => { x with chunks := [] }, true) := by
  unfold bootGo
  dsimp only
  rw [if_neg (by simp [hwait, hn]), if_neg hhost, hwhole, beq_self_eq_true, Bool.true_and]
  split <;> rfl

end netboot

/-- Settles O53, row by row. -/
theorem lifeCommandsComplete : Obligations.LifeCommandsComplete := by
  intro q s found
  have hall {f : Node → Node} {u : Node} (h : f s = u) : onNode ⟨q, s⟩ (fun s => .next (f s)) = .next ⟨q, u⟩ :=
    onNode_of_next (congrArg Host.Outcome.next h)
  have haccepted {f : Node → Node × Bool} {u : Node} (h : f s = (u, true)) :
      onNode ⟨q, s⟩ (fun s => accepted (f s)) = .next ⟨q, withResp u .done⟩ :=
    onNode_of_next (congrArg accepted h)
  refine ⟨?_, ?_, ?_, ?_, ?_, ?_, ?_, ?_, ?_, ?_, ?_⟩
  · intro hoff hmay
    rw [exec_pwrokRise_eq]
    exact hall ((if_neg (by simp [hoff])).trans (if_pos hmay))
  · intro hon
    rw [exec_pwrokFall_eq]
    exact hall (if_pos hon)
  · intro hhigh hon hstop htrip hboot hready
    rw [exec_resetNAssert_eq]
    refine hall ?_
    dsimp only
    rw [if_neg (by simp [hhigh, hon, hstop, htrip]), if_neg hboot, if_neg (by simp [hready])]
  · intro hlow hmay
    rw [exec_resetNRelease_eq]
    exact hall ((if_neg (by simp [hlow])).trans (if_pos hmay))
  · intro hready
    rw [exec_softwareReset_eq]
    have hready' : (s.ctl.life.readied || s.ctl.life.boot == .hold) = true := Bool.or_eq_true_iff.2 (.inl hready)
    exact hall (congrArg (withResp · .done) (if_pos hready'))
  · intro hleaving hmay
    rw [exec_warmResetRelease_eq]
    exact hall (if_pos (by simp [hleaving, hmay]))
  · intro hruns
    refine ⟨fun hboot hmp htrained => ?_, fun hboot hhost htrained hready htest => ?_⟩
    · rw [exec_hbmTrainingDone_eq]
      exact hall (if_neg (by simp [hboot, htrained, hruns, Option.isSome_iff_ne_none.1 hmp]))
    · rw [exec_readyRise_eq]
      exact hall (if_pos ⟨hboot, hhost, htrained, by simp [hready], by simp [htest], hruns⟩)
  · intro hwait
    constructor
    · intro c d hc hd
      rw [exec_bootChunkWrite_eq]
      exact haccepted (if_pos ⟨hwait, hc, hd⟩)
    · intro n hn hwhole t
      rw [exec_bootGoWrite_eq]
      exact ⟨fun hmp => haccepted (bootGo_of_netMp hwait hn hwhole hmp),
        fun hhost => haccepted (bootGo_of_netHost hwait hn hwhole hhost)⟩
  · rw [exec_railUndervoltage_eq]
    exact hall rfl
  · rw [exec_corePllLockLoss_eq]
    exact hall rfl
  · intro b hb
    rw [exec_refclkSdsLoss_eq, exec_refclkSdsReturn_eq]
    exact ⟨onNode_of_next (onBase_eq_next.2 ⟨hb, rfl⟩), onNode_of_next (onBase_eq_next.2 ⟨hb, rfl⟩)⟩

/-! ### The THERMTRIP latch (R497) -/

section trip
variable {s : Node}

theorem warmReset_of_trip (htrip : (lifeOf s).trip = true) (cause : Nat) (transition : Bool) :
    warmReset s cause transition = s := by
  have h : (s.ctl.life.stopped || s.ctl.life.trip || !s.ctl.life.pwrok || s.ctl.life.boot == .inReset) = true := by
    rw [show s.ctl.life.trip = true from htrip, Bool.or_true, Bool.true_or, Bool.true_or]
  exact if_pos h

theorem nodeRuns_of_trip (htrip : (lifeOf s).trip = true) : nodeRuns s = false := by
  unfold nodeRuns
  dsimp only
  rw [show s.ctl.life.trip = true from htrip, Bool.not_true, Bool.and_false, Bool.false_and]

end trip

/-- Settles O58: a warm reset does nothing, and a node that has tripped is not running; only the cold reset clears the latch. -/
theorem thermtripIgnoresWarm : Obligations.ThermtripIgnoresWarm := by
  intro q s htrip
  have hall {f : Node → Node} {u : Node} (h : f s = u) : onNode ⟨q, s⟩ (fun s => .next (f s)) = .next ⟨q, u⟩ :=
    onNode_of_next (congrArg Host.Outcome.next h)
  have hwarm (cause : Nat) : warmReset s cause false = s := warmReset_of_trip htrip cause false
  have hruns : nodeRuns s = false := nodeRuns_of_trip htrip
  refine ⟨?_, ?_, ?_, ?_, ?_, ?_, ?_⟩
  · rw [exec_softwareReset_eq]
    exact hall (congrArg (withResp · .done) (view_ite id (hwarm _) rfl))
  · rw [exec_testModeExit_eq]
    exact hall (congrArg (withResp · .done) (view_ite id (hwarm _) rfl))
  · rw [exec_nodeLeaving_eq]
    exact hall (if_pos (.inr (by simp [hruns])))
  · rw [exec_mpAllLost_eq]
    exact hall (if_pos (by simp [hruns]))
  · rw [exec_orphanReset_eq]
    exact hall (if_pos (by simp [hruns]))
  · rw [exec_resetNAssert_eq]
    exact hall (if_pos (by simp [htrip]))
  · intro hon
    rw [exec_pwrokFall_eq]
    refine ⟨_, hall (if_pos hon), ?_, rfl⟩
    exact congrArg (·.2.2) (clockAndTrip_resetNode (setReady s false) rstPowerOn false true false)

end Sys2Proof.Machine
end

section
/-! Statements of 21_reset_boot_lifecycle.md, R506 to R517: versions, tokens, keys, measurements, the job wipe. -/

namespace Sys2Proof.Machine

/-! ### The meanings of the security commands -/

section meanings
variable (i : Nat) (d : List Byte) (s : State)

theorem exec_svnCommit_eq : exec (.svnCommit i) s = execSvnCommit i s := rfl
theorem exec_lcsTokenWrite_eq : exec (.lcsTokenWrite d) s = execLcsTokenWrite d s := rfl
theorem exec_debugTokenWrite_eq : exec (.debugTokenWrite d) s = execDebugTokenWrite d s := rfl
theorem exec_ownerKeyWrite_eq : exec (.ownerKeyWrite d) s = execOwnerKeyWrite d s := rfl
theorem exec_revokeWrite_eq : exec (.revokeWrite i) s = execRevokeWrite i s := rfl
theorem exec_nonceWrite_eq : exec (.nonceWrite d) s = execNonceWrite d s := rfl
theorem exec_measurementExtend_eq : exec (.measurementExtend i d) s = execMeasurementExtend i d s := rfl
theorem exec_jobWipe_eq : exec .jobWipe s = execJobWipe s := rfl
theorem exec_jobWipeDone_eq : exec .jobWipeDone s = execJobWipeDone s := rfl

end meanings

/-! ### A field set on every base die -/

/-- The registers of one name on two base dies have keys of their own, unless they are node-wide. -/
theorem regKey_bLoc_ne {r : RegId} (hr : (regSpec r).nodeWide = false) {b c : Nat} (h : b ≠ c) :
    regKey (bLoc r b) ≠ regKey (bLoc r c) := by
  have hkey (x : Nat) : regKey (bLoc r x) =
      (12 + x) * 2 ^ 28 + ((regSpec r).block + 0) * 2 ^ 20 + (regSpec r).offset + idxOffset (regSpec r).dims [] := by
    simp only [regKey, bLoc, hr]
    rfl
  rw [hkey, hkey]
  omega

/-- What one round of a loop establishes and no round destroys holds after the loop. -/
theorem foldl_establishes {α : Type} {P : Node → Prop} {f : Node → α → Node} {a : α} (hset : ∀ s, P (f s a))
    (hkeep : ∀ s x, P s → P (f s x)) {l : List α} (ha : a ∈ l) (s : Node) : P (l.foldl f s) := by
  have hkeeps (l : List α) : ∀ s, P s → P (l.foldl f s) := by
    induction l with
    | nil => exact fun s hs => hs
    | cons x l ih => exact fun s hs => ih _ (hkeep s x hs)
  induction l generalizing s with
  | nil => cases ha
  | cons x l ih =>
    rcases List.mem_cons.1 ha with rfl | h
    · exact hkeeps l _ (hset s)
    · exact ih h _

/-- A field that is set on one base die after the other reads on each as it was set. -/
theorem fGet_fSet_bLoc {r : RegId} (hr : (regSpec r).nodeWide = false) {f : Fld} {v b : Nat} (hf : f.hi < 64)
    (hv : v < 2 ^ (f.hi + 1 - f.lo)) (s : Node) (c : Nat) (h : b = c ∨ fGet s (bLoc r b) f = v) :
    fGet (fSet s (bLoc r c) f v) (bLoc r b) f = v := by
  by_cases hbc : b = c
  · rw [hbc, fGet_fSet_self _ _ _ _ hf, Nat.mod_eq_of_lt hv]
  · rw [fGet_fSet_ne (regKey_bLoc_ne hr (Ne.symm hbc))]
    exact h.resolve_left hbc

/-! ### Tokens, keys and the wipe (R506 to R517) -/

section tokens
variable {s : Node} {t : List Byte}

theorem debugToken_of_may (hlen : t.length = 7267) (hkind : descField t 0 1 = 0x0D) (hmay : debugMay s (descField t 1 1) = true) :
    debugToken s t = if tokenHolds s t then (modLife (drawNonce s) fun l => { l with debugNext := true }, true)
      else refuseLife (drawNonce s) := by
  unfold debugToken
  dsimp only
  simp only [hlen, hkind, hmay, true_and]

theorem lcsToken_of_may (hlen : t.length = 7267) (hmay : transitionMay s (descField t 0 1) (descField t 1 1) = true)
    (hdest : descField t 0 1 ≠ lcsProvisioned) :
    lcsToken s t = if tokenHolds s t then (warmReset (modLife (bump (drawNonce s)) fun l =>
        { l with fuses := { l.fuses with lcs := descField t 0 1, partialWord := false } }) rstSoftware true, true)
      else refuseLife (drawNonce s) := by
  unfold lcsToken
  dsimp only
  simp only [hlen, hmay, true_and, if_neg hdest]

/-- The answer to a write that is accepted in one case and refused in the other. -/
theorem accepted_ite {c : Prop} [Decidable c] (t u : Node) :
    accepted (if c then (t, true) else refuseLife u) =
      .next (if c then withResp t .done else withResp (lifeLog u 0x0B03 []) .refused) := by
  split
  · rfl
  · rfl

/-- What a wipe does to the status of one base die. -/
def wipeStarts (s : Node) (b : Nat) : Node :=
  fSet (fSet s (bLoc .secStatus b) fSecStatusJwBusy 1) (bLoc .nmcStatus b) fNmcStatusStaleSinceDisable 0

theorem ctl_fSet (s : Node) (l : RegLoc) (f : Fld) (v : Nat) : (fSet s l f v).ctl = s.ctl := rfl

theorem ctl_wipeStarts (s : Node) (b : Nat) : (wipeStarts s b).ctl = s.ctl := by
  rw [wipeStarts, ctl_fSet, ctl_fSet]

theorem regKey_nmcStatus_ne_secStatus (b c : Nat) : regKey (bLoc .nmcStatus c) ≠ regKey (bLoc .secStatus b) := fun he => by
  have hnmc : regKey (bLoc .nmcStatus c) / 2 ^ 20 % 2 ^ 8 = 0x12 := block_bLoc (by decide) (by decide) c
  have hsec : regKey (bLoc .secStatus b) / 2 ^ 20 % 2 ^ 8 = 0x90 := block_bLoc (by decide) (by decide) b
  omega

/-- JW_BUSY rises on that base die, and stays where it has risen. -/
theorem busy_wipeStarts (s : Node) (b c : Nat) (h : b = c ∨ fGet s (bLoc .secStatus b) fSecStatusJwBusy = 1) :
    fGet (wipeStarts s c) (bLoc .secStatus b) fSecStatusJwBusy = 1 :=
  (fGet_fSet_ne (regKey_nmcStatus_ne_secStatus b c) ..).trans (fGet_fSet_bLoc rfl (by decide) (by decide) s c h)

theorem jobWipe_of_free (hjob : jobPresent s = false) (hwiping : s.ctl.life.wiping = false) :
    jobWipe s = ((List.range 4).foldl wipeStarts (modLife (wipeJob s) fun x => { x with wiping := true }), true) :=
  if_neg (by simp [hjob, hwiping])

end tokens

/-- Settles O54, row by row. -/
theorem securityCommandsComplete : Obligations.SecurityCommandsComplete := by
  intro q s
  have haccepted {f : Node → Node × Bool} {u : Node} (h : f s = (u, true)) :
      onNode ⟨q, s⟩ (fun s => accepted (f s)) = .next ⟨q, withResp u .done⟩ :=
    onNode_of_next (congrArg accepted h)
  refine ⟨?_, ?_, ?_, ?_, ?_, ?_, ?_, ?_⟩
  · intro i hi
    have hcommit : svnCommit s 1 = (modLife s fun l => { l with fuses := { (lifeOf s).fuses with
        svn := (burnUp (lifeOf s).fuses.svn.1 (fusedSvn s 1) (max (fusedSvn s 1) i.svn), (lifeOf s).fuses.svn.2) } }, true) := by
      unfold svnCommit
      dsimp only
      rw [if_pos rfl, hi]
      rfl
    rw [exec_svnCommit_eq]
    exact ⟨_, haccepted hcommit, rfl, rfl, rfl⟩
  · intro t hlen refuses
    refine ⟨fun hkind hmay => ?_, fun hmay hdest => ?_⟩
    · rw [exec_debugTokenWrite_eq]
      exact onNode_of_next ((congrArg accepted (debugToken_of_may hlen hkind hmay)).trans (accepted_ite ..))
    · rw [exec_lcsTokenWrite_eq]
      exact onNode_of_next ((congrArg accepted (lcsToken_of_may hlen hmay hdest)).trans (accepted_ite ..))
  · intro hash hlcs hlen hroom
    rw [exec_ownerKeyWrite_eq]
    exact haccepted (if_pos ⟨hlcs, hlen, hroom⟩)
  · intro v hv hmp hhost
    have hrevoke : revoke s v = (modLife s fun l => { l with fuses := if keyOwner v then
        { (lifeOf s).fuses with ownerRev := (lifeOf s).fuses.ownerRev ||| 1 <<< keySlot v } else
        { (lifeOf s).fuses with rootRev := (lifeOf s).fuses.rootRev ||| 1 <<< keySlot v } }, true) := by
      unfold revoke
      dsimp only
      rw [hmp, hhost, if_neg (by simp [hv])]
    rw [exec_revokeWrite_eq]
    refine ⟨_, haccepted hrevoke, rfl, ?_⟩
    have hbit (m : Nat) : bit (m ||| 1 <<< keySlot v) (keySlot v) = true := by
      simp [bit, Nat.testBit_shiftLeft]
    by_cases ho : keyOwner v = true
    · rw [if_pos ho]
      exact (congrArg (fun f : Fuses => bit f.ownerRev (keySlot v)) (if_pos ho)).trans (hbit _)
    · rw [if_neg ho]
      exact (congrArg (fun f : Fuses => bit f.rootRev (keySlot v)) (if_neg ho)).trans (hbit _)
  · intro nonce hlen
    rw [exec_nonceWrite_eq]
    exact haccepted (if_pos hlen)
  · intro i d hlow hhigh hlen
    rw [exec_measurementExtend_eq]
    exact haccepted (if_pos ⟨hlow, hhigh, hlen⟩)
  · intro hjob hwiping
    rw [exec_jobWipe_eq]
    refine ⟨_, haccepted (jobWipe_of_free hjob hwiping), ?_, rfl, fun b hb => ?_⟩
    · exact congrArg (·.life.wiping) (view_foldl (v := fun s => s.ctl) ctl_wipeStarts ..)
    · rw [fGet_withResp]
      exact foldl_establishes (P := fun s => fGet s (bLoc .secStatus b) fSecStatusJwBusy = 1) (f := wipeStarts)
          (fun s => busy_wipeStarts s b b (.inl rfl)) (fun s c h => busy_wipeStarts s b c (.inr h)) (List.mem_range.2 hb) _
  · intro hwiping
    rw [exec_jobWipeDone_eq]
    exact onNode_of_next (congrArg Host.Outcome.next (if_pos hwiping))

end Sys2Proof.Machine
end

section
/-! Statements of 22_test_loopbacks.md: test mode, patterns, self-tests, the TAP and debug. -/

namespace Sys2Proof.Machine

/-! ### The meanings of the test commands -/

section meanings
variable (p lane n k : Nat) (v : Word) (s : State)

theorem exec_testModeEnter_eq : exec .testModeEnter s = execTestModeEnter s := rfl
theorem exec_lbPrbsWrite_eq : exec (.lbPrbsWrite p v) s = execLbPrbsWrite p v s := rfl
theorem exec_prbsCheckerLock_eq : exec (.prbsCheckerLock p lane n) s = execPrbsCheckerLock p lane n s := rfl
theorem exec_bistSram_eq : exec (.bistSram n) s = execBistSram n s := rfl
theorem exec_bistNearMemory_eq : exec (.bistNearMemory n) s = execBistNearMemory n s := rfl
theorem exec_bistHbmMbist_eq : exec (.bistHbmMbist n) s = execBistHbmMbist n s := rfl
theorem exec_bistLogic_eq : exec (.bistLogic n) s = execBistLogic n s := rfl
theorem exec_bistHbmPhyLoopback_eq : exec (.bistHbmPhyLoopback n) s = execBistHbmPhyLoopback n s := rfl
theorem exec_bistBridgeLoopback_eq : exec (.bistBridgeLoopback n) s = execBistBridgeLoopback n s := rfl
theorem exec_bistDone_eq (fails : List (Nat × Nat × Nat)) : exec (.bistDone fails n) s = execBistDone fails n s := rfl
theorem exec_tapReset_eq : exec .tapReset s = execTapReset s := rfl
theorem exec_idcode_eq : exec .idcode s = execIdcode s := rfl
theorem exec_samplePreload_eq : exec (.samplePreload n) s = execSamplePreload n s := rfl
theorem exec_extest_eq : exec .extest s = execExtest s := rfl
theorem exec_highz_eq : exec .highz s = execHighz s := rfl
theorem exec_clamp_eq : exec .clamp s = execClamp s := rfl
theorem exec_extestPulse_eq : exec .extestPulse s = execExtestPulse s := rfl
theorem exec_extestTrain_eq : exec .extestTrain s = execExtestTrain s := rfl
theorem exec_dtmcs_eq : exec .dtmcs s = execDtmcs s := rfl
theorem exec_dmi_eq : exec (.dmi p n k) s = execDmi p n k s := rfl
theorem exec_bypass_eq : exec .bypass s = execBypass s := rfl

end meanings

/-! ### Disabling a port leaves the life of the node (R303) -/

theorem recordFree_lifeOf : RecordFree lifeOf where
  dropped _ _ _ := rfl
  tail _ _ _ := rfl
  fenceDrops _ _ _ := rfl
  core _ _ _ := rfl
  aplic _ _ _ _ := rfl
  logs _ _ _ _ _ := rfl

section life
variable (s : Node)

theorem lifeOf_fSet (l : RegLoc) (f : Fld) (v : Nat) : lifeOf (fSet s l f v) = lifeOf s := rfl

theorem lifeOf_dictSetNat (idx sub v : Nat) : lifeOf (dictSetNat s idx sub v) = lifeOf s := by
  unfold dictSetNat
  split
  · rfl
  · rfl

theorem lifeOf_sendFrame (o : Out) : lifeOf (sendFrame s o) = lifeOf s := view_ite lifeOf rfl (view_ite lifeOf rfl rfl)

theorem lifeOf_settleGroup (g k : Nat) : lifeOf (settleGroup s g k) = lifeOf s := view_ite lifeOf rfl rfl

theorem lifeOf_endRemote (r : RemoteReq) (code : Nat) (data : List Byte) : lifeOf (endRemote s r code data) = lifeOf s := by
  have hgone (scope block : Nat) (more : List (Nat × Nat)) : lifeOf (if code = 0x0603 then takeRemote s r.id else
      logRemote (takeRemote s r.id) scope block code (remotePa r) more) = lifeOf s :=
    view_ite lifeOf rfl ((recordFree_lifeOf.logErr ..).trans rfl)
  unfold endRemote
  dsimp only
  split
  · refine view_ite lifeOf (lifeOf_settleGroup ..) ((lifeOf_settleGroup ..).trans ?_)
    exact view_ite lifeOf (hgone ..) (hgone ..)
  · exact view_ite lifeOf rfl (hgone ..)
  · exact view_ite lifeOf (view_ite lifeOf rfl (hgone ..)) rfl
  · rfl

theorem lifeOf_endCmd (id status : Nat) : lifeOf (endCmd s id status) = lifeOf s := by
  unfold endCmd
  split
  · rfl
  · rfl

theorem lifeOf_failCmd (id code : Nat) : lifeOf (failCmd s id code) = lifeOf s := by
  unfold failCmd
  split
  · rfl
  split
  · rfl
  · exact view_ite lifeOf ((recordFree_lifeOf.logErr ..).trans (lifeOf_endCmd ..)) (lifeOf_endCmd ..)

theorem lifeOf_failWho (who : DzWho) (peer code : Nat) : lifeOf (failWho s who peer code) = lifeOf s := by
  unfold failWho
  split
  · unfold failOp
    split
    · exact lifeOf_endRemote ..
    · exact lifeOf_failCmd ..
  · exact view_ite lifeOf (view_ite lifeOf rfl (recordFree_lifeOf.logErr ..)) rfl
  · rfl
  · rfl

theorem lifeOf_noRoute (b dst tc seq : Nat) (own : Bool) : lifeOf (noRoute s b dst tc seq own) = lifeOf s := by
  unfold noRoute
  dsimp only
  split
  · exact lifeOf_failWho ..
  · rfl

theorem lifeOf_resprayHeld (p : Nat) : lifeOf (resprayHeld s p) = lifeOf s := by
  unfold resprayHeld
  refine (view_foldl (v := lifeOf) (fun s o => ?_) _ _).trans rfl
  dsimp only
  split
  · exact lifeOf_noRoute ..
  · exact lifeOf_sendFrame ..

theorem lifeOf_enableWrite (l : RegLoc) (en : Bool) : lifeOf (enableWrite s l en) = lifeOf s := by
  unfold enableWrite
  dsimp only
  split <;> rfl

theorem lifeOf_dropHeld (p : Nat) : lifeOf (dropHeld s p) = lifeOf s := rfl

theorem lifeOf_linkFalls (p cause : Nat) : lifeOf (linkFalls s p cause) = lifeOf s := by
  unfold linkFalls
  dsimp only
  refine view_ite lifeOf ?_ rfl
  generalize hs3 : logErr _ (12 + p / 5) 0x40 0x0520 0 _ = s3
  have h3 : lifeOf s3 = lifeOf s := by rw [← hs3, recordFree_lifeOf.logErr, lifeOf_fSet, lifeOf_fSet, lifeOf_fSet]
  generalize hs5 : signal _ (p / 5) 56 = s5
  have h5 : lifeOf s5 = lifeOf s := by
    rw [← hs5, recordFree_lifeOf.signal]
    exact view_ite lifeOf h3 ((lifeOf_resprayHeld ..).trans h3)
  exact view_ite lifeOf ((lifeOf_enableWrite ..).trans h5) h5

theorem lifeOf_modPort (p : Nat) (f : Port → Port) : lifeOf (modPort s p f) = lifeOf s := rfl

theorem lifeOf_portOff (p : Nat) : lifeOf (portOff s p) = lifeOf s := by
  unfold portOff
  dsimp only
  rw [lifeOf_modPort, lifeOf_fSet]
  exact view_ite lifeOf ((lifeOf_linkFalls ..).trans (lifeOf_dropHeld ..)) (lifeOf_dropHeld ..)

theorem lifeOf_latchMode (t : Node) (p : Nat) : lifeOf (latchMode s t p) = lifeOf t := view_ite lifeOf rfl rfl

theorem lifeOf_portEnable (p : Nat) (en : Bool) : lifeOf (portEnable s p en) = lifeOf s := by
  have hlatched : lifeOf (latchMode s (enableWrite (modPort s p fun x => { x with deferOff := false }) (portCtrlLoc p) en) p) =
      lifeOf s := (lifeOf_latchMode ..).trans (lifeOf_enableWrite ..)
  exact view_ite lifeOf rfl (view_ite lifeOf ((lifeOf_dropHeld ..).trans hlatched)
    (view_ite lifeOf ((lifeOf_portOff ..).trans hlatched) hlatched))

end life

/-! ### Test mode and self-tests (R520, R524) -/

section test
variable {s : Node}

theorem ready_setReady (v : Bool) : (lifeOf (setReady s v)).ready = v := by
  unfold setReady
  split
  · assumption
  · rfl

/-- Test mode is entered, with READY low. -/
theorem testEnter_next (htest : testMode s = false) (hjob : jobPresent s = false) :
    ∃ n : Node, testEnter s = (n, true) ∧ testMode n = true ∧ (lifeOf n).ready = false := by
  rw [testEnter, if_neg (by simp [htest]), if_neg (by simp [hjob])]
  dsimp only
  generalize hs3 : List.foldl _ _ (List.range 4) = s3
  refine ⟨_, rfl, rfl, ?_⟩
  have hlife : lifeOf s3 = lifeOf (setReady (dictSetNat s 0x9000 1 1) false) := by
    rw [← hs3]
    refine Eq.trans (view_foldl (v := lifeOf) (fun s b => ?_) _ _) (view_foldl (fun s p => lifeOf_portEnable s p false) _ _)
    rw [lifeOf_enableWrite, lifeOf_enableWrite]
  exact (congrArg (·.ready) hlife).trans (ready_setReady false)

theorem bistStart_of_free (htest : testMode s = true) (hfree : s.ctl.test.bist = none) {op : Nat} (hlow : 1 ≤ op) (hhigh : op ≤ 6)
    (target : Nat) : bistStart s op target =
      setLb (setLb (modTest s fun t => { t with bist := some (op, target % 2 ^ 17) }) fLbStatusBusy 1) fLbStatusLastOp op := by
  have hlisted : ¬ (!testMode s || op == 0 || decide (op > 6)) = true := by
    rw [htest]
    simp
    omega
  rw [bistStart, hfree, if_neg (by decide), if_neg hlisted]

/-! ### The TAP (R526, R527) -/

/-- An instruction that drives no balls is selected. -/
theorem loadIr_of_quiet {code : Nat} (h : (decide (3 ≤ code) && decide (code ≤ 7)) = false) :
    loadIr s code = modTest s fun t => { t with ir := code, loaded := code } := by
  rw [loadIr, h]
  exact if_neg (by simp)

/-- One that drives balls is selected while READY is low. -/
theorem loadIr_of_ready_low (hready : (lifeOf s).ready = false) (code : Nat) :
    loadIr s code = modTest s fun t => { t with ir := code, loaded := code } := by
  rw [loadIr, hready, Bool.and_false]
  exact if_neg (by decide)

theorem driveBalls_of_ready_low (hready : (lifeOf s).ready = false) (code : Nat) :
    driveBalls s code = sendOut (modTest s fun t => { t with ir := code, loaded := code })
      ⟨22, 0, .boundary, [code, s.ctl.test.boundary], []⟩ := by
  rw [driveBalls, loadIr_of_ready_low hready]
  exact if_pos rfl

/-- A view that shows no register shows nothing of a field of LB_STATUS. -/
theorem view_setLb {α : Type} (view : Node → α) (h : ∀ s l w, view (regSet s l w) = view s) (f : Fld) (v : Nat) :
    view (setLb s f v) = view s :=
  view_foldl (fun s b => h s (bLoc .lbStatus b) _) _ s

theorem ctl_setLb (f : Fld) (v : Nat) : (setLb s f v).ctl = s.ctl := view_setLb (·.ctl) (fun _ _ _ => rfl) f v

/-- While READY is high BYPASS is selected instead, and SCAN_REFUSED is set. -/
theorem driveBalls_of_ready_high (hready : (lifeOf s).ready = true) {code : Nat} (hlow : 3 ≤ code) (hhigh : code ≤ 7) :
    driveBalls s code = setLb (modTest s fun t => { t with ir := irBypass, loaded := code }) fLbStatusScanRefused 1 := by
  have hload : loadIr s code = setLb (modTest s fun t => { t with ir := irBypass, loaded := code }) fLbStatusScanRefused 1 := by
    rw [loadIr, hready, decide_eq_true hlow, decide_eq_true hhigh]
    exact if_pos rfl
  have hir : (setLb (modTest s fun t => { t with ir := irBypass, loaded := code }) fLbStatusScanRefused 1).ctl.test.ir = 0xFF := by
    rw [ctl_setLb]
    rfl
  rw [driveBalls, hload, hir]
  exact if_neg (by omega)

/-- A field of LB_STATUS that is set reads so on every base die. -/
theorem fGet_setLb {f : Fld} {v b : Nat} (hf : f.hi < 64) (hv : v < 2 ^ (f.hi + 1 - f.lo)) (hb : b < 4) :
    fGet (setLb s f v) (bLoc .lbStatus b) f = v :=
  foldl_establishes (P := fun s => fGet s (bLoc .lbStatus b) f = v) (f := fun s b => fSet s (bLoc .lbStatus b) f v)
    (fun s => fGet_fSet_bLoc rfl hf hv s b (.inl rfl)) (fun s c h => fGet_fSet_bLoc rfl hf hv s c (.inr h)) (List.mem_range.2 hb) s

end test

/-- Settles O55, row by row. -/
theorem testCommandsComplete : Obligations.TestCommandsComplete := by
  intro q s
  have hall {f : Node → Node} {u : Node} (h : f s = u) : onNode ⟨q, s⟩ (fun s => .next (f s)) = .next ⟨q, u⟩ :=
    onNode_of_next (congrArg Host.Outcome.next h)
  refine ⟨?_, ?_, ?_, ?_, ?_, ?_, ?_, ?_, ?_, ?_, ?_, ?_, ?_⟩
  · intro htest hjob
    obtain ⟨n, hn, hmode, hready⟩ := testEnter_next htest hjob
    rw [exec_testModeEnter_eq]
    exact ⟨_, onNode_of_next (congrArg accepted hn), hmode, hready, rfl⟩
  · intro htest
    rw [exec_testModeExit_eq]
    exact hall (congrArg (withResp · .done) (if_pos htest))
  · intro p v hp
    rw [exec_lbPrbsWrite_eq]
    exact onNode_of_next (onPort_eq_next.2 ⟨hp, rfl⟩)
  · intro p lane errors hp hlane hon hruns hlive
    have hgo : (isOn s (portCtrlLoc p) && prbsRuns s p && decide (lane < 8) && bit (portOf s p).lanes lane) = true := by
      rw [hon, hruns, hlive, decide_eq_true hlane]
      rfl
    rw [exec_prbsCheckerLock_eq]
    refine ⟨_, onNode_of_next (onPort_eq_next.2 ⟨hp, if_pos hgo⟩), ?_, ?_⟩
    · rw [fGet_fSet_of_disjoint (by decide) (by decide), fGet_fSet_self _ _ _ _ (by decide)]
      rfl
    · rw [fGet_fSet_self _ _ _ _ (by decide)]
      exact Nat.mod_eq_of_lt (Nat.lt_of_le_of_lt (Nat.min_le_left ..) (by decide))
  · intro htest hfree target starts
    have hstart {op : Nat} (hlow : 1 ≤ op) (hhigh : op ≤ 6) : onNode ⟨q, s⟩ (bistRow · op target) = .next ⟨q, starts op⟩ :=
      onNode_of_next (congrArg (fun t => Host.Outcome.next (withResp t .done)) (bistStart_of_free htest hfree hlow hhigh target))
    rw [exec_bistSram_eq, exec_bistNearMemory_eq, exec_bistHbmMbist_eq, exec_bistLogic_eq, exec_bistHbmPhyLoopback_eq,
      exec_bistBridgeLoopback_eq]
    exact ⟨hstart (by decide) (by decide), hstart (by decide) (by decide), hstart (by decide) (by decide),
      hstart (by decide) (by decide), hstart (by decide) (by decide), hstart (by decide) (by decide)⟩
  · intro op target mask fails hbist
    rw [exec_bistDone_eq, execBistDone, onNode]
    dsimp only
    rw [hbist]
  · rw [exec_tapReset_eq]
    exact hall rfl
  · rw [exec_idcode_eq]
    exact hall (congrArg (withResp · _) (loadIr_of_quiet rfl))
  · intro v
    rw [exec_samplePreload_eq]
    refine hall ?_
    rw [loadIr_of_quiet rfl]
    rfl
  · intro hready code t
    refine ⟨?_, ?_, ?_, ?_, ?_⟩
    · rintro rfl
      rw [exec_extest_eq]
      exact hall (driveBalls_of_ready_low hready 3)
    · rintro rfl
      rw [exec_highz_eq]
      exact hall (driveBalls_of_ready_low hready 4)
    · rintro rfl
      rw [exec_clamp_eq]
      exact hall (driveBalls_of_ready_low hready 5)
    · rintro rfl
      rw [exec_extestPulse_eq]
      exact hall (driveBalls_of_ready_low hready 6)
    · rintro rfl
      rw [exec_extestTrain_eq]
      exact hall (driveBalls_of_ready_low hready 7)
  · rw [exec_dtmcs_eq]
    exact hall (congrArg (withResp · _) (loadIr_of_quiet rfl))
  · intro access addr data hopen t hheld
    rw [exec_dmi_eq]
    refine onServed_not_held (congrArg Host.Outcome.next ?_) hheld
    rw [if_pos hopen, loadIr_of_quiet rfl]
  · rw [exec_bypass_eq]
    exact hall (congrArg (withResp · _) (loadIr_of_quiet rfl))

/-- Settles O59: a closed DMI answers without an access, and DTMCS.version is the low bits of what DTMCS returns. -/
theorem debugClosed : Obligations.DebugClosed := by
  intro q s hclosed
  refine ⟨fun access addr data => ?_, ?_⟩
  · rw [exec_dmi_eq]
    refine onServed_of_next (congrArg Host.Outcome.next ?_) (served_of_dirs rfl)
    rw [if_neg (by simp [hclosed]), loadIr_of_quiet rfl]
  · rw [exec_dtmcs_eq]
    refine ⟨_, _, onNode_of_next rfl, rfl, ?_⟩
    simp only [wbits, bits, BitVec.toNat_ofNat]
    omega

/-- Settles O60: each of the five instructions ends as a refused one. -/
theorem scanRefused : Obligations.ScanRefused := by
  intro q s hready c hc
  have hrefused {f : Node → Node} {code : Nat} (hf : f s = driveBalls s code) (hlow : 3 ≤ code) (hhigh : code ≤ 7) :
      ∃ n : Node, onNode ⟨q, s⟩ (fun s => .next (f s)) = .next ⟨q, n⟩ ∧ n.ctl.test.ir = irBypass ∧
        (∀ b : Nat, b < 4 → fGet n (bLoc .lbStatus b) fLbStatusScanRefused = 1) ∧
        n.out = s.out ∧ n.mem = s.mem ∧ n.ctl.life = s.ctl.life ∧ n.gables = s.gables ∧ n.dies = s.dies := by
    refine ⟨_, onNode_of_next (congrArg Host.Outcome.next (hf.trans (driveBalls_of_ready_high hready hlow hhigh))),
      ?_, fun b hb => fGet_setLb (by decide) (by decide) hb, ?_, ?_, ?_, ?_, ?_⟩
    · exact congrArg (·.test.ir) (ctl_setLb ..)
    · exact view_setLb (·.out) (fun _ _ _ => rfl) ..
    · exact view_setLb (·.mem) (fun _ _ _ => rfl) ..
    · exact congrArg (·.life) (ctl_setLb ..)
    · exact view_setLb (·.gables) (fun _ _ _ => rfl) ..
    · exact view_setLb (·.dies) (fun _ _ _ => rfl) ..
  simp only [List.mem_cons, List.not_mem_nil, or_false] at hc
  rcases hc with rfl | rfl | rfl | rfl | rfl
  · rw [exec_extest_eq]
    exact hrefused rfl (code := 3) (by decide) (by decide)
  · rw [exec_highz_eq]
    exact hrefused rfl (code := 4) (by decide) (by decide)
  · rw [exec_clamp_eq]
    exact hrefused rfl (code := 5) (by decide) (by decide)
  · rw [exec_extestPulse_eq]
    exact hrefused rfl (code := 6) (by decide) (by decide)
  · rw [exec_extestTrain_eq]
    exact hrefused rfl (code := 7) (by decide) (by decide)

end Sys2Proof.Machine
end
